-- ==== Sys2Proof/Word.lean ====
section
/-! DEFINITION. Sys2Proof/Word.lean: the word types of the EMX-K4 model (R2, R6, R29). -/

namespace Sys2Proof

/-- A byte, the smallest addressable unit of every memory of the device (R2, R129). -/
abbrev Byte := BitVec 8

/-- A 32-bit word: a register of the BAR0 map (R6), a scalar register (R60), an instruction word (R91). -/
abbrev Word := BitVec 32

/-- A 64-bit word: the ECC unit of the scratchpad (R129) and the pairs of R7. -/
abbrev DWord := BitVec 64

end Sys2Proof
end

