-- ==== Sys2Proof/Machine/Map.lean ====
section
/-! DEFINITION. Sys2Proof/Machine/Map.lean: sparse maps in one canonical form. Every large array of the device
(memories, register files, tables of objects) is a list of (key, value) pairs with strictly rising keys and no
entry equal to what an unlisted key reads as. -/

namespace Sys2Proof.Machine

/-- A sparse array: an unlisted key reads as the default that its reader names. -/
abbrev FMap (α : Type) := List (Nat × α)

/-- The value at key `k`, `d` when nothing is listed there. -/
def FMap.get {α : Type} (d : α) : FMap α → Nat → α
  | [], _ => d
  | (k', v) :: m, k => if k' = k then v else FMap.get d m k

/-- Puts (k, v) before the first larger key. -/
def FMap.insert {α : Type} (k : Nat) (v : α) : FMap α → FMap α
  | [] => [(k, v)]
  | (k', v') :: m => if k < k' then (k, v) :: (k', v') :: m else (k', v') :: FMap.insert k v m

/-- Removes every entry of key `k`. -/
def FMap.erase {α : Type} (m : FMap α) (k : Nat) : FMap α := m.filter (fun p => p.1 ≠ k)

/-- Sets key `k` to `v`; writing the default removes the entry, so that equal arrays are equal lists. -/
def FMap.set {α : Type} [DecidableEq α] (d : α) (m : FMap α) (k : Nat) (v : α) : FMap α :=
  if v = d then m.erase k else (m.erase k).insert k v

/-- Applies `f` to the value at key `k`. -/
def FMap.modify {α : Type} [DecidableEq α] (d : α) (m : FMap α) (k : Nat) (f : α → α) : FMap α :=
  m.set d k (f (m.get d k))

/-- The keys are strictly rising from `lo` on and no entry equals the default. -/
def FMap.wfFrom {α : Type} [DecidableEq α] (d : α) : Nat → FMap α → Bool
  | _, [] => true
  | lo, (k, v) :: m => decide (lo ≤ k) && decide (v ≠ d) && FMap.wfFrom d (k + 1) m

/-- The canonical form of a sparse array. -/
def FMap.wf {α : Type} [DecidableEq α] (d : α) (m : FMap α) : Bool := m.wfFrom d 0

/-- The entries with keys in [lo, lo + n), the keys rebased to 0. -/
def FMap.slice {α : Type} (m : FMap α) (lo n : Nat) : FMap α :=
  (m.filter (fun p => lo ≤ p.1 && p.1 < lo + n)).map (fun p => (p.1 - lo, p.2))

/-- Every entry with a key in [lo, lo + n) removed: the range reads as the default. -/
def FMap.clear {α : Type} (m : FMap α) (lo n : Nat) : FMap α :=
  m.filter (fun p => !(decide (lo ≤ p.1) && decide (p.1 < lo + n)))

/-- A memory: (address, byte) pairs; an unlisted address reads 0 (R139, R506, R512). -/
abbrev Memory := List Host.Cell

/-- The byte at an address. [DESIGN CHOICE: log 8] -/
def Memory.byte (m : Memory) (a : Nat) : Byte := FMap.get 0#8 m a

/-- One byte written. -/
def Memory.put (m : Memory) (a : Nat) (v : Byte) : Memory := FMap.set 0#8 m a v

/-- Memory in its canonical form. -/
def Memory.wf (m : Memory) : Bool := FMap.wf 0#8 m

/-- The `n` bytes from address `a` on. -/
def Memory.bytes (m : Memory) (a : Nat) : Nat → List Byte
  | 0 => []
  | n + 1 => m.byte a :: m.bytes (a + 1) n

/-- Bytes written from address `a` on. -/
def Memory.putBytes (m : Memory) (a : Nat) : List Byte → Memory
  | [] => m
  | b :: bs => (m.put a b).putBytes (a + 1) bs

/-- The little-endian number of a byte string (R2). -/
def leNat : List Byte → Nat
  | [] => 0
  | b :: bs => b.toNat + 256 * leNat bs

/-- The `n` little-endian bytes of a number (R2). -/
def leBytes : Nat → Nat → List Byte
  | 0, _ => []
  | n + 1, v => BitVec.ofNat 8 v :: leBytes n (v / 256)

/-- The big-endian number of a byte string (network fields, R2). -/
def beNat (bs : List Byte) : Nat := leNat bs.reverse

/-- The `n` big-endian bytes of a number. -/
def beBytes (n v : Nat) : List Byte := (leBytes n v).reverse

/-- The little-endian number held in `n` bytes at `a`. -/
def Memory.num (m : Memory) (a n : Nat) : Nat := leNat (m.bytes a n)

/-- The 32-bit little-endian word at `a`. -/
def Memory.u32 (m : Memory) (a : Nat) : Nat := m.num a 4

/-- A number written as `n` little-endian bytes at `a`. -/
def Memory.putNum (m : Memory) (a n v : Nat) : Memory := m.putBytes a (leBytes n v)

/-- A list padded with `d` to the length `n`, cut there when longer. -/
def padTo {α : Type} (d : α) (n : Nat) (l : List α) : List α := (l ++ List.replicate (n - l.length) d).take n

/-- A list cut into pieces of `n`, `fuel` of them at most. -/
def chunksOf {α : Type} (n : Nat) : Nat → List α → List (List α)
  | 0, _ => []
  | fuel + 1, l => if l.isEmpty then [] else l.take n :: chunksOf n fuel (l.drop n)

/-- The element at index `i`, `d` beyond the end. -/
def nth {α : Type} (d : α) (l : List α) (i : Nat) : α := l.getD i d

/-- A list with index `i` replaced (unchanged when `i` is beyond its end). -/
def setNth {α : Type} (l : List α) (i : Nat) (v : α) : List α := l.set i v

end Sys2Proof.Machine
end

