-- ==== Sys2Proof/Machine/Bits.lean ====
section
/-! DEFINITION. Sys2Proof/Machine/Bits.lean: bit fields of words, two's complement readings, small exact
integer helpers (R9, R13). -/

namespace Sys2Proof.Machine

/-- A bit field [hi:lo] of a word. -/
structure Fld where
  hi : Nat
  lo : Nat
  deriving DecidableEq, Repr

/-- The width of a field. -/
def Fld.width (f : Fld) : Nat := f.hi + 1 - f.lo

/-- The bits of a field, as a mask. -/
def Fld.mask (f : Fld) : Nat := (2 ^ f.width - 1) * 2 ^ f.lo

/-- The field [hi:lo] of a number. -/
def bitsOf (v hi lo : Nat) : Nat := v / 2 ^ lo % 2 ^ (hi + 1 - lo)

/-- Bit `i` of a number. -/
def bitOf (v i : Nat) : Bool := v / 2 ^ i % 2 = 1

/-- A field read from a word. -/
def getF (w : Word) (f : Fld) : Nat := bitsOf w.toNat f.hi f.lo

/-- A field of a word replaced, its other bits kept. -/
def setF (w : Word) (f : Fld) (x : Nat) : Word :=
  BitVec.ofNat 32 (w.toNat - getF w f * 2 ^ f.lo + x % 2 ^ f.width * 2 ^ f.lo)

/-- A word that holds `x` in a field and 0 elsewhere. -/
def mkF (f : Fld) (x : Nat) : Word := BitVec.ofNat 32 (x % 2 ^ f.width * 2 ^ f.lo)

/-- Whether the one-bit field of a word is set. -/
def isSet (w : Word) (f : Fld) : Bool := getF w f ≠ 0

/-- 1 for true. -/
def b2n (b : Bool) : Nat := if b then 1 else 0

/-- The two's complement reading of the low `n` bits of a number (R9). -/
def sx (n v : Nat) : Int :=
  let w := v % 2 ^ n
  if w < 2 ^ (n - 1) then (w : Int) else (w : Int) - (2 ^ n : Nat)

/-- An integer modulo 2^n, as a number (R9). -/
def wrapN (n : Nat) (v : Int) : Nat := (v % (2 ^ n : Nat)).toNat

/-- An integer modulo 2^n, read as two's complement (R9). -/
def wrapS (n : Nat) (v : Int) : Int := sx n (wrapN n v)

/-- An integer clamped to [lo, hi]. -/
def clampI (v lo hi : Int) : Int := if v < lo then lo else if hi < v then hi else v

/-- An integer saturated to the n-bit two's complement range. -/
def satS (n : Nat) (v : Int) : Int := clampI v (-(2 ^ (n - 1) : Nat)) ((2 ^ (n - 1) : Nat) - 1)

/-- A saturating counter of `w` bits. -/
def satInc (w v k : Nat) : Nat := min (v + k) (2 ^ w - 1)

/-- ceil(a / b) on naturals. -/
def ceilDiv (a b : Nat) : Nat := (a + b - 1) / b

/-- Floor division of integers. -/
def floorDivI (a b : Int) : Int := Int.fdiv a b

/-- Ceiling division of integers. -/
def ceilDivI (a b : Int) : Int := -(Int.fdiv (-a) b)

/-- Division that rounds towards zero (R9). -/
def tdivI (a b : Int) : Int := Int.tdiv a b

/-- The arithmetic right shift of an integer (R9). -/
def asr (v : Int) (n : Nat) : Int := Int.fdiv v (2 ^ n : Nat)

/-- floor((v + 2^(sh-1)) / 2^sh): rounding half up (R357); no bias when sh is 0. -/
def rndHalfUp (v : Int) (sh : Nat) : Int :=
  if sh = 0 then v else Int.fdiv (v + (2 ^ (sh - 1) : Nat)) (2 ^ sh : Nat)

/-- The set bits of a mask below `n`, ascending. -/
def bitsSet (v n : Nat) : List Nat := (List.range n).filter (fun i => bitOf v i)

/-- Bit `i` of a number set or cleared. -/
def setBit (v i : Nat) (b : Bool) : Nat :=
  if bitOf v i then (if b then v else v - 2 ^ i) else (if b then v + 2 ^ i else v)

end Sys2Proof.Machine
end

