-- ==== Sys2Proof/Machine/Fp.lean ====
section
/-! DEFINITION. Sys2Proof/Machine/Fp.lean: the number formats of R28-R31, the exact arithmetic behind R33, and
the conversions of R34 and R35. A finite value is an exact dyadic number; every rounding is one call of
`FFmt.round`. -/

namespace Sys2Proof.Machine

/-- What a code of a floating-point format stands for: NaN, a signed infinity, or a finite value
(-1)^neg * m * 2^e, exact, with its sign kept at zero. -/
inductive FVal where
  | nan
  | inf (neg : Bool)
  | fin (neg : Bool) (m : Nat) (e : Int)
  deriving DecidableEq, Repr

/-- How a format treats the top of its exponent range (R29). -/
inductive FTop where
  | ieee        -- infinities and NaNs (FP32, BF16, FP16, E5M2)
  | nanOnly     -- E4M3: no infinity, e = 15 and m = 7 is NaN
  | none        -- FP6 and FP4: every code is finite
  deriving DecidableEq, Repr

/-- What a conversion from FP32 gives when the rounded value is beyond the largest finite (R34). -/
inductive FOver where
  | inf
  | sat
  deriving DecidableEq, Repr

/-- A floating-point format of R29. -/
structure FFmt where
  eb : Nat
  mb : Nat
  bias : Int
  top : FTop
  ovf : FOver       -- finite overflow (R34)
  infSat : Bool      -- an infinite source gives the largest finite (R34)
  nan : Nat          -- the code of a NaN source (R33, R34)
  deriving DecidableEq, Repr

def FFmt.fp32 : FFmt := ⟨8, 23, 127, .ieee, .inf, false, 0x7FC00000⟩
def FFmt.bf16 : FFmt := ⟨8, 7, 127, .ieee, .inf, false, 0x7FC0⟩
def FFmt.fp16 : FFmt := ⟨5, 10, 15, .ieee, .inf, false, 0x7E00⟩
def FFmt.e4m3 : FFmt := ⟨4, 3, 7, .nanOnly, .sat, true, 0x7F⟩
def FFmt.e5m2 : FFmt := ⟨5, 2, 15, .ieee, .sat, false, 0x7E⟩
def FFmt.e2m3 : FFmt := ⟨2, 3, 1, .none, .sat, true, 0⟩
def FFmt.e3m2 : FFmt := ⟨3, 2, 3, .none, .sat, true, 0⟩
def FFmt.e2m1 : FFmt := ⟨2, 1, 1, .none, .sat, true, 0⟩

/-- The bits of a code. -/
def FFmt.width (f : FFmt) : Nat := 1 + f.eb + f.mb

/-- The value of a code (R29). -/
def FFmt.decode (f : FFmt) (c : Nat) : FVal :=
  let neg := bitOf c (f.eb + f.mb)
  let e := bitsOf c (f.eb + f.mb - 1) f.mb
  let m := c % 2 ^ f.mb
  let fin : FVal :=
    if e = 0 then .fin neg m (1 - f.bias - f.mb) else .fin neg (2 ^ f.mb + m) ((e : Int) - f.bias - f.mb)
  match f.top with
  | .none => fin
  | .nanOnly => if e = 2 ^ f.eb - 1 ∧ m = 2 ^ f.mb - 1 then .nan else fin
  | .ieee => if e = 2 ^ f.eb - 1 then (if m = 0 then .inf neg else .nan) else fin

/-- The exponent field and significand field of the largest finite code, as one number. -/
def FFmt.maxMag (f : FFmt) : Nat :=
  match f.top with
  | .none => 2 ^ (f.eb + f.mb) - 1
  | .nanOnly => 2 ^ (f.eb + f.mb) - 2
  | .ieee => (2 ^ f.eb - 1) * 2 ^ f.mb - 1

/-- The code of a signed infinity in an IEEE-like format. -/
def FFmt.infMag (f : FFmt) : Nat := (2 ^ f.eb - 1) * 2 ^ f.mb

/-- A magnitude with its sign bit. -/
def FFmt.sign (f : FFmt) (neg : Bool) (mag : Nat) : Nat := mag + b2n neg * 2 ^ (f.eb + f.mb)

/-- floor(num / den) rounded to nearest, ties to even. -/
def rneDiv (num den : Nat) : Nat :=
  let q := num / den
  let r := num % den
  if 2 * r < den then q else if den < 2 * r then q + 1 else q + q % 2

/-- floor(log2 (num / den)) of a positive rational. -/
def floorLog2 (num den : Nat) : Int :=
  let g : Int := (Nat.log2 num : Int) - (Nat.log2 den : Int)
  let le := if 0 ≤ g then den * 2 ^ g.toNat ≤ num else den ≤ num * 2 ^ (-g).toNat
  if le then g else g - 1

/-- The magnitude code (exponent and significand fields as one number, not yet limited to the format's range)
of the positive rational num/den, rounded to nearest, ties to even, subnormals kept (R33, R34). -/
def FFmt.magOf (f : FFmt) (num den : Nat) : Nat :=
  if num = 0 then 0 else
  let g := floorLog2 num den
  let emin : Int := 1 - f.bias
  let e := if g < emin then emin else g
  let ulp : Int := e - f.mb
  let k := if 0 ≤ ulp then rneDiv num (den * 2 ^ ulp.toNat) else rneDiv (num * 2 ^ (-ulp).toNat) den
  -- k < 2^mb is subnormal (field 0); otherwise the field is e - emin + 1 and k carries the hidden bit
  k + (e - emin).toNat * 2 ^ f.mb

/-- A non-negative rational with a sign, rounded once into a format (R33, R34). -/
def FFmt.roundRat (f : FFmt) (neg : Bool) (num den : Nat) : Nat :=
  let mag := f.magOf num den
  f.sign neg (if mag ≤ f.maxMag then mag else
    match f.ovf with
    | .inf => f.infMag
    | .sat => f.maxMag)

/-- A value rounded into a format (R33, R34). -/
def FFmt.round (f : FFmt) : FVal → Nat
  | .nan => f.nan
  | .inf neg => f.sign neg (if f.infSat then f.maxMag else f.infMag)
  | .fin neg m e => if 0 ≤ e then f.roundRat neg (m * 2 ^ e.toNat) 1 else f.roundRat neg m (2 ^ (-e).toNat)

/-- The exact signed integer of a finite value scaled by 2^s, where s + e is not negative. -/
def FVal.scaled (s : Int) : FVal → Int
  | .fin neg m e => let v : Int := (m * 2 ^ (e + s).toNat : Nat); if neg then -v else v
  | _ => 0

/-- A signed integer times 2^e as a value; an exact zero gets the sign `zneg`. -/
def FVal.ofInt (zneg : Bool) (v : Int) (e : Int) : FVal :=
  if v = 0 then .fin zneg 0 0 else .fin (v < 0) v.natAbs e

/-- The exponent of a finite value. -/
def FVal.exp : FVal → Int
  | .fin _ _ e => e
  | _ => 0

def FVal.isNan : FVal → Bool
  | .nan => true
  | _ => false

def FVal.isInf : FVal → Bool
  | .inf _ => true
  | _ => false

def FVal.isFin : FVal → Bool
  | .fin _ _ _ => true
  | _ => false

def FVal.isZero : FVal → Bool
  | .fin _ m _ => m == 0
  | _ => false

def FVal.neg : FVal → Bool
  | .nan => false
  | .inf n => n
  | .fin n _ _ => n

/-- The value with its sign turned. -/
def FVal.flip : FVal → FVal
  | .nan => .nan
  | .inf n => .inf (!n)
  | .fin n m e => .fin (!n) m e

/-- The magnitude. -/
def FVal.abs : FVal → FVal
  | .nan => .nan
  | .inf _ => .inf false
  | .fin _ m e => .fin false m e

/-- The exact product (infinity times zero is NaN). -/
def FVal.mul : FVal → FVal → FVal
  | .nan, _ => .nan
  | _, .nan => .nan
  | .inf a, .inf b => .inf (a != b)
  | .inf a, .fin b m _ => if m = 0 then .nan else .inf (a != b)
  | .fin a m _, .inf b => if m = 0 then .nan else .inf (a != b)
  | .fin a m e, .fin b n k => .fin (a != b) (m * n) (e + k)

/-- The exact sum (R33: an exact sum of +0 and -0 is +0; opposite infinities give NaN). -/
def FVal.add : FVal → FVal → FVal
  | .nan, _ => .nan
  | _, .nan => .nan
  | .inf a, .inf b => if a = b then .inf a else .nan
  | .inf a, .fin _ _ _ => .inf a
  | .fin _ _ _, .inf b => .inf b
  | .fin a m e, .fin b n k =>
    let lo := if e < k then e else k
    FVal.ofInt (a && b) (FVal.scaled (-lo) (.fin a m e) + FVal.scaled (-lo) (.fin b n k)) lo

/-- The value times 2^s, exactly. -/
def FVal.scale (s : Int) : FVal → FVal
  | .nan => .nan
  | .inf a => .inf a
  | .fin a m e => .fin a m (e + s)

/-- a < b on values; false when either is NaN (R98). -/
def FVal.lt (a b : FVal) : Bool :=
  match a, b with
  | .nan, _ => false
  | _, .nan => false
  | .inf x, .inf y => x && !y
  | .inf x, .fin _ _ _ => x
  | .fin _ _ _, .inf y => !y
  | .fin x m e, .fin y n k =>
    let lo := if e < k then e else k
    decide (FVal.scaled (-lo) (.fin x m e) < FVal.scaled (-lo) (.fin y n k))

/-- a = b on values; -0 equals +0; false when either is NaN (R98). -/
def FVal.eqv (a b : FVal) : Bool := !a.isNan && !b.isNan && !a.lt b && !b.lt a

/-! ### FP32 operations: one rounding each (R33) -/

/-- The value of an FP32 bit pattern. -/
def f32v (a : Nat) : FVal := FFmt.fp32.decode a

def f32Add (a b : Nat) : Nat := FFmt.fp32.round ((f32v a).add (f32v b))
def f32Sub (a b : Nat) : Nat := FFmt.fp32.round ((f32v a).add (f32v b).flip)
def f32Mul (a b : Nat) : Nat := FFmt.fp32.round ((f32v a).mul (f32v b))

/-- fma(a, b, c): one rounding for the whole operation (R9). -/
def f32Fma (a b c : Nat) : Nat := FFmt.fp32.round (((f32v a).mul (f32v b)).add (f32v c))

/-- v * 2^e rounded once (R46). -/
def f32Scale2 (v : Nat) (e : Int) : Nat := FFmt.fp32.round ((f32v v).scale e)

/-- The sign bit turned. -/
def f32Neg (a : Nat) : Nat := if (f32v a).isNan then FFmt.fp32.nan else if 2 ^ 31 ≤ a then a - 2 ^ 31 else a + 2 ^ 31

/-- |x|. -/
def f32Abs (a : Nat) : Nat := a % 2 ^ 31

/-- The magnitude of x with the sign of y (R47). -/
def f32CopySign (x y : Nat) : Nat := x % 2 ^ 31 + (y / 2 ^ 31 % 2) * 2 ^ 31

/-- Maximum of R115: any NaN gives the canonical NaN, max(+0, -0) = +0. -/
def f32Max (a b : Nat) : Nat :=
  let x := f32v a; let y := f32v b
  if x.isNan || y.isNan then FFmt.fp32.nan
  else if x.isZero && y.isZero then (if x.neg then b else a)
  else if x.lt y then b else a

/-- Minimum of R115: any NaN gives the canonical NaN, min(+0, -0) = -0. -/
def f32Min (a b : Nat) : Nat :=
  let x := f32v a; let y := f32v b
  if x.isNan || y.isNan then FFmt.fp32.nan
  else if x.isZero && y.isZero then (if x.neg then a else b)
  else if y.lt x then b else a

/-- An integer as FP32, rounded once (R35). -/
def f32OfInt (v : Int) : Nat := FFmt.fp32.round (FVal.ofInt false v 0)

/-- The floor of the exact value of a finite FP32 (R46); 0 for a NaN or an infinity, which no caller passes. -/
def f32Floor (a : Nat) : Int :=
  match f32v a with
  | .fin n m e =>
    let v : Int := if n then -(m : Int) else m
    if 0 ≤ e then v * (2 ^ e.toNat : Nat) else Int.fdiv v (2 ^ (-e).toNat : Nat)
  | _ => 0

/-- A BF16 code widened exactly to FP32 (R35). -/
def f32OfBf16 (c : Nat) : Nat := FFmt.fp32.round (FFmt.bf16.decode c)

/-- An FP32 value rounded to BF16 (R34). -/
def bf16OfF32 (a : Nat) : Nat := FFmt.bf16.round (f32v a)

/-- An exact value rounded to the nearest integer, ties to even. -/
def rneInt (neg : Bool) (m : Nat) (e : Int) : Int :=
  let mag := if 0 ≤ e then m * 2 ^ e.toNat else rneDiv m (2 ^ (-e).toNat)
  if neg then -(mag : Int) else mag

/-- A value converted to an integer of `w` bits: to nearest, ties to even, saturated; NaN gives 0 (R34). -/
def FVal.toSat (w : Nat) : FVal → Int
  | .nan => 0
  | .inf true => -(2 ^ (w - 1) : Nat)
  | .inf false => (2 ^ (w - 1) : Nat) - 1
  | .fin n m e => satS w (rneInt n m e)

/-! ### The type codes of vectors and of the array (R106, R113) -/

/-- Element types of vector operations, in the order of their codes 0x0-0xC (R113). -/
inductive VType where
  | fp32 | bf16 | fp16 | int32 | int16 | int8 | int4 | e4m3 | e5m2 | e2m3 | e3m2 | e2m1 | mxint8
  deriving DecidableEq, Repr

def VType.all : List VType :=
  [.fp32, .bf16, .fp16, .int32, .int16, .int8, .int4, .e4m3, .e5m2, .e2m3, .e3m2, .e2m1, .mxint8]

/-- The type of a code; none for the reserved codes 0xD-0xF (R113). -/
def VType.ofCode (c : Nat) : Option VType := VType.all[c]?

/-- The bits of one element (R113, R30). -/
def VType.bits : VType → Nat
  | .fp32 | .int32 => 32
  | .bf16 | .fp16 | .int16 => 16
  | .int8 | .e4m3 | .e5m2 | .mxint8 => 8
  | .e2m3 | .e3m2 => 6
  | .int4 | .e2m1 => 4

/-- The bytes that `n` packed elements take (R30). -/
def VType.size (t : VType) (n : Nat) : Nat :=
  match t.bits with
  | 6 => ceilDiv n 4 * 3
  | b => ceilDiv (n * b) 8

/-- The floating format of a type, where it is one. -/
def VType.ffmt : VType → Option FFmt
  | .fp32 => some .fp32
  | .bf16 => some .bf16
  | .fp16 => some .fp16
  | .e4m3 => some .e4m3
  | .e5m2 => some .e5m2
  | .e2m3 => some .e2m3
  | .e3m2 => some .e3m2
  | .e2m1 => some .e2m1
  | _ => none

/-- The exact value of a code of a type; an MXINT8 code c is c / 64 (R31). [DEDUCED: log 109] -/
def VType.decode (t : VType) (c : Nat) : FVal :=
  match t.ffmt with
  | some f => f.decode c
  | none =>
    match t with
    | .mxint8 => FVal.ofInt false (sx 8 c) (-6)
    | _ => FVal.ofInt false (sx t.bits c) 0

/-- A value converted into a code of a type (R34). An MXINT8 code is the integer nearest 64 times the value. -/
def VType.encode (t : VType) (v : FVal) : Nat :=
  match t.ffmt with
  | some f => f.round v
  | none =>
    match t with
    | .mxint8 => wrapN 8 ((v.scale 6).toSat 8)
    | _ => wrapN t.bits (v.toSat t.bits)

/-- A conversion between two types: to FP32 by R35, which rounds only an INT32 with more than 24 significant bits, and from FP32 by R34. [DEDUCED: log 110] -/
def convert (src dst : VType) (c : Nat) : Nat := dst.encode (f32v (FFmt.fp32.round (src.decode c)))

/-- Element `i` of a packed byte string (R30). -/
def VType.elem (t : VType) (bs : List Byte) (i : Nat) : Nat :=
  match t.bits with
  | 4 => bitsOf (nth 0#8 bs (i / 2)).toNat (if i % 2 = 0 then 3 else 7) (if i % 2 = 0 then 0 else 4)
  | 6 => bitsOf (leNat ((bs.drop (i / 4 * 3)).take 3)) (6 * (i % 4) + 5) (6 * (i % 4))
  | b => leNat ((bs.drop (i * (b / 8))).take (b / 8))

/-- `n` elements of a packed byte string. -/
def VType.elems (t : VType) (bs : List Byte) (n : Nat) : List Nat := (List.range n).map (fun i => t.elem bs i)

/-- Codes packed into bytes (R30), laid over the `old` bytes of the same range: the bits of the last byte or
3-byte group that no element fills keep their previous contents (R117). -/
def VType.pack (t : VType) (cs : List Nat) (old : List Byte) : List Byte :=
  match t.bits with
  | 4 =>
    (List.range (ceilDiv cs.length 2)).map (fun g =>
      let o := (nth 0#8 old g).toNat
      let lo := nth (o % 16) cs (2 * g)
      let hi := nth (o / 16) cs (2 * g + 1)
      BitVec.ofNat 8 (lo % 16 + 16 * (hi % 16)))
  | 6 =>
    ((List.range (ceilDiv cs.length 4)).map (fun g =>
      let o := leNat (padTo 0#8 3 (old.drop (3 * g)))
      leBytes 3 (((List.range 4).map (fun i =>
        (nth (bitsOf o (6 * i + 5) (6 * i)) cs (4 * g + i)) % 64 * 2 ^ (6 * i))).sum))).flatten
  | b => (cs.map (fun c => leBytes (b / 8) c)).flatten

/-! ### Leaves (R38-R40) and MX quantisation (R31, R32) -/

/-- The fixed tree of R40 over a list whose length is a power of two: neighbours added pairwise, level by level. -/
def passTree : Nat → List Nat → Nat
  | 0, l => nth 0 l 0
  | fuel + 1, l =>
    if l.length ≤ 1 then nth 0 l 0
    else passTree fuel ((List.range (l.length / 2)).map (fun i => f32Add (nth 0 l (2 * i)) (nth 0 l (2 * i + 1))))

/-- pass_sum16 of R40: the leaf of 32 rounded products. -/
def passSum16 (p : List Nat) : Nat := passTree 6 (padTo 0 32 p)

/-- The exact sum of products as an integer scaled by 2^-lo. -/
def exactSum (lo : Int) (ps : List FVal) : Int := (ps.map (FVal.scaled (-lo))).foldl (· + ·) 0

/-- The least exponent of a list of finite values, at most 0. -/
def minExp (ps : List FVal) : Int := (ps.map FVal.exp).foldl (fun a b => if b < a then b else a) 0

/-- A leaf: the exact sum of the products times 2^x, rounded once to FP32, with the special operands of R39 in
their order and the zero sign of R38. [DEDUCED: log 109] -/
def leafOf (ps : List FVal) (x : Int) : Nat :=
  if ps.any FVal.isNan then FFmt.fp32.nan
  else if ps.any (fun p => p.isInf && p.neg) && ps.any (fun p => p.isInf && !p.neg) then FFmt.fp32.nan
  else if ps.any FVal.isInf then FFmt.fp32.round (.inf (ps.any (fun p => p.isInf && p.neg)))
  else
    let lo := minExp ps
    FFmt.fp32.round ((FVal.ofInt (ps.all (fun p => p.neg)) (exactSum lo ps) lo).scale x)

/-- The exact sum of FP32-exact values, rounded once (rne_f32(exact_sum ...), R219-R230); an empty sum is +0. -/
def rneSum (ps : List FVal) : Nat := if ps.isEmpty then 0 else leafOf ps 0

/-- The E8M0 scale of a byte: X, or none for 0xFF (R29, R31). -/
def e8m0 (b : Nat) : Option Int := if b % 256 = 255 then none else some ((b % 256 : Nat) - 127)

/-- The exact value of an MX element under its scale byte: a scale of 0xFF makes it NaN (R31). -/
def mxValue (t : VType) (scale code : Nat) : FVal :=
  match e8m0 scale with
  | none => .nan
  | some x => (t.decode code).scale x

/-- emax of R32. -/
def VType.emax : VType → Int
  | .e4m3 => 8
  | .e5m2 => 15
  | .e2m3 => 2
  | .e3m2 => 4
  | .e2m1 => 2
  | _ => 0

/-- The larger of two magnitudes. -/
def maxAbs (vs : List FVal) : FVal := vs.foldl (fun a v => if a.lt v.abs then v.abs else a) (.fin false 0 0)

/-- floor(log2 |v|) of a non-zero finite value. -/
def FVal.log2 : FVal → Int
  | .fin _ m e => (Nat.log2 m : Int) + e
  | _ => 0

/-- mx_scale of R32: the scale byte of a block. -/
def mxScale (vs : List FVal) (emax : Int) : Nat :=
  if vs.any (fun v => !v.isFin) then 0xFF
  else
    let a := maxAbs vs
    if a.isZero then 0 else (clampI (a.log2 - emax) (-127) 127 + 127).toNat

/-- Quantising a block (R32): the scale byte and the element codes; a block of scale 0xFF has codes 0. -/
def mxQuant (t : VType) (vs : List FVal) : Nat × List Nat :=
  let s := mxScale vs t.emax
  if s = 0xFF then (s, vs.map (fun _ => 0))
  else (s, vs.map (fun v => t.encode (v.scale (127 - (s : Int)))))

/-! ### The binary-counter tree (R158, R180, R181) -/

/-- full_node of R181. -/
def fullNode (add : α → α → α) (leaf : Nat → α) (start : Nat) : Nat → α
  | 0 => leaf start
  | l + 1 => add (fullNode add leaf start l) (fullNode add leaf (start + 2 ^ l) l)

/-- The loop of binary_counter_tree (R181): blocks from the right, level `l` on, `fuel` levels left. -/
def bctLoop (add : α → α → α) (leaf : Nat → α) (L : Nat) : Nat → Nat → Nat → Option α → Option α
  | 0, _, _, acc => acc
  | fuel + 1, l, endp, acc =>
    if bitOf L l then
      let start := endp - 2 ^ l
      let b := fullNode add leaf start l
      bctLoop add leaf L fuel (l + 1) start (some (match acc with | none => b | some a => add b a))
    else bctLoop add leaf L fuel (l + 1) endp acc

/-- binary_counter_tree of R181 over L leaves (none for L = 0). -/
def bct (add : α → α → α) (leaf : Nat → α) (L : Nat) : Option α := bctLoop add leaf L 25 0 L none

/-- The FP32 tree of a list of leaves (R180); +0 for an empty list (R158 fold). -/
def f32Tree (leaves : List Nat) : Nat := (bct f32Add (fun i => nth 0 leaves i) leaves.length).getD 0

/-- push of R158: carries the leaf up the occupied levels; level 24 is the root register. -/
def pushLvl (add : α → α → α) : Nat → List α → Nat → α → List α
  | _, [], _, c => [c]
  | n, v :: vs, l, c => if bitOf n l then v :: pushLvl add n vs (l + 1) (add v c) else c :: vs

/-- fold of R158 over the levels from `l` on. -/
def foldLvl (add : α → α → α) (n : Nat) : Nat → List α → Option α → Option α
  | _, [], acc => acc
  | l, v :: vs, acc =>
    if bitOf n l then foldLvl add n (l + 1) vs (some (match acc with | none => v | some a => add v a))
    else foldLvl add n (l + 1) vs acc

/-- vx_sum of R118: leaves of 32 by R40, then the tree. -/
def vxSum (v : List Nat) : Nat :=
  f32Tree ((chunksOf 32 (ceilDiv v.length 32) v).map passSum16)

end Sys2Proof.Machine
end

