-- ==== Sys2Proof/Machine/Keccak.lean ====
section
/-! DEFINITION. Sys2Proof/Machine/Keccak.lean: Keccak-p of FIPS 202 on 25 lanes, the generator of R51 and R52,
SHAKE256 and the digests of R189, R197, R199 and R338. The permutation's constants are those of FIPS 202, to
which R51 refers. -/

namespace Sys2Proof.Machine

/-- The round constants of Keccak-f[1600], rounds 0-23 (FIPS 202; a narrower lane takes their low bits). -/
def keccakRC : List Nat :=
  [0x0000000000000001, 0x0000000000008082, 0x800000000000808A, 0x8000000080008000,
   0x000000000000808B, 0x0000000080000001, 0x8000000080008081, 0x8000000000008009,
   0x000000000000008A, 0x0000000000000088, 0x0000000080008009, 0x000000008000000A] ++
  [0x000000008000808B, 0x800000000000008B, 0x8000000000008089, 0x8000000000008003,
   0x8000000000008002, 0x8000000000000080, 0x000000000000800A, 0x800000008000000A,
   0x8000000080008081, 0x8000000000008080, 0x0000000080000001, 0x8000000080008008]

/-- The rotation offsets of lane x + 5y (FIPS 202). -/
def keccakRot : List Nat :=
  [0, 1, 62, 28, 27, 36, 44, 6, 55, 20, 3, 10, 43] ++ [25, 39, 41, 45, 15, 21, 8, 18, 2, 61, 56, 14]

/-- Rotate a w-bit lane left. -/
def rotl (w v n : Nat) : Nat :=
  let k := n % w
  ((v * 2 ^ k) % 2 ^ w) ||| (v / 2 ^ (w - k))

/-- One round on 25 lanes of w bits; lane i is A[i mod 5, i div 5] (R51). -/
def keccakRound (w rc : Nat) (a : List Nat) : List Nat :=
  let at' := fun i => nth 0 a i
  let c := (List.range 5).map (fun x => at' x ^^^ at' (x + 5) ^^^ at' (x + 10) ^^^ at' (x + 15) ^^^ at' (x + 20))
  let d := (List.range 5).map (fun x => nth 0 c ((x + 4) % 5) ^^^ rotl w (nth 0 c ((x + 1) % 5)) 1)
  let t := (List.range 25).map (fun i => rotl w (at' i ^^^ nth 0 d (i % 5)) (nth 0 keccakRot i))
  -- pi: B[y, 2x + 3y] = rotated A[x, y], that is B[X, Y] = t[(X + 3Y) mod 5, X]
  let b := (List.range 25).map (fun i => let X := i % 5; let Y := i / 5; nth 0 t ((X + 3 * Y) % 5 + 5 * X))
  let full := 2 ^ w - 1
  let e := (List.range 25).map (fun i =>
    let x := i % 5; let y := i / 5
    nth 0 b i ^^^ ((full - nth 0 b ((x + 1) % 5 + 5 * y)) &&& nth 0 b ((x + 2) % 5 + 5 * y)))
  match e with
  | [] => []
  | l0 :: rest => (l0 ^^^ (rc % 2 ^ w)) :: rest

/-- The rounds of a list of round constants, in order. -/
def keccakRounds (w : Nat) : List Nat → List Nat → List Nat
  | [], a => a
  | rc :: rcs, a => keccakRounds w rcs (keccakRound w rc a)

/-- Keccak-f[1600]: 24 rounds (FIPS 202). -/
def keccakF1600 (a : List Nat) : List Nat := keccakRounds 64 keccakRC a

/-- Keccak-p[800, 12]: the rounds with indices 10 to 21 (R51). -/
def keccakP800 (a : List Nat) : List Nat := keccakRounds 32 ((keccakRC.drop 10).take 12) a

/-- rand(seed, stream, counter) of R51. -/
def rand (seed stream counter : Nat) : Nat :=
  let lane := fun v i => v / 2 ^ (32 * i) % 2 ^ 32
  let a := [lane seed 0, lane seed 1, lane seed 2, lane seed 3, stream % 2 ^ 32, lane counter 0, lane counter 1, 1] ++
    List.replicate 17 0
  let r := keccakP800 a
  nth 0 r 0 + 2 ^ 32 * nth 0 r 1

/-- The lanes of a 136-byte SHAKE256 rate block. -/
def rateLanes (block : List Byte) : List Nat := (List.range 17).map (fun i => leNat ((block.drop (8 * i)).take 8))

/-- Absorbs rate blocks into a state. -/
def shakeAbsorb : List (List Byte) → List Nat → List Nat
  | [], a => a
  | b :: bs, a =>
    let m := rateLanes b ++ List.replicate 8 0
    shakeAbsorb bs (keccakF1600 ((List.range 25).map (fun i => nth 0 a i ^^^ nth 0 m i)))

/-- Squeezes `n` blocks of 136 bytes. -/
def shakeSqueeze : Nat → List Nat → List Byte
  | 0, _ => []
  | n + 1, a => ((a.take 17).map (leBytes 8)).flatten ++ shakeSqueeze n (keccakF1600 a)

/-- A message padded to whole rate blocks with a domain suffix byte (0x1F for SHAKE, 0x04 for cSHAKE). -/
def spongePad (suffix : Nat) (m : List Byte) : List Byte :=
  let k := 136 - m.length % 136
  m ++ (if k = 1 then [BitVec.ofNat 8 (suffix + 0x80)]
        else BitVec.ofNat 8 suffix :: (List.replicate (k - 2) 0#8 ++ [0x80#8]))

/-- The sponge of rate 136 with a suffix. -/
def sponge (suffix : Nat) (m : List Byte) (n : Nat) : List Byte :=
  let p := spongePad suffix m
  (shakeSqueeze (ceilDiv n 136) (shakeAbsorb (chunksOf 136 (p.length / 136) p) (List.replicate 25 0))).take n

/-- SHAKE256 with `n` bytes of output (FIPS 202). [PRESUMED: log 26] -/
def shake256 (m : List Byte) (n : Nat) : List Byte := sponge 0x1F m n

/-- 32 bytes of SHAKE256 over a domain byte and a message, the form of every digest of this manual. -/
def dig32 (domain : Nat) (m : List Byte) : List Byte := shake256 (BitVec.ofNat 8 domain :: m) 32

/-- The leaf digest of R197. -/
def leafDigest (tensor index : Nat) (chunk : List Byte) : List Byte :=
  dig32 0x00 (leBytes 4 tensor ++ leBytes 4 index ++ padTo 0#8 4096 chunk)

/-- The DIGEST node of R189. [DEDUCED: log 34] -/
def nodeDigest (l r : List Byte) : List Byte := dig32 0x01 (l ++ r)

/-- The result digest of R125 and R199. -/
def resultDigest (m : List Byte) : List Byte := dig32 0x02 m

/-- left_encode of SP 800-185. -/
def leftEncode (v : Nat) : List Byte :=
  let n := max 1 (ceilDiv (Nat.log2 v + 1) 8)
  BitVec.ofNat 8 n :: beBytes n v

/-- right_encode of SP 800-185. -/
def rightEncode (v : Nat) : List Byte :=
  let n := max 1 (ceilDiv (Nat.log2 v + 1) 8)
  beBytes n v ++ [BitVec.ofNat 8 n]

/-- bytepad of SP 800-185 for a rate of 136 bytes. -/
def bytepad136 (m : List Byte) : List Byte :=
  let z := leftEncode 136 ++ m
  padTo 0#8 (ceilDiv z.length 136 * 136) z

/-- encode_string of SP 800-185. -/
def encodeString (m : List Byte) : List Byte := leftEncode (8 * m.length) ++ m

/-- KMAC256 with a 32-byte tag and an empty customisation (SP 800-185; the store's record tags, R463). [PRESUMED: log 26] -/
def kmac256 (key m : List Byte) : List Byte :=
  sponge 0x04 (bytepad136 (encodeString ([0x4B#8, 0x4D#8, 0x41#8, 0x43#8]) ++ encodeString []) ++
    bytepad136 (encodeString key) ++ m ++ rightEncode 256) 32

end Sys2Proof.Machine
end

