-- ==== Sys2Proof/Machine/Crc.lean ====
section
/-! DEFINITION. Sys2Proof/Machine/Crc.lean: the CRC-32 of the IEEE 802.3 frame check sequence (R252, R325, R347). -/

namespace Sys2Proof.Machine

/-- One bit of the reflected CRC-32. -/
def crcBit (c : Nat) : Nat := if c % 2 = 1 then (c / 2) ^^^ 0xEDB88320 else c / 2

/-- One byte into the CRC register. -/
def crcByte (c : Nat) (b : Byte) : Nat :=
  let x := c ^^^ b.toNat
  crcBit (crcBit (crcBit (crcBit (crcBit (crcBit (crcBit (crcBit x)))))))

/-- The CRC-32 of a byte string, as the IEEE 802.3 frame check sequence computes it. -/
def crc32 (bs : List Byte) : Nat := (bs.foldl crcByte 0xFFFFFFFF) ^^^ 0xFFFFFFFF

end Sys2Proof.Machine
end

