-- ==== Sys2Proof/Wire.lean ====
section
/-! DEFINITION. Sys2Proof/Wire.lean: what crosses the Kornal links in a form whose bytes the spec does not lay out: the
records of CTRL flits (R252) and reduction children (R194). A chip is written cluster * 16 + cluster chip number. -/

namespace Sys2Proof

/-- A record of a CTRL flit (R252): each names the chip it is for and what it says. [DESIGN CHOICE: log 42] -/
inductive CtrlRec where
  /-- A sync operation: kinds 0-2 are the waits of R105, 3 a signal. -/
  | syncOp (dst src kind obj arg job ctx core id : Nat)
  /-- A waiter's cancel (R248). -/
  | cancel (dst src obj core id : Nat)
  /-- A release of R247, of object `obj` of chip `src`. -/
  | release (dst core id code src obj : Nat)
  /-- A delivery report (R237); `sync` says that it refuses a sync operation (R242). -/
  | report (dst id code : Nat) (sync : Bool)
  /-- An end-to-end credit request for a message of `bytes` bytes (R261). -/
  | request (dst src job id bytes : Nat)
  /-- Its grant, by chip `src`. -/
  | grant (dst id src : Nat)
  /-- The rest of a message whose first flits have gone this way does not come. -/
  | cut (src id : Nat)
  /-- A grant or request given back unused (R313). -/
  | giveBack (dst src id : Nat)
  /-- A teardown notice (R246). -/
  | teardown (job ctx src : Nat)
  /-- A route update: whether the link between two chips is up (R260). -/
  | route (a b : Nat) (up : Bool)
  deriving DecidableEq, Repr

/-- A reduction child on a link (R188-R190): an arriving child, or a root for its destination window. [DESIGN CHOICE: log 42] -/
structure WireChild where
  dst : Nat
  dcore : Nat
  root : Bool
  daddr : Nat
  dsync : Nat
  job : Nat
  ctx : Nat
  tree : Nat
  inst : Nat
  tail : Bool
  l : Nat
  i : Nat
  val : List Byte
  src : Nat
  score : Nat
  id : Nat
  deriving DecidableEq, Repr

/-- A PTP message received on a control port (R390, R391), by its fields: the port, the transport (0 Layer 2, 1 UDP on IPv4, 2 on
IPv6), domainNumber, versionPTP's major, whether its FCS is good, the source clockIdentity, sequenceId, correctionField (units of
2^-16 ns), its timestamp, whether it is two-step, whether requestingPortIdentity is this port's. [PRESUMED: log 74] -/
structure PtpMsg where
  port : Nat
  transport : Nat
  domain : Nat
  version : Nat
  fcs : Bool
  clock : Nat
  seq : Nat
  corr : Int
  secs : Nat
  nanos : Nat
  twoStep : Bool
  mine : Bool
  deriving DecidableEq, Repr

end Sys2Proof
end

