-- ==== Sys2Proof/Config.lean ====
section
/-! DEFINITION. Sys2Proof/Config.lean: what the spec leaves to each part or does not state: opaque constants. Nothing
in Lean can evaluate them, so every statement holds whatever they are. -/

namespace Sys2Proof.Config

/-- ID_PART.STEPPING: per silicon (R267). [DESIGN CHOICE: log 90] -/
opaque stepping : BitVec 8

/-- The size in MiB of the recorder PSRAM fitted on ST_CS0_N, 0 where none answers (R530). [DESIGN CHOICE: log 89] -/
opaque psramMb : Nat

/-- The JTAG identification word; the spec gives its part field alone (R527). [PRESUMED: log 88; DESIGN CHOICE: log 90] -/
opaque jtagId : BitVec 32

/-- A value the spec leaves open, drawn afresh: the argument counts the draws. [DESIGN CHOICE: log 6] -/
opaque freeWord : Nat → BitVec 32

/-- A byte of a window on another chip, as this chip reads it: the draw, the chip, the core, the address. [DESIGN CHOICE: log 37] -/
opaque farByte : Nat → Nat → Nat → Nat → BitVec 8

/-- Whether a page on another chip lies in the partition's channels and in its context's windows there (R209): the draw, the chip, the
core, the slot. [DESIGN CHOICE: log 37] -/
opaque farFits : Nat → Nat → Nat → Nat → Bool

/-- The payload of a CTRL flit by its records, whose bytes the spec does not lay out (R252): byte `i`. [DESIGN CHOICE: log 42] -/
opaque ctrlPayload : List CtrlRec → Nat → BitVec 8

/-- The payload of a DATA flit that carries a reduction child (R194, R252): byte `i`. [DESIGN CHOICE: log 42] -/
opaque childPayload : WireChild → Nat → BitVec 8

/-- What follows the last byte of a message in its last flit, and the payload of an IDLE flit (R252): byte `i`. [DESIGN CHOICE: log 42] -/
opaque flitPad : Nat → BitVec 8

/-- SEQ and POOL of an IDLE flit, which is not sequenced and charges no pool (R252). [DESIGN CHOICE: log 42] -/
opaque idleSeq : Nat
opaque idlePool : Nat

/-- The root that a part's PUF reconstructs from helper data (R460). [DESIGN CHOICE: log 96] -/
opaque pufRoot : List (BitVec 8) → List (BitVec 8)

/-- What a helper of R357 or a block of R360 gives outside the ranges the spec states for it, by its operands. [DESIGN CHOICE: log 69] -/
opaque loopOpen : List Int → Int

/-- The rate of a control port, which its PHY settles (R1): 0 10 Gb/s, 1 5 Gb/s, 2 2.5 Gb/s, 3 1 Gb/s; by the port and the
cycle. [DESIGN CHOICE: log 123] -/
opaque portRate : Nat → Nat → Fin 4

end Sys2Proof.Config
end

