-- ==== Sys2Proof/Syntax.lean ====
section
/-! DEFINITION. Sys2Proof/Syntax.lean: the formats of the core's instruction words (R92), and the commands of the
device: the 242 operations and events of its table, each with the operands that single it out. -/

namespace Sys2Proof

/-- R92, format R. -/
structure FmtR where
  pg : BitVec 3
  rd : BitVec 5
  rs1 : BitVec 5
  rs2 : BitVec 5
  fn : BitVec 8
  deriving DecidableEq, Repr

/-- R92, format I. -/
structure FmtI where
  pg : BitVec 3
  rd : BitVec 5
  rs1 : BitVec 5
  imm : BitVec 13
  deriving DecidableEq, Repr

/-- R92, format K. -/
structure FmtK where
  pg : BitVec 3
  rd : BitVec 5
  imm : BitVec 18
  deriving DecidableEq, Repr

/-- R92, format C; z is the field that must be 0 (R94). -/
structure FmtC where
  pg : BitVec 3
  pd : BitVec 3
  rs1 : BitVec 5
  rs2 : BitVec 5
  cc : BitVec 4
  z : BitVec 6
  deriving DecidableEq, Repr

/-- R92, format CI. -/
structure FmtCI where
  pg : BitVec 3
  pd : BitVec 3
  rs1 : BitVec 5
  cc : BitVec 4
  imm : BitVec 11
  deriving DecidableEq, Repr

/-- R92, format P; z must be 0. -/
structure FmtP where
  pg : BitVec 3
  pd : BitVec 3
  pa : BitVec 3
  pb : BitVec 3
  fn : BitVec 4
  z : BitVec 10
  deriving DecidableEq, Repr

/-- R92, format M; r is rd of the loads and rs of the store. -/
structure FmtM where
  pg : BitVec 3
  r : BitVec 5
  aB : BitVec 4
  sz : BitVec 2
  imm : BitVec 12
  deriving DecidableEq, Repr

/-- R92, format AR. -/
structure FmtAR where
  pg : BitVec 3
  aD : BitVec 4
  aS : BitVec 4
  rs : BitVec 5
  sh : BitVec 2
  fn : BitVec 8
  deriving DecidableEq, Repr

/-- R92, format AI. -/
structure FmtAI where
  pg : BitVec 3
  aD : BitVec 4
  aS : BitVec 4
  imm : BitVec 15
  deriving DecidableEq, Repr

/-- R92, format B. -/
structure FmtB where
  pg : BitVec 3
  off : BitVec 23
  deriving DecidableEq, Repr

/-- R92, format J; z and y must be 0. -/
structure FmtJ where
  pg : BitVec 3
  z : BitVec 5
  rs : BitVec 5
  y : BitVec 13
  deriving DecidableEq, Repr

/-- R92, format L. -/
structure FmtL where
  lc : BitVec 2
  im : BitVec 1
  cnt : BitVec 10
  len : BitVec 13
  deriving DecidableEq, Repr

/-- R92, format T; z must be 0. -/
structure FmtT where
  z : BitVec 10
  mask : BitVec 16
  deriving DecidableEq, Repr

/-- R92, format W; z and y must be 0. -/
structure FmtW where
  z : BitVec 4
  sH : BitVec 5
  sD : BitVec 5
  kind : BitVec 4
  y : BitVec 8
  deriving DecidableEq, Repr

/-- R92, format Z; z must be 0. -/
structure FmtZ where
  z : BitVec 26
  deriving DecidableEq, Repr

/-- R92, format U1. -/
structure FmtU1 where
  pg : BitVec 3
  tok : BitVec 4
  aD : BitVec 4
  aA : BitVec 4
  sC : BitVec 5
  fn : BitVec 6
  deriving DecidableEq, Repr

/-- R92, format U2. -/
structure FmtU2 where
  pg : BitVec 3
  tok : BitVec 4
  aD : BitVec 4
  aA : BitVec 4
  aB : BitVec 4
  sC : BitVec 5
  fn : BitVec 2
  deriving DecidableEq, Repr

/-- The commands of the device: one constructor for each row of the table of operations and events. -/
inductive Instr where
  /-- SC_ALU (R96): Register-register scalar ALU instruction computes rd from rs1 and rs2 by FN. -/
  | scAlu (c : Nat) (f : FmtR)
  /-- SC_ADDI (R97): Adds a sign-extended IMM13 to rs1 into rd. -/
  | scAddi (c : Nat) (f : FmtI)
  /-- SC_ANDI (R97): ANDs rs1 with a zero-extended IMM13 into rd. -/
  | scAndi (c : Nat) (f : FmtI)
  /-- SC_ORI (R97): ORs rs1 with a zero-extended IMM13 into rd. -/
  | scOri (c : Nat) (f : FmtI)
  /-- SC_XORI (R97): XORs rs1 with a zero-extended IMM13 into rd. -/
  | scXori (c : Nat) (f : FmtI)
  /-- SC_SHI (R97): Shifts rs1 by an immediate amount and kind into rd. -/
  | scShi (c : Nat) (f : FmtI)
  /-- SC_LDI (R97): Loads a sign-extended IMM18 into rd. -/
  | scLdi (c : Nat) (f : FmtK)
  /-- SC_LUI (R97): Sets rd[31:14] from IMM18 and keeps rd[13:0]. -/
  | scLui (c : Nat) (f : FmtK)
  /-- SC_CMP (R98): Compares two registers by CC and writes predicate pd. -/
  | scCmp (c : Nat) (f : FmtC)
  /-- SC_CMPI (R98): Compares a register with a sign-extended IMM11 by an integer CC and writes pd. -/
  | scCmpi (c : Nat) (f : FmtCI)
  /-- SC_PLOG (R99): Combines predicates pa and pb by FN into pd. -/
  | scPlog (c : Nat) (f : FmtP)
  /-- SC_LD (R100): Scalar load from the window with sign extension, checked for plane, bound and ECC. -/
  | scLd (c : Nat) (f : FmtM)
  /-- SC_LDU (R100): Scalar load from the window with zero extension, checked for plane, bound and ECC. -/
  | scLdu (c : Nat) (f : FmtM)
  /-- SC_ST (R100): Scalar store of the low bytes of rs into the window. -/
  | scSt (c : Nat) (f : FmtM)
  /-- SC_ADDR (R101): Address-register arithmetic AADD, ASUB, ASET or AGET. -/
  | scAddr (c : Nat) (f : FmtAR)
  /-- SC_AADDI (R101): Adds IMM15 to an address register's OFFSET modulo 2^22. -/
  | scAaddi (c : Nat) (f : FmtAI)
  /-- BR_JMP (R102): Branches pc-relative when its guard reads 1. -/
  | brJmp (c : Nat) (f : FmtB)
  /-- BR_CALL (R102): Branches pc-relative and writes the return address to s31 when taken. -/
  | brCall (c : Nat) (f : FmtB)
  /-- BR_JR (R102): Branches to the word address held in a register. -/
  | brJr (c : Nat) (f : FmtJ)
  /-- SQ_LOOP (R67): Arms a hardware loop counter with a count and body end, or skips the body on a count of 0. -/
  | sqLoop (c : Nat) (f : FmtL)
  /-- SQ_END (R71): Waits for all tokens, disarms loops and ends the core's part of the step. -/
  | sqEnd (c : Nat) (f : FmtZ)
  /-- SQ_IFENCE (R104): Invalidates the instruction buffer. -/
  | sqIfence (c : Nat) (f : FmtZ)
  /-- SQ_NOP (R104): Does nothing for one cycle. -/
  | sqNop (c : Nat) (f : FmtZ)
  /-- TWAIT (R57): Waits on a set of completion tokens. -/
  | twait (c : Nat) (f : FmtT)
  /-- TWAIT_RETURN (R57): A waiting twait returns in the cycle after its last named token completes. -/
  | twaitReturn (c : Nat)
  /-- SY_WAIT (R105): Issues a wait of a given kind on a sync object and stalls the sequencer. -/
  | syWait (c : Nat) (f : FmtW)
  /-- MX_WLOAD (R108): Loads one weight tile into the array's shadow registers. -/
  | mxWload (c : Nat) (f : FmtU2)
  /-- MX_TILE (R109): Streams M input vectors through the active tile in FIRST, NEXT or WRITE mode. -/
  | mxTile (c : Nat) (f : FmtU2)
  /-- MX_FIN (R110): Folds and writes every row of an accumulator set and empties it. -/
  | mxFin (c : Nat) (f : FmtU1)
  /-- CW_CFG (R171): Reads and checks a 64-byte CWU address-generator descriptor. -/
  | cwCfg (c : Nat) (f : FmtU1)
  /-- CW_WINDOW (R165): Feeds CWU-formed input vectors through the array as mx.tile does and advances the cursor. -/
  | cwWindow (c : Nat) (f : FmtU2)
  /-- VX_ARITH (R115): Element-wise ADD, SUB, MUL or FMA on the vector unit. -/
  | vxArith (c : Nat) (f : FmtU2)
  /-- VX_MINMAX (R115): Element-wise maximum or minimum on the vector unit. -/
  | vxMinmax (c : Nat) (f : FmtU2)
  /-- VX_FN (R116): Applies an elementary function to N elements. -/
  | vxFn (c : Nat) (f : FmtU1)
  /-- VX_CVT (R117): Converts N elements from one type to another. -/
  | vxCvt (c : Nat) (f : FmtU1)
  /-- VX_MXQ (R117): Quantises N values into MX blocks with scales. -/
  | vxMxq (c : Nat) (f : FmtU2)
  /-- VX_RED (R118): Reduces N elements to one by SUM, MAX or MIN. -/
  | vxRed (c : Nat) (f : FmtU1)
  /-- VX_RAND (R119): Writes N counter-based random values, raw or uniform. -/
  | vxRand (c : Nat) (f : FmtU1)
  /-- VX_SAMPLE (R228): Selects one token from N logits and writes a result record. -/
  | vxSample (c : Nat) (f : FmtU2)
  /-- MSG_MOVE (R121): Copies or zeroes bytes or cells within the window. -/
  | msgMove (c : Nat) (f : FmtU1)
  /-- MSG_SEND (R122): Sends a message with a header naming its destination and sync object. -/
  | msgSend (c : Nat) (f : FmtU1)
  /-- SY_SIGNAL (R123): Signals a sync object with an argument. -/
  | sySignal (c : Nat) (f : FmtU1)
  /-- CR_PUSH (R124): Pushes a 128-byte partial into the canonical reduction network under a tag. -/
  | crPush (c : Nat) (f : FmtU1)
  /-- DG_LEAF (R125): Computes the leaf digest of a 4,096-byte chunk. -/
  | dgLeaf (c : Nat) (f : FmtU1)
  /-- DG_RESULT (R125): Computes the result digest of up to 4,096 bytes. -/
  | dgResult (c : Nat) (f : FmtU1)
  /-- ILLEGAL_ENCODING (R94): A word with a reserved opcode or undefined field faults ILLEGAL precisely without executing. -/
  | illegalEncoding (c : Nat)
  /-- TOKEN_COMPLETION (R58): A unit operation completes and sets its token COMPLETE with its writes visible. -/
  | tokenCompletion (c tok : Nat)
  /-- FETCH_MISS (R64): An instruction fetch misses the buffer and the line arrives after the tier latency. -/
  | fetchMiss (c : Nat)
  /-- CONTEXT_FAULT (R85): A fault is detected; the core stops issue, records the fault and reports to the command processor. -/
  | contextFault (c k : Nat)
  /-- CORE_PART_STOPPED (R85): In-flight operations end and the core reports its part stopped. -/
  | corePartStopped (c : Nat)
  /-- WAIT_LIMIT (R72): A sy.wait stalls for LIMIT×1,024 cycles and the context faults WAIT_LIMIT. -/
  | waitLimit (c : Nat)
  /-- SYNC_OPERATION_ARRIVAL (R244): A signal or wait reaches the object's sync engine and is applied in the fixed order. -/
  | syncOperationArrival (i : Nat)
  /-- SYNC_RELEASE (R247): A release reaches the waiter, which writes the status and resumes. -/
  | syncRelease (i : Nat)
  /-- TEARDOWN_NOTICE (R246): A teardown notice arrives over a link and the chip abandons its objects for that context. -/
  | teardownNotice (i : Nat)
  /-- SYNC_CFG_CHANGE (R250): A CFG write that changes EN, KIND or PARTIES releases waiters with RESET and clears the object. -/
  | syncCfgChange (req ch i : Nat) (v : Word)
  /-- SYNC_VALUE_WRITE (R250): A host write to VALUE takes effect first in the cycle and the queue is re-evaluated. -/
  | syncValueWrite (req ch i : Nat) (v : Word)
  /-- MESSAGE_ARRIVAL (R236): A message reaches its destination core, is checked, written and its signal applied. -/
  | messageArrival (i : Nat)
  /-- DELIVERY_REPORT (R237): A delivery report reaches the sending core; a refusal faults the sender MSG_REFUSED. -/
  | deliveryReport (i : Nat)
  /-- CR_CHILD_ARRIVAL (R189): A reduction child reaches its home CR port and is held or combined with its sibling. -/
  | crChildArrival (i : Nat)
  /-- ROOT_DELIVERY (R190): A tree root write reaches its destination window and DSYNC is signalled. -/
  | rootDelivery (i : Nat)
  /-- ATTN_APPEND (R226): A posted command quantises T new K and V rows into pages. -/
  | attnAppend (i : Nat)
  /-- ATTN_FWD (R220): A posted command runs forward attention in the mode-word mode. -/
  | attnFwd (i : Nat)
  /-- ATTN_BWD (R230): A posted command runs backward attention from saved statistics. -/
  | attnBwd (i : Nat)
  /-- ATTN_COMMAND_START (R217): A waiting attention command starts its page accesses once earlier ones on the same table end. -/
  | attnCommandStart (i : Nat)
  /-- ATTN_COMPLETION (R218): An attention command writes its completion record and sets DONE. -/
  | attnCompletion (i : Nat)
  /-- WINDOW_WRITE (R74): A write to CORE_WINk_CFG is checked and applied, or starts zeroing of the old extent. -/
  | windowWrite (req c k : Nat) (v : Word)
  /-- ZEROING_END (R141): Zeroing of a window finishes and ZEROING clears, applying any held window value. -/
  | zeroingEnd (c k : Nat)
  /-- ECC_WRITE_BACK (R144): A queued corrected word is written back when its bank is idle. -/
  | eccWriteBack (c : Nat)
  /-- DOORBELL_SQ_TAIL (R275): The doorbell's SQ_TAIL field announces descriptors. -/
  | doorbellSqTail (f off width : Nat) (v : DWord)
  /-- DOORBELL_CQ_HEAD (R275): The doorbell's CQ_HEAD field frees completion entries. -/
  | doorbellCqHead (f off width : Nat) (v : DWord)
  /-- DOORBELL_ARM (R288): The doorbell's ARM bit arms the completion interrupt. -/
  | doorbellArm (f off width : Nat) (v : DWord)
  /-- DESCRIPTOR_FETCH (R273): The device fetches an announced descriptor once a CQ entry is reserved, and checks it. -/
  | descriptorFetch (f q : Nat)
  /-- DESCRIPTOR_DISPATCH (R281): A checked descriptor is dispatched once FENCE and a command slot allow. -/
  | descriptorDispatch (f q : Nat)
  /-- NOP (R278): Descriptor that completes OK. -/
  | nop (id : Nat)
  /-- LOAD_PROGRAM (R471): Verifies a signed envelope and loads a model package or applies a partition configuration. -/
  | loadProgram (id : Nat)
  /-- LOAD_TENSOR (R279): Writes host bytes into a context's window. -/
  | loadTensor (id : Nat)
  /-- STORE_TENSOR (R279): Reads window bytes out to host memory. -/
  | storeTensor (id : Nat)
  /-- RUN_STEP (R298): Reads the slice list and queues a step for the context. -/
  | runStep (id : Nat)
  /-- SYNC_SIGNAL (R278): Host descriptor signals a sync object. -/
  | syncSignal (id : Nat)
  /-- SYNC_WAIT (R278): Host descriptor waits on a sync object with an optional timeout. -/
  | syncWait (id : Nat)
  /-- SYNC_WAIT_TIMEOUT (R284): A SYNC_WAIT reaches its TIMEOUT and completes TIMEOUT. -/
  | syncWaitTimeout (id : Nat)
  /-- PAGE_ALLOC (R307): Allocates free page groups into page-table entries. -/
  | pageAlloc (id : Nat)
  /-- PAGE_FREE (R308): Marks named page groups PENDING for release. -/
  | pageFree (id : Nat)
  /-- PAGE_TABLE_WRITE (R211): Writes page-table entries from host memory under the snapshot arbiter. -/
  | pageTableWrite (id : Nat)
  /-- SPILL (R476): Encrypts the pages of named groups into a host spill image. -/
  | spill (id : Nat)
  /-- RESTORE (R478): Verifies and decrypts a spill image into the pages of named entries. -/
  | restore (id : Nat)
  /-- DIGEST_READ (R278): Copies digests from a window table or the last result digest to the host. -/
  | digestRead (id : Nat)
  /-- ATTEST (R473): Writes a signed attestation quote to host memory. -/
  | attest (id : Nat)
  /-- FROG (R315): Host descriptor that tears down a context. -/
  | frog (id : Nat)
  /-- INGEST_CTL_RESUME (R342): Delivers held samples of a STOPPED stream and readmits frames. -/
  | ingestCtlResume (id : Nat)
  /-- INGEST_CTL_RESET (R342): Voids held samples, discards partial frames and readmits frames. -/
  | ingestCtlReset (id : Nat)
  /-- INGEST_CTL_STATUS (R342): Returns the stream status. -/
  | ingestCtlStatus (id : Nat)
  /-- DESCRIPTOR_COMPLETION (R289): A dispatched descriptor's last effect completes and its completion entry is written. -/
  | descriptorCompletion (id : Nat)
  /-- QP_ENABLE (R272): HI_QPq_CFG EN=1 moves a queue pair from OFF to ON. -/
  | qpEnable (f q : Nat) (v : Word)
  /-- QP_DRAIN (R272): Clearing EN with FORCE=0 moves a queue pair to DRAINING. -/
  | qpDrain (f q : Nat)
  /-- QP_FORCED_DISABLE (R272): Clearing EN with FORCE=1 completes fetched descriptors ABORTED and turns the pair OFF. -/
  | qpForcedDisable (f q : Nat)
  /-- QP_DRAIN_END (R272): A draining queue pair reaches INFLIGHT 0 and goes OFF. -/
  | qpDrainEnd (f q : Nat)
  /-- QP_ERROR (R272): A descriptor fetch or completion write fails and the pair enters ERROR. -/
  | qpError (f q : Nat) (wrote : Bool)
  /-- ELOG_ENABLE (R270): Setting HI_FN_ELOG_CFG.EN resets the log's TAIL, PHASE and HEAD. -/
  | elogEnable (f : Nat) (v : Word)
  /-- NUMVFS_WRITE (R264): Changing NumVFs makes VFs appear with reset registers or disappear. -/
  | numvfsWrite (n : Nat)
  /-- PF_FLR (R291): PF function-level reset performs a Fabric reset and resets every function's host registers. -/
  | pfFlr
  /-- VF_FLR (R291): VF function-level reset resets the VF's registers and its partition. -/
  | vfFlr (f : Nat)
  /-- PERST_N_FALL (R528): A falling PERST_N restarts link training before FABRIC_READY or is a Fabric reset after. -/
  | perstNFall
  /-- PCIE_HOT_RESET (R510): A PCIe hot or link-disable reset triggers a Fabric reset. -/
  | pcieHotReset
  /-- FABRST (R510): RST_CTRL.FABRST from the management port triggers a Fabric reset. -/
  | fabrst (req : Nat)
  /-- FABRIC_READY (R512): The Fabric reset or cast-on ends, FABRIC_READY is set and its record written. -/
  | fabricReady
  /-- MG_READ (R529): Management-port READ transaction returns BAR0 words. -/
  | mgRead (op comp : Byte) (addr : Word) (n : Nat)
  /-- MG_WRITE (R529): Management-port WRITE transaction applies BAR0 words. -/
  | mgWrite (op comp : Byte) (addr : Word) (data : List Byte)
  /-- REGISTER_WRITE (R3): A write to a register with no behaviour of its own takes effect by its access code. -/
  | registerWrite (req a n : Nat) (v : Word)
  /-- READ_TO_CLEAR (R4): A read of an RC field returns and clears it. -/
  | readToClear (req a n : Nat)
  /-- PAIR_LOW_READ (R7): A low-word read of a 64-bit pair captures the high word into the requester's holding copy. -/
  | pairLowRead (req a : Nat)
  /-- STEP_START (R300): The step header is written and the step starts on every core of the core set. -/
  | stepStart (p : Nat)
  /-- STEP_COMMIT (R301): Once all commit conditions hold, the step commits, charges time and selects the next context. -/
  | stepCommit (p C S : Nat)
  /-- WITHDRAWAL_END (R313): The withdrawn step's cores are quiet and grants returned, and the switch to the holder proceeds. -/
  | withdrawalEnd (p C S : Nat)
  /-- CONTEXT_TEARDOWN_END (R315): The context is recreated IDLE and the TEARDOWN record posted. -/
  | contextTeardownEnd (p x : Nat)
  /-- TEARDOWN_TIMEOUT (R316): A teardown that has not ended within 1 ms becomes a partition reset. -/
  | teardownTimeout (p x : Nat)
  /-- PARTITION_RESET_END (R317): The partition reset ends, contexts are recreated or the configuration discarded, and the record written. -/
  | partitionResetEnd (p : Nat)
  /-- CHANNEL_ENABLE (R318): Setting CHn_CP_CTRL.EN from OFF restores the channel. -/
  | channelEnable (n : Nat)
  /-- CHANNEL_DRAIN (R319): Clearing CHn_CP_CTRL.EN with FORCE=0 drains the channel. -/
  | channelDrain (n : Nat)
  /-- CHANNEL_FORCED_DISABLE (R319): Clearing EN with FORCE=1 turns the channel OFF and resets its partition. -/
  | channelForcedDisable (n : Nat)
  /-- CHANNEL_DRAIN_END (R319): The running step commits and the draining channel shows OFF. -/
  | channelDrainEnd (n : Nat)
  /-- REPAIR_GO (R445): CHn_CTXc_REPAIR.ACT GO ends repair and lets the held step repeat. -/
  | repairGo (req n x : Nat)
  /-- REPAIR_DROP (R445): CHn_CTXc_REPAIR.ACT DROP ends repair and completes the held step CORE_FENCED. -/
  | repairDrop (req n x : Nat)
  /-- CORE_FAILURE (R436): A core meets a failure criterion, is stopped and fenced, and the running step discarded. -/
  | coreFailure (ch row col cause : Nat)
  /-- NOC_TIMEOUT (R434): A flit waits 65,536 CK_N cycles at a core's router and the core fails. -/
  | nocTimeout (ch row col : Nat)
  /-- MIGRATION_END (R437): Scratchpad migration and zeroing finish, routing tables switch and held arrivals forward. -/
  | migrationEnd (i : Nat)
  /-- LINE_PACKET (R325): A line-format UDP packet is received and checked for its stream's frame. -/
  | linePacket (port : Nat) (fr : List Byte)
  /-- AVTP_PACKET (R328): An IEEE 1722 MJPEG packet is received and reassembled into its frame. -/
  | avtpPacket (port : Nat) (fr : List Byte)
  /-- FRAME_TIMEOUT (R327): A frame receives no packet for 2×PERIOD_US and fails for missing lines. -/
  | frameTimeout (t : Nat)
  /-- FRAME_ADMISSION (R329): A completed or failed frame is admitted once reorder entries are free and gets its sample id. -/
  | frameAdmission (t : Nat)
  /-- SAMPLE_START (R330): An admitted sample starts on a decoder and pre-processing unit. -/
  | sampleStart (t u : Nat)
  /-- SAMPLE_END (R333): A sample's last output byte is written to its targets. -/
  | sampleEnd (t id : Nat)
  /-- OVERTIME (R331): A sample reaches its budget and is aborted as OVERTIME. -/
  | overtime (t id : Nat)
  /-- SAMPLE_DELIVERY (R337): The reorder stage delivers a sample in order, writes the arrival entry and signals DSYNC. -/
  | sampleDelivery (t : Nat)
  /-- STREAM_ENABLE (R336): Setting STRMs_CTRL.EN checks and copies the plan and enables the stream. -/
  | streamEnable (req t : Nat) (v : Word)
  /-- STREAM_DRAIN (R343): Clearing EN with FORCE=0 drains the stream. -/
  | streamDrain (req t : Nat)
  /-- STREAM_FORCED_DISABLE (R343): Clearing EN with FORCE=1 enters in-flight samples ABORTED and turns the stream OFF. -/
  | streamForcedDisable (req t : Nat)
  /-- SWATCH_TURN (R346): At a frame's end a swatch turn is reserved and the swatch starts or is deferred. -/
  | swatchTurn (t u : Nat)
  /-- SWATCH_END (R347): A swatch completes and its digest is compared with the reference. -/
  | swatchEnd (t : Nat) (late : Bool)
  /-- SWDATA_ACCESS (R349): An ING_SWDATA access reads or writes swatch memory and advances ING_SWADDR. -/
  | swdataAccess (req : Nat) (wr_ : Option Word)
  /-- LE_ENABLE (R351): LE_CTRL.EN=1 sets NEXT to the epoch and starts ticks. -/
  | leEnable (req : Nat)
  /-- LE_DISABLE (R381): Clearing LE_CTRL.EN stops ticks and forces every group off. -/
  | leDisable (req : Nat)
  /-- PCOMMIT (R354): LE_CTRL.PCOMMIT requests staged parameters be applied at the next tick. -/
  | pcommit (req : Nat)
  /-- BASE_TICK (R351): TB3 reaches NEXT; the engine ticks, applies parameters and runs boundaries. -/
  | baseTick
  /-- LOOP_START (R362): A ready loop starts its block-ops on its lane. -/
  | loopStart (l : Nat)
  /-- LOOP_COMMIT (R362): A loop commits its signals, state, links, inserts and trace sample. -/
  | loopCommit (l : Nat) (mismatch : Bool)
  /-- GROUP_ENABLE (R361): GRPg_CFG.EN=1 checks the group's programs and starts CHECKING. -/
  | groupEnable (req g : Nat) (v : Word)
  /-- GROUP_CHECK_END (R363): The schedulability check ends and the group turns ON or is rejected. -/
  | groupCheckEnd (g : Nat)
  /-- GROUP_DRAIN (R379): Clearing EN with FORCE=0 drains the group. -/
  | groupDrain (req g : Nat)
  /-- GROUP_FORCED_DISABLE (R379): Clearing EN with FORCE=1 aborts pending outputs and turns the group OFF. -/
  | groupForcedDisable (req g : Nat)
  /-- LE_RESTORE (R375): A write requests return of a loop to its primary program at its next boundary. -/
  | leRestore (req j : Nat)
  /-- LE_MEMDATA_ACCESS (R354): An LE_MEMDATA access reads or writes engine memory and advances LE_MEMADDR. -/
  | leMemdataAccess (req : Nat) (w : Option Word)
  /-- MAILBOX_MESSAGE (R371): A setpoint mailbox message is accepted whole or refused. -/
  | mailboxMessage (i : Nat)
  /-- MAILBOX_STALE (R372): A mailbox's deadline passes, it becomes STALE and raises the stale-setpoint event. -/
  | mailboxStale (m : Nat)
  /-- CONTROL_FRAME (R367): A control-port frame is classified and its input fields latched. -/
  | controlFrame (port : Nat) (fr : List Byte)
  /-- TRACE_ARM (R377): TR_CTRL.EN=1 resets channel indices and arms loop trace. -/
  | traceArm (req : Nat) (v : Word)
  /-- FIRE (R377): TR_CTRL.FIRE gives the HOST trigger. -/
  | fire (req : Nat)
  /-- TRACE_STOP (R377): Every enabled channel has recorded POST samples and trace is STOPPED. -/
  | traceStop
  /-- RECORDER_BLOCK (R378): A completed 4 KiB trace run is appended to the recorder or skipped. -/
  | recorderBlock (skip : Bool)
  /-- GATE_INTERVAL (R402): A gate control list entry's interval ends and the next entry's gates apply. -/
  | gateInterval (p : Nat)
  /-- SWAP (R403): CPp_GCTRL.SWAP requests a gate control list bank swap. -/
  | swap (req p : Nat)
  /-- SWAP_APPLY (R403): The new list's first cycle starts at or after BASE. -/
  | swapApply (p : Nat)
  /-- PREEMPT_VERIFY (R404): The 802.3br verify exchange completes and preemption becomes active. -/
  | preemptVerify (p : Nat)
  /-- TB_STEP (R388): A write to TBn_STEP adds nanoseconds to the base and to TB3 if followed. -/
  | tbStep (req n : Nat) (v : Word)
  /-- TB_ENABLE (R394): TBn_CTRL.EN=1 starts the PTP engine or link transfer and servo. -/
  | tbEnable (req n : Nat) (v : Word)
  /-- CAP (R389): TIME_CTRL.CAP captures all four bases. -/
  | cap (req : Nat)
  /-- PPS_IN (R389): A PPS_IN rising edge captures all four bases. -/
  | ppsIn
  /-- PPS_OUT (R389): TB3 reaches PPS_NEXT, PPS_OUT rises and PPS_NEXT advances. -/
  | ppsOut
  /-- PPS_OUT_FALL (R389): PPS_OUT falls 40,000 CK_S cycles after rising. -/
  | ppsOutFall
  /-- PTP_SYNC (R391): A Sync (with Follow_Up for two-step) yields an offset that runs the servo. -/
  | ptpSync (m : PtpMsg)
  /-- FOLLOW_UP (R391): A Follow_Up supplies t1 for a two-step Sync. -/
  | followUp (m : PtpMsg)
  /-- DELAY_REQ (R391): The engine sends a Delay_Req every 2^LOGDREQ s. -/
  | delayReq (n : Nat)
  /-- DELAY_RESP (R391): A Delay_Resp completes a path delay measurement. -/
  | delayResp (m : PtpMsg)
  /-- PDELAY_REQ (R391): The engine sends a Pdelay_Req periodically, or answers a received one. -/
  | pdelayReq (n : Nat) (rx : Option PtpMsg)
  /-- PDELAY_RESP (R391): A Pdelay_Resp or its Follow_Up completes a link delay measurement. -/
  | pdelayResp (followUp : Bool) (m : PtpMsg)
  /-- HOLDOVER (R395): No offset for LOSSCNT intervals puts the base in HOLDOVER. -/
  | holdover (n : Nat)
  /-- SEL (R399): A write to TB3_CTRL.SEL switches TB3 to the other base. -/
  | sel (req b : Nat)
  /-- TIME_REQUEST (R396): Every 1 ms a link-fed base sends a TIME request flit. -/
  | timeRequest (n : Nat)
  /-- TIME_FLIT (R396): A TIME flit arrives and is answered or yields a link-transfer offset. -/
  | timeFlit (l corr : Nat) (unc : Bool) (fl : List Byte)
  /-- LINK_ENABLE (R254): KLnn_CTRL.EN=1 starts link training. -/
  | linkEnable (req l : Nat)
  /-- LINK_DRAIN (R256): Clearing EN with FORCE=0 moves the link to DRAINING. -/
  | linkDrain (req l : Nat)
  /-- LINK_FORCED_DISABLE (R256): Clearing EN with FORCE=1 turns the link OFF and aborts its messages. -/
  | linkForcedDisable (req l : Nat)
  /-- LINK_DRAIN_END (R256): Accepted flits are acknowledged and the draining link goes OFF. -/
  | linkDrainEnd (l : Nat)
  /-- TRAINING_END (R255): Training completes, pools are advertised and the link goes UP. -/
  | trainingEnd (l clu chip link : Nat) (pools : List (Nat × Nat))
  /-- TRAINING_RETRY (R254): Training not completed within 1 ms is attempted again. -/
  | trainingRetry (l : Nat)
  /-- LINK_DOWN (R254): RETRY_MAX failed resends take the link DOWN and refuse unacknowledged messages. -/
  | linkDown (l : Nat)
  /-- ROUTE_EVALUATION (R260): Routes are re-evaluated after a change of link state. -/
  | routeEvaluation
  /-- DATA_FLIT (R252): A DATA flit is received, checked and forwarded. -/
  | dataFlit (l corr : Nat) (unc : Bool) (fl : List Byte) (w : Option WireChild)
  /-- CTRL_FLIT (R252): A CTRL flit of 16-byte records is received and its records acted on. -/
  | ctrlFlit (l corr : Nat) (unc : Bool) (fl : List Byte) (recs : List CtrlRec)
  /-- IDLE_FLIT (R252): An IDLE flit carries acknowledgements and credits. -/
  | idleFlit (l corr : Nat) (unc : Bool) (fl : List Byte)
  /-- NAK (R254): A NAK makes the sender resend from ACKSEQ+1. -/
  | nak (l ackseq : Nat)
  /-- CREDIT_REQUEST (R261): An end-to-end credit request reaches the destination chip and is granted in order. -/
  | creditRequest (i : Nat)
  /-- CREDIT_GRANT (R261): A grant reaches the source chip and the message is sent. -/
  | creditGrant (i : Nat)
  /-- DD_FORCE (R416): A DD_FORCE write forces domains active while its bits stay set. -/
  | ddForce (req : Nat) (v : Word)
  /-- SILENT_TEST (R418): The 1 µs test of a SILENT comparator finds HI µs without a latch and trips. -/
  | silentTest (k : Nat)
  /-- TRIP_IN (R419): A TRIP_IN pin held low past the filter trips and withdraws permits. -/
  | tripIn (k n : Nat)
  /-- GRANT (R420): A write of PERMITk_CTRL.GRANT grants the permit or, with 0, withdraws it with cause HOST. -/
  | grant (req k : Nat) (b : Bool)
  /-- TRIP_PATH_FAULT (R422): A copy or read-back mismatch sets TRIP_FAULT, withdraws every permit and stops the heartbeat. -/
  | tripPathFault (kind k : Nat)
  /-- CLOCK_FAIL (R423): The clock monitor finds the island CK_A stopped or off frequency and withdraws every permit. -/
  | clockFail (bad : Bool)
  /-- LOCK (R424): SAFE_LOCK.LOCK locks the safety configuration. -/
  | lock (req : Nat)
  /-- FABRIC_SLICE (R426): A Fabric self-test slice runs between steps on one physical column. -/
  | fabricSlice (ch : Nat)
  /-- FABRIC_SLICE_END (R426): A Fabric slice ends, fencing failed cores and advancing the pass. -/
  | fabricSliceEnd (ch : Nat) (bad : List Nat)
  /-- ISLAND_SLICE (R427): An island self-test slice starts on an idle lane far enough from the next tick. -/
  | islandSlice (l : Nat)
  /-- ISLAND_SLICE_END (R427): An island slice ends, setting IFAIL on failure. -/
  | islandSliceEnd (l : Nat) (fail : Bool)
  /-- TEST_INTERVAL (R428): A test interval ends; overdue passes are flagged and new passes start. -/
  | testInterval
  /-- BISTGO (R429): TEST_CTRL.BISTGO starts logic BIST of a free channel. -/
  | bistgo (req ch : Nat)
  /-- BIST_END (R429): BIST ends, fencing failed cores and clearing BISTBUSY. -/
  | bistEnd (bad : List (Nat × Nat))
  /-- GAUGE_MEASUREMENT (R449): A gauge interval elapses and channel replicas are measured. -/
  | gaugeMeasurement (ch : Option Nat)
  /-- GAUGE_MEASUREMENT_END (R450): A measurement ends and the margin controller adjusts VSET and records history. -/
  | gaugeMeasurementEnd (n : Nat) (slack : Int) (sram : Bool)
  /-- NOW (R452): GAUGE_CFG.NOW starts a measurement of every channel. -/
  | now (req : Nat)
  /-- PMBUS_TRANSACTION_END (R509): A VOUT_COMMAND transaction completes or fails. -/
  | pmbusTransactionEnd (n : Nat) (good : Bool)
  /-- SUPPLY_WARNING (R454): A rail crosses its warning threshold, raising the source and engaging tension. -/
  | supplyWarning (r : Nat)
  /-- SUPPLY_RECOVERY (R454): A rail recovers after 1,000 samples above threshold. -/
  | supplyRecovery (r : Nat)
  /-- RAIL_RESET (R454): VDD_CHn crosses its reset threshold and channel n is reset with a partition reset. -/
  | railReset (r : Nat)
  /-- FAST_DROOP (R502): A fast droop starts a tension burst. -/
  | fastDroop (ch : Nat) (present : Bool)
  /-- THERMAL_SAMPLE (R456): A 10 µs sensor sample drives stretching, clock stop, restart or shutdown. -/
  | thermalSample (n : Nat) (temp : Int)
  /-- PORST_N (R514): PORST_N low resets everything; its rise starts cast-on. -/
  | porstN (low : Bool) (clu chip : Nat)
  /-- BROWN_OUT (R508): VDD_AON falls below 90 % and acts as PORST_N. -/
  | brownOut (low : Bool) (clu chip : Nat)
  /-- PLL_LOCK (R501): The root PLL locks and PD00 moves to CK_M. -/
  | pllLock
  /-- CLOCK_RESET (R501): The PLL loses lock for over 1 µs and a clock reset follows. -/
  | clockReset
  /-- CAST_ON_SELF_TEST_END (R447): Self-test, soft repair and BIST end and the spare map is built. -/
  | castOnSelfTestEnd (bad : List (Nat × Nat × Nat))
  /-- ISLRST (R510): RST_CTRL.ISLRST from the management port resets the island. -/
  | islrst (req : Nat)
  /-- ISLAND_UP (R514): The island completes start-up and ISLAND_UP is set. -/
  | islandUp
  /-- PWR_GATE (R505): Setting a PWR_GATE bit gates a domain, or is rejected. -/
  | pwrGate (req d : Nat)
  /-- PWR_UNGATE (R506): Clearing a PWR_GATE bit powers the domain up. -/
  | pwrUngate (req d : Nat)
  /-- PWR_UP (R506): A domain finishes power-up and leaves reset, setting PWR_UP. -/
  | pwrUp (d : Nat)
  /-- CERTGO (R461): SEC_CTRL.CERTGO reconstructs and checks the device root. -/
  | certgo (req : Nat)
  /-- ROOT_RECONSTRUCTION_END (R461): Root reconstruction ends with ROOT_OK or ROOT_BAD. -/
  | rootReconstructionEnd
  /-- STORE_BINDING (R463): The store is bound and first authenticated read sets STORE_OK. -/
  | storeBinding (good : Bool)
  /-- HWM_ACKNOWLEDGEMENT (R467): The store acknowledges an HWM reservation and signing proceeds. -/
  | hwmAcknowledgement (good : Bool)
  /-- KINST (R469): SEC_CTRL.KINST installs the operator key from the management port. -/
  | kinst (req : Nat) (good : Option Bool)
  /-- KROT (R469): SEC_CTRL.KROT verifies a key record and rotates the operator key. -/
  | krot (req : Nat) (good : Option Bool)
  /-- RECORDER_READ (R480): A write to SEC_RRD_ADDR reads and verifies a recorder block. -/
  | recorderRead (req r k : Nat)
  /-- RECORDER_READ_END (R480): The recorder read result is ready within 20 µs. -/
  | recorderReadEnd
  /-- REGION_OVERWRITE_END (R481): Scrubbing of a recorder region finishes. -/
  | regionOverwriteEnd (r : Nat)
  /-- TRACE_RING_ENABLE (R498): Setting TRCf_CFG or SMPf_CFG EN enables a ring. -/
  | traceRingEnable (req f : Nat) (smp : Bool) (v : Word)
  /-- FLUSH (R490): FLUSH µs after its first record a partial protected block is written. -/
  | flush (k : Nat)
  /-- SAMPLE_INTERVAL (R495): Every INTERVAL µs the sampler captures its selected counters. -/
  | sampleInterval (f : Nat) (coincide : Bool)
  /-- COUNTER_VALUE_WRITE (R494): A write of a counter's value registers sets its count. -/
  | counterValueWrite (req a : Nat) (v : Word)
  /-- JTAG_INSTRUCTION (R527): A JTAG instruction performs boundary scan or bypass. -/
  | jtagInstruction (instr : Nat) (trst : Bool) (cells : List (Nat × Bool))
  /-- PERST_N_RISE (R514): PERST_N rising lets PCIe link training start once the island is up. -/
  | perstNRise
  /-- PEER_LINK_LOSS (R22): A Kornal link's peer becomes absent, unpowered or reset and the link shows link-down. -/
  | peerLinkLoss (l : Nat)
  deriving DecidableEq, Repr

end Sys2Proof
end

