-- ==== Sys2Proof/Decode.lean ====
section
/-! DEFINITION. Sys2Proof/Decode.lean: the core's instruction words (R91-R94): the word of each format, the decoder
from a word to a command, the encoder back, the words R94 calls ILLEGAL. The rows of the table of operations and events
carry no bits of their own, so the host's word decoder answers none. -/

namespace Sys2Proof

/-! ### The formats of R92 as words -/

/-- R92, format R under a major opcode. -/
def FmtR.word (op : BitVec 6) (f : FmtR) : Word := (op ++ (f.pg ++ f.rd ++ f.rs1 ++ f.rs2 ++ f.fn : BitVec 26) : BitVec 32)

/-- The fields of format R in a word. -/
def FmtR.ofWord (w : Word) : FmtR where
  pg := w.extractLsb' 23 3
  rd := w.extractLsb' 18 5
  rs1 := w.extractLsb' 13 5
  rs2 := w.extractLsb' 8 5
  fn := w.extractLsb' 0 8

/-- R92, format I under a major opcode. -/
def FmtI.word (op : BitVec 6) (f : FmtI) : Word := (op ++ (f.pg ++ f.rd ++ f.rs1 ++ f.imm : BitVec 26) : BitVec 32)

/-- The fields of format I in a word. -/
def FmtI.ofWord (w : Word) : FmtI where
  pg := w.extractLsb' 23 3
  rd := w.extractLsb' 18 5
  rs1 := w.extractLsb' 13 5
  imm := w.extractLsb' 0 13

/-- R92, format K under a major opcode. -/
def FmtK.word (op : BitVec 6) (f : FmtK) : Word := (op ++ (f.pg ++ f.rd ++ f.imm : BitVec 26) : BitVec 32)

/-- The fields of format K in a word. -/
def FmtK.ofWord (w : Word) : FmtK where
  pg := w.extractLsb' 23 3
  rd := w.extractLsb' 18 5
  imm := w.extractLsb' 0 18

/-- R92, format C under a major opcode. -/
def FmtC.word (op : BitVec 6) (f : FmtC) : Word := (op ++ (f.pg ++ f.pd ++ f.rs1 ++ f.rs2 ++ f.cc ++ f.z : BitVec 26) : BitVec 32)

/-- The fields of format C in a word. -/
def FmtC.ofWord (w : Word) : FmtC where
  pg := w.extractLsb' 23 3
  pd := w.extractLsb' 20 3
  rs1 := w.extractLsb' 15 5
  rs2 := w.extractLsb' 10 5
  cc := w.extractLsb' 6 4
  z := w.extractLsb' 0 6

/-- R92, format CI under a major opcode. -/
def FmtCI.word (op : BitVec 6) (f : FmtCI) : Word := (op ++ (f.pg ++ f.pd ++ f.rs1 ++ f.cc ++ f.imm : BitVec 26) : BitVec 32)

/-- The fields of format CI in a word. -/
def FmtCI.ofWord (w : Word) : FmtCI where
  pg := w.extractLsb' 23 3
  pd := w.extractLsb' 20 3
  rs1 := w.extractLsb' 15 5
  cc := w.extractLsb' 11 4
  imm := w.extractLsb' 0 11

/-- R92, format P under a major opcode. -/
def FmtP.word (op : BitVec 6) (f : FmtP) : Word := (op ++ (f.pg ++ f.pd ++ f.pa ++ f.pb ++ f.fn ++ f.z : BitVec 26) : BitVec 32)

/-- The fields of format P in a word. -/
def FmtP.ofWord (w : Word) : FmtP where
  pg := w.extractLsb' 23 3
  pd := w.extractLsb' 20 3
  pa := w.extractLsb' 17 3
  pb := w.extractLsb' 14 3
  fn := w.extractLsb' 10 4
  z := w.extractLsb' 0 10

/-- R92, format M under a major opcode. -/
def FmtM.word (op : BitVec 6) (f : FmtM) : Word := (op ++ (f.pg ++ f.r ++ f.aB ++ f.sz ++ f.imm : BitVec 26) : BitVec 32)

/-- The fields of format M in a word. -/
def FmtM.ofWord (w : Word) : FmtM where
  pg := w.extractLsb' 23 3
  r := w.extractLsb' 18 5
  aB := w.extractLsb' 14 4
  sz := w.extractLsb' 12 2
  imm := w.extractLsb' 0 12

/-- R92, format AR under a major opcode. -/
def FmtAR.word (op : BitVec 6) (f : FmtAR) : Word := (op ++ (f.pg ++ f.aD ++ f.aS ++ f.rs ++ f.sh ++ f.fn : BitVec 26) : BitVec 32)

/-- The fields of format AR in a word. -/
def FmtAR.ofWord (w : Word) : FmtAR where
  pg := w.extractLsb' 23 3
  aD := w.extractLsb' 19 4
  aS := w.extractLsb' 15 4
  rs := w.extractLsb' 10 5
  sh := w.extractLsb' 8 2
  fn := w.extractLsb' 0 8

/-- R92, format AI under a major opcode. -/
def FmtAI.word (op : BitVec 6) (f : FmtAI) : Word := (op ++ (f.pg ++ f.aD ++ f.aS ++ f.imm : BitVec 26) : BitVec 32)

/-- The fields of format AI in a word. -/
def FmtAI.ofWord (w : Word) : FmtAI where
  pg := w.extractLsb' 23 3
  aD := w.extractLsb' 19 4
  aS := w.extractLsb' 15 4
  imm := w.extractLsb' 0 15

/-- R92, format B under a major opcode. -/
def FmtB.word (op : BitVec 6) (f : FmtB) : Word := (op ++ (f.pg ++ f.off : BitVec 26) : BitVec 32)

/-- The fields of format B in a word. -/
def FmtB.ofWord (w : Word) : FmtB where
  pg := w.extractLsb' 23 3
  off := w.extractLsb' 0 23

/-- R92, format J under a major opcode. -/
def FmtJ.word (op : BitVec 6) (f : FmtJ) : Word := (op ++ (f.pg ++ f.z ++ f.rs ++ f.y : BitVec 26) : BitVec 32)

/-- The fields of format J in a word. -/
def FmtJ.ofWord (w : Word) : FmtJ where
  pg := w.extractLsb' 23 3
  z := w.extractLsb' 18 5
  rs := w.extractLsb' 13 5
  y := w.extractLsb' 0 13

/-- R92, format L under a major opcode. -/
def FmtL.word (op : BitVec 6) (f : FmtL) : Word := (op ++ (f.lc ++ f.im ++ f.cnt ++ f.len : BitVec 26) : BitVec 32)

/-- The fields of format L in a word. -/
def FmtL.ofWord (w : Word) : FmtL where
  lc := w.extractLsb' 24 2
  im := w.extractLsb' 23 1
  cnt := w.extractLsb' 13 10
  len := w.extractLsb' 0 13

/-- R92, format T under a major opcode. -/
def FmtT.word (op : BitVec 6) (f : FmtT) : Word := (op ++ (f.z ++ f.mask : BitVec 26) : BitVec 32)

/-- The fields of format T in a word. -/
def FmtT.ofWord (w : Word) : FmtT where
  z := w.extractLsb' 16 10
  mask := w.extractLsb' 0 16

/-- R92, format W under a major opcode. -/
def FmtW.word (op : BitVec 6) (f : FmtW) : Word := (op ++ (f.z ++ f.sH ++ f.sD ++ f.kind ++ f.y : BitVec 26) : BitVec 32)

/-- The fields of format W in a word. -/
def FmtW.ofWord (w : Word) : FmtW where
  z := w.extractLsb' 22 4
  sH := w.extractLsb' 17 5
  sD := w.extractLsb' 12 5
  kind := w.extractLsb' 8 4
  y := w.extractLsb' 0 8

/-- R92, format Z under a major opcode. -/
def FmtZ.word (op : BitVec 6) (f : FmtZ) : Word := (op ++ (f.z : BitVec 26) : BitVec 32)

/-- The fields of format Z in a word. -/
def FmtZ.ofWord (w : Word) : FmtZ where
  z := w.extractLsb' 0 26

/-- R92, format U1 under a major opcode. -/
def FmtU1.word (op : BitVec 6) (f : FmtU1) : Word := (op ++ (f.pg ++ f.tok ++ f.aD ++ f.aA ++ f.sC ++ f.fn : BitVec 26) : BitVec 32)

/-- The fields of format U1 in a word. -/
def FmtU1.ofWord (w : Word) : FmtU1 where
  pg := w.extractLsb' 23 3
  tok := w.extractLsb' 19 4
  aD := w.extractLsb' 15 4
  aA := w.extractLsb' 11 4
  sC := w.extractLsb' 6 5
  fn := w.extractLsb' 0 6

/-- R92, format U2 under a major opcode. -/
def FmtU2.word (op : BitVec 6) (f : FmtU2) : Word := (op ++ (f.pg ++ f.tok ++ f.aD ++ f.aA ++ f.aB ++ f.sC ++ f.fn : BitVec 26) : BitVec 32)

/-- The fields of format U2 in a word. -/
def FmtU2.ofWord (w : Word) : FmtU2 where
  pg := w.extractLsb' 23 3
  tok := w.extractLsb' 19 4
  aD := w.extractLsb' 15 4
  aA := w.extractLsb' 11 4
  aB := w.extractLsb' 7 4
  sC := w.extractLsb' 2 5
  fn := w.extractLsb' 0 2

/-- R93: the command that an instruction word of core `c` spells; none for a reserved major opcode. -/
def decodeCore (c : Nat) (w : Word) : Option Instr :=
  match (w.extractLsb' 26 6).toNat with
  | 1 => some (.scAlu c (FmtR.ofWord w))
  | 2 => some (.scAddi c (FmtI.ofWord w))
  | 3 => some (.scAndi c (FmtI.ofWord w))
  | 4 => some (.scOri c (FmtI.ofWord w))
  | 5 => some (.scXori c (FmtI.ofWord w))
  | 6 => some (.scShi c (FmtI.ofWord w))
  | 7 => some (.scLdi c (FmtK.ofWord w))
  | 8 => some (.scLui c (FmtK.ofWord w))
  | 9 => some (.scCmp c (FmtC.ofWord w))
  | 10 => some (.scCmpi c (FmtCI.ofWord w))
  | 11 => some (.scPlog c (FmtP.ofWord w))
  | 12 => some (.scLd c (FmtM.ofWord w))
  | 13 => some (.scLdu c (FmtM.ofWord w))
  | 14 => some (.scSt c (FmtM.ofWord w))
  | 15 => some (.scAddr c (FmtAR.ofWord w))
  | 16 => some (.scAaddi c (FmtAI.ofWord w))
  | 17 => some (.brJmp c (FmtB.ofWord w))
  | 18 => some (.brCall c (FmtB.ofWord w))
  | 19 => some (.brJr c (FmtJ.ofWord w))
  | 20 => some (.sqLoop c (FmtL.ofWord w))
  | 21 => some (.sqEnd c (FmtZ.ofWord w))
  | 22 => some (.sqIfence c (FmtZ.ofWord w))
  | 23 => some (.sqNop c (FmtZ.ofWord w))
  | 24 => some (.twait c (FmtT.ofWord w))
  | 25 => some (.syWait c (FmtW.ofWord w))
  | 32 => some (.mxWload c (FmtU2.ofWord w))
  | 33 => some (.mxTile c (FmtU2.ofWord w))
  | 34 => some (.mxFin c (FmtU1.ofWord w))
  | 35 => some (.cwCfg c (FmtU1.ofWord w))
  | 36 => some (.cwWindow c (FmtU2.ofWord w))
  | 37 => some (.vxArith c (FmtU2.ofWord w))
  | 38 => some (.vxMinmax c (FmtU2.ofWord w))
  | 39 => some (.vxFn c (FmtU1.ofWord w))
  | 40 => some (.vxCvt c (FmtU1.ofWord w))
  | 41 => some (.vxMxq c (FmtU2.ofWord w))
  | 42 => some (.vxRed c (FmtU1.ofWord w))
  | 43 => some (.vxRand c (FmtU1.ofWord w))
  | 44 => some (.vxSample c (FmtU2.ofWord w))
  | 45 => some (.msgMove c (FmtU1.ofWord w))
  | 46 => some (.msgSend c (FmtU1.ofWord w))
  | 47 => some (.sySignal c (FmtU1.ofWord w))
  | 48 => some (.crPush c (FmtU1.ofWord w))
  | 49 => some (.dgLeaf c (FmtU1.ofWord w))
  | 50 => some (.dgResult c (FmtU1.ofWord w))
  | _ => none

/-- The core and the word of a command that is an instruction of a core; none for every other command. -/
def encodeCore : Instr → Option (Nat × Word)
  | .scAlu c f => some (c, f.word 1#6)
  | .scAddi c f => some (c, f.word 2#6)
  | .scAndi c f => some (c, f.word 3#6)
  | .scOri c f => some (c, f.word 4#6)
  | .scXori c f => some (c, f.word 5#6)
  | .scShi c f => some (c, f.word 6#6)
  | .scLdi c f => some (c, f.word 7#6)
  | .scLui c f => some (c, f.word 8#6)
  | .scCmp c f => some (c, f.word 9#6)
  | .scCmpi c f => some (c, f.word 10#6)
  | .scPlog c f => some (c, f.word 11#6)
  | .scLd c f => some (c, f.word 12#6)
  | .scLdu c f => some (c, f.word 13#6)
  | .scSt c f => some (c, f.word 14#6)
  | .scAddr c f => some (c, f.word 15#6)
  | .scAaddi c f => some (c, f.word 16#6)
  | .brJmp c f => some (c, f.word 17#6)
  | .brCall c f => some (c, f.word 18#6)
  | .brJr c f => some (c, f.word 19#6)
  | .sqLoop c f => some (c, f.word 20#6)
  | .sqEnd c f => some (c, f.word 21#6)
  | .sqIfence c f => some (c, f.word 22#6)
  | .sqNop c f => some (c, f.word 23#6)
  | .twait c f => some (c, f.word 24#6)
  | .syWait c f => some (c, f.word 25#6)
  | .mxWload c f => some (c, f.word 32#6)
  | .mxTile c f => some (c, f.word 33#6)
  | .mxFin c f => some (c, f.word 34#6)
  | .cwCfg c f => some (c, f.word 35#6)
  | .cwWindow c f => some (c, f.word 36#6)
  | .vxArith c f => some (c, f.word 37#6)
  | .vxMinmax c f => some (c, f.word 38#6)
  | .vxFn c f => some (c, f.word 39#6)
  | .vxCvt c f => some (c, f.word 40#6)
  | .vxMxq c f => some (c, f.word 41#6)
  | .vxRed c f => some (c, f.word 42#6)
  | .vxRand c f => some (c, f.word 43#6)
  | .vxSample c f => some (c, f.word 44#6)
  | .msgMove c f => some (c, f.word 45#6)
  | .msgSend c f => some (c, f.word 46#6)
  | .sySignal c f => some (c, f.word 47#6)
  | .crPush c f => some (c, f.word 48#6)
  | .dgLeaf c f => some (c, f.word 49#6)
  | .dgResult c f => some (c, f.word 50#6)
  | _ => none

/-- The whole word of each instruction mnemonic: the major opcode of a word. -/
def opcodeOf (w : Word) : Nat := (w.extractLsb' 26 6).toNat

/-- The guard predicate of a word in the formats that carry one (R91, R92); p0 in the others. -/
def guardOf (w : Word) : Nat :=
  if opcodeOf w = 20 || opcodeOf w = 21 || opcodeOf w = 22 || opcodeOf w = 23 || opcodeOf w = 24 || opcodeOf w = 25
  then 0 else (w.extractLsb' 23 3).toNat

/-- R94: the words the sequencer does not execute. Each arm lists the undefined codes and the fields that must be 0. [DEDUCED: log 12] -/
def illegalWord (w : Word) : Bool :=
  let x := w.toNat
  let fld (hi lo : Nat) : Nat := x / 2 ^ lo % 2 ^ (hi + 1 - lo)
  match opcodeOf w with
  | 1 => decide (15 < fld 7 0) || (decide (fld 7 0 = 15) && decide (3 < fld 17 13))
  | 2 | 3 | 4 | 5 | 7 | 8 | 16 | 17 | 18 => false
  | 6 => decide (fld 6 5 = 3) || decide (fld 12 7 ≠ 0)
  | 9 => decide (10 < fld 9 6) || decide (fld 5 0 ≠ 0)
  | 10 => decide (5 < fld 14 11)
  | 11 => decide (5 < fld 13 10) || decide (fld 9 0 ≠ 0)
  | 12 | 13 | 14 => decide (fld 13 12 = 3)
  | 15 => decide (3 < fld 7 0)
  | 19 => decide (fld 22 18 ≠ 0) || decide (fld 12 0 ≠ 0)
  | 20 => decide (fld 12 0 = 0) || (decide (fld 23 23 = 0) && decide (fld 22 18 ≠ 0))
  | 21 | 22 | 23 => decide (fld 25 0 ≠ 0)
  | 24 => decide (fld 25 16 ≠ 0)
  | 25 => decide (fld 25 22 ≠ 0) || decide (fld 7 0 ≠ 0) || decide (2 < fld 11 8) || decide (fld 17 17 = 1)
  | 32 => decide (fld 1 0 ≠ 0)
  | 33 | 36 => decide (fld 1 0 = 3)
  | 34 | 35 | 46 => decide (fld 5 0 ≠ 0)
  | 37 => false
  | 38 => decide (1 < fld 1 0)
  | 39 => decide (7 < fld 5 0)
  | 40 => decide (12 < fld 5 0)
  | 41 | 44 => decide (fld 1 0 ≠ 0)
  | 42 => decide (2 < fld 5 0)
  | 43 => decide (1 < fld 5 0)
  | 45 => decide (1 < fld 5 0)
  | 47 => decide (fld 5 0 ≠ 0) || decide (fld 6 6 = 1)
  | 48 => decide (2 < fld 5 0) || decide (fld 6 6 = 1)
  | 49 => decide (fld 5 0 ≠ 0) || decide (fld 6 6 = 1)
  | 50 => decide (fld 5 0 ≠ 0)
  | _ => true

/-- The command that a word spells by the table's bits. The table gives no row any bits: there is none. [DESIGN CHOICE: log 1] -/
def decodeTableWord (_nbits _w : Nat) : Option Instr := none

end Sys2Proof
end

