-- ==== Sys2Proof/Machine/Regs.lean ====
section
/-! DEFINITION. Sys2Proof/Machine/Regs.lean: every register of the BAR0 map (R266) under its own name: its offset,
its fields, its reset value and its access codes (R3), written from the register tables of the spec. A register of
one PCIe function (R270, R271) has the function number in the bits above the 26-bit BAR0 offset, so that every
function's own registers have keys of their own. -/

namespace Sys2Proof.Machine

/-- How a register resets and answers accesses: the masks of its RW, W1C, W1S, RC and WO bits; every other bit is
RO or reserved (R3, R5). -/
structure RegDesc where
  reset : Nat
  rw : Nat
  w1c : Nat
  w1s : Nat
  rc : Nat
  wo : Nat
  pairLow : Bool     -- the low word of a 64-bit pair (R7)
  deriving DecidableEq, Repr

/-- A row of the register map: base key, array dimensions (count, stride), description. -/
structure RegRow where
  base : Nat
  dims : List (Nat × Nat)
  desc : RegDesc
  deriving DecidableEq, Repr

/-! ### Offsets -/

namespace R

/-- R267: FAMILY [31:16] RO, PART [15:8] RO, STEPPING [7:0] RO. -/
def ID_PART : Nat := 0x00000000
/-- R267: NCHAN [11:8] RO, NQP [5:0] RO. -/
def ID_CAPS : Nat := 0x00000004
/-- R448: CASTON [24] RO, CAUSE [23:20] RO, FMASK [16:0] RO. -/
def SPMAP (n : Nat) (r : Nat) : Nat := 0x00000100 + 0x40 * n + 0x4 * r
/-- R448: SPARES [19:0] RO. -/
def SPMAP_SUM : Nat := 0x00000200
/-- R321: EN [31] RW, FORCE [30] RW. -/
def CP_CTRL (n : Nat) : Nat := 0x01000000 + 0x400000 * n
/-- R321: STATE [31:29] RO, OWNED [28] RO, PART [27:26] RO, CMDS [12:0] RO. -/
def CP_STAT (n : Nat) : Nat := 0x01000004 + 0x400000 * n
/-- R321: REFUSED [31:24] RC, FREE [18:0] RO. -/
def ALLOC_FREE (n : Nat) : Nat := 0x01000010 + 0x400000 * n
/-- R321: PENDING [18:0] RO. -/
def ALLOC_PEND (n : Nat) : Nat := 0x01000014 + 0x400000 * n
/-- R453: UE_LIM [31:28] RW, CE_LIM [15:0] RW. -/
def FENCE_CFG (n : Nat) : Nat := 0x01000020 + 0x400000 * n
/-- R322: WEIGHT [15:0] RW. -/
def CTX_SHARE (n : Nat) (c : Nat) : Nat := 0x01000100 + 0x400000 * n + 0x20 * c
/-- R322: STATE [31:29] RO, QUEUED [23:16] RO, DONOR [10:8] RO, WITHDRAWN [7:0] RC. -/
def CTX_STAT (n : Nat) (c : Nat) : Nat := 0x01000104 + 0x400000 * n + 0x20 * c
/-- R322: ETIME [31:0] RO. -/
def CTX_ETIME_LO (n : Nat) (c : Nat) : Nat := 0x01000108 + 0x400000 * n + 0x20 * c
/-- R322: ETIME [31:0] RO. -/
def CTX_ETIME_HI (n : Nat) (c : Nat) : Nat := 0x0100010C + 0x400000 * n + 0x20 * c
/-- R322: VT [31:0] RO. -/
def CTX_VT_LO (n : Nat) (c : Nat) : Nat := 0x01000110 + 0x400000 * n + 0x20 * c
/-- R322: VT [31:0] RO. -/
def CTX_VT_HI (n : Nat) (c : Nat) : Nat := 0x01000114 + 0x400000 * n + 0x20 * c
/-- R322: STEP [31:0] RO. -/
def CTX_STEP_LO (n : Nat) (c : Nat) : Nat := 0x01000118 + 0x400000 * n + 0x20 * c
/-- R322: STEP [31:0] RO. -/
def CTX_STEP_HI (n : Nat) (c : Nat) : Nat := 0x0100011C + 0x400000 * n + 0x20 * c
/-- R453: REPAIR [31] RO, HELD [30] RO, ACT [1:0] WO. -/
def CTX_REPAIR (n : Nat) (c : Nat) : Nat := 0x01000200 + 0x400000 * n + 0x4 * c
/-- R250: EN [31] RW, KIND [30:29] RW, PARTIES [15:0] RW. -/
def SYNC_CFG (n : Nat) (i : Nat) : Nat := 0x01100000 + 0x400000 * n + 0x10 * i
/-- R250: VALUE [31:0] RW. -/
def SYNC_VALUE (n : Nat) (i : Nat) : Nat := 0x01100004 + 0x400000 * n + 0x10 * i
/-- R250: HVALID [31] RW, HREMOTE [30] RW, HCHIP [23:20] RW, HCTX [2:0] RW. -/
def SYNC_HOLDER (n : Nat) (i : Nat) : Nat := 0x01100008 + 0x400000 * n + 0x10 * i
/-- R250: GEN [31:16] RO, WAITERS [15:8] RO, LOSTSIG [2] W1C, ABANDONED [1] W1C, OVF [0] W1C. -/
def SYNC_STAT (n : Nat) (i : Nat) : Nat := 0x0110000C + 0x400000 * n + 0x10 * i
/-- R78: CFG_REJECT [16] W1C, ZEROING [15:12] RO, FAULTED [11:8] RO, RESIDENT [7:4] RO, RUN [2] RO, ACTIVE [1:0] RO. -/
def CORE_STAT (n : Nat) (q : Nat) : Nat := 0x01200000 + 0x400000 * n + 0x400 * q
/-- R79: EN [31] RW, SIZE [23:12] RW, BASE [11:0] RW. -/
def CORE_WIN_CFG (n : Nat) (q : Nat) (k : Nat) : Nat := 0x01200040 + 0x400000 * n + 0x400 * q + 0x20 * k
/-- R80: ENTRY [21:2] RW. -/
def CORE_CTX_ENTRY (n : Nat) (q : Nat) (k : Nat) : Nat := 0x01200044 + 0x400000 * n + 0x400 * q + 0x20 * k
/-- R80: LIMIT [23:0] RW. -/
def CORE_CTX_WAITLIM (n : Nat) (q : Nat) (k : Nat) : Nat := 0x01200048 + 0x400000 * n + 0x400 * q + 0x20 * k
/-- R81: VALID [31] RO, COUNT [23:16] RO, PRECISE [13] RO, TOKEN_VALID [12] RO, TOKEN [11:8] RO, CLASS [7:0] RO. -/
def CORE_CTX_FAULT (n : Nat) (q : Nat) (k : Nat) : Nat := 0x0120004C + 0x400000 * n + 0x400 * q + 0x20 * k
/-- R81: FPC [21:2] RO. -/
def CORE_CTX_FPC (n : Nat) (q : Nat) (k : Nat) : Nat := 0x01200050 + 0x400000 * n + 0x400 * q + 0x20 * k
/-- R81: FADDR [31:0] RO. -/
def CORE_CTX_FADDR (n : Nat) (q : Nat) (k : Nat) : Nat := 0x01200054 + 0x400000 * n + 0x400 * q + 0x20 * k
/-- R148: UE_COUNT [31:24] RC, CE_COUNT [15:0] RC. -/
def CORE_ECC_STAT (n : Nat) (q : Nat) : Nat := 0x01200100 + 0x400000 * n + 0x400 * q
/-- R148: VALID [31] W1C, KIND [30] RO, WORD [21:3] RO. -/
def CORE_ECC_LAST (n : Nat) (q : Nat) : Nat := 0x01200104 + 0x400000 * n + 0x400 * q
/-- R453: UE [31:28] RO, CE [15:0] RO. -/
def CORE_FENCE_CNT (n : Nat) (q : Nat) : Nat := 0x01200108 + 0x400000 * n + 0x400 * q
/-- R203: DISCARDED [31:24] RC, PEAK [22:16] RC, HELD [14:0] RO. -/
def CR_STAT (n : Nat) : Nat := 0x01300000 + 0x400000 * n
/-- R257: EN [31] RW, FORCE [30] RW, RETRY_MAX [23:20] RW, LPBK [0] RW. -/
def KL_CTRL (l : Nat) : Nat := 0x02000000 + 0x1000 * l
/-- R257: STATE [31:29] RO, PEER_VALID [28] RO, PEER_CLU [27:23] RO, PEER_CHIP [22:19] RO, PEER_LINK [18:15] RO, CFG_REJECT [8] W1C, DOWN_EVT [7] W1C, MISWIRE [6] W1C. -/
def KL_STAT (l : Nat) : Nat := 0x02000004 + 0x1000 * l
/-- R257: UNCORR [31:24] RC, CRCFAIL [23:16] RC, RESEND [15:8] RC, TRAIN [7:0] RC. -/
def KL_ERR (l : Nat) : Nat := 0x02000008 + 0x1000 * l
/-- R257: CORR [31:0] RC. -/
def KL_CORR (l : Nat) : Nat := 0x0200000C + 0x1000 * l
/-- R257: FLITS [8:0] RW. -/
def KL_POOL (l : Nat) (p : Nat) : Nat := 0x02000010 + 0x1000 * l + 0x4 * p
/-- R257: CLUSTER [12:8] RW, CHIP [3:0] RW. -/
def KL_ID : Nat := 0x02010000
/-- R269: PART_CFG [7:4] RO, ISLAND_UP [3] RO, CASTON_FAIL [2] RO, FABRIC_RESET [1] RO, FABRIC_READY [0] RO. -/
def HI_STAT : Nat := 0x02100000
/-- R270: BAD_ACCESS [1] W1C, ELOG_OVF [0] W1C. -/
def HI_FN_STAT (f : Nat) : Nat := 0x02101000 + 0x4000000 * f
/-- R270: ADDR [31:12] RW. -/
def HI_FN_ELOG_BASE_LO (f : Nat) : Nat := 0x02101004 + 0x4000000 * f
/-- R270: ADDR [31:0] RW. -/
def HI_FN_ELOG_BASE_HI (f : Nat) : Nat := 0x02101008 + 0x4000000 * f
/-- R270: EN [31] RW, IEN [30] RW, VEC [13:8] RW, LOG2SZ [3:0] RW. -/
def HI_FN_ELOG_CFG (f : Nat) : Nat := 0x0210100C + 0x4000000 * f
/-- R270: HEAD [11:0] RW. -/
def HI_FN_ELOG_HEAD (f : Nat) : Nat := 0x02101010 + 0x4000000 * f
/-- R270: PHASE [12] RO, TAIL [11:0] RO. -/
def HI_FN_ELOG_TAIL (f : Nat) : Nat := 0x02101014 + 0x4000000 * f
/-- R271: ADDR [31:12] RW. -/
def HI_QP_SQ_BASE_LO (f : Nat) (q : Nat) : Nat := 0x02102000 + 0x4000000 * f + 0x40 * q
/-- R271: ADDR [31:0] RW. -/
def HI_QP_SQ_BASE_HI (f : Nat) (q : Nat) : Nat := 0x02102004 + 0x4000000 * f + 0x40 * q
/-- R271: ADDR [31:12] RW. -/
def HI_QP_CQ_BASE_LO (f : Nat) (q : Nat) : Nat := 0x02102008 + 0x4000000 * f + 0x40 * q
/-- R271: ADDR [31:0] RW. -/
def HI_QP_CQ_BASE_HI (f : Nat) (q : Nat) : Nat := 0x0210200C + 0x4000000 * f + 0x40 * q
/-- R271: EN [31] RW, FORCE [30] RW, IEN [29] RW, SQLOG2 [28:24] RW, CQLOG2 [20:16] RW, VEC [13:8] RW. -/
def HI_QP_CFG (f : Nat) (q : Nat) : Nat := 0x02102010 + 0x4000000 * f + 0x40 * q
/-- R271: HEAD [15:0] RO. -/
def HI_QP_SQ_HEAD (f : Nat) (q : Nat) : Nat := 0x02102014 + 0x4000000 * f + 0x40 * q
/-- R271: PHASE [16] RO, TAIL [15:0] RO. -/
def HI_QP_CQ_TAIL (f : Nat) (q : Nat) : Nat := 0x02102018 + 0x4000000 * f + 0x40 * q
/-- R271: STATE [31:29] RO, CFG_REJECT [23] W1C, DMA_ERR [22] W1C, DB_ERR [21] W1C, INFLIGHT [16:0] RO. -/
def HI_QP_STAT (f : Nat) (q : Nat) : Nat := 0x0210201C + 0x4000000 * f + 0x40 * q
/-- R349: SP1_SPLIT [1] RW, SP0_SPLIT [0] RW. -/
def ING_PORTCFG : Nat := 0x02200000
/-- R349: FCS [31:16] RC, UNMATCHED [15:0] RC. -/
def ING_DROP : Nat := 0x02200004
/-- R349: ADDR [23:2] RW. -/
def ING_SWADDR : Nat := 0x02200010
/-- R349: DATA [31:0] RW. -/
def ING_SWDATA : Nat := 0x02200014
/-- R349: EN [31] RW, FORCE [30] RW, KIND [29] RW, PORT [28:26] RW, PART [25:24] RW, CTX [23:21] RW, SWEN [20] RW, TLEN [19] RW, PIXFMT [15:8] RW. -/
def STRM_CTRL (s : Nat) : Nat := 0x02201000 + 0x40 * s
/-- R349: UDPPORT [31:16] RW, STAG [15:0] RW. -/
def STRM_MATCH (s : Nat) : Nat := 0x02201004 + 0x40 * s
/-- R349: SID [31:0] RW. -/
def STRM_SID_LO (s : Nat) : Nat := 0x02201008 + 0x40 * s
/-- R349: SID [31:0] RW. -/
def STRM_SID_HI (s : Nat) : Nat := 0x0220100C + 0x40 * s
/-- R349: W [31:16] RW, H [15:0] RW. -/
def STRM_GEOM (s : Nat) : Nat := 0x02201010 + 0x40 * s
/-- R349: PERIOD_US [31:16] RW, VBLANK_US [15:0] RW. -/
def STRM_TIME (s : Nat) : Nat := 0x02201014 + 0x40 * s
/-- R349: BUDGET [31:0] RW. -/
def STRM_BUDGET (s : Nat) : Nat := 0x02201018 + 0x40 * s
/-- R349: PLAN_OFF [23:0] RW. -/
def STRM_PLAN (s : Nat) : Nat := 0x0220101C + 0x40 * s
/-- R349: SWBASE_KB [13:0] RW. -/
def STRM_SWATCH (s : Nat) : Nat := 0x02201020 + 0x40 * s
/-- R349: TLCRC [31:0] RW. -/
def STRM_TLCRC (s : Nat) : Nat := 0x02201024 + 0x40 * s
/-- R349: STATE [31:29] RO, REASON [23:16] RO, DEFER [15:13] RO, SWFAIL [12] W1C, CFG_REJECT [11] W1C, HELD [10:5] RO, INFLIGHT [4:0] RO. -/
def STRM_STAT (s : Nat) : Nat := 0x02201028 + 0x40 * s
/-- R349: VOIDS [31:24] RC, DROPPED [23:16] RC, OVERTIME [15:8] RC, DEFERRALS [7:0] RC. -/
def STRM_CNT (s : Nat) : Nat := 0x0220102C + 0x40 * s
/-- R349: NEXT [25:0] RO. -/
def STRM_SEQ (s : Nat) : Nat := 0x02201030 + 0x40 * s
/-- R381: EN [31] RW, PCOMMIT [30] WO. -/
def LE_CTRL : Nat := 0x02300000
/-- R381: RUN [31] RO, SLIP [30] W1C, CFG_REJECT [29] W1C, RREF [28] W1C, PPEND [27] RO, LSLANE [15:0] W1C. -/
def LE_STAT : Nat := 0x02300004
/-- R381: EPOCH [31:0] RW. -/
def LE_EPOCH : Nat := 0x02300008
/-- R381: TICK [31:0] RO. -/
def LE_TICK_LO : Nat := 0x02300010
/-- R381: TICK [31:0] RO. -/
def LE_TICK_HI : Nat := 0x02300014
/-- R381: ADDR [20:2] RW. -/
def LE_MEMADDR : Nat := 0x02300020
/-- R381: DATA [31:0] RW. -/
def LE_MEMDATA : Nat := 0x02300024
/-- R381: LOOP [9:0] WO. -/
def LE_RESTORE : Nat := 0x02300030
/-- R382: EN [31] RW, FORCE [30] RW, NM1 [25:16] RW, PHASE [9:0] RW. -/
def GRP_CFG (g : Nat) : Nat := 0x02300100 + 0x8 * g
/-- R382: STATE [31:29] RO, CFG_REJECT [28] W1C, FALLBACK [10:0] RO. -/
def GRP_STAT (g : Nat) : Nat := 0x02300104 + 0x8 * g
/-- R382: MODE [4] RO, LS [3] W1C, OSC [2] W1C, SAT [1] W1C. -/
def LOOP_FLAGS (j : Nat) : Nat := 0x02301000 + 0x4 * j
/-- R382: EN [31] RW, NVAL [19:16] RW, JOB [15:0] RW. -/
def MB_CFG (m : Nat) : Nat := 0x02302000 + 0x10 * m
/-- R382: DEADLINE [31:0] RW. -/
def MB_DEADLINE (m : Nat) : Nat := 0x02302004 + 0x10 * m
/-- R382: STALE [31] RO, REFUSED [30] W1C, WRITES [15:0] RC. -/
def MB_STAT (m : Nat) : Nat := 0x02302008 + 0x10 * m
/-- R383: EN [31] RW, STREAM [30] RW, FIRE [29] WO, STATE [28:27] RO, POST [10:0] RW. -/
def TR_CTRL : Nat := 0x02303000
/-- R383: SRC [31:29] RW, TCH [28:23] RW, DDMASK [15:0] RW. -/
def TR_TRIG : Nat := 0x02303004
/-- R383: LEVEL [31:0] RW. -/
def TR_LEVEL : Nat := 0x02303008
/-- R383: TTIME [31:0] RO. -/
def TR_TTIME : Nat := 0x0230300C
/-- R383: SIZEM1 [31:26] RW, BASE_KB [15:0] RW. -/
def TR_RBASE : Nat := 0x02303010
/-- R383: EN [31] RW, LOOP [25:16] RW, SIG [15:11] RW. -/
def TRC_CFG (c : Nat) : Nat := 0x02303100 + 0x4 * c
/-- R383: TIDX [26:16] RO, WIDX [10:0] RO. -/
def TRC_STAT (c : Nat) : Nat := 0x02303200 + 0x4 * c
/-- R408: FRAC [31:0] RO. -/
def TB_FRAC (n : Nat) : Nat := 0x02400000 + 0x100 * n
/-- R408: NS [31:0] RO. -/
def TB_NS (n : Nat) : Nat := 0x02400004 + 0x100 * n
/-- R408: CAP [31:0] RO. -/
def TB_CAP (n : Nat) : Nat := 0x02400008 + 0x100 * n
/-- R409: INCR [31:0] RW. -/
def TB_INCR (n : Nat) : Nat := 0x0240000C + 0x100 * n
/-- R409: STEP [31:0] WO. -/
def TB_STEP (n : Nat) : Nat := 0x02400010 + 0x100 * n
/-- R409: EN [31] RW, SRC [30] RW, PORT [29] RW, TRANSPORT [28:27] RW, DELAY [26] RW, ONESTEP [25] RW, LINK [24:21] RW, PDOMAIN [20] RW, DOMAIN [15:8] RW. -/
def TB_CTRL (n : Nat) : Nat := 0x02400014 + 0x100 * n
/-- R409: STEPEN [31] RW, LOSSCNT [27:24] RW, LOGINT [23:20] RW, LOGDREQ [19:16] RW, LOCKTHR [15:0] RW. -/
def TB_SERVO (n : Nat) : Nat := 0x02400018 + 0x100 * n
/-- R409: KP [31:0] RW. -/
def TB_KP (n : Nat) : Nat := 0x0240001C + 0x100 * n
/-- R409: KI [31:0] RW. -/
def TB_KI (n : Nat) : Nat := 0x02400020 + 0x100 * n
/-- R409: STEPTHR [31:0] RW. -/
def TB_STEPTHR (n : Nat) : Nat := 0x02400024 + 0x100 * n
/-- R409: THETA [31:0] RO. -/
def TB_OFFSET (n : Nat) : Nat := 0x02400028 + 0x100 * n
/-- R409: CORR [31:0] RO. -/
def TB_CORR (n : Nat) : Nat := 0x0240002C + 0x100 * n
/-- R409: MPD [31:0] RO. -/
def TB_MPD (n : Nat) : Nat := 0x02400030 + 0x100 * n
/-- R409: STATE [31:29] RO, MASTER_OK [28] RO, CFG_REJECT [27] W1C, MCHG [26] W1C, STEPS [15:8] RC, BIGOFF [7:0] RC. -/
def TB_STAT (n : Nat) : Nat := 0x02400034 + 0x100 * n
/-- R409: RXLAT [31:16] RW, TXLAT [15:0] RW. -/
def TB_LAT (n : Nat) : Nat := 0x02400038 + 0x100 * n
/-- R409: SRCID [31:0] RO. -/
def TB_SRCID_LO (n : Nat) : Nat := 0x0240003C + 0x100 * n
/-- R409: SRCID [31:0] RO. -/
def TB_SRCID_HI (n : Nat) : Nat := 0x02400040 + 0x100 * n
/-- R410: SEL [31] RW. -/
def TB3_CTRL : Nat := 0x0240030C
/-- R410: FOLLOW [31] RO, SLEWING [30] RO, SWITCHES [7:0] RC. -/
def TB3_STAT : Nat := 0x02400310
/-- R410: SLEW [19:0] RW. -/
def TB3_SLEW : Nat := 0x02400314
/-- R410: D [31:0] RO. -/
def TB3_D_LO : Nat := 0x02400318
/-- R410: D [31:0] RO. -/
def TB3_D_HI : Nat := 0x0240031C
/-- R410: CAP [31] WO, PPSEN [30] RW, PPSCAP [29] RW. -/
def TIME_CTRL : Nat := 0x02400400
/-- R410: NOTIME [31] RO, CAPV [30] W1C. -/
def TIME_STAT : Nat := 0x02400404
/-- R410: NEXT [31:0] RW. -/
def PPS_NEXT : Nat := 0x02400408
/-- R410: PERIOD [31:0] RW. -/
def PPS_PERIOD : Nat := 0x0240040C
/-- R411: EN [31] RW, SWAP [30] W1S, LEN [8:0] RW. -/
def CP_GCTRL (p : Nat) : Nat := 0x02401000 + 0x800 * p
/-- R411: CYCLE [31:0] RW. -/
def CP_CYCLE (p : Nat) : Nat := 0x02401004 + 0x800 * p
/-- R411: BASE [31:0] RW. -/
def CP_BASE (p : Nat) : Nat := 0x02401008 + 0x800 * p
/-- R411: PMASK [15:8] RW, VERIFY [7] RW, ADDFRAG [1:0] RW. -/
def CP_PREEMPT (p : Nat) : Nat := 0x0240100C + 0x800 * p
/-- R411: BANK [31] RO, PENDING [30] RO, PREEMPT_OK [29] RO, GATES [15:8] RO. -/
def CP_GSTAT (p : Nat) : Nat := 0x02401010 + 0x800 * p
/-- R408: GATES [31:24] RW, INTERVAL [23:0] RW. -/
def CP_GCL (p : Nat) (w : Nat) : Nat := 0x02401400 + 0x800 * p + 0x4 * w
/-- R431: ACTIVE [15:0] W1C. -/
def DD_ACTIVE : Nat := 0x02500000
/-- R431: FORCE [15:0] RW. -/
def DD_FORCE : Nat := 0x02500004
/-- R431: LEVEL [15:0] RO. -/
def DD_LEVEL : Nat := 0x02500008
/-- R431: LOCK [0] W1S. -/
def SAFE_LOCK : Nat := 0x0250000C
/-- R431: VALID [31] RO, SRC [9:0] RO. -/
def DD_FIRST (n : Nat) : Nat := 0x02500040 + 0x8 * n
/-- R431: TIME [31:0] RO. -/
def DD_TIME (n : Nat) : Nat := 0x02500044 + 0x8 * n
/-- R431: PEND [31:0] W1C. -/
def DM_PEND (w : Nat) : Nat := 0x02500100 + 0x4 * w
/-- R431: TRIP [31:0] W1C. -/
def TRIP_STAT_LO : Nat := 0x02500200
/-- R431: TRIP [31:0] W1C. -/
def TRIP_STAT_HI : Nat := 0x02500204
/-- R431: LEVEL [23:16] RO, TRIPPED [7:0] W1C. -/
def TRIP_PIN : Nat := 0x02500208
/-- R431: MIS [9] W1C, CFG_REJECT [8] W1C, CLKFAIL [7] W1C, RBERR [6] W1C, TCIDX [5:0] RO. -/
def TRIP_FAULT : Nat := 0x0250020C
/-- R431: FILT [10:8] RW, EN [7:0] RW. -/
def TRIPIN_CFG : Nat := 0x02500210
/-- R432: GRANT [31] RW, PINMASK [23:16] RW, DDMASK [15:0] RW. -/
def PERMIT_CTRL (k : Nat) : Nat := 0x02500300 + 0x20 * k
/-- R432: TMASK [31:0] RW. -/
def PERMIT_TMASK_LO (k : Nat) : Nat := 0x02500304 + 0x20 * k
/-- R432: TMASK [31:0] RW. -/
def PERMIT_TMASK_HI (k : Nat) : Nat := 0x02500308 + 0x20 * k
/-- R432: OUT [31] RO, RB [30] RO, GREF [29] W1C, CAUSE [10:8] RO, INDEX [5:0] RO. -/
def PERMIT_STAT (k : Nat) : Nat := 0x0250030C + 0x20 * k
/-- R432: TIME [31:0] RO. -/
def PERMIT_WTIME (k : Nat) : Nat := 0x02500310 + 0x20 * k
/-- R432: EN [31] RW, STOPPED [30] RO. -/
def HB_CTRL : Nat := 0x02500400
/-- R432: FEN [31] RW, IEN [30] RW, FESC [29] RW, IESC [28] RW, BISTGO [27] WO, BISTCH [26:25] RW, INTERVAL [13:0] RW. -/
def TEST_CTRL : Nat := 0x02500500
/-- R432: FOVD [31:28] RO, IOVD [27] RO, FFAIL [26:23] W1C, IFAIL [22] W1C, BISTBUSY [21] RO, BISTFAIL [20] W1C, LANEDONE [15:0] RO. -/
def TEST_STAT : Nat := 0x02500504
/-- R431: MASK [15:0] RW. -/
def DM_MAP (i : Nat) : Nat := 0x02501000 + 0x4 * i
/-- R431: EN [31] RW, KIND [30:29] RW, FIELD [10:0] RW. -/
def TC_CFG (k : Nat) : Nat := 0x02502000 + 0x10 * k
/-- R431: LIMIT [31:0] RW. -/
def TC_LO (k : Nat) : Nat := 0x02502004 + 0x10 * k
/-- R431: LIMIT [31:0] RW. -/
def TC_HI (k : Nat) : Nat := 0x02502008 + 0x10 * k
/-- R483: ROOT_OK [31] RO, ROOT_BAD [30] W1C, STORE_OK [29] RO, OPKEY [28] RO, EXHAUST [27] RO, CFG_REJECT [26] W1C, KRES [25:24] RO. -/
def SEC_STAT : Nat := 0x02600000
/-- R483: CERTGO [31] WO, KINST [30] WO, KROT [29] WO. -/
def SEC_CTRL : Nat := 0x02600004
/-- R483: LEAF [31:0] RO. -/
def SEC_LEAF_LO : Nat := 0x02600008
/-- R483: LEAF [31:0] RO. -/
def SEC_LEAF_HI : Nat := 0x0260000C
/-- R483: HWM [31:0] RO. -/
def SEC_HWM_LO : Nat := 0x02600010
/-- R483: HWM [31:0] RO. -/
def SEC_HWM_HI : Nat := 0x02600014
/-- R483: EN [31] RW, BUSY [30] RO, BASE_MB [29:24] RW, SIZE_MB [22:16] RW. -/
def SEC_REC_CFG (r : Nat) : Nat := 0x02600040 + 0x4 * r
/-- R483: REGION [31:29] RW, BLOCK [13:0] RW. -/
def SEC_RRD_ADDR : Nat := 0x02600060
/-- R483: DONE [31] RO, RESULT [1:0] RO. -/
def SEC_RRD_STAT : Nat := 0x02600064
/-- R482: DATA [31:0] WO. -/
def SEC_KBUF (w : Nat) : Nat := 0x02610000 + 0x4 * w
/-- R482: DATA [31:0] RO. -/
def SEC_RRD_DATA (w : Nat) : Nat := 0x02620000 + 0x4 * w
/-- R497: ADDR [31:12] RW. -/
def TRCF_BASE_LO (f : Nat) : Nat := 0x02700000 + 0x40 * f
/-- R497: ADDR [31:0] RW. -/
def TRCF_BASE_HI (f : Nat) : Nat := 0x02700004 + 0x40 * f
/-- R498: EN [31] RW, DEST [30] RW, IEN [29] RW, VEC [28:23] RW, LOG2SZ [22:19] RW, FLUSH [14:0] RW. -/
def TRCF_CFG (f : Nat) : Nat := 0x02700008 + 0x40 * f
/-- R498: CLASSMASK [31:28] RW, CHMASK [27:24] RW, CTXMASK [23:16] RW, UNITMASK [15:8] RW, PART [1:0] RW. -/
def TRCF_SEL (f : Nat) : Nat := 0x0270000C + 0x40 * f
/-- R498: HEAD [11:0] RW. -/
def TRCF_HEAD (f : Nat) : Nat := 0x02700010 + 0x40 * f
/-- R498: PHASE [12] RO, TAIL [11:0] RO. -/
def TRCF_TAIL (f : Nat) : Nat := 0x02700014 + 0x40 * f
/-- R498: CFG_REJECT [31] W1C, DROPPED [15:0] RC. -/
def TRCF_STAT (f : Nat) : Nat := 0x02700018 + 0x40 * f
/-- R497: ADDR [31:12] RW. -/
def SMP_BASE_LO (f : Nat) : Nat := 0x02701000 + 0x80 * f
/-- R497: ADDR [31:0] RW. -/
def SMP_BASE_HI (f : Nat) : Nat := 0x02701004 + 0x80 * f
/-- R498: EN [31] RW, DEST [30] RW, IEN [29] RW, VEC [28:23] RW, LOG2SZ [22:19] RW, NSEL [18:15] RW, FLUSH [14:0] RW. -/
def SMP_CFG (f : Nat) : Nat := 0x02701008 + 0x80 * f
/-- R497: INTERVAL [31:0] RW. -/
def SMP_INTERVAL (f : Nat) : Nat := 0x0270100C + 0x80 * f
/-- R498: HEAD [11:0] RW. -/
def SMP_HEAD (f : Nat) : Nat := 0x02701010 + 0x80 * f
/-- R498: PHASE [12] RO, TAIL [11:0] RO. -/
def SMP_TAIL (f : Nat) : Nat := 0x02701014 + 0x80 * f
/-- R498: CFG_REJECT [31] W1C, DROPPED [15:0] RC. -/
def SMP_STAT (f : Nat) : Nat := 0x02701018 + 0x80 * f
/-- R497: HIID [31:16] RW, LOID [15:0] RW. -/
def SMP_SEL (f : Nat) (j : Nat) : Nat := 0x02701040 + 0x80 * f + 0x4 * j
/-- R497: KEY [31:0] WO. -/
def TRC_KEY (w : Nat) : Nat := 0x02702000 + 0x4 * w
/-- R498: DROPPED [15:0] RC. -/
def CH_TRC_DROP (n : Nat) : Nat := 0x02703000 + 0x4 * n
/-- R498: EN [31] RW, MODE [30] RW, UNIT [29:24] RW, CTXMASK [23:16] RW, PART [15:14] RW, EVENT [7:0] RW. -/
def GCNT_CFG (k : Nat) : Nat := 0x02710000 + 0x10 * k
/-- R498: VALUE [31:0] RW. -/
def GCNT_LO (k : Nat) : Nat := 0x02710004 + 0x10 * k
/-- R498: VALUE [31:0] RW. -/
def GCNT_HI (k : Nat) : Nat := 0x02710008 + 0x10 * k
/-- R498: EN [31] RW, MODE [30] RW, UNIT [29:24] RW, CTXMASK [23:16] RW, PART [15:14] RW, EVENT [7:0] RW. -/
def CH_CNT_CFG (n : Nat) (k : Nat) : Nat := 0x02711000 + 0x200 * n + 0x10 * k
/-- R498: VALUE [31:0] RW. -/
def CH_CNT_LO (n : Nat) (k : Nat) : Nat := 0x02711004 + 0x200 * n + 0x10 * k
/-- R498: VALUE [31:0] RW. -/
def CH_CNT_HI (n : Nat) (k : Nat) : Nat := 0x02711008 + 0x200 * n + 0x10 * k
/-- R498: EN [31] RW, MODE [30] RW, UNIT [29:24] RW, CTXMASK [23:16] RW, PART [15:14] RW, EVENT [7:0] RW. -/
def CORE_CNT_CFG (id : Nat) (k : Nat) : Nat := 0x02720000 + 0x80 * id + 0x10 * k
/-- R498: VALUE [31:0] RW. -/
def CORE_CNT_LO (id : Nat) (k : Nat) : Nat := 0x02720004 + 0x80 * id + 0x10 * k
/-- R498: VALUE [31:0] RW. -/
def CORE_CNT_HI (id : Nat) (k : Nat) : Nat := 0x02720008 + 0x80 * id + 0x10 * k
/-- R516: LOCK [31] RO, LOLCNT [15:8] RC. -/
def CLK_STAT : Nat := 0x02800000
/-- R516: SHUTDOWN [4] RO, CAUSE [3:0] RO. -/
def RST_CAUSE : Nat := 0x02800004
/-- R516: ISLRST [31] WO, FABRST [30] WO. -/
def RST_CTRL : Nat := 0x02800008
/-- R516: DROOP [7:0] RW. -/
def TEN_CFG : Nat := 0x02800010
/-- R516: ACTIVE [31] RO, DRP [30] RO, WARN [29] RO, HOT [28] RO, BURSTS [15:0] RC. -/
def TEN_STAT (n : Nat) : Nat := 0x02800020 + 0x4 * n
/-- R516: GATE [31:0] RW. -/
def PWR_GATE_LO : Nat := 0x02800040
/-- R516: GATE [31:0] RW. -/
def PWR_GATE_HI : Nat := 0x02800044
/-- R516: UP [31:0] RO. -/
def PWR_UP_LO : Nat := 0x02800048
/-- R516: UP [31:0] RO. -/
def PWR_UP_HI : Nat := 0x0280004C
/-- R516: CFG_REJECT [31] W1C. -/
def PWR_STAT : Nat := 0x02800050
/-- R452: VSET [9:0] RO. -/
def GAUGE_VSET (n : Nat) : Nat := 0x02801000 + 0x40 * n
/-- R452: SLACK [15:0] RO. -/
def GAUGE_SLACK (n : Nat) : Nat := 0x02801004 + 0x40 * n
/-- R452: DAYS [31:16] RO, MV [15:0] RO. -/
def GAUGE_HEAD (n : Nat) : Nat := 0x02801008 + 0x40 * n
/-- R452: CEIL [31] RO, PMBERR [30] W1C, MEAS [29] RO, COUNT [7:0] RC. -/
def GAUGE_STAT (n : Nat) : Nat := 0x0280100C + 0x40 * n
/-- R452: NOW [31] WO, MT [7:0] RW. -/
def GAUGE_CFG : Nat := 0x02801100
/-- R455: RST [15:8] RW, WARN [7:0] RW. -/
def SUPPLY_CFG : Nat := 0x02802000
/-- R455: BELOW [20:16] RO, RESETS [12:8] W1C, WARNS [4:0] W1C. -/
def SUPPLY_STAT : Nat := 0x02802004
/-- R457: TEMP [15:0] RO. -/
def THERM_T (n : Nat) : Nat := 0x02803000 + 0x4 * n
/-- R457: STOP [11:8] RO, HOT [4:0] RO. -/
def THERM_STAT : Nat := 0x02803020

end R

/-! ### Fields -/

namespace F

def ID_PART_FAMILY : Fld := ⟨31, 16⟩
def ID_PART_PART : Fld := ⟨15, 8⟩
def ID_PART_STEPPING : Fld := ⟨7, 0⟩
def ID_CAPS_NCHAN : Fld := ⟨11, 8⟩
def ID_CAPS_NQP : Fld := ⟨5, 0⟩
def SPMAP_CASTON : Fld := ⟨24, 24⟩
def SPMAP_CAUSE : Fld := ⟨23, 20⟩
def SPMAP_FMASK : Fld := ⟨16, 0⟩
def SPMAP_SUM_SPARES : Fld := ⟨19, 0⟩
def CP_CTRL_EN : Fld := ⟨31, 31⟩
def CP_CTRL_FORCE : Fld := ⟨30, 30⟩
def CP_STAT_STATE : Fld := ⟨31, 29⟩
def CP_STAT_OWNED : Fld := ⟨28, 28⟩
def CP_STAT_PART : Fld := ⟨27, 26⟩
def CP_STAT_CMDS : Fld := ⟨12, 0⟩
def ALLOC_FREE_REFUSED : Fld := ⟨31, 24⟩
def ALLOC_FREE_FREE : Fld := ⟨18, 0⟩
def ALLOC_PEND_PENDING : Fld := ⟨18, 0⟩
def FENCE_CFG_UE_LIM : Fld := ⟨31, 28⟩
def FENCE_CFG_CE_LIM : Fld := ⟨15, 0⟩
def CTX_SHARE_WEIGHT : Fld := ⟨15, 0⟩
def CTX_STAT_STATE : Fld := ⟨31, 29⟩
def CTX_STAT_QUEUED : Fld := ⟨23, 16⟩
def CTX_STAT_DONOR : Fld := ⟨10, 8⟩
def CTX_STAT_WITHDRAWN : Fld := ⟨7, 0⟩
def CTX_ETIME_LO_ETIME : Fld := ⟨31, 0⟩
def CTX_ETIME_HI_ETIME : Fld := ⟨31, 0⟩
def CTX_VT_LO_VT : Fld := ⟨31, 0⟩
def CTX_VT_HI_VT : Fld := ⟨31, 0⟩
def CTX_STEP_LO_STEP : Fld := ⟨31, 0⟩
def CTX_STEP_HI_STEP : Fld := ⟨31, 0⟩
def CTX_REPAIR_REPAIR : Fld := ⟨31, 31⟩
def CTX_REPAIR_HELD : Fld := ⟨30, 30⟩
def CTX_REPAIR_ACT : Fld := ⟨1, 0⟩
def SYNC_CFG_EN : Fld := ⟨31, 31⟩
def SYNC_CFG_KIND : Fld := ⟨30, 29⟩
def SYNC_CFG_PARTIES : Fld := ⟨15, 0⟩
def SYNC_VALUE_VALUE : Fld := ⟨31, 0⟩
def SYNC_HOLDER_HVALID : Fld := ⟨31, 31⟩
def SYNC_HOLDER_HREMOTE : Fld := ⟨30, 30⟩
def SYNC_HOLDER_HCHIP : Fld := ⟨23, 20⟩
def SYNC_HOLDER_HCTX : Fld := ⟨2, 0⟩
def SYNC_STAT_GEN : Fld := ⟨31, 16⟩
def SYNC_STAT_WAITERS : Fld := ⟨15, 8⟩
def SYNC_STAT_LOSTSIG : Fld := ⟨2, 2⟩
def SYNC_STAT_ABANDONED : Fld := ⟨1, 1⟩
def SYNC_STAT_OVF : Fld := ⟨0, 0⟩
def CORE_STAT_CFG_REJECT : Fld := ⟨16, 16⟩
def CORE_STAT_ZEROING : Fld := ⟨15, 12⟩
def CORE_STAT_FAULTED : Fld := ⟨11, 8⟩
def CORE_STAT_RESIDENT : Fld := ⟨7, 4⟩
def CORE_STAT_RUN : Fld := ⟨2, 2⟩
def CORE_STAT_ACTIVE : Fld := ⟨1, 0⟩
def CORE_WIN_CFG_EN : Fld := ⟨31, 31⟩
def CORE_WIN_CFG_SIZE : Fld := ⟨23, 12⟩
def CORE_WIN_CFG_BASE : Fld := ⟨11, 0⟩
def CORE_CTX_ENTRY_ENTRY : Fld := ⟨21, 2⟩
def CORE_CTX_WAITLIM_LIMIT : Fld := ⟨23, 0⟩
def CORE_CTX_FAULT_VALID : Fld := ⟨31, 31⟩
def CORE_CTX_FAULT_COUNT : Fld := ⟨23, 16⟩
def CORE_CTX_FAULT_PRECISE : Fld := ⟨13, 13⟩
def CORE_CTX_FAULT_TOKEN_VALID : Fld := ⟨12, 12⟩
def CORE_CTX_FAULT_TOKEN : Fld := ⟨11, 8⟩
def CORE_CTX_FAULT_CLASS : Fld := ⟨7, 0⟩
def CORE_CTX_FPC_FPC : Fld := ⟨21, 2⟩
def CORE_CTX_FADDR_FADDR : Fld := ⟨31, 0⟩
def CORE_ECC_STAT_UE_COUNT : Fld := ⟨31, 24⟩
def CORE_ECC_STAT_CE_COUNT : Fld := ⟨15, 0⟩
def CORE_ECC_LAST_VALID : Fld := ⟨31, 31⟩
def CORE_ECC_LAST_KIND : Fld := ⟨30, 30⟩
def CORE_ECC_LAST_WORD : Fld := ⟨21, 3⟩
def CORE_FENCE_CNT_UE : Fld := ⟨31, 28⟩
def CORE_FENCE_CNT_CE : Fld := ⟨15, 0⟩
def CR_STAT_DISCARDED : Fld := ⟨31, 24⟩
def CR_STAT_PEAK : Fld := ⟨22, 16⟩
def CR_STAT_HELD : Fld := ⟨14, 0⟩
def KL_CTRL_EN : Fld := ⟨31, 31⟩
def KL_CTRL_FORCE : Fld := ⟨30, 30⟩
def KL_CTRL_RETRY_MAX : Fld := ⟨23, 20⟩
def KL_CTRL_LPBK : Fld := ⟨0, 0⟩
def KL_STAT_STATE : Fld := ⟨31, 29⟩
def KL_STAT_PEER_VALID : Fld := ⟨28, 28⟩
def KL_STAT_PEER_CLU : Fld := ⟨27, 23⟩
def KL_STAT_PEER_CHIP : Fld := ⟨22, 19⟩
def KL_STAT_PEER_LINK : Fld := ⟨18, 15⟩
def KL_STAT_CFG_REJECT : Fld := ⟨8, 8⟩
def KL_STAT_DOWN_EVT : Fld := ⟨7, 7⟩
def KL_STAT_MISWIRE : Fld := ⟨6, 6⟩
def KL_ERR_UNCORR : Fld := ⟨31, 24⟩
def KL_ERR_CRCFAIL : Fld := ⟨23, 16⟩
def KL_ERR_RESEND : Fld := ⟨15, 8⟩
def KL_ERR_TRAIN : Fld := ⟨7, 0⟩
def KL_CORR_CORR : Fld := ⟨31, 0⟩
def KL_POOL_FLITS : Fld := ⟨8, 0⟩
def KL_ID_CLUSTER : Fld := ⟨12, 8⟩
def KL_ID_CHIP : Fld := ⟨3, 0⟩
def HI_STAT_PART_CFG : Fld := ⟨7, 4⟩
def HI_STAT_ISLAND_UP : Fld := ⟨3, 3⟩
def HI_STAT_CASTON_FAIL : Fld := ⟨2, 2⟩
def HI_STAT_FABRIC_RESET : Fld := ⟨1, 1⟩
def HI_STAT_FABRIC_READY : Fld := ⟨0, 0⟩
def HI_FN_STAT_BAD_ACCESS : Fld := ⟨1, 1⟩
def HI_FN_STAT_ELOG_OVF : Fld := ⟨0, 0⟩
def HI_FN_ELOG_BASE_LO_ADDR : Fld := ⟨31, 12⟩
def HI_FN_ELOG_BASE_HI_ADDR : Fld := ⟨31, 0⟩
def HI_FN_ELOG_CFG_EN : Fld := ⟨31, 31⟩
def HI_FN_ELOG_CFG_IEN : Fld := ⟨30, 30⟩
def HI_FN_ELOG_CFG_VEC : Fld := ⟨13, 8⟩
def HI_FN_ELOG_CFG_LOG2SZ : Fld := ⟨3, 0⟩
def HI_FN_ELOG_HEAD_HEAD : Fld := ⟨11, 0⟩
def HI_FN_ELOG_TAIL_PHASE : Fld := ⟨12, 12⟩
def HI_FN_ELOG_TAIL_TAIL : Fld := ⟨11, 0⟩
def HI_QP_SQ_BASE_LO_ADDR : Fld := ⟨31, 12⟩
def HI_QP_SQ_BASE_HI_ADDR : Fld := ⟨31, 0⟩
def HI_QP_CQ_BASE_LO_ADDR : Fld := ⟨31, 12⟩
def HI_QP_CQ_BASE_HI_ADDR : Fld := ⟨31, 0⟩
def HI_QP_CFG_EN : Fld := ⟨31, 31⟩
def HI_QP_CFG_FORCE : Fld := ⟨30, 30⟩
def HI_QP_CFG_IEN : Fld := ⟨29, 29⟩
def HI_QP_CFG_SQLOG2 : Fld := ⟨28, 24⟩
def HI_QP_CFG_CQLOG2 : Fld := ⟨20, 16⟩
def HI_QP_CFG_VEC : Fld := ⟨13, 8⟩
def HI_QP_SQ_HEAD_HEAD : Fld := ⟨15, 0⟩
def HI_QP_CQ_TAIL_PHASE : Fld := ⟨16, 16⟩
def HI_QP_CQ_TAIL_TAIL : Fld := ⟨15, 0⟩
def HI_QP_STAT_STATE : Fld := ⟨31, 29⟩
def HI_QP_STAT_CFG_REJECT : Fld := ⟨23, 23⟩
def HI_QP_STAT_DMA_ERR : Fld := ⟨22, 22⟩
def HI_QP_STAT_DB_ERR : Fld := ⟨21, 21⟩
def HI_QP_STAT_INFLIGHT : Fld := ⟨16, 0⟩
def ING_PORTCFG_SP1_SPLIT : Fld := ⟨1, 1⟩
def ING_PORTCFG_SP0_SPLIT : Fld := ⟨0, 0⟩
def ING_DROP_FCS : Fld := ⟨31, 16⟩
def ING_DROP_UNMATCHED : Fld := ⟨15, 0⟩
def ING_SWADDR_ADDR : Fld := ⟨23, 2⟩
def ING_SWDATA_DATA : Fld := ⟨31, 0⟩
def STRM_CTRL_EN : Fld := ⟨31, 31⟩
def STRM_CTRL_FORCE : Fld := ⟨30, 30⟩
def STRM_CTRL_KIND : Fld := ⟨29, 29⟩
def STRM_CTRL_PORT : Fld := ⟨28, 26⟩
def STRM_CTRL_PART : Fld := ⟨25, 24⟩
def STRM_CTRL_CTX : Fld := ⟨23, 21⟩
def STRM_CTRL_SWEN : Fld := ⟨20, 20⟩
def STRM_CTRL_TLEN : Fld := ⟨19, 19⟩
def STRM_CTRL_PIXFMT : Fld := ⟨15, 8⟩
def STRM_MATCH_UDPPORT : Fld := ⟨31, 16⟩
def STRM_MATCH_STAG : Fld := ⟨15, 0⟩
def STRM_SID_LO_SID : Fld := ⟨31, 0⟩
def STRM_SID_HI_SID : Fld := ⟨31, 0⟩
def STRM_GEOM_W : Fld := ⟨31, 16⟩
def STRM_GEOM_H : Fld := ⟨15, 0⟩
def STRM_TIME_PERIOD_US : Fld := ⟨31, 16⟩
def STRM_TIME_VBLANK_US : Fld := ⟨15, 0⟩
def STRM_BUDGET_BUDGET : Fld := ⟨31, 0⟩
def STRM_PLAN_PLAN_OFF : Fld := ⟨23, 0⟩
def STRM_SWATCH_SWBASE_KB : Fld := ⟨13, 0⟩
def STRM_TLCRC_TLCRC : Fld := ⟨31, 0⟩
def STRM_STAT_STATE : Fld := ⟨31, 29⟩
def STRM_STAT_REASON : Fld := ⟨23, 16⟩
def STRM_STAT_DEFER : Fld := ⟨15, 13⟩
def STRM_STAT_SWFAIL : Fld := ⟨12, 12⟩
def STRM_STAT_CFG_REJECT : Fld := ⟨11, 11⟩
def STRM_STAT_HELD : Fld := ⟨10, 5⟩
def STRM_STAT_INFLIGHT : Fld := ⟨4, 0⟩
def STRM_CNT_VOIDS : Fld := ⟨31, 24⟩
def STRM_CNT_DROPPED : Fld := ⟨23, 16⟩
def STRM_CNT_OVERTIME : Fld := ⟨15, 8⟩
def STRM_CNT_DEFERRALS : Fld := ⟨7, 0⟩
def STRM_SEQ_NEXT : Fld := ⟨25, 0⟩
def LE_CTRL_EN : Fld := ⟨31, 31⟩
def LE_CTRL_PCOMMIT : Fld := ⟨30, 30⟩
def LE_STAT_RUN : Fld := ⟨31, 31⟩
def LE_STAT_SLIP : Fld := ⟨30, 30⟩
def LE_STAT_CFG_REJECT : Fld := ⟨29, 29⟩
def LE_STAT_RREF : Fld := ⟨28, 28⟩
def LE_STAT_PPEND : Fld := ⟨27, 27⟩
def LE_STAT_LSLANE : Fld := ⟨15, 0⟩
def LE_EPOCH_EPOCH : Fld := ⟨31, 0⟩
def LE_TICK_LO_TICK : Fld := ⟨31, 0⟩
def LE_TICK_HI_TICK : Fld := ⟨31, 0⟩
def LE_MEMADDR_ADDR : Fld := ⟨20, 2⟩
def LE_MEMDATA_DATA : Fld := ⟨31, 0⟩
def LE_RESTORE_LOOP : Fld := ⟨9, 0⟩
def GRP_CFG_EN : Fld := ⟨31, 31⟩
def GRP_CFG_FORCE : Fld := ⟨30, 30⟩
def GRP_CFG_NM1 : Fld := ⟨25, 16⟩
def GRP_CFG_PHASE : Fld := ⟨9, 0⟩
def GRP_STAT_STATE : Fld := ⟨31, 29⟩
def GRP_STAT_CFG_REJECT : Fld := ⟨28, 28⟩
def GRP_STAT_FALLBACK : Fld := ⟨10, 0⟩
def LOOP_FLAGS_MODE : Fld := ⟨4, 4⟩
def LOOP_FLAGS_LS : Fld := ⟨3, 3⟩
def LOOP_FLAGS_OSC : Fld := ⟨2, 2⟩
def LOOP_FLAGS_SAT : Fld := ⟨1, 1⟩
def MB_CFG_EN : Fld := ⟨31, 31⟩
def MB_CFG_NVAL : Fld := ⟨19, 16⟩
def MB_CFG_JOB : Fld := ⟨15, 0⟩
def MB_DEADLINE_DEADLINE : Fld := ⟨31, 0⟩
def MB_STAT_STALE : Fld := ⟨31, 31⟩
def MB_STAT_REFUSED : Fld := ⟨30, 30⟩
def MB_STAT_WRITES : Fld := ⟨15, 0⟩
def TR_CTRL_EN : Fld := ⟨31, 31⟩
def TR_CTRL_STREAM : Fld := ⟨30, 30⟩
def TR_CTRL_FIRE : Fld := ⟨29, 29⟩
def TR_CTRL_STATE : Fld := ⟨28, 27⟩
def TR_CTRL_POST : Fld := ⟨10, 0⟩
def TR_TRIG_SRC : Fld := ⟨31, 29⟩
def TR_TRIG_TCH : Fld := ⟨28, 23⟩
def TR_TRIG_DDMASK : Fld := ⟨15, 0⟩
def TR_LEVEL_LEVEL : Fld := ⟨31, 0⟩
def TR_TTIME_TTIME : Fld := ⟨31, 0⟩
def TR_RBASE_SIZEM1 : Fld := ⟨31, 26⟩
def TR_RBASE_BASE_KB : Fld := ⟨15, 0⟩
def TRC_CFG_EN : Fld := ⟨31, 31⟩
def TRC_CFG_LOOP : Fld := ⟨25, 16⟩
def TRC_CFG_SIG : Fld := ⟨15, 11⟩
def TRC_STAT_TIDX : Fld := ⟨26, 16⟩
def TRC_STAT_WIDX : Fld := ⟨10, 0⟩
def TB_FRAC_FRAC : Fld := ⟨31, 0⟩
def TB_NS_NS : Fld := ⟨31, 0⟩
def TB_CAP_CAP : Fld := ⟨31, 0⟩
def TB_INCR_INCR : Fld := ⟨31, 0⟩
def TB_STEP_STEP : Fld := ⟨31, 0⟩
def TB_CTRL_EN : Fld := ⟨31, 31⟩
def TB_CTRL_SRC : Fld := ⟨30, 30⟩
def TB_CTRL_PORT : Fld := ⟨29, 29⟩
def TB_CTRL_TRANSPORT : Fld := ⟨28, 27⟩
def TB_CTRL_DELAY : Fld := ⟨26, 26⟩
def TB_CTRL_ONESTEP : Fld := ⟨25, 25⟩
def TB_CTRL_LINK : Fld := ⟨24, 21⟩
def TB_CTRL_PDOMAIN : Fld := ⟨20, 20⟩
def TB_CTRL_DOMAIN : Fld := ⟨15, 8⟩
def TB_SERVO_STEPEN : Fld := ⟨31, 31⟩
def TB_SERVO_LOSSCNT : Fld := ⟨27, 24⟩
def TB_SERVO_LOGINT : Fld := ⟨23, 20⟩
def TB_SERVO_LOGDREQ : Fld := ⟨19, 16⟩
def TB_SERVO_LOCKTHR : Fld := ⟨15, 0⟩
def TB_KP_KP : Fld := ⟨31, 0⟩
def TB_KI_KI : Fld := ⟨31, 0⟩
def TB_STEPTHR_STEPTHR : Fld := ⟨31, 0⟩
def TB_OFFSET_THETA : Fld := ⟨31, 0⟩
def TB_CORR_CORR : Fld := ⟨31, 0⟩
def TB_MPD_MPD : Fld := ⟨31, 0⟩
def TB_STAT_STATE : Fld := ⟨31, 29⟩
def TB_STAT_MASTER_OK : Fld := ⟨28, 28⟩
def TB_STAT_CFG_REJECT : Fld := ⟨27, 27⟩
def TB_STAT_MCHG : Fld := ⟨26, 26⟩
def TB_STAT_STEPS : Fld := ⟨15, 8⟩
def TB_STAT_BIGOFF : Fld := ⟨7, 0⟩
def TB_LAT_RXLAT : Fld := ⟨31, 16⟩
def TB_LAT_TXLAT : Fld := ⟨15, 0⟩
def TB_SRCID_LO_SRCID : Fld := ⟨31, 0⟩
def TB_SRCID_HI_SRCID : Fld := ⟨31, 0⟩
def TB3_CTRL_SEL : Fld := ⟨31, 31⟩
def TB3_STAT_FOLLOW : Fld := ⟨31, 31⟩
def TB3_STAT_SLEWING : Fld := ⟨30, 30⟩
def TB3_STAT_SWITCHES : Fld := ⟨7, 0⟩
def TB3_SLEW_SLEW : Fld := ⟨19, 0⟩
def TB3_D_LO_D : Fld := ⟨31, 0⟩
def TB3_D_HI_D : Fld := ⟨31, 0⟩
def TIME_CTRL_CAP : Fld := ⟨31, 31⟩
def TIME_CTRL_PPSEN : Fld := ⟨30, 30⟩
def TIME_CTRL_PPSCAP : Fld := ⟨29, 29⟩
def TIME_STAT_NOTIME : Fld := ⟨31, 31⟩
def TIME_STAT_CAPV : Fld := ⟨30, 30⟩
def PPS_NEXT_NEXT : Fld := ⟨31, 0⟩
def PPS_PERIOD_PERIOD : Fld := ⟨31, 0⟩
def CP_GCTRL_EN : Fld := ⟨31, 31⟩
def CP_GCTRL_SWAP : Fld := ⟨30, 30⟩
def CP_GCTRL_LEN : Fld := ⟨8, 0⟩
def CP_CYCLE_CYCLE : Fld := ⟨31, 0⟩
def CP_BASE_BASE : Fld := ⟨31, 0⟩
def CP_PREEMPT_PMASK : Fld := ⟨15, 8⟩
def CP_PREEMPT_VERIFY : Fld := ⟨7, 7⟩
def CP_PREEMPT_ADDFRAG : Fld := ⟨1, 0⟩
def CP_GSTAT_BANK : Fld := ⟨31, 31⟩
def CP_GSTAT_PENDING : Fld := ⟨30, 30⟩
def CP_GSTAT_PREEMPT_OK : Fld := ⟨29, 29⟩
def CP_GSTAT_GATES : Fld := ⟨15, 8⟩
def CP_GCL_GATES : Fld := ⟨31, 24⟩
def CP_GCL_INTERVAL : Fld := ⟨23, 0⟩
def DD_ACTIVE_ACTIVE : Fld := ⟨15, 0⟩
def DD_FORCE_FORCE : Fld := ⟨15, 0⟩
def DD_LEVEL_LEVEL : Fld := ⟨15, 0⟩
def SAFE_LOCK_LOCK : Fld := ⟨0, 0⟩
def DD_FIRST_VALID : Fld := ⟨31, 31⟩
def DD_FIRST_SRC : Fld := ⟨9, 0⟩
def DD_TIME_TIME : Fld := ⟨31, 0⟩
def DM_PEND_PEND : Fld := ⟨31, 0⟩
def TRIP_STAT_LO_TRIP : Fld := ⟨31, 0⟩
def TRIP_STAT_HI_TRIP : Fld := ⟨31, 0⟩
def TRIP_PIN_LEVEL : Fld := ⟨23, 16⟩
def TRIP_PIN_TRIPPED : Fld := ⟨7, 0⟩
def TRIP_FAULT_MIS : Fld := ⟨9, 9⟩
def TRIP_FAULT_CFG_REJECT : Fld := ⟨8, 8⟩
def TRIP_FAULT_CLKFAIL : Fld := ⟨7, 7⟩
def TRIP_FAULT_RBERR : Fld := ⟨6, 6⟩
def TRIP_FAULT_TCIDX : Fld := ⟨5, 0⟩
def TRIPIN_CFG_FILT : Fld := ⟨10, 8⟩
def TRIPIN_CFG_EN : Fld := ⟨7, 0⟩
def PERMIT_CTRL_GRANT : Fld := ⟨31, 31⟩
def PERMIT_CTRL_PINMASK : Fld := ⟨23, 16⟩
def PERMIT_CTRL_DDMASK : Fld := ⟨15, 0⟩
def PERMIT_TMASK_LO_TMASK : Fld := ⟨31, 0⟩
def PERMIT_TMASK_HI_TMASK : Fld := ⟨31, 0⟩
def PERMIT_STAT_OUT : Fld := ⟨31, 31⟩
def PERMIT_STAT_RB : Fld := ⟨30, 30⟩
def PERMIT_STAT_GREF : Fld := ⟨29, 29⟩
def PERMIT_STAT_CAUSE : Fld := ⟨10, 8⟩
def PERMIT_STAT_INDEX : Fld := ⟨5, 0⟩
def PERMIT_WTIME_TIME : Fld := ⟨31, 0⟩
def HB_CTRL_EN : Fld := ⟨31, 31⟩
def HB_CTRL_STOPPED : Fld := ⟨30, 30⟩
def TEST_CTRL_FEN : Fld := ⟨31, 31⟩
def TEST_CTRL_IEN : Fld := ⟨30, 30⟩
def TEST_CTRL_FESC : Fld := ⟨29, 29⟩
def TEST_CTRL_IESC : Fld := ⟨28, 28⟩
def TEST_CTRL_BISTGO : Fld := ⟨27, 27⟩
def TEST_CTRL_BISTCH : Fld := ⟨26, 25⟩
def TEST_CTRL_INTERVAL : Fld := ⟨13, 0⟩
def TEST_STAT_FOVD : Fld := ⟨31, 28⟩
def TEST_STAT_IOVD : Fld := ⟨27, 27⟩
def TEST_STAT_FFAIL : Fld := ⟨26, 23⟩
def TEST_STAT_IFAIL : Fld := ⟨22, 22⟩
def TEST_STAT_BISTBUSY : Fld := ⟨21, 21⟩
def TEST_STAT_BISTFAIL : Fld := ⟨20, 20⟩
def TEST_STAT_LANEDONE : Fld := ⟨15, 0⟩
def DM_MAP_MASK : Fld := ⟨15, 0⟩
def TC_CFG_EN : Fld := ⟨31, 31⟩
def TC_CFG_KIND : Fld := ⟨30, 29⟩
def TC_CFG_FIELD : Fld := ⟨10, 0⟩
def TC_LO_LIMIT : Fld := ⟨31, 0⟩
def TC_HI_LIMIT : Fld := ⟨31, 0⟩
def SEC_STAT_ROOT_OK : Fld := ⟨31, 31⟩
def SEC_STAT_ROOT_BAD : Fld := ⟨30, 30⟩
def SEC_STAT_STORE_OK : Fld := ⟨29, 29⟩
def SEC_STAT_OPKEY : Fld := ⟨28, 28⟩
def SEC_STAT_EXHAUST : Fld := ⟨27, 27⟩
def SEC_STAT_CFG_REJECT : Fld := ⟨26, 26⟩
def SEC_STAT_KRES : Fld := ⟨25, 24⟩
def SEC_CTRL_CERTGO : Fld := ⟨31, 31⟩
def SEC_CTRL_KINST : Fld := ⟨30, 30⟩
def SEC_CTRL_KROT : Fld := ⟨29, 29⟩
def SEC_LEAF_LO_LEAF : Fld := ⟨31, 0⟩
def SEC_LEAF_HI_LEAF : Fld := ⟨31, 0⟩
def SEC_HWM_LO_HWM : Fld := ⟨31, 0⟩
def SEC_HWM_HI_HWM : Fld := ⟨31, 0⟩
def SEC_REC_CFG_EN : Fld := ⟨31, 31⟩
def SEC_REC_CFG_BUSY : Fld := ⟨30, 30⟩
def SEC_REC_CFG_BASE_MB : Fld := ⟨29, 24⟩
def SEC_REC_CFG_SIZE_MB : Fld := ⟨22, 16⟩
def SEC_RRD_ADDR_REGION : Fld := ⟨31, 29⟩
def SEC_RRD_ADDR_BLOCK : Fld := ⟨13, 0⟩
def SEC_RRD_STAT_DONE : Fld := ⟨31, 31⟩
def SEC_RRD_STAT_RESULT : Fld := ⟨1, 0⟩
def SEC_KBUF_DATA : Fld := ⟨31, 0⟩
def SEC_RRD_DATA_DATA : Fld := ⟨31, 0⟩
def TRCF_BASE_LO_ADDR : Fld := ⟨31, 12⟩
def TRCF_BASE_HI_ADDR : Fld := ⟨31, 0⟩
def TRCF_CFG_EN : Fld := ⟨31, 31⟩
def TRCF_CFG_DEST : Fld := ⟨30, 30⟩
def TRCF_CFG_IEN : Fld := ⟨29, 29⟩
def TRCF_CFG_VEC : Fld := ⟨28, 23⟩
def TRCF_CFG_LOG2SZ : Fld := ⟨22, 19⟩
def TRCF_CFG_FLUSH : Fld := ⟨14, 0⟩
def TRCF_SEL_CLASSMASK : Fld := ⟨31, 28⟩
def TRCF_SEL_CHMASK : Fld := ⟨27, 24⟩
def TRCF_SEL_CTXMASK : Fld := ⟨23, 16⟩
def TRCF_SEL_UNITMASK : Fld := ⟨15, 8⟩
def TRCF_SEL_PART : Fld := ⟨1, 0⟩
def TRCF_HEAD_HEAD : Fld := ⟨11, 0⟩
def TRCF_TAIL_PHASE : Fld := ⟨12, 12⟩
def TRCF_TAIL_TAIL : Fld := ⟨11, 0⟩
def TRCF_STAT_CFG_REJECT : Fld := ⟨31, 31⟩
def TRCF_STAT_DROPPED : Fld := ⟨15, 0⟩
def SMP_BASE_LO_ADDR : Fld := ⟨31, 12⟩
def SMP_BASE_HI_ADDR : Fld := ⟨31, 0⟩
def SMP_CFG_EN : Fld := ⟨31, 31⟩
def SMP_CFG_DEST : Fld := ⟨30, 30⟩
def SMP_CFG_IEN : Fld := ⟨29, 29⟩
def SMP_CFG_VEC : Fld := ⟨28, 23⟩
def SMP_CFG_LOG2SZ : Fld := ⟨22, 19⟩
def SMP_CFG_NSEL : Fld := ⟨18, 15⟩
def SMP_CFG_FLUSH : Fld := ⟨14, 0⟩
def SMP_INTERVAL_INTERVAL : Fld := ⟨31, 0⟩
def SMP_HEAD_HEAD : Fld := ⟨11, 0⟩
def SMP_TAIL_PHASE : Fld := ⟨12, 12⟩
def SMP_TAIL_TAIL : Fld := ⟨11, 0⟩
def SMP_STAT_CFG_REJECT : Fld := ⟨31, 31⟩
def SMP_STAT_DROPPED : Fld := ⟨15, 0⟩
def SMP_SEL_HIID : Fld := ⟨31, 16⟩
def SMP_SEL_LOID : Fld := ⟨15, 0⟩
def TRC_KEY_KEY : Fld := ⟨31, 0⟩
def CH_TRC_DROP_DROPPED : Fld := ⟨15, 0⟩
def GCNT_CFG_EN : Fld := ⟨31, 31⟩
def GCNT_CFG_MODE : Fld := ⟨30, 30⟩
def GCNT_CFG_UNIT : Fld := ⟨29, 24⟩
def GCNT_CFG_CTXMASK : Fld := ⟨23, 16⟩
def GCNT_CFG_PART : Fld := ⟨15, 14⟩
def GCNT_CFG_EVENT : Fld := ⟨7, 0⟩
def GCNT_LO_VALUE : Fld := ⟨31, 0⟩
def GCNT_HI_VALUE : Fld := ⟨31, 0⟩
def CH_CNT_CFG_EN : Fld := ⟨31, 31⟩
def CH_CNT_CFG_MODE : Fld := ⟨30, 30⟩
def CH_CNT_CFG_UNIT : Fld := ⟨29, 24⟩
def CH_CNT_CFG_CTXMASK : Fld := ⟨23, 16⟩
def CH_CNT_CFG_PART : Fld := ⟨15, 14⟩
def CH_CNT_CFG_EVENT : Fld := ⟨7, 0⟩
def CH_CNT_LO_VALUE : Fld := ⟨31, 0⟩
def CH_CNT_HI_VALUE : Fld := ⟨31, 0⟩
def CORE_CNT_CFG_EN : Fld := ⟨31, 31⟩
def CORE_CNT_CFG_MODE : Fld := ⟨30, 30⟩
def CORE_CNT_CFG_UNIT : Fld := ⟨29, 24⟩
def CORE_CNT_CFG_CTXMASK : Fld := ⟨23, 16⟩
def CORE_CNT_CFG_PART : Fld := ⟨15, 14⟩
def CORE_CNT_CFG_EVENT : Fld := ⟨7, 0⟩
def CORE_CNT_LO_VALUE : Fld := ⟨31, 0⟩
def CORE_CNT_HI_VALUE : Fld := ⟨31, 0⟩
def CLK_STAT_LOCK : Fld := ⟨31, 31⟩
def CLK_STAT_LOLCNT : Fld := ⟨15, 8⟩
def RST_CAUSE_SHUTDOWN : Fld := ⟨4, 4⟩
def RST_CAUSE_CAUSE : Fld := ⟨3, 0⟩
def RST_CTRL_ISLRST : Fld := ⟨31, 31⟩
def RST_CTRL_FABRST : Fld := ⟨30, 30⟩
def TEN_CFG_DROOP : Fld := ⟨7, 0⟩
def TEN_STAT_ACTIVE : Fld := ⟨31, 31⟩
def TEN_STAT_DRP : Fld := ⟨30, 30⟩
def TEN_STAT_WARN : Fld := ⟨29, 29⟩
def TEN_STAT_HOT : Fld := ⟨28, 28⟩
def TEN_STAT_BURSTS : Fld := ⟨15, 0⟩
def PWR_GATE_LO_GATE : Fld := ⟨31, 0⟩
def PWR_GATE_HI_GATE : Fld := ⟨31, 0⟩
def PWR_UP_LO_UP : Fld := ⟨31, 0⟩
def PWR_UP_HI_UP : Fld := ⟨31, 0⟩
def PWR_STAT_CFG_REJECT : Fld := ⟨31, 31⟩
def GAUGE_VSET_VSET : Fld := ⟨9, 0⟩
def GAUGE_SLACK_SLACK : Fld := ⟨15, 0⟩
def GAUGE_HEAD_DAYS : Fld := ⟨31, 16⟩
def GAUGE_HEAD_MV : Fld := ⟨15, 0⟩
def GAUGE_STAT_CEIL : Fld := ⟨31, 31⟩
def GAUGE_STAT_PMBERR : Fld := ⟨30, 30⟩
def GAUGE_STAT_MEAS : Fld := ⟨29, 29⟩
def GAUGE_STAT_COUNT : Fld := ⟨7, 0⟩
def GAUGE_CFG_NOW : Fld := ⟨31, 31⟩
def GAUGE_CFG_MT : Fld := ⟨7, 0⟩
def SUPPLY_CFG_RST : Fld := ⟨15, 8⟩
def SUPPLY_CFG_WARN : Fld := ⟨7, 0⟩
def SUPPLY_STAT_BELOW : Fld := ⟨20, 16⟩
def SUPPLY_STAT_RESETS : Fld := ⟨12, 8⟩
def SUPPLY_STAT_WARNS : Fld := ⟨4, 0⟩
def THERM_T_TEMP : Fld := ⟨15, 0⟩
def THERM_STAT_STOP : Fld := ⟨11, 8⟩
def THERM_STAT_HOT : Fld := ⟨4, 0⟩

end F

/-! ### The register map -/

/-- Rows of the register map, ID_PART to CTX_ETIME_LO. [DESIGN CHOICE: log 7] -/
def regRows0 : List RegRow :=
  [⟨0x00000000, [], ⟨0xE4A00400, 0x0, 0x0, 0x0, 0x0, 0x0, false⟩⟩,
   ⟨0x00000004, [], ⟨0x43F, 0x0, 0x0, 0x0, 0x0, 0x0, false⟩⟩,
   ⟨0x00000100, [(4, 0x40), (16, 0x4)], ⟨0x0, 0x0, 0x0, 0x0, 0x0, 0x0, false⟩⟩,
   ⟨0x00000200, [], ⟨0x0, 0x0, 0x0, 0x0, 0x0, 0x0, false⟩⟩,
   ⟨0x01000000, [(4, 0x400000)], ⟨0x80000000, 0xC0000000, 0x0, 0x0, 0x0, 0x0, false⟩⟩,
   ⟨0x01000004, [(4, 0x400000)], ⟨0x20000000, 0x0, 0x0, 0x0, 0x0, 0x0, false⟩⟩,
   ⟨0x01000010, [(4, 0x400000)], ⟨0x0, 0x0, 0x0, 0x0, 0xFF000000, 0x0, false⟩⟩,
   ⟨0x01000014, [(4, 0x400000)], ⟨0x0, 0x0, 0x0, 0x0, 0x0, 0x0, false⟩⟩,
   ⟨0x01000020, [(4, 0x400000)], ⟨0x20001000, 0xF000FFFF, 0x0, 0x0, 0x0, 0x0, false⟩⟩,
   ⟨0x01000100, [(4, 0x400000), (8, 0x20)], ⟨0x0, 0xFFFF, 0x0, 0x0, 0x0, 0x0, false⟩⟩,
   ⟨0x01000104, [(4, 0x400000), (8, 0x20)], ⟨0x0, 0x0, 0x0, 0x0, 0xFF, 0x0, false⟩⟩,
   ⟨0x01000108, [(4, 0x400000), (8, 0x20)], ⟨0x0, 0x0, 0x0, 0x0, 0x0, 0x0, true⟩⟩]

/-- Rows of the register map, CTX_ETIME_HI to CORE_WIN_CFG. -/
def regRows1 : List RegRow :=
  [⟨0x0100010C, [(4, 0x400000), (8, 0x20)], ⟨0x0, 0x0, 0x0, 0x0, 0x0, 0x0, false⟩⟩,
   ⟨0x01000110, [(4, 0x400000), (8, 0x20)], ⟨0x0, 0x0, 0x0, 0x0, 0x0, 0x0, true⟩⟩,
   ⟨0x01000114, [(4, 0x400000), (8, 0x20)], ⟨0x0, 0x0, 0x0, 0x0, 0x0, 0x0, false⟩⟩,
   ⟨0x01000118, [(4, 0x400000), (8, 0x20)], ⟨0x0, 0x0, 0x0, 0x0, 0x0, 0x0, true⟩⟩,
   ⟨0x0100011C, [(4, 0x400000), (8, 0x20)], ⟨0x0, 0x0, 0x0, 0x0, 0x0, 0x0, false⟩⟩,
   ⟨0x01000200, [(4, 0x400000), (8, 0x4)], ⟨0x0, 0x0, 0x0, 0x0, 0x0, 0x3, false⟩⟩,
   ⟨0x01100000, [(4, 0x400000), (16384, 0x10)], ⟨0x0, 0xE000FFFF, 0x0, 0x0, 0x0, 0x0, false⟩⟩,
   ⟨0x01100004, [(4, 0x400000), (16384, 0x10)], ⟨0x0, 0xFFFFFFFF, 0x0, 0x0, 0x0, 0x0, false⟩⟩,
   ⟨0x01100008, [(4, 0x400000), (16384, 0x10)], ⟨0x0, 0xC0F00007, 0x0, 0x0, 0x0, 0x0, false⟩⟩,
   ⟨0x0110000C, [(4, 0x400000), (16384, 0x10)], ⟨0x0, 0x0, 0x7, 0x0, 0x0, 0x0, false⟩⟩,
   ⟨0x01200000, [(4, 0x400000), (256, 0x400)], ⟨0x0, 0x0, 0x10000, 0x0, 0x0, 0x0, false⟩⟩,
   ⟨0x01200040, [(4, 0x400000), (256, 0x400), (4, 0x20)], ⟨0x0, 0x80FFFFFF, 0x0, 0x0, 0x0, 0x0, false⟩⟩]

/-- Rows of the register map, CORE_CTX_ENTRY to KL_ERR. -/
def regRows2 : List RegRow :=
  [⟨0x01200044, [(4, 0x400000), (256, 0x400), (4, 0x20)], ⟨0x0, 0x3FFFFC, 0x0, 0x0, 0x0, 0x0, false⟩⟩,
   ⟨0x01200048, [(4, 0x400000), (256, 0x400), (4, 0x20)], ⟨0x0, 0xFFFFFF, 0x0, 0x0, 0x0, 0x0, false⟩⟩,
   ⟨0x0120004C, [(4, 0x400000), (256, 0x400), (4, 0x20)], ⟨0x0, 0x0, 0x0, 0x0, 0x0, 0x0, false⟩⟩,
   ⟨0x01200050, [(4, 0x400000), (256, 0x400), (4, 0x20)], ⟨0x0, 0x0, 0x0, 0x0, 0x0, 0x0, false⟩⟩,
   ⟨0x01200054, [(4, 0x400000), (256, 0x400), (4, 0x20)], ⟨0x0, 0x0, 0x0, 0x0, 0x0, 0x0, false⟩⟩,
   ⟨0x01200100, [(4, 0x400000), (256, 0x400)], ⟨0x0, 0x0, 0x0, 0x0, 0xFF00FFFF, 0x0, false⟩⟩,
   ⟨0x01200104, [(4, 0x400000), (256, 0x400)], ⟨0x0, 0x0, 0x80000000, 0x0, 0x0, 0x0, false⟩⟩,
   ⟨0x01200108, [(4, 0x400000), (256, 0x400)], ⟨0x0, 0x0, 0x0, 0x0, 0x0, 0x0, false⟩⟩,
   ⟨0x01300000, [(4, 0x400000)], ⟨0x0, 0x0, 0x0, 0x0, 0xFF7F0000, 0x0, false⟩⟩,
   ⟨0x02000000, [(16, 0x1000)], ⟨0x400000, 0xC0F00001, 0x0, 0x0, 0x0, 0x0, false⟩⟩,
   ⟨0x02000004, [(16, 0x1000)], ⟨0x0, 0x0, 0x1C0, 0x0, 0x0, 0x0, false⟩⟩,
   ⟨0x02000008, [(16, 0x1000)], ⟨0x0, 0x0, 0x0, 0x0, 0xFFFFFFFF, 0x0, false⟩⟩]

/-- Rows of the register map, KL_CORR to HI_QP_SQ_BASE_HI. -/
def regRows3 : List RegRow :=
  [⟨0x0200000C, [(16, 0x1000)], ⟨0x0, 0x0, 0x0, 0x0, 0xFFFFFFFF, 0x0, false⟩⟩,
   ⟨0x02000010, [(16, 0x1000), (4, 0x4)], ⟨0x0, 0x1FF, 0x0, 0x0, 0x0, 0x0, false⟩⟩,
   ⟨0x02010000, [], ⟨0x0, 0x1F0F, 0x0, 0x0, 0x0, 0x0, false⟩⟩,
   ⟨0x02100000, [], ⟨0x0, 0x0, 0x0, 0x0, 0x0, 0x0, false⟩⟩,
   ⟨0x02101000, [(5, 0x4000000)], ⟨0x0, 0x0, 0x3, 0x0, 0x0, 0x0, false⟩⟩,
   ⟨0x02101004, [(5, 0x4000000)], ⟨0x0, 0xFFFFF000, 0x0, 0x0, 0x0, 0x0, true⟩⟩,
   ⟨0x02101008, [(5, 0x4000000)], ⟨0x0, 0xFFFFFFFF, 0x0, 0x0, 0x0, 0x0, false⟩⟩,
   ⟨0x0210100C, [(5, 0x4000000)], ⟨0x0, 0xC0003F0F, 0x0, 0x0, 0x0, 0x0, false⟩⟩,
   ⟨0x02101010, [(5, 0x4000000)], ⟨0x0, 0xFFF, 0x0, 0x0, 0x0, 0x0, false⟩⟩,
   ⟨0x02101014, [(5, 0x4000000)], ⟨0x1000, 0x0, 0x0, 0x0, 0x0, 0x0, false⟩⟩,
   ⟨0x02102000, [(5, 0x4000000), (64, 0x40)], ⟨0x0, 0xFFFFF000, 0x0, 0x0, 0x0, 0x0, true⟩⟩,
   ⟨0x02102004, [(5, 0x4000000), (64, 0x40)], ⟨0x0, 0xFFFFFFFF, 0x0, 0x0, 0x0, 0x0, false⟩⟩]

/-- Rows of the register map, HI_QP_CQ_BASE_LO to STRM_MATCH. -/
def regRows4 : List RegRow :=
  [⟨0x02102008, [(5, 0x4000000), (64, 0x40)], ⟨0x0, 0xFFFFF000, 0x0, 0x0, 0x0, 0x0, true⟩⟩,
   ⟨0x0210200C, [(5, 0x4000000), (64, 0x40)], ⟨0x0, 0xFFFFFFFF, 0x0, 0x0, 0x0, 0x0, false⟩⟩,
   ⟨0x02102010, [(5, 0x4000000), (64, 0x40)], ⟨0x0, 0xFF1F3F00, 0x0, 0x0, 0x0, 0x0, false⟩⟩,
   ⟨0x02102014, [(5, 0x4000000), (64, 0x40)], ⟨0x0, 0x0, 0x0, 0x0, 0x0, 0x0, false⟩⟩,
   ⟨0x02102018, [(5, 0x4000000), (64, 0x40)], ⟨0x10000, 0x0, 0x0, 0x0, 0x0, 0x0, false⟩⟩,
   ⟨0x0210201C, [(5, 0x4000000), (64, 0x40)], ⟨0x0, 0x0, 0xE00000, 0x0, 0x0, 0x0, false⟩⟩,
   ⟨0x02200000, [], ⟨0x0, 0x3, 0x0, 0x0, 0x0, 0x0, false⟩⟩,
   ⟨0x02200004, [], ⟨0x0, 0x0, 0x0, 0x0, 0xFFFFFFFF, 0x0, false⟩⟩,
   ⟨0x02200010, [], ⟨0x0, 0xFFFFFC, 0x0, 0x0, 0x0, 0x0, false⟩⟩,
   ⟨0x02200014, [], ⟨0x0, 0xFFFFFFFF, 0x0, 0x0, 0x0, 0x0, false⟩⟩,
   ⟨0x02201000, [(64, 0x40)], ⟨0x0, 0xFFF8FF00, 0x0, 0x0, 0x0, 0x0, false⟩⟩,
   ⟨0x02201004, [(64, 0x40)], ⟨0x0, 0xFFFFFFFF, 0x0, 0x0, 0x0, 0x0, false⟩⟩]

/-- Rows of the register map, STRM_SID_LO to LE_CTRL. -/
def regRows5 : List RegRow :=
  [⟨0x02201008, [(64, 0x40)], ⟨0x0, 0xFFFFFFFF, 0x0, 0x0, 0x0, 0x0, true⟩⟩,
   ⟨0x0220100C, [(64, 0x40)], ⟨0x0, 0xFFFFFFFF, 0x0, 0x0, 0x0, 0x0, false⟩⟩,
   ⟨0x02201010, [(64, 0x40)], ⟨0x0, 0xFFFFFFFF, 0x0, 0x0, 0x0, 0x0, false⟩⟩,
   ⟨0x02201014, [(64, 0x40)], ⟨0x0, 0xFFFFFFFF, 0x0, 0x0, 0x0, 0x0, false⟩⟩,
   ⟨0x02201018, [(64, 0x40)], ⟨0x0, 0xFFFFFFFF, 0x0, 0x0, 0x0, 0x0, false⟩⟩,
   ⟨0x0220101C, [(64, 0x40)], ⟨0x0, 0xFFFFFF, 0x0, 0x0, 0x0, 0x0, false⟩⟩,
   ⟨0x02201020, [(64, 0x40)], ⟨0x0, 0x3FFF, 0x0, 0x0, 0x0, 0x0, false⟩⟩,
   ⟨0x02201024, [(64, 0x40)], ⟨0x0, 0xFFFFFFFF, 0x0, 0x0, 0x0, 0x0, false⟩⟩,
   ⟨0x02201028, [(64, 0x40)], ⟨0x0, 0x0, 0x1800, 0x0, 0x0, 0x0, false⟩⟩,
   ⟨0x0220102C, [(64, 0x40)], ⟨0x0, 0x0, 0x0, 0x0, 0xFFFFFFFF, 0x0, false⟩⟩,
   ⟨0x02201030, [(64, 0x40)], ⟨0x0, 0x0, 0x0, 0x0, 0x0, 0x0, false⟩⟩,
   ⟨0x02300000, [], ⟨0x0, 0x80000000, 0x0, 0x0, 0x0, 0x40000000, false⟩⟩]

/-- Rows of the register map, LE_STAT to MB_DEADLINE. -/
def regRows6 : List RegRow :=
  [⟨0x02300004, [], ⟨0x0, 0x0, 0x7000FFFF, 0x0, 0x0, 0x0, false⟩⟩,
   ⟨0x02300008, [], ⟨0x0, 0xFFFFFFFF, 0x0, 0x0, 0x0, 0x0, false⟩⟩,
   ⟨0x02300010, [], ⟨0x0, 0x0, 0x0, 0x0, 0x0, 0x0, true⟩⟩,
   ⟨0x02300014, [], ⟨0x0, 0x0, 0x0, 0x0, 0x0, 0x0, false⟩⟩,
   ⟨0x02300020, [], ⟨0x0, 0x1FFFFC, 0x0, 0x0, 0x0, 0x0, false⟩⟩,
   ⟨0x02300024, [], ⟨0x0, 0xFFFFFFFF, 0x0, 0x0, 0x0, 0x0, false⟩⟩,
   ⟨0x02300030, [], ⟨0x0, 0x0, 0x0, 0x0, 0x0, 0x3FF, false⟩⟩,
   ⟨0x02300100, [(64, 0x8)], ⟨0x0, 0xC3FF03FF, 0x0, 0x0, 0x0, 0x0, false⟩⟩,
   ⟨0x02300104, [(64, 0x8)], ⟨0x0, 0x0, 0x10000000, 0x0, 0x0, 0x0, false⟩⟩,
   ⟨0x02301000, [(1024, 0x4)], ⟨0x0, 0x0, 0xE, 0x0, 0x0, 0x0, false⟩⟩,
   ⟨0x02302000, [(256, 0x10)], ⟨0x0, 0x800FFFFF, 0x0, 0x0, 0x0, 0x0, false⟩⟩,
   ⟨0x02302004, [(256, 0x10)], ⟨0x0, 0xFFFFFFFF, 0x0, 0x0, 0x0, 0x0, false⟩⟩]

/-- Rows of the register map, MB_STAT to TB_INCR. -/
def regRows7 : List RegRow :=
  [⟨0x02302008, [(256, 0x10)], ⟨0x0, 0x0, 0x40000000, 0x0, 0xFFFF, 0x0, false⟩⟩,
   ⟨0x02303000, [], ⟨0x0, 0xC00007FF, 0x0, 0x0, 0x0, 0x20000000, false⟩⟩,
   ⟨0x02303004, [], ⟨0x0, 0xFF80FFFF, 0x0, 0x0, 0x0, 0x0, false⟩⟩,
   ⟨0x02303008, [], ⟨0x0, 0xFFFFFFFF, 0x0, 0x0, 0x0, 0x0, false⟩⟩,
   ⟨0x0230300C, [], ⟨0x0, 0x0, 0x0, 0x0, 0x0, 0x0, false⟩⟩,
   ⟨0x02303010, [], ⟨0x0, 0xFC00FFFF, 0x0, 0x0, 0x0, 0x0, false⟩⟩,
   ⟨0x02303100, [(64, 0x4)], ⟨0x0, 0x83FFF800, 0x0, 0x0, 0x0, 0x0, false⟩⟩,
   ⟨0x02303200, [(64, 0x4)], ⟨0x0, 0x0, 0x0, 0x0, 0x0, 0x0, false⟩⟩,
   ⟨0x02400000, [(4, 0x100)], ⟨0x0, 0x0, 0x0, 0x0, 0x0, 0x0, true⟩⟩,
   ⟨0x02400004, [(4, 0x100)], ⟨0x0, 0x0, 0x0, 0x0, 0x0, 0x0, false⟩⟩,
   ⟨0x02400008, [(4, 0x100)], ⟨0x0, 0x0, 0x0, 0x0, 0x0, 0x0, false⟩⟩,
   ⟨0x0240000C, [(2, 0x100)], ⟨0xA0000000, 0xFFFFFFFF, 0x0, 0x0, 0x0, 0x0, false⟩⟩]

/-- Rows of the register map, TB_STEP to TB_SRCID_LO. -/
def regRows8 : List RegRow :=
  [⟨0x02400010, [(2, 0x100)], ⟨0x0, 0x0, 0x0, 0x0, 0x0, 0xFFFFFFFF, false⟩⟩,
   ⟨0x02400014, [(2, 0x100)], ⟨0x0, 0xFFF0FF00, 0x0, 0x0, 0x0, 0x0, false⟩⟩,
   ⟨0x02400018, [(2, 0x100)], ⟨0x83D00064, 0x8FFFFFFF, 0x0, 0x0, 0x0, 0x0, false⟩⟩,
   ⟨0x0240001C, [(2, 0x100)], ⟨0xABCAC, 0xFFFFFFFF, 0x0, 0x0, 0x0, 0x0, false⟩⟩,
   ⟨0x02400020, [(2, 0x100)], ⟨0x15796, 0xFFFFFFFF, 0x0, 0x0, 0x0, 0x0, false⟩⟩,
   ⟨0x02400024, [(2, 0x100)], ⟨0x3E8, 0xFFFFFFFF, 0x0, 0x0, 0x0, 0x0, false⟩⟩,
   ⟨0x02400028, [(2, 0x100)], ⟨0x0, 0x0, 0x0, 0x0, 0x0, 0x0, false⟩⟩,
   ⟨0x0240002C, [(2, 0x100)], ⟨0x0, 0x0, 0x0, 0x0, 0x0, 0x0, false⟩⟩,
   ⟨0x02400030, [(2, 0x100)], ⟨0x0, 0x0, 0x0, 0x0, 0x0, 0x0, false⟩⟩,
   ⟨0x02400034, [(2, 0x100)], ⟨0x0, 0x0, 0xC000000, 0x0, 0xFFFF, 0x0, false⟩⟩,
   ⟨0x02400038, [(2, 0x100)], ⟨0x0, 0xFFFFFFFF, 0x0, 0x0, 0x0, 0x0, false⟩⟩,
   ⟨0x0240003C, [(2, 0x100)], ⟨0x0, 0x0, 0x0, 0x0, 0x0, 0x0, true⟩⟩]

/-- Rows of the register map, TB_SRCID_HI to CP_CYCLE. -/
def regRows9 : List RegRow :=
  [⟨0x02400040, [(2, 0x100)], ⟨0x0, 0x0, 0x0, 0x0, 0x0, 0x0, false⟩⟩,
   ⟨0x0240030C, [], ⟨0x0, 0x80000000, 0x0, 0x0, 0x0, 0x0, false⟩⟩,
   ⟨0x02400310, [], ⟨0x0, 0x0, 0x0, 0x0, 0xFF, 0x0, false⟩⟩,
   ⟨0x02400314, [], ⟨0x83126, 0xFFFFF, 0x0, 0x0, 0x0, 0x0, false⟩⟩,
   ⟨0x02400318, [], ⟨0x0, 0x0, 0x0, 0x0, 0x0, 0x0, true⟩⟩,
   ⟨0x0240031C, [], ⟨0x0, 0x0, 0x0, 0x0, 0x0, 0x0, false⟩⟩,
   ⟨0x02400400, [], ⟨0x0, 0x60000000, 0x0, 0x0, 0x0, 0x80000000, false⟩⟩,
   ⟨0x02400404, [], ⟨0x80000000, 0x0, 0x40000000, 0x0, 0x0, 0x0, false⟩⟩,
   ⟨0x02400408, [], ⟨0x0, 0xFFFFFFFF, 0x0, 0x0, 0x0, 0x0, false⟩⟩,
   ⟨0x0240040C, [], ⟨0x3B9ACA00, 0xFFFFFFFF, 0x0, 0x0, 0x0, 0x0, false⟩⟩,
   ⟨0x02401000, [(2, 0x800)], ⟨0x0, 0x800001FF, 0x0, 0x40000000, 0x0, 0x0, false⟩⟩,
   ⟨0x02401004, [(2, 0x800)], ⟨0x0, 0xFFFFFFFF, 0x0, 0x0, 0x0, 0x0, false⟩⟩]

/-- Rows of the register map, CP_BASE to TRIP_STAT_LO. -/
def regRows10 : List RegRow :=
  [⟨0x02401008, [(2, 0x800)], ⟨0x0, 0xFFFFFFFF, 0x0, 0x0, 0x0, 0x0, false⟩⟩,
   ⟨0x0240100C, [(2, 0x800)], ⟨0x80, 0xFF83, 0x0, 0x0, 0x0, 0x0, false⟩⟩,
   ⟨0x02401010, [(2, 0x800)], ⟨0xFF00, 0x0, 0x0, 0x0, 0x0, 0x0, false⟩⟩,
   ⟨0x02401400, [(2, 0x800), (256, 0x4)], ⟨0x0, 0xFFFFFFFF, 0x0, 0x0, 0x0, 0x0, false⟩⟩,
   ⟨0x02500000, [], ⟨0x0, 0x0, 0xFFFF, 0x0, 0x0, 0x0, false⟩⟩,
   ⟨0x02500004, [], ⟨0x0, 0xFFFF, 0x0, 0x0, 0x0, 0x0, false⟩⟩,
   ⟨0x02500008, [], ⟨0x0, 0x0, 0x0, 0x0, 0x0, 0x0, false⟩⟩,
   ⟨0x0250000C, [], ⟨0x0, 0x0, 0x0, 0x1, 0x0, 0x0, false⟩⟩,
   ⟨0x02500040, [(16, 0x8)], ⟨0x0, 0x0, 0x0, 0x0, 0x0, 0x0, false⟩⟩,
   ⟨0x02500044, [(16, 0x8)], ⟨0x0, 0x0, 0x0, 0x0, 0x0, 0x0, false⟩⟩,
   ⟨0x02500100, [(18, 0x4)], ⟨0x0, 0x0, 0xFFFFFFFF, 0x0, 0x0, 0x0, false⟩⟩,
   ⟨0x02500200, [], ⟨0x0, 0x0, 0xFFFFFFFF, 0x0, 0x0, 0x0, true⟩⟩]

/-- Rows of the register map, TRIP_STAT_HI to TEST_STAT. -/
def regRows11 : List RegRow :=
  [⟨0x02500204, [], ⟨0x0, 0x0, 0xFFFFFFFF, 0x0, 0x0, 0x0, false⟩⟩,
   ⟨0x02500208, [], ⟨0x0, 0x0, 0xFF, 0x0, 0x0, 0x0, false⟩⟩,
   ⟨0x0250020C, [], ⟨0x0, 0x0, 0x3C0, 0x0, 0x0, 0x0, false⟩⟩,
   ⟨0x02500210, [], ⟨0xFF, 0x7FF, 0x0, 0x0, 0x0, 0x0, false⟩⟩,
   ⟨0x02500300, [(8, 0x20)], ⟨0x0, 0x80FFFFFF, 0x0, 0x0, 0x0, 0x0, false⟩⟩,
   ⟨0x02500304, [(8, 0x20)], ⟨0x0, 0xFFFFFFFF, 0x0, 0x0, 0x0, 0x0, true⟩⟩,
   ⟨0x02500308, [(8, 0x20)], ⟨0x0, 0xFFFFFFFF, 0x0, 0x0, 0x0, 0x0, false⟩⟩,
   ⟨0x0250030C, [(8, 0x20)], ⟨0x0, 0x0, 0x20000000, 0x0, 0x0, 0x0, false⟩⟩,
   ⟨0x02500310, [(8, 0x20)], ⟨0x0, 0x0, 0x0, 0x0, 0x0, 0x0, false⟩⟩,
   ⟨0x02500400, [], ⟨0x40000000, 0x80000000, 0x0, 0x0, 0x0, 0x0, false⟩⟩,
   ⟨0x02500500, [], ⟨0xC0000064, 0xF6003FFF, 0x0, 0x0, 0x0, 0x8000000, false⟩⟩,
   ⟨0x02500504, [], ⟨0x0, 0x0, 0x7D00000, 0x0, 0x0, 0x0, false⟩⟩]

/-- Rows of the register map, DM_MAP to SEC_RRD_ADDR. -/
def regRows12 : List RegRow :=
  [⟨0x02501000, [(576, 0x4)], ⟨0x0, 0xFFFF, 0x0, 0x0, 0x0, 0x0, false⟩⟩,
   ⟨0x02502000, [(64, 0x10)], ⟨0x0, 0xE00007FF, 0x0, 0x0, 0x0, 0x0, false⟩⟩,
   ⟨0x02502004, [(64, 0x10)], ⟨0x0, 0xFFFFFFFF, 0x0, 0x0, 0x0, 0x0, false⟩⟩,
   ⟨0x02502008, [(64, 0x10)], ⟨0x0, 0xFFFFFFFF, 0x0, 0x0, 0x0, 0x0, false⟩⟩,
   ⟨0x02600000, [], ⟨0x0, 0x0, 0x44000000, 0x0, 0x0, 0x0, false⟩⟩,
   ⟨0x02600004, [], ⟨0x0, 0x0, 0x0, 0x0, 0x0, 0xE0000000, false⟩⟩,
   ⟨0x02600008, [], ⟨0x0, 0x0, 0x0, 0x0, 0x0, 0x0, true⟩⟩,
   ⟨0x0260000C, [], ⟨0x0, 0x0, 0x0, 0x0, 0x0, 0x0, false⟩⟩,
   ⟨0x02600010, [], ⟨0x0, 0x0, 0x0, 0x0, 0x0, 0x0, true⟩⟩,
   ⟨0x02600014, [], ⟨0x0, 0x0, 0x0, 0x0, 0x0, 0x0, false⟩⟩,
   ⟨0x02600040, [(5, 0x4)], ⟨0x0, 0xBF7F0000, 0x0, 0x0, 0x0, 0x0, false⟩⟩,
   ⟨0x02600060, [], ⟨0x0, 0xE0003FFF, 0x0, 0x0, 0x0, 0x0, false⟩⟩]

/-- Rows of the register map, SEC_RRD_STAT to SMP_BASE_HI. -/
def regRows13 : List RegRow :=
  [⟨0x02600064, [], ⟨0x0, 0x0, 0x0, 0x0, 0x0, 0x0, false⟩⟩,
   ⟨0x02610000, [(8192, 0x4)], ⟨0x0, 0x0, 0x0, 0x0, 0x0, 0xFFFFFFFF, false⟩⟩,
   ⟨0x02620000, [(1024, 0x4)], ⟨0x0, 0x0, 0x0, 0x0, 0x0, 0x0, false⟩⟩,
   ⟨0x02700000, [(5, 0x40)], ⟨0x0, 0xFFFFF000, 0x0, 0x0, 0x0, 0x0, true⟩⟩,
   ⟨0x02700004, [(5, 0x40)], ⟨0x0, 0xFFFFFFFF, 0x0, 0x0, 0x0, 0x0, false⟩⟩,
   ⟨0x02700008, [(5, 0x40)], ⟨0x0, 0xFFF87FFF, 0x0, 0x0, 0x0, 0x0, false⟩⟩,
   ⟨0x0270000C, [(5, 0x40)], ⟨0x0, 0xFFFFFF03, 0x0, 0x0, 0x0, 0x0, false⟩⟩,
   ⟨0x02700010, [(5, 0x40)], ⟨0x0, 0xFFF, 0x0, 0x0, 0x0, 0x0, false⟩⟩,
   ⟨0x02700014, [(5, 0x40)], ⟨0x1000, 0x0, 0x0, 0x0, 0x0, 0x0, false⟩⟩,
   ⟨0x02700018, [(5, 0x40)], ⟨0x0, 0x0, 0x80000000, 0x0, 0xFFFF, 0x0, false⟩⟩,
   ⟨0x02701000, [(5, 0x80)], ⟨0x0, 0xFFFFF000, 0x0, 0x0, 0x0, 0x0, true⟩⟩,
   ⟨0x02701004, [(5, 0x80)], ⟨0x0, 0xFFFFFFFF, 0x0, 0x0, 0x0, 0x0, false⟩⟩]

/-- Rows of the register map, SMP_CFG to CH_CNT_CFG. -/
def regRows14 : List RegRow :=
  [⟨0x02701008, [(5, 0x80)], ⟨0x0, 0xFFFFFFFF, 0x0, 0x0, 0x0, 0x0, false⟩⟩,
   ⟨0x0270100C, [(5, 0x80)], ⟨0x0, 0xFFFFFFFF, 0x0, 0x0, 0x0, 0x0, false⟩⟩,
   ⟨0x02701010, [(5, 0x80)], ⟨0x0, 0xFFF, 0x0, 0x0, 0x0, 0x0, false⟩⟩,
   ⟨0x02701014, [(5, 0x80)], ⟨0x1000, 0x0, 0x0, 0x0, 0x0, 0x0, false⟩⟩,
   ⟨0x02701018, [(5, 0x80)], ⟨0x0, 0x0, 0x80000000, 0x0, 0xFFFF, 0x0, false⟩⟩,
   ⟨0x02701040, [(5, 0x80), (8, 0x4)], ⟨0x0, 0xFFFFFFFF, 0x0, 0x0, 0x0, 0x0, false⟩⟩,
   ⟨0x02702000, [(8, 0x4)], ⟨0x0, 0x0, 0x0, 0x0, 0x0, 0xFFFFFFFF, false⟩⟩,
   ⟨0x02703000, [(5, 0x4)], ⟨0x0, 0x0, 0x0, 0x0, 0xFFFF, 0x0, false⟩⟩,
   ⟨0x02710000, [(64, 0x10)], ⟨0x0, 0xFFFFC0FF, 0x0, 0x0, 0x0, 0x0, false⟩⟩,
   ⟨0x02710004, [(64, 0x10)], ⟨0x0, 0xFFFFFFFF, 0x0, 0x0, 0x0, 0x0, true⟩⟩,
   ⟨0x02710008, [(64, 0x10)], ⟨0x0, 0xFFFFFFFF, 0x0, 0x0, 0x0, 0x0, false⟩⟩,
   ⟨0x02711000, [(4, 0x200), (32, 0x10)], ⟨0x0, 0xFFFFC0FF, 0x0, 0x0, 0x0, 0x0, false⟩⟩]

/-- Rows of the register map, CH_CNT_LO to PWR_GATE_HI. -/
def regRows15 : List RegRow :=
  [⟨0x02711004, [(4, 0x200), (32, 0x10)], ⟨0x0, 0xFFFFFFFF, 0x0, 0x0, 0x0, 0x0, true⟩⟩,
   ⟨0x02711008, [(4, 0x200), (32, 0x10)], ⟨0x0, 0xFFFFFFFF, 0x0, 0x0, 0x0, 0x0, false⟩⟩,
   ⟨0x02720000, [(1024, 0x80), (8, 0x10)], ⟨0x0, 0xFFFFC0FF, 0x0, 0x0, 0x0, 0x0, false⟩⟩,
   ⟨0x02720004, [(1024, 0x80), (8, 0x10)], ⟨0x0, 0xFFFFFFFF, 0x0, 0x0, 0x0, 0x0, true⟩⟩,
   ⟨0x02720008, [(1024, 0x80), (8, 0x10)], ⟨0x0, 0xFFFFFFFF, 0x0, 0x0, 0x0, 0x0, false⟩⟩,
   ⟨0x02800000, [], ⟨0x0, 0x0, 0x0, 0x0, 0xFF00, 0x0, false⟩⟩,
   ⟨0x02800004, [], ⟨0x1, 0x0, 0x0, 0x0, 0x0, 0x0, false⟩⟩,
   ⟨0x02800008, [], ⟨0x0, 0x0, 0x0, 0x0, 0x0, 0xC0000000, false⟩⟩,
   ⟨0x02800010, [], ⟨0xC, 0xFF, 0x0, 0x0, 0x0, 0x0, false⟩⟩,
   ⟨0x02800020, [(4, 0x4)], ⟨0x0, 0x0, 0x0, 0x0, 0xFFFF, 0x0, false⟩⟩,
   ⟨0x02800040, [], ⟨0x0, 0xFFFFFFFF, 0x0, 0x0, 0x0, 0x0, true⟩⟩,
   ⟨0x02800044, [], ⟨0x0, 0xFFFFFFFF, 0x0, 0x0, 0x0, 0x0, false⟩⟩]

/-- Rows of the register map, PWR_UP_LO to THERM_STAT. -/
def regRows16 : List RegRow :=
  [⟨0x02800048, [], ⟨0x0, 0x0, 0x0, 0x0, 0x0, 0x0, true⟩⟩,
   ⟨0x0280004C, [], ⟨0x0, 0x0, 0x0, 0x0, 0x0, 0x0, false⟩⟩,
   ⟨0x02800050, [], ⟨0x0, 0x0, 0x80000000, 0x0, 0x0, 0x0, false⟩⟩,
   ⟨0x02801000, [(4, 0x40)], ⟨0x320, 0x0, 0x0, 0x0, 0x0, 0x0, false⟩⟩,
   ⟨0x02801004, [(4, 0x40)], ⟨0x0, 0x0, 0x0, 0x0, 0x0, 0x0, false⟩⟩,
   ⟨0x02801008, [(4, 0x40)], ⟨0xFFFF0000, 0x0, 0x0, 0x0, 0x0, 0x0, false⟩⟩,
   ⟨0x0280100C, [(4, 0x40)], ⟨0x0, 0x0, 0x40000000, 0x0, 0xFF, 0x0, false⟩⟩,
   ⟨0x02801100, [], ⟨0x3C, 0xFF, 0x0, 0x0, 0x0, 0x80000000, false⟩⟩,
   ⟨0x02802000, [], ⟨0xA05, 0xFFFF, 0x0, 0x0, 0x0, 0x0, false⟩⟩,
   ⟨0x02802004, [], ⟨0x0, 0x0, 0x1F1F, 0x0, 0x0, 0x0, false⟩⟩,
   ⟨0x02803000, [(5, 0x4)], ⟨0x0, 0x0, 0x0, 0x0, 0x0, 0x0, false⟩⟩,
   ⟨0x02803020, [], ⟨0x0, 0x0, 0x0, 0x0, 0x0, 0x0, false⟩⟩]

/-- The whole register map. -/
def regMap : List RegRow :=
  regRows0 ++ regRows1 ++ regRows2 ++ regRows3 ++ regRows4 ++ regRows5 ++ regRows6 ++ regRows7 ++ regRows8 ++ regRows9 ++ regRows10 ++ regRows11 ++ regRows12 ++ regRows13 ++ regRows14 ++ regRows15 ++ regRows16

/-- Whether an offset lies at an element of an array of the given dimensions. -/
def inDims : Nat → List (Nat × Nat) → Bool
  | off, [] => off == 0
  | off, (count, stride) :: ds => decide (off / stride < count) && inDims (off % stride) ds

/-- Whether a key names a register of the row. -/
def RegRow.holds (r : RegRow) (a : Nat) : Bool := decide (r.base ≤ a) && inDims (a - r.base) r.dims

/-- The description of the register at a key; none where no register is (R6). -/
def regDesc (a : Nat) : Option RegDesc := (regMap.find? (fun r => r.holds a)).map (fun r => r.desc)

/-- The reset value of the register at a key; 0 where no register is (R6, R8). The stepping is the part's (R267). [DESIGN CHOICE: log 7] -/
def regReset (a : Nat) : Word :=
  if a = 0 then BitVec.ofNat 32 (0xE4A00400 + Config.stepping.toNat) else
  match regDesc a with
  | some d => BitVec.ofNat 32 d.reset
  | none => 0#32

end Sys2Proof.Machine
end

