-- ==== Sys2Proof/Machine/Types.lean ====
section
/-! DEFINITION. Sys2Proof/Machine/Types.lean: the data of the Fabric blocks that are not registers: cores, network,
sync objects, reduction ports, attention commands, host rings, partitions and contexts. -/

namespace Sys2Proof.Machine

/-! ### The core (R53-R76, R111, R157, R167, R174) -/

/-- An armed hardware loop (R67): its counter, body start, last instruction, remaining iterations. -/
structure Loop where
  n : Nat
  start : Nat
  last : Nat
  count : Nat
  deriving DecidableEq, Repr

/-- The unit operations (R53, R93). -/
inductive UKind where
  | wload | tile | fin | cfg | window | arith | minmax | fn | cvt | mxq | red | rand | sample | move | send | signal
  | push | leaf | result
  deriving DecidableEq, Repr

/-- A unit operation in flight, with the register operands captured at issue (R55). -/
structure UOp where
  kind : UKind
  fn : Nat
  tok : Nat
  pc : Nat
  aD : Word
  aA : Word
  aB : Word
  c0 : Word
  c1 : Word
  deriving DecidableEq, Repr

/-- How the recorded first fault of a slot ranks among the faults of its cycle (R84): the cycle, and the place of its instruction in the
issue order of its core; none where it belongs to no instruction. [DEDUCED: log 19] -/
structure FaultRank where
  cycle : Nat
  order : Option Nat
  deriving DecidableEq, Repr

/-- A write's change of a 64-bit word of a scratchpad (R88, R90): the word's key, its bytes before, whether it was uncorrectable, and which of
its bytes the write wrote. [DEDUCED: log 15] -/
structure Change where
  word : Nat
  was : List Byte
  bad : Bool
  wrote : List Bool
  deriving DecidableEq, Repr

/-- What a core keeps of an operation in flight: the number of changes of the core's words before its issue, and its place in the issue
order of the core's operations. -/
structure Issued where
  from_ : Nat
  order : Nat
  deriving DecidableEq, Repr

/-- A context slot's register bank and sequencer position (R60, R68). -/
structure Slot where
  sreg : FMap Word        -- s0-s31
  areg : FMap Word        -- a0-a15
  preds : Nat             -- bits 1-7: p1-p7
  loops : List Loop       -- armed loops, innermost first
  pend : Nat              -- bit n: token tn is PENDING
  pc : Nat
  owner : Option (Nat × Nat)  -- the resident context: (partition, context)
  refusal : Nat           -- the code of R236 of a refused message or root that gave the first fault (R287)
  faultAt : Nat           -- TB2 at the detection of the first fault (R287)
  rank : Option FaultRank -- how that fault ranks in its cycle (R84)
  deriving DecidableEq, Repr

/-- What stalls the sequencer of the running context (R56, R57, R71, R72). -/
inductive CoreWait where
  | none
  | tokens (mask : Nat)                     -- twait
  | ending                                  -- sq.end waiting for its tokens
  | sync (id : Nat) (handle : Nat) (sD : Nat) (pc : Nat) (kind : Nat)   -- sy.wait
  deriving DecidableEq, Repr

/-- A line of the instruction buffer (R64): its window line number and its bytes as fetched. -/
structure IbLine where
  tag : Nat
  data : Memory
  ue : Bool
  deriving DecidableEq, Repr

/-- A weight tile of the array (R108, R150); wt is none for the zeroed tile of R111. -/
structure WTile where
  wt : Option Nat
  pair8 : Bool
  rows : List (List Nat)    -- K-rows of 32 element codes
  scales : List Nat         -- scale bytes, 32 per K block
  deriving DecidableEq, Repr

/-- One accumulator set (R157, R158): pairing, row count, leaf count, stacks (row-major, 32 columns), s48 sums. -/
structure AccSet where
  used : Bool
  it : Nat
  wt : Option Nat
  m : Nat
  n : Nat
  fre : List (List Nat)
  fim : List (List Nat)
  ire : List Int
  iim : List Int
  deriving DecidableEq, Repr

/-- A CWU line buffer (R174): a stored row, the first cell of its run, the cells present. [DEDUCED: log 107] -/
structure LBuf where
  row : Nat
  start : Nat
  cells : List (Nat × List Byte)
  bad : List (Nat × Nat × Nat)   -- bytes of words found uncorrectable that no tap had needed: cell, byte, word address (R166)
  deriving DecidableEq, Repr

/-- One core: banks, sequencer, units (R53). -/
structure CoreSt where
  slots : FMap Slot
  ibuf : FMap (Option IbLine)
  wait : CoreWait
  stopped : Bool            -- issue has stopped after a fault, a withdrawal or a fence (R75, R85)
  ops : List UOp            -- unit operations in flight, oldest first
  seen : FMap (Option Issued) -- by token: what is kept of its operation in flight (R55, R84, R90); 16: of the one that takes effect
  issues : Nat              -- unit operations issued so far (the model's own)
  posted : FMap (Option Nat) -- by token: a cr.push whose partial has left for another chip, and its entry among the awaited (R191)
  act : WTile
  shadow : Option WTile
  acc0 : AccSet
  acc1 : AccSet
  cwd : Option (List Nat)   -- the CWU descriptor in force, 16 words (R171)
  cq : Nat                  -- the CWU cursor (R167)
  cn : Nat
  cp : Nat
  lbufs : FMap (Option LBuf)
  toZero : Nat              -- bit k: a partition reset has still to zero window k (R141)
  held : FMap (Option Word) -- a window value waiting for the end of R140's zeroing
  eccQ : List Nat           -- corrected words waiting for write-back (R144)
  deriving DecidableEq, Repr

/-- A plane descriptor (R135). -/
structure Plane where
  baseKb : Nat
  pitch : Nat
  rows : Nat
  len : Nat
  col0 : Nat
  row0 : Nat
  xpose : Bool
  esize : Nat
  column : Bool
  deriving DecidableEq, Repr

/-! ### Messages, sync operations, reduction children (R189-R190, R234-R250) -/

/-- Who waits or signals: where a release or a report goes (R237, R242, R247). A chip is cluster * 16 + cluster chip
number. -/
inductive Who where
  | wait (core id : Nat)                        -- a pattern's sy.wait on this chip
  | rep (id : Nat)                              -- a message, signal or root of this chip that awaits its report
  | desc (id : Nat)                             -- a host descriptor
  | none                                        -- an ingest delivery, an attention command's DONE
  | remote (chip core id link : Nat)            -- another chip, and the link its operation came by
  deriving DecidableEq, Repr

/-- A sync operation on its way to its object (R243, R244); kinds 0-2 are the waits of R105, 3 is a signal. `obj` is
channel * 16384 + index; `hold` is the HOLDER word of the context that issued it, where one did (R245). -/
structure SyncOp where
  kind : Nat
  obj : Nat
  arg : Nat
  job : Nat
  who : Who
  hold : Option Nat
  deriving DecidableEq, Repr

/-- A wait queued at a sync object (R243). -/
structure Waiter where
  kind : Nat
  arg : Nat
  who : Who
  hold : Option Nat
  deriving DecidableEq, Repr

/-- A release on its way to its waiter (R247). -/
structure Release where
  who : Who
  code : Nat
  obj : Nat
  deriving DecidableEq, Repr

/-- A message in flight (R234, R253). One that comes over a link is known from its first flit on: its destination checks it then,
and writes its bytes as they come (R236). -/
structure Msg where
  w0 : Word
  w1 : Word
  w2 : Word
  w3 : Word
  job : Nat
  ctx : Nat
  data : List Byte   -- the bytes that have come
  src : Nat          -- source chip
  score : Nat        -- source core
  hops : Nat
  id : Nat           -- MSGID: the source chip's identifier
  total : Nat        -- its byte count
  at_ : Option (Nat × (Option Plane × List (Nat × Nat)))  -- once accepted: its slot, and where its bytes go
  done : Nat         -- bytes written
  deriving DecidableEq, Repr

/-- What awaits a report: a message, a signal, or the root of a tree (R190, R237, R238, R242). -/
structure Await where
  id : Nat
  core : Nat
  part : Nat
  ctx : Nat
  pc : Nat
  faddr : Nat
  tok : Option Nat
  link : Option Nat      -- the link it left by
  settles : Bool         -- a reduction child that is no root: no refusal of it faults (R128)
  order : Option Nat     -- the place of its instruction in the issue order of its core (R84)
  far : Option (Nat × Bool) -- the chip it is for beyond that link, and whether it is a sync operation
  deriving DecidableEq, Repr

/-- A remote sy.wait of this chip outstanding on a link (R248). -/
structure FarWait where
  core : Nat
  id : Nat
  obj : Nat
  dst : Nat
  link : Nat
  deriving DecidableEq, Repr

/-- A report on its way: to `id` of R237; code 0 is delivered, `sync` marks a refused sync operation. -/
structure Report where
  id : Nat
  code : Nat
  sync : Bool
  deriving DecidableEq, Repr

/-- A node of a reduction tree (R180, R182). -/
structure Node where
  tail : Bool
  l : Nat
  i : Nat
  deriving DecidableEq, Repr

/-- A reduction child or root: its tree instance, its node, its value, and who sent it (R188-R190). -/
structure Child where
  part : Nat
  ctx : Nat
  tree : Nat
  inst : Nat
  node : Node
  val : List Byte
  chip : Nat         -- the chip that pushed or formed it
  src : Nat          -- the core that pushed or formed it
  dst : Nat          -- the core it travels to
  id : Nat           -- its entry among the awaited (0: none)
  deriving DecidableEq, Repr

/-- A root on its way to its destination window, with the address and the handle that the core that formed or pushed it read from
its tree entry (R190). `child.dst` is DCORE. -/
structure Root where
  child : Child
  daddr : Nat
  dsync : Nat
  deriving DecidableEq, Repr

/-- A child held at a core's CR port under its parent and side (R189). -/
structure HeldChild where
  core : Nat
  parent : Node
  side : Bool        -- true: right
  child : Child
  lost : Bool        -- no parent can be formed here: it waits until it is discarded (R186)
  deriving DecidableEq, Repr

/-- An attention command (R213-R218). -/
structure AttnCmd where
  recd : List Byte   -- the record as posted
  lead : Nat
  part : Nat
  ctx : Nat
  started : Bool     -- its page accesses have started, its snapshot is taken
  worked : Bool      -- its work is done; its completion record is still to be written
  status : Nat
  failIdx : Nat
  snap : List Nat    -- snapshot entries, block order
  deriving DecidableEq, Repr

/-- A message between clusters on the source chip, waiting for its end-to-end credit (R261). -/
structure E2e where
  msg : Msg
  part : Nat
  asked : Bool
  deriving DecidableEq, Repr

/-- A credit request at the destination chip, or a grant it has given (R261). -/
structure Landing where
  src : Nat
  id : Nat
  job : Nat
  bytes : Nat
  deriving DecidableEq, Repr

/-- The message that a flit is a piece of: its source chip, its MSGID, the chip it is for (R253). -/
structure MsgRef where
  src : Nat
  id : Nat
  dst : Nat
  deriving DecidableEq, Repr

/-- A flit of a link's DATA or CTRL stream that waits or is kept (R252, R254). [DESIGN CHOICE: log 42] -/
structure TxFlit where
  seq : Nat
  ctrl : Bool
  pool : Nat
  bytes : List Byte          -- the bytes of its message, at most 244
  recs : List CtrlRec
  child : Option WireChild
  msg : Option MsgRef
  last : Bool                -- no flit of its message follows
  back : Option (Nat × Nat × Nat) -- on a chip it crosses: the link, the pool and the SEQ it came by; a credit goes back as it leaves (R255)
  deriving DecidableEq, Repr

/-- A message that is being received on a link (R252): what is still to come, and the link it goes on by; none where it is for this
chip or refused. -/
structure Transit where
  msg : MsgRef
  left : Nat
  job : Nat
  next : Option Nat
  deriving DecidableEq, Repr

/-- One Kornal link (R251-R256) beside its registers. [DESIGN CHOICE: log 42] -/
structure LinkSt where
  txSeq : Nat                      -- SEQ of the next flit
  txq : List TxFlit                -- flits that wait for a credit
  unacked : List TxFlit            -- sent and not acknowledged, oldest first
  resends : Nat                    -- consecutive failed resends of the oldest
  rxLast : Option Nat              -- SEQ of the last DATA or CTRL flit received in order
  credits : FMap Nat               -- credits held, by the peer's pool
  owed : FMap Nat                  -- credits still to be returned, by own pool
  peerPools : List (Nat × Nat)     -- the peer's pools: (JOB, flits), by pool number
  pools : List (Nat × Nat)         -- this side's pools as told at training: (JOB, flits), by pool number
  asm : FMap (Option Transit)      -- the message begun and not complete, by own pool
  nakOut : Bool                    -- a NAK is to be sent
  ackDue : Bool                    -- a flit has arrived in order since the last flit sent
  inMsg : FMap (Option MsgRef)     -- the message whose flits are being sent, by the peer's pool
  sent : List (List Byte)          -- the flits sent since training, newest first
  deriving DecidableEq, Repr

/-- The network of the chip. [DEDUCED: log 44] -/
structure NocSt where
  syncOps : List SyncOp
  waiters : FMap (List Waiter)     -- by object
  releases : List Release
  farWaits : List FarWait
  msgs : List Msg                  -- messages bound for this chip, oldest first
  awaits : List Await
  reports : List Report
  notices : List (Nat × Nat × Nat) -- teardown notices received: (JOB, context, chip)
  children : List Child            -- on their way to their parents' homes
  roots : List Root                -- roots on their way to their destination
  heldCr : List HeldChild
  discarded : List (Nat × Nat × Nat × Nat × Nat) -- instances counted in DISCARDED since the step's start: partition, context, channel, TREE, INST
  attn : List AttnCmd              -- posting order
  e2e : List E2e
  reqs : List Landing              -- credit requests received, in order of arrival
  landed : List Landing            -- grants given and not returned
  grantsIn : List (Nat × Nat)      -- grants received: message id, granting chip
  links : FMap LinkSt
  linksUsed : Nat                  -- the links UP at the last evaluation of the routes (R260)
  peersUp : List (Nat × Nat)       -- links between other chips known to be up
  peersUsed : List (Nat × Nat)     -- the same at the last evaluation
  nextId : Nat
  deriving DecidableEq, Repr

/-! ### Partitions and contexts (R292-R317) -/

/-- R297. -/
inductive CtxState where
  | none | idle | runnable | running | donating | teardown
  deriving DecidableEq, Repr

/-- A core record of a context (R296). -/
structure CoreRec where
  core : Nat
  slot : Nat
  size : Nat
  base : Nat
  entry : Nat
  deriving DecidableEq, Repr

/-- A step dispatched by a RUN_STEP (R298, R299). -/
structure Step where
  arg : Nat
  slices : List (List Byte)
  desc : Nat                -- the descriptor that dispatched it
  order : Nat               -- the place of that dispatch among the dispatches (R298, R309)
  deriving DecidableEq, Repr

/-- The first fault of a context, as the teardown record carries it (R287). -/
structure FaultRec where
  core : Nat
  cls : Nat
  refusal : Nat
  fpc : Nat
  faddr : Nat
  precise : Bool
  reason : Nat
  time : Nat
  deriving DecidableEq, Repr

/-- A context of a partition (R296, R297, R303). -/
structure CtxSt where
  state : CtxState
  weight : Nat               -- WEIGHT of the configuration (R296)
  hkv : Nat
  mode : Nat
  seed : Nat
  stream : Nat
  waitlim : Nat
  treeOff : Nat
  treeN : Nat
  placeOff : Nat
  placeN : Nat
  cores : List CoreRec
  queue : List Step          -- dispatched and not committed; the running one is the head
  running : Bool             -- the head of the queue is on the cores
  starting : Bool            -- selected; its start has not taken place
  reported : List Nat        -- cores that have ended their part (R71)
  stopWait : List Nat        -- cores whose part is still to stop (R85, R313)
  zeroWait : List Nat        -- cores whose window is still to be zeroed (R315)
  withdrawing : Option Nat   -- the holder a withdrawal makes way for (R313)
  withdrawable : Bool        -- R312
  left : Bool                -- something of the step has left the chip (R442)
  discarding : Bool          -- a fence discards the step (R436)
  discarded : Bool           -- the head step is one that a fence has discarded, until it runs again (R442, R444)
  repeated : Bool            -- the head step is a repeat (R314, R442)
  switched : Bool            -- S is charged for the head step (R305)
  vt : Nat
  rem : Nat
  etime : Nat
  steps : Nat
  donorOf : Option Nat       -- the waiter whose share it runs with (R313)
  donObj : Nat               -- the object whose holder ends the donation (R314)
  waitsOn : Option Nat       -- the holder for which its step was withdrawn, until it runs again (R312)
  fault : Option FaultRec
  frog : Option Nat          -- the FROG descriptor to complete (R315)
  since : Nat                -- TB2 at the dispatch of that FROG (R287)
  reason : Nat               -- its REASON (R287)
  incomplete : Bool          -- a tree of the step was discarded incomplete (R192)
  lastDigest : List Byte     -- the last result digest of its last committed step (R278 SRC 1)
  stepDigest : List Byte
  pkgDig : List Byte         -- digest of the package loaded (R471)
  progDig : List Byte        -- PROGDIG, WTSDIG, SERIAL of the package loaded, LOADS since (R472); [] before any
  wtsDig : List Byte
  serial : Nat
  loads : Nat
  keyAt : Nat                -- the draw of its spill key (R475)
  spn : Nat
  ledger : List (Nat × Nat × Nat × Nat)  -- PTBASE, FIRST, COUNT, SPN, oldest first (R477)
  deriving DecidableEq, Repr

/-- R306. -/
inductive PgState where
  | free | alloc (ctx : Nat) | pending (ctx : Nat) (step : Nat)
  deriving DecidableEq, Repr

/-- A page group of the pool (R295, R306, R210). [DEDUCED: log 38] -/
structure PoolGroup where
  off : Nat
  slot : Nat
  gen : Nat
  st : PgState
  entries : List Nat         -- slice offsets of the page-table entries written with it (R309)
  hdim : Nat                 -- recorded head dimension; 0 while unwritten (R476)
  deriving DecidableEq, Repr

/-- What a step of the partition's own cores has done to a sync object (R441): amounts signalled and taken, barrier
arrivals, whether the context or another agent has written it. -/
structure Undo where
  sig : Nat
  took : Nat
  arr : Nat
  own : Bool
  other : Bool
  deriving DecidableEq, Repr

/-- A partition (R292-R295). -/
structure PartSt where
  configured : Bool
  chmask : Nat
  nctx : Nat
  job : Nat
  landKb : Nat
  landMsg : Nat
  pool : List PoolGroup
  ctxs : FMap CtxSt
  cur : Option Nat           -- the context selected (R304)
  last : Option Nat          -- the context whose step last ran and committed (R305)
  resetting : Option Nat     -- the cause of the partition reset in progress (R317)
  discard : Bool             -- the reset discards the configuration (R317)
  aborted : Bool             -- the reset completes descriptors ABORTED (R319)
  life : List (Nat × Slot)   -- the lifeline: each core's register bank at the step start (R439)
  sync0 : FMap Nat           -- VALUE of the partition's objects at the step start (R441)
  gen0 : FMap Nat            -- GEN of them
  undo : FMap Undo           -- what the step has done to them
  undoFull : Bool            -- it has changed more objects of a channel than there are records for
  configDig : List Byte      -- digest of the configuration image (R471, R474)
  deriving DecidableEq, Repr

/-! ### Host rings (R265-R291) -/

/-- Where a fetched descriptor stands. -/
inductive DescState where
  | fetched | checked | dispatched | done
  deriving DecidableEq, Repr

/-- A fetched descriptor (R276). -/
structure Desc where
  id : Nat
  fn : Nat
  qp : Nat
  idx : Nat
  raw : List Byte
  part : Nat
  chan : Nat
  st : DescState
  status : Nat
  result : List Byte         -- RESULT, 16 bytes
  image : List Byte          -- a verified configuration that waits for a partition reset (R293)
  order : Nat                -- its place among the dispatches, from 1; 0 before its own (R298, R306)
  sent : Nat                 -- TB2 at its dispatch (R287)
  deriving DecidableEq, Repr

/-- The device side of a queue pair (R272, R275, R288). -/
structure QpSt where
  sqTail : Nat
  cqHead : Nat
  unread : Nat
  armed : Bool
  broken : Bool              -- in ERROR after a failed completion write: no further entries (R272)
  deriving DecidableEq, Repr

/-- The host interface. [PRESUMED: log 51] -/
structure HostSt where
  mem : Memory               -- host memory, reached by DMA
  bad : List Nat             -- 4 KiB host pages whose accesses fail
  numVFs : Nat
  qps : FMap QpSt            -- by function * 64 + pair
  descs : List Desc          -- fetched and not completed, fetch order
  nextId : Nat
  dispatched : Nat           -- descriptors dispatched so far
  seq : FMap Nat             -- event sequence numbers by function (R285)
  msix : List (Nat × Nat)    -- MSI-X messages sent: (function, vector), newest first
  pba : FMap Bool            -- pending bits: function * 64 + vector
  masked : FMap Bool         -- masked vectors
  deriving DecidableEq, Repr

/-- A fence whose migration runs (R436, R437): channel, row, physical column, cause. -/
structure Migr where
  ch : Nat
  row : Nat
  col : Nat
  cause : Nat
  deriving DecidableEq, Repr

/-- A record of the gauge ring (R451, R464): its 16 bytes; a shutdown record's content is not given (R456). -/
structure GaugeRec where
  shutdown : Bool
  bytes : List Byte
  deriving DecidableEq, Repr

/-- What the EMX-K4 adds to a record of the store: the write counter at its writing, and a KMAC256 tag (R463). -/
structure StoreSeal where
  count : Nat
  tag : List Byte
  deriving DecidableEq, Repr

/-- The store device on the store port (R463, R464): the key it is bound to, and its records. -/
structure StoreDev where
  bound : Option (List Byte)                -- the binding key programmed into it
  count : Nat                               -- its write counter
  hwm : Option (Nat × StoreSeal)
  opkey : Option (List Byte × StoreSeal)
  gauge : List (GaugeRec × StoreSeal)       -- the GAUGE ring, oldest first
  deriving DecidableEq, Repr

/-- Security state beside its registers (R460-R480). -/
structure SecSt where
  kbuf : Memory                  -- SEC_KBUF
  root : Option (List Byte)      -- K_R
  devpk : List Byte
  checking : Bool                -- a CERTGO runs (R461)
  reserving : Option Nat         -- the HWM whose acknowledgement is awaited (R467)
  store : StoreDev
  heldGauge : List GaugeRec      -- gauge records held while the store is away (R465)
  keying : Option (Bool × Memory) -- a key action that waits for the store, KROT where true, with SEC_KBUF as it was (R469, R483)
  psram : Memory                 -- the recorder PSRAM (R479)
  recWc : FMap Nat               -- the WC of each block's latest write, by region * 2^14 + block, as the die keeps it; 0 not written
  wc : Nat                       -- WC (R479)
  recKey : Nat                   -- the draw of the recorder's key
  recNext : FMap Nat             -- next block of a region's rings
  reading : Bool                 -- a recorder read runs (R480)
  rrd : List Byte                -- SEC_RRD_DATA
  deriving DecidableEq, Repr

/-- A stitch-marker record on its way to the rings (R485). `coll` is its collector: a channel, or 4. -/
structure TraceRec where
  coll : Nat
  cls : Nat
  unit : Nat
  index : Nat
  event : Nat
  part : Nat
  ctx : Nat
  tag : Nat
  time : Nat
  arg : Nat
  stretch : Bool
  lost : Bool
  deriving DecidableEq, Repr

/-- Counters, collectors and the blocks that rings gather (R487-R496). -/
structure TraceSt where
  counts : FMap Nat              -- values of the counters, by the offset of their CFG register
  before : FMap Nat              -- their values before the latest reset by a step start (R494)
  buf : FMap (List TraceRec)     -- the collectors, oldest first
  lost : FMap Bool               -- by collector: records were dropped since the last one it accepted
  blocks : FMap (List Byte)      -- bytes gathered by a ring that writes blocks: trace rings 0-4, sample rings 8-12
  smpLost : FMap Bool            -- by function: samples were dropped since the last one written
  firstAt : FMap (Option Nat)    -- by ring: the cycle of the first record in its block
  wc : Nat                       -- WC of the latest protected block (R490)
  key : FMap Word                -- the words of TRC_KEY
  keyed : Nat                    -- which of them have been written since reset
  seenAt : FMap Nat              -- by counter: the cycle up to which it has counted what the model does not keep event by event
  resetAt : FMap (Option Nat)    -- by counter: the cycle in which a step start last reset it (R494)
  deriving DecidableEq, Repr

/-! ### Sensor ingest (R323-R349) -/

/-- A frame: the reason it has failed (0: none), its PTIME where it has one, its number, its payload. `hdr` holds, of a 1722
frame, TYPE, Q, width/8, height/8, the restart interval; `q` its tables. -/
structure IngFrame where
  reason : Nat
  ptime : Option Nat
  frame : Nat
  next : Nat                 -- the line, or the fragment offset, that comes next
  data : List Byte
  hdr : List Nat
  q : List Byte
  lastAt : Nat               -- the cycle of its last packet (R327)
  deriving DecidableEq, Repr

/-- Where an admitted sample stands. -/
inductive IngStage where
  | queued | running | done
  deriving DecidableEq, Repr

/-- An admitted sample, or a VOID, in its reorder entry (R329, R340). Units: 0-7 decoders, 8-11 the pre-processing units that a
line-format sample takes whole. -/
structure IngEntry where
  id : Nat
  stage : IngStage
  reason : Nat               -- 0: not failed
  frame : IngFrame
  number : Nat               -- FRAME of its arrival entry
  unit : Option Nat          -- the unit it started on
  digest : List Byte
  held : Bool                -- it lies behind the VOID that stopped the stream
  order : Nat                -- rank of its admission in its stream
  admittedAt : Nat           -- the cycle of its admission (R330)
  startAt : Nat              -- the cycle of its start (R331)
  deriving DecidableEq, Repr

/-- An arrival entry that still has to be written (R337, R343): its place, its bytes, the handle and argument it signals. -/
structure Arrival where
  core : Nat
  part : Nat
  ctx : Nat
  addr : Nat
  bytes : List Byte
  dsync : Nat
  arg : Nat
  deriving DecidableEq, Repr

/-- A stream. -/
structure StreamSt where
  plan : List Byte           -- the plan and its targets, copied at enable
  asm : Option IngFrame      -- the frame being received
  wait : List IngFrame       -- complete or failed frames not admitted, oldest first
  entries : List IngEntry
  lastFrame : Option Nat
  lastPtime : Option Nat
  lastSeq : Option Nat
  admitted : Nat             -- frames admitted since the stream was enabled
  qtabs : FMap (List Byte)   -- in-band tables by Q, for frames that leave them out
  turn : Option Nat          -- the end of the frame whose swatch turn is reserved
  swatch : Option Nat        -- the unit its swatch runs on
  swatchAt : Nat             -- the cycle of that swatch's start (R347)
  owed : List Arrival        -- ABORTED entries that a core's routers still hold, oldest first (R241, R343)
  deriving DecidableEq, Repr

/-- The ingest block. -/
structure IngSt where
  streams : FMap StreamSt
  swMem : Memory
  orders : Nat               -- admissions so far
  deriving DecidableEq, Repr

/-- Self-tests (R426-R429). -/
structure TestSt where
  fpass : Nat               -- bit n: a Fabric pass of channel n is due or runs
  fdone : FMap Nat          -- by channel: columns tested in the pass
  frun : FMap (Option Nat)  -- by channel: the column of the slice that runs
  fused : Nat               -- bit n: channel n has run its slice of the latest commit
  ipass : Bool              -- an island pass is due or runs
  irun : Nat                -- lanes on which a slice runs
  bist : Option Nat         -- the channel under logic BIST
  shared : Nat              -- bit n: a structure that channel n shares has a fault (R316)
  deriving DecidableEq, Repr

/-! ### The loop engine (R350-R379) -/

/-- A latch of R366: its value, its value before the cycle in which it was last written, and that cycle. [DESIGN CHOICE: log 66] -/
structure Latch where
  old : Word
  new : Word
  since : Nat
  deriving DecidableEq, Repr

/-- A loop ready on its lane (R362): LE_TICK of its next boundary, its group, its slot, the boundary's cycle. [DEDUCED: log 65] -/
structure LoopReady where
  deadline : Nat
  group : Nat
  loop : Nat
  since : Nat
  deriving DecidableEq, Repr

/-- A loop on its lane (R362): the copy of its signals, the state words written, saturation, the cycle of its commit. -/
structure LoopRun where
  group : Nat
  loop : Nat
  sig : List Int
  st : List (Nat × Int)
  sat : Bool
  ends : Nat
  deriving DecidableEq, Repr

/-- The oscillation detector of a loop (R373): direction, changes of the last periods, newest first, count at C or above. -/
structure OscSt where
  r : Int
  hist : List Bool
  high : Bool
  deriving DecidableEq, Repr

/-- The loop engine beside its registers. -/
structure LeSt where
  mem : FMap Word            -- the memories of R353, by word address
  staged : FMap (Option Word) -- parameter writes that wait for PCOMMIT, by word address
  next : Nat                 -- NEXT (R351)
  tickAt : Option Nat        -- the cycle of the latest tick
  sig : FMap Word            -- signals: loop * 32 + signal
  first : FMap Bool          -- FIRST (R360), by loop
  restore : FMap Bool        -- LE_RESTORE written, by loop (R375)
  fields : FMap Latch        -- input registers, by field entry (R368)
  links : FMap Latch         -- link registers: loop * 32 + signal (R365)
  boxes : FMap Latch         -- mailbox values: mailbox * 8 + index (R371)
  ready : List LoopReady
  lanes : FMap (Option LoopRun)
  osc : FMap OscSt
  started : FMap Bool        -- by group: it has had its first boundary
  inserts : FMap (Option (List Byte)) -- staging copies: template * 16 + insert (R370)
  out : FMap (Option (List Byte))     -- transmit copies, the same (R370)
  seqs : FMap Nat            -- SEQ, by template
  got : FMap Nat             -- trace samples of a channel since it was armed
  after : FMap Nat           -- and since the trigger
  fired : Bool               -- TR_CTRL.FIRE, an OSC event, a lockstep mismatch since the last tick (R377)
  oscEv : Bool
  lockEv : Bool
  runs : List (List Byte)    -- completed runs of 1,024 samples that wait for the recorder (R378)
  ring : Nat                 -- next block of the recorder ring
  deriving DecidableEq, Repr

/-! ### Time bases and control ports (R384-R411) -/

/-- A frame released into a control port's queue, or a PTP message sent on it (R370, R391). -/
structure TxFrame where
  tc : Nat
  bytes : List Byte
  deriving DecidableEq, Repr

/-- A frame, or the rest of one, on the wire of a control port (R404). -/
structure TxRun where
  frame : TxFrame
  done : Nat                 -- bytes that earlier fragments carried
  since : Nat                -- the cycle at which this fragment began
  rate : Nat                 -- what a byte takes, in tenths of ns
  deriving DecidableEq, Repr

/-- A whole frame or a fragment that a control port has sent (R402, R404): the bytes, and whether they end the frame. -/
structure TxSent where
  tc : Nat
  bytes : List Byte
  last : Bool
  deriving DecidableEq, Repr

/-- A control port: its queues, what it has sent, newest first, its active gate control list (R402, R403). -/
structure CpSt where
  queue : List TxFrame
  sent : List TxSent
  tx : Option TxRun          -- on the wire
  held : Option (TxFrame × Nat) -- an interrupted preemptable frame and how many of its bytes have gone (R404)
  busy : Nat                 -- the cycle at which the frame on the wire has left
  banks : FMap Word          -- entries: bank * 256 + index
  len : Nat                  -- the active bank's LEN and CYCLE
  cycle : Nat
  start : Nat                -- TB3 NS of the current cycle's start
  entry : Nat                -- the entry in force
  atBase : Bool              -- the pending list waits for BASE itself: EN was 0 when SWAP was written (R403)
  deriving DecidableEq, Repr

/-- A PTP message an engine sends: kind 1 Delay_Req, 2 Pdelay_Req, 3 Pdelay_Resp, 9 Pdelay_Resp_Follow_Up. -/
structure PtpSent where
  base : Nat
  kind : Nat
  seq : Nat
  time : Nat                 -- NS carried, or the transmit time
  deriving DecidableEq, Repr

/-- A PTP engine or link transfer with its servo (R390-R396). -/
structure TbSt where
  i : Int                    -- I of R394
  diff : Option Int          -- (s32)(t2 - t1 - c) of the latest Sync (R392)
  offs : List Bool           -- the last offsets, newest first: below LOCKTHR
  lastAt : Nat               -- the cycle of the last accepted offset
  delayed : Bool             -- a delay measurement has completed
  sync : Option (Nat × Nat × Int × Nat)  -- a two-step Sync: sequenceId, t2, its correction, its cycle
  dreq : Option (Nat × Nat)  -- a delay request out: sequenceId, its send time
  part : Option (Nat × Int)  -- a two-step Pdelay_Resp: q4, q2 + correction
  reqAt : Option Nat         -- the cycle of the last request
  seq : Nat                  -- sequenceId or XID of the next request
  deriving DecidableEq, Repr

/-- Time bases and control ports beside their registers. -/
structure TimeSt where
  bases : FMap TbSt
  ports : FMap CpSt
  ptp : List PtpSent         -- PTP messages sent, newest first
  flits : List (Nat × List Byte) -- TIME flits sent, newest first: the link and bytes 8-23 (R396)
  ppsAt : Option Nat         -- the cycle at which PPS_OUT rose; none while it is low
  deriving DecidableEq, Repr

/-! ### Safety, power, reset, pins (R412-R433, R499-R534) -/

/-- The trip path and the heartbeat beside their registers. -/
structure SafeSt where
  lastLatch : FMap Nat       -- by comparator: the cycle of its last latch or of EN (R418)
  tripLow : FMap Nat         -- by TRIP_IN pin: samples for which it has been low (0: high)
  warm : Nat                 -- sensors that reached 100 °C and have not fallen below 95 °C (R413)
  hb : Bool                  -- the level of HB_OUT
  clkBad : Bool              -- the clock monitor finds the island's CK_A stopped or off frequency (R423)
  deriving DecidableEq, Repr

/-- Gauge measurements and PMBus transactions (R449-R451, R509). -/
structure GaugeSt where
  lastAt : Nat               -- the cycle of the latest interval measurement
  again : FMap (Option Nat)  -- by channel: the cycle from which a raise is measured again
  want : FMap (Option Nat)   -- by channel: the VSET of a transaction under way
  fails : FMap Nat           -- failures of that transaction, or of the read of VOUT_MODE
  probe : FMap Bool          -- by channel: VOUT_MODE is to be read before anything is written (R509)
  noted : FMap Bool          -- the ceiling has been reported since cast-on
  steps : FMap Nat           -- lowerings at this cast-on
  minutes : Nat              -- operating minutes before this power-up
  upAt : Nat                 -- the cycle of this power-up
  deriving DecidableEq, Repr

/-- Power and reset. -/
structure PwrSt where
  pinLow : Bool              -- PORST_N is low
  brown : Bool               -- VDD_AON is below 90 % of nominal (R508)
  perst : Bool               -- PERST_N is low
  shut : Bool                -- thermal shutdown (R456)
  isl : Bool                 -- the island is in reset
  cast : Bool                -- cast-on runs: until FABRIC_READY
  tested : Bool              -- its self-test has ended
  wasReady : Bool            -- FABRIC_READY has been set since power-on (R528)
  training : Bool            -- PCIe link training has started
  held : Nat                 -- channels in reset until their rail recovers (R454)
  rising : Nat               -- power domains that power up (R506), bit d
  clu : Nat                  -- straps
  chip : Nat
  stopAt : FMap (Option Nat) -- by channel, then from 4 on by domain: the cycle at which its clock stopped (R406, R456, R505)
  bursts : FMap Nat          -- by channel: the cycle at which a droop burst ends (R502)
  deriving DecidableEq, Repr

/-- Whether the device is in power-on reset: its pin is low, or the brown-out detector acts as if it were (R508, R510). -/
def PwrSt.porst (x : PwrSt) : Bool := x.pinLow || x.brown

/-- The JTAG port (R527). [PRESUMED: log 88] -/
structure JtagSt where
  instr : Nat                -- 0 BYPASS, 1 IDCODE, 2 SAMPLE/PRELOAD, 3 EXTEST, 4 EXTEST_PULSE, 5 EXTEST_TRAIN
  dr : Nat                   -- the data register as last captured
  cells : FMap Bool          -- boundary cells, by ball: row * 100 + column
  driven : Bool              -- the cells drive the balls
  deriving DecidableEq, Repr

end Sys2Proof.Machine
end

