-- ==== Sys2Proof/Machine/State.lean ====
section
/-! DEFINITION. Sys2Proof/Machine/State.lean: the state of the device as plain data, its reasons to stop, and the
state after power-on reset. -/

namespace Sys2Proof.Machine

/-- Why the machine could stop. No command of this device stops it: a fault of a context, of a core or of a link is
state the device keeps and goes on with (R83, R87). -/
inductive Fault where
  /-- Raised by nobody: kept so that the type has an element. Safe. -/
  | unused
  deriving DecidableEq, Repr

/-- Why a command has no meaning. -/
inductive Refusal where
  /-- Raised by the dispatcher for a row that is not modelled. Safe. -/
  | notModelled (mnemonic : String)
  deriving DecidableEq, Repr

/-- The device. Every register of the BAR0 map is in `regs` under its offset, unless a field below says otherwise;
an unlisted register holds its reset value. -/
structure State where
  regs : FMap Word          -- registers, by R.NAME
  hold : FMap (Option Word) -- holding copies of R7: requester * 2^32 + key of the low word
  lastRead : List Word      -- what the latest register read returned to its requester: one word, or those of a transaction
  scratch : Memory          -- scratchpads: core * 2^22 + physical byte (R129)
  ue : FMap Bool            -- words with an uncorrectable error: core * 2^19 + physical word (R143)
  ce : FMap Bool            -- words with a correctable error
  tableMem : Memory         -- table memory: channel * 2^22 + byte (R294)
  cores : FMap CoreSt
  words : FMap (List Change) -- by core: the changes of its words while operations are in flight, oldest first (the model's own)
  noc : NocSt
  parts : FMap PartSt
  migr : List Migr          -- fences whose migration runs (R437)
  host : HostSt
  tests : TestSt
  sec : SecSt
  trc : TraceSt
  ing : IngSt
  eng : LeSt
  time : TimeSt
  safe : SafeSt
  gauge : GaugeSt
  pwr : PwrSt
  jtag : JtagSt
  now : Nat                 -- cycles of the system clock since reset (the model's own clock)
  fresh : Nat               -- how many free values have been drawn (the model's own)
  pending : List Instr      -- commands waiting, first in, first out
  deriving DecidableEq, Repr

/-- Right after power-on reset (R8, R514). [DESIGN CHOICE: log 8, 101] -/
def State.reset : State where
  regs := []
  hold := []
  lastRead := []
  scratch := []
  ue := []
  words := []
  ce := []
  tableMem := []
  cores := []
  noc :=
    { syncOps := [], waiters := [], releases := [], farWaits := [], msgs := [], awaits := [], reports := []
      notices := [], children := [], roots := [], heldCr := [], discarded := [], attn := [], e2e := [], reqs := [], landed := []
      grantsIn := [], links := [], linksUsed := 0, peersUp := [], peersUsed := [], nextId := 1 }
  parts := []
  migr := []
  host := ⟨[], [], 0, [], [], 0, 0, [], [], [], []⟩
  tests := ⟨0, [], [], 0, false, 0, none, 0⟩
  sec := ⟨[], none, [], false, none, ⟨none, 0, none, none, []⟩, [], none, [], [], 0, 0, [], false, []⟩
  trc := ⟨[], [], [], [], [], [], [], 0, [], 0, [], []⟩
  ing := ⟨[], [], 0⟩
  eng :=
    { mem := [], staged := [], next := 0, tickAt := none, sig := [], first := [], restore := [], fields := []
      links := [], boxes := [], ready := [], lanes := [], osc := [], started := [], inserts := [], out := []
      seqs := [], got := [], after := [], fired := false, oscEv := false, lockEv := false, runs := [], ring := 0 }
  time := ⟨[], [], [], [], none⟩
  safe := ⟨[], [], 0, false, false⟩
  gauge := ⟨0, [], [], [], [], [], [], 0, 0⟩
  pwr := ⟨false, false, false, false, true, true, false, false, false, 0, 0, 0, 0, [], []⟩
  jtag := ⟨1, 0, [], false⟩
  now := 0
  fresh := 0
  pending := []

end Sys2Proof.Machine
end

