-- ==== Sys2Proof/Machine/Ops.lean ====
section
/-! DEFINITION. Sys2Proof/Machine/Ops.lean: the named operations over the state: registers, cores, windows, faults,
tokens. -/

namespace Sys2Proof.Machine

/-- The next state of a command; no command of this device stops it. -/
abbrev ok (s : State) : Host.Outcome State Fault Refusal := .next s

/-! ### Registers -/

/-- The value of the register at a key. -/
def State.rd (s : State) (a : Nat) : Word := FMap.get (regReset a) s.regs a

/-- A register's value replaced. -/
def State.wr (s : State) (a : Nat) (v : Word) : State := { s with regs := FMap.set (regReset a) s.regs a v }

/-- A field of a register. -/
def State.fld (s : State) (a : Nat) (f : Fld) : Nat := getF (s.rd a) f

/-- A field of a register replaced. -/
def State.setFld (s : State) (a : Nat) (f : Fld) (x : Nat) : State := s.wr a (setF (s.rd a) f x)

/-- Whether a one-bit field of a register is set. -/
def State.bit (s : State) (a : Nat) (f : Fld) : Bool := isSet (s.rd a) f

/-- A one-bit field set. -/
def State.setBit (s : State) (a : Nat) (f : Fld) : State := s.setFld a f 1

/-- A counter field of a register incremented, saturating at its width. -/
def State.incFld (s : State) (a : Nat) (f : Fld) (k : Nat) : State :=
  s.setFld a f (satInc f.width (s.fld a f) k)

/-- Folds an operation over a list. -/
def State.each {α : Type} (s : State) (l : List α) (f : State → α → State) : State := l.foldl f s

/-- A value the spec leaves open (Config.freeWord), and the state that has drawn it. [DESIGN CHOICE: log 6] -/
def State.draw (s : State) : Word × State := (Config.freeWord s.fresh, { s with fresh := s.fresh + 1 })

/-- `n` bytes the spec leaves open, and the state that has drawn them. [DESIGN CHOICE: log 6] -/
def State.drawBytes (s : State) (n : Nat) : List Byte × State :=
  ((List.range n).map (fun i => (Config.freeWord (s.fresh + i)).setWidth 8), { s with fresh := s.fresh + n })

/-- TB2's nanoseconds, the time of every record (R285, R389). -/
def State.tb2 (s : State) : Nat := (s.rd (R.TB_NS 2)).toNat

/-- A 256-bit key from the entropy source (R462): where its draws begin, and the state after them. [DESIGN CHOICE: log 96] -/
def State.drawKey (s : State) : Nat × State := (s.fresh, { s with fresh := s.fresh + 8 })

/-- The 32 bytes of a key drawn at `n`. -/
def keyBytes (n : Nat) : List Byte := (List.range 8).flatMap (fun i => leBytes 4 (Config.freeWord (n + i)).toNat)

/-! ### Cores -/

/-- An empty accumulator set (R157). -/
def AccSet.empty : AccSet := ⟨false, 0, none, 0, 0, [], [], [], []⟩

/-- The zeroed weight tile of R111. -/
def WTile.zero : WTile := ⟨none, false, [], []⟩

/-- A slot with no context: registers 0, tokens COMPLETE, no loop armed (R60). [DESIGN CHOICE: log 8] -/
def Slot.init : Slot := ⟨[], [], 0, [], 0, 0, none, 0, 0, none⟩

/-- A core after reset. -/
def CoreSt.init : CoreSt :=
  { slots := [], ibuf := [], wait := .none, stopped := false, ops := [], seen := [], issues := 0, posted := [], act := .zero, shadow := none, acc0 := .empty,
    acc1 := .empty, cwd := none, cq := 0, cn := 0, cp := 0, lbufs := [], toZero := 0, held := [], eccQ := [] }

/-- The channel of a logical core (R13). -/
def chanOf (c : Nat) : Nat := c / 256 % 4

/-- Row and column of a logical core within its channel (R13). -/
def posOf (c : Nat) : Nat := c % 256

/-- A core's data. -/
def State.core (s : State) (c : Nat) : CoreSt := FMap.get .init s.cores c

/-- A core's data replaced. -/
def State.setCore (s : State) (c : Nat) (x : CoreSt) : State := { s with cores := FMap.set .init s.cores c x }

/-- A core's data changed by a function. -/
def State.onCore (s : State) (c : Nat) (f : CoreSt → CoreSt) : State := s.setCore c (f (s.core c))

/-- A slot's register bank. -/
def CoreSt.slot (x : CoreSt) (k : Nat) : Slot := FMap.get .init x.slots k

/-- A slot's register bank replaced. -/
def CoreSt.setSlot (x : CoreSt) (k : Nat) (b : Slot) : CoreSt := { x with slots := FMap.set .init x.slots k b }

/-- The bank of slot `k` of core `c`. -/
def State.slot (s : State) (c k : Nat) : Slot := (s.core c).slot k

/-- A bank changed by a function. -/
def State.onSlot (s : State) (c k : Nat) (f : Slot → Slot) : State :=
  s.onCore c (fun x => x.setSlot k (f (x.slot k)))

/-- The slot of the running context, or of the last one to run (R78). -/
def State.active (s : State) (c : Nat) : Nat := s.fld (R.CORE_STAT (chanOf c) (posOf c)) F.CORE_STAT_ACTIVE

/-- The register of a core's block (R77) at a slot: the window, entry, wait limit, fault registers. -/
def winReg (c k : Nat) : Nat := R.CORE_WIN_CFG (chanOf c) (posOf c) k

/-- CORE_STAT of a core. -/
def statReg (c : Nat) : Nat := R.CORE_STAT (chanOf c) (posOf c)

/-- A context is executing a step on the core (R78). [DEDUCED: log 23] -/
def State.isRunning (s : State) (c : Nat) : Bool := s.bit (statReg c) F.CORE_STAT_RUN

/-! ### Scalar, address and predicate registers (R60-R63) -/

/-- s0-s31. -/
def Slot.s (b : Slot) (i : Nat) : Word := FMap.get 0#32 b.sreg i

/-- A scalar register written. -/
def Slot.setS (b : Slot) (i : Nat) (v : Word) : Slot := { b with sreg := FMap.set 0#32 b.sreg i v }

/-- a0-a15. -/
def Slot.a (b : Slot) (i : Nat) : Word := FMap.get 0#32 b.areg i

/-- An address register written. -/
def Slot.setA (b : Slot) (i : Nat) (v : Word) : Slot := { b with areg := FMap.set 0#32 b.areg i v }

/-- p0-p7: p0 always reads 1 (R60). -/
def Slot.p (b : Slot) (i : Nat) : Bool := i == 0 || bitOf b.preds i

/-- A predicate written; a write to p0 is discarded (R63). -/
def Slot.setP (b : Slot) (i : Nat) (v : Bool) : Slot :=
  if i = 0 then b else { b with preds := Machine.setBit b.preds i v }

/-- OFFSET of an address register (R61). -/
def aOff (a : Word) : Nat := bitsOf a.toNat 21 0

/-- PLANE of an address register (R61). -/
def aPlane (a : Word) : Bool := bitOf a.toNat 31

/-- An address register from PLANE and an OFFSET modulo 2^22; bits [30:22] are 0 (R61, R62). -/
def mkAddr (plane : Bool) (off : Int) : Word := BitVec.ofNat 32 (b2n plane * 2 ^ 31 + wrapN 22 off)

/-- A loop counter as LCRD reads it: a disarmed counter reads 0 (R96). -/
def Slot.lc (b : Slot) (n : Nat) : Nat := ((b.loops.find? (fun l => l.n == n)).map (fun l => l.count)).getD 0

/-- Whether token tn is PENDING (R56). -/
def Slot.tokPending (b : Slot) (n : Nat) : Bool := bitOf b.pend n

/-! ### Windows (R73, R76) -/

/-- The bound of a slot's window in bytes; a disabled window admits nothing. -/
def State.bound (s : State) (c k : Nat) : Nat :=
  let w := s.rd (winReg c k)
  if isSet w F.CORE_WIN_CFG_EN then getF w F.CORE_WIN_CFG_SIZE * 1024 else 0

/-- The physical byte of a window-relative address (R73). -/
def State.phys (s : State) (c k a : Nat) : Nat := s.fld (winReg c k) F.CORE_WIN_CFG_BASE * 1024 + a

/-- The key of a core's physical byte in the scratchpads. -/
def cellKey (c p : Nat) : Nat := c * 2 ^ 22 + p

/-- The key of a core's physical word in the error marks. -/
def wordKey (c p : Nat) : Nat := c * 2 ^ 19 + p / 8

/-- The changes kept of a core's words. -/
def State.changes (s : State) (c : Nat) : List Change := FMap.get [] s.words c

/-- Whether slot `k`'s window is zeroing (R78, R140). -/
def State.zeroing (s : State) (c k : Nat) : Bool := bitOf (s.fld (statReg c) F.CORE_STAT_ZEROING) k

/-- The first byte of [a, a + n) at or beyond the bound, if any (R73, R81). -/
def beyond (bound a n : Nat) : Option Nat := if n = 0 || a + n ≤ bound then none else some (max a bound)

/-! ### Partitions and contexts -/

/-- A context before any configuration (R297 NONE). -/
def CtxSt.init : CtxSt where
  state := .none
  weight := 0
  hkv := 0
  mode := 0
  seed := 0
  stream := 0
  waitlim := 0
  treeOff := 0
  treeN := 0
  placeOff := 0
  placeN := 0
  cores := []
  queue := []
  running := false
  starting := false
  reported := []
  stopWait := []
  zeroWait := []
  withdrawing := none
  withdrawable := true
  left := false
  discarding := false
  discarded := false
  repeated := false
  switched := false
  vt := 0
  rem := 0
  etime := 0
  steps := 0
  donorOf := none
  donObj := 0
  waitsOn := none
  fault := none
  frog := none
  since := 0
  reason := 0
  incomplete := false
  lastDigest := []
  stepDigest := []
  pkgDig := []
  progDig := []
  wtsDig := []
  serial := 0
  loads := 0
  keyAt := 0
  spn := 0
  ledger := []

/-- A partition before any configuration. -/
def PartSt.init : PartSt where
  configured := false
  chmask := 0
  nctx := 0
  job := 0
  landKb := 0
  landMsg := 0
  pool := []
  ctxs := []
  cur := none
  last := none
  resetting := none
  discard := false
  aborted := false
  life := []
  sync0 := []
  gen0 := []
  undo := []
  undoFull := false
  configDig := []

/-- A partition's data. -/
def State.part (s : State) (p : Nat) : PartSt := FMap.get .init s.parts p

/-- Whether a channel belongs to a partition. -/
def PartSt.owns (x : PartSt) (n : Nat) : Bool := x.configured && bitOf x.chmask n

/-- A partition's data replaced. -/
def State.setPart (s : State) (p : Nat) (x : PartSt) : State := { s with parts := FMap.set .init s.parts p x }

/-- A partition's data changed by a function. -/
def State.onPart (s : State) (p : Nat) (f : PartSt → PartSt) : State := s.setPart p (f (s.part p))

/-- A context's data. -/
def PartSt.ctx (x : PartSt) (k : Nat) : CtxSt := FMap.get .init x.ctxs k

/-- A context's data, by partition and number. -/
def State.ctx (s : State) (p k : Nat) : CtxSt := (s.part p).ctx k

/-- A context's data changed by a function. -/
def State.onCtx (s : State) (p k : Nat) (f : CtxSt → CtxSt) : State :=
  s.onPart p (fun x => { x with ctxs := FMap.set .init x.ctxs k (f (x.ctx k)) })

/-- The channels of a partition, ascending (R292). -/
def PartSt.chans (x : PartSt) : List Nat := bitsSet x.chmask 4

/-- The lowest channel of a partition (R281, R320). -/
def PartSt.low (x : PartSt) : Nat := x.chans.headD 0

/-- The configured partition that owns a channel (R292). -/
def State.ownerOf (s : State) (n : Nat) : Option Nat := (List.range 4).find? (fun p => (s.part p).owns n)

/-- The partition of a job on this chip (R232). -/
def State.partOfJob (s : State) (job : Nat) : Option Nat :=
  (List.range 4).find? (fun p => (s.part p).configured && (s.part p).job == job)

/-- The slot in which a context is resident on a core (R78, R236). -/
def State.slotOf (s : State) (c p k : Nat) : Option Nat :=
  (List.range 4).find? (fun i => (s.slot c i).owner == some (p, k))

/-- The key of a byte of a partition's table-memory slice: channels ascending, 4 MiB each (R294). -/
def State.sliceKey (s : State) (p off : Nat) : Nat := nth 0 (s.part p).chans (off / 2 ^ 22) * 2 ^ 22 + off % 2 ^ 22

/-- The length of a partition's slice in bytes (R294). -/
def State.sliceLen (s : State) (p : Nat) : Nat := (s.part p).chans.length * 2 ^ 22

/-- Bytes of a partition's slice. -/
def State.sliceBytes (s : State) (p off n : Nat) : List Byte :=
  (List.range n).map (fun i => s.tableMem.byte (s.sliceKey p (off + i)))

/-- A little-endian word of a partition's slice. -/
def State.sliceU32 (s : State) (p off : Nat) : Nat := leNat (s.sliceBytes p off 4)

/-- Bytes written into a partition's slice. -/
def State.putSlice (s : State) (p off : Nat) (bs : List Byte) : State :=
  { s with tableMem := bs.zipIdx.foldl (fun m b => m.put (s.sliceKey p (off + b.2)) b.1) s.tableMem }

/-! ### Counters and stitch markers (R485-R493) -/

/-- Whether a channel's CK_A is stretched by tension (R502, R503). -/
def State.stretched (s : State) (ch : Nat) : Bool := s.bit (R.TEN_STAT ch) F.TEN_STAT_ACTIVE

/-- Whether the host has gated a domain, or it has not yet left reset after gating (R505, R506). -/
def State.gated (s : State) (d : Nat) : Bool :=
  bitOf (s.rd R.PWR_GATE_LO).toNat d || (decide (32 ≤ d) && bitOf (s.rd R.PWR_GATE_HI).toNat (d - 32)) || bitOf s.pwr.rising d

/-- Whether the counter whose CFG register at `key` holds `w` counts an occurrence of an event: `core` where it is a core's,
`unit` its channel, link or port, `own` the context it is attributed to (R492, R493). -/
def counts (key : Nat) (w : Word) (core : Option Nat) (unit : Nat) (own : Option (Nat × Nat)) (code : Nat) : Bool :=
  let mine := match own with
    | some (p, x) => getF w F.CORE_CNT_CFG_PART == p && bitOf (getF w F.CORE_CNT_CFG_CTXMASK) x
    | none => false
  isSet w F.GCNT_CFG_EN && getF w F.GCNT_CFG_EVENT == code && key % 16 == 0
    && (if R.CORE_CNT_CFG 0 0 ≤ key then mine && core == some ((key - R.CORE_CNT_CFG 0 0) / 0x80)
        else if R.CH_CNT_CFG 0 0 ≤ key then mine && decide (code < 0x40) && unit == (key - R.CH_CNT_CFG 0 0) / 0x200
        else code == 0x42 || code == 0x43 || code == 0x45 || getF w F.GCNT_CFG_UNIT == unit)

/-- `n` occurrences of an event are counted (R492); a counter is 64 bits wide. -/
def State.count (s : State) (core : Option Nat) (unit : Nat) (own : Option (Nat × Nat)) (code n : Nat) : State :=
  let ks := (s.regs.filter (fun p => decide (R.GCNT_CFG 0 ≤ p.1) && decide (p.1 < R.CORE_CNT_CFG 1024 0)
    && counts p.1 p.2 core unit own code)).map (·.1)
  if ks.isEmpty then s
  else
    { s with trc := { s.trc with counts := ks.foldl (fun m k => FMap.modify 0 m k (fun v => (v + n) % 2 ^ 64)) s.trc.counts } }

/-- Events whose occurrences the spec counts in cycles, flits of others or lost requests, which the model does not keep one by one (R493). [DESIGN CHOICE: log 92] -/
def cycleEvent (e : Nat) : Bool := [0x01, 0x04, 0x05, 0x06, 0x07, 0x09, 0x0A, 0x22, 0x24].contains e

/-- A counter brought up to this cycle (R492): an enabled one of a `cycleEvent` adds a number the spec leaves open, none where no cycle has
passed or its filter names no context, and at most 2^20 for each cycle. [DESIGN CHOICE: log 92] -/
def State.settleCnt (s : State) (key : Nat) : State :=
  let cfg := s.rd key
  let since := FMap.get 0 s.trc.seenAt key
  let s := { s with trc := { s.trc with seenAt := FMap.set 0 s.trc.seenAt key s.now } }
  if isSet cfg F.GCNT_CFG_EN && cycleEvent (getF cfg F.GCNT_CFG_EVENT) && decide (since < s.now)
      && (decide (key < R.CH_CNT_CFG 0 0) || getF cfg F.CORE_CNT_CFG_CTXMASK != 0) then
    let (hi, s) := s.draw
    let (lo, s) := s.draw
    let n := (hi.toNat * 2 ^ 32 + lo.toNat) % (2 ^ 20 * (s.now - since) + 1)
    { s with trc := { s.trc with counts := FMap.modify 0 s.trc.counts key (fun v => (v + n) % 2 ^ 64) } }
  else s

/-- Whether the ring of function `f` takes a record (R488). -/
def State.ringTakes (s : State) (f : Nat) (r : TraceRec) : Bool :=
  let sel := s.rd (R.TRCF_SEL f)
  s.bit (R.TRCF_CFG f) F.TRCF_CFG_EN && bitOf (getF sel F.TRCF_SEL_CLASSMASK) r.cls
    && bitOf (getF sel F.TRCF_SEL_CTXMASK) r.ctx
    && (r.cls != 0 || bitOf (getF sel F.TRCF_SEL_UNITMASK) r.unit)
    && (decide (1 < r.cls) || bitOf (getF sel F.TRCF_SEL_CHMASK) r.coll)
    && (f == 0 || (r.part == f - 1 && (r.cls != 2 || r.unit == f) && (decide (1 < r.cls) || (s.part (f - 1)).owns r.coll)))

/-- The device can act: it is powered and not shut down (R456, R510). -/
def State.powered (s : State) : Bool := !s.pwr.porst && !s.pwr.shut

/-- Whether CK_A of a channel is stopped by heat (R456). -/
def State.paused (s : State) (ch : Nat) : Bool := bitOf (s.fld R.THERM_STAT F.THERM_STAT_STOP) ch

/-- A record reaches its collector (R487), when some ring takes it: a collector with 512 records drops it, and the next one it
accepts has LOST set. A channel whose clock is stopped writes nothing (R406). -/
def State.mark (s : State) (r : TraceRec) : State :=
  if s.paused r.coll then s
  else if (List.range 5).any (fun f => s.ringTakes f r) then
    let l := FMap.get [] s.trc.buf r.coll
    if l.length < 512 then
      let r := { r with time := s.tb2, stretch := decide (r.coll < 4) && s.stretched r.coll, lost := FMap.get false s.trc.lost r.coll }
      { s with trc := { s.trc with buf := FMap.set [] s.trc.buf r.coll (l ++ [r]), lost := FMap.set false s.trc.lost r.coll false } }
    else
      let s := s.incFld (R.CH_TRC_DROP r.coll) F.CH_TRC_DROP_DROPPED 1
      { s with trc := { s.trc with lost := FMap.set false s.trc.lost r.coll true } }.count none 0 none 0x45 1
  else s

/-- Trace events (R486). -/
def tvBegin : Nat := 1
def tvEnd : Nat := 2
def tvStart : Nat := 3
def tvCommit : Nat := 4
def tvSwitch : Nat := 5
def tvFault : Nat := 6
def tvFence : Nat := 7
def tvWithdraw : Nat := 8
def tvResumed : Nat := 9

/-- A record of a core's unit (CLASS 0). Its ARG is the step's cycle count, which the model does not keep: a value drawn. [DESIGN CHOICE: log 92] -/
def State.markCore (s : State) (c unit event : Nat) (own : Nat × Nat) (tok pc : Nat) : State :=
  let r : TraceRec := ⟨c / 256 % 4, 0, unit, c, event, own.1, own.2, tok % 16 * 2 ^ 20 + pc / 4 % 2 ^ 20, 0, 0, false, false⟩
  if (List.range 5).any (fun f => s.ringTakes f r) then
    let (v, s) := s.draw
    s.mark { r with arg := v.toNat }
  else s

/-! ### Stitch markers of the command processors -/

/-- A record of a channel's command processor about a context's step (CLASS 1): TAG is the number of the step that is not yet
committed. -/
def State.markCp (s : State) (ch event : Nat) (own : Nat × Nat) (arg : Nat) : State :=
  s.mark ⟨ch, 1, 0, ch, event, own.1, own.2, ((s.ctx own.1 own.2).steps + 1) % 2 ^ 32, 0, arg % 2 ^ 32, false, false⟩

/-- A record of a channel itself (CLASS 1): it names the owning partition, its current context and that context's step; 0 where there is
none. [DEDUCED: log 91] -/
def State.markChan (s : State) (ch event arg : Nat) : State :=
  match s.ownerOf ch with
  | none => s.mark ⟨ch, 1, 0, ch, event, 0, 0, 0, 0, arg % 2 ^ 32, false, false⟩
  | some p =>
    match (s.part p).cur with
    | some x => s.markCp ch event (p, x) arg
    | none => s.mark ⟨ch, 1, 0, ch, event, p, 0, 0, 0, arg % 2 ^ 32, false, false⟩

/-! ### Faults of a context (R81-R85) -/

/-- Fault classes (R83). -/
def fFetch : Nat := 1
def fData : Nat := 2
def fEcc : Nat := 3
def fIllegal : Nat := 4
def fOperand : Nat := 5
def fLoop : Nat := 6
def fSync : Nat := 7
def fMsg : Nat := 8
def fWait : Nat := 9
def fKill : Nat := 10

/-- A fault as its detection gives it: class, data address. -/
structure Flt where
  cls : Nat
  addr : Nat
  deriving DecidableEq, Repr

/-- The word of CORE_CTXk_FAULT for a first fault (R81). [DEDUCED: log 16] -/
def faultWord (cls : Nat) (precise : Bool) (tok : Option Nat) : Word :=
  BitVec.ofNat 32 (2 ^ 31 + 1 * 2 ^ 16 + b2n precise * 2 ^ 13 + b2n tok.isSome * 2 ^ 12 + (tok.getD 0 % 16) * 2 ^ 8
    + cls % 256)

/-- The operations of the array and of the window unit that feeds it (R163). -/
def UKind.ofArray : UKind → Bool
  | .wload | .tile | .fin | .cfg | .window => true
  | _ => false

/-- A fault of the running context (R85, R163): the sequencer stops issuing; the array discards what is in flight and both
accumulator sets, and the operations queued for it are cancelled. -/
def CoreSt.halt (x : CoreSt) : CoreSt :=
  { x with stopped := true, ops := x.ops.filter (fun o => !o.kind.ofArray), acc0 := .empty, acc1 := .empty }

/-- R84: whether a fault found now replaces the recorded one of the same cycle: its instruction issued first; or it has an instruction and the
recorded one has none; or both have the same one, or none, and its class is lower. [DEDUCED: log 19] -/
def State.outranks (s : State) (c k cls : Nat) (order : Option Nat) : Bool :=
  let lower := decide (cls < s.fld (R.CORE_CTX_FAULT (chanOf c) (posOf c) k) F.CORE_CTX_FAULT_CLASS)
  match (s.slot c k).rank with
  | none => false
  | some r =>
    r.cycle == s.now &&
      (match order, r.order with
      | none, some _ => false
      | none, none => lower
      | some _, none => true
      | some a, some b => decide (a < b) || (a == b && lower))

/-- R81: the fault registers of a slot, and the time and rank of the fault, for the fault that is recorded as the first. [DEDUCED: log 19] -/
def State.record (s : State) (c k cls pc faddr : Nat) (precise : Bool) (tok order : Option Nat) : State :=
  let s := s.onSlot c k (fun b => { b with faultAt := s.tb2, rank := some ⟨s.now, order⟩ })
  let s := s.wr (R.CORE_CTX_FAULT (chanOf c) (posOf c) k) (faultWord cls precise tok)
  let s := s.wr (R.CORE_CTX_FPC (chanOf c) (posOf c) k) (BitVec.ofNat 32 (bitsOf pc 21 2 * 4))
  s.wr (R.CORE_CTX_FADDR (chanOf c) (posOf c) k) (BitVec.ofNat 32 faddr)

/-- The place in its core's issue order of the instruction of a fault: that of the operation under a token, else the next; none where the
fault belongs to no instruction (R84). [DEDUCED: log 19] -/
def State.orderOf (s : State) (c : Nat) (precise : Bool) (tok : Option Nat) : Option Nat :=
  if !precise && tok.isNone then none
  else some (((tok.bind (fun t => (s.core c).seen.get none t)).map (fun x => x.order)).getD (s.core c).issues)

/-- A fault of the instruction at a place of the issue order: the same as `State.raise`. [DEDUCED: log 19] -/
def State.raiseAt (order : Option Nat) (s : State) (c k cls pc faddr : Nat) (precise : Bool) (tok : Option Nat) : State :=
  let fr := R.CORE_CTX_FAULT (chanOf c) (posOf c) k
  if s.bit fr F.CORE_CTX_FAULT_VALID then
    let n := s.fld fr F.CORE_CTX_FAULT_COUNT
    let s := if s.outranks c k cls order then
        ((s.record c k cls pc faddr precise tok order).setFld fr F.CORE_CTX_FAULT_COUNT n).onSlot c k (fun b => { b with refusal := 0 })
      else s
    s.incFld fr F.CORE_CTX_FAULT_COUNT 1
  else
    let s := s.record c k cls pc faddr precise tok order
    let s := s.setFld (statReg c) F.CORE_STAT_FAULTED
      (Machine.setBit (s.fld (statReg c) F.CORE_STAT_FAULTED) k true)
    let s := s.markCp (chanOf c) tvFault ((s.slot c k).owner.getD (0, 0)) cls
    if s.isRunning c && s.active c == k then s.onCore c CoreSt.halt else s

/-- R84, R85: a fault of the context in slot `k` of core `c` is detected. The first one is recorded (R81), the FAULTED
bit is set, and the sequencer stops issuing; a later one increments COUNT, and takes the record's place when it belongs to the same cycle
and ranks before. [DEDUCED: log 16, 19] -/
def State.raise (s : State) (c k cls pc faddr : Nat) (precise : Bool) (tok : Option Nat) : State :=
  s.raiseAt (s.orderOf c precise tok) c k cls pc faddr precise tok

/-! ### Network lists -/

/-- The network changed by a function. -/
def State.onNoc (s : State) (f : NocSt → NocSt) : State := { s with noc := f s.noc }

/-- The host interface changed by a function. -/
def State.onHost (s : State) (f : HostSt → HostSt) : State := { s with host := f s.host }

/-- A list without its element at index `i`. -/
def dropAt {α : Type} (l : List α) (i : Nat) : List α := l.take i ++ l.drop (i + 1)

end Sys2Proof.Machine
end

