-- ==== Sys2Proof/Machine/Doubt.lean ====
section
/-! DEFINITION. Sys2Proof/Machine/Doubt.lean: the doubt matrix and the permits (R412-R416, R420-R425): raising a source,
level sources, the activation record, the withdrawal of permits. -/

namespace Sys2Proof.Machine

/-- Two masks joined. -/
def orMask (a b : Nat) : Nat := a ||| b

/-- Whether TRIP_FAULT holds a trip-path fault (R422). [DEDUCED: log 25, 78] -/
def State.tripFault (s : State) : Bool := s.bit R.TRIP_FAULT F.TRIP_FAULT_MIS || s.bit R.TRIP_FAULT F.TRIP_FAULT_RBERR

/-- Whether a level source is in its condition (R413). [DEDUCED: log 82] -/
def State.inCondition (s : State) (i : Nat) : Bool :=
  if 0x100 ≤ i ∧ i < 0x200 then s.bit (R.MB_STAT (i - 0x100)) F.MB_STAT_STALE
  else if 0x200 ≤ i ∧ i < 0x210 then s.fld (R.KL_STAT (i - 0x200)) F.KL_STAT_STATE ≠ 2
  else if 0x228 ≤ i ∧ i < 0x22D then bitOf (s.fld R.SUPPLY_STAT F.SUPPLY_STAT_BELOW) (i - 0x228)
  else if 0x22D ≤ i ∧ i < 0x232 then bitOf s.safe.warm (i - 0x22D)
  else if i = 0x232 then s.bit R.TIME_STAT F.TIME_STAT_NOTIME
  else if i = 0x235 then s.fld R.TEST_STAT F.TEST_STAT_FOVD ≠ 0 && s.bit R.TEST_CTRL F.TEST_CTRL_FESC
  else if i = 0x236 then s.bit R.TEST_STAT F.TEST_STAT_IOVD && s.bit R.TEST_CTRL F.TEST_CTRL_IESC
  else if i = 0x237 then s.tripFault
  else false

/-- The sources whose map entry is not 0, with their maps, ascending. -/
def State.mapped (s : State) : List (Nat × Nat) :=
  (s.regs.filter (fun p => decide (R.DM_MAP 0 ≤ p.1) && decide (p.1 < R.DM_MAP 576))).map
    (fun p => ((p.1 - R.DM_MAP 0) / 4, p.2.toNat % 2 ^ 16))

/-- The mapped level sources that are in their condition. -/
def State.levels (s : State) : List (Nat × Nat) := s.mapped.filter (fun m => s.inCondition m.1)

/-- R415: a domain that becomes active records its source and the time, unless a record is held; of several sources that activate it in
one cycle, that is at one stamp, the lowest is recorded. [DEDUCED: log 82] -/
def State.noteFirst (s : State) (n src : Nat) : State :=
  if s.bit (R.DD_FIRST n) F.DD_FIRST_VALID then
    if s.rd (R.DD_TIME n) = BitVec.ofNat 32 s.tb2 ∧ src < s.fld (R.DD_FIRST n) F.DD_FIRST_SRC then
      s.setFld (R.DD_FIRST n) F.DD_FIRST_SRC src
    else s
  else
    (s.wr (R.DD_FIRST n) (BitVec.ofNat 32 (2 ^ 31 + src % 1024))).wr (R.DD_TIME n) (BitVec.ofNat 32 s.tb2)

/-- R412, R415: the domains of a source become active. [DEDUCED: log 82] -/
def State.activate (s : State) (src mask : Nat) : State :=
  let was := s.fld R.DD_ACTIVE F.DD_ACTIVE_ACTIVE
  let s := s.setFld R.DD_ACTIVE F.DD_ACTIVE_ACTIVE (orMask was mask)
  s.each ((bitsSet mask 16).filter (fun n => !bitOf was n || s.bit (R.DD_FIRST n) F.DD_FIRST_VALID)) (fun s n => s.noteFirst n src)

/-- R412: DD_LEVEL, and the domains that level sources hold active. -/
def State.holdLevels (s : State) : State :=
  let ls := s.levels
  let s := s.setFld R.DD_LEVEL F.DD_LEVEL_LEVEL (ls.foldl (fun m l => orMask m l.2) 0)
  s.each ls (fun s l => s.activate l.1 l.2)

/-- The active domains (R412, R416). -/
def State.domains (s : State) : Nat := orMask (s.fld R.DD_ACTIVE F.DD_ACTIVE_ACTIVE) (s.fld R.DD_FORCE F.DD_FORCE_FORCE)

/-- The latched comparator trips. -/
def State.trips (s : State) : Nat := (s.rd R.TRIP_STAT_LO).toNat + 2 ^ 32 * (s.rd R.TRIP_STAT_HI).toNat

/-- The comparators that withdraw permit k. -/
def State.tmask (s : State) (k : Nat) : Nat := (s.rd (R.PERMIT_TMASK_LO k)).toNat + 2 ^ 32 * (s.rd (R.PERMIT_TMASK_HI k)).toNat

/-- R420: why permit k must be low: cause and index; none when nothing forbids it. [DEDUCED: log 78, 79] -/
def State.permitCause (s : State) (k : Nat) : Option (Nat × Nat) :=
  match (bitsSet (s.trips &&& s.tmask k) 64).head? with
  | some i => some (1, i)
  | none =>
    match (bitsSet (s.fld R.TRIP_PIN F.TRIP_PIN_TRIPPED &&& s.fld (R.PERMIT_CTRL k) F.PERMIT_CTRL_PINMASK) 8).head? with
    | some i => some (2, i)
    | none =>
      match (bitsSet (s.domains &&& s.fld (R.PERMIT_CTRL k) F.PERMIT_CTRL_DDMASK) 16).head? with
      | some i => some (3, i)
      | none =>
        if s.tripFault then some (4, 0) else if s.safe.clkBad then some (6, 0) else none

/-- R420: permit k withdrawn with a cause. [DEDUCED: log 79] -/
def State.withdraw (s : State) (k cause index : Nat) : State :=
  let s := s.setFld (R.PERMIT_CTRL k) F.PERMIT_CTRL_GRANT 0
  let s := s.setFld (R.PERMIT_STAT k) F.PERMIT_STAT_OUT 0
  let s := s.setFld (R.PERMIT_STAT k) F.PERMIT_STAT_RB 0
  let s := s.setFld (R.PERMIT_STAT k) F.PERMIT_STAT_CAUSE cause
  let s := s.setFld (R.PERMIT_STAT k) F.PERMIT_STAT_INDEX index
  s.wr (R.PERMIT_WTIME k) (BitVec.ofNat 32 s.tb2)

/-- R420: every granted permit that a cause forbids is withdrawn. -/
def State.checkPermits (s : State) : State :=
  s.each ((List.range 8).filter (fun k => s.bit (R.PERMIT_CTRL k) F.PERMIT_CTRL_GRANT)) (fun s k =>
    match s.permitCause k with
    | some c => s.withdraw k c.1 c.2
    | none => s)

/-- The doubt matrix and the permits after a change of what they watch; nothing while the island is in reset (R510). -/
def State.settle (s : State) : State := if s.pwr.isl then s else s.holdLevels.checkPermits

/-- R412, R413, R415: a source raises its event; it is lost while the island is in reset (R510). -/
def State.raiseDoubt (s : State) (i : Nat) : State :=
  if s.pwr.isl then s else
  let s := s.wr (R.DM_PEND (i / 32)) (BitVec.ofNat 32 (orMask (s.rd (R.DM_PEND (i / 32))).toNat (2 ^ (i % 32))))
  (s.activate i (s.fld (R.DM_MAP i) F.DM_MAP_MASK)).settle

/-- Whether the heartbeat runs (R425). [DEDUCED: log 25, 78] -/
def State.beating (s : State) : Bool :=
  s.bit R.HB_CTRL F.HB_CTRL_EN && s.bit R.LE_STAT F.LE_STAT_RUN && !s.tripFault
    && !s.bit R.TEST_STAT F.TEST_STAT_IFAIL && !s.bit R.TEST_STAT F.TEST_STAT_IOVD

end Sys2Proof.Machine
end

