-- ==== Sys2Proof/Machine/Events.lean ====
section
/-! DEFINITION. Sys2Proof/Machine/Events.lean: host memory, MSI-X vectors and the event logs (R285-R288). -/

namespace Sys2Proof.Machine

/-! ### Host memory (R282, R289) -/

/-- Whether an access to host memory fails: it touches a page marked as failing. [DEDUCED: log 50; PRESUMED: log 51] -/
def State.hostBad (s : State) (a n : Nat) : Bool :=
  s.host.bad.any (fun p => decide (a / 4096 ≤ p) && decide (p * 4096 < a + max n 1))

/-- Bytes read from host memory; none when the access fails. [PRESUMED: log 51] -/
def State.hostRead (s : State) (a n : Nat) : Option (List Byte) :=
  if s.hostBad a n then none else some (s.host.mem.bytes a n)

/-- Bytes written to host memory; the flag says whether the write took place. [PRESUMED: log 51] -/
def State.hostWrite (s : State) (a : Nat) (bs : List Byte) : State × Bool :=
  if s.hostBad a bs.length then (s, false)
  else ((s.onHost (fun h => { h with mem := h.mem.putBytes a bs })).count none 0 none 0x43 bs.length, true)

/-! ### Functions and vectors (R264, R288) -/

/-- Whether a function exists on the link: 0 the PF, n the VF n (R264). [PRESUMED: log 9] -/
def State.fnUp (s : State) (f : Nat) : Bool := decide (f ≤ s.host.numVFs)

/-- R288: a vector is sent, or, when it is masked, its pending bit is set. [DEDUCED: log 50] -/
def State.msix (s : State) (f v : Nat) : State :=
  if FMap.get false s.host.masked (f * 64 + v) then
    s.onHost (fun h => { h with pba := FMap.set false h.pba (f * 64 + v) true })
  else s.onHost (fun h => { h with msix := (f, v) :: h.msix })

/-- A 64-bit address held in a register pair. -/
def State.pair (s : State) (lo hi : Nat) : Nat := (s.rd lo).toNat + 2 ^ 32 * (s.rd hi).toNat

/-! ### Event records (R285-R287) -/

/-- An event record to be written: code, partition, context, MORE, payload from byte 16 on. -/
structure EventRec where
  code : Nat
  part : Nat
  ctx : Nat
  more : Bool
  payload : List Byte
  deriving DecidableEq, Repr

/-- The 128 bytes of a record (R285). -/
def EventRec.bytes (e : EventRec) (phase : Bool) (time seq : Nat) : List Byte :=
  leBytes 2 e.code ++ leBytes 1 (b2n phase + 2 * b2n e.more) ++ leBytes 1 (e.ctx % 8 + e.part % 4 * 16) ++ leBytes 4 time
    ++ leBytes 4 seq ++ leBytes 4 0 ++ padTo 0#8 112 e.payload

/-- R285: a record for the log of function `f`. A log that is not enabled, or a VF that NumVFs does not cover, takes
nothing and consumes no sequence number; a full log drops the record and consumes one. [DEDUCED: log 50] -/
def State.logEvent (s : State) (f : Nat) (e : EventRec) : State :=
  let cfg := s.rd (R.HI_FN_ELOG_CFG f)
  if !s.fnUp f || !isSet cfg F.HI_FN_ELOG_CFG_EN then s
  else
    let size := 2 ^ getF cfg F.HI_FN_ELOG_CFG_LOG2SZ
    let tail := s.fld (R.HI_FN_ELOG_TAIL f) F.HI_FN_ELOG_TAIL_TAIL
    let phase := s.bit (R.HI_FN_ELOG_TAIL f) F.HI_FN_ELOG_TAIL_PHASE
    let seq := FMap.get 0 s.host.seq f
    let s := s.onHost (fun h => { h with seq := FMap.set 0 h.seq f ((seq + 1) % 2 ^ 32) })
    let next := (tail + 1) % size
    if next = s.fld (R.HI_FN_ELOG_HEAD f) F.HI_FN_ELOG_HEAD_HEAD then s.setBit (R.HI_FN_STAT f) F.HI_FN_STAT_ELOG_OVF
    else
      let base := s.pair (R.HI_FN_ELOG_BASE_LO f) (R.HI_FN_ELOG_BASE_HI f)
      let s := (s.hostWrite (base + tail * 128) (e.bytes phase s.tb2 seq)).1
      let s := s.setFld (R.HI_FN_ELOG_TAIL f) F.HI_FN_ELOG_TAIL_TAIL next
      let s := s.setFld (R.HI_FN_ELOG_TAIL f) F.HI_FN_ELOG_TAIL_PHASE (b2n (if next = 0 then !phase else phase))
      if isSet cfg F.HI_FN_ELOG_CFG_IEN then s.msix f (getF cfg F.HI_FN_ELOG_CFG_VEC) else s

/-- A record to the PF. -/
def State.eventPF (s : State) (e : EventRec) : State := s.logEvent 0 e

/-- A record to the PF and to the VF of a partition (R286). -/
def State.eventPart (s : State) (e : EventRec) : State := (s.logEvent 0 e).logEvent (e.part + 1) e

/-- R286: the codes. -/
def evTeardown : Nat := 1
def evPartReset : Nat := 2
def evCoreFenced : Nat := 3
def evUnbound : Nat := 4
def evLink : Nat := 5
def evQpError : Nat := 6
def evIngestStopped : Nat := 7
def evReady : Nat := 8
def evSupply : Nat := 9
def evThermal : Nat := 10
def evMaint : Nat := 11

/-- A PF record that concerns no partition, with its payload. -/
def State.plainEvent (s : State) (code : Nat) (payload : List Nat) : State :=
  s.eventPF ⟨code, 0, 0, false, payload.map (BitVec.ofNat 8)⟩

end Sys2Proof.Machine
end

