-- ==== Sys2Proof/Machine/Sync.lean ====
section
/-! DEFINITION. Sys2Proof/Machine/Sync.lean: handles, the sync engines, release and abandonment of objects
(R242-R250). -/

namespace Sys2Proof.Machine

/-! ### This chip (R257) -/

/-- This chip as cluster * 16 + cluster chip number. -/
def State.own (s : State) : Nat := s.fld R.KL_ID F.KL_ID_CLUSTER * 16 + s.fld R.KL_ID F.KL_ID_CHIP

/-- The HOLDER word of a context: local, or of a chip of the cluster (R245, R250). -/
def holdWord (remote : Bool) (chip ctx : Nat) : Nat :=
  2 ^ 31 + b2n remote * 2 ^ 30 + (if remote then chip % 16 * 2 ^ 20 else 0) + ctx % 8

/-- The context a HOLDER register names, in the form of `holdWord`; 0 when none is recorded. -/
def normHold (v : Nat) : Nat :=
  if !bitOf v 31 then 0 else holdWord (bitOf v 30) (bitsOf v 23 20) (bitsOf v 2 0)

/-! ### Handles (R242) -/

/-- What a handle comes to: refused, an object of this chip, an object of another chip. -/
inductive HandleTo where
  | refused
  | here (obj : Nat)
  | far (chip : Nat) (obj : Nat)
  deriving DecidableEq, Repr

/-- Whether a handle is well formed: SCOPE, unused fields, reserved bits, CLU (R242). -/
def handleOk (h : Nat) : Bool :=
  let scope := bitsOf h 31 30
  scope != 3 && bitsOf h 20 16 == 0 && decide (bitsOf h 29 25 ≤ 16)
    && (scope == 2 || bitsOf h 29 25 == 0) && (scope != 0 || bitsOf h 24 21 == 0)

/-- The chip that a handle used on chip `user` names (R242). -/
def handleChip (h user : Nat) : Nat :=
  let scope := bitsOf h 31 30
  if scope = 0 then user else if scope = 1 then user / 16 * 16 + bitsOf h 24 21 else bitsOf h 29 25 * 16 + bitsOf h 24 21

/-- R242: a handle used on chip `user` by a partition that owns, on this chip, the channels of `mask`. -/
def State.handleFrom (s : State) (user h mask : Nat) : HandleTo :=
  let chip := handleChip h user
  let obj := bitsOf h 15 0
  if !handleOk h then .refused
  else if chip = s.own then (if bitOf mask (obj / 16384) then .here obj else .refused)
  else .far chip obj

/-- R242: a handle used by a partition of this chip that owns the channels of `mask`. A wider scope that names this chip acts as
SCOPE 0. -/
def State.handleTo (s : State) (h mask : Nat) : HandleTo := s.handleFrom s.own h mask

/-- FMASK of a row. -/
def State.fmask (s : State) (ch row : Nat) : Nat := s.fld (R.SPMAP ch row) F.SPMAP_FMASK

/-- R15: the logical column that a physical column serves, its rank among the unfenced ones: none for a fenced one and for an unused
spare. -/
def logicalCol (fmask col : Nat) : Option Nat :=
  let c := ((List.range col).filter (fun j => !bitOf fmask j)).length
  if bitOf fmask col || decide (16 ≤ c) then none else some c

/-- R15: the physical column that serves a logical one; 16 where too many are fenced for it. -/
def physCol (fmask c : Nat) : Nat := ((List.range 17).filter (fun j => !bitOf fmask j)).getD c 16

/-- The logical id of a core by channel, row and logical column (R13). -/
def coreId (ch row col : Nat) : Nat := ch * 256 + row * 16 + col

/-! ### Blocks of the register map that answer (R454, R505) -/

/-- Blocks of PD00: identity, security, clocks and power (R504, R511). -/
def alwaysOn (a : Nat) : Bool :=
  decide (a < 0x01000000) || (decide (0x02600000 ≤ a) && decide (a < 0x02700000)) || (decide (0x02800000 ≤ a) && decide (a < 0x02900000))

/-- Whether the block of an offset is powered and out of reset: gated domains (R505), held channels (R454). [PRESUMED: log 9; DEDUCED: log 77] -/
def State.regLive (s : State) (a : Nat) : Bool :=
  if alwaysOn a then true
  else if !s.powered then false
  else if 0x01000000 ≤ a ∧ a < 0x02000000 then
    let n := (a - 0x01000000) / 0x400000
    let off := (a - 0x01000000) % 0x400000
    if bitOf s.pwr.held n then off / 0x100000 == 0
    else if off / 0x100000 = 2 then
      let q := off % 0x100000 / 0x400
      let col := physCol (s.fmask n (q / 16)) (q % 16)
      !s.gated (14 + 9 * n + (if col = 16 then 8 else col / 2))
    else !s.gated (10 + n)
  else if 0x02000000 ≤ a ∧ a < 0x02010000 then !s.gated (6 + (a - 0x02000000) / 0x4000)
  else if 0x02200000 ≤ a ∧ a < 0x02300000 then !s.gated 4
  else true

/-- Whether a register takes a write: its block is live, and no rail holds its channel in reset (R454, R505). [DEDUCED: log 87] -/
def State.regTakes (s : State) (a : Nat) : Bool :=
  s.regLive a && !(decide (0x01000000 ≤ a) && decide (a < 0x02000000) && bitOf s.pwr.held ((a - 0x01000000) / 0x400000))

/-! ### What waits on its way (R241, R456) -/

/-- R241: whether a logical id is one that a running migration moves; the routers of its row hold what arrives for it. -/
def State.moves (s : State) (c : Nat) : Bool :=
  s.migr.any (fun m => m.ch == c / 256 && m.row == c / 16 % 16 && decide (m.col ≤ c % 16))

/-- Whether what arrives for a core waits on its way: at the routers of a moving row (R241), or at a core whose banks serve nothing because
its clock is stopped (R132, R456). [DEDUCED: log 60] -/
def State.holds (s : State) (c : Nat) : Bool := s.moves c || s.paused (chanOf c)

/-! ### Objects (R243-R249) -/

/-- The registers of an object. -/
def cfgReg (obj : Nat) : Nat := R.SYNC_CFG (obj / 16384) (obj % 16384)
def valReg (obj : Nat) : Nat := R.SYNC_VALUE (obj / 16384) (obj % 16384)
def holdReg (obj : Nat) : Nat := R.SYNC_HOLDER (obj / 16384) (obj % 16384)
def sstatReg (obj : Nat) : Nat := R.SYNC_STAT (obj / 16384) (obj % 16384)

/-- Release codes (R247). -/
def rReleased : Nat := 0
def rAbandoned : Nat := 1
def rLinkLost : Nat := 2
def rMismatch : Nat := 3
def rReset : Nat := 4

/-- The waits queued at an object, head first. -/
def State.queue (s : State) (obj : Nat) : List Waiter := FMap.get [] s.noc.waiters obj

/-- The queue of an object replaced. -/
def State.setQueue (s : State) (obj : Nat) (l : List Waiter) : State :=
  s.onNoc (fun n => { n with waiters := FMap.set [] n.waiters obj l })

/-- What a sync engine has recorded of an object in the running step (R441). -/
def PartSt.undoOf (x : PartSt) (obj : Nat) : Undo := FMap.get ⟨0, 0, 0, false, false⟩ x.undo obj

/-- Whether every undo record of an object's channel is in use, none of them for the object itself (R441). -/
def PartSt.noRecord (x : PartSt) (obj : Nat) : Bool :=
  !(x.undoOf obj).own && decide (1024 ≤ (x.undo.filter (fun u => u.2.own && u.1 / 16384 == obj / 16384)).length)

/-- A sync object's record of the running step (R441): a change by the partition's own context (its HOLDER word is `hold`) adds
to what `f` counts; a change by any other agent is marked. Past 1,024 records of a channel a change is not recorded, and the partition
keeps that the record has overflowed (R442). -/
def State.noteUndo (s : State) (obj : Nat) (hold : Option Nat) (f : Undo → Undo) : State :=
  match s.ownerOf (obj / 16384) with
  | none => s
  | some p =>
    let mine := match hold with
      | some h => !bitOf h 30
      | none => false
    let g : Undo → Undo := fun u => if mine then { f u with own := true } else { u with other := true }
    s.onPart p (fun x =>
      if mine && x.noRecord obj then { x with undoFull := true }
      else { x with undo := FMap.modify ⟨0, 0, 0, false, false⟩ x.undo obj g })

/-- A release leaves the engine (R244). -/
def State.release (s : State) (obj : Nat) (who : Who) (code : Nat) : State :=
  s.onNoc (fun n => { n with releases := n.releases ++ [⟨who, code, obj⟩] })

/-- Every waiter of an object released with a code. -/
def State.releaseAll (s : State) (obj code : Nat) : State :=
  (s.queue obj).foldl (fun s w => s.release obj w.who code) (s.setQueue obj [])

/-- R243 BAR: arrivals; each time VALUE reaches PARTIES the generation's waiters are released and GEN increments. -/
def State.arrivals (s : State) (obj a : Nat) : State :=
  let parties := s.fld (cfgReg obj) F.SYNC_CFG_PARTIES
  let v := (s.rd (valReg obj)).toNat + a
  if parties = 0 || v < parties then s.wr (valReg obj) (BitVec.ofNat 32 v)
  else
    let s := s.wr (valReg obj) (BitVec.ofNat 32 (v % parties))
    let s := s.setFld (sstatReg obj) F.SYNC_STAT_GEN ((s.fld (sstatReg obj) F.SYNC_STAT_GEN + v / parties) % 2 ^ 16)
    s.releaseAll obj rReleased

/-- R243, R245: the waits of a SEM or EVT object evaluated from the head; `fuel` bounds the queue's length. -/
def State.serve (s : State) (obj : Nat) : Nat → State
  | 0 => s
  | fuel + 1 =>
    match s.queue obj with
    | [] => s
    | w :: rest =>
      let v := (s.rd (valReg obj)).toNat
      if s.fld (cfgReg obj) F.SYNC_CFG_KIND = 0 then
        if v < w.arg then s
        else
          let s := s.wr (valReg obj) (BitVec.ofNat 32 (v - w.arg))
          let s := match w.hold with
            | some h => if w.arg ≠ 0 then s.wr (holdReg obj) (BitVec.ofNat 32 h) else s
            | none => s
          let s := s.noteUndo obj w.hold (fun u => { u with took := u.took + w.arg })
          ((s.setQueue obj rest).release obj w.who rReleased).serve obj fuel
      else if v ≠ 1 then s
      else
        let s := if w.arg % 2 = 1 then (s.wr (valReg obj) 0#32).noteUndo obj w.hold id else s
        ((s.setQueue obj rest).release obj w.who rReleased).serve obj fuel

/-- R244 step 4: the queue evaluated after a change. [DEDUCED: log 41] -/
def State.evaluate (s : State) (obj : Nat) : State :=
  if s.fld (cfgReg obj) F.SYNC_CFG_KIND = 1 then s.arrivals obj 0 else s.serve obj (s.queue obj).length

/-- One operation served by the sync engine of an object's channel is counted (R493), for the context whose HOLDER word is `hold`. -/
def State.countSync (s : State) (obj : Nat) (hold : Option Nat) : State :=
  s.count none (obj / 16384) (match hold with
    | some h => if bitOf h 30 then none else (s.ownerOf (obj / 16384)).map (fun p => (p, h % 8))
    | none => none) 0x23 1

/-- R243, R245, R249: a signal with argument `a` from a context whose HOLDER word is `hold`. -/
def State.applySignal (s : State) (obj a : Nat) (hold : Option Nat) : State :=
  let s := s.countSync obj hold
  if !s.bit (cfgReg obj) F.SYNC_CFG_EN then s.setBit (sstatReg obj) F.SYNC_STAT_LOSTSIG
  else
    match s.fld (cfgReg obj) F.SYNC_CFG_KIND with
    | 0 =>
      let v := (s.rd (valReg obj)).toNat + a
      let s := if 2 ^ 32 ≤ v then s.setBit (sstatReg obj) F.SYNC_STAT_OVF else s
      let s := s.wr (valReg obj) (BitVec.ofNat 32 (min v (2 ^ 32 - 1)))
      let s := s.noteUndo obj hold (fun u => { u with sig := u.sig + a })
      let s := if hold = some (normHold (s.rd (holdReg obj)).toNat) then s.setFld (holdReg obj) F.SYNC_HOLDER_HVALID 0 else s
      s.evaluate obj
    | 1 => if a = 0 then s else (s.noteUndo obj hold (fun u => { u with arr := u.arr + a })).arrivals obj a
    | _ => ((s.wr (valReg obj) (BitVec.ofNat 32 (a % 2))).noteUndo obj hold id).evaluate obj

/-- R243, R246, R247: a wait reaches its object. [DEDUCED: log 41] -/
def State.applyWait (s : State) (obj kind arg : Nat) (who : Who) (hold : Option Nat) : State :=
  let s := s.countSync obj hold
  let cfg := s.rd (cfgReg obj)
  if !isSet cfg F.SYNC_CFG_EN || getF cfg F.SYNC_CFG_KIND ≠ kind then s.release obj who rMismatch
  else if s.bit (sstatReg obj) F.SYNC_STAT_ABANDONED then s.release obj who rAbandoned
  else
    let s := s.setQueue obj (s.queue obj ++ [⟨kind, arg, who, hold⟩])
    if kind = 1 then (s.noteUndo obj hold (fun u => { u with arr := u.arr + 1 })).arrivals obj 1 else s.evaluate obj

/-- R246: an object abandoned. -/
def State.abandon (s : State) (obj : Nat) : State :=
  (s.setBit (sstatReg obj) F.SYNC_STAT_ABANDONED).releaseAll obj rAbandoned

/-- The objects of a channel that have a listed register or a waiter. -/
def State.objectsOf (s : State) (ch : Nat) : List Nat :=
  let rs := s.regs.filterMap (fun p =>
    if R.SYNC_CFG ch 0 ≤ p.1 ∧ p.1 < R.SYNC_CFG ch 16384 then some (ch * 16384 + (p.1 - R.SYNC_CFG ch 0) / 16) else none)
  let ws := (s.noc.waiters.filter (fun p => p.1 / 16384 == ch)).map (·.1)
  (rs ++ ws).eraseDups

/-- R246: whether an object is one a context holds, or a barrier it waits on. -/
def State.heldBy (s : State) (obj hold : Nat) : Bool :=
  normHold (s.rd (holdReg obj)).toNat == hold
    || (s.fld (cfgReg obj) F.SYNC_CFG_KIND == 1 && (s.queue obj).any (fun w => w.hold == some hold))

/-- R246: the objects of a partition that a context holds, or waits on as barriers, are abandoned. -/
def State.abandonAll (s : State) (p hold : Nat) : State :=
  s.each ((s.part p).chans.flatMap s.objectsOf) (fun s obj => if s.heldBy obj hold then s.abandon obj else s)

/-- R250: what a change of EN, KIND or PARTIES does to an object; also its reset by a partition reset (R317). [DEDUCED: log 41] -/
def State.resetObject (s : State) (obj : Nat) : State :=
  let s := s.releaseAll obj rReset
  let s := s.wr (valReg obj) 0#32
  let s := s.setFld (sstatReg obj) F.SYNC_STAT_GEN 0
  let s := s.setFld (sstatReg obj) F.SYNC_STAT_ABANDONED 0
  s.setFld (holdReg obj) F.SYNC_HOLDER_HVALID 0

/-- A sync operation sent to an object of this chip. [DEDUCED: log 39] -/
def State.sendSync (s : State) (o : SyncOp) : State := s.onNoc (fun n => { n with syncOps := n.syncOps ++ [o] })

/-- The waits of a context removed from every queue of its partition, its wait operations on their way dropped, and the
queues behind them evaluated (R313, R315). -/
def State.removeWaits (s : State) (p : Nat) (core : Nat → Bool) : State :=
  let mine : Who → Bool := fun w => match w with
    | .wait c _ => core c
    | _ => false
  let s := s.onNoc (fun n => { n with syncOps := n.syncOps.filter (fun o => !mine o.who) })
  s.each ((s.part p).chans.flatMap (fun ch => (s.noc.waiters.filter (fun q => q.1 / 16384 == ch)).map (·.1))) (fun s obj =>
    if (s.queue obj).any (fun w => mine w.who) then
      (s.setQueue obj ((s.queue obj).filter (fun w => !mine w.who))).evaluate obj
    else s)

/-- Awaits of this chip: an identifier drawn for a message, a signal, a root, a wait. -/
def State.newId (s : State) : Nat × State := (s.noc.nextId, s.onNoc (fun n => { n with nextId := n.nextId + 1 }))

/-- A delivery report on its way (R237). -/
def State.sendReport (s : State) (r : Report) : State := s.onNoc (fun n => { n with reports := n.reports ++ [r] })

end Sys2Proof.Machine
end

