-- ==== Sys2Proof/Machine/Route.lean ====
section
/-! DEFINITION. Sys2Proof/Machine/Route.lean: routes between chips (R258-R260) and what leaves over the Kornal links: CTRL
records, messages, reduction children, under the credits of the peer's pools (R252-R255). -/

namespace Sys2Proof.Machine

/-- A link after reset. -/
def LinkSt.init : LinkSt := ⟨0, [], [], 0, none, [], [], [], [], [], false, false, [], []⟩

/-- A link's data. -/
def State.link (s : State) (l : Nat) : LinkSt := FMap.get .init s.noc.links l

/-- A link's data changed by a function. -/
def State.onLink (s : State) (l : Nat) (f : LinkSt → LinkSt) : State :=
  s.onNoc (fun n => { n with links := FMap.set .init n.links l (f (FMap.get .init n.links l)) })

/-- R258: the link of chip c that goes to chip d of its cluster. -/
def linkTo (c d : Nat) : Nat := (d + 15 - c) % 16

/-- R258: the chip that link j of chip c goes to. -/
def linkPeer (c j : Nat) : Nat := (c + j + 1) % 16

/-- R259: the cluster that KL15 of chip c of cluster a goes to. -/
def uplinkPeer (a c : Nat) : Nat := (a + c + 1) % 17

/-- Link STATE codes (R257). -/
def klOff : Nat := 0
def klTraining : Nat := 1
def klUp : Nat := 2
def klDraining : Nat := 3
def klDown : Nat := 4

/-- STATE of a link. -/
def State.linkState (s : State) (l : Nat) : Nat := s.fld (R.KL_STAT l) F.KL_STAT_STATE

/-- Whether a link carries traffic: not while it is looped back (R257). [DEDUCED: log 43] -/
def State.carries (s : State) (l : Nat) : Bool := !s.bit (R.KL_CTRL l) F.KL_CTRL_LPBK

/-- Whether the routes of a job (none: of records) use a link: UP now and at the last evaluation, carrying traffic, and with a pool for the
job at the peer (R255, R256, R257, R260). -/
def State.usable (s : State) (l : Nat) (job : Option Nat) : Bool :=
  s.linkState l == klUp && s.carries l && bitOf s.noc.linksUsed l
    && (match job with
      | none => true
      | some j => (s.link l).peerPools.any (fun p => p.1 == j && decide (0 < p.2)))

/-- Whether a link between two other chips was up at the last evaluation. -/
def State.peerUsed (s : State) (a b : Nat) : Bool := s.noc.peersUsed.any (fun p => p == (a, b) || p == (b, a))

/-- R260: the first link of the rest of a route to a chip, after `hops` hops. After the first hop every hop within a cluster is
direct, and only the gateway leads out of a cluster, so no route takes more than 3 hops (R21). -/
def State.firstHop (s : State) (dst : Nat) (job : Option Nat) (hops : Nat) : Option Nat :=
  let a := s.own / 16
  let c := s.own % 16
  let b := dst / 16
  let d := dst % 16
  if dst = s.own then none
  else if a = b then
    let j := linkTo c d
    if s.usable j job then some j
    else if hops ≠ 0 then none
    else ((List.range 16).find? (fun k => k != c && k != d && s.usable (linkTo c k) job && s.peerUsed (a * 16 + k) dst)).map
      (fun k => linkTo c k)
  else
    let u := (b + 16 - a) % 17
    let g := 15 - u
    let last := g == d || s.peerUsed (b * 16 + g) dst
    if c = u then (if s.usable 15 job && last then some 15 else none)
    else if hops = 0 && s.usable (linkTo c u) job && s.peerUsed (a * 16 + u) (b * 16 + g) && last then some (linkTo c u)
    else none

/-- R260 as the manual writes it: the hops of the route from (a, c) to (b, d), given which links are up; none is NO_ROUTE. -/
def routeOf (up : Nat → Nat → Bool) (src dst : Nat) : Option (List (Nat × Nat)) :=
  let a := src / 16
  let c := src % 16
  let b := dst / 16
  let d := dst % 16
  if a = b then
    if up src dst then some [(src, dst)]
    else ((List.range 16).find? (fun k => k != c && k != d && up src (a * 16 + k) && up (a * 16 + k) dst)).map
      (fun k => [(src, a * 16 + k), (a * 16 + k, dst)])
  else
    let u := (b + 16 - a) % 17
    let g := 15 - u
    let gate := a * 16 + u
    let land := b * 16 + g
    let path := (if c = u then [] else [(src, gate)]) ++ [(gate, land)] ++ (if g = d then [] else [(land, dst)])
    if path.all (fun h => up h.1 h.2) then some path else none

/-! ### Sending (R252-R255) -/

/-- The control pool. -/
def ctrlPool : Nat := 4

/-- The pool whose credits the next flit returns, and how many (R252, R255). -/
def LinkSt.refund (x : LinkSt) : Nat × Nat :=
  match x.owed.find? (fun p => p.2 != 0) with
  | some p => (p.1, min p.2 511)
  | none => (0, 0)

/-- The header of a flit as it is sent (R252): the acknowledgement is of the last flit received in order. [DESIGN CHOICE: log 42] -/
def LinkSt.header (x : LinkSt) (seq type pool : Nat) : Nat :=
  seq % 4096 * 2 ^ 52 + x.rxLast.getD 0 % 4096 * 2 ^ 40 + b2n x.rxLast.isSome * 2 ^ 39 + b2n x.nakOut * 2 ^ 38
    + type % 8 * 2 ^ 35 + pool % 8 * 2 ^ 32 + x.refund.1 % 8 * 2 ^ 29 + x.refund.2 * 2 ^ 20

/-- A flit leaves (R252): its 256 bytes; the acknowledgement, the NAK and the credits that its header carries are no longer due.
[DESIGN CHOICE: log 42] -/
def LinkSt.emit (x : LinkSt) (seq type pool : Nat) (payload : Nat → Byte) : LinkSt :=
  let body := leBytes 8 (x.header seq type pool) ++ (List.range 244).map payload
  { x with
    sent := (body ++ leBytes 4 (crc32 body)) :: x.sent
    owed := if x.refund.2 = 0 then x.owed else FMap.set 0 x.owed x.refund.1 (FMap.get 0 x.owed x.refund.1 - x.refund.2)
    nakOut := false
    ackDue := false }

/-- The payload of a flit: a message's bytes, in the last flit followed by what the spec does not state; records and a child in
bytes that it does not lay out. -/
def TxFlit.payload (f : TxFlit) (i : Nat) : Byte :=
  if f.ctrl then Config.ctrlPayload f.recs i
  else
    match f.child with
    | some w => Config.childPayload w i
    | none => (f.bytes[i]?).getD (Config.flitPad i)

/-- A DATA or CTRL flit goes out on the wire. [DESIGN CHOICE: log 42] -/
def LinkSt.wire (x : LinkSt) (f : TxFlit) : LinkSt := x.emit f.seq (b2n f.ctrl) f.pool f.payload

/-- Whether a waiting flit may leave: it has a credit, and no other message of its pool is being sent (R252, R255). -/
def LinkSt.maySend (x : LinkSt) (f : TxFlit) : Bool :=
  decide (0 < FMap.get 0 x.credits f.pool)
    && (f.ctrl || FMap.get none x.inMsg f.pool == none || FMap.get none x.inMsg f.pool == f.msg)

/-- Sends the flits that may leave, in the order of each pool; `fuel` bounds them. At most 256 flits are kept
unacknowledged (R254). [DESIGN CHOICE: log 42] -/
def LinkSt.pump (x : LinkSt) : Nat → LinkSt
  | 0 => x
  | fuel + 1 =>
    if 256 ≤ x.unacked.length then x
    else
      match x.txq.findIdx? x.maySend with
      | none => x
      | some i =>
        match x.txq[i]? with
        | none => x
        | some f =>
          let f : TxFlit := { f with seq := x.txSeq }
          ({ x with
            txq := dropAt x.txq i
            unacked := x.unacked ++ [f]
            txSeq := (x.txSeq + 1) % 4096
            inMsg := if f.ctrl then x.inMsg else FMap.set none x.inMsg f.pool (if f.last then none else f.msg)
            credits := FMap.set 0 x.credits f.pool (FMap.get 0 x.credits f.pool - 1) }.wire f).pump fuel

/-- A credit goes back for a flit that has been forwarded (R255). -/
def State.owe (s : State) (l pool : Nat) : State :=
  s.onLink l (fun x => { x with owed := FMap.set 0 x.owed pool (FMap.get 0 x.owed pool + 1) })

/-- Whether a flit that waits on some link came in a flit received. -/
def State.waitsOn (s : State) (b : Nat × Nat × Nat) : Bool := s.noc.links.any (fun p => p.2.txq.any (fun f => f.back == some b))

/-- The credits go back of received flits of which nothing waits here any more: what they brought has left this chip, or never will
(R255). [DESIGN CHOICE: log 42] -/
def State.oweFor (s : State) (fs : List TxFlit) : State :=
  s.each ((fs.filterMap (·.back)).eraseDups.filter (fun b => !s.waitsOn b)) (fun s b => s.owe b.1 b.2.1)

/-- Flits wait at a link. -/
def State.append (s : State) (l : Nat) (fs : List TxFlit) : State := s.onLink l (fun x => { x with txq := x.txq ++ fs })

/-- Flits given to a link; those that may leave do, while it carries traffic. -/
def State.enqueue (s : State) (l : Nat) (fs : List TxFlit) : State :=
  let before := (s.link l).unacked.length
  let s := s.onLink l (fun x => { x with txq := x.txq ++ fs }.pump (if s.carries l then x.txq.length + fs.length else 0))
  let out := (s.link l).unacked.drop before
  (s.oweFor out).count none l none 0x40 out.length

/-- The pool of the peer that a job's flits are charged to (R255). -/
def State.poolFor (s : State) (l job : Nat) : Nat := ((s.link l).peerPools.findIdx? (fun p => p.1 == job)).getD 0

/-- A CTRL flit with one record. -/
def recFlit (r : CtrlRec) : TxFlit := ⟨0, true, ctrlPool, [], [r], none, none, true, none⟩

/-- A record for another chip leaves by the rest of its route, where there is one. -/
def State.sendRec? (s : State) (dst : Nat) (r : CtrlRec) (hops : Nat) : Option State :=
  (s.firstHop dst none hops).map (fun l => s.enqueue l [recFlit r])

/-- A record of this chip for another chip leaves by its route; with no route it is lost (R262). [DEDUCED: log 43] -/
def State.sendCtrl (s : State) (dst : Nat) (r : CtrlRec) : State := (s.sendRec? dst r 0).getD s

/-- The link header of a message (R253), SCOPE resolved. -/
def Msg.header (m : Msg) (own dst hops : Nat) : List Byte :=
  let scope := if own / 16 = dst / 16 ∧ m.src / 16 = dst / 16 then 1 else 2
  let w0 := setF m.w0 ⟨27, 26⟩ scope
  let w0 := if scope = 1 then w0 else setF (setF w0 ⟨25, 21⟩ (dst / 16)) ⟨20, 17⟩ (dst % 16)
  leBytes 4 w0.toNat ++ leBytes 4 m.w1.toNat ++ leBytes 4 m.w2.toNat ++ leBytes 4 m.w3.toNat
    ++ leBytes 4 (m.job % 2 ^ 16 * 2 ^ 16 + m.ctx % 8 * 2 ^ 13 + (m.total - 1) % 2 ^ 12)
    ++ leBytes 4 (m.src / 16 % 32 * 2 ^ 27 + m.src % 16 * 2 ^ 23 + m.score % 2 ^ 10)
    ++ leBytes 4 m.id ++ leBytes 4 (hops % 4 * 2 ^ 30)

/-- The chip a message is for (R234). -/
def Msg.dst (m : Msg) : Nat :=
  match bitsOf m.w0.toNat 27 26 with
  | 0 => m.src
  | 1 => m.src / 16 * 16 + bitsOf m.w0.toNat 20 17
  | _ => bitsOf m.w0.toNat 25 21 * 16 + bitsOf m.w0.toNat 20 17

/-- What names a message in the flits that carry it. -/
def Msg.ref (m : Msg) : MsgRef := ⟨m.src, m.id, m.dst⟩

/-- The flits of a message (R252): 244 payload bytes each. -/
def Msg.flits (m : Msg) (own hops pool : Nat) : List TxFlit :=
  let bs := m.header own m.dst hops ++ m.data
  let n := ceilDiv bs.length 244
  ((chunksOf 244 n bs).zipIdx).map (fun b => ⟨0, false, pool, b.1, [], none, some m.ref, b.2 + 1 == n, none⟩)

/-- A message of this chip leaves by a link. [DESIGN CHOICE: log 129] -/
def State.sendMsg (s : State) (l : Nat) (m : Msg) (hops : Nat) : State :=
  s.enqueue l (m.flits s.own hops (s.poolFor l m.job))

/-- A reduction child leaves by a link; `back` is what it came by. -/
def State.sendChild (s : State) (l : Nat) (w : WireChild) (back : Option (Nat × Nat × Nat)) : State :=
  s.enqueue l [⟨0, false, s.poolFor l w.job, [], [], some w, none, true, back⟩]

/-- The link by which an awaited item leaves for a chip is noted; `sync` says that it is a sync operation. -/
def State.noteLink (s : State) (id l chip : Nat) (sync : Bool) : State :=
  s.onNoc (fun n => { n with awaits := n.awaits.map (fun a => if a.id = id then { a with link := some l, far := some (chip, sync) } else a) })

end Sys2Proof.Machine
end

