-- ==== Sys2Proof/Machine/Flags.lean ====
section
/-! DEFINITION. Sys2Proof/Machine/Flags.lean: what the core's predicates are computed from: the condition codes of
compares and the predicate logic (R98, R99). -/

namespace Sys2Proof.Machine

/-- FP32 order on bit patterns: -0 equals +0, NaN compares false (R98). -/
def fpEq (a b : Word) : Bool := (f32v a.toNat).eqv (f32v b.toNat)
def fpLt (a b : Word) : Bool := (f32v a.toNat).lt (f32v b.toNat)
def fpLe (a b : Word) : Bool := fpLt a b || fpEq a b
def fpUn (a b : Word) : Bool := (f32v a.toNat).isNan || (f32v b.toNat).isNan

/-- R98: the result of a compare by its condition code. -/
def ccEval (cc : Nat) (a b : Word) : Bool :=
  match cc with
  | 0 => a == b
  | 1 => a != b
  | 2 => a.slt b
  | 3 => !a.slt b
  | 4 => a.ult b
  | 5 => !a.ult b
  | 6 => fpEq a b
  | 7 => fpLt a b
  | 8 => fpLe a b
  | 9 => fpUn a b
  | _ => (a &&& b) != 0#32

/-- R99: predicate logic by FN. -/
def plogEval (fn : Nat) (a b : Bool) : Bool :=
  match fn with
  | 0 => a && b
  | 1 => a || b
  | 2 => a != b
  | 3 => a && !b
  | 4 => !a
  | _ => a

end Sys2Proof.Machine
end

