-- ==== Sys2Proof/Machine/Scratch.lean ====
section
/-! DEFINITION. Sys2Proof/Machine/Scratch.lean: the scratchpad (R129-R148): ECC on every read, word-wise writes,
planes and their cell streams, operands of unit operations addressed by byte or by plane. -/

namespace Sys2Proof.Machine

/-! ### ECC (R143-R148) -/

/-- The ECC registers and the fence counter note an error in the word at physical byte `p` (R143, R148, R436). [DESIGN CHOICE: log 30] -/
def State.noteEcc (s : State) (c p : Nat) (uncorr : Bool) : State :=
  let n := chanOf c
  let q := posOf c
  let s := if uncorr then s.incFld (R.CORE_ECC_STAT n q) F.CORE_ECC_STAT_UE_COUNT 1
           else s.incFld (R.CORE_ECC_STAT n q) F.CORE_ECC_STAT_CE_COUNT 1
  let s := if uncorr then s.incFld (R.CORE_FENCE_CNT n q) F.CORE_FENCE_CNT_UE 1
           else s.incFld (R.CORE_FENCE_CNT n q) F.CORE_FENCE_CNT_CE 1
  let own := (s.slot c (s.active c)).owner
  let s := if uncorr then s else s.count (some c) n own 0x0E 1
  s.wr (R.CORE_ECC_LAST n q) (BitVec.ofNat 32 (2 ^ 31 + b2n uncorr * 2 ^ 30 + bitsOf p 21 3 * 8))

/-- A read checks the word at window-relative address `a` (R143): a correctable one is queued for write-back while the
queue has room (R144), once. Answers whether the word is uncorrectable. [DESIGN CHOICE: log 30] -/
def State.checkWord (s : State) (c k a : Nat) : State × Bool :=
  let p := s.phys c k a
  if FMap.get false s.ue (wordKey c p) then (s.noteEcc c p true, true)
  else if FMap.get false s.ce (wordKey c p) then
    let s := s.noteEcc c p false
    (s.onCore c (fun x => if x.eccQ.length < 8 && !x.eccQ.contains (p / 8) then { x with eccQ := x.eccQ ++ [p / 8] } else x),
      false)
  else (s, false)

/-- The words of [a, a + n), ascending. -/
def wordsOf (a n : Nat) : List Nat := if n = 0 then [] else (List.range ((a + n - 1) / 8 + 1 - a / 8)).map (fun i => (a / 8 + i) * 8)

/-- Checks words in order; stops at the first uncorrectable one and answers its address (R86). -/
def State.checkWords (s : State) (c k : Nat) : List Nat → State × Option Nat
  | [] => (s, none)
  | a :: l => match s.checkWord c k a with
    | (s, true) => (s, some a)
    | (s, false) => s.checkWords c k l

/-- A read's ECC checks; nothing to do while no word of the device is marked. -/
def State.checkRange (s : State) (c k a n : Nat) : State × Option Nat :=
  if s.ue.isEmpty && s.ce.isEmpty then (s, none) else s.checkWords c k (wordsOf a n)

/-- Bytes of a window. -/
def State.winBytes (s : State) (c k a n : Nat) : List Byte := s.scratch.bytes (cellKey c (s.phys c k a)) n

/-- What a write of [p, p + n) leaves of the error marks: a whole-word write leaves a correct word; a narrower one keeps
an uncorrectable word uncorrectable (R146). A write-back of a written word is dropped (R144). The read inside a narrow
write counts no error. [DEDUCED: log 106] -/
def State.writeMarks (s : State) (c p n : Nat) : State :=
  if s.ue.isEmpty && s.ce.isEmpty then s
  else (wordsOf p n).foldl (fun s w =>
    let s := if p ≤ w && w + 8 ≤ p + n then { s with ue := FMap.set false s.ue (wordKey c w) false } else s
    { s with ce := FMap.set false s.ce (wordKey c w) false }.onCore c (fun x => { x with eccQ := x.eccQ.filter (· ≠ w / 8) })) s

/-- A write of [p, p + n) is kept as changes of its words while an operation of the core is in flight or takes effect (R90). [DEDUCED: log 15] -/
def State.noteWords (s : State) (c p n : Nat) : State :=
  if (s.core c).ops.isEmpty && (FMap.get none (s.core c).seen 16).isNone then s
  else
    { s with words := FMap.modify [] s.words c (fun l => l ++ (wordsOf p n).map (fun w =>
      ⟨wordKey c w, s.scratch.bytes (cellKey c w) 8, FMap.get false s.ue (wordKey c w),
        (List.range 8).map (fun j => decide (p ≤ w + j) && decide (w + j < p + n))⟩)) }

/-- Bytes written at a physical address of a core's scratchpad. -/
def State.putPhys (s : State) (c p : Nat) (bs : List Byte) : State :=
  { (s.noteWords c p bs.length).writeMarks c p bs.length with scratch := s.scratch.putBytes (cellKey c p) bs }

/-- Bytes written into a window. -/
def State.putWin (s : State) (c k a : Nat) (bs : List Byte) : State := s.putPhys c (s.phys c k a) bs

/-- A physical extent zeroed: zero words with valid check bits (R141). -/
def State.zeroPhys (s : State) (c p n : Nat) : State :=
  { s with
    scratch := FMap.clear s.scratch (cellKey c p) n
    ue := FMap.clear s.ue (wordKey c p) (n / 8)
    ce := FMap.clear s.ce (wordKey c p) (n / 8) }

/-! ### Accesses of unit operations

A unit operation's work is a computation that may end in a fault of its context; the error counters it has moved by
then stay moved. -/

/-- A computation on the state that may fault. [DEDUCED: log 29] -/
abbrev U (α : Type) := ExceptT Flt (StateM State) α

/-- Runs a computation: its last state and its outcome. [DEDUCED: log 29] -/
def U.go {α : Type} (m : U α) (s : State) : Except Flt α × State := m.run.run s

/-- Reads the bytes of one range in access order: an uncorrectable word, then a byte beyond the bound, faults; the address
of a cell that lies above the address space is recorded in the form of R61, its low 22 bits (R138). [DEDUCED: log 105] -/
def uRange (c k : Nat) (r : Nat × Nat) : U (List Byte) := do
  let s ← get
  let b := s.bound c k
  let inside := min r.2 (b - r.1)
  let (s, bad) := s.checkRange c k r.1 inside
  set s
  match bad with
  | some a => throw ⟨fEcc, a⟩
  | none => match beyond b r.1 r.2 with
    | some a => throw ⟨fData, a % 2 ^ 22⟩
    | none => pure (s.winBytes c k r.1 r.2)

/-- Reads ranges in order. -/
def uRanges (c k : Nat) : List (Nat × Nat) → U (List Byte)
  | [] => pure []
  | r :: l => do
    let x ← uRange c k r
    let y ← uRanges c k l
    pure (x ++ y)

/-- Every byte of the ranges lies within the bound, or the first that does not faults. [DEDUCED: log 105] -/
def uBound (c k : Nat) : List (Nat × Nat) → U Unit
  | [] => pure ()
  | r :: l => do
    let s ← get
    match beyond (s.bound c k) r.1 r.2 with
    | some a => throw ⟨fData, a % 2 ^ 22⟩
    | none => uBound c k l

/-- Writes a byte string over ranges in order. -/
def uWrite (c k : Nat) : List (Nat × Nat) → List Byte → U Unit
  | [], _ => pure ()
  | r :: l, bs => do
    modify (fun s => s.putWin c k r.1 (bs.take r.2))
    uWrite c k l (bs.drop r.2)

/-! ### Planes (R133-R138) -/

/-- R133: the window-relative address of cell (i, j) of a plane, in u32 arithmetic (R9). -/
def planeCell (baseKb pitch i j : Nat) : Nat := ((baseKb + i * pitch) * 1024 + (i + j) % 32 * 32) % 2 ^ 32

/-- The bank of an address (R130). -/
def bankOf (p : Nat) : Nat := p / 32 % 32

/-- The fields of a plane descriptor's bytes; reserved fields are ignored (R135). -/
def Plane.ofBytes (bs : List Byte) : Plane :=
  let w (i : Nat) : Nat := leNat ((bs.drop (4 * i)).take 4)
  { baseKb := bitsOf (w 0) 11 0, pitch := bitsOf (w 1) 27 16, rows := bitsOf (w 1) 11 0, len := bitsOf (w 2) 28 24 + 1,
    col0 := bitsOf (w 2) 20 16, row0 := bitsOf (w 2) 11 0, xpose := bitOf (w 3) 3, esize := bitsOf (w 3) 2 1,
    column := bitOf (w 3) 0 }

/-- Whether ROWS and PITCH are in range (R138). -/
def Plane.geomOk (d : Plane) : Bool :=
  decide (1 ≤ d.rows) && decide (d.rows ≤ 3072) && decide (1 ≤ d.pitch) && decide (d.pitch ≤ 3072)

/-- R138 for an operation that uses the first `n` segments. -/
def Plane.ok (d : Plane) (n : Nat) : Bool :=
  d.geomOk && decide (d.esize ≠ 3) && (!d.xpose || d.len == 32)
  && (if d.column then decide (d.row0 + d.len ≤ d.rows) && decide (d.col0 + n ≤ 32)
      else decide (d.col0 + d.len ≤ 32) && decide (d.row0 + n ≤ d.rows))

/-- R136: cell `x` of the stream. -/
def Plane.cellAddr (d : Plane) (x : Nat) : Nat :=
  let sg := x / d.len
  let j := x % d.len
  if d.column then planeCell d.baseKb d.pitch (d.row0 + j) (d.col0 + sg)
  else planeCell d.baseKb d.pitch (d.row0 + sg) (d.col0 + j)

/-- The first `n` cells of the stream, as ranges; a transposed stream is taken in whole segments (R137). -/
def Plane.cellsOf (d : Plane) (n : Nat) : List (Nat × Nat) :=
  let n := if d.xpose then ceilDiv n 32 * 32 else n
  (List.range n).map (fun x => (d.cellAddr x, 32))

/-- A matrix of `r` rows of `e` elements of `sz` bytes, transposed (R137). -/
def transposeBytes {α : Type} (sz r e : Nat) (bs : List α) : List α :=
  (List.range e).flatMap (fun j => (List.range r).flatMap (fun i => (bs.drop ((i * e + j) * sz)).take sz))

/-- What a unit receives of a segment's cells: the transpose when XPOSE is set (R137). [DEDUCED: log 20] -/
def Plane.recv {α : Type} (d : Plane) (bs : List α) : List α :=
  if d.xpose then
    (chunksOf 1024 (bs.length / 1024 + 1) bs).flatMap (transposeBytes (2 ^ d.esize) 32 (32 / 2 ^ d.esize))
  else bs

/-- What the cells hold of a unit's bytes: the inverse of `recv` (R137). -/
def Plane.send {α : Type} (d : Plane) (bs : List α) : List α :=
  if d.xpose then
    (chunksOf 1024 (bs.length / 1024 + 1) bs).flatMap (transposeBytes (2 ^ d.esize) (32 / 2 ^ d.esize) 32)
  else bs

/-- Reads and checks the plane descriptor that an address register names, for a use of `n` cells (R62, R138). -/
def uPlane (c k : Nat) (a : Word) (n : Nat) : U Plane := do
  if aOff a % 32 ≠ 0 then throw ⟨fOperand, 2 ^ 31 + aOff a⟩
  let bs ← uRange c k (aOff a, 32)
  let d := Plane.ofBytes bs
  if d.ok (ceilDiv n d.len) then pure d else throw ⟨fOperand, 2 ^ 31 + aOff a⟩

/-! ### Operands -/

/-- Reads `n` bytes through an address register: back to back, or the cell stream of its plane (R61, R136). [DEDUCED: log 29] -/
def uRead (c k : Nat) (a : Word) (n : Nat) : U (List Byte) := do
  if n = 0 then return []
  if aPlane a then
    let cells := ceilDiv n 32
    let d ← uPlane c k a cells
    let bs ← uRanges c k (d.cellsOf cells)
    pure ((d.recv bs).take n)
  else uRange c k (aOff a, n)

/-- Reads `n` bytes at an address and answers them with the place to write a result of the same size to: its plane
descriptor is read once (R138). -/
def uReadDest (c k : Nat) (a : Word) (n : Nat) : U (List Byte × (Option Plane × List (Nat × Nat))) := do
  if n = 0 then return ([], (none, []))
  if aPlane a then
    let cells := ceilDiv n 32
    let d ← uPlane c k a cells
    let bs ← uRanges c k (d.cellsOf cells)
    pure ((d.recv bs).take n, (some d, d.cellsOf cells))
  else
    let bs ← uRange c k (aOff a, n)
    pure (bs, (none, [(aOff a, n)]))

/-- Where a write of `n` bytes through an address register goes, checked (R61, R136, R138). -/
def uDest (c k : Nat) (a : Word) (n : Nat) : U (Option Plane × List (Nat × Nat)) := do
  if n = 0 then return (none, [])
  if aPlane a then
    let cells := ceilDiv n 32
    let d ← uPlane c k a cells
    let rs := d.cellsOf cells
    uBound c k rs
    pure (some d, rs)
  else
    uBound c k [(aOff a, n)]
    pure (none, [(aOff a, n)])

/-- The longest pieces of consecutive present bytes of a range at an address: address and bytes of each. -/
def piecesOf (a : Nat) : List (Option Byte) → List (Nat × List Byte)
  | [] => []
  | none :: l => piecesOf (a + 1) l
  | some b :: l =>
    match piecesOf (a + 1) l with
    | (a', bs) :: rest => if a' = a + 1 then (a, b :: bs) :: rest else (a, [b]) :: (a', bs) :: rest
    | [] => [(a, [b])]

/-- Writes the present bytes of ranges in order, and no other byte. -/
def uWriteSome (c k : Nat) : List (Nat × Nat) → List (Option Byte) → U Unit
  | [], _ => pure ()
  | r :: l, bs => do
    modify (fun s => (piecesOf r.1 (bs.take r.2)).foldl (fun s x => s.putWin c k x.1 x.2) s)
    uWriteSome c k l (bs.drop r.2)

/-- The bytes that a checked destination holds, as its unit sees them, with no check: what a narrow write keeps (R146). -/
def State.destBytes (s : State) (c k : Nat) (dst : Option Plane × List (Nat × Nat)) : List Byte :=
  let bs := dst.2.flatMap (fun r => s.winBytes c k r.1 r.2)
  match dst.1 with
  | none => bs
  | some d => d.recv bs

/-- The window-relative address of byte `i` of the data of a destination. -/
def destAddr (dst : Option Plane × List (Nat × Nat)) (i : Nat) : Nat :=
  let as := dst.2.flatMap (fun r => (List.range r.2).map (fun j => r.1 + j))
  match dst.1 with
  | none => nth 0 as i
  | some d => nth 0 (if d.xpose then d.recv as else as) i

/-- Writes to a checked destination; a transposed segment that is not filled keeps its other elements, which are not
touched (R137, R146). [DEDUCED: log 20, 29] -/
def uPut (c k : Nat) (dst : Option Plane × List (Nat × Nat)) (bs : List Byte) : U Unit := do
  match dst.1 with
  | none => uWrite c k dst.2 bs
  | some d =>
    if d.xpose then
      let n := (dst.2.map (·.2)).sum
      uWriteSome c k dst.2 (d.send (bs.map some ++ List.replicate (n - bs.length) none))
    else uWrite c k (dst.2.zipIdx.map (fun r => (r.1.1, min 32 (bs.length - 32 * r.2)))) bs

/-- Reads `m` items of `n` bytes: back to back by byte; by plane every item starts at a new cell (R108, R109, R136). -/
def uItems (c k : Nat) (a : Word) (m n : Nat) : U (List (List Byte)) := do
  if aPlane a then
    let w := ceilDiv n 32
    let bs ← uRead c k a (m * w * 32)
    pure ((List.range m).map (fun i => (bs.drop (i * w * 32)).take n))
  else
    let bs ← uRead c k a (m * n)
    pure ((List.range m).map (fun i => (bs.drop (i * n)).take n))

end Sys2Proof.Machine
end

