-- ==== Sys2Proof/Machine/Operands.lean ====
section
/-! DEFINITION. Sys2Proof/Machine/Operands.lean: what an instruction reads before it acts: immediates, the register
operands a unit operation captures at issue (R55), the fields of control words (R95, R109, R114) and their allowed
values. -/

namespace Sys2Proof.Machine

/-- A field of a captured control word. -/
def ctl (w : Word) (hi lo : Nat) : Nat := bitsOf w.toNat hi lo

/-- The operands of a unit operation in format U1 (R92): it captures aD, aA, s[sC] and s[sC + 1] (R55, R95). -/
def captureU1 (kind : UKind) (f : FmtU1) (b : Slot) : UOp where
  kind := kind
  fn := f.fn.toNat
  tok := f.tok.toNat
  pc := b.pc
  aD := b.a f.aD.toNat
  aA := b.a f.aA.toNat
  aB := 0#32
  c0 := b.s f.sC.toNat
  c1 := b.s ((f.sC.toNat + 1) % 32)

/-- The operands of a unit operation in format U2 (R92). -/
def captureU2 (kind : UKind) (f : FmtU2) (b : Slot) : UOp where
  kind := kind
  fn := f.fn.toNat
  tok := f.tok.toNat
  pc := b.pc
  aD := b.a f.aD.toNat
  aA := b.a f.aA.toNat
  aB := b.a f.aB.toNat
  c0 := b.s f.sC.toNat
  c1 := b.s ((f.sC.toNat + 1) % 32)

/-! ### The array's control word (R106, R108-R110) -/

/-- WT or IT. -/
def UOp.ty (o : UOp) : Nat := ctl o.c0 23 20

/-- OUT of mx.tile and cw.window. -/
def UOp.out (o : UOp) : Nat := ctl o.c0 19 18

/-- OUT of mx.fin (R110). -/
def UOp.finOut (o : UOp) : Nat := ctl o.c0 23 22

/-- ASET. -/
def UOp.aset (o : UOp) : Nat := ctl o.c0 10 10

/-- M (R109). -/
def UOp.m (o : UOp) : Nat := ctl o.c0 9 0 + 1

/-- Whether an array type is an integer type: INT8, INT4, INT16, CINT8 (R106). -/
def tyInt (t : Nat) : Bool := t == 0 || t == 1 || t == 2 || t == 13

/-- Whether an array type is complex (R106). -/
def tyCplx (t : Nat) : Bool := t == 13 || t == 14

/-- Whether an array type is an MX type (R106). -/
def tyMx (t : Nat) : Bool := decide (5 ≤ t) && decide (t ≤ 10)

/-- The K positions of one pass of an input type (R106). -/
def kLen (it : Nat) : Nat := if it = 1 || it = 9 then 64 else 32

/-- R36: the operand pairings. -/
def pairOk (it wt : Nat) : Bool :=
  if it = 0 then wt == 0 || wt == 1
  else if it = 3 || it = 4 then wt == 3 || wt == 4
  else if it = 9 then wt == 9
  else if tyMx it then tyMx wt
  else it == wt

/-- R109, R110: an OUT that the pairing of an input type does not allow. -/
def outBad (int : Bool) (out : Nat) : Bool := out == 3 || (out == 1 && !int) || (out == 2 && int)

/-- The input types of cw.window and cw.cfg (R168, R172). -/
def cwType (t : Nat) : Bool := t == 0 || t == 2 || t == 3 || t == 4 || t == 11 || t == 12

/-- R95, R109, R110: the control-word values of mx.tile that fault at issue. [DEDUCED: log 17] -/
def tileBad (o : UOp) : Bool :=
  o.ty == 15 || o.out == 3 || (o.fn == 2 && outBad (tyInt o.ty) o.out) || (o.fn != 2 && decide (32 < o.m))

/-! ### The vector control word (R114) -/

/-- ST. -/
def UOp.st (o : UOp) : Nat := ctl o.c0 31 28

/-- ET. -/
def UOp.et (o : UOp) : Nat := ctl o.c0 27 24

/-- BC. -/
def UOp.bc (o : UOp) : Bool := bitOf o.c0.toNat 16

/-- N. -/
def UOp.n (o : UOp) : Nat := ctl o.c0 15 0

/-- The types of arithmetic lanes: FP32, BF16, INT32 (R113). -/
def laneType (t : Nat) : Bool := t == 0 || t == 1 || t == 3

/-! ### Reduction tags (R182, R183) -/

/-- The tag fields that fault at issue: a reserved bit, LEVEL > 24, TAIL with LEVEL > 23. -/
def tagBad (o : UOp) : Bool :=
  ctl o.c0 31 30 != 0 || ctl o.c1 31 20 != 0 || decide (24 < ctl o.c0 28 24)
    || (bitOf o.c0.toNat 29 && decide (23 < ctl o.c0 28 24))

/-- R95: the operand values that fault with OPERAND at issue, precisely, for each unit operation. -/
def UOp.bad (o : UOp) : Bool :=
  match o.kind with
  | .wload => o.ty == 15
  | .tile => tileBad o
  | .fin => o.finOut == 3
  | .cfg => false
  | .window => !cwType o.ty || tileBad o
  | .arith | .minmax | .red => !laneType o.st
  | .fn => !(o.st == 0 || o.st == 1)
  | .cvt => decide (12 < o.st)
  | .mxq => !(o.st == 0 || o.st == 1) || decide (o.et < 7) || decide (12 < o.et) || o.n % 32 != 0
  | .rand | .sample => false
  | .move => ctl o.c0 31 22 != 0
  | .send => o.c0.toNat == 0 || decide (4096 < o.c0.toNat)
  | .signal => false
  | .push => tagBad o
  | .leaf => false
  | .result => decide (4096 < o.c0.toNat)

end Sys2Proof.Machine
end

