-- ==== Sys2Proof/Machine/Sequencer.lean ====
section
/-! DEFINITION. Sys2Proof/Machine/Sequencer.lean: fetch and the instruction buffer (R64-R66), the loops (R67-R69),
the issue of one instruction (R54-R59), the issue of a unit operation. -/

namespace Sys2Proof.Machine

/-! ### The instruction buffer (R64-R66) -/

/-- Loads line `ln` of slot `k`'s window into its buffer slot, with the bytes present now (R64, R65). The words are
read, so they are ECC-checked; a line with an uncorrectable word is marked (R66). The line is one read of all banks, so
of its errors an uncorrectable one is the last that CORE_ECC_LAST keeps (R148). -/
def State.loadLine (s : State) (c k ln : Nat) : State :=
  let len := min 1024 (s.bound c k - ln * 1024)
  let isBad (a : Nat) : Bool := FMap.get false s.ue (wordKey c (s.phys c k a))
  let ws := wordsOf (ln * 1024) len
  let bad := ws.any isBad
  let s := if s.ue.isEmpty && s.ce.isEmpty then s
           else (ws.filter (fun a => !isBad a) ++ ws.filter isBad).foldl (fun s a => (s.checkWord c k a).1) s
  let line : IbLine := ⟨ln, FMap.slice s.scratch (cellKey c (s.phys c k (ln * 1024))) len, bad⟩
  s.onCore c (fun x => { x with ibuf := FMap.set none x.ibuf (ln % 8) (some line) })

/-- The buffered line that holds a window line, if it is there. -/
def CoreSt.line (x : CoreSt) (ln : Nat) : Option IbLine :=
  match FMap.get none x.ibuf (ln % 8) with
  | some l => if l.tag = ln then some l else none
  | none => none

/-- The instruction buffer emptied (R65). -/
def CoreSt.flush (x : CoreSt) : CoreSt := { x with ibuf := [] }

/-- Line L + 1 requested while executing in line L (R64), when it lies within the bound. [DEDUCED: log 15] -/
def State.prefetch (s : State) (c k : Nat) : State :=
  let ln := (s.slot c k).pc / 1024 + 1
  if ((s.core c).line ln).isNone && decide (ln * 1024 < s.bound c k) then s.loadLine c k ln else s

/-- The word the sequencer would execute: the buffered word at pc; none when pc is beyond the bound, its line is not
buffered, or the line holds an uncorrectable word. -/
def State.fetched (s : State) (c k : Nat) : Option Word :=
  let pc := (s.slot c k).pc
  if pc < s.bound c k then
    match (s.core c).line (pc / 1024) with
    | some l => if l.ue then none else some (BitVec.ofNat 32 (l.data.u32 (pc % 1024)))
    | none => none
  else none

/-- Whether the sequencer of a core may issue: a context runs, its clock runs, issue has not stopped, nothing stalls it. [DESIGN CHOICE: log 4] -/
def State.canIssue (s : State) (c : Nat) : Bool :=
  s.isRunning c && !s.paused (chanOf c) && !(s.core c).stopped && (s.core c).wait == .none

/-! ### The next address (R67-R69) -/

/-- R68: the loops tested innermost first at address `a`; the next address and the loops left armed. [DEDUCED: log 11] -/
def loopNext (a : Nat) : List Loop → Nat × List Loop
  | [] => ((a + 4) % 2 ^ 32, [])
  | l :: ls =>
    if l.last ≠ a then ((a + 4) % 2 ^ 32, l :: ls)
    else if l.count ≠ 1 then (l.start, { l with count := l.count - 1 } :: ls)
    else loopNext a ls

/-- R68 from an address: the bank after an instruction that is no taken branch. -/
def Slot.after (b : Slot) (a : Nat) : Slot :=
  let r := loopNext a b.loops
  { b with pc := r.1, loops := r.2 }

/-- The sequencer moves on from the instruction at pc (R68). -/
def State.advance (s : State) (c k : Nat) : State := s.onSlot c k (fun b => b.after b.pc)

/-- R69: the loops a taken branch leaves armed: from the outermost, those whose body holds the target. -/
def loopsKept (target : Nat) (ls : List Loop) : List Loop :=
  (ls.reverse.takeWhile (fun l => decide (l.start ≤ target) && decide (target ≤ l.last))).reverse

/-- A taken branch (R68, R69). [DEDUCED: log 11] -/
def Slot.jump (b : Slot) (target : Nat) : Slot := { b with pc := target, loops := loopsKept target b.loops }

/-- R69: the instructions that must not be the last of an armed body: branches, sq.loop, sq.end, sy.wait. [DEDUCED: log 12] -/
def notLast (w : Word) : Bool :=
  let o := opcodeOf w
  (decide (17 ≤ o) && decide (o ≤ 21)) || o == 25

/-! ### Issue -/

/-- Issue of the instruction word `w` by core `c` (R54): it takes place when the sequencer may issue and `w` is the
buffered word at pc; otherwise the state stays. An ILLEGAL word faults (R94), then a wrong last instruction of a body
(R69); a guard that reads 0 makes it do nothing (R59); else `body` acts on the running slot. [DEDUCED: log 12] -/
def seqIssue (c : Nat) (w : Word) (body : Nat → State → State) (s : State) : State :=
  let k := s.active c
  if s.canIssue c && s.fetched c k == some w then
    let s := (s.prefetch c k).count (some c) (chanOf c) (s.slot c k).owner 0x02 1
    let b := s.slot c k
    if illegalWord w then s.raise c k fIllegal b.pc 0 true none
    else if notLast w && b.loops.any (fun l => l.last == b.pc) then s.raise c k fLoop b.pc 0 true none
    else if !b.p (guardOf w) then s.advance c k
    else body k s
  else s

/-- Issue of a sequencer instruction that changes registers of the bank and moves on. -/
def regIssue (c : Nat) (w : Word) (f : Slot → Slot) (s : State) : State :=
  seqIssue c w (fun k s => (s.onSlot c k f).advance c k) s

/-- UNIT of a unit operation in its trace records (R485). -/
def UKind.engine : UKind → Nat
  | .wload | .tile | .fin => 1
  | .cfg | .window => 2
  | .arith | .minmax | .fn | .cvt | .mxq | .red | .rand | .sample => 3
  | .move | .send | .signal => 4
  | .leaf | .result => 5
  | .push => 6

/-- Issue of a unit operation (R55, R56): a PENDING token stalls it; a forbidden operand value faults, precisely, with
the token left as it is (R95); else it goes in flight with its operands captured, and its token becomes PENDING. [DEDUCED: log 16] -/
def State.issueOp (s : State) (c k : Nat) (o : UOp) : State :=
  let b := s.slot c k
  if b.tokPending o.tok then s
  else if o.bad then s.raise c k fOperand b.pc 0 true (some o.tok)
  else
    let s := if (s.core c).ops.isEmpty then { s with words := FMap.set [] s.words c [] } else s
    let s := s.onCore c (fun x => { x with
      ops := x.ops ++ [o], seen := x.seen.set none o.tok (some ⟨(s.changes c).length, x.issues⟩), issues := x.issues + 1 })
    let s := s.markCore c o.kind.engine tvBegin (b.owner.getD (0, 0)) o.tok o.pc
    (s.onSlot c k (fun b => { b with pend := Machine.setBit b.pend o.tok true })).advance c k

/-- Whether the instruction word `w`, which would issue next, waits: its token is PENDING (R56). -/
def State.tokenStall (s : State) (c : Nat) (w : Word) (tok : Nat) : Bool :=
  let b := s.slot c (s.active c)
  s.canIssue c && s.fetched c (s.active c) == some w && !illegalWord w && b.p (guardOf w) && b.tokPending tok

/-- Issue of a word whose operation goes in flight under a token. While the token is PENDING the word is not issued (R56). -/
def tokIssue (c : Nat) (w : Word) (tok : Nat) (body : Nat → State → State) (s : State) : State :=
  if s.tokenStall c w tok then s.prefetch c (s.active c) else seqIssue c w body s

/-- Issue of a unit operation's word. -/
def unitIssue (c : Nat) (w : Word) (op : Slot → UOp) (s : State) : State :=
  tokIssue c w (op (s.slot c (s.active c))).tok (fun k s => s.issueOp c k (op (s.slot c k))) s

end Sys2Proof.Machine
end

