-- ==== Sys2Proof/Machine/Noc.lean ====
section
/-! DEFINITION. Sys2Proof/Machine/Noc.lean: messages and their checks (R234-R239), signals and waits as cores send them
(R105, R123, R242, R248), delivery reports, releases. -/

namespace Sys2Proof.Machine

/-! ### Plumbing -/

/-- Runs a computation and keeps its outcome as a value. -/
def uTry {α : Type} (m : U α) : U (Except Flt α) := do
  let s ← get
  let r := m.go s
  set r.2
  pure r.1

/-- The context in a slot, (0, 0) when it holds none. -/
def State.ownerIn (s : State) (c k : Nat) : Nat × Nat := (s.slot c k).owner.getD (0, 0)

/-- Whether the context in a slot has faulted. -/
def State.hasFaulted (s : State) (c k : Nat) : Bool := s.bit (R.CORE_CTX_FAULT (chanOf c) (posOf c) k) F.CORE_CTX_FAULT_VALID

/-- The step of the context in a slot is no longer withdrawable (R312). -/
def State.noWithdraw (s : State) (c k : Nat) : State :=
  match (s.slot c k).owner with
  | some (p, x) => s.onCtx p x (fun t => { t with withdrawable := false })
  | none => s

/-- Something of the step of a context leaves the chip (R312, R442). -/
def State.ctxLeaves (s : State) (p x : Nat) : State := s.onCtx p x (fun t => { t with withdrawable := false, left := true })

/-- Something of the step of the context in a slot leaves the chip (R312, R442). -/
def State.leaves (s : State) (c k : Nat) : State :=
  match (s.slot c k).owner with
  | some (p, x) => s.ctxLeaves p x
  | none => s

/-- An item of the context in slot `k` of core `c` that will get a report: its identifier. -/
def State.await (s : State) (c k pc faddr : Nat) (tok : Option Nat) : Nat × State :=
  let o := s.ownerIn c k
  let (id, s) := s.newId
  (id, s.onNoc (fun n => { n with awaits := n.awaits ++ [⟨id, c, o.1, o.2, pc, faddr, tok, none, false, s.orderOf c false tok, none⟩] }))

/-- A report to the sender of an item, on this chip or another (R237). [DEDUCED: log 39] -/
def State.reportTo (s : State) (src id code : Nat) (sync : Bool) : State :=
  if src = s.own then s.sendReport ⟨id, code, sync⟩ else s.sendCtrl src (.report src id code sync)

/-- A landing credit that this chip has granted is free again (R261). [DEDUCED: log 45] -/
def State.freeLanding (s : State) (src id : Nat) : State :=
  s.onNoc (fun n => { n with landed := n.landed.filter (fun l => !(l.src == src && l.id == id)) })

/-- A message that is not delivered (R236): its sender hears the code, and between clusters its landing credit goes back (R261). -/
def State.refuseMsg (s : State) (m : MsgRef) (code : Nat) : State :=
  let s := s.reportTo m.src m.id code false
  if m.src / 16 = m.dst / 16 then s
  else if m.dst = s.own then s.freeLanding m.src m.id
  else s.sendCtrl m.dst (.giveBack m.dst m.src m.id)

/-! ### Refusal codes (R236) -/

def mNoJob : Nat := 1
def mNoContext : Nat := 2
def mZeroing : Nat := 3
def mBound : Nat := 4
def mPlane : Nat := 5
def mMailbox : Nat := 6
def mNoRoute : Nat := 7
def mLinkLost : Nat := 8
def mAborted : Nat := 9

/-- A destination that a check of R236 accepted: the slot, and where the bytes go (as `Msg.at_` keeps it). -/
abbrev Dest := Nat × (Option Plane × List (Nat × Nat))

/-- The check of the words of the plane descriptor at an address, as a transfer reads it (R143). [DESIGN CHOICE: log 113] -/
def State.checkDescWords (s : State) (c k : Nat) (a : Word) : State × Option Nat :=
  if aPlane a && aOff a % 32 == 0 && (beyond (s.bound c k) (aOff a) 32).isNone then s.checkRange c k (aOff a) 32 else (s, none)

/-- R236: the plane or byte range of a transfer of `n` bytes at window address `a` of slot `k`, BOUND and PLANE in order. A plane
descriptor in an uncorrectable word delivers nothing (R145): it fails PLANE. [DESIGN CHOICE: log 113] -/
def State.destRange (s : State) (c k : Nat) (a : Word) (n : Nat) : Except Nat Dest :=
  let b := s.bound c k
  if aPlane a then
    if (beyond b (aOff a) 32).isSome then .error mBound
    else
      let d := Plane.ofBytes (s.winBytes c k (aOff a) 32)
      if aOff a % 32 ≠ 0 || (s.checkDescWords c k a).2.isSome || !d.ok (ceilDiv (ceilDiv n 32) d.len) then .error mPlane
      else
        let rs := d.cellsOf (ceilDiv n 32)
        if rs.any (fun r => (beyond b r.1 r.2).isSome) then .error mBound else .ok (k, some d, rs)
  else if (beyond b (aOff a) n).isSome then .error mBound
  else .ok (k, none, [(aOff a, n)])

/-- R236: the checks of a transfer into (or from) the window of context `x` of partition `p` on core `c`. -/
def State.destCheck (s : State) (p x c : Nat) (a : Word) (n : Nat) : Except Nat Dest :=
  if !(s.part p).owns (c / 256) then .error mNoJob
  else
    match s.slotOf c p x with
    | none => .error mNoContext
    | some k => if s.zeroing c k then .error mZeroing else s.destRange c k a n

/-- The accepted bytes written (R131 rank 3, R237). -/
def State.place (s : State) (c : Nat) (d : Dest) (bs : List Byte) : State :=
  ((uPut c d.1 d.2 bs).go s).2.count (some c) (chanOf c) (s.slot c d.1).owner 0x0C bs.length

/-- The bytes of a message from byte `done` on, as far as they have come, written (R236). -/
def State.placeFrom (s : State) (c : Nat) (d : Dest) (done : Nat) (bs : List Byte) : State :=
  let n := (d.2.2.map (·.2)).sum
  let os : List (Option Byte) := List.replicate done none ++ bs.map some ++ List.replicate (n - done - bs.length) none
  let os := match d.2.1 with
    | some pl => pl.send os
    | none => os
  ((uWriteSome c d.1 d.2.2 os).go s).2.count (some c) (chanOf c) (s.slot c d.1).owner 0x0C bs.length

/-- The bytes of an accepted source range. -/
def State.take (s : State) (c : Nat) (d : Dest) (n : Nat) : List Byte :=
  let bs := d.2.2.flatMap (fun r => s.winBytes c d.1 r.1 r.2)
  match d.2.1 with
  | some pl => (pl.recv bs).take n
  | none => bs.take n

/-! ### msg.send (R122, R234, R235) -/

/-- R234: whether a reserved field, or a field that DKIND and SCOPE do not use, is not 0; `rest` is words 4 to 7. [DEDUCED: log 21, 22] -/
def hdrUnused (w0 w1 w2 w3 rest : Nat) : Bool :=
  let kind := bitsOf w0 31 28
  let scope := bitsOf w0 27 26
  let clu := bitsOf w0 25 21
  let chip := bitsOf w0 20 17
  let dest := bitsOf w0 9 0
  let w1z := bitOf w1 31 || bitsOf w1 21 0 != 0
  let w2z := bitOf w2 31 || bitsOf w2 15 0 != 0
  (bitsOf w0 16 10 != 0 || bitsOf w1 30 22 != 0 || bitsOf w2 30 16 != 0 || rest != 0)
    || (scope == 0 && (clu != 0 || chip != 0)) || (scope == 1 && clu != 0)
    || (kind == 1 && (dest != 0 || w1z || w2z || w3 != 0))
    || (kind == 2 && (bitsOf dest 9 8 != 0 || w1z || w2z || w3 != 0))

/-- R235: the fault of a message header for a send of `n` bytes from partition `p`. [DEDUCED: log 21] -/
def State.hdrFault (s : State) (p n w0 w1 w2 w3 rest : Nat) : Option Nat :=
  let kind := bitsOf w0 31 28
  let scope := bitsOf w0 27 26
  let clu := bitsOf w0 25 21
  let chip := bitsOf w0 20 17
  let local_ := scope == 0 || (scope == 1 && chip == s.own % 16) || (scope == 2 && clu * 16 + chip == s.own)
  if decide (2 < kind) || scope == 3 || hdrUnused w0 w1 w2 w3 rest || (bitOf w1 31 && n % 32 != 0) then some fOperand
  else if kind == 1 && scope != 0 then some fMsg
  else if scope == 2 && decide (16 < clu) then some fMsg
  else if kind == 0 && local_ && !(s.part p).owns (bitsOf w0 9 0 / 256) then some fMsg
  else none

/-- A message leaves its core: within the chip, over a link, or to wait for its end-to-end credit (R234, R260, R261). On the link it leaves
by its HOPS is 1: R253 does not say whether the link being crossed counts. [DEDUCED: log 39; DESIGN CHOICE: log 129] -/
def State.postMsg (s : State) (c k : Nat) (m : Msg) : State :=
  let p := (s.ownerIn c k).1
  let s := s.count (some c) (chanOf c) (some (s.ownerIn c k)) 0x0B m.data.length
  let s := if bitsOf m.w0.toNat 31 28 ≠ 0 then s.noWithdraw c k else s
  if m.dst = s.own then s.onNoc (fun n => { n with msgs := n.msgs ++ [m] })
  else
    match s.firstHop m.dst (some m.job) 0 with
    | none => s.sendReport ⟨m.id, mNoRoute, false⟩
    | some l =>
      let s := s.noteLink m.id l m.dst false
      if m.dst / 16 = s.own / 16 then (s.sendMsg l m 1).leaves c k
      else
        let s := s.onNoc (fun n => { n with e2e := n.e2e ++ [⟨m, p, true⟩] })
        s.sendCtrl m.dst (.request m.dst s.own m.job m.id m.data.length)

/-- msg.send as it takes effect (R122, R234, R235): of a header's fault and its data's both are detected, and the one of
the lower class is recorded (R84). [DEDUCED: log 19] -/
def uSend (c k : Nat) (o : UOp) : U Unit := do
  let n := o.c0.toNat
  let h ← uTry (uRead c k o.aD 32)
  let s ← get
  let own := s.ownerIn c k
  let w (b : List Byte) (i : Nat) : Nat := leNat ((b.drop (4 * i)).take 4)
  let hf : Option Flt := match h with
    | .error f => some f
    | .ok b => (s.hdrFault own.1 n (w b 0) (w b 1) (w b 2) (w b 3) (leNat (b.drop 16))).map (fun cls => ⟨cls, o.aD.toNat⟩)
  let d ← uTry (uRead c k o.aA n)
  match hf, h, d with
  | some f, _, .error g => do
    let (f, g) := if g.cls < f.cls then (g, f) else (f, g)
    modify (fun s => s.raise c k g.cls o.pc g.addr false (some o.tok))
    throw f
  | some f, _, .ok _ => throw f
  | none, _, .error g => throw g
  | none, .error f, _ => throw f
  | none, .ok b, .ok data =>
    let s ← get
    let (id, s) := s.await c k o.pc o.aD.toNat (some o.tok)
    let bw (i : Nat) : Word := BitVec.ofNat 32 (w b i)
    set (s.postMsg c k ⟨bw 0, bw 1, bw 2, bw 3, (s.part own.1).job, own.2, data, s.own, c, 0, id, n, none, 0⟩)

/-! ### sy.signal and sy.wait (R105, R123, R242) -/

/-- sy.signal leaves the core (R123): to the engine of its object, on this chip or another. -/
def uSignal (c k : Nat) (o : UOp) : U Unit := do
  let s ← get
  let own := s.ownerIn c k
  match s.handleTo o.c0.toNat (s.part own.1).chmask with
  | .refused => throw ⟨fSync, 0⟩
  | .here obj =>
    let (id, s) := s.await c k o.pc 0 (some o.tok)
    set (s.sendSync ⟨3, obj, o.c1.toNat, (s.part own.1).job, .rep id, some (holdWord false 0 own.2)⟩)
  | .far chip obj =>
    let (id, s) := s.await c k o.pc 0 (some o.tok)
    let job := (s.part own.1).job
    match s.firstHop chip (some job) 0 with
    | none => set (s.sendReport ⟨id, mNoRoute, true⟩)
    | some l => set (((s.noteLink id l chip true).sendCtrl chip (.syncOp chip s.own 3 obj o.c1.toNat job own.2 c id)).leaves c k)

/-- sy.wait at issue (R105, R242, R248): a handle out of reach, and a wait on an object of another cluster (R21), fault; else
the wait sets out and the sequencer stalls. -/
def State.issueWait (s : State) (c k : Nat) (f : FmtW) : State :=
  let b := s.slot c k
  let own := s.ownerIn c k
  let h := (b.s f.sH.toNat).toNat
  let arg := (b.s ((f.sH.toNat + 1) % 32)).toNat
  let job := (s.part own.1).job
  let stall (id : Nat) (s : State) : State :=
    s.onCore c (fun x => { x with wait := .sync id h f.sD.toNat b.pc f.kind.toNat })
  match s.handleTo h (s.part own.1).chmask with
  | .refused => s.raise c k fSync b.pc 0 true none
  | .here obj =>
    let (id, s) := s.newId
    stall id (s.sendSync ⟨f.kind.toNat, obj, arg, job, .wait c id, some (holdWord false 0 own.2)⟩)
  | .far chip obj =>
    if chip / 16 ≠ s.own / 16 then s.raise c k fSync b.pc 0 true none
    else
      let (id, s) := s.newId
      match s.firstHop chip (some job) 0 with
      | none => (stall id s).release 0 (.wait c id) rLinkLost
      | some l =>
        let s := s.onNoc (fun n => { n with farWaits := n.farWaits ++ [⟨c, id, obj, chip, l⟩] })
        stall id (s.sendCtrl chip (.syncOp chip s.own f.kind.toNat obj arg job own.2 c id))

/-- SY_WAIT (R105). -/
def execSyWait (c : Nat) (f : FmtW) (s : State) : Host.Outcome State Fault Refusal :=
  ok (seqIssue c (f.word 25#6) (fun k s => s.issueWait c k f) s)

/-- WAIT_LIMIT (R72): a sy.wait that stalls under a limit faults; s[sD] stays, a remote wait is cancelled (R248). [DEDUCED: log 16] -/
def execWaitLimit (c : Nat) (s : State) : Host.Outcome State Fault Refusal :=
  ok (
    let k := s.active c
    match (s.core c).wait with
    | .sync id _ _ pc _ =>
      if s.isRunning c && !s.paused (chanOf c) && !(s.core c).stopped && s.fld (winReg c k + 8) F.CORE_CTX_WAITLIM_LIMIT != 0 then
        let s := match s.noc.farWaits.find? (fun w => w.core == c && w.id == id) with
          | some w => s.sendCtrl w.dst (.cancel w.dst s.own w.obj c id)
          | none => s
        (s.onCore c (fun x => { x with wait := .none })).raise c k fWait pc 0 true none
      else s
    | _ => s)

/-! ### Releases and reports -/

/-- A release reaches a core's sy.wait (R72, R247): s[sD] gets the status, the sequencer goes on. -/
def State.releaseCore (s : State) (c id code : Nat) : State :=
  let k := s.active c
  let s := s.onNoc (fun n => { n with farWaits := n.farWaits.filter (fun w => !(w.core == c && w.id == id)) })
  match (s.core c).wait with
  | .sync id' _ sD pc _ =>
    if id' = id && s.isRunning c && !(s.core c).stopped then
      let s := s.onCore c (fun x => { x with wait := .none })
      let s := s.onSlot c k (fun b => (b.setS sD (BitVec.ofNat 32 (code % 256))).after pc)
      s.noWithdraw c k
    else s
  | _ => s

/-- Completion statuses of a host SYNC_WAIT by release code (R284). [DEDUCED: log 53] -/
def waitStatus (code : Nat) : Nat :=
  match code with
  | 0 => 0
  | 1 => 0x0E
  | 2 => 0x0F
  | 3 => 0x10
  | _ => 0x11

/-- A release reaches a host SYNC_WAIT (R278, R282): its status and RESULT are set, and its effect is done. [DEDUCED: log 53] -/
def State.releaseDesc (s : State) (id code : Nat) : State :=
  s.onHost (fun h => { h with descs := h.descs.map (fun d =>
    if d.id = id && d.st == .dispatched then
      { d with st := .done, status := waitStatus code, result := padTo 0#8 16 (leBytes 1 code) } else d) })

/-- Whether a release is held on its way: at the routers of a row that migrates (R241), by a core whose clock is stopped (R406), or while
the link that its wait came by, over which it returns (R248), is not UP. -/
def State.releaseHeld (s : State) (r : Release) : Bool :=
  match r.who with
  | .wait c _ => s.holds c
  | .remote _ _ _ l => s.linkState l != klUp
  | _ => false

/-- SYNC_RELEASE (R247, R248): the release at index `i` reaches its waiter, or leaves by the link that its wait came by. -/
def execSyncRelease (i : Nat) (s : State) : Host.Outcome State Fault Refusal :=
  ok (match s.noc.releases[i]? with
    | none => s
    | some r =>
      if s.releaseHeld r then s
      else
        let s := s.onNoc (fun n => { n with releases := dropAt n.releases i })
        match r.who with
        | .wait c id => s.releaseCore c id r.code
        | .desc id => s.releaseDesc id r.code
        | .remote chip core id l => s.enqueue l [recFlit (.release chip core id r.code s.own r.obj)]
        | _ => s)

/-- The code with which a chip reports a reduction child that arrived for a side already held (R189). -/
def crOccupied : Nat := 0x100

/-- R242: the refusal of a sy.wait returns: its context faults with SYNC_REFUSED, s[sD] stays. -/
def State.refuseWait (s : State) (id : Nat) : State :=
  let s := s.onNoc (fun n => { n with farWaits := n.farWaits.filter (fun w => w.id != id) })
  let stalled (x : CoreSt) : Option Nat := match x.wait with
    | .sync i _ _ pc _ => if i = id then some pc else none
    | _ => none
  match s.cores.findSome? (fun c => (stalled c.2).map (fun pc => (c.1, pc))) with
  | none => s
  | some (c, pc) => (s.onCore c (fun x => { x with wait := .none })).raise c (s.active c) fSync pc 0 true none

/-- R237, R242: a report reaches the context of an awaited item, or a refusal a stalled sy.wait. [DEDUCED: log 31, 39] -/
def State.applyReport (s : State) (r : Report) : State :=
  match s.noc.awaits.find? (fun a => a.id == r.id) with
  | none => if r.sync && r.code != 0 then s.refuseWait r.id else s
  | some a =>
    let s := s.onNoc (fun n => { n with
      awaits := n.awaits.filter (fun b => b.id != a.id)
      e2e := n.e2e.filter (fun e => e.msg.id != a.id) })
    if r.code = 0 || (a.settles && r.code != crOccupied) then s
    else
      match s.slotOf a.core a.part a.ctx with
      | none => s
      | some k =>
        if s.hasFaulted a.core k then s
        else
          let cls := if r.code = crOccupied then fOperand else if r.sync then fSync else fMsg
          let s := s.raiseAt a.order a.core k cls a.pc a.faddr false a.tok
          if cls = fMsg then s.onSlot a.core k (fun b => { b with refusal := r.code }) else s

/-- Whether a report is for a core whose row holds its arrivals (R241), or whose clock is stopped (R406). -/
def State.reportHeld (s : State) (r : Report) : Bool :=
  s.noc.awaits.any (fun a => a.id == r.id && s.holds a.core)

/-- DELIVERY_REPORT (R237): the report at index `i` returns to its sender. -/
def execDeliveryReport (i : Nat) (s : State) : Host.Outcome State Fault Refusal :=
  ok (match s.noc.reports[i]? with
    | none => s
    | some r =>
      if s.reportHeld r then s
      else (s.onNoc (fun n => { n with reports := dropAt n.reports i })).applyReport r)

/-! ### Arrival of messages (R233, R236-R239) -/

/-- Whether a message of this cluster keeps its place behind an earlier one from the same core to the same destination by the same
way (R239): DKIND and DEST, and the hops taken, tell the destination, however SCOPE is spelt (R234). -/
def msgBehind (own : Nat) (ms : List Msg) (i : Nat) (m : Msg) : Bool :=
  m.src / 16 == own / 16 && (ms.take i).any (fun q => q.src == m.src && q.score == m.score && q.hops == m.hops
    && bitsOf q.w0.toNat 31 28 == bitsOf m.w0.toNat 31 28 && bitsOf q.w0.toNat 9 0 == bitsOf m.w0.toNat 9 0)

/-- The window address that a CORE message names (R234). -/
def Msg.daddr (m : Msg) : Word := BitVec.ofNat 32 (bitsOf m.w1.toNat 21 0 + (if bitOf m.w1.toNat 31 then 2 ^ 31 else 0))

/-- What reading the plane descriptor of a transfer leaves of the ECC counts: nothing where no window takes the transfer (R142, R143). [DESIGN CHOICE: log 113] -/
def State.noteDesc (s : State) (p x c : Nat) (a : Word) : State :=
  match s.slotOf c p x with
  | some k => if s.zeroing c k then s else (s.checkDescWords c k a).1
  | none => s

/-- The checks of R236 of a CORE message, as its first flit reaches its destination. [DEDUCED: log 45] -/
def State.landCheck (s : State) (m : Msg) : Except Nat Dest :=
  let w2 := m.w2.toNat
  match s.partOfJob m.job with
  | none => .error mNoJob
  | some p =>
    if bitOf w2 31 && !(s.part p).owns (bitsOf w2 15 14) then .error mNoJob
    else s.destCheck p m.ctx (bitsOf m.w0.toNat 9 0) m.daddr m.total

/-- The signal of a message whose every byte is visible (R237). [DEDUCED: log 45] -/
def State.landSignal (s : State) (m : Msg) : State :=
  let w2 := m.w2.toNat
  let near := m.src / 16 == s.own / 16
  let hold := if near then some (holdWord (m.src != s.own) (m.src % 16) m.ctx) else none
  if bitOf w2 31 then s.applySignal (bitsOf w2 15 0) m.w3.toNat hold else s

/-- Whether the window that a message was accepted into still takes its bytes: it has not been zeroed since (R142, R236). -/
def State.stillTakes (s : State) (c : Nat) (d : Dest) : Bool := decide (d.1 < 4) && !s.zeroing c d.1

/-- R236, R237: CORE message `i`, `m`, at its destination: refused, written as far as it has come, or written whole, its signal
applied and reported. Of a message that has not come whole the bytes of its whole NoC flits are written (R240). [DEDUCED: log 45] -/
def State.landMsg (s : State) (i : Nat) (m : Msg) : State :=
  let c := bitsOf m.w0.toNat 9 0
  let gone (s : State) : State := (s.onNoc (fun n => { n with msgs := dropAt n.msgs i })).freeLanding m.src m.id
  let d : Except Nat Dest := match m.at_ with
    | some d => if s.stillTakes c d then .ok d else .error mZeroing
    | none => s.landCheck m
  let s := match m.at_, s.partOfJob m.job with
    | none, some p => s.noteDesc p m.ctx c m.daddr
    | _, _ => s
  match d with
  | .error e => (gone s).reportTo m.src m.id e false
  | .ok d =>
    if m.data.length < m.total then
      let n := max m.done (m.data.length / 64 * 64)
      (s.onNoc (fun x => { x with msgs := x.msgs.set i { m with at_ := some d, done := n } })).placeFrom c d m.done
        ((m.data.take n).drop m.done)
    else
      let s := if m.done = 0 then (gone s).place c d m.data else (gone s).placeFrom c d m.done (m.data.drop m.done)
      (s.landSignal m).reportTo m.src m.id 0 false

/-- R240: the NoC flits of a message of `n` bytes. -/
def nocFlits (n : Nat) : Nat := 1 + ceilDiv n 64

/-- R240, R13-R15: the router of a logical core in physical coordinates, 34 columns by 32 rows. -/
def State.router (s : State) (c : Nat) : Nat × Nat :=
  (17 * (c / 256 % 2) + physCol (s.fmask (chanOf c) (c / 16 % 16)) (c % 16), 16 * (c / 512 % 2) + c / 16 % 16)

/-- From a number to another, both included. -/
def span (a b : Nat) : List Nat :=
  if a ≤ b then (List.range (b - a + 1)).map (fun i => a + i) else (List.range (a - b + 1)).map (fun i => a - i)

/-- R240: the routers that a message crosses: along x, then along y. -/
def xyPath (a b : Nat × Nat) : List (Nat × Nat) :=
  (span a.1 b.1).map (fun x => (x, a.2)) ++ ((span a.2 b.2).drop 1).map (fun y => (b.1, y))

/-- The flits of a message of this chip through the routers of each channel it crosses (R240, R493). [DESIGN CHOICE: log 92] -/
def State.countNoc (s : State) (m : Msg) : State :=
  let path := xyPath (s.router m.score) (s.router (bitsOf m.w0.toNat 9 0))
  s.each (List.range 4) (fun s ch =>
    let k := (path.filter (fun q => q.1 / 17 + 2 * (q.2 / 16) == ch)).length
    if k = 0 then s else s.count none ch ((s.partOfJob m.job).map (fun p => (p, m.ctx))) 0x24 (k * nocFlits m.total))

/-- CMDS (R321): command slots in use on a channel: host descriptors and attention commands. -/
def State.cmds (s : State) (n : Nat) : Nat :=
  (s.host.descs.filter (fun d => d.chan == n)).length + (s.noc.attn.filter (fun a => a.lead / 256 == n)).length

/-- R214: a message to the command port becomes an attention command while fewer than 4,096 commands are in flight on its
channel, descriptors among them (R281). A context that is torn down, or is no more, has none (R217). -/
def State.landCmd (s : State) (m : Msg) : State × Nat :=
  match s.partOfJob m.job with
  | none => (s, mNoJob)
  | some p =>
    if (s.ctx p m.ctx).state = .teardown || (s.ctx p m.ctx).state = .none then (s, 0)
    else (s.onNoc (fun n => { n with attn := n.attn ++ [⟨m.data, m.score, p, m.ctx, false, false, 0, 2 ^ 32 - 1, []⟩] }), 0)

/-- MESSAGE_ARRIVAL (R236): message `i` of those bound for this chip reaches its destination. One for a core that a migration
moves waits (R241), and one to a command port whose processor has no free slot (R214). A setpoint mailbox takes its own command
(R371). -/
def execMessageArrival (i : Nat) (s : State) : Host.Outcome State Fault Refusal :=
  ok (match s.noc.msgs[i]? with
    | none => s
    | some m =>
      if msgBehind s.own s.noc.msgs i m then s
      else
        match bitsOf m.w0.toNat 31 28 with
        | 0 =>
          if s.holds (bitsOf m.w0.toNat 9 0) then s
          else (if m.src = s.own then s.countNoc m else s).landMsg i m
        | 1 =>
          if 4096 ≤ s.cmds (m.score / 256) then s
          else
            let r := ((s.onNoc (fun n => { n with msgs := dropAt n.msgs i })).freeLanding m.src m.id).landCmd m
            r.1.reportTo m.src m.id r.2 false
        | _ => s)

/-- Whether a msg.send to the command port waits under credit: its processor's slots and the posts on their way come to 4,096
(R214). -/
def State.sendWaits (s : State) (c k : Nat) (o : UOp) : Bool :=
  match ((uRead c k o.aD 32).go s).1 with
  | .ok b => bitsOf (leNat (b.take 4)) 31 28 == 1
      && decide (4096 ≤ s.cmds (c / 256) + (s.noc.msgs.filter (fun m => bitsOf m.w0.toNat 31 28 == 1 && m.score / 256 == c / 256)).length)
  | .error _ => false

/-- What a message was accepted into is zeroed: the rest of it is refused (R142, R236). -/
def State.zeroStops (s : State) (c k : Nat) : State :=
  if s.noc.msgs.isEmpty then s
  else s.onNoc (fun n => { n with msgs := n.msgs.map (fun m =>
    if bitsOf m.w0.toNat 31 28 = 0 ∧ bitsOf m.w0.toNat 9 0 = c ∧ m.at_.map (·.1) = some k then
      { m with at_ := m.at_.map (fun d => (4, d.2)) }
    else m) })

/-! ### Teardown notices, writes to sync registers (R246, R250) -/

/-- TEARDOWN_NOTICE (R246): the chip abandons its objects for a context of another chip of its cluster. -/
def execTeardownNotice (i : Nat) (s : State) : Host.Outcome State Fault Refusal :=
  ok (match s.noc.notices[i]? with
    | none => s
    | some (job, ctx, chip) =>
      let s := s.onNoc (fun n => { n with notices := dropAt n.notices i })
      match s.partOfJob job with
      | none => s
      | some p => if chip / 16 = s.own / 16 then s.abandonAll p (holdWord true (chip % 16) ctx) else s)

/-- Requesters of register accesses (R7): 0 the PF, 1-4 the VFs, 5 the management port. Whether one reaches the sync
objects of a channel (R250). -/
def State.mayChan (s : State) (req ch : Nat) : Bool := req == 0 || req == 5 || (s.fnUp req && s.ownerOf ch == some (req - 1))

/-- R250: a write to CHn_SYNCi_CFG. -/
def State.writeSyncCfg (s : State) (req ch i : Nat) (v : Word) : State :=
  let obj := ch * 16384 + i
  let kind := getF v F.SYNC_CFG_KIND
  let new := BitVec.ofNat 32 (v.toNat / 2 ^ 29 * 2 ^ 29 + v.toNat % 2 ^ 16)
  if !s.mayChan req ch || kind = 3 || (kind = 1 && getF v F.SYNC_CFG_PARTIES = 0) then s
  else if new = s.rd (cfgReg obj) then s
  else (s.wr (cfgReg obj) new).resetObject obj

/-- R244 step 1, R250: a write to CHn_SYNCi_VALUE; the queue is then evaluated against the new value. -/
def State.writeSyncValue (s : State) (req ch i : Nat) (v : Word) : State :=
  let obj := ch * 16384 + i
  if !s.mayChan req ch then s else ((s.wr (valReg obj) v).noteUndo obj none id).evaluate obj

/-- SYNC_CFG_CHANGE (R250): a requester writes CHn_SYNCi_CFG. [DEDUCED: log 41] -/
def execSyncCfgChange (req ch i : Nat) (v : Word) (s : State) : Host.Outcome State Fault Refusal :=
  ok (if ch < 4 ∧ i < 16384 ∧ s.regTakes (R.SYNC_CFG ch i) then s.writeSyncCfg req ch i v else s)

/-- SYNC_VALUE_WRITE (R250): a requester writes CHn_SYNCi_VALUE. -/
def execSyncValueWrite (req ch i : Nat) (v : Word) (s : State) : Host.Outcome State Fault Refusal :=
  ok (if ch < 4 ∧ i < 16384 ∧ s.regTakes (R.SYNC_VALUE ch i) then s.writeSyncValue req ch i v else s)

end Sys2Proof.Machine
end

