-- ==== Sys2Proof/Machine/Reduce.lean ====
section
/-! DEFINITION. Sys2Proof/Machine/Reduce.lean: the canonical reduction network (R180-R194): nodes, homes, pushes, the CR
ports, roots. -/

namespace Sys2Proof.Machine

/-! ### Trees (R180, R188) -/

/-- Whether a node exists in a tree over L leaves (R180). -/
def Node.exists (n : Node) (L : Nat) : Bool :=
  if n.tail then bitOf L n.l && L % 2 ^ n.l != 0 && n.i == L / 2 ^ n.l - 1 && decide (n.l ≤ 24)
  else decide ((n.i + 1) * 2 ^ n.l ≤ L) && decide (n.l ≤ 24)

/-- next_above of R188: the next set bit of L above l; none when there is none. -/
def nextAbove (L l : Nat) : Option Nat := (List.range 25).find? (fun h => decide (l < h) && bitOf L h)

/-- parent of R188: a node's parent and side (true: right); none for the root. -/
def Node.parent (x : Node) (L : Nat) : Option (Node × Bool) :=
  let base := L / 2 ^ (x.l + 1) * 2 ^ (x.l + 1)
  if !x.tail && decide ((x.i + 1) * 2 ^ x.l ≤ base) then some (⟨false, x.l + 1, x.i / 2⟩, x.i % 2 == 1)
  else if !x.tail && L % 2 ^ x.l != 0 then some (⟨true, x.l, x.i⟩, false)
  else
    match nextAbove L x.l with
    | none => none
    | some h => some (⟨true, h, L / 2 ^ h - 1⟩, true)

/-- A tree-table entry (R184). -/
structure TreeEntry where
  valid : Bool
  fn : Nat
  L : Nat
  P : Nat
  plist : Nat
  dchip : Nat
  dcore : Nat
  daddr : Nat
  dstride : Nat
  dsync : Nat
  deriving DecidableEq, Repr

/-- The entry in its 8 words (R184). -/
def TreeEntry.ofWords (w : Nat → Nat) : TreeEntry where
  valid := bitOf (w 0) 31
  fn := bitsOf (w 0) 26 25
  L := bitsOf (w 0) 23 0 + 1
  P := bitsOf (w 1) 13 0 + 1
  plist := bitsOf (w 2) 23 0
  dchip := bitsOf (w 3) 13 10
  dcore := bitsOf (w 3) 9 0
  daddr := bitsOf (w 4) 21 0
  dstride := bitsOf (w 5) 15 0
  dsync := w 6

/-- Entry `tree` of a context's tree table; none beyond the table (R183, R184). -/
def State.treeEntry (s : State) (p x tree : Nat) : Option TreeEntry :=
  let t := s.ctx p x
  if tree < t.treeN then some (TreeEntry.ofWords (fun i => s.sliceU32 p (t.treeOff + 32 * tree + 4 * i))) else none

/-- Participant k of an entry (R185): cluster chip number and logical id. -/
def State.participant (s : State) (p : Nat) (e : TreeEntry) (k : Nat) : Nat × Nat :=
  let v := leNat (s.sliceBytes p (e.plist + 2 * k) 2)
  (bitsOf v 13 10, bitsOf v 9 0)

/-- Whether a core of this chip is a participant (R183). -/
def State.participates (s : State) (p : Nat) (e : TreeEntry) (core : Nat) : Bool :=
  (List.range e.P).any (fun k => s.participant p e k == (s.own % 16, core))

/-! ### Combining (R189) -/

/-- FP32 lanes of a partial. -/
def lanesOf (bs : List Byte) : List Nat := (List.range 32).map (fun j => leNat ((bs.drop (4 * j)).take 4))

/-- The parent of two children by FN, left first (R189). [DEDUCED: log 34] -/
def combine (fn : Nat) (a b : List Byte) : List Byte :=
  match fn with
  | 0 => (List.zipWith f32Add (lanesOf a) (lanesOf b)).flatMap (leBytes 4)
  | 1 => (List.zipWith f32Max (lanesOf a) (lanesOf b)).flatMap (leBytes 4)
  | _ => nodeDigest (a.take 32) (b.take 32)

/-! ### Travel (R188, R190) -/

/-- R193, R194: a child or root for another chip. -/
def State.sendFar (s : State) (chip : Nat) (w : WireChild) (c : Child) : State :=
  match s.firstHop chip (some w.job) 0 with
  | none => s.sendReport ⟨c.id, mNoRoute, false⟩
  | some l => (s.noteLink c.id l chip false).sendChild l w none

/-- A node of a context that will get a report: its identifier. Of a node that is no root nothing but R189's fault can come
(R128). [DEDUCED: log 31] -/
def State.awaitNode (s : State) (e : TreeEntry) (n : Node) (core p x pc faddr : Nat) (tok : Option Nat) : Nat × State :=
  let (id, s) := s.newId
  (id, s.onNoc (fun a => { a with awaits := a.awaits ++ [⟨id, core, p, x, pc, faddr, tok, none, (n.parent e.L).isSome, s.orderOf core false tok, none⟩] }))

/-- Where a root of an instance is written (R190). -/
def TreeEntry.rootAddr (e : TreeEntry) (inst : Nat) : Nat := e.daddr + inst * e.dstride * 32

/-- A node with its value sets out from the core that pushed or formed it: to the home of its parent, or, as the root, to its
destination (R188, R190). [DEDUCED: log 32] -/
def State.travel (s : State) (e : TreeEntry) (c : Child) : State :=
  let job := (s.part c.part).job
  let clu := s.own / 16 * 16
  let wire (dst dcore : Nat) (root : Bool) : WireChild :=
    ⟨dst, dcore, root, e.rootAddr c.inst, e.dsync, job, c.ctx, c.tree, c.inst, c.node.tail, c.node.l, c.node.i,
      c.val, s.own, c.src, c.id⟩
  match c.node.parent e.L with
  | none =>
    if e.dchip = s.own % 16 then
      s.onNoc (fun n => { n with roots := n.roots ++ [⟨{ c with dst := e.dcore }, e.rootAddr c.inst, e.dsync⟩] })
    else s.sendFar (clu + e.dchip) (wire (clu + e.dchip) e.dcore true) c
  | some (pn, _) =>
    let h := s.participant c.part e (pn.i % e.P)
    if h.1 = s.own % 16 then s.onNoc (fun n => { n with children := n.children ++ [{ c with dst := h.2 }] })
    else s.sendFar (clu + h.1) (wire (clu + h.1) h.2 false) c

/-- Whether a node leaves the chip (R312). -/
def State.leavesChip (s : State) (p : Nat) (e : TreeEntry) (n : Node) : Bool :=
  match n.parent e.L with
  | none => e.dchip != s.own % 16
  | some (pn, _) => (s.participant p e (pn.i % e.P)).1 != s.own % 16

/-- The node a tag names (R182). -/
def tagNode (c0 : Word) : Node := ⟨bitOf c0.toNat 29, ctl c0 28 24, ctl c0 23 0⟩

/-- cr.push as it takes effect (R124, R183): the entry's checks fault with FADDR 0, and the partial never leaves. [DEDUCED: log 32, 34] -/
def uPush (c k : Nat) (o : UOp) : U Unit := do
  let bs ← uRead c k o.aA 128
  let s ← get
  let own := s.ownerIn c k
  let tree := ctl o.c1 11 0
  let nd := tagNode o.c0
  match s.treeEntry own.1 own.2 tree with
  | none => throw ⟨fOperand, 0⟩
  | some e =>
    if !e.valid || e.fn != o.fn || !nd.exists e.L || !s.participates own.1 e c then throw ⟨fOperand, 0⟩
    let (id, s) := s.awaitNode e nd c own.1 own.2 o.pc o.aA.toNat (some o.tok)
    let s := s.count (some c) (chanOf c) (some own) 0x0D 1
    let s := if s.leavesChip own.1 e nd then s.leaves c k else s
    set (s.travel e ⟨own.1, own.2, tree, ctl o.c1 19 12, nd, if e.fn = 2 then bs.take 32 else bs, s.own, c, 0, id⟩)

/-! ### The CR ports (R189, R191, R192) -/

/-- The children held at one core. -/
def State.heldAt (s : State) (core : Nat) : List HeldChild := s.noc.heldCr.filter (fun h => h.core == core)

/-- HELD of CR_STAT: children held in a channel's CR ports (R203). -/
def State.heldIn (s : State) (ch : Nat) : Nat := (s.noc.heldCr.filter (fun h => h.core / 256 == ch)).length

/-- R203: PEAK follows the largest number held at one core. -/
def State.notePeak (s : State) (core : Nat) : State :=
  let r := R.CR_STAT (core / 256)
  s.setFld r F.CR_STAT_PEAK (max (s.fld r F.CR_STAT_PEAK) (s.heldAt core).length)

/-- The sibling that a child meets: the other side of its parent, of the same instance. A child held under its own tag is nobody's (R186). -/
def sibling (c : Child) (pn : Node) (side : Bool) (h : HeldChild) : Bool :=
  !h.lost && h.core == c.dst && h.parent == pn && h.side == side && h.child.part == c.part && h.child.ctx == c.ctx
    && h.child.tree == c.tree && h.child.inst == c.inst

/-- An await settled without a fault. [DEDUCED: log 31] -/
def State.settleAwait (s : State) (c : Child) (code : Nat) : State :=
  if c.chip = s.own then s.applyReport ⟨c.id, code, false⟩ else s.sendCtrl c.chip (.report c.chip c.id code false)

/-- A child's entry, parent and side as its home's own table gives them (R188). Where that table has no valid entry, or takes the node
for the root, no parent can be formed: the child waits under its own tag (R186). [DESIGN CHOICE: log 111] -/
def State.placeOf (s : State) (c : Child) : Option TreeEntry × Node × Bool :=
  match s.treeEntry c.part c.ctx c.tree with
  | none => (none, c.node, false)
  | some e =>
    match c.node.parent e.L with
    | some (pn, side) => if e.valid then (some e, pn, side) else (none, c.node, false)
    | none => (none, c.node, false)

/-- R189: two children meet at the home: both entries are freed and their parent sets out. [DEDUCED: log 31] -/
def State.meet (s : State) (e : TreeEntry) (c : Child) (pn : Node) (side : Bool) (h : HeldChild) : State :=
  let s := s.onNoc (fun n => { n with heldCr := n.heldCr.filter (fun q => q != h) })
  let s := s.settleAwait c 0
  let v := if side then combine e.fn h.child.val c.val else combine e.fn c.val h.child.val
  let (id, s) := s.awaitNode e pn c.dst c.part c.ctx 0 0 none
  let s := if s.leavesChip c.part e pn then s.ctxLeaves c.part c.ctx else s
  s.travel e { c with node := pn, val := v, chip := s.own, src := c.dst, id := id }

/-- R189: a child arrives at its parent's home: discarded when its side is held, combined when its sibling is held, else held
while the port has room; none when it must wait (R191). [DEDUCED: log 31; DESIGN CHOICE: log 111] -/
def State.childArrives (s : State) (e : Option TreeEntry) (c : Child) (pn : Node) (side : Bool) : Option State :=
  if e.isSome && s.noc.heldCr.any (sibling c pn side) then some (s.settleAwait c crOccupied)
  else
    match e, s.noc.heldCr.find? (sibling c pn (!side)) with
    | some e, some h => some (s.meet e c pn side h)
    | _, _ =>
      if 64 ≤ (s.heldAt c.dst).length then none
      else
        let s := s.onNoc (fun n => { n with heldCr := n.heldCr ++ [⟨c.dst, pn, side, c, e.isNone⟩] })
        some ((s.notePeak c.dst).settleAwait c 0)

/-- DISCARDED of each channel for whose CR ports some of the partials were bound, or which held them, counts their instances, each once in
the context's step (R203). [DESIGN CHOICE: log 112] -/
def State.countDiscarded (s : State) (cs : List Child) : State :=
  let ks := ((cs.map (fun c => (c.part, c.ctx, c.dst / 256, c.tree, c.inst))).eraseDups).filter (fun k => !s.noc.discarded.contains k)
  (s.each ks (fun s k => s.incFld (R.CR_STAT k.2.2.1) F.CR_STAT_DISCARDED 1)).onNoc (fun n => { n with discarded := n.discarded ++ ks })

/-- Whether a context is in teardown, or is none of its partition: what is bound for it is discarded (R192). -/
def State.ctxGone (s : State) (p x : Nat) : Bool := (s.ctx p x).state == .teardown || (s.ctx p x).state == .none

/-- CR_CHILD_ARRIVAL (R189): child `i` reaches its home. A child of a context that is torn down is discarded (R192); one for a core
that a migration moves waits (R241). [DEDUCED: log 32] -/
def execCrChildArrival (i : Nat) (s : State) : Host.Outcome State Fault Refusal :=
  ok (match s.noc.children[i]? with
    | none => s
    | some c =>
      let gone := s.onNoc (fun n => { n with children := dropAt n.children i })
      if s.ctxGone c.part c.ctx then (gone.countDiscarded [c]).settleAwait c 0
      else if s.holds c.dst then s
      else
        let q := s.placeOf c
        (gone.childArrives q.1 c q.2.1 q.2.2).getD s)

/-- The home that the child of a cr.push goes to, its parent and its side, where its entry passes the checks of R183 and it is no root. -/
def State.pushHome (s : State) (c k : Nat) (o : UOp) : Option ((Nat × Nat) × Node × Bool) :=
  let own := s.ownerIn c k
  let nd := tagNode o.c0
  match s.treeEntry own.1 own.2 (ctl o.c1 11 0) with
  | none => none
  | some e =>
    match nd.parent e.L with
    | none => none
    | some (pn, side) =>
      if e.valid && e.fn == o.fn && nd.exists e.L && s.participates own.1 e c then some (s.participant own.1 e (pn.i % e.P), pn, side)
      else none

/-- Whether the child of a cr.push goes to another chip. -/
def State.pushFar (s : State) (c k : Nat) (o : UOp) : Bool := (s.pushHome c k o).any (fun h => h.1.1 != s.own % 16)

/-- Whether a cr.push waits with its child (R191): the home on this chip must hold it and its port is full, or will be by the children on
their way; or its home is on another chip, and has not yet reported that it holds or has combined it. [DEDUCED: log 32] -/
def State.pushWaits (s : State) (c k : Nat) (o : UOp) : Bool :=
  match s.pushHome c k o with
  | none => false
  | some (h, pn, side) =>
    if h.1 = s.own % 16 then
      let own := s.ownerIn c k
      let ch : Child := ⟨own.1, own.2, ctl o.c1 11 0, ctl o.c1 19 12, tagNode o.c0, [], s.own, c, h.2, 0⟩
      decide (64 ≤ (s.heldAt h.2).length + (s.noc.children.filter (fun q => q.dst == h.2)).length)
        && !s.noc.heldCr.any (fun q => sibling ch pn side q || sibling ch pn (!side) q)
    else
      match (s.core c).posted.get none o.tok with
      | none => true
      | some id => s.noc.awaits.any (fun a => a.id == id)

/-- The signal of a root that has been written (R190): DSYNC acts as a handle of the core that formed or pushed the root, so its SCOPE 0
is that core's chip. [DEDUCED: log 32] -/
def State.rootSignal (s : State) (r : Root) : State :=
  let c := r.child
  match s.handleFrom c.chip r.dsync (s.part c.part).chmask with
  | .refused => s.reportTo c.chip c.id mNoJob true
  | .here obj => (s.applySignal obj 1 (some (holdWord (c.chip != s.own) (c.chip % 16) c.ctx))).reportTo c.chip c.id 0 false
  | .far chip obj =>
    match s.firstHop chip none 0 with
    | none => s.reportTo c.chip c.id mNoRoute true
    | some l =>
      let s := if c.chip = s.own then (s.noteLink c.id l chip true).ctxLeaves c.part c.ctx else s
      s.enqueue l [recFlit (.syncOp chip c.chip 3 obj 1 (s.part c.part).job c.ctx c.src c.id)]

/-- ROOT_DELIVERY (R190): root `i` reaches its destination window, is checked as a message is, written, and DSYNC is
signalled with argument 1 after the bytes are visible. An address of 2^22 or more lies beyond every window. A root of a context that
is torn down here is discarded (R192). [DEDUCED: log 32, 33] -/
def execRootDelivery (i : Nat) (s : State) : Host.Outcome State Fault Refusal :=
  ok (match s.noc.roots[i]? with
    | none => s
    | some r =>
      let c := r.child
      let gone := s.onNoc (fun n => { n with roots := dropAt n.roots i })
      if (s.ctx c.part c.ctx).state = .teardown then gone.settleAwait c 0
      else if s.holds c.dst then s
      else
        match gone.destCheck c.part c.ctx c.dst (BitVec.ofNat 32 (min r.daddr (2 ^ 22 - 1))) c.val.length with
        | .error code => gone.reportTo c.chip c.id code false
        | .ok d => (gone.place c.dst d c.val).rootSignal r)

/-- R192: the partials of a context are discarded, held or in flight; DISCARDED of each channel whose CR ports hold or await one of
an instance counts it, once. Answers whether any was. [DESIGN CHOICE: log 112] -/
def State.dropPartials (s : State) (p x : Nat) : State × Bool :=
  let mine (c : Child) : Bool := c.part == p && c.ctx == x
  let inc := (s.noc.heldCr.map (·.child) ++ s.noc.children).filter mine
  let s := s.countDiscarded inc
  (s.onNoc (fun n => { n with
    heldCr := n.heldCr.filter (fun h => !mine h.child)
    children := n.children.filter (fun c => !mine c)
    roots := n.roots.filter (fun r => !mine r.child) }), !inc.isEmpty)

end Sys2Proof.Machine
end

