-- ==== Sys2Proof/Machine/Array.lean ====
section
/-! DEFINITION. Sys2Proof/Machine/Array.lean: the matrix array's arithmetic and its operations mx.wload, mx.tile, mx.fin
as they take effect (R36-R42, R106-R111, R149-R161). -/

namespace Sys2Proof.Machine

/-! ### Element types and leaves -/

/-- The element format of an array type (R106). -/
def tyElem (t : Nat) : VType :=
  match t with
  | 0 | 13 => .int8
  | 1 => .int4
  | 2 => .int16
  | 3 | 5 => .e4m3
  | 4 | 6 => .e5m2
  | 7 => .e2m3
  | 8 => .e3m2
  | 9 => .e2m1
  | 10 => .mxint8
  | 12 => .fp16
  | _ => .bf16

/-- Codes per element: 2 for complex types (R106). -/
def tyParts (t : Nat) : Nat := if tyCplx t then 2 else 1

/-- The bytes of `n` elements of an array type, back to back (R30, R106). -/
def tySize (t n : Nat) : Nat := (tyElem t).size (n * tyParts t)

/-- The code of weight (k, n), part p: 0 in the zeroed tile (R111). -/
def WTile.code (t : WTile) (cx k n p : Nat) : Nat := nth 0 (nth [] t.rows k) (n * cx + p)

/-- The scale byte of column n in K block b; 2^0 in the zeroed tile. -/
def WTile.scale (t : WTile) (b n : Nat) : Nat := if t.scales.isEmpty then 127 else nth 127 t.scales (32 * b + n)

/-- The results of one vector (R149): exact sums for integer pairings, leaves in K order for the others; re and im
each hold 32 columns per leaf (im only for complex pairings). -/
structure VecOut where
  ire : List Int
  iim : List Int
  fre : List (List Nat)
  fim : List (List Nat)
  deriving DecidableEq, Repr

/-- The exact integer sum of products along K (R37): x is a list of codes, part `px` of each input element with part
`pw` of each weight. -/
def intSum (cx : Nat) (tx : VType) (tw : VType) (x : List Nat) (t : WTile) (K n px pw : Nat) : Int :=
  ((List.range K).map (fun k => sx tx.bits (nth 0 x (k * cx + px)) * sx tw.bits (t.code cx k n pw))).foldl (· + ·) 0

/-- The leaf of a K block of FP8 or MX operands (R38, R39): exact sum of 32 products, one scale, one rounding.
An integer code 0 is +0, so its product with a negative element is -0. [DEDUCED: log 109] -/
def blockLeaf (it wt : Nat) (x : List Nat) (xs : List Nat) (t : WTile) (b n : Nat) : Nat :=
  let ps := (List.range 32).map (fun k =>
    ((tyElem it).decode (nth 0 x (32 * b + k))).mul ((tyElem wt).decode (t.code 1 (32 * b + k) n 0)))
  if tyMx it then
    match e8m0 (nth 127 xs b), e8m0 (t.scale b n) with
    | some a, some w => leafOf ps (a + w)
    | _, _ => FFmt.fp32.nan
  else leafOf ps 0

/-- The leaf of a pass of BF16 or FP16 operands (R40). -/
def passLeaf (cx : Nat) (it wt : Nat) (x : List Nat) (t : WTile) (n px pw : Nat) : Nat :=
  passSum16 ((List.range 32).map (fun k =>
    FFmt.fp32.round (((tyElem it).decode (nth 0 x (k * cx + px))).mul ((tyElem wt).decode (t.code cx k n pw)))))

/-- The results of one vector through the active tile (R37-R42). -/
def vecOut (it : Nat) (x xs : List Nat) (t : WTile) : VecOut :=
  let cols := List.range 32
  let wt := t.wt.getD it
  let e := tyElem it
  let w := tyElem wt
  let K := kLen it
  if it = 13 then
    ⟨cols.map (fun n => intSum 2 e w x t 32 n 0 0 - intSum 2 e w x t 32 n 1 1),
     cols.map (fun n => intSum 2 e w x t 32 n 0 1 + intSum 2 e w x t 32 n 1 0), [], []⟩
  else if tyInt it then ⟨cols.map (fun n => intSum 1 e w x t K n 0 0), [], [], []⟩
  else if it = 14 then
    ⟨[], [], [cols.map (fun n => f32Sub (passLeaf 2 it wt x t n 0 0) (passLeaf 2 it wt x t n 1 1))],
     [cols.map (fun n => f32Add (passLeaf 2 it wt x t n 0 1) (passLeaf 2 it wt x t n 1 0))]⟩
  else if it = 11 || it = 12 then ⟨[], [], [cols.map (fun n => passLeaf 1 it wt x t n 0 0)], []⟩
  else ⟨[], [], (List.range (K / 32)).map (fun b => cols.map (fun n => blockLeaf it wt x xs t b n)), []⟩

/-! ### Results in memory (R110) -/

/-- An s48 sum in memory: NATIVE sign-extended to 8 bytes, INT32 saturated (R110). -/
def intBytes (out : Nat) (v : Int) : List Byte :=
  if out = 0 then leBytes 8 (wrapN 64 (wrapS 48 v)) else leBytes 4 (wrapN 32 (satS 32 (wrapS 48 v)))

/-- An FP32 result in memory: NATIVE as it is, BF16 rounded (R110). -/
def fpBytes (out : Nat) (v : Nat) : List Byte := if out = 2 then leBytes 2 (bf16OfF32 v) else leBytes 4 v

/-- Bytes of `m` rows of 32 results (R110). -/
def outSize (int : Bool) (out m : Nat) : Nat :=
  m * 32 * (if int then (if out = 0 then 8 else 4) else (if out = 2 then 2 else 4))

/-! ### Accumulator sets (R109, R157, R158) -/

/-- A set emptied for a pairing and M, FIRST of R109. -/
def AccSet.first (it : Nat) (wt : Option Nat) (m : Nat) : AccSet :=
  let z : List (List Nat) := List.replicate (m * 32) []
  let i : List Int := List.replicate (m * 32) 0
  ⟨true, it, wt, m, 0, z, if tyCplx it then z else [], i, if tyCplx it then i else []⟩

/-- One leaf pushed onto every column's stack of every row (R158). -/
def pushAll (n : Nat) (levels : List (List Nat)) (leaf : List Nat) : List (List Nat) :=
  List.zipWith (fun st v => pushLvl f32Add n st 0 v) levels leaf

/-- The rows of an operation pushed into a set: exact sums modulo 2^48, or leaf 0 (and leaf 1) of every row (R161). -/
def AccSet.push (a : AccSet) (rows : List VecOut) : AccSet :=
  if tyInt a.it then
    { a with
      ire := List.zipWith (fun x y => wrapS 48 (x + y)) a.ire (rows.flatMap (·.ire))
      iim := List.zipWith (fun x y => wrapS 48 (x + y)) a.iim (rows.flatMap (·.iim)) }
  else
    (List.range (kLen a.it / 32)).foldl (fun a j =>
      { a with
        n := a.n + 1
        fre := pushAll a.n a.fre (rows.flatMap (fun r => nth [] r.fre j))
        fim := pushAll a.n a.fim (rows.flatMap (fun r => nth [] r.fim j)) }) a

/-- The bytes mx.fin writes (R110, R158): the folded rows, real block then imaginary block. -/
def AccSet.bytes (a : AccSet) (out : Nat) : List Byte :=
  if tyInt a.it then (a.ire ++ a.iim).flatMap (intBytes out)
  else (a.fre ++ a.fim).flatMap (fun st => fpBytes out ((foldLvl f32Add a.n 0 st none).getD 0))

/-- The accumulator set that ASET names. -/
def CoreSt.acc (x : CoreSt) (i : Nat) : AccSet := if i = 0 then x.acc0 else x.acc1

/-- The plies of an operation of the array (R127, R152): P for each of its M vectors; none for any other operation. [DESIGN CHOICE: log 92] -/
def UOp.plies (o : UOp) : Nat :=
  if o.kind ≠ .tile ∧ o.kind ≠ .window then 0
  else (match o.ty with
    | 11 => 2
    | 2 | 12 | 13 => 4
    | 14 => 8
    | _ => 1) * o.m

/-- An accumulator set replaced. -/
def CoreSt.setAcc (x : CoreSt) (i : Nat) (a : AccSet) : CoreSt := if i = 0 then { x with acc0 := a } else { x with acc1 := a }

/-! ### The operations -/

/-- mx.wload (R108): the tile goes into the shadow. -/
def uWload (c k : Nat) (o : UOp) : U Unit := do
  let wt := o.ty
  let pair8 := bitOf o.c0.toNat 24
  let rows := if (wt = 1 || wt = 9) && !pair8 then 64 else 32
  let cx := tyParts wt
  let rs ← uItems c k o.aA rows (tySize wt 32)
  let sc ← if tyMx wt then uRead c k o.aB (rows / 32 * 32) else pure []
  let t : WTile := ⟨some wt, pair8, rs.map (fun b => (tyElem wt).elems b (32 * cx)), sc.map (·.toNat)⟩
  modify (fun s => s.onCore c (fun x => { x with shadow := some t }))

/-- Whether the set's recorded M and pairing admit a NEXT (R109, R111). [DEDUCED: log 16] -/
def AccSet.admits (a : AccSet) (it m : Nat) (wt : Option Nat) : Bool :=
  a.m == m && a.it == it && (a.wt.isNone || wt.isNone || a.wt == wt)

/-- The start of mx.tile and cw.window (R106, R108, R109, R111): the shadow becomes active; a pairing or a pass length that
does not fit the tile, and a NEXT that does not fit its set, fault. -/
def uTileStart (c _k : Nat) (o : UOp) : U Unit := do
  modify (fun s => s.onCore c (fun x =>
    match x.shadow with
    | some t => { x with act := t, shadow := none }
    | none => x))
  let s ← get
  let x := s.core c
  let it := o.ty
  match x.act.wt with
  | some wt => if !pairOk it wt || x.act.rows.length != kLen it then throw ⟨fOperand, 0⟩
  | none => pure ()
  let a := x.acc o.aset
  if o.fn = 1 && a.used then
    if !a.admits it o.m x.act.wt then throw ⟨fOperand, 0⟩
    if !tyInt it && decide (2 ^ 24 < a.n + kLen it / 32) then throw ⟨fOperand, 0⟩

/-- What mx.tile and cw.window do with their vectors (R109): FIRST and NEXT push into the set, WRITE writes each row's own
result, leaf 0 + leaf 1 for a two-leaf pass. -/
def uTileEnd (c k : Nat) (o : UOp) (vs : List (List Nat × List Nat)) : U Unit := do
  let s ← get
  let x := s.core c
  let it := o.ty
  let rows := vs.map (fun v => vecOut it v.1 v.2 x.act)
  if o.fn = 2 then
    let dst ← uDest c k o.aD (outSize (tyInt it) o.out o.m * tyParts it)
    let bs : List Byte :=
      if tyInt it then (rows.flatMap (·.ire) ++ rows.flatMap (·.iim)).flatMap (intBytes o.out)
      else
        let join (ls : List (List Nat)) : List Nat :=
          match ls with
          | [a, b] => List.zipWith f32Add a b
          | _ => ls.headD []
        (rows.flatMap (fun r => join r.fre) ++ rows.flatMap (fun r => join r.fim)).flatMap (fpBytes o.out)
    uPut c k dst bs
  else
    let a := x.acc o.aset
    let a := if o.fn = 0 || !a.used then AccSet.first it x.act.wt o.m else a
    let a := if a.wt.isNone then { a with wt := x.act.wt } else a
    modify (fun s => s.onCore c (fun x => x.setAcc o.aset (a.push rows)))

/-- mx.tile (R109). -/
def uTile (c k : Nat) (o : UOp) : U Unit := do
  uTileStart c k o
  let it := o.ty
  let K := kLen it
  let xs ← uItems c k o.aA o.m (tySize it K)
  let sc ← if tyMx it then uRead c k o.aB (o.m * (K / 32)) else pure []
  let sn := sc.map (·.toNat)
  uTileEnd c k o (xs.zipIdx.map (fun b => ((tyElem it).elems b.1 (K * tyParts it), (sn.drop (b.2 * (K / 32))).take (K / 32))))

/-- mx.fin (R110): an empty set writes 32 rows of zeros in the format OUT names. -/
def uFin (c k : Nat) (o : UOp) : U Unit := do
  let s ← get
  let a := (s.core c).acc o.aset
  if a.used then
    if outBad (tyInt a.it) o.finOut then throw ⟨fOperand, 0⟩
    let dst ← uDest c k o.aD (outSize (tyInt a.it) o.finOut a.m * tyParts a.it)
    uPut c k dst (a.bytes o.finOut)
  else
    let n := outSize false o.finOut 32
    let dst ← uDest c k o.aD n
    uPut c k dst (List.replicate n 0#8)
  modify (fun s => s.onCore c (fun x => x.setAcc o.aset .empty))

end Sys2Proof.Machine
end

