-- ==== Sys2Proof/Machine/Efn.lean ====
section
/-! DEFINITION. Sys2Proof/Machine/Efn.lean: the elementary functions of the vector unit (R43-R49): the tables of
R44 (each entry computed from its exact real value and rounded to FP32, nearest even), the constants of R45, the
kernels of R47 and R48 as they are written, and the fixed cases of R49. -/

namespace Sys2Proof.Machine

/-- TX[j] = 2^(j/64) (R44). -/
def tabTX : List Nat :=
  [0x3F800000, 0x3F8164D2, 0x3F82CD87, 0x3F843A29, 0x3F85AAC3, 0x3F871F62, 0x3F88980F, 0x3F8A14D5,
   0x3F8B95C2, 0x3F8D1ADF, 0x3F8EA43A, 0x3F9031DC, 0x3F91C3D3, 0x3F935A2B, 0x3F94F4F0, 0x3F96942D] ++
  [0x3F9837F0, 0x3F99E046, 0x3F9B8D3A, 0x3F9D3EDA, 0x3F9EF532, 0x3FA0B051, 0x3FA27043, 0x3FA43516,
   0x3FA5FED7, 0x3FA7CD94, 0x3FA9A15B, 0x3FAB7A3A, 0x3FAD583F, 0x3FAF3B79, 0x3FB123F6, 0x3FB311C4] ++
  [0x3FB504F3, 0x3FB6FD92, 0x3FB8FBAF, 0x3FBAFF5B, 0x3FBD08A4, 0x3FBF179A, 0x3FC12C4D, 0x3FC346CD,
   0x3FC5672A, 0x3FC78D75, 0x3FC9B9BE, 0x3FCBEC15, 0x3FCE248C, 0x3FD06334, 0x3FD2A81E, 0x3FD4F35B] ++
  [0x3FD744FD, 0x3FD99D16, 0x3FDBFBB8, 0x3FDE60F5, 0x3FE0CCDF, 0x3FE33F89, 0x3FE5B907, 0x3FE8396A,
   0x3FEAC0C7, 0x3FED4F30, 0x3FEFE4BA, 0x3FF28177, 0x3FF5257D, 0x3FF7D0DF, 0x3FFA83B3, 0x3FFD3E0C]

/-- TR[j] = 1 / (1 + j/64) (R44). -/
def tabTR : List Nat :=
  [0x3F800000, 0x3F7C0FC1, 0x3F783E10, 0x3F74898D, 0x3F70F0F1, 0x3F6D7304, 0x3F6A0EA1, 0x3F66C2B4,
   0x3F638E39, 0x3F607038, 0x3F5D67C9, 0x3F5A740E, 0x3F579436, 0x3F54C77B, 0x3F520D21, 0x3F4F6475] ++
  [0x3F4CCCCD, 0x3F4A4588, 0x3F47CE0C, 0x3F4565C8, 0x3F430C31, 0x3F40C0C1, 0x3F3E82FA, 0x3F3C5264,
   0x3F3A2E8C, 0x3F381703, 0x3F360B61, 0x3F340B41, 0x3F321643, 0x3F302C0B, 0x3F2E4C41, 0x3F2C7692] ++
  [0x3F2AAAAB, 0x3F28E83F, 0x3F272F05, 0x3F257EB5, 0x3F23D70A, 0x3F2237C3, 0x3F20A0A1, 0x3F1F1166,
   0x3F1D89D9, 0x3F1C09C1, 0x3F1A90E8, 0x3F191F1A, 0x3F17B426, 0x3F164FDA, 0x3F14F209, 0x3F139A86] ++
  [0x3F124925, 0x3F10FDBC, 0x3F0FB824, 0x3F0E7835, 0x3F0D3DCB, 0x3F0C08C1, 0x3F0AD8F3, 0x3F09AE41,
   0x3F088889, 0x3F0767AB, 0x3F064B8A, 0x3F053408, 0x3F042108, 0x3F03126F, 0x3F020821, 0x3F010204]

/-- TL[j].lg = log2 c_j (R44). -/
def tabTLlg : List Nat :=
  [0xBED47FCC, 0xBECCD839, 0xBEC544C0, 0xBEBDC4F8, 0xBEB6587B, 0xBEAEFEE8, 0xBEA7B7DE, 0xBEA08301,
   0xBE995FF7, 0xBE924E69, 0xBE8B4E03, 0xBE845E70, 0xBE7AFEC5, 0xBE6D6117, 0xBE5FE33D, 0xBE5284A6] ++
  [0xBE4544C0, 0xBE382302, 0xBE2B1EE1, 0xBE1E37DB, 0xBE116D6E, 0xBE04BF1C, 0xBDF058D7, 0xBDD769C9,
   0xBDBEB025, 0xBDA62B08, 0xBD8DD995, 0xBD6B75E9, 0xBD3B9CA6, 0xBD0C25C7, 0xBCBA1F74, 0xBC3963DD] ++
  [0x00000000, 0x3CB73CB4, 0x3D35D69C, 0x3D8759C5, 0x3DB31FB8, 0x3DDE4212, 0x3E0462C4, 0x3E19574F,
   0x3E2E00D2, 0x3E42615F, 0x3E567AF1, 0x3E6A4F72, 0x3E7DE0B6, 0x3E88983F, 0x3E92203D, 0x3E9B8926] ++
  [0x3EA4D3C2, 0x3EAE00D2, 0x3EB7110E, 0x3EC0052B, 0x3EC8DDD4, 0x3ED19BB0, 0x3EDA3F60, 0x3EE2C97D,
   0x3EEB3A9F, 0x3EF39355, 0x3EFBD42B, 0x3F01FED4, 0x3F060828, 0x3F0A0650, 0x3F0DF989, 0x3F11E20F]

/-- TL[j].inv = 1 / c_j (R44). -/
def tabTLinv : List Nat :=
  [0x3FAAAAAB, 0x3FA8E83F, 0x3FA72F05, 0x3FA57EB5, 0x3FA3D70A, 0x3FA237C3, 0x3FA0A0A1, 0x3F9F1166,
   0x3F9D89D9, 0x3F9C09C1, 0x3F9A90E8, 0x3F991F1A, 0x3F97B426, 0x3F964FDA, 0x3F94F209, 0x3F939A86] ++
  [0x3F924925, 0x3F90FDBC, 0x3F8FB824, 0x3F8E7835, 0x3F8D3DCB, 0x3F8C08C1, 0x3F8AD8F3, 0x3F89AE41,
   0x3F888889, 0x3F8767AB, 0x3F864B8A, 0x3F853408, 0x3F842108, 0x3F83126F, 0x3F820821, 0x3F810204] ++
  [0x3F800000, 0x3F7C0FC1, 0x3F783E10, 0x3F74898D, 0x3F70F0F1, 0x3F6D7304, 0x3F6A0EA1, 0x3F66C2B4,
   0x3F638E39, 0x3F607038, 0x3F5D67C9, 0x3F5A740E, 0x3F579436, 0x3F54C77B, 0x3F520D21, 0x3F4F6475] ++
  [0x3F4CCCCD, 0x3F4A4588, 0x3F47CE0C, 0x3F4565C8, 0x3F430C31, 0x3F40C0C1, 0x3F3E82FA, 0x3F3C5264,
   0x3F3A2E8C, 0x3F381703, 0x3F360B61, 0x3F340B41, 0x3F321643, 0x3F302C0B, 0x3F2E4C41, 0x3F2C7692]

/-- TS[j].rs = 1 / sqrt d_j (R44). -/
def tabTSrs : List Nat :=
  [0x3F800000, 0x3F7C1764, 0x3F785B42, 0x3F74C867, 0x3F715BEF, 0x3F6E133E, 0x3F6AEBF5, 0x3F67E3ED,
   0x3F64F92E, 0x3F6229ED, 0x3F5F7483, 0x3F5CD76E, 0x3F5A514A, 0x3F57E0CF, 0x3F5584CD, 0x3F533C2E] ++
  [0x3F5105EC, 0x3F4EE116, 0x3F4CCCCD, 0x3F4AC83F, 0x3F48D2AB, 0x3F46EB5A, 0x3F4511A3, 0x3F4344E6,
   0x3F41848F, 0x3F3FD012, 0x3F3E26EB, 0x3F3C889F, 0x3F3AF4BA, 0x3F396ACE, 0x3F37EA74, 0x3F36734A] ++
  [0x3F3504F3, 0x3F32416A, 0x3F2F9D53, 0x3F2D166C, 0x3F2AAAAB, 0x3F285835, 0x3F261D5F, 0x3F23F8A2,
   0x3F21E89B, 0x3F1FEC04, 0x3F1E01B3, 0x3F1C2896, 0x3F1A5FB2, 0x3F18A61F, 0x3F16FB06, 0x3F155DA2] ++
  [0x3F13CD3A, 0x3F124925, 0x3F10D0C3, 0x3F0F6381, 0x3F0E00D5, 0x3F0CA83F, 0x3F0B5948, 0x3F0A137D,
   0x3F08D677, 0x3F07A1D2, 0x3F067532, 0x3F05503E, 0x3F0432A5, 0x3F031C1A, 0x3F020C52, 0x3F01030A]

/-- TS[j].inv = 1 / d_j (R44). -/
def tabTSinv : List Nat :=
  [0x3F800000, 0x3F783E10, 0x3F70F0F1, 0x3F6A0EA1, 0x3F638E39, 0x3F5D67C9, 0x3F579436, 0x3F520D21,
   0x3F4CCCCD, 0x3F47CE0C, 0x3F430C31, 0x3F3E82FA, 0x3F3A2E8C, 0x3F360B61, 0x3F321643, 0x3F2E4C41] ++
  [0x3F2AAAAB, 0x3F272F05, 0x3F23D70A, 0x3F20A0A1, 0x3F1D89D9, 0x3F1A90E8, 0x3F17B426, 0x3F14F209,
   0x3F124925, 0x3F0FB824, 0x3F0D3DCB, 0x3F0AD8F3, 0x3F088889, 0x3F064B8A, 0x3F042108, 0x3F020821] ++
  [0x3F000000, 0x3EF83E10, 0x3EF0F0F1, 0x3EEA0EA1, 0x3EE38E39, 0x3EDD67C9, 0x3ED79436, 0x3ED20D21,
   0x3ECCCCCD, 0x3EC7CE0C, 0x3EC30C31, 0x3EBE82FA, 0x3EBA2E8C, 0x3EB60B61, 0x3EB21643, 0x3EAE4C41] ++
  [0x3EAAAAAB, 0x3EA72F05, 0x3EA3D70A, 0x3EA0A0A1, 0x3E9D89D9, 0x3E9A90E8, 0x3E97B426, 0x3E94F209,
   0x3E924925, 0x3E8FB824, 0x3E8D3DCB, 0x3E8AD8F3, 0x3E888889, 0x3E864B8A, 0x3E842108, 0x3E820821]

/-- TE[j].a0 = erf z_j (R44). -/
def tabTE0 : List Nat :=
  [0x3D1062B2, 0x3DD80409, 0x3E331506, 0x3E78C855, 0x3E9E4D54, 0x3EBF0ACA, 0x3EDE67F6, 0x3EFC37D5,
   0x3F0C2AD3, 0x3F1952A6, 0x3F2589B9, 0x3F30CAAB, 0x3F3B1438, 0x3F4468E7, 0x3F4CCEA1, 0x3F544E43] ++
  [0x3F5AF318, 0x3F60CA59, 0x3F65E2A6, 0x3F6A4B88, 0x3F6E14FE, 0x3F714F11, 0x3F74097E, 0x3F765366,
   0x3F783B18, 0x3F79CDE1, 0x3F7B17F4, 0x3F7C2456, 0x3F7CFCDD, 0x3F7DAA32, 0x3F7E33DE, 0x3F7EA05F] ++
  [0x3F7EF537, 0x3F7F370C, 0x3F7F69BA, 0x3F7F9070, 0x3F7FADC8, 0x3F7FC3D9, 0x3F7FD450, 0x3F7FE081,
   0x3F7FE975, 0x3F7FEFFD, 0x3F7FF4B5, 0x3F7FF819, 0x3F7FFA82, 0x3F7FFC36, 0x3F7FFD68, 0x3F7FFE3D] ++
  [0x3F7FFED0, 0x3F7FFF34, 0x3F7FFF79, 0x3F7FFFA7, 0x3F7FFFC6, 0x3F7FFFDA, 0x3F7FFFE8, 0x3F7FFFF0,
   0x3F7FFFF6, 0x3F7FFFFA, 0x3F7FFFFC, 0x3F7FFFFE, 0x3F7FFFFF, 0x3F7FFFFF, 0x3F7FFFFF, 0x3F800000]

/-- TE[j].a1 = erf' z_j (R44). -/
def tabTE1 : List Nat :=
  [0x3F904AA3, 0x3F8F2B2E, 0x3F8CF2F5, 0x3F89AF18, 0x3F8572A8, 0x3F8055E8, 0x3F74EAD4, 0x3F67E20F,
   0x3F59D57E, 0x3F4B0B28, 0x3F3BC8DC, 0x3F2C5223, 0x3F1CE661, 0x3F0DBF4C, 0x3EFE1F73, 0x3EE20584] ++
  [0x3EC7769B, 0x3EAEA7EA, 0x3E97BE62, 0x3E82CFAD, 0x3E5FC70E, 0x3E3DEAE4, 0x3E1FED36, 0x3E059FA9,
   0x3DDD8E4C, 0x3DB63F32, 0x3D94BEDD, 0x3D70EA68, 0x3D4194C7, 0x3D1A561B, 0x3CF42E22, 0x3CBFA8C4] ++
  [0x3C9543AE, 0x3C66AF65, 0x3C30DF57, 0x3C068EB5, 0x3BCB237A, 0x3B9824CE, 0x3B622096, 0x3B26BC5E,
   0x3AF3F919, 0x3AB11AFE, 0x3A7F20E7, 0x3A365507, 0x3A014AF8, 0x39B5F011, 0x397E06AB, 0x392FF56D] ++
  [0x38F1DE7A, 0x38A4F0BC, 0x385F355E, 0x3815DAE6, 0x37C7A666, 0x3783F5E9, 0x372D1570, 0x36E14167,
   0x36916F95, 0x363A56E4, 0x35ECE39B, 0x35956771, 0x353AFD47, 0x34E8356B, 0x348F0F43, 0x342EE6B3]

/-- TE[j].a2 = erf'' z_j / 2 (R44). -/
def tabTE2 : List Nat :=
  [0xBD104AA3, 0xBDD6C0C5, 0xBE302FB2, 0xBE70F26A, 0xBE9620FD, 0xBEB0761E, 0xBEC6FECD, 0xBED963EE,
   0xBEE772D6, 0xBEF11D3F, 0xBEF677A1, 0xBEF7B612, 0xBEF527F7, 0xBEEF32D1, 0xBEE64C80, 0xBEDAF557] ++
  [0xBECDB250, 0xBEBF07A8, 0xBEAF7421, 0xBE9F6D1B, 0xBE8F5B85, 0xBE7F33A2, 0xBE60E594, 0xBE444281,
   0xBE29A0F2, 0xBE113A5C, 0xBDF65C1E, 0xBDCF0971, 0xBDAC6881, 0xBD8E4761, 0xBD68BBF9, 0xBD3CAA21] ++
  [0xBD1798BC, 0xBCF17F9D, 0xBCBEB0CA, 0xBC954650, 0xBC67B477, 0xBC324B21, 0xBC08079A, 0xBBCDD084,
   0xBB9A63A2, 0xBB65AF01, 0xBB296BD9, 0xBAF7DB95, 0xBAB3CC40, 0xBA8158AC, 0xBA3890D8, 0xBA029827] ++
  [0xB9B74A99, 0xB97F2462, 0xB930201C, 0xB8F12C4A, 0xB8A3C680, 0xB85C9F22, 0xB8136441, 0xB7C356B7,
   0xB7806481, 0xB7276A11, 0xB6D8880C, 0xB68AE62C, 0xB630C36D, 0xB5DF2355, 0xB58BB4E7, 0xB52D88E6]

/-- TE[j].a3 = erf''' z_j / 6 (R44). -/
def tabTE3 : List Nat :=
  [0xBEC00353, 0xBEBB893A, 0xBEB2C175, 0xBEA60273, 0xBE95C806, 0xBE82ACCE, 0xBE5AC46C, 0xBE2D4EF5,
   0xBDFD014C, 0xBD9FAF71, 0xBD0AE1E3, 0x3BF41F07, 0x3D38AF2D, 0x3DA03435, 0x3DD9B99C, 0x3E0423E4] ++
  [0x3E15DB71, 0x3E2225E3, 0x3E29541D, 0x3E2BDC2D, 0x3E2A4F53, 0x3E254FF5, 0x3E1D8829, 0x3E13A13B,
   0x3E083C95, 0x3DF7DC48, 0x3DDE70C2, 0x3DC513C0, 0x3DAC78A3, 0x3D952963, 0x3D7F11DC, 0x3D57ADD5] ++
  [0x3D3468E2, 0x3D155273, 0x3CF4A394, 0x3CC66039, 0x3C9F439B, 0x3C7D39EC, 0x3C475ED0, 0x3C1B793A,
   0x3BF0335F, 0x3BB7D264, 0x3B8B60C9, 0x3B516D3E, 0x3B1BE9C7, 0x3AE60EC4, 0x3AA836B5, 0x3A73CE04] ++
  [0x3A2F1F70, 0x39F95ECB, 0x39AFFF8F, 0x39764547, 0x392ACF82, 0x38EAE78B, 0x38A0239B, 0x3858798A,
   0x381111A7, 0x37C0C8C6, 0x377E06FD, 0x3725F3AC, 0x36D70119, 0x368A1C30, 0x362FF2EA, 0x35DE48D3]

/-! ### Constants (R45) -/

def cC1 : Nat := 0x3F317218
def cC2 : Nat := 0x3E75FDF0
def cC3 : Nat := 0x3D635847
def cLE : Nat := 0x3FB8AA3B
def cLELO : Nat := 0x32A57060
def cD2 : Nat := 0xBF38AA3B
def cD3 : Nat := 0x3EF6384F
def cRS2 : Nat := 0x3F3504F3
def cGS : Nat := 0x3F4C422A
def cGC : Nat := 0x3D372713

/-- FP32 1.0, 0.5 and their negatives, as bits. -/
def fOne : Nat := 0x3F800000
def fHalf : Nat := 0x3F000000
def fMOne : Nat := 0xBF800000
def fMHalf : Nat := 0xBF000000
def fInf : Nat := 0x7F800000
def fMInf : Nat := 0xFF800000
def fNan : Nat := 0x7FC00000

/-- FP32 of n / 2^k, exact for the small n that the kernels use. -/
def fQ (n : Int) (k : Nat) : Nat := FFmt.fp32.round (FVal.ofInt false n (-(k : Int)))

/-- x < y and x <= y on FP32 patterns. -/
def f32Lt (a b : Nat) : Bool := (f32v a).lt (f32v b)
def f32Le (a b : Nat) : Bool := (f32v a).lt (f32v b) || (f32v a).eqv (f32v b)

/-- floor_s32(v * 2^k) (R46; the scaling is exact). -/
def floorScaled (v : Nat) (k : Nat) : Int := f32Floor (f32Scale2 v k)

/-- poly3 of R46. -/
def poly3 (a1 a2 a3 r : Nat) : Nat := f32Mul (f32Fma (f32Fma a3 r a2) r a1) r

/-- frexp1 of R46: the significand in [1, 2) as FP32 and the exponent, for a finite non-zero x. -/
def frexp1 (x : Nat) : Nat × Int :=
  match f32v x with
  | .fin _ m e =>
    let k : Int := (Nat.log2 m : Int)
    (FFmt.fp32.round (.fin false m (-k)), e + k)
  | _ => (fOne, 0)

/-- vx_exp2 of R47. -/
def kExp2 (x : Nat) : Nat :=
  let n := floorScaled x 6
  let j := (n % 64).toNat
  let e := asr n 6
  let f := f32Sub x (f32Scale2 (f32OfInt n) (-6))
  let t := nth 0 tabTX j
  f32Scale2 (f32Fma t (poly3 cC1 cC2 cC3 f) t) e

/-- vx_recip of R47. -/
def kRecip (x : Nat) : Nat :=
  let (m0, e0) := frexp1 x
  let j0 := f32Floor (f32Add (f32Scale2 m0 6) fHalf) - 64
  let (j, m, e) := if j0 = 64 then (0, f32Mul m0 fHalf, e0 + 1) else (j0, m0, e0)
  let t := nth 0 tabTR j.toNat
  let r := f32Mul (f32Sub m (f32Add fOne (fQ j 6))) t
  f32CopySign (f32Scale2 (f32Fma t (poly3 fMOne fOne fMOne r) t) (-e)) x

/-- vx_rsqrt of R47. -/
def kRsqrt (x : Nat) : Nat :=
  let (m0, e0) := frexp1 x
  let (m1, e1) := if e0 % 2 = 1 then (f32Scale2 m0 1, e0 - 1) else (m0, e0)
  let j0 := if f32Lt m1 (fQ 2 0) then f32Floor (f32Add (f32Scale2 m1 5) fHalf) - 32
            else f32Floor (f32Add (f32Scale2 m1 4) fHalf)
  let (j, m, e) := if j0 = 64 then (0, f32Scale2 m1 (-2), e1 + 2) else (j0, m1, e1)
  let dj := if j < 32 then f32Add fOne (fQ j 5) else fQ j 4
  let rs := nth 0 tabTSrs j.toNat
  let r := f32Mul (f32Sub m dj) (nth 0 tabTSinv j.toNat)
  f32Scale2 (f32Fma rs (poly3 fMHalf (fQ 3 3) (fQ (-5) 4) r) rs) (-(tdivI e 2))

/-- vx_log2 of R47. -/
def kLog2 (x : Nat) : Nat :=
  let (m0, e0) := frexp1 x
  let (m, e) := if f32Le (fQ 191 7) m0 then (f32Mul m0 fHalf, e0 + 1) else (m0, e0)
  let (j, c) :=
    if f32Lt m fOne then
      let j := f32Floor (f32Add (f32Scale2 m 7) fHalf) - 96
      (j, if j = 32 then fOne else fQ (96 + j) 7)
    else
      let j := 32 + f32Floor (f32Add (f32Scale2 (f32Sub m fOne) 6) fHalf)
      (j, f32Add fOne (fQ (j - 32) 6))
  let r := f32Mul (f32Sub m c) (nth 0 tabTLinv j.toNat)
  let s := f32Add (nth 0 tabTLlg j.toNat) (poly3 cLE cD2 cD3 r)
  f32Add (f32OfInt e) s

/-- vx_expneg of R48: e^(-a) for a >= 0. -/
def kExpneg (a : Nat) : Nat :=
  if f32Lt (fQ 104 0) a then 0
  else
    let na := f32Neg a
    let yh := f32Mul na cLE
    let yl := f32Fma na cLELO (f32Fma na cLE (f32Neg yh))
    let n := floorScaled yh 6
    let f := f32Add (f32Sub yh (f32Scale2 (f32OfInt n) (-6))) yl
    let t := nth 0 tabTX (n % 64).toNat
    f32Scale2 (f32Fma t (poly3 cC1 cC2 cC3 f) t) (asr n 6)

/-- vx_tanh of R48. -/
def kTanh (x : Nat) : Nat :=
  let a := f32Abs x
  if f32Le (fQ 9 0) a then f32CopySign fOne x
  else
    let ma := f32Mul (fQ (-2) 0) a
    let yh := f32Mul ma cLE
    let yl := f32Fma ma cLELO (f32Fma ma cLE (f32Neg yh))
    let m :=
      if f32Lt (fQ (-1) 6) yh then poly3 cC1 cC2 cC3 (f32Add yh yl)
      else
        let n := floorScaled yh 6
        let s := f32Scale2 (nth 0 tabTX (n % 64).toNat) (asr n 6)
        let f := f32Add (f32Sub yh (f32Scale2 (f32OfInt n) (-6))) yl
        f32Fma s (poly3 cC1 cC2 cC3 f) (f32Sub s fOne)
    f32CopySign (f32Mul (f32Neg m) (kRecip (f32Add (fQ 2 0) m))) x

/-- vx_sigmoid of R48. -/
def kSigmoid (x : Nat) : Nat :=
  let e := kExpneg (f32Abs x)
  let s := kRecip (f32Add fOne e)
  if f32Le 0 x then s else f32Mul e s

/-- vx_silu of R48. -/
def kSilu (x : Nat) : Nat := f32Mul x (kSigmoid x)

/-- vx_gelu_set0 of R48. -/
def kGelu0 (x : Nat) : Nat :=
  let z := f32Mul (f32Abs x) cRS2
  let r :=
    if f32Lt z (fQ 4 0) then
      let j := floorScaled z 4
      let h := f32Sub z (fQ (2 * j + 1) 5)
      let q := f32Fma (nth 0 tabTE3 j.toNat) h (nth 0 tabTE2 j.toNat)
      let q := f32Fma q h (nth 0 tabTE1 j.toNat)
      f32Fma q h (nth 0 tabTE0 j.toNat)
    else fOne
  let r := if f32Lt x 0 then f32Neg r else r
  f32Mul x (f32Fma fHalf r fHalf)

/-- The elementary functions in the order of their codes 0x00-0x07 (R116). -/
inductive EFn where
  | exp2 | log2 | recip | rsqrt | tanh | sigmoid | silu | gelu
  deriving DecidableEq, Repr

def EFn.ofCode (c : Nat) : Option EFn :=
  ([.exp2, .log2, .recip, .rsqrt, .tanh, .sigmoid, .silu, .gelu] : List EFn)[c]?

/-- The fixed cases of R49: the result where the table gives one. -/
def EFn.special (f : EFn) (x : Nat) : Option Nat :=
  match f32v x with
  | .nan => some fNan
  | .inf neg =>
    some (match f with
      | .exp2 => if neg then 0 else fInf
      | .log2 => if neg then fNan else fInf
      | .recip => if neg then 0x80000000 else 0
      | .rsqrt => if neg then fNan else 0
      | .tanh => if neg then fMOne else fOne
      | .sigmoid => if neg then 0 else fOne
      | .silu | .gelu => if neg then 0x80000000 else fInf)
  | .fin neg 0 _ =>
    some (match f with
      | .exp2 => fOne
      | .log2 => fMInf
      | .recip | .rsqrt => if neg then fMInf else fInf
      | .sigmoid => fHalf
      | .tanh | .silu | .gelu => if neg then 0x80000000 else 0)
  | .fin neg _ _ =>
    match f with
    | .exp2 => if f32Le (fQ 128 0) x then some fInf else if f32Lt x (fQ (-150) 0) then some 0 else none
    | .log2 | .rsqrt => if neg then some fNan else none
    | _ => none

/-- vx_tanh with R49 applied to the argument that vx_gelu_set1 gives it. -/
def tanhFull (x : Nat) : Nat := (EFn.special .tanh x).getD (kTanh x)

/-- vx_gelu_set1 of R48. -/
def kGelu1 (x : Nat) : Nat :=
  let v := f32Mul cGS (f32Fma (f32Mul cGC x) (f32Mul x x) x)
  f32Mul x (f32Fma fHalf (tanhFull v) fHalf)

/-- An elementary function of FP32 (R43-R49); `set1` selects the elementary-function set. -/
def EFn.apply (f : EFn) (set1 : Bool) (x : Nat) : Nat :=
  match f.special x with
  | some r => r
  | none =>
    match f with
    | .exp2 => kExp2 x
    | .log2 => kLog2 x
    | .recip => kRecip x
    | .rsqrt => kRsqrt x
    | .tanh => kTanh x
    | .sigmoid => kSigmoid x
    | .silu => kSilu x
    | .gelu => if set1 then kGelu1 x else kGelu0 x

/-- vx_exp2 and vx_recip as other chapters call them (R220, R228), the fixed cases included. -/
def f32Exp2 (x : Nat) : Nat := EFn.apply .exp2 false x
def f32Recip (x : Nat) : Nat := EFn.apply .recip false x

end Sys2Proof.Machine
end

