-- ==== Sys2Proof/Machine/Vector.lean ====
section
/-! DEFINITION. Sys2Proof/Machine/Vector.lean: the vector unit, msg.move and the digest engine as they take effect
(R113-R121, R125, R126, R197, R227-R229). A count of 0 performs no access (R95). -/

namespace Sys2Proof.Machine

/-- The vector type of a code; the reserved codes fault before they come here (R95, R113). -/
def vty (c : Nat) : VType := (VType.ofCode c).getD .fp32

/-! ### Arithmetic (R115) -/

/-- A lane type's code widened to what the lane computes on: FP32 bits for FP32 and BF16. -/
def laneIn (t : VType) (c : Nat) : Nat := if t = .bf16 then f32OfBf16 c else c

/-- A lane's FP32 result in the lane type. -/
def laneOut (t : VType) (c : Nat) : Nat := if t = .bf16 then bf16OfF32 c else c

/-- One element of vx.arith: ADD, SUB, MUL, FMA (R115). -/
def arith1 (t : VType) (fn a b d : Nat) : Nat :=
  if t = .int32 then
    match fn with
    | 0 => (a + b) % 2 ^ 32
    | 1 => (a + 2 ^ 32 - b) % 2 ^ 32
    | 2 => a * b % 2 ^ 32
    | _ => (a * b + d) % 2 ^ 32
  else
    let x := laneIn t a
    let y := laneIn t b
    laneOut t (match fn with
      | 0 => f32Add x y
      | 1 => f32Sub x y
      | 2 => f32Mul x y
      | _ => f32Fma x y (laneIn t d))

/-- One element of vx.minmax (R115); FN 0 is MAX. -/
def minmax1 (t : VType) (fn a b : Nat) : Nat :=
  if t = .int32 then
    let lt := decide (sx 32 a < sx 32 b)
    if fn = 0 then (if lt then b else a) else (if lt then a else b)
  else laneOut t (if fn = 0 then f32Max (laneIn t a) (laneIn t b) else f32Min (laneIn t a) (laneIn t b))

/-- Operand B of vx.arith and vx.minmax: N elements, or one broadcast to all (R114). -/
def uOperandB (c k : Nat) (o : UOp) (t : VType) : U (List Nat) := do
  if o.bc then
    let b ← uRead c k o.aB (t.size 1)
    pure (List.replicate o.n (t.elem b 0))
  else
    let b ← uRead c k o.aB (t.size o.n)
    pure (t.elems b o.n)

/-- vx.arith (R115): FMA reads d from aD. [DESIGN CHOICE: log 126] -/
def uArith (c k : Nat) (o : UOp) : U Unit := do
  if o.n ≠ 0 then
    let t := vty o.st
    let a ← uRead c k o.aA (t.size o.n)
    let b ← uOperandB c k o t
    let (d, dst) ← (if o.fn = 3 then uReadDest c k o.aD (t.size o.n)
      else do pure ([], ← uDest c k o.aD (t.size o.n)))
    let r := List.zipWith (fun ab d => arith1 t o.fn ab.1 ab.2 d) (List.zip (t.elems a o.n) b)
      (if o.fn = 3 then t.elems d o.n else List.replicate o.n 0)
    uPut c k dst (t.pack r [])

/-- vx.minmax (R115). [DESIGN CHOICE: log 126] -/
def uMinmax (c k : Nat) (o : UOp) : U Unit := do
  if o.n ≠ 0 then
    let t := vty o.st
    let a ← uRead c k o.aA (t.size o.n)
    let b ← uOperandB c k o t
    let dst ← uDest c k o.aD (t.size o.n)
    uPut c k dst (t.pack (List.zipWith (minmax1 t o.fn) (t.elems a o.n) b) [])

/-- EFSET of the mode word of the context in a slot (R43, R200). -/
def State.efset (s : State) (c k : Nat) : Bool :=
  match (s.slot c k).owner with
  | some (p, x) => bitOf (s.ctx p x).mode 1
  | none => false

/-- vx.fn (R116). [DESIGN CHOICE: log 126] -/
def uFn (c k : Nat) (o : UOp) : U Unit := do
  if o.n ≠ 0 then
    let t := vty o.st
    let a ← uRead c k o.aA (t.size o.n)
    let dst ← uDest c k o.aD (t.size o.n)
    let s ← get
    let f := (EFn.ofCode o.fn).getD .exp2
    uPut c k dst (t.pack ((t.elems a o.n).map (fun x => laneOut t (EFn.apply f (s.efset c k) (laneIn t x)))) [])

/-- Whether the last byte or group of a packed destination is filled in part (R117). -/
def tailPart (t : VType) (n : Nat) : Bool := (t.bits = 4 && n % 2 ≠ 0) || (t.bits = 6 && n % 4 ≠ 0)

/-- The bytes of a packed group that is filled in part (R30, R117): from its first byte to the end of the data. -/
def tailBytes (t : VType) (n : Nat) : List Nat :=
  if !tailPart t n then []
  else
    let first := if t.bits = 4 then n / 2 else n / 4 * 3
    (List.range (t.size n - first)).map (fun i => first + i)

/-- vx.cvt (R117): the elements of a packed last group beyond N - 1 keep their previous contents: a narrow write, which
reads no word for the unit and leaves an uncorrectable word uncorrectable (R146). [DESIGN CHOICE: log 126] -/
def uCvt (c k : Nat) (o : UOp) : U Unit := do
  if o.n ≠ 0 then
    let t := vty o.st
    let u := vty (o.fn % 16)
    let a ← uRead c k o.aA (t.size o.n)
    let dst ← uDest c k o.aD (u.size o.n)
    let s ← get
    let old := if tailPart u o.n then (s.destBytes c k dst).take (u.size o.n) else []
    let bad := ((tailBytes u o.n).map (fun i => wordKey c (s.phys c k (destAddr dst i)))).filter (fun w => FMap.get false s.ue w)
    uPut c k dst (u.pack ((t.elems a o.n).map (convert t u)) old)
    modify (fun s => bad.foldl (fun s w => { s with ue := FMap.set false s.ue w true }) s)

/-- vx.mxq (R32, R117): elements to aD, one scale byte per block to aB. [DESIGN CHOICE: log 126] -/
def uMxq (c k : Nat) (o : UOp) : U Unit := do
  if o.n ≠ 0 then
    let t := vty o.st
    let u := vty o.et
    let a ← uRead c k o.aA (t.size o.n)
    let dst ← uDest c k o.aD (u.size o.n)
    let sdst ← uDest c k o.aB (o.n / 32)
    let qs := (chunksOf 32 (o.n / 32) (t.elems a o.n)).map (fun g => mxQuant u (g.map t.decode))
    uPut c k dst (u.pack (qs.flatMap (·.2)) [])
    uPut c k sdst (qs.map (fun q => BitVec.ofNat 8 q.1))

/-- The maximum or minimum of a list. -/
def foldMM (t : VType) (fn : Nat) : List Nat → Nat
  | [] => 0
  | v :: l => l.foldl (fun a b => minmax1 t fn a b) (if t = .int32 then v else if (f32v v).isNan then FFmt.fp32.nan else v)

/-- The result of vx.red (R118). -/
def redValue (t : VType) (fn : Nat) (v : List Nat) : Nat :=
  if t = .int32 then (if fn = 0 then v.sum % 2 ^ 32 else foldMM .int32 (fn - 1) v)
  else
    let w := v.map (laneIn t)
    if fn = 0 then vxSum w else foldMM .fp32 (fn - 1) w

/-- vx.red (R118). -/
def uRed (c k : Nat) (o : UOp) : U Unit := do
  if o.n ≠ 0 then
    let t := vty o.st
    let a ← uRead c k o.aA (t.size o.n)
    let dst ← uDest c k o.aD 4
    uPut c k dst (leBytes 4 (redValue t o.fn (t.elems a o.n)))

/-- The uniform variate of a draw (R52). -/
def uniform (r : Nat) : Nat := fQ (r / 2 ^ 40 : Nat) 24

/-- vx.rand (R51, R52, R119). -/
def uRand (c k : Nat) (o : UOp) : U Unit := do
  if o.n ≠ 0 then
    let p ← uRead c k o.aA 32
    let dst ← uDest c k o.aD (o.n * (if o.fn = 0 then 8 else 4))
    let seed := leNat (p.take 16)
    let stream := leNat ((p.drop 16).take 4)
    let c0 := leNat ((p.drop 24).take 8)
    uPut c k dst ((List.range o.n).flatMap (fun i =>
      let r := rand seed stream ((c0 + i) % 2 ^ 64)
      if o.fn = 0 then leBytes 8 r else leBytes 4 (uniform r)))

/-! ### Sampling (R227-R229) -/

/-- A sample's result: token, probability, kept, status. -/
structure SampleOut where
  token : Nat
  prob : Nat
  kept : Nat
  status : Nat
  deriving DecidableEq, Repr

/-- No candidate (R229). -/
def SampleOut.none : SampleOut := ⟨2 ^ 32 - 1, 0, 0, 2⟩

/-- The 16 bytes of the record (R229); the two reserved bytes are written as 0. -/
def SampleOut.bytes (r : SampleOut) : List Byte :=
  leBytes 4 r.token ++ leBytes 4 r.prob ++ leBytes 4 r.kept ++ leBytes 2 r.status ++ leBytes 2 0

/-- The running sums of a list, in order (R228). -/
def cumSums : Nat → List Nat → List Nat
  | _, [] => []
  | a, e :: l => let b := f32Add a e; b :: cumSums b l

/-- Running sums that start from the first element itself. -/
def cums : List Nat → List Nat
  | [] => []
  | e :: l => e :: cumSums e l

/-- The choice of R228 from logits z, with temperature, TOPP, TOPK and a draw. -/
def sampleOf (z : List Nat) (temp topp topk draw : Nat) : SampleOut :=
  let zs := (z.zipIdx.filter (fun x => !(f32v x.1).isNan))
  match zs with
  | [] => .none
  | z0 :: rest =>
    let best := rest.foldl (fun a x => if f32Lt a.1 x.1 then x else a) z0
    if f32Le temp 0 || best.1 = fInf then ⟨best.2, fOne, 1, 1⟩
    else
      let cc := f32Mul (f32Recip temp) cLE
      let es := zs.map (fun x => (x.1, x.2, f32Exp2 (f32Mul (f32Sub x.1 best.1) cc)))
      let cand := (es.filter (fun x => f32Lt 0 x.2.2)).mergeSort
        (fun a b => f32Lt b.1 a.1 || (!f32Lt a.1 b.1 && decide (a.2.1 ≤ b.2.1)))
      let kept := if topk = 0 then cand.length else min topk cand.length
      let cs := cums ((cand.take kept).map (fun x => x.2.2))
      match cs with
      | [] => .none
      | _ =>
        let lim := f32Mul topp (nth 0 cs (cs.length - 1))
        let j := (cs.findIdx? (fun v => f32Le lim v)).getD (cs.length - 1)
        let tgt := f32Mul (uniform draw) (nth 0 cs j)
        let i := ((cs.take (j + 1)).findIdx? (fun v => f32Lt tgt v)).getD j
        let pick := nth (0, 0, 0) cand i
        ⟨pick.2.1, f32Mul pick.2.2 (f32Recip (nth 0 cs j)), j + 1, 0⟩

/-- vx.sample (R120, R227-R229). [DEDUCED: log 100] -/
def uSample (c k : Nat) (o : UOp) : U Unit := do
  if o.n ≠ 0 then
    let z ← uRead c k o.aA (4 * o.n)
    let p ← uRead c k o.aB 32
    let dst ← uDest c k o.aD 16
    let f (i n : Nat) : Nat := leNat ((p.drop i).take n)
    let temp := f 8 4
    let topp := f 12 4
    if (f32v temp).isNan || (f32v topp).isNan || !f32Lt 0 topp || !f32Le topp fOne then throw ⟨fOperand, 0⟩
    let s ← get
    let x := match (s.slot c k).owner with
      | some (p, x) => s.ctx p x
      | none => .init
    let draw := rand x.seed x.stream (f 0 4 * 2 ^ 32 + f 4 4)
    uPut c k dst (sampleOf (VType.fp32.elems z o.n) temp topp (f 16 2) draw).bytes

/-! ### Moves and digests (R121, R125, R197) -/

/-- msg.move (R121): the count is in cells when an address it uses has PLANE set. [DESIGN CHOICE: log 126] -/
def uMove (c k : Nat) (o : UOp) : U Unit := do
  let cnt := ctl o.c0 21 0
  let cells := aPlane o.aD || (o.fn = 0 && aPlane o.aA)
  let n := if cells then 32 * cnt else cnt
  if n ≠ 0 then
    let src ← (if o.fn = 0 then uRead c k o.aA n else pure (List.replicate n 0#8))
    let dst ← uDest c k o.aD n
    uPut c k dst src

/-- dg.leaf (R125, R197). -/
def uLeaf (c k : Nat) (o : UOp) : U Unit := do
  let b ← uRead c k o.aA 4096
  let dst ← uDest c k o.aD 32
  uPut c k dst (leafDigest o.c0.toNat o.c1.toNat b)

/-- dg.result (R125): the digest is also the context's latest (R278 SRC 1). [DEDUCED: log 35] -/
def uResult (c k : Nat) (o : UOp) : U Unit := do
  let n := o.c0.toNat
  if n ≠ 0 then
    let b ← uRead c k o.aA n
    let dst ← uDest c k o.aD 32
    let d := resultDigest b
    uPut c k dst d
    modify (fun s => match (s.slot c k).owner with
      | some (p, x) => s.onCtx p x (fun t => { t with stepDigest := d })
      | none => s)

end Sys2Proof.Machine
end

