-- ==== Sys2Proof/Machine/Attn.lean ====
section
/-! DEFINITION. Sys2Proof/Machine/Attn.lean: attention commands (R204-R231): records, snapshots and their checks, pages,
append, forward in both modes, backward, completion. -/

namespace Sys2Proof.Machine

/-! ### The record (R215) -/

/-- An attention command record. -/
structure AttnRec where
  kind : Nat
  D : Nat
  dOk : Bool
  layer : Nat
  head : Nat
  G : Nat
  accum : Bool
  outBf16 : Bool
  save : Bool
  causal : Bool
  T : Nat
  pos0 : Nat
  ptBase : Nat
  scl : Nat
  q : Nat
  o : Nat
  st : Nat
  r : Nat
  done : Nat
  work : Nat
  fo : Nat
  dq : Nat
  goff : Nat
  deriving DecidableEq, Repr

/-- The record in its bytes; reserved fields are ignored (R5), and words that a short record lacks read 0. [DESIGN CHOICE: log 120] -/
def AttnRec.ofBytes (bs : List Byte) : AttnRec :=
  let w (i : Nat) : Nat := leNat ((bs.drop (4 * i)).take 4)
  { kind := bitsOf (w 0) 31 28, D := 64 * 2 ^ bitsOf (w 0) 27 26, dOk := bitsOf (w 0) 27 26 != 3
    layer := bitsOf (w 0) 23 16, head := bitsOf (w 0) 15 8, G := bitsOf (w 0) 7 4 + 1
    accum := bitOf (w 0) 3, outBf16 := bitOf (w 0) 2, save := bitOf (w 0) 1, causal := bitOf (w 0) 0
    T := bitsOf (w 1) 27 20 + 1, pos0 := bitsOf (w 1) 19 0, ptBase := bitsOf (w 2) 23 0, scl := w 3
    q := bitsOf (w 4) 21 0, o := bitsOf (w 5) 21 0, st := bitsOf (w 6) 21 0, r := bitsOf (w 7) 21 0, done := w 8
    work := bitsOf (w 9) 11 0, fo := bitsOf (w 10) 21 0, dq := bitsOf (w 11) 21 0, goff := bitsOf (w 12) 11 0 }

/-- Rows of the slice: G * T. -/
def AttnRec.rows (a : AttnRec) : Nat := a.G * a.T

/-- n_r of row r (R219): the positions it attends. -/
def AttnRec.nOf (a : AttnRec) (r : Nat) : Nat := if a.causal then a.pos0 + r / a.G + 1 else a.pos0 + a.T

/-- First block and count of blocks of the snapshot (R211, R226). -/
def AttnRec.blocks (a : AttnRec) : Nat × Nat :=
  if a.kind = 0 then (a.pos0 / 64, (a.pos0 + a.T - 1) / 64 + 1 - a.pos0 / 64) else (0, ceilDiv (a.pos0 + a.T) 64)

/-- The lead-core ranges a command uses (R215). -/
def AttnRec.ranges (a : AttnRec) : List (Nat × Nat) :=
  let row := 4 * a.D
  let n := a.rows * row
  [(a.r, 16)] ++
  (match a.kind with
    | 0 => [(a.q, a.T * row), (a.o, a.T * row)]
    | 1 => [(a.q, n), (a.o, if a.outBf16 then n / 2 else n)] ++ (if a.save then [(a.st, 8 * a.rows)] else [])
    | _ => [(a.q, n), (a.o, n), (a.st, 8 * a.rows), (a.fo, n), (a.dq, n)])

/-- Statuses (R218). -/
def atOk : Nat := 0
def atRecord : Nat := 1
def atInvalid : Nat := 2
def atStale : Nat := 3
def atFormat : Nat := 4
def atPlacement : Nat := 5

/-- RECORD of R218: a reserved encoding, a bad length, G*T > 256, a range beyond the lead core's window. [DEDUCED: log 36; DESIGN CHOICE: log 128] -/
def State.recordBad (s : State) (bs : List Byte) (lead k : Nat) : Bool :=
  let a := AttnRec.ofBytes bs
  bs.length != 64 || decide (2 < a.kind) || !a.dOk || decide (256 < a.rows) || a.ptBase % 4 != 0 || a.r % 16 != 0
    || decide (2 ^ 20 < a.pos0 + a.T) || a.ranges.any (fun r => (beyond (s.bound lead k) r.1 r.2).isSome)

/-! ### Pages (R204-R207) -/

/-- The form of pages under a mode word and head dimension. -/
structure PageForm where
  D : Nat
  kv4 : Bool
  fp16 : Bool
  deriving DecidableEq, Repr

/-- Element bytes and scale bytes per position; the footprint in KiB (R204, R205). -/
def PageForm.eb (f : PageForm) : Nat := if f.kv4 then f.D / 2 else f.D
def PageForm.sb (f : PageForm) : Nat := if f.fp16 then f.D / 16 else f.D / 32
def PageForm.kib (f : PageForm) : Nat := ceilDiv (128 * f.eb + 128 * f.sb) 1024

/-- The element type (R206). -/
def PageForm.ty (f : PageForm) : VType :=
  if f.fp16 then (if f.kv4 then .int4 else .int8) else (if f.kv4 then .e2m1 else .mxint8)

/-- Byte offset in a page of K (0) or V (1) elements and scales (R204). -/
def PageForm.eoff (f : PageForm) (v : Nat) : Nat := v * 64 * f.eb
def PageForm.soff (f : PageForm) (v : Nat) : Nat := 128 * f.eb + v * 64 * f.sb

/-- The value of an element code under a scale (R206). -/
def PageForm.value (f : PageForm) (code scale : Nat) : FVal :=
  if f.fp16 then
    let sv := FFmt.fp16.decode scale
    if sv.isNan then .nan else (f.ty.decode code).mul sv
  else mxValue f.ty scale code

/-- The D values of one position from its element bytes and scale bytes. -/
def PageForm.decode (f : PageForm) (eb sb : List Byte) : List FVal :=
  let w := if f.fp16 then 2 else 1
  (f.ty.elems eb f.D).zipIdx.map (fun c => f.value c.1 (leNat ((sb.drop (c.2 / 32 * w)).take w)))

/-- kv_scale16 of R207. -/
def kvScale16 (v : List FVal) (qmax : Nat) : Nat :=
  if v.any (fun x => !x.isFin) then 0x7E00
  else
    match maxAbs v with
    | .fin _ m e =>
      min (FFmt.fp16.magOf (m * 2 ^ e.toNat) (qmax * 2 ^ (-e).toNat)) FFmt.fp16.maxMag
    | _ => 0x7E00

/-- The code of a value under an FP16 scale (R207): the exact quotient to nearest, ties to even, clamped. -/
def kvCode16 (v : FVal) (s qmax : Nat) : Int :=
  match v, FFmt.fp16.decode s with
  | .fin neg m e, .fin _ n k =>
    if n = 0 then 0
    else
      let d := e - k
      let q := rneDiv (m * 2 ^ d.toNat) (n * 2 ^ (-d).toNat)
      clampI (if neg then -(q : Int) else q) (-(qmax : Int)) qmax
  | _, _ => 0

/-- A 32-block quantised (R207): scale and codes. -/
def PageForm.quant (f : PageForm) (v : List FVal) : Nat × List Nat :=
  if f.fp16 then
    let qmax := if f.kv4 then 7 else 127
    let s := kvScale16 v qmax
    (s, v.map (fun x => if s = 0x7E00 then 0 else wrapN f.ty.bits (kvCode16 x s qmax)))
  else mxQuant f.ty v

/-- A query row quantised and decoded (R219): 8-bit, under the page's scale format. -/
def PageForm.query (f : PageForm) (row : List Nat) : List FVal :=
  let g : PageForm := { f with kv4 := false }
  (chunksOf 32 (f.D / 32) row).flatMap (fun b =>
    let q := g.quant (b.map f32v)
    q.2.map (fun c => g.value c q.1))

/-! ### Where pages lie (R208, R209, R212) -/

/-- The page form of a context and record. -/
def State.pageForm (s : State) (p x : Nat) (a : AttnRec) : PageForm :=
  ⟨a.D, bitOf (s.ctx p x).mode 3, bitOf (s.ctx p x).mode 2⟩

/-- The placement entry of (LAYER, HEAD), if the command may use it: CHIP and BASE (R209). -/
def State.placement (s : State) (p x : Nat) (a : AttnRec) : Option (Nat × Nat) :=
  let t := s.ctx p x
  let i := a.layer * t.hkv + a.head
  let e := s.sliceU32 p (t.placeOff + 4 * i)
  if a.head < t.hkv ∧ i < t.placeN ∧ bitOf e 31 then some (bitsOf e 17 14, bitsOf e 9 0) else none

/-- A page: its chip, core and SLOT in KiB. -/
structure Page where
  chip : Nat
  core : Nat
  slot : Nat
  deriving DecidableEq, Repr

/-- The page a page-table entry places (R209). -/
def pageOf (pl : Nat × Nat) (e : Nat) : Page := ⟨pl.1, pl.2 + bitsOf e 29 20, bitsOf e 19 8⟩

/-- The pool group (OFFSET, SLOT) that an entry names. -/
def State.groupOf (s : State) (p e : Nat) : Option PoolGroup :=
  (s.part p).pool.find? (fun g => g.off == bitsOf e 29 20 && g.slot == bitsOf e 19 8)

/-- Whether KiB [a, a + n) lies within the window of a context on a core of this chip. -/
def State.inWindow (s : State) (p x core a n : Nat) : Bool :=
  match s.slotOf core p x with
  | none => false
  | some k => (beyond (s.bound core k) (a * 1024) (n * 1024)).isNone

/-- R209, R218: whether a page, the work area and the gradient region fit. What lies on another chip this chip does not hold: whether a
page fits there is a free value. [DESIGN CHOICE: log 37, 128] -/
def State.pageFits (s : State) (p x : Nat) (a : AttnRec) (g : Page) : Bool :=
  decide (g.core < 1024)
    && (if g.chip = s.own % 16 then
        (s.part p).owns (g.core / 256) && s.inWindow p x g.core g.slot (s.pageForm p x a).kib
          && s.inWindow p x g.core a.work 64
          && (a.kind != 2 || s.inWindow p x g.core (g.slot + a.goff) (a.D / 2))
      else (s.firstHop (s.own / 16 * 16 + g.chip) (some (s.part p).job) 0).isSome && Config.farFits s.fresh g.chip g.core g.slot)

/-- R212: the status of a snapshot entry. [DEDUCED: log 36] -/
def State.entryStatus (s : State) (p x : Nat) (a : AttnRec) (pl : Nat × Nat) (e : Nat) : Nat :=
  if !bitOf e 31 then atInvalid
  else if bitOf e 30 != bitOf (s.ctx p x).mode 3 then atFormat
  else
    match s.groupOf p e with
    | none => atStale
    | some g => if g.gen ≠ e % 256 then atStale else if s.pageFits p x a (pageOf pl e) then atOk else atPlacement

/-- The page-table entry of a block; an entry beyond the slice reads 0. -/
def State.ptEntry (s : State) (p base b : Nat) : Nat :=
  if base + 4 * b + 4 ≤ s.sliceLen p then s.sliceU32 p (base + 4 * b) else 0

/-- The check of a command at its start: status, failing entry, snapshot (R209, R211, R212, R218). [DEDUCED: log 36; DESIGN CHOICE: log 128] -/
def State.attnCheck (s : State) (m : AttnCmd) : Nat × Nat × List Nat :=
  let none32 := 2 ^ 32 - 1
  match s.slotOf m.lead m.part m.ctx with
  | none => (atRecord, none32, [])
  | some k =>
    if s.recordBad m.recd m.lead k then (atRecord, none32, [])
    else
      let a := AttnRec.ofBytes m.recd
      match s.placement m.part m.ctx a with
      | none => (atPlacement, none32, [])
      | some pl =>
        let bs := (List.range a.blocks.2).map (fun i => a.blocks.1 + i)
        let snap := bs.map (fun b => s.ptEntry m.part a.ptBase b)
        match (snap.zip bs).find? (fun e => s.entryStatus m.part m.ctx a pl e.1 != atOk) with
        | some e => (s.entryStatus m.part m.ctx a pl e.1, e.2, snap)
        | none => (if s.inWindow m.part m.ctx m.lead a.work 64 then atOk else atPlacement, none32, snap)

/-- The pages of a started command, block order. -/
def State.pagesOf (s : State) (m : AttnCmd) : List Page :=
  let a := AttnRec.ofBytes m.recd
  match s.placement m.part m.ctx a with
  | none => []
  | some pl => m.snap.map (pageOf pl)

/-- Whether an attention command's pages overlap those of one that must end first: the same table (R217). -/
def samePt (a b : AttnCmd) : Bool :=
  a.part == b.part && (AttnRec.ofBytes a.recd).ptBase == (AttnRec.ofBytes b.recd).ptBase

/-- ATTN_COMMAND_START (R217): the command at index `i` in posting order starts its page accesses: earlier commands of its
channel have started, earlier ones on the same table have ended theirs. [DEDUCED: log 36] -/
def execAttnCommandStart (i : Nat) (s : State) : Host.Outcome State Fault Refusal :=
  ok (match s.noc.attn[i]? with
    | none => s
    | some m =>
      let before := s.noc.attn.take i
      if m.started || s.paused (m.lead / 256) || before.any (fun b => (b.lead / 256 == m.lead / 256 && !b.started) || (samePt b m && !b.worked)) then s
      else
        let (st, idx, snap) := s.attnCheck m
        let m' := { m with started := true, status := st, failIdx := idx, snap := snap, worked := st != atOk }
        let s := if st = atOk && (s.pagesOf m').any (fun g => g.chip != s.own % 16) then s.ctxLeaves m.part m.ctx else s
        { s with fresh := s.fresh + 1 }.onNoc (fun n => { n with attn := setNth n.attn i m' }))

/-! ### Work on the cores (R216) -/

/-- Whether a core of this chip is stalled in a sy.wait of kind EVT_WAIT (R105) on DONE with every token COMPLETE (R216). -/
def State.stalledOn (s : State) (core done mask : Nat) : Bool :=
  match (s.core core).wait with
  | .sync _ h _ _ kind => kind == 2 && s.handleTo h mask == s.handleTo done mask && (s.slot core (s.active core)).pend == 0
  | _ => false

/-- R216: every participating core of this chip waits on DONE. -/
def State.allStalled (s : State) (m : AttnCmd) : Bool :=
  let mask := (s.part m.part).chmask
  let done := (AttnRec.ofBytes m.recd).done
  s.stalledOn m.lead done mask
    && (s.pagesOf m).all (fun g => g.chip != s.own % 16 || s.stalledOn g.core done mask)

/-- Whether an earlier command that accumulates into a gradient region of a later one has still to work (R231). -/
def State.sameRegion (s : State) (b m : AttnCmd) : Bool :=
  let x := AttnRec.ofBytes b.recd
  let y := AttnRec.ofBytes m.recd
  b.started && !b.worked && b.part == m.part && b.ctx == m.ctx && x.kind == 2 && y.kind == 2 && x.accum && y.accum
    && (s.pagesOf b).any (fun g => (s.pagesOf m).any (fun h => g.chip == h.chip && g.core == h.core
      && decide (g.slot + x.goff < h.slot + y.goff + y.D / 2) && decide (h.slot + y.goff < g.slot + x.goff + x.D / 2)))

/-- The participating cores of this chip: the lead core and the cores of its pages here (R216). -/
def State.attnCores (s : State) (lead : Nat) (pages : List Page) : List Nat :=
  (lead :: (pages.filter (fun g => g.chip == s.own % 16)).map (·.core)).eraseDups

/-- Whether a participating core of this chip has its clock stopped (R456), or lies where a row moves (R241, R436). -/
def State.attnHeld (s : State) (m : AttnCmd) : Bool :=
  (s.attnCores m.lead (s.pagesOf m)).any (fun c => s.holds c)

/-- What a command leaves in the work areas of its participating cores: scores kept between sweeps, blocks that wait (R216, R221, R223).
The spec lays none of it out: every byte of them is free. [DESIGN CHOICE: log 119] -/
def uWorkAreas (p x lead : Nat) (a : AttnRec) (pages : List Page) : U Unit :=
  modify (fun s => s.each (s.attnCores lead pages) (fun s c =>
    let (bs, s) := s.drawBytes 65536
    s.putWin c ((s.slotOf c p x).getD 0) (a.work * 1024) bs))

/-- A computation on another core: its fault carries the core. -/
def uOn {α : Type} (core : Nat) (m : U α) : U α := do
  match ← uTry m with
  | .ok v => pure v
  | .error f => throw ⟨f.cls + 256 * core, f.addr⟩

/-- Bytes of the context's window on a core of the cluster: on another chip they are values this chip does not hold. [DESIGN CHOICE: log 37] -/
def uPageBytes (p x : Nat) (g : Page) (a n : Nat) : U (List Byte) := do
  let s ← get
  if g.chip = s.own % 16 then uOn g.core (uRange g.core ((s.slotOf g.core p x).getD 0) (a, n))
  else
    set { s with fresh := s.fresh + 1 }
    pure ((List.range n).map (fun i => Config.farByte s.fresh g.chip g.core (a + i)))

/-- Bytes written to the context's window on a core of this chip. [DESIGN CHOICE: log 37] -/
def uPagePut (p x : Nat) (g : Page) (a : Nat) (bs : List Byte) : U Unit :=
  modify (fun s => if g.chip = s.own % 16 then s.putWin g.core ((s.slotOf g.core p x).getD 0) a bs else s)

/-- K and V values of the first `cnt` positions of a page. -/
def uPage (p x : Nat) (f : PageForm) (g : Page) (cnt : Nat) : U (List (List FVal) × List (List FVal)) := do
  let base := g.slot * 1024
  let ke ← uPageBytes p x g (base + f.eoff 0) (cnt * f.eb)
  let ve ← uPageBytes p x g (base + f.eoff 1) (cnt * f.eb)
  let ks ← uPageBytes p x g (base + f.soff 0) (cnt * f.sb)
  let vs ← uPageBytes p x g (base + f.soff 1) (cnt * f.sb)
  let at_ (e sc : List Byte) (i : Nat) : List FVal := f.decode ((e.drop (i * f.eb)).take f.eb) ((sc.drop (i * f.sb)).take f.sb)
  pure ((List.range cnt).map (at_ ke ks), (List.range cnt).map (at_ ve vs))

/-- K and V values of positions 0 to n - 1. -/
def uKv (p x : Nat) (f : PageForm) (n : Nat) : Nat → List Page → U (List (List FVal) × List (List FVal))
  | _, [] => pure ([], [])
  | b, g :: gs => do
    let (k, v) ← uPage p x f g (min 64 (n - 64 * b))
    let (k', v') ← uKv p x f n (b + 1) gs
    pure (k ++ k', v ++ v')

/-- Rows of FP32 values of the lead core's window. -/
def uRows (lead k a rows d : Nat) : U (List (List Nat)) := do
  let bs ← uOn lead (uRange lead k (a, rows * d * 4))
  pure ((List.range rows).map (fun r => VType.fp32.elems ((bs.drop (r * d * 4)).take (d * 4)) d))

/-! ### Arithmetic (R219-R230) -/

/-- Leaves of 32 positions over a list of exact terms, each rounded once (R38). -/
def leaves32 (ts : List FVal) : List Nat := (chunksOf 32 (ceilDiv ts.length 32) ts).map rneSum

/-- The scaled score (R219). -/
def scoreOf (scl : Nat) (q k : List FVal) : Nat := f32Mul (f32Tree (leaves32 (List.zipWith FVal.mul q k))) scl

/-- A weight: exp2 rounded to BF16 (R220). -/
def weightOf (t m : Nat) : Nat := f32OfBf16 (bf16OfF32 (f32Exp2 (f32Sub t m)))

/-- The maximum of a list from -inf on (R115, R220). -/
def maxFrom (l : List Nat) : Nat := l.foldl f32Max fMInf

/-- Column d of a list of rows of values. -/
def colOf (v : List (List FVal)) (d : Nat) : List FVal := v.map (fun r => nth (.fin false 0 0) r d)

/-- The weighted sum of column d: leaves of w * v (R220). -/
def wsum (w : List Nat) (v : List (List FVal)) (d : Nat) : Nat :=
  f32Tree (leaves32 (List.zipWith (fun a b => (f32v a).mul b) w (colOf v d)))

/-- Exact-max attention of one row over its n positions (R220): m, l and the output. -/
def exactRow (D scl : Nat) (q : List FVal) (ks vs : List (List FVal)) : Nat × Nat × List Nat :=
  let t := ks.map (scoreOf scl q)
  let m := maxFrom t
  let w := t.map (fun x => weightOf x m)
  let l := f32Tree (leaves32 (w.map f32v))
  (m, l, (List.range D).map (fun d => f32Mul (wsum w vs d) (f32Recip l)))

/-- One block of rolling-max attention folded in (R222). -/
def rollStep (mr lr : Nat) (o : List Nat) (mb lb : Nat) (ob : List Nat) : Nat × Nat × List Nat :=
  let mn := f32Max mr mb
  let (lr, o) := if f32Lt mr mn then
      let f := f32Exp2 (f32Sub mr mn)
      (f32Mul lr f, o.map (fun v => f32Mul v f)) else (lr, o)
  let (lb, ob) := if f32Lt mb mn then
      let g := f32Exp2 (f32Sub mb mn)
      (f32Mul lb g, ob.map (fun v => f32Mul v g)) else (lb, ob)
  (mn, f32Add lr lb, List.zipWith f32Add o ob)

/-- Rolling-max attention of one row (R222). -/
def rollRow (D scl : Nat) (q : List FVal) (ks vs : List (List FVal)) : Nat × Nat × List Nat :=
  let t := ks.map (scoreOf scl q)
  let nb := ceilDiv t.length 64
  let blk (b : Nat) : Nat × Nat × List Nat :=
    let tb := (t.drop (64 * b)).take 64
    let vb := (vs.drop (64 * b)).take 64
    let mb := maxFrom tb
    let w := tb.map (fun x => weightOf x mb)
    (mb, f32Tree (leaves32 (w.map f32v)), (List.range D).map (wsum w vb))
  let acc := (List.range (nb - 1)).foldl (fun (a : Nat × Nat × List Nat) b =>
    let n := blk (b + 1)
    rollStep a.1 a.2.1 a.2.2 n.1 n.2.1 n.2.2) (blk 0)
  (acc.1, acc.2.1, acc.2.2.map (fun v => f32Mul v (f32Recip acc.2.1)))

/-! ### The commands -/

/-- ATTN_APPEND (R226). [DESIGN CHOICE: log 119] -/
def uAppend (p x lead k : Nat) (a : AttnRec) (f : PageForm) (pages : List Page) : U Unit := do
  let kr ← uRows lead k a.q a.T a.D
  let vr ← uRows lead k a.o a.T a.D
  uWorkAreas p x lead a pages
  let put (v : Nat) (rows : List (List Nat)) (t : Nat) : U Unit := do
    let pos := a.pos0 + t
    let g := nth ⟨0, 0, 0⟩ pages (pos / 64 - a.blocks.1)
    let qs := (chunksOf 32 (a.D / 32) (nth [] rows t)).map (fun b => f.quant (b.map f32v))
    let base := g.slot * 1024
    uPagePut p x g (base + f.eoff v + pos % 64 * f.eb) (f.ty.pack (qs.flatMap (·.2)) [])
    uPagePut p x g (base + f.soff v + pos % 64 * f.sb) (qs.flatMap (fun q => leBytes (if f.fp16 then 2 else 1) q.1))
  (List.range a.T).forM (fun t => do
    put 0 kr t
    put 1 vr t)

/-- ATTN_FWD (R220-R223). [DESIGN CHOICE: log 119] -/
def uForward (p x lead k : Nat) (a : AttnRec) (f : PageForm) (rolling : Bool) (pages : List Page) : U Unit := do
  let qr ← uRows lead k a.q a.rows a.D
  let (ks, vs) ← uKv p x f (a.pos0 + a.T) 0 pages
  uWorkAreas p x lead a pages
  let res := qr.zipIdx.map (fun q =>
    let n := a.nOf q.2
    (if rolling then rollRow else exactRow) a.D a.scl (f.query q.1) (ks.take n) (vs.take n))
  modify (fun s =>
    let s := s.putWin lead k a.o (res.flatMap (fun r =>
      r.2.2.flatMap (fun v => if a.outBf16 then leBytes 2 (bf16OfF32 v) else leBytes 4 v)))
    if a.save then s.putWin lead k a.st (res.flatMap (fun r => leBytes 4 r.1 ++ leBytes 4 r.2.1)) else s)

/-- What ATTN_BWD forms for one row (R230): dS and P for its positions. -/
def backRow (a : AttnRec) (q : List FVal) (dO o : List Nat) (m l : Nat) (ks vs : List (List FVal)) : List Nat × List Nat :=
  let il := f32Recip l
  let dr := vxSum (List.zipWith f32Mul dO o)
  let gs := f32Mul a.scl cC1
  let ps := ks.map (fun k => f32Mul (weightOf (scoreOf a.scl q k) m) il)
  let ds := List.zipWith (fun P v =>
    let dP := f32Tree (leaves32 (List.zipWith (fun d e => (f32v d).mul e) dO v))
    f32Mul (f32Mul P (f32Sub dP dr)) gs) ps vs
  (ds, ps)

/-- Gradients of one position over the rows (R230): +0 where a row does not attend it. -/
def gradOf (coef : List (List Nat)) (rows : List (List Nat)) (pos D : Nat) : List Nat :=
  (List.range D).map (fun d => f32Tree (List.zipWith (fun x r =>
    match x[pos]? with
    | some v => f32Mul v (nth 0 r d)
    | none => 0) coef rows))

/-- A gradient region written or added to (R231). -/
def uGrad (p x : Nat) (a : AttnRec) (g : Page) (vals : List Nat) : U Unit := do
  let base := (g.slot + a.goff) * 1024
  let new ← (if a.accum then do
      let old ← uPageBytes p x g base (4 * vals.length)
      pure (List.zipWith f32Add (VType.fp32.elems old vals.length) vals)
    else pure vals)
  uPagePut p x g base (new.flatMap (leBytes 4))

/-- ATTN_BWD (R230, R231). [DESIGN CHOICE: log 119] -/
def uBackward (p x lead k : Nat) (a : AttnRec) (f : PageForm) (pages : List Page) : U Unit := do
  let qr ← uRows lead k a.q a.rows a.D
  let dO ← uRows lead k a.o a.rows a.D
  let o ← uRows lead k a.fo a.rows a.D
  let st ← uRows lead k a.st a.rows 2
  let n := a.pos0 + a.T
  let (ks, vs) ← uKv p x f n 0 pages
  uWorkAreas p x lead a pages
  let rows := (List.range a.rows).map (fun r =>
    let nr := a.nOf r
    backRow a (f.query (nth [] qr r)) (nth [] dO r) (nth [] o r) (nth 0 (nth [] st r) 0) (nth 0 (nth [] st r) 1) (ks.take nr) (vs.take nr))
  let dS := rows.map (·.1)
  let pm := rows.map (·.2)
  modify (fun s => s.putWin lead k a.dq (dS.flatMap (fun ds => (List.range a.D).flatMap (fun d =>
    leBytes 4 (f32Tree (leaves32 (List.zipWith (fun c kv => (f32v c).mul kv) ds (colOf ks d))))))))
  pages.zipIdx.forM (fun g =>
    let pos := (List.range 64).map (fun i => 64 * g.2 + i)
    uGrad p x a g.1 (pos.flatMap (fun i => gradOf dS qr i a.D) ++ pos.flatMap (fun i => gradOf pm dO i a.D)))

/-- R476: the groups that entries name record their head dimension at their first append. -/
def State.noteHdim (s : State) (p : Nat) (es : List Nat) (d : Nat) : State :=
  s.onPart p (fun q => { q with pool := q.pool.map (fun g =>
    if g.hdim = 0 && es.any (fun e => bitsOf e 29 20 == g.off && bitsOf e 19 8 == g.slot) then { g with hdim := d } else g) })

/-- The work of a started command of a kind on the cores (R216): an uncorrectable word faults the context on its core. [DEDUCED: log 36] -/
def State.attnWork (s : State) (kind i : Nat) : State :=
  match s.noc.attn[i]? with
  | none => s
  | some m =>
    let a := AttnRec.ofBytes m.recd
    match s.slotOf m.lead m.part m.ctx with
    | none => s
    | some k =>
      if !m.started || m.worked || a.kind != kind || !s.allStalled m || s.attnHeld m || (s.noc.attn.take i).any (fun b => s.sameRegion b m) then s
      else
        let f := s.pageForm m.part m.ctx a
        let pages := s.pagesOf m
        let work : U Unit := match kind with
          | 0 => uAppend m.part m.ctx m.lead k a f pages
          | 1 => uForward m.part m.ctx m.lead k a f (bitOf (s.ctx m.part m.ctx).mode 0) pages
          | _ => uBackward m.part m.ctx m.lead k a f pages
        match work.go s with
        | (.ok _, t) =>
          let t := if kind = 0 then t.noteHdim m.part m.snap a.D else t
          t.onNoc (fun n => { n with attn := setNth n.attn i { m with worked := true } })
        | (.error e, t) =>
          match t.slotOf (e.cls / 256) m.part m.ctx with
          | some j => t.raise (e.cls / 256) j (e.cls % 256) 0 e.addr false none
          | none => t

/-- ATTN_APPEND (R226). -/
def execAttnAppend (i : Nat) (s : State) : Host.Outcome State Fault Refusal := ok (s.attnWork 0 i)

/-- ATTN_FWD (R220, R222). -/
def execAttnFwd (i : Nat) (s : State) : Host.Outcome State Fault Refusal := ok (s.attnWork 1 i)

/-- ATTN_BWD (R230). -/
def execAttnBwd (i : Nat) (s : State) : Host.Outcome State Fault Refusal := ok (s.attnWork 2 i)

/-- A signal that the command processor or a delivery of this chip sends: nobody awaits its report, so one that R242 refuses is
dropped. [DESIGN CHOICE: log 120] -/
def State.signalHandle (s : State) (p x h arg : Nat) : State :=
  match s.handleTo h (s.part p).chmask with
  | .refused => s
  | .here obj => s.applySignal obj arg (some (holdWord false 0 x))
  | .far chip obj =>
    match s.sendRec? chip (.syncOp chip s.own 3 obj arg (s.part p).job x 0 0) 0 with
    | none => s
    | some t => t.ctxLeaves p x

/-- ATTN_COMPLETION (R218): the completion record is written at RADDR, where it lies in the lead core's window, then DONE is set; the
command leaves its slot. [DESIGN CHOICE: log 120] -/
def execAttnCompletion (i : Nat) (s : State) : Host.Outcome State Fault Refusal :=
  ok (match s.noc.attn[i]? with
    | none => s
    | some m =>
      if !m.worked || s.holds m.lead then s
      else
        let a := AttnRec.ofBytes m.recd
        let s := s.onNoc (fun n => { n with attn := dropAt n.attn i })
        match s.slotOf m.lead m.part m.ctx with
        | none => s
        | some k =>
          let rec16 := leBytes 2 m.status ++ leBytes 2 0 ++ leBytes 4 m.snap.length ++ leBytes 4 m.failIdx ++ leBytes 4 s.tb2
          let s := if (beyond (s.bound m.lead k) a.r 16).isSome then s else s.putWin m.lead k a.r rec16
          s.signalHandle m.part m.ctx a.done 1)

end Sys2Proof.Machine
end

