-- ==== Sys2Proof/Machine/Jpeg.lean ====
section
/-! DEFINITION. Sys2Proof/Machine/Jpeg.lean: the decoder (R328, R332): ITU-T T.81 baseline sequential JPEG, the transform of
R332, and the headers that RFC 2435 leaves to the receiver (R328). -/

namespace Sys2Proof.Machine

/-! ### Failures (R341) -/

/-- Reasons of a failed decode. -/
def rSyntax : Nat := 2
def rFormat : Nat := 6

/-! ### The transform (R332) -/

/-- A[x][u]: the integer nearest 8192 a(u) cos((2x+1)u pi/16). -/
def idctA : List (List Int) :=
  [[5793, 8035, 7568, 6811, 5793, 4551, 3135, 1598],
   [5793, 6811, 3135, -1598, -5793, -8035, -7568, -4551],
   [5793, 4551, -3135, -8035, -5793, 1598, 7568, 6811],
   [5793, 1598, -7568, -4551, 5793, 6811, -3135, -8035],
   [5793, -1598, -7568, 4551, 5793, -6811, -3135, 8035],
   [5793, -4551, -3135, 8035, -5793, -1598, 7568, -6811],
   [5793, -6811, 3135, 1598, -5793, 8035, -7568, 4551],
   [5793, -8035, 7568, -6811, 5793, -4551, 3135, -1598]]

/-- The sum of products of two lists. -/
def dotI (a b : List Int) : Int := (List.zipWith (· * ·) a b).foldl (· + ·) 0

/-- Columns of an 8 by 8 list of rows. -/
def cols8 (m : List (List Int)) : List (List Int) := (List.range 8).map (fun j => m.map (fun r => nth 0 r j))

/-- idct of R332: coefficients F[v][u] to samples o[y][x]. -/
def idct (f : List (List Int)) : List Nat :=
  let t := f.map (fun row => idctA.map (fun a => asr (dotI a row + 256) 9))
  let ts := cols8 t
  idctA.flatMap (fun a => ts.map (fun col => (clampI (asr (dotI a col + 2 ^ 18) 19 + 128) 0 255).toNat))

/-- R332: a pixel from its luma and chroma. -/
def rgbOf (y cb cr : Nat) : List Nat :=
  let b : Int := (cb : Int) - 128
  let r : Int := (cr : Int) - 128
  [(clampI (y + asr (91881 * r + 32768) 16) 0 255).toNat,
   (clampI (y + asr (-22554 * b - 46802 * r + 32768) 16) 0 255).toNat,
   (clampI (y + asr (116130 * b + 32768) 16) 0 255).toNat]

/-! ### Huffman coding (T.81 Annex C, F) -/

/-- A code table: length, code, symbol. -/
abbrev HTable := List (Nat × Nat × Nat)

/-- The codes of a table from the counts of each length and the symbols in order. -/
def huffTable : Nat → Nat → List Nat → List Nat → HTable
  | _, _, [], _ => []
  | len, code, n :: ns, syms =>
    ((syms.take n).zipIdx.map (fun p => (len, code + p.2, p.1))) ++ huffTable (len + 1) ((code + n) * 2) ns (syms.drop n)

/-- The bits of a byte, most significant first. -/
def byteBits (b : Byte) : List Bool := (List.range 8).map (fun i => bitOf b.toNat (7 - i))

/-- The symbol at the head of the bits. -/
def huffSym (t : HTable) : Nat → Nat → Nat → List Bool → Option (Nat × List Bool)
  | 0, _, _, _ => none
  | _, _, _, [] => none
  | fuel + 1, len, code, b :: bs =>
    let code := 2 * code + b2n b
    match t.find? (fun e => e.1 == len + 1 && e.2.1 == code) with
    | some e => some (e.2.2, bs)
    | none => huffSym t fuel (len + 1) code bs

/-- The next `n` bits as a number. -/
def takeBits : Nat → Nat → List Bool → Option (Nat × List Bool)
  | 0, v, bs => some (v, bs)
  | _ + 1, _, [] => none
  | n + 1, v, b :: bs => takeBits n (2 * v + b2n b) bs

/-- EXTEND of T.81. -/
def extendBits (v t : Nat) : Int := if t = 0 then 0 else if v < 2 ^ (t - 1) then (v : Int) - 2 ^ t + 1 else v

/-- The AC coefficients of a block from zigzag place `k` on, as (place, value). -/
def acCoeffs (t : HTable) : Nat → Nat → List Bool → Option (List (Nat × Int) × List Bool)
  | 0, _, bs => some ([], bs)
  | fuel + 1, k, bs =>
    if 64 ≤ k then some ([], bs)
    else
      match huffSym t 16 0 0 bs with
      | none => none
      | some (rs, bs) =>
        let r := rs / 16
        let n := rs % 16
        if n = 0 then
          if r = 0 then some ([], bs)
          else if r = 15 ∧ k + 16 ≤ 63 then acCoeffs t fuel (k + 16) bs
          else none
        else if 10 < n ∨ 63 < k + r then none
        else
          match takeBits n 0 bs with
          | none => none
          | some (v, bs) =>
            match acCoeffs t fuel (k + r + 1) bs with
            | none => none
            | some (l, bs) => some ((k + r, extendBits v n) :: l, bs)

/-- The zigzag order: the natural place of each zigzag place. -/
def zigzag : List Nat :=
  [0, 1, 8, 16, 9, 2, 3, 10, 17, 24, 32, 25, 18, 11, 4, 5, 12, 19, 26, 33, 40, 48, 41, 34, 27, 20, 13, 6, 7, 14, 21, 28,
   35, 42, 49, 56, 57, 50, 43, 36, 29, 22, 15, 23, 30, 37, 44, 51, 58, 59, 52, 45, 38, 31, 39, 46, 53, 60, 61, 54, 47, 55,
   62, 63]

/-- One block: its DC predictor, its samples, the bits behind it. `q` is the quantisation table in zigzag order. -/
def decodeBlock (dc ac : HTable) (q : List Nat) (pred : Int) (bs : List Bool) : Option (Int × List Nat × List Bool) :=
  match huffSym dc 16 0 0 bs with
  | none => none
  | some (t, bs) =>
    if 11 < t then none
    else
      match takeBits t 0 bs with
      | none => none
      | some (v, bs) =>
        let p := pred + extendBits v t
        match acCoeffs ac 64 1 bs with
        | none => none
        | some (l, bs) =>
          let cs : List (Nat × Int) := ((0, p) :: l).map (fun e => (nth 0 zigzag e.1, e.2 * ((nth 0 q e.1 : Nat) : Int)))
          let at_ (i : Nat) : Int := ((cs.find? (fun e => e.1 == i)).map (·.2)).getD 0
          let rows := (List.range 8).map (fun y => (List.range 8).map (fun x => at_ (8 * y + x)))
          some (p, idct rows, bs)

/-! ### Scans (T.81 Annex A, B, E) -/

/-- A component of the frame: identifier, sampling factors, quantisation table. -/
structure JComp where
  id : Nat
  h : Nat
  v : Nat
  tq : Nat
  deriving DecidableEq, Repr

/-- A component's part in a scan: index in the frame, code tables. -/
structure JScan where
  c : Nat
  td : Nat
  ta : Nat
  deriving DecidableEq, Repr

/-- What the decoder has read of an image. -/
structure Jpeg where
  qt : FMap (List Nat)
  dc : FMap HTable
  ac : FMap HTable
  w : Nat
  h : Nat
  comps : List JComp
  dri : Nat
  blocks : List (Nat × List Nat)   -- samples by component * 2^40 + block row * 2^20 + block column
  scanned : List Nat               -- components whose scan is complete

/-- A block's key. -/
def blockKey (c row col : Nat) : Nat := c * 2 ^ 40 + row * 2 ^ 20 + col

/-- The blocks of one MCU of a scan: component, block row, block column. -/
def mcuBlocks (comps : List JComp) (scan : List JScan) (perRow m : Nat) : List (JScan × Nat × Nat) :=
  match scan with
  | [s] => [(s, m / perRow, m % perRow)]
  | _ => scan.flatMap (fun s =>
      let c := nth ⟨0, 1, 1, 0⟩ comps s.c
      (List.range c.v).flatMap (fun y => (List.range c.h).map (fun x => (s, m / perRow * c.v + y, m % perRow * c.h + x))))

/-- The blocks of a list decoded one after another; the predictors are kept by component. -/
def decodeBlocks (j : Jpeg) : List (JScan × Nat × Nat) → FMap Int → List Bool → List (Nat × List Nat) →
    Option (FMap Int × List Bool × List (Nat × List Nat))
  | [], ps, bs, acc => some (ps, bs, acc)
  | (s, r, k) :: l, ps, bs, acc =>
    let c := nth ⟨0, 1, 1, 0⟩ j.comps s.c
    match decodeBlock (FMap.get [] j.dc s.td) (FMap.get [] j.ac s.ta) (FMap.get [] j.qt c.tq) (FMap.get 0 ps s.c) bs with
    | none => none
    | some (p, o, bs) => decodeBlocks j l (FMap.set 0 ps s.c p) bs ((blockKey s.c r k, o) :: acc)

/-- The entropy-coded segments up to the next marker, restart markers in order, and the bytes from that marker on; fill bytes may
stand before a marker. `ff` counts the bytes 0xFF just read, to 2. -/
def segments : List Byte → Nat → Nat → List Byte → List (List Byte) → Option (List (List Byte) × List Byte)
  | [], ff, _, cur, acc => if ff = 0 then some ((cur.reverse :: acc).reverse, []) else none
  | b :: rest, ff, n, cur, acc =>
    if b = 0xFF#8 then segments rest (min 2 (ff + 1)) n cur acc
    else if ff = 0 then segments rest 0 n (b :: cur) acc
    else if b = 0#8 then (if ff = 1 then segments rest 0 n (0xFF#8 :: cur) acc else none)
    else if b.toNat / 8 = 0xD0 / 8 then
      if b.toNat % 8 = n % 8 then segments rest 0 (n + 1) [] (cur.reverse :: acc) else none
    else some ((cur.reverse :: acc).reverse, 0xFF#8 :: b :: rest)

/-- The MCUs of each segment decoded. Less than a byte of padding may follow the last. -/
def decodeSegs (j : Jpeg) (mcu : Nat → List (JScan × Nat × Nat)) (total step : Nat) :
    List (List Byte) → Nat → List (Nat × List Nat) → Option (List (Nat × List Nat))
  | [], at_, acc => if at_ = total then some acc else none
  | seg :: l, at_, acc =>
    let n := min step (total - at_)
    if n = 0 then none
    else
      match decodeBlocks j ((List.range n).flatMap (fun i => mcu (at_ + i))) [] (seg.flatMap byteBits) acc with
      | none => none
      | some (_, bs, acc) => if 8 ≤ bs.length then none else decodeSegs j mcu total step l (at_ + n) acc

/-- A scan: its header is read; the entropy-coded bytes and what follows. -/
def Jpeg.scan (j : Jpeg) (scan : List JScan) (bytes : List Byte) : Option (Jpeg × List Byte) :=
  let hm := (j.comps.map (·.h)).foldl max 1
  let vm := (j.comps.map (·.v)).foldl max 1
  let dims : Nat × Nat := match scan with
    | [s] =>
      let c := nth ⟨0, 1, 1, 0⟩ j.comps s.c
      (ceilDiv (ceilDiv (j.w * c.h) hm) 8, ceilDiv (ceilDiv (j.h * c.v) vm) 8)
    | _ => (ceilDiv j.w (8 * hm), ceilDiv j.h (8 * vm))
  let total := dims.1 * dims.2
  match segments bytes 0 0 [] [] with
  | none => none
  | some (segs, rest) =>
    match decodeSegs j (mcuBlocks j.comps scan dims.1) total (if j.dri = 0 then total else j.dri) segs 0 j.blocks with
    | none => none
    | some bl => some ({ j with blocks := bl, scanned := scan.map (·.c) ++ j.scanned }, rest)

/-! ### Marker segments (T.81 Annex B) -/

/-- The tables of a DQT segment; baseline admits 8-bit elements only, and no element is 0. -/
def Jpeg.dqt (j : Jpeg) : Nat → List Byte → Option Jpeg
  | _, [] => some j
  | 0, _ => none
  | fuel + 1, b :: bs =>
    if 3 < b.toNat ∨ bs.length < 64 ∨ (bs.take 64).contains 0#8 then none
    else { j with qt := FMap.set [] j.qt b.toNat ((bs.take 64).map BitVec.toNat) }.dqt fuel (bs.drop 64)

/-- Whether the counts of a code table ask for more codes of some length than there are. -/
def overCoded : Nat → Nat → List Nat → Bool
  | _, _, [] => false
  | len, code, n :: ns => decide (2 ^ len < code + n) || overCoded (len + 1) ((code + n) * 2) ns

/-- The tables of a DHT segment; baseline admits two of each class. -/
def Jpeg.dht (j : Jpeg) : Nat → List Byte → Option Jpeg
  | _, [] => some j
  | 0, _ => none
  | fuel + 1, b :: bs =>
    let counts := (bs.take 16).map BitVec.toNat
    let n := counts.foldl (· + ·) 0
    let syms := ((bs.drop 16).take n).map BitVec.toNat
    if 1 < b.toNat / 16 ∨ 1 < b.toNat % 16 ∨ counts.length < 16 ∨ syms.length < n ∨ overCoded 1 0 counts then none
    else
      let t := huffTable 1 0 counts syms
      let j := if b.toNat / 16 = 0 then { j with dc := FMap.set [] j.dc (b.toNat % 16) t }
        else { j with ac := FMap.set [] j.ac (b.toNat % 16) t }
      j.dht fuel (bs.drop (16 + n))

/-- A SOF0 segment: the reason of failure, or the frame. R328 requires three components, 4:2:0 or 4:2:2, W by H. -/
def Jpeg.sof (j : Jpeg) (w h : Nat) (bs : List Byte) : Except Nat Jpeg :=
  let n := (nth 0#8 bs 5).toNat
  let comps : List JComp := (chunksOf 3 n (bs.drop 6)).map (fun c =>
    JComp.mk (nth 0#8 c 0).toNat ((nth 0#8 c 1).toNat / 16) ((nth 0#8 c 1).toNat % 16) (nth 0#8 c 2).toNat)
  if (nth 0#8 bs 0).toNat ≠ 8 ∨ bs.length ≠ 6 + 3 * n ∨ !j.comps.isEmpty then .error rSyntax
  else if n ≠ 3 ∨ beNat ((bs.drop 1).take 2) ≠ h ∨ beNat ((bs.drop 3).take 2) ≠ w then .error rFormat
  else
    let f : List (Nat × Nat) := comps.map (fun c => (c.h, c.v))
    if f = [(2, 2), (1, 1), (1, 1)] ∨ f = [(2, 1), (1, 1), (1, 1)] then .ok { j with w := w, h := h, comps := comps }
    else .error rFormat

/-- A SOS segment's components; none for a syntax violation. [PRESUMED: log 62] -/
def Jpeg.sos (j : Jpeg) (bs : List Byte) : Option (List JScan) :=
  let n := (nth 0#8 bs 0).toNat
  if n = 0 ∨ 3 < n ∨ bs.length ≠ 4 + 2 * n ∨ (bs.drop (1 + 2 * n)) ≠ [0#8, 63#8, 0#8] then none
  else
    (chunksOf 2 n ((bs.drop 1).take (2 * n))).mapM (fun p =>
      match j.comps.findIdx? (fun c => c.id == (nth 0#8 p 0).toNat) with
      | none => none
      | some i =>
        let td := (nth 0#8 p 1).toNat / 16
        let ta := (nth 0#8 p 1).toNat % 16
        if j.scanned.contains i || (FMap.get [] j.qt (nth ⟨0, 1, 1, 0⟩ j.comps i).tq).isEmpty || (FMap.get [] j.dc td).isEmpty
            || (FMap.get [] j.ac ta).isEmpty then none
        else some ⟨i, td, ta⟩)

/-- Marker segments up to EOI; `fuel` bounds their number. [PRESUMED: log 62] -/
def Jpeg.parse (w h : Nat) : Nat → Jpeg → List Byte → Except Nat Jpeg
  | 0, _, _ => .error rSyntax
  | fuel + 1, j, bs =>
    match bs with
    | 0xFF#8 :: 0xFF#8 :: rest => Jpeg.parse w h fuel j (0xFF#8 :: rest)
    | 0xFF#8 :: m :: rest =>
      if m = 0xD9#8 then (if j.scanned.length = 3 ∧ j.comps.length = 3 then .ok j else .error rSyntax)
      else
        let len := beNat (rest.take 2)
        let seg := (rest.drop 2).take (len - 2)
        let tail := rest.drop len
        if len < 2 ∨ rest.length < len then .error rSyntax
        else if m = 0xDB#8 then
          match j.dqt 64 seg with
          | some j => Jpeg.parse w h fuel j tail
          | none => .error rSyntax
        else if m = 0xC4#8 then
          match j.dht 64 seg with
          | some j => Jpeg.parse w h fuel j tail
          | none => .error rSyntax
        else if m = 0xC0#8 then
          match j.sof w h seg with
          | .ok j => Jpeg.parse w h fuel j tail
          | .error e => .error e
        else if m = 0xDD#8 then
          if len = 4 then Jpeg.parse w h fuel { j with dri := beNat seg } tail else .error rSyntax
        else if m = 0xDA#8 then
          match j.sos seg with
          | none => .error rSyntax
          | some sc =>
            match j.scan sc tail with
            | some (j, rest) => Jpeg.parse w h fuel j rest
            | none => .error rSyntax
        else if (0xE0 ≤ m.toNat ∧ m.toNat ≤ 0xEF) ∨ m = 0xFE#8 then Jpeg.parse w h fuel j tail
        else .error rSyntax
    | _ => .error rSyntax

/-- An image decoded to rows of RGB pixels (R328, R332): the reason of failure, or H rows of W pixels. [PRESUMED: log 26] -/
def jpegImage (w h : Nat) (bs : List Byte) : Except Nat (List (List (List Nat))) :=
  match bs with
  | 0xFF#8 :: 0xD8#8 :: rest =>
    match Jpeg.parse w h (rest.length + 1) ⟨[], [], [], 0, 0, [], 0, [], []⟩ rest with
    | .error e => .error e
    | .ok j =>
      let vs := (nth ⟨0, 1, 1, 0⟩ j.comps 0).v
      let at_ (c x y : Nat) : Nat := nth 0 (FMap.get [] j.blocks (blockKey c (y / 8) (x / 8))) (y % 8 * 8 + x % 8)
      .ok ((List.range h).map (fun y => (List.range w).map (fun x =>
        rgbOf (at_ 0 x y) (at_ 1 (x / 2) (y / vs)) (at_ 2 (x / 2) (y / vs)))))
  | _ => .error rSyntax

/-! ### RFC 2435 (R328) -/

/-- The standard quantisation tables (T.81 Table K.1, K.2), in zigzag order. -/
def lumaQ : List Nat :=
  [16, 11, 12, 14, 12, 10, 16, 14, 13, 14, 18, 17, 16, 19, 24, 40, 26, 24, 22, 22, 24, 49, 35, 37, 29, 40, 58, 51, 61, 60,
   57, 51, 56, 55, 64, 72, 92, 78, 64, 68, 87, 69, 55, 56, 80, 109, 81, 87, 95, 98, 103, 104, 103, 62, 77, 113, 121, 112,
   100, 120, 92, 101, 103, 99]

def chromaQ : List Nat := [17, 18, 18, 24, 21, 24, 47, 26, 26, 47, 99, 66, 56, 66] ++ List.replicate 50 99

/-- The tables of a Q value of 1 to 99. -/
def scaleQ (q : Nat) (t : List Nat) : List Nat :=
  let f := if q < 50 then 5000 / q else 200 - 2 * q
  t.map (fun v => min 255 (max 1 ((v * f + 50) / 100)))

/-- The regular tail of the AC symbols: rows from `hi` on, each from its first size on. -/
def acTail (rows : List (Nat × Nat)) : List Nat :=
  rows.flatMap (fun r => (List.range (11 - r.2)).map (fun i => r.1 * 16 + r.2 + i))

/-- The standard code tables (T.81 Table K.3 to K.6): counts and symbols. -/
def lumaDc : List Nat × List Nat := ([0, 1, 5, 1, 1, 1, 1, 1, 1, 0, 0, 0, 0, 0, 0, 0], List.range 12)
def chromaDc : List Nat × List Nat := ([0, 3, 1, 1, 1, 1, 1, 1, 1, 1, 1, 0, 0, 0, 0, 0], List.range 12)

def lumaAc : List Nat × List Nat :=
  ([0, 2, 1, 3, 3, 2, 4, 3, 5, 5, 4, 4, 0, 0, 1, 125],
   [1, 2, 3, 0, 4, 17, 5, 18, 33, 49, 65, 6, 19, 81, 97, 7, 34, 113, 20, 50, 129, 145, 161, 8, 35, 66, 177, 193,
    21, 82, 209, 240, 36, 51, 98, 114, 130, 9, 10, 22, 23, 24, 25, 26, 37, 38, 39, 40, 41, 42, 52, 53, 54, 55,
    56, 57, 58]
   ++ acTail [(4, 3), (5, 3), (6, 3), (7, 3), (8, 3), (9, 2), (10, 2), (11, 2), (12, 2), (13, 2), (14, 1), (15, 1)])

def chromaAc : List Nat × List Nat :=
  ([0, 2, 1, 2, 4, 4, 3, 4, 7, 5, 4, 4, 0, 1, 2, 119],
   [0, 1, 2, 3, 17, 4, 5, 33, 49, 6, 18, 65, 81, 7, 97, 113, 19, 34, 50, 129, 8, 20, 66, 145, 161, 177, 193, 9,
    35, 51, 82, 240, 21, 98, 114, 209, 10, 22, 36, 52, 225, 37, 241, 23, 24, 25, 26, 38, 39, 40, 41, 42, 53, 54,
    55, 56, 57, 58]
   ++ acTail [(4, 3), (5, 3), (6, 3), (7, 3), (8, 2), (9, 2), (10, 2), (11, 2), (12, 2), (13, 2), (14, 2), (15, 2)])

/-- A marker segment. -/
def jSeg (m : Nat) (body : List Byte) : List Byte := [0xFF#8, BitVec.ofNat 8 m] ++ beBytes 2 (body.length + 2) ++ body

/-- A DHT segment. -/
def jDht (cls : Nat) (t : List Nat × List Nat) : List Byte :=
  jSeg 0xC4 (BitVec.ofNat 8 cls :: (t.1 ++ t.2).map (BitVec.ofNat 8))

/-- The image that RFC 2435 fragments stand for: headers, the scan, EOI. TYPE 0 and 64 are 4:2:2, 1 and 65 are 4:2:0; `lq` and
`cq` are the tables in zigzag order. [PRESUMED: log 26, 62] -/
def rfcImage (type w h dri : Nat) (lq cq : List Byte) (scan : List Byte) : List Byte :=
  [0xFF#8, 0xD8#8] ++ jSeg 0xDB (0#8 :: lq) ++ jSeg 0xDB (1#8 :: cq)
    ++ (if dri = 0 then [] else jSeg 0xDD (beBytes 2 dri))
    ++ jSeg 0xC0 ([8#8] ++ beBytes 2 h ++ beBytes 2 w ++ [3#8, 1#8, (if type % 2 = 0 then 0x21#8 else 0x22#8), 0#8, 2#8, 0x11#8, 1#8, 3#8,
      0x11#8, 1#8])
    ++ jDht 0x00 lumaDc ++ jDht 0x10 lumaAc ++ jDht 0x01 chromaDc ++ jDht 0x11 chromaAc
    ++ jSeg 0xDA [3#8, 1#8, 0x00#8, 2#8, 0x11#8, 3#8, 0x11#8, 0#8, 63#8, 0#8] ++ scan ++ [0xFF#8, 0xD9#8]

end Sys2Proof.Machine
end

