-- ==== Sys2Proof/Machine/Image.lean ====
section
/-! DEFINITION. Sys2Proof/Machine/Image.lean: from a frame to a tensor (R326, R333-R335): unpacking of lines, demosaic, colour
matrix, crop, resize, scale, conversion, layout, digest. -/

namespace Sys2Proof.Machine

/-- An image: rows of pixels of three values. -/
abbrev Img := List (List (List Int))

/-- A value of an image. -/
def Img.at_ (m : Img) (x y c : Nat) : Int := nth 0 (nth [] (nth [] m y) x) c

/-- An image built pixel by pixel. -/
def Img.make (w h : Nat) (f : Nat → Nat → List Int) : Img := (List.range h).map (fun y => (List.range w).map (fun x => f x y))

/-! ### Line formats (R326) -/

/-- LB of a pixel format: bytes of a line of `w` pixels; 0 for a format error. -/
def lineLen (fmt w : Nat) : Nat :=
  match fmt with
  | 1 => w
  | 2 | 3 | 4 => 2 * w
  | 5 => 3 * w
  | _ => 0

/-- Whether a size suits a format: Bayer sizes are even, YUV422 widths are even. -/
def sizeOk (fmt w h : Nat) : Bool :=
  match fmt with
  | 1 | 2 | 3 => w % 2 == 0 && h % 2 == 0
  | 4 => w % 2 == 0
  | 5 => true
  | _ => false

/-- R333: a Bayer sample of b bits as v << (16 - b). -/
def rawAt (fmt : Nat) (line : List Byte) (x : Nat) : Nat :=
  match fmt with
  | 1 => (nth 0#8 line x).toNat * 256
  | 2 => beNat ((line.drop (2 * x)).take 2) % 1024 * 64
  | _ => beNat ((line.drop (2 * x)).take 2) % 4096 * 16

/-- The colour of a Bayer site: 0 R, 1 G, 2 B; orders 0 RGGB, 1 GRBG, 2 GBRG, 3 BGGR (R334). -/
def siteOf (order x y : Nat) : Nat :=
  let cell := match order with
    | 0 => [0, 1, 1, 2]
    | 1 => [1, 0, 2, 1]
    | 2 => [1, 2, 0, 1]
    | _ => [2, 1, 1, 0]
  nth 1 cell (y % 2 * 2 + x % 2)

/-- A neighbour's index, mirrored at the edges: -1 reads 1, n reads n - 2. -/
def mirror (n : Nat) (i : Int) : Nat := if i < 0 then 1 else if (n : Int) ≤ i then n - 2 else i.toNat

/-- R333 stage 1. -/
def demosaic (order w h : Nat) (raw : List (List Nat)) : Img :=
  let p (x y : Int) : Nat := nth 0 (nth [] raw (mirror h y)) (mirror w x)
  let avg2 (a b : Nat) : Nat := (a + b + 1) / 2
  let avg4 (a b c d : Nat) : Nat := (a + b + c + d + 2) / 4
  Img.make w h (fun x y =>
    let i : Int := x
    let j : Int := y
    let own := p i j
    let cross := avg4 (p i (j - 1)) (p i (j + 1)) (p (i + 1) j) (p (i - 1) j)
    let diag := avg4 (p (i - 1) (j - 1)) (p (i + 1) (j - 1)) (p (i - 1) (j + 1)) (p (i + 1) (j + 1))
    let row := avg2 (p (i - 1) j) (p (i + 1) j)
    let col := avg2 (p i (j - 1)) (p i (j + 1))
    match siteOf order x y with
    | 0 => [(own : Int), cross, diag]
    | 2 => [(diag : Int), cross, own]
    | _ => if siteOf order (x + 1) y = 0 then [(row : Int), own, col] else [(col : Int), own, row])

/-- Packed lines to the input of the colour matrix (R326, R333). -/
def lineImage (fmt order w h : Nat) (data : List Byte) : Img :=
  let lines := chunksOf (lineLen fmt w) h data
  match fmt with
  | 4 => lines.map (fun l => (List.range w).map (fun x =>
      let v (i : Nat) : Int := (nth 0#8 l i).toNat * 256
      [v (x / 2 * 4 + x % 2 * 2), v (x / 2 * 4 + 1) - 32768, v (x / 2 * 4 + 3) - 32768]))
  | 5 => lines.map (fun l => (List.range w).map (fun x => (List.range 3).map (fun c => ((nth 0#8 l (3 * x + c)).toNat * 256 : Nat))))
  | _ => demosaic order w h (lines.map (fun l => (List.range w).map (fun x => rawAt fmt l x)))

/-! ### The plan (R334) -/

/-- A word of a plan, or of its targets behind it. -/
def planW (pl : List Byte) (i : Nat) : Nat := leNat ((pl.drop (4 * i)).take 4)

def planOtype (pl : List Byte) : Nat := bitsOf (planW pl 0) 31 28
def planDense (pl : List Byte) : Bool := bitOf (planW pl 0) 27
def planArea (pl : List Byte) : Bool := bitOf (planW pl 0) 26
def planBayer (pl : List Byte) : Nat := bitsOf (planW pl 0) 25 24
def planNtgt (pl : List Byte) : Nat := bitsOf (planW pl 0) 23 16
def planNbuf (pl : List Byte) : Nat := bitsOf (planW pl 0) 15 8
def planFree (pl : List Byte) : Bool := bitOf (planW pl 0) 7
def planX0 (pl : List Byte) : Nat := bitsOf (planW pl 2) 31 16
def planY0 (pl : List Byte) : Nat := planW pl 2 % 65536
def planCW (pl : List Byte) : Nat := bitsOf (planW pl 3) 31 16
def planCH (pl : List Byte) : Nat := planW pl 3 % 65536
def planOW (pl : List Byte) : Nat := bitsOf (planW pl 4) 31 16
def planOH (pl : List Byte) : Nat := planW pl 4 % 65536
def planMx (pl : List Byte) : Bool := decide (2 ≤ planOtype pl)

/-- M[i][j] at halfword 3i + j of words 5 to 9. -/
def planM (pl : List Byte) (i j : Nat) : Int := sx 16 (leNat ((pl.drop (20 + 2 * (3 * i + j))).take 2))

/-- The element type of OTYPE. -/
def planType (pl : List Byte) : VType :=
  match planOtype pl with
  | 0 => .int8
  | 1 => .bf16
  | 2 => .mxint8
  | _ => .e4m3

/-- E: bytes of an element. -/
def planE (pl : List Byte) : Nat := if planOtype pl = 1 then 2 else 1

/-- Target t's word j. -/
def tgtW (pl : List Byte) (t j : Nat) : Nat := planW pl (32 + 8 * t + j)
def tgtOn (pl : List Byte) (t : Nat) : Bool := bitOf (tgtW pl t 0) 31
def tgtCore (pl : List Byte) (t : Nat) : Nat := tgtW pl t 0 % 1024
def tgtIy0 (pl : List Byte) (t : Nat) : Nat := bitsOf (tgtW pl t 2) 31 16
def tgtRows (pl : List Byte) (t : Nat) : Nat := tgtW pl t 2 % 65536

/-! ### Stages 2 to 6 (R333) -/

/-- Stage 2. -/
def colour (pl : List Byte) (m : Img) : Img :=
  m.map (fun row => row.map (fun px => (List.range 3).map (fun i =>
    clampI (asr ((List.range 3).foldl (fun t j => t + planM pl i j * nth 0 px j) 0 + 2048) 12) 0 65535)))

/-- srcq. -/
def srcq (o n m : Nat) : Nat := (clampI ((((2 * o + 1) * n * 32768 / m : Nat) : Int) - 32768) 0 ((n - 1) * 65536 : Nat)).toNat

/-- BILINEAR along one axis: output `o` of `m` from a line of `n` pixels. -/
def bilin (n m o : Nat) (p : Nat → Nat → Int) : List Int :=
  let q := srcq o n m
  let i0 := q / 65536
  let f : Int := (q / 256 % 256 : Nat)
  let i1 := min (i0 + 1) (n - 1)
  (List.range 3).map (fun c => asr (p i0 c * (256 - f) + p i1 c * f + 128) 8)

/-- Stages 3 and 4: crop and resize. -/
def resize (pl : List Byte) (m : Img) : Img :=
  let cw := planCW pl
  let ch := planCH pl
  let ow := planOW pl
  let oh := planOH pl
  let src (x y c : Nat) : Int := m.at_ (planX0 pl + x) (planY0 pl + y) c
  if planArea pl then
    Img.make ow oh (fun x y =>
      let a := x * cw / ow
      let b := (x + 1) * cw / ow
      let d := y * ch / oh
      let e := (y + 1) * ch / oh
      let cnt := (b - a) * (e - d)
      (List.range 3).map (fun c =>
        let sum := (List.range (e - d)).foldl (fun t j => (List.range (b - a)).foldl (fun t i => t + src (a + i) (d + j) c) t) (0 : Int)
        floorDivI (sum + (cnt / 2 : Nat)) (max 1 cnt)))
  else
    let hz : Img := Img.make ow ch (fun x y => bilin cw ow x (fun i c => src i y c))
    Img.make ow oh (fun x y => bilin ch oh y (fun j c => hz.at_ x j c))

/-- Stage 5: the output tensor in FP32, row-major, channels innermost. -/
def scaled (pl : List Byte) (m : Img) : List Nat :=
  m.flatMap (fun row => row.flatMap (fun px => (List.range 3).map (fun c =>
    f32Fma (f32OfInt (nth 0 px c)) (planW pl (10 + c)) (planW pl (13 + c)))))

/-- The output tensor: element codes in row-major order, and for MX its scale bytes (stage 6). -/
structure Tensor where
  codes : List Nat
  scales : List Nat

/-- Stage 6. -/
def tensorOf (pl : List Byte) (v : List Nat) : Tensor :=
  let t := planType pl
  if planMx pl then
    let bs := (chunksOf 32 (v.length / 32 + 1) v).map (fun b => (b.length, mxQuant t (padTo (.fin false 0 0) 32 (b.map f32v))))
    ⟨bs.flatMap (fun b => b.2.2.take b.1), bs.map (fun b => b.2.1)⟩
  else ⟨v.map (fun x => t.encode (f32v x)), []⟩

/-- Stages 2 to 6 of an input image. -/
def preprocess (pl : List Byte) (m : Img) : Tensor := tensorOf pl (scaled pl (resize pl (colour pl m)))

/-- R196: the canonical serialisation. -/
def Tensor.bytes (t : Tensor) (e : Nat) : List Byte := t.codes.flatMap (leBytes e) ++ t.scales.map (BitVec.ofNat 8)

/-- R197: the digest of a tensor, the root of the tree over its leaves. -/
def tensorDigest (id : Nat) (bs : List Byte) : List Byte :=
  let cs := chunksOf 4096 (bs.length / 4096 + 1) bs
  let cs := if cs.isEmpty then [[]] else cs
  let leaves := cs.zipIdx.map (fun c => leafDigest id c.2 (padTo 0#8 4096 c.1))
  (bct nodeDigest (fun i => nth [] leaves i) leaves.length).getD []

/-! ### Stage 7: placement (R335) -/

/-- A run of bytes cut where cells of 32 bytes end. -/
def cutCells (off : Nat) : Nat → List Byte → List (Nat × List Byte)
  | 0, _ => []
  | fuel + 1, bs =>
    if bs.isEmpty then []
    else
      let n := 32 - off % 32
      (off, bs.take n) :: cutCells (off + n) fuel (bs.drop n)

/-- The elements of value +0 that fill the last block of an MX tensor (R31); they follow its last element. [DEDUCED: log 63] -/
def tailPad (pl : List Byte) : Nat := if planMx pl then (32 - 3 * planOW pl * planOH pl % 32) % 32 else 0

/-- What a target stores, as (byte offset in its buffer, bytes), each within one cell. -/
def tgtPieces (pl : List Byte) (t : Nat) (o : Tensor) : List (Nat × List Byte) :=
  let e := planE pl
  let ow := planOW pl
  let iy0 := tgtIy0 pl t
  let rowp := tgtW pl t 4
  let row (y : Nat) : List Nat := (o.codes.drop (3 * ow * (iy0 + y))).take (3 * ow)
  let body := (List.range (tgtRows pl t)).flatMap (fun y =>
    if planDense pl then
      let bs := (row y ++ List.replicate (if iy0 + y + 1 = planOH pl then tailPad pl else 0) 0).flatMap (leBytes e)
      cutCells (32 * y * rowp) (bs.length + 1) bs
    else
      (List.range ow).flatMap (fun x =>
        let bs := padTo 0#8 (32 * e) (((row y).drop (3 * x)).take 3 |>.flatMap (leBytes e))
        cutCells (32 * (y * rowp + x * e)) (e + 1) bs))
  let first := iy0 * ow * 3 / 32
  let sc := (o.scales.drop first).take (ceilDiv (tgtRows pl t * ow * 3) 32)
  body ++ cutCells (planW pl 22 % 2 ^ 22) (sc.length + 1) (sc.map (BitVec.ofNat 8))

/-- Where byte `off` of a cell stream lies (R136, R137). -/
def Plane.byteAt (d : Plane) (off : Nat) : Nat :=
  if d.xpose then
    let sz := 2 ^ d.esize
    let e := 32 / sz
    let n := off % 1024 / sz
    let mb := (n % 32 * e + n / 32) * sz + off % sz
    d.cellAddr (off / 1024 * 32 + mb / 32) + mb % 32
  else d.cellAddr (off / 32) + off % 32

end Sys2Proof.Machine
end

