-- ==== Sys2Proof/Machine/Aes.lean ====
section
/-! DEFINITION. Sys2Proof/Machine/Aes.lean: AES-256 and AES-256-GCM, the cipher of spill images and of recorder blocks
(R476, R479, R490). -/

namespace Sys2Proof.Machine

/-- The S-box, by rows of 16. -/
def aesSbox : List Nat :=
  [0x63, 0x7c, 0x77, 0x7b, 0xf2, 0x6b, 0x6f, 0xc5, 0x30, 0x1, 0x67, 0x2b, 0xfe, 0xd7, 0xab, 0x76]
  ++ [0xca, 0x82, 0xc9, 0x7d, 0xfa, 0x59, 0x47, 0xf0, 0xad, 0xd4, 0xa2, 0xaf, 0x9c, 0xa4, 0x72, 0xc0]
  ++ [0xb7, 0xfd, 0x93, 0x26, 0x36, 0x3f, 0xf7, 0xcc, 0x34, 0xa5, 0xe5, 0xf1, 0x71, 0xd8, 0x31, 0x15]
  ++ [0x4, 0xc7, 0x23, 0xc3, 0x18, 0x96, 0x5, 0x9a, 0x7, 0x12, 0x80, 0xe2, 0xeb, 0x27, 0xb2, 0x75]
  ++ [0x9, 0x83, 0x2c, 0x1a, 0x1b, 0x6e, 0x5a, 0xa0, 0x52, 0x3b, 0xd6, 0xb3, 0x29, 0xe3, 0x2f, 0x84]
  ++ [0x53, 0xd1, 0x0, 0xed, 0x20, 0xfc, 0xb1, 0x5b, 0x6a, 0xcb, 0xbe, 0x39, 0x4a, 0x4c, 0x58, 0xcf]
  ++ [0xd0, 0xef, 0xaa, 0xfb, 0x43, 0x4d, 0x33, 0x85, 0x45, 0xf9, 0x2, 0x7f, 0x50, 0x3c, 0x9f, 0xa8]
  ++ [0x51, 0xa3, 0x40, 0x8f, 0x92, 0x9d, 0x38, 0xf5, 0xbc, 0xb6, 0xda, 0x21, 0x10, 0xff, 0xf3, 0xd2]
  ++ [0xcd, 0xc, 0x13, 0xec, 0x5f, 0x97, 0x44, 0x17, 0xc4, 0xa7, 0x7e, 0x3d, 0x64, 0x5d, 0x19, 0x73]
  ++ [0x60, 0x81, 0x4f, 0xdc, 0x22, 0x2a, 0x90, 0x88, 0x46, 0xee, 0xb8, 0x14, 0xde, 0x5e, 0xb, 0xdb]
  ++ [0xe0, 0x32, 0x3a, 0xa, 0x49, 0x6, 0x24, 0x5c, 0xc2, 0xd3, 0xac, 0x62, 0x91, 0x95, 0xe4, 0x79]
  ++ [0xe7, 0xc8, 0x37, 0x6d, 0x8d, 0xd5, 0x4e, 0xa9, 0x6c, 0x56, 0xf4, 0xea, 0x65, 0x7a, 0xae, 0x8]
  ++ [0xba, 0x78, 0x25, 0x2e, 0x1c, 0xa6, 0xb4, 0xc6, 0xe8, 0xdd, 0x74, 0x1f, 0x4b, 0xbd, 0x8b, 0x8a]
  ++ [0x70, 0x3e, 0xb5, 0x66, 0x48, 0x3, 0xf6, 0xe, 0x61, 0x35, 0x57, 0xb9, 0x86, 0xc1, 0x1d, 0x9e]
  ++ [0xe1, 0xf8, 0x98, 0x11, 0x69, 0xd9, 0x8e, 0x94, 0x9b, 0x1e, 0x87, 0xe9, 0xce, 0x55, 0x28, 0xdf]
  ++ [0x8c, 0xa1, 0x89, 0xd, 0xbf, 0xe6, 0x42, 0x68, 0x41, 0x99, 0x2d, 0xf, 0xb0, 0x54, 0xbb, 0x16]

/-- SubBytes of one byte. -/
def aesSub (x : Nat) : Nat := nth 0 aesSbox x

/-- Multiplication by x in the AES field. -/
def aesX (v : Nat) : Nat := if v < 128 then 2 * v else (2 * v) ^^^ 0x11B

/-- The bytes of two lists, XORed. -/
def xorBytes (a b : List Nat) : List Nat := List.zipWith (· ^^^ ·) a b

/-- One more word of the key schedule, given the words so far and its index. -/
def aesNextWord (ws : List (List Nat)) (rcon i : Nat) : List Nat :=
  let t := nth [] ws (i - 1)
  let t := if i % 8 = 0 then
      let r := (t.drop 1 ++ t.take 1).map aesSub
      (nth 0 r 0 ^^^ rcon) :: r.drop 1
    else if i % 8 = 4 then t.map aesSub else t
  xorBytes (nth [] ws (i - 8)) t

/-- The 60 words of the key schedule; `fuel` counts those to come. -/
def aesExpand : Nat → Nat → List (List Nat) → List (List Nat)
  | 0, _, ws => ws
  | fuel + 1, rcon, ws =>
    let i := ws.length
    aesExpand fuel (if i % 8 = 0 then aesX rcon else rcon) (ws ++ [aesNextWord ws rcon i])

/-- The 15 round keys of a 32-byte key. -/
def aesKeys (key : List Nat) : List (List Nat) :=
  (chunksOf 4 15 (aesExpand 52 1 (chunksOf 4 8 key))).map List.flatten

/-- ShiftRows on 16 bytes in column order. -/
def aesShift (b : List Nat) : List Nat := (List.range 16).map (fun i => nth 0 b ((i + i % 4 * 4) % 16))

/-- MixColumns on one column. -/
def aesMixCol (c : List Nat) : List Nat :=
  let all := c.foldl (· ^^^ ·) 0
  (List.range 4).map (fun i => nth 0 c i ^^^ all ^^^ aesX (nth 0 c i ^^^ nth 0 c ((i + 1) % 4)))

/-- The rounds after the first key; the last one mixes no columns. -/
def aesRounds : List (List Nat) → List Nat → List Nat
  | [], b => b
  | [k], b => xorBytes (aesShift (b.map aesSub)) k
  | k :: ks, b => aesRounds ks (xorBytes ((chunksOf 4 4 (aesShift (b.map aesSub))).map aesMixCol).flatten k)

/-- AES-256 of one block of 16 bytes. -/
def aesBlock (keys : List (List Nat)) (b : List Nat) : List Nat := aesRounds (keys.drop 1) (xorBytes b (nth [] keys 0))

/-- A block as a 128-bit number, first byte most significant. -/
def blockNat (b : List Nat) : Nat := (padTo 0 16 b).foldl (fun v x => v * 256 + x) 0

/-- A 128-bit number as a block. -/
def natBlock (v : Nat) : List Nat := (List.range 16).map (fun i => v / 256 ^ (15 - i) % 256)

/-- Multiplication in the field of GHASH; `n` bits of x are left, from the most significant. -/
def ghashMul : Nat → Nat → Nat → Nat → Nat
  | 0, _, _, z => z
  | n + 1, x, v, z =>
    ghashMul n x (if v % 2 = 1 then (v / 2) ^^^ (0xE1 * 2 ^ 120) else v / 2) (if bitOf x n then z ^^^ v else z)

/-- GHASH of a list of blocks. -/
def ghash (h : Nat) (bs : List (List Nat)) : Nat := bs.foldl (fun y b => ghashMul 128 (y ^^^ blockNat b) h 0) 0

/-- Blocks of 16 bytes, the last one short. -/
def blocks16 (m : List Nat) : List (List Nat) := chunksOf 16 (ceilDiv m.length 16) m

/-- Counter-mode encryption under a 12-byte IV, counters from 2. -/
def gcmCtr (keys : List (List Nat)) (iv m : List Nat) : List Nat :=
  ((blocks16 m).zipIdx.map (fun b => xorBytes b.1 (aesBlock keys (iv ++ (natBlock (b.2 + 2)).drop 12)))).flatten

/-- The GCM tag of a ciphertext and its authenticated data. -/
def gcmTag (keys : List (List Nat)) (iv aad c : List Nat) : List Nat :=
  let h := blockNat (aesBlock keys (List.replicate 16 0))
  let lens := natBlock (8 * aad.length * 2 ^ 64 + 8 * c.length)
  xorBytes (natBlock (ghash h (blocks16 aad ++ blocks16 c ++ [lens]))) (aesBlock keys (iv ++ [0, 0, 0, 1]))

/-- Bytes as numbers, and back. -/
def natsOf (bs : List Byte) : List Nat := bs.map BitVec.toNat
def bytesOf (ns : List Nat) : List Byte := ns.map (BitVec.ofNat 8)

/-- AES-256-GCM: ciphertext and 16-byte tag. [PRESUMED: log 26] -/
def gcmSeal (key iv aad m : List Byte) : List Byte × List Byte :=
  let ks := aesKeys (natsOf key)
  let c := gcmCtr ks (natsOf iv) (natsOf m)
  (bytesOf c, bytesOf (gcmTag ks (natsOf iv) (natsOf aad) c))

/-- AES-256-GCM opened: the plaintext, none when the tag is wrong. [PRESUMED: log 26] -/
def gcmOpen (key iv aad c tag : List Byte) : Option (List Byte) :=
  let ks := aesKeys (natsOf key)
  if bytesOf (gcmTag ks (natsOf iv) (natsOf aad) (natsOf c)) = tag then some (bytesOf (gcmCtr ks (natsOf iv) (natsOf c)))
  else none

end Sys2Proof.Machine
end

