-- ==== Sys2Proof/Machine/Rings.lean ====
section
/-! DEFINITION. Sys2Proof/Machine/Rings.lean: queue pairs and completion entries (R271-R276, R282-R284, R288). -/

namespace Sys2Proof.Machine

/-- A queue pair's key. -/
def qpKey (f q : Nat) : Nat := f * 64 + q

/-- The device side of a queue pair. -/
def State.qp (s : State) (f q : Nat) : QpSt := FMap.get ⟨0, 0, 0, false, false⟩ s.host.qps (qpKey f q)

/-- The device side of a queue pair changed by a function. -/
def State.onQp (s : State) (f q : Nat) (g : QpSt → QpSt) : State :=
  s.onHost (fun h => { h with qps := FMap.set ⟨0, 0, 0, false, false⟩ h.qps (qpKey f q) (g (FMap.get ⟨0, 0, 0, false, false⟩ h.qps (qpKey f q))) })

/-- STATE of a queue pair: 0 OFF, 1 ON, 2 DRAINING, 3 ERROR (R271). -/
def State.qpState (s : State) (f q : Nat) : Nat := s.fld (R.HI_QP_STAT f q) F.HI_QP_STAT_STATE

/-- Ring sizes of a pair. -/
def State.sqSize (s : State) (f q : Nat) : Nat := 2 ^ s.fld (R.HI_QP_CFG f q) F.HI_QP_CFG_SQLOG2
def State.cqSize (s : State) (f q : Nat) : Nat := 2 ^ s.fld (R.HI_QP_CFG f q) F.HI_QP_CFG_CQLOG2

/-- Completion statuses (R284). -/
def stOk : Nat := 0x00
def stBadOpcode : Nat := 0x01
def stBadDesc : Nat := 0x02
def stPrivilege : Nat := 0x03
def stNoPartition : Nat := 0x04
def stNoContext : Nat := 0x05
def stNoReach : Nat := 0x06
def stBound : Nat := 0x07
def stZeroing : Nat := 0x08
def stDma : Nat := 0x09
def stVerify : Nat := 0x0A
def stNoPages : Nat := 0x0B
def stPteInvalid : Nat := 0x0C
def stPteStale : Nat := 0x0D
def stTimeout : Nat := 0x12
def stTree : Nat := 0x13
def stFenced : Nat := 0x14
def stFrogged : Nat := 0x15
def stAborted : Nat := 0x16
def stNotReady : Nat := 0x17
def stLength : Nat := 0x18
def stBadState : Nat := 0x19
def stPlane : Nat := 0x1A

/-- Byte `i` of a descriptor, and a little-endian field of `n` bytes (R277). -/
def Desc.at_ (d : Desc) (i n : Nat) : Nat := leNat ((d.raw.drop i).take n)
def Desc.opcode (d : Desc) : Nat := d.at_ 0 1
def Desc.fence (d : Desc) : Bool := bitOf (d.at_ 1 1) 0
def Desc.ctx (d : Desc) : Nat := d.at_ 2 1 % 8

/-- QP_ERROR (R272, R286): a pair whose fetch or completion write failed enters ERROR. -/
def State.qpFail (s : State) (f q : Nat) (wrote : Bool) : State :=
  let s := s.setBit (R.HI_QP_STAT f q) F.HI_QP_STAT_DMA_ERR
  let s := if wrote then s.onQp f q (fun x => { x with broken := true }) else s
  if s.qpState f q = 1 then
    (s.setFld (R.HI_QP_STAT f q) F.HI_QP_STAT_STATE 3).logEvent f ⟨evQpError, 0, 0, false, leBytes 1 q⟩
  else s

/-- The 32 bytes of a completion entry (R282). -/
def entryBytes (d : Desc) (sqHead status phase time : Nat) (result : List Byte) : List Byte :=
  leBytes 2 d.idx ++ leBytes 2 sqHead ++ leBytes 2 status ++ leBytes 1 d.opcode
    ++ leBytes 1 (phase * 128 + d.part % 4 * 16 + d.ctx) ++ leBytes 4 time ++ (d.raw.drop 4).take 4 ++ padTo 0#8 16 result

/-- R288: a completion entry's vector, when the CQ is armed and IEN is 1; it is then disarmed. -/
def State.cqNotify (s : State) (f q : Nat) : State :=
  let cfg := s.rd (R.HI_QP_CFG f q)
  if (s.qp f q).armed && isSet cfg F.HI_QP_CFG_IEN then
    (s.onQp f q (fun x => { x with armed := false })).msix f (getF cfg F.HI_QP_CFG_VEC)
  else s

/-- The completion entry of a descriptor is written (R282, R283). A pair that has failed a completion write, or a VF that
NumVFs does not cover, writes none (R264, R272). -/
def State.writeEntry (s : State) (d : Desc) (status : Nat) (result : List Byte) : State :=
  let f := d.fn
  let q := d.qp
  if (s.qp f q).broken || !s.fnUp f then s
  else
    let tail := s.fld (R.HI_QP_CQ_TAIL f q) F.HI_QP_CQ_TAIL_TAIL
    let phase := s.fld (R.HI_QP_CQ_TAIL f q) F.HI_QP_CQ_TAIL_PHASE
    let head := s.fld (R.HI_QP_SQ_HEAD f q) F.HI_QP_SQ_HEAD_HEAD
    let base := s.pair (R.HI_QP_CQ_BASE_LO f q) (R.HI_QP_CQ_BASE_HI f q)
    let (s, done) := s.hostWrite (base + tail * 32) (entryBytes d head status phase s.tb2 result)
    if !done then s.qpFail f q true
    else
      let next := (tail + 1) % s.cqSize f q
      let s := s.setFld (R.HI_QP_CQ_TAIL f q) F.HI_QP_CQ_TAIL_TAIL next
      let s := s.setFld (R.HI_QP_CQ_TAIL f q) F.HI_QP_CQ_TAIL_PHASE (if next = 0 then 1 - phase else phase)
      (s.onQp f q (fun x => { x with unread := x.unread + 1 })).cqNotify f q

/-- A trace record of a queue pair (CLASS 2, R485). -/
def State.markDesc (s : State) (d : Desc) (event : Nat) : State :=
  s.mark ⟨4, 2, d.fn, d.qp, event, d.part, d.ctx, d.at_ 4 4, 0, 0, false, false⟩

/-- A descriptor completes: it leaves the device, INFLIGHT falls, its entry is written (R271, R282, R486). -/
def State.complete (s : State) (id status : Nat) (result : List Byte) : State :=
  match s.host.descs.find? (fun d => d.id == id) with
  | none => s
  | some d =>
    let s := s.onHost (fun h => { h with descs := h.descs.filter (fun e => e.id != id) })
    let n := s.fld (R.HI_QP_STAT d.fn d.qp) F.HI_QP_STAT_INFLIGHT
    let s := s.setFld (R.HI_QP_STAT d.fn d.qp) F.HI_QP_STAT_INFLIGHT (n - 1)
    (s.markDesc d tvEnd).writeEntry d status result

/-- Every descriptor that a test names completes with a status. -/
def State.completeAll (s : State) (f : Desc → Bool) (status : Nat) : State :=
  s.each (s.host.descs.filter f) (fun s d => s.complete d.id status [])

/-- R280: the opcodes that act on context CTX. LOAD_PROGRAM acts on it under KIND 0. -/
def Desc.actsOnCtx (d : Desc) : Bool :=
  match d.opcode with
  | 1 => d.at_ 20 1 == 0
  | 2 | 3 | 4 | 7 | 8 | 10 | 11 | 12 | 14 => true
  | _ => false

/-- R280: the opcodes that act on a partition. -/
def Desc.actsOnPart (d : Desc) : Bool :=
  match d.opcode with
  | 0 | 13 | 15 => false
  | 1 => d.at_ 20 1 == 0
  | _ => true

end Sys2Proof.Machine
end

