-- ==== Sys2Proof/Machine/Part.lean ====
section
/-! DEFINITION. Sys2Proof/Machine/Part.lean: partitions and contexts (R292-R317): shares, selection, page groups, stopping
cores, teardown, partition reset. -/

namespace Sys2Proof.Machine

/-! ### Shares (R302-R304) -/

/-- The SHARE register of a context: it lies in the block of the partition's lowest channel (R320). -/
def State.shareReg (s : State) (p x : Nat) : Nat := R.CTX_SHARE (s.part p).low x

/-- R303: a charge of E cycles under weight W to a virtual time and its remainder. -/
def chargeVt (vt rem E W : Nat) : Nat × Nat :=
  let num := (E * 65536 + rem) % 2 ^ 64
  ((vt + num / W) % 2 ^ 64, num % W)

/-- R302, R303: E cycles of engine time charged to a context's ETIME and to the virtual time of the share in use. [DESIGN CHOICE: log 13] -/
def State.charge (s : State) (p x E : Nat) : State :=
  let s := s.onCtx p x (fun t => { t with etime := (t.etime + E) % 2 ^ 64 })
  let y := (s.ctx p x).donorOf.getD x
  let w := max 1 (s.fld (s.shareReg p y) F.CTX_SHARE_WEIGHT)
  s.onCtx p y (fun t => { t with vt := (chargeVt t.vt t.rem E w).1, rem := (chargeVt t.vt t.rem E w).2 })

/-- vt values compare by the sign of their difference (R303). [DEDUCED: log 55] -/
def vtLess (a b : Nat) : Bool := decide (sx 64 (a + 2 ^ 64 - b) < 0)

/-- REPAIR of a context (R444). -/
def State.repairReg (s : State) (p x : Nat) : Nat := R.CTX_REPAIR (s.part p).low x
def State.inRepair (s : State) (p x : Nat) : Bool := s.bit (s.repairReg p x) F.CTX_REPAIR_REPAIR

/-- The contexts R304 chooses from; a discarded step that is not repeatable has no further run (R442). [DEDUCED: log 55] -/
def State.candidates (s : State) (p : Nat) : List Nat :=
  (List.range 8).filter (fun x => (s.ctx p x).state == .runnable && !(s.ctx p x).queue.isEmpty && !s.inRepair p x
    && !((s.ctx p x).discarded && (s.ctx p x).left))

/-- R304: the candidate with the lowest vt; the outgoing one wins a tie, then the lowest number. [DEDUCED: log 55] -/
def State.pick (s : State) (p : Nat) (out : Option Nat) : Option Nat :=
  match s.candidates p with
  | [] => none
  | c :: cs =>
    let best := cs.foldl (fun b x => if vtLess (s.ctx p x).vt (s.ctx p b).vt then x else b) c
    match out with
    | some o => if (c :: cs).contains o && !vtLess (s.ctx p best).vt (s.ctx p o).vt then some o else some best
    | none => some best

/-- Whether every channel of a partition is ON (R319). -/
def State.chansOn (s : State) (p : Nat) : Bool := (s.part p).chans.all (fun n => s.fld (R.CP_STAT n) F.CP_STAT_STATE == 1)

/-- A context takes the partition's cores; its step starts when the switch is done (R305). -/
def State.engage (s : State) (p x : Nat) : State :=
  let sw := (s.part p).last != some x
  let s := s.onPart p (fun q => { q with cur := some x })
  s.onCtx p x (fun t => { t with
    state := if t.donorOf.isSome then .donating else .running
    waitsOn := none
    starting := true
    running := false
    switched := sw })

/-- R304: the selection, when no context holds the cores and no context's part is still to stop. -/
def State.select (s : State) (p : Nat) (out : Option Nat) : State :=
  if (s.part p).cur.isSome || (s.part p).resetting.isSome || !s.chansOn p
      || (List.range 8).any (fun x => !(s.ctx p x).stopWait.isEmpty) then s
  else
    match s.pick p out with
    | none => s
    | some x => s.engage p x

/-- R303: the lowest vt of the partition's other contexts with work. -/
def State.vmin (s : State) (p x : Nat) : Option Nat :=
  let others := (List.range 8).filter (fun y => y != x &&
    ((s.ctx p y).state == .runnable || (s.ctx p y).state == .running || (s.ctx p y).state == .donating))
  match others with
  | [] => none
  | y :: ys => some (ys.foldl (fun m z => if vtLess (s.ctx p z).vt m then (s.ctx p z).vt else m) (s.ctx p y).vt)

/-- A step joins a context's queue (R298): a context that was IDLE becomes RUNNABLE, and cannot have banked turns (R303). -/
def State.queueStep (s : State) (p x : Nat) (st : Step) : State :=
  let t := s.ctx p x
  let vt := match s.vmin p x with
    | some m => if t.state == .idle && vtLess t.vt m then m else t.vt
    | none => t.vt
  let s := s.onCtx p x (fun t => { t with
    queue := t.queue ++ [st]
    vt := vt
    state := if t.state == .idle then .runnable else t.state })
  s.select p none

/-! ### Page groups (R306-R309) -/

/-- Whether the word at a slice offset is a VALID entry that names a group, whatever its generation. [DEDUCED: log 38] -/
def State.namesGroup (s : State) (p : Nat) (g : PoolGroup) (off : Nat) : Bool :=
  let e := s.sliceU32 p off
  bitOf e 31 && bitsOf e 29 20 == g.off && bitsOf e 19 8 == g.slot

/-- Whether the word at a slice offset is a VALID entry that names a group with its current generation (R208, R309). [DEDUCED: log 38] -/
def State.current (s : State) (p : Nat) (g : PoolGroup) (off : Nat) : Bool := s.namesGroup p g off && s.sliceU32 p off % 256 == g.gen

/-- The entry at a slice offset loses VALID, its bit 31 (R309). [DEDUCED: log 38] -/
def State.clearEntry (s : State) (p off : Nat) : State :=
  s.putSlice p (off + 3) ((s.sliceBytes p (off + 3) 1).map (fun b => b &&& 0x7F#8))

/-- A group as its release leaves it (R309): FREE, with the next generation; of the entries that named it those go on being kept that a
later generation may find (R309 clears the entries with the current one). [DEDUCED: log 38] -/
def State.releasedGroup (s : State) (p : Nat) (g : PoolGroup) : PoolGroup :=
  { g with st := .free, gen := (g.gen + 1) % 256, entries := g.entries.filter (s.namesGroup p g), hdim := 0 }

/-- R309: the groups that a test names are released: entries cleared, generation incremented, FREE. [DEDUCED: log 38, 59] -/
def State.releaseGroups (s : State) (p : Nat) (f : PoolGroup → Bool) : State :=
  let gs := (s.part p).pool.filter f
  let s := s.each (gs.flatMap (fun g => g.entries.filter (s.current p g))) (fun s off => s.clearEntry p off)
  s.onPart p (fun q => { q with pool := q.pool.map (fun g => if f g then s.releasedGroup p g else g) })

/-- Whether a group belongs to a context. -/
def PoolGroup.ownedBy (g : PoolGroup) (x : Nat) : Bool :=
  match g.st with
  | .free => false
  | .alloc c => c == x
  | .pending c _ => c == x

/-! ### Stopping (R75, R85) -/

/-- The cores on which a context's part of its step is still running. -/
def State.runningCores (s : State) (p x : Nat) : List Nat :=
  ((s.ctx p x).cores.map (·.core)).filter (fun c => s.isRunning c && (s.slot c (s.active c)).owner == some (p, x))

/-- Issue stops on every core of a context's running step (R85, R313, R436). -/
def State.stopCores (s : State) (p x : Nat) : State :=
  let cs := s.runningCores p x
  let s := s.each cs (fun s c => s.onCore c (fun y => { y with stopped := true }))
  s.onCtx p x (fun t => { t with stopWait := cs })

/-- A window's zeroing starts (R141). -/
def State.startZero (s : State) (c k : Nat) : State :=
  if s.bit (winReg c k) F.CORE_WIN_CFG_EN then
    (s.setFld (statReg c) F.CORE_STAT_ZEROING (Machine.setBit (s.fld (statReg c) F.CORE_STAT_ZEROING) k true)).zeroStops c k
  else s

/-- In a partition reset the windows of a core are zeroed one after another, lowest slot first (R141): the next one starts when none
is zeroing. [DEDUCED: log 57] -/
def State.zeroNext (s : State) (c : Nat) : State :=
  if s.fld (statReg c) F.CORE_STAT_ZEROING ≠ 0 then s
  else
    match (bitsSet (s.core c).toZero 4).head? with
    | none => s
    | some k => (s.onCore c (fun x => { x with toZero := Machine.setBit x.toZero k false })).startZero c k

/-- A partition reset has every enabled window of a core zeroed; one whose zeroing runs already is not zeroed again. [DEDUCED: log 57] -/
def State.zeroCore (s : State) (c : Nat) : State :=
  let todo := (List.range 4).foldl (fun m k => if s.bit (winReg c k) F.CORE_WIN_CFG_EN && !s.zeroing c k then m + 2 ^ k else m) 0
  (s.onCore c (fun x => { x with toZero := todo })).zeroNext c

/-- Zeroing starts on the cores of a context that have nothing to stop (R141, R315). -/
def State.zeroIdle (s : State) (p x : Nat) : State :=
  s.each ((s.ctx p x).cores.filter (fun r => !(s.ctx p x).stopWait.contains r.core)) (fun s r => s.startZero r.core r.slot)

/-- The array, loops and tokens of a core as at a step start (R75, R111). -/
def CoreSt.quiet (x : CoreSt) (k : Nat) : CoreSt :=
  let x := x.setSlot k { x.slot k with loops := [], pend := 0 }
  { x with wait := .none, stopped := false, ops := [], seen := [], posted := [], act := .zero, shadow := none, acc0 := .empty, acc1 := .empty,
           cwd := none, lbufs := [] }

/-- Waits of a context leave the queues (R313, R440); one that has gone to another chip of the cluster is cancelled there (R248).
[DESIGN CHOICE: log 40] -/
def State.dropWaits (s : State) (p x : Nat) : State :=
  let cs := (s.ctx p x).cores.map (·.core)
  let mine : Nat → Bool := fun c => cs.contains c && (s.slot c (s.active c)).owner == some (p, x)
  let far := s.noc.farWaits.filter (fun w => mine w.core)
  let s := s.onNoc (fun n => { n with farWaits := n.farWaits.filter (fun w => !mine w.core) })
  let s := s.each far (fun s w => s.sendCtrl w.dst (.cancel w.dst s.own w.obj w.core w.id))
  s.removeWaits p mine

/-- End-to-end credits that a context holds or has asked for are given back (R313, R315). -/
def State.dropCredits (s : State) (p x : Nat) : State :=
  let mine := s.noc.e2e.filter (fun e => e.part == p && e.msg.ctx == x)
  let s := s.each mine (fun s e => s.sendCtrl e.msg.dst (.giveBack e.msg.dst s.own e.msg.id))
  s.onNoc (fun n => { n with e2e := n.e2e.filter (fun e => !(e.part == p && e.msg.ctx == x)) })

/-- Attention commands and partials of a context are discarded (R192, R217). -/
def State.dropWork (s : State) (p x : Nat) : State :=
  let s := s.onNoc (fun n => { n with
    attn := n.attn.filter (fun a => !(a.part == p && a.ctx == x))
    msgs := n.msgs.filter (fun m => !(bitsOf m.w0.toNat 31 28 == 1 && s.partOfJob m.job == some p && m.ctx == x)) })
  (s.dropPartials p x).1

/-- The reports of a context are no longer awaited (R237). -/
def State.dropAwaits (s : State) (p x : Nat) : State :=
  s.onNoc (fun n => { n with awaits := n.awaits.filter (fun a => !(a.part == p && a.ctx == x)) })

/-! ### Teardown (R315) -/

/-- The doubt source of a partition (R413). -/
def doubtPart (p : Nat) : Nat := 0x220 + p

/-- R246: the context's objects are abandoned here, and a notice leaves over every link that is up. [DESIGN CHOICE: log 40] -/
def State.abandonCtx (s : State) (p x : Nat) : State :=
  let job := (s.part p).job
  let s := s.abandonAll p (holdWord false 0 x)
  s.each ((List.range 16).filter (fun l => s.linkState l == klUp)) (fun s l =>
    s.enqueue l [recFlit (.teardown job x s.own)])

/-- R291, R315: the descriptors of a context that are in flight, fetched or dispatched, complete with a status; `keep` is the FROG that
is being served. [DEDUCED: log 118] -/
def State.endDescs (s : State) (p x status : Nat) (keep : Option Nat) : State :=
  s.completeAll (fun d => d.part == p && d.actsOnCtx && d.ctx == x && keep != some d.id) status

/-- R315: a FROG that was dispatched while its context was in TEARDOWN completes BAD_STATE. [DEDUCED: log 118] -/
def State.endFrogs (s : State) (p x : Nat) (keep : Option Nat) : State :=
  s.completeAll (fun d => d.part == p && d.opcode == 14 && d.ctx == x && keep != some d.id && d.st != .fetched && d.st != .dispatched) stBadState

/-- The descriptors of a context in flight as its teardown ends. -/
def State.lastDescs (s : State) (p x status : Nat) (keep : Option Nat) : State := (s.endFrogs p x keep).endDescs p x status keep

/-- What operations of a context have posted, and what it awaits, is discarded (R192, R217, R313, R315). [DEDUCED: log 57, 118] -/
def State.dropPosts (s : State) (p x : Nat) : State := ((s.dropWork p x).dropCredits p x).dropAwaits p x

/-- Steps 1 to 5 of R315: stop, discard, complete the descriptors in flight with a status, abandon, zero; in a partition reset the
windows are zeroed in the order of R141 instead. [DEDUCED: log 57] -/
def State.strip (s : State) (p x status : Nat) (keep : Option Nat) : State :=
  let s := s.stopCores p x
  let s := s.onCtx p x (fun t => { t with
    state := .teardown, queue := [], running := false, starting := false, withdrawing := none, discarding := false, discarded := false })
  let s := s.onPart p (fun q => { q with cur := if q.cur = some x then none else q.cur, last := none })
  let s := s.dropPosts p x
  let s := s.endDescs p x status keep
  let s := (s.abandonCtx p x).dropWaits p x
  let s := s.wr (s.repairReg p x) 0#32
  if (s.part p).resetting.isSome then s else s.zeroIdle p x

/-- R315: a teardown starts, after a fault or a FROG. [DEDUCED: log 57] -/
def State.beginTeardown (s : State) (p x : Nat) (f : Option FaultRec) (frog : Option Nat) : State :=
  let d := frog.bind (fun id => s.host.descs.find? (fun d => d.id == id))
  let s := s.onCtx p x (fun t => { t with
    fault := f, frog := frog, since := (d.map (fun d => d.sent)).getD 0, reason := (d.map (fun d => d.at_ 8 4)).getD 0 })
  let s := s.strip p x stFrogged frog
  (s.raiseDoubt (doubtPart p)).select p none

/-- The first fault of a slot, from its registers (R81, R287). [DEDUCED: log 58] -/
def State.faultRec (s : State) (c k : Nat) : FaultRec :=
  let w := s.rd (R.CORE_CTX_FAULT (chanOf c) (posOf c) k)
  { core := c
    cls := getF w F.CORE_CTX_FAULT_CLASS
    refusal := (s.slot c k).refusal
    fpc := (s.rd (R.CORE_CTX_FPC (chanOf c) (posOf c) k)).toNat
    faddr := (s.rd (R.CORE_CTX_FADDR (chanOf c) (posOf c) k)).toNat
    precise := isSet w F.CORE_CTX_FAULT_PRECISE
    reason := 0
    time := (s.slot c k).faultAt }

/-- CONTEXT_FAULT (R85): the fault event of slot `k` of core `c` reaches the command processor, which starts the teardown; a
later fault of a context in teardown changes nothing more (R84). [DESIGN CHOICE: log 40] -/
def execContextFault (c k : Nat) (s : State) : Host.Outcome State Fault Refusal :=
  ok (if k < 4 ∧ s.hasFaulted c k then
      match (s.slot c k).owner with
      | none => s
      | some (p, x) => if (s.ctx p x).state = .teardown then s else s.beginTeardown p x (some (s.faultRec c k)) none
    else s)

/-- CORE_PART_STOPPED (R85): a core that has stopped issuing has cancelled its operations and reports; its context's teardown
or reset then zeroes its window. [DEDUCED: log 15, 23, 57] -/
def execCorePartStopped (c : Nat) (s : State) : Host.Outcome State Fault Refusal :=
  ok (if s.isRunning c && (s.core c).stopped && !s.paused (chanOf c) then
      let k := s.active c
      let s := s.onCore c (fun x => x.quiet k)
      let s := s.setFld (statReg c) F.CORE_STAT_RUN 0
      match (s.slot c k).owner with
      | none => s
      | some (p, x) =>
        let s := s.onCtx p x (fun t => { t with stopWait := t.stopWait.filter (· != c) })
        if (s.part p).resetting.isSome then (s.dropPosts p x).zeroCore c
        else if (s.ctx p x).state = .teardown then ((s.dropPosts p x).startZero c k).select p none
        else s
    else s)

/-- Whether a window of a context is still zeroing. -/
def State.ctxZeroing (s : State) (p x : Nat) : Bool := (s.ctx p x).cores.any (fun r => s.zeroing r.core r.slot)

/-- R60, R81, R315 step 7: a slot as at context creation, its fault registers 0. -/
def State.freshSlot (s : State) (p x c k : Nat) : State :=
  let s := s.onSlot c k (fun _ => { Slot.init with owner := some (p, x) })
  let s := s.wr (R.CORE_CTX_FAULT (chanOf c) (posOf c) k) 0#32
  let s := s.wr (R.CORE_CTX_FPC (chanOf c) (posOf c) k) 0#32
  let s := s.wr (R.CORE_CTX_FADDR (chanOf c) (posOf c) k) 0#32
  s.setFld (statReg c) F.CORE_STAT_FAULTED (Machine.setBit (s.fld (statReg c) F.CORE_STAT_FAULTED) k false)

/-- A context from its configuration, in IDLE; ETIME keeps its value (R315 step 7). -/
def CtxSt.recreated (t : CtxSt) : CtxSt :=
  { CtxSt.init with
    state := .idle, weight := t.weight, hkv := t.hkv, mode := t.mode, seed := t.seed, stream := t.stream
    waitlim := t.waitlim, treeOff := t.treeOff, treeN := t.treeN, placeOff := t.placeOff, placeN := t.placeN
    cores := t.cores, etime := t.etime }

/-- R293, R317: the window, entry and wait-limit registers of a slot. [DEDUCED: log 85] -/
def State.setSlotRegs (s : State) (c k : Nat) (win entry lim : Nat) : State :=
  ((s.wr (winReg c k) (BitVec.ofNat 32 win)).wr (winReg c k + 4) (BitVec.ofNat 32 entry)).wr (winReg c k + 8) (BitVec.ofNat 32 lim)

/-- R315 step 7: slots, window and entry registers from the configuration. [DEDUCED: log 85] -/
def State.recreate (s : State) (p x : Nat) : State :=
  let s := s.each (s.ctx p x).cores (fun s r =>
    (s.setSlotRegs r.core r.slot (2 ^ 31 + r.size * 2 ^ 12 + r.base) r.entry (s.ctx p x).waitlim).freshSlot p x r.core r.slot)
  let (key, s) := s.drawKey
  let s := s.onCtx p x (fun t => { t.recreated with keyAt := key })
  s.wr (s.shareReg p x) (BitVec.ofNat 32 (s.ctx p x).weight)

/-- The payload of a TEARDOWN record (R287). -/
def teardownPayload (f : Option FaultRec) (count reason time : Nat) : List Byte :=
  match f with
  | some f =>
    leBytes 2 f.core ++ leBytes 1 f.cls ++ leBytes 1 f.refusal ++ leBytes 4 f.fpc ++ leBytes 4 f.faddr ++ leBytes 1 count
      ++ leBytes 1 (b2n f.precise) ++ leBytes 2 0 ++ leBytes 4 f.reason ++ leBytes 4 f.time
  | none =>
    leBytes 2 0xFFFF ++ leBytes 1 fKill ++ leBytes 1 0 ++ leBytes 4 0 ++ leBytes 4 0 ++ leBytes 1 0 ++ leBytes 1 0 ++ leBytes 2 0
      ++ leBytes 4 reason ++ leBytes 4 time

/-- CONTEXT_TEARDOWN_END (R315): steps 6 to 8, once every core has stopped and every window is zeroed; not while a clock of the
partition's channels is stopped (R406). [DEDUCED: log 57] -/
def execContextTeardownEnd (p x : Nat) (s : State) : Host.Outcome State Fault Refusal :=
  ok (
    let t := s.ctx p x
    if t.state = .teardown && (s.part p).resetting.isNone && t.stopWait.isEmpty && !s.ctxZeroing p x && !(s.part p).chans.any s.paused then
      let s := s.releaseGroups p (fun g => g.ownedBy x)
      let count := match t.fault with
        | some f => (match s.slotOf f.core p x with
          | some k => s.fld (R.CORE_CTX_FAULT (chanOf f.core) (posOf f.core) k) F.CORE_CTX_FAULT_COUNT
          | none => 0)
        | none => 0
      let s := s.recreate p x
      let s := (s.dropPosts p x).lastDescs p x stFrogged t.frog
      let s := s.eventPart ⟨evTeardown, p, x, false, teardownPayload t.fault count t.reason (match t.fault with
        | some f => f.time
        | none => t.since)⟩
      let s := match t.frog with
        | some id => s.complete id stOk []
        | none => s
      s.select p none
    else s)

/-! ### Partition reset (R316, R317) -/

/-- Causes (R317). -/
def prFlr : Nat := 1
def prTimeout : Nat := 2
def prShared : Nat := 3
def prRail : Nat := 4
def prForced : Nat := 5
def prReplaced : Nat := 6
def prUnbound : Nat := 7

/-- The cores of a partition's channels. -/
def State.coresOf (s : State) (p : Nat) : List Nat :=
  (s.part p).chans.flatMap (fun ch => (List.range 256).map (fun q => ch * 256 + q))

/-- The blocks of a recorder region are EMPTY (R480, R481). -/
def State.emptyRegion (s : State) (r : Nat) : State :=
  { s with sec := { s.sec with recWc := FMap.clear s.sec.recWc (r * 2 ^ 14) (2 ^ 14), recNext := FMap.set 0 s.sec.recNext r 0 } }

/-- A region starts to be overwritten with zeros (R481), enabled or not; one without a byte is overwritten at once. -/
def State.wipeRegion (s : State) (r : Nat) : State :=
  if s.fld (R.SEC_REC_CFG r) F.SEC_REC_CFG_SIZE_MB = 0 then s.emptyRegion r else s.setBit (R.SEC_REC_CFG r) F.SEC_REC_CFG_BUSY

/-- R316, R317: a partition reset starts; one that runs already absorbs the cause. [DEDUCED: log 57] -/
def State.beginReset (s : State) (p cause : Nat) (discard : Bool) : State :=
  if !(s.part p).configured then s
  else if (s.part p).resetting.isSome then s.onPart p (fun q => { q with discard := q.discard || discard })
  else
    let status := if cause = prForced then stAborted else stFrogged
    let s := s.onPart p (fun q => { q with resetting := some cause, discard := discard, aborted := cause == prForced })
    let s := s.each ((s.part p).chans.flatMap s.objectsOf) (fun s obj => s.resetObject obj)
    let s := s.each ((List.range 8).filter (fun x => (s.ctx p x).state != .none)) (fun s x => s.strip p x status none)
    let s := s.each ((s.coresOf p).filter (fun c => !s.isRunning c)) (fun s c => s.zeroCore c)
    (s.wipeRegion p).raiseDoubt (doubtPart p)

/-- R316: a fault of a structure that a partition shares (table memory of its slice, a command processor, its allocator, a sync
engine) resets the partition. [DESIGN CHOICE: log 115] -/
def State.sharedFaults (s : State) : State :=
  let s' := s.each (bitsSet s.tests.shared 4) (fun s n => match s.ownerOf n with
    | some p => s.beginReset p prShared false
    | none => s)
  { s' with tests := { s'.tests with shared := 0 } }

/-- TEARDOWN_TIMEOUT (R316): a teardown that has not ended becomes a partition reset. [DESIGN CHOICE: log 5] -/
def execTeardownTimeout (p x : Nat) (s : State) : Host.Outcome State Fault Refusal :=
  ok (if (s.ctx p x).state = .teardown then s.beginReset p prTimeout false else s)

/-- The slots of a partition's cores hold no context. -/
def State.clearSlots (s : State) (p : Nat) : State :=
  s.each (s.coresOf p) (fun s c => s.each (List.range 4) (fun s k =>
    if (s.slot c k).owner.isSome then (s.freshSlot p 0 c k).onSlot c k (fun _ => Slot.init) else s))

/-- R317: a configuration is discarded: windows disabled, context registers 0, PART_CFG cleared. -/
def State.discardConfig (s : State) (p : Nat) : State :=
  let s := s.clearSlots p
  let s := s.each (s.coresOf p) (fun s c => s.each (List.range 4) (fun s k => s.setSlotRegs c k 0 0 0))
  let s := s.each (List.range 8) (fun s x => (s.wr (s.shareReg p x) 0#32).wr (R.CTX_STAT (s.part p).low x) 0#32)
  let s := s.setFld R.HI_STAT F.HI_STAT_PART_CFG (Machine.setBit (s.fld R.HI_STAT F.HI_STAT_PART_CFG) p false)
  s.setPart p .init

/-- PARTITION_RESET_END (R317, R454): every core stopped, every window zeroed and no channel held by its rail, the groups are freed, the contexts recreated or
the configuration discarded, and the record written. [DEDUCED: log 57, 118] -/
def execPartitionResetEnd (p : Nat) (s : State) : Host.Outcome State Fault Refusal :=
  ok (match (s.part p).resetting with
    | none => s
    | some cause =>
      if (s.coresOf p).any (fun c => s.isRunning c || s.fld (statReg c) F.CORE_STAT_ZEROING != 0)
          || (s.part p).chans.any (fun ch => bitOf s.pwr.held ch) then s
      else
        let s := s.releaseGroups p (fun _ => true)
        let status := if (s.part p).aborted then stAborted else stFrogged
        let s := s.each ((List.range 8).filter (fun x => (s.ctx p x).state != .none)) (fun s x => (s.dropPosts p x).lastDescs p x status none)
        let ev : EventRec := ⟨evPartReset, p, 0, false, leBytes 1 cause⟩
        if (s.part p).discard then (s.discardConfig p).eventPart ev
        else
          let s := s.each ((List.range 8).filter (fun x => (s.ctx p x).state != .none)) (fun s x => s.recreate p x)
          let s := s.onPart p (fun q => { q with resetting := none, discard := false, aborted := false, cur := none, last := none })
          s.eventPart ev)

end Sys2Proof.Machine
end

