-- ==== Sys2Proof/Machine/Sched.lean ====
section
/-! DEFINITION. Sys2Proof/Machine/Sched.lean: the life of a step (R300-R305, R309): start, commit, the discard and its undo
(R439-R442), share donation (R312-R314), sync operations as they reach their objects (R244), channels (R318, R319). -/

namespace Sys2Proof.Machine

/-! ### The undo record and the lifeline (R439-R442) -/

/-- R441: the undo of one object. [DEDUCED: log 56] -/
def State.undoObject (s : State) (x : PartSt) (obj : Nat) (u : Undo) : State :=
  let v := (s.rd (valReg obj)).toNat
  if !u.own then s
  else
    match s.fld (cfgReg obj) F.SYNC_CFG_KIND with
    | 0 => (s.wr (valReg obj) (BitVec.ofNat 32 (min (v + u.took - u.sig) (2 ^ 32 - 1)))).evaluate obj
    | 1 =>
      if s.fld (sstatReg obj) F.SYNC_STAT_GEN = FMap.get 0 x.gen0 obj then s.wr (valReg obj) (BitVec.ofNat 32 (v - u.arr)) else s
    | _ => if u.other then s else (s.wr (valReg obj) (BitVec.ofNat 32 (FMap.get 0 x.sync0 obj))).evaluate obj

/-- A message of a discarded step that the routers of a moving row still hold (R241) is delivered, and what its signal would do to its
object is undone with the rest: nothing (R440, R441). [DEDUCED: log 56] -/
def State.muteSignals (s : State) (p x : Nat) : State :=
  s.onNoc (fun n => { n with msgs := n.msgs.map (fun m =>
    if m.src = s.own ∧ s.partOfJob m.job = some p ∧ m.ctx = x ∧ bitsOf m.w0.toNat 31 28 = 0 then { m with w2 := setF m.w2 ⟨31, 31⟩ 0 } else m) })

/-- R440, R441: the step's effects undone: registers from the lifeline, the units as at a step start, partials and attention
commands discarded, waits removed, sync objects put back. [DEDUCED: log 56] -/
def State.rollBack (s : State) (p x : Nat) : State :=
  let q := s.part p
  let s := s.dropPosts p x
  let s := (s.dropWaits p x).muteSignals p x
  let s := s.each q.life (fun s l =>
    match s.slotOf l.1 p x with
    | some k => s.onCore l.1 (fun y => (y.setSlot k { l.2 with refusal := (y.slot k).refusal, faultAt := (y.slot k).faultAt, rank := (y.slot k).rank }).quiet k)
    | none => s)
  let s := s.each q.undo (fun s u => s.undoObject q u.1 u.2)
  s.onPart p (fun q => { q with undo := [], undoFull := false, life := [], sync0 := [], gen0 := [] })

/-- R313 step 5, R442: the step goes back to the head of its context's queue; the partition's cores are free. [DESIGN CHOICE: log 130] -/
def State.putBack (s : State) (p x : Nat) : State :=
  let s := s.onCtx p x (fun t => { t with
    state := .runnable, running := false, starting := false, withdrawing := none, discarding := false, repeated := true
    reported := [], donorOf := none })
  s.onPart p (fun q => { q with cur := none, last := none })

/-! ### Step start (R300, R70, R111, R439) -/

/-- The step header of R300. -/
def stepHeader (step nslice ctx : Nat) : List Byte := leBytes 8 step ++ leBytes 2 nslice ++ leBytes 1 ctx ++ List.replicate 21 0#8

/-- A context's part of a step starts on a core: the header and slices are in place, a0 = ARG, fetch begins at ENTRY. [DEDUCED: log 23] -/
def State.startCore (s : State) (p x : Nat) (st : Step) (r : CoreRec) : State :=
  let c := r.core
  let k := r.slot
  let bytes := stepHeader ((s.ctx p x).steps + 1) st.slices.length x ++ st.slices.flatten
  let s := s.putWin c k st.arg bytes
  let s := s.count (some c) (chanOf c) (some (p, x)) 0x0C bytes.length
  let entry := bitsOf (s.rd (winReg c k + 4)).toNat 21 2 * 4
  let s := s.onCore c (fun y => { (y.quiet k).flush with stopped := s.hasFaulted c k })
  let s := s.onSlot c k (fun b => { (b.setA 0 (mkAddr false st.arg)) with pc := entry })
  let s := (s.setFld (statReg c) F.CORE_STAT_ACTIVE k).setFld (statReg c) F.CORE_STAT_RUN 1
  s.markCore c 0 tvBegin (p, x) 0 entry

/-- R494: the MODE = STEP counters of a partition return to 0 as a step starts on their core or channel. -/
def State.resetCounters (s : State) (p : Nat) (cores chans : List Nat) : State :=
  let ks := (s.regs.filter (fun r => decide (R.CH_CNT_CFG 0 0 ≤ r.1) && decide (r.1 < R.CORE_CNT_CFG 1024 0)
    && r.1 % 16 == 0 && isSet r.2 F.CORE_CNT_CFG_MODE && getF r.2 F.CORE_CNT_CFG_PART == p
    && (if R.CORE_CNT_CFG 0 0 ≤ r.1 then cores.contains ((r.1 - R.CORE_CNT_CFG 0 0) / 0x80)
        else chans.contains ((r.1 - R.CH_CNT_CFG 0 0) / 0x200)))).map (·.1)
  s.each ks (fun s k =>
    let s := s.settleCnt k
    { s with trc := { s.trc with
      before := FMap.set 0 s.trc.before k (FMap.get 0 s.trc.counts k)
      counts := FMap.set 0 s.trc.counts k 0
      resetAt := FMap.set none s.trc.resetAt k (some s.now) } })

/-- Whether a partition's channels are clear for a step: no migration (R436), no self-test slice (R426), clocks running (R456). -/
def State.clear (s : State) (p : Nat) : Bool :=
  (s.part p).chans.all (fun ch => !s.migr.any (fun m => m.ch == ch) && (FMap.get none s.tests.frun ch).isNone && !s.paused ch)

/-- STEP_START (R300, R305): the step of the selected context starts on every core of its core set. [DESIGN CHOICE: log 1] -/
def execStepStart (p : Nat) (s : State) : Host.Outcome State Fault Refusal :=
  ok (match (s.part p).cur with
    | none => s
    | some x =>
      let t := s.ctx p x
      match t.queue with
      | [] => s
      | st :: _ =>
        if !t.starting || !s.clear p || (s.part p).resetting.isSome || s.inRepair p x then s
        else
          let life := t.cores.map (fun r => (r.core, s.slot r.core r.slot))
          let objs := (s.part p).chans.flatMap s.objectsOf
          let put (f : Nat → Nat) : FMap Nat := objs.foldl (fun m o => FMap.set 0 m o (f o)) []
          let v0 := put (fun o => (s.rd (valReg o)).toNat)
          let g0 := put (fun o => s.fld (sstatReg o) F.SYNC_STAT_GEN)
          let s := s.onPart p (fun q => { q with life := life, sync0 := v0, gen0 := g0, undo := [], undoFull := false })
          let s := s.onNoc (fun n => { n with discarded := n.discarded.filter (fun k => k.1 != p || k.2.1 != x) })
          let s := s.onCtx p x (fun t => { t with
            starting := false, running := true, reported := [], withdrawable := true, left := false, incomplete := false
            discarded := false, stepDigest := [] })
          let s := s.resetCounters p (t.cores.map (·.core)) (s.part p).chans
          let s := if t.switched then
              s.each (s.part p).chans (fun s ch => (s.markCp ch tvSwitch (p, x) x).count none ch (some (p, x)) 0x21 1) else s
          let s := s.each (s.part p).chans (fun s ch => s.markCp ch tvStart (p, x) st.slices.length)
          s.each t.cores (fun s r => s.startCore p x st r))

/-! ### Commit (R301-R304) -/

/-- R301: whether the step that runs on a partition may commit. -/
def State.mayCommit (s : State) (p x : Nat) : Bool :=
  let t := s.ctx p x
  t.running && !(s.part p).chans.any s.paused && !t.discarding && t.withdrawing.isNone && t.cores.all (fun r => t.reported.contains r.core)
    && !s.noc.children.any (fun c => c.part == p && c.ctx == x) && !s.noc.roots.any (fun r => r.child.part == p && r.child.ctx == x)
    && !s.noc.attn.any (fun a => a.part == p && a.ctx == x) && !s.noc.awaits.any (fun a => a.part == p && a.ctx == x)
    && !t.cores.any (fun r => s.hasFaulted r.core r.slot)

/-- R314: whether a donation is over as its context commits. -/
def State.donationOver (s : State) (p x : Nat) : Bool :=
  !s.bit (holdReg (s.ctx p x).donObj) F.SYNC_HOLDER_HVALID || (s.ctx p x).queue.isEmpty

/-- R304, R314: after a commit of context `x`: it runs on while its donation lasts, else the next context is selected. [DESIGN CHOICE: log 131] -/
def State.afterCommit (s : State) (p x : Nat) : State :=
  let s := if (s.ctx p x).donorOf.isSome && s.donationOver p x then s.onCtx p x (fun t => { t with donorOf := none }) else s
  if (s.ctx p x).donorOf.isSome && s.chansOn p && !s.inRepair p x then s.engage p x else s.select p (some x)

/-- R301: the six effects of a commit, in order; `C` and `S` are the cycles of the step and of the switch (R302). [DEDUCED: log 35] -/
def State.commitStep (s : State) (p x C S : Nat) (st : Step) : State :=
  let s := s.each (s.part p).chans (fun s ch => (s.markCp ch tvCommit (p, x) C).count none ch (some (p, x)) 0x20 1)
  let (s, incomplete) := s.dropPartials p x
  let s := s.onCtx p x (fun t => { t with
    steps := (t.steps + 1) % 2 ^ 64
    queue := t.queue.tail
    running := false
    reported := []
    repeated := false
    lastDigest := if t.stepDigest.isEmpty then t.lastDigest else t.stepDigest
    state := if t.queue.tail.isEmpty then .idle else .runnable })
  let s := s.releaseGroups p (fun g => g.st == .pending x st.desc)
  let s := s.onPart p (fun q => { q with life := [], undo := [], undoFull := false, sync0 := [], gen0 := [], cur := none, last := some x })
  let t := s.ctx p x
  let s := s.charge p x (t.cores.length * (C + if t.switched then S else 0))
  let s := { s with tests := { s.tests with fused := (s.part p).chans.foldl (fun m ch => Machine.setBit m ch false) s.tests.fused } }
  let s := s.complete st.desc (if incomplete then stTree else stOk) (leBytes 8 t.steps ++ leBytes 8 C)
  s.afterCommit p x

/-- STEP_COMMIT (R301): the step of partition `p` commits once every condition holds. [DESIGN CHOICE: log 13] -/
def execStepCommit (p C S : Nat) (s : State) : Host.Outcome State Fault Refusal :=
  ok (match (s.part p).cur with
    | none => s
    | some x =>
      match (s.ctx p x).queue with
      | [] => s
      | st :: _ => if s.mayCommit p x then s.commitStep p x C S st else s)

/-! ### Share donation (R312-R314) -/

/-- R312: whether `w` is waited for along the chain of withdrawn steps from `h`; `fuel` bounds it. [DEDUCED: log 54] -/
def State.waitsFor (s : State) (p h w : Nat) : Nat → Bool
  | 0 => false
  | fuel + 1 =>
    match (s.ctx p h).waitsOn with
    | none => false
    | some y => y == w || s.waitsFor p y w fuel

/-- The holder for which a wait queued at an object would start a donation (R312). [DEDUCED: log 54] -/
def State.donee (s : State) (p w obj : Nat) : Option Nat :=
  let h := s.rd (holdReg obj)
  let x := getF h F.SYNC_HOLDER_HCTX
  let t := s.ctx p x
  if s.fld (cfgReg obj) F.SYNC_CFG_KIND ≠ 1 && isSet h F.SYNC_HOLDER_HVALID && !isSet h F.SYNC_HOLDER_HREMOTE && x != w
      && t.state == .runnable && !t.queue.isEmpty && !s.inRepair p x && !s.waitsFor p x w 8
      && (s.queue obj).any (fun q => q.hold == some (holdWord false 0 w) && (match q.who with
        | .wait _ _ => true
        | _ => false)) then some x else none

/-- R313 step 2: the step of context `w` is withdrawn in favour of `h`: issue stops, its queued waits are removed. [DEDUCED: log 56] -/
def State.withdrawStep (s : State) (p w h obj : Nat) : State :=
  let s := s.stopCores p w
  let s := s.onCtx p w (fun t => { t with withdrawing := some h, donObj := obj })
  s.dropWaits p w

/-- R312: donation starts when all of its conditions hold. [DEDUCED: log 54] -/
def State.checkDonation (s : State) (p : Nat) : State :=
  match (s.part p).cur with
  | none => s
  | some w =>
    let t := s.ctx p w
    if !t.running || !t.withdrawable || t.withdrawing.isSome || t.discarding || (s.part p).resetting.isSome then s
    else
      let objs := (s.noc.waiters.map (·.1)).filter (fun o => (s.part p).owns (o / 16384))
      match objs.findSome? (fun o => (s.donee p w o).map (fun h => (h, o))) with
      | some (h, o) => s.withdrawStep p w h o
      | none => s

/-- Every partition's donations. [DEDUCED: log 54] -/
def State.checkDonations (s : State) : State := s.each (List.range 4) (fun s p => s.checkDonation p)

/-- WITHDRAWAL_END (R313 steps 3 to 6): every core has stopped and every message inside the chip has its report; `w` becomes
RUNNABLE with its step at the head of its queue, is charged, and the holder runs with its share. [DESIGN CHOICE: log 13; DEDUCED: log 56] -/
def execWithdrawalEnd (p C S : Nat) (s : State) : Host.Outcome State Fault Refusal :=
  ok (match (s.part p).cur with
    | none => s
    | some w =>
      let t := s.ctx p w
      match t.withdrawing with
      | none => s
      | some h =>
        let owed := s.noc.awaits.filter (fun a => a.part == p && a.ctx == w && !s.noc.e2e.any (fun e => e.msg.id == a.id))
        if (s.part p).chans.any s.paused || !t.stopWait.isEmpty || !owed.isEmpty || t.cores.any (fun r => s.hasFaulted r.core r.slot) then s
        else
          let share := t.donorOf.getD w
          let s := s.each (s.part p).chans (fun s ch => (s.markCp ch tvWithdraw (p, w) 0).count none ch (some (p, w)) 0x25 1)
          let s := s.rollBack p w
          let s := s.charge p w (t.cores.length * (C + if t.switched then S else 0))
          let s := (s.putBack p w).onCtx p w (fun t => { t with waitsOn := some h })
          let s := s.incFld (R.CTX_STAT (s.part p).low w) F.CTX_STAT_WITHDRAWN 1
          if (s.ctx p h).state == .runnable && !(s.ctx p h).queue.isEmpty && s.chansOn p && !s.inRepair p h then
            (s.onCtx p h (fun y => { y with donorOf := some share, donObj := t.donObj })).engage p h
          else s.select p (some w))

/-! ### Sync operations reach their objects (R242-R249) -/

/-- A sync operation is refused: its job owns no partition here that owns the channel (R242). -/
def State.refuseSync (s : State) (o : SyncOp) : State :=
  match o.who with
  | .rep id => s.sendReport ⟨id, mNoJob, true⟩
  | .remote chip _ id _ => s.sendCtrl chip (.report chip id mNoJob true)
  | .wait _ id => s.sendReport ⟨id, mNoJob, true⟩
  | _ => s

/-- A signal is reported as delivered (R238, R249). -/
def State.reportSignal (s : State) (who : Who) : State :=
  match who with
  | .rep id => s.sendReport ⟨id, 0, true⟩
  | .remote chip _ id _ => s.sendCtrl chip (.report chip id 0 true)
  | _ => s

/-- A sync operation applied by the engine of its object's channel. -/
def State.applySync (s : State) (o : SyncOp) : State :=
  let may := match s.partOfJob o.job with
    | some p => (s.part p).owns (o.obj / 16384)
    | none => false
  if !may then s.refuseSync o
  else
    if o.kind = 3 then (s.applySignal o.obj o.arg o.hold).reportSignal o.who
    else (s.applyWait o.obj o.kind o.arg o.who o.hold).checkDonations

/-- SYNC_OPERATION_ARRIVAL (R244): operation `i` of those on their way reaches its object. -/
def execSyncOperationArrival (i : Nat) (s : State) : Host.Outcome State Fault Refusal :=
  ok (match s.noc.syncOps[i]? with
    | none => s
    | some o => if s.paused (o.obj / 16384) then s else (s.onNoc (fun n => { n with syncOps := dropAt n.syncOps i })).applySync o)

/-! ### Channels (R318, R319) -/

/-- STATE of a channel (R321): 0 OFF, 1 ON, 2 DRAINING, 3 UNBOUND. [DEDUCED: log 55] -/
def State.chState (s : State) (n : Nat) : Nat := s.fld (R.CP_STAT n) F.CP_STAT_STATE

/-- R318: EN set from OFF turns the channel ON; its partition's waiting steps may go on. -/
def State.chOn (s : State) (n : Nat) : State :=
  let s := s.setFld (R.CP_STAT n) F.CP_STAT_STATE 1
  match s.ownerOf n with
  | some p => s.select p none
  | none => s

/-- R319: EN cleared with FORCE turns the channel OFF and resets its partition. -/
def State.chForce (s : State) (n : Nat) : State :=
  let s := s.setFld (R.CP_STAT n) F.CP_STAT_STATE 0
  match s.ownerOf n with
  | some p => s.beginReset p prForced false
  | none => s

/-- A write to CHn_CP_CTRL (R318, R319, R321). -/
def State.writeCpCtrl (s : State) (n : Nat) (v : Word) : State :=
  let en := isSet v F.CP_CTRL_EN
  let force := isSet v F.CP_CTRL_FORCE
  let st := s.chState n
  let new := BitVec.ofNat 32 (b2n en * 2 ^ 31 + b2n force * 2 ^ 30)
  if en && (st == 2 || (List.range 9).any (fun k => s.gated (14 + 9 * n + k))) then s
  else
    let s := s.wr (R.CP_CTRL n) new
    if en then (if st = 0 then s.chOn n else s)
    else if force then (if st = 1 || st = 2 then s.chForce n else s)
    else if st = 1 then s.setFld (R.CP_STAT n) F.CP_STAT_STATE 2
    else s

/-- CHANNEL_ENABLE (R318): EN is written 1. A gated or held block takes no write (R454, R505). -/
def execChannelEnable (n : Nat) (s : State) : Host.Outcome State Fault Refusal :=
  ok (if n < 4 ∧ s.regTakes (R.CP_CTRL n) then s.writeCpCtrl n (setF (s.rd (R.CP_CTRL n)) F.CP_CTRL_EN 1) else s)

/-- CHANNEL_DRAIN (R319): EN is written 0 with FORCE = 0. -/
def execChannelDrain (n : Nat) (s : State) : Host.Outcome State Fault Refusal :=
  ok (if n < 4 ∧ s.regTakes (R.CP_CTRL n) then s.writeCpCtrl n 0#32 else s)

/-- CHANNEL_FORCED_DISABLE (R319): EN is written 0 with FORCE = 1. -/
def execChannelForcedDisable (n : Nat) (s : State) : Host.Outcome State Fault Refusal :=
  ok (if n < 4 ∧ s.regTakes (R.CP_CTRL n) then s.writeCpCtrl n (mkF F.CP_CTRL_FORCE 1) else s)

/-- CHANNEL_DRAIN_END (R319): a DRAINING channel on which no step runs shows OFF. -/
def execChannelDrainEnd (n : Nat) (s : State) : Host.Outcome State Fault Refusal :=
  ok (
    let busy := match s.ownerOf n with
      | some p => (s.part p).cur.isSome
      | none => false
    if n < 4 ∧ s.chState n = 2 ∧ !busy then s.setFld (R.CP_STAT n) F.CP_STAT_STATE 0 else s)

end Sys2Proof.Machine
end

