-- ==== Sys2Proof/Machine/Fence.lean ====
section
/-! DEFINITION. Sys2Proof/Machine/Fence.lean: core failures, the row shift, contexts in repair, the spare map
(R434-R448). -/

namespace Sys2Proof.Machine

/-! ### Rows (R15, R436, R437) -/

/-- R447, R448: the rows of a channel whose spare is usable. -/
def State.spares (s : State) (ch : Nat) : Nat := ((List.range 16).filter (fun r => s.fmask ch r == 0)).length

/-- R448: SPMAP_SUM from the map. -/
def State.sumSpares (s : State) : State :=
  s.wr R.SPMAP_SUM (BitVec.ofNat 32 ((List.range 4).foldl (fun v ch => v + s.spares ch * 2 ^ (5 * ch)) 0))

/-- The spare map takes a fence (R448). [DEDUCED: log 60] -/
def State.noteFence (s : State) (ch row col cause : Nat) (caston : Bool) : State :=
  let r := R.SPMAP ch row
  let s := s.setFld r F.SPMAP_FMASK (Machine.setBit (s.fmask ch row) col true)
  let s := s.setFld r F.SPMAP_CAUSE cause
  (s.setFld r F.SPMAP_CASTON (b2n caston)).sumSpares

/-- R434, R453: the fence counts belong to physical cores: from logical column f on, each column takes the counts of the core that
serves it next, the last one those of the spare, which no read has raised. [DEDUCED: log 60] -/
def State.shiftCounts (s : State) (ch row f : Nat) : State :=
  let word (st : State) (c : Nat) : Word := if c < 16 then st.rd (R.CORE_FENCE_CNT ch (row * 16 + c)) else 0#32
  s.each ((List.range 16).filter (fun c => f ≤ c)) (fun t c => t.wr (R.CORE_FENCE_CNT ch (row * 16 + c)) (word s (c + 1)))

/-- R437: the shift as logical ids see it: every logical core but f keeps its contents, on another physical core; logical column f
has lost them, its enabled windows are zeroed, and its bytes outside them read 0 as well (R139). -/
def State.shiftRow (s : State) (ch row f : Nat) : State :=
  (s.shiftCounts ch row f).zeroPhys (coreId ch row f) 0 (3072 * 1024)

/-! ### Detection (R434-R436, R438) -/

/-- The doubt source of a channel's fences (R413). -/
def doubtFence (ch : Nat) : Nat := 0x224 + ch

/-- R435: a failed core issues nothing, writes no byte, and never reports. -/
def State.killCore (s : State) (c : Nat) : State :=
  if s.isRunning c then
    let s := s.onCore c (fun x => x.quiet (s.active c))
    let s := s.setFld (statReg c) F.CORE_STAT_RUN 0
    match (s.slot c (s.active c)).owner with
    | some (p, x) => s.onCtx p x (fun t => { t with stopWait := t.stopWait.filter (· != c) })
    | none => s
  else s

/-- R436: the running step of a partition is discarded: issue stops, no fault is recorded. A withdrawal that runs becomes a
discard (R446). -/
def State.discardStep (s : State) (p : Nat) : State :=
  match (s.part p).cur with
  | none => s
  | some x =>
    if (s.ctx p x).running && !(s.ctx p x).discarding then
      (s.stopCores p x).onCtx p x (fun t => { t with discarding := true, withdrawing := none })
    else s

/-- R438: a second failure in a row: the channel becomes UNBOUND and its partition is reset. [DEDUCED: log 60] -/
def State.unbind (s : State) (ch row : Nat) : State :=
  let going := s.migr.filter (fun m => m.ch == ch && m.row == row)
  let s := s.each going (fun s m => s.noteFence m.ch m.row m.col m.cause false)
  let s := { s with migr := s.migr.filter (fun m => !(m.ch == ch && m.row == row)) }
  let s := s.setFld (R.CP_STAT ch) F.CP_STAT_STATE 3
  match s.ownerOf ch with
  | some p => (s.eventPart ⟨evUnbound, p, 0, false, []⟩).beginReset p prUnbound true
  | none => s.plainEvent evUnbound []

/-- The records of a fence for one context: its lost groups, 25 a record (R287). [DEDUCED: log 60] -/
def State.fencedRecords (s : State) (p x id cause : Nat) (lost : List PoolGroup) : State :=
  let total := lost.length
  let words := lost.map (fun g => leBytes 4 (g.off * 4096 + g.slot))
  let pieces := if words.isEmpty then [[]] else chunksOf 25 (total + 1) words
  s.each pieces.zipIdx (fun s q =>
    s.eventPart ⟨evCoreFenced, p, x, decide (q.2 + 1 < pieces.length),
      leBytes 2 id ++ leBytes 1 cause ++ leBytes 1 0 ++ leBytes 4 total ++ leBytes 4 (q.2 * 25) ++ q.1.flatten⟩)

/-- R436: physical column `col` of a row fails with a cause. -/
def State.coreFails (s : State) (ch row col cause : Nat) : State :=
  let busy := s.migr.any (fun m => m.ch == ch && m.row == row)
  if s.fmask ch row ≠ 0 || busy then
    if bitOf (s.fmask ch row) col || s.migr.any (fun m => m.ch == ch && m.row == row && m.col == col) then s
    else
      let s := s.raiseDoubt (doubtFence ch)
      let s := match logicalCol (s.fmask ch row) col with
        | some f => s.killCore (coreId ch row f)
        | none => s
      s.unbind ch row
  else
    let s := s.raiseDoubt (doubtFence ch)
    if col = 16 then
      let s := s.noteFence ch row 16 cause false
      let s := s.markChan ch tvFence (0x3FF + cause * 2 ^ 12)
      s.eventPF ⟨evCoreFenced, 0, 0, false, leBytes 2 0xFFFF ++ leBytes 1 cause⟩
    else
      let c := coreId ch row col
      let s := s.killCore c
      let s := s.markChan ch tvFence (c + cause * 2 ^ 12)
      let s := match s.ownerOf ch with
        | some p => s.discardStep p
        | none => s
      { s with migr := s.migr ++ [⟨ch, row, col, cause⟩] }

/-- R434 cause 1: the core's uncorrectable count reaches UE_LIM, or its corrected count in the gauge interval CE_LIM. -/
def State.eccLimit (s : State) (c : Nat) : Bool :=
  let cfg := s.rd (R.FENCE_CFG (chanOf c))
  let cnt := s.rd (R.CORE_FENCE_CNT (chanOf c) (posOf c))
  let ceLim := getF cfg F.FENCE_CFG_CE_LIM
  decide (max 1 (getF cfg F.FENCE_CFG_UE_LIM) ≤ getF cnt F.CORE_FENCE_CNT_UE)
    || (ceLim != 0 && decide (ceLim ≤ getF cnt F.CORE_FENCE_CNT_CE))

/-- CORE_FAILURE (R434, R436): the physical core at a row and column meets criterion `cause`; the counts of cause 1 are checked. [DEDUCED: log 60] -/
def execCoreFailure (ch row col cause : Nat) (s : State) : Host.Outcome State Fault Refusal :=
  ok (if ch < 4 ∧ row < 16 ∧ col < 17 ∧ 1 ≤ cause ∧ cause ≤ 5 then
      if cause = 1 then
        match logicalCol (s.fmask ch row) col with
        | some f => if s.eccLimit (coreId ch row f) then s.coreFails ch row col 1 else s
        | none => s
      else s.coreFails ch row col cause
    else s)

/-- NOC_TIMEOUT (R434): a flit has waited 65,536 CK_N cycles at the core's router. -/
def execNocTimeout (ch row col : Nat) (s : State) : Host.Outcome State Fault Refusal :=
  ok (if ch < 4 ∧ row < 16 ∧ col < 17 then s.coreFails ch row col 4 else s)

/-! ### The end of a fence (R436, R440-R444) -/

/-- R444: the lost page groups of a context. [DEDUCED: log 59] -/
def State.lostGroups (s : State) (p x c : Nat) : List PoolGroup :=
  let t := s.ctx p x
  let bases := (List.range t.placeN).filterMap (fun i =>
    let e := s.sliceU32 p (t.placeOff + 4 * i)
    if bitOf e 31 && bitsOf e 17 14 == s.own % 16 then some (bitsOf e 9 0) else none)
  (s.part p).pool.filter (fun g => g.ownedBy x && bases.any (fun b => b + g.off == c))

/-- Whether an enabled window of logical core `c` is a context's (R444). -/
def State.hasWindowOn (s : State) (p x c : Nat) : Bool :=
  (s.ctx p x).cores.any (fun r => r.core == c && s.bit (winReg c r.slot) F.CORE_WIN_CFG_EN)

/-- A context that R304 has selected and whose step has not started gives the cores back. [DEDUCED: log 60] -/
def State.disengage (s : State) (p x : Nat) : State :=
  if (s.ctx p x).starting then
    (s.onPart p (fun q => { q with cur := if q.cur = some x then none else q.cur })).onCtx p x (fun t => { t with
      state := .runnable, starting := false, donorOf := none })
  else s

/-- R444: a context enters repair: its lost groups are released and listed, its discarded step is held, and it is no candidate. -/
def State.enterRepair (s : State) (p x c cause : Nat) : State :=
  let lost := s.lostGroups p x c
  let s := s.releaseGroups p (fun g => lost.contains g)
  let s := (s.disengage p x).setFld (s.repairReg p x) F.CTX_REPAIR_REPAIR 1
  let s := if (s.ctx p x).discarded then s.setFld (s.repairReg p x) F.CTX_REPAIR_HELD 1 else s
  s.fencedRecords p x c cause lost

/-- The head step of a context completes CORE_FENCED (R442, R445). -/
def State.fenceStep (s : State) (p x : Nat) : State :=
  match (s.ctx p x).queue with
  | [] => s
  | st :: rest =>
    let s := s.complete st.desc stFenced []
    s.onCtx p x (fun t => { t with queue := rest, repeated := false, discarded := false, left := false, state := if rest.isEmpty then .idle else t.state })

/-- R440, R442: the discarded step of a partition is rolled back and returns to its queue. -/
def State.endDiscard (s : State) (p : Nat) : State :=
  match (s.part p).cur with
  | some x =>
    if (s.ctx p x).discarding then
      let full := (s.part p).undoFull
      let s := s.each (s.part p).chans (fun s ch => (s.markCp ch tvWithdraw (p, x) 0).count none ch (some (p, x)) 0x25 1)
      ((s.rollBack p x).putBack p x).onCtx p x (fun t => { t with left := t.left || full, discarded := true })
    else s
  | none => s

/-- Whether something of a context is on its way in the chip, and would be delivered and reported at once (R436): its messages but those
to a command port and those a moving row holds, its signals, its reports. [DEDUCED: log 60] -/
def State.inChip (s : State) (p x : Nat) : Bool :=
  let mine (id : Nat) : Bool := s.noc.awaits.any (fun a => a.id == id && a.part == p && a.ctx == x)
  s.noc.msgs.any (fun m => m.src == s.own && s.partOfJob m.job == some p && m.ctx == x && bitsOf m.w0.toNat 31 28 != 1
      && !(bitsOf m.w0.toNat 31 28 == 0 && s.moves (bitsOf m.w0.toNat 9 0)))
    || s.noc.syncOps.any (fun o => match o.who with
      | .rep id => mine id
      | _ => false)
    || s.noc.reports.any (fun r => mine r.id && !s.noc.awaits.any (fun a => a.id == r.id && s.moves a.core))

/-- Whether a fence may end: the parts of the discarded step have stopped, its messages inside the chip are delivered and reported
(R436), and no window of the row is zeroing (R446). -/
def State.fenceReady (s : State) (m : Migr) : Bool :=
  let still := match s.ownerOf m.ch with
    | some p => (List.range 8).any (fun x => !(s.ctx p x).stopWait.isEmpty || ((s.ctx p x).discarding && s.inChip p x))
    | none => false
  !still && !(List.range 16).any (fun q => s.fld (statReg (coreId m.ch m.row q)) F.CORE_STAT_ZEROING != 0) && !s.paused m.ch

/-- R442, R446: once no row of a partition migrates, discarded steps of contexts out of repair that are not repeatable complete
CORE_FENCED. [DEDUCED: log 60] -/
def State.endFenced (s : State) (p : Nat) : State :=
  if s.migr.any (fun m => (s.part p).owns m.ch) then s
  else s.each ((List.range 8).filter (fun y => (s.ctx p y).discarded && (s.ctx p y).left && !s.inRepair p y)) (fun s y => s.fenceStep p y)

/-- MIGRATION_END (R436, R437): fence `i` of those that migrate ends: the row has shifted, lost groups are released, the spare
map and the records are written; a step that is not repeatable completes CORE_FENCED. [DEDUCED: log 60] -/
def execMigrationEnd (i : Nat) (s : State) : Host.Outcome State Fault Refusal :=
  ok (match s.migr[i]? with
    | none => s
    | some m =>
      if !s.fenceReady m then s
      else
        let c := coreId m.ch m.row m.col
        let s := { s with migr := dropAt s.migr i }
        let s := s.shiftRow m.ch m.row m.col
        let s := s.noteFence m.ch m.row m.col m.cause false
        match s.ownerOf m.ch with
        | none => s.eventPF ⟨evCoreFenced, 0, 0, false, leBytes 2 c ++ leBytes 1 m.cause⟩
        | some p =>
          let s := s.endDiscard p
          let hit := (List.range 8).filter (fun y => s.hasWindowOn p y c)
          let s := s.each hit (fun s y => s.enterRepair p y c m.cause)
          let s := if hit.isEmpty then s.eventPF ⟨evCoreFenced, p, 0, false, leBytes 2 c ++ leBytes 1 m.cause⟩ else s
          (s.endFenced p).select p none)

/-! ### Repair (R445) -/

/-- R445: a write to CHn_CTXc_REPAIR with ACT: GO or DROP ends repair. -/
def State.endRepair (s : State) (p x act : Nat) : State :=
  if !s.inRepair p x then s
  else
    let held := s.bit (s.repairReg p x) F.CTX_REPAIR_HELD
    let s := s.wr (s.repairReg p x) 0#32
    let s := if held && (act == 2 || (s.ctx p x).left) then s.fenceStep p x else s
    s.select p none

/-- A write to CHn_CTXc_REPAIR by the PF or the management port (R453). -/
def State.writeRepair (s : State) (req n x : Nat) (v : Word) : State :=
  let act := getF v F.CTX_REPAIR_ACT
  if req != 0 && req != 5 then s
  else if act != 1 && act != 2 then s
  else
    match s.ownerOf n with
    | some p => if (s.part p).low = n then s.endRepair p x act else s
    | none => s

/-- REPAIR_GO (R445): ACT GO is written for context `x` in the block of channel `n`. [DEDUCED: log 60] -/
def execRepairGo (req n x : Nat) (s : State) : Host.Outcome State Fault Refusal :=
  ok (if n < 4 ∧ x < 8 ∧ s.regTakes (R.CTX_REPAIR n x) then s.writeRepair req n x (mkF F.CTX_REPAIR_ACT 1) else s)

/-- REPAIR_DROP (R445): ACT DROP is written. -/
def execRepairDrop (req n x : Nat) (s : State) : Host.Outcome State Fault Refusal :=
  ok (if n < 4 ∧ x < 8 ∧ s.regTakes (R.CTX_REPAIR n x) then s.writeRepair req n x (mkF F.CTX_REPAIR_ACT 2) else s)

end Sys2Proof.Machine
end

