-- ==== Sys2Proof/Machine/Window.lean ====
section
/-! DEFINITION. Sys2Proof/Machine/Window.lean: window registers (R74, R77), zeroing (R140, R141), correction write-backs
(R144). -/

namespace Sys2Proof.Machine

/-! ### CORE_WINk_CFG (R74, R140) -/

/-- The extent [base, base + size) in KiB that a window value covers; none when it is disabled. -/
def extentOf (w : Word) : Option (Nat × Nat) :=
  if isSet w F.CORE_WIN_CFG_EN then some (getF w F.CORE_WIN_CFG_BASE, getF w F.CORE_WIN_CFG_SIZE) else none

/-- Whether two extents share a KiB. -/
def overlaps (a b : Nat × Nat) : Bool := decide (a.1 < b.1 + b.2) && decide (b.1 < a.1 + a.2)

/-- The extents that slot `k` blocks: its window's, and a written one that waits for zeroing to end (R140). -/
def State.blocked (s : State) (c k : Nat) : List (Nat × Nat) :=
  (extentOf (s.rd (winReg c k))).toList
    ++ (match FMap.get none (s.core c).held k with
        | some w => (extentOf w).toList
        | none => [])

/-- R74: whether a value with EN = 1 leaves a valid window in slot `k`. -/
def State.validWindow (s : State) (c k : Nat) (e : Nat × Nat) : Bool :=
  decide (1 ≤ e.2) && decide (e.1 + e.2 ≤ 3072)
    && !((List.range 4).filter (fun j => j != k)).any (fun j => (s.blocked c j).any (fun f => overlaps e f))

/-- R140: whether a new value clears EN of, moves or shrinks an enabled window. -/
def needsZero (old new : Option (Nat × Nat)) : Bool :=
  match old, new with
  | none, _ => false
  | some _, none => true
  | some o, some n => n.1 != o.1 || decide (n.2 < o.2)

/-- A write to CORE_WINk_CFG by a requester that may make one (R74, R77, R140). -/
def State.writeWindow (s : State) (c k : Nat) (v : Word) : State :=
  let new := BitVec.ofNat 32 (b2n (isSet v F.CORE_WIN_CFG_EN) * 2 ^ 31 + v.toNat % 2 ^ 24)
  let bad := match extentOf new with
    | some e => !s.validWindow c k e
    | none => false
  if bad || (s.slot c k).owner.isSome || s.zeroing c k then s.setBit (statReg c) F.CORE_STAT_CFG_REJECT
  else if needsZero (extentOf (s.rd (winReg c k))) (extentOf new) then
    let s := s.setFld (statReg c) F.CORE_STAT_ZEROING (Machine.setBit (s.fld (statReg c) F.CORE_STAT_ZEROING) k true)
    s.onCore c (fun x => { x with held := FMap.set none x.held k (some new) })
  else s.wr (winReg c k) new

/-- Whether a requester writes core configuration registers (R77): the PF and the management port. -/
def mayCore (req : Nat) : Bool := req == 0 || req == 5

/-- WINDOW_WRITE (R74): requester `req` writes `v` to CORE_WINk_CFG of core `c`. -/
def execWindowWrite (req c k : Nat) (v : Word) (s : State) : Host.Outcome State Fault Refusal :=
  ok (if mayCore req ∧ c < 1024 ∧ k < 4 ∧ s.regTakes (winReg c k) then s.writeWindow c k v else s)

/-! ### The end of zeroing (R140, R141) -/

/-- A window whose zeroing ends: zero words with valid check bits, the bit cleared, a value that waited applied. -/
def State.endZero (s : State) (c k : Nat) : State :=
  let s := match extentOf (s.rd (winReg c k)) with
    | some e => s.zeroPhys c (e.1 * 1024) (e.2 * 1024)
    | none => s
  let s := s.onCore c (fun x => { x with eccQ := x.eccQ.filter (fun w => match extentOf (s.rd (winReg c k)) with
    | some e => decide (w * 8 < e.1 * 1024) || decide ((e.1 + e.2) * 1024 ≤ w * 8)
    | none => true) })
  let s := s.setFld (statReg c) F.CORE_STAT_ZEROING (Machine.setBit (s.fld (statReg c) F.CORE_STAT_ZEROING) k false)
  let s : State := match FMap.get none (s.core c).held k with
    | some w => (s.wr (winReg c k) w).onCore c (fun x => { x with held := FMap.set none x.held k none })
    | none => s
  if (s.core c).toZero = 0 then s else s.zeroNext c

/-- ZEROING_END (R141): the zeroing of window `k` of core `c` finishes. In a partition reset the windows of a core are zeroed
one after another, lowest slot first. [DEDUCED: log 57] -/
def execZeroingEnd (c k : Nat) (s : State) : Host.Outcome State Fault Refusal :=
  ok (
    let order := match s.ownerOf (chanOf c) with
      | some p => (s.part p).resetting.isSome && (List.range k).any (fun j => s.zeroing c j)
      | none => false
    if k < 4 ∧ s.zeroing c k ∧ !order then s.endZero c k else s)

/-! ### Correction write-backs (R144) -/

/-- ECC_WRITE_BACK (R144): the oldest corrected word of core `c` is written back; its data do not change. [DESIGN CHOICE: log 30] -/
def execEccWriteBack (c : Nat) (s : State) : Host.Outcome State Fault Refusal :=
  ok (match (s.core c).eccQ with
    | [] => s
    | w :: rest =>
      { s with ce := FMap.set false s.ce (c * 2 ^ 19 + w) false }.onCore c (fun x => { x with eccQ := rest }))

end Sys2Proof.Machine
end

