-- ==== Sys2Proof/Machine/Host.lean ====
section
/-! DEFINITION. Sys2Proof/Machine/Host.lean: queue pairs and doorbells (R271-R276), the check and dispatch of descriptors
(R277-R281), their completion (R282), transfers, sync descriptors, RUN_STEP, FROG (R279, R298, R315). -/

namespace Sys2Proof.Machine

/-! ### Queue pairs (R271, R272, R318) -/

/-- The registers of a function's own pair. -/
def qpCfg (f q : Nat) : Nat := R.HI_QP_CFG f q
def qpStat (f q : Nat) : Nat := R.HI_QP_STAT f q

/-- A discarded write to a pair's registers (R272). -/
def State.qpReject (s : State) (f q : Nat) : State := s.setBit (qpStat f q) F.HI_QP_STAT_CFG_REJECT

/-- OFF to ON (R272). -/
def State.qpOn (s : State) (f q : Nat) : State :=
  let s := s.wr (R.HI_QP_SQ_HEAD f q) 0#32
  let s := s.wr (R.HI_QP_CQ_TAIL f q) (mkF F.HI_QP_CQ_TAIL_PHASE 1)
  let s := s.onQp f q (fun _ => ⟨0, 0, 0, true, false⟩)
  s.setFld (qpStat f q) F.HI_QP_STAT_STATE 1

/-- The steps and waits of aborted descriptors leave the device; a step that runs goes on to its commit. -/
def State.forget (s : State) (d : Desc) : State :=
  match d.opcode with
  | 4 =>
    let t := s.ctx d.part d.ctx
    let keep : Nat → Step → Bool := fun i st => st.desc != d.id || (i == 0 && (t.running || t.starting || t.repeated))
    s.onCtx d.part d.ctx (fun t =>
      let q := (t.queue.zipIdx.filter (fun e => keep e.2 e.1)).map (·.1)
      { t with queue := q, state := if q.isEmpty && t.state == .runnable then .idle else t.state })
  | 6 =>
    let obj := d.at_ 8 4 % 2 ^ 16
    (s.setQueue obj ((s.queue obj).filter (fun w => w.who != .desc d.id))).evaluate obj
  | _ => s

/-- EN cleared with FORCE (R272, R318): fetched descriptors complete ABORTED at once, then OFF. -/
def State.qpForce (s : State) (f q : Nat) : State :=
  let mine := s.host.descs.filter (fun d => d.fn == f && d.qp == q)
  let s := s.each mine (fun s d => s.forget d)
  let s := s.each mine (fun s d => s.complete d.id stAborted [])
  s.setFld (qpStat f q) F.HI_QP_STAT_STATE 0

/-- A write to HI_QPq_CFG (R271, R272). [DEDUCED: log 48] -/
def State.writeQpCfg (s : State) (f q : Nat) (v : Word) : State :=
  let old := s.rd (qpCfg f q)
  let st := s.qpState f q
  let en := isSet v F.HI_QP_CFG_EN
  let sq := getF v F.HI_QP_CFG_SQLOG2
  let cq := getF v F.HI_QP_CFG_CQLOG2
  let vec := getF v F.HI_QP_CFG_VEC
  let new := BitVec.ofNat 32 (v.toNat / 2 ^ 24 * 2 ^ 24 + cq * 2 ^ 16 + vec * 2 ^ 8)
  if st = 0 then
    if en && !(decide (4 ≤ sq) && decide (sq ≤ 16) && decide (4 ≤ cq) && decide (cq ≤ 16)) then s.qpReject f q
    else
      let s := s.wr (qpCfg f q) new
      if en then s.qpOn f q else s
  else if sq ≠ getF old F.HI_QP_CFG_SQLOG2 ∨ cq ≠ getF old F.HI_QP_CFG_CQLOG2 ∨ vec ≠ getF old F.HI_QP_CFG_VEC
      ∨ (en ∧ st = 2) then s.qpReject f q
  else
    let s := s.wr (qpCfg f q) new
    if en then s
    else if isSet v F.HI_QP_CFG_FORCE then s.qpForce f q
    else if st = 2 then s
    else s.setFld (qpStat f q) F.HI_QP_STAT_STATE 2

/-- A write to a base register of a pair (R271, R272). -/
def State.writeQpBase (s : State) (f q off : Nat) (v : Word) : State :=
  if s.qpState f q ≠ 0 then s.qpReject f q
  else s.wr (R.HI_QP_SQ_BASE_LO f q + off) (if off % 8 = 0 then BitVec.ofNat 32 (v.toNat / 4096 * 4096) else v)

/-- QP_ENABLE (R272): function `f` writes `v` with EN = 1 to HI_QPq_CFG. [DEDUCED: log 48] -/
def execQpEnable (f q : Nat) (v : Word) (s : State) : Host.Outcome State Fault Refusal :=
  ok (if s.fnUp f ∧ q < 64 then s.writeQpCfg f q (setF v F.HI_QP_CFG_EN 1) else s)

/-- QP_DRAIN (R272): EN is written 0 with FORCE = 0. [DEDUCED: log 48] -/
def execQpDrain (f q : Nat) (s : State) : Host.Outcome State Fault Refusal :=
  ok (if s.fnUp f ∧ q < 64 then
      s.writeQpCfg f q (setF (setF (s.rd (qpCfg f q)) F.HI_QP_CFG_EN 0) F.HI_QP_CFG_FORCE 0) else s)

/-- QP_FORCED_DISABLE (R272): EN is written 0 with FORCE = 1. [DEDUCED: log 48, 49] -/
def execQpForcedDisable (f q : Nat) (s : State) : Host.Outcome State Fault Refusal :=
  ok (if s.fnUp f ∧ q < 64 then
      s.writeQpCfg f q (setF (setF (s.rd (qpCfg f q)) F.HI_QP_CFG_EN 0) F.HI_QP_CFG_FORCE 1) else s)

/-- QP_DRAIN_END (R272): a DRAINING pair with nothing in flight shows OFF. -/
def execQpDrainEnd (f q : Nat) (s : State) : Host.Outcome State Fault Refusal :=
  ok (if s.qpState f q = 2 ∧ s.fld (qpStat f q) F.HI_QP_STAT_INFLIGHT = 0 then
      s.setFld (qpStat f q) F.HI_QP_STAT_STATE 0 else s)

/-- QP_ERROR (R272): a fetch, or with `wrote` a completion write, of a pair fails on the link. -/
def execQpError (f q : Nat) (wrote : Bool) (s : State) : Host.Outcome State Fault Refusal :=
  ok (if s.fnUp f ∧ q < 64 ∧ s.qpState f q ≠ 0 then s.qpFail f q wrote else s)

/-! ### Doorbells (R274, R275, R288) -/

/-- R275: the SQ_TAIL field. -/
def State.bellTail (s : State) (f q t : Nat) : State :=
  let n := s.sqSize f q
  let h := s.fld (R.HI_QP_SQ_HEAD f q) F.HI_QP_SQ_HEAD_HEAD
  let dist := fun x => (x + n - h % n) % n
  if t < n ∧ dist (s.qp f q).sqTail ≤ dist t then s.onQp f q (fun x => { x with sqTail := t })
  else s.setBit (qpStat f q) F.HI_QP_STAT_DB_ERR

/-- R275: the CQ_HEAD field. -/
def State.bellHead (s : State) (f q h : Nat) : State :=
  let n := s.cqSize f q
  let adv := (h + n - (s.qp f q).cqHead % n) % n
  if h < n ∧ adv ≤ (s.qp f q).unread then s.onQp f q (fun x => { x with cqHead := h, unread := x.unread - adv })
  else s.setBit (qpStat f q) F.HI_QP_STAT_DB_ERR

/-- R288: the ARM field. -/
def State.bellArm (s : State) (f q : Nat) : State :=
  let s := s.onQp f q (fun x => { x with armed := true })
  if (s.qp f q).unread ≠ 0 then s.cqNotify f q else s

/-- A write of `width` bytes to BAR2 of function `f` at `off` (R274, R275). [DEDUCED: log 47] -/
def State.doorbell (s : State) (f off width : Nat) (v : DWord) : State :=
  let q := off / 0x40
  let n := v.toNat
  if !s.fnUp f || decide (64 ≤ q) then s
  else if width ≠ 8 || off % 8 ≠ 0 then s.setBit (R.HI_FN_STAT f) F.HI_FN_STAT_BAD_ACCESS
  else if off % 0x40 ≠ 0 || s.qpState f q ≠ 1 then s
  else if bitsOf n 63 50 ≠ 0 || bitsOf n 31 17 ≠ 0 then s.setBit (qpStat f q) F.HI_QP_STAT_DB_ERR
  else
    let s := if bitOf n 16 then s.bellTail f q (bitsOf n 15 0) else s
    let s := if bitOf n 48 then s.bellHead f q (bitsOf n 47 32) else s
    if bitOf n 49 then s.bellArm f q else s

/-- DOORBELL_SQ_TAIL (R274, R275): a BAR2 write whose SQV announces descriptors; its other fields act too. [DEDUCED: log 47] -/
def execDoorbellSqTail (f off width : Nat) (v : DWord) (s : State) : Host.Outcome State Fault Refusal :=
  ok (s.doorbell f off width v)

/-- DOORBELL_CQ_HEAD (R274, R275): a BAR2 write whose CQV passes entries. [DEDUCED: log 47] -/
def execDoorbellCqHead (f off width : Nat) (v : DWord) (s : State) : Host.Outcome State Fault Refusal :=
  ok (s.doorbell f off width v)

/-- DOORBELL_ARM (R274, R288): a BAR2 write that arms the completion interrupt. [DEDUCED: log 47] -/
def execDoorbellArm (f off width : Nat) (v : DWord) (s : State) : Host.Outcome State Fault Refusal :=
  ok (s.doorbell f off width v)

/-! ### Fetch (R273, R276) -/

/-- Host memory read by DMA: the bytes, none when the access fails; the bytes count (R493). -/
def State.dmaRead (s : State) (a n : Nat) : State × Option (List Byte) :=
  match s.hostRead a n with
  | some bs => (s.count none 0 none 0x42 n, some bs)
  | none => (s, none)

/-- DESCRIPTOR_FETCH (R273, R276): the next announced descriptor of a pair is read, once a CQ entry is reserved for it. -/
def execDescriptorFetch (f q : Nat) (s : State) : Host.Outcome State Fault Refusal :=
  ok (
    let h := s.fld (R.HI_QP_SQ_HEAD f q) F.HI_QP_SQ_HEAD_HEAD
    let n := s.fld (qpStat f q) F.HI_QP_STAT_INFLIGHT
    if !s.fnUp f || s.qpState f q ≠ 1 || h == (s.qp f q).sqTail || decide (s.cqSize f q ≤ (s.qp f q).unread + n) then s
    else
      match s.dmaRead (s.pair (R.HI_QP_SQ_BASE_LO f q) (R.HI_QP_SQ_BASE_HI f q) + 64 * h) 64 with
      | (s, none) => s.qpFail f q false
      | (s, some raw) =>
        let part := if f = 0 then leNat ((raw.drop 2).take 1) / 16 % 4 else f - 1
        let d : Desc := ⟨s.host.nextId, f, q, h, raw, part, 4, .fetched, 0, [], [], 0, 0⟩
        let s := s.onHost (fun x => { x with descs := x.descs ++ [d], nextId := x.nextId + 1 })
        let s := s.setFld (R.HI_QP_SQ_HEAD f q) F.HI_QP_SQ_HEAD_HEAD ((h + 1) % s.sqSize f q)
        s.setFld (qpStat f q) F.HI_QP_STAT_INFLIGHT (n + 1))

/-! ### The check before dispatch (R277-R280) -/

/-- The operand bytes of an opcode as (offset, length); the others of 8-63 are reserved (R278). -/
def listed (op : Nat) : List (Nat × Nat) :=
  match op with
  | 1 => [(8, 8), (16, 4), (20, 1)]
  | 2 => [(8, 8), (16, 4), (20, 2), (24, 4), (28, 4), (32, 4)]
  | 3 => [(8, 8), (16, 4), (20, 2), (24, 4)]
  | 4 => [(8, 8), (16, 2), (20, 4)]
  | 5 => [(8, 4), (12, 4)]
  | 6 => [(8, 4), (12, 1), (16, 4), (20, 4)]
  | 7 => [(8, 4), (12, 4), (16, 4), (20, 1)]
  | 8 => [(8, 4), (12, 4), (16, 4)]
  | 9 => [(8, 8), (16, 4), (20, 4), (24, 4)]
  | 10 | 11 => [(8, 8), (16, 4), (20, 4), (24, 4), (28, 4)]
  | 12 => [(8, 8), (16, 2), (18, 1), (20, 4), (24, 4)]
  | 13 => [(8, 8), (16, 4), (24, 32)]
  | 14 => [(8, 4)]
  | 15 => [(8, 1), (9, 1), (12, 4)]
  | _ => []

/-- The byte offset of CORE, where the opcode names one (R278). -/
def Desc.coreAt (d : Desc) : Option Nat :=
  match d.opcode with
  | 2 | 3 => some 20
  | 12 => some 16
  | _ => none

/-- The window address of a transfer. -/
def Desc.waddr (d : Desc) : Nat := if d.opcode = 12 then d.at_ 20 4 else d.at_ 24 4

/-- The handle of a descriptor that uses one (R278). -/
def Desc.handle (d : Desc) : Option Nat :=
  match d.opcode with
  | 2 => if bitOf (d.at_ 1 1) 1 then some (d.at_ 28 4) else none
  | 5 | 6 => some (d.at_ 8 4)
  | _ => none

/-- Where PTBASE, FIRST, COUNT of a page descriptor begin (R278). -/
def Desc.ptAt (d : Desc) : Option Nat :=
  match d.opcode with
  | 7 | 8 => some 8
  | 9 => some 16
  | 10 | 11 => some 20
  | _ => none

/-- R280 check 2: a reserved field or encoding. [DEDUCED: log 21, 49] -/
def Desc.badDesc (d : Desc) : Bool :=
  let op := d.opcode
  let b1 := d.at_ 1 1
  let b2 := d.at_ 2 1
  decide (4 ≤ b1) || (bitOf b1 1 && op != 2) || bitOf b2 3 || bitsOf b2 7 6 != 0 || d.at_ 3 1 != 0
    || (d.fn != 0 && bitsOf b2 5 4 != 0)
    || (List.range 56).any (fun i => !(listed op).any (fun r => decide (r.1 ≤ i + 8) && decide (i + 8 < r.1 + r.2))
        && d.at_ (i + 8) 1 != 0)
    || (op == 1 && decide (1 < d.at_ 20 1))
    || (match d.coreAt with
        | some a => decide (1024 ≤ d.at_ a 2) || bitsOf d.waddr 30 22 != 0
        | none => false)
    || (op == 12 && decide (1 < d.at_ 18 1))
    || (match d.handle with
        | some h => decide (2 ^ 16 ≤ h)
        | none => false)
    || (op == 6 && decide (2 < d.at_ 12 1))
    || (op == 4 && (decide (2 ^ 22 ≤ d.at_ 20 4) || d.at_ 8 8 % 64 != 0))
    || (op == 7 && decide (1 < d.at_ 20 1))
    || (op == 15 && (decide (2 < d.at_ 9 1) || decide (64 ≤ d.at_ 8 1) || d.at_ 12 4 != 0))

/-- R280 check 7: a core or handle outside the partition. INGEST_CTL checks its stream as it acts (R342). -/
def State.noReach (s : State) (d : Desc) : Bool :=
  (match d.coreAt with
    | some a => !(s.part d.part).owns (d.at_ a 2 / 256)
    | none => false)
  || (match d.handle with
    | some h => !(s.part d.part).owns (bitsOf h 15 14)
    | none => false)

/-- The bytes of a window that a transfer names: a plane descriptor, or the range itself (R278, R279). -/
def Desc.winLen (d : Desc) : Nat :=
  if d.opcode = 12 ∧ d.at_ 18 1 = 1 then 0
  else if bitOf d.waddr 31 then 32
  else if d.opcode = 12 then 32 * d.at_ 24 4 else d.at_ 16 4

/-- R280 check 8: the range of a transfer reaches beyond the window of its context on the core. [DEDUCED: log 49] -/
def State.beyondWindow (s : State) (d : Desc) : Bool :=
  match d.coreAt with
  | some a =>
    match s.slotOf (d.at_ a 2) d.part d.ctx with
    | some k => (beyond (s.bound (d.at_ a 2) k) (d.waddr % 2 ^ 22) d.winLen).isSome
    | none => false
  | none => false

/-- R280 check 8: a length, count or range beyond its limit. [DEDUCED: log 49] -/
def State.beyondLimits (s : State) (d : Desc) : Bool :=
  let op := d.opcode
  ((op == 2 || op == 3) && (d.at_ 16 4 == 0 || decide (3145728 < d.at_ 16 4) || (bitOf (d.at_ 24 4) 31 && d.at_ 16 4 % 32 != 0)))
    || (op == 4 && decide (256 < d.at_ 16 2))
    || (op == 12 && (d.at_ 24 4 == 0 || decide (4096 < d.at_ 24 4)))
    || (match d.ptAt with
        | some a =>
          let base := d.at_ a 4
          let first := d.at_ (a + 4) 4
          let count := d.at_ (a + 8) 4
          base % 4 != 0 || count == 0 || decide (16384 < first + count) || decide (s.sliceLen d.part < base + 4 * (first + count))
        | none => false)
    || s.beyondWindow d

/-- The status of a descriptor before dispatch (R280); OK when it is accepted. -/
def State.checkDesc (s : State) (d : Desc) : Nat :=
  let op := d.opcode
  if 15 < op then stBadOpcode
  else if d.badDesc then stBadDesc
  else if op = 1 ∧ d.at_ 20 1 = 1 ∧ d.fn ≠ 0 then stPrivilege
  else if op ≠ 0 ∧ op ≠ 15 ∧ !s.bit R.HI_STAT F.HI_STAT_FABRIC_READY then stNotReady
  else if d.actsOnPart ∧ !(s.part d.part).configured then stNoPartition
  else if d.actsOnCtx ∧ (s.ctx d.part d.ctx).state = .none then stNoContext
  else if s.noReach d then stNoReach
  else if s.beyondLimits d then stBound
  else stOk

/-- The channel in whose command processor a descriptor takes a slot (R281); 4 when it takes none: R281 names no channel for a descriptor
that names no core and whose partition holds no configuration. [DESIGN CHOICE: log 132] -/
def State.slotChan (s : State) (d : Desc) : Nat :=
  match d.coreAt with
  | some a => d.at_ a 2 / 256
  | none => if (s.part d.part).configured then (s.part d.part).low else 4

/-! ### Dispatch (R281, R289, R315) -/

/-- A descriptor's fields replaced. -/
def State.setDesc (s : State) (id : Nat) (g : Desc → Desc) : State :=
  s.onHost (fun h => { h with descs := h.descs.map (fun d => if d.id = id then g d else d) })

/-- A descriptor's effect is done; its entry is still to be written. [DEDUCED: log 58] -/
def State.finish (s : State) (id status : Nat) (result : List Byte) : State :=
  s.setDesc id (fun d => { d with st := .done, status := status, result := result })

/-- DESCRIPTOR_DISPATCH (R280, R281, R289): the oldest undispatched descriptor of a pair is checked and takes a command slot;
FENCE holds it until every earlier one has its entry. One that acts on a context in TEARDOWN completes FROGGED (R315). [DEDUCED: log 118] -/
def execDescriptorDispatch (f q : Nat) (s : State) : Host.Outcome State Fault Refusal :=
  ok (
    let mine := s.host.descs.filter (fun d => d.fn == f && d.qp == q)
    match mine.find? (fun d => d.st == .fetched) with
    | none => s
    | some d =>
      if d.fence && mine.head?.map (·.id) != some d.id then s
      else
        let status := s.checkDesc d
        if status ≠ stOk then s.finish d.id status []
        else
          let ch := s.slotChan d
          if ch < 4 ∧ 4096 ≤ s.cmds ch then s
          else
            let s := s.markDesc d tvBegin
            let n := s.host.dispatched + 1
            let s := (s.onHost (fun h => { h with dispatched := n })).setDesc d.id (fun d => { d with chan := ch, order := n, sent := s.tb2 })
            if d.opcode ≠ 14 ∧ d.actsOnCtx ∧ (s.ctx d.part d.ctx).state = .teardown then
              s.finish d.id (if (s.part d.part).aborted then stAborted else stFrogged) []
            else s.setDesc d.id (fun d => { d with st := .checked }))

/-- Whether a dispatched descriptor acts before another: the steps of a context queue in the order of their dispatch (R298); the
allocator of a partition serves PAGE_ALLOC and PAGE_FREE in it (R306), a PAGE_FREE once earlier steps of its context have
queued (R309); quotes are signed in it, whoever asks (R468). -/
def Desc.goesBefore (e d : Desc) : Bool :=
  e.st == .checked && decide (e.order < d.order)
    && (match d.opcode with
      | 4 => e.part == d.part && e.opcode == 4 && e.ctx == d.ctx
      | 7 => e.part == d.part && (e.opcode == 7 || e.opcode == 8)
      | 8 => e.part == d.part && (e.opcode == 7 || e.opcode == 8 || (e.opcode == 4 && e.ctx == d.ctx))
      | 13 => e.opcode == 13
      | _ => false)

/-- The dispatched descriptor that waits for its action and whose turn it is, by identifier and opcode. -/
def State.ready (s : State) (id op : Nat) : Option Desc :=
  match s.host.descs.find? (fun d => d.id == id && d.st == .checked && d.opcode == op) with
  | some d => if s.host.descs.any (fun e => e.goesBefore d) then none else some d
  | none => none

/-- DESCRIPTOR_COMPLETION (R282, R289): the entry of a descriptor whose effect is done is written. -/
def execDescriptorCompletion (id : Nat) (s : State) : Host.Outcome State Fault Refusal :=
  ok (match s.host.descs.find? (fun d => d.id == id && d.st == .done) with
    | none => s
    | some d => s.complete id d.status d.result)

/-- NOP (R278). -/
def execNop (id : Nat) (s : State) : Host.Outcome State Fault Refusal :=
  ok (match s.ready id 0 with
    | none => s
    | some _ => s.finish id stOk [])

/-! ### Transfers (R279) -/

/-- The completion status of a refusal code (R279). -/
def refusalStatus (code : Nat) : Nat :=
  if code = mNoJob then stNoReach else if code = mNoContext then stNoContext else if code = mZeroing then stZeroing
  else if code = mBound then stBound else stPlane

/-- The checks of R236 as a host transfer makes them (R279), the status of a refusal, and the ECC counts. A plane descriptor in an
uncorrectable word faults the context that owns the window, and the descriptor completes FROGGED (R145). [DESIGN CHOICE: log 113] -/
def State.hostDest (s : State) (p x c : Nat) (a : Word) (n : Nat) : State × Except Nat Dest :=
  match s.destCheck p x c a n, s.slotOf c p x with
  | .error e, some k =>
    if e = mPlane ∨ e = mBound then
      match s.checkDescWords c k a with
      | (s, some w) => (s.raise c k fEcc 0 w false none, .error stFrogged)
      | (s, none) => (s, .error (refusalStatus e))
    else (s, .error (refusalStatus e))
  | .error e, none => (s, .error (refusalStatus e))
  | .ok d, _ => ((s.checkDescWords c d.1 a).1, .ok d)

/-- LOADS of a context counts a LOAD_TENSOR or RESTORE that completes OK (R472). -/
def State.countLoad (s : State) (p x : Nat) : State := s.onCtx p x (fun t => { t with loads := (t.loads + 1) % 2 ^ 32 })

/-- LOAD_TENSOR (R279): host bytes into a window, then the signal of SIGEN; for a core that a migration moves it waits (R241, R436).
[DEDUCED: log 49] -/
def execLoadTensor (id : Nat) (s : State) : Host.Outcome State Fault Refusal :=
  ok (match s.ready id 2 with
    | none => s
    | some d =>
      let n := d.at_ 16 4
      let c := d.at_ 20 2
      if s.holds c then s
      else
      match s.hostDest d.part d.ctx c (BitVec.ofNat 32 (d.at_ 24 4)) n with
      | (s, .error st) => s.finish id st []
      | (s, .ok dst) =>
        match s.dmaRead (d.at_ 8 8) n with
        | (s, none) => s.finish id stDma []
        | (s, some bs) =>
          let s := (s.place c dst bs).countLoad d.part d.ctx
          let s := if bitOf (d.at_ 1 1) 1 then (s.applySignal (d.at_ 28 4 % 2 ^ 16) (d.at_ 32 4) none).checkDonations else s
          s.finish id stOk [])

/-- The ECC check of ranges that a host transfer reads: the first uncorrectable word (R145). -/
def State.checkRanges (s : State) (c k : Nat) : List (Nat × Nat) → State × Option Nat
  | [] => (s, none)
  | r :: l =>
    match s.checkRange c k r.1 r.2 with
    | (s, some a) => (s, some a)
    | (s, none) => s.checkRanges c k l

/-- Bytes of a window to host memory: the status (R279). An uncorrectable word faults the context that owns the window, and the
descriptor completes FROGGED (R145). -/
def State.toHost (s : State) (p x c : Nat) (a : Word) (n haddr : Nat) : State × Nat :=
  match s.hostDest p x c a n with
  | (s, .error st) => (s, st)
  | (s, .ok src) =>
    match s.checkRanges c src.1 src.2.2 with
    | (s, some w) => (s.raise c src.1 fEcc 0 w false none, stFrogged)
    | (s, none) =>
      match s.hostWrite haddr (s.take c src n) with
      | (s, true) => (s, stOk)
      | (s, false) => (s, stDma)

/-- STORE_TENSOR (R279); for a core that a migration moves it waits (R241, R436). [DEDUCED: log 49] -/
def execStoreTensor (id : Nat) (s : State) : Host.Outcome State Fault Refusal :=
  ok (match s.ready id 3 with
    | none => s
    | some d =>
      if s.holds (d.at_ 20 2) then s
      else
      let (s, st) := s.toHost d.part d.ctx (d.at_ 20 2) (BitVec.ofNat 32 (d.at_ 24 4)) (d.at_ 16 4) (d.at_ 8 8)
      s.finish id st [])

/-- DIGEST_READ (R199, R201, R278): digests of a window table, or the result digest of the last committed step. [DEDUCED: log 35] -/
def execDigestRead (id : Nat) (s : State) : Host.Outcome State Fault Refusal :=
  ok (match s.ready id 12 with
    | none => s
    | some d =>
      if d.at_ 18 1 = 0 then
        let n := d.at_ 24 4
        if s.holds (d.at_ 16 2) then s
        else
        let (s, st) := s.toHost d.part d.ctx (d.at_ 16 2) (BitVec.ofNat 32 (d.at_ 20 4)) (32 * n) (d.at_ 8 8)
        s.finish id st (leBytes 4 (if st = stOk then n else 0))
      else
        let g := (s.ctx d.part d.ctx).lastDigest
        if g.isEmpty then s.finish id stBadState (leBytes 4 0)
        else
          match s.hostWrite (d.at_ 8 8) g with
          | (s, true) => s.finish id stOk (leBytes 4 1)
          | (s, false) => s.finish id stDma (leBytes 4 0))

/-! ### Sync descriptors (R243, R278, R284) -/

/-- SYNC_SIGNAL (R243): a host signal names no holder. -/
def execSyncSignal (id : Nat) (s : State) : Host.Outcome State Fault Refusal :=
  ok (match s.ready id 5 with
    | none => s
    | some d => ((s.applySignal (d.at_ 8 4 % 2 ^ 16) (d.at_ 12 4) none).checkDonations).finish id stOk [])

/-- SYNC_WAIT (R243, R245): the wait reaches its object; the descriptor stays until its release or its timeout. [DEDUCED: log 53] -/
def execSyncWait (id : Nat) (s : State) : Host.Outcome State Fault Refusal :=
  ok (match s.ready id 6 with
    | none => s
    | some d =>
      (s.setDesc id (fun d => { d with st := .dispatched })).applyWait (d.at_ 8 4 % 2 ^ 16) (d.at_ 12 1) (d.at_ 16 4) (.desc id) none)

/-- SYNC_WAIT_TIMEOUT (R278, R284): TIMEOUT has passed with the wait still queued: nothing is taken. A wait whose release has
left completes as released. [DESIGN CHOICE: log 5; DEDUCED: log 53] -/
def execSyncWaitTimeout (id : Nat) (s : State) : Host.Outcome State Fault Refusal :=
  ok (match s.host.descs.find? (fun d => d.id == id && d.st == .dispatched && d.opcode == 6) with
    | none => s
    | some d =>
      let obj := d.at_ 8 4 % 2 ^ 16
      if d.at_ 20 4 = 0 || !(s.queue obj).any (fun w => w.who == .desc id) then s
      else ((s.setQueue obj ((s.queue obj).filter (fun w => w.who != .desc id))).evaluate obj).finish id stTimeout [])

/-! ### RUN_STEP (R298, R299, R319) -/

/-- R298: whether a slice record holds a reserved encoding. -/
def sliceBad (r : List Byte) : Bool :=
  decide (1 < leNat ((r.drop 10).take 1)) || decide (8 ≤ leNat ((r.drop 11).take 1)) || (r.drop 20).any (fun b => b != 0#8)

/-- R298, R299: whether a slice record holds a value out of range; `len` is the length of the table-memory slice. -/
def sliceBeyond (len : Nat) (r : List Byte) : Bool :=
  let pos := leNat ((r.drop 4).take 4)
  let n := leNat ((r.drop 8).take 2)
  let pt := leNat ((r.drop 12).take 4)
  (if leNat ((r.drop 10).take 1) = 0 then n != 1 else n == 0 || decide (4096 < n))
    || decide (2 ^ 20 < pos + n) || pt % 4 != 0 || decide (len ≤ pt)

/-- The sequence id of a slice record. -/
def sliceSeq (r : List Byte) : Nat := leNat (r.take 4)

/-- RUN_STEP (R298): the slice list is read and checked, and the step joins its context's queue. [DEDUCED: log 49] -/
def execRunStep (id : Nat) (s : State) : Host.Outcome State Fault Refusal :=
  ok (match s.ready id 4 with
    | none => s
    | some d =>
      let p := d.part
      let x := d.ctx
      let n := d.at_ 16 2
      let arg := d.at_ 20 4
      if !s.chansOn p then s.finish id stBadState []
      else
        match s.dmaRead (d.at_ 8 8) (32 * n) with
        | (s, none) => s.finish id stDma []
        | (s, some bs) =>
          let rs := chunksOf 32 n bs
          if rs.any sliceBad || (rs.map sliceSeq).eraseDups.length ≠ n then s.finish id stBadDesc []
          else if rs.any (sliceBeyond (s.sliceLen p))
              || (s.ctx p x).cores.any (fun r => (beyond (s.bound r.core r.slot) arg (32 + 32 * n)).isSome) then s.finish id stBound []
          else
            let s := s.setDesc id (fun d => { d with st := .dispatched })
            (s.queueStep p x ⟨arg, rs, id, d.order⟩).checkDonations)

/-- FROG (R315): the context is torn down; one in TEARDOWN already completes BAD_STATE. [DEDUCED: log 58] -/
def execFrog (id : Nat) (s : State) : Host.Outcome State Fault Refusal :=
  ok (match s.ready id 14 with
    | none => s
    | some d =>
      if (s.ctx d.part d.ctx).state = .teardown then s.finish id stBadState []
      else if (s.ctx d.part d.ctx).state = .none then s.finish id stNoContext []
      else (s.setDesc id (fun d => { d with st := .dispatched })).beginTeardown d.part d.ctx none (some id))

end Sys2Proof.Machine
end

