-- ==== Sys2Proof/Machine/Pages.lean ====
section
/-! DEFINITION. Sys2Proof/Machine/Pages.lean: the page allocator's descriptors (R306-R310) and PAGE_TABLE_WRITE (R208). -/

namespace Sys2Proof.Machine

/-- The slice offsets of the entries that a page descriptor names: FIRST to FIRST + COUNT - 1 at PTBASE. -/
def Desc.entries (d : Desc) (a : Nat) : List Nat :=
  (List.range (d.at_ (a + 8) 4)).map (fun i => d.at_ a 4 + 4 * (d.at_ (a + 4) 4 + i))

/-- Whether a range of entries lies within a partition's slice (R307, R308). -/
def State.entriesIn (s : State) (p : Nat) (offs : List Nat) : Bool := offs.all (fun o => decide (o + 4 ≤ s.sliceLen p))

/-- An entry that names a group (R208, R307). -/
def PoolGroup.entry (g : PoolGroup) (format : Nat) : Nat := 2 ^ 31 + format * 2 ^ 30 + g.off * 2 ^ 20 + g.slot * 2 ^ 8 + g.gen

/-- An entry written; the group it names remembers where (R309). [DEDUCED: log 38] -/
def State.writeEntryAt (s : State) (p off e : Nat) : State :=
  (s.putSlice p off (leBytes 4 e)).onPart p (fun q => { q with pool := q.pool.map (fun g =>
    if g.off == bitsOf e 29 20 && g.slot == bitsOf e 19 8 && !g.entries.contains off then { g with entries := off :: g.entries } else g) })

/-- PAGE_ALLOC (R307): the first status that applies. [DEDUCED: log 59] -/
def execPageAlloc (id : Nat) (s : State) : Host.Outcome State Fault Refusal :=
  ok (match s.ready id 7 with
    | none => s
    | some d =>
      let p := d.part
      let offs := d.entries 8
      let n := offs.length
      let free := ((s.part p).pool.filter (fun g => g.st == .free)).take n
      if !s.entriesIn p offs then s.finish id stBound (leBytes 4 0)
      else if offs.any (fun o => bitOf (s.sliceU32 p o) 31) then s.finish id stBadState (leBytes 4 0)
      else if free.length < n then
        (s.incFld (R.ALLOC_FREE (s.part p).low) F.ALLOC_FREE_REFUSED 1).finish id stNoPages (leBytes 4 0)
      else
        let s := s.onPart p (fun q => { q with pool := q.pool.map (fun g =>
          if free.contains g then { g with st := .alloc d.ctx, hdim := 0 } else g) })
        let s := s.each (offs.zip free) (fun s e => s.writeEntryAt p e.1 (e.2.entry (d.at_ 20 1)))
        s.finish id stOk (leBytes 4 n))

/-- The latest step of a context that was dispatched before the `order`-th dispatch and has not completed (R309). [DEDUCED: log 59] -/
def State.lastStep (s : State) (p x order : Nat) : Option Nat :=
  (((s.ctx p x).queue.filter (fun st => decide (st.order < order))).map (·.desc)).getLast?

/-- PAGE_FREE (R308, R309): the named groups become PENDING on the context's latest step, or are released at once. [DEDUCED: log 59] -/
def execPageFree (id : Nat) (s : State) : Host.Outcome State Fault Refusal :=
  ok (match s.ready id 8 with
    | none => s
    | some d =>
      let p := d.part
      let offs := d.entries 8
      let es := offs.map (s.sliceU32 p)
      let allocated (g : PoolGroup) : Bool := match g.st with
        | .alloc _ => true
        | _ => false
      let stale (e : Nat) : Bool := match s.groupOf p e with
        | some g => !allocated g || g.gen != e % 256
        | none => true
      let named (g : PoolGroup) : Bool := es.any (fun e => bitsOf e 29 20 == g.off && bitsOf e 19 8 == g.slot)
      if !s.entriesIn p offs then s.finish id stBound (leBytes 4 0)
      else if es.any (fun e => !bitOf e 31) then s.finish id stPteInvalid (leBytes 4 0)
      else if es.any stale then s.finish id stPteStale (leBytes 4 0)
      else
        let s := s.each (offs.zip es) (fun s e => s.writeEntryAt p e.1 e.2)
        let s := match s.lastStep p d.ctx d.order with
          | some st => s.onPart p (fun q => { q with pool := q.pool.map (fun g => if named g then { g with st := .pending d.ctx st } else g) })
          | none => s.releaseGroups p named
        s.finish id stOk (leBytes 4 offs.length))

/-- PAGE_TABLE_WRITE (R208, R211, R278): entries from host memory into a page table. [DEDUCED: log 59] -/
def execPageTableWrite (id : Nat) (s : State) : Host.Outcome State Fault Refusal :=
  ok (match s.ready id 9 with
    | none => s
    | some d =>
      let p := d.part
      let offs := d.entries 16
      if !s.entriesIn p offs then s.finish id stBound []
      else
        match s.dmaRead (d.at_ 8 8) (4 * offs.length) with
        | (s, none) => s.finish id stDma []
        | (s, some bs) =>
          let s := s.each (offs.zip (chunksOf 4 offs.length bs)) (fun s e => s.writeEntryAt p e.1 (leNat e.2))
          s.finish id stOk [])

end Sys2Proof.Machine
end

