-- ==== Sys2Proof/Machine/Xmss.lean ====
section
/-! DEFINITION. Sys2Proof/Machine/Xmss.lean: XMSS^MT with SHAKE256 and n = 32: the verification of the operator's envelopes (R470, R471),
the signature of the identity key (R466). PRESUMED: the algorithms are those of RFC 8391, the OIDs those of SP 800-208, which the spec names
without writing them out. -/

namespace Sys2Proof.Machine

/-- A parameter set: total height, layers. -/
structure XmssSet where
  h : Nat
  d : Nat
  deriving DecidableEq, Repr

/-- The sets of SP 800-208 with SHAKE256, n = 32: OIDs 0x29 to 0x30. [PRESUMED: log 26] -/
def xmssSet (oid : Nat) : Option XmssSet :=
  if 0x29 ≤ oid ∧ oid ≤ 0x30 then
    [⟨20, 2⟩, ⟨20, 4⟩, ⟨40, 2⟩, ⟨40, 4⟩, ⟨40, 8⟩, ⟨60, 3⟩, ⟨60, 6⟩, ⟨60, 12⟩][oid - 0x29]?
  else none

/-- The height of one layer. -/
def XmssSet.hp (x : XmssSet) : Nat := x.h / x.d

/-- The length of a signature (R470). -/
def XmssSet.sigLen (x : XmssSet) : Nat := ceilDiv x.h 8 + 32 + x.d * (67 + x.hp) * 32

/-- A hash with a domain number in 32 bytes and a key. -/
def xmssHash (domain : Nat) (key m : List Byte) : List Byte := shake256 (beBytes 32 domain ++ key ++ m) 32

/-- An address: layer, tree, type and its three words, and the key-and-mask word. -/
structure Adrs where
  layer : Nat
  tree : Nat
  type : Nat
  a : Nat
  b : Nat
  c : Nat
  deriving DecidableEq, Repr

/-- Its 32 bytes with a key-and-mask word. -/
def Adrs.bytes (x : Adrs) (km : Nat) : List Byte :=
  beBytes 4 x.layer ++ beBytes 8 x.tree ++ beBytes 4 x.type ++ beBytes 4 x.a ++ beBytes 4 x.b ++ beBytes 4 x.c ++ beBytes 4 km

/-- PRF over an address. -/
def xmssPrf (seed : List Byte) (x : Adrs) (km : Nat) : List Byte := xmssHash 3 seed (x.bytes km)

/-- Two byte strings XORed. -/
def xor8 (a b : List Byte) : List Byte := List.zipWith (· ^^^ ·) a b

/-- The WOTS+ chain: `n` steps from step `i`. -/
def wotsChain (seed : List Byte) (x : Adrs) : Nat → Nat → List Byte → List Byte
  | 0, _, v => v
  | n + 1, i, v =>
    let y := { x with c := i }
    wotsChain seed x n (i + 1) (xmssHash 0 (xmssPrf seed y 0) (xor8 v (xmssPrf seed y 1)))

/-- The randomised hash of two nodes. -/
def randHash (seed : List Byte) (x : Adrs) (l r : List Byte) : List Byte :=
  xmssHash 1 (xmssPrf seed x 0) (xor8 l (xmssPrf seed x 1) ++ xor8 r (xmssPrf seed x 2))

/-- The 67 base-16 digits of a 32-byte message with its checksum. -/
def wotsDigits (m : List Byte) : List Nat :=
  let ds := m.flatMap (fun b => [b.toNat / 16, b.toNat % 16])
  let sum := ds.foldl (fun v x => v + (15 - x)) 0
  ds ++ [sum / 256 % 16, sum / 16 % 16, sum % 16]

/-- The WOTS+ public key that a signature gives. -/
def wotsPk (seed : List Byte) (x : Adrs) (m : List Byte) (sig : List (List Byte)) : List (List Byte) :=
  (List.zip (wotsDigits m) sig).zipIdx.map (fun q =>
    wotsChain seed { x with b := q.2 } (15 - q.1.1) q.1.1 q.1.2)

/-- One level of an L-tree. -/
def lLevel (seed : List Byte) (x : Adrs) : Nat → List (List Byte) → List (List Byte)
  | i, l :: r :: t => randHash seed { x with c := i } l r :: lLevel seed x (i + 1) t
  | _, t => t

/-- The root of an L-tree; `fuel` bounds its height. -/
def lTree (seed : List Byte) (x : Adrs) : Nat → Nat → List (List Byte) → List Byte
  | 0, _, t => t.headD []
  | fuel + 1, h, t => if t.length ≤ 1 then t.headD [] else lTree seed x fuel (h + 1) (lLevel seed { x with b := h } 0 t)

/-- The path from a leaf to its root. -/
def authPath (seed : List Byte) (x : Adrs) : Nat → Nat → List (List Byte) → List Byte → List Byte
  | _, _, [], node => node
  | h, idx, a :: as, node =>
    let y := { x with b := h, c := idx / 2 }
    authPath seed x (h + 1) (idx / 2) as (if idx % 2 = 0 then randHash seed y node a else randHash seed y a node)

/-- The root that one layer's signature gives for a message. -/
def xmssRoot (seed : List Byte) (layer tree idx : Nat) (sig auth : List (List Byte)) (m : List Byte) : List Byte :=
  let pk := wotsPk seed ⟨layer, tree, 0, idx, 0, 0⟩ m sig
  let leaf := lTree seed ⟨layer, tree, 1, idx, 0, 0⟩ 8 0 pk
  authPath seed ⟨layer, tree, 2, 0, 0, 0⟩ 0 idx auth leaf

/-- The layers of a signature, from the bottom. -/
def xmssLayers (seed : List Byte) (hp : Nat) : Nat → Nat → List (List (List Byte)) → List Byte → List Byte
  | _, _, [], node => node
  | layer, idx, s :: ss, node =>
    xmssLayers seed hp (layer + 1) (idx / 2 ^ hp) ss
      (xmssRoot seed layer (idx / 2 ^ hp) (idx % 2 ^ hp) (s.take 67) (s.drop 67) node)

/-- Whether a signature verifies under a 68-byte public key: OID, root, PUB_SEED. [PRESUMED: log 26] -/
def xmssVerify (pk m sig : List Byte) : Bool :=
  match xmssSet (beNat (pk.take 4)) with
  | none => false
  | some x =>
    let root := (pk.drop 4).take 32
    let seed := (pk.drop 36).take 32
    let n := ceilDiv x.h 8
    let idx := beNat (sig.take n)
    let r := (sig.drop n).take 32
    let layers := chunksOf (67 + x.hp) x.d (chunksOf 32 (x.d * (67 + x.hp)) (sig.drop (n + 32)))
    let md := xmssHash 2 (r ++ root ++ beBytes 32 idx) m
    sig.length == x.sigLen && xmssLayers seed x.hp 0 idx layers md == root

/-! ### Signing (R466) -/

/-- The secret strings of a WOTS+ key, SP 800-208's PRF_keygen over the address of each chain. [PRESUMED: log 26] -/
def wotsSecret (sk seed : List Byte) (x : Adrs) : List (List Byte) :=
  (List.range 67).map (fun i => xmssHash 4 sk (seed ++ { x with b := i }.bytes 0))

/-- The WOTS+ signature of a 32-byte message. -/
def wotsSign (sk seed : List Byte) (x : Adrs) (m : List Byte) : List (List Byte) :=
  (List.zip (wotsDigits m) (wotsSecret sk seed x)).zipIdx.map (fun q => wotsChain seed { x with b := q.2 } q.1.1 0 q.1.2)

/-- Node `i` at a height of a tree of a layer. -/
def treeNode (sk seed : List Byte) (layer tree : Nat) : Nat → Nat → List Byte
  | 0, i =>
    let x : Adrs := ⟨layer, tree, 0, i, 0, 0⟩
    let pk := (wotsSecret sk seed x).zipIdx.map (fun q => wotsChain seed { x with b := q.2 } 15 0 q.1)
    lTree seed ⟨layer, tree, 1, i, 0, 0⟩ 8 0 pk
  | h + 1, i =>
    randHash seed ⟨layer, tree, 2, 0, h, i⟩ (treeNode sk seed layer tree h (2 * i)) (treeNode sk seed layer tree h (2 * i + 1))

/-- The strings of one layer's signature: WOTS+, then the authentication path. -/
def layerSign (sk seed : List Byte) (hp layer tree leaf : Nat) (m : List Byte) : List (List Byte) :=
  wotsSign sk seed ⟨layer, tree, 0, leaf, 0, 0⟩ m
    ++ (List.range hp).map (fun j => treeNode sk seed layer tree j (leaf / 2 ^ j ^^^ 1))

/-- The layers of a signature, from the bottom: each but the first signs the root of the tree below; `n` layers remain. -/
def layersSign (sk seed : List Byte) (hp : Nat) : Nat → Nat → Nat → List Byte → List (List Byte)
  | 0, _, _, _ => []
  | n + 1, layer, idx, m =>
    layerSign sk seed hp layer (idx / 2 ^ hp) (idx % 2 ^ hp) m
      ++ layersSign sk seed hp n (layer + 1) (idx / 2 ^ hp) (treeNode sk seed layer (idx / 2 ^ hp) hp 0)

/-- What follows the leaf index in the signature of a message (R466): the randomiser, then the layers. [PRESUMED: log 26] -/
def xmssSign (x : XmssSet) (sk prf seed : List Byte) (idx : Nat) (m : List Byte) : List Byte :=
  let root := treeNode sk seed (x.d - 1) 0 x.hp 0
  let r := xmssHash 3 prf (beBytes 32 idx)
  r ++ (layersSign sk seed x.hp x.d 0 idx (xmssHash 2 (r ++ root ++ beBytes 32 idx) m)).flatten

end Sys2Proof.Machine
end

