-- ==== Sys2Proof/Machine/Load.lean ====
section
/-! DEFINITION. Sys2Proof/Machine/Load.lean: LOAD_PROGRAM: envelopes (R470, R471), model packages (R472), partition
configurations (R293-R296, R185, R209). -/

namespace Sys2Proof.Machine

/-! ### Envelopes (R470, R471) -/

/-- A little-endian field of a byte string. -/
def le (bs : List Byte) (i n : Nat) : Nat := leNat ((bs.drop i).take n)

/-- Whether bytes [i, i + n) are all 0. -/
def zeroIn (bs : List Byte) (i n : Nat) : Bool := ((bs.drop i).take n).all (fun b => b == 0#8)

/-- The length of the signature that an envelope's OPPK calls for; none when it names no permitted set. -/
def envSigLen (e : List Byte) : Option Nat := (xmssSet (beNat ((e.drop 16).take 4))).map XmssSet.sigLen

/-- R471 checks 2 and 3: the length and the reserved fields of an envelope, and its TYPE. -/
def envelopeOk (e : List Byte) (type : Nat) : Bool :=
  decide (256 ≤ e.length) && le e 0 4 == 1 && zeroIn e 5 3 && zeroIn e 84 172
    && (match envSigLen e with
        | some n => e.length == 256 + le e 8 4 + n
        | none => false)
    && le e 4 1 == type

/-- The signed message and the body of an envelope. -/
def envMsg (e : List Byte) : List Byte := e.take (256 + le e 8 4)
def envBody (e : List Byte) : List Byte := (e.drop 256).take (le e 8 4)

/-- R471 checks 4 and 5 under the installed key. -/
def signedUnder (opkey e : List Byte) : Bool :=
  let pk := (e.drop 16).take 68
  shake256 pk 32 == opkey && xmssVerify pk (envMsg e) (e.drop (256 + le e 8 4))

/-- R471: whether an envelope of a TYPE passes every check. [DEDUCED: log 27] -/
def State.verifies (s : State) (e : List Byte) (type : Nat) : Bool :=
  s.bit R.SEC_STAT F.SEC_STAT_ROOT_OK && s.bit R.SEC_STAT F.SEC_STAT_STORE_OK && s.bit R.SEC_STAT F.SEC_STAT_OPKEY
    && envelopeOk e type
    && (match s.sec.store.opkey with
        | some k => signedUnder k.1 e
        | none => false)

/-- The image digest (R471). -/
def imageDigest (e : List Byte) : List Byte := shake256 (0x20#8 :: envMsg e) 32

/-! ### Model packages (R472) -/

/-- A section of a package: core, window address, its bytes' offset in the body and their number. -/
structure PkgSection where
  core : Nat
  addr : Nat
  off : Nat
  len : Nat
  ok : Bool
  deriving DecidableEq, Repr

/-- The sections of a package body; `ok` says that no reserved field is set and the bytes lie in the body. -/
def pkgSections (b : List Byte) : List PkgSection :=
  (List.range (le b 64 4)).map (fun i =>
    let r := (b.drop (128 + 16 * i)).take 16
    ⟨le r 0 2, le r 4 4, le r 8 4, le r 12 4,
      r.length == 16 && zeroIn r 2 2 && decide (le r 4 4 < 2 ^ 22) && decide (le r 8 4 + le r 12 4 ≤ b.length)⟩)

/-- Whether a package's header holds (R472). -/
def pkgOk (b : List Byte) (mode : Nat) : Bool :=
  decide (128 ≤ b.length) && decide (le b 64 4 ≤ 65536) && le b 68 4 == mode && zeroIn b 72 56

/-- The status of a section against a context (R236, R472). -/
def State.sectionStatus (s : State) (p x : Nat) (r : PkgSection) : Nat :=
  if !(s.ctx p x).cores.any (fun c => c.core == r.core) then stNoReach
  else
    match s.destCheck p x r.core (BitVec.ofNat 32 r.addr) r.len with
    | .error e => refusalStatus e
    | .ok _ => stOk

/-- A verified package loads into a context (R472): the status, and the state. -/
def State.loadPackage (s : State) (p x : Nat) (e : List Byte) : State × Nat :=
  let b := envBody e
  if (s.ctx p x).state ≠ .idle then (s, stBadState)
  else if !pkgOk b (s.ctx p x).mode then (s, stVerify)
  else
    let rs := pkgSections b
    if rs.any (fun r => !r.ok) then (s, stVerify)
    else
      match rs.find? (fun r => s.sectionStatus p x r != stOk) with
      | some r => (s, s.sectionStatus p x r)
      | none =>
        let s := s.each rs (fun s r =>
          match s.destCheck p x r.core (BitVec.ofNat 32 r.addr) r.len with
          | .ok d => s.place r.core d ((b.drop r.off).take r.len)
          | .error _ => s)
        (s.onCtx p x (fun t => { t with pkgDig := imageDigest e, progDig := b.take 32, wtsDig := (b.drop 32).take 32, serial := le e 12 4, loads := 0 }), stOk)

/-! ### Configurations: table memory (R294, R185, R209) -/

/-- The key of a byte of a slice over given channels (R294). -/
def keyIn (chans : List Nat) (off : Nat) : Nat := nth 0 chans (off / 2 ^ 22) * 2 ^ 22 + off % 2 ^ 22

/-- A little-endian number in a slice over given channels. -/
def Memory.numIn (m : Memory) (chans : List Nat) (off n : Nat) : Nat := leNat ((List.range n).map (fun i => m.byte (keyIn chans (off + i))))

/-- The sections of a configuration: image offset, length, destination (R295). [DEDUCED: log 52] -/
def cfgSections (b : List Byte) : List (Nat × Nat × Nat) :=
  (List.range (le b 20 4)).map (fun i =>
    let o := 64 + 64 * le b 2 1 + 16 * i
    (le b o 4, le b (o + 4) 4, le b (o + 8) 4))

/-- Table memory with a configuration's sections copied in, in order (R293 step 2). -/
def Memory.withSections (m : Memory) (chans : List Nat) (b : List Byte) : Memory :=
  (cfgSections b).foldl (fun m s => (((b.drop s.1).take s.2.1).zipIdx).foldl (fun m q => m.put (keyIn chans (s.2.2 + q.2)) q.1) m) m

/-- Whether R185 accepts a tree entry at an offset of a slice of `len` bytes, in use or not. [DEDUCED: log 52] -/
def treeOk (m : Memory) (chans : List Nat) (len own off : Nat) : Bool :=
  let w (i : Nat) : Nat := m.numIn chans (off + 4 * i) 4
  let e := TreeEntry.ofWords w
  let ps := (List.range e.P).map (fun i => m.numIn chans (e.plist + 2 * i) 2)
  let clean := bitsOf (w 0) 30 27 == 0 && e.fn != 3 && !bitOf (w 0) 24 && bitsOf (w 1) 31 14 == 0 && bitsOf (w 2) 31 24 == 0
    && bitsOf (w 3) 31 14 == 0 && bitsOf (w 4) 31 22 == 0 && bitsOf (w 5) 31 16 == 0 && w 7 == 0
    && e.plist % 2 == 0 && e.daddr % 32 == 0
  clean && decide (e.plist + 2 * e.P ≤ len) && ps.all (fun v => decide (v < 2 ^ 14))
    && ((ps.zip ps.tail).all (fun v => decide (v.1 < v.2)))
    && handleOk e.dsync && (bitsOf e.dsync 31 30 != 2 || bitsOf e.dsync 29 25 == own / 16)

/-- Whether R209 accepts a placement entry: no reserved bit. [DEDUCED: log 52] -/
def placeOk (e : Nat) : Bool := bitsOf e 30 18 == 0 && bitsOf e 13 10 == 0

/-! ### Configurations: the checks of R293 -/

/-- The context records of a configuration. -/
def cfgCtx (b : List Byte) (c : Nat) : List Byte := (b.drop (64 + 64 * c)).take 64

/-- Consecutive core records of 8 bytes, for the cores of a list. -/
def coreRecords : List Nat → List Byte → List (Nat × Nat × Nat)
  | [], _ => []
  | c :: cs, b => (c, le b 0 4, le b 4 4) :: coreRecords cs (b.drop 8)

/-- The core records of a context: (logical core, word 0, word 1) (R296). -/
def cfgCores (b : List Byte) (chans : List Nat) (c : Nat) : List (Nat × Nat × Nat) :=
  let off := le (cfgCtx b c) 48 4
  let ids := chans.flatMap (fun ch => (List.range 256).map (fun q => ch * 256 + q))
  coreRecords ids (b.drop off)

/-- The core set of a context. -/
def cfgCoreSet (b : List Byte) (chans : List Nat) (c : Nat) : List CoreRec :=
  (cfgCores b chans c).filterMap (fun r =>
    if bitOf r.2.1 31 then some ⟨r.1, bitsOf r.2.1 29 28, bitsOf r.2.1 23 12, bitsOf r.2.1 11 0, r.2.2⟩ else none)

/-- Whether a context record holds (R296). -/
def ctxOk (b : List Byte) (chans : List Nat) (len c : Nat) : Bool :=
  let r := cfgCtx b c
  le r 0 2 != 0 && le r 2 1 != 0 && zeroIn r 3 1 && decide (le r 4 4 < 16) && decide (le r 28 4 < 2 ^ 24)
    && decide (le r 36 2 ≤ 4096) && zeroIn r 38 2 && decide (le r 44 2 ≤ 16384) && zeroIn r 46 2 && zeroIn r 52 12
    && decide (le r 32 4 + 32 * le r 36 2 ≤ len) && decide (le r 40 4 + 4 * le r 44 2 ≤ len)
    && decide (le r 48 4 + 8 * 256 * chans.length ≤ b.length)
    && (cfgCores b chans c).all (fun q => !bitOf q.2.1 30 && bitsOf q.2.1 27 24 == 0 && decide (q.2.2 < 2 ^ 22) && q.2.2 % 4 == 0)

/-- Whether the windows of a configuration hold: each valid by R74, no slot of a core given twice. [DEDUCED: log 52] -/
def windowsOk (rs : List CoreRec) : Bool :=
  rs.all (fun r => decide (1 ≤ r.size) && decide (r.base + r.size ≤ 3072))
    && rs.zipIdx.all (fun i => (rs.drop (i.2 + 1)).all (fun q =>
        q.core != i.1.core || (q.slot != i.1.slot && !overlaps (q.base, q.size) (i.1.base, i.1.size))))

/-- Whether the header and its parts hold, apart from the other partitions (R295). [DEDUCED: log 21, 52] -/
def cfgOk (m : Memory) (own : Nat) (b : List Byte) : Bool :=
  let chans := bitsSet (le b 1 1) 4
  let len := chans.length * 2 ^ 22
  let n := le b 2 1
  let m' := m.withSections chans b
  decide (64 ≤ b.length) && decide (le b 0 1 ≤ 3) && le b 1 1 != 0 && decide (le b 1 1 < 16) && n != 0 && decide (n ≤ 8)
    && zeroIn b 3 1 && decide (le b 6 2 ≤ 1024) && decide (le b 8 2 ≤ 256) && zeroIn b 10 2 && le b 12 4 % 4 == 0
    && decide (le b 16 4 ≤ 262144) && decide (le b 20 4 ≤ 64) && zeroIn b 24 40 && decide (le b 12 4 + 4 * le b 16 4 ≤ len)
    && decide (64 + 64 * n + 16 * le b 20 4 ≤ b.length)
    && (List.range (le b 20 4)).all (fun i => zeroIn b (64 + 64 * n + 16 * i + 12) 4)
    && (cfgSections b).all (fun s => decide (s.1 + s.2.1 ≤ b.length) && decide (s.2.2 + s.2.1 ≤ len))
    && (List.range n).all (ctxOk b chans len)
    && windowsOk ((List.range n).flatMap (cfgCoreSet b chans))
    && (List.range (le b 16 4)).all (fun i => decide (m'.numIn chans (le b 12 4 + 4 * i) 4 < 2 ^ 22))
    && (List.range n).all (fun c =>
        (List.range (le (cfgCtx b c) 36 2)).all (fun t => treeOk m' chans len own (le (cfgCtx b c) 32 4 + 32 * t))
        && (List.range (le (cfgCtx b c) 44 2)).all (fun i => placeOk (m'.numIn chans (le (cfgCtx b c) 40 4 + 4 * i) 4)))

/-- Whether a configuration agrees with the chip's other partitions (R293). -/
def State.cfgFits (s : State) (part : Nat) (b : List Byte) : Bool :=
  let others := (List.range 4).filter (fun p => p != le b 0 1 && (s.part p).configured)
  le b 0 1 == part
    && others.all (fun p => (s.part p).chmask &&& le b 1 1 == 0 && (s.part p).job != le b 4 2)
    && decide (others.foldl (fun v p => v + (s.part p).landKb) (le b 6 2) ≤ 1024)
    && decide (others.foldl (fun v p => v + (s.part p).landMsg) (le b 8 2) ≤ 256)

/-! ### Configurations: the effect (R293) -/

/-- A context from its record, in IDLE. -/
def cfgContext (b : List Byte) (chans : List Nat) (c key : Nat) : CtxSt :=
  let r := cfgCtx b c
  { CtxSt.init with
    state := .idle, weight := le r 0 2, hkv := le r 2 1, mode := le r 4 4, seed := le r 8 16, stream := le r 24 4
    waitlim := le r 28 4, treeOff := le r 32 4, treeN := le r 36 2, placeOff := le r 40 4, placeN := le r 44 2
    cores := cfgCoreSet b chans c, keyAt := key }

/-- One slot as the configuration leaves it: a window that was enabled is zeroed on its way out (R140). -/
def State.configureSlot (s : State) (c k win entry lim : Nat) : State :=
  let s := match extentOf (s.rd (winReg c k)) with
    | some e => s.zeroPhys c (e.1 * 1024) (e.2 * 1024)
    | none => s
  let s := s.onCore c (fun x => { x with held := FMap.set none x.held k none })
  let s := s.setFld (statReg c) F.CORE_STAT_ZEROING (Machine.setBit (s.fld (statReg c) F.CORE_STAT_ZEROING) k false)
  s.setSlotRegs c k win entry lim

/-- The ranges of a slice that a configuration gives to its own tables and lists: (offset, length) (R295, R296, R184). [DEDUCED: log 117] -/
def cfgTables (m : Memory) (chans : List Nat) (b : List Byte) : List (Nat × Nat) :=
  (le b 12 4, 4 * le b 16 4) :: (List.range (le b 2 1)).flatMap (fun c =>
    let r := cfgCtx b c
    (le r 32 4, 32 * le r 36 2) :: (le r 40 4, 4 * le r 44 2) :: (List.range (le r 36 2)).map (fun t =>
      let e := TreeEntry.ofWords (fun i => m.numIn chans (le r 32 4 + 32 * t + 4 * i) 4)
      (e.plist, 2 * e.P)))

/-- The slice offsets that a configuration's sections fill outside those tables: where page tables may lie (R294). [DEDUCED: log 117] -/
def cfgPageWords (m : Memory) (chans : List Nat) (b : List Byte) : List Nat :=
  let ts := cfgTables m chans b
  let free (o : Nat) : Bool := !ts.any (fun t => decide (o < t.1 + t.2) && decide (t.1 < o + 4))
  ((cfgSections b).flatMap (fun s => (List.range ((s.2.2 + s.2.1) / 4 - (s.2.2 + 3) / 4)).map (fun i => 4 * ((s.2.2 + 3) / 4 + i)))).filter free

/-- The words among some that name a page group (R208, R309). [DEDUCED: log 117] -/
def entriesFor (m : Memory) (chans offs : List Nat) (off slot : Nat) : List Nat :=
  offs.filter (fun o =>
    let e := m.numIn chans o 4
    bitOf e 31 && bitsOf e 29 20 == off && bitsOf e 19 8 == slot)

/-- A configuration is applied (R293): registers, sections, contexts, PART_CFG. [DEDUCED: log 52, 117] -/
def State.configure (s : State) (b dig : List Byte) : State :=
  let p := le b 0 1
  let chans := bitsSet (le b 1 1) 4
  let n := le b 2 1
  let m := s.tableMem.withSections chans b
  let offs := cfgPageWords m chans b
  let pool := (List.range (le b 16 4)).map (fun i =>
    let e := m.numIn chans (le b 12 4 + 4 * i) 4
    (⟨bitsOf e 21 12, bitsOf e 11 0, 0, .free, entriesFor m chans offs (bitsOf e 21 12) (bitsOf e 11 0), 0⟩ : PoolGroup))
  let s := { s with tableMem := m }
  let s := s.setPart p { PartSt.init with
    configured := true, chmask := le b 1 1, nctx := n, job := le b 4 2, landKb := le b 6 2, landMsg := le b 8 2
    pool := pool, configDig := dig }
  let s := s.each (s.coresOf p) (fun s c => s.each (List.range 4) (fun s k => s.configureSlot c k 0 0 0))
  let s := s.each (List.range n) (fun s x =>
    let (key, s) := s.drawKey
    let t := cfgContext b chans x key
    let s := s.onCtx p x (fun _ => t)
    let s := s.wr (s.shareReg p x) (BitVec.ofNat 32 t.weight)
    s.each t.cores (fun s r =>
      (s.setSlotRegs r.core r.slot (2 ^ 31 + r.size * 2 ^ 12 + r.base) r.entry t.waitlim).freshSlot p x r.core r.slot))
  s.setFld R.HI_STAT F.HI_STAT_PART_CFG (Machine.setBit (s.fld R.HI_STAT F.HI_STAT_PART_CFG) p true)

/-- The cores of the channels that a configuration names. -/
def cfgChanCores (b : List Byte) : List Nat :=
  (bitsSet (le b 1 1) 4).flatMap (fun ch => (List.range 256).map (fun q => ch * 256 + q))

/-- Whether a window of a core is enabled. -/
def State.hasWindow (s : State) (c : Nat) : Bool := (List.range 4).any (fun k => s.bit (winReg c k) F.CORE_WIN_CFG_EN)

/-- The windows that a requester had enabled on a core are disabled, and so zeroed first (R140, R293 step 1). -/
def State.closeWindows (s : State) (c : Nat) : State := s.each (List.range 4) (fun s k => s.writeWindow c k 0#32)

/-- A verified configuration is checked and applied, or waits for the partition reset that makes way for it (R293, R317), or for the
zeroing of windows that were enabled on its cores: no slot is given a context meanwhile (R76, R140). -/
def State.loadConfig (s : State) (d : Desc) (e : List Byte) : State :=
  let b := envBody e
  let p := le b 0 1
  if !cfgOk s.tableMem s.own b || !s.cfgFits d.part b then s.finish d.id stVerify []
  else
    let s := s.setDesc d.id (fun d => { d with st := .dispatched, image := e })
    if (s.part p).resetting.isSome then s
    else if (s.part p).configured then s.beginReset p prReplaced true
    else if (cfgChanCores b).any (fun c => s.fld (statReg c) F.CORE_STAT_ZEROING != 0) then s
    else if (cfgChanCores b).any s.hasWindow then s.each (cfgChanCores b) State.closeWindows
    else (s.configure b (imageDigest e)).finish d.id stOk ((imageDigest e).take 16)

/-- LOAD_PROGRAM (R293, R471, R472): the image is read and verified; a package loads, a configuration is applied. The command
comes again for a configuration that has waited for a partition reset or for zeroing, and for a package for a core that a migration moves
(R241). RESULT holds the digest where the status is OK and 0 elsewhere. [DESIGN CHOICE: log 1, 132; DEDUCED: log 27] -/
def execLoadProgram (id : Nat) (s : State) : Host.Outcome State Fault Refusal :=
  ok (
    let w := s
    match s.host.descs.find? (fun d => d.id == id && d.opcode == 1 && (d.st == .checked || d.st == .dispatched)) with
    | none => s
    | some d =>
      if d.st = .dispatched then (if (s.part d.part).resetting.isSome then s else s.loadConfig d d.image)
      else
        match s.dmaRead (d.at_ 8 8) (d.at_ 16 4) with
        | (s, none) => s.finish id stDma []
        | (s, some e) =>
          if !s.verifies e (d.at_ 20 1) then s.finish id stVerify []
          else if d.at_ 20 1 = 1 then s.loadConfig d e
          else if (pkgSections (envBody e)).any (fun r => s.holds r.core) then w
          else
            let (s, st) := s.loadPackage d.part d.ctx e
            s.finish id st (if st = stOk then (imageDigest e).take 16 else []))

end Sys2Proof.Machine
end

