-- ==== Sys2Proof/Machine/Secure.lean ====
section
/-! DEFINITION. Sys2Proof/Machine/Secure.lean: the device root and the store (R460-R468), operator keys (R469), quotes
(R473, R474), spill and restore (R475-R478), the recorder (R479-R481). -/

namespace Sys2Proof.Machine

/-- Security state changed by a function. -/
def State.onSec (s : State) (f : SecSt → SecSt) : State := { s with sec := f s.sec }

/-- Whether a requester acts on the security block (R482): the PF and the management port. -/
def maySec (req : Nat) : Bool := req == 0 || req == 5

/-- A discarded write or action of the security block. -/
def State.secReject (s : State) : State := s.setBit R.SEC_STAT F.SEC_STAT_CFG_REJECT

/-! ### The device root (R460-R462) -/

/-- CERTGO (R460, R461): the certificate in SEC_KBUF is taken up; one while ROOT_OK is set is discarded. -/
def execCertgo (req : Nat) (s : State) : Host.Outcome State Fault Refusal :=
  ok (if !maySec req then s
    else if s.bit R.SEC_STAT F.SEC_STAT_ROOT_OK then s.secReject
    else s.onSec (fun x => { x with checking := true }))

/-- ROOT_RECONSTRUCTION_END (R461): the root that the helper data give is compared with ROOT_CHECK. [DEDUCED: log 93] -/
def execRootReconstructionEnd (s : State) : Host.Outcome State Fault Refusal :=
  ok (if !s.sec.checking then s
    else
      let b := s.sec.kbuf.bytes 0 2156
      let root := Config.pufRoot ((b.drop 108).take 2048)
      let good := le b 0 4 == 1 && le b 4 4 == (s.rd R.ID_PART).toNat && dig32 0x10 root == (b.drop 8).take 32
      let s := s.onSec (fun x => { x with checking := false })
      if good then
        (s.setBit R.SEC_STAT F.SEC_STAT_ROOT_OK).onSec (fun x => { x with root := some root, devpk := (b.drop 40).take 68 })
      else s.setBit R.SEC_STAT F.SEC_STAT_ROOT_BAD)

/-- K_ST (R462). -/
def storeKey (root : List Byte) : List Byte := dig32 0x11 root

/-- SK_SEED, SK_PRF and PUB_SEED, one after the other (R462). [PRESUMED: log 26] -/
def identitySeeds (root : List Byte) : List Byte := shake256 (0x12#8 :: root) 96

/-- The signature of the identity key after its leaf index: XMSSMT-SHAKE256_40/4_256 (R466). [PRESUMED: log 26] -/
def identitySign (root : List Byte) (leaf : Nat) (m : List Byte) : List Byte :=
  let k := identitySeeds root
  xmssSign ⟨40, 4⟩ (k.take 32) ((k.drop 32).take 32) (k.drop 64) leaf m

/-! ### The store (R463-R468) -/

/-- A 64-bit value into a register pair. -/
def State.wrPair (s : State) (lo hi v : Nat) : State := (s.wr lo (BitVec.ofNat 32 v)).wr hi (BitVec.ofNat 32 (v / 2 ^ 32))

/-- The tag of a record written at a count of the store's writes (R463). [DESIGN CHOICE: log 96] -/
def storeTag (kst : List Byte) (count : Nat) (data : List Byte) : List Byte := kmac256 kst (data ++ leBytes 8 count)

/-- Whether a record of the store carries its tag. [DESIGN CHOICE: log 96] -/
def StoreSeal.ok (x : StoreSeal) (kst data : List Byte) : Bool := x.tag == storeTag kst x.count data

/-- A record's seal as the next write of the store. [DESIGN CHOICE: log 96] -/
def StoreDev.seal (x : StoreDev) (kst data : List Byte) : StoreSeal := ⟨x.count + 1, storeTag kst (x.count + 1) data⟩

/-- The HWM record written (R464). -/
def StoreDev.putHwm (x : StoreDev) (kst : List Byte) (n : Nat) : StoreDev :=
  { x with count := x.count + 1, hwm := some (n, x.seal kst (leBytes 8 n)) }

/-- The OPKEY record written (R464). -/
def StoreDev.putKey (x : StoreDev) (kst digest : List Byte) : StoreDev :=
  { x with count := x.count + 1, opkey := some (digest, x.seal kst digest) }

/-- A record joins the GAUGE ring, which keeps the newest 65,536 (R464). -/
def StoreDev.append (x : StoreDev) (kst : List Byte) (g : GaugeRec) : StoreDev :=
  { x with count := x.count + 1, gauge := (x.gauge ++ [(g, x.seal kst g.bytes)]).drop (x.gauge.length + 1 - 65536) }

/-- Whether every record of the store carries its tag (R465). -/
def StoreDev.authentic (x : StoreDev) (kst : List Byte) : Bool :=
  (match x.hwm with
    | some h => h.2.ok kst (leBytes 8 h.1)
    | none => true)
  && (match x.opkey with
    | some k => k.2.ok kst k.1
    | none => true)
  && x.gauge.all (fun g => g.2.ok kst g.1.bytes)

/-- K_ST of the root in force. -/
def State.kst (s : State) : List Byte := (s.sec.root.map storeKey).getD []

/-- The store changed by a write. -/
def State.onStore (s : State) (f : StoreDev → StoreDev) : State := s.onSec (fun x => { x with store := f x.store })

/-- A store access that fails clears STORE_OK (R465). -/
def State.storeLost (s : State) : State := s.setFld R.SEC_STAT F.SEC_STAT_STORE_OK 0

/-- A gauge record reaches the store (R451), unless the store is away or does not take it, which clears STORE_OK; such a record is held in
PD00, at most 16 of them (R465). [DEDUCED: log 84; DESIGN CHOICE: log 96] -/
def State.storeGauge (s : State) (g : GaugeRec) (good : Bool) : State :=
  if s.bit R.SEC_STAT F.SEC_STAT_STORE_OK && good then s.onStore (fun x => x.append s.kst g)
  else
    let s := if s.bit R.SEC_STAT F.SEC_STAT_STORE_OK then s.storeLost else s
    if s.sec.heldGauge.length < 16 then s.onSec (fun x => { x with heldGauge := x.heldGauge ++ [g] }) else s

/-- STORE_OK set (R463, R465, R467): leaf and mark from the store, the held gauge records written. -/
def State.storeUp (s : State) (hwm : Nat) : State :=
  let s := s.setBit R.SEC_STAT F.SEC_STAT_STORE_OK
  let s := s.setFld R.SEC_STAT F.SEC_STAT_OPKEY (b2n s.sec.store.opkey.isSome)
  let s := (s.wrPair R.SEC_LEAF_LO R.SEC_LEAF_HI hwm).wrPair R.SEC_HWM_LO R.SEC_HWM_HI hwm
  let s := if 2 ^ 40 - 1 ≤ hwm then s.setBit R.SEC_STAT F.SEC_STAT_EXHAUST else s
  s.onSec (fun x => { x with store := x.heldGauge.foldl (fun d g => d.append s.kst g) x.store, heldGauge := [] })

/-- STORE_BINDING (R463, R467): with ROOT_OK, an unprogrammed store is bound and gets an HWM record of 0; a store bound to this
part whose records carry their tags gives them. `good` says that the store answers and authenticates itself. [DESIGN CHOICE: log 96] -/
def execStoreBinding (good : Bool) (s : State) : Host.Outcome State Fault Refusal :=
  ok (match s.sec.root with
    | none => s
    | some root =>
      if s.bit R.SEC_STAT F.SEC_STAT_STORE_OK || !good then s
      else
        match s.sec.store.bound with
        | none => (s.onStore (fun x => { x with bound := some (storeKey root) }.putHwm (storeKey root) 0)).storeUp 0
        | some k =>
          match s.sec.store.hwm with
          | some n => if k = storeKey root ∧ s.sec.store.authentic k then s.storeUp n.1 else s
          | none => s)

/-- HWM_ACKNOWLEDGEMENT (R467): the store acknowledges the reservation; without an authentic acknowledgement nothing is signed. [DESIGN CHOICE: log 96] -/
def execHwmAcknowledgement (good : Bool) (s : State) : Host.Outcome State Fault Refusal :=
  ok (match s.sec.reserving with
    | none => s
    | some n =>
      let s := s.onSec (fun x => { x with reserving := none })
      if good then
        (s.onStore (fun x => x.putHwm s.kst n)).wrPair R.SEC_HWM_LO R.SEC_HWM_HI n
      else s.storeLost)

/-! ### The operator's key (R469) -/

/-- KRES codes (R483). -/
def State.kres (s : State) (v : Nat) : State := s.setFld R.SEC_STAT F.SEC_STAT_KRES v

/-- The key written to the store, if the write succeeds. -/
def State.writeOpkey (s : State) (key : List Byte) (good : Bool) : State :=
  if good then
    ((s.onStore (fun x => x.putKey s.kst (shake256 key 32))).setBit R.SEC_STAT F.SEC_STAT_OPKEY).kres 1
  else s.storeLost.kres 2

/-- What a key action would write, from SEC_KBUF as it was when the action began, if what R469 requires holds: KINST the key; KROT
(`rot`) the body of a key record under the current key (R470). [DEDUCED: log 27, 93] -/
def State.newKey (s : State) (rot : Bool) (kbuf : Memory) : Option (List Byte) :=
  if !s.bit R.SEC_STAT F.SEC_STAT_STORE_OK then none
  else if !rot then (if s.sec.store.opkey.isSome then none else some (kbuf.bytes 0 68))
  else
    match s.sec.store.opkey with
    | none => none
    | some k =>
      let h := kbuf.bytes 0 256
      let e := kbuf.bytes 0 (256 + le h 8 4 % 2 ^ 15 + (envSigLen h).getD 0)
      if le h 8 4 != 68 || !envelopeOk e 2 || !signedUnder k.1 e then none else some (envBody e)

/-- A key action (R469): its outcome shows in KRES. `good` is what the store answers to its write; where that is not known yet (none), the
action waits, and KRES is busy. [DEDUCED: log 93; DESIGN CHOICE: log 96] -/
def State.keyAction (s : State) (rot : Bool) (kbuf : Memory) (good : Option Bool) : State :=
  match s.newKey rot kbuf, good with
  | none, _ => (s.onSec (fun x => { x with keying := none })).kres 2
  | some _, none => (s.onSec (fun x => { x with keying := some (rot, kbuf) })).kres 3
  | some key, some b => (s.onSec (fun x => { x with keying := none })).writeOpkey key b

/-- A key action begins, or the one that waits goes on; the other one is discarded meanwhile. [DESIGN CHOICE: log 96] -/
def State.keyCommand (s : State) (rot : Bool) (good : Option Bool) : State :=
  match s.sec.keying with
  | none => s.keyAction rot s.sec.kbuf good
  | some k => if k.1 = rot then s.keyAction rot k.2 good else s.secReject

/-- KINST (R469): the management port installs the first key. [DESIGN CHOICE: log 96] -/
def execKinst (req : Nat) (good : Option Bool) (s : State) : Host.Outcome State Fault Refusal :=
  ok (if req ≠ 5 then (if maySec req then s.secReject else s)
    else s.keyCommand false good)

/-- KROT (R469, R470): a key record under the current key replaces it. [DESIGN CHOICE: log 96] -/
def execKrot (req : Nat) (good : Option Bool) (s : State) : Host.Outcome State Fault Refusal :=
  ok (if maySec req then s.keyCommand true good else s)

/-! ### Quotes (R473, R474) -/

/-- A context record of a quote. -/
def quoteCtx (t : CtxSt) : List Byte :=
  let code : Nat := match t.state with
    | .none => 0
    | .idle => 1
    | .runnable => 2
    | .running => 3
    | .donating => 4
    | .teardown => 5
  if t.state = .none then List.replicate 96 0#8
  else padTo 0#8 32 t.progDig ++ padTo 0#8 32 t.wtsDig ++ leBytes 4 t.mode ++ leBytes 4 t.serial ++ leBytes 4 t.loads
    ++ leBytes 4 code ++ leBytes 8 t.steps ++ leBytes 8 0

/-- A partition block of a quote. -/
def quotePart (x : PartSt) : List Byte :=
  if !x.configured then List.replicate 816 0#8
  else leBytes 1 1 ++ leBytes 1 x.chmask ++ leBytes 1 x.nctx ++ leBytes 1 0 ++ leBytes 2 x.job ++ leBytes 10 0
    ++ padTo 0#8 32 x.configDig ++ (List.range 8).flatMap (fun k => quoteCtx (x.ctx k))

/-- The body of a quote for a requesting function. -/
def State.quoteBody (s : State) (fn leaf : Nat) (nonce : List Byte) : List Byte :=
  leBytes 4 1 ++ leBytes 4 (s.rd R.ID_PART).toNat ++ leBytes 8 leaf ++ nonce ++ leBytes 4 s.tb2
    ++ leBytes 4 (s.rd R.SPMAP_SUM).toNat ++ leBytes 4 fn ++ leBytes 4 0 ++ padTo 0#8 32 ((s.sec.store.opkey.map (·.1)).getD [])
    ++ shake256 s.sec.devpk 32
    ++ (List.range 4).flatMap (fun p => if fn = 0 ∨ fn = p + 1 then quotePart (s.part p) else List.replicate 816 0#8)

/-- The length of a quote (R473). [DEDUCED: log 93] -/
def quoteLen : Nat := 13285

/-- ATTEST (R467, R468, R473): a quote is formed and signed with the next leaf. A leaf that is not reserved is reserved first, and
the command comes again once the store has acknowledged. [DEDUCED: log 93] -/
def execAttest (id : Nat) (s : State) : Host.Outcome State Fault Refusal :=
  ok (match s.ready id 13 with
    | none => s
    | some d =>
      let leaf := s.pair R.SEC_LEAF_LO R.SEC_LEAF_HI
      if d.at_ 16 4 < quoteLen then s.finish id stLength (leBytes 4 quoteLen)
      else if !s.bit R.SEC_STAT F.SEC_STAT_STORE_OK || s.bit R.SEC_STAT F.SEC_STAT_EXHAUST then s.finish id stBadState []
      else
        match s.sec.root with
        | none => s.finish id stBadState []
        | some root =>
          if leaf = s.pair R.SEC_HWM_LO R.SEC_HWM_HI then
            (if s.sec.reserving.isSome then s else s.onSec (fun x => { x with reserving := some (leaf + 64) }))
          else
            let body := s.quoteBody d.fn leaf ((d.raw.drop 24).take 32)
            let sig := beBytes 5 leaf ++ identitySign root leaf body
            let s := s.wrPair R.SEC_LEAF_LO R.SEC_LEAF_HI (leaf + 1)
            let s := if leaf + 1 = 2 ^ 40 - 1 then s.setBit R.SEC_STAT F.SEC_STAT_EXHAUST else s
            match s.hostWrite (d.at_ 8 8) (body ++ sig) with
            | (s, true) => s.finish id stOk (leBytes 4 quoteLen)
            | (s, false) => s.finish id stDma [])

/-! ### Spill and restore (R475-R478) -/

/-- The pages on this chip that an entry's group places, in placement order: core and first byte (R209, R476). -/
def State.groupPages (s : State) (p x e : Nat) : List (Nat × Nat) :=
  let t := s.ctx p x
  (List.range t.placeN).filterMap (fun i =>
    let v := s.sliceU32 p (t.placeOff + 4 * i)
    if bitOf v 31 && bitsOf v 17 14 == s.own % 16 then some (bitsOf v 9 0 + bitsOf e 29 20, bitsOf e 19 8 * 1024) else none)

/-- The bytes of a page of a context for a head dimension (R205). -/
def State.pageBytes (s : State) (p x d : Nat) : Nat :=
  let f : PageForm := ⟨d, bitOf (s.ctx p x).mode 3, bitOf (s.ctx p x).mode 2⟩
  if d = 0 then 0 else 128 * f.eb + 128 * f.sb

/-- The status of a range of entries for SPILL and RESTORE: invalid, stale, or OK; `inv` is the status of an invalid one. [DEDUCED: log 94] -/
def State.entriesStatus (s : State) (p inv : Nat) (es : List Nat) : Nat :=
  if es.any (fun e => !bitOf e 31) then inv
  else if es.any (fun e => match s.groupOf p e with
    | some g => g.gen != e % 256
    | none => true) then stPteStale
  else stOk

/-- The window ranges of pages of `n` bytes, with the first refusal. -/
def State.pageRanges (s : State) (p x n : Nat) : List (Nat × Nat) → Except Nat (List (Nat × Dest))
  | [] => .ok []
  | g :: l =>
    match s.destCheck p x g.1 (BitVec.ofNat 32 (g.2 % 2 ^ 22)) n with
    | .error e => .error e
    | .ok d =>
      match s.pageRanges p x n l with
      | .error e => .error e
      | .ok ds => .ok ((g.1, d) :: ds)

/-- The first 112 bytes of an image's header (R476). -/
def spillHead (p x spn base first count hdim mode nch : Nat) : List Byte :=
  padTo 0#8 112 (leBytes 4 1 ++ leBytes 1 p ++ leBytes 1 x ++ leBytes 2 0 ++ leBytes 4 spn ++ leBytes 4 base ++ leBytes 4 first
    ++ leBytes 4 count ++ leBytes 2 hdim ++ leBytes 2 0 ++ leBytes 4 mode ++ leBytes 4 nch)

/-- The IV of a chunk, or of the header (R476). -/
def spillIv (spn i : Nat) : List Byte := beBytes 4 spn ++ beBytes 4 i ++ beBytes 4 0

/-- The image of a plaintext (R476). -/
def spillImage (key head : List Byte) (spn nch : Nat) (plain : List Byte) : List Byte :=
  let tag := (gcmSeal key (spillIv spn (2 ^ 32 - 1)) head []).2
  let chunks := (chunksOf 4096 nch plain).zipIdx.map (fun q =>
    let r := gcmSeal key (spillIv spn q.2) (head ++ leBytes 4 q.2) (padTo 0#8 4096 q.1)
    r.1 ++ r.2)
  head ++ tag ++ chunks.flatten

/-- R477: the ledger with a range's record replaced, or the oldest one when it is full. [DEDUCED: log 94] -/
def ledgerPut (l : List (Nat × Nat × Nat × Nat)) (base first count spn : Nat) : List (Nat × Nat × Nat × Nat) :=
  let rest := l.filter (fun r => !(r.1 == base && r.2.1 == first && r.2.2.1 == count))
  (if 1024 ≤ rest.length then rest.drop 1 else rest) ++ [(base, first, count, spn)]

/-- The bytes of checked ranges, or the word that cannot be read. -/
def State.pullRanges (s : State) (n : Nat) : List (Nat × Dest) → State × Option (Nat × Nat × Nat) × List Byte
  | [] => (s, none, [])
  | r :: l =>
    match s.checkRanges r.1 r.2.1 r.2.2.2 with
    | (s, some w) => (s, some (r.1, r.2.1, w), [])
    | (s, none) =>
      let bs := s.take r.1 r.2 n
      let (s, bad, more) := s.pullRanges n l
      (s, bad, bs ++ more)

/-- SPILL (R476, R477). [DEDUCED: log 94] -/
def execSpill (id : Nat) (s : State) : Host.Outcome State Fault Refusal :=
  ok (
    let w := s
    match s.ready id 10 with
    | none => s
    | some d =>
      let p := d.part
      let x := d.ctx
      let offs := d.entries 20
      let es := offs.map (s.sliceU32 p)
      let st := s.entriesStatus p stPteInvalid es
      let dims := (es.map (fun e => ((s.groupOf p e).map (·.hdim)).getD 0)).eraseDups
      let spn := (s.ctx p x).spn + 1
      if !s.entriesIn p offs then s.finish id stBound (leBytes 4 0)
      else if st ≠ stOk then s.finish id st (leBytes 4 0)
      else if 1 < dims.length || spn = 2 ^ 32 then s.finish id stBadState (leBytes 4 0)
      else
        let s := s.onCtx p x (fun t => { t with spn := spn })
        let hdim := dims.headD 0
        let n := s.pageBytes p x hdim
        match s.pageRanges p x n (if n = 0 then [] else es.flatMap (s.groupPages p x)) with
        | .error e => s.finish id (refusalStatus e) (leBytes 4 0)
        | .ok rs =>
          if rs.any (fun r => s.holds r.1) then w
          else
          let nch := ceilDiv (rs.length * n) 4096
          if d.at_ 16 4 < 128 + 4112 * nch then s.finish id stLength (leBytes 4 0)
          else
            let (s, bad, plain) := s.pullRanges n rs
            match bad with
            | some w => (s.raise w.1 w.2.1 fEcc 0 w.2.2 false none).finish id stFrogged (leBytes 4 0)
            | none =>
              let base := d.at_ 20 4
              let first := d.at_ 24 4
              let head := spillHead p x spn base first offs.length hdim (s.ctx p x).mode nch
              match s.hostWrite (d.at_ 8 8) (spillImage (keyBytes (s.ctx p x).keyAt) head spn nch plain) with
              | (s, false) => s.finish id stDma (leBytes 4 0)
              | (s, true) =>
                (s.onCtx p x (fun t => { t with ledger := ledgerPut t.ledger base first offs.length spn })).finish id stOk
                  (leBytes 4 (128 + 4112 * nch)))

/-- The chunks of an image decrypted in order up to the first whose tag is wrong; the flag says that all were right. -/
def openChunks (key head : List Byte) (spn : Nat) : Nat → List (List Byte) → List Byte × Bool
  | _, [] => ([], true)
  | i, c :: cs =>
    match gcmOpen key (spillIv spn i) (head ++ leBytes 4 i) (c.take 4096) (c.drop 4096) with
    | none => ([], false)
    | some m =>
      let r := openChunks key head spn (i + 1) cs
      (m ++ r.1, r.2)

/-- Bytes poured over pages in order, as far as they go. -/
def State.pour (s : State) (n : Nat) : List (Nat × Dest) → List Byte → State
  | [], _ => s
  | r :: l, bs => if bs.isEmpty then s else (s.place r.1 r.2 (bs.take n)).pour n l (bs.drop n)

/-- RESTORE (R477, R478). [DEDUCED: log 94] -/
def execRestore (id : Nat) (s : State) : Host.Outcome State Fault Refusal :=
  ok (
    let w := s
    match s.ready id 11 with
    | none => s
    | some d =>
      let p := d.part
      let x := d.ctx
      let t := s.ctx p x
      let offs := d.entries 20
      let es := offs.map (s.sliceU32 p)
      let st := s.entriesStatus p stBadState es
      let len := d.at_ 16 4
      if !s.entriesIn p offs then s.finish id stBound (leBytes 4 0)
      else if st ≠ stOk then s.finish id st (leBytes 4 0)
      else
        match s.dmaRead (d.at_ 8 8) len with
        | (s, none) => s.finish id stDma (leBytes 4 0)
        | (s, some img) =>
          let head := img.take 112
          let spn := le head 8 4
          let hdim := le head 24 2
          let nch := le head 32 4
          let key := keyBytes t.keyAt
          let n := s.pageBytes p x hdim
          let good := decide (128 + 4112 * nch ≤ len) && (gcmSeal key (spillIv spn (2 ^ 32 - 1)) head []).2 == (img.drop 112).take 16
            && t.ledger.contains (le head 12 4, le head 16 4, le head 20 4, spn) && le head 28 4 == t.mode
            && le head 20 4 == offs.length
          if !good then s.finish id stVerify (leBytes 4 0)
          else
            match s.pageRanges p x n (if n = 0 then [] else es.flatMap (s.groupPages p x)) with
            | .error e => s.finish id (refusalStatus e) (leBytes 4 0)
            | .ok rs =>
              if rs.any (fun r => s.holds r.1) then w
              else
              let (plain, all) := openChunks key head spn 0 (chunksOf 4112 nch (img.drop 128))
              let s := s.pour n rs (plain.take (rs.length * n))
              if !all then s.finish id stVerify (leBytes 4 0)
              else
                let s := s.onPart p (fun q => { q with pool := q.pool.map (fun g =>
                  if es.any (fun e => bitsOf e 29 20 == g.off && bitsOf e 19 8 == g.slot) then { g with hdim := hdim } else g) })
                (s.countLoad p x).finish id stOk (leBytes 4 (128 + 4112 * nch)))

/-! ### The recorder (R479-R481) -/

/-- The key of a block of a region. -/
def recKey (r k : Nat) : Nat := r * 2 ^ 14 + k

/-- Where block `k` of a region lies in the PSRAM: records of 4,128 bytes from the region's base on (R479). [PRESUMED: log 95] -/
def State.recAddr (s : State) (r k : Nat) : Nat := s.fld (R.SEC_REC_CFG r) F.SEC_REC_CFG_BASE_MB * 2 ^ 20 + 4128 * k

/-- How many records a region holds. -/
def State.regionBlocks (s : State) (r : Nat) : Nat := s.fld (R.SEC_REC_CFG r) F.SEC_REC_CFG_SIZE_MB * 2 ^ 20 / 4128

/-- The 4,128-byte record of a block (R479): WC, block index, region, ciphertext, tag. [PRESUMED: log 95] -/
def blockRecord (key : List Byte) (wc k r : Nat) (data : List Byte) : List Byte :=
  let c := gcmSeal key (beBytes 8 wc ++ beBytes 4 k) [] (padTo 0#8 4096 data)
  leBytes 8 wc ++ leBytes 4 k ++ leBytes 1 r ++ leBytes 3 0 ++ c.1 ++ c.2

/-- A block written to a region; one aimed outside it, or at a region that is off or being overwritten, is skipped (R479, R481). [PRESUMED: log 95] -/
def State.recordBlock (s : State) (r k : Nat) (data : List Byte) : State :=
  let cfg := s.rd (R.SEC_REC_CFG r)
  if !isSet cfg F.SEC_REC_CFG_EN || isSet cfg F.SEC_REC_CFG_BUSY || decide (s.regionBlocks r ≤ k) then s
  else
    s.onSec (fun x => { x with
      wc := (x.wc + 1) % 2 ^ 64
      recWc := FMap.set 0 x.recWc (recKey r k) ((x.wc + 1) % 2 ^ 64)
      psram := x.psram.putBytes (s.recAddr r k) (blockRecord (keyBytes x.recKey) ((x.wc + 1) % 2 ^ 64) k r data) })

/-- The next block of a region's ring written. -/
def State.recordNext (s : State) (r : Nat) (data : List Byte) : State :=
  let k := FMap.get 0 s.sec.recNext r
  let s := s.recordBlock r k data
  s.onSec (fun x => { x with recNext := FMap.set 0 x.recNext r (if s.regionBlocks r ≤ k + 1 then 0 else k + 1) })

/-- REGION_OVERWRITE_END (R481): the region is overwritten with zeros; its blocks are EMPTY. [PRESUMED: log 95] -/
def execRegionOverwriteEnd (r : Nat) (s : State) : Host.Outcome State Fault Refusal :=
  ok (if r < 5 ∧ s.bit (R.SEC_REC_CFG r) F.SEC_REC_CFG_BUSY then
      ((s.setFld (R.SEC_REC_CFG r) F.SEC_REC_CFG_BUSY 0).emptyRegion r).onSec (fun x => { x with
        psram := FMap.clear x.psram (s.recAddr r 0) (s.fld (R.SEC_REC_CFG r) F.SEC_REC_CFG_SIZE_MB * 2 ^ 20) })
    else s)

/-- RECORDER_READ (R480): a requester names a region and block. -/
def execRecorderRead (req r k : Nat) (s : State) : Host.Outcome State Fault Refusal :=
  ok (if maySec req then
      let s := s.wr R.SEC_RRD_ADDR (BitVec.ofNat 32 (r % 8 * 2 ^ 29 + k % 2 ^ 14))
      (s.wr R.SEC_RRD_STAT 0#32).onSec (fun x => { x with reading := true })
    else s)

/-- RECORDER_READ_END (R480): the plaintext and the result are ready. [PRESUMED: log 95] -/
def execRecorderReadEnd (s : State) : Host.Outcome State Fault Refusal :=
  ok (if !s.sec.reading then s
    else
      let r := s.fld R.SEC_RRD_ADDR F.SEC_RRD_ADDR_REGION
      let k := s.fld R.SEC_RRD_ADDR F.SEC_RRD_ADDR_BLOCK
      let b := s.sec.psram.bytes (s.recAddr r k) 4128
      let wc := FMap.get 0 s.sec.recWc (recKey r k)
      let done (s : State) (code : Nat) (m : List Byte) : State :=
        (s.wr R.SEC_RRD_STAT (BitVec.ofNat 32 (2 ^ 31 + code))).onSec (fun x => { x with reading := false, rrd := m })
      if wc = 0 then done s 3 []
      else
        match gcmOpen (keyBytes s.sec.recKey) (beBytes 8 (le b 0 8) ++ beBytes 4 (le b 8 4)) [] ((b.drop 16).take 4096) (b.drop 4112) with
        | none => done s 1 []
        | some m => if le b 0 8 = wc ∧ le b 8 4 = k then done s 0 m else done s 2 [])

end Sys2Proof.Machine
end

