-- ==== Sys2Proof/Machine/Links.lean ====
section
/-! DEFINITION. Sys2Proof/Machine/Links.lean: the Kornal links (R251-R262): their states, training, retry, the flits they
receive, forwarding, end-to-end credits, routes. -/

namespace Sys2Proof.Machine

/-! ### States of a link (R254, R256, R257) -/

/-- The doubt source of a link (R413). -/
def doubtLink (l : Nat) : Nat := 0x200 + l

/-- A link changes state (R256, R413): where it faces a planner chip, the loss event when it leaves UP and at every transition to DOWN
or OFF; the record when it goes DOWN or OFF. [DEDUCED: log 43] -/
def State.setLinkState (s : State) (l st : Nat) : State :=
  let old := s.linkState l
  let gone := decide (old ≠ st) && (st == klDown || st == klOff)
  let s := s.setFld (R.KL_STAT l) F.KL_STAT_STATE st
  let s := if st = klDown then s.setBit (R.KL_STAT l) F.KL_STAT_DOWN_EVT else s
  let lost := (decide (old = klUp ∧ st ≠ klUp) || gone) && s.fld (R.DM_MAP (doubtLink l)) F.DM_MAP_MASK != 0
  let s := if lost then s.raiseDoubt (doubtLink l) else s.settle
  if gone then s.plainEvent evLink [l, st] else s

/-- R248: the remote waits whose route was over a link (the link at this chip, and the chip at the other end): those of this chip
are released with LINK_LOST; those of other chips leave the queues, and the objects whose releases were on their way, those of
`left` among them, are abandoned. -/
def State.endWaits (s : State) (hit : Nat → Nat → Bool) (left : List Nat) : State :=
  let out := s.noc.farWaits.filter (fun w => hit w.link w.dst)
  let s := s.onNoc (fun n => { n with farWaits := n.farWaits.filter (fun w => !hit w.link w.dst) })
  let s := s.each out (fun s w => s.release w.obj (.wait w.core w.id) rLinkLost)
  let by_ : Who → Bool := fun w => match w with
    | .remote chip _ _ k => hit k chip
    | _ => false
  let left := left ++ (s.noc.releases.filter (fun r => by_ r.who)).map (·.obj)
  let s := s.onNoc (fun n => { n with
    releases := n.releases.filter (fun r => !by_ r.who)
    syncOps := n.syncOps.filter (fun o => !(by_ o.who && o.kind != 3)) })
  let s := s.each ((s.noc.waiters.filter (fun q => q.2.any (fun w => by_ w.who))).map (·.1)) (fun s obj =>
    (s.setQueue obj ((s.queue obj).filter (fun w => !by_ w.who))).evaluate obj)
  s.each left.eraseDups (fun s obj => s.abandon obj)

/-- The flits that a link holds: sent and not acknowledged, or waiting. -/
def LinkSt.kept (x : LinkSt) : List TxFlit := x.unacked ++ x.txq

/-- R248: the waits of this chip that went out by a link, and those of other chips that came in by it, when it goes. -/
def State.loseWaits (s : State) (l : Nat) : State :=
  s.endWaits (fun k _ => k == l) ((s.link l).kept.flatMap (fun f => f.recs.filterMap (fun r => match r with
    | .release _ _ _ _ src obj => if src = s.own then some obj else none
    | _ => none)))

/-- A message that was crossing this chip to link `k` loses its rest: what of it waits there is dropped, and where some of it has left
the next chip is told. [DEDUCED: log 46] -/
def State.cutMsg (s : State) (k : Nat) (m : MsgRef) : State :=
  let gone := (s.link k).txq.filter (fun f => f.msg == some m)
  let begun := (s.link k).inMsg.any (fun p => p.2 == some m)
  let s := s.onLink k (fun x => { x with
    txq := x.txq.filter (fun f => f.msg != some m)
    inMsg := x.inMsg.filter (fun p => p.2 != some m) })
  (s.oweFor gone).enqueue k (if begun then [recFlit (.cut m.src m.id)] else [])

/-- The rest of a message that was being received does not come: what has been written of it stays, and nothing follows (R236). [DEDUCED: log 46] -/
def State.cutRest (s : State) (t : Transit) : State :=
  match t.next with
  | some k => s.cutMsg k t.msg
  | none => s.onNoc (fun n => { n with
      msgs := n.msgs.filter (fun m => !(m.src == t.msg.src && m.id == t.msg.id && decide (m.data.length < m.total)))
      landed := n.landed.filter (fun e => !(e.src == t.msg.src && e.id == t.msg.id)) })

/-- What a link was receiving is cut. -/
def State.loseArrivals (s : State) (l : Nat) : State :=
  let ts := (s.link l).asm.filterMap (·.2)
  (s.onLink l (fun x => { x with asm := [] })).each ts State.cutRest

/-- A record of another chip that cannot go on (R248, R262): a signal is refused with a code, a wait released with LINK_LOST, a release
given back to the object's chip, which abandons it, a credit request refused, a grant given back; nothing is told of the
others. [DEDUCED: log 43] -/
def State.bounce (s : State) (r : CtrlRec) (code : Nat) : State :=
  match r with
  | .syncOp dst src kind obj _ _ _ core id =>
    if kind = 3 then s.reportTo src id code true else s.sendCtrl src (.release src core id rLinkLost dst obj)
  | .release dst core id rc src obj => if src = dst then s else s.sendCtrl src (.release src core id rc src obj)
  | .request _ src _ id _ => s.reportTo src id code false
  | .grant dst id src => s.sendCtrl src (.giveBack src dst id)
  | _ => s

/-- The chip a record is for; none for a record that a chip itself acts on. -/
def recDst : CtrlRec → Option Nat
  | .syncOp dst .. => some dst
  | .cancel dst .. => some dst
  | .release dst .. => some dst
  | .report dst .. => some dst
  | .request dst .. => some dst
  | .grant dst .. => some dst
  | .giveBack dst .. => some dst
  | .cut .. => none
  | .teardown .. => none
  | .route .. => none

/-- A record caught on a link that goes (R262): this chip's own signals and waits end by R248 and its releases are abandoned; what another
chip sent ends by `bounce`; reports, credits and cancels take another route where this chip has one, and a grant of this chip that has
none is free again. [DEDUCED: log 43] -/
def State.loseRec (s : State) (code : Nat) (own : Bool) (r : CtrlRec) : State :=
  let again (s : State) : State :=
    match recDst r with
    | some d => (s.sendRec? d r 0).getD (if own then s else s.bounce r code)
    | none => s
  match r with
  | .syncOp _ _ kind _ _ _ _ _ id => if own then (if kind = 3 then s.sendReport ⟨id, code, true⟩ else s) else s.bounce r code
  | .release .. => if own then s else s.bounce r code
  | .request _ _ _ id _ =>
    if own then
      match recDst r with
      | some d => (s.sendRec? d r 0).getD (s.sendReport ⟨id, mNoRoute, false⟩)
      | none => s
    else again s
  | .grant dst id _ => if own then (s.sendRec? dst r 0).getD (s.freeLanding dst id) else again s
  | _ => again s

/-- Whether a chip's traffic with another cluster goes over a link, which this chip has or two others share: its only route does
(R260). [DEDUCED: log 44] -/
def State.pathHas (s : State) (chip : Nat) (hit : Nat × Nat → Bool) : Bool :=
  chip / 16 != s.own / 16 && ((routeOf (fun _ _ => true) s.own chip).getD []).any hit

/-- R261: a path to other clusters has gone (`hit` names the chips behind it): messages that wait for their landing credit from there are
refused NO_ROUTE, requests from there are dropped, and room granted to messages from there of which nothing has come is free again.
[DEDUCED: log 45] -/
def State.loseCredits (s : State) (hit : Nat → Bool) : State :=
  let stuck := s.noc.e2e.filter (fun e => hit e.msg.dst)
  let s := s.onNoc (fun n => { n with
    e2e := n.e2e.filter (fun e => !hit e.msg.dst)
    reqs := n.reqs.filter (fun r => !hit r.src)
    landed := n.landed.filter (fun r => !hit r.src || n.msgs.any (fun m => m.src == r.src && m.id == r.id)) })
  s.each stuck (fun s e => s.sendReport ⟨e.msg.id, mNoRoute, false⟩)

/-- R262: what has left this chip and still awaits its report ends with LINK_LOST where the report can no longer come: `hit` names the awaited
by the link they left by and the chip they were for. [DEDUCED: log 43] -/
def State.loseAwaits (s : State) (hit : Nat → Nat → Bool) : State :=
  let gone := s.noc.awaits.filter (fun a => !s.noc.reports.any (fun r => r.id == a.id) && (match a.link, a.far with
    | some l, some f => hit l f.1
    | _, _ => false))
  s.each gone (fun s a => s.sendReport ⟨a.id, mLinkLost, (a.far.map (·.2)).getD false⟩)

/-- R236, R254, R256: what a link holds is refused with a code, whichever chip sent it: each message with a flit there, each child or
root; records end by R248 and R262. Messages still crossing to it are refused, and their rest goes nowhere. [DEDUCED: log 43] -/
def State.loseTraffic (s : State) (l code : Nat) : State :=
  let fs := (s.link l).kept
  let crossing := (List.range 16).flatMap (fun k => (s.link k).asm.filterMap (fun p =>
    match p.2 with
    | some t => if t.next = some l then some t.msg else none
    | none => none))
  let ms := (fs.filterMap (·.msg) ++ crossing).eraseDups
  let kids := fs.filterMap (·.child)
  let s := s.loseArrivals l
  let waiting := (s.link l).txq
  let s := s.onNoc (fun n => { n with links := n.links.map (fun p => (p.1, { p.2 with asm := p.2.asm.map (fun q =>
    (q.1, q.2.map (fun t => if t.next = some l then { t with next := none } else t))) })) })
  let s := (s.onLink l (fun _ => .init)).oweFor waiting
  let s := s.each ms (fun s m => s.refuseMsg m code)
  let s := s.each kids (fun s w => s.reportTo w.src w.id code false)
  s.each (fs.flatMap (fun f => f.recs.map (fun r => (f.back.isNone, r)))) (fun s r => s.loseRec code r.1 r.2)

/-- R258, R259: the cluster, chip and link that link l of this chip faces. [DEDUCED: log 43] -/
def State.facing (s : State) (l : Nat) : Nat × Nat × Nat :=
  if l = 15 then (uplinkPeer (s.own / 16) (s.own % 16), 15 - s.own % 16, 15) else (s.own / 16, linkPeer (s.own % 16) l, 14 - l)

/-- The chip at the other end of a link. [DEDUCED: log 44] -/
def State.peerOf (s : State) (l : Nat) : Nat := (s.facing l).1 * 16 + (s.facing l).2.1

/-- What a link held ends, and what depended on it: waits, messages and records (R248, R262), credits of other clusters (R261), and what left
by it and can hear no report: it has no route to its chip any more, or none to the chip it first came to. [DEDUCED: log 43] -/
def State.loseLink (s : State) (l code : Nat) : State :=
  let peer := s.peerOf l
  let s := (s.loseWaits l).loseTraffic l code
  let s := s.loseCredits (fun d => s.pathHas d (fun h => h == (s.own, peer)))
  s.loseAwaits (fun k d => k == l && ((s.firstHop d none 0).isNone || (s.firstHop peer none 0).isNone))

/-- A link that was carrying traffic goes to DOWN or OFF. -/
def State.dropLink (s : State) (l st code : Nat) : State := (s.setLinkState l st).loseLink l code

/-- Requesters that reach the link registers: the PF and the management port (R257). -/
def mayLink (req : Nat) : Bool := req == 0 || req == 5

/-- Whether a requester's write of KLnn_CTRL is taken: a gated block takes none (R505). -/
def State.mayCtrl (s : State) (req l : Nat) : Bool := mayLink req && decide (l < 16) && s.regTakes (R.KL_CTRL l)

/-- Training starts (R254): the link's queues are empty. [DESIGN CHOICE: log 42] -/
def State.train (s : State) (l : Nat) : State := (s.onLink l (fun _ => .init)).setLinkState l klTraining

/-- A write to KLnn_CTRL (R254, R256, R257, R318). A link that is looped back carries no traffic, and goes on once LPBK is 0. [DEDUCED: log 43] -/
def State.writeKlCtrl (s : State) (l : Nat) (v : Word) : State :=
  let st := s.linkState l
  let w := BitVec.ofNat 32 (bitsOf v.toNat 31 30 * 2 ^ 30 + getF v F.KL_CTRL_RETRY_MAX * 2 ^ 20 + v.toNat % 2)
  if isSet v F.KL_CTRL_EN ∧ st = klDraining then s.setBit (R.KL_STAT l) F.KL_STAT_CFG_REJECT else
  let s := s.wr (R.KL_CTRL l) w
  if isSet v F.KL_CTRL_EN then (if st = klOff then s.train l else if st = klUp then s.enqueue l [] else s)
  else if st = klUp ∧ !isSet v F.KL_CTRL_FORCE then s.setLinkState l klDraining
  else if st = klDraining ∧ !isSet v F.KL_CTRL_FORCE then s
  else if st = klUp ∨ st = klDraining then s.dropLink l klOff mAborted
  else if st = klOff then s
  else s.setLinkState l klOff

/-- A write to KLnn_POOLp (R255, R257): discarded unless the link is OFF and the pools then total at most 496. -/
def State.writeKlPool (s : State) (l p : Nat) (v : Word) : State :=
  let n := getF v F.KL_POOL_FLITS
  let rest := ((List.range 4).filter (· != p)).foldl (fun t q => t + s.fld (R.KL_POOL l q) F.KL_POOL_FLITS) 0
  if s.linkState l = klOff ∧ n + rest ≤ 496 then s.wr (R.KL_POOL l p) (mkF F.KL_POOL_FLITS n)
  else s.setBit (R.KL_STAT l) F.KL_STAT_CFG_REJECT

/-- A write to KL_ID (R257): discarded unless every link is OFF, or for a CLUSTER of 17 to 31. -/
def State.writeKlId (s : State) (v : Word) : State :=
  if (List.range 16).all (fun l => s.linkState l == klOff) && decide (getF v F.KL_ID_CLUSTER ≤ 16) then
    s.wr R.KL_ID (mkF F.KL_ID_CLUSTER (getF v F.KL_ID_CLUSTER) + mkF F.KL_ID_CHIP (getF v F.KL_ID_CHIP))
  else s

/-- LINK_ENABLE (R254): EN is written 1. -/
def execLinkEnable (req l : Nat) (s : State) : Host.Outcome State Fault Refusal :=
  ok (if s.mayCtrl req l then s.writeKlCtrl l (setF (s.rd (R.KL_CTRL l)) F.KL_CTRL_EN 1) else s)

/-- LINK_DRAIN (R256): EN is written 0 with FORCE = 0. -/
def execLinkDrain (req l : Nat) (s : State) : Host.Outcome State Fault Refusal :=
  ok (if s.mayCtrl req l then
      s.writeKlCtrl l (setF (setF (s.rd (R.KL_CTRL l)) F.KL_CTRL_EN 0) F.KL_CTRL_FORCE 0) else s)

/-- LINK_FORCED_DISABLE (R256): EN is written 0 with FORCE = 1. -/
def execLinkForcedDisable (req l : Nat) (s : State) : Host.Outcome State Fault Refusal :=
  ok (if s.mayCtrl req l then
      s.writeKlCtrl l (setF (setF (s.rd (R.KL_CTRL l)) F.KL_CTRL_EN 0) F.KL_CTRL_FORCE 1) else s)

/-- LINK_DRAIN_END (R256): every flit accepted is acknowledged; the link goes OFF. -/
def execLinkDrainEnd (l : Nat) (s : State) : Host.Outcome State Fault Refusal :=
  ok (if s.linkState l = klDraining ∧ (s.link l).txq = [] ∧ (s.link l).unacked = [] then
      s.dropLink l klOff mLinkLost
    else s)

/-- R255: what this side tells of its pools at training: for each the JOB of its partition, 0 where there is none, and its size. -/
def State.ownPools (s : State) (l : Nat) : List (Nat × Nat) :=
  (List.range 4).map (fun p => (if (s.part p).configured then (s.part p).job else 0, s.fld (R.KL_POOL l p) F.KL_POOL_FLITS))

/-- TRAINING_END (R255, R257, R259): the peer tells who it is and its pools; the link goes UP, unless the peer is not the one the
topology names, or the link is looped back. [DEDUCED: log 43] -/
def execTrainingEnd (l clu chip link : Nat) (pools : List (Nat × Nat)) (s : State) : Host.Outcome State Fault Refusal :=
  ok (if s.linkState l = klTraining ∧ !s.bit (R.KL_CTRL l) F.KL_CTRL_LPBK then
      let s := s.setBit (R.KL_STAT l) F.KL_STAT_PEER_VALID
      let s := s.setFld (R.KL_STAT l) F.KL_STAT_PEER_CLU clu
      let s := s.setFld (R.KL_STAT l) F.KL_STAT_PEER_CHIP chip
      let s := s.setFld (R.KL_STAT l) F.KL_STAT_PEER_LINK link
      let s := s.incFld (R.KL_ERR l) F.KL_ERR_TRAIN 1
      if (clu, chip, link) = s.facing l then
        let ps := pools.take 4
        let cr := ps.zipIdx.foldl (fun m p => FMap.set 0 m p.2 p.1.2) (FMap.set 0 [] ctrlPool 16)
        (s.onLink l (fun _ => { LinkSt.init with peerPools := ps, credits := cr, pools := s.ownPools l })).setLinkState l klUp
      else s.setBit (R.KL_STAT l) F.KL_STAT_MISWIRE
    else s)

/-- TRAINING_RETRY (R254): a training that has not completed, or a DOWN link with EN = 1, trains again. [DESIGN CHOICE: log 5; DEDUCED: log 43] -/
def execTrainingRetry (l : Nat) (s : State) : Host.Outcome State Fault Refusal :=
  ok (if s.bit (R.KL_CTRL l) F.KL_CTRL_EN ∧ (s.linkState l = klTraining ∨ s.linkState l = klDown) then s.train l else s)

/-- LINK_DOWN (R254): RETRY_MAX consecutive resends of a flit have failed. [DEDUCED: log 43] -/
def execLinkDown (l : Nat) (s : State) : Host.Outcome State Fault Refusal :=
  ok (if (s.linkState l = klUp ∨ s.linkState l = klDraining)
        ∧ max 1 (s.fld (R.KL_CTRL l) F.KL_CTRL_RETRY_MAX) ≤ (s.link l).resends then s.dropLink l klDown mLinkLost
    else s)

/-- PEER_LINK_LOSS (R22, R262): the peer is absent, unpowered or in reset, and the link shows link-down. [DEDUCED: log 43] -/
def execPeerLinkLoss (l : Nat) (s : State) : Host.Outcome State Fault Refusal :=
  ok (if s.linkState l = klUp ∨ s.linkState l = klDraining then s.dropLink l klDown mLinkLost else s)

/-! ### Routes (R260) -/

/-- ROUTE_EVALUATION (R260): the routes use the links as they stand; route updates tell the neighbours of this chip's links. Credits with
clusters that have no route any more end (R261), and so does what awaits a report from a chip that has none (R262). [DEDUCED: log 44] -/
def execRouteEvaluation (s : State) : Host.Outcome State Fault Refusal :=
  ok (
    let was := s.noc.linksUsed
    let ups := (List.range 16).filter (fun l => s.linkState l == klUp)
    let s := s.onNoc (fun n => { n with linksUsed := ups.foldl (fun m l => m + 2 ^ l) 0, peersUsed := n.peersUp })
    let changed := (List.range 16).filter (fun l => bitOf was l != ups.contains l)
    let s := s.each changed (fun s l => s.each ups (fun s k => s.enqueue k [recFlit (.route s.own (s.peerOf l) (ups.contains l))]))
    let stuck := s.noc.e2e.filter (fun e => (s.firstHop e.msg.dst (some e.msg.job) 0).isNone)
    let s := s.onNoc (fun n => { n with e2e := n.e2e.filter (fun e => !stuck.contains e) })
    let s := s.each stuck (fun s e => s.sendReport ⟨e.msg.id, mNoRoute, false⟩)
    let lost := fun d => d / 16 != s.own / 16 && (s.firstHop d none 0).isNone
    (s.loseCredits lost).loseAwaits (fun _ d => (s.firstHop d none 0).isNone))

/-- R248, R261, R262: a link between two other chips has gone: remote waits whose route it was on end, and so do the credits and the
awaited reports of other clusters whose path it was on. [DEDUCED: log 44] -/
def State.losePath (s : State) (a b : Nat) : State :=
  let s := s.endWaits (fun l dst => (s.peerOf l == a && dst == b) || (s.peerOf l == b && dst == a)) []
  let hit := fun d => s.pathHas d (fun h => h == (a, b) || h == (b, a))
  (s.loseCredits hit).loseAwaits (fun _ d => hit d)

/-- A route update (R252, R260): news is kept and passed on over the other links that are up. [DEDUCED: log 44] -/
def State.learnRoute (s : State) (l a b : Nat) (up : Bool) : State :=
  let has := s.noc.peersUp.any (fun p => p == (a, b) || p == (b, a))
  if has = up || a == s.own || b == s.own then s
  else
    let s := s.onNoc (fun n => { n with peersUp :=
      if up then n.peersUp ++ [(a, b)] else n.peersUp.filter (fun p => !(p == (a, b) || p == (b, a))) })
    let s := if up then s else s.losePath a b
    s.each ((List.range 16).filter (fun k => k != l && s.linkState k == klUp)) (fun s k =>
      s.enqueue k [recFlit (.route a b up)])

/-! ### CTRL records (R252) -/

/-- R248: a cancel removes a wait that is still queued or on its way. -/
def State.cancelWait (s : State) (chip obj core id : Nat) : State :=
  let hit : Who → Bool := fun w => match w with
    | .remote c k i _ => c == chip && k == core && i == id
    | _ => false
  let s := s.onNoc (fun n => { n with syncOps := n.syncOps.filter (fun o => !hit o.who) })
  if (s.queue obj).any (fun w => hit w.who) then (s.setQueue obj ((s.queue obj).filter (fun w => !hit w.who))).evaluate obj else s

/-- A record acts on this chip, having come by link `l`. -/
def State.actRec (s : State) (l : Nat) (r : CtrlRec) : State :=
  match r with
  | .syncOp _ src kind obj arg job ctx core id =>
    let hold := if src / 16 = s.own / 16 then some (holdWord (src != s.own) (src % 16) ctx) else none
    s.sendSync ⟨kind, obj, arg, job, if src = s.own then .rep id else .remote src core id l, hold⟩
  | .cancel _ src obj core id => s.cancelWait src obj core id
  | .release _ core id code src obj => if src = s.own then s.abandon obj else s.release obj (.wait core id) code
  | .report _ id code sync => s.sendReport ⟨id, code, sync⟩
  | .request _ src job id bytes => s.onNoc (fun n => { n with reqs := n.reqs ++ [⟨src, id, job, bytes⟩] })
  | .grant _ id src => s.onNoc (fun n => { n with grantsIn := n.grantsIn ++ [(id, src)] })
  | .cut src id =>
    let hit (t : Option Transit) : Bool := t.any (fun t => t.msg.src == src && t.msg.id == id)
    let ts := (s.link l).asm.filterMap (fun p => if hit p.2 then p.2 else none)
    (s.onLink l (fun x => { x with asm := x.asm.filter (fun p => !hit p.2) })).each ts State.cutRest
  | .giveBack _ src id => s.onNoc (fun n => { n with
      reqs := n.reqs.filter (fun e => !(e.src == src && e.id == id))
      landed := n.landed.filter (fun e => !(e.src == src && e.id == id)) })
  | .teardown job ctx src => s.onNoc (fun n => { n with notices := n.notices ++ [(job, ctx, src)] })
  | .route a b up => s.learnRoute l a b up

/-- A record for another chip goes on by the rest of its route; one that has none ends by R262. A release that comes back to the chip of
its object says that its waiter was not reached (R248). [DEDUCED: log 44] -/
def State.takeRec (s : State) (l : Nat) (r : CtrlRec) : State :=
  match recDst r with
  | some d => if d = s.own then s.actRec l r else (s.sendRec? d r 1).getD (s.bounce r mNoRoute)
  | none => s.actRec l r

/-! ### Messages and children from a link (R252, R253) -/

/-- A message read from the bytes of its header and of what has come of its payload (R253). -/
def wireMsg (bs : List Byte) : Msg :=
  let w (i : Nat) : Word := BitVec.ofNat 32 (leNat ((bs.drop (4 * i)).take 4))
  let w4 := (w 4).toNat
  let w5 := (w 5).toNat
  let n := bitsOf w4 11 0 + 1
  ⟨w 0, w 1, w 2, w 3, bitsOf w4 31 16, bitsOf w4 15 13, (bs.drop 32).take n,
    bitsOf w5 31 27 * 16 + bitsOf w5 26 23, bitsOf w5 9 0, bitsOf (w 7).toNat 31 30, (w 6).toNat, n, none, 0⟩

/-- How many bytes a message's header and payload take. -/
def wireLen (bs : List Byte) : Nat := 33 + bitsOf (leNat ((bs.drop 16).take 4)) 11 0

/-- R260: the link by which a message received on a link goes on; none where it is refused, as after 3 hops. [DEDUCED: log 44] -/
def State.onward (s : State) (m : Msg) : Option Nat := if 3 ≤ m.hops then none else s.firstHop m.dst (some m.job) m.hops

/-- A child or root received for this chip (R188-R190), or to go on; `back` is the link, the pool and the SEQ it came by. [DEDUCED: log 32] -/
def State.takeChild (s : State) (w : WireChild) (back : Nat × Nat × Nat) : State :=
  if w.dst ≠ s.own then
    match s.firstHop w.dst (some w.job) 1 with
    | some k => s.sendChild k w (some back)
    | none => (s.reportTo w.src w.id mNoRoute false).owe back.1 back.2.1
  else
    let s := s.owe back.1 back.2.1
    match s.partOfJob w.job with
    | none => s.reportTo w.src w.id mNoJob false
    | some p =>
      let c : Child := ⟨p, w.ctx, w.tree, w.inst, ⟨w.tail, w.l, w.i⟩, w.val, w.src, w.score, w.dcore, w.id⟩
      if w.root then s.onNoc (fun n => { n with roots := n.roots ++ [⟨c, w.daddr, w.dsync⟩] })
      else s.onNoc (fun n => { n with children := n.children ++ [c] })

/-- The bytes of a flit given to the link that its message goes on by. [DESIGN CHOICE: log 129] -/
def State.crossFlit (s : State) (k job : Nat) (m : MsgRef) (bs : List Byte) (last : Bool) (back : Nat × Nat × Nat) : State :=
  s.enqueue k [⟨0, false, s.poolFor k job, bs, [], none, some m, last, some back⟩]

/-- The first flit of a message (R252, R253): for this chip, or to go on by its route, or refused NO_ROUTE (R260). -/
def State.beginMsg (s : State) (l pool seq : Nat) (payload : List Byte) : State :=
  let m := wireMsg payload
  let n := min (wireLen payload) payload.length
  let next := if m.dst = s.own then none else s.onward m
  let rest := wireLen payload - n
  let s := s.onLink l (fun x => { x with
    asm := FMap.set none x.asm pool (if rest = 0 then none else some ⟨m.ref, rest, m.job, next⟩) })
  if m.dst = s.own then (s.onNoc (fun x => { x with msgs := x.msgs ++ [m] })).owe l pool
  else
    match next with
    | some k => s.crossFlit k m.job m.ref (m.header s.own m.dst (m.hops + 1) ++ m.data) (rest == 0) (l, pool, seq)
    | none => (s.refuseMsg m.ref mNoRoute).owe l pool

/-- A further flit of a message (R252). Of a message that has been refused nothing is taken. -/
def State.goOnMsg (s : State) (l pool seq : Nat) (t : Transit) (payload : List Byte) : State :=
  let bs := payload.take t.left
  let rest := t.left - bs.length
  let s := s.onLink l (fun x => { x with
    asm := FMap.set none x.asm pool (if rest = 0 then none else some { t with left := rest }) })
  match t.next with
  | some k => s.crossFlit k t.job t.msg bs (rest == 0) (l, pool, seq)
  | none => (s.onNoc (fun x => { x with msgs := x.msgs.map (fun m =>
      if m.src = t.msg.src && m.id = t.msg.id && decide (m.data.length < m.total) then { m with data := m.data ++ bs } else m) })).owe l pool

/-- A DATA flit's payload joins its pool's stream (R252). [DEDUCED: log 46] -/
def State.takeData (s : State) (l pool seq : Nat) (payload : List Byte) : State :=
  match FMap.get none (s.link l).asm pool with
  | none => s.beginMsg l pool seq payload
  | some t => s.goOnMsg l pool seq t payload

/-! ### Flits (R252, R254, R255) -/

/-- The header of a flit. -/
def flitHdr (fl : List Byte) : Nat := leNat (fl.take 8)

/-- An acknowledgement: the flits up to `a` have arrived. -/
def LinkSt.acked (x : LinkSt) (a : Nat) : LinkSt :=
  match x.unacked.findIdx? (fun f => f.seq == a) with
  | some i => { x with unacked := x.unacked.drop (i + 1), resends := 0 }
  | none => x

/-- A NAK (R254): the flits from ACKSEQ + 1 on are sent again; with ACKV = 0, nothing having arrived in order yet, all of them. [DEDUCED: log 46] -/
def State.resend (s : State) (l : Nat) (a : Option Nat) : State :=
  let s := match a with
    | some a => s.onLink l (fun x => x.acked a)
    | none => s
  let n := (s.link l).unacked.length
  if n = 0 then s
  else
    let s := s.onLink l (fun x => { (x.unacked.foldl LinkSt.wire x) with resends := x.resends + 1 })
    ((s.incFld (R.KL_ERR l) F.KL_ERR_RESEND 1).count none l none 0x40 n).count none l none 0x41 n

/-- Acknowledgements and credits of an intact flit's header (R252, R254, R255). -/
def State.takeHdr (s : State) (l h : Nat) : State :=
  let a := bitsOf h 51 40
  let s := if bitOf h 39 then s.onLink l (fun x => x.acked a) else s
  let s := if bitOf h 38 then s.resend l (if bitOf h 39 then some a else none) else s
  let p := bitsOf h 31 29
  let s := s.onLink l (fun x => { x with credits := FMap.set 0 x.credits p (FMap.get 0 x.credits p + bitsOf h 28 20) })
  s.enqueue l []

/-- The check of a flit (R252): the header of an intact one; a flit of an uncorrectable codeword, or whose CRC fails, is dropped
and, where it was sequenced or may have been, asked for again. [DEDUCED: log 46] -/
def State.checkFlit (s : State) (l corr : Nat) (unc : Bool) (fl : List Byte) : State × Option Nat :=
  let s := s.incFld (R.KL_CORR l) F.KL_CORR_CORR corr
  if unc then ((s.incFld (R.KL_ERR l) F.KL_ERR_UNCORR 1).onLink l (fun x => { x with nakOut := true }), none)
  else if fl.length ≠ 256 ∨ crc32 (fl.take 252) ≠ leNat (fl.drop 252) then
    ((s.incFld (R.KL_ERR l) F.KL_ERR_CRCFAIL 1).onLink l (fun x => { x with nakOut := true }), none)
  else (s, some (flitHdr fl))

/-- The order of a DATA or CTRL flit (R254): whether it is the next one; a gap asks for a resend, an old one is dropped. [DEDUCED: log 46] -/
def State.inOrder (s : State) (l seq : Nat) : State × Bool :=
  let want := match (s.link l).rxLast with
    | some n => (n + 1) % 4096
    | none => 0
  if seq = want then (s.onLink l (fun x => { x with rxLast := some seq, nakOut := false, ackDue := true }), true)
  else if (seq + 4096 - want) % 4096 < 2048 then (s.onLink l (fun x => { x with nakOut := true }), false)
  else (s, false)

/-- Whether a link receives flits. -/
def State.receives (s : State) (l : Nat) : Bool :=
  decide (l < 16) && (s.linkState l == klUp || s.linkState l == klDraining) && s.carries l

/-- DATA_FLIT (R252, R254, R255): 256 bytes arrive, with the FEC symbols corrected and whether the codeword was uncorrectable; a
flit of TYPE 0 carries a piece of a message, or the reduction child `w`. -/
def execDataFlit (l corr : Nat) (unc : Bool) (fl : List Byte) (w : Option WireChild) (s : State) :
    Host.Outcome State Fault Refusal :=
  ok (if !s.receives l then s
    else
      match s.checkFlit l corr unc fl with
      | (s, none) => s
      | (s, some h) =>
        let s := s.takeHdr l h
        let pool := bitsOf h 37 35 * 8 + bitsOf h 34 32
        if 4 ≤ pool then s
        else
          match s.inOrder l (bitsOf h 63 52) with
          | (s, false) => s
          | (s, true) =>
            match w with
            | some w => s.takeChild w (l, pool, bitsOf h 63 52)
            | none => s.takeData l pool (bitsOf h 63 52) ((fl.drop 8).take 244))

/-- The link by which a record that has come goes on to another chip. -/
def State.recRoute (s : State) (r : CtrlRec) : Option Nat :=
  (recDst r).bind (fun d => if d = s.own then none else s.firstHop d none 1)

/-- The records of a CTRL flit (R252, R255): those for this chip act, the others go on; its credit goes back once none of them waits
here. [DESIGN CHOICE: log 42] -/
def State.takeRecs (s : State) (l seq : Nat) (recs : List CtrlRec) : State :=
  let on := recs.filterMap (fun r => (s.recRoute r).map (fun k => (k, r)))
  let s := s.each (recs.filter (fun r => (s.recRoute r).isNone)) (fun s r => s.takeRec l r)
  if on.isEmpty then s.owe l ctrlPool
  else
    let s := s.each on (fun s q => s.append q.1 [{ recFlit q.2 with back := some (l, ctrlPool, seq) }])
    s.each (on.map (·.1)).eraseDups (fun s k => s.enqueue k [])

/-- CTRL_FLIT (R252): a flit of TYPE 1 and the control pool; its records act. -/
def execCtrlFlit (l corr : Nat) (unc : Bool) (fl : List Byte) (recs : List CtrlRec) (s : State) :
    Host.Outcome State Fault Refusal :=
  ok (if !s.receives l then s
    else
      match s.checkFlit l corr unc fl with
      | (s, none) => s
      | (s, some h) =>
        let s := s.takeHdr l h
        if bitsOf h 37 35 ≠ 1 ∨ bitsOf h 34 32 ≠ ctrlPool then s
        else
          match s.inOrder l (bitsOf h 63 52) with
          | (s, false) => s
          | (s, true) => s.takeRecs l (bitsOf h 63 52) recs)

/-- IDLE_FLIT (R252): a flit of TYPE 3 carries acknowledgements and credits only. -/
def execIdleFlit (l corr : Nat) (unc : Bool) (fl : List Byte) (s : State) : Host.Outcome State Fault Refusal :=
  ok (if !s.receives l then s
    else
      match s.checkFlit l corr unc fl with
      | (s, none) => s
      | (s, some h) => if bitsOf h 37 35 = 3 then s.takeHdr l h else s)

/-- NAK (R254): a NAK with the last good ACKSEQ reaches the sender of link `l`. [DEDUCED: log 46] -/
def execNak (l ackseq : Nat) (s : State) : Host.Outcome State Fault Refusal :=
  ok (if s.receives l then s.resend l (some ackseq) else s)

/-! ### End-to-end credits (R261) -/

/-- CREDIT_REQUEST (R261): request `i` of those received is granted when its job's partition has room in its landing buffer,
no earlier request of the job waits, and the grant has a route; a job that is not on the chip is refused. [DEDUCED: log 45] -/
def execCreditRequest (i : Nat) (s : State) : Host.Outcome State Fault Refusal :=
  ok (match s.noc.reqs[i]? with
    | none => s
    | some r =>
      if (s.noc.reqs.take i).any (fun q => q.job == r.job) then s
      else
        let gone := s.onNoc (fun n => { n with reqs := dropAt n.reqs i })
        match s.partOfJob r.job with
        | none => gone.reportTo r.src r.id mNoJob false
        | some p =>
          let used := s.noc.landed.filter (fun e => e.job == r.job)
          let bytes := used.foldl (fun t e => t + e.bytes) 0
          if bytes + r.bytes ≤ (s.part p).landKb * 1024 ∧ used.length + 1 ≤ (s.part p).landMsg ∧ (s.firstHop r.src none 0).isSome then
            (gone.onNoc (fun n => { n with landed := n.landed ++ [r] })).sendCtrl r.src (.grant r.src r.id s.own)
          else s)

/-- CREDIT_GRANT (R261): a grant reaches the source chip, and its message is sent. A grant whose message is gone, or has no route any
more, is given back (R313). [DEDUCED: log 45] -/
def execCreditGrant (i : Nat) (s : State) : Host.Outcome State Fault Refusal :=
  ok (match s.noc.grantsIn[i]? with
    | none => s
    | some (id, src) =>
      let s := s.onNoc (fun n => { n with grantsIn := dropAt n.grantsIn i })
      match s.noc.e2e.find? (fun e => e.msg.id == id) with
      | none => s.sendCtrl src (.giveBack src s.own id)
      | some e =>
        let s := s.onNoc (fun n => { n with e2e := n.e2e.filter (fun x => x.msg.id != id) })
        match s.firstHop e.msg.dst (some e.msg.job) 0 with
        | some l => ((s.noteLink id l e.msg.dst false).sendMsg l e.msg 1).ctxLeaves e.part e.msg.ctx
        | none => s.refuseMsg e.msg.ref mNoRoute)

/-- An IDLE flit leaves a link that has an acknowledgement, a NAK or credits to send and nothing else to send them with (R252, R254,
R255). [DESIGN CHOICE: log 42] -/
def State.idleLinks (s : State) : State :=
  if s.noc.links.isEmpty then s
  else s.each ((List.range 16).filter (fun l => s.receives l && ((s.link l).ackDue || (s.link l).nakOut || (s.link l).refund.2 != 0))) (fun s l =>
    (s.onLink l (fun x => x.emit Config.idleSeq 3 Config.idlePool Config.flitPad)).count none l none 0x40 1)

end Sys2Proof.Machine
end

