-- ==== Sys2Proof/Machine/Ingest.lean ====
section
/-! DEFINITION. Sys2Proof/Machine/Ingest.lean: sensor ingest (R323-R349): ports, frames, admission, samples, delivery, stops,
the swatch, the descriptors INGEST_CTL. -/

namespace Sys2Proof.Machine

/-! ### Streams -/

/-- A stream after reset. -/
def StreamSt.init : StreamSt := ⟨[], none, [], [], none, none, none, 0, [], none, none, 0, []⟩

/-- A stream's data. -/
def State.strm (s : State) (t : Nat) : StreamSt := FMap.get .init s.ing.streams t

/-- HELD and INFLIGHT of STRMs_STAT follow the reorder entries. -/
def State.countStrm (s : State) (t : Nat) : State :=
  let es := (s.strm t).entries
  let s := s.setFld (R.STRM_STAT t) F.STRM_STAT_INFLIGHT es.length
  s.setFld (R.STRM_STAT t) F.STRM_STAT_HELD (es.filter (fun e => e.held && e.stage == .done)).length

/-- A stream's data changed by a function. -/
def State.onStrm (s : State) (t : Nat) (f : StreamSt → StreamSt) : State :=
  State.countStrm { s with ing := { s.ing with streams := FMap.set .init s.ing.streams t (f (s.strm t)) } } t

/-- Stream states (R349). -/
def stOff : Nat := 0
def stOn : Nat := 1
def stDrain : Nat := 2
def stStopped : Nat := 3

def State.strmState (s : State) (t : Nat) : Nat := s.fld (R.STRM_STAT t) F.STRM_STAT_STATE
def State.setStrmState (s : State) (t v : Nat) : State := s.setFld (R.STRM_STAT t) F.STRM_STAT_STATE v

/-- Fields of a stream's registers. -/
def State.strmVideo (s : State) (t : Nat) : Bool := s.bit (R.STRM_CTRL t) F.STRM_CTRL_KIND
def State.strmPort (s : State) (t : Nat) : Nat := s.fld (R.STRM_CTRL t) F.STRM_CTRL_PORT
def State.strmPart (s : State) (t : Nat) : Nat := s.fld (R.STRM_CTRL t) F.STRM_CTRL_PART
def State.strmCtx (s : State) (t : Nat) : Nat := s.fld (R.STRM_CTRL t) F.STRM_CTRL_CTX
def State.strmFmt (s : State) (t : Nat) : Nat := s.fld (R.STRM_CTRL t) F.STRM_CTRL_PIXFMT
def State.strmW (s : State) (t : Nat) : Nat := s.fld (R.STRM_GEOM t) F.STRM_GEOM_W
def State.strmH (s : State) (t : Nat) : Nat := s.fld (R.STRM_GEOM t) F.STRM_GEOM_H
def State.period (s : State) (t : Nat) : Nat := s.fld (R.STRM_TIME t) F.STRM_TIME_PERIOD_US

/-- Failure reasons (R341) beside those of the decoder. -/
def vCrc : Nat := 0x01
def vMissing : Nat := 0x03
def vGap : Nat := 0x04
def vJump : Nat := 0x05
def vOvertime : Nat := 0x07
def vUndeliverable : Nat := 0x08
def vNoBuffer : Nat := 0x09
def vReset : Nat := 0x0A

/-- The reasons that stop a stream (R341). -/
def stopsStream (r : Nat) : Bool := decide (1 ≤ r) && decide (r ≤ 7)

/-! ### Swatch failures (R347, R348) -/

/-- The swatch-failure event of a stream. -/
def State.swFail (s : State) (t : Nat) : State := (s.setBit (R.STRM_STAT t) F.STRM_STAT_SWFAIL).raiseDoubt (0x080 + t)

/-! ### Frame memory (R329) -/

/-- Pages of 4 KiB that frames hold. -/
def State.framePages (s : State) : Nat :=
  let pages (f : IngFrame) : Nat := ceilDiv f.data.length 4096
  s.ing.streams.foldl (fun n p => n + ((p.2.asm.toList ++ p.2.wait).map pages).foldl (· + ·) 0
    + ((p.2.entries.filter (fun e => e.stage != .done)).map (fun e => pages e.frame)).foldl (· + ·) 0) 0

/-- Whether frame memory has room for `n` bytes more of a frame that holds `have_` bytes. [DEDUCED: log 61] -/
def State.frameRoom (s : State) (have_ n : Nat) : Bool :=
  decide (s.framePages - ceilDiv have_ 4096 + ceilDiv (have_ + n) 4096 ≤ 8192)

/-! ### Reception (R323-R328) -/

/-- The end of a frame (R329, R346): dropped while the stream is STOPPED, else it waits for admission and reserves a swatch
turn. -/
def State.endFrame (s : State) (t : Nat) (f : IngFrame) : State :=
  if s.strmState t = stStopped then (s.onStrm t (fun x => { x with asm := none })).incFld (R.STRM_CNT t) F.STRM_CNT_DROPPED 1
  else
    let f := if f.reason = 0 then f else { f with data := [] }
    let turn := if s.bit (R.STRM_CTRL t) F.STRM_CTRL_SWEN then some s.now else none
    s.onStrm t (fun x => { x with asm := none, wait := x.wait ++ [f], turn := turn })

/-- The first failure of a frame stays. -/
def IngFrame.fail (f : IngFrame) (r : Nat) : IngFrame := if f.reason = 0 then { f with reason := r } else f

/-- A line-format packet's big-endian field. -/
def lfld (p : List Byte) (i n : Nat) : Nat := beNat ((p.drop i).take n)

/-- The failure that a line-format packet shows by itself (R325-R327). -/
def State.lineBad (s : State) (t : Nat) (p : List Byte) : Nat :=
  let fmt := s.strmFmt t
  let w := s.strmW t
  let test := bitOf (lfld p 1 1) 5
  if p.length < 36 then rFormat
  else if crc32 (p.take (p.length - 4)) ≠ beNat (p.drop (p.length - 4)) then vCrc
  else if p.length ≠ 36 + lfld p 10 2 * lineLen fmt w ∨ !sizeOk fmt w (s.strmH t) ∨ lfld p 0 1 ≠ 0x10 ∨ lfld p 1 1 % 32 ≠ 0
      ∨ lfld p 12 2 ≠ w ∨ lfld p 14 1 ≠ fmt ∨ lfld p 15 1 ≠ 0 ∨ lfld p 20 12 ≠ 0 ∨ lfld p 10 2 = 0
      ∨ (test ∧ (lfld p 8 2 ≠ 0xFFFF ∨ lfld p 10 2 ≠ 1)) then rFormat
  else 0

/-- A line-format packet for stream t (R325, R327, R348, R352). The lines of one that finds frame memory full are dropped, and its frame
has missing lines (R329). [DEDUCED: log 25, 61] -/
def State.takeLine (s : State) (t : Nat) (p : List Byte) : State :=
  let bad := s.lineBad t p
  let lines := (p.drop 32).take (p.length - 36)
  let num := lfld p 4 4
  let ptime := lfld p 16 4
  if bitOf (lfld p 1 1) 5 then
    let s := s.onStrm t (fun x => { x with asm := x.asm.map (fun f =>
      let f := { f with lastAt := s.now }
      if bad ≠ 0 then f.fail bad else if num ≠ f.frame ∨ some ptime ≠ f.ptime then f.fail vMissing else f) })
    if bad ≠ 0 then s
    else if s.bit (R.STRM_CTRL t) F.STRM_CTRL_TLEN ∧ crc32 lines ≠ (s.rd (R.STRM_TLCRC t)).toNat then s.swFail t
    else s
  else
    let full := !s.frameRoom (((s.strm t).asm.map (fun f => f.data.length)).getD 0) lines.length
    let sof := bitOf (lfld p 1 1) 7
    let eof := bitOf (lfld p 1 1) 6
    let s := match (s.strm t).asm with
      | some f => if sof then s.endFrame t (f.fail vMissing) else s
      | none => s
    let f := ((s.strm t).asm).getD ⟨if sof then 0 else vMissing, some ptime, num, 0, [], [], [], 0⟩
    let line := lfld p 8 2
    let stop := line + lfld p 10 2
    let f := if full then f.fail vMissing
      else if bad ≠ 0 then f.fail bad
      else if line ≠ f.next ∨ num ≠ f.frame ∨ some ptime ≠ f.ptime ∨ s.strmH t < stop ∨ (eof ∧ stop ≠ s.strmH t) then f.fail vMissing
      else f
    let f := { f with next := stop, data := if f.reason = 0 then f.data ++ lines else [], lastAt := s.now }
    if eof then s.endFrame t f else s.onStrm t (fun x => { x with asm := some f })

/-! #### 1722 video (R328) -/

/-- The RFC 2435 fragment of a CVF packet: TYPE, Q, width/8, height/8, restart interval, offset, tables, scan bytes; none for a
header that is not supported. [PRESUMED: log 62] -/
def rfcFragment (p : List Byte) : Option (List Nat × Nat × List Byte × List Byte) :=
  let type := lfld p 4 1
  let q := lfld p 5 1
  let off := lfld p 1 3
  let rest := p.drop 8
  let dri := if 64 ≤ type then lfld rest 0 2 else 0
  let rest := if 64 ≤ type then rest.drop 4 else rest
  if p.length < 8 ∨ lfld p 0 1 ≠ 0 ∨ !([0, 1, 64, 65].contains type) ∨ q = 0 ∨ (100 ≤ q ∧ q < 128) ∨ (64 ≤ type ∧ dri = 0) then none
  else
    let hdr := [type, q, lfld p 6 1, lfld p 7 1, dri]
    if off = 0 ∧ 128 ≤ q then
      let n := lfld rest 2 2
      if rest.length < 4 + n ∨ lfld rest 0 2 ≠ 0 ∨ (n ≠ 0 ∧ n ≠ 128) ∨ (n = 0 ∧ q = 255) then none
      else some (hdr, off, (rest.drop 4).take n, rest.drop (4 + n))
    else some (hdr, off, [], rest)

/-- The quantisation tables of a frame: in-band, remembered, or scaled; none when the stream has never sent them. [PRESUMED: log 62] -/
def StreamSt.tables (x : StreamSt) (q : Nat) (inband : List Byte) : Option (List Byte) :=
  if q < 128 then some ((scaleQ q lumaQ ++ scaleQ q chromaQ).map (BitVec.ofNat 8))
  else if inband.isEmpty then (match FMap.get [] x.qtabs q with
    | [] => none
    | l => some l)
  else some inband

/-- The end of a 1722 frame: the reassembled image (R328). -/
def State.endVideo (s : State) (t : Nat) (f : IngFrame) : State :=
  let w := s.strmW t
  let h := s.strmH t
  let im := rfcImage (nth 0 f.hdr 0) w h (nth 0 f.hdr 4) (f.q.take 64) (f.q.drop 64) f.data
  let f := if w % 8 ≠ 0 ∨ h % 8 ≠ 0 ∨ w / 8 % 256 ≠ nth 0 f.hdr 2 ∨ h / 8 % 256 ≠ nth 0 f.hdr 3 ∨ 2 ^ 22 < im.length then
      f.fail rFormat
    else f
  s.endFrame t { f with data := im }

/-- A 1722 packet for stream t: the AVTP stream header is 24 bytes (IEEE 1722-2016). The bytes of one that finds frame memory full are
dropped, and its frame fails (R329). [PRESUMED: log 26] -/
def State.takeAvtp (s : State) (t : Nat) (p : List Byte) : State :=
  let seq := lfld p 2 1
  let x := s.strm t
  let gap := match x.lastSeq with
    | some n => seq != (n + 1) % 256
    | none => false
  let body := (p.drop 24).take (lfld p 20 2)
  let m := bitOf (lfld p 22 1) 4
  let frag := rfcFragment body
  let ok_ := decide (24 ≤ p.length) && lfld p 0 1 == 3 && bitsOf (lfld p 1 1) 6 4 == 0 && lfld p 16 1 == 2 && lfld p 17 1 == 0
  let full := !s.frameRoom ((x.asm.map (fun f => f.data.length)).getD 0) body.length
  let s := s.onStrm t (fun x => { x with lastSeq := some seq })
  let first : Bool := match frag with
    | some (_, off, _, _) => off == 0
    | none => false
  let ended := first && x.asm.isSome
  let s := match x.asm with
    | some f => if first then s.endFrame t (f.fail vMissing) else s
    | none => s
  let x := s.strm t
  let new : IngFrame := ⟨0, some (lfld p 12 4), 0, 0, [], [], [], 0⟩
  let f := x.asm.getD (if bitOf (lfld p 1 1) 0 then new else { new with reason := rSyntax, ptime := none })
  let f : IngFrame := { (if full || (gap && !ended) then f.fail vMissing else f) with lastAt := s.now }
  match (if ok_ then frag else none) with
  | none =>
    let f := f.fail rSyntax
    if m then s.endFrame t f else s.onStrm t (fun x => { x with asm := some f })
  | some (hdr, off, tabs, bytes) =>
    let q := nth 0 hdr 1
    let f := if off ≠ f.next then f.fail vMissing else f
    let s := if tabs.isEmpty then s else s.onStrm t (fun x => { x with qtabs := FMap.set [] x.qtabs q tabs })
    let f : IngFrame := if off = 0 then
        match (s.strm t).tables q tabs with
        | some l => { f with hdr := hdr, q := l }
        | none => (f.fail rSyntax)
      else if hdr ≠ f.hdr then f.fail rSyntax else f
    let f : IngFrame := { f with next := off + bytes.length, data := if f.reason = 0 then f.data ++ bytes else [] }
    if m then (if f.reason = 0 then s.endVideo t f else s.endFrame t f)
    else s.onStrm t (fun x => { x with asm := some f })

/-! #### Ports (R323, R324) -/

/-- Whether a logical port exists in the mode of its port. -/
def State.portUp (s : State) (port : Nat) : Bool :=
  decide (port < 8) && (port % 4 == 0 || s.bit R.ING_PORTCFG (if port < 4 then F.ING_PORTCFG_SP0_SPLIT else F.ING_PORTCFG_SP1_SPLIT))

/-- What a frame carries: a UDP datagram by destination port, a 1722 packet. -/
inductive EthKind where
  | udp (dport : Nat) (payload : List Byte)
  | avtp (payload : List Byte)
  | none
  deriving DecidableEq, Repr

/-- The one's complement sum of a header's 16-bit words. -/
def ipSum (bs : List Byte) : Nat :=
  let n := (chunksOf 2 bs.length bs).foldl (fun t w => t + beNat w) 0
  let n := n % 65536 + n / 65536
  n % 65536 + n / 65536

/-- The datagram of a UDP header. -/
def udpOf (p : List Byte) : EthKind :=
  let n := lfld p 4 2
  if n < 8 ∨ p.length < n then .none else .udp (lfld p 2 2) ((p.take n).drop 8)

/-- What lies behind the tags and the EtherType. -/
def ethKind (type : Nat) (p : List Byte) : EthKind :=
  if type = 0x22F0 then .avtp p
  else if type = 0x0800 then
    let ihl := lfld p 0 1 % 16 * 4
    let total := lfld p 2 2
    if lfld p 0 1 / 16 ≠ 4 ∨ ihl < 20 ∨ p.length < total ∨ total < ihl ∨ ipSum (p.take ihl) ≠ 0xFFFF
        ∨ lfld p 6 2 % 2 ^ 14 ≠ 0 ∨ lfld p 9 1 ≠ 17 then .none
    else udpOf ((p.take total).drop ihl)
  else if type = 0x86DD then
    if lfld p 0 1 / 16 ≠ 6 ∨ lfld p 6 1 ≠ 17 ∨ p.length < 40 + lfld p 4 2 then .none
    else udpOf ((p.drop 40).take (lfld p 4 2))
  else .none

/-- A frame without its FCS: up to two 802.1Q tags are skipped (R323). [DEDUCED: log 61] -/
def ethOf (fr : List Byte) : EthKind :=
  let tag (n : Nat) : Bool := n == 0x8100 || n == 0x88A8
  if tag (lfld fr 12 2) then
    if tag (lfld fr 16 2) then ethKind (lfld fr 20 2) (fr.drop 22) else ethKind (lfld fr 16 2) (fr.drop 18)
  else ethKind (lfld fr 12 2) (fr.drop 14)

/-- The low and high words of a 1722 stream_id. -/
def State.strmSid (s : State) (t : Nat) : Nat := s.pair (R.STRM_SID_LO t) (R.STRM_SID_HI t)

/-- Whether a frame matches the key of stream t (R324). -/
def State.strmMatches (s : State) (t port : Nat) (k : EthKind) : Bool :=
  s.strmPort t == port && (match k with
    | .udp d p => !s.strmVideo t && s.fld (R.STRM_MATCH t) F.STRM_MATCH_UDPPORT == d
        && decide (4 ≤ p.length) && s.fld (R.STRM_MATCH t) F.STRM_MATCH_STAG == lfld p 2 2
    | .avtp p => s.strmVideo t && decide (12 ≤ p.length) && s.strmSid t == lfld p 4 8
    | .none => false)

/-- Whether a stream is enabled and receives. [DEDUCED: log 61] -/
def State.strmOn (s : State) (t : Nat) : Bool := s.strmState t == stOn || s.strmState t == stStopped

/-- A frame with its FCS arrives at a logical port (R323, R324); it is lost while the ingest is in reset or gated. [DEDUCED: log 61] -/
def State.sensorFrame (s : State) (port : Nat) (fr : List Byte) : State :=
  let n := fr.length - 4
  if !s.portUp port || decide (9216 < fr.length) || s.pwr.isl || s.gated 3 || s.gated 4 then s
  else if fr.length < 18 ∨ crc32 (fr.take n) ≠ leNat (fr.drop n) then s.incFld R.ING_DROP F.ING_DROP_FCS 1
  else
    let k := ethOf (fr.take n)
    match (List.range 64).find? (fun t => s.strmOn t && s.strmMatches t port k) with
    | none => s.incFld R.ING_DROP F.ING_DROP_UNMATCHED 1
    | some t =>
      match k with
      | .udp _ p => s.takeLine t p
      | .avtp p => s.takeAvtp t p
      | .none => s

/-- LINE_PACKET (R325): an Ethernet frame with a line-format packet, FCS included, arrives at a logical port. -/
def execLinePacket (port : Nat) (fr : List Byte) (s : State) : Host.Outcome State Fault Refusal := ok (s.sensorFrame port fr)

/-- AVTP_PACKET (R328): an Ethernet frame with a 1722 packet, FCS included, arrives at a logical port. -/
def execAvtpPacket (port : Nat) (fr : List Byte) (s : State) : Host.Outcome State Fault Refusal := ok (s.sensorFrame port fr)

/-- FRAME_TIMEOUT (R327): 2 PERIOD_US, of 400 CK_S cycles a microsecond, have passed since the last packet of the frame being
received. [DEDUCED: log 122] -/
def execFrameTimeout (t : Nat) (s : State) : Host.Outcome State Fault Refusal :=
  ok (match (s.strm t).asm with
    | some f => if t < 64 ∧ s.period t ≠ 0 ∧ s.strmOn t ∧ f.lastAt + 800 * s.period t ≤ s.now then s.endFrame t (f.fail vMissing) else s
    | none => s)

/-! ### VOIDs and stops (R340, R341, R344) -/

/-- The entry with a sample id changed by a function. -/
def State.onEntry (s : State) (t id : Nat) (f : IngEntry → IngEntry) : State :=
  s.onStrm t (fun x => { x with entries := x.entries.map (fun e => if e.id = id then f e else e) })

/-- The stream stops at the VOID of sample `id` (R341, R344): later samples are held, frames that wait are dropped. One that drains
delivers what is in flight and shows OFF (R343): it neither stops nor holds. [DEDUCED: log 121] -/
def State.stopStream (s : State) (t id reason : Nat) : State :=
  if s.strmState t = stDrain then s
  else
    let behind := ((s.strm t).entries.dropWhile (fun e => e.id != id)).drop 1 |>.map (·.id)
    let s := s.onStrm t (fun x => { x with entries := x.entries.map (fun e => { e with held := e.held || behind.contains e.id }) })
    let s := s.setFld (R.STRM_STAT t) F.STRM_STAT_REASON reason
    if s.strmState t ≠ stOn then s
    else
    let s := s.setStrmState t stStopped
    let s := s.incFld (R.STRM_CNT t) F.STRM_CNT_DROPPED (s.strm t).wait.length
    let s := s.onStrm t (fun x => { x with wait := [] })
    s.eventPart ⟨evIngestStopped, s.strmPart t, s.strmCtx t, false, leBytes 1 t ++ leBytes 1 reason ++ leBytes 2 0 ++ leBytes 4 id⟩

/-- A sample becomes a VOID (R340, R344). -/
def State.makeVoid (s : State) (t id reason : Nat) : State :=
  let s := s.onEntry t id (fun e => { e with stage := .done, reason := reason, digest := dig32 0x03 (leBytes 4 id) })
  let s := s.incFld (R.STRM_CNT t) F.STRM_CNT_VOIDS 1
  let s := if reason = vOvertime then (s.incFld (R.STRM_CNT t) F.STRM_CNT_OVERTIME 1).raiseDoubt (0x040 + t) else s.raiseDoubt t
  if stopsStream reason then s.stopStream t id reason else s

/-! ### Admission (R329, R341) -/

/-- FRAME_GAP and TIME_JUMP of a frame against the one admitted before it. -/
def State.frameSteps (s : State) (t : Nat) (f : IngFrame) : Nat :=
  let x := s.strm t
  let gap := match x.lastFrame with
    | some n => !s.strmVideo t && f.frame != (n + 1) % 2 ^ 32
    | none => false
  let per : Int := (s.period t * 1000 : Nat)
  let jump := match x.lastPtime, f.ptime with
    | some a, some b =>
      let d := wrapS 32 ((b : Int) - a)
      decide (per ≠ 0) && (decide (d ≤ 0) || decide (per < 4 * (d - per)) || decide (per < 4 * (per - d)))
    | _, _ => false
  if gap then vGap else if jump then vJump else 0

/-- FRAME_ADMISSION (R329): the oldest waiting frame of a stream takes a reorder entry and its sample id; a failed one becomes its
VOID. [DEDUCED: log 61] -/
def execFrameAdmission (t : Nat) (s : State) : Host.Outcome State Fault Refusal :=
  ok (
    let x := s.strm t
    let total := s.ing.streams.foldl (fun n p => n + p.2.entries.length) 0
    match x.wait with
    | [] => s
    | f :: rest =>
      if 64 ≤ t ∨ s.strmState t ≠ stOn ∨ 16 ≤ x.entries.length ∨ 256 ≤ total then s
      else
        let next := s.fld (R.STRM_SEQ t) F.STRM_SEQ_NEXT
        let id := t * 2 ^ 26 + next
        let why := if f.reason ≠ 0 then f.reason else s.frameSteps t f
        let number := if s.strmVideo t then (x.admitted + 1) % 2 ^ 32 else f.frame
        let e : IngEntry := ⟨id, .queued, 0, f, number, none, [], false, s.ing.orders, s.now, 0⟩
        let s := s.onStrm t (fun x => { x with
          wait := rest, entries := x.entries ++ [e], lastFrame := some f.frame, lastPtime := f.ptime, admitted := x.admitted + 1 })
        let s := { s with ing := { s.ing with orders := s.ing.orders + 1 } }
        let s := s.setFld (R.STRM_SEQ t) F.STRM_SEQ_NEXT ((next + 1) % 2 ^ 26)
        if why ≠ 0 then s.makeVoid t id why else s)

/-! ### Decoders and units (R330, R331) -/

/-- The units in use: by running samples and by swatches. -/
def State.unitsBusy (s : State) : List Nat :=
  s.ing.streams.flatMap (fun p => p.2.swatch.toList
    ++ (p.2.entries.filter (fun e => e.stage == .running)).filterMap (fun e => e.unit))

/-- Whether unit `u` can take work of a kind: a decoder whose unit runs no line-format work, or a unit whose decoders idle. -/
def unitFree (busy : List Nat) (video : Bool) (u : Nat) : Bool :=
  if video then decide (u < 8) && !busy.contains u && !busy.contains (8 + u / 2)
  else decide (8 ≤ u) && decide (u < 12) && !busy.contains u && !busy.contains (2 * (u - 8)) && !busy.contains (2 * (u - 8) + 1)

/-- Whether work of a kind can start somewhere. -/
def canStartWork (busy : List Nat) (video : Bool) : Bool := (List.range 12).any (unitFree busy video)

/-- The admitted samples that have not started. -/
def State.queuedSamples (s : State) : List (Nat × IngEntry) :=
  s.ing.streams.flatMap (fun p => (p.2.entries.filter (fun e => e.stage == .queued)).map (fun e => (p.1, e)))

/-- R330: whether sample `a` of stream `t` is older than sample `b` of stream `u`: admitted earlier, or in the same cycle in a stream of
lower number, or earlier in the same stream. [DEDUCED: log 122] -/
def IngEntry.olderThan (a b : IngEntry) (t u : Nat) : Bool :=
  decide (a.admittedAt < b.admittedAt)
    || (a.admittedAt == b.admittedAt && (decide (t < u) || (t == u && decide (a.order < b.order))))

/-- R330: whether sample `e` of stream `t` is the one to start next: no reserved swatch turn can start, and no older sample can. -/
def State.nextToStart (s : State) (t : Nat) (e : IngEntry) : Bool :=
  let busy := s.unitsBusy
  !s.ing.streams.any (fun p => p.2.turn.isSome && p.2.swatch.isNone && canStartWork busy (s.strmVideo p.1))
    && !s.queuedSamples.any (fun q => q.2.olderThan e q.1 t && canStartWork busy (s.strmVideo q.1))

/-- Whether the credit of the FREE semaphore is taken: none when the take is refused (R339). [DEDUCED: log 63] -/
def State.takeFree (s : State) (t : Nat) : State × Option Bool :=
  let p := s.strmPart t
  match s.handleTo (planW (s.strm t).plan 21) (s.part p).chmask with
  | .here obj =>
    let cfg := s.rd (cfgReg obj)
    let v := (s.rd (valReg obj)).toNat
    if isSet cfg F.SYNC_CFG_EN && getF cfg F.SYNC_CFG_KIND == 0 && !s.bit (sstatReg obj) F.SYNC_STAT_ABANDONED
        && (s.queue obj).isEmpty && v != 0 then
      (((s.countSync obj none).wr (valReg obj) (BitVec.ofNat 32 (v - 1))).noteUndo obj none (fun u => { u with took := u.took + 1 }), some true)
    else (s, some false)
  | .far _ _ => (s, some false)
  | .refused => (s, none)

/-- A trace record of a decoder or unit (CLASS 3, R485). [DEDUCED: log 64] -/
def State.markIngest (s : State) (t u event id : Nat) : State :=
  s.mark ⟨4, 3, if u < 8 then 0 else 1, if u < 8 then u else u - 8, event, s.strmPart t, s.strmCtx t, id, 0, 0, false, false⟩

/-- SAMPLE_START (R330, R339): the oldest sample of stream t that has not started starts on unit `u`; with FREEEN = 1 a credit is
taken first. [DEDUCED: log 63] -/
def execSampleStart (t u : Nat) (s : State) : Host.Outcome State Fault Refusal :=
  ok (match (s.strm t).entries.find? (fun e => e.stage == .queued) with
    | none => s
    | some e =>
      if !unitFree s.unitsBusy (s.strmVideo t) u || !s.nextToStart t e then s
      else
        let s := s.markIngest t u tvBegin e.id
        let s := s.onEntry t e.id (fun e => { e with stage := .running, unit := some u, startAt := s.now })
        if !planFree (s.strm t).plan then s
        else
          match s.takeFree t with
          | (s, some true) => s
          | (s, some false) => s.makeVoid t e.id vNoBuffer
          | (s, none) => s.makeVoid t e.id vUndeliverable)

/-- A frame's image as the colour matrix takes it. -/
def State.inputImage (s : State) (t : Nat) (data : List Byte) : Except Nat Img :=
  let w := s.strmW t
  let h := s.strmH t
  if s.strmVideo t then
    match jpegImage w h data with
    | .ok rows => .ok (rows.map (fun r => r.map (fun px => px.map (fun v => ((v * 256 : Nat) : Int)))))
    | .error e => .error e
  else .ok (lineImage (s.strmFmt t) (planBayer (s.strm t).plan) w h data)

/-- R235, R236: where the bytes of a target go: a slot and the place of each piece, or a refusal. Through an XPOSE plane each byte is a
write of its own, so a word that was uncorrectable stays so (R146); the spec does not state the width of these writes. [DESIGN CHOICE: log 113, 125] -/
def State.targetPlaces (s : State) (p x c a buf : Nat) (plane cwu : Bool) (ps : List (Nat × List Byte)) :
    Except Nat (Nat × List (Nat × List Byte)) :=
  let base := a + buf
  if !(s.part p).owns (c / 256) then .error mNoJob
  else
    match s.slotOf c p x with
    | none => .error mNoContext
    | some k =>
      if s.zeroing c k then .error mZeroing
      else
        let b := s.bound c k
        let fits (l : List (Nat × List Byte)) : Except Nat (Nat × List (Nat × List Byte)) :=
          if l.any (fun q => (beyond b q.1 q.2.length).isSome) then .error mBound else .ok (k, l)
        if !plane then fits (ps.map (fun q => (base + q.1, q.2)))
        else if (beyond b base 32).isSome then .error mBound
        else
          let d := Plane.ofBytes (s.winBytes c k base 32)
          let cells := (ps.map (fun q => q.1 / 32 + 1)).foldl max 0
          if base % 32 ≠ 0 || (s.checkDescWords c k (BitVec.ofNat 32 (2 ^ 31 + base % 2 ^ 22))).2.isSome then .error mPlane
          else if cwu then
            if !d.geomOk || decide (d.rows ≤ (cells - 1) / 32) then .error mPlane
            else fits (ps.map (fun q => (planeCell d.baseKb d.pitch (q.1 / 32 / 32) (q.1 / 32 % 32) + q.1 % 32, q.2)))
          else if !d.ok (ceilDiv cells d.len) then .error mPlane
          else fits (ps.flatMap (fun q => if d.xpose then q.2.zipIdx.map (fun v => (d.byteAt (q.1 + v.2), [v.1]))
            else [(d.byteAt q.1, q.2)]))

/-- The ECC counts of reading a target's plane descriptor (R143). -/
def State.noteTarget (s : State) (t c n buf : Nat) : State :=
  let pl := (s.strm t).plan
  let a := BitVec.ofNat 32 (tgtW pl n 1)
  if aPlane a then
    s.noteDesc (s.strmPart t) (s.strmCtx t) c (BitVec.ofNat 32 (2 ^ 31 + (aOff a + buf * tgtW pl n 3) % 2 ^ 22))
  else s

/-- A sample's tensor is written into its targets; whether every write was accepted (R335, R341). -/
def State.writeTargets (s : State) (t id : Nat) (o : Tensor) : State × Bool :=
  let pl := (s.strm t).plan
  let buf := id % 2 ^ 26 % planNbuf pl
  ((List.range (planNtgt pl)).filter (tgtOn pl)).foldl (fun (r : State × Bool) n =>
    if !r.2 then r
    else
      let c := tgtCore pl n
      let a := BitVec.ofNat 32 (tgtW pl n 1)
      match r.1.targetPlaces (s.strmPart t) (s.strmCtx t) c (aOff a) (buf * tgtW pl n 3) (aPlane a) (!planDense pl) (tgtPieces pl n o) with
      | .error _ => (r.1.noteTarget t c n buf, false)
      | .ok (k, l) => ((r.1.noteTarget t c n buf).each l (fun s q => s.putWin c k q.1 q.2), true)) (s, true)

/-- The tensor and its digest (R338). -/
def State.sampleTensor (s : State) (t : Nat) (m : Img) : Tensor × List Byte :=
  let pl := (s.strm t).plan
  let o := preprocess pl m
  (o, tensorDigest (planW pl 1) (o.bytes (planE pl)))

/-- Whether what a stream writes into its targets waits at one of their cores (R132, R241). [DEDUCED: log 63] -/
def State.targetHeld (s : State) (t : Nat) : Bool :=
  let pl := (s.strm t).plan
  (List.range (planNtgt pl)).any (fun n => tgtOn pl n && s.holds (tgtCore pl n))

/-- SAMPLE_END (R332-R335): a running sample is decoded, pre-processed, written to its targets and digested; it runs on while one of its
targets takes nothing (R241). [DEDUCED: log 63, 64] -/
def execSampleEnd (t id : Nat) (s : State) : Host.Outcome State Fault Refusal :=
  ok (match (s.strm t).entries.find? (fun e => e.id == id && e.stage == .running) with
    | none => s
    | some e =>
      match s.inputImage t e.frame.data with
      | .error r => s.makeVoid t id r
      | .ok m =>
        if s.targetHeld t then s
        else
        let s := s.count none (s.strmPort t) none 0x44 (s.strmW t * s.strmH t)
        let (o, dig) := s.sampleTensor t m
        match s.writeTargets t id o with
        | (s, true) => s.onEntry t id (fun e => { e with stage := .done, digest := dig, frame := { e.frame with data := [] } })
        | (s, false) => s.makeVoid t id vUndeliverable)

/-- R331: the expected time of a stream's frames in CK_S cycles. -/
def State.expected (s : State) (t : Nat) : Nat := ceilDiv (s.strmW t * s.strmH t) (if s.strmVideo t then 2 else 4)

/-- R331: the budget of a stream's samples in CK_S cycles. [DEDUCED: log 122] -/
def State.budget (s : State) (t : Nat) : Nat :=
  let b := (s.rd (R.STRM_BUDGET t)).toNat
  if b = 0 then 4 * s.expected t else b

/-- OVERTIME (R331): a running sample has reached its budget, which takes at least as many cycles since its start; those it stalls do
not count. [DEDUCED: log 63, 122] -/
def execOvertime (t id : Nat) (s : State) : Host.Outcome State Fault Refusal :=
  ok (match (s.strm t).entries.find? (fun e => e.id == id && e.stage == .running) with
    | none => s
    | some e => if e.startAt + s.budget t ≤ s.now then s.makeVoid t id vOvertime else s)

/-! ### Delivery (R337, R338, R343) -/

/-- The 64 bytes of an arrival entry (R338). [DEDUCED: log 63] -/
def State.arrivalBytes (s : State) (t : Nat) (e : IngEntry) (aborted : Bool) : List Byte :=
  let status := if aborted then 2 else if e.reason ≠ 0 then 1 else 0
  leBytes 4 e.id ++ leBytes 2 status ++ leBytes 2 e.reason ++ leBytes 4 (e.frame.ptime.getD 0) ++ leBytes 4 e.number
    ++ leBytes 4 s.tb2 ++ leBytes 4 (e.id % 2 ^ 26 % planNbuf (s.strm t).plan) ++ leBytes 8 0
    ++ (if aborted then dig32 0x03 (leBytes 4 e.id) else e.digest)

/-- The arrival entry of a sample, and where its stream's plan places it (R337). -/
def State.arrival (s : State) (t : Nat) (e : IngEntry) (aborted : Bool) : Arrival :=
  let pl := (s.strm t).plan
  { core := planW pl 16 % 1024
    part := s.strmPart t
    ctx := s.strmCtx t
    addr := planW pl 17 % 2 ^ 22 + 64 * (e.id % 2 ^ 26 % 2 ^ (planW pl 18 % 16))
    bytes := s.arrivalBytes t e aborted
    dsync := planW pl 19
    arg := planW pl 20 }

/-- The arrival entry is written, DSYNC signalled (R337). An entry that cannot be written signals nothing, and, with `note`, its VOID count
and event record it (R341). [DEDUCED: log 63] -/
def State.landArrival (s : State) (t : Nat) (a : Arrival) (note : Bool) : State :=
  match s.destCheck a.part a.ctx a.core (BitVec.ofNat 32 a.addr) 64 with
  | .error _ => if note then (s.incFld (R.STRM_CNT t) F.STRM_CNT_VOIDS 1).raiseDoubt t else s
  | .ok d =>
    let s := s.place a.core d a.bytes
    match s.handleTo a.dsync (s.part a.part).chmask with
    | .here obj => (s.applySignal obj a.arg none).checkDonations
    | _ => s

/-- The arrival entry of a delivered sample (R337). [DEDUCED: log 63] -/
def State.arrive (s : State) (t : Nat) (e : IngEntry) : State := s.landArrival t (s.arrival t e false) (e.reason == 0)

/-- The arrival entry of an aborted sample (R343); one for a core that takes nothing at present waits on its way (R241). [DEDUCED: log 63] -/
def State.arriveAborted (s : State) (t : Nat) (e : IngEntry) : State :=
  let a := s.arrival t e true
  if s.holds a.core then s.onStrm t (fun x => { x with owed := x.owed ++ [a] }) else s.landArrival t a false

/-- The head entry of a stream leaves it. -/
def State.deliverHead (s : State) (t : Nat) : State :=
  match (s.strm t).entries with
  | [] => s
  | e :: rest =>
    let s := (s.onStrm t (fun x => { x with entries := rest })).arrive t e
    match e.unit with
    | some u => s.markIngest t u tvEnd e.id
    | none => s

/-- Whether the head entry can be delivered: done, and not held. -/
def StreamSt.ready (x : StreamSt) : Bool :=
  match x.entries with
  | e :: _ => e.stage == .done && !e.held
  | [] => false

/-- Whether the head entry of a stream is delivered now: nothing of the stream waits before it, and the core of its list takes it. -/
def State.delivers (s : State) (t : Nat) : Bool :=
  (s.strm t).ready && (s.strm t).owed.isEmpty && !s.holds (planW (s.strm t).plan 16 % 1024)

/-- Entries that can be delivered are, in order; `fuel` bounds their number. -/
def State.deliverAll (s : State) (t : Nat) : Nat → State
  | 0 => s
  | fuel + 1 => if s.delivers t then (s.deliverHead t).deliverAll t fuel else s

/-- A DRAINING stream with nothing in flight is OFF (R343). -/
def State.drainedStrm (s : State) (t : Nat) : State :=
  if s.strmState t = stDrain ∧ (s.strm t).entries = [] then s.setStrmState t stOff else s

/-- An ABORTED entry that has waited on its way is written (R241, R343). [DEDUCED: log 63] -/
def State.landOwed (s : State) (t : Nat) (a : Arrival) : State :=
  (s.onStrm t (fun x => { x with owed := x.owed.tail })).landArrival t a false

/-- SAMPLE_DELIVERY (R337): the earliest sample of a stream that has not been delivered is delivered once it is done; an ABORTED entry that
waits on its way comes before it. -/
def execSampleDelivery (t : Nat) (s : State) : Host.Outcome State Fault Refusal :=
  ok (if 64 ≤ t then s
    else
      match (s.strm t).owed with
      | a :: _ => if s.holds a.core then s else s.landOwed t a
      | [] => if s.delivers t then (s.deliverHead t).drainedStrm t else s)

/-! ### Enable and disable (R318, R324, R336, R343) -/

/-- Whether a word of a plan is a handle of SCOPE 0 (R242, R334). -/
def planHandle (pl : List Byte) (i : Nat) : Bool := handleOk (planW pl i) && bitsOf (planW pl i) 31 30 == 0

/-- R336: whether a plan and its targets can be used. [DEDUCED: log 63] -/
def State.planOk (s : State) (t : Nat) (pl : List Byte) : Bool :=
  let p := s.strmPart t
  let ow := planOW pl
  let oh := planOH pl
  let e := planE pl
  let fit (v hi : Nat) : Bool := decide (1 ≤ v) && decide (v ≤ hi)
  decide (planOtype pl ≤ 3) && fit (planNtgt pl) 16 && fit (planNbuf pl) 4 && fit ow 8192 && fit oh 8192
    && decide (4 ≤ planW pl 18 % 16) && decide (planW pl 18 % 16 ≤ 12) && planW pl 17 % 64 == 0
    && decide (1 ≤ planCW pl) && decide (1 ≤ planCH pl) && planHandle pl 19 && handleOk (planW pl 21)
    && decide (planX0 pl + planCW pl ≤ s.strmW t) && decide (planY0 pl + planCH pl ≤ s.strmH t)
    && !(planArea pl && (decide (planCW pl < ow) || decide (planCH pl < oh))) && !(planMx pl && !planDense pl)
    && ((List.range (planNtgt pl)).filter (tgtOn pl)).all (fun n =>
      (s.part p).owns (tgtCore pl n / 256) && decide (tgtIy0 pl n + tgtRows pl n ≤ oh)
        && !(planMx pl && tgtIy0 pl n * ow * 3 % 32 != 0)
        && decide ((if planDense pl then ceilDiv (3 * ow * e) 32 else ow * e) ≤ tgtW pl n 4))

/-- R324: whether another enabled stream has the key of stream t, on whichever port. -/
def State.sameKey (s : State) (t : Nat) : Bool :=
  (List.range 64).any (fun q => q != t && s.strmOn q && s.strmVideo q == s.strmVideo t
    && (if s.strmVideo t then s.strmSid q == s.strmSid t else s.rd (R.STRM_MATCH q) == s.rd (R.STRM_MATCH t)))

/-- A discarded write or enable. -/
def State.strmReject (s : State) (t : Nat) : State := s.setBit (R.STRM_STAT t) F.STRM_STAT_CFG_REJECT

/-- A stream is enabled (R336): its plan is copied, sequence numbers start at 0; a swatch that runs goes on (R347). -/
def State.strmEnable (s : State) (t : Nat) (v : Word) : State :=
  let s' := s.wr (R.STRM_CTRL t) v
  let p := s'.strmPart t
  let off := s.fld (R.STRM_PLAN t) F.STRM_PLAN_PLAN_OFF
  let len := s.sliceLen p
  if !(s.part p).configured || off % 4 != 0 || decide (len < off + 128) || s'.sameKey t then s.strmReject t
  else
    let n := 128 + 32 * planNtgt (s.sliceBytes p off 128)
    if len < off + n then s.strmReject t
    else
      let pl := s.sliceBytes p off n
      if !s'.planOk t pl then s.strmReject t
      else
        let s := s'.onStrm t (fun x => { StreamSt.init with plan := pl, swatch := x.swatch, swatchAt := x.swatchAt, owed := x.owed })
        (s.wr (R.STRM_SEQ t) 0#32).setStrmState t stOn

/-- EN cleared with FORCE = 1 (R343): every sample in flight is entered ABORTED and signalled, in order. -/
def State.strmForce (s : State) (t : Nat) : State :=
  let es := (s.strm t).entries
  let s := s.each es (fun s e => (s.arriveAborted t e).raiseDoubt t)
  (s.onStrm t (fun x => { x with entries := [], wait := [], asm := none, turn := none })).setStrmState t stOff

/-- EN cleared with FORCE = 0 (R343). -/
def State.strmDrain (s : State) (t : Nat) : State :=
  let s := s.onStrm t (fun x => { x with wait := [], asm := none, turn := none, entries := x.entries.map (fun e => { e with held := false }) })
  (s.setStrmState t stDrain).drainedStrm t

/-- A write to STRMs_CTRL (R318, R336, R343, R349). -/
def State.writeStrmCtrl (s : State) (t : Nat) (v : Word) : State :=
  let v := BitVec.ofNat 32 (v.toNat / 2 ^ 19 * 2 ^ 19 + getF v F.STRM_CTRL_PIXFMT * 256)
  let en := isSet v F.STRM_CTRL_EN
  let st := s.strmState t
  if en && s.gated 3 then s.strmReject t
  else if st = stOff then (if en then s.strmEnable t v else s.wr (R.STRM_CTRL t) v)
  else if en ∧ st = stDrain then s.strmReject t
  else
    let s := s.wr (R.STRM_CTRL t) v
    if en then s
    else if isSet v F.STRM_CTRL_FORCE then s.strmForce t
    else if st = stDrain then s
    else s.strmDrain t

/-- Whether a requester's write reaches the ingest registers (R266): the PF's or the management port's, and not while the island is
in reset (R510) or their domain gated (R505). -/
def State.mayIngest (s : State) (req : Nat) : Bool := (req == 0 || req == 5) && !s.pwr.isl && !s.gated 4

/-- A write to another register of a stream (R349): discarded unless the stream is OFF. -/
def State.writeStrm (s : State) (t off : Nat) (mask : Nat) (v : Word) : State :=
  if s.strmState t ≠ stOff then s.strmReject t else s.wr (R.STRM_CTRL t + off) (v &&& BitVec.ofNat 32 mask)

/-- A write to ING_PORTCFG (R349): a port's bit changes only while every stream of the port is OFF. -/
def State.writePortCfg (s : State) (v : Word) : State :=
  let idle (hi : Bool) : Bool := (List.range 64).all (fun t => s.strmState t == stOff || decide (4 ≤ s.strmPort t) != hi)
  let s' := if idle false then s.setFld R.ING_PORTCFG F.ING_PORTCFG_SP0_SPLIT (getF v F.ING_PORTCFG_SP0_SPLIT) else s
  if idle true then s'.setFld R.ING_PORTCFG F.ING_PORTCFG_SP1_SPLIT (getF v F.ING_PORTCFG_SP1_SPLIT) else s'

/-- STREAM_ENABLE (R336): `v` is written to STRMs_CTRL with EN = 1. -/
def execStreamEnable (req t : Nat) (v : Word) (s : State) : Host.Outcome State Fault Refusal :=
  ok (if s.mayIngest req ∧ t < 64 then s.writeStrmCtrl t (setF v F.STRM_CTRL_EN 1) else s)

/-- STREAM_DRAIN (R343): EN is written 0 with FORCE = 0. -/
def execStreamDrain (req t : Nat) (s : State) : Host.Outcome State Fault Refusal :=
  ok (if s.mayIngest req ∧ t < 64 then
      s.writeStrmCtrl t (setF (setF (s.rd (R.STRM_CTRL t)) F.STRM_CTRL_EN 0) F.STRM_CTRL_FORCE 0) else s)

/-- STREAM_FORCED_DISABLE (R343): EN is written 0 with FORCE = 1. -/
def execStreamForcedDisable (req t : Nat) (s : State) : Host.Outcome State Fault Refusal :=
  ok (if s.mayIngest req ∧ t < 64 then
      s.writeStrmCtrl t (setF (setF (s.rd (R.STRM_CTRL t)) F.STRM_CTRL_EN 0) F.STRM_CTRL_FORCE 1) else s)

/-! ### INGEST_CTL (R342) -/

/-- The checks FRAME, sequence_num and PTIME are re-based. -/
def State.rebase (s : State) (t : Nat) : State :=
  s.onStrm t (fun x => { x with lastFrame := none, lastPtime := none, lastSeq := none })

/-- The stream of an INGEST_CTL descriptor; none where its function may not name it. -/
def State.ctlStream (s : State) (d : Desc) : Option Nat :=
  let t := d.at_ 8 1
  if d.fn = 0 ∨ s.strmPart t = d.fn - 1 then some t else none

/-- The descriptor's effect is done; RESULT carries STRMs_STAT. -/
def State.endCtl (s : State) (id t status : Nat) : State := s.finish id status (leBytes 4 (s.rd (R.STRM_STAT t)).toNat)

/-- Held samples are no longer held, and what can be delivered is. -/
def State.unhold (s : State) (t : Nat) : State :=
  (s.onStrm t (fun x => { x with entries := x.entries.map (fun e => { e with held := false }) })).deliverAll t 16

/-- INGEST_CTL RESUME (R342). [DEDUCED: log 63] -/
def execIngestCtlResume (id : Nat) (s : State) : Host.Outcome State Fault Refusal :=
  ok (match s.ready id 15 with
    | none => s
    | some d =>
      if d.at_ 9 1 ≠ 0 then s
      else
        match s.ctlStream d with
        | none => s.finish id stNoReach []
        | some t =>
          if s.strmState t ≠ stStopped then s.endCtl id t stBadState
          else (((s.setStrmState t stOn).rebase t).unhold t).endCtl id t stOk)

/-- INGEST_CTL RESET (R342): held samples that are done become VOID with reason RESET. [DEDUCED: log 63, 121] -/
def execIngestCtlReset (id : Nat) (s : State) : Host.Outcome State Fault Refusal :=
  ok (match s.ready id 15 with
    | none => s
    | some d =>
      if d.at_ 9 1 ≠ 1 then s
      else
        match s.ctlStream d with
        | none => s.finish id stNoReach []
        | some t =>
          if s.strmState t = stOff then s.endCtl id t stBadState
          else
            let es := (s.strm t).entries.filter (fun e => e.held && e.stage == .done && e.reason == 0)
            let s := s.each es (fun s e => s.makeVoid t e.id vReset)
            let s := (s.onStrm t (fun x => { x with asm := none })).rebase t
            let s := if s.strmState t = stStopped then s.setStrmState t stOn else s
            ((s.unhold t).drainedStrm t).endCtl id t stOk)

/-- INGEST_CTL STATUS (R342). -/
def execIngestCtlStatus (id : Nat) (s : State) : Host.Outcome State Fault Refusal :=
  ok (match s.ready id 15 with
    | none => s
    | some d =>
      if d.at_ 9 1 ≠ 2 then s
      else
        match s.ctlStream d with
        | none => s.finish id stNoReach []
        | some t => s.endCtl id t stOk)

/-! ### Swatch (R345-R347, R349) -/

/-- SWATCH_TURN (R346): the reserved turn of stream t comes on unit `u`: the swatch starts when its expected time ends no later
than the frame end + VBLANK_US, else it is deferred. [DEDUCED: log 64] -/
def execSwatchTurn (t u : Nat) (s : State) : Host.Outcome State Fault Refusal :=
  ok (match (s.strm t).turn, (s.strm t).swatch with
    | some t0, none =>
      if !unitFree s.unitsBusy (s.strmVideo t) u then s
      else
        let s := s.onStrm t (fun x => { x with turn := none })
        if s.now + s.expected t ≤ t0 + s.fld (R.STRM_TIME t) F.STRM_TIME_VBLANK_US * 400 then
          s.onStrm t (fun x => { x with swatch := some u, swatchAt := s.now })
        else
          let was := s.fld (R.STRM_STAT t) F.STRM_STAT_DEFER
          let s := s.incFld (R.STRM_CNT t) F.STRM_CNT_DEFERRALS 1
          let s := s.setFld (R.STRM_STAT t) F.STRM_STAT_DEFER (min 4 (was + 1))
          if was = 3 then s.swFail t else s
    | _, _ => s)

/-- SWATCH_END (R345, R347): the swatch that runs for stream t ends; with `late` it has reached the stream's budget. [DEDUCED: log 64, 122] -/
def execSwatchEnd (t : Nat) (late : Bool) (s : State) : Host.Outcome State Fault Refusal :=
  ok (match (s.strm t).swatch with
    | none => s
    | some _ =>
      if late && decide (s.now < (s.strm t).swatchAt + s.budget t) then s
      else
      let s := s.onStrm t (fun x => { x with swatch := none })
      let base := s.fld (R.STRM_SWATCH t) F.STRM_SWATCH_SWBASE_KB * 1024
      let ref := s.ing.swMem.bytes base 32
      let data := s.ing.swMem.bytes (base + 36) (min (s.ing.swMem.u32 (base + 32)) (2 ^ 24 - base))
      if late then s.swFail t
      else if !s.strmVideo t && data.length != s.strmH t * lineLen (s.strmFmt t) (s.strmW t) then s.swFail t
      else
        match s.inputImage t data with
        | .error _ => s.swFail t
        | .ok m =>
          let s := s.setFld (R.STRM_STAT t) F.STRM_STAT_DEFER 0
          if (s.sampleTensor t m).2 = ref then s else s.swFail t)

/-- An access to ING_SWDATA (R345, R349): the word at ADDR is read or written, and ADDR increments. -/
def State.swData (s : State) (wr_ : Option Word) : State :=
  let a := s.fld R.ING_SWADDR F.ING_SWADDR_ADDR
  let s := match wr_ with
    | some v => { s with ing := { s.ing with swMem := s.ing.swMem.putNum (4 * a) 4 v.toNat } }
    | none => { s with lastRead := [BitVec.ofNat 32 (s.ing.swMem.u32 (4 * a))] }
  s.setFld R.ING_SWADDR F.ING_SWADDR_ADDR ((a + 1) % 2 ^ 22)

/-- SWDATA_ACCESS (R349): a requester reads ING_SWDATA, or writes it. -/
def execSwdataAccess (req : Nat) (wr_ : Option Word) (s : State) : Host.Outcome State Fault Refusal :=
  ok (if s.mayIngest req then s.swData wr_
    else match wr_ with
      | none => { s with lastRead := [0#32] }
      | some _ => s)

end Sys2Proof.Machine
end

