-- ==== Sys2Proof/Machine/LoopBlocks.lean ====
section
/-! DEFINITION. Sys2Proof/Machine/LoopBlocks.lean: the fixed-point helpers of the loop engine, its blocks bit for bit, their
costs and the block-level checks of a group enable (R355-R361). -/

namespace Sys2Proof.Machine

/-! ### Block words (R356) -/

def blkOp (w : Nat) : Nat := bitsOf w 63 60
def blkDst (w : Nat) : Nat := bitsOf w 59 55
def blkA (w : Nat) : Nat := bitsOf w 54 50
def blkB (w : Nat) : Nat := bitsOf w 49 45
def blkC (w : Nat) : Nat := bitsOf w 44 40
def blkKf (w : Nat) : Nat := bitsOf w 39 35
def blkSub (w : Nat) : Nat := bitsOf w 34 32
def blkParam (w : Nat) : Nat := bitsOf w 31 16
def blkState (w : Nat) : Nat := bitsOf w 14 0

/-- What the blocks of a loop read: fraction bits of its signals, parameter words, state words, FIRST. -/
structure BlkEnv where
  f : Nat → Nat
  par : Nat → Int
  st : Nat → Int
  first : Bool

/-- What they work on: the copy of the signals, the state words written, SAT (R357, R362). -/
structure BlkWork where
  s : List Int
  w : List (Nat × Int)
  sat : Bool

/-- A computation of a block. -/
abbrev LB (α : Type) := StateM BlkWork α

/-! ### Helpers (R357) -/

/-- A value saturated to n bits, setting SAT. -/
def lbSat (n : Nat) (v : Int) : LB Int := do
  modify (fun k => { k with sat := k.sat || satS n v != v })
  pure (satS n v)

/-- al: v × 2^sh. -/
def lbAl (v : Int) (sh : Nat) : LB Int := lbSat 64 (v * (2 ^ sh : Nat))

/-- add. -/
def lbAdd (x y : Int) : LB Int := lbSat 64 (x + y)

/-- mul: the exact product of two s32; what a wider operand gives is open. [DESIGN CHOICE: log 69] -/
def lbMul (x y : Int) : LB Int :=
  if satS 32 x = x ∧ satS 32 y = y then pure (x * y) else pure (satS 64 (Config.loopOpen [0, x, y]))

/-- The exact value that rnd rounds. -/
def rndExact (v sh : Int) : Int := if 0 ≤ sh then rndHalfUp v sh.toNat else v * (2 ^ (-sh).toNat : Nat)

/-- rnd. -/
def lbRnd (v sh : Int) : LB Int := lbSat 32 (rndExact v sh)

/-- sat_shift. -/
def lbSatShift (v sh : Int) : LB Int := lbSat 64 (rndExact v (-sh))

/-- exact_rnd. -/
def lbExactRnd (e : Int) (sh : Nat) : LB Int := lbSat 64 (rndHalfUp e sh)

/-- clamp; with the bounds the wrong way round its value is open. [DESIGN CHOICE: log 69] -/
def lbClamp (v lo hi : Int) : Int := if lo ≤ hi then clampI v lo hi else satS 32 (Config.loopOpen [1, v, lo, hi])

/-- Signal x of the copy. -/
def lbS (x : Nat) : LB Int := do pure (nth 0 (← get).s x)

/-- Signal x written. -/
def lbPut (x : Nat) (v : Int) : LB Unit := modify (fun k => { k with s := setNth k.s x v })

/-- State word i: as written by an earlier block of the run, else as committed. -/
def lbSt (e : BlkEnv) (i : Nat) : LB Int := do
  match (← get).w.find? (fun p => p.1 == i) with
  | some p => pure p.2
  | none => pure (e.st i)

/-- State word i written. -/
def lbPutSt (i : Nat) (v : Int) : LB Unit := modify (fun k => { k with w := (i, v) :: k.w })

/-- cv: signal x in the format of signal d. -/
def lbCv (e : BlkEnv) (x d : Nat) : LB Int := do lbRnd (← lbS x) ((e.f x : Int) - e.f d)

/-- out. -/
def lbOut (e : BlkEnv) (d : Nat) (v : Int) (fv : Nat) : LB Unit := do lbPut d (← lbRnd v ((fv : Int) - e.f d))

/-! ### Blocks (R360) -/

/-- K(i). -/
def BlkEnv.k (e : BlkEnv) (w i : Nat) : Int := e.par (blkParam w + i)

/-- fe = max(Fa, Fb). -/
def BlkEnv.fe (e : BlkEnv) (w : Nat) : Nat := max (e.f (blkA w)) (e.f (blkB w))

/-- a and b in the format fe. -/
def lbPair (e : BlkEnv) (w : Nat) : LB (Int × Int) := do
  let x ← lbAl (← lbS (blkA w)) (e.fe w - e.f (blkA w))
  let y ← lbAl (← lbS (blkB w)) (e.fe w - e.f (blkB w))
  pure (x, y)

def blkAdd (e : BlkEnv) (w : Nat) : LB Unit := do
  let p ← lbPair e w
  lbOut e (blkDst w) (← lbAdd p.1 p.2) (e.fe w)

def blkSubtract (e : BlkEnv) (w : Nat) : LB Unit := do
  let p ← lbPair e w
  lbOut e (blkDst w) (← lbAdd p.1 (-p.2)) (e.fe w)

def blkMul (e : BlkEnv) (w : Nat) : LB Unit := do
  lbOut e (blkDst w) (← lbMul (← lbS (blkA w)) (← lbS (blkB w))) (e.f (blkA w) + e.f (blkB w))

def blkMac (e : BlkEnv) (w : Nat) : LB Unit := do
  let fab := e.f (blkA w) + e.f (blkB w)
  let f := max (e.f (blkC w)) fab
  let c ← lbAl (← lbS (blkC w)) (f - e.f (blkC w))
  let ab ← lbSatShift (← lbMul (← lbS (blkA w)) (← lbS (blkB w))) ((f : Int) - fab)
  lbOut e (blkDst w) (← lbAdd c ab) f

def blkLimit (e : BlkEnv) (w : Nat) : LB Unit := do
  lbPut (blkDst w) (lbClamp (← lbCv e (blkA w) (blkDst w)) (e.k w 0) (e.k w 1))

def blkRatelim (e : BlkEnv) (w : Nat) : LB Unit := do
  let x ← lbCv e (blkA w) (blkDst w)
  let p ← lbSt e (blkState w)
  let k := max (e.k w 0) 0
  let y ← lbSat 32 (p + clampI (x - p) (-k) k)
  lbPut (blkDst w) y
  lbPutSt (blkState w) y

def blkDeadband (e : BlkEnv) (w : Nat) : LB Unit := do
  let x ← lbCv e (blkA w) (blkDst w)
  let k := max (e.k w 0) 0
  if (x.natAbs : Int) ≤ k then lbPut (blkDst w) 0
  else lbPut (blkDst w) (← lbSat 32 (x - (if 0 < x then k else -k)))

def blkPid (e : BlkEnv) (w : Nat) : LB Unit := do
  let d := blkDst w
  let fe := e.fe w
  let sh : Int := ((blkKf w + fe : Nat) : Int) - e.f d
  let ab ← lbPair e w
  let err ← lbRnd (← lbAdd ab.1 (-ab.2)) 0
  let m ← lbRnd (← lbAl (← lbS (blkB w)) (fe - e.f (blkB w))) 0
  let p ← lbMul (e.k w 0) err
  let dI ← lbMul (e.k w 1) err
  let s1 ← lbSt e (blkState w + 1)
  let dd ← lbMul (e.k w 2) (← lbRnd (wrapS 64 (s1 - m)) 0)
  let s2 ← lbSt e (blkState w + 2)
  let df ← lbAdd s2 (← lbExactRnd ((dd - s2) * e.k w 3) 16)
  let i0 ← lbSt e (blkState w)
  let ytry ← lbRnd (← lbAdd (← lbAdd (← lbAdd p i0) dI) df) sh
  let hold := (e.k w 5 < ytry && 0 < err) || (ytry < e.k w 4 && err < 0)
  let i1 ← if hold then pure i0 else lbAdd i0 dI
  let y ← lbRnd (← lbAdd (← lbAdd p i1) df) sh
  lbPut d (lbClamp y (e.k w 4) (e.k w 5))
  lbPutSt (blkState w) i1
  lbPutSt (blkState w + 1) m
  lbPutSt (blkState w + 2) df

def blkBiquad (e : BlkEnv) (w : Nat) : LB Unit := do
  let a ← lbS (blkA w)
  let st := blkState w
  let x1 ← lbSt e st
  let x2 ← lbSt e (st + 1)
  let y1 ← lbSt e (st + 2)
  let y2 ← lbSt e (st + 3)
  let v ← lbMul (e.k w 0) a
  let v ← lbAdd v (← lbMul (e.k w 1) x1)
  let v ← lbAdd v (← lbMul (e.k w 2) x2)
  let v ← lbAdd v (-(← lbMul (e.k w 3) y1))
  let v ← lbAdd v (-(← lbMul (e.k w 4) y2))
  let y ← lbRnd v (blkKf w)
  lbPutSt (st + 1) x1
  lbPutSt st a
  lbPutSt (st + 3) y1
  lbPutSt (st + 2) y
  lbPut (blkDst w) y

def blkLeadlag (e : BlkEnv) (w : Nat) : LB Unit := do
  let a ← lbS (blkA w)
  let x1 ← lbSt e (blkState w)
  let y1 ← lbSt e (blkState w + 1)
  let u ← lbAdd (← lbMul (e.k w 0) a) (← lbMul (e.k w 1) x1)
  let y ← lbRnd (← lbAdd u (-(← lbMul (e.k w 2) y1))) (blkKf w)
  lbPutSt (blkState w) a
  lbPutSt (blkState w + 1) y
  lbPut (blkDst w) y

/-- STATESPACE's n, m, p from K0. -/
def ssDims (k0 : Int) : Nat × Nat × Nat :=
  let v := wrapN 32 k0
  (bitsOf v 2 0 + 1, bitsOf v 5 4 + 1, bitsOf v 9 8 + 1)

/-- A sum of products in order, from parameter word `at_`. -/
def lbDot (e : BlkEnv) (acc : Int) (at_ : Nat) : List Int → LB Int
  | [] => pure acc
  | x :: xs => do lbDot e (← lbAdd acc (← lbMul (e.par at_) x)) (at_ + 1) xs

def blkStatespace (e : BlkEnv) (w : Nat) : LB Unit := do
  let (n, m, p) := ssDims (e.k w 0)
  let am := blkParam w + 1
  let bm := am + n * n
  let cm := bm + n * m
  let dm := cm + p * n
  let d := blkDst w
  let fu := e.f (blkA w)
  let k ← get
  let u := (List.range m).map (fun j => if blkA w + j < 32 then nth 0 k.s (blkA w + j) else Config.loopOpen [2, blkA w + j])
  let xs ← (List.range n).mapM (fun i => lbSt e (blkState w + i))
  for i in List.range p do
    let acc ← lbDot e (← lbDot e 0 (cm + i * n) xs) (dm + i * m) u
    lbPut (d + i) (← lbRnd acc (((blkKf w + fu : Nat) : Int) - e.f (d + i)))
  let nx ← (List.range n).mapM (fun i => do
    let acc ← lbDot e (← lbDot e 0 (am + i * n) xs) (bm + i * m) u
    lbRnd acc (blkKf w))
  for i in List.range n do
    lbPutSt (blkState w + i) (nth 0 nx i)

def blkLut (e : BlkEnv) (w : Nat) : LB Unit := do
  let a ← lbS (blkA w)
  let sh := e.k w 1
  let s := sh.toNat
  let t := a - e.k w 0
  let i := clampI (asr t s) 0 62
  let f := clampI (t - i * (2 ^ s : Nat)) 0 (2 ^ s : Nat)
  let t0 := e.k w (2 + i.toNat)
  let t1 := e.k w (3 + i.toNat)
  let v := if sh < 0 then Config.loopOpen [3, a, sh] else t0 * (2 ^ s : Nat) + (t1 - t0) * f
  if blkSub w = 0 then lbOut e (blkDst w) v (blkKf w + s)
  else
    let g ← lbRnd v s
    lbOut e (blkDst w) (← lbMul g (← lbS (blkB w))) (blkKf w + e.f (blkB w))

def blkSelect (e : BlkEnv) (w : Nat) : LB Unit := do
  let d := blkDst w
  let other : LB Bool := if blkSub w = 0 then do pure (decide (0 < (← lbS (blkC w)))) else pure e.first
  if blkSub w < 2 then
    lbPut d (← lbCv e (if ← other then blkB w else blkA w) d)
  else
    let x ← lbCv e (blkA w) d
    let y ← lbCv e (blkB w) d
    lbPut d (if blkSub w = 2 then min x y else max x y)

/-- One block (R359, R360). -/
def runBlock (e : BlkEnv) (w : Nat) : LB Unit :=
  match blkOp w with
  | 0 => blkAdd e w
  | 1 => blkSubtract e w
  | 2 => blkMul e w
  | 3 => blkMac e w
  | 4 => blkLimit e w
  | 5 => blkRatelim e w
  | 6 => blkDeadband e w
  | 7 => blkPid e w
  | 8 => blkBiquad e w
  | 9 => blkLeadlag e w
  | 10 => blkStatespace e w
  | 11 => blkLut e w
  | 12 => blkSelect e w
  | _ => pure ()

/-- A program: its blocks in order. -/
def runBlocks (e : BlkEnv) : List Nat → BlkWork → BlkWork
  | [], k => k
  | w :: ws, k => runBlocks e ws ((runBlock e w).run k).2

/-! ### Costs and checks (R359, R361) -/

/-- Cost, parameter words and state words of a block. -/
def blkShape (par : Nat → Int) (w : Nat) : Nat × Nat × Nat :=
  match blkOp w with
  | 0 => (1, 0, 0)
  | 1 => (1, 0, 0)
  | 2 => (2, 0, 0)
  | 3 => (2, 0, 0)
  | 4 => (1, 2, 0)
  | 5 => (2, 1, 1)
  | 6 => (1, 1, 0)
  | 7 => (6, 6, 3)
  | 8 => (5, 5, 4)
  | 9 => (3, 3, 2)
  | 10 =>
    let (n, m, p) := ssDims (par (blkParam w))
    (2 + (n + m) * (n + p), 1 + n * (n + m) + p * (n + m), n)
  | 11 => (4, 66, 0)
  | 12 => (1, 0, 0)
  | _ => (0, 0, 0)

/-- A loop's cost: 4 plus its blocks. -/
def progCost (par : Nat → Int) (ws : List Nat) : Nat := ws.foldl (fun c w => c + (blkShape par w).1) 4

/-- How many values of SUB a block has. -/
def blkSubs (op : Nat) : Nat := if op = 11 then 2 else if op = 12 then 4 else 1

/-- The signals a block writes. -/
def blkWrites (par : Nat → Int) (w : Nat) : List Nat :=
  if blkOp w = 10 then (List.range (ssDims (par (blkParam w))).2.2).map (fun i => blkDst w + i)
  else if 12 < blkOp w then [] else [blkDst w]

/-- R361: whether a block is acceptable, in a loop with fraction bits `f`. -/
def blkOk (f : Nat → Nat) (par : Nat → Int) (w : Nat) : Bool :=
  let sh := blkShape par w
  let op := blkOp w
  let dims := ssDims (par (blkParam w))
  decide (op ≤ 12) && !bitOf w 15 && decide (blkSub w < blkSubs op)
    && decide (blkParam w + sh.2.1 ≤ 65536) && decide (blkState w + sh.2.2 ≤ 32768)
    && ((op != 8 && op != 9) || f (blkA w) == f (blkDst w))
    && (op != 10 || (wrapN 32 (par (blkParam w)) &&& 0xFFFFFCC8 == 0
        && decide (blkA w + dims.2.1 ≤ 32) && decide (blkDst w + dims.2.2 ≤ 32)
        && (List.range dims.2.1).all (fun j => f (blkA w + j) == f (blkA w))))
    && (op != 11 || (decide (0 ≤ par (blkParam w + 1)) && decide (par (blkParam w + 1) ≤ 24)))

end Sys2Proof.Machine
end

