-- ==== Sys2Proof/Machine/TimeBase.lean ====
section
/-! DEFINITION. Sys2Proof/Machine/TimeBase.lean: the counts of TB0-TB3, the offset D, switches of TB3, the time-loss condition,
steps (R384-R388, R395, R398-R401). -/

namespace Sys2Proof.Machine

/-- A time-base part of the state changed by a function. -/
def State.onTime (s : State) (f : TimeSt → TimeSt) : State := { s with time := f s.time }

/-- A 64-bit number held in a register pair, written. -/
def State.setPair (s : State) (lo hi v : Nat) : State :=
  (s.wr lo (BitVec.ofNat 32 v)).wr hi (BitVec.ofNat 32 (v / 2 ^ 32))

/-- The 64-bit count of base n, n = 0-2 (R386). -/
def State.tbCount (s : State) (n : Nat) : Nat := s.pair (R.TB_FRAC n) (R.TB_NS n)

/-- The base that TB3 follows. -/
def State.follow (s : State) : Nat := s.fld R.TB3_STAT F.TB3_STAT_FOLLOW

/-- D (R398). [DEDUCED: log 73] -/
def State.tbD (s : State) : Int := sx 64 (s.pair R.TB3_D_LO R.TB3_D_HI)

/-- The 64-bit count of TB3: TB_f + D (R398). [DEDUCED: log 73] -/
def State.tb3Count (s : State) : Nat := wrapN 64 ((s.tbCount s.follow : Int) + s.tbD)

/-- The integer nanoseconds of TB3. -/
def State.tb3 (s : State) : Nat := s.tb3Count / 2 ^ 32

/-- The integer nanoseconds of a base. -/
def State.tbNs (s : State) (n : Nat) : Nat := if n = 3 then s.tb3 else (s.rd (R.TB_NS n)).toNat

/-- (s32)(TB3 - t) ≥ 0 (R351, R389, R403). -/
def State.tb3Past (s : State) (t : Nat) : Bool := decide (0 ≤ sx 32 (s.tb3 + 2 ^ 32 - t % 2 ^ 32))

/-- D written; SLEWING shows whether it is 0. -/
def State.setD (s : State) (d : Int) : State :=
  (s.setPair R.TB3_D_LO R.TB3_D_HI (wrapN 64 d)).setFld R.TB3_STAT F.TB3_STAT_SLEWING (b2n (d != 0))

/-- R399: TB3 switches to base o without a step. -/
def State.switchTb3 (s : State) (o : Nat) : State :=
  let d := wrapS 64 ((s.tb3Count : Int) - s.tbCount o)
  ((s.setFld R.TB3_STAT F.TB3_STAT_FOLLOW o).setD d).incFld R.TB3_STAT F.TB3_STAT_SWITCHES 1

/-- Codes of R395. -/
def tbOff : Nat := 0
def tbAcquire : Nat := 1
def tbLocking : Nat := 2
def tbLocked : Nat := 3
def tbHoldover : Nat := 4

/-- MASTER_OK of a base. -/
def State.masterOk (s : State) (n : Nat) : Bool := s.bit (R.TB_STAT n) F.TB_STAT_MASTER_OK

/-- R399, the second case: the base TB3 follows has no master while the other is LOCKED. [DEDUCED: log 75] -/
def State.autoSwitch (s : State) : State :=
  let f := s.follow
  if !s.masterOk f && s.fld (R.TB_STAT (1 - f)) F.TB_STAT_STATE == tbLocked then s.switchTb3 (1 - f) else s

/-- R399, R401: the automatic switch of TB3 and the time-loss condition, after a change of a base's state. -/
def State.timeSettle (s : State) : State :=
  let s := s.autoSwitch
  let lost := !s.masterOk 0 && !s.masterOk 1
  let was := s.bit R.TIME_STAT F.TIME_STAT_NOTIME
  let s := s.setFld R.TIME_STAT F.TIME_STAT_NOTIME (b2n lost)
  if lost && !was then s.raiseDoubt 0x232 else s.settle

/-- The state of a base's source (R395), with MASTER_OK. -/
def State.setTbState (s : State) (n st : Nat) : State :=
  ((s.setFld (R.TB_STAT n) F.TB_STAT_STATE st).setFld (R.TB_STAT n) F.TB_STAT_MASTER_OK
    (b2n (st == tbLocking || st == tbLocked))).timeSettle

/-- R388, R400: base n stepped by v nanoseconds; TB3 steps with the base it follows, D unchanged. -/
def State.stepBase (s : State) (n : Nat) (v : Int) : State :=
  s.wr (R.TB_NS n) (BitVec.ofNat 32 (wrapN 32 ((s.rd (R.TB_NS n)).toNat + v)))

/-- One CK_S cycle of the bases (R386, R398); TB3 switches by itself in a cycle in which R399 asks for it. [DESIGN CHOICE: log 3] -/
def State.tickBases (s : State) : State :=
  let grow (s : State) (n : Nat) (by_ : Int) : State :=
    s.setPair (R.TB_FRAC n) (R.TB_NS n) (wrapN 64 ((s.tbCount n : Int) + by_))
  let rate (n : Nat) : Int := (((s.rd (R.TB_INCR n)).toNat : Int) + (s.rd (R.TB_CORR n)).toInt) * 4
  let d := s.tbD
  let m := min (s.fld R.TB3_SLEW F.TB3_SLEW_SLEW) 536870
  let s := ((grow s 0 (rate 0))).setPair (R.TB_FRAC 2) (R.TB_NS 2) ((s.tbCount 2 + 0xA0000000 * 4) % 2 ^ 64)
  let s := grow s 1 (rate 1)
  let s := if d = 0 then s else s.setD (if 0 < d then max (d - m) 0 else min (d + m) 0)
  s.autoSwitch

/-! ### The queues of the control ports (R370, R402) -/

/-- A control port's data. -/
def State.port (s : State) (p : Nat) : CpSt := FMap.get ⟨[], [], none, none, 0, [], 0, 0, 0, 0, false⟩ s.time.ports p

/-- A control port's data changed by a function. -/
def State.onPort (s : State) (p : Nat) (f : CpSt → CpSt) : State :=
  s.onTime (fun t => { t with ports := FMap.set ⟨[], [], none, none, 0, [], 0, 0, 0, 0, false⟩ t.ports p (f (s.port p)) })

end Sys2Proof.Machine
end

