-- ==== Sys2Proof/Machine/Loop.lean ====
section
/-! DEFINITION. Sys2Proof/Machine/Loop.lean: the loop engine: its memories, groups, boundaries, lanes, latches, templates,
mailboxes, trace (R350-R383). -/

namespace Sys2Proof.Machine

/-- The loop engine's part of the state changed by a function. -/
def State.onLe (s : State) (f : LeSt → LeSt) : State := { s with eng := f s.eng }

/-- Whether a requester's write reaches the island's register blocks (R266): the PF's or the management port's, and not while the
island is in reset (R510). [DEDUCED: log 77] -/
def State.mayIsl (s : State) (req : Nat) : Bool := (req == 0 || req == 5) && !s.pwr.isl

/-! ### Loop memory (R353, R355) -/

/-- The word at a byte address of the loop memories. [DESIGN CHOICE: log 8] -/
def State.leWord (s : State) (a : Nat) : Word := FMap.get 0#32 s.eng.mem (a / 4)

/-- A word of the loop memories written. -/
def State.lePut (s : State) (a : Nat) (v : Word) : State := s.onLe (fun e => { e with mem := FMap.set 0#32 e.mem (a / 4) v })

/-- The entries of a table of n-byte entries from `base`, `count` of them, whose first word has VALID set, ascending. -/
def State.leValid (s : State) (base n count : Nat) : List Nat :=
  (s.eng.mem.filter (fun p => decide (base ≤ 4 * p.1) && decide (4 * p.1 < base + n * count) && (4 * p.1 - base) % n == 0
    && bitOf p.2.toNat 31)).map (fun p => (4 * p.1 - base) / n)

/-- Word k of the descriptor of loop j. -/
def State.loopW (s : State) (j k : Nat) : Nat := (s.leWord (0xA0000 + 64 * j + 4 * k)).toNat

/-- The slots in use. -/
def State.loops (s : State) : List Nat := s.leValid 0xA0000 64 1024

def State.loopUsed (s : State) (j : Nat) : Bool := bitOf (s.loopW j 0) 31
def State.loopGroup (s : State) (j : Nat) : Nat := bitsOf (s.loopW j 0) 29 24
def State.loopLane (s : State) (j : Nat) : Nat := bitsOf (s.loopW j 0) 23 20
def State.loopDd (s : State) (j : Nat) : Nat := bitsOf (s.loopW j 0) 15 0

/-- F[x] of loop j. -/
def State.loopF (s : State) (j x : Nat) : Nat := bitsOf (s.loopW j (3 + x / 6)) (5 * (x % 6) + 4) (5 * (x % 6))

/-- Block word i of the program memory. -/
def State.progWord (s : State) (i : Nat) : Nat :=
  if i < 16384 then (s.leWord (8 * i)).toNat + 2 ^ 32 * (s.leWord (8 * i + 4)).toNat else 0

/-- First block word and length of the primary program (k = 1) or the fallback program (k = 2). -/
def State.progOf (s : State) (j k : Nat) : Nat × Nat := (bitsOf (s.loopW j k) 31 18, bitsOf (s.loopW j k) 17 12 + 1)

/-- The blocks of a program. -/
def State.blocksOf (s : State) (r : Nat × Nat) : List Nat := (List.range r.2).map (fun i => s.progWord (r.1 + i))

/-- The programs of a loop. -/
def State.progsOf (s : State) (j : Nat) : List (Nat × Nat) :=
  s.progOf j 1 :: (if bitOf (s.loopW j 2) 11 then [s.progOf j 2] else [])

/-- Parameter word i. -/
def State.leParam (s : State) (i : Nat) : Int := if i < 65536 then (s.leWord (0x20000 + 4 * i)).toInt else 0

/-- State word i. -/
def State.leState (s : State) (i : Nat) : Int :=
  if i < 32768 then sx 64 ((s.leWord (0x60000 + 8 * i)).toNat + 2 ^ 32 * (s.leWord (0x60004 + 8 * i)).toNat) else 0

/-- The links of loop j: source signal, destination loop, destination signal (R355, R365). -/
def State.linksOf (s : State) (j : Nat) : List (Nat × Nat × Nat) :=
  (([11, 12, 13, 14].map (fun k => s.loopW j k)).filter (fun w => bitOf w 31)).map
    (fun w => (bitsOf w 30 26, bitsOf w 25 16, bitsOf w 15 11))

/-- Signal x of loop j. -/
def State.sigOf (s : State) (j x : Nat) : Word := FMap.get 0#32 s.eng.sig (32 * j + x)

/-- A signal written. -/
def State.setSig (s : State) (j x : Nat) (v : Word) : State :=
  s.onLe (fun e => { e with sig := FMap.set 0#32 e.sig (32 * j + x) v })

/-! ### Latches (R365, R366, R368, R371) -/

/-- What a latch in the current cycle takes: a value completed in it is taken at the following boundary. [DESIGN CHOICE: log 66] -/
def Latch.seen (l : Latch) (now : Nat) : Word := if l.since = now then l.old else l.new

/-- A value completed in the current cycle. [DESIGN CHOICE: log 66] -/
def Latch.put (l : Latch) (now : Nat) (v : Word) : Latch := ⟨if l.since = now then l.old else l.new, v, now⟩

/-- The value of latch k of a table in the current cycle. -/
def State.latchOf (s : State) (m : FMap Latch) (k : Nat) : Word := (FMap.get ⟨0#32, 0#32, 0⟩ m k).seen s.now

/-- A value put into latch k of a table. -/
def latchPut (m : FMap Latch) (now k : Nat) (v : Word) : FMap Latch :=
  FMap.set ⟨0#32, 0#32, 0⟩ m k ((FMap.get ⟨0#32, 0#32, 0⟩ m k).put now v)

/-- Map entry i of mailbox m (R371). -/
def State.mbMap (s : State) (m i : Nat) : Nat := (s.leWord (0xC9000 + 16 * m + 2 * i)).toNat / 2 ^ (16 * (i % 2)) % 2 ^ 16

/-- The valid map entries: (mailbox, value, loop, signal). -/
def State.mbMaps (s : State) : List (Nat × Nat × Nat × Nat) :=
  let ks := (s.eng.mem.filter (fun p => decide (0xC9000 ≤ 4 * p.1) && decide (4 * p.1 < 0xCA000))).flatMap
    (fun p => [(4 * p.1 - 0xC9000) / 2, (4 * p.1 - 0xC9000) / 2 + 1])
  ((ks.map (fun h => (h / 8, h % 8, s.mbMap (h / 8) (h % 8)))).filter (fun e => bitOf e.2.2 15)).map
    (fun e => (e.1, e.2.1, bitsOf e.2.2 14 5, bitsOf e.2.2 4 0))

/-- Word k of field entry e (R368). -/
def State.fieldW (s : State) (e k : Nat) : Nat := (s.leWord (0xB1000 + 8 * e + 4 * k)).toNat

/-- The valid field entries. -/
def State.fieldEntries (s : State) : List Nat := s.leValid 0xB1000 8 2048

/-- The latch sources of loop j: the signal, and the value it latches in the current cycle; none for a mailbox value beyond
NVAL. -/
def State.sources (s : State) (j : Nat) : List (Nat × Option Word) :=
  ((s.fieldEntries.filter (fun e => bitOf (s.fieldW e 1) 31 && bitsOf (s.fieldW e 1) 25 16 == j)).map
      (fun e => (bitsOf (s.fieldW e 1) 15 11, some (s.latchOf s.eng.fields e))))
    ++ ((s.mbMaps.filter (fun e => e.2.2.1 == j)).map (fun e => (e.2.2.2,
        if e.2.1 < s.fld (R.MB_CFG e.1) F.MB_CFG_NVAL then some (s.latchOf s.eng.boxes (8 * e.1 + e.2.1)) else none)))
    ++ ((s.loops.flatMap (fun i => s.linksOf i)).filter (fun l => l.2.1 == j)).map
        (fun l => (l.2.2, some (s.latchOf s.eng.links (32 * j + l.2.2))))

/-- The latch of a boundary. [DESIGN CHOICE: log 66] -/
def State.latchLoop (s : State) (j : Nat) : State :=
  s.each (s.sources j) (fun s e => match e.2 with
    | some v => s.setSig j e.1 v
    | none => s)

/-! ### Groups (R361-R363, R379, R382) -/

def grOff : Nat := 0
def grOn : Nat := 1
def grDraining : Nat := 2
def grChecking : Nat := 3

/-- The state of group g. -/
def State.grp (s : State) (g : Nat) : Nat := s.fld (R.GRP_STAT g) F.GRP_STAT_STATE

/-- N of group g. -/
def State.grpN (s : State) (g : Nat) : Nat := s.fld (R.GRP_CFG g) F.GRP_CFG_NM1 + 1

/-- The loops of group g, ascending. -/
def State.loopsOf (s : State) (g : Nat) : List Nat := s.loops.filter (fun j => s.loopGroup j == g)

/-- Whether a loop's slot is in use by a group that is not OFF. -/
def State.loopBusy (s : State) (j : Nat) : Bool := s.loopUsed j && s.grp (s.loopGroup j) != grOff

/-- Whether a descriptor uses a reserved field or a value outside its range (R361). -/
def State.descReserved (s : State) (j : Nat) : Bool :=
  let w := s.loopW j
  bitOf (w 0) 30 || bitsOf (w 0) 19 16 != 0 || bitsOf (w 1) 11 0 != 0 || bitsOf (w 2) 10 0 != 0
    || [3, 4, 5, 6, 7].any (fun k => bitsOf (w k) 31 30 != 0) || bitsOf (w 8) 31 10 != 0 || bitsOf (w 9) 9 0 != 0
    || [11, 12, 13, 14].any (fun k => bitsOf (w k) 10 0 != 0) || w 15 != 0
    || (bitOf (w 9) 31 && (bitsOf (w 9) 17 10 == 0 || bitOf (w 10) 31))

/-- Whether a list has no repeats. -/
def distinct : List Nat → Bool
  | [] => true
  | x :: xs => !xs.contains x && distinct xs

/-- R361: the checks of one loop. [DEDUCED: log 67] -/
def State.loopOk (s : State) (j : Nat) : Bool :=
  let blocks := (s.progsOf j).flatMap s.blocksOf
  let targets := (s.sources j).map (·.1)
  !s.descReserved j && (s.loopDd j == 0 || bitOf (s.loopW j 2) 11)
    && (s.progsOf j).all (fun r => decide (r.1 + r.2 ≤ 16384))
    && blocks.all (blkOk (s.loopF j) s.leParam)
    && distinct targets
    && targets.all (fun x => !(blocks.any (fun w => (blkWrites s.leParam w).contains x)))

/-- R365: whether a link from a loop of group gs to loop d is accepted. [DEDUCED: log 67] -/
def State.linkOk (s : State) (gs d : Nat) : Bool :=
  let ns := s.grpN gs
  let nd := s.grpN (s.loopGroup d)
  s.loopUsed d && ns % nd == 0 && decide (2 ≤ ns / nd) && decide (ns / nd ≤ 256)
    && s.fld (R.GRP_CFG gs) F.GRP_CFG_PHASE % nd == s.fld (R.GRP_CFG (s.loopGroup d)) F.GRP_CFG_PHASE

/-- The templates of group g, ascending (R369). -/
def State.templatesOf (s : State) (g : Nat) : List Nat :=
  (s.leValid 0xC5000 64 256).filter (fun t => bitsOf (s.leWord (0xC5000 + 64 * t)).toNat 26 21 == g)

/-- Word k of the control entry of template t. -/
def State.tplW (s : State) (t k : Nat) : Nat := (s.leWord (0xC5000 + 64 * t + 4 * k)).toNat

/-- R369: the checks of one template of group g. [DEDUCED: log 67] -/
def State.templateOk (s : State) (g t : Nat) : Bool :=
  let len := bitsOf (s.tplW t 0) 8 0
  bitsOf (s.tplW t 0) 20 9 == 0 && decide (60 ≤ len) && decide (len ≤ 256)
    && (List.range 15).all (fun i =>
      let x := s.tplW t (i + 1)
      !bitOf x 31 || (bitsOf x 30 29 != 3 && bitsOf x 28 27 != 3 && bitsOf x 10 8 == 0
        && (bitsOf x 30 29 != 0 || (s.loopsOf g).contains (bitsOf x 25 16))
        && decide (bitsOf x 7 0 + 2 ^ bitsOf x 28 27 ≤ len)))

/-- R361, R365, R369: the checks of a group enable, but for R363. [DEDUCED: log 67] -/
def State.groupOk (s : State) (g : Nat) : Bool :=
  decide (s.fld (R.GRP_CFG g) F.GRP_CFG_NM1 ≤ 639)
    && decide (s.fld (R.GRP_CFG g) F.GRP_CFG_PHASE < s.grpN g)
    && (s.loopsOf g).all s.loopOk
    && s.loops.all (fun i => (s.linksOf i).all (fun l =>
        (s.loopGroup i != g && !(s.loopsOf g).contains l.2.1) || s.linkOk (s.loopGroup i) l.2.1))
    && (s.templatesOf g).all (s.templateOk g)

/-- The cost of a loop: the larger of its programs (R359, R363). -/
def State.loopCost (s : State) (j : Nat) : Nat :=
  (s.progsOf j).foldl (fun m r => max m (progCost s.leParam (s.blocksOf r))) 0

/-- R363: whether the groups that are ON, DRAINING or CHECKING can be scheduled; B is taken over their loops. [DEDUCED: log 67] -/
def State.schedulable (s : State) : Bool :=
  let gs := (List.range 64).filter (fun g => s.grp g != grOff)
  let js := gs.flatMap s.loopsOf
  (List.range 16).all (fun l =>
    let mine := js.filter (fun j => s.loopLane j == l)
    let b := mine.foldl (fun m j => max m (s.loopCost j)) 0
    let terms := gs.map (fun g =>
      (((mine.filter (fun j => s.loopGroup j == g)).map s.loopCost).foldl (· + ·) 0, s.grpN g * 6250 - (100 + b)))
    terms.all (fun t => t.1 == 0 || t.2 != 0)
      && decide ((terms.map (fun t => if t.1 = 0 then 0 else ceilDiv (t.1 * 2 ^ 32) t.2)).foldl (· + ·) 0 ≤ 2 ^ 32))

/-- A group is rejected (R361). -/
def State.rejectGroup (s : State) (g : Nat) : State :=
  ((s.setFld (R.GRP_STAT g) F.GRP_STAT_STATE grOff).setFld (R.GRP_CFG g) F.GRP_CFG_EN 0).setBit (R.GRP_STAT g) F.GRP_STAT_CFG_REJECT

/-- The loops of a group leave their lanes with nothing committed. [DEDUCED: log 68] -/
def State.dropLoops (s : State) (g : Nat) : State :=
  s.onLe (fun e => { e with
    ready := e.ready.filter (fun r => r.group != g)
    lanes := e.lanes.filter (fun r => match r.2 with
      | some x => x.group != g
      | none => true) })

/-- One insert's bytes, of a map of copies, put into another. -/
def copyInsert (src dst : FMap (Option (List Byte))) (k : Nat) : FMap (Option (List Byte)) :=
  FMap.set none dst k (FMap.get none src k)

/-- The inserts of template t, as keys of the copies. -/
def insertKeys (t : Nat) : List Nat := (List.range 15).map (fun i => 16 * t + i + 1)

/-- Pending outputs of group g are discarded: the staging copies of its templates go back to the transmit copies. [DEDUCED: log 68] -/
def State.dropOutputs (s : State) (g : Nat) : State :=
  s.onLe (fun e => { e with inserts := ((s.templatesOf g).flatMap insertKeys).foldl (copyInsert e.out) e.inserts })

/-- R379: a group shows OFF; pending outputs are discarded. -/
def State.groupOff (s : State) (g : Nat) : State :=
  (((s.setFld (R.GRP_STAT g) F.GRP_STAT_STATE grOff).setFld (R.GRP_CFG g) F.GRP_CFG_EN 0).dropLoops g).dropOutputs g

/-- A write of GRPg_CFG (R318, R361, R379, R382). -/
def State.writeGrp (s : State) (g : Nat) (v : Word) : State :=
  let st := s.grp g
  let en := isSet v F.GRP_CFG_EN
  if en && st == grDraining then s.setBit (R.GRP_STAT g) F.GRP_STAT_CFG_REJECT
  else
    let s := if st = grOff then
        (s.setFld (R.GRP_CFG g) F.GRP_CFG_NM1 (getF v F.GRP_CFG_NM1)).setFld (R.GRP_CFG g) F.GRP_CFG_PHASE (getF v F.GRP_CFG_PHASE)
      else s
    let s := s.setFld (R.GRP_CFG g) F.GRP_CFG_FORCE (getF v F.GRP_CFG_FORCE)
    if en then
      if st != grOff then s
      else if s.groupOk g then
        ((s.setBit (R.GRP_CFG g) F.GRP_CFG_EN).setFld (R.GRP_STAT g) F.GRP_STAT_STATE grChecking).onLe
          (fun e => { e with started := FMap.set false e.started g false })
      else s.rejectGroup g
    else if st = grOff then s
    else if isSet v F.GRP_CFG_FORCE || st == grChecking then s.groupOff g
    else if st = grOn then (s.setFld (R.GRP_CFG g) F.GRP_CFG_EN 0).setFld (R.GRP_STAT g) F.GRP_STAT_STATE grDraining
    else s

/-- GROUP_ENABLE (R361). [DEDUCED: log 67] -/
def execGroupEnable (req g : Nat) (v : Word) (s : State) : Host.Outcome State Fault Refusal :=
  ok (if s.mayIsl req && decide (g < 64) then s.writeGrp g (setF v F.GRP_CFG_EN 1) else s)

/-- GROUP_CHECK_END (R363). [DEDUCED: log 67] -/
def execGroupCheckEnd (g : Nat) (s : State) : Host.Outcome State Fault Refusal :=
  ok (if g < 64 ∧ s.grp g = grChecking then
      if s.schedulable then s.setFld (R.GRP_STAT g) F.GRP_STAT_STATE grOn else s.rejectGroup g
    else s)

/-- GROUP_DRAIN (R379). -/
def execGroupDrain (req g : Nat) (s : State) : Host.Outcome State Fault Refusal :=
  ok (if s.mayIsl req && decide (g < 64) then
      s.writeGrp g (setF (setF (s.rd (R.GRP_CFG g)) F.GRP_CFG_EN 0) F.GRP_CFG_FORCE 0)
    else s)

/-- GROUP_FORCED_DISABLE (R379). -/
def execGroupForcedDisable (req g : Nat) (s : State) : Host.Outcome State Fault Refusal :=
  ok (if s.mayIsl req && decide (g < 64) then
      s.writeGrp g (setF (setF (s.rd (R.GRP_CFG g)) F.GRP_CFG_EN 0) F.GRP_CFG_FORCE 1)
    else s)

/-! ### Enable, parameters (R351, R354, R381) -/

/-- A write of LE_CTRL. -/
def State.writeLeCtrl (s : State) (v : Word) : State :=
  let s := if isSet v F.LE_CTRL_PCOMMIT then s.setBit R.LE_STAT F.LE_STAT_PPEND else s
  let on := s.bit R.LE_CTRL F.LE_CTRL_EN
  if isSet v F.LE_CTRL_EN && !on then
    let epoch := (s.rd R.LE_EPOCH).toNat
    if sx 32 (epoch + 2 ^ 32 - s.tb3) ≤ 0 then s.setBit R.LE_STAT F.LE_STAT_CFG_REJECT
    else
      (((s.setBit R.LE_CTRL F.LE_CTRL_EN).setBit R.LE_STAT F.LE_STAT_RUN).setPair R.LE_TICK_LO R.LE_TICK_HI 0).onLe
        (fun e => { e with next := epoch })
  else if !isSet v F.LE_CTRL_EN && on then
    let s := (s.setFld R.LE_CTRL F.LE_CTRL_EN 0).setFld R.LE_STAT F.LE_STAT_RUN 0
    s.each ((List.range 64).filter (fun g => s.grp g != grOff)) (fun s g => s.groupOff g)
  else s

/-- LE_ENABLE (R351). -/
def execLeEnable (req : Nat) (s : State) : Host.Outcome State Fault Refusal :=
  ok (if s.mayIsl req then s.writeLeCtrl (mkF F.LE_CTRL_EN 1) else s)

/-- LE_DISABLE (R381). -/
def execLeDisable (req : Nat) (s : State) : Host.Outcome State Fault Refusal :=
  ok (if s.mayIsl req then s.writeLeCtrl 0#32 else s)

/-- PCOMMIT (R354). [DEDUCED: log 70] -/
def execPcommit (req : Nat) (s : State) : Host.Outcome State Fault Refusal :=
  ok (if s.mayIsl req then s.writeLeCtrl (setF (s.rd R.LE_CTRL) F.LE_CTRL_PCOMMIT 1) else s)

/-- LE_RESTORE (R375): applied at the loop's next boundary. -/
def execLeRestore (req j : Nat) (s : State) : Host.Outcome State Fault Refusal :=
  ok (if s.mayIsl req && decide (j < 1024) then s.onLe (fun e => { e with restore := FMap.set false e.restore j true }) else s)

/-! ### The memory window (R353, R354) -/

/-- Whether loop j's program words, descriptor or state words hold the word at address a (R354). -/
def State.loopReaches (s : State) (j a : Nat) : Bool :=
  let rs := s.progsOf j
  if a < 0x20000 then rs.any (fun r => decide (r.1 ≤ a / 8) && decide (a / 8 < r.1 + r.2))
  else if 0xA0000 ≤ a then (a - 0xA0000) / 64 == j
  else (rs.flatMap s.blocksOf).any (fun w => decide (blkState w ≤ (a - 0x60000) / 8)
    && decide ((a - 0x60000) / 8 < blkState w + (blkShape s.leParam w).2.2))

/-- R354: whether a write of v at address a is discarded with CFG_REJECT. [DEDUCED: log 67] -/
def State.leBarred (s : State) (a : Nat) (v : Word) : Bool :=
  let takes (g : Nat) : Bool := bitOf v.toNat 31 && s.grp g != grOff
  if a < 0x20000 ∨ (0x60000 ≤ a ∧ a < 0xB0000) then
    (s.loops.filter s.loopBusy).any (fun j => s.loopReaches j a)
      || (decide (0xA0000 ≤ a) && a % 64 == 0 && takes (bitsOf v.toNat 29 24))
  else if 0xB0000 ≤ a ∧ a < 0xB1000 then s.bit R.LE_CTRL F.LE_CTRL_EN
  else if 0xB1000 ≤ a ∧ a < 0xB5000 then
    let e := (a - 0xB1000) / 8
    (bitOf (s.fieldW e 1) 31 && s.loopBusy (bitsOf (s.fieldW e 1) 25 16))
      || (a % 8 == 4 && bitOf v.toNat 31 && s.loopBusy (bitsOf v.toNat 25 16))
  else if 0xB5000 ≤ a ∧ a < 0xC9000 then
    let t := if a < 0xC5000 then (a - 0xB5000) / 256 else (a - 0xC5000) / 64
    (bitOf (s.tplW t 0) 31 && s.grp (bitsOf (s.tplW t 0) 26 21) != grOff)
      || (a == 0xC5000 + 64 * t && takes (bitsOf v.toNat 26 21))
  else if 0xC9000 ≤ a ∧ a < 0xCA000 then s.bit (R.MB_CFG ((a - 0xC9000) / 16)) F.MB_CFG_EN
  else decide (0x100000 ≤ a) && decide (a < 0x180000)

/-- R424: whether an input-field entry is named by an enabled comparator under SAFE_LOCK. [DEDUCED: log 71] -/
def State.fieldLocked (s : State) (a : Nat) : Bool :=
  s.bit R.SAFE_LOCK F.SAFE_LOCK_LOCK && decide (0xB1000 ≤ a) && decide (a < 0xB5000)
    && (List.range 64).any (fun k => s.bit (R.TC_CFG k) F.TC_CFG_EN && s.fld (R.TC_CFG k) F.TC_CFG_FIELD == (a - 0xB1000) / 8)

/-- A write through LE_MEMDATA at address a. [DEDUCED: log 70] -/
def State.leWrite (s : State) (a : Nat) (v : Word) : State :=
  if s.fieldLocked a then s.setBit R.TRIP_FAULT F.TRIP_FAULT_CFG_REJECT
  else if s.leBarred a v then s.setBit R.LE_STAT F.LE_STAT_CFG_REJECT
  else if 0x20000 ≤ a ∧ a < 0x60000 then
    if (FMap.get none s.eng.staged (a / 4)).isSome || decide (s.eng.staged.length < 256) then
      s.onLe (fun e => { e with staged := FMap.set none e.staged (a / 4) (some v) })
    else s.setBit R.LE_STAT F.LE_STAT_CFG_REJECT
  else if a < 0xCA000 then
    let s := s.lePut a v
    if 0xC5000 ≤ a ∧ a < 0xC9000 then
      s.onLe (fun e => { e with inserts := FMap.set none e.inserts ((a - 0xC5000) / 4) none })
    else s
  else s

/-- A read through LE_MEMDATA at address a. -/
def State.leRead (s : State) (a : Nat) : Word :=
  if a < 0xCA000 ∨ (0x100000 ≤ a ∧ a < 0x180000) then s.leWord a else 0#32

/-- LE_MEMDATA is read (`none`) or written; LE_MEMADDR then advances (R381). -/
def State.memData (s : State) (w : Option Word) : State :=
  let a := 4 * s.fld R.LE_MEMADDR F.LE_MEMADDR_ADDR
  let s := match w with
    | some v => s.leWrite a v
    | none => { s with lastRead := [s.leRead a] }
  s.setFld R.LE_MEMADDR F.LE_MEMADDR_ADDR (a / 4 + 1)

/-- LE_MEMDATA_ACCESS (R354). -/
def execLeMemdataAccess (req : Nat) (w : Option Word) (s : State) : Host.Outcome State Fault Refusal :=
  ok (if s.mayIsl req then s.memData w
    else match w with
      | some _ => s
      | none => { s with lastRead := [0#32] })

/-! ### Templates (R369, R370) -/

/-- A number in the byte order of an insert or field: least significant byte first where `le_`. -/
def orderBytes (n v : Nat) (le_ : Bool) : List Byte := if le_ then leBytes n v else beBytes n v

/-- Bytes laid over a list from an offset on. -/
def overlay (l : List Byte) (off : Nat) (bs : List Byte) : List Byte :=
  if off + bs.length ≤ l.length then l.take off ++ bs ++ l.drop (off + bs.length) else l

/-- Commits of loop j write the staging copies; a saturated value sets SAT (R369). -/
def State.stageLoop (s : State) (g j : Nat) : State :=
  s.each (s.templatesOf g) (fun s t => s.each (List.range 15) (fun s i =>
    let x := s.tplW t (i + 1)
    if bitOf x 31 && bitsOf x 30 29 == 0 && bitsOf x 25 16 == j then
      let n := 2 ^ bitsOf x 28 27
      let v := (s.sigOf j (bitsOf x 15 11)).toInt
      let y := satS (8 * n) v
      let s := if y = v then s else s.setBit (R.LOOP_FLAGS j) F.LOOP_FLAGS_SAT
      let b := orderBytes n (wrapN (8 * n) y) (bitOf x 26)
      s.onLe (fun e => { e with inserts := FMap.set none e.inserts (16 * t + i + 1) (some b) })
    else s))

/-- R370: template t is released at a boundary: its staging copy becomes the transmit copy. [DEDUCED: log 68] -/
def State.releaseTemplate (s : State) (t : Nat) : State :=
  let w0 := s.tplW t 0
  let seq := (FMap.get 0 s.eng.seqs t + 1) % 2 ^ 16
  let s := s.onLe (fun e => { e with
    seqs := FMap.set 0 e.seqs t seq
    out := (insertKeys t).foldl (copyInsert e.inserts) e.out })
  let base := (List.range 64).flatMap (fun i => leBytes 4 (s.leWord (0xB5000 + 256 * t + 4 * i)).toNat)
  let put (fr : List Byte) (i : Nat) : List Byte :=
    let x := s.tplW t (i + 1)
    let n := 2 ^ bitsOf x 28 27
    if !bitOf x 31 then fr
    else
      match bitsOf x 30 29 with
      | 0 => (match FMap.get none s.eng.out (16 * t + i + 1) with
        | some b => overlay fr (bitsOf x 7 0) b
        | none => fr)
      | 1 => overlay fr (bitsOf x 7 0) (orderBytes n seq (bitOf x 26))
      | 2 => overlay fr (bitsOf x 7 0) (orderBytes n s.tb3 (bitOf x 26))
      | _ => fr
  let fr := (List.range 15).foldl put (base.take (bitsOf w0 8 0))
  s.onPort (bitsOf w0 30 30) (fun p => { p with queue := p.queue ++ [⟨bitsOf w0 29 27, fr⟩] })

/-! ### Oscillation (R373) -/

/-- The count of changes over the last W periods. -/
def OscSt.count (o : OscSt) : Nat := (o.hist.filter id).length

/-- The detector of loop j. -/
def State.oscOf (s : State) (j : Nat) : OscSt := FMap.get ⟨0, [], false⟩ s.eng.osc j

/-- It changed. -/
def State.setOsc (s : State) (j : Nat) (o : OscSt) : State :=
  s.onLe (fun e => { e with osc := FMap.set ⟨0, [], false⟩ e.osc j o })

/-- A period of loop j begins. -/
def State.oscPeriod (s : State) (j : Nat) (fresh : Bool) : State :=
  let o : OscSt := if fresh then ⟨0, [], false⟩ else s.oscOf j
  let o := { o with hist := (false :: o.hist).take (bitsOf (s.loopW j 9) 25 18 + 1) }
  s.setOsc j { o with high := o.high && decide (bitsOf (s.loopW j 9) 17 10 ≤ o.count) }

/-- The test of a commit of loop j. -/
def State.oscTest (s : State) (j : Nat) : State :=
  let w := s.loopW j 9
  if !bitOf w 31 then s
  else
    let e := (s.sigOf j (bitsOf w 30 26)).toInt
    let a := sx 32 (s.loopW j 10)
    let o := s.oscOf j
    let up := decide (a ≤ e) && decide (o.r ≤ 0)
    let down := decide (e ≤ -a) && decide (0 ≤ o.r)
    let change := if up then decide (o.r < 0) else down && decide (0 < o.r)
    let o := { o with
      r := if up then 1 else if down then -1 else o.r
      hist := if change then true :: o.hist.drop 1 else o.hist }
    let high := decide (bitsOf w 17 10 ≤ o.count)
    let s := s.setOsc j { o with high := high }
    if high && !o.high then
      ((s.setBit (R.LOOP_FLAGS j) F.LOOP_FLAGS_OSC).raiseDoubt (0xC0 + s.loopGroup j)).onLe (fun e => { e with oscEv := true })
    else s

/-! ### Boundaries (R362, R364, R374, R375) -/

/-- R374, R375: the program of loop j is selected; FIRST holds in the first period of a program (R360). -/
def State.selectProgram (s : State) (j : Nat) (fresh : Bool) : State :=
  let hit := (s.loopDd j &&& s.domains) != 0
  let was := s.bit (R.LOOP_FLAGS j) F.LOOP_FLAGS_MODE
  let asked := FMap.get false s.eng.restore j
  let s := s.onLe (fun e => { e with restore := FMap.set false e.restore j false })
  let s := if asked && hit then s.setBit R.LE_STAT F.LE_STAT_RREF else s
  let mode := if hit then true else if asked then false else was
  (s.setFld (R.LOOP_FLAGS j) F.LOOP_FLAGS_MODE (b2n mode)).onLe
    (fun e => { e with first := FMap.set false e.first j (fresh || mode != was) })

/-- R370: the templates of the groups whose boundary it is, but for a first boundary, enter their queues, in ascending template
order over all of them. -/
def State.releaseDue (s : State) (gs : List Nat) : State :=
  let ts := (gs.filter (fun g => FMap.get false s.eng.started g)).flatMap s.templatesOf
  s.each ((List.range 256).filter (fun t => ts.contains t)) (fun s t => s.releaseTemplate t)

/-- A boundary of group g at tick k, after its templates' release. [DEDUCED: log 65, 68] -/
def State.boundary (s : State) (g k : Nat) : State :=
  let was := FMap.get false s.eng.started g
  if s.grp g = grDraining then s.groupOff g
  else
    let s := (s.dropLoops g).onLe (fun e => { e with started := FMap.set false e.started g true })
    let n := s.grpN g
    s.each (s.loopsOf g) (fun s j =>
      let s := ((s.oscPeriod j !was).latchLoop j).selectProgram j !was
      s.onLe (fun e => { e with ready := e.ready ++ [⟨k + n, g, j, s.now⟩] }))

/-! ### Lanes (R350, R362, R376) -/

/-- Whether a ready loop goes before another (R362). -/
def LoopReady.before (a b : LoopReady) : Bool :=
  decide (a.deadline < b.deadline) || (a.deadline == b.deadline && (decide (a.group < b.group)
    || (a.group == b.group && decide (a.loop < b.loop))))

/-- The first of a list of ready loops. -/
def firstReady : List LoopReady → Option LoopReady
  | [] => none
  | r :: rs => match firstReady rs with
    | none => some r
    | some q => if q.before r then some q else some r

/-- What loop j computes in a period (R360, R362). [DEDUCED: log 68] -/
def State.computeLoop (s : State) (g j : Nat) : LoopRun :=
  let prog := s.blocksOf (s.progOf j (if s.bit (R.LOOP_FLAGS j) F.LOOP_FLAGS_MODE then 2 else 1))
  let e : BlkEnv := ⟨s.loopF j, s.leParam, s.leState, FMap.get false s.eng.first j⟩
  let k := runBlocks e prog ⟨(List.range 32).map (fun x => (s.sigOf j x).toInt), [], false⟩
  ⟨g, j, k.s, k.w, k.sat, s.now + progCost s.leParam prog⟩

/-- LOOP_START (R362): an idle lane takes the first of its ready loops, no earlier than the cycle after the boundary. [DEDUCED: log 68] -/
def execLoopStart (l : Nat) (s : State) : Host.Outcome State Fault Refusal :=
  ok (if decide (l < 16) && (FMap.get none s.eng.lanes l).isNone then
      match firstReady (s.eng.ready.filter (fun r => s.loopLane r.loop == l && decide (r.since < s.now))) with
      | none => s
      | some r => s.onLe (fun e => { e with
          ready := e.ready.filter (fun q => q != r)
          lanes := FMap.set none e.lanes l (some (s.computeLoop r.group r.loop)) })
    else s)

/-- A trace channel records a sample (R377, R378). -/
def State.traceSample (s : State) (c : Nat) (v : Word) : State :=
  let w := s.fld (R.TRC_STAT c) F.TRC_STAT_WIDX
  let s := s.lePut (0x100000 + 8192 * c + 4 * w) v
  let s := s.setFld (R.TRC_STAT c) F.TRC_STAT_WIDX (w + 1)
  let s := s.onLe (fun e => { e with
    got := FMap.modify 0 e.got c (fun n => n + 1)
    after := if s.fld R.TR_CTRL F.TR_CTRL_STATE = 2 then FMap.modify 0 e.after c (fun n => n + 1) else e.after })
  if s.bit R.TR_CTRL F.TR_CTRL_STREAM && (w + 1) % 1024 == 0 then
    let run := (List.range 1024).flatMap (fun i => leBytes 4 (s.leWord (0x100000 + 8192 * c + 4 * (w / 1024 * 1024 + i))).toNat)
    s.onLe (fun e => { e with runs := e.runs ++ [run] })
  else s

/-- Whether channel c records (R377). -/
def State.tracing (s : State) (c : Nat) : Bool :=
  s.bit (R.TRC_CFG c) F.TRC_CFG_EN && (s.fld R.TR_CTRL F.TR_CTRL_STATE == 1
    || (s.fld R.TR_CTRL F.TR_CTRL_STATE == 2 && decide (FMap.get 0 s.eng.after c < s.fld R.TR_CTRL F.TR_CTRL_POST)))

/-- The commit of a loop: signals, state words, links, inserts, flags, trace samples (R362, R365, R370, R373, R377). -/
def State.commitLoop (s : State) (r : LoopRun) : State :=
  let j := r.loop
  let s := s.each (List.range 32) (fun s x => s.setSig j x (BitVec.ofInt 32 (nth 0 r.sig x)))
  let s := s.each r.st.reverse (fun s p =>
    if p.1 < 32768 then
      let v := wrapN 64 p.2
      (s.lePut (0x60000 + 8 * p.1) (BitVec.ofNat 32 v)).lePut (0x60004 + 8 * p.1) (BitVec.ofNat 32 (v / 2 ^ 32))
    else s)
  let s := s.each (s.linksOf j) (fun s l =>
    s.onLe (fun e => { e with links := latchPut e.links s.now (32 * l.2.1 + l.2.2) (s.sigOf j l.1) }))
  let s := if r.sat then s.setBit (R.LOOP_FLAGS j) F.LOOP_FLAGS_SAT else s
  let s := (s.stageLoop r.group j).oscTest j
  s.each ((List.range 64).filter (fun c => s.tracing c && s.fld (R.TRC_CFG c) F.TRC_CFG_LOOP == j)) (fun s c =>
    s.traceSample c (s.sigOf j (s.fld (R.TRC_CFG c) F.TRC_CFG_SIG)))

/-- LOOP_COMMIT (R362, R376): the loop on lane l has run its blocks; on a mismatch with the shadow lane the whole period is
discarded. [DEDUCED: log 68] -/
def execLoopCommit (l : Nat) (mismatch : Bool) (s : State) : Host.Outcome State Fault Refusal :=
  ok (match FMap.get none s.eng.lanes l with
    | none => s
    | some r =>
      if s.now < r.ends then s
      else
        let s := s.onLe (fun e => { e with lanes := FMap.set none e.lanes l none })
        if mismatch then
          let s := (s.setBit (R.LOOP_FLAGS r.loop) F.LOOP_FLAGS_LS).setFld R.LE_STAT F.LE_STAT_LSLANE
            (Machine.setBit (s.fld R.LE_STAT F.LE_STAT_LSLANE) l true)
          (s.raiseDoubt (0x210 + l)).onLe (fun e => { e with lockEv := true })
        else s.commitLoop r)

/-! ### Mailboxes (R371, R372, R382) -/

/-- Whether mailbox m's deadline has passed. -/
def State.mbLate (s : State) (m : Nat) : Bool := s.tb3Past (s.rd (R.MB_DEADLINE m)).toNat

/-- R372: an enabled mailbox whose deadline has passed becomes STALE. -/
def State.markStale (s : State) (m : Nat) : State :=
  if s.bit (R.MB_CFG m) F.MB_CFG_EN && !s.bit (R.MB_STAT m) F.MB_STAT_STALE && s.mbLate m then
    (s.setBit (R.MB_STAT m) F.MB_STAT_STALE).raiseDoubt (0x100 + m)
  else s

/-- MAILBOX_STALE (R372): the marking of one mailbox in the cycle of a base tick. [DEDUCED: log 71] -/
def execMailboxStale (m : Nat) (s : State) : Host.Outcome State Fault Refusal :=
  ok (if m < 256 ∧ s.eng.tickAt = some s.now then s.markStale m else s)

/-- R371: a message reaches mailbox m; whether it is accepted. -/
def State.mbTakes (s : State) (m : Nat) (q : Msg) : Bool :=
  s.bit (R.MB_CFG m) F.MB_CFG_EN && q.job == s.fld (R.MB_CFG m) F.MB_CFG_JOB
    && q.data.length == 4 + 4 * s.fld (R.MB_CFG m) F.MB_CFG_NVAL

/-- R371, R372: an accepted message. [DEDUCED: log 71] -/
def State.mbAccept (s : State) (m : Nat) (q : Msg) : State :=
  let s := s.wr (R.MB_DEADLINE m) (BitVec.ofNat 32 (leNat (q.data.take 4)))
  let s := s.each (List.range (s.fld (R.MB_CFG m) F.MB_CFG_NVAL)) (fun s i =>
    s.onLe (fun e => { e with boxes := latchPut e.boxes s.now (8 * m + i) (BitVec.ofNat 32 (leNat ((q.data.drop (4 + 4 * i)).take 4))) }))
  let s := s.incFld (R.MB_STAT m) F.MB_STAT_WRITES 1
  if s.mbLate m then s else (s.setFld (R.MB_STAT m) F.MB_STAT_STALE 0).settle

/-- MAILBOX_MESSAGE (R371): message i of those bound for this chip, with DKIND MAILBOX, reaches its mailbox; while the island
is in reset it is refused (R510), as it is where the chip holds no partition of its job (R236). [DEDUCED: log 71] -/
def execMailboxMessage (i : Nat) (s : State) : Host.Outcome State Fault Refusal :=
  ok (match s.noc.msgs[i]? with
    | none => s
    | some q =>
      if msgBehind s.own s.noc.msgs i q || bitsOf q.w0.toNat 31 28 != 2 || decide (q.data.length < q.total) then s
      else
        let s := (s.onNoc (fun n => { n with msgs := dropAt n.msgs i })).freeLanding q.src q.id
        let m := bitsOf q.w0.toNat 7 0
        if (s.partOfJob q.job).isNone then s.reportTo q.src q.id mNoJob false
        else if s.pwr.isl then s.reportTo q.src q.id mMailbox false
        else if s.mbTakes m q then (s.mbAccept m q).reportTo q.src q.id 0 false
        else (s.setBit (R.MB_STAT m) F.MB_STAT_REFUSED).reportTo q.src q.id mMailbox false)

/-- A write of MBm_CFG (R382). [DEDUCED: log 71] -/
def State.writeMbCfg (s : State) (m : Nat) (v : Word) : State :=
  let n := getF v F.MB_CFG_NVAL
  if isSet v F.MB_CFG_EN && (n == 0 || decide (8 < n)) then s.setBit R.LE_STAT F.LE_STAT_CFG_REJECT
  else s.wr (R.MB_CFG m) (BitVec.ofNat 32 (v.toNat / 2 ^ 31 * 2 ^ 31 + v.toNat % 2 ^ 20))

/-! ### Input frames (R367, R368, R418) -/

/-- The EtherType of a frame after up to two 802.1Q tags, and what follows it. -/
def etherBody (fr : List Byte) : Nat × List Byte :=
  let ty (k : Nat) : Nat := beNat ((fr.drop k).take 2)
  let tag (k : Nat) : Bool := ty k == 0x8100 || ty k == 0x88A8
  if !tag 12 then (ty 12, fr.drop 14) else if !tag 16 then (ty 16, fr.drop 18) else (ty 20, fr.drop 22)

/-- The type of a frame by the frame-type table. -/
def State.frameType (s : State) (port et : Nat) (body : List Byte) : Option Nat :=
  let w (t k : Nat) : Nat := (s.leWord (0xB0000 + 16 * t + 4 * k)).toNat
  (s.leValid 0xB0000 16 256).find? (fun t =>
    let off := bitsOf (w t 1) 10 0
    bitsOf (w t 0) 30 30 == port && bitsOf (w t 0) 15 0 == et && decide (off + 4 ≤ body.length)
      && (beNat ((body.drop off).take 4) &&& w t 3) == w t 2)

/-- The value of field entry e in a frame; none beyond its end or with the reserved WIDTH. [DEDUCED: log 71] -/
def State.fieldIn (s : State) (e : Nat) (body : List Byte) : Option Word :=
  let w := s.fieldW e 0
  let n := 2 ^ bitsOf w 11 10
  let off := bitsOf w 22 12
  if bitsOf w 11 10 = 3 ∨ body.length < off + n then none
  else
    let bs := (body.drop off).take n
    let v := if bitOf w 8 then leNat bs else beNat bs
    some (if bitOf w 9 then BitVec.ofInt 32 (sx (8 * n) v) else BitVec.ofNat 32 v)

/-- R418: whether comparator k trips on a value. [DEDUCED: log 80] -/
def State.compTrips (s : State) (k : Nat) (v : Int) : Bool :=
  let lo := (s.rd (R.TC_LO k)).toInt
  let hi := (s.rd (R.TC_HI k)).toInt
  match s.fld (R.TC_CFG k) F.TC_CFG_KIND with
  | 0 => decide (hi < v)
  | 1 => decide (v < lo)
  | 2 => decide (v < lo) || decide (hi < v)
  | _ => false

/-- A comparator's trip is latched (R419). -/
def State.tripComp (s : State) (k : Nat) : State :=
  let r := if k < 32 then R.TRIP_STAT_LO else R.TRIP_STAT_HI
  s.wr r (BitVec.ofNat 32 (Machine.setBit (s.rd r).toNat (k % 32) true))

/-- R418: the comparators of field entry e see a value. -/
def State.compare (s : State) (e : Nat) (v : Word) : State :=
  s.each ((List.range 64).filter (fun k => s.bit (R.TC_CFG k) F.TC_CFG_EN && s.fld (R.TC_CFG k) F.TC_CFG_FIELD == e)) (fun s k =>
    let s := { s with safe := { s.safe with lastLatch := FMap.set 0 s.safe.lastLatch k s.now } }
    if s.compTrips k v.toInt then s.tripComp k else s)

/-- CONTROL_FRAME (R367, R368, R418): an Ethernet frame, FCS included, arrives at a control port. -/
def execControlFrame (port : Nat) (fr : List Byte) (s : State) : Host.Outcome State Fault Refusal :=
  ok (
    let n := fr.length - 4
    let data := fr.take n
    let good := crc32 data == leNat (fr.drop n)
    let (et, body) := etherBody data
    if s.pwr.isl || decide (1 < port) || decide (fr.length < 18) then s
    else
      match s.frameType port et body with
      | none => s
      | some t =>
        let es := s.fieldEntries.filter (fun e => bitsOf (s.fieldW e 0) 30 23 == t)
        let vs := es.filterMap (fun e => (s.fieldIn e body).map (fun v => (e, v)))
        let s := (s.each vs (fun s p => s.compare p.1 p.2)).checkPermits
        if good then
          s.each vs (fun s p => s.onLe (fun e => { e with fields := latchPut e.fields s.now p.1 p.2 }))
        else s)

/-! ### Trace (R377, R378, R383) -/

/-- A write of TR_CTRL. [DEDUCED: log 72] -/
def State.writeTrCtrl (s : State) (v : Word) : State :=
  let was := s.bit R.TR_CTRL F.TR_CTRL_EN
  let st := s.fld R.TR_CTRL F.TR_CTRL_STATE
  let fire := isSet v F.TR_CTRL_FIRE
  let s := (s.setFld R.TR_CTRL F.TR_CTRL_STREAM (getF v F.TR_CTRL_STREAM)).setFld R.TR_CTRL F.TR_CTRL_POST (getF v F.TR_CTRL_POST)
  let s := s.setFld R.TR_CTRL F.TR_CTRL_EN (getF v F.TR_CTRL_EN)
  let s :=
    if !isSet v F.TR_CTRL_EN then s.setFld R.TR_CTRL F.TR_CTRL_STATE 0
    else if was && fire && (st == 1 || st == 2) then s
    else
      let s := s.each (List.range 64) (fun s c => s.setFld (R.TRC_STAT c) F.TRC_STAT_WIDX 0)
      (s.setFld R.TR_CTRL F.TR_CTRL_STATE 1).onLe (fun e => { e with got := [], after := [], fired := false, oscEv := false, lockEv := false })
  if fire && s.fld R.TR_CTRL F.TR_CTRL_STATE == 1 then s.onLe (fun e => { e with fired := true }) else s

/-- TRACE_ARM (R377). -/
def execTraceArm (req : Nat) (v : Word) (s : State) : Host.Outcome State Fault Refusal :=
  ok (if s.mayIsl req then s.writeTrCtrl (setF (setF v F.TR_CTRL_EN 1) F.TR_CTRL_FIRE 0) else s)

/-- FIRE (R377): the other fields keep their values. [DEDUCED: log 72] -/
def execFire (req : Nat) (s : State) : Host.Outcome State Fault Refusal :=
  ok (if s.mayIsl req then s.writeTrCtrl (setF (s.rd R.TR_CTRL) F.TR_CTRL_FIRE 1) else s)

/-- Whether the trigger condition holds at a base tick (R377). [DEDUCED: log 72] -/
def State.triggered (s : State) : Bool :=
  let c := s.fld R.TR_TRIG F.TR_TRIG_TCH
  let w := s.fld (R.TRC_STAT c) F.TRC_STAT_WIDX
  let newest := (s.leWord (0x100000 + 8192 * c + 4 * ((w + 2047) % 2048))).toInt
  let level := (s.rd R.TR_LEVEL).toInt
  match s.fld R.TR_TRIG F.TR_TRIG_SRC with
  | 0 => s.eng.fired
  | 1 => FMap.get 0 s.eng.got c != 0 && decide (level ≤ newest)
  | 2 => FMap.get 0 s.eng.got c != 0 && decide (newest ≤ level)
  | 3 => (s.domains &&& s.fld R.TR_TRIG F.TR_TRIG_DDMASK) != 0
  | 4 => s.eng.oscEv
  | 5 => s.eng.lockEv
  | _ => false

/-- The trigger test of a base tick. -/
def State.traceTick (s : State) : State :=
  let s := if s.fld R.TR_CTRL F.TR_CTRL_STATE = 1 && s.triggered then
      let s := s.each (List.range 64) (fun s c =>
        s.setFld (R.TRC_STAT c) F.TRC_STAT_TIDX (s.fld (R.TRC_STAT c) F.TRC_STAT_WIDX))
      ((s.setFld R.TR_CTRL F.TR_CTRL_STATE 2).wr R.TR_TTIME (BitVec.ofNat 32 s.tb3)).onLe (fun e => { e with after := [] })
    else s
  s.onLe (fun e => { e with fired := false, oscEv := false, lockEv := false })

/-- TRACE_STOP (R377): every enabled channel has recorded POST samples after the trigger. -/
def execTraceStop (s : State) : Host.Outcome State Fault Refusal :=
  ok (if s.fld R.TR_CTRL F.TR_CTRL_STATE = 2
      ∧ (List.range 64).all (fun c => !s.bit (R.TRC_CFG c) F.TRC_CFG_EN || !s.tracing c) then
      s.setFld R.TR_CTRL F.TR_CTRL_STATE 3
    else s)

/-- RECORDER_BLOCK (R378, R479): the oldest completed run is appended to the recorder ring, or skipped when the store port
cannot keep pace, or when its place is not in region 4. [DEDUCED: log 72] -/
def execRecorderBlock (skip : Bool) (s : State) : Host.Outcome State Fault Refusal :=
  ok (match s.eng.runs with
    | [] => s
    | run :: rest =>
      let s := s.onLe (fun e => { e with runs := rest })
      if skip then s
      else
        let n := (s.fld R.TR_RBASE F.TR_RBASE_SIZEM1 + 1) * 2 ^ 20 / 4128
        let at_ := s.fld R.TR_RBASE F.TR_RBASE_BASE_KB * 1024 + 4128 * s.eng.ring
        let base := s.fld (R.SEC_REC_CFG 4) F.SEC_REC_CFG_BASE_MB * 2 ^ 20
        let s := s.onLe (fun e => { e with ring := (e.ring + 1) % n })
        if at_ < base then s else s.recordBlock 4 ((at_ - base) / 4128) run)

/-! ### The base tick (R351, R352) -/

/-- Staged parameters are applied (R354). [DEDUCED: log 70] -/
def State.applyParams (s : State) : State :=
  if s.bit R.LE_STAT F.LE_STAT_PPEND then
    let s := s.each s.eng.staged (fun s p => match p.2 with
      | some v => s.lePut (4 * p.1) v
      | none => s)
    (s.setFld R.LE_STAT F.LE_STAT_PPEND 0).onLe (fun e => { e with staged := [] })
  else s

/-- Overdue ticks are dropped (R352). -/
def State.dropTicks (s : State) : State :=
  if s.tb3Past s.eng.next then
    let n := (s.tb3 + 2 ^ 32 - s.eng.next) % 2 ^ 32 / 15625 + 1
    let t := s.pair R.LE_TICK_LO R.LE_TICK_HI
    ((s.setPair R.LE_TICK_LO R.LE_TICK_HI ((t + n) % 2 ^ 64)).setBit R.LE_STAT F.LE_STAT_SLIP).onLe
      (fun e => { e with next := (e.next + 15625 * n) % 2 ^ 32 })
  else s

/-- The heartbeat's edge at a base tick (R425). -/
def State.beat (s : State) : State := if s.beating then { s with safe := { s.safe with hb := !s.safe.hb } } else s

/-- BASE_TICK (R351): TB3 has reached NEXT. [DEDUCED: log 65, 72] -/
def execBaseTick (s : State) : Host.Outcome State Fault Refusal :=
  ok (if s.bit R.LE_STAT F.LE_STAT_RUN && s.tb3Past s.eng.next then
      let k := s.pair R.LE_TICK_LO R.LE_TICK_HI
      let s := s.applyParams
      let s := (s.setPair R.LE_TICK_LO R.LE_TICK_HI ((k + 1) % 2 ^ 64)).onLe
        (fun e => { e with next := (e.next + 15625) % 2 ^ 32, tickAt := some s.now })
      let due := (List.range 64).filter (fun g => (s.grp g == grOn || s.grp g == grDraining)
        && k % s.grpN g == s.fld (R.GRP_CFG g) F.GRP_CFG_PHASE)
      let s := (s.releaseDue due).each due (fun s g => s.boundary g k)
      let s := s.each (List.range 256) (fun s m => s.markStale m)
      (s.beat.traceTick).dropTicks
    else s)

end Sys2Proof.Machine
end

