-- ==== Sys2Proof/Machine/Time.lean ====
section
/-! DEFINITION. Sys2Proof/Machine/Time.lean: the PTP engines and the servo, link time transfer, steps, captures, PPS, the gate
control lists and queues of the control ports (R386-R404, R408-R411). -/

namespace Sys2Proof.Machine

/-- The engine of base n. -/
def State.tb (s : State) (n : Nat) : TbSt := FMap.get ⟨0, none, [], 0, false, none, none, none, none, 0⟩ s.time.bases n

/-- The engine of base n changed by a function. -/
def State.onTb (s : State) (n : Nat) (f : TbSt → TbSt) : State :=
  s.onTime (fun t => { t with bases := FMap.set ⟨0, none, [], 0, false, none, none, none, none, 0⟩ t.bases n (f (s.tb n)) })

/-- The state code of a base (R395). -/
def State.tbState (s : State) (n : Nat) : Nat := s.fld (R.TB_STAT n) F.TB_STAT_STATE

/-- An s4 exponent of 2, of seconds, as CK_S cycles. -/
def expCycles (e : Nat) : Nat := if e < 8 then 400000000 * 2 ^ e else 400000000 / 2 ^ (16 - e)

/-- The interval of a base's source, in CK_S cycles: 2^LOGINT s for PTP, 1 ms for link transfer (R395). -/
def State.tbInterval (s : State) (n : Nat) : Nat :=
  if s.bit (R.TB_CTRL n) F.TB_CTRL_SRC then 400000 else expCycles (s.fld (R.TB_SERVO n) F.TB_SERVO_LOGINT)

/-! ### The servo (R392, R394, R395) -/

/-- The bound of CORR. -/
def corrMax : Int := 1342177

/-- CORR written. -/
def State.setCorr (s : State) (n : Nat) (c : Int) : State := s.wr (R.TB_CORR n) (BitVec.ofInt 32 (clampI c (-corrMax) corrMax))

/-- R394: one accepted offset runs the servo. [PRESUMED: log 74] -/
def State.servo (s : State) (n : Nat) (theta : Int) : State :=
  let mag := theta.natAbs
  if s.bit (R.TB_SERVO n) F.TB_SERVO_STEPEN && decide ((s.rd (R.TB_STEPTHR n)).toNat ≤ mag) then
    (s.stepBase n (-theta)).incFld (R.TB_STAT n) F.TB_STAT_STEPS 1
  else
    let i := clampI ((s.tb n).i + ((s.rd (R.TB_KI n)).toNat : Int) * theta) (-corrMax * 65536) (corrMax * 65536)
    let s := s.onTb n (fun t => { t with i := i })
    s.setCorr n (-(asr (((s.rd (R.TB_KP n)).toNat : Int) * theta + i) 16))

/-- R392, R394, R395: an offset of base n: over 1 s it is discarded, otherwise the servo runs and the state follows the last
eight. -/
def State.offset (s : State) (n : Nat) (theta : Int) : State :=
  if 10 ^ 9 < theta.natAbs then s.incFld (R.TB_STAT n) F.TB_STAT_BIGOFF 1
  else
    let s := (s.wr (R.TB_OFFSET n) (BitVec.ofInt 32 theta)).servo n theta
    let good := decide (theta.natAbs < s.fld (R.TB_SERVO n) F.TB_SERVO_LOCKTHR)
    let offs := (good :: (s.tb n).offs).take 8
    let s := s.onTb n (fun t => { t with offs := offs, lastAt := s.now })
    s.setTbState n (if offs.length = 8 ∧ offs.all id then tbLocked else tbLocking)

/-- R392: a delay measurement m; the first one is taken whole. -/
def State.delayed (s : State) (n : Nat) (m : Int) : State :=
  let old := (s.rd (R.TB_MPD n)).toInt
  let mpd := if (s.tb n).delayed then wrapS 32 (old + asr (wrapS 32 (m - old)) 3) else m
  (s.wr (R.TB_MPD n) (BitVec.ofInt 32 mpd)).onTb n (fun t => { t with delayed := true })

/-- HOLDOVER (R395): LOSSCNT intervals have passed since the last accepted offset. [PRESUMED: log 74; DEDUCED: log 75] -/
def execHoldover (n : Nat) (s : State) : Host.Outcome State Fault Refusal :=
  ok (
    let loss := max (s.fld (R.TB_SERVO n) F.TB_SERVO_LOSSCNT) 1
    if n < 2 ∧ s.masterOk n ∧ (s.tb n).lastAt + loss * s.tbInterval n ≤ s.now then
      ((s.setCorr n (-(asr (s.tb n).i 16))).onTb n (fun t => { t with offs := [] })).setTbState n tbHoldover
    else s)

/-! ### Enable, step, select, capture (R388, R389, R399, R409) -/

/-- A write of TBn_CTRL. [DEDUCED: log 75] -/
def State.writeTbCtrl (s : State) (n : Nat) (v : Word) : State :=
  let was := s.bit (R.TB_CTRL n) F.TB_CTRL_EN
  let en := isSet v F.TB_CTRL_EN
  let s' := s.wr (R.TB_CTRL n) (BitVec.ofNat 32 (v.toNat &&& 0xFFF0FF00))
  if was && en then s.setBit (R.TB_STAT n) F.TB_STAT_CFG_REJECT
  else if en then
    let s := s'.onTb n (fun t =>
      { t with i := 0, diff := none, offs := [], delayed := false, sync := none, dreq := none, part := none, reqAt := none })
    s.setTbState n tbAcquire
  else if was then (s'.setCorr n 0).setTbState n tbOff
  else s'

/-- TB_ENABLE (R394, R409). -/
def execTbEnable (req n : Nat) (v : Word) (s : State) : Host.Outcome State Fault Refusal :=
  ok (if s.mayIsl req && decide (n < 2) then s.writeTbCtrl n (setF v F.TB_CTRL_EN 1) else s)

/-- TB_STEP (R388): v nanoseconds, as s32, are added to base 0 or 1. -/
def execTbStep (req n : Nat) (v : Word) (s : State) : Host.Outcome State Fault Refusal :=
  ok (if s.mayIsl req && decide (n < 2) then s.stepBase n v.toInt else s)

/-- A write of TB3_CTRL (R399). -/
def State.writeSel (s : State) (b : Nat) : State :=
  let s := s.setFld R.TB3_CTRL F.TB3_CTRL_SEL b
  if b = s.follow then s else s.switchTb3 b -- where the second case then holds, the cycle's end switches back

/-- SEL (R399). -/
def execSel (req b : Nat) (s : State) : Host.Outcome State Fault Refusal :=
  ok (if s.mayIsl req && decide (b < 2) then s.writeSel b else s)

/-- R389: all four bases are captured. -/
def State.capture (s : State) : State :=
  (s.each (List.range 4) (fun s n => s.wr (R.TB_CAP n) (BitVec.ofNat 32 (s.tbNs n)))).setBit R.TIME_STAT F.TIME_STAT_CAPV

/-- CAP (R389). -/
def execCap (req : Nat) (s : State) : Host.Outcome State Fault Refusal := ok (if s.mayIsl req then s.capture else s)

/-- PPS_IN (R389): a rising edge. -/
def execPpsIn (s : State) : Host.Outcome State Fault Refusal :=
  ok (if s.bit R.TIME_CTRL F.TIME_CTRL_PPSCAP then s.capture else s)

/-- PPS_OUT (R389): PPS_OUT is low and TB3 has reached PPS_NEXT. [DEDUCED: log 77] -/
def execPpsOut (s : State) : Host.Outcome State Fault Refusal :=
  ok (if s.bit R.TIME_CTRL F.TIME_CTRL_PPSEN && s.time.ppsAt.isNone && s.tb3Past (s.rd R.PPS_NEXT).toNat then
      s.onTime (fun t => { t with ppsAt := some s.now })
    else s)

/-- PPS_OUT_FALL (R389): PPS_OUT has been high for 40,000 CK_S cycles; PPS_NEXT advances. [DEDUCED: log 77] -/
def execPpsOutFall (s : State) : Host.Outcome State Fault Refusal :=
  ok (match s.time.ppsAt with
    | some t =>
      if t + 40000 ≤ s.now then (s.wr R.PPS_NEXT (s.rd R.PPS_NEXT + s.rd R.PPS_PERIOD)).onTime (fun x => { x with ppsAt := none })
      else s
    | none => s)

/-! ### PTP (R390-R393) -/

/-- Whether engine n handles a PTP message (R390, R391). -/
def State.hears (s : State) (n : Nat) (m : PtpMsg) : Bool :=
  let c := s.rd (R.TB_CTRL n)
  isSet c F.TB_CTRL_EN && !isSet c F.TB_CTRL_SRC && getF c F.TB_CTRL_PORT == m.port
    && getF c F.TB_CTRL_TRANSPORT == m.transport && decide (m.transport < 3)
    && getF c F.TB_CTRL_DOMAIN == m.domain && m.version == 2 && m.fcs

/-- The engines that handle a message. -/
def State.hearers (s : State) (m : PtpMsg) : List Nat := [0, 1].filter (fun n => s.hears n m)

/-- A correctionField in whole nanoseconds, rounded half up (R392). -/
def ptpCorr (m : PtpMsg) : Int := rndHalfUp m.corr 16

/-- A PTP timestamp in nanoseconds modulo 2^32 (R392). -/
def ptpTime (m : PtpMsg) : Nat := (m.secs * 10 ^ 9 + m.nanos) % 2 ^ 32

/-- The time of a message received now by engine n (R393). [DEDUCED: log 73] -/
def State.rxTime (s : State) (n : Nat) : Nat := wrapN 32 ((s.tbNs n : Int) - s.fld (R.TB_LAT n) F.TB_LAT_RXLAT)

/-- The time of a message sent now by engine n (R393). [DEDUCED: log 73] -/
def State.txTime (s : State) (n : Nat) : Nat := (s.tbNs n + s.fld (R.TB_LAT n) F.TB_LAT_TXLAT) % 2 ^ 32

/-- t2 - t1 - c is known: it forms an offset once a delay has been measured (R392). -/
def State.synced (s : State) (n : Nat) (t1 t2 : Nat) (c : Int) : State :=
  let d := wrapS 32 ((t2 : Int) - t1 - c)
  let s := s.onTb n (fun t => { t with diff := some d, sync := none })
  if (s.tb n).delayed then s.offset n (wrapS 32 (d - (s.rd (R.TB_MPD n)).toInt)) else s

/-- PTP_SYNC (R391). [PRESUMED: log 74] -/
def execPtpSync (m : PtpMsg) (s : State) : Host.Outcome State Fault Refusal :=
  ok (s.each (s.hearers m) (fun s n =>
    let t2 := s.rxTime n
    let s := if s.pair (R.TB_SRCID_LO n) (R.TB_SRCID_HI n) = m.clock then s
      else (s.setPair (R.TB_SRCID_LO n) (R.TB_SRCID_HI n) m.clock).setBit (R.TB_STAT n) F.TB_STAT_MCHG
    if m.twoStep then s.onTb n (fun t => { t with sync := some (m.seq, t2, (ptpCorr m), s.now) })
    else s.synced n (ptpTime m) t2 (ptpCorr m)))

/-- FOLLOW_UP (R391): it completes the Sync of its sequenceId, unless a Sync interval has passed. -/
def execFollowUp (m : PtpMsg) (s : State) : Host.Outcome State Fault Refusal :=
  ok (s.each (s.hearers m) (fun s n =>
    match (s.tb n).sync with
    | none => s
    | some (seq, t2, c, at_) =>
      if at_ + s.tbInterval n < s.now then s.onTb n (fun t => { t with sync := none })
      else if seq = m.seq then s.synced n (ptpTime m) t2 (c + (ptpCorr m))
      else s))

/-- Whether engine n may send a delay request now: it is the kind its DELAY names, and 2^LOGDREQ s have passed. [DEDUCED: log 75] -/
def State.mayAsk (s : State) (n : Nat) (peer : Bool) : Bool :=
  let c := s.rd (R.TB_CTRL n)
  decide (n < 2) && isSet c F.TB_CTRL_EN && !isSet c F.TB_CTRL_SRC && isSet c F.TB_CTRL_DELAY == peer
    && (match (s.tb n).reqAt with
      | none => true
      | some t => decide (t + expCycles (s.fld (R.TB_SERVO n) F.TB_SERVO_LOGDREQ) ≤ s.now))

/-- A delay request of a kind leaves. -/
def State.askDelay (s : State) (n kind : Nat) : State :=
  let q := (s.tb n).seq
  let t := s.txTime n
  (s.onTb n (fun x => { x with dreq := some (q, t), part := none, reqAt := some s.now, seq := (q + 1) % 2 ^ 16 })).onTime
    (fun x => { x with ptp := ⟨n, kind, q, t⟩ :: x.ptp })

/-- DELAY_REQ (R391). -/
def execDelayReq (n : Nat) (s : State) : Host.Outcome State Fault Refusal :=
  ok (if s.mayAsk n false then s.askDelay n 1 else s)

/-- Whether a message answers the request out of engine n. -/
def State.answers (s : State) (n : Nat) (m : PtpMsg) : Option Nat :=
  match (s.tb n).dreq with
  | some (q, t) => if m.mine && q == m.seq then some t else none
  | none => none

/-- DELAY_RESP (R391, R392). -/
def execDelayResp (m : PtpMsg) (s : State) : Host.Outcome State Fault Refusal :=
  ok (s.each ((s.hearers m).filter (fun n => !s.bit (R.TB_CTRL n) F.TB_CTRL_DELAY)) (fun s n =>
    match s.answers n m, (s.tb n).diff with
    | some t3, some d =>
      (s.onTb n (fun t => { t with dreq := none })).delayed n
        (tdivI (wrapS 32 (d + wrapS 32 (((ptpTime m) : Int) - t3 - (ptpCorr m)))) 2)
    | _, _ => s))

/-- PDELAY_REQ (R391): engine n sends one (`none`), or one is received and answered. -/
def execPdelayReq (n : Nat) (rx : Option PtpMsg) (s : State) : Host.Outcome State Fault Refusal :=
  ok (match rx with
    | none => if s.mayAsk n true then s.askDelay n 2 else s
    | some m =>
      s.each ((s.hearers m).filter (fun k => s.bit (R.TB_CTRL k) F.TB_CTRL_DELAY)) (fun s k =>
        let send (s : State) (kind t : Nat) : State := s.onTime (fun x => { x with ptp := ⟨k, kind, m.seq, t⟩ :: x.ptp })
        if s.bit (R.TB_CTRL k) F.TB_CTRL_ONESTEP then send s 3 (s.txTime k)
        else send (send s 3 (s.rxTime k)) 9 (s.txTime k)))

/-- A link delay measurement is complete (R392). [PRESUMED: log 74] -/
def State.linkDelay (s : State) (n : Nat) (q1 q4 : Nat) (turn : Int) : State :=
  (s.onTb n (fun t => { t with dreq := none, part := none })).delayed n
    (tdivI (wrapS 32 (wrapS 32 ((q4 : Int) - q1) - wrapS 32 turn)) 2)

/-- PDELAY_RESP (R391-R393): a Pdelay_Resp, or its Follow_Up. [PRESUMED: log 74] -/
def execPdelayResp (followUp : Bool) (m : PtpMsg) (s : State) : Host.Outcome State Fault Refusal :=
  ok (s.each ((s.hearers m).filter (fun n => s.bit (R.TB_CTRL n) F.TB_CTRL_DELAY)) (fun s n =>
    match s.answers n m with
    | none => s
    | some q1 =>
      if followUp then
        match (s.tb n).part with
        | some (q4, b) => s.linkDelay n q1 q4 (((ptpTime m) : Int) - b - (ptpCorr m))
        | none => s
      else if m.twoStep then s.onTb n (fun t => { t with part := some (s.rxTime n, ((ptpTime m) : Int) + (ptpCorr m)) })
      else s.linkDelay n q1 (s.rxTime n) ((ptpCorr m) - (ptpTime m))))

/-! ### Link time transfer (R396, R397) -/

/-- A TIME flit leaves on link l (R252, R396): header, acknowledgement and credits as every flit has them, the bytes given from byte 8 on,
0 in the rest of the payload, and the CRC. It is not sequenced and charges no pool. [DESIGN CHOICE: log 42] -/
def State.sendTime (s : State) (l : Nat) (bytes : List Byte) : State :=
  let s := s.onLink l (fun x => x.emit Config.idleSeq 2 Config.idlePool (fun i => (bytes[i]?).getD 0#8))
  (s.onTime (fun t => { t with flits := (l, bytes) :: t.flits })).count none l none 0x40 1

/-- TIME_REQUEST (R396): the request of a link-fed base, every 1 ms. [PRESUMED: log 74] -/
def execTimeRequest (n : Nat) (s : State) : Host.Outcome State Fault Refusal :=
  ok (
    let c := s.rd (R.TB_CTRL n)
    let l := getF c F.TB_CTRL_LINK
    let due := match (s.tb n).reqAt with
      | none => true
      | some t => decide (t + 400000 ≤ s.now)
    if n < 2 && isSet c F.TB_CTRL_EN && isSet c F.TB_CTRL_SRC && s.linkState l == klUp && s.carries l && due then
      let x := (s.tb n).seq
      let t1 := s.tbNs n
      let s := s.onTb n (fun t => { t with dreq := some (x, t1), reqAt := some s.now, seq := (x + 1) % 2 ^ 16 })
      s.sendTime l (leBytes 1 0 ++ leBytes 1 (getF c F.TB_CTRL_PDOMAIN) ++ leBytes 2 x ++ leBytes 4 t1 ++ leBytes 8 0)
    else s)

/-- R397: a request is answered for either base. -/
def State.answerTime (s : State) (l : Nat) (b : List Byte) : State :=
  let d := leNat ((b.drop 1).take 1) % 2
  let t := s.tbNs d
  s.sendTime l (leBytes 1 1 ++ leBytes 1 (d + 2 * b2n (s.masterOk d)) ++ (b.drop 2).take 6 ++ leBytes 4 t ++ leBytes 4 t)

/-- R396: a response gives each base that asked for it an offset. -/
def State.takeTime (s : State) (l : Nat) (b : List Byte) : State :=
  let f := leNat ((b.drop 1).take 1)
  let w (k : Nat) : Int := leNat ((b.drop k).take 4)
  s.each ([0, 1].filter (fun n =>
      let c := s.rd (R.TB_CTRL n)
      isSet c F.TB_CTRL_EN && isSet c F.TB_CTRL_SRC && getF c F.TB_CTRL_LINK == l && getF c F.TB_CTRL_PDOMAIN == f % 2
        && ((s.tb n).dreq.map (·.1)) == some (leNat ((b.drop 2).take 2)))) (fun s n =>
    let s := s.onTb n (fun t => { t with dreq := none })
    if bitOf f 1 then
      let t4 : Int := s.tbNs n
      let theta := tdivI (wrapS 32 (wrapS 32 (w 4 - w 8) + wrapS 32 (t4 - w 12))) 2
      let mpd := tdivI (wrapS 32 (wrapS 32 (t4 - w 4) - wrapS 32 (w 12 - w 8))) 2
      (s.wr (R.TB_MPD n) (BitVec.ofInt 32 mpd)).offset n theta
    else s)

/-- TIME_FLIT (R252, R396): a flit of TYPE 2 arrives on a link. -/
def execTimeFlit (l corr : Nat) (unc : Bool) (fl : List Byte) (s : State) : Host.Outcome State Fault Refusal :=
  ok (if !s.receives l then s
    else
      match s.checkFlit l corr unc fl with
      | (s, none) => s
      | (s, some h) =>
        let s := s.takeHdr l h
        if bitsOf h 37 35 ≠ 2 ∨ s.pwr.isl then s
        else
          let b := (fl.drop 8).take 16
          match leNat (b.take 1) with
          | 0 => if s.linkState l = klUp then s.answerTime l b else s
          | 1 => if s.linkState l = klUp then s.takeTime l b else s
          | _ => s)

/-! ### Gate control lists (R402, R403, R411) -/

/-- Entry i of the active bank of a port. -/
def State.gcl (s : State) (p i : Nat) : Word :=
  FMap.get 0#32 (s.port p).banks (s.fld (R.CP_GSTAT p) F.CP_GSTAT_BANK * 256 + i)

/-- The end of entry i, in ns from the cycle's start: the last one holds until the cycle end, and none goes beyond it. -/
def State.gclEnd (s : State) (p i : Nat) : Nat :=
  let x := s.port p
  if x.len ≤ i + 1 then x.cycle
  else min x.cycle (((List.range (i + 1)).map (fun k => getF (s.gcl p k) F.CP_GCL_INTERVAL)).foldl (· + ·) 0)

/-- GATES shows the gates in force: all open with EN = 0 or no list (R402). -/
def State.showGates (s : State) (p : Nat) : State :=
  let on := s.bit (R.CP_GCTRL p) F.CP_GCTRL_EN && (s.port p).len != 0
  s.setFld (R.CP_GSTAT p) F.CP_GSTAT_GATES (if on then getF (s.gcl p (s.port p).entry) F.CP_GCL_GATES else 0xFF)

/-- Whether a swap is due at the end of the running cycle (R403). -/
def State.swapNext (s : State) (p : Nat) : Bool :=
  let x := s.port p
  s.bit (R.CP_GSTAT p) F.CP_GSTAT_PENDING && !x.atBase && decide (0 ≤ sx 32 (x.start + x.cycle + 2 ^ 32 - (s.rd (R.CP_BASE p)).toNat))

/-- GATE_INTERVAL (R402): the entry in force ends; the next one applies. -/
def execGateInterval (p : Nat) (s : State) : Host.Outcome State Fault Refusal :=
  ok (
    let x := s.port p
    let e := s.gclEnd p x.entry
    if p < 2 ∧ x.len ≠ 0 ∧ s.tb3Past (x.start + e) then
      if e < x.cycle then (s.onPort p (fun x => { x with entry := x.entry + 1 })).showGates p
      else if s.swapNext p then s
      else (s.onPort p (fun x => { x with entry := 0, start := (x.start + x.cycle) % 2 ^ 32 })).showGates p
    else s)

/-- The new list's first cycle starts (R403): the banks change places, with their LEN and CYCLE. [DEDUCED: log 76] -/
def State.swapBanks (s : State) (p start : Nat) : State :=
  let x := s.port p
  let len := s.fld (R.CP_GCTRL p) F.CP_GCTRL_LEN
  let cycle := (s.rd (R.CP_CYCLE p)).toNat
  let s := s.setFld (R.CP_GSTAT p) F.CP_GSTAT_BANK (1 - s.fld (R.CP_GSTAT p) F.CP_GSTAT_BANK)
  let s := (s.setFld (R.CP_GSTAT p) F.CP_GSTAT_PENDING 0).setFld (R.CP_GCTRL p) F.CP_GCTRL_SWAP 0
  let s := (s.setFld (R.CP_GCTRL p) F.CP_GCTRL_LEN x.len).wr (R.CP_CYCLE p) (BitVec.ofNat 32 x.cycle)
  (s.onPort p (fun x => { x with len := len, cycle := cycle, start := start % 2 ^ 32, entry := 0, atBase := false })).showGates p

/-- SWAP_APPLY (R403): at the first cycle start of the old list at or after BASE, or at BASE where EN was 0 at the SWAP, or is 0 now. [DEDUCED: log 76] -/
def execSwapApply (p : Nat) (s : State) : Host.Outcome State Fault Refusal :=
  ok (
    let x := s.port p
    if p < 2 ∧ s.bit (R.CP_GSTAT p) F.CP_GSTAT_PENDING then
      if s.bit (R.CP_GCTRL p) F.CP_GCTRL_EN && x.len != 0 && !x.atBase then
        if s.swapNext p && s.gclEnd p x.entry == x.cycle && s.tb3Past (x.start + x.cycle) then s.swapBanks p (x.start + x.cycle)
        else s
      else if s.tb3Past (s.rd (R.CP_BASE p)).toNat then s.swapBanks p (s.rd (R.CP_BASE p)).toNat
      else s
    else s)

/-- A write of CPp_GCTRL (R403, R411). [DEDUCED: log 76] -/
def State.writeGctrl (s : State) (p : Nat) (v : Word) : State :=
  let busy := s.bit (R.CP_GSTAT p) F.CP_GSTAT_PENDING
  let was := s.bit (R.CP_GCTRL p) F.CP_GCTRL_EN
  let s := s.setFld (R.CP_GCTRL p) F.CP_GCTRL_EN (getF v F.CP_GCTRL_EN)
  let s := if busy then s else s.setFld (R.CP_GCTRL p) F.CP_GCTRL_LEN (getF v F.CP_GCTRL_LEN)
  let x := s.port p
  let s := if !was && isSet v F.CP_GCTRL_EN && x.len != 0 then
      s.onPort p (fun x => { x with entry := 0, start := wrapN 32 ((s.tb3 : Int) - wrapN 32 ((s.tb3 : Int) - x.start) % x.cycle) })
    else s
  let len := s.fld (R.CP_GCTRL p) F.CP_GCTRL_LEN
  let cycle := (s.rd (R.CP_CYCLE p)).toNat
  let good := decide (1 ≤ len) && decide (len ≤ 256) && decide (1000 ≤ cycle) && decide (cycle ≤ 10 ^ 9)
  let s := if isSet v F.CP_GCTRL_SWAP && !busy && good then
      ((s.setBit (R.CP_GCTRL p) F.CP_GCTRL_SWAP).setBit (R.CP_GSTAT p) F.CP_GSTAT_PENDING).onPort p (fun x => { x with atBase := !was })
    else s
  s.showGates p

/-- SWAP (R403): the other fields of CPp_GCTRL keep their values. -/
def execSwap (req p : Nat) (s : State) : Host.Outcome State Fault Refusal :=
  ok (if s.mayIsl req && decide (p < 2) then s.writeGctrl p (setF (s.rd (R.CP_GCTRL p)) F.CP_GCTRL_SWAP 1) else s)

/-- A write of entry i of the inactive bank. -/
def State.writeGcl (s : State) (p i : Nat) (v : Word) : State :=
  let b := 1 - s.fld (R.CP_GSTAT p) F.CP_GSTAT_BANK
  s.onPort p (fun x => { x with banks := FMap.set 0#32 x.banks (b * 256 + i) v })

/-- A write of CPp_PREEMPT (R404). [DEDUCED: log 76] -/
def State.writePreempt (s : State) (p : Nat) (v : Word) : State :=
  let was := s.bit (R.CP_PREEMPT p) F.CP_PREEMPT_VERIFY
  let s := s.wr (R.CP_PREEMPT p) (BitVec.ofNat 32 (v.toNat &&& 0xFF83))
  if !isSet v F.CP_PREEMPT_VERIFY then s.setBit (R.CP_GSTAT p) F.CP_GSTAT_PREEMPT_OK
  else if was then s else s.setFld (R.CP_GSTAT p) F.CP_GSTAT_PREEMPT_OK 0

/-- PREEMPT_VERIFY (R404): the verify exchange of 802.3br succeeds. -/
def execPreemptVerify (p : Nat) (s : State) : Host.Outcome State Fault Refusal :=
  ok (if p < 2 ∧ s.bit (R.CP_PREEMPT p) F.CP_PREEMPT_VERIFY then s.setBit (R.CP_GSTAT p) F.CP_GSTAT_PREEMPT_OK else s)

/-! ### Frames leave (R402, R404) -/

/-- One entry of a list: the classes it opens and its length in ns. -/
structure GateSpan where
  gates : Nat
  len : Nat
  deriving DecidableEq, Repr

/-- A list's entries from its cycle start on, cut or held at the cycle's end (R402). -/
def spansOf (entry : Nat → Word) (len cycle : Nat) : List GateSpan :=
  let stop (i : Nat) : Nat :=
    if len ≤ i then cycle else min cycle (((List.range i).map (fun k => getF (entry k) F.CP_GCL_INTERVAL)).foldl (· + ·) 0)
  (List.range len).map (fun i => ⟨getF (entry i) F.CP_GCL_GATES, stop (i + 1) - (if i = 0 then 0 else stop i)⟩)

/-- A list that runs on and on, after its first cycle: the classes that never close in it. -/
def everOpen (gs : List GateSpan) : GateSpan := ⟨(gs.filter (fun g => g.len != 0)).foldl (fun m g => m &&& g.gates) 0xFF, 2 ^ 32⟩

/-- The first `n` ns of a list of spans. -/
def cutSpans : Nat → List GateSpan → List GateSpan
  | _, [] => []
  | n, g :: gs => if n ≤ g.len then [⟨g.gates, n⟩] else g :: cutSpans (n - g.len) gs

/-- The spans of the running list from now on: what is left of its cycle by TB3, which may have stepped back, then cycle after cycle; every
gate open where no list runs (R402). [DEDUCED: log 76] -/
def State.spansNow (s : State) (p : Nat) : List GateSpan :=
  let x := s.port p
  if x.len = 0 then [⟨0xFF, 2 ^ 32⟩]
  else
    let left := (wrapS 32 (((x.start + s.gclEnd p x.entry : Nat) : Int) - s.tb3)).toNat
    let this := spansOf (s.gcl p) x.len x.cycle
    ⟨getF (s.gcl p x.entry) F.CP_GCL_GATES, left⟩ :: (this.drop (x.entry + 1) ++ this ++ [everOpen this])

/-- In how many ns the list that waits takes over (R403): at the first cycle start of the running list at or after BASE, or at BASE. [DEDUCED: log 76] -/
def State.swapIn (s : State) (p : Nat) : Nat :=
  let x := s.port p
  let base := (s.rd (R.CP_BASE p)).toNat
  if x.len = 0 || x.atBase then (wrapS 32 ((base : Int) - s.tb3)).toNat
  else
    (wrapS 32 (((x.start + x.cycle : Nat) : Int) - s.tb3)).toNat
      + ceilDiv (wrapS 32 ((base : Int) - (x.start + x.cycle : Nat))).toNat x.cycle * x.cycle

/-- The spans from now on, with the list that waits from its swap on (R403). [DEDUCED: log 76] -/
def State.spans (s : State) (p : Nat) : List GateSpan :=
  if s.bit (R.CP_GSTAT p) F.CP_GSTAT_PENDING then
    let bank := 1 - s.fld (R.CP_GSTAT p) F.CP_GSTAT_BANK
    cutSpans (s.swapIn p) (s.spansNow p) ++ spansOf (fun i => FMap.get 0#32 (s.port p).banks (bank * 256 + i))
      (s.fld (R.CP_GCTRL p) F.CP_GCTRL_LEN) (s.rd (R.CP_CYCLE p)).toNat
  else s.spansNow p

/-- For how many ns the gate of class c stays open over a list of spans; none when it stays open over all of them. -/
def openOver (c : Nat) : List GateSpan → Option Nat
  | [] => none
  | g :: gs =>
    if g.len = 0 then openOver c gs
    else if bitOf g.gates c then (openOver c gs).map (fun n => g.len + n) else some 0

/-- For how many ns from now the gate of class c stays open; none when no entry closes it. [DEDUCED: log 76] -/
def State.openFor (s : State) (p c : Nat) : Option Nat := openOver c (s.spans p)

/-- What a byte takes on port p now, in tenths of ns: 10, 5, 2.5 or 1 Gb/s (R1), which the PHY settles. [DESIGN CHOICE: log 123] -/
def State.byteTime (s : State) (p : Nat) : Nat := nth 8 [8, 16, 32, 80] (Config.portRate p s.now).val

/-- Whether class c of port p is preemptable, with preemption active (R404). [PRESUMED: log 124] -/
def State.preemptable (s : State) (p c : Nat) : Bool :=
  s.bit (R.CP_GSTAT p) F.CP_GSTAT_PREEMPT_OK && bitOf (s.fld (R.CP_PREEMPT p) F.CP_PREEMPT_PMASK) c

/-- Whether a frame of class c and n bytes may start now (R402): its n bytes, preamble and FCS pass before the gate closes. [DEDUCED: log 76] -/
def State.mayStart (s : State) (p c n : Nat) : Bool :=
  if !s.bit (R.CP_GCTRL p) F.CP_GCTRL_EN then true
  else if !bitOf (s.fld (R.CP_GSTAT p) F.CP_GSTAT_GATES) c then false
  else if s.preemptable p c then true
  else
    match s.openFor p c with
    | none => true
    | some t => decide (ceilDiv ((n + 12) * s.byteTime p) 10 ≤ t)

/-- The oldest queued frame of the highest of some classes that may start. [DEDUCED: log 76] -/
def State.nextOf (s : State) (p : Nat) (classes : List Nat) : Option TxFrame :=
  (classes.filterMap (fun c => (s.port p).queue.find? (fun f => f.tc == c))).find? (fun f => s.mayStart p f.tc f.bytes.length)

/-- The express frame that may start on port p. -/
def State.nextExpress (s : State) (p : Nat) : Option TxFrame :=
  s.nextOf p ([7, 6, 5, 4, 3, 2, 1, 0].filter (fun c => !s.preemptable p c))

/-- A list without the first occurrence of an element. -/
def dropFirst (f : TxFrame) : List TxFrame → List TxFrame
  | [] => []
  | g :: gs => if g = f then gs else g :: dropFirst f gs

/-- A frame, or the rest of one after `n` bytes, goes on the wire: 24 bytes of preamble, FCS and gap beside its own. [DESIGN CHOICE: log 123] -/
def State.startTx (s : State) (p : Nat) (f : TxFrame) (n : Nat) : State :=
  let r := s.byteTime p
  s.onPort p (fun x => { x with
    tx := some ⟨f, n, s.now, r⟩
    busy := s.now + ceilDiv ((f.bytes.length - n + 24) * r) 25 })

/-- What was on the wire has left. -/
def State.endTx (s : State) (p : Nat) : State :=
  match (s.port p).tx with
  | none => s
  | some t => s.onPort p (fun x => { x with tx := none, sent := ⟨t.frame.tc, t.frame.bytes.drop t.done, true⟩ :: x.sent })

/-- An idle port: an express frame goes first, then the rest of an interrupted frame, then a preemptable frame (R404). [PRESUMED: log 124] -/
def State.pickTx (s : State) (p : Nat) : State :=
  match s.nextExpress p with
  | some f => (s.onPort p (fun x => { x with queue := dropFirst f x.queue })).startTx p f 0
  | none =>
    match (s.port p).held with
    | some (f, n) => (s.onPort p (fun x => { x with held := none })).startTx p f n
    | none =>
      match s.nextOf p ([7, 6, 5, 4, 3, 2, 1, 0].filter (s.preemptable p)) with
      | some f => (s.onPort p (fun x => { x with queue := dropFirst f x.queue })).startTx p f 0
      | none => s

/-- An express frame interrupts a preemptable one (R404): at least 64 × (1 + ADDFRAG) − 4 of its bytes have gone in this fragment and at
least 60 are left; the fragment's check and a gap of 16 bytes follow. [PRESUMED: log 124] -/
def State.interruptTx (s : State) (p : Nat) : State :=
  match (s.port p).tx with
  | none => s
  | some t =>
    let gone := (s.now - t.since) * 25 / t.rate - 8
    let left := t.frame.bytes.length - (t.done + gone)
    if s.preemptable p t.frame.tc && (s.nextExpress p).isSome
        && decide (64 * (1 + s.fld (R.CP_PREEMPT p) F.CP_PREEMPT_ADDFRAG) - 4 ≤ gone) && decide (60 ≤ left) then
      s.onPort p (fun x => { x with
        tx := none
        held := some (t.frame, t.done + gone)
        sent := ⟨t.frame.tc, (t.frame.bytes.drop t.done).take gone, false⟩ :: x.sent
        busy := s.now + ceilDiv (16 * t.rate) 25 })
    else s

/-- One CK_S cycle of a control port. [DESIGN CHOICE: log 3] -/
def State.tickPort (s : State) (p : Nat) : State :=
  if s.now < (s.port p).busy then s.interruptTx p else (s.endTx p).pickTx p

end Sys2Proof.Machine
end

