-- ==== Sys2Proof/Machine/Safe.lean ====
section
/-! DEFINITION. Sys2Proof/Machine/Safe.lean: the commands of the safety block: forced domains, trips, permits, the lock,
self-tests (R412-R432). -/

namespace Sys2Proof.Machine

/-- The trip path's part of the state changed by a function. -/
def State.onSafe (s : State) (f : SafeSt → SafeSt) : State := { s with safe := f s.safe }

/-- The self-tests' part. -/
def State.onTests (s : State) (f : TestSt → TestSt) : State := { s with tests := f s.tests }

/-! ### Domains (R412, R415, R416) -/

/-- A write of DD_FORCE. -/
def State.writeForce (s : State) (v : Word) : State :=
  (s.wr R.DD_FORCE (BitVec.ofNat 32 (v.toNat % 2 ^ 16))).settle

/-- DD_FORCE (R416). -/
def execDdForce (req : Nat) (v : Word) (s : State) : Host.Outcome State Fault Refusal :=
  ok (if s.mayIsl req then s.writeForce v else s)

/-- A write of DD_ACTIVE (R412, R415): bits that no level source holds are cleared, with their records. -/
def State.clearDomains (s : State) (v : Word) : State :=
  let held := s.fld R.DD_LEVEL F.DD_LEVEL_LEVEL
  let gone := (bitsSet v.toNat 16).filter (fun n => !bitOf held n && bitOf (s.fld R.DD_ACTIVE F.DD_ACTIVE_ACTIVE) n)
  s.each gone (fun s n =>
    (s.setFld R.DD_ACTIVE F.DD_ACTIVE_ACTIVE (Machine.setBit (s.fld R.DD_ACTIVE F.DD_ACTIVE_ACTIVE) n false)).setFld (R.DD_FIRST n) F.DD_FIRST_VALID 0)

/-! ### Trips (R418, R419, R422, R423) -/

/-- SILENT_TEST (R418): the 1 µs test of comparator k. [DEDUCED: log 81] -/
def execSilentTest (k : Nat) (s : State) : Host.Outcome State Fault Refusal :=
  ok (
    let hi := (s.rd (R.TC_HI k)).toInt
    if k < 64 ∧ !s.pwr.isl ∧ s.bit (R.TC_CFG k) F.TC_CFG_EN ∧ s.fld (R.TC_CFG k) F.TC_CFG_KIND = 3 ∧ 1 ≤ hi
        ∧ FMap.get 0 s.safe.lastLatch k + 400 * hi.toNat ≤ s.now then
      (s.tripComp k).checkPermits
    else s)

/-- R419: the pins that are enabled and have been low past the filter trip. [DEDUCED: log 80] -/
def State.tripPins (s : State) : State :=
  let filt := min (s.fld R.TRIPIN_CFG F.TRIPIN_CFG_FILT) 4
  let low := (List.range 8).filter (fun k => bitOf (s.fld R.TRIPIN_CFG F.TRIPIN_CFG_EN) k
    && decide (filt + 1 ≤ FMap.get 0 s.safe.tripLow k))
  (s.each low (fun s k => s.setFld R.TRIP_PIN F.TRIP_PIN_TRIPPED
    (Machine.setBit (s.fld R.TRIP_PIN F.TRIP_PIN_TRIPPED) k true))).checkPermits

/-- TRIP_IN (R419): pin k has been low for n consecutive CK_A samples after its synchroniser (0: it is high). [DEDUCED: log 80] -/
def execTripIn (k n : Nat) (s : State) : Host.Outcome State Fault Refusal :=
  ok (if k < 8 then
      let s := s.onSafe (fun x => { x with tripLow := FMap.set 0 x.tripLow k n })
      if s.pwr.isl then s else s.tripPins
    else s)

/-- TRIP_PATH_FAULT (R422): the copies of comparator k disagree (0), the copies of the permit logic do (1), or PERMIT_OUT ball k
differs from its commanded level (2), which RB then shows until the level is commanded again (R432). [DEDUCED: log 79] -/
def execTripPathFault (kind k : Nat) (s : State) : Host.Outcome State Fault Refusal :=
  ok (if s.pwr.isl then s
    else
      let s := match kind with
        | 0 => (s.setBit R.TRIP_FAULT F.TRIP_FAULT_MIS).setFld R.TRIP_FAULT F.TRIP_FAULT_TCIDX k
        | 1 => (s.setBit R.TRIP_FAULT F.TRIP_FAULT_MIS).setFld R.TRIP_FAULT F.TRIP_FAULT_TCIDX 63
        | _ =>
          (if k < 8 then s.setFld (R.PERMIT_STAT k) F.PERMIT_STAT_RB (1 - s.fld (R.PERMIT_STAT k) F.PERMIT_STAT_OUT) else s).setBit
            R.TRIP_FAULT F.TRIP_FAULT_RBERR
      s.raiseDoubt 0x237)

/-- CLOCK_FAIL (R423): the clock monitor finds the island's CK_A bad, or good again. [DEDUCED: log 78] -/
def execClockFail (bad : Bool) (s : State) : Host.Outcome State Fault Refusal :=
  ok (
    let s := s.onSafe (fun x => { x with clkBad := bad })
    if bad && !s.pwr.isl then (s.setBit R.TRIP_FAULT F.TRIP_FAULT_CLKFAIL).checkPermits else s)

/-! ### Permits and the lock (R420, R421, R424) -/

/-- A write of PERMITk_CTRL: GRANT acts under the lock too. [DEDUCED: log 79] -/
def State.writePermit (s : State) (k : Nat) (v : Word) : State :=
  let r := R.PERMIT_CTRL k
  let same := getF v F.PERMIT_CTRL_PINMASK == s.fld r F.PERMIT_CTRL_PINMASK && getF v F.PERMIT_CTRL_DDMASK == s.fld r F.PERMIT_CTRL_DDMASK
  let s :=
    if same then s
    else if s.bit R.SAFE_LOCK F.SAFE_LOCK_LOCK then s.setBit R.TRIP_FAULT F.TRIP_FAULT_CFG_REJECT
    else ((s.setFld r F.PERMIT_CTRL_PINMASK (getF v F.PERMIT_CTRL_PINMASK)).setFld r F.PERMIT_CTRL_DDMASK
      (getF v F.PERMIT_CTRL_DDMASK)).checkPermits
  let was := s.bit r F.PERMIT_CTRL_GRANT
  if isSet v F.PERMIT_CTRL_GRANT then
    if was then s
    else if (s.permitCause k).isSome then s.setBit (R.PERMIT_STAT k) F.PERMIT_STAT_GREF
    else ((s.setBit r F.PERMIT_CTRL_GRANT).setBit (R.PERMIT_STAT k) F.PERMIT_STAT_OUT).setBit (R.PERMIT_STAT k) F.PERMIT_STAT_RB
  else if was then s.withdraw k 5 0
  else s

/-- GRANT (R420): GRANT of permit k is written; the masks keep their values. [DEDUCED: log 79] -/
def execGrant (req k : Nat) (b : Bool) (s : State) : Host.Outcome State Fault Refusal :=
  ok (if s.mayIsl req && decide (k < 8) then s.writePermit k (setF (s.rd (R.PERMIT_CTRL k)) F.PERMIT_CTRL_GRANT (b2n b)) else s)

/-- LOCK (R424). -/
def execLock (req : Nat) (s : State) : Host.Outcome State Fault Refusal :=
  ok (if s.mayIsl req then s.setBit R.SAFE_LOCK F.SAFE_LOCK_LOCK else s)

/-- Whether a register of the safety block is closed by the lock (R424). -/
def lockedReg (a : Nat) : Bool :=
  (decide (R.DM_MAP 0 ≤ a) && decide (a < R.DM_MAP 576)) || (decide (R.TC_CFG 0 ≤ a) && decide (a < R.TC_CFG 64))
    || a == R.TRIPIN_CFG || (List.range 8).any (fun k => a == R.PERMIT_TMASK_LO k || a == R.PERMIT_TMASK_HI k)

/-- What follows from a write to a register of the safety block: levels, comparators and pins are looked at again (R412, R418,
R419, R420). -/
def State.safeAfter (s : State) (a : Nat) (old : Word) : State :=
  let k := (a - R.TC_CFG 0) / 16
  let s := if R.TC_CFG 0 ≤ a ∧ k < 64 ∧ a = R.TC_CFG k ∧ s.bit a F.TC_CFG_EN ∧ !isSet old F.TC_CFG_EN then
      s.onSafe (fun x => { x with lastLatch := FMap.set 0 x.lastLatch k s.now })
    else s
  if a = R.TRIPIN_CFG ∨ a = R.TRIP_PIN then s.tripPins.settle else s.settle

/-! ### Fabric self-tests (R426) -/

/-- Whether a physical byte of a core lies in one of its enabled windows. -/
def State.windowed (s : State) (c a : Nat) : Bool :=
  (List.range 4).any (fun k => decide (s.phys c k 0 ≤ a) && decide (a < s.phys c k (s.bound c k)))

/-- R426: the march of a core's scratchpad leaves every byte outside its enabled windows zero, with valid check bits. [DEDUCED: log 81] -/
def State.march (s : State) (c : Nat) : State :=
  let word (w : Nat) : Bool := w / 2 ^ 19 == c && !s.windowed c (w % 2 ^ 19 * 8)
  { s with
    scratch := s.scratch.filter (fun e => !(e.1 / 2 ^ 22 == c && !s.windowed c (e.1 % 2 ^ 22)))
    ue := s.ue.filter (fun e => !word e.1)
    ce := s.ce.filter (fun e => !word e.1) }

/-- Whether a channel runs slices (R426): it is not OFF or UNBOUND. -/
def State.testable (s : State) (ch : Nat) : Bool :=
  s.fld (R.CP_STAT ch) F.CP_STAT_STATE == 1 || s.fld (R.CP_STAT ch) F.CP_STAT_STATE == 2

/-- Whether a step runs on a channel, and whether one waits for it. -/
def State.stepOn (s : State) (ch : Nat) : Bool × Bool :=
  match s.ownerOf ch with
  | none => (false, false)
  | some p => ((List.range 8).any (fun x => (s.ctx p x).running), (List.range 8).any (fun x => !(s.ctx p x).queue.isEmpty))

/-- FABRIC_SLICE (R426): a slice of channel ch's pass starts, between steps, one for each commit while steps wait. [DEDUCED: log 81] -/
def execFabricSlice (ch : Nat) (s : State) : Host.Outcome State Fault Refusal :=
  ok (
    let st := s.stepOn ch
    if ch < 4 ∧ s.bit R.TEST_CTRL F.TEST_CTRL_FEN ∧ s.testable ch ∧ bitOf s.tests.fpass ch ∧ (FMap.get none s.tests.frun ch).isNone
        ∧ !st.1 ∧ !(st.2 && bitOf s.tests.fused ch) ∧ !s.migr.any (fun m => m.ch == ch) ∧ !s.pwr.isl then
      s.onTests (fun t => { t with
        frun := FMap.set none t.frun ch (some (FMap.get 0 t.fdone ch))
        fused := Machine.setBit t.fused ch true })
    else s)

/-- FABRIC_SLICE_END (R426): the slice ends, its march of the column's unfenced cores done; the cores of the rows in `bad` fail it. -/
def execFabricSliceEnd (ch : Nat) (bad : List Nat) (s : State) : Host.Outcome State Fault Refusal :=
  ok (match FMap.get none s.tests.frun ch with
    | none => s
    | some col =>
      let last := decide (16 ≤ col)
      let s := s.each ((List.range 16).filterMap (fun r => (logicalCol (s.fmask ch r) col).map (coreId ch r))) State.march
      let s := s.onTests (fun t => { t with
        frun := FMap.set none t.frun ch none
        fdone := FMap.set 0 t.fdone ch (if last then 0 else col + 1)
        fpass := if last then Machine.setBit t.fpass ch false else t.fpass })
      let fails := bad.filter (fun r => decide (r < 16) && !bitOf (s.fmask ch r) col)
      let s := s.each fails (fun s r => s.coreFails ch r col 5)
      let s := if fails.isEmpty then s
        else (s.setFld R.TEST_STAT F.TEST_STAT_FFAIL (Machine.setBit (s.fld R.TEST_STAT F.TEST_STAT_FFAIL) ch true)).raiseDoubt 0x233
      let s := if last then
          s.setFld R.TEST_STAT F.TEST_STAT_FOVD (Machine.setBit (s.fld R.TEST_STAT F.TEST_STAT_FOVD) ch false)
        else s
      match s.ownerOf ch with
      | some p => s.settle.select p none
      | none => s.settle)

/-! ### Island self-tests (R427) -/

/-- Whether a lane is idle and the next base tick far enough away (R427). -/
def State.laneIdle (s : State) (l : Nat) : Bool :=
  (FMap.get none s.eng.lanes l).isNone && !s.eng.ready.any (fun r => s.loopLane r.loop == l)
    && (!s.bit R.LE_STAT F.LE_STAT_RUN || decide (1530 ≤ sx 32 (s.eng.next + 2 ^ 32 - s.tb3)))

/-- ISLAND_SLICE (R427). [DEDUCED: log 81] -/
def execIslandSlice (l : Nat) (s : State) : Host.Outcome State Fault Refusal :=
  ok (if l < 16 ∧ !s.pwr.isl ∧ s.bit R.TEST_CTRL F.TEST_CTRL_IEN ∧ s.tests.ipass ∧ !bitOf s.tests.irun l
        ∧ !bitOf (s.fld R.TEST_STAT F.TEST_STAT_LANEDONE) l ∧ s.laneIdle l then
      s.onTests (fun t => { t with irun := Machine.setBit t.irun l true })
    else s)

/-- ISLAND_SLICE_END (R427). -/
def execIslandSliceEnd (l : Nat) (fail : Bool) (s : State) : Host.Outcome State Fault Refusal :=
  ok (if l < 16 ∧ bitOf s.tests.irun l then
      let done := Machine.setBit (s.fld R.TEST_STAT F.TEST_STAT_LANEDONE) l true
      let all := decide (done = 2 ^ 16 - 1)
      let s := s.onTests (fun t => { t with irun := Machine.setBit t.irun l false, ipass := t.ipass && !all })
      let s := s.setFld R.TEST_STAT F.TEST_STAT_LANEDONE done
      let s := if all then s.setFld R.TEST_STAT F.TEST_STAT_IOVD 0 else s
      if fail then (s.setBit R.TEST_STAT F.TEST_STAT_IFAIL).raiseDoubt 0x234 else s.settle
    else s)

/-! ### Test intervals (R428) -/

/-- A pass of channel ch starts, and one of the island (R428). -/
def State.startPass (s : State) (ch : Nat) : State :=
  if s.testable ch then s.onTests (fun t => { t with fpass := Machine.setBit t.fpass ch true, fdone := FMap.set 0 t.fdone ch 0 }) else s
def State.startIsland (s : State) : State := (s.onTests (fun t => { t with ipass := true })).setFld R.TEST_STAT F.TEST_STAT_LANEDONE 0

/-- R428: the first interval begins as the safety block leaves reset, with a pass of each channel and of the island. [DEDUCED: log 81] -/
def State.startTests (s : State) : State := (s.each [0, 1, 2, 3] State.startPass).startIsland

/-- The interval of channel ch's pass ends: an unfinished pass is overdue, else the next one starts. [DEDUCED: log 81] -/
def State.fabricInterval (s : State) (ch : Nat) : State :=
  if !s.testable ch then s
  else if bitOf s.tests.fpass ch then
    let was := s.fld R.TEST_STAT F.TEST_STAT_FOVD
    if bitOf was ch then s
    else
      let s := s.setFld R.TEST_STAT F.TEST_STAT_FOVD (Machine.setBit was ch true)
      let s := s.plainEvent evMaint [1, ch]
      if s.bit R.TEST_CTRL F.TEST_CTRL_FESC then s.raiseDoubt 0x235 else s
  else s.startPass ch

/-- The interval of the island pass ends. [DEDUCED: log 81] -/
def State.islandInterval (s : State) : State :=
  if s.tests.ipass then
    if s.bit R.TEST_STAT F.TEST_STAT_IOVD then s
    else
      let s := (s.setBit R.TEST_STAT F.TEST_STAT_IOVD).plainEvent evMaint [2, 0]
      if s.bit R.TEST_CTRL F.TEST_CTRL_IESC then s.raiseDoubt 0x236 else s
  else s.startIsland

/-- TEST_INTERVAL (R428): INTERVAL ms of TB2 have passed. [DEDUCED: log 81] -/
def execTestInterval (s : State) : Host.Outcome State Fault Refusal :=
  ok (if s.pwr.isl then s else (s.each [0, 1, 2, 3] (fun s ch => s.fabricInterval ch)).islandInterval)

/-! ### Logic BIST (R429) -/

/-- A write of TEST_CTRL. -/
def State.writeTestCtrl (s : State) (v : Word) : State :=
  let iv := getF v F.TEST_CTRL_INTERVAL
  let keep := if 1 ≤ iv ∧ iv ≤ 10000 then iv else s.fld R.TEST_CTRL F.TEST_CTRL_INTERVAL
  let s := s.wr R.TEST_CTRL (BitVec.ofNat 32 ((v.toNat &&& 0xF6000000) + keep))
  let ch := getF v F.TEST_CTRL_BISTCH
  let s :=
    if !isSet v F.TEST_CTRL_BISTGO then s
    else if s.fld (R.CP_STAT ch) F.CP_STAT_STATE == 1 && (s.ownerOf ch).isNone && s.tests.bist.isNone then
      (s.setBit R.TEST_STAT F.TEST_STAT_BISTBUSY).onTests (fun t => { t with bist := some ch })
    else s.setBit R.TRIP_FAULT F.TRIP_FAULT_CFG_REJECT
  s.settle

/-- BISTGO (R429): the other fields of TEST_CTRL keep their values. [DEDUCED: log 81] -/
def execBistgo (req ch : Nat) (s : State) : Host.Outcome State Fault Refusal :=
  ok (if s.mayIsl req && decide (ch < 4) then
      s.writeTestCtrl (setF (setF (s.rd R.TEST_CTRL) F.TEST_CTRL_BISTCH ch) F.TEST_CTRL_BISTGO 1)
    else s)

/-- The BIST that runs, if one does, ends: BISTBUSY reads 0. [DEDUCED: log 81] -/
def State.endBist (s : State) : State := (s.onTests (fun t => { t with bist := none })).setFld R.TEST_STAT F.TEST_STAT_BISTBUSY 0

/-- BIST_END (R429): the cores at the rows and physical columns of `bad` have failed. -/
def execBistEnd (bad : List (Nat × Nat)) (s : State) : Host.Outcome State Fault Refusal :=
  ok (match s.tests.bist with
    | none => s
    | some ch =>
      let s := s.endBist
      let fails := bad.filter (fun q => decide (q.1 < 16) && decide (q.2 < 17))
      let s := s.each fails (fun s q => s.coreFails ch q.1 q.2 5)
      if fails.isEmpty then s else s.setBit R.TEST_STAT F.TEST_STAT_BISTFAIL)

end Sys2Proof.Machine
end

