-- ==== Sys2Proof/Machine/Power.lean ====
section
/-! DEFINITION. Sys2Proof/Machine/Power.lean: tension, the gauge, the supply and temperature monitors (R449-R457,
R502-R509). -/

namespace Sys2Proof.Machine

/-! ### Parts of the state changed by a function -/

/-- Power and reset. -/
def State.onPwr (s : State) (f : PwrSt → PwrSt) : State := { s with pwr := f s.pwr }

/-- The gauge. -/
def State.onGauge (s : State) (f : GaugeSt → GaugeSt) : State := { s with gauge := f s.gauge }

/-- One bit of a field set or cleared. -/
def State.putBit (s : State) (a : Nat) (f : Fld) (i : Nat) (b : Bool) : State :=
  s.setFld a f (Machine.setBit (s.fld a f) i b)

/-! ### Tension (R502, R503) -/

/-- Whether a cause of tension is present on a channel. -/
def State.tenCause (s : State) (ch : Nat) : Bool :=
  s.bit (R.TEN_STAT ch) F.TEN_STAT_DRP || s.bit (R.TEN_STAT ch) F.TEN_STAT_WARN || s.bit (R.TEN_STAT ch) F.TEN_STAT_HOT

/-- The channels that stretch together: those of the owning partition, or the channel alone (R503). -/
def State.tenGroup (s : State) (ch : Nat) : List Nat :=
  match s.ownerOf ch with
  | some p => (s.part p).chans
  | none => [ch]

/-- R493, R503: the 16 stretched cycles of a burst, counted at its start for every core of the channel. [DESIGN CHOICE: log 83] -/
def State.countStretch (s : State) (ch : Nat) : State :=
  let run := (List.range 256).filter (fun i => s.isRunning (ch * 256 + i))
  let s := s.each run (fun s i => s.count (some (ch * 256 + i)) ch (some (s.ownerIn (ch * 256 + i) (s.active (ch * 256 + i)))) 0x0F 16)
  s.count none ch none 0x0F (16 * (256 - run.length))

/-- R502: a burst of 25 ns, ten CK_S cycles, begins on a channel. [DESIGN CHOICE: log 83] -/
def State.burst (s : State) (ch : Nat) : State :=
  (((s.countStretch ch).setBit (R.TEN_STAT ch) F.TEN_STAT_ACTIVE).incFld (R.TEN_STAT ch) F.TEN_STAT_BURSTS 1).onPwr
    (fun x => { x with bursts := FMap.set 0 x.bursts ch (s.now + 10) })

/-- Tension of one channel brought up to date: a burst that runs goes on to its end; bursts follow while a cause lasts. -/
def State.tenChannel (s : State) (ch : Nat) : State :=
  if s.stretched ch && decide (s.now < FMap.get 0 s.pwr.bursts ch) then s
  else if (s.tenGroup ch).any s.tenCause then s.burst ch
  else s.setFld (R.TEN_STAT ch) F.TEN_STAT_ACTIVE 0

/-- Tension of every channel brought up to date. [DESIGN CHOICE: log 83] -/
def State.tension (s : State) : State := s.each [0, 1, 2, 3] State.tenChannel

/-- FAST_DROOP (R502): VDD_CHn falls below VSET by more than the threshold, or rises again. [DESIGN CHOICE: log 83] -/
def execFastDroop (ch : Nat) (present : Bool) (s : State) : Host.Outcome State Fault Refusal :=
  ok (if ch < 4 ∧ s.powered then (s.setFld (R.TEN_STAT ch) F.TEN_STAT_DRP (b2n present)).tension else s)

/-! ### The gauge (R449-R452, R509) -/

/-- Operating minutes since first power-up (R451). -/
def State.minutes (s : State) : Nat := s.gauge.minutes + (s.now - s.gauge.upAt) / 24000000000

/-- The records of a channel in the history, oldest first: minutes and VSET. -/
def State.history (s : State) (n : Nat) : List (Nat × Nat) :=
  ((s.sec.store.gauge.map (·.1) ++ s.sec.heldGauge).filter (fun g => !g.shutdown && le g.bytes 4 1 == n)).map
    (fun g => (le g.bytes 0 4, le g.bytes 6 2))

/-- DAYS (R451): floor((850 - VSET) * span / rise) from the record 90 days earlier, or the oldest. [DEDUCED: log 84] -/
def daysLeft (hist : List (Nat × Nat)) (now v : Nat) : Nat :=
  match (hist.filter (fun h => decide (h.1 + 129600 ≤ now))).getLast? <|> hist.head? with
  | none => 0xFFFF
  | some h => if v ≤ h.2 then 0xFFFF else min ((850 - v) * (now - h.1) / (1440 * (v - h.2))) 0xFFFF

/-- GAUGEn_HEAD brought up to date. -/
def State.gaugeHead (s : State) (n : Nat) : State :=
  let v := s.fld (R.GAUGE_VSET n) F.GAUGE_VSET_VSET
  let s := s.setFld (R.GAUGE_HEAD n) F.GAUGE_HEAD_MV (850 - v)
  s.setFld (R.GAUGE_HEAD n) F.GAUGE_HEAD_DAYS (daysLeft (s.history n) s.minutes v)

/-- A measurement of a channel starts. [DEDUCED: log 84] -/
def State.measure (s : State) (n : Nat) : State :=
  (s.setBit (R.GAUGE_STAT n) F.GAUGE_STAT_MEAS).onGauge (fun g => { g with again := FMap.set none g.again n none })

/-- A measurement of every channel starts. -/
def State.measureAll (s : State) : State := s.each [0, 1, 2, 3] State.measure

/-- The corrected-error counts of the gauge interval start again (R453). -/
def State.clearCe (s : State) : State :=
  let ks := (s.regs.filter (fun r => decide (R.CORE_STAT 0 0 ≤ r.1) && decide (r.1 < 0x02000000) && r.1 % 0x400000 / 0x100000 == 2
    && r.1 % 0x400 == 0x108)).map (·.1)
  s.each ks (fun s a => s.setFld a F.CORE_FENCE_CNT_CE 0)

/-- Whether no PMBus transaction is under way or due (R509, R514). -/
def State.railsSet (s : State) : Bool :=
  (List.range 4).all (fun n => (FMap.get none s.gauge.want n).isNone && !FMap.get false s.gauge.probe n)

/-- Whether the gauge has done what cast-on asks of it (R450, R514): every channel is measured, and no lowering is under way. A raise goes
on after FABRIC_READY. [DEDUCED: log 84] -/
def State.gaugeDone (s : State) : Bool :=
  s.gauge.lastAt != 0 && (List.range 4).all (fun n =>
    !s.bit (R.GAUGE_STAT n) F.GAUGE_STAT_MEAS && !FMap.get false s.gauge.probe n
      && (match FMap.get none s.gauge.want n with
        | none => true
        | some w => decide (s.fld (R.GAUGE_VSET n) F.GAUGE_VSET_VSET < w))
      && (match FMap.get none s.gauge.again n with
        | none => true
        | some t => decide (s.now < t)))

/-- GAUGE_MEASUREMENT (R449, R450): a gauge interval of 10 minutes ends, or cast-on measures (none); or the measurement that
follows a step of VSET starts on a channel. [DEDUCED: log 84] -/
def execGaugeMeasurement (ch : Option Nat) (s : State) : Host.Outcome State Fault Refusal :=
  ok (
    if !s.powered then s
    else
      match ch with
      | none =>
        if (s.pwr.cast && s.pwr.tested && s.gauge.lastAt == 0 && s.railsSet) || (!s.pwr.cast && decide (s.gauge.lastAt + 240000000000 ≤ s.now)) then
          (s.measureAll.clearCe).onGauge (fun g => { g with lastAt := max s.now 1 })
        else s
      | some n =>
        match FMap.get none s.gauge.again n with
        | some t => if n < 4 ∧ t ≤ s.now then s.measure n else s
        | none => s)

/-- NOW (R452): every channel is measured. -/
def execNow (req : Nat) (s : State) : Host.Outcome State Fault Refusal :=
  ok (if mayCore req && s.powered then s.measureAll else s)

/-- R450: what the margin controller does with a measurement of channel `n`: a PMBus write starts, or the ceiling is reported. [DEDUCED: log 84] -/
def State.marginStep (s : State) (n : Nat) (slack : Int) (sram : Bool) : State :=
  let v := s.fld (R.GAUGE_VSET n) F.GAUGE_VSET_VSET
  let mt : Int := s.fld R.GAUGE_CFG F.GAUGE_CFG_MT
  let aim (s : State) (w : Nat) : State := s.onGauge (fun g => { g with want := FMap.set none g.want n (some w) })
  if slack < mt || !sram then
    if v < 850 then aim s (min (v + 5) 850)
    else
      let s := s.setBit (R.GAUGE_STAT n) F.GAUGE_STAT_CEIL
      if FMap.get false s.gauge.noted n then s
      else (s.plainEvent evMaint [3, n]).onGauge (fun g => { g with noted := FMap.set false g.noted n true })
  else if s.pwr.cast && decide (mt + 20 ≤ slack) && decide (605 ≤ v) && decide (FMap.get 0 s.gauge.steps n < 16) then
    (aim s (v - 5)).onGauge (fun g => { g with steps := FMap.set 0 g.steps n (FMap.get 0 g.steps n + 1) })
  else s

/-- GAUGE_MEASUREMENT_END (R449-R451): the measurement of channel `n` yields SLACK in picoseconds and the verdict of the SRAM
monitors; whether the store takes the record is a free value. [DEDUCED: log 84] -/
def execGaugeMeasurementEnd (n : Nat) (slack : Int) (sram : Bool) (s : State) : Host.Outcome State Fault Refusal :=
  ok (if n < 4 ∧ s.powered ∧ s.bit (R.GAUGE_STAT n) F.GAUGE_STAT_MEAS then
      let x := wrapN 16 slack
      let (stored, s) := s.draw
      let s := s.setFld (R.GAUGE_STAT n) F.GAUGE_STAT_MEAS 0
      let s := s.incFld (R.GAUGE_STAT n) F.GAUGE_STAT_COUNT 1
      let s := s.setFld (R.GAUGE_SLACK n) F.GAUGE_SLACK_SLACK x
      let s := s.storeGauge ⟨false, leBytes 4 s.minutes ++ leBytes 1 n ++ leBytes 1 0
        ++ leBytes 2 (s.fld (R.GAUGE_VSET n) F.GAUGE_VSET_VSET) ++ leBytes 2 x ++ leBytes 2 (s.fld (R.THERM_T n) F.THERM_T_TEMP)
        ++ leBytes 4 0⟩ (bitOf stored.toNat 0)
      (s.gaugeHead n).marginStep n slack sram
    else s)

/-- A PMBus transaction of channel `n` fails: the third time PMBERR is set and what it was for is given up. [DEDUCED: log 84] -/
def State.pmbusFails (s : State) (n : Nat) : State :=
  if 2 ≤ FMap.get 0 s.gauge.fails n then
    (s.setBit (R.GAUGE_STAT n) F.GAUGE_STAT_PMBERR).onGauge (fun g => { g with
      want := FMap.set none g.want n none
      probe := FMap.set false g.probe n false
      fails := FMap.set 0 g.fails n 0 })
  else s.onGauge (fun g => { g with fails := FMap.set 0 g.fails n (FMap.get 0 g.fails n + 1) })

/-- PMBUS_TRANSACTION_END (R450, R509): at cast-on the read of VOUT_MODE, then a write of VOUT_COMMAND, 5 mV at most, succeeds or fails. [DEDUCED: log 84] -/
def execPmbusTransactionEnd (n : Nat) (good : Bool) (s : State) : Host.Outcome State Fault Refusal :=
  ok (if 4 ≤ n ∨ !s.powered then s
    else if FMap.get false s.gauge.probe n then
      (if good then s.onGauge (fun g => { g with probe := FMap.set false g.probe n false, fails := FMap.set 0 g.fails n 0 })
        else s.pmbusFails n)
    else match FMap.get none s.gauge.want n with
    | none => s
    | some w =>
      let v := s.fld (R.GAUGE_VSET n) F.GAUGE_VSET_VSET
      if !good then s.pmbusFails n
      else
        let u := if v < w then min (v + 5) w else max (v - 5) w
        let s := s.setFld (R.GAUGE_VSET n) F.GAUGE_VSET_VSET u
        let s := s.setFld (R.GAUGE_HEAD n) F.GAUGE_HEAD_MV (850 - u)
        let s := s.onGauge (fun g => { g with fails := FMap.set 0 g.fails n 0 })
        if u ≠ w then s
        else
          let next := if v < u then s.now + 400000000 else s.now
          s.onGauge (fun g => { g with
            want := FMap.set none g.want n none
            again := if s.pwr.cast && s.gauge.lastAt == 0 then g.again else FMap.set none g.again n (some next) }))

/-! ### Supply warnings (R454) -/

/-- R454: a rail crosses its warning threshold. -/
def State.warnRail (s : State) (r : Nat) : State :=
  if bitOf (s.fld R.SUPPLY_STAT F.SUPPLY_STAT_BELOW) r then s
  else
    let s := (s.putBit R.SUPPLY_STAT F.SUPPLY_STAT_BELOW r true).putBit R.SUPPLY_STAT F.SUPPLY_STAT_WARNS r true
    let s := s.plainEvent evSupply [r, 1]
    let s := if r < 4 then (s.setBit (R.TEN_STAT r) F.TEN_STAT_WARN).tension else s
    s.raiseDoubt (0x228 + r)

/-- SUPPLY_WARNING (R454). -/
def execSupplyWarning (r : Nat) (s : State) : Host.Outcome State Fault Refusal :=
  ok (if r < 5 ∧ s.powered then s.warnRail r else s)

/-! ### Ranges of the register map (R266, R511) -/

/-- Registers that a Fabric reset returns to their reset values: channels, links, host interface, trace and counters. -/
def fabricReg (a : Nat) : Bool :=
  (decide (0x01000000 ≤ a) && decide (a < 0x02200000)) || (decide (0x02700000 ≤ a) && decide (a < 0x02800000)) || decide (0x04000000 ≤ a)

/-- Registers that an island reset returns to their reset values. -/
def islandReg (a : Nat) : Bool := decide (0x02200000 ≤ a) && decide (a < 0x02600000)

/-- Registers of the block of a channel. -/
def channelReg (n a : Nat) : Bool := decide (0x01000000 + n * 0x400000 ≤ a) && decide (a < 0x01400000 + n * 0x400000)

/-- The registers that a test names at their reset values; their holding copies are gone (R7, R8). -/
def State.dropRegs (s : State) (f : Nat → Bool) : State :=
  { s with
    regs := s.regs.filter (fun r => !f r.1)
    hold := s.hold.filter (fun h => !f (h.1 % 2 ^ 32)) }

/-! ### Channels in reset (R454, R513) -/

/-- Power-up bits of domains set or cleared (R516). -/
def State.putUp (s : State) (d : Nat) (b : Bool) : State :=
  if d < 32 then s.putBit R.PWR_UP_LO F.PWR_UP_LO_UP d b else s.putBit R.PWR_UP_HI F.PWR_UP_HI_UP (d - 32) b

/-- The domains of a channel. -/
def chanDomains (n : Nat) : List Nat := (10 + n) :: (List.range 9).map (fun k => 14 + 9 * n + k)

/-- Whether a reset still holds a domain (R454, R510, R514): power-on and clock resets until cast-on releases it, an island reset, a
Fabric reset, a channel's rail reset. [DEDUCED: log 87] -/
def State.domainReset (s : State) (d : Nat) : Bool :=
  if d = 0 then !s.powered
  else if d < 5 then !s.powered || s.pwr.isl
  else
    !s.powered || s.bit R.HI_STAT F.HI_STAT_FABRIC_RESET || (s.pwr.cast && (if d = 5 then s.pwr.isl else !s.pwr.tested))
      || (List.range 4).any (fun n => bitOf s.pwr.held n && (chanDomains n).contains d)

/-- UP of those of some domains that are neither gated nor held in reset (R506, R516). [DEDUCED: log 87] -/
def State.raiseUp (s : State) (ds : List Nat) : State :=
  s.each (ds.filter (fun d => !s.gated d && !s.domainReset d)) (fun s d => s.putUp d true)

/-- The cores of a channel as after reset: scratchpads zero with valid check bits. -/
def State.clearCores (s : State) (n : Nat) : State :=
  { s with
    cores := FMap.clear s.cores (n * 256) 256
    scratch := FMap.clear s.scratch (cellKey (n * 256) 0) (256 * 2 ^ 22)
    ue := FMap.clear s.ue (wordKey (n * 256) 0) (256 * 2 ^ 19)
    ce := FMap.clear s.ce (wordKey (n * 256) 0) (256 * 2 ^ 19) }

/-- R454, R510: the domains of channel `n` are reset. Migrations in it stop, their fences stay in the spare map (R446); the channel
shows OFF until its rail recovers. -/
def State.resetChannel (s : State) (n : Nat) : State :=
  let s := s.each (s.migr.filter (fun m => m.ch == n)) (fun s m => s.noteFence m.ch m.row m.col m.cause false)
  let s := { s with migr := s.migr.filter (fun m => m.ch != n) }
  let unbound := s.chState n == 3
  let s := (s.clearCores n).dropRegs (channelReg n)
  let s := s.setFld (R.CP_STAT n) F.CP_STAT_STATE (if unbound then 3 else 0)
  let s := s.onTests (fun t => { t with frun := FMap.set none t.frun n none })
  let s := if s.tests.bist = some n then s.endBist else s
  let s := { s with trc := { s.trc with buf := FMap.set [] s.trc.buf n [], lost := FMap.set false s.trc.lost n false } }
  let s := s.each (chanDomains n) (fun s d => s.putUp d false)
  match s.ownerOf n with
  | none => s
  | some p => s.each (List.range 8) (fun s x => s.onCtx p x (fun t => { t with stopWait := t.stopWait.filter (fun c => c / 256 != n) }))

/-- The channel's rail has reset it: it is held until the rail recovers. [DEDUCED: log 85] -/
def State.railResetChannel (s : State) (n : Nat) : State :=
  let s := match s.ownerOf n with
    | some p => s.beginReset p prRail false
    | none => s
  (s.resetChannel n).onPwr (fun x => { x with held := Machine.setBit x.held n true })

/-- R454: a held channel returns. [DEDUCED: log 85] -/
def State.releaseChannel (s : State) (n : Nat) : State :=
  let s := s.onPwr (fun x => { x with held := Machine.setBit x.held n false })
  let s := s.raiseUp (chanDomains n)
  if s.chState n = 3 then s
  else
    let s := s.setFld (R.CP_STAT n) F.CP_STAT_STATE 1
    match s.ownerOf n with
    | some p => s.select p none
    | none => s

/-- SUPPLY_RECOVERY (R454): the rail has been above its warning threshold for 10 µs. [DEDUCED: log 85] -/
def execSupplyRecovery (r : Nat) (s : State) : Host.Outcome State Fault Refusal :=
  ok (if r < 5 ∧ s.powered ∧ bitOf (s.fld R.SUPPLY_STAT F.SUPPLY_STAT_BELOW) r then
      let s := s.putBit R.SUPPLY_STAT F.SUPPLY_STAT_BELOW r false
      let s := if r < 4 then (s.setFld (R.TEN_STAT r) F.TEN_STAT_WARN 0).tension else s
      let s := s.settle
      if r < 4 ∧ bitOf s.pwr.held r then s.releaseChannel r else s
    else s)

end Sys2Proof.Machine
end

