-- ==== Sys2Proof/Machine/Reset.lean ====
section
/-! DEFINITION. Sys2Proof/Machine/Reset.lean: the reset kinds, cast-on, thermal response, PCIe resets, power gating (R264, R291,
R447, R456, R499-R516, R528). -/

namespace Sys2Proof.Machine

/-! ### The island (R421, R510) -/

/-- R510: the island is reset: its blocks at reset values, permits low, recorder region 4 to be overwritten. What the sensors' levels are
follows the sensors (R413); a BIST that the safety block runs ends. [DEDUCED: log 81] -/
def State.islandReset (s : State) : State :=
  let s := s.dropRegs islandReg
  let s := { s with
    ing := State.reset.ing
    eng := State.reset.eng
    time := State.reset.time
    safe := { State.reset.safe with tripLow := s.safe.tripLow, clkBad := s.safe.clkBad, warm := s.safe.warm }
    tests := { State.reset.tests with frun := s.tests.frun } }
  let s := s.each [1, 2, 3, 4] (fun s d => s.putUp d false)
  ((s.setFld R.HI_STAT F.HI_STAT_ISLAND_UP 0).wipeRegion 4).onPwr (fun x => { x with isl := true })

/-- ISLAND_UP (R401, R423, R514): PD01 to PD04 leave reset with permits low, the time-loss source is raised, start-up completes; the clock
monitor sets CLKFAIL where CK_A is still bad. PCIe link training may start. [DEDUCED: log 87, 102] -/
def execIslandUp (s : State) : Host.Outcome State Fault Refusal :=
  ok (if s.pwr.isl ∧ s.powered ∧ s.bit R.CLK_STAT F.CLK_STAT_LOCK ∧ !bitOf (s.fld R.SUPPLY_STAT F.SUPPLY_STAT_BELOW) 4 then
      let s := s.onPwr (fun x => { x with isl := false, training := x.training || !x.perst })
      let s := (s.raiseUp [1, 2, 3, 4, 5]).startTests
      let s := s.setFld R.HI_STAT F.HI_STAT_ISLAND_UP 1
      let s := if s.safe.clkBad then s.setBit R.TRIP_FAULT F.TRIP_FAULT_CLKFAIL else s
      (s.raiseDoubt 0x232).tripPins
    else s)

/-- ISLRST (R510, R516): the management port resets the island; a write through the PF is discarded with CFG_REJECT. -/
def execIslrst (req : Nat) (s : State) : Host.Outcome State Fault Refusal :=
  ok (if req = 5 then (if s.pwr.isl then s else s.islandReset)
    else if req = 0 then s.setBit R.PWR_STAT F.PWR_STAT_CFG_REJECT
    else s)

/-! ### The Fabric (R317, R510-R512) -/

/-- Every block of the Fabric as after reset: cores, table memory, network, partitions, rings, trace. Host memory stays. -/
def State.emptyFabric (s : State) : State :=
  let s := s.endBist
  { s with
    scratch := []
    ue := []
    ce := []
    tableMem := []
    cores := []
    noc := State.reset.noc
    parts := []
    migr := []
    host := { State.reset.host with mem := s.host.mem, bad := s.host.bad, numVFs := s.host.numVFs, msix := s.host.msix }
    trc := State.reset.trc
    tests := { s.tests with frun := [], shared := 0 } }

/-- KL_ID takes the straps (R511, R526). -/
def State.takeStraps (s : State) : State :=
  s.wr R.KL_ID (mkF F.KL_ID_CLUSTER s.pwr.clu + mkF F.KL_ID_CHIP s.pwr.chip)

/-- The registers of the Fabric at reset values, CASTON_FAIL among them (R269, R511); ISLAND_UP shows the island, which the reset does not
reach. Channels that the spare map leaves UNBOUND stay so (R438), held ones show OFF
(R513), gated ones keep their state. -/
def State.fabricRegs (s : State) : State :=
  let isl := s.fld R.HI_STAT F.HI_STAT_ISLAND_UP
  let unbound := (List.range 4).filter (fun n => s.chState n == 3)
  let s := (s.dropRegs fabricReg).takeStraps
  let s := s.setFld R.HI_STAT F.HI_STAT_ISLAND_UP isl
  let off := (List.range 4).filter (fun n => bitOf s.pwr.held n || s.gated (10 + n))
  let s := s.each off (fun s n => s.setFld (R.CP_STAT n) F.CP_STAT_STATE 0)
  s.each unbound (fun s n => s.setFld (R.CP_STAT n) F.CP_STAT_STATE 3)

/-- Migrations end: their fences are kept in the spare map (R446, R511). [DEDUCED: log 86] -/
def State.keepFences (s : State) : State := s.each s.migr (fun s m => s.noteFence m.ch m.row m.col m.cause false)

/-- R510, R512: a Fabric reset is triggered: the sources of configured partitions are raised, and those of mapped links, every one of which
goes OFF (R256, R413). One that runs, or cast-on, absorbs it (R513). [DEDUCED: log 86] -/
def State.fabricReset (s : State) : State :=
  if s.bit R.HI_STAT F.HI_STAT_FABRIC_RESET || s.pwr.cast || !s.powered then s
  else
    let owners := (List.range 4).filter (fun p => (s.part p).configured)
    let faced := (List.range 16).filter (fun l => s.linkState l != klOff && s.fld (R.DM_MAP (doubtLink l)) F.DM_MAP_MASK != 0)
    let s := (s.keepFences.emptyFabric).fabricRegs
    let s := s.setFld R.HI_STAT F.HI_STAT_FABRIC_RESET 1
    let s := s.setFld R.HI_STAT F.HI_STAT_FABRIC_READY 0
    let s := s.each ((List.range 50).filter (fun d => decide (5 ≤ d))) (fun s d => s.putUp d false)
    let s := s.each (List.range 4) (fun s r => s.wipeRegion r)
    ((s.each owners (fun s p => s.raiseDoubt (doubtPart p))).each faced (fun s l => s.raiseDoubt (doubtLink l))).settle

/-- FABRST (R510, R516): the management port resets the Fabric. [DEDUCED: log 86] -/
def execFabrst (req : Nat) (s : State) : Host.Outcome State Fault Refusal :=
  ok (if req = 5 then s.fabricReset
    else if req = 0 then s.setBit R.PWR_STAT F.PWR_STAT_CFG_REJECT
    else s)

/-- FABRIC_READY (R512, R514): the Fabric reset, or cast-on, ends; cast-on once the gauge has measured and lowered. With CASTON_FAIL the Fabric does not become ready. [DEDUCED: log 86] -/
def execFabricReady (s : State) : Host.Outcome State Fault Refusal :=
  ok (if s.powered ∧ (s.bit R.HI_STAT F.HI_STAT_FABRIC_RESET
        ∨ (s.pwr.cast ∧ s.pwr.tested ∧ s.gaugeDone ∧ s.bit R.HI_STAT F.HI_STAT_ISLAND_UP)) then
      let s := (s.setFld R.HI_STAT F.HI_STAT_FABRIC_RESET 0).raiseUp ((List.range 50).filter (fun d => decide (5 ≤ d)))
      if s.bit R.HI_STAT F.HI_STAT_CASTON_FAIL then s.onPwr (fun x => { x with cast := false })
      else
        let s := (s.setBit R.HI_STAT F.HI_STAT_FABRIC_READY).onPwr (fun x => { x with cast := false, wasReady := true })
        s.plainEvent evReady []
    else s)

/-! ### PCIe resets (R264, R291, R510, R528) -/

/-- The host-interface registers of function `f` at their reset values, with its rings and its event numbering. -/
def State.resetFn (s : State) (f : Nat) : State :=
  let mine (a : Nat) : Bool := decide (0x02101000 + 0x4000000 * f ≤ a) && decide (a < 0x02103000 + 0x4000000 * f)
  (s.dropRegs mine).onHost (fun h => { h with
    qps := FMap.clear h.qps (f * 64) 64
    descs := h.descs.filter (fun d => d.fn != f)
    seq := FMap.set 0 h.seq f 0
    pba := FMap.clear h.pba (f * 64) 64
    masked := FMap.clear h.masked (f * 64) 64 })

/-- NumVFs set (R264): the VFs that appear have their registers at reset values. -/
def State.setNumVFs (s : State) (n : Nat) : State :=
  let fresh := (List.range 5).filter (fun f => decide (s.host.numVFs < f) && decide (f ≤ n))
  (s.each fresh State.resetFn).onHost (fun h => { h with numVFs := n })

/-- NUMVFS_WRITE (R264): the PF's NumVFs is written, 0 to 4. -/
def execNumvfsWrite (n : Nat) (s : State) : Host.Outcome State Fault Refusal :=
  ok (if n ≤ 4 then s.setNumVFs n else s)

/-- A reset of the PCIe link or of the PF: every function's registers at reset values, NumVFs 0. -/
def State.resetFunctions (s : State) : State := (s.each (List.range 5) State.resetFn).onHost (fun h => { h with numVFs := 0 })

/-- PF_FLR (R291). [DEDUCED: log 86] -/
def execPfFlr (s : State) : Host.Outcome State Fault Refusal := ok (s.fabricReset.resetFunctions)

/-- VF_FLR (R291, R317): no entry on the VF's rings, FROGGED on PF rings for its partition. -/
def execVfFlr (f : Nat) (s : State) : Host.Outcome State Fault Refusal :=
  ok (if 1 ≤ f ∧ f ≤ 4 ∧ s.fnUp f then (s.resetFn f).beginReset (f - 1) prFlr false else s)

/-- A PCIe reset after FABRIC_READY has first been set is a Fabric reset; before, link training starts again (R510, R528). -/
def State.pcieReset (s : State) : State :=
  if s.pwr.wasReady then s.fabricReset.resetFunctions else s

/-- PERST_N_FALL (R528). -/
def execPerstNFall (s : State) : Host.Outcome State Fault Refusal :=
  ok (if s.pwr.perst then s
    else (s.onPwr (fun x => { x with perst := true, training := false })).pcieReset)

/-- PERST_N_RISE (R514): link training starts once the island is up. -/
def execPerstNRise (s : State) : Host.Outcome State Fault Refusal :=
  ok (s.onPwr (fun x => { x with perst := false, training := x.training || s.bit R.HI_STAT F.HI_STAT_ISLAND_UP }))

/-- PCIE_HOT_RESET (R510): a hot reset or a link-disable reset. [DEDUCED: log 86] -/
def execPcieHotReset (s : State) : Host.Outcome State Fault Refusal := ok s.pcieReset

/-! ### Rails (R454) -/

/-- RAIL_RESET (R454, R510, R513): a rail crosses its reset threshold. [DEDUCED: log 25, 85] -/
def execRailReset (r : Nat) (s : State) : Host.Outcome State Fault Refusal :=
  ok (if r < 5 ∧ s.powered then
      let s := s.warnRail r
      let s := (s.putBit R.SUPPLY_STAT F.SUPPLY_STAT_RESETS r true).plainEvent evSupply [r, 2]
      if r < 4 then s.railResetChannel r
      else if s.pwr.isl then s
      else s.islandReset
    else s)

/-! ### Cold starts (R501, R508, R510, R514) -/

/-- Everything but PD00 reset: island and Fabric, with permits low. The blocks of PD00 keep their registers; the context-fault
sources end with the island. -/
def State.allButAlwaysOn (s : State) : State :=
  let s := (s.keepFences.emptyFabric).islandReset
  let s := (s.dropRegs fabricReg).takeStraps
  let s := s.each (List.range 50) (fun s d => if d = 0 then s else s.putUp d false)
  let s := s.each (List.range 4) (fun s r => s.wipeRegion r)
  s.onHost (fun h => { h with numVFs := 0 })

/-- The state a power-on reset leaves, with what lies outside the device or outlives its power: host memory, the store device, the
pins, JTAG, the model's own clock, draws and queue. `cause` is the code of RST_CAUSE. [DEDUCED: log 87] -/
def State.powerOn (s : State) (cause : Nat) : State :=
  let r := { State.reset with
    host := { State.reset.host with mem := s.host.mem, bad := s.host.bad, msix := s.host.msix }
    sec := { State.reset.sec with store := s.sec.store }
    safe := { State.reset.safe with tripLow := s.safe.tripLow, clkBad := s.safe.clkBad }
    gauge := { State.reset.gauge with minutes := s.minutes, upAt := s.now }
    pwr := { State.reset.pwr with pinLow := s.pwr.pinLow, brown := s.pwr.brown, perst := s.pwr.perst }
    jtag := { s.jtag with driven := decide (3 ≤ s.jtag.instr) }
    now := s.now
    fresh := s.fresh
    pending := s.pending }
  r.wr R.RST_CAUSE (BitVec.ofNat 32 (cause + b2n s.pwr.shut * 16))

/-- R514, R526: the level rises: straps sampled (cluster straps of 17 to 31 load 0), PD00 runs, cast-on begins. -/
def State.powerRise (s : State) (clu chip : Nat) : State :=
  let s := s.onPwr (fun x => { x with clu := if clu ≤ 16 then clu else 0, chip := chip % 16 })
  let s := { s with jtag := { s.jtag with driven := false } }
  ((s.onGauge (fun g => { g with upAt := s.now })).takeStraps).putUp 0 true

/-- What a change of the pin or of the detector, from `s` to `t`, does (R508, R510): power-on reset begins, with a cause, or ends. One that
begins while the other lasts changes nothing, and the reset ends with the last of them. [DEDUCED: log 87] -/
def State.porstChange (s t : State) (cause clu chip : Nat) : State :=
  if t.pwr.porst && !s.pwr.porst then t.powerOn cause
  else if s.pwr.porst && !t.pwr.porst then t.powerRise clu chip
  else t

/-- PORST_N (R510, R514): the pin is low, or high with the straps as they stand. -/
def execPorstN (low : Bool) (clu chip : Nat) (s : State) : Host.Outcome State Fault Refusal :=
  ok (s.porstChange (s.onPwr (fun x => { x with pinLow := low })) 1 clu chip)

/-- BROWN_OUT (R508): VDD_AON falls below 90 % of nominal, or is back; it acts as PORST_N. -/
def execBrownOut (low : Bool) (clu chip : Nat) (s : State) : Host.Outcome State Fault Refusal :=
  ok (s.porstChange (s.onPwr (fun x => { x with brown := low })) 2 clu chip)

/-- The newest recorded VSET of a channel. [DEDUCED: log 84] -/
def State.lastVset (s : State) (n : Nat) : Option Nat := ((s.history n).getLast?).map (·.2)

/-- PLL_LOCK (R501, R514): the root PLL locks; at cast-on VOUT_MODE of the regulators is read (R509), they are set to the VSET of the newest gauge records, and the
recorder's key is drawn (R479). [DEDUCED: log 87] -/
def execPllLock (s : State) : Host.Outcome State Fault Refusal :=
  ok (if s.powered ∧ !s.bit R.CLK_STAT F.CLK_STAT_LOCK then
      let s := s.setBit R.CLK_STAT F.CLK_STAT_LOCK
      let (key, s) := s.drawKey
      let s := s.onSec (fun x => { x with recKey := key })
      let s := s.onGauge (fun g => { g with probe := (List.range 4).foldl (fun m n => FMap.set false m n true) g.probe })
      s.each (List.range 4) (fun s n =>
        match s.lastVset n with
        | some v =>
          if v = s.fld (R.GAUGE_VSET n) F.GAUGE_VSET_VSET then s.gaugeHead n
          else (s.onGauge (fun g => { g with want := FMap.set none g.want n (some v) })).gaugeHead n
        | none => s)
    else s)

/-- CLOCK_RESET (R501, R510): the PLL has lost lock for more than 1 µs: all but PD00 is reset, and a cold start follows. [DEDUCED: log 87] -/
def execClockReset (s : State) : Host.Outcome State Fault Refusal :=
  ok (if s.powered ∧ s.bit R.CLK_STAT F.CLK_STAT_LOCK then
      let s := s.allButAlwaysOn
      let s := s.incFld R.CLK_STAT F.CLK_STAT_LOLCNT 1
      let s := s.setFld R.CLK_STAT F.CLK_STAT_LOCK 0
      let s := s.wr R.RST_CAUSE 3#32
      let s := s.onGauge (fun g => { g with steps := [], noted := [], lastAt := 0 })
      s.onPwr (fun x => { x with cast := true, tested := false, wasReady := false, training := false })
    else s)

/-- The spare map empty (R448). -/
def State.clearMap (s : State) : State :=
  { s with regs := s.regs.filter (fun r => !(decide (R.SPMAP 0 0 ≤ r.1) && decide (r.1 ≤ R.SPMAP_SUM))) }

/-- CAST_ON_SELF_TEST_END (R447): the cores at `bad` (channel, row, physical column) have failed. They are fenced with cause 5, which raises
the source of their channels (R413), and BISTFAIL is set (R429); a row
with two or more leaves its channel UNBOUND; CASTON_FAIL when all four are. -/
def execCastOnSelfTestEnd (bad : List (Nat × Nat × Nat)) (s : State) : Host.Outcome State Fault Refusal :=
  ok (if s.powered ∧ s.pwr.cast ∧ !s.pwr.tested ∧ s.bit R.HI_STAT F.HI_STAT_ISLAND_UP then
      let fails := bad.filter (fun b => decide (b.1 < 4) && decide (b.2.1 < 16) && decide (b.2.2 < 17))
      let s := s.clearMap.sumSpares
      let s := s.each fails (fun s b => (s.noteFence b.1 b.2.1 b.2.2 5 true).raiseDoubt (doubtFence b.1))
      let s := if fails.isEmpty then s else s.setBit R.TEST_STAT F.TEST_STAT_BISTFAIL
      let lost := (List.range 4).filter (fun n => (List.range 16).any (fun r => decide (2 ≤ (bitsSet (s.fmask n r) 17).length)))
      let s := s.each lost (fun s n => s.setFld (R.CP_STAT n) F.CP_STAT_STATE 3)
      let s := if lost.length = 4 then s.setBit R.HI_STAT F.HI_STAT_CASTON_FAIL else s
      (s.onPwr (fun x => { x with tested := true })).raiseUp ((List.range 50).filter (fun d => decide (6 ≤ d)))
    else s)

/-! ### Temperature (R456) -/

/-- THERMAL_SHUTDOWN (R456): all but PD00 in reset until PORST_N; a shutdown record, whose content the spec does not give. -/
def State.shutdown (s : State) : State :=
  let s := s.allButAlwaysOn
  let (key, s) := s.drawKey
  let (good, s) := s.draw
  let s := s.storeGauge ⟨true, (keyBytes key).take 16⟩ (bitOf good.toNat 0)
  s.onPwr (fun x => { x with shut := true, cast := false, tested := false, training := false })

/-- R486: the whole microseconds for which a clock was stopped since a cycle, saturating. [DESIGN CHOICE: log 92] -/
def stoppedFor (s : State) (since : Nat) : Nat := min ((s.now - since) / 400) (2 ^ 32 - 1)

/-- The clock of channel `n` stops, or starts again below 100 °C. [DEDUCED: log 87] -/
def State.thermalStop (s : State) (n : Nat) (temp : Int) : State :=
  if 1760 ≤ temp ∧ !s.paused n then
    ((s.putBit R.THERM_STAT F.THERM_STAT_STOP n true).plainEvent evThermal [n, 2]).onPwr
      (fun x => { x with stopAt := FMap.set none x.stopAt n (some s.now) })
  else if temp < 1600 ∧ s.paused n then
    let since := (FMap.get none s.pwr.stopAt n).getD s.now
    let s := (s.putBit R.THERM_STAT F.THERM_STAT_STOP n false).plainEvent evThermal [n, 3]
    let s := s.onPwr (fun x => { x with stopAt := FMap.set none x.stopAt n none })
    s.markChan n tvResumed (stoppedFor s since)
  else s

/-- THERMAL_SAMPLE (R456, R457): sensor `n` reads `temp` sixteenths of a degree. [DEDUCED: log 82; DESIGN CHOICE: log 116] -/
def execThermalSample (n : Nat) (temp : Int) (s : State) : Host.Outcome State Fault Refusal :=
  ok (if n < 5 ∧ s.powered then
      let was := bitOf (s.fld R.THERM_STAT F.THERM_STAT_HOT) n
      let hot := decide (1600 ≤ temp)
      let s := s.setFld (R.THERM_T n) F.THERM_T_TEMP (wrapN 16 temp)
      let s := s.putBit R.THERM_STAT F.THERM_STAT_HOT n hot
      let s := if n < 4 then (s.setFld (R.TEN_STAT n) F.TEN_STAT_HOT (b2n hot)).tension else s
      let warm := hot || (bitOf s.safe.warm n && decide (1520 ≤ temp))
      let s := s.onSafe (fun x => { x with warm := Machine.setBit x.warm n warm })
      let s := if hot && !was then (s.plainEvent evThermal [n, 1]).raiseDoubt (0x22D + n) else s.settle
      let s := if n < 4 then s.thermalStop n temp else s
      if 1840 ≤ temp then
        let (w, s) := s.draw
        (s.plainEvent evThermal [n, w.toNat % 256]).shutdown
      else s
    else s)

/-! ### Power gating (R504-R506) -/

/-- Whether every stream is OFF. -/
def State.streamsOff (s : State) : Bool := (List.range 64).all (fun t => s.fld (R.STRM_STAT t) F.STRM_STAT_STATE == 0)

/-- Whether the gate bit of a domain is set. -/
def State.gateBit (s : State) (d : Nat) : Bool :=
  if d < 32 then bitOf (s.rd R.PWR_GATE_LO).toNat d else bitOf (s.rd R.PWR_GATE_HI).toNat (d - 32)

/-- R504: whether the host may gate domain `d` now. -/
def State.mayGate (s : State) (d : Nat) : Bool :=
  if d = 3 ∨ d = 4 then s.streamsOff
  else if 6 ≤ d ∧ d < 10 then (List.range 4).all (fun l => s.linkState (4 * (d - 6) + l) == klOff)
  else if 10 ≤ d ∧ d < 14 then (List.range 9).all (fun k => s.gateBit (14 + 9 * (d - 10) + k))
  else if 14 ≤ d ∧ d < 50 then
    let n := (d - 14) / 9
    (s.ownerOf n).isNone && (s.chState n == 0 || s.chState n == 3)
  else false

/-- The logical cores that the physical columns of core group `k` of channel `n` serve (R15, R504). -/
def State.groupCores (s : State) (n k : Nat) : List Nat :=
  (List.range 16).flatMap (fun r => (if k = 8 then [16] else [2 * k, 2 * k + 1]).filterMap (fun col =>
    (logicalCol (s.fmask n r) col).map (fun f => coreId n r f)))

/-- What a gated domain loses (R505). [DEDUCED: log 87] -/
def State.loseDomain (s : State) (d : Nat) : State :=
  if d = 4 then { s.dropRegs (fun a => decide (0x02200000 ≤ a) && decide (a < 0x02300000)) with ing := State.reset.ing }
  else if 6 ≤ d ∧ d < 10 then
    let s := s.dropRegs (fun a => decide (0x02000000 + 0x4000 * (d - 6) ≤ a) && decide (a < 0x02004000 + 0x4000 * (d - 6)))
    s.onNoc (fun x => { x with links := FMap.clear x.links (4 * (d - 6)) 4 })
  else if 10 ≤ d ∧ d < 14 then
    let n := d - 10
    let unbound := s.chState n == 3
    let s := s.dropRegs (fun a => channelReg n a && !(decide (a % 0x400000 / 0x100000 == 2)))
    let s := s.setFld (R.CP_STAT n) F.CP_STAT_STATE (if unbound then 3 else 0)
    { s with tableMem := FMap.clear s.tableMem (n * 2 ^ 22) (2 ^ 22) }
  else if 14 ≤ d ∧ d < 50 then
    s.each (s.groupCores ((d - 14) / 9) ((d - 14) % 9)) (fun s c =>
      let s := s.dropRegs (fun a => decide (statReg c ≤ a) && decide (a < statReg c + 0x400))
      { s with
        cores := FMap.clear s.cores c 1
        scratch := FMap.clear s.scratch (cellKey c 0) (2 ^ 22)
        ue := FMap.clear s.ue (wordKey c 0) (2 ^ 19)
        ce := FMap.clear s.ce (wordKey c 0) (2 ^ 19) })
  else s

/-- The gate bit of a domain. -/
def State.putGate (s : State) (d : Nat) (b : Bool) : State :=
  if d < 32 then s.putBit R.PWR_GATE_LO F.PWR_GATE_LO_GATE d b else s.putBit R.PWR_GATE_HI F.PWR_GATE_HI_GATE (d - 32) b

/-- Where the cycle at which domain `d` was gated is kept, after those of the channels. -/
def gateKey (d : Nat) : Nat := 4 + d

/-- R505: 1 is written to the gate bit of a domain; `may` says that its condition holds. -/
def State.gate (s : State) (d : Nat) (may : Bool) : State :=
  if s.gateBit d then s
  else if may then
    ((((s.loseDomain d).putGate d true).putUp d false).onPwr (fun x => { x with
      rising := Machine.setBit x.rising d false, stopAt := FMap.set none x.stopAt (gateKey d) (some s.now) }))
  else s.setBit R.PWR_STAT F.PWR_STAT_CFG_REJECT

/-- R506: the gate bit of a domain is cleared: it powers up. -/
def State.ungate (s : State) (d : Nat) : State :=
  if s.gateBit d then (s.putGate d false).onPwr (fun x => { x with rising := Machine.setBit x.rising d true }) else s

/-- A write of PWR_GATE_LO or, from domain 32 on, of PWR_GATE_HI. [DEDUCED: log 87] -/
def State.writeGate (s : State) (base : Nat) (v : Word) : State :=
  let ds := (List.range 32).filter (fun i => decide (base + i < 50))
  let t := s
  s.each ds (fun s i => if bitOf v.toNat i then s.gate (base + i) (t.mayGate (base + i)) else s.ungate (base + i))

/-- PWR_GATE (R505): the gate bit of domain `d` is written 1. -/
def execPwrGate (req d : Nat) (s : State) : Host.Outcome State Fault Refusal :=
  ok (if mayCore req ∧ d < 50 ∧ s.powered then s.gate d (s.mayGate d) else s)

/-- PWR_UNGATE (R506): the gate bit of domain `d` is written 0. -/
def execPwrUngate (req d : Nat) (s : State) : Host.Outcome State Fault Refusal :=
  ok (if mayCore req ∧ d < 50 ∧ s.powered then s.ungate d else s)

/-- PWR_UP (R406, R506): domain `d` has power and, unless a reset holds it (R516), leaves reset; its registers are at their reset values. A channel's core groups write RESUMED. [DEDUCED: log 87] -/
def execPwrUp (d : Nat) (s : State) : Host.Outcome State Fault Refusal :=
  ok (if d < 50 ∧ s.powered ∧ bitOf s.pwr.rising d then
      let since := (FMap.get none s.pwr.stopAt (gateKey d)).getD s.now
      let s := (s.onPwr (fun x => { x with
        rising := Machine.setBit x.rising d false, stopAt := FMap.set none x.stopAt (gateKey d) none })).raiseUp [d]
      if 10 ≤ d ∧ d < 14 then
        (if s.chState (d - 10) = 3 ∨ bitOf s.pwr.held (d - 10) then s else s.setFld (R.CP_STAT (d - 10)) F.CP_STAT_STATE 1)
      else if 14 ≤ d then
        let n := (d - 14) / 9
        s.markChan n tvResumed (stoppedFor s since)
      else s
    else s)

end Sys2Proof.Machine
end

