-- ==== Sys2Proof/Machine/Jtag.lean ====
section
/-! DEFINITION. Sys2Proof/Machine/Jtag.lean: the JTAG port (R527). -/

namespace Sys2Proof.Machine

/-- The JTAG port changed by a function. -/
def State.onJtag (s : State) (f : JtagSt → JtagSt) : State := { s with jtag := f s.jtag }

/-- The balls of PERMIT_OUT and HB_OUT, which their boundary cells hold low (R519, R527): 77:15 to 77:23. -/
def lowBall (b : Nat) : Bool := decide (7715 ≤ b) && decide (b ≤ 7723)

/-- Boundary cells loaded; those of PERMIT_OUT and HB_OUT stay low. -/
def loadCells (m : FMap Bool) (cells : List (Nat × Bool)) : FMap Bool :=
  cells.foldl (fun m c => if lowBall c.1 then m else FMap.set false m c.1 c.2) m

/-- The identification word (R527): part field 0x4B04 in bits 27-12. [DESIGN CHOICE: log 90] -/
def idcode : Nat := (Config.jtagId.toNat / 2 ^ 28) * 2 ^ 28 + 0x4B04 * 2 ^ 12 + Config.jtagId.toNat % 2 ^ 12

/-- JTAG_INSTRUCTION (R527): with JTAG_TRST_N low the TAP rests in Test-Logic-Reset; else instruction `instr` (0 BYPASS, 1 IDCODE,
2 SAMPLE/PRELOAD, 3 EXTEST, 4 EXTEST_PULSE, 5 EXTEST_TRAIN) is loaded and `cells` shifted into the boundary register. The EXTEST
instructions drive the balls only while PORST_N is low, and act as BYPASS otherwise. [PRESUMED: log 88] -/
def execJtagInstruction (instr : Nat) (trst : Bool) (cells : List (Nat × Bool)) (s : State) : Host.Outcome State Fault Refusal :=
  ok (if trst then s.onJtag (fun j => { j with instr := 1, driven := false, dr := 0 })
    else
      match instr with
      | 1 => s.onJtag (fun j => { j with instr := 1, driven := false, dr := idcode })
      | 2 =>
        let (v, s) := s.draw
        s.onJtag (fun j => { j with instr := 2, driven := false, dr := v.toNat, cells := loadCells j.cells cells })
      | 3 | 4 | 5 =>
        if s.pwr.porst then
          let (v, s) := s.draw
          s.onJtag (fun j => { j with instr := instr, driven := true, dr := v.toNat, cells := loadCells j.cells cells })
        else s.onJtag (fun j => { j with instr := instr, driven := false, dr := 0 })
      | _ => s.onJtag (fun j => { j with instr := 0, driven := false, dr := 0 }))

end Sys2Proof.Machine
end

