-- ==== Sys2Proof/Machine/Branch.lean ====
section
/-! DEFINITION. Sys2Proof/Machine/Branch.lean: branches, loops, token waits, the end of a core's part of a step, fetch
and illegal words (R57, R64-R71, R94, R102-R105). -/

namespace Sys2Proof.Machine

/-- R102: the target of br.jmp and br.call: pc + 4 * OFF23. [DEDUCED: log 11] -/
def relTarget (pc : Nat) (off : BitVec 23) : Nat := wrapN 32 ((pc : Int) + 4 * off.toInt)

/-- BR_JMP (R102). -/
def execBrJmp (c : Nat) (f : FmtB) (s : State) : Host.Outcome State Fault Refusal :=
  ok (seqIssue c (f.word 17#6) (fun k s => s.onSlot c k (fun b => b.jump (relTarget b.pc f.off))) s)

/-- BR_CALL (R102): a taken call writes pc + 4 into s31. -/
def execBrCall (c : Nat) (f : FmtB) (s : State) : Host.Outcome State Fault Refusal :=
  ok (seqIssue c (f.word 18#6)
    (fun k s => s.onSlot c k (fun b => (b.setS 31 (BitVec.ofNat 32 (b.pc + 4))).jump (relTarget b.pc f.off))) s)

/-- BR_JR (R102): to rs[21:2] * 4. -/
def execBrJr (c : Nat) (f : FmtJ) (s : State) : Host.Outcome State Fault Refusal :=
  ok (seqIssue c (f.word 19#6)
    (fun k s => s.onSlot c k (fun b => b.jump (bitsOf (b.s f.rs.toNat).toNat 21 2 * 4))) s)

/-- The count of sq.loop: CNT, or the scalar register it names (R103). -/
def loopCount (f : FmtL) (b : Slot) : Nat :=
  if f.im = 1#1 then f.cnt.toNat else (b.s (f.cnt.toNat % 32)).toNat

/-- R67: the loop faults of sq.loop. A count of 0 arms nothing. [DEDUCED: log 18] -/
def loopBad (n last count : Nat) (b : Slot) : Bool :=
  (count != 0 && (b.loops.any (fun l => l.n == n) || decide (4 ≤ b.loops.length)))
    || b.loops.any (fun l => decide (l.last < last))

/-- R67, R68: sq.loop arms lc[LC], or with a count of 0 skips its body as though its last instruction had run. -/
def armLoop (f : FmtL) (c k : Nat) (s : State) : State :=
  let b := s.slot c k
  let last := (b.pc + 4 * f.len.toNat) % 2 ^ 32
  let count := loopCount f b
  if loopBad f.lc.toNat last count b then s.raise c k fLoop b.pc 0 true none
  else if count = 0 then s.onSlot c k (fun b => b.after last)
  else s.onSlot c k (fun b =>
    { b with loops := ⟨f.lc.toNat, (b.pc + 4) % 2 ^ 32, last, count⟩ :: b.loops, pc := (b.pc + 4) % 2 ^ 32 })

/-- SQ_LOOP (R67, R103). [DEDUCED: log 18] -/
def execSqLoop (c : Nat) (f : FmtL) (s : State) : Host.Outcome State Fault Refusal :=
  ok (seqIssue c (f.word 20#6) (fun k s => armLoop f c k s) s)

/-- R71: the core's part of the step ends: loops disarmed, no context running, the core reported to the command
processor. The sequencer is at the bind-off point, after sq.end. [DEDUCED: log 11, 23] -/
def State.endPart (s : State) (c k : Nat) : State :=
  let s := s.onSlot c k (fun b => { b with loops := [], pc := (b.pc + 4) % 2 ^ 32 })
  let s := s.onCore c (fun x => { x with wait := .none })
  let s := s.setFld (statReg c) F.CORE_STAT_RUN 0
  let s := s.markCore c 0 tvEnd ((s.slot c k).owner.getD (0, 0)) 0 ((s.slot c k).pc - 4)
  match (s.slot c k).owner with
  | some (p, x) => s.onCtx p x (fun t => { t with reported := t.reported ++ [c] })
  | none => s

/-- SQ_END (R71): ends the part at once when every token is COMPLETE, else waits for them. -/
def execSqEnd (c : Nat) (f : FmtZ) (s : State) : Host.Outcome State Fault Refusal :=
  ok (seqIssue c (f.word 21#6) (fun k s =>
    if (s.slot c k).pend = 0 then s.endPart c k else s.onCore c (fun x => { x with wait := .ending })) s)

/-- SQ_IFENCE (R65, R104). -/
def execSqIfence (c : Nat) (f : FmtZ) (s : State) : Host.Outcome State Fault Refusal :=
  ok (seqIssue c (f.word 22#6) (fun k s => (s.onCore c CoreSt.flush).advance c k) s)

/-- SQ_NOP (R104). -/
def execSqNop (c : Nat) (f : FmtZ) (s : State) : Host.Outcome State Fault Refusal :=
  ok (seqIssue c (f.word 23#6) (fun k s => s.advance c k) s)

/-- Whether every token of a mask is COMPLETE (R57). -/
def tokensDone (b : Slot) (mask : Nat) : Bool := (List.range 16).all (fun i => !(bitOf mask i && bitOf b.pend i))

/-- TWAIT (R57, R105): goes on when the named tokens are COMPLETE, else stalls. -/
def execTwait (c : Nat) (f : FmtT) (s : State) : Host.Outcome State Fault Refusal :=
  ok (seqIssue c (f.word 24#6) (fun k s =>
    if tokensDone (s.slot c k) f.mask.toNat then s.advance c k
    else s.onCore c (fun x => { x with wait := .tokens f.mask.toNat })) s)

/-- TWAIT_RETURN (R57): a stalled twait returns once its named tokens are COMPLETE. -/
def execTwaitReturn (c : Nat) (s : State) : Host.Outcome State Fault Refusal :=
  ok (
    let k := s.active c
    match (s.core c).wait with
    | .tokens m =>
      if tokensDone (s.slot c k) m && !(s.core c).stopped && !s.paused (chanOf c) then
        (s.onCore c (fun x => { x with wait := .none })).advance c k
      else s
    | _ => s)

/-- ILLEGAL_ENCODING (R94): the buffered word at pc is one the sequencer does not execute. [DEDUCED: log 12] -/
def execIllegalEncoding (c : Nat) (s : State) : Host.Outcome State Fault Refusal :=
  ok (match s.fetched c (s.active c) with
    | some w => if illegalWord w then seqIssue c w (fun _ s => s) s else s
    | none => s)

/-- FETCH_MISS (R64, R66): the line of pc arrives in its buffer slot; a pc at or beyond the bound faults FETCH_WINDOW, a
line with an uncorrectable word ECC_UE. [DEDUCED: log 11, 16] -/
def execFetchMiss (c : Nat) (s : State) : Host.Outcome State Fault Refusal :=
  ok (
    let k := s.active c
    let pc := (s.slot c k).pc
    if !s.canIssue c then s
    else if s.bound c k ≤ pc then s.raise c k fFetch pc 0 true none
    else
      let s := if ((s.core c).line (pc / 1024)).isNone then
          (s.loadLine c k (pc / 1024)).count (some c) (chanOf c) (s.slot c k).owner 0x08 1 else s
      match (s.core c).line (pc / 1024) with
      | some l => if l.ue then s.raise c k fEcc pc 0 true none else s
      | none => s)

end Sys2Proof.Machine
end

