-- ==== Sys2Proof/Machine/Conv.lean ====
section
/-! DEFINITION. Sys2Proof/Machine/Conv.lean: the convolution window unit (R164-R178): descriptor, lowering, cursor, line
buffers, cw.cfg and cw.window as they take effect, and the stripe plan of R177. -/

namespace Sys2Proof.Machine

/-! ### The descriptor (R170, R171) -/

/-- The fields of the CWU descriptor. -/
structure CwDesc where
  et : Nat
  pmode : Nat
  ntile : Nat
  ctot : Nat
  c0 : Nat
  c : Nat
  h : Nat
  w : Nat
  kh : Nat
  kw : Nat
  sy : Nat
  sx : Nat
  dy : Nat
  dx : Nat
  pt : Nat
  pb : Nat
  pl : Nat
  pr : Nat
  padv : Nat
  iy0 : Nat
  irows : Nat
  oy0 : Nat
  orows : Nat
  rowp : Nat
  q0 : Nat
  deriving DecidableEq, Repr

/-- R171: the descriptor in its 16 words. -/
def CwDesc.ofWords (ws : List Nat) : CwDesc :=
  let f (i hi lo : Nat) : Nat := bitsOf (nth 0 ws i) hi lo
  { et := f 0 31 28, pmode := f 0 27 26, ntile := f 0 23 16 + 1, ctot := f 0 10 0 + 1, c0 := f 1 26 16,
    c := f 1 10 0 + 1, h := f 2 31 16, w := f 2 15 0, kh := f 3 31 28 + 1, kw := f 3 27 24 + 1, sy := f 3 15 8,
    sx := f 3 7 0, dy := f 4 15 8, dx := f 4 7 0, pt := f 5 31 24, pb := f 5 23 16, pl := f 5 15 8, pr := f 5 7 0,
    padv := f 6 31 0, iy0 := f 7 31 16, irows := f 7 15 0, oy0 := f 8 31 16, orows := f 8 15 0, rowp := f 9 23 0,
    q0 := f 10 31 0 }

/-- R170: the output count on one axis. -/
def outCount (i plo phi d k s : Nat) : Nat :=
  let n : Int := (i + plo + phi : Nat) - (d * (k - 1) : Nat) - 1
  (floorDivI n s + 1).toNat

/-- Output height and width (R170). -/
def CwDesc.oy (d : CwDesc) : Nat := outCount d.h d.pt d.pb d.dy d.kh d.sy
def CwDesc.ox (d : CwDesc) : Nat := outCount d.w d.pl d.pr d.dx d.kw d.sx

/-- Bytes per element, channel groups per pixel, passes (R164, R169). -/
def CwDesc.e (d : CwDesc) : Nat := (tyElem d.et).bits / 8
def CwDesc.ncg (d : CwDesc) : Nat := ceilDiv d.ctot 32
def CwDesc.npass (d : CwDesc) : Nat := ceilDiv (d.kh * d.kw * d.c) 32

/-- fold of R165: the edge mapping of REPLICATE (2) and REFLECT (3) on one axis of n positions. -/
def edgeFold (u : Int) (n mode : Nat) : Nat :=
  if mode = 2 || n = 1 then (clampI u 0 ((n : Int) - 1)).toNat
  else
    let per := 2 * (n - 1)
    let m := (u % (per : Int)).toNat
    if m < n then m else per - m

/-- Where an element of a vector comes from: a constant code, or image element (y, x, c). -/
inductive CwSrc where
  | const (code : Nat)
  | at (y : Nat) (x : Nat) (c : Nat)
  deriving DecidableEq, Repr

/-- cw_elem of R165. -/
def CwDesc.elem (d : CwDesc) (pos kidx : Nat) : CwSrc :=
  if d.orows * d.ox ≤ pos || d.kh * d.kw * d.c ≤ kidx then .const 0
  else
    let oy := d.oy0 + pos / d.ox
    let ox := pos % d.ox
    let t := kidx / d.c
    let ch := d.c0 + kidx % d.c
    let y : Int := (oy * d.sy : Nat) - (d.pt : Int) + (t / d.kw * d.dy : Nat)
    let x : Int := (ox * d.sx : Nat) - (d.pl : Int) + (t % d.kw * d.dx : Nat)
    if y < 0 || (d.h : Int) ≤ y || x < 0 || (d.w : Int) ≤ x then
      match d.pmode with
      | 0 => .const 0
      | 1 => .const (d.padv % 2 ^ (8 * d.e))
      | m => .at (edgeFold y d.h m) (edgeFold x d.w m) ch
    else .at y.toNat x.toNat ch

/-- Whether some tap of an output row reads image row y at all, columns considered (R165, R172). -/
def CwDesc.colRead (d : CwDesc) : Bool :=
  if d.pmode < 2 then
    (List.range d.ox).any (fun ox => (List.range d.kw).any (fun kx =>
      let x : Int := (ox * d.sx : Nat) - (d.pl : Int) + (kx * d.dx : Nat)
      decide (0 ≤ x) && decide (x < d.w)))
  else decide (0 < d.ox)

/-- R172: every row that cw_elem reads for the stripe's output rows is stored. -/
def CwDesc.rowsStored (d : CwDesc) : Bool :=
  (List.range d.orows).all (fun i => (List.range d.kh).all (fun ky =>
    let y : Int := ((d.oy0 + i) * d.sy : Nat) - (d.pt : Int) + (ky * d.dy : Nat)
    let inImage := decide (0 ≤ y) && decide (y < d.h)
    if !d.colRead || (!inImage && d.pmode < 2) then true
    else
      let r := if inImage then y.toNat else edgeFold y d.h d.pmode
      decide (d.iy0 ≤ r) && decide (r < d.iy0 + d.irows)))

/-- R172: the descriptors cw.cfg accepts. -/
def CwDesc.ok (d : CwDesc) : Bool :=
  cwType d.et && d.h != 0 && d.w != 0 && d.irows != 0 && d.sy != 0 && d.sx != 0 && d.dy != 0 && d.dx != 0
    && decide (d.c0 + d.c ≤ d.ctot) && decide (d.iy0 + d.irows ≤ d.h) && decide (d.oy0 + d.orows ≤ d.oy)
    && decide (d.q0 ≤ d.orows * d.ox) && decide (d.w * d.ncg * d.e ≤ d.rowp) && d.rowsStored

/-- cw.cfg (R171, R172): a descriptor that cannot be read, or a bad one, leaves none valid; a good one sets the cursor to
(Q0, 0, 0). Each empties the line buffers (R173). [DEDUCED: log 28] -/
def uCfg (c k : Nat) (o : UOp) : U Unit := do
  modify (fun s => s.onCore c (fun x => { x with cwd := none, lbufs := [] }))
  let bs ← uRead c k o.aA 64
  let ws := (List.range 16).map (fun i => leNat ((bs.drop (4 * i)).take 4))
  let d := CwDesc.ofWords ws
  if d.ok then
    modify (fun s => s.onCore c (fun x => { x with cwd := some ws, cq := d.q0, cn := 0, cp := 0, lbufs := [] }))
  else throw ⟨fOperand, o.aA.toNat⟩

/-! ### Cells and line buffers (R169, R174) -/

/-- R169: the cell of element (y, x, c) within its stored row, and its byte in the cell. -/
def CwDesc.cell (d : CwDesc) (x c : Nat) : Nat × Nat :=
  ((x * d.ncg + c / 32) * d.e + c % 32 * d.e / 32, c % 32 * d.e % 32)

/-- The address of cell u of stored row y: back to back by byte, or plane cell (v >> 5, v & 31) (R169). -/
def CwDesc.cellAddr (d : CwDesc) (pl : Option Plane) (base y u : Nat) : Nat :=
  let v := (y - d.iy0) * d.rowp + u
  match pl with
  | some p => planeCell p.baseKb p.pitch (v / 32) (v % 32)
  | none => base + 32 * v

/-- A number put in its place in a rising list, once. -/
def insertAsc (u : Nat) : List Nat → List Nat
  | [] => [u]
  | v :: l => if u < v then u :: v :: l else if u = v then v :: l else v :: insertAsc u l

/-- The rows an operation needs and, for each, its needed cells, both rising. -/
def needOf (es : List (Nat × Nat)) : FMap (List Nat) :=
  es.foldl (fun m e => FMap.modify [] m e.1 (insertAsc e.2)) []

/-- The start of the run a row's needed cells ask for: the lowest, rounded down to a multiple of 32. [DESIGN CHOICE: log 127] -/
def runStart (us : List Nat) : Nat := us.headD 0 / 32 * 32

/-- R174: whether an operation runs buffered. -/
def buffered (need : FMap (List Nat)) : Bool :=
  decide (need.length ≤ 8) && need.all (fun r => r.2.all (fun u => decide (u < runStart r.2 + 256)))

/-- The buffer that holds a run of row y, if any. [DESIGN CHOICE: log 127] -/
def bufOf (bufs : FMap (Option LBuf)) (y : Nat) : Option (Nat × LBuf) :=
  (List.range 8).findSome? (fun i =>
    match FMap.get none bufs i with
    | some b => if b.row = y then some (i, b) else none
    | none => none)

/-- R174 preference 3 and 4: an empty buffer, else the one that holds the lowest row the operation does not need. -/
def freeBuf (bufs : FMap (Option LBuf)) (need : FMap (List Nat)) : Nat :=
  match (List.range 8).find? (fun i => (FMap.get none bufs i).isNone) with
  | some i => i
  | none =>
    ((List.range 8).foldl (fun (best : Nat × Nat) i =>
      match FMap.get none bufs i with
      | some b => if need.any (fun r => r.1 == b.row) || best.2 ≤ b.row then best else (i, b.row)
      | none => best) (0, 2 ^ 32)).1

/-- The bytes of a cell that the taps of an operation reach, as offsets: those of the elements of row `y` that lie in cell `u`. -/
def CwDesc.reached (d : CwDesc) (es : List CwSrc) (y u : Nat) : List Nat :=
  es.flatMap (fun e => match e with
    | .const _ => []
    | .at y' x ch => if y' = y ∧ (d.cell x ch).1 = u then (List.range d.e).map (fun i => (d.cell x ch).2 + i) else [])

/-- Reads cell `u` at address `a`, of which `use` gives the bytes that are needed: only their words are checked (R166).
Answers the cell and the bytes of its other words that are uncorrectable. [DEDUCED: log 105, 107] -/
def uCell (c k u a : Nat) (use : Nat → List Nat) : U (List Byte × List (Nat × Nat × Nat)) := do
  let s ← get
  let b := s.bound c k
  let word (i : Nat) : Nat := (a + i) / 8 * 8
  let need := if s.ue.isEmpty && s.ce.isEmpty then []
    else (((use u).filter (fun i => decide (a + i < b))).map word).foldl (fun l w => insertAsc w l) []
  let isBad (w : Nat) : Bool := FMap.get false s.ue (wordKey c (s.phys c k w))
  let (s, bad) := s.checkWords c k need
  set s
  match bad with
  | some w => throw ⟨fEcc, w⟩
  | none => match beyond b a 32 with
    | some w => throw ⟨fData, w % 2 ^ 22⟩
    | none =>
      let rest := if s.ue.isEmpty then []
        else ((List.range 32).filter (fun i => !need.contains (word i) && isBad (word i))).map (fun i => (u, i, word i))
      pure (s.winBytes c k a 32, rest)

/-- Reads cells of a row in ascending order (R174); `use` gives the bytes of a cell that are needed. -/
def uCells (c k : Nat) (addr : Nat → Nat) (use : Nat → List Nat) : List Nat → U (List (Nat × List Byte) × List (Nat × Nat × Nat))
  | [] => pure ([], [])
  | u :: us => do
    let b ← uCell c k u (addr u) use
    let r ← uCells c k addr use us
    pure ((u, b.1) :: r.1, b.2 ++ r.2)

/-- R174: the load of the needed rows into the line buffers. -/
def uLoadRows (c k : Nat) (addr : Nat → Nat → Nat) (use : Nat → Nat → List Nat) (need : FMap (List Nat)) :
    List (Nat × List Nat) → FMap (Option LBuf) → U (FMap (Option LBuf))
  | [], bufs => pure bufs
  | (y, us) :: rest, bufs => do
    match bufOf bufs y with
    | some (i, b) =>
      if us.all (fun u => b.cells.any (fun x => x.1 == u)) then uLoadRows c k addr use need rest bufs
      else if b.start = runStart us then
        let got ← uCells c k (addr y) (use y) (us.filter (fun u => !b.cells.any (fun x => x.1 == u)))
        uLoadRows c k addr use need rest (FMap.set none bufs i (some { b with cells := b.cells ++ got.1, bad := b.bad ++ got.2 }))
      else
        let got ← uCells c k (addr y) (use y) us
        uLoadRows c k addr use need rest (FMap.set none bufs i (some ⟨y, runStart us, got.1, got.2⟩))
    | none =>
      let got ← uCells c k (addr y) (use y) us
      uLoadRows c k addr use need rest (FMap.set none bufs (freeBuf bufs need) (some ⟨y, runStart us, got.1, got.2⟩))

/-- A needed byte that a held cell took from an uncorrectable word: the word's address (R86, R166). [DEDUCED: log 107] -/
def CwDesc.heldBad (d : CwDesc) (bufs : FMap (Option LBuf)) (es : List CwSrc) : Option Nat :=
  es.findSome? (fun e => match e with
    | .const _ => none
    | .at y x ch => (bufOf bufs y).bind (fun b =>
      (b.2.bad.find? (fun z => z.1 == (d.cell x ch).1 && decide ((d.cell x ch).2 ≤ z.2.1) && decide (z.2.1 < (d.cell x ch).2 + d.e))).map
        (fun z => z.2.2)))

/-- The value of an element from the buffers, or of a constant. -/
def CwDesc.value (d : CwDesc) (bufs : FMap (Option LBuf)) (e : CwSrc) : Nat :=
  match e with
  | .const v => v
  | .at y x ch =>
    let u := d.cell x ch
    let bytes := ((bufOf bufs y).bind (fun b => (b.2.cells.find? (fun z => z.1 == u.1)).map (·.2))).getD []
    leNat ((bytes.drop u.2).take d.e)

/-- The cells a list of elements needs. -/
def CwDesc.needs (d : CwDesc) (es : List CwSrc) : FMap (List Nat) :=
  needOf (es.filterMap (fun e => match e with
    | .const _ => none
    | .at y x ch => some (y, (d.cell x ch).1)))

/-- R175: one vector read directly: rows and cells ascending, no buffer kept. -/
def uDirect (c k : Nat) (d : CwDesc) (addr : Nat → Nat → Nat) (es : List CwSrc) : U (List Nat) := do
  let need := d.needs es
  let rows ← need.foldlM (fun (acc : List LBuf) r => do
    let got ← uCells c k (addr r.1) (d.reached es r.1) r.2
    pure (acc ++ [⟨r.1, 0, got.1, []⟩])) []
  pure (es.map (fun e => match e with
    | .const v => v
    | .at y x ch =>
      let u := d.cell x ch
      let bytes := ((rows.find? (fun b => b.row == y)).bind (fun b => (b.cells.find? (fun z => z.1 == u.1)).map (·.2))).getD []
      leNat ((bytes.drop u.2).take d.e)))

/-- R167: the cursor after a cw.window of M vectors; q is not reduced modulo 2^32. [DESIGN CHOICE: log 108] -/
def CoreSt.cwStep (x : CoreSt) (d : CwDesc) (m : Nat) : CoreSt :=
  if x.cp + 1 ≠ d.npass then { x with cp := x.cp + 1 }
  else if x.cn + 1 ≠ d.ntile then { x with cp := 0, cn := x.cn + 1 }
  else { x with cp := 0, cn := 0, cq := x.cq + m }

/-- The largest cell number v that the needed cells reach (R169). -/
def CwDesc.maxCell (d : CwDesc) (need : FMap (List Nat)) : Nat :=
  need.foldl (fun m r => r.2.foldl (fun m u => max m ((r.1 - d.iy0) * d.rowp + u)) m) 0

/-- cw.window (R165-R169, R174, R175): forms the vectors, feeds them as mx.tile does, advances the cursor. [DEDUCED: log 28, 107; DESIGN CHOICE: log 108] -/
def uWindow (c k : Nat) (o : UOp) : U Unit := do
  let s ← get
  match (s.core c).cwd with
  | none => throw ⟨fOperand, 0⟩
  | some ws =>
    let d := CwDesc.ofWords ws
    if d.et ≠ o.ty then throw ⟨fOperand, 0⟩
    uTileStart c k o
    let x := s.core c
    let vecs := (List.range o.m).map (fun m => (List.range 32).map (fun j => d.elem (x.cq + m) (32 * x.cp + j)))
    let need := d.needs vecs.flatten
    let pl ← (if aPlane o.aA then do
        if aOff o.aA % 32 ≠ 0 then throw ⟨fOperand, o.aA.toNat⟩
        let bs ← uRange c k (aOff o.aA, 32)
        let p := Plane.ofBytes bs
        if !p.geomOk || (!need.isEmpty && decide (p.rows ≤ d.maxCell need / 32)) then throw ⟨fOperand, o.aA.toNat⟩
        pure (some p)
      else pure none)
    let addr := d.cellAddr pl (aOff o.aA)
    let vals ← (if buffered need then do
        let bufs ← uLoadRows c k addr (d.reached vecs.flatten) need need x.lbufs
        modify (fun s => s.onCore c (fun x => { x with lbufs := bufs }))
        match d.heldBad bufs vecs.flatten with
        | some w =>
          modify (fun s => s.noteEcc c (s.phys c k w) true)
          throw ⟨fEcc, w⟩
        | none => pure ()
        pure (vecs.map (fun v => v.map (d.value bufs)))
      else do
        modify (fun s => s.onCore c (fun x => { x with lbufs := [] }))
        vecs.mapM (uDirect c k d addr))
    uTileEnd c k o (vals.map (fun v => (v, [])))
    modify (fun s => s.onCore c (fun x => x.cwStep d o.m))

/-! ### Stripes (R177) -/

/-- The stripe plan of R177: first and last output row, stored rows, selvedge above and below. -/
structure StripePlan where
  oy0 : Nat
  orows : Nat
  st : Nat
  sb : Nat
  iy0 : Nat
  irows : Nat
  deriving DecidableEq, Repr

/-- stripe_plan of R177 for input rows [Y0, Y0 + R) of an image of H rows. -/
def stripePlan (h oyc kh dy sy pt y0 r : Nat) : StripePlan :=
  let a : Int := ((kh - 1) * dy / 2 : Nat)
  let first : Int := if y0 = 0 then 0 else max 0 (ceilDivI ((y0 : Int) + pt - a) sy)
  let last : Int := if y0 + r = h then (oyc : Int) - 1
    else min ((oyc : Int) - 1) (floorDivI ((y0 : Int) + r - 1 + pt - a) sy)
  let top : Int := max 0 (first * sy - pt)
  let bot : Int := min ((h : Int) - 1) (last * sy - pt + ((kh - 1) * dy : Nat))
  let st := max 0 ((y0 : Int) - top)
  let sb := max 0 (bot - ((y0 : Int) + r - 1))
  { oy0 := first.toNat, orows := (max 0 (last - first + 1)).toNat, st := st.toNat, sb := sb.toNat,
    iy0 := ((y0 : Int) - st).toNat, irows := r + st.toNat + sb.toNat }

end Sys2Proof.Machine
end

