-- ==== Sys2Proof/Machine/Flight.lean ====
section
/-! DEFINITION. Sys2Proof/Machine/Flight.lean: what a unit operation does as it takes effect, and what reads and writes of one core meet of
each other while operations are in flight (R55, R84, R88-R90). -/

namespace Sys2Proof.Machine

/-- What an operation does as it takes effect. -/
def uRun (c k : Nat) (o : UOp) : U Unit :=
  match o.kind with
  | .wload => uWload c k o
  | .tile => uTile c k o
  | .fin => uFin c k o
  | .cfg => uCfg c k o
  | .window => uWindow c k o
  | .arith => uArith c k o
  | .minmax => uMinmax c k o
  | .fn => uFn c k o
  | .cvt => uCvt c k o
  | .mxq => uMxq c k o
  | .red => uRed c k o
  | .rand => uRand c k o
  | .sample => uSample c k o
  | .move => uMove c k o
  | .send => uSend c k o
  | .signal => uSignal c k o
  | .push => uPush c k o
  | .leaf => uLeaf c k o
  | .result => uResult c k o

/-- Whether the first operation must complete before the second: operations of one unit complete in issue order (R55), and so
do those that form the queue into the array (R107). -/
def UKind.before (a b : UKind) : Bool :=
  let unit (x : UKind) : Nat := match x with
    | .wload | .tile | .fin => 0
    | .cfg | .window => 1
    | .arith | .minmax | .fn | .cvt | .mxq | .red | .rand | .sample => 2
    | .move | .send | .signal => 3
    | .push => 4
    | .leaf | .result => 5
  unit a == unit b || (unit a == 0 && b == .window) || (a == .window && unit b == 0)

/-- The operation in flight under a token that may complete: none when an earlier one of its unit is still in flight. [DESIGN CHOICE: log 4; DEDUCED: log 15] -/
def CoreSt.ready (x : CoreSt) (tok : Nat) : Option UOp :=
  match x.ops.findIdx? (fun o => o.tok == tok) with
  | none => none
  | some i =>
    match x.ops[i]? with
    | none => none
    | some o => if (x.ops.take i).any (fun q => q.kind.before o.kind) then none else some o

/-! ### Accesses in flight (R55, R88-R90)

A unit operation reads and writes at any time between its issue and its completion. What else changes the core's bytes in that time takes
place in the same time, and so does what the core's other operations in flight do: for each 64-bit word, a read may meet any value that the
word has had since the operation's issue, or one that an operation in flight may have written already, and the operation's write may come
before any of the changes. A pattern that keeps R89 has no such word in what it reads or writes, and nothing below touches its results. -/

/-- A 64-bit word that changed, or that an operation in flight writes: its key, its changes since the issue, oldest first, its bytes now and
whether it is uncorrectable, the bytes that operations in flight may have written already, and a drawn number. -/
structure Overlap where
  word : Nat
  past : List Change
  now : List Byte
  bad : Bool
  ahead : List (List Byte × Bool)
  pick : Nat
  deriving DecidableEq, Repr

/-- Eight bytes. -/
def eightOf (bs : List Byte) : List Byte := (List.range 8).map (fun j => nth 0#8 bs j)

/-- What the operation may meet in the word, each with whether it is uncorrectable: the values since the issue, oldest first, the value now,
values still to come. -/
def Overlap.values (v : Overlap) : List (List Byte × Bool) :=
  v.past.map (fun h => (eightOf h.was, h.bad)) ++ (eightOf v.now, v.bad) :: v.ahead.map (fun h => (eightOf h.1, h.2))

/-- The value that the operation meets. [DEDUCED: log 15] -/
def Overlap.met (v : Overlap) : List Byte × Bool := nth (eightOf v.now, v.bad) v.values (v.pick % v.values.length)

/-- How many of the changes the operation's own write follows: those that its read follows, at least. [DEDUCED: log 15] -/
def Overlap.place (v : Overlap) : Nat :=
  max (min (v.pick % v.values.length) v.past.length) (v.pick / 2 ^ 16 % (v.past.length + 1))

/-- The state as an operation of the core meets it: the words at their met values. [DEDUCED: log 15] -/
def State.meeting (s : State) (vs : List Overlap) : State :=
  { s with
    scratch := vs.foldl (fun m v => m.putBytes (v.word * 8) v.met.1) s.scratch
    ue := vs.foldl (fun m v => FMap.set false m v.word v.met.2) s.ue }

/-- The changes of a core's words that an operation makes from the state `s` on, where `t` is the state after it. -/
def State.madeBy (s t : State) (c : Nat) : List Change := (t.changes c).drop (s.changes c).length

/-- Bytes of `w` over those of `b` where `mask` says so. -/
def pickBytes (b w : List Byte) (mask : Nat → Bool) : List Byte :=
  (List.range 8).map (fun j => if mask j then nth 0#8 w j else nth 0#8 b j)

/-- Whether some of the changes wrote byte `j` of the word. -/
def wroteByte (hs : List Change) (j : Nat) : Bool := hs.any (fun h => nth false h.wrote j)

/-- The word's bytes after its first `n` changes. -/
def Overlap.after (v : Overlap) (n : Nat) : List Byte := nth (eightOf v.now) (v.past.map (fun h => eightOf h.was)) n

/-- The word after the operation, whose own changes of it are `own` and whose memory is `m`: as it is now, where the operation did not write
it; else its write in its place, and the changes that come after it, each whole (R88). [DEDUCED: log 15] -/
def Overlap.settle (v : Overlap) (own : List Change) (m : Memory) : Memory :=
  let mine := own.filter (fun h => h.word == v.word)
  let bs := if mine.isEmpty then eightOf v.now
    else ((List.range v.past.length).drop v.place).foldl
      (fun b i => pickBytes b (v.after (i + 1)) (wroteByte [nth ⟨0, [], false, []⟩ v.past i]))
      (pickBytes (v.after v.place) (m.bytes (v.word * 8) 8) (wroteByte mine))
  m.putBytes (v.word * 8) bs

/-- Whether the word is uncorrectable after the operation: as it is now, unless the operation wrote all of it (R146). -/
def Overlap.badAfter (v : Overlap) (own : List Change) : Bool :=
  v.bad && !(List.range 8).all (wroteByte (own.filter (fun h => h.word == v.word)))

/-- The words with changes `past`, or values `ahead` that operations in flight may have written already; the drawn numbers begin at `n`. [DEDUCED: log 15] -/
def State.overlaps (s : State) (c n : Nat) (past : List Change) (ahead : List (Nat × List Byte × Bool)) : List Overlap :=
  let ws := ((past.map (·.word) ++ ahead.map (·.1)).filter (fun w => w / 2 ^ 19 == c)).eraseDups
  ws.zipIdx.map (fun w => ⟨w.1, past.filter (fun h => h.word == w.1), s.scratch.bytes (w.1 * 8) 8, FMap.get false s.ue w.1,
    (ahead.filter (fun h => h.1 == w.1)).map (·.2), (Config.freeWord (n + w.2)).toNat⟩)

/-- The changes of a core's words since the operation under a token was issued. -/
def State.since (s : State) (c tok : Nat) : List Change :=
  match (s.core c).seen.get none tok with
  | none => []
  | some x => (s.changes c).drop x.from_

/-- An operation as it takes effect on the words that it meets, its own changes kept apart under key 16. -/
def State.tryOp (s : State) (c k : Nat) (o : UOp) (vs : List Overlap) : Except Flt Unit × State :=
  (uRun c k o).go ((s.meeting vs).onCore c (fun x => { x with ops := x.ops.erase o, seen := x.seen.set none 16 (some ⟨0, 0⟩) }))

/-- What the operations of a core in flight, but that under `tok`, may have written already: words and bytes; and the number of draws behind
it. Each may have met what another has written (R55: no order between units). [DEDUCED: log 15] -/
def State.ahead (s : State) (c k tok : Nat) : List (Nat × List Byte × Bool) × Nat :=
  let ops := (s.core c).ops.filter (fun o => o.tok != tok)
  let r := (ops.flatMap (fun _ => ops)).foldl (fun (u : State × List (Nat × List Byte × Bool)) o =>
    let vs := u.1.overlaps c u.1.fresh (u.1.since c o.tok) []
    let t := ({ u.1 with fresh := u.1.fresh + vs.length }.tryOp c k o vs).2
    let own := u.1.madeBy t c
    let ws := (own.map (·.word)).eraseDups
    let out := ws.map (fun w => (w, t.scratch.bytes (w * 8) 8,
      FMap.get false u.1.ue w && !(List.range 8).all (wroteByte (own.filter (fun h => h.word == w)))))
    let taken := out.zipIdx.filter (fun q => bitOf (Config.freeWord (t.fresh + q.2)).toNat 0)
    ({ u.1 with scratch := taken.foldl (fun m q => m.putBytes (q.1.1 * 8) q.1.2.1) u.1.scratch, fresh := t.fresh + out.length }, u.2 ++ out))
    (s, [])
  (r.2, r.1.fresh - s.fresh)

/-- The words of core `c` in which a read or a write of the operation under a token may meet another's; under token 16, those in which a
scalar load may. [DEDUCED: log 15] -/
def State.clash (s : State) (c tok : Nat) : List Overlap :=
  let a := s.ahead c (s.active c) tok
  s.overlaps c (s.fresh + a.2) (s.since c tok) a.1

/-- What an operation in flight does as it takes effect, all of it, on the words as it meets them (R55, R90): its outcome, and the state after
it, in which it is no longer in flight. Of a cr.push whose partial has left, nothing is still to be done (R191). [DEDUCED: log 15] -/
def State.runOp (s : State) (c k : Nat) (o : UOp) : Except Flt Unit × State :=
  let vs := s.clash c o.tok
  if ((s.core c).posted.get none o.tok).isSome then
    (.ok (), s.onCore c (fun x => { x with
      ops := x.ops.erase o, seen := x.seen.set none o.tok none, posted := x.posted.set none o.tok none }))
  else if vs.isEmpty then
    let r := (uRun c k o).go (s.onCore c (fun x => { x with ops := x.ops.erase o }))
    (r.1, r.2.onCore c (fun x => { x with seen := x.seen.set none o.tok none }))
  else
    let r := { s with fresh := s.fresh + (s.ahead c k o.tok).2 + vs.length }.tryOp c k o vs
    let own := s.madeBy r.2 c
    let t := r.2.onCore c (fun x => { x with seen := (x.seen.set none 16 none).set none o.tok none })
    (r.1, { t with
      scratch := vs.foldl (fun m v => v.settle own m) t.scratch
      ue := vs.foldl (fun m v => FMap.set false m v.word (v.badAfter own)) t.ue
      words := FMap.set [] t.words c (s.changes c ++ own.map (fun h =>
        match vs.find? (fun v => v.word == h.word) with
        | some v => { h with was := eightOf v.now, bad := v.bad }
        | none => h)) })

end Sys2Proof.Machine
end

