-- ==== Sys2Proof/Machine/Scalar.lean ====
section
/-! DEFINITION. Sys2Proof/Machine/Scalar.lean: the scalar instructions sc.* (R96-R101). -/

namespace Sys2Proof.Machine

/-- R96: sc.alu by FN, codes 0x00-0x0E. -/
def aluOp (fn : Nat) (a b : Word) : Word :=
  let sh := b.toNat % 32
  match fn with
  | 0 => a + b
  | 1 => a - b
  | 2 => a &&& b
  | 3 => a ||| b
  | 4 => a ^^^ b
  | 5 => a <<< sh
  | 6 => a >>> sh
  | 7 => a.sshiftRight sh
  | 8 => a * b
  | 9 => BitVec.ofInt 32 (Int.fdiv (a.toInt * b.toInt) (2 ^ 32))
  | 10 => BitVec.ofNat 32 (a.toNat * b.toNat / 2 ^ 32)
  | 11 => if a.sle b then a else b
  | 12 => if b.sle a then a else b
  | 13 => if a.ule b then a else b
  | _ => if b.ule a then a else b

/-- The result of sc.alu: LCRD reads the loop counter that the rs1 field names. -/
def aluResult (f : FmtR) (b : Slot) : Word :=
  if f.fn.toNat = 15 then BitVec.ofNat 32 (b.lc f.rs1.toNat)
  else aluOp f.fn.toNat (b.s f.rs1.toNat) (b.s f.rs2.toNat)

/-- SC_ALU (R96). -/
def execScAlu (c : Nat) (f : FmtR) (s : State) : Host.Outcome State Fault Refusal :=
  ok (regIssue c (f.word 1#6) (fun b => b.setS f.rd.toNat (aluResult f b)) s)

/-- SC_ADDI (R97): IMM13 sign-extended. -/
def execScAddi (c : Nat) (f : FmtI) (s : State) : Host.Outcome State Fault Refusal :=
  ok (regIssue c (f.word 2#6) (fun b => b.setS f.rd.toNat (b.s f.rs1.toNat + f.imm.signExtend 32)) s)

/-- SC_ANDI (R97): IMM13 zero-extended. -/
def execScAndi (c : Nat) (f : FmtI) (s : State) : Host.Outcome State Fault Refusal :=
  ok (regIssue c (f.word 3#6) (fun b => b.setS f.rd.toNat (b.s f.rs1.toNat &&& f.imm.zeroExtend 32)) s)

/-- SC_ORI (R97). -/
def execScOri (c : Nat) (f : FmtI) (s : State) : Host.Outcome State Fault Refusal :=
  ok (regIssue c (f.word 4#6) (fun b => b.setS f.rd.toNat (b.s f.rs1.toNat ||| f.imm.zeroExtend 32)) s)

/-- SC_XORI (R97). -/
def execScXori (c : Nat) (f : FmtI) (s : State) : Host.Outcome State Fault Refusal :=
  ok (regIssue c (f.word 5#6) (fun b => b.setS f.rd.toNat (b.s f.rs1.toNat ^^^ f.imm.zeroExtend 32)) s)

/-- R97: sc.shi: amount IMM13[4:0], kind IMM13[6:5]. -/
def shiResult (imm : BitVec 13) (a : Word) : Word :=
  let sh := imm.toNat % 32
  match imm.toNat / 32 % 4 with
  | 0 => a <<< sh
  | 1 => a >>> sh
  | _ => a.sshiftRight sh

/-- SC_SHI (R97). -/
def execScShi (c : Nat) (f : FmtI) (s : State) : Host.Outcome State Fault Refusal :=
  ok (regIssue c (f.word 6#6) (fun b => b.setS f.rd.toNat (shiResult f.imm (b.s f.rs1.toNat))) s)

/-- SC_LDI (R97): IMM18 sign-extended. -/
def execScLdi (c : Nat) (f : FmtK) (s : State) : Host.Outcome State Fault Refusal :=
  ok (regIssue c (f.word 7#6) (fun b => b.setS f.rd.toNat (f.imm.signExtend 32)) s)

/-- SC_LUI (R97): rd[31:14] = IMM18, rd[13:0] kept. -/
def execScLui (c : Nat) (f : FmtK) (s : State) : Host.Outcome State Fault Refusal :=
  ok (regIssue c (f.word 8#6)
    (fun b => b.setS f.rd.toNat ((f.imm ++ (b.s f.rd.toNat).extractLsb' 0 14 : BitVec 32))) s)

/-- SC_CMP (R98). -/
def execScCmp (c : Nat) (f : FmtC) (s : State) : Host.Outcome State Fault Refusal :=
  ok (regIssue c (f.word 9#6)
    (fun b => b.setP f.pd.toNat (ccEval f.cc.toNat (b.s f.rs1.toNat) (b.s f.rs2.toNat))) s)

/-- SC_CMPI (R98): IMM11 sign-extended, integer codes only. -/
def execScCmpi (c : Nat) (f : FmtCI) (s : State) : Host.Outcome State Fault Refusal :=
  ok (regIssue c (f.word 10#6)
    (fun b => b.setP f.pd.toNat (ccEval f.cc.toNat (b.s f.rs1.toNat) (f.imm.signExtend 32))) s)

/-- SC_PLOG (R99). -/
def execScPlog (c : Nat) (f : FmtP) (s : State) : Host.Outcome State Fault Refusal :=
  ok (regIssue c (f.word 11#6)
    (fun b => b.setP f.pd.toNat (plogEval f.fn.toNat (b.p f.pa.toNat) (b.p f.pb.toNat))) s)

/-! ### Loads and stores (R100) -/

/-- R100: the effective address of sc.ld, sc.ldu and sc.st. -/
def memAddr (f : FmtM) (b : Slot) : Nat := wrapN 22 ((aOff (b.a f.aB.toNat) : Int) + f.imm.toInt)

/-- The bytes an access moves: SZ 0, 1, 2 for 1, 2, 4 bytes. -/
def memSize (f : FmtM) : Nat := 2 ^ f.sz.toNat

/-- R100: the faults of a scalar access before it reads: the bound, and PLANE; both are detected, and the one of the lower class is recorded
(R84). [DEDUCED: log 19, 105] -/
def memFaults (f : FmtM) (s : State) (c k : Nat) : List Flt :=
  let b := s.slot c k
  (match beyond (s.bound c k) (memAddr f b) (memSize f) with
  | some a => [⟨fData, a % 2 ^ 22⟩]
  | none => [])
    ++ (if aPlane (b.a f.aB.toNat) then [⟨fOperand, (b.a f.aB.toNat).toNat⟩] else [])

/-- The faults of one instruction, the lowest class first (R84). [DEDUCED: log 19] -/
def State.raiseAll (s : State) (c k pc : Nat) (l : List Flt) : State := s.each l (fun s e => s.raise c k e.cls pc e.addr true none)

/-- A load's value in rd: sign- or zero-extended from its size (R100). -/
def loadValue (f : FmtM) (signed : Bool) (bs : List Byte) : Word :=
  if signed then BitVec.ofInt 32 (sx (8 * memSize f) (leNat bs)) else BitVec.ofNat 32 (leNat bs)

/-- The state as a scalar load of core `c` meets it: an operation in flight may have written some words already (R90). [DEDUCED: log 15] -/
def State.asRead (s : State) (c : Nat) : State :=
  if (s.core c).ops.isEmpty then s
  else
    let vs := s.clash c 16
    { s.meeting vs with fresh := s.fresh + (s.ahead c (s.active c) 16).2 + vs.length }

/-- sc.ld and sc.ldu (R100). -/
def scalarLoad (signed : Bool) (f : FmtM) (c k : Nat) (s : State) : State :=
  let b := s.slot c k
  let l := memFaults f s c k
  if !l.isEmpty then s.raiseAll c k b.pc l
  else
    let u := s.asRead c
    let bs := u.winBytes c k (memAddr f b) (memSize f)
    let r := u.checkRange c k (memAddr f b) (memSize f)
    let s := { r.1 with scratch := s.scratch, ue := s.ue }
    match r.2 with
    | some a => s.raise c k fEcc b.pc a true none
    | none => (s.onSlot c k (fun b => b.setS f.r.toNat (loadValue f signed bs))).advance c k

/-- SC_LD (R100). -/
def execScLd (c : Nat) (f : FmtM) (s : State) : Host.Outcome State Fault Refusal :=
  ok (seqIssue c (f.word 12#6) (fun k s => scalarLoad true f c k s) s)

/-- SC_LDU (R100). -/
def execScLdu (c : Nat) (f : FmtM) (s : State) : Host.Outcome State Fault Refusal :=
  ok (seqIssue c (f.word 13#6) (fun k s => scalarLoad false f c k s) s)

/-- sc.st (R100): the low bytes of rs. -/
def scalarStore (f : FmtM) (c k : Nat) (s : State) : State :=
  let b := s.slot c k
  let l := memFaults f s c k
  if !l.isEmpty then s.raiseAll c k b.pc l
  else (s.putWin c k (memAddr f b) (leBytes (memSize f) (b.s f.r.toNat).toNat)).advance c k

/-- SC_ST (R100). -/
def execScSt (c : Nat) (f : FmtM) (s : State) : Host.Outcome State Fault Refusal :=
  ok (seqIssue c (f.word 14#6) (fun k s => scalarStore f c k s) s)

/-! ### Address registers (R101) -/

/-- R101: sc.addr by FN; AGET writes a scalar register, the others aD. -/
def addrOp (f : FmtAR) (b : Slot) : Slot :=
  let a := b.a f.aS.toNat
  let r := b.s f.rs.toNat
  let d : Int := (r.toNat * 2 ^ f.sh.toNat : Nat)
  match f.fn.toNat with
  | 0 => b.setA f.aD.toNat (mkAddr (aPlane a) ((aOff a : Int) + d))
  | 1 => b.setA f.aD.toNat (mkAddr (aPlane a) ((aOff a : Int) - d))
  | 2 => b.setA f.aD.toNat (mkAddr (aPlane r) (aOff r))
  | _ => b.setS f.rs.toNat a

/-- SC_ADDR (R101). -/
def execScAddr (c : Nat) (f : FmtAR) (s : State) : Host.Outcome State Fault Refusal :=
  ok (regIssue c (f.word 15#6) (addrOp f) s)

/-- SC_AADDI (R101): IMM15 sign-extended, modulo 2^22; PLANE copied. -/
def execScAaddi (c : Nat) (f : FmtAI) (s : State) : Host.Outcome State Fault Refusal :=
  ok (regIssue c (f.word 16#6)
    (fun b => b.setA f.aD.toNat
      (mkAddr (aPlane (b.a f.aS.toNat)) ((aOff (b.a f.aS.toNat) : Int) + f.imm.toInt))) s)

end Sys2Proof.Machine
end

