-- ==== Sys2Proof/Machine/Trace.lean ====
section
/-! DEFINITION. Sys2Proof/Machine/Trace.lean: trace rings, samplers and counters (R487-R498), and the event log's enable (R270). -/

namespace Sys2Proof.Machine

/-- Trace and counters changed by a function. -/
def State.onTrc (s : State) (f : TraceSt → TraceSt) : State := { s with trc := f s.trc }

/-! ### Rings: 0-4 trace rings, 8-12 sample rings -/

/-- The function of a ring. -/
def ringFn (k : Nat) : Nat := k % 8

/-- The registers of a ring (R497). -/
def ringBase (k : Nat) : Nat := if k < 8 then R.TRCF_BASE_LO (ringFn k) else R.SMP_BASE_LO (ringFn k)
def ringCfg (k : Nat) : Nat := if k < 8 then R.TRCF_CFG (ringFn k) else R.SMP_CFG (ringFn k)
def ringHead (k : Nat) : Nat := if k < 8 then R.TRCF_HEAD (ringFn k) else R.SMP_HEAD (ringFn k)
def ringTail (k : Nat) : Nat := if k < 8 then R.TRCF_TAIL (ringFn k) else R.SMP_TAIL (ringFn k)
def ringStat (k : Nat) : Nat := if k < 8 then R.TRCF_STAT (ringFn k) else R.SMP_STAT (ringFn k)

/-- Whether a ring's destination is the recorder (R491). -/
def State.ringRec (s : State) (k : Nat) : Bool := s.bit (ringCfg k) F.TRCF_CFG_DEST

/-- Whether a ring is protected (R490): the PF's, in host memory. -/
def State.ringProt (s : State) (k : Nat) : Bool := ringFn k == 0 && !s.ringRec k

/-- The recorder region of a ring (R491). -/
def State.ringRegion (s : State) (k : Nat) : Nat :=
  if ringFn k = 0 then s.fld (R.TRCF_SEL 0) F.TRCF_SEL_PART else ringFn k - 1

/-- What was lost at a full ring (R489, R496). -/
def State.ringDrop (s : State) (k n : Nat) : State :=
  let s := s.incFld (ringStat k) F.TRCF_STAT_DROPPED n
  if k < 8 then s else s.onTrc (fun t => { t with smpLost := FMap.set false t.smpLost (ringFn k) true })

/-- The slot or block after TAIL. -/
def State.ringNext (s : State) (k : Nat) : Nat :=
  (s.fld (ringTail k) F.TRCF_TAIL_TAIL + 1) % 2 ^ s.fld (ringCfg k) F.TRCF_CFG_LOG2SZ

/-- Whether a ring in host memory is full (R285, R489). -/
def State.ringFull (s : State) (k : Nat) : Bool := s.ringNext k == s.fld (ringHead k) F.TRCF_HEAD_HEAD

/-- The vector of a ring, sent for each slot or block written where IEN asks for it (R498). -/
def State.ringIrq (s : State) (k : Nat) : State :=
  let cfg := s.rd (ringCfg k)
  if isSet cfg F.TRCF_CFG_IEN then s.msix (ringFn k) (getF cfg F.TRCF_CFG_VEC) else s

/-- R489: one slot or block of `n` bytes at TAIL is written, unless the ring is full; `data` is given TAIL, and `count` is what it
holds. -/
def State.ringWrite (s : State) (k n count : Nat) (data : Nat → List Byte) : State :=
  let tail := s.fld (ringTail k) F.TRCF_TAIL_TAIL
  let phase := s.bit (ringTail k) F.TRCF_TAIL_PHASE
  let next := s.ringNext k
  if s.ringFull k then s.ringDrop k count
  else
    let s := (s.hostWrite (s.pair (ringBase k) (ringBase k + 4) + tail * n) (data tail)).1
    let s := s.setFld (ringTail k) F.TRCF_TAIL_TAIL next
    (s.setFld (ringTail k) F.TRCF_TAIL_PHASE (b2n (if next = 0 then !phase else phase))).ringIrq k

/-- The bytes of TRC_KEY. -/
def State.traceKey (s : State) : List Byte := (List.range 8).flatMap (fun w => leBytes 4 (FMap.get 0#32 s.trc.key w).toNat)

/-- A record of R479 under the trace key, region byte 0xFF (R490). [DEDUCED: log 91] -/
def protectedBlock (key : List Byte) (wc k : Nat) (data : List Byte) : List Byte :=
  let c := gcmSeal key (beBytes 8 wc ++ beBytes 4 k) [] (padTo 0#8 4096 data)
  leBytes 8 wc ++ leBytes 4 k ++ leBytes 1 0xFF ++ leBytes 3 0 ++ c.1 ++ c.2

/-- The bytes a ring has gathered for its next block. -/
def State.gathered (s : State) (k : Nat) : List Byte := FMap.get [] s.trc.blocks k

/-- R479, R490, R491: the gathered bytes of a ring leave as a block, its tail zero; WC counts the protected blocks that are written. [DEDUCED: log 91] -/
def State.closeBlock (s : State) (k unit : Nat) : State :=
  let data := s.gathered k
  let s := s.onTrc (fun t => { t with blocks := FMap.set [] t.blocks k [], firstAt := FMap.set none t.firstAt k none })
  if data.isEmpty then s
  else if s.ringRec k then
    let t := s.recordNext (s.ringRegion k) data
    if t.sec.wc = s.sec.wc then t else t.ringIrq k
  else if s.ringFull k then s.ringDrop k (data.length / max 1 unit)
  else
    let s := s.onTrc (fun t => { t with wc := (t.wc + 1) % 2 ^ 64 })
    s.ringWrite k 4128 (data.length / max 1 unit) (fun tail => protectedBlock s.traceKey s.trc.wc tail data)

/-- A record joins a ring's block, which leaves when no further record fits. -/
def State.gather (s : State) (k : Nat) (one : List Byte) : State :=
  let s := if 4096 < (s.gathered k).length + one.length then s.closeBlock k one.length else s
  let s := s.onTrc (fun t => { t with
    firstAt := if (FMap.get [] t.blocks k).isEmpty then FMap.set none t.firstAt k (some s.now) else t.firstAt
    blocks := FMap.set [] t.blocks k (FMap.get [] t.blocks k ++ one) })
  if 4096 < (s.gathered k).length + one.length then s.closeBlock k one.length else s

/-- A record reaches an enabled ring: a slot of a VF's host ring, or a block; `bytes` is given the ring's phase. -/
def State.ringPut (s : State) (k n : Nat) (bytes : Bool → List Byte) : State :=
  if !s.fnUp (ringFn k) then s
  else
    let one := bytes (s.bit (ringTail k) F.TRCF_TAIL_PHASE)
    if s.ringRec k || s.ringProt k then s.gather k one else s.ringWrite k n 1 (fun _ => one)

/-! ### Trace rings (R485, R488) -/

/-- The 16 bytes of a trace record (R485). -/
def TraceRec.bytes (r : TraceRec) (phase : Bool) : List Byte :=
  leBytes 2 (r.index % 1024 + r.unit % 8 * 2 ^ 10 + r.cls % 8 * 2 ^ 13) ++ leBytes 1 r.event
    ++ leBytes 1 (r.ctx % 8 + r.part % 4 * 8 + b2n r.stretch * 32 + b2n r.lost * 64 + b2n phase * 128)
    ++ leBytes 4 r.tag ++ leBytes 4 r.time ++ leBytes 4 r.arg

/-- A record enters every enabled ring whose selection it meets (R488). -/
def State.deliverTrace (s : State) (r : TraceRec) : State :=
  s.each (List.range 5) (fun s f => if s.ringTakes f r then s.ringPut f 16 (fun ph => r.bytes ph) else s)

/-- The collectors empty into the rings, each in its own order (R487, R489). [DESIGN CHOICE: log 3; DEDUCED: log 91] -/
def State.drainTrace (s : State) : State :=
  s.each [0, 1, 2, 3, 4] (fun s c =>
    let l := FMap.get [] s.trc.buf c
    let s := s.onTrc (fun t => { t with buf := FMap.set [] t.buf c [] })
    s.each l State.deliverTrace)

/-- The bytes of one record of a ring (R485, R496). -/
def State.ringUnit (s : State) (k : Nat) : Nat :=
  if k < 8 then 16 else 16 * ceilDiv (16 + 8 * (s.fld (ringCfg k) F.SMP_CFG_NSEL + 1)) 16

/-- FLUSH (R490): FLUSH µs of TB2 have passed since the first record of a protected ring's block; `k` is the PF's trace ring (0) or
sample ring (8). -/
def execFlush (k : Nat) (s : State) : Host.Outcome State Fault Refusal :=
  ok (if (k = 0 ∨ k = 8) ∧ s.bit (ringCfg k) F.TRCF_CFG_EN ∧ s.ringProt k then
      match FMap.get none s.trc.firstAt k with
      | some t =>
        let us := s.fld (ringCfg k) F.TRCF_CFG_FLUSH
        if 1 ≤ us ∧ t + 400 * us ≤ s.now then s.closeBlock k (s.ringUnit k) else s
      | none => s
    else s)

/-! ### Enabling rings (R490, R498) -/

/-- Whether a requester reaches the ring registers of function `f` (R497): a VF that NumVFs does not cover reaches none (R264). -/
def State.mayRing (s : State) (req f : Nat) : Bool := req == 0 || req == 5 || (s.fnUp req && req == f)

/-- A discarded write to a ring's registers (R498). -/
def State.ringReject (s : State) (k : Nat) : State := s.setBit (ringStat k) F.TRCF_STAT_CFG_REJECT

/-- A write to TRCf_CFG or SMPf_CFG (R490, R491, R498): a ring to the recorder uses no LOG2SZ, and only the PF's have FLUSH. [DEDUCED: log 91] -/
def State.writeRingCfg (s : State) (k : Nat) (v : Word) : State :=
  let old := s.rd (ringCfg k)
  let new := if k < 8 then setF v F.SMP_CFG_NSEL 0 else v
  let new := if ringFn k = 0 then new else setF new F.TRCF_CFG_FLUSH 0
  let same (f : Fld) : Bool := getF old f == getF new f
  let lg := getF new F.TRCF_CFG_LOG2SZ
  if isSet old F.TRCF_CFG_EN then
    if same F.TRCF_CFG_LOG2SZ && same F.TRCF_CFG_DEST && same F.TRCF_CFG_FLUSH && same F.SMP_CFG_NSEL then s.wr (ringCfg k) new
    else s.ringReject k
  else if !isSet new F.TRCF_CFG_EN then s.wr (ringCfg k) new
  else if (!isSet new F.TRCF_CFG_DEST && (lg < 4 || 12 < lg)) || (ringFn k == 0 && !isSet new F.TRCF_CFG_DEST && s.trc.keyed != 255) then s.ringReject k
  else
    let s := (s.wr (ringCfg k) new).wr (ringHead k) 0#32
    let s := s.wr (ringTail k) (mkF F.TRCF_TAIL_PHASE 1)
    s.onTrc (fun t => { t with blocks := FMap.set [] t.blocks k [], firstAt := FMap.set none t.firstAt k none })

/-- TRACE_RING_ENABLE (R498): TRCf_CFG, or SMPf_CFG where `smp`, is written. -/
def execTraceRingEnable (req f : Nat) (smp : Bool) (v : Word) (s : State) : Host.Outcome State Fault Refusal :=
  ok (if s.mayRing req f && decide (f < 5) then s.writeRingCfg (if smp then 8 + f else f) v else s)

/-! ### Counters (R492-R494) -/

/-- The three kinds of counter. -/
inductive CntKind where
  | global | channel | core
  deriving DecidableEq, Repr

/-- The counter at an offset of the block: its kind, the key of its CFG register, its channel or core, and which register it is: 0
CFG, 1 LO, 2 HI. -/
def cntAt (a : Nat) : Option (CntKind × Nat × Nat × Nat) :=
  let k := a / 16 * 16
  if a % 4 ≠ 0 ∨ a % 16 = 12 then none
  else if R.GCNT_CFG 0 ≤ a ∧ a < R.GCNT_CFG 64 then some (.global, k, 0, a % 16 / 4)
  else if R.CH_CNT_CFG 0 0 ≤ a ∧ a < R.CH_CNT_CFG 4 0 then some (.channel, k, (a - R.CH_CNT_CFG 0 0) / 0x200, a % 16 / 4)
  else if R.CORE_CNT_CFG 0 0 ≤ a ∧ a < R.CORE_CNT_CFG 1024 0 then some (.core, k, (a - R.CORE_CNT_CFG 0 0) / 0x80, a % 16 / 4)
  else none

/-- The channel of a counter that has one. -/
def cntChan (k : CntKind) (u : Nat) : Nat :=
  match k with
  | .global => 4
  | .channel => u
  | .core => u / 256

/-- R493: whether a counter of a kind accepts an event code. -/
def cntAccepts (k : CntKind) (e : Nat) : Bool :=
  let core := decide (e ≤ 0x0F)
  let chan := core || (decide (0x20 ≤ e) && decide (e ≤ 0x25))
  match k with
  | .core => core
  | .channel => chan
  | .global => chan || (decide (0x40 ≤ e) && decide (e ≤ 0x45))

/-- Whether a requester reaches a counter (R497). -/
def State.mayCnt (s : State) (req : Nat) (k : CntKind) (u : Nat) : Bool :=
  req == 0 || req == 5
    || (k != .global && decide (1 ≤ req) && decide (req ≤ 4) && s.fnUp req && (s.part (req - 1)).owns (cntChan k u))

/-- The count of a counter at this cycle. [DESIGN CHOICE: log 92] -/
def State.cntValue (s : State) (key : Nat) : Nat × State := (FMap.get 0 (s.settleCnt key).trc.counts key, s.settleCnt key)

/-- A write to a counter's CFG register, up to which it has counted as it was configured; a VF's has PART forced to its partition (R493, R497). [DEDUCED: log 91] -/
def State.writeCntCfg (s : State) (req : Nat) (k : CntKind) (key : Nat) (v : Word) : State :=
  let v := BitVec.ofNat 32 (v.toNat / 2 ^ 14 * 2 ^ 14 + v.toNat % 256)
  let v := if 1 ≤ req ∧ req ≤ 4 then setF v F.GCNT_CFG_PART (req - 1) else v
  if cntAccepts k (getF v F.GCNT_CFG_EVENT) then (s.settleCnt key).wr key v else s.ringReject (if req = 5 then 0 else req)

/-- A write of half of a counter's value (R494). -/
def State.writeCntValue (s : State) (key half : Nat) (v : Word) : State :=
  (s.settleCnt key).onTrc (fun t =>
    let old := FMap.get 0 t.counts key
    let new := if half = 1 then old / 2 ^ 32 * 2 ^ 32 + v.toNat else v.toNat * 2 ^ 32 + old % 2 ^ 32
    { t with counts := FMap.set 0 t.counts key new })

/-- COUNTER_VALUE_WRITE (R494): a value register, named by its offset, is written. A VF writes counters of its own partition. -/
def execCounterValueWrite (req a : Nat) (v : Word) (s : State) : Host.Outcome State Fault Refusal :=
  ok (match cntAt a with
    | some (k, key, u, half) =>
      if half = 0 || !s.mayCnt req k u || (decide (1 ≤ req) && decide (req ≤ 4) && s.fld key F.GCNT_CFG_PART != req - 1) then s
      else s.writeCntValue key half v
    | none => s)

/-! ### Samplers (R494-R496) -/

/-- The counter that an id names (R497): its kind, CFG key and unit. -/
def cntOfId (id : Nat) : Option (CntKind × Nat × Nat) :=
  match bitsOf id 15 14 with
  | 0 => some (.core, R.CORE_CNT_CFG (bitsOf id 9 0) (bitsOf id 12 10), bitsOf id 9 0)
  | 1 => some (.channel, R.CH_CNT_CFG (bitsOf id 11 10) (bitsOf id 4 0), bitsOf id 11 10)
  | 2 => some (.global, R.GCNT_CFG (bitsOf id 5 0), 0)
  | _ => none

/-- The counter id of entry `i` of a selection list. -/
def State.smpId (s : State) (f i : Nat) : Nat :=
  let w := s.rd (R.SMP_SEL f (i / 2))
  if i % 2 = 0 then getF w F.SMP_SEL_LOID else getF w F.SMP_SEL_HIID

/-- The value of one entry of a sample (R494, R496): a VF's list may name only its own partition's core and channel counters. With
`coincide` a MODE = STEP counter that a step start has reset in this cycle gives its count before the reset and the flag. [DEDUCED: log 91] -/
def State.smpValue (s : State) (f i : Nat) (coincide : Bool) : Nat × State :=
  match cntOfId (s.smpId f i) with
  | none => (0, s)
  | some (k, key, u) =>
    if f ≠ 0 ∧ (k = .global ∨ !(s.part (f - 1)).owns (cntChan k u) ∨ s.fld key F.GCNT_CFG_PART ≠ f - 1) then (0, s)
    else
      let (v, s') := s.cntValue key
      if coincide && k != .global && s.bit key F.GCNT_CFG_MODE && FMap.get none s.trc.resetAt key == some s.now then
        (FMap.get 0 s.trc.before key % 2 ^ 48 + 2 ^ 63, s')
      else (v % 2 ^ 48, s')

/-- STEP of a sample: the number of the partition's current step; a value drawn where none runs (R496). [DEDUCED: log 91] -/
def State.smpStep (s : State) (f : Nat) : Nat × State :=
  let p := if f = 0 then s.fld (R.TRCF_SEL 0) F.TRCF_SEL_PART else f - 1
  match (s.part p).cur with
  | some x => ((s.ctx p x).steps + 1, s)
  | none =>
    let (hi, s) := s.draw
    let (lo, s) := s.draw
    (hi.toNat * 2 ^ 32 + lo.toNat, s)

/-- The values of a sample, entries `i` on. -/
def State.smpValues (s : State) (f : Nat) (coincide : Bool) : List Nat → List Byte × State
  | [] => ([], s)
  | i :: is =>
    let (v, s) := s.smpValue f i coincide
    let (bs, s) := s.smpValues f coincide is
    (leBytes 8 v ++ bs, s)

/-- SAMPLE_INTERVAL (R495, R496): INTERVAL µs have passed; `coincide` says whether a step that has started at this cycle did so in the CK_M cycle of the capture (R494). [DESIGN CHOICE: log 5, 92] -/
def execSampleInterval (f : Nat) (coincide : Bool) (s : State) : Host.Outcome State Fault Refusal :=
  ok (if f < 5 ∧ s.bit (R.SMP_CFG f) F.SMP_CFG_EN then
      let n := s.fld (R.SMP_CFG f) F.SMP_CFG_NSEL + 1
      let size := 16 * ceilDiv (16 + 8 * n) 16
      let lost := FMap.get false s.trc.smpLost f
      let (step, s) := s.smpStep f
      let (vals, s) := s.smpValues f coincide (List.range n)
      let s := s.onTrc (fun t => { t with smpLost := FMap.set false t.smpLost f false })
      s.ringPut (8 + f) size (fun ph => padTo 0#8 size (leBytes 1 n ++ leBytes 1 (b2n ph * 128 + b2n lost * 64) ++ leBytes 2 0
        ++ leBytes 4 s.tb2 ++ leBytes 8 step ++ vals))
    else s)

/-! ### The event log (R270) -/

/-- A write to HI_FN_ELOG_CFG of function `f` (R270). -/
def State.writeElogCfg (s : State) (f : Nat) (v : Word) : State :=
  let r := R.HI_FN_ELOG_CFG f
  let old := s.rd r
  let new := v &&& 0xC0003F0F#32
  let lg := getF new F.HI_FN_ELOG_CFG_LOG2SZ
  if isSet old F.HI_FN_ELOG_CFG_EN then
    (if lg = getF old F.HI_FN_ELOG_CFG_LOG2SZ then s.wr r new else s)
  else if !isSet new F.HI_FN_ELOG_CFG_EN then s.wr r new
  else if lg < 4 ∨ 12 < lg then s
  else ((s.wr r new).wr (R.HI_FN_ELOG_HEAD f) 0#32).wr (R.HI_FN_ELOG_TAIL f) (mkF F.HI_FN_ELOG_TAIL_PHASE 1)

/-- ELOG_ENABLE (R270): function `f` writes its HI_FN_ELOG_CFG. -/
def execElogEnable (f : Nat) (v : Word) (s : State) : Host.Outcome State Fault Refusal :=
  ok (if f < 5 ∧ s.fnUp f then s.writeElogCfg f v else s)

end Sys2Proof.Machine
end

