-- ==== Sys2Proof/Machine/Bus.lean ====
section
/-! DEFINITION. Sys2Proof/Machine/Bus.lean: register accesses (R3-R7, R266, R268) and the management port (R529, R530): what a
requester sees, what a write of each register does. Requesters: 0 the PF, 1-4 the VFs, 5 the management port. -/

namespace Sys2Proof.Machine

/-! ### Places in the map -/

/-- The index of an offset in an array of registers. -/
def idxOf (a base stride count : Nat) : Option Nat :=
  if base ≤ a ∧ (a - base) % stride = 0 ∧ (a - base) / stride < count then some ((a - base) / stride) else none

/-- The indices of an offset in an array of blocks, each with an array of registers. -/
def idxOf2 (a base s1 c1 s2 c2 : Nat) : Option (Nat × Nat) :=
  if base ≤ a ∧ (a - base) / s1 < c1 then
    (idxOf ((a - base) % s1) 0 s2 c2).map (fun j => ((a - base) / s1, j))
  else none

/-- The key of an offset of a requester's BAR0: the function and queue-pair registers are the requester's own, the PF's for the
management port (R266, R268). -/
def keyOf (req a : Nat) : Nat :=
  if 0x02101000 ≤ a ∧ a < 0x02103000 then a + 0x4000000 * (if req ≤ 4 then req else 0) else a

/-- Whether a requester reads the register at an offset (R266): a VF sees its own slice. [DESIGN CHOICE: log 4; PRESUMED: log 9] -/
def State.mayRead (s : State) (req a : Nat) : Bool :=
  if req = 0 ∨ req = 5 then true
  else if 4 < req ∨ !s.fnUp req then false
  else if a < 0x01000000 then a == 0 || a == 4
  else if a < 0x02000000 then
    let off := (a - 0x01000000) % 0x400000
    (s.part (req - 1)).owns ((a - 0x01000000) / 0x400000) && off != 0x20 && !(off / 0x100000 == 2 && decide (0x100 ≤ off % 0x400))
  else if a < 0x02100000 then false
  else if a < 0x02200000 then a == R.HI_STAT || decide (0x02101000 ≤ a)
  else if a < 0x02300000 then
    match idxOf2 a (R.STRM_CTRL 0) 0x40 64 4 13 with
    | some (t, _) => s.fld (R.STRM_CTRL t) F.STRM_CTRL_PART == req - 1
    | none => false
  else if a < 0x02400000 then false
  else if a < 0x02500000 then a == R.TB_FRAC 2 || a == R.TB_NS 2 || a == R.TB_FRAC 3 || a == R.TB_NS 3
  else if a < 0x02600000 then false
  else if a < 0x02700000 then a == R.SEC_STAT
  else if a < 0x02710000 then
    (decide (R.TRCF_BASE_LO req ≤ a) && decide (a < R.TRCF_BASE_LO req + 0x40))
      || (decide (R.SMP_BASE_LO req ≤ a) && decide (a < R.SMP_BASE_LO req + 0x80))
  else if a < 0x02800000 then
    match cntAt a with
    | some (k, key, u, _) => s.mayCnt req k u && s.fld key F.GCNT_CFG_PART == req - 1
    | none => false
  else false

/-- Whether a requester writes the register at an offset (R266). [DESIGN CHOICE: log 4; PRESUMED: log 9] -/
def State.mayWrite (s : State) (req a : Nat) : Bool :=
  if req = 0 ∨ req = 5 then true
  else if 4 < req ∨ !s.fnUp req then false
  else if 0x01000000 ≤ a ∧ a < 0x02000000 then
    let off := (a - 0x01000000) % 0x400000
    (s.part (req - 1)).owns ((a - 0x01000000) / 0x400000)
      && (off / 0x100000 == 1 || (idxOf off 0x100 0x20 8).isSome)
  else if 0x02101000 ≤ a ∧ a < 0x02103000 then true
  else if 0x02710000 ≤ a ∧ a < 0x02800000 then
    match cntAt a with
    | some (k, key, u, r) => s.mayCnt req k u && (r == 0 || s.fld key F.GCNT_CFG_PART == req - 1)
    | none => false
  else if 0x02700000 ≤ a ∧ a < 0x02710000 then s.mayRead req a
  else false

/-! ### Reads (R3, R4, R7) -/

/-- The code of a context's state (R297). -/
def ctxCode (t : CtxSt) : Nat :=
  match t.state with
  | .none => 0
  | .idle => 1
  | .runnable => 2
  | .running => 3
  | .donating => 4
  | .teardown => 5

/-- Registers of a channel's command processor as they read (R320-R322): the allocator and context registers of a block that is not its
partition's lowest channel read 0. [DEDUCED: log 24, 55] -/
def State.viewCp (s : State) (n off : Nat) (w : Word) : Word :=
  let w := if (idxOf2 off 0x100 0x20 8 4 8).isSome || off == 0x10 || off == 0x14 then
      (if (s.ownerOf n).any (fun p => (s.part p).low == n) then w else 0#32) else w
  match s.ownerOf n with
  | none =>
    if off = 4 then setF w F.CP_STAT_CMDS (s.cmds n)
    else w
  | some p =>
    let x := s.part p
    if off = 4 then setF (setF (setF w F.CP_STAT_OWNED 1) F.CP_STAT_PART p) F.CP_STAT_CMDS (s.cmds n)
    else if x.low ≠ n then w
    else if off = 0x10 then setF w F.ALLOC_FREE_FREE (x.pool.filter (fun g => g.st == .free)).length
    else if off = 0x14 then mkF F.ALLOC_PEND_PENDING (x.pool.filter (fun g => match g.st with
      | .pending _ _ => true
      | _ => false)).length
    else
      match idxOf2 off 0x100 0x20 8 4 8 with
      | none => w
      | some (c, r) =>
        let t := x.ctx c
        match r with
        | 1 =>
          let w := setF w F.CTX_STAT_STATE (ctxCode t)
          let w := setF w F.CTX_STAT_QUEUED (min (t.queue.length - b2n t.running) 255)
          setF w F.CTX_STAT_DONOR (if t.state = .donating then t.donorOf.getD 0 else 0)
        | 2 => BitVec.ofNat 32 t.etime
        | 3 => BitVec.ofNat 32 (t.etime / 2 ^ 32)
        | 4 => BitVec.ofNat 32 t.vt
        | 5 => BitVec.ofNat 32 (t.vt / 2 ^ 32)
        | 6 => BitVec.ofNat 32 t.steps
        | 7 => BitVec.ofNat 32 (t.steps / 2 ^ 32)
        | _ => w

/-- Registers of a channel's block as they read. [DEDUCED: log 24] -/
def State.viewChan (s : State) (a : Nat) (w : Word) : Word :=
  let n := (a - 0x01000000) / 0x400000
  let off := (a - 0x01000000) % 0x400000
  match off / 0x100000 with
  | 0 => s.viewCp n off w
  | 1 =>
    if off % 16 = 12 then setF w F.SYNC_STAT_WAITERS (min (s.queue (n * 16384 + (off - 0x100000) / 16)).length 255) else w
  | 2 =>
    if off % 0x400 = 0 then
      let c := n * 256 + off % 0x100000 / 0x400
      setF w F.CORE_STAT_RESIDENT ((List.range 4).foldl (fun m k => Machine.setBit m k (s.slot c k).owner.isSome) 0)
    else w
  | _ => if off = 0x300000 then setF w F.CR_STAT_HELD (s.heldIn n) else w

/-- The register at a key as it reads, WO bits 0; the state after the draws that a count may need. [DEDUCED: log 24] -/
def State.view (s : State) (k : Nat) : Word × State :=
  let w := s.rd k
  if 0x01000000 ≤ k ∧ k < 0x02000000 then (s.viewChan k w, s)
  else if k = R.TB_FRAC 3 then (BitVec.ofNat 32 s.tb3Count, s)
  else if k = R.TB_NS 3 then (BitVec.ofNat 32 s.tb3, s)
  else if k = R.TRIP_PIN then
    (setF w F.TRIP_PIN_LEVEL ((List.range 8).foldl (fun m i => Machine.setBit m i (FMap.get 0 s.safe.tripLow i == 0)) 0), s)
  else if k = R.HB_CTRL then (setF w F.HB_CTRL_STOPPED (b2n (!s.beating)), s)
  else if R.SEC_RRD_DATA 0 ≤ k ∧ k < R.SEC_RRD_DATA 1024 then
    (BitVec.ofNat 32 (leNat ((s.sec.rrd.drop (k - R.SEC_RRD_DATA 0)).take 4)), s)
  else
    match idxOf k (R.GRP_STAT 0) 8 64, idxOf2 k (R.CP_GCL 0 0) 0x800 2 4 256, cntAt k with
    | some g, _, _ =>
      (setF w F.GRP_STAT_FALLBACK (s.loops.filter (fun j => s.loopGroup j == g && s.bit (R.LOOP_FLAGS j) F.LOOP_FLAGS_MODE)).length, s)
    | _, some (p, i), _ => (FMap.get 0#32 (s.port p).banks ((1 - s.fld (R.CP_GSTAT p) F.CP_GSTAT_BANK) * 256 + i), s)
    | _, _, some (_, key, _, 1) =>
      let (v, s) := s.cntValue key
      (BitVec.ofNat 32 v, s)
    | _, _, some (_, key, _, 2) =>
      let (v, s) := s.cntValue key
      (BitVec.ofNat 32 (v / 2 ^ 32), s)
    | _, _, _ => (w, s)

/-- What a read clears (R4); PEAK starts again from the number held now (R203). -/
def State.readClears (s : State) (k : Nat) : State :=
  match regDesc k with
  | none => s
  | some d =>
    if d.rc = 0 then s
    else
      let s := s.wr k (s.rd k &&& ~~~(BitVec.ofNat 32 d.rc))
      match idxOf k (R.CR_STAT 0) 0x400000 4 with
      | some n =>
        s.setFld k F.CR_STAT_PEAK ((s.noc.heldCr.filter (fun h => h.core / 256 == n)).foldl (fun m h => max m (s.heldAt h.core).length) 0)
      | none => s

/-- The key of a holding copy (R7): a requester and the low word of a pair. [DEDUCED: log 99] -/
def holdKey (req k : Nat) : Nat := req * 2 ^ 32 + k

/-- R7: the low word of a pair captures the high word; the high word reads as the requester's copy where it has one. [DEDUCED: log 99] -/
def State.readWord (s : State) (req k : Nat) : Word × State :=
  match regDesc k with
  | none => (0#32, s)
  | some d =>
    if d.pairLow then
      let (lo, s) := s.view k
      let (hi, s) := s.view (k + 4)
      (lo, { s with hold := FMap.set none s.hold (holdKey req k) (some hi) })
    else if 4 ≤ k ∧ (regDesc (k - 4)).any (fun e => e.pairLow) then
      match FMap.get none s.hold (holdKey req (k - 4)) with
      | some w => (w, s)
      | none => s.view k
    else
      let (w, s) := s.view k
      (w &&& ~~~(BitVec.ofNat 32 d.wo), s.readClears k)

/-- One aligned word of a requester's BAR0 read (R6). -/
def State.read32 (s : State) (req a : Nat) : Word × State :=
  if !s.regLive a || !s.mayRead req a then (0#32, s)
  else if a = R.ING_SWDATA then
    let s := s.swData none
    (s.lastRead.headD 0#32, s)
  else if a = R.LE_MEMDATA then
    let s := s.memData none
    (s.lastRead.headD 0#32, s)
  else s.readWord req (keyOf req a)

/-- R6: a read of `n` bytes at an offset returns the addressed bytes of its register. Of a read that is wider than its register, or that
crosses its end, the bytes beyond it are 0. [DESIGN CHOICE: log 114] -/
def State.readReg (s : State) (req a n : Nat) : State :=
  if s.pwr.porst || (req != 5 && s.pwr.shut) then { s with lastRead := [0#32] }
  else
    let (w, s) := s.read32 req (a % 2 ^ 26 / 4 * 4)
    { s with lastRead := [BitVec.ofNat 32 (w.toNat / 2 ^ (8 * (a % 4)) % 2 ^ (8 * n))] }

/-! ### Writes -/

/-- A write takes effect by the access codes of the register (R3, R5). -/
def State.writeBits (s : State) (k : Nat) (v : Word) : State :=
  match regDesc k with
  | none => s
  | some d =>
    let old := s.rd k
    let m (x : Nat) : Word := BitVec.ofNat 32 x
    s.wr k ((old &&& ~~~(m d.rw) &&& ~~~(v &&& m d.w1c)) ||| (v &&& m d.rw) ||| (v &&& m d.w1s))

/-- A write of a register of channel `n`, at an offset of its block. HVALID of a barrier stays 0 (R245). -/
def State.writeChan (s : State) (req n off : Nat) (v : Word) : State :=
  let a := 0x01000000 + n * 0x400000 + off
  match off / 0x100000 with
  | 0 =>
    if off = 0 then s.writeCpCtrl n v
    else
      match idxOf off 0x100 0x20 8, idxOf off 0x200 4 8 with
      | some c, _ =>
        match s.ownerOf n with
        | some p =>
          if (s.part p).low = n ∧ (s.ctx p c).state ≠ .none ∧ getF v F.CTX_SHARE_WEIGHT ≠ 0 then s.writeBits a v else s
        | none => s
      | _, some c => s.writeRepair req n c v
      | _, _ => s.writeBits a v
  | 1 =>
    let i := (off - 0x100000) / 16
    match off % 16 with
    | 0 => s.writeSyncCfg req n i v
    | 4 => s.writeSyncValue req n i v
    | 8 =>
      let s := s.writeBits a v
      let s := if s.fld (cfgReg (n * 16384 + i)) F.SYNC_CFG_KIND = 1 then s.setFld a F.SYNC_HOLDER_HVALID 0 else s
      s.checkDonations
    | _ => s.writeBits a v
  | 2 =>
    let c := n * 256 + off % 0x100000 / 0x400
    match idxOf (off % 0x400) 0x40 0x20 4 with
    | some k => s.writeWindow c k v
    | none => s.writeBits a v
  | _ => s

/-- A write of a register of the Kornal links. -/
def State.writeLinks (s : State) (a : Nat) (v : Word) : State :=
  if a = R.KL_ID then s.writeKlId v
  else
    match idxOf a (R.KL_CTRL 0) 0x1000 16, idxOf2 a (R.KL_POOL 0 0) 0x1000 16 4 4 with
    | some l, _ => s.writeKlCtrl l v
    | _, some (l, p) => s.writeKlPool l p v
    | _, _ => s.writeBits a v

/-- A write of a function's own register, or of one of its queue pairs. -/
def State.writeHost (s : State) (f a : Nat) (v : Word) : State :=
  let k := keyOf f a
  if a = R.HI_FN_ELOG_CFG 0 then s.writeElogCfg f v
  else if a = R.HI_FN_ELOG_BASE_LO 0 ∨ a = R.HI_FN_ELOG_BASE_HI 0 then
    (if s.bit (R.HI_FN_ELOG_CFG f) F.HI_FN_ELOG_CFG_EN then s else s.writeBits k v)
  else
    match idxOf2 a (R.HI_QP_SQ_BASE_LO 0 0) 0x40 64 4 8 with
    | some (q, r) => if r < 4 then s.writeQpBase f q (4 * r) v else if r = 4 then s.writeQpCfg f q v else s.writeBits k v
    | none => s.writeBits k v

/-- A write of an ingest register. -/
def State.writeIngest (s : State) (a : Nat) (v : Word) : State :=
  if a = R.ING_PORTCFG then s.writePortCfg v
  else if a = R.ING_SWDATA then s.swData (some v)
  else
    match idxOf2 a (R.STRM_CTRL 0) 0x40 64 4 13 with
    | some (t, 0) => s.writeStrmCtrl t v
    | some (t, r) =>
      if r < 10 then s.writeStrm t (4 * r) ((regDesc a).elim 0 (fun d => d.rw)) v
      else if r ≠ 10 ∧ s.strmState t ≠ stOff then s.strmReject t
      else s.writeBits a v
    | none => s.writeBits a v

/-- A write of a loop-engine register (R381-R383). -/
def State.writeLoop (s : State) (a : Nat) (v : Word) : State :=
  let tracing := s.fld R.TR_CTRL F.TR_CTRL_STATE == 1 || s.fld R.TR_CTRL F.TR_CTRL_STATE == 2
  if a = R.LE_CTRL then s.writeLeCtrl v
  else if a = R.LE_EPOCH then (if s.bit R.LE_CTRL F.LE_CTRL_EN then s else s.wr a v)
  else if a = R.LE_MEMDATA then s.memData (some v)
  else if a = R.LE_RESTORE then s.onLe (fun e => { e with restore := FMap.set false e.restore (getF v F.LE_RESTORE_LOOP) true })
  else if a = R.TR_CTRL then s.writeTrCtrl v
  else if a = R.TR_TRIG then (if tracing then s else s.writeBits a v)
  else if a = R.TR_RBASE then (if tracing then s else (s.writeBits a v).onLe (fun e => { e with ring := 0 }))
  else
    match idxOf a (R.GRP_CFG 0) 8 64, idxOf a (R.MB_CFG 0) 16 256, idxOf a (R.MB_DEADLINE 0) 16 256, idxOf a (R.TRC_CFG 0) 4 64 with
    | some g, _, _, _ => s.writeGrp g v
    | _, some m, _, _ => s.writeMbCfg m v
    | _, _, some m, _ => if s.bit (R.MB_CFG m) F.MB_CFG_EN then s else s.wr a v
    | _, _, _, some _ => if tracing then s else s.writeBits a v
    | _, _, _, _ => (s.writeBits a v).settle

/-- A write of a time register (R408-R411). [DEDUCED: log 98] -/
def State.writeTime (s : State) (a : Nat) (v : Word) : State :=
  if a = R.TB3_CTRL then s.writeSel (getF v F.TB3_CTRL_SEL)
  else if a = R.TIME_CTRL then
    let s := if isSet v F.TIME_CTRL_CAP then s.capture else s
    s.writeBits a v
  else
    match idxOf a (R.TB_STEP 0) 0x100 2, idxOf a (R.TB_CTRL 0) 0x100 2, idxOf a (R.CP_GCTRL 0) 0x800 2,
        idxOf a (R.CP_PREEMPT 0) 0x800 2, idxOf2 a (R.CP_GCL 0 0) 0x800 2 4 256 with
    | some n, _, _, _, _ => s.stepBase n v.toInt
    | _, some n, _, _, _ => s.writeTbCtrl n v
    | _, _, some p, _, _ => s.writeGctrl p v
    | _, _, _, some p, _ => s.writePreempt p v
    | _, _, _, _, some (p, i) => s.writeGcl p i v
    | _, _, _, _, _ =>
      match idxOf2 a (R.CP_CYCLE 0) 0x800 2 4 2 with
      | some (p, _) => if s.bit (R.CP_GSTAT p) F.CP_GSTAT_PENDING then s else s.wr a v
      | none => s.writeBits a v

/-- A write of a safety register (R424, R431, R432). -/
def State.writeSafety (s : State) (a : Nat) (v : Word) : State :=
  if lockedReg a && s.bit R.SAFE_LOCK F.SAFE_LOCK_LOCK then s.setBit R.TRIP_FAULT F.TRIP_FAULT_CFG_REJECT
  else if a = R.DD_ACTIVE then s.clearDomains v
  else if a = R.DD_FORCE then s.writeForce v
  else if a = R.TEST_CTRL then s.writeTestCtrl v
  else
    match idxOf a (R.PERMIT_CTRL 0) 0x20 8 with
    | some k => s.writePermit k v
    | none => (s.writeBits a v).safeAfter a (s.rd a)

/-- A write of SEC_RECr_CFG (R483): EN may change; a base or size changes only while EN = 0, without overlap and within the fitted
PSRAM. [DESIGN CHOICE: log 89; PRESUMED: log 95] -/
def State.writeRecCfg (s : State) (r : Nat) (v : Word) : State :=
  let k := R.SEC_REC_CFG r
  let old := s.rd k
  let new := v &&& 0xBF7F0000#32
  let base := getF new F.SEC_REC_CFG_BASE_MB
  let size := getF new F.SEC_REC_CFG_SIZE_MB
  let same := base == getF old F.SEC_REC_CFG_BASE_MB && size == getF old F.SEC_REC_CFG_SIZE_MB
  let clash := decide (size ≠ 0) && (List.range 5).any (fun q => q != r && decide (s.fld (R.SEC_REC_CFG q) F.SEC_REC_CFG_SIZE_MB ≠ 0)
    && decide (base < s.fld (R.SEC_REC_CFG q) F.SEC_REC_CFG_BASE_MB + s.fld (R.SEC_REC_CFG q) F.SEC_REC_CFG_SIZE_MB)
    && decide (s.fld (R.SEC_REC_CFG q) F.SEC_REC_CFG_BASE_MB < base + size))
  if !same && (isSet old F.SEC_REC_CFG_EN || clash || decide (64 < size) || decide (size ≠ 0 ∧ Config.psramMb < base + size)) then s.secReject
  else s.wr k (setF new F.SEC_REC_CFG_BUSY (getF old F.SEC_REC_CFG_BUSY))

/-- A write of SEC_CTRL (R460, R469): whether the store then takes a write, refuses it or has not answered is open. While a key action waits,
another is discarded. -/
def State.writeSecCtrl (s : State) (req : Nat) (v : Word) : State :=
  let act (s : State) (on : Bool) (f : State → Host.Outcome State Fault Refusal) : State :=
    if on then (match f s with
      | .next t => t
      | _ => s) else s
  let s := act s (isSet v F.SEC_CTRL_CERTGO) (execCertgo req)
  let (good, s) := s.draw
  let answer (i : Nat) : Option Bool := if bitOf good.toNat (i + 1) then some (bitOf good.toNat i) else none
  let key (s : State) (on : Bool) (f : State → Host.Outcome State Fault Refusal) : State :=
    if on && s.sec.keying.isSome then s.secReject else act s on f
  let s := key s (isSet v F.SEC_CTRL_KINST) (execKinst req (answer 0))
  key s (isSet v F.SEC_CTRL_KROT) (execKrot req (answer 2))

/-- A write of a security register (R482, R483). -/
def State.writeSec (s : State) (req a : Nat) (v : Word) : State :=
  if a = R.SEC_CTRL then s.writeSecCtrl req v
  else if a = R.SEC_RRD_ADDR then
    ((s.writeBits a v).wr R.SEC_RRD_STAT 0#32).onSec (fun x => { x with reading := true })
  else
    match idxOf a (R.SEC_REC_CFG 0) 4 5, idxOf a (R.SEC_KBUF 0) 4 8192 with
    | some r, _ => s.writeRecCfg r v
    | _, some w => s.onSec (fun x => { x with kbuf := x.kbuf.putNum (4 * w) 4 v.toNat })
    | _, _ => s.writeBits a v

/-- A write of a ring register of the trace block: BASE, SEL and the selection list are closed while the ring is enabled, and only the PF's
selects a partition (R498). -/
def State.writeRing (s : State) (k r a : Nat) (v : Word) : State :=
  let shut := r == 0 || r == 1 || (k < 8 && r == 3) || decide (16 ≤ r)
  let v := if k < 8 ∧ r = 3 ∧ ringFn k ≠ 0 then setF v F.TRCF_SEL_PART 0 else v
  if r = 2 then s.writeRingCfg k v
  else if shut && s.bit (ringCfg k) F.TRCF_CFG_EN then s.ringReject k
  else s.writeBits a v

/-- A write of a trace or counter register. [DEDUCED: log 98] -/
def State.writeTrace (s : State) (req a : Nat) (v : Word) : State :=
  match idxOf2 a (R.TRCF_BASE_LO 0) 0x40 5 4 16, idxOf2 a (R.SMP_BASE_LO 0) 0x80 5 4 32, idxOf a (R.TRC_KEY 0) 4 8, cntAt a with
  | some (f, r), _, _, _ => s.writeRing f r a v
  | _, some (f, r), _, _ => s.writeRing (8 + f) r a v
  | _, _, some w, _ => s.onTrc (fun t => { t with
      key := FMap.set 0#32 t.key w v
      keyed := Machine.setBit t.keyed w true })
  | _, _, _, some (k, key, _, r) => if r = 0 then s.writeCntCfg req k key v else s.writeCntValue key r v
  | _, _, _, none => s.writeBits a v

/-- A write of RST_CTRL (R516): the management port's only. -/
def State.writeRstCtrl (s : State) (req : Nat) (v : Word) : State :=
  if req ≠ 5 then s.setBit R.PWR_STAT F.PWR_STAT_CFG_REJECT
  else
    let s := if isSet v F.RST_CTRL_ISLRST && !s.pwr.isl then s.islandReset else s
    if isSet v F.RST_CTRL_FABRST then s.fabricReset else s

/-- A write of a clock, power, gauge, supply or thermal register. -/
def State.writePower (s : State) (req a : Nat) (v : Word) : State :=
  if a = R.RST_CTRL then s.writeRstCtrl req v
  else if a = R.TEN_CFG then
    (if 4 ≤ getF v F.TEN_CFG_DROOP ∧ getF v F.TEN_CFG_DROOP ≤ 24 then s.writeBits a v else s)
  else if a = R.PWR_GATE_LO then s.writeGate 0 v
  else if a = R.PWR_GATE_HI then s.writeGate 32 v
  else if a = R.GAUGE_CFG then
    let mt := getF v F.GAUGE_CFG_MT
    let s := if 20 ≤ mt ∧ mt ≤ 200 then s.writeBits a v else s
    if isSet v F.GAUGE_CFG_NOW then s.measureAll else s
  else if a = R.SUPPLY_CFG then
    let r := getF v F.SUPPLY_CFG_RST
    let w := getF v F.SUPPLY_CFG_WARN
    if 8 ≤ r ∧ r ≤ 15 ∧ 3 ≤ w ∧ w ≤ 8 ∧ w < r then s.writeBits a v else s
  else s.writeBits a v

/-- One aligned word of a requester's BAR0 written: what its register does with it; nothing where no register is (R6). -/
def State.write32 (s : State) (req a : Nat) (v : Word) : State :=
  if !s.regTakes a || !s.mayWrite req a || (regDesc (keyOf req a)).isNone then s
  else if a < 0x01000000 then s
  else if a < 0x02000000 then
    s.writeChan req ((a - 0x01000000) / 0x400000) ((a - 0x01000000) % 0x400000) v
  else if a < 0x02100000 then s.writeLinks a v
  else if a < 0x02200000 then (if 0x02101000 ≤ a ∧ a < 0x02103000 then s.writeHost (if req ≤ 4 then req else 0) a v else s)
  else if a < 0x02300000 then (if s.pwr.isl then s else s.writeIngest a v)
  else if a < 0x02400000 then (if s.pwr.isl then s else s.writeLoop a v)
  else if a < 0x02500000 then (if s.pwr.isl then s else s.writeTime a v)
  else if a < 0x02600000 then (if s.pwr.isl then s else s.writeSafety a v)
  else if a < 0x02700000 then s.writeSec req a v
  else if a < 0x02800000 then s.writeTrace req a v
  else s.writePower req a v

/-- R6: a write of `n` bytes at an offset; one that is narrow or not aligned is discarded. -/
def State.writeReg (s : State) (req a n : Nat) (v : Word) : State :=
  if s.pwr.porst || (req != 5 && s.pwr.shut) || n != 4 || a % 4 != 0 then s else s.write32 req (a % 2 ^ 26) v

/-! ### Commands -/

/-- REGISTER_WRITE (R3, R6): a requester writes `n` bytes at an offset of its BAR0. -/
def execRegisterWrite (req a n : Nat) (v : Word) (s : State) : Host.Outcome State Fault Refusal := ok (s.writeReg req a n v)

/-- READ_TO_CLEAR (R4, R6): a requester reads `n` bytes at an offset; RC fields clear. -/
def execReadToClear (req a n : Nat) (s : State) : Host.Outcome State Fault Refusal := ok (s.readReg req a n)

/-- PAIR_LOW_READ (R7): a requester reads the low word of a pair. -/
def execPairLowRead (req a : Nat) (s : State) : Host.Outcome State Fault Refusal := ok (s.readReg req a 4)

/-- R529: whether the port takes a transaction: opcode, its complement, the reserved address bits. [DEDUCED: log 97] -/
def mgTakes (code op comp : Byte) (addr : Word) : Bool :=
  op == code && comp == ~~~op && addr.toNat / 2 ^ 26 == 0 && addr.toNat % 4 == 0

/-- The words of a READ at ascending offsets. [DEDUCED: log 97] -/
def State.mgWords (s : State) (a : Nat) : Nat → List Word × State
  | 0 => ([], s)
  | n + 1 =>
    let (w, s) := s.read32 5 (a % 2 ^ 26)
    let (ws, s) := s.mgWords (a + 4) n
    (w :: ws, s)

/-- MG_READ (R529, R530): a READ transaction of which `n` words have begun. [DEDUCED: log 97, 102] -/
def execMgRead (op comp : Byte) (addr : Word) (n : Nat) (s : State) : Host.Outcome State Fault Refusal :=
  ok (if s.pwr.porst || !mgTakes 0x0B#8 op comp addr then s
    else
      let (ws, s) := s.mgWords addr.toNat n
      { s with lastRead := ws })

/-- Words applied at ascending offsets. -/
def State.mgApply (s : State) (a : Nat) : List (List Byte) → State
  | [] => s
  | b :: bs => (if b.length = 4 then s.write32 5 (a % 2 ^ 26) (BitVec.ofNat 32 (leNat b)) else s).mgApply (a + 4) bs

/-- MG_WRITE (R529, R530): a WRITE transaction with its data bytes; a word that is not complete is discarded. [DEDUCED: log 97, 102] -/
def execMgWrite (op comp : Byte) (addr : Word) (data : List Byte) (s : State) : Host.Outcome State Fault Refusal :=
  ok (if s.pwr.porst || !mgTakes 0x02#8 op comp addr then s
    else s.mgApply addr.toNat (chunksOf 4 data.length data))

end Sys2Proof.Machine
end

