-- ==== Sys2Proof/Machine/Tick.lean ====
section
/-! DEFINITION. Sys2Proof/Machine/Tick.lean: what happens in one CK_S cycle whatever is commanded (R386, R252, R398, R402, R487, R502). -/

namespace Sys2Proof.Machine

/-- One CK_S cycle: the model's clock, the time bases and the control ports of a running island, bursts of tension, the trace
collectors, acknowledgements and credits of idle links. [DESIGN CHOICE: log 3, 5, 115] -/
def State.tick (s : State) : State :=
  let s := { s with now := s.now + 1 }
  let s := if s.pwr.isl then s else ((s.tickBases).tickPort 0).tickPort 1
  (((s.sharedFaults).tension).drainTrace).idleLinks

end Sys2Proof.Machine
end

