-- ==== Sys2Proof/Machine/Units.lean ====
section
/-! DEFINITION. Sys2Proof/Machine/Units.lean: the issue of every unit operation (R55, R56, R92) and the completion of its
token, at which the operation takes effect (R58). -/

namespace Sys2Proof.Machine

/-- The token of a completed operation (R57, R58), and the end of the part that waits for it (R71). [DEDUCED: log 15] -/
def State.completeToken (s : State) (c k tok : Nat) : State :=
  let s := s.onSlot c k (fun b => { b with pend := Machine.setBit b.pend tok false })
  if (s.core c).wait = .ending && (s.slot c k).pend == 0 && !(s.core c).stopped then s.endPart c k else s

/-- A waiting cr.push whose child goes to another chip sends it, once; the operation stays in flight, and waits for the report that the
child is held or combined (R191). [DEDUCED: log 32] -/
def State.startPush (s : State) (c k : Nat) (o : UOp) : State :=
  if !s.pushFar c k o || ((s.core c).posted.get none o.tok).isSome then s
  else
    match s.runOp c k o with
    | (.error f, t) => t.raiseAt (s.orderOf c false (some o.tok)) c k f.cls o.pc f.addr false (some o.tok)
    | (.ok _, t) => t.onCore c (fun x => { x with
        ops := (s.core c).ops
        seen := x.seen.set none o.tok ((s.core c).seen.get none o.tok)
        posted := x.posted.set none o.tok (some s.noc.nextId) })

/-- TOKEN_COMPLETION (R58): the operation under a token of the running context takes effect, all of it, and its token becomes
COMPLETE, its plies being counted (R493); or it faults, imprecisely, and its token stays as it is (R84, R85). A cr.push waits while its child does (R191), a msg.send while
the command port it posts to is full (R214). [DEDUCED: log 15, 28, 29] -/
def execTokenCompletion (c tok : Nat) (s : State) : Host.Outcome State Fault Refusal :=
  ok (
    let k := s.active c
    if !s.isRunning c || s.paused (chanOf c) then s
    else
      match (s.core c).ready tok with
      | none => s
      | some o =>
        if o.kind == .push && s.pushWaits c k o then s.startPush c k o
        else if o.kind == .send && s.sendWaits c k o then s
        else
          let order := s.orderOf c false (some tok)
          match s.runOp c k o with
          | (.ok _, s) =>
            let s := if o.plies = 0 then s else s.count (some c) (chanOf c) (s.slot c k).owner 0x03 o.plies
            (s.markCore c o.kind.engine tvEnd ((s.slot c k).owner.getD (0, 0)) o.tok o.pc).completeToken c k tok
          | (.error f, s) => s.raiseAt order c k f.cls o.pc f.addr false (some o.tok))

/-- MX_WLOAD (R108): its issue. -/
def execMxWload (c : Nat) (f : FmtU2) (s : State) : Host.Outcome State Fault Refusal :=
  ok (unitIssue c (f.word 32#6) (captureU2 .wload f) s)

/-- MX_TILE (R109): its issue. -/
def execMxTile (c : Nat) (f : FmtU2) (s : State) : Host.Outcome State Fault Refusal :=
  ok (unitIssue c (f.word 33#6) (captureU2 .tile f) s)

/-- MX_FIN (R110): its issue. -/
def execMxFin (c : Nat) (f : FmtU1) (s : State) : Host.Outcome State Fault Refusal :=
  ok (unitIssue c (f.word 34#6) (captureU1 .fin f) s)

/-- CW_CFG (R112): its issue. -/
def execCwCfg (c : Nat) (f : FmtU1) (s : State) : Host.Outcome State Fault Refusal :=
  ok (unitIssue c (f.word 35#6) (captureU1 .cfg f) s)

/-- CW_WINDOW (R112): its issue. -/
def execCwWindow (c : Nat) (f : FmtU2) (s : State) : Host.Outcome State Fault Refusal :=
  ok (unitIssue c (f.word 36#6) (captureU2 .window f) s)

/-- VX_ARITH (R115): its issue. -/
def execVxArith (c : Nat) (f : FmtU2) (s : State) : Host.Outcome State Fault Refusal :=
  ok (unitIssue c (f.word 37#6) (captureU2 .arith f) s)

/-- VX_MINMAX (R115): its issue. -/
def execVxMinmax (c : Nat) (f : FmtU2) (s : State) : Host.Outcome State Fault Refusal :=
  ok (unitIssue c (f.word 38#6) (captureU2 .minmax f) s)

/-- VX_FN (R116): its issue. -/
def execVxFn (c : Nat) (f : FmtU1) (s : State) : Host.Outcome State Fault Refusal :=
  ok (unitIssue c (f.word 39#6) (captureU1 .fn f) s)

/-- VX_CVT (R117): its issue. -/
def execVxCvt (c : Nat) (f : FmtU1) (s : State) : Host.Outcome State Fault Refusal :=
  ok (unitIssue c (f.word 40#6) (captureU1 .cvt f) s)

/-- VX_MXQ (R117): its issue. -/
def execVxMxq (c : Nat) (f : FmtU2) (s : State) : Host.Outcome State Fault Refusal :=
  ok (unitIssue c (f.word 41#6) (captureU2 .mxq f) s)

/-- VX_RED (R118): its issue. -/
def execVxRed (c : Nat) (f : FmtU1) (s : State) : Host.Outcome State Fault Refusal :=
  ok (unitIssue c (f.word 42#6) (captureU1 .red f) s)

/-- VX_RAND (R119): its issue. -/
def execVxRand (c : Nat) (f : FmtU1) (s : State) : Host.Outcome State Fault Refusal :=
  ok (unitIssue c (f.word 43#6) (captureU1 .rand f) s)

/-- VX_SAMPLE (R120): its issue. -/
def execVxSample (c : Nat) (f : FmtU2) (s : State) : Host.Outcome State Fault Refusal :=
  ok (unitIssue c (f.word 44#6) (captureU2 .sample f) s)

/-- MSG_MOVE (R121): its issue. -/
def execMsgMove (c : Nat) (f : FmtU1) (s : State) : Host.Outcome State Fault Refusal :=
  ok (unitIssue c (f.word 45#6) (captureU1 .move f) s)

/-- MSG_SEND (R122): its issue. -/
def execMsgSend (c : Nat) (f : FmtU1) (s : State) : Host.Outcome State Fault Refusal :=
  ok (unitIssue c (f.word 46#6) (captureU1 .send f) s)

/-- CR_PUSH (R124): its issue. -/
def execCrPush (c : Nat) (f : FmtU1) (s : State) : Host.Outcome State Fault Refusal :=
  ok (unitIssue c (f.word 48#6) (captureU1 .push f) s)

/-- DG_LEAF (R125): its issue. -/
def execDgLeaf (c : Nat) (f : FmtU1) (s : State) : Host.Outcome State Fault Refusal :=
  ok (unitIssue c (f.word 49#6) (captureU1 .leaf f) s)

/-- DG_RESULT (R125): its issue. -/
def execDgResult (c : Nat) (f : FmtU1) (s : State) : Host.Outcome State Fault Refusal :=
  ok (unitIssue c (f.word 50#6) (captureU1 .result f) s)

/-- SY_SIGNAL (R123): its issue. The handle is checked here: out of reach, the fault is imprecise and the signal never leaves
(R242). A step that has issued one is no longer withdrawable (R312). [DEDUCED: log 39] -/
def execSySignal (c : Nat) (f : FmtU1) (s : State) : Host.Outcome State Fault Refusal :=
  ok (tokIssue c (f.word 47#6) (captureU1 .signal f (s.slot c (s.active c))).tok (fun k s =>
    let o := captureU1 .signal f (s.slot c k)
    let refused := s.handleTo o.c0.toNat (s.part (s.ownerIn c k).1).chmask == .refused
    let s := (s.issueOp c k o).noWithdraw c k
    if refused then
      (s.onCore c (fun x => { x with ops := x.ops.erase o, seen := x.seen.set none o.tok none })).raise c k fSync o.pc 0 false (some o.tok)
    else s) s)

end Sys2Proof.Machine
end

