-- ==== Sys2Proof/Machine/Dispatch.lean ====
section
/-! DEFINITION. Sys2Proof/Machine/Dispatch.lean: the one place that sends each command to its meaning. -/

namespace Sys2Proof.Machine

open Sys2Proof

def exec (i : Instr) (s : State) : Host.Outcome State Fault Refusal :=
  match i with
  | .scAlu c f => Sys2Proof.Machine.execScAlu c f s
  | .scAddi c f => Sys2Proof.Machine.execScAddi c f s
  | .scAndi c f => Sys2Proof.Machine.execScAndi c f s
  | .scOri c f => Sys2Proof.Machine.execScOri c f s
  | .scXori c f => Sys2Proof.Machine.execScXori c f s
  | .scShi c f => Sys2Proof.Machine.execScShi c f s
  | .scLdi c f => Sys2Proof.Machine.execScLdi c f s
  | .scLui c f => Sys2Proof.Machine.execScLui c f s
  | .scCmp c f => Sys2Proof.Machine.execScCmp c f s
  | .scCmpi c f => Sys2Proof.Machine.execScCmpi c f s
  | .scPlog c f => Sys2Proof.Machine.execScPlog c f s
  | .scLd c f => Sys2Proof.Machine.execScLd c f s
  | .scLdu c f => Sys2Proof.Machine.execScLdu c f s
  | .scSt c f => Sys2Proof.Machine.execScSt c f s
  | .scAddr c f => Sys2Proof.Machine.execScAddr c f s
  | .scAaddi c f => Sys2Proof.Machine.execScAaddi c f s
  | .brJmp c f => Sys2Proof.Machine.execBrJmp c f s
  | .brCall c f => Sys2Proof.Machine.execBrCall c f s
  | .brJr c f => Sys2Proof.Machine.execBrJr c f s
  | .sqLoop c f => Sys2Proof.Machine.execSqLoop c f s
  | .sqEnd c f => Sys2Proof.Machine.execSqEnd c f s
  | .sqIfence c f => Sys2Proof.Machine.execSqIfence c f s
  | .sqNop c f => Sys2Proof.Machine.execSqNop c f s
  | .twait c f => Sys2Proof.Machine.execTwait c f s
  | .twaitReturn c => Sys2Proof.Machine.execTwaitReturn c s
  | .syWait c f => Sys2Proof.Machine.execSyWait c f s
  | .mxWload c f => Sys2Proof.Machine.execMxWload c f s
  | .mxTile c f => Sys2Proof.Machine.execMxTile c f s
  | .mxFin c f => Sys2Proof.Machine.execMxFin c f s
  | .cwCfg c f => Sys2Proof.Machine.execCwCfg c f s
  | .cwWindow c f => Sys2Proof.Machine.execCwWindow c f s
  | .vxArith c f => Sys2Proof.Machine.execVxArith c f s
  | .vxMinmax c f => Sys2Proof.Machine.execVxMinmax c f s
  | .vxFn c f => Sys2Proof.Machine.execVxFn c f s
  | .vxCvt c f => Sys2Proof.Machine.execVxCvt c f s
  | .vxMxq c f => Sys2Proof.Machine.execVxMxq c f s
  | .vxRed c f => Sys2Proof.Machine.execVxRed c f s
  | .vxRand c f => Sys2Proof.Machine.execVxRand c f s
  | .vxSample c f => Sys2Proof.Machine.execVxSample c f s
  | .msgMove c f => Sys2Proof.Machine.execMsgMove c f s
  | .msgSend c f => Sys2Proof.Machine.execMsgSend c f s
  | .sySignal c f => Sys2Proof.Machine.execSySignal c f s
  | .crPush c f => Sys2Proof.Machine.execCrPush c f s
  | .dgLeaf c f => Sys2Proof.Machine.execDgLeaf c f s
  | .dgResult c f => Sys2Proof.Machine.execDgResult c f s
  | .illegalEncoding c => Sys2Proof.Machine.execIllegalEncoding c s
  | .tokenCompletion c tok => Sys2Proof.Machine.execTokenCompletion c tok s
  | .fetchMiss c => Sys2Proof.Machine.execFetchMiss c s
  | .contextFault c k => Sys2Proof.Machine.execContextFault c k s
  | .corePartStopped c => Sys2Proof.Machine.execCorePartStopped c s
  | .waitLimit c => Sys2Proof.Machine.execWaitLimit c s
  | .syncOperationArrival k => Sys2Proof.Machine.execSyncOperationArrival k s
  | .syncRelease k => Sys2Proof.Machine.execSyncRelease k s
  | .teardownNotice k => Sys2Proof.Machine.execTeardownNotice k s
  | .syncCfgChange req ch k v => Sys2Proof.Machine.execSyncCfgChange req ch k v s
  | .syncValueWrite req ch k v => Sys2Proof.Machine.execSyncValueWrite req ch k v s
  | .messageArrival k => Sys2Proof.Machine.execMessageArrival k s
  | .deliveryReport k => Sys2Proof.Machine.execDeliveryReport k s
  | .crChildArrival k => Sys2Proof.Machine.execCrChildArrival k s
  | .rootDelivery k => Sys2Proof.Machine.execRootDelivery k s
  | .attnAppend k => Sys2Proof.Machine.execAttnAppend k s
  | .attnFwd k => Sys2Proof.Machine.execAttnFwd k s
  | .attnBwd k => Sys2Proof.Machine.execAttnBwd k s
  | .attnCommandStart k => Sys2Proof.Machine.execAttnCommandStart k s
  | .attnCompletion k => Sys2Proof.Machine.execAttnCompletion k s
  | .windowWrite req c k v => Sys2Proof.Machine.execWindowWrite req c k v s
  | .zeroingEnd c k => Sys2Proof.Machine.execZeroingEnd c k s
  | .eccWriteBack c => Sys2Proof.Machine.execEccWriteBack c s
  | .doorbellSqTail f off width v => Sys2Proof.Machine.execDoorbellSqTail f off width v s
  | .doorbellCqHead f off width v => Sys2Proof.Machine.execDoorbellCqHead f off width v s
  | .doorbellArm f off width v => Sys2Proof.Machine.execDoorbellArm f off width v s
  | .descriptorFetch f q => Sys2Proof.Machine.execDescriptorFetch f q s
  | .descriptorDispatch f q => Sys2Proof.Machine.execDescriptorDispatch f q s
  | .nop id => Sys2Proof.Machine.execNop id s
  | .loadProgram id => Sys2Proof.Machine.execLoadProgram id s
  | .loadTensor id => Sys2Proof.Machine.execLoadTensor id s
  | .storeTensor id => Sys2Proof.Machine.execStoreTensor id s
  | .runStep id => Sys2Proof.Machine.execRunStep id s
  | .syncSignal id => Sys2Proof.Machine.execSyncSignal id s
  | .syncWait id => Sys2Proof.Machine.execSyncWait id s
  | .syncWaitTimeout id => Sys2Proof.Machine.execSyncWaitTimeout id s
  | .pageAlloc id => Sys2Proof.Machine.execPageAlloc id s
  | .pageFree id => Sys2Proof.Machine.execPageFree id s
  | .pageTableWrite id => Sys2Proof.Machine.execPageTableWrite id s
  | .spill id => Sys2Proof.Machine.execSpill id s
  | .restore id => Sys2Proof.Machine.execRestore id s
  | .digestRead id => Sys2Proof.Machine.execDigestRead id s
  | .attest id => Sys2Proof.Machine.execAttest id s
  | .frog id => Sys2Proof.Machine.execFrog id s
  | .ingestCtlResume id => Sys2Proof.Machine.execIngestCtlResume id s
  | .ingestCtlReset id => Sys2Proof.Machine.execIngestCtlReset id s
  | .ingestCtlStatus id => Sys2Proof.Machine.execIngestCtlStatus id s
  | .descriptorCompletion id => Sys2Proof.Machine.execDescriptorCompletion id s
  | .qpEnable f q v => Sys2Proof.Machine.execQpEnable f q v s
  | .qpDrain f q => Sys2Proof.Machine.execQpDrain f q s
  | .qpForcedDisable f q => Sys2Proof.Machine.execQpForcedDisable f q s
  | .qpDrainEnd f q => Sys2Proof.Machine.execQpDrainEnd f q s
  | .qpError f q wrote => Sys2Proof.Machine.execQpError f q wrote s
  | .elogEnable f v => Sys2Proof.Machine.execElogEnable f v s
  | .numvfsWrite n => Sys2Proof.Machine.execNumvfsWrite n s
  | .pfFlr => Sys2Proof.Machine.execPfFlr s
  | .vfFlr f => Sys2Proof.Machine.execVfFlr f s
  | .perstNFall => Sys2Proof.Machine.execPerstNFall s
  | .pcieHotReset => Sys2Proof.Machine.execPcieHotReset s
  | .fabrst req => Sys2Proof.Machine.execFabrst req s
  | .fabricReady => Sys2Proof.Machine.execFabricReady s
  | .mgRead op comp addr n => Sys2Proof.Machine.execMgRead op comp addr n s
  | .mgWrite op comp addr data => Sys2Proof.Machine.execMgWrite op comp addr data s
  | .registerWrite req a n v => Sys2Proof.Machine.execRegisterWrite req a n v s
  | .readToClear req a n => Sys2Proof.Machine.execReadToClear req a n s
  | .pairLowRead req a => Sys2Proof.Machine.execPairLowRead req a s
  | .stepStart p => Sys2Proof.Machine.execStepStart p s
  | .stepCommit p C S => Sys2Proof.Machine.execStepCommit p C S s
  | .withdrawalEnd p C S => Sys2Proof.Machine.execWithdrawalEnd p C S s
  | .contextTeardownEnd p x => Sys2Proof.Machine.execContextTeardownEnd p x s
  | .teardownTimeout p x => Sys2Proof.Machine.execTeardownTimeout p x s
  | .partitionResetEnd p => Sys2Proof.Machine.execPartitionResetEnd p s
  | .channelEnable n => Sys2Proof.Machine.execChannelEnable n s
  | .channelDrain n => Sys2Proof.Machine.execChannelDrain n s
  | .channelForcedDisable n => Sys2Proof.Machine.execChannelForcedDisable n s
  | .channelDrainEnd n => Sys2Proof.Machine.execChannelDrainEnd n s
  | .repairGo req n x => Sys2Proof.Machine.execRepairGo req n x s
  | .repairDrop req n x => Sys2Proof.Machine.execRepairDrop req n x s
  | .coreFailure ch row col cause => Sys2Proof.Machine.execCoreFailure ch row col cause s
  | .nocTimeout ch row col => Sys2Proof.Machine.execNocTimeout ch row col s
  | .migrationEnd k => Sys2Proof.Machine.execMigrationEnd k s
  | .linePacket port fr => Sys2Proof.Machine.execLinePacket port fr s
  | .avtpPacket port fr => Sys2Proof.Machine.execAvtpPacket port fr s
  | .frameTimeout t => Sys2Proof.Machine.execFrameTimeout t s
  | .frameAdmission t => Sys2Proof.Machine.execFrameAdmission t s
  | .sampleStart t u => Sys2Proof.Machine.execSampleStart t u s
  | .sampleEnd t id => Sys2Proof.Machine.execSampleEnd t id s
  | .overtime t id => Sys2Proof.Machine.execOvertime t id s
  | .sampleDelivery t => Sys2Proof.Machine.execSampleDelivery t s
  | .streamEnable req t v => Sys2Proof.Machine.execStreamEnable req t v s
  | .streamDrain req t => Sys2Proof.Machine.execStreamDrain req t s
  | .streamForcedDisable req t => Sys2Proof.Machine.execStreamForcedDisable req t s
  | .swatchTurn t u => Sys2Proof.Machine.execSwatchTurn t u s
  | .swatchEnd t late => Sys2Proof.Machine.execSwatchEnd t late s
  | .swdataAccess req wr_ => Sys2Proof.Machine.execSwdataAccess req wr_ s
  | .leEnable req => Sys2Proof.Machine.execLeEnable req s
  | .leDisable req => Sys2Proof.Machine.execLeDisable req s
  | .pcommit req => Sys2Proof.Machine.execPcommit req s
  | .baseTick => Sys2Proof.Machine.execBaseTick s
  | .loopStart l => Sys2Proof.Machine.execLoopStart l s
  | .loopCommit l mismatch => Sys2Proof.Machine.execLoopCommit l mismatch s
  | .groupEnable req g v => Sys2Proof.Machine.execGroupEnable req g v s
  | .groupCheckEnd g => Sys2Proof.Machine.execGroupCheckEnd g s
  | .groupDrain req g => Sys2Proof.Machine.execGroupDrain req g s
  | .groupForcedDisable req g => Sys2Proof.Machine.execGroupForcedDisable req g s
  | .leRestore req j => Sys2Proof.Machine.execLeRestore req j s
  | .leMemdataAccess req w => Sys2Proof.Machine.execLeMemdataAccess req w s
  | .mailboxMessage k => Sys2Proof.Machine.execMailboxMessage k s
  | .mailboxStale m => Sys2Proof.Machine.execMailboxStale m s
  | .controlFrame port fr => Sys2Proof.Machine.execControlFrame port fr s
  | .traceArm req v => Sys2Proof.Machine.execTraceArm req v s
  | .fire req => Sys2Proof.Machine.execFire req s
  | .traceStop => Sys2Proof.Machine.execTraceStop s
  | .recorderBlock skip => Sys2Proof.Machine.execRecorderBlock skip s
  | .gateInterval p => Sys2Proof.Machine.execGateInterval p s
  | .swap req p => Sys2Proof.Machine.execSwap req p s
  | .swapApply p => Sys2Proof.Machine.execSwapApply p s
  | .preemptVerify p => Sys2Proof.Machine.execPreemptVerify p s
  | .tbStep req n v => Sys2Proof.Machine.execTbStep req n v s
  | .tbEnable req n v => Sys2Proof.Machine.execTbEnable req n v s
  | .cap req => Sys2Proof.Machine.execCap req s
  | .ppsIn => Sys2Proof.Machine.execPpsIn s
  | .ppsOut => Sys2Proof.Machine.execPpsOut s
  | .ppsOutFall => Sys2Proof.Machine.execPpsOutFall s
  | .ptpSync m => Sys2Proof.Machine.execPtpSync m s
  | .followUp m => Sys2Proof.Machine.execFollowUp m s
  | .delayReq n => Sys2Proof.Machine.execDelayReq n s
  | .delayResp m => Sys2Proof.Machine.execDelayResp m s
  | .pdelayReq n rx => Sys2Proof.Machine.execPdelayReq n rx s
  | .pdelayResp followUp m => Sys2Proof.Machine.execPdelayResp followUp m s
  | .holdover n => Sys2Proof.Machine.execHoldover n s
  | .sel req b => Sys2Proof.Machine.execSel req b s
  | .timeRequest n => Sys2Proof.Machine.execTimeRequest n s
  | .timeFlit l corr unc fl => Sys2Proof.Machine.execTimeFlit l corr unc fl s
  | .linkEnable req l => Sys2Proof.Machine.execLinkEnable req l s
  | .linkDrain req l => Sys2Proof.Machine.execLinkDrain req l s
  | .linkForcedDisable req l => Sys2Proof.Machine.execLinkForcedDisable req l s
  | .linkDrainEnd l => Sys2Proof.Machine.execLinkDrainEnd l s
  | .trainingEnd l clu chip link pools => Sys2Proof.Machine.execTrainingEnd l clu chip link pools s
  | .trainingRetry l => Sys2Proof.Machine.execTrainingRetry l s
  | .linkDown l => Sys2Proof.Machine.execLinkDown l s
  | .routeEvaluation => Sys2Proof.Machine.execRouteEvaluation s
  | .dataFlit l corr unc fl w => Sys2Proof.Machine.execDataFlit l corr unc fl w s
  | .ctrlFlit l corr unc fl recs => Sys2Proof.Machine.execCtrlFlit l corr unc fl recs s
  | .idleFlit l corr unc fl => Sys2Proof.Machine.execIdleFlit l corr unc fl s
  | .nak l ackseq => Sys2Proof.Machine.execNak l ackseq s
  | .creditRequest k => Sys2Proof.Machine.execCreditRequest k s
  | .creditGrant k => Sys2Proof.Machine.execCreditGrant k s
  | .ddForce req v => Sys2Proof.Machine.execDdForce req v s
  | .silentTest k => Sys2Proof.Machine.execSilentTest k s
  | .tripIn k n => Sys2Proof.Machine.execTripIn k n s
  | .grant req k b => Sys2Proof.Machine.execGrant req k b s
  | .tripPathFault kind k => Sys2Proof.Machine.execTripPathFault kind k s
  | .clockFail bad => Sys2Proof.Machine.execClockFail bad s
  | .lock req => Sys2Proof.Machine.execLock req s
  | .fabricSlice ch => Sys2Proof.Machine.execFabricSlice ch s
  | .fabricSliceEnd ch bad => Sys2Proof.Machine.execFabricSliceEnd ch bad s
  | .islandSlice l => Sys2Proof.Machine.execIslandSlice l s
  | .islandSliceEnd l fail => Sys2Proof.Machine.execIslandSliceEnd l fail s
  | .testInterval => Sys2Proof.Machine.execTestInterval s
  | .bistgo req ch => Sys2Proof.Machine.execBistgo req ch s
  | .bistEnd bad => Sys2Proof.Machine.execBistEnd bad s
  | .gaugeMeasurement ch => Sys2Proof.Machine.execGaugeMeasurement ch s
  | .gaugeMeasurementEnd n slack sram => Sys2Proof.Machine.execGaugeMeasurementEnd n slack sram s
  | .now req => Sys2Proof.Machine.execNow req s
  | .pmbusTransactionEnd n good => Sys2Proof.Machine.execPmbusTransactionEnd n good s
  | .supplyWarning r => Sys2Proof.Machine.execSupplyWarning r s
  | .supplyRecovery r => Sys2Proof.Machine.execSupplyRecovery r s
  | .railReset r => Sys2Proof.Machine.execRailReset r s
  | .fastDroop ch present => Sys2Proof.Machine.execFastDroop ch present s
  | .thermalSample n temp => Sys2Proof.Machine.execThermalSample n temp s
  | .porstN low clu chip => Sys2Proof.Machine.execPorstN low clu chip s
  | .brownOut low clu chip => Sys2Proof.Machine.execBrownOut low clu chip s
  | .pllLock => Sys2Proof.Machine.execPllLock s
  | .clockReset => Sys2Proof.Machine.execClockReset s
  | .castOnSelfTestEnd bad => Sys2Proof.Machine.execCastOnSelfTestEnd bad s
  | .islrst req => Sys2Proof.Machine.execIslrst req s
  | .islandUp => Sys2Proof.Machine.execIslandUp s
  | .pwrGate req d => Sys2Proof.Machine.execPwrGate req d s
  | .pwrUngate req d => Sys2Proof.Machine.execPwrUngate req d s
  | .pwrUp d => Sys2Proof.Machine.execPwrUp d s
  | .certgo req => Sys2Proof.Machine.execCertgo req s
  | .rootReconstructionEnd => Sys2Proof.Machine.execRootReconstructionEnd s
  | .storeBinding good => Sys2Proof.Machine.execStoreBinding good s
  | .hwmAcknowledgement good => Sys2Proof.Machine.execHwmAcknowledgement good s
  | .kinst req good => Sys2Proof.Machine.execKinst req good s
  | .krot req good => Sys2Proof.Machine.execKrot req good s
  | .recorderRead req r k => Sys2Proof.Machine.execRecorderRead req r k s
  | .recorderReadEnd => Sys2Proof.Machine.execRecorderReadEnd s
  | .regionOverwriteEnd r => Sys2Proof.Machine.execRegionOverwriteEnd r s
  | .traceRingEnable req f smp v => Sys2Proof.Machine.execTraceRingEnable req f smp v s
  | .flush k => Sys2Proof.Machine.execFlush k s
  | .sampleInterval f coincide => Sys2Proof.Machine.execSampleInterval f coincide s
  | .counterValueWrite req a v => Sys2Proof.Machine.execCounterValueWrite req a v s
  | .jtagInstruction instr trst cells => Sys2Proof.Machine.execJtagInstruction instr trst cells s
  | .perstNRise => Sys2Proof.Machine.execPerstNRise s
  | .peerLinkLoss l => Sys2Proof.Machine.execPeerLinkLoss l s

end Sys2Proof.Machine
end

