-- ==== Sys2Proof/Machine/Step.lean ====
section
/-! DEFINITION. Sys2Proof/Machine/Step.lean: one step of the device: the command at the front of the queue, or one CK_S cycle
when none waits. -/

namespace Sys2Proof.Machine

/-- A state with its front command taken. -/
def State.rest (s : State) (q : List Instr) : State := { s with pending := q }

/-- One step. On an empty queue the clock advances by one CK_S cycle. [DESIGN CHOICE: log 1, 2, 3; DEDUCED: log 103] -/
def step (s : State) : Host.Outcome State Fault Refusal :=
  match s.pending with
  | [] => .next s.tick
  | c :: q => exec c (s.rest q)

/-- A command in front of the queue. -/
def State.push (s : State) (c : Instr) : State := { s with pending := c :: s.pending }

/-- The state with the command that a table word spells in front of its queue; the table gives no bits, so no word spells one. [DESIGN CHOICE: log 1] -/
def State.withFetchWord (s : State) (nbits w : Nat) : State :=
  match Sys2Proof.decodeTableWord nbits w with
  | some c => s.push c
  | none => s

end Sys2Proof.Machine
end

