-- ==== Sys2Proof/Safety.lean ====
section
/-! DEFINITION. Sys2Proof/Safety.lean: the terms in which claims about the device are made: canonical memories, permits that
nothing forbids, a core that issues a word, what an instruction leaves alone. -/

namespace Sys2Proof.Machine

/-- Every memory of the device is in its canonical form. -/
def State.memOk (s : State) : Bool := s.scratch.wf && s.tableMem.wf && s.host.mem.wf && s.ing.swMem.wf && s.sec.psram.wf && s.sec.kbuf.wf

/-- R420: no granted permit is one that a cause forbids. -/
def State.permitsOk (s : State) : Prop :=
  ∀ k, k < 8 → s.bit (R.PERMIT_CTRL k) F.PERMIT_CTRL_GRANT = true → s.permitCause k = none

/-- R420, R510: no granted permit is one that a cause forbids, and no permit is granted while the island is in reset. -/
def State.permitsInv (s : State) : Prop :=
  s.permitsOk ∧ (s.pwr.isl = true → ∀ k, k < 8 → s.bit (R.PERMIT_CTRL k) F.PERMIT_CTRL_GRANT = false)

/-- R54, R64: core `c` runs, nothing stalls it, and `w` is the buffered word at its pc. -/
def State.Fetches (s : State) (c : Nat) (w : Word) : Prop := s.canIssue c = true ∧ s.fetched c (s.active c) = some w

/-- The bank of the running context of a core. -/
def State.bank (s : State) (c : Nat) : Slot := s.slot c (s.active c)

/-- The state in which an instruction that core `c` issues takes effect: the next words are in its buffer, the ISSUE event is
counted (R64, R493). -/
def State.issued (s : State) (c : Nat) : State :=
  (s.prefetch c (s.active c)).count (some c) (chanOf c) (s.slot c (s.active c)).owner 0x02 1

/-- R54, R59, R69, R94: core `c` executes the word `w`: it is no ILLEGAL word, it does not end a body as R69 forbids, and its guard
reads 1. -/
structure State.Executes (s : State) (c : Nat) (w : Word) : Prop where
  fetches : s.Fetches c w
  legal : illegalWord w = false
  place : notLast w = true → ∀ l ∈ (s.bank c).loops, l.last ≠ (s.bank c).pc
  guard : (s.bank c).p (guardOf w) = true

/-- The registers that a read of a marked word moves (R143, R148). -/
def eccRegs (c : Nat) : List Nat :=
  [R.CORE_ECC_STAT (chanOf c) (posOf c), R.CORE_FENCE_CNT (chanOf c) (posOf c), R.CORE_ECC_LAST (chanOf c) (posOf c)]

/-- The parts of the device outside cores, scratchpads and registers are as before; counters, trace, the draws of free values
and the model's list of changed words are not spoken of. -/
structure State.SameUncore (s t : State) : Prop where
  tableMem : t.tableMem = s.tableMem
  noc : t.noc = s.noc
  parts : t.parts = s.parts
  migr : t.migr = s.migr
  host : t.host = s.host
  tests : t.tests = s.tests
  sec : t.sec = s.sec
  ing : t.ing = s.ing
  eng : t.eng = s.eng
  time : t.time = s.time
  safe : t.safe = s.safe
  gauge : t.gauge = s.gauge
  pwr : t.pwr = s.pwr
  jtag : t.jtag = s.jtag
  hold : t.hold = s.hold
  lastRead : t.lastRead = s.lastRead
  now : t.now = s.now
  pending : t.pending = s.pending

/-- The units of two cores are in the same state: operations in flight, their places in the
issue order, array, accumulators, CWU, windows still to be zeroed, held window values. -/
structure CoreSt.SameUnits (x y : CoreSt) : Prop where
  wait : y.wait = x.wait
  stopped : y.stopped = x.stopped
  ops : y.ops = x.ops
  seen : y.seen = x.seen
  issues : y.issues = x.issues
  posted : y.posted = x.posted
  act : y.act = x.act
  shadow : y.shadow = x.shadow
  acc0 : y.acc0 = x.acc0
  acc1 : y.acc1 = x.acc1
  cwd : y.cwd = x.cwd
  cursor : y.cq = x.cq ∧ y.cn = x.cn ∧ y.cp = x.cp
  lbufs : y.lbufs = x.lbufs
  toZero : y.toZero = x.toZero
  held : y.held = x.held

/-- What an instruction of core `c` leaves alone whatever it does to the bank of its slot `k`: every register but the ECC ones of
its core, every other bank, every unit, everything outside the cores. The instruction buffer, the queue of corrected words,
counters and trace may move (R64, R144). -/
structure State.CoreFrame (c k : Nat) (s t : State) : Prop where
  uncore : s.SameUncore t
  regs : ∀ a, a ∉ eccRegs c → t.rd a = s.rd a
  slots : ∀ d j, ¬(d = c ∧ j = k) → t.slot d j = s.slot d j
  units : ∀ d, (s.core d).SameUnits (t.core d)

/-- No byte of a scratchpad changes, and no error mark. -/
def State.SameScratch (s t : State) : Prop := (∀ a, t.scratch.byte a = s.scratch.byte a) ∧ t.ue = s.ue ∧ t.ce = s.ce

/-- R81-R84: the first fault of the running context of core `c` is recorded: its class, the pc of the instruction, the data address;
precise and with no token, as of an instruction that is not executed; the time is TB2's (R287); issue stops. -/
structure State.FaultsPrecisely (c cls faddr : Nat) (s t : State) : Prop where
  valid : t.bit (R.CORE_CTX_FAULT (chanOf c) (posOf c) (s.active c)) F.CORE_CTX_FAULT_VALID = true
  cls : t.fld (R.CORE_CTX_FAULT (chanOf c) (posOf c) (s.active c)) F.CORE_CTX_FAULT_CLASS = cls
  precise : t.bit (R.CORE_CTX_FAULT (chanOf c) (posOf c) (s.active c)) F.CORE_CTX_FAULT_PRECISE = true
  token : t.bit (R.CORE_CTX_FAULT (chanOf c) (posOf c) (s.active c)) F.CORE_CTX_FAULT_TOKEN_VALID = false
  fpc : t.fld (R.CORE_CTX_FPC (chanOf c) (posOf c) (s.active c)) F.CORE_CTX_FPC_FPC = bitsOf (s.bank c).pc 21 2
  faddr : (t.rd (R.CORE_CTX_FADDR (chanOf c) (posOf c) (s.active c))).toNat = faddr
  stopped : (t.core c).stopped = true
  bank : t.slot c (s.active c) = { s.bank c with faultAt := s.tb2, rank := some ⟨s.now, some (s.core c).issues⟩ }

/-- No fault of the running context of core `c` is recorded. -/
def State.Clean (c : Nat) (s : State) : Prop :=
  s.bit (R.CORE_CTX_FAULT (chanOf c) (posOf c) (s.active c)) F.CORE_CTX_FAULT_VALID = false

/-- The registers of a bank but for one scalar, one address and one predicate register. -/
structure Slot.Keeps (sr ar pr : Option Nat) (b b' : Slot) : Prop where
  s : ∀ i, some i ≠ sr → b'.s i = b.s i
  a : ∀ i, some i ≠ ar → b'.a i = b.a i
  p : ∀ i, some i ≠ pr → b'.p i = b.p i
  pend : b'.pend = b.pend
  owner : b'.owner = b.owner
  refusal : b'.refusal = b.refusal

/-- R68: the sequencer has moved on from the instruction at the pc, by the armed loops of the bank. -/
def Slot.MovedOn (b b' : Slot) : Prop := b'.pc = (loopNext b.pc b.loops).1 ∧ b'.loops = (loopNext b.pc b.loops).2

/-! ### Which pieces of the state a command leaves alone -/

/-- The pieces of the state. -/
inductive Piece where
  | regs | hold | lastRead | scratch | ue | ce | tableMem | cores | words | noc | parts | migr | host | tests
  | sec | trc | ing | eng | time | safe | gauge | pwr | jtag | now | fresh | pending
  deriving DecidableEq, Repr

/-- Every piece of the state but those listed is as before. -/
structure State.SameBut (l : List Piece) (s t : State) : Prop where
  regs : .regs ∈ l ∨ t.regs = s.regs
  hold : .hold ∈ l ∨ t.hold = s.hold
  lastRead : .lastRead ∈ l ∨ t.lastRead = s.lastRead
  scratch : .scratch ∈ l ∨ t.scratch = s.scratch
  ue : .ue ∈ l ∨ t.ue = s.ue
  ce : .ce ∈ l ∨ t.ce = s.ce
  tableMem : .tableMem ∈ l ∨ t.tableMem = s.tableMem
  cores : .cores ∈ l ∨ t.cores = s.cores
  words : .words ∈ l ∨ t.words = s.words
  noc : .noc ∈ l ∨ t.noc = s.noc
  parts : .parts ∈ l ∨ t.parts = s.parts
  migr : .migr ∈ l ∨ t.migr = s.migr
  host : .host ∈ l ∨ t.host = s.host
  tests : .tests ∈ l ∨ t.tests = s.tests
  sec : .sec ∈ l ∨ t.sec = s.sec
  trc : .trc ∈ l ∨ t.trc = s.trc
  ing : .ing ∈ l ∨ t.ing = s.ing
  eng : .eng ∈ l ∨ t.eng = s.eng
  time : .time ∈ l ∨ t.time = s.time
  safe : .safe ∈ l ∨ t.safe = s.safe
  gauge : .gauge ∈ l ∨ t.gauge = s.gauge
  pwr : .pwr ∈ l ∨ t.pwr = s.pwr
  jtag : .jtag ∈ l ∨ t.jtag = s.jtag
  now : .now ∈ l ∨ t.now = s.now
  fresh : .fresh ∈ l ∨ t.fresh = s.fresh
  pending : .pending ∈ l ∨ t.pending = s.pending

/-- Every register but those listed reads as before. -/
def State.SameRegs (l : List Nat) (s t : State) : Prop := ∀ a, a ∉ l → t.rd a = s.rd a

/-- Every byte of the scratchpads outside the listed ranges (first key, count of bytes) is as before. -/
def State.SameBytes (l : List (Nat × Nat)) (s t : State) : Prop :=
  ∀ a, (∀ r ∈ l, a < r.1 ∨ r.1 + r.2 ≤ a) → t.scratch.byte a = s.scratch.byte a

end Sys2Proof.Machine
end

