-- ==== Sys2Proof/WellFormed.lean ====
section
/-! DEFINITION. Sys2Proof/WellFormed.lean: which commands can be sent: every operand that singles out a piece of the device is in
the range the spec gives it. The fields of an instruction word are as wide as their format; words that R94 calls ILLEGAL are
commands too (they fault). -/

namespace Sys2Proof

/-- R7, R266: a requester of register accesses: 0 the PF, 1-4 the VFs, 5 the management port. [PRESUMED: log 9] -/
def isReq (x : Nat) : Bool := decide (x < 6)

/-- R13: a logical core of the chip: channel * 256 + position. -/
def isCore (x : Nat) : Bool := decide (x < 1024)

/-- R13: a channel. -/
def isChan (x : Nat) : Bool := decide (x < 4)

/-- R56: a token. -/
def isTok (x : Nat) : Bool := decide (x < 16)

/-- R60: a context slot. -/
def isSlot (x : Nat) : Bool := decide (x < 4)

/-- R242: a sync object of a channel. -/
def isObj (x : Nat) : Bool := decide (x < 16384)

/-- R264: a function: 0 the PF, n the VF n. -/
def isFn (x : Nat) : Bool := decide (x < 5)

/-- R267: a queue pair. -/
def isPair (x : Nat) : Bool := decide (x < 64)

/-- R6, R274: the bytes of an access. -/
def isWidth (x : Nat) : Bool := x == 1 || x == 2 || x == 4 || x == 8

/-- R274: an offset in BAR2. -/
def isDoorbell (x : Nat) : Bool := decide (x < 0x1000)

/-- R264: NumVFs. -/
def isVfCount (x : Nat) : Bool := decide (x ≤ 4)

/-- R266: an offset in BAR0. -/
def isOffset (x : Nat) : Bool := decide (x < 2 ^ 26)

/-- R529: the words of a READ transaction: BAR0 holds no more. -/
def isMgWords (x : Nat) : Bool := decide (x ≤ 2 ^ 24)

/-- R529: the data of a WRITE transaction. -/
def isMgData (x : List Byte) : Bool := decide (x.length ≤ 2 ^ 26)

/-- R292: a partition. -/
def isPart (x : Nat) : Bool := decide (x < 4)

/-- R296: a context of a partition. -/
def isCtx (x : Nat) : Bool := decide (x < 8)

/-- R13: a row of cores. -/
def isRow (x : Nat) : Bool := decide (x < 16)

/-- R436: a physical column, the spare one included. -/
def isCol (x : Nat) : Bool := decide (x < 17)

/-- R436: a cause of a fence. -/
def isCause (x : Nat) : Bool := decide (1 ≤ x) && decide (x ≤ 5)

/-- R323: a logical port. -/
def isPort (x : Nat) : Bool := decide (x < 8)

/-- R402: a control port. -/
def isCp (x : Nat) : Bool := decide (x < 2)

/-- R324: a stream. -/
def isStream (x : Nat) : Bool := decide (x < 64)

/-- R330: an ingest unit: decoders 0-7, pre-processing units 8-11. -/
def isUnit (x : Nat) : Bool := decide (x < 12)

/-- R350: a lane of the loop engine. -/
def isLane (x : Nat) : Bool := decide (x < 16)

/-- R361: a loop group. -/
def isGroup (x : Nat) : Bool := decide (x < 64)

/-- R350: a loop. -/
def isLoop (x : Nat) : Bool := decide (x < 1024)

/-- R371: a mailbox. -/
def isMailbox (x : Nat) : Bool := decide (x < 256)

/-- R386: a time base with an engine, TB0 or TB1. -/
def isBase (x : Nat) : Bool := decide (x < 2)

/-- R390: a PTP message. -/
def isPtp (x : PtpMsg) : Bool := isCp x.port && decide (x.transport < 3) && decide (x.nanos < 1000000000)

/-- R391: the request received, if any. -/
def isPtpOpt (x : Option PtpMsg) : Bool := x.all isPtp

/-- R251: a Kornal link. -/
def isLink (x : Nat) : Bool := decide (x < 16)

/-- R252: a flit. -/
def isFlit (x : List Byte) : Bool := x.length == 256

/-- R257: a cluster. -/
def isCluster (x : Nat) : Bool := decide (x < 17)

/-- R526: the levels of the five cluster straps. -/
def isStrap (x : Nat) : Bool := decide (x < 32)

/-- R257: a chip of a cluster. -/
def isChip (x : Nat) : Bool := decide (x < 16)

/-- R418: a comparator. -/
def isComparator (x : Nat) : Bool := decide (x < 64)

/-- R419, R420: a permit, or a TRIP_IN pin. -/
def isPermit (x : Nat) : Bool := decide (x < 8)

/-- R422: a kind of trip-path fault. -/
def isPathFault (x : Nat) : Bool := decide (x < 3)

/-- R426: rows of a column. -/
def areRows (x : List Nat) : Bool := x.all isRow

/-- R429: rows and physical columns. -/
def arePlaces (x : List (Nat × Nat)) : Bool := x.all (fun q => isRow q.1 && isCol q.2)

/-- R447: channels, rows and physical columns. -/
def areCores (x : List (Nat × Nat × Nat)) : Bool := x.all (fun q => isChan q.1 && isRow q.2.1 && isCol q.2.2)

/-- R449: a channel, or none for the interval measurement of all. -/
def isChanOpt (x : Option Nat) : Bool := x.all isChan

/-- R454: a monitored rail: VDD_CH0-3, VDD_ISL. -/
def isRail (x : Nat) : Bool := decide (x < 5)

/-- R456: a temperature sensor. -/
def isSensor (x : Nat) : Bool := decide (x < 5)

/-- R504: a power domain. -/
def isDomain (x : Nat) : Bool := decide (x < 50)

/-- R480: the REGION field. -/
def isRegion (x : Nat) : Bool := decide (x < 8)

/-- R480: the BLOCK field. -/
def isBlock (x : Nat) : Bool := decide (x < 2 ^ 14)

/-- R490: a ring that writes blocks. -/
def isRing (x : Nat) : Bool := decide (x < 16)

/-- R527: a JTAG instruction. -/
def isTap (x : Nat) : Bool := decide (x < 6)

/-- R519, R527: boundary cells by ball. -/
def areBalls (x : List (Nat × Bool)) : Bool := x.all (fun q => decide (q.1 < 10000))

/-- A command whose operands are in range. [DESIGN CHOICE: log 14] -/
def Instr.wf : Instr → Bool
  | .scAlu c _ => isCore c
  | .scAddi c _ => isCore c
  | .scAndi c _ => isCore c
  | .scOri c _ => isCore c
  | .scXori c _ => isCore c
  | .scShi c _ => isCore c
  | .scLdi c _ => isCore c
  | .scLui c _ => isCore c
  | .scCmp c _ => isCore c
  | .scCmpi c _ => isCore c
  | .scPlog c _ => isCore c
  | .scLd c _ => isCore c
  | .scLdu c _ => isCore c
  | .scSt c _ => isCore c
  | .scAddr c _ => isCore c
  | .scAaddi c _ => isCore c
  | .brJmp c _ => isCore c
  | .brCall c _ => isCore c
  | .brJr c _ => isCore c
  | .sqLoop c _ => isCore c
  | .sqEnd c _ => isCore c
  | .sqIfence c _ => isCore c
  | .sqNop c _ => isCore c
  | .twait c _ => isCore c
  | .twaitReturn c => isCore c
  | .syWait c _ => isCore c
  | .mxWload c _ => isCore c
  | .mxTile c _ => isCore c
  | .mxFin c _ => isCore c
  | .cwCfg c _ => isCore c
  | .cwWindow c _ => isCore c
  | .vxArith c _ => isCore c
  | .vxMinmax c _ => isCore c
  | .vxFn c _ => isCore c
  | .vxCvt c _ => isCore c
  | .vxMxq c _ => isCore c
  | .vxRed c _ => isCore c
  | .vxRand c _ => isCore c
  | .vxSample c _ => isCore c
  | .msgMove c _ => isCore c
  | .msgSend c _ => isCore c
  | .sySignal c _ => isCore c
  | .crPush c _ => isCore c
  | .dgLeaf c _ => isCore c
  | .dgResult c _ => isCore c
  | .illegalEncoding c => isCore c
  | .tokenCompletion c tok => isCore c && isTok tok
  | .fetchMiss c => isCore c
  | .contextFault c k => isCore c && isSlot k
  | .corePartStopped c => isCore c
  | .waitLimit c => isCore c
  | .syncOperationArrival _ => true
  | .syncRelease _ => true
  | .teardownNotice _ => true
  | .syncCfgChange req ch i _ => isReq req && isChan ch && isObj i
  | .syncValueWrite req ch i _ => isReq req && isChan ch && isObj i
  | .messageArrival _ => true
  | .deliveryReport _ => true
  | .crChildArrival _ => true
  | .rootDelivery _ => true
  | .attnAppend _ => true
  | .attnFwd _ => true
  | .attnBwd _ => true
  | .attnCommandStart _ => true
  | .attnCompletion _ => true
  | .windowWrite req c k _ => isReq req && isCore c && isSlot k
  | .zeroingEnd c k => isCore c && isSlot k
  | .eccWriteBack c => isCore c
  | .doorbellSqTail f off width _ => isFn f && isDoorbell off && isWidth width
  | .doorbellCqHead f off width _ => isFn f && isDoorbell off && isWidth width
  | .doorbellArm f off width _ => isFn f && isDoorbell off && isWidth width
  | .descriptorFetch f q => isFn f && isPair q
  | .descriptorDispatch f q => isFn f && isPair q
  | .nop _ => true
  | .loadProgram _ => true
  | .loadTensor _ => true
  | .storeTensor _ => true
  | .runStep _ => true
  | .syncSignal _ => true
  | .syncWait _ => true
  | .syncWaitTimeout _ => true
  | .pageAlloc _ => true
  | .pageFree _ => true
  | .pageTableWrite _ => true
  | .spill _ => true
  | .restore _ => true
  | .digestRead _ => true
  | .attest _ => true
  | .frog _ => true
  | .ingestCtlResume _ => true
  | .ingestCtlReset _ => true
  | .ingestCtlStatus _ => true
  | .descriptorCompletion _ => true
  | .qpEnable f q _ => isFn f && isPair q
  | .qpDrain f q => isFn f && isPair q
  | .qpForcedDisable f q => isFn f && isPair q
  | .qpDrainEnd f q => isFn f && isPair q
  | .qpError f q _ => isFn f && isPair q
  | .elogEnable f _ => isFn f
  | .numvfsWrite n => isVfCount n
  | .pfFlr => true
  | .vfFlr f => isFn f
  | .perstNFall => true
  | .pcieHotReset => true
  | .fabrst req => isReq req
  | .fabricReady => true
  | .mgRead _ _ _ n => isMgWords n
  | .mgWrite _ _ _ data => isMgData data
  | .registerWrite req a n _ => isReq req && isOffset a && isWidth n
  | .readToClear req a n => isReq req && isOffset a && isWidth n
  | .pairLowRead req a => isReq req && isOffset a
  | .stepStart p => isPart p
  | .stepCommit p _ _ => isPart p
  | .withdrawalEnd p _ _ => isPart p
  | .contextTeardownEnd p x => isPart p && isCtx x
  | .teardownTimeout p x => isPart p && isCtx x
  | .partitionResetEnd p => isPart p
  | .channelEnable n => isChan n
  | .channelDrain n => isChan n
  | .channelForcedDisable n => isChan n
  | .channelDrainEnd n => isChan n
  | .repairGo req n x => isReq req && isChan n && isCtx x
  | .repairDrop req n x => isReq req && isChan n && isCtx x
  | .coreFailure ch row col cause => isChan ch && isRow row && isCol col && isCause cause
  | .nocTimeout ch row col => isChan ch && isRow row && isCol col
  | .migrationEnd _ => true
  | .linePacket port _ => isPort port
  | .avtpPacket port _ => isPort port
  | .frameTimeout t => isStream t
  | .frameAdmission t => isStream t
  | .sampleStart t u => isStream t && isUnit u
  | .sampleEnd t _ => isStream t
  | .overtime t _ => isStream t
  | .sampleDelivery t => isStream t
  | .streamEnable req t _ => isReq req && isStream t
  | .streamDrain req t => isReq req && isStream t
  | .streamForcedDisable req t => isReq req && isStream t
  | .swatchTurn t u => isStream t && isUnit u
  | .swatchEnd t _ => isStream t
  | .swdataAccess req _ => isReq req
  | .leEnable req => isReq req
  | .leDisable req => isReq req
  | .pcommit req => isReq req
  | .baseTick => true
  | .loopStart l => isLane l
  | .loopCommit l _ => isLane l
  | .groupEnable req g _ => isReq req && isGroup g
  | .groupCheckEnd g => isGroup g
  | .groupDrain req g => isReq req && isGroup g
  | .groupForcedDisable req g => isReq req && isGroup g
  | .leRestore req j => isReq req && isLoop j
  | .leMemdataAccess req _ => isReq req
  | .mailboxMessage _ => true
  | .mailboxStale m => isMailbox m
  | .controlFrame port _ => isCp port
  | .traceArm req _ => isReq req
  | .fire req => isReq req
  | .traceStop => true
  | .recorderBlock _ => true
  | .gateInterval p => isCp p
  | .swap req p => isReq req && isCp p
  | .swapApply p => isCp p
  | .preemptVerify p => isCp p
  | .tbStep req n _ => isReq req && isBase n
  | .tbEnable req n _ => isReq req && isBase n
  | .cap req => isReq req
  | .ppsIn => true
  | .ppsOut => true
  | .ppsOutFall => true
  | .ptpSync m => isPtp m
  | .followUp m => isPtp m
  | .delayReq n => isBase n
  | .delayResp m => isPtp m
  | .pdelayReq n rx => isBase n && isPtpOpt rx
  | .pdelayResp _ m => isPtp m
  | .holdover n => isBase n
  | .sel req b => isReq req && isBase b
  | .timeRequest n => isBase n
  | .timeFlit l _ _ fl => isLink l && isFlit fl
  | .linkEnable req l => isReq req && isLink l
  | .linkDrain req l => isReq req && isLink l
  | .linkForcedDisable req l => isReq req && isLink l
  | .linkDrainEnd l => isLink l
  | .trainingEnd l clu chip link _ => isLink l && isCluster clu && isChip chip && isLink link
  | .trainingRetry l => isLink l
  | .linkDown l => isLink l
  | .routeEvaluation => true
  | .dataFlit l _ _ fl _ => isLink l && isFlit fl
  | .ctrlFlit l _ _ fl _ => isLink l && isFlit fl
  | .idleFlit l _ _ fl => isLink l && isFlit fl
  | .nak l _ => isLink l
  | .creditRequest _ => true
  | .creditGrant _ => true
  | .ddForce req _ => isReq req
  | .silentTest k => isComparator k
  | .tripIn k _ => isPermit k
  | .grant req k _ => isReq req && isPermit k
  | .tripPathFault kind k => isPathFault kind && isComparator k
  | .clockFail _ => true
  | .lock req => isReq req
  | .fabricSlice ch => isChan ch
  | .fabricSliceEnd ch bad => isChan ch && areRows bad
  | .islandSlice l => isLane l
  | .islandSliceEnd l _ => isLane l
  | .testInterval => true
  | .bistgo req ch => isReq req && isChan ch
  | .bistEnd bad => arePlaces bad
  | .gaugeMeasurement ch => isChanOpt ch
  | .gaugeMeasurementEnd n _ _ => isChan n
  | .now req => isReq req
  | .pmbusTransactionEnd n _ => isChan n
  | .supplyWarning r => isRail r
  | .supplyRecovery r => isRail r
  | .railReset r => isRail r
  | .fastDroop ch _ => isChan ch
  | .thermalSample n _ => isSensor n
  | .porstN _ clu chip => isStrap clu && isChip chip
  | .brownOut _ clu chip => isStrap clu && isChip chip
  | .pllLock => true
  | .clockReset => true
  | .castOnSelfTestEnd bad => areCores bad
  | .islrst req => isReq req
  | .islandUp => true
  | .pwrGate req d => isReq req && isDomain d
  | .pwrUngate req d => isReq req && isDomain d
  | .pwrUp d => isDomain d
  | .certgo req => isReq req
  | .rootReconstructionEnd => true
  | .storeBinding _ => true
  | .hwmAcknowledgement _ => true
  | .kinst req _ => isReq req
  | .krot req _ => isReq req
  | .recorderRead req r k => isReq req && isRegion r && isBlock k
  | .recorderReadEnd => true
  | .regionOverwriteEnd r => isRegion r
  | .traceRingEnable req f _ _ => isReq req && isFn f
  | .flush k => isRing k
  | .sampleInterval f _ => isFn f
  | .counterValueWrite req a _ => isReq req && isOffset a
  | .jtagInstruction instr _ cells => isTap instr && areBalls cells
  | .perstNRise => true
  | .peerLinkLoss l => isLink l

end Sys2Proof
end

