-- ==== Sys2Proof/Certificates/Slice0/Obligations.lean ====
section
/-! DEFINITION. Sys2Proof/Certificates/Slice0/Obligations.lean: what is claimed of the device, rule by rule. -/

open Sys2Proof Sys2Proof.Machine

/-! ### The queue, reset, instruction words -/

/-- The command at the front of the queue is executed on the state with the rest of the queue; with none waiting the device takes
one cycle of its clock, and stops in neither case (the model's choice, log entry 3). -/
def Obligations.StepTakesFront : Prop :=
  ∀ s : State,
    (∀ c q, s.pending = c :: q → Machine.step s = Machine.exec c (s.rest q))
    ∧ (s.pending = [] → Machine.step s = .next s.tick)

/-- R8, R130, R294: after power-on reset every register reads its reset value, no byte of a memory is listed, so that every memory
reads 0 and is canonical, and no command waits. -/
def Obligations.ResetState : Prop :=
  (∀ a, State.reset.rd a = regReset a)
  ∧ (∀ a, State.reset.scratch.byte a = 0#8 ∧ State.reset.tableMem.byte a = 0#8)
  ∧ State.reset.memOk = true ∧ State.reset.pending = []
  ∧ (∀ c k i, (State.reset.slot c k).s i = 0#32 ∧ (State.reset.slot c k).a i = 0#32
      ∧ ((State.reset.slot c k).p i = true ↔ i = 0) ∧ (State.reset.slot c k).tokPending i = false
      ∧ (State.reset.slot c k).lc i = 0)
  ∧ (∀ k, k < 8 → State.reset.bit (R.PERMIT_CTRL k) F.PERMIT_CTRL_GRANT = false)

/-- R91-R93: for every instruction of a core and every value of its fields, the decoder reads from its word the instruction
itself. -/
def Obligations.DecodeEncode : Prop :=
  ∀ (i : Instr) (c : Nat) (w : Word), encodeCore i = some (c, w) → decodeCore c w = some i

/-! ### Scalar instructions -/

/-- R94, R81, R84, R85: an instruction whose word is ILLEGAL is not executed: its context's first fault is recorded, precise, with class
ILLEGAL (4), the pc of the word, FADDR 0; issue stops; no register of the bank and no byte changes. Which words are ILLEGAL is the
model's check illegalWord, which reads R94 field by field (log entry 12). -/
def Obligations.IllegalWordFaults : Prop :=
  ∀ (i : Instr) (c : Nat) (w : Word) (s : State), encodeCore i = some (c, w) → s.Fetches c w → illegalWord w = true → s.Clean c →
    ∃ t, Machine.exec i s = .next t ∧ s.FaultsPrecisely c 4 0 t ∧ s.SameScratch t

/-- R59: an instruction whose guard reads 0 does nothing: no register but the pc changes, no token, no byte, no fault. -/
def Obligations.GuardOff : Prop :=
  ∀ (i : Instr) (c : Nat) (w : Word) (s : State), encodeCore i = some (c, w) → s.Fetches c w → illegalWord w = false →
    (notLast w = true → ∀ l ∈ (s.bank c).loops, l.last ≠ (s.bank c).pc) → (s.bank c).p (guardOf w) = false →
    ∃ t, Machine.exec i s = .next t ∧ (s.bank c).Keeps none none none (t.slot c (s.active c))
      ∧ (s.bank c).MovedOn (t.slot c (s.active c)) ∧ s.CoreFrame c (s.active c) t ∧ s.SameScratch t

/-- R96: the value that sc.alu gives rd, for the codes that compute from two registers. -/
def Sys2Proof.aluSpec (fn : Nat) (a b v : Word) : Prop :=
  (fn = 0 → v.toNat = (a.toNat + b.toNat) % 2 ^ 32)
  ∧ (fn = 1 → (v.toNat + b.toNat) % 2 ^ 32 = a.toNat)
  ∧ (fn = 2 → ∀ i, i < 32 → v.getLsbD i = (a.getLsbD i && b.getLsbD i))
  ∧ (fn = 3 → ∀ i, i < 32 → v.getLsbD i = (a.getLsbD i || b.getLsbD i))
  ∧ (fn = 4 → ∀ i, i < 32 → v.getLsbD i = (a.getLsbD i != b.getLsbD i))
  ∧ (fn = 5 → v.toNat = a.toNat * 2 ^ (b.toNat % 32) % 2 ^ 32)
  ∧ (fn = 6 → v.toNat = a.toNat / 2 ^ (b.toNat % 32))
  ∧ (fn = 7 → v.toInt = Int.fdiv a.toInt (2 ^ (b.toNat % 32)))
  ∧ (fn = 8 → v.toNat = a.toNat * b.toNat % 2 ^ 32)
  ∧ (fn = 9 → v.toInt = Int.fdiv (a.toInt * b.toInt) (2 ^ 32))
  ∧ (fn = 10 → v.toNat = a.toNat * b.toNat / 2 ^ 32)
  ∧ (fn = 11 → v.toInt = min a.toInt b.toInt)
  ∧ (fn = 12 → v.toInt = max a.toInt b.toInt)
  ∧ (fn = 13 → v.toNat = min a.toNat b.toNat)
  ∧ (fn = 14 → v.toNat = max a.toNat b.toNat)

/-- R96: sc.alu completes with rd as its code says, every other register, token and byte as before. A word with another code, or
LCRD with an rs1 field above 3, is ILLEGAL. -/
def Sys2Proof.ScalarAlu : Prop :=
  (∀ (c : Nat) (f : FmtR) (s : State), s.Executes c (f.word 1#6) →
    ∃ t, Machine.exec (.scAlu c f) s = .next t
      ∧ aluSpec f.fn.toNat ((s.bank c).s f.rs1.toNat) ((s.bank c).s f.rs2.toNat) ((t.slot c (s.active c)).s f.rd.toNat)
      ∧ (f.fn = 15#8 → ((t.slot c (s.active c)).s f.rd.toNat).toNat
          = (((s.bank c).loops.find? (fun l => l.n == f.rs1.toNat)).elim 0 Loop.count) % 2 ^ 32)
      ∧ (s.bank c).Keeps (some f.rd.toNat) none none (t.slot c (s.active c))
      ∧ s.CoreFrame c (s.active c) t ∧ s.SameScratch t)
  ∧ (∀ f : FmtR, (15 < f.fn.toNat → illegalWord (f.word 1#6) = true)
      ∧ (f.fn = 15#8 → 3 < f.rs1.toNat → illegalWord (f.word 1#6) = true))

/-- R97: the immediate and constant forms complete with rd as the rule says; every other register, token and byte stays. -/
def Sys2Proof.ScalarImmediate : Prop :=
  ∀ (c : Nat) (s : State),
    (∀ f : FmtI, s.Executes c (f.word 2#6) → ∃ t, Machine.exec (.scAddi c f) s = .next t
      ∧ (t.slot c (s.active c)).s f.rd.toNat = BitVec.ofInt 32 (((s.bank c).s f.rs1.toNat).toInt + f.imm.toInt)
      ∧ (s.bank c).Keeps (some f.rd.toNat) none none (t.slot c (s.active c)) ∧ s.CoreFrame c (s.active c) t ∧ s.SameScratch t)
    ∧ (∀ f : FmtI, s.Executes c (f.word 3#6) → ∃ t, Machine.exec (.scAndi c f) s = .next t
      ∧ (∀ i, i < 32 → ((t.slot c (s.active c)).s f.rd.toNat).getLsbD i = (((s.bank c).s f.rs1.toNat).getLsbD i && f.imm.getLsbD i))
      ∧ (s.bank c).Keeps (some f.rd.toNat) none none (t.slot c (s.active c)) ∧ s.CoreFrame c (s.active c) t ∧ s.SameScratch t)
    ∧ (∀ f : FmtI, s.Executes c (f.word 4#6) → ∃ t, Machine.exec (.scOri c f) s = .next t
      ∧ (∀ i, i < 32 → ((t.slot c (s.active c)).s f.rd.toNat).getLsbD i = (((s.bank c).s f.rs1.toNat).getLsbD i || f.imm.getLsbD i))
      ∧ (s.bank c).Keeps (some f.rd.toNat) none none (t.slot c (s.active c)) ∧ s.CoreFrame c (s.active c) t ∧ s.SameScratch t)
    ∧ (∀ f : FmtI, s.Executes c (f.word 5#6) → ∃ t, Machine.exec (.scXori c f) s = .next t
      ∧ (∀ i, i < 32 → ((t.slot c (s.active c)).s f.rd.toNat).getLsbD i = (((s.bank c).s f.rs1.toNat).getLsbD i != f.imm.getLsbD i))
      ∧ (s.bank c).Keeps (some f.rd.toNat) none none (t.slot c (s.active c)) ∧ s.CoreFrame c (s.active c) t ∧ s.SameScratch t)
    ∧ (∀ f : FmtI, s.Executes c (f.word 6#6) → ∃ t, Machine.exec (.scShi c f) s = .next t
      ∧ (f.imm.toNat / 32 % 4 = 0 → ((t.slot c (s.active c)).s f.rd.toNat).toNat
          = ((s.bank c).s f.rs1.toNat).toNat * 2 ^ (f.imm.toNat % 32) % 2 ^ 32)
      ∧ (f.imm.toNat / 32 % 4 = 1 → ((t.slot c (s.active c)).s f.rd.toNat).toNat
          = ((s.bank c).s f.rs1.toNat).toNat / 2 ^ (f.imm.toNat % 32))
      ∧ (f.imm.toNat / 32 % 4 = 2 → ((t.slot c (s.active c)).s f.rd.toNat).toInt
          = Int.fdiv ((s.bank c).s f.rs1.toNat).toInt (2 ^ (f.imm.toNat % 32)))
      ∧ (s.bank c).Keeps (some f.rd.toNat) none none (t.slot c (s.active c)) ∧ s.CoreFrame c (s.active c) t ∧ s.SameScratch t)
    ∧ (∀ f : FmtI, (f.imm.toNat / 32 % 4 = 3 ∨ f.imm.toNat / 128 ≠ 0) → illegalWord (f.word 6#6) = true)
    ∧ (∀ f : FmtK, s.Executes c (f.word 7#6) → ∃ t, Machine.exec (.scLdi c f) s = .next t
      ∧ ((t.slot c (s.active c)).s f.rd.toNat).toInt = f.imm.toInt
      ∧ (s.bank c).Keeps (some f.rd.toNat) none none (t.slot c (s.active c)) ∧ s.CoreFrame c (s.active c) t ∧ s.SameScratch t)
    ∧ (∀ f : FmtK, s.Executes c (f.word 8#6) → ∃ t, Machine.exec (.scLui c f) s = .next t
      ∧ ((t.slot c (s.active c)).s f.rd.toNat).toNat = f.imm.toNat * 2 ^ 14 + ((s.bank c).s f.rd.toNat).toNat % 2 ^ 14
      ∧ (s.bank c).Keeps (some f.rd.toNat) none none (t.slot c (s.active c)) ∧ s.CoreFrame c (s.active c) t ∧ s.SameScratch t)

/-- 2 claims together: ScalarAlu, ScalarImmediate. -/
def Obligations.ScalarAluAndImmediates : Prop := Sys2Proof.ScalarAlu ∧ Sys2Proof.ScalarImmediate

/-- R98: what a condition code asks of two registers; the floating-point codes by the values of the FP32 patterns. -/
def Sys2Proof.ccSpec (cc : Nat) (a b : Word) (v : Bool) : Prop :=
  (cc = 0 → (v = true ↔ a = b))
  ∧ (cc = 1 → (v = true ↔ a ≠ b))
  ∧ (cc = 2 → (v = true ↔ a.toInt < b.toInt))
  ∧ (cc = 3 → (v = true ↔ b.toInt ≤ a.toInt))
  ∧ (cc = 4 → (v = true ↔ a.toNat < b.toNat))
  ∧ (cc = 5 → (v = true ↔ b.toNat ≤ a.toNat))
  ∧ (cc = 9 → (v = true ↔ (f32v a.toNat).isNan = true ∨ (f32v b.toNat).isNan = true))
  ∧ ((f32v a.toNat).isNan = true ∨ (f32v b.toNat).isNan = true → cc = 6 ∨ cc = 7 ∨ cc = 8 → v = false)
  ∧ (a = 0x80000000#32 → b = 0#32 → (cc = 6 ∨ cc = 8 → v = true) ∧ (cc = 7 → v = false))
  ∧ (cc = 10 → (v = true ↔ a &&& b ≠ 0#32))

/-- R63, R98, R99: compares and predicate logic complete with pd as the rule says, p0 still 1; everything else stays. -/
def Sys2Proof.Predicates : Prop :=
  ∀ (c : Nat) (s : State),
    (∀ f : FmtC, s.Executes c (f.word 9#6) → ∃ t, Machine.exec (.scCmp c f) s = .next t
      ∧ (∃ v, ccSpec f.cc.toNat ((s.bank c).s f.rs1.toNat) ((s.bank c).s f.rs2.toNat) v
          ∧ (f.pd ≠ 0#3 → (t.slot c (s.active c)).p f.pd.toNat = v))
      ∧ (t.slot c (s.active c)).p 0 = true
      ∧ (s.bank c).Keeps none none (some f.pd.toNat) (t.slot c (s.active c)) ∧ s.CoreFrame c (s.active c) t ∧ s.SameScratch t)
    ∧ (∀ f : FmtCI, s.Executes c (f.word 10#6) → ∃ t, Machine.exec (.scCmpi c f) s = .next t
      ∧ (∃ v, ccSpec f.cc.toNat ((s.bank c).s f.rs1.toNat) (BitVec.ofInt 32 f.imm.toInt) v
          ∧ (f.pd ≠ 0#3 → (t.slot c (s.active c)).p f.pd.toNat = v))
      ∧ (t.slot c (s.active c)).p 0 = true
      ∧ (s.bank c).Keeps none none (some f.pd.toNat) (t.slot c (s.active c)) ∧ s.CoreFrame c (s.active c) t ∧ s.SameScratch t)
    ∧ (∀ f : FmtCI, 5 < f.cc.toNat → illegalWord (f.word 10#6) = true)
    ∧ (∀ f : FmtP, s.Executes c (f.word 11#6) → ∃ t, Machine.exec (.scPlog c f) s = .next t
      ∧ (f.pd ≠ 0#3 → (t.slot c (s.active c)).p f.pd.toNat
          = (match f.fn.toNat with
            | 0 => (s.bank c).p f.pa.toNat && (s.bank c).p f.pb.toNat
            | 1 => (s.bank c).p f.pa.toNat || (s.bank c).p f.pb.toNat
            | 2 => (s.bank c).p f.pa.toNat != (s.bank c).p f.pb.toNat
            | 3 => (s.bank c).p f.pa.toNat && !(s.bank c).p f.pb.toNat
            | 4 => !(s.bank c).p f.pa.toNat
            | _ => (s.bank c).p f.pa.toNat))
      ∧ (t.slot c (s.active c)).p 0 = true
      ∧ (s.bank c).Keeps none none (some f.pd.toNat) (t.slot c (s.active c)) ∧ s.CoreFrame c (s.active c) t ∧ s.SameScratch t)

/-- The place of an FP32 pattern that is no NaN in the order of the numbers: both zeros at 0, the others by sign and magnitude. -/
def Sys2Proof.fpPlace (a : Word) : Int := if a.toNat < 2 ^ 31 then (a.toNat : Int) else -((a.toNat % 2 ^ 31 : Nat) : Int)

/-- An FP32 pattern is a NaN: its exponent field is all ones and its significand field is not 0. -/
def Sys2Proof.fpNaN (a : Word) : Prop := 0x7F800000 < a.toNat % 2 ^ 31

/-- R98: the floating-point condition codes order FP32 patterns as the numbers they stand for: -0 equals +0, a comparison that involves a
NaN is false but for FUN. -/
def Sys2Proof.FloatOrder : Prop :=
  ∀ a b : Word,
    (ccEval 6 a b = true ↔ ¬fpNaN a ∧ ¬fpNaN b ∧ fpPlace a = fpPlace b)
    ∧ (ccEval 7 a b = true ↔ ¬fpNaN a ∧ ¬fpNaN b ∧ fpPlace a < fpPlace b)
    ∧ (ccEval 8 a b = true ↔ ¬fpNaN a ∧ ¬fpNaN b ∧ fpPlace a ≤ fpPlace b)
    ∧ (ccEval 9 a b = true ↔ fpNaN a ∨ fpNaN b)

/-- 2 claims together: Predicates, FloatOrder. -/
def Obligations.PredicatesAndFloatOrder : Prop := Sys2Proof.Predicates ∧ Sys2Proof.FloatOrder

/-- R101: address arithmetic completes with OFFSET modulo 2^22 and PLANE as the rule says, bits [30:22] of the result 0; AGET writes
the scalar register named by the rs field; everything else stays. -/
def Obligations.AddressArithmetic : Prop :=
  ∀ (c : Nat) (s : State),
    (∀ f : FmtAR, s.Executes c (f.word 15#6) → ∃ t, Machine.exec (.scAddr c f) s = .next t
      ∧ (f.fn = 0#8 → ((t.slot c (s.active c)).a f.aD.toNat).toNat
          = b2n (aPlane ((s.bank c).a f.aS.toNat)) * 2 ^ 31
            + (aOff ((s.bank c).a f.aS.toNat) + ((s.bank c).s f.rs.toNat).toNat * 2 ^ f.sh.toNat) % 2 ^ 22)
      ∧ (f.fn = 1#8 → ((t.slot c (s.active c)).a f.aD.toNat).toNat
          = b2n (aPlane ((s.bank c).a f.aS.toNat)) * 2 ^ 31
            + (((aOff ((s.bank c).a f.aS.toNat) : Int) - (((s.bank c).s f.rs.toNat).toNat * 2 ^ f.sh.toNat : Nat)) % 2 ^ 22).toNat)
      ∧ (f.fn = 2#8 → (t.slot c (s.active c)).a f.aD.toNat = (s.bank c).s f.rs.toNat &&& 0x803FFFFF#32)
      ∧ (f.fn = 3#8 → (t.slot c (s.active c)).s f.rs.toNat = (s.bank c).a f.aS.toNat)
      ∧ (s.bank c).Keeps (if f.fn = 3#8 then some f.rs.toNat else none) (if f.fn = 3#8 then none else some f.aD.toNat) none
          (t.slot c (s.active c))
      ∧ s.CoreFrame c (s.active c) t ∧ s.SameScratch t)
    ∧ (∀ f : FmtAR, 3 < f.fn.toNat → illegalWord (f.word 15#6) = true)
    ∧ (∀ f : FmtAI, s.Executes c (f.word 16#6) → ∃ t, Machine.exec (.scAaddi c f) s = .next t
      ∧ ((t.slot c (s.active c)).a f.aD.toNat).toNat
          = b2n (aPlane ((s.bank c).a f.aS.toNat)) * 2 ^ 31
            + (((aOff ((s.bank c).a f.aS.toNat) : Int) + f.imm.toInt) % 2 ^ 22).toNat
      ∧ (s.bank c).Keeps none (some f.aD.toNat) none (t.slot c (s.active c)) ∧ s.CoreFrame c (s.active c) t ∧ s.SameScratch t)

/-- R100: what a load puts in rd: the little-endian value of the bytes read, sign- or zero-extended. -/
def Sys2Proof.loadSpec (n : Nat) (signed : Bool) (bs : List Byte) (v : Word) : Prop :=
  (signed = false → v.toNat = leNat bs)
  ∧ (signed = true → leNat bs < 2 ^ (8 * n - 1) → v.toInt = leNat bs)
  ∧ (signed = true → 2 ^ (8 * n - 1) ≤ leNat bs → v.toInt = (leNat bs : Int) - 2 ^ (8 * n))

/-- R100: the bytes [a, a + n) of the running context's window lie within its bound and hold no uncorrectable word. -/
def Sys2Proof.Readable (s : State) (c a n : Nat) : Prop :=
  a + n ≤ s.bound c (s.active c)
  ∧ ∀ x ∈ wordsOf a n, FMap.get false s.ue (wordKey c (s.phys c (s.active c) x)) = false

/-- No byte of [a, a + n) of core `c` lies in a word in which an access under a token may meet another's (R89, R90): one that changed while
the operation under the token was in flight, or that another operation in flight writes. The token of a scalar load is 16. -/
def Sys2Proof.Undisturbed (s : State) (c tok a n : Nat) : Prop :=
  ∀ v ∈ s.clash c tok, v.word * 8 + 8 ≤ cellKey c (s.phys c (s.active c) a) ∨ cellKey c (s.phys c (s.active c) a) + n ≤ v.word * 8

/-- The words of `vs` stand in `u` as an access meets them, each whole, with whether it is uncorrectable; every other byte and mark is that
of `s` (R90). -/
def Sys2Proof.MetIn (s u : State) (vs : List Overlap) : Prop :=
  (∀ v ∈ vs, u.scratch.bytes (v.word * 8) 8 = v.met.1 ∧ FMap.get false u.ue v.word = v.met.2 ∧ v.met ∈ v.values)
  ∧ (∀ a, (∀ v ∈ vs, a < v.word * 8 ∨ v.word * 8 + 8 ≤ a) → u.scratch.byte a = s.scratch.byte a)
  ∧ (∀ w, (∀ v ∈ vs, v.word ≠ w) → FMap.get false u.ue w = FMap.get false s.ue w)

/-- R62, R100: sc.ld and sc.ldu through an address register with PLANE = 0 complete when the bytes lie within the bound and hold no
uncorrectable word: rd gets them, extended; the address is (OFFSET + IMM12) mod 2^22. A byte at or beyond the bound faults with
DATA_WINDOW at the first such byte, whatever PLANE is (R84: the lower class); else PLANE = 1 faults with OPERAND. With nothing in flight, and
in every word that no operation in flight touches, the bytes are those of the window; in another word the load meets, whole, one of the
values that the model counts as possible (R90; which they are is the model's choice, log entry 15). -/
def Sys2Proof.ScalarLoads : Prop :=
  ∀ (c : Nat) (f : FmtM) (signed : Bool) (s : State) (i : Instr), i = (if signed then .scLd c f else .scLdu c f) →
    s.Executes c (f.word (if signed then 12#6 else 13#6)) →
    (aPlane ((s.bank c).a f.aB.toNat) = false → Readable s c (memAddr f (s.bank c)) (2 ^ f.sz.toNat) →
      (s.core c).ops = [] ∨ Undisturbed (s.issued c) c 16 (memAddr f (s.bank c)) (2 ^ f.sz.toNat) →
      ∃ t, Machine.exec i s = .next t
        ∧ loadSpec (2 ^ f.sz.toNat) signed (s.winBytes c (s.active c) (memAddr f (s.bank c)) (2 ^ f.sz.toNat))
            ((t.slot c (s.active c)).s f.r.toNat)
        ∧ (s.bank c).Keeps (some f.r.toNat) none none (t.slot c (s.active c)) ∧ s.CoreFrame c (s.active c) t ∧ s.SameScratch t)
    ∧ (aPlane ((s.bank c).a f.aB.toNat) = false → (s.core c).ops ≠ [] →
      ∀ u : State, MetIn (s.issued c) u ((s.issued c).clash c 16) → u.regs = s.regs →
      Readable u c (memAddr f (s.bank c)) (2 ^ f.sz.toNat) →
      ∃ t, Machine.exec i s = .next t
        ∧ loadSpec (2 ^ f.sz.toNat) signed (u.winBytes c (s.active c) (memAddr f (s.bank c)) (2 ^ f.sz.toNat))
            ((t.slot c (s.active c)).s f.r.toNat)
        ∧ (s.bank c).Keeps (some f.r.toNat) none none (t.slot c (s.active c)) ∧ s.CoreFrame c (s.active c) t ∧ s.SameScratch t)
    ∧ (aPlane ((s.bank c).a f.aB.toNat) = true → memAddr f (s.bank c) + 2 ^ f.sz.toNat ≤ s.bound c (s.active c) → s.Clean c →
      ∃ t, Machine.exec i s = .next t ∧ s.FaultsPrecisely c 5 ((s.bank c).a f.aB.toNat).toNat t ∧ s.SameScratch t)
    ∧ (s.bound c (s.active c) < memAddr f (s.bank c) + 2 ^ f.sz.toNat → s.Clean c →
      ∃ t, Machine.exec i s = .next t
        ∧ s.FaultsPrecisely c 2 (max (memAddr f (s.bank c)) (s.bound c (s.active c))) t ∧ s.SameScratch t)
    ∧ memAddr f (s.bank c) = (((aOff ((s.bank c).a f.aB.toNat) : Int) + f.imm.toInt) % 2 ^ 22).toNat

/-- R62, R100: sc.st through an address register with PLANE = 0 completes within the bound: the low bytes of rs stand at the
effective address of the window, least significant first; every other byte of every scratchpad is as before, and every register but
the pc. A byte beyond the bound faults with DATA_WINDOW, else PLANE = 1 with OPERAND, and then no byte is written. -/
def Sys2Proof.ScalarStore : Prop :=
  ∀ (c : Nat) (f : FmtM) (s : State), s.Executes c (f.word 14#6) →
    (aPlane ((s.bank c).a f.aB.toNat) = false → memAddr f (s.bank c) + 2 ^ f.sz.toNat ≤ s.bound c (s.active c) →
      ∃ t, Machine.exec (.scSt c f) s = .next t
        ∧ (∀ j, j < 2 ^ f.sz.toNat → (t.scratch.byte (cellKey c (s.phys c (s.active c) (memAddr f (s.bank c))) + j)).toNat
            = ((s.bank c).s f.r.toNat).toNat / 256 ^ j % 256)
        ∧ (∀ a, (a < cellKey c (s.phys c (s.active c) (memAddr f (s.bank c)))
              ∨ cellKey c (s.phys c (s.active c) (memAddr f (s.bank c))) + 2 ^ f.sz.toNat ≤ a) →
            t.scratch.byte a = s.scratch.byte a)
        ∧ (s.bank c).Keeps none none none (t.slot c (s.active c)) ∧ s.CoreFrame c (s.active c) t)
    ∧ (aPlane ((s.bank c).a f.aB.toNat) = true → memAddr f (s.bank c) + 2 ^ f.sz.toNat ≤ s.bound c (s.active c) → s.Clean c →
      ∃ t, Machine.exec (.scSt c f) s = .next t ∧ s.FaultsPrecisely c 5 ((s.bank c).a f.aB.toNat).toNat t ∧ s.SameScratch t)
    ∧ (s.bound c (s.active c) < memAddr f (s.bank c) + 2 ^ f.sz.toNat → s.Clean c →
      ∃ t, Machine.exec (.scSt c f) s = .next t
        ∧ s.FaultsPrecisely c 2 (max (memAddr f (s.bank c)) (s.bound c (s.active c))) t ∧ s.SameScratch t)

/-- 2 claims together: ScalarLoads, ScalarStore. -/
def Obligations.ScalarLoadsAndStores : Prop := Sys2Proof.ScalarLoads ∧ Sys2Proof.ScalarStore

/-! ### Branches and loops -/

/-- R69: the loops that a taken branch leaves armed: a loop stays when its body and those of all loops armed before it hold the
target. -/
def Sys2Proof.loopsLeft (target : Nat) (before after : List Loop) : Prop :=
  ∃ gone, before = gone ++ after
    ∧ (∀ l ∈ after, l.start ≤ target ∧ target ≤ l.last)
    ∧ (∀ l, gone.getLast? = some l → ¬(l.start ≤ target ∧ target ≤ l.last))

/-- R69, R102: br.jmp and br.call go to pc + 4 * OFF23, br.jr to rs[21:2] * 4; br.call writes pc + 4 into s31; loops whose body the
target leaves are disarmed; no other register and no byte changes. A pc is kept modulo 2^32 (log entry 11). -/
def Sys2Proof.Branches : Prop :=
  ∀ (c : Nat) (s : State),
    (∀ f : FmtB, s.Executes c (f.word 17#6) → ∃ t, Machine.exec (.brJmp c f) s = .next t
      ∧ ((t.slot c (s.active c)).pc : Int) = ((s.bank c).pc + 4 * f.off.toInt) % 2 ^ 32
      ∧ loopsLeft (t.slot c (s.active c)).pc (s.bank c).loops (t.slot c (s.active c)).loops
      ∧ (s.bank c).Keeps none none none (t.slot c (s.active c)) ∧ s.CoreFrame c (s.active c) t ∧ s.SameScratch t)
    ∧ (∀ f : FmtB, s.Executes c (f.word 18#6) → ∃ t, Machine.exec (.brCall c f) s = .next t
      ∧ ((t.slot c (s.active c)).pc : Int) = ((s.bank c).pc + 4 * f.off.toInt) % 2 ^ 32
      ∧ (t.slot c (s.active c)).s 31 = BitVec.ofNat 32 ((s.bank c).pc + 4)
      ∧ loopsLeft (t.slot c (s.active c)).pc (s.bank c).loops (t.slot c (s.active c)).loops
      ∧ (s.bank c).Keeps (some 31) none none (t.slot c (s.active c)) ∧ s.CoreFrame c (s.active c) t ∧ s.SameScratch t)
    ∧ (∀ f : FmtJ, s.Executes c (f.word 19#6) → ∃ t, Machine.exec (.brJr c f) s = .next t
      ∧ (t.slot c (s.active c)).pc = ((s.bank c).s f.rs.toNat).toNat / 4 % 2 ^ 20 * 4
      ∧ loopsLeft (t.slot c (s.active c)).pc (s.bank c).loops (t.slot c (s.active c)).loops
      ∧ (s.bank c).Keeps none none none (t.slot c (s.active c)) ∧ s.CoreFrame c (s.active c) t ∧ s.SameScratch t)

/-- R68: after an instruction that is no taken branch the armed loops are tested innermost first. -/
def Sys2Proof.NextAddress : Prop :=
  ∀ (c : Nat) (f : FmtZ) (s : State), s.Executes c (f.word 23#6) →
    ∃ t, Machine.exec (.sqNop c f) s = .next t
      ∧ (s.bank c).Keeps none none none (t.slot c (s.active c)) ∧ s.CoreFrame c (s.active c) t ∧ s.SameScratch t
      ∧ ((s.bank c).loops = [] →
          (t.slot c (s.active c)).pc = ((s.bank c).pc + 4) % 2 ^ 32 ∧ (t.slot c (s.active c)).loops = [])
      ∧ (∀ l ls, (s.bank c).loops = l :: ls → l.last ≠ (s.bank c).pc →
          (t.slot c (s.active c)).pc = ((s.bank c).pc + 4) % 2 ^ 32 ∧ (t.slot c (s.active c)).loops = l :: ls)
      ∧ (∀ l ls, (s.bank c).loops = l :: ls → l.last = (s.bank c).pc → l.count ≠ 1 →
          (t.slot c (s.active c)).pc = l.start ∧ (t.slot c (s.active c)).loops = { l with count := l.count - 1 } :: ls)
      ∧ (∀ l ls, (s.bank c).loops = l :: ls → l.last = (s.bank c).pc → l.count = 1 →
          (t.slot c (s.active c)).pc = (loopNext (s.bank c).pc ls).1
          ∧ (t.slot c (s.active c)).loops = (loopNext (s.bank c).pc ls).2)

/-- R67, R103: the count that sq.loop arms: CNT, or the scalar register it names. -/
def Sys2Proof.loopCountSpec (f : FmtL) (b : Slot) : Nat := if f.im = 1#1 then f.cnt.toNat else (b.s (f.cnt.toNat % 32)).toNat

/-- R67, R68, R103: sq.loop with a count above 0 arms lc[LC] as the innermost loop, with its body from the next instruction to
pc + 4 * LEN; with a count of 0 it goes on as after the body's last instruction. It faults with LOOP when it would arm an armed
counter or a fifth loop, or when its body ends beyond that of an armed loop. -/
def Sys2Proof.Loops : Prop :=
  ∀ (c : Nat) (f : FmtL) (s : State), s.Executes c (f.word 20#6) →
    ((∀ l ∈ (s.bank c).loops, (s.bank c).pc + 4 * f.len.toNat ≤ l.last) →
      (loopCountSpec f (s.bank c) ≠ 0 → (∀ l ∈ (s.bank c).loops, l.n ≠ f.lc.toNat) → (s.bank c).loops.length < 4 →
        ∃ t, Machine.exec (.sqLoop c f) s = .next t
          ∧ (t.slot c (s.active c)).pc = (s.bank c).pc + 4
          ∧ (t.slot c (s.active c)).loops
            = ⟨f.lc.toNat, (s.bank c).pc + 4, (s.bank c).pc + 4 * f.len.toNat, loopCountSpec f (s.bank c)⟩ :: (s.bank c).loops
          ∧ (s.bank c).Keeps none none none (t.slot c (s.active c)) ∧ s.CoreFrame c (s.active c) t ∧ s.SameScratch t)
      ∧ (loopCountSpec f (s.bank c) = 0 →
        ∃ t, Machine.exec (.sqLoop c f) s = .next t
          ∧ (t.slot c (s.active c)).pc = (loopNext ((s.bank c).pc + 4 * f.len.toNat) (s.bank c).loops).1
          ∧ (t.slot c (s.active c)).loops = (loopNext ((s.bank c).pc + 4 * f.len.toNat) (s.bank c).loops).2
          ∧ (s.bank c).Keeps none none none (t.slot c (s.active c)) ∧ s.CoreFrame c (s.active c) t ∧ s.SameScratch t))
    ∧ (s.Clean c →
        ((∃ l ∈ (s.bank c).loops, l.last < (s.bank c).pc + 4 * f.len.toNat)
          ∨ (loopCountSpec f (s.bank c) ≠ 0 ∧ ((∃ l ∈ (s.bank c).loops, l.n = f.lc.toNat) ∨ 4 ≤ (s.bank c).loops.length))) →
        ∃ t, Machine.exec (.sqLoop c f) s = .next t ∧ s.FaultsPrecisely c 6 0 t ∧ s.SameScratch t)

/-! ### Ends of parts, fences, token waits -/

/-- R57, R65, R71, R104, R105: sq.end with every token COMPLETE disarms the loops, ends the core's part of the step and reports it to
its context; with a PENDING token the sequencer waits. sq.ifence empties the instruction buffer. twait goes on when its tokens are
COMPLETE, else stalls; TWAIT_RETURN goes on once they are. -/
def Sys2Proof.SequencerWaits : Prop :=
  ∀ (c : Nat) (s : State),
    (∀ (f : FmtZ) (p x : Nat), s.Executes c (f.word 21#6) → (s.bank c).pend = 0 → (s.bank c).owner = some (p, x) →
      ∃ t, Machine.exec (.sqEnd c f) s = .next t ∧ t.isRunning c = false ∧ (t.slot c (s.active c)).loops = []
        ∧ (t.ctx p x).reported = (s.ctx p x).reported ++ [c]
        ∧ (s.bank c).Keeps none none none (t.slot c (s.active c)) ∧ s.SameScratch t)
    ∧ (∀ f : FmtZ, s.Executes c (f.word 21#6) → (s.bank c).pend ≠ 0 →
      ∃ t, Machine.exec (.sqEnd c f) s = .next t ∧ (t.core c).wait = .ending ∧ t.slot c (s.active c) = s.bank c
        ∧ s.SameScratch t)
    ∧ (∀ f : FmtZ, s.Executes c (f.word 22#6) →
      ∃ t, Machine.exec (.sqIfence c f) s = .next t ∧ (∀ ln, (t.core c).line ln = none)
        ∧ (s.bank c).Keeps none none none (t.slot c (s.active c)) ∧ (s.bank c).MovedOn (t.slot c (s.active c))
        ∧ s.CoreFrame c (s.active c) t ∧ s.SameScratch t)
    ∧ (∀ f : FmtT, s.Executes c (f.word 24#6) → (∀ n, n < 16 → f.mask.getLsbD n = true → (s.bank c).tokPending n = false) →
      ∃ t, Machine.exec (.twait c f) s = .next t
        ∧ (s.bank c).Keeps none none none (t.slot c (s.active c)) ∧ (s.bank c).MovedOn (t.slot c (s.active c))
        ∧ s.CoreFrame c (s.active c) t ∧ s.SameScratch t)
    ∧ (∀ (f : FmtT) (n : Nat), s.Executes c (f.word 24#6) → n < 16 → f.mask.getLsbD n = true → (s.bank c).tokPending n = true →
      ∃ t, Machine.exec (.twait c f) s = .next t ∧ (t.core c).wait = .tokens f.mask.toNat ∧ t.slot c (s.active c) = s.bank c
        ∧ s.SameScratch t)
    ∧ (∀ m : BitVec 16, (s.core c).wait = .tokens m.toNat → (s.core c).stopped = false → s.paused (chanOf c) = false →
      (∀ n, n < 16 → m.getLsbD n = true → (s.bank c).tokPending n = false) →
      ∃ t, Machine.exec (.twaitReturn c) s = .next t ∧ (t.core c).wait = .none
        ∧ (s.bank c).Keeps none none none (t.slot c (s.active c)) ∧ (s.bank c).MovedOn (t.slot c (s.active c))
        ∧ (∀ a, t.rd a = s.rd a) ∧ s.SameScratch t)

/-- 4 claims together: Branches, NextAddress, Loops, SequencerWaits. -/
def Obligations.SequencerMoves : Prop := Sys2Proof.Branches ∧ Sys2Proof.NextAddress ∧ Sys2Proof.Loops ∧ Sys2Proof.SequencerWaits

/-! ### Unit operations -/

/-- The unit operation that a command issues, with its operands as the bank holds them (R55, R92, R95): kind, FN, token, aD, aA, aB,
s[sC], s[sC + 1]. -/
def Sys2Proof.opOf : Instr → Slot → Option UOp
  | .mxWload _ f, b => some (captureU2 .wload f b)
  | .mxTile _ f, b => some (captureU2 .tile f b)
  | .mxFin _ f, b => some (captureU1 .fin f b)
  | .cwCfg _ f, b => some (captureU1 .cfg f b)
  | .cwWindow _ f, b => some (captureU2 .window f b)
  | .vxArith _ f, b => some (captureU2 .arith f b)
  | .vxMinmax _ f, b => some (captureU2 .minmax f b)
  | .vxFn _ f, b => some (captureU1 .fn f b)
  | .vxCvt _ f, b => some (captureU1 .cvt f b)
  | .vxMxq _ f, b => some (captureU2 .mxq f b)
  | .vxRed _ f, b => some (captureU1 .red f b)
  | .vxRand _ f, b => some (captureU1 .rand f b)
  | .vxSample _ f, b => some (captureU2 .sample f b)
  | .msgMove _ f, b => some (captureU1 .move f b)
  | .msgSend _ f, b => some (captureU1 .send f b)
  | .crPush _ f, b => some (captureU1 .push f b)
  | .dgLeaf _ f, b => some (captureU1 .leaf f b)
  | .dgResult _ f, b => some (captureU1 .result f b)
  | _, _ => none

/-- R55, R56, R95: a unit operation that names a COMPLETE token and has allowed control values goes in flight, last among those of
its core, with its operands captured; its token becomes PENDING, every other token and register stays, no byte changes. One that
names a PENDING token waits and is not issued: nothing changes but what the request for the next line moves. A control value that is not allowed faults with OPERAND,
its token left as it was; the operations queued for the array are then cancelled (R163). sy.signal is told apart (SignalLeaves). -/
def Obligations.UnitIssue : Prop :=
  ∀ (i : Instr) (c : Nat) (w : Word) (s : State) (o : UOp), encodeCore i = some (c, w) → opOf i (s.bank c) = some o →
    s.Executes c w →
    ((s.bank c).tokPending o.tok = false → o.bad = false →
      ∃ t, Machine.exec i s = .next t ∧ (t.core c).ops = (s.core c).ops ++ [o]
        ∧ (∀ n, (t.slot c (s.active c)).tokPending n = (decide (n = o.tok) || (s.bank c).tokPending n))
        ∧ (∀ j, (t.slot c (s.active c)).s j = (s.bank c).s j ∧ (t.slot c (s.active c)).a j = (s.bank c).a j
          ∧ (t.slot c (s.active c)).p j = (s.bank c).p j)
        ∧ (s.bank c).MovedOn (t.slot c (s.active c)) ∧ s.SameScratch t)
    ∧ ((s.bank c).tokPending o.tok = true →
      ∃ t, Machine.exec i s = .next t ∧ t.slot c (s.active c) = s.bank c ∧ s.CoreFrame c (s.active c) t ∧ s.SameScratch t)
    ∧ ((s.bank c).tokPending o.tok = false → o.bad = true → s.Clean c →
      ∃ t, Machine.exec i s = .next t
        ∧ t.slot c (s.active c) = { s.bank c with faultAt := s.tb2, rank := some ⟨s.now, some (s.core c).issues⟩ }
        ∧ t.fld (R.CORE_CTX_FAULT (chanOf c) (posOf c) (s.active c)) F.CORE_CTX_FAULT_CLASS = 5
        ∧ t.fld (R.CORE_CTX_FAULT (chanOf c) (posOf c) (s.active c)) F.CORE_CTX_FAULT_TOKEN = o.tok
        ∧ (t.core c).ops = (s.core c).ops.filter (fun q => !q.kind.ofArray) ∧ s.SameScratch t)

/-- R58, R84, R85: the operation under a token, the oldest of its unit, no cr.push that waits for room (R191) and no msg.send that waits for a
command slot (R214), takes effect when its token completes: the token is COMPLETE and the
operation no longer in flight; where it faults instead, the fault is imprecise and carries the operation's pc and token, and the
token stays as it was. That the whole effect lands at TOKEN_COMPLETION is the model's choice (log entry 15: R55 and R90 leave open when, between
issue and completion, an operation reads and writes). Where no word that it may meet changed while it was in flight, nor another operation in
flight writes one, the effect is that of the operation alone; else it meets each such 64-bit word whole, as one of the values that the word had
since the issue or that an operation in flight may have written (R88, R90; log entry 15); of a word that it does not write, the value of now
stays, and where only it wrote the word, its bytes stand. -/
def Obligations.TokenCompletes : Prop :=
  ∀ (c tok : Nat) (s : State) (o : UOp), s.isRunning c = true → s.paused (chanOf c) = false → (s.core c).ready tok = some o →
    (o.kind = .push → s.pushWaits c (s.active c) o = false) → (o.kind = .send → s.sendWaits c (s.active c) o = false) →
    (∀ u, s.runOp c (s.active c) o = (.ok (), u) →
      ∃ t, Machine.exec (.tokenCompletion c tok) s = .next t
        ∧ (∀ n, (t.slot c (s.active c)).tokPending n = (!decide (n = tok) && (u.slot c (s.active c)).tokPending n))
        ∧ t.scratch = u.scratch)
    ∧ (∀ u e, s.runOp c (s.active c) o = (.error e, u) →
      e.cls < 256 →
      u.bit (R.CORE_CTX_FAULT (chanOf c) (posOf c) (s.active c)) F.CORE_CTX_FAULT_VALID = false →
      ∃ t, Machine.exec (.tokenCompletion c tok) s = .next t
        ∧ t.fld (R.CORE_CTX_FAULT (chanOf c) (posOf c) (s.active c)) F.CORE_CTX_FAULT_CLASS = e.cls
        ∧ t.bit (R.CORE_CTX_FAULT (chanOf c) (posOf c) (s.active c)) F.CORE_CTX_FAULT_PRECISE = false
        ∧ t.fld (R.CORE_CTX_FPC (chanOf c) (posOf c) (s.active c)) F.CORE_CTX_FPC_FPC = bitsOf o.pc 21 2
        ∧ (t.slot c (s.active c)).tokPending o.tok = (u.slot c (s.active c)).tokPending o.tok ∧ t.scratch = u.scratch)
    ∧ (s.clash c tok = [] → (s.core c).posted.get none tok = none →
        (s.runOp c (s.active c) o).1 = ((uRun c (s.active c) o).go (s.onCore c (fun x => { x with ops := x.ops.erase o }))).1
        ∧ (s.runOp c (s.active c) o).2.scratch
          = ((uRun c (s.active c) o).go (s.onCore c (fun x => { x with ops := x.ops.erase o }))).2.scratch)
    ∧ MetIn s (s.meeting (s.clash c tok)) (s.clash c tok)
    ∧ (∀ v ∈ s.clash c tok, v.word / 2 ^ 19 = c
        ∧ ∀ (own : List Change) (m : Memory),
          ((∀ h ∈ own, h.word ≠ v.word) → (v.settle own m).bytes (v.word * 8) 8 = s.scratch.bytes (v.word * 8) 8)
          ∧ (v.past = [] → (∃ h ∈ own, h.word = v.word) → ∀ j, j < 8 →
              (v.settle own m).byte (v.word * 8 + j)
                = if ∃ h ∈ own, h.word = v.word ∧ nth false h.wrote j = true then m.byte (v.word * 8 + j)
                  else s.scratch.byte (v.word * 8 + j))
          ∧ (∀ a, (a < v.word * 8 ∨ v.word * 8 + 8 ≤ a) → (v.settle own m).byte a = m.byte a))


/-! ### Scratchpad planes, moves, digests -/

/-- R130, R133: where cell (i, j) of a plane lies, and its bank; the cells of a plane row lie in 32 different banks, and so do those of
32 consecutive rows in one column. -/
def Obligations.PlaneBanks : Prop :=
  ∀ baseKb pitch i j : Nat, j < 32 →
    planeCell baseKb pitch i j = ((baseKb + i * pitch) * 1024 + (i + j) % 32 * 32) % 2 ^ 32
    ∧ bankOf (planeCell baseKb pitch i j) = (i + j) % 32
    ∧ (∀ j', j' < 32 → bankOf (planeCell baseKb pitch i j) = bankOf (planeCell baseKb pitch i j') → j = j')
    ∧ (∀ d d', d < 32 → d' < 32 →
        bankOf (planeCell baseKb pitch (i + d) j) = bankOf (planeCell baseKb pitch (i + d') j) → d = d')

/-- R58, R121, R125, R197: as its token completes, a byte-addressed msg.move has copied its count of bytes (FN 0) or written zeros (FN 1), and
dg.leaf has written the 32 bytes of the leaf digest of the 4,096 bytes at aA; every byte of every scratchpad outside the destination
is as before. The operation is the oldest of its unit, its sources are readable and its destination lies within the bound; nothing else changed
the words of the two while it was in flight, which R89 asks of every pattern. -/
def Obligations.MoveAndDigest : Prop :=
  ∀ (c tok : Nat) (s : State) (o : UOp), s.isRunning c = true → s.paused (chanOf c) = false → (s.core c).ready tok = some o →
    (s.core c).posted.get none tok = none →
    (o.kind = .move → aPlane o.aD = false → aPlane o.aA = false → o.fn ≤ 1 →
      (o.fn = 0 → Readable s c (aOff o.aA) (o.c0.toNat % 2 ^ 22)) →
      aOff o.aD + o.c0.toNat % 2 ^ 22 ≤ s.bound c (s.active c) →
      (o.fn = 0 → Undisturbed s c tok (aOff o.aA) (o.c0.toNat % 2 ^ 22)) → Undisturbed s c tok (aOff o.aD) (o.c0.toNat % 2 ^ 22) →
      ∃ t, Machine.exec (.tokenCompletion c tok) s = .next t
        ∧ (∀ j, j < o.c0.toNat % 2 ^ 22 → t.scratch.byte (cellKey c (s.phys c (s.active c) (aOff o.aD)) + j)
            = if o.fn = 0 then s.scratch.byte (cellKey c (s.phys c (s.active c) (aOff o.aA)) + j) else 0#8)
        ∧ (∀ a, (a < cellKey c (s.phys c (s.active c) (aOff o.aD))
              ∨ cellKey c (s.phys c (s.active c) (aOff o.aD)) + o.c0.toNat % 2 ^ 22 ≤ a) →
            t.scratch.byte a = s.scratch.byte a)
        ∧ (t.slot c (s.active c)).tokPending tok = false)
    ∧ (o.kind = .leaf → aPlane o.aD = false → aPlane o.aA = false → Readable s c (aOff o.aA) 4096 →
      aOff o.aD + 32 ≤ s.bound c (s.active c) →
      Undisturbed s c tok (aOff o.aA) 4096 → Undisturbed s c tok (aOff o.aD) 32 →
      ∃ t, Machine.exec (.tokenCompletion c tok) s = .next t
        ∧ t.scratch.bytes (cellKey c (s.phys c (s.active c) (aOff o.aD))) 32
            = leafDigest o.c0.toNat o.c1.toNat (s.winBytes c (s.active c) (aOff o.aA) 4096)
        ∧ (∀ a, (a < cellKey c (s.phys c (s.active c) (aOff o.aD))
              ∨ cellKey c (s.phys c (s.active c) (aOff o.aD)) + 32 ≤ a) →
            t.scratch.byte a = s.scratch.byte a)
        ∧ (t.slot c (s.active c)).tokPending tok = false)

/-! ### Reduction trees, links and routes -/

/-- R180, R188: in the tree over L leaves, 1 ≤ L ≤ 2^24, every node that has no parent is the one that covers all leaves; every other node
has a parent that exists; and a parent has at most one child on each side. -/
def Sys2Proof.TreeParents : Prop :=
  ∀ (L : Nat) (x y : Node), 1 ≤ L → L ≤ 2 ^ 24 → x.exists L = true → y.exists L = true →
    (∀ p side, x.parent L = some (p, side) → p.exists L = true)
    ∧ (x.parent L = none → ∀ h, h ≤ 24 → 2 ^ h ≤ L → h ≤ x.l)
    ∧ (∀ p side, x.parent L = some (p, side) → y.parent L = some (p, side) → x = y)

/-- R258, R259: the far end of link j of chip c of a cluster is link 14 - j of the chip it goes to; the link between two chips of a cluster is
one link; the uplinks of two chips meet, and two clusters are joined by exactly one link. -/
def Sys2Proof.Wiring : Prop :=
  (∀ c j, c < 16 → j < 15 → linkPeer c j < 16 ∧ linkPeer c j ≠ c ∧ linkTo c (linkPeer c j) = j
    ∧ linkTo (linkPeer c j) c = 14 - j ∧ linkPeer (linkPeer c j) (14 - j) = c)
  ∧ (∀ a c, a < 17 → c < 16 → uplinkPeer a c < 17 ∧ uplinkPeer a c ≠ a ∧ uplinkPeer (uplinkPeer a c) (15 - c) = a)
  ∧ (∀ a b, a < 17 → b < 17 → a ≠ b → ∃ c, c < 16 ∧ uplinkPeer a c = b ∧ ∀ d, d < 16 → uplinkPeer a d = b → d = c)

/-- R260: a route between two chips has 1 to 3 hops, each of them an up link; it starts at the one and ends at the other; within a cluster
the direct link is taken when it is up. -/
def Sys2Proof.Routes : Prop :=
  ∀ (up : Nat → Nat → Bool) (src dst : Nat), src < 272 → dst < 272 → src ≠ dst →
    (∀ path, routeOf up src dst = some path →
      1 ≤ path.length ∧ path.length ≤ 3 ∧ (∀ h ∈ path, up h.1 h.2 = true)
      ∧ path.head?.map Prod.fst = some src ∧ path.getLast?.map Prod.snd = some dst
      ∧ (∀ i h g, path[i]? = some h → path[i + 1]? = some g → h.2 = g.1))
    ∧ (src / 16 = dst / 16 → up src dst = true → routeOf up src dst = some [(src, dst)])

/-- 3 claims together: TreeParents, Wiring, Routes. -/
def Obligations.TreesWiringRoutes : Prop := Sys2Proof.TreeParents ∧ Sys2Proof.Wiring ∧ Sys2Proof.Routes

/-! ### Signals, waits and sync objects -/

/-- R55, R56, R123, R242: sy.signal with a COMPLETE token goes in flight with its operands captured and its token becomes PENDING; with
a PENDING token it waits; one whose handle is out of reach never leaves and faults SYNC_REFUSED, imprecisely, under its token. -/
def Sys2Proof.SignalLeaves : Prop :=
  ∀ (c : Nat) (f : FmtU1) (s : State), s.Executes c (f.word 47#6) →
    ((s.bank c).tokPending f.tok.toNat = true →
      ∃ t, Machine.exec (.sySignal c f) s = .next t ∧ t.slot c (s.active c) = s.bank c ∧ s.CoreFrame c (s.active c) t
        ∧ s.SameScratch t)
    ∧ ((s.bank c).tokPending f.tok.toNat = false →
      s.handleTo ((s.bank c).s f.sC.toNat).toNat (s.part ((s.bank c).owner.getD (0, 0)).1).chmask ≠ .refused →
      ∃ t, Machine.exec (.sySignal c f) s = .next t
        ∧ (t.core c).ops = (s.core c).ops ++ [captureU1 .signal f (s.bank c)]
        ∧ (∀ n, (t.slot c (s.active c)).tokPending n = (decide (n = f.tok.toNat) || (s.bank c).tokPending n))
        ∧ (∀ j, (t.slot c (s.active c)).s j = (s.bank c).s j ∧ (t.slot c (s.active c)).a j = (s.bank c).a j
          ∧ (t.slot c (s.active c)).p j = (s.bank c).p j)
        ∧ (s.bank c).MovedOn (t.slot c (s.active c)) ∧ s.SameScratch t)
    ∧ ((s.bank c).tokPending f.tok.toNat = false →
      s.handleTo ((s.bank c).s f.sC.toNat).toNat (s.part ((s.bank c).owner.getD (0, 0)).1).chmask = .refused →
      s.Clean c → captureU1 .signal f (s.bank c) ∉ (s.core c).ops →
      ∃ t, Machine.exec (.sySignal c f) s = .next t ∧ (t.core c).ops = (s.core c).ops.filter (fun q => !q.kind.ofArray)
        ∧ t.fld (R.CORE_CTX_FAULT (chanOf c) (posOf c) (s.active c)) F.CORE_CTX_FAULT_CLASS = 7
        ∧ t.bit (R.CORE_CTX_FAULT (chanOf c) (posOf c) (s.active c)) F.CORE_CTX_FAULT_PRECISE = false
        ∧ t.fld (R.CORE_CTX_FAULT (chanOf c) (posOf c) (s.active c)) F.CORE_CTX_FAULT_TOKEN = f.tok.toNat
        ∧ s.SameScratch t)

/-- R72, R105, R242, R248: sy.wait on an object of this chip sends its wait to the object and stalls, its bank unchanged; on a handle out
of reach, or an object of another cluster, it faults SYNC_REFUSED. A release gives s[sD] its status and the sequencer goes on; a
stall that reaches the limit faults WAIT_LIMIT and s[sD] stays. -/
def Sys2Proof.CoreWaits : Prop :=
  ∀ (c : Nat) (s : State),
    (∀ (f : FmtW) (h obj : Nat), s.Executes c (f.word 25#6) → h = ((s.bank c).s f.sH.toNat).toNat →
      s.handleTo h (s.part ((s.bank c).owner.getD (0, 0)).1).chmask = .here obj →
      ∃ t, Machine.exec (.syWait c f) s = .next t
        ∧ (t.core c).wait = .sync s.noc.nextId h f.sD.toNat (s.bank c).pc f.kind.toNat
        ∧ (∃ o, t.noc.syncOps = s.noc.syncOps ++ [o] ∧ o.kind = f.kind.toNat ∧ o.obj = obj
          ∧ o.arg = ((s.bank c).s ((f.sH.toNat + 1) % 32)).toNat ∧ o.who = .wait c s.noc.nextId)
        ∧ t.slot c (s.active c) = s.bank c ∧ s.SameScratch t)
    ∧ (∀ (f : FmtW) (h : Nat), s.Executes c (f.word 25#6) → h = ((s.bank c).s f.sH.toNat).toNat → s.Clean c →
      (s.handleTo h (s.part ((s.bank c).owner.getD (0, 0)).1).chmask = .refused
        ∨ ∃ chip obj, s.handleTo h (s.part ((s.bank c).owner.getD (0, 0)).1).chmask = .far chip obj ∧ chip / 16 ≠ s.own / 16) →
      ∃ t, Machine.exec (.syWait c f) s = .next t ∧ s.FaultsPrecisely c 7 0 t ∧ s.SameScratch t)
    ∧ (∀ i id h sD pc kind r, s.noc.releases[i]? = some r → r.who = .wait c id → (s.core c).wait = .sync id h sD pc kind →
      s.holds c = false → s.isRunning c = true → (s.core c).stopped = false →
      ∃ t, Machine.exec (.syncRelease i) s = .next t ∧ (t.core c).wait = .none
        ∧ (t.slot c (s.active c)).s sD = BitVec.ofNat 32 (r.code % 256)
        ∧ (s.bank c).Keeps (some sD) none none (t.slot c (s.active c))
        ∧ (t.slot c (s.active c)).pc = (loopNext pc (s.bank c).loops).1
        ∧ (t.slot c (s.active c)).loops = (loopNext pc (s.bank c).loops).2
        ∧ t.noc.releases = s.noc.releases.take i ++ s.noc.releases.drop (i + 1)
        ∧ s.SameBut [.cores, .noc, .parts] t)
    ∧ (∀ id h sD kind, (s.core c).wait = .sync id h sD (s.bank c).pc kind → s.isRunning c = true → (s.core c).stopped = false →
      s.paused (chanOf c) = false →
      s.fld (R.CORE_CTX_WAITLIM (chanOf c) (posOf c) (s.active c)) F.CORE_CTX_WAITLIM_LIMIT ≠ 0 → s.Clean c →
      ∃ t, Machine.exec (.waitLimit c) s = .next t ∧ s.FaultsPrecisely c 9 0 t ∧ (t.core c).wait = .none ∧ s.SameScratch t)

/-- 2 claims together: SignalLeaves, CoreWaits. -/
def Obligations.SignalsLeaveAndCoresWait : Prop := Sys2Proof.SignalLeaves ∧ Sys2Proof.CoreWaits

/-- A sync operation at index `i` of those on their way whose object is enabled and belongs to its job's partition, on a channel whose clock
runs (R242, R243, R406). -/
structure Sys2Proof.Addressed (s : State) (i : Nat) (o : SyncOp) (p : Nat) : Prop where
  at_ : s.noc.syncOps[i]? = some o
  job : s.partOfJob o.job = some p
  owns : (s.part p).owns (o.obj / 16384) = true
  enabled : s.bit (cfgReg o.obj) F.SYNC_CFG_EN = true
  clock : s.paused (o.obj / 16384) = false

/-- R312: no running step may be withdrawn, so that a wait starts no share donation. -/
def Sys2Proof.NoDonation (s : State) : Prop :=
  ∀ q x, q < 4 → (s.part q).cur = some x → (s.ctx q x).withdrawable = false

/-- Only VALUE, STAT and HOLDER of one object change among the registers, and beside registers only the network, the undo records and
the trace. -/
def Sys2Proof.OnlyObject (obj : Nat) (s t : State) : Prop :=
  s.SameRegs [valReg obj, sstatReg obj, holdReg obj] t ∧ s.SameBut [.regs, .noc, .parts, .trc] t

/-- R243-R245: a signal with argument a reaches an enabled object. SEM: VALUE + a, saturating with OVF, HVALID cleared when the holder
signals, and the head of the queue released when the VALUE suffices. BAR: arrivals; at PARTIES the waiters are released, VALUE wraps and GEN
counts. EVT: VALUE = a[0], and the head released when it is set. -/
def Sys2Proof.SyncSignals : Prop :=
  ∀ (s : State) (i : Nat) (o : SyncOp) (p : Nat), Addressed s i o p → o.kind = 3 →
    (s.fld (cfgReg o.obj) F.SYNC_CFG_KIND = 0 → s.queue o.obj = [] →
      ∃ t, Machine.exec (.syncOperationArrival i) s = .next t
        ∧ (t.rd (valReg o.obj)).toNat = min ((s.rd (valReg o.obj)).toNat + o.arg) (2 ^ 32 - 1)
        ∧ (2 ^ 32 ≤ (s.rd (valReg o.obj)).toNat + o.arg → t.bit (sstatReg o.obj) F.SYNC_STAT_OVF = true)
        ∧ (o.hold = some (normHold (s.rd (holdReg o.obj)).toNat) → t.bit (holdReg o.obj) F.SYNC_HOLDER_HVALID = false)
        ∧ OnlyObject o.obj s t)
    ∧ (s.fld (cfgReg o.obj) F.SYNC_CFG_KIND = 0 → ∀ w, s.queue o.obj = [w] →
      w.arg ≤ (s.rd (valReg o.obj)).toNat + o.arg → (s.rd (valReg o.obj)).toNat + o.arg < 2 ^ 32 →
      ∃ t, Machine.exec (.syncOperationArrival i) s = .next t
        ∧ (t.rd (valReg o.obj)).toNat + w.arg = (s.rd (valReg o.obj)).toNat + o.arg ∧ t.queue o.obj = []
        ∧ t.noc.releases = s.noc.releases ++ [⟨w.who, 0, o.obj⟩]
        ∧ (∀ h, w.hold = some h → w.arg ≠ 0 → t.rd (holdReg o.obj) = BitVec.ofNat 32 h) ∧ OnlyObject o.obj s t)
    ∧ (s.fld (cfgReg o.obj) F.SYNC_CFG_KIND = 1 → ∀ n, s.fld (cfgReg o.obj) F.SYNC_CFG_PARTIES = n →
      (s.rd (valReg o.obj)).toNat < n →
      ∃ t, Machine.exec (.syncOperationArrival i) s = .next t
        ∧ (t.rd (valReg o.obj)).toNat = ((s.rd (valReg o.obj)).toNat + o.arg) % n
        ∧ t.fld (sstatReg o.obj) F.SYNC_STAT_GEN
          = (s.fld (sstatReg o.obj) F.SYNC_STAT_GEN + ((s.rd (valReg o.obj)).toNat + o.arg) / n) % 2 ^ 16
        ∧ (n ≤ (s.rd (valReg o.obj)).toNat + o.arg → t.queue o.obj = []
          ∧ t.noc.releases = s.noc.releases ++ (s.queue o.obj).map (fun w => ⟨w.who, 0, o.obj⟩))
        ∧ ((s.rd (valReg o.obj)).toNat + o.arg < n → t.queue o.obj = s.queue o.obj ∧ t.noc.releases = s.noc.releases)
        ∧ OnlyObject o.obj s t)
    ∧ (s.fld (cfgReg o.obj) F.SYNC_CFG_KIND = 2 → s.queue o.obj = [] →
      ∃ t, Machine.exec (.syncOperationArrival i) s = .next t
        ∧ (t.rd (valReg o.obj)).toNat = o.arg % 2 ∧ OnlyObject o.obj s t)
    ∧ (s.fld (cfgReg o.obj) F.SYNC_CFG_KIND = 2 → ∀ w, s.queue o.obj = [w] → o.arg % 2 = 1 →
      ∃ t, Machine.exec (.syncOperationArrival i) s = .next t
        ∧ (t.rd (valReg o.obj)).toNat = 1 - w.arg % 2 ∧ t.queue o.obj = []
        ∧ t.noc.releases = s.noc.releases ++ [⟨w.who, 0, o.obj⟩] ∧ OnlyObject o.obj s t)

/-- R243, R246, R247: a wait reaches an enabled object while no donation can start (R312 is told apart). It is released at once when the
object admits it, with code 0, or when it does not match the object's KIND (MISMATCH, 3) or the object is abandoned (1); else it is
queued and nothing else changes. R246 releases every new wait of an abandoned object with ABANDONED at once; that one of another KIND gets
MISMATCH there is the model's choice (log entry 41). -/
def Sys2Proof.SyncWaits : Prop :=
  ∀ (s : State) (i : Nat) (o : SyncOp) (p : Nat), Addressed s i o p → NoDonation s → o.kind < 3 →
    (o.kind ≠ s.fld (cfgReg o.obj) F.SYNC_CFG_KIND →
      ∃ t, Machine.exec (.syncOperationArrival i) s = .next t
        ∧ t.noc.releases = s.noc.releases ++ [⟨o.who, 3, o.obj⟩] ∧ s.SameBut [.noc, .trc] t)
    ∧ (o.kind = s.fld (cfgReg o.obj) F.SYNC_CFG_KIND → s.bit (sstatReg o.obj) F.SYNC_STAT_ABANDONED = true →
      ∃ t, Machine.exec (.syncOperationArrival i) s = .next t
        ∧ t.noc.releases = s.noc.releases ++ [⟨o.who, 1, o.obj⟩] ∧ s.SameBut [.noc, .trc] t)
    ∧ (o.kind = s.fld (cfgReg o.obj) F.SYNC_CFG_KIND → s.bit (sstatReg o.obj) F.SYNC_STAT_ABANDONED = false →
        s.queue o.obj = [] →
      (o.kind = 0 → o.arg ≤ (s.rd (valReg o.obj)).toNat →
        ∃ t, Machine.exec (.syncOperationArrival i) s = .next t
          ∧ (t.rd (valReg o.obj)).toNat + o.arg = (s.rd (valReg o.obj)).toNat
          ∧ t.noc.releases = s.noc.releases ++ [⟨o.who, 0, o.obj⟩]
          ∧ (∀ h, o.hold = some h → o.arg ≠ 0 → t.rd (holdReg o.obj) = BitVec.ofNat 32 h)
          ∧ (o.hold = none ∨ o.arg = 0 → t.rd (holdReg o.obj) = s.rd (holdReg o.obj)) ∧ OnlyObject o.obj s t)
      ∧ (o.kind = 2 → s.rd (valReg o.obj) = 1#32 →
        ∃ t, Machine.exec (.syncOperationArrival i) s = .next t
          ∧ (t.rd (valReg o.obj)).toNat = 1 - o.arg % 2
          ∧ t.noc.releases = s.noc.releases ++ [⟨o.who, 0, o.obj⟩] ∧ OnlyObject o.obj s t)
      ∧ (o.kind = 0 ∧ (s.rd (valReg o.obj)).toNat < o.arg ∨ o.kind = 2 ∧ s.rd (valReg o.obj) ≠ 1#32 →
        ∃ t, Machine.exec (.syncOperationArrival i) s = .next t
          ∧ t.queue o.obj = [⟨o.kind, o.arg, o.who, o.hold⟩] ∧ t.noc.releases = s.noc.releases
          ∧ s.SameRegs [] t ∧ s.SameBut [.noc, .trc] t))
    ∧ (o.kind = 1 → s.fld (cfgReg o.obj) F.SYNC_CFG_KIND = 1 → s.bit (sstatReg o.obj) F.SYNC_STAT_ABANDONED = false →
      ∀ n, s.fld (cfgReg o.obj) F.SYNC_CFG_PARTIES = n → (s.rd (valReg o.obj)).toNat < n →
      ∃ t, Machine.exec (.syncOperationArrival i) s = .next t
        ∧ (t.rd (valReg o.obj)).toNat = ((s.rd (valReg o.obj)).toNat + 1) % n
        ∧ ((s.rd (valReg o.obj)).toNat + 1 < n → t.queue o.obj = s.queue o.obj ++ [⟨1, o.arg, o.who, o.hold⟩])
        ∧ ((s.rd (valReg o.obj)).toNat + 1 = n → t.queue o.obj = []
          ∧ t.noc.releases = s.noc.releases ++ (s.queue o.obj ++ [(⟨1, o.arg, o.who, o.hold⟩ : Waiter)]).map (fun w => (⟨w.who, 0, o.obj⟩ : Release)))
        ∧ OnlyObject o.obj s t)

/-- 2 claims together: SyncSignals, SyncWaits. -/
def Obligations.SyncSignalsAndWaits : Prop := Sys2Proof.SyncSignals ∧ Sys2Proof.SyncWaits

/-- R246, R250, R505: a change of EN, KIND or PARTIES by a requester that reaches the channel, its domain powered and out of reset, resets the object, its waiters released with RESET (4);
a forbidden value, a foreign VF and a gated or held channel change nothing. A write of VALUE gives it the value. A teardown notice abandons the objects that the context of the
other chip holds: ABANDONED is set and their queues empty. -/
def Obligations.SyncRegisters : Prop :=
  ∀ (s : State) (req ch i : Nat) (v : Word), ch < 4 → i < 16384 →
    (s.mayChan req ch = true → s.regTakes (R.SYNC_CFG ch i) = true → getF v F.SYNC_CFG_KIND ≠ 3 →
      (getF v F.SYNC_CFG_KIND = 1 → getF v F.SYNC_CFG_PARTIES ≠ 0) → v &&& 0xE000FFFF#32 ≠ s.rd (R.SYNC_CFG ch i) →
      ∃ t, Machine.exec (.syncCfgChange req ch i v) s = .next t
        ∧ t.rd (R.SYNC_CFG ch i) = v &&& 0xE000FFFF#32 ∧ t.rd (R.SYNC_VALUE ch i) = 0#32
        ∧ t.fld (R.SYNC_STAT ch i) F.SYNC_STAT_GEN = 0 ∧ t.bit (R.SYNC_STAT ch i) F.SYNC_STAT_ABANDONED = false
        ∧ t.bit (R.SYNC_HOLDER ch i) F.SYNC_HOLDER_HVALID = false ∧ t.queue (ch * 16384 + i) = []
        ∧ t.noc.releases = s.noc.releases ++ (s.queue (ch * 16384 + i)).map (fun w => ⟨w.who, 4, ch * 16384 + i⟩)
        ∧ s.SameRegs [R.SYNC_CFG ch i, R.SYNC_VALUE ch i, R.SYNC_STAT ch i, R.SYNC_HOLDER ch i] t ∧ s.SameBut [.regs, .noc] t)
    ∧ ((s.mayChan req ch = false ∨ s.regTakes (R.SYNC_CFG ch i) = false ∨ getF v F.SYNC_CFG_KIND = 3
        ∨ getF v F.SYNC_CFG_KIND = 1 ∧ getF v F.SYNC_CFG_PARTIES = 0) →
      Machine.exec (.syncCfgChange req ch i v) s = .next s)
    ∧ (s.mayChan req ch = true → s.regTakes (R.SYNC_VALUE ch i) = true → s.queue (ch * 16384 + i) = [] →
      (s.fld (R.SYNC_CFG ch i) F.SYNC_CFG_KIND = 1 → v.toNat < s.fld (R.SYNC_CFG ch i) F.SYNC_CFG_PARTIES) →
      ∃ t, Machine.exec (.syncValueWrite req ch i v) s = .next t ∧ t.rd (R.SYNC_VALUE ch i) = v
        ∧ s.SameRegs [R.SYNC_VALUE ch i] t ∧ s.SameBut [.regs, .noc, .parts] t)
    ∧ (∀ n job ctx chip p obj, s.noc.notices[n]? = some (job, ctx, chip) → s.partOfJob job = some p →
      chip / 16 = s.own / 16 → (s.part p).owns (obj / 16384) = true → obj < 65536 →
      normHold (s.rd (holdReg obj)).toNat = holdWord true (chip % 16) ctx →
      ∃ t, Machine.exec (.teardownNotice n) s = .next t ∧ t.bit (sstatReg obj) F.SYNC_STAT_ABANDONED = true
        ∧ t.queue obj = [] ∧ t.noc.notices = s.noc.notices.take n ++ s.noc.notices.drop (n + 1)
        ∧ (∀ a, (∀ o, a ≠ sstatReg o) → t.rd a = s.rd a) ∧ s.SameBut [.regs, .noc] t)

/-! ### Faults that stop a core, the end of a part -/

/-- R64, R66, R85, R94: an ILLEGAL word at the pc faults with class ILLEGAL (4); a pc at or beyond the bound with FETCH_WINDOW (1); the bytes of
a missing line that lies within the bound and holds no uncorrectable word arrive in the instruction buffer. A core that has stopped ends
its part: nothing is in flight, its tokens COMPLETE, its loops disarmed. -/
def Obligations.FetchAndStop : Prop :=
  ∀ (c : Nat) (s : State),
    (∀ w, s.Fetches c w → illegalWord w = true → s.Clean c →
      ∃ t, Machine.exec (.illegalEncoding c) s = .next t ∧ s.FaultsPrecisely c 4 0 t ∧ s.SameScratch t)
    ∧ (s.canIssue c = true → s.bound c (s.active c) ≤ (s.bank c).pc → s.Clean c →
      ∃ t, Machine.exec (.fetchMiss c) s = .next t ∧ s.FaultsPrecisely c 1 0 t ∧ s.SameScratch t)
    ∧ (∀ ln n, s.canIssue c = true → (s.bank c).pc < s.bound c (s.active c) → ln = (s.bank c).pc / 1024 →
      (s.core c).line ln = none → n = min 1024 (s.bound c (s.active c) - ln * 1024) →
      (∀ a ∈ wordsOf (ln * 1024) n, FMap.get false s.ue (wordKey c (s.phys c (s.active c) a)) = false) →
      ∃ t l, Machine.exec (.fetchMiss c) s = .next t ∧ (t.core c).line ln = some l
        ∧ (∀ j, j < n → l.data.byte j = s.scratch.byte (cellKey c (s.phys c (s.active c) (ln * 1024)) + j))
        ∧ t.slot c (s.active c) = s.bank c ∧ s.CoreFrame c (s.active c) t ∧ s.SameScratch t)
    ∧ (∀ p x, s.isRunning c = true → (s.core c).stopped = true → s.paused (chanOf c) = false → (s.bank c).owner = some (p, x) →
      ∃ t, Machine.exec (.corePartStopped c) s = .next t ∧ t.isRunning c = false
        ∧ (t.core c).ops = [] ∧ (t.core c).wait = .none ∧ (t.slot c (s.active c)).loops = []
        ∧ (t.slot c (s.active c)).pend = 0 ∧ c ∉ (t.ctx p x).stopWait ∧ s.SameScratch t)

/-! ### Messages and reports -/

/-- A message at index `i`, come whole, the oldest of its sender to its destination, for a core that no migration moves and whose
clock runs, in byte form and without a signal (R234, R239, R241, R456). -/
structure Sys2Proof.Plain (s : State) (i : Nat) (m : Msg) : Prop where
  at_ : s.noc.msgs[i]? = some m
  oldest : msgBehind s.own s.noc.msgs i m = false
  whole : m.at_ = none ∧ m.done = 0 ∧ m.data.length = m.total
  still : s.holds (bitsOf m.w0.toNat 9 0) = false
  core : bitsOf m.w0.toNat 31 28 = 0
  bytes : bitOf m.w1.toNat 31 = false
  noSignal : bitOf m.w2.toNat 31 = false
  home : m.src = s.own

/-- R236, R237: a message for a core is checked as a whole. One that passes has its bytes written into the context's window, in order,
and reports 0 to its sender; a refused one writes nothing and reports its code: NO_JOB 1, NO_CONTEXT 2, ZEROING 3, BOUND 4, in that
order. The message leaves the network. -/
def Sys2Proof.Messages : Prop :=
  ∀ (s : State) (i d : Nat) (m : Msg), Plain s i m → d = bitsOf m.w0.toNat 9 0 →
    (∀ p k, s.partOfJob m.job = some p → (s.part p).owns (d / 256) = true → s.slotOf d p m.ctx = some k → s.zeroing d k = false →
      (bitsOf m.w1.toNat 21 0 + m.data.length ≤ s.bound d k →
        ∃ t, Machine.exec (.messageArrival i) s = .next t
          ∧ t.scratch.bytes (cellKey d (s.phys d k (bitsOf m.w1.toNat 21 0))) m.data.length = m.data
          ∧ s.SameBytes [(cellKey d (s.phys d k (bitsOf m.w1.toNat 21 0)), m.data.length)] t
          ∧ t.noc.reports = s.noc.reports ++ [⟨m.id, 0, false⟩]
          ∧ t.noc.msgs = s.noc.msgs.take i ++ s.noc.msgs.drop (i + 1)
          ∧ s.SameBut [.scratch, .words, .ue, .ce, .cores, .noc, .trc] t)
      ∧ (s.bound d k < bitsOf m.w1.toNat 21 0 + m.data.length → m.data ≠ [] →
        ∃ t, Machine.exec (.messageArrival i) s = .next t ∧ t.noc.reports = s.noc.reports ++ [⟨m.id, 4, false⟩]
          ∧ t.noc.msgs = s.noc.msgs.take i ++ s.noc.msgs.drop (i + 1) ∧ s.SameBut [.noc, .trc] t))
    ∧ (∀ e, (s.partOfJob m.job = none ∨ ∃ p, s.partOfJob m.job = some p ∧ (s.part p).owns (d / 256) = false) ∧ e = 1
          ∨ (∃ p, s.partOfJob m.job = some p ∧ (s.part p).owns (d / 256) = true ∧ s.slotOf d p m.ctx = none) ∧ e = 2
          ∨ (∃ p k, s.partOfJob m.job = some p ∧ (s.part p).owns (d / 256) = true ∧ s.slotOf d p m.ctx = some k
              ∧ s.zeroing d k = true) ∧ e = 3 →
        ∃ t, Machine.exec (.messageArrival i) s = .next t ∧ t.noc.reports = s.noc.reports ++ [⟨m.id, e, false⟩]
          ∧ t.noc.msgs = s.noc.msgs.take i ++ s.noc.msgs.drop (i + 1) ∧ s.SameBut [.noc, .trc] t)

/-- R81, R84, R237, R242: a report settles what its sender awaits; one that carries a refusal faults the context, imprecisely, with the pc,
address and token of the operation: MSG_REFUSED (8) for a message, SYNC_REFUSED (7) for a signal. -/
def Sys2Proof.DeliveryReports : Prop :=
  ∀ (s : State) (i : Nat) (r : Report) (a : Await), s.noc.reports[i]? = some r → s.noc.awaits.find? (fun a => a.id == r.id) = some a →
    s.reportHeld r = false →
    (r.code = 0 ∨ a.settles = true ∧ r.code < 256 →
      ∃ t, Machine.exec (.deliveryReport i) s = .next t ∧ t.noc.awaits = s.noc.awaits.filter (fun b => b.id != a.id)
        ∧ t.noc.reports = s.noc.reports.take i ++ s.noc.reports.drop (i + 1) ∧ s.SameBut [.noc] t)
    ∧ (∀ k, a.settles = false → r.code ≠ 0 → r.code < 256 → s.slotOf a.core a.part a.ctx = some k → s.hasFaulted a.core k = false →
      ∃ t, Machine.exec (.deliveryReport i) s = .next t ∧ t.noc.awaits = s.noc.awaits.filter (fun b => b.id != a.id)
        ∧ t.bit (R.CORE_CTX_FAULT (chanOf a.core) (posOf a.core) k) F.CORE_CTX_FAULT_VALID = true
        ∧ t.fld (R.CORE_CTX_FAULT (chanOf a.core) (posOf a.core) k) F.CORE_CTX_FAULT_CLASS = (if r.sync then 7 else 8)
        ∧ t.bit (R.CORE_CTX_FAULT (chanOf a.core) (posOf a.core) k) F.CORE_CTX_FAULT_PRECISE = false
        ∧ t.bit (R.CORE_CTX_FAULT (chanOf a.core) (posOf a.core) k) F.CORE_CTX_FAULT_TOKEN_VALID = a.tok.isSome
        ∧ t.fld (R.CORE_CTX_FPC (chanOf a.core) (posOf a.core) k) F.CORE_CTX_FPC_FPC = bitsOf a.pc 21 2
        ∧ t.rd (R.CORE_CTX_FADDR (chanOf a.core) (posOf a.core) k) = BitVec.ofNat 32 a.faddr
        ∧ (r.sync = false → (t.slot a.core k).refusal = r.code) ∧ s.SameScratch t)

/-- 2 claims together: Messages, DeliveryReports. -/
def Obligations.MessagesAndReports : Prop := Sys2Proof.Messages ∧ Sys2Proof.DeliveryReports

/-! ### The canonical reduction network -/

/-- R189, R192: a child of a live context whose node has a parent in its tree arrives at its parent's home. Its side is free: it is held,
reported 0. Its sibling is held: both are gone from the port, and the parent, left operand first, goes on; a parent that is the root of a tree
whose destination is on this chip sets out for it. -/
def Sys2Proof.ReductionMeets : Prop :=
  ∀ (s : State) (i : Nat) (c : Child) (e : TreeEntry) (pn : Node) (side : Bool), s.noc.children[i]? = some c →
    s.ctxGone c.part c.ctx = false → s.holds c.dst = false →
    s.treeEntry c.part c.ctx c.tree = some e → e.valid = true → c.node.parent e.L = some (pn, side) → c.chip = s.own →
    s.noc.heldCr.any (sibling c pn side) = false →
    (s.noc.heldCr.any (sibling c pn (!side)) = false → (s.noc.heldCr.filter (fun h => h.core == c.dst)).length < 64 →
      ∃ t, Machine.exec (.crChildArrival i) s = .next t ∧ t.noc.heldCr = s.noc.heldCr ++ [⟨c.dst, pn, side, c, false⟩]
        ∧ t.noc.children = s.noc.children.take i ++ s.noc.children.drop (i + 1)
        ∧ s.SameRegs [R.CR_STAT (c.dst / 256)] t ∧ s.SameBut [.regs, .noc] t)
    ∧ (∀ h, s.noc.heldCr.find? (sibling c pn (!side)) = some h → pn.parent e.L = none → e.dchip = s.own % 16 →
      ∃ t r, Machine.exec (.crChildArrival i) s = .next t ∧ t.noc.roots = s.noc.roots ++ [r]
        ∧ r.child.node = pn ∧ r.child.dst = e.dcore ∧ r.child.tree = c.tree ∧ r.child.inst = c.inst ∧ r.child.part = c.part
        ∧ r.child.ctx = c.ctx ∧ r.daddr = e.daddr + c.inst * e.dstride * 32 ∧ r.dsync = e.dsync
        ∧ r.child.val = (if side then combine e.fn h.child.val c.val else combine e.fn c.val h.child.val)
        ∧ t.noc.heldCr = s.noc.heldCr.filter (fun q => q != h)
        ∧ t.noc.children = s.noc.children.take i ++ s.noc.children.drop (i + 1) ∧ s.SameBut [.noc] t)

/-- R190, R236: a root is checked and written into its window as a message is; DSYNC is signalled once its bytes are there: here a semaphore
of this chip with nobody waiting, which gains 1. A refused root writes nothing and reports its code. -/
def Sys2Proof.RootsDelivered : Prop :=
  ∀ (s : State) (i a : Nat) (r : Root) (c : Child), s.noc.roots[i]? = some r → c = r.child → a = r.daddr → c.chip = s.own → c.val ≠ [] →
    (s.ctx c.part c.ctx).state ≠ .teardown → s.holds c.dst = false → (s.part c.part).owns (c.dst / 256) = true →
    (∀ k obj, s.slotOf c.dst c.part c.ctx = some k → s.zeroing c.dst k = false → a + c.val.length ≤ s.bound c.dst k →
      s.handleFrom c.chip r.dsync (s.part c.part).chmask = .here obj → s.bit (cfgReg obj) F.SYNC_CFG_EN = true →
      s.fld (cfgReg obj) F.SYNC_CFG_KIND = 0 → s.queue obj = [] →
      ∃ t, Machine.exec (.rootDelivery i) s = .next t
        ∧ t.scratch.bytes (cellKey c.dst (s.phys c.dst k a)) c.val.length = c.val
        ∧ s.SameBytes [(cellKey c.dst (s.phys c.dst k a), c.val.length)] t
        ∧ (t.rd (valReg obj)).toNat = min ((s.rd (valReg obj)).toNat + 1) (2 ^ 32 - 1)
        ∧ t.noc.reports = s.noc.reports ++ [⟨c.id, 0, false⟩]
        ∧ t.noc.roots = s.noc.roots.take i ++ s.noc.roots.drop (i + 1))
    ∧ (∀ k, s.slotOf c.dst c.part c.ctx = some k → s.zeroing c.dst k = false → s.bound c.dst k < a + c.val.length →
      ∃ t, Machine.exec (.rootDelivery i) s = .next t ∧ t.noc.reports = s.noc.reports ++ [⟨c.id, 4, false⟩]
        ∧ t.noc.roots = s.noc.roots.take i ++ s.noc.roots.drop (i + 1) ∧ s.SameBut [.noc] t)

/-- 2 claims together: ReductionMeets, RootsDelivered. -/
def Obligations.Reductions : Prop := Sys2Proof.ReductionMeets ∧ Sys2Proof.RootsDelivered

/-! ### Attention commands -/

/-- The ranges of window bytes a command of a kind writes as it works (R216, R226, R231): (core, slot, first byte, count). The work areas of its
cores, whose content the spec leaves open, are among them. -/
def Sys2Proof.attnWrites (s : State) (m : AttnCmd) (k : Nat) : List (Nat × Nat × Nat × Nat) :=
  let a := AttnRec.ofBytes m.recd
  let near := (s.pagesOf m).filter (fun g => g.chip == s.own % 16)
  let at_ (g : Page) : Nat := (s.slotOf g.core m.part m.ctx).getD 0
  (s.attnCores m.lead (s.pagesOf m)).map (fun c => (c, (s.slotOf c m.part m.ctx).getD 0, a.work * 1024, 65536)) ++
  match a.kind with
  | 0 => near.map (fun g => (g.core, at_ g, g.slot * 1024, (s.pageForm m.part m.ctx a).kib * 1024))
  | 1 => [(m.lead, k, a.o, if a.outBf16 then a.rows * (2 * a.D) else a.rows * (4 * a.D))]
      ++ (if a.save then [(m.lead, k, a.st, 8 * a.rows)] else [])
  | _ => [(m.lead, k, a.dq, a.rows * (4 * a.D))]
      ++ near.map (fun g => (g.core, at_ g, (g.slot + a.goff) * 1024, a.D / 2 * 1024))

/-- A command at index `i` of the posted ones that has started and passed its check, that every core it needs waits for, none of them held, whose pages,
ranges and work areas lie in their windows, and before which no other command accumulates into one of its gradient regions (R212, R216-R218, R231). -/
structure Sys2Proof.AttnReady (s : State) (i : Nat) (m : AttnCmd) (k : Nat) : Prop where
  at_ : s.noc.attn[i]? = some m
  started : m.started = true ∧ m.worked = false ∧ s.allStalled m = true
  lead : s.slotOf m.lead m.part m.ctx = some k
  ranges : ∀ r ∈ (AttnRec.ofBytes m.recd).ranges, r.1 + r.2 ≤ s.bound m.lead k
  blocks : (s.pagesOf m).length = (AttnRec.ofBytes m.recd).blocks.2
  free : s.attnHeld m = false
  pages : ∀ g ∈ s.pagesOf m, g.chip = s.own % 16 →
    s.inWindow m.part m.ctx g.core g.slot (s.pageForm m.part m.ctx (AttnRec.ofBytes m.recd)).kib = true
    ∧ ((AttnRec.ofBytes m.recd).kind = 2 →
      s.inWindow m.part m.ctx g.core (g.slot + (AttnRec.ofBytes m.recd).goff) ((AttnRec.ofBytes m.recd).D / 2) = true)
  work : ∀ c ∈ s.attnCores m.lead (s.pagesOf m), s.inWindow m.part m.ctx c (AttnRec.ofBytes m.recd).work 64 = true
  turn : ∀ b ∈ s.noc.attn.take i, s.sameRegion b m = false
  clean : s.ue = [] ∧ s.ce = []

/-- R216, R226, R231: a ready command of any kind does its work: it is marked done with its status as checked, no register changes, and no
byte outside what its kind writes: the pages of an append, O and ST of a forward, DQ and the gradient regions of a backward; and work areas. -/
def Sys2Proof.AttentionWork : Prop :=
  ∀ (s : State) (i : Nat) (m : AttnCmd) (k : Nat) (cmd : Instr), AttnReady s i m k →
    ((AttnRec.ofBytes m.recd).kind = 0 ∧ cmd = .attnAppend i ∨ (AttnRec.ofBytes m.recd).kind = 1 ∧ cmd = .attnFwd i
      ∨ (AttnRec.ofBytes m.recd).kind = 2 ∧ cmd = .attnBwd i) →
    ∃ t, Machine.exec cmd s = .next t ∧ t.noc.attn[i]? = some { m with worked := true } ∧ t.regs = s.regs
      ∧ s.SameBytes ((attnWrites s m k).map (fun r => (cellKey r.1 (s.phys r.1 r.2.1 r.2.2.1), r.2.2.2))) t
      ∧ s.SameBut [.scratch, .words, .cores, .noc, .parts, .fresh] t

/-- R217, R218: a posted command starts once the earlier ones of its channel have started and those on its page table have ended; a bad record
ends it with RECORD (1), a head without a placement with PLACEMENT (5). A command that has worked writes its 16-byte record at R and
leaves; DONE, here a semaphore of this chip with nobody waiting, gains 1. -/
def Sys2Proof.AttentionOrder : Prop :=
  ∀ (s : State) (i : Nat) (m : AttnCmd) (k : Nat), s.noc.attn[i]? = some m → s.slotOf m.lead m.part m.ctx = some k →
    (m.started = false → s.paused (m.lead / 256) = false →
      (s.noc.attn.take i).all (fun b => (b.lead / 256 != m.lead / 256 || b.started)
        && (b.part != m.part || (AttnRec.ofBytes b.recd).ptBase != (AttnRec.ofBytes m.recd).ptBase || b.worked)) = true →
      ∃ t m', Machine.exec (.attnCommandStart i) s = .next t ∧ t.noc.attn[i]? = some m' ∧ m'.started = true
        ∧ m'.recd = m.recd ∧ (m'.worked = true ↔ m'.status ≠ 0) ∧ s.SameBut [.noc, .parts, .fresh] t
        ∧ (s.recordBad m.recd m.lead k = true → m'.status = 1)
        ∧ (s.recordBad m.recd m.lead k = false → s.placement m.part m.ctx (AttnRec.ofBytes m.recd) = none → m'.status = 5))
    ∧ (∀ obj, m.worked = true → s.holds m.lead = false → (AttnRec.ofBytes m.recd).r + 16 ≤ s.bound m.lead k →
      s.handleTo (AttnRec.ofBytes m.recd).done (s.part m.part).chmask = .here obj → s.bit (cfgReg obj) F.SYNC_CFG_EN = true →
      s.fld (cfgReg obj) F.SYNC_CFG_KIND = 0 → s.queue obj = [] →
      ∃ t, Machine.exec (.attnCompletion i) s = .next t
        ∧ t.noc.attn = s.noc.attn.take i ++ s.noc.attn.drop (i + 1)
        ∧ t.scratch.bytes (cellKey m.lead (s.phys m.lead k (AttnRec.ofBytes m.recd).r)) 16
          = leBytes 4 (m.status % 2 ^ 16) ++ leBytes 4 m.snap.length ++ leBytes 4 m.failIdx ++ leBytes 4 s.tb2
        ∧ s.SameBytes [(cellKey m.lead (s.phys m.lead k (AttnRec.ofBytes m.recd).r), 16)] t
        ∧ (t.rd (valReg obj)).toNat = min ((s.rd (valReg obj)).toNat + 1) (2 ^ 32 - 1))

/-- 2 claims together: AttentionWork, AttentionOrder. -/
def Obligations.AttentionCommands : Prop := Sys2Proof.AttentionWork ∧ Sys2Proof.AttentionOrder

/-! ### Contexts and partitions -/

/-- The cores of a context's core set are cores of the chip, one record for each, and name slots that exist (R296). -/
def Sys2Proof.CoreSet (s : State) (p x : Nat) : Prop :=
  (∀ r ∈ (s.ctx p x).cores, r.core < 1024 ∧ r.slot < 4)
  ∧ ∀ r ∈ (s.ctx p x).cores, ∀ r' ∈ (s.ctx p x).cores, r.core = r'.core → r = r'

/-- R309: a group after its release: FREE, its generation incremented; of the entries that named it the model keeps none but some of those it
kept before. -/
structure Sys2Proof.GroupReleased (g h : PoolGroup) : Prop where
  place : h.slot = g.slot ∧ h.off = g.off
  free : h.st = .free ∧ h.hdim = 0
  gen : h.gen = (g.gen + 1) % 256
  kept : ∀ e ∈ h.entries, e ∈ g.entries

/-- R309: the groups of a pool that a test names are released; the others are as they were. -/
def Sys2Proof.PoolReleased (f : PoolGroup → Bool) (pool pool' : List PoolGroup) : Prop :=
  List.Forall₂ (fun g h => (f g = true → GroupReleased g h) ∧ (f g = false → h = g)) pool pool'

/-- R84, R85, R315: the fault event of a context starts its teardown: nothing of it is queued or runs, its attention commands and awaited
reports are gone, the fault is kept as the registers hold it; a fault of a context in teardown changes nothing more. A teardown that
does not end becomes a partition reset with cause 2 (R316). -/
def Sys2Proof.FaultTearsDown : Prop :=
  ∀ (s : State) (p x : Nat),
    (∀ c k, k < 4 → s.hasFaulted c k = true → (s.slot c k).owner = some (p, x) → (s.ctx p x).state ≠ .teardown →
      ∃ t f, Machine.exec (.contextFault c k) s = .next t ∧ (t.ctx p x).state = .teardown ∧ (t.ctx p x).queue = []
        ∧ (t.ctx p x).running = false ∧ (t.ctx p x).fault = some f ∧ f.core = c
        ∧ f.cls = s.fld (R.CORE_CTX_FAULT (chanOf c) (posOf c) k) F.CORE_CTX_FAULT_CLASS
        ∧ f.fpc = (s.rd (R.CORE_CTX_FPC (chanOf c) (posOf c) k)).toNat
        ∧ f.faddr = (s.rd (R.CORE_CTX_FADDR (chanOf c) (posOf c) k)).toNat
        ∧ (∀ a ∈ t.noc.attn, ¬(a.part = p ∧ a.ctx = x)) ∧ (∀ a ∈ t.noc.awaits, ¬(a.part = p ∧ a.ctx = x)) ∧ s.SameScratch t)
    ∧ (∀ c k, k < 4 → s.hasFaulted c k = true → (s.slot c k).owner = some (p, x) → (s.ctx p x).state = .teardown →
      Machine.exec (.contextFault c k) s = .next s)
    ∧ ((s.ctx p x).state = .teardown → (s.part p).configured = true → (s.part p).resetting = none →
      ∃ t, Machine.exec (.teardownTimeout p x) s = .next t ∧ (t.part p).resetting = some 2 ∧ (t.part p).discard = false
        ∧ (∀ y, y < 8 → (s.ctx p y).state ≠ .none → (t.ctx p y).state = .teardown ∧ (t.ctx p y).queue = []) ∧ s.SameScratch t)

/-- R315, R317: once every core has stopped and every window is zeroed, a teardown ends: the context's groups are FREE, their generations
incremented, and it is IDLE again with its virtual time, remainder and step count 0 and its engine time kept, its banks as at creation.
A partition reset ends so for every context, or discards the configuration. -/
def Sys2Proof.Recreation : Prop :=
  ∀ (s : State) (p x : Nat), p < 4 → x < 8 →
    ((s.ctx p x).state = .teardown → (s.part p).resetting = none → (s.ctx p x).stopWait = [] → s.ctxZeroing p x = false →
      (∀ ch ∈ (s.part p).chans, s.paused ch = false) →
      ∃ t, Machine.exec (.contextTeardownEnd p x) s = .next t ∧ (t.ctx p x).state = .idle ∧ (t.ctx p x).queue = []
        ∧ (t.ctx p x).vt = 0 ∧ (t.ctx p x).rem = 0 ∧ (t.ctx p x).steps = 0 ∧ (t.ctx p x).etime = (s.ctx p x).etime
        ∧ (t.ctx p x).cores = (s.ctx p x).cores
        ∧ PoolReleased (fun g => g.ownedBy x) (s.part p).pool (t.part p).pool
        ∧ (∀ r ∈ (s.ctx p x).cores, t.slot r.core r.slot = { Slot.init with owner := some (p, x) }) ∧ t.scratch = s.scratch)
    ∧ (∀ cause, (s.part p).resetting = some cause →
        (∀ c ∈ s.coresOf p, s.isRunning c = false ∧ s.fld (statReg c) F.CORE_STAT_ZEROING = 0) →
        (∀ ch ∈ (s.part p).chans, bitOf s.pwr.held ch = false) →
      ((s.part p).discard = false →
        ∃ t, Machine.exec (.partitionResetEnd p) s = .next t ∧ (t.part p).resetting = none ∧ (t.part p).cur = none
          ∧ PoolReleased (fun _ => true) (s.part p).pool (t.part p).pool
          ∧ (∀ y, y < 8 → (s.ctx p y).state ≠ .none → (t.ctx p y).state = .idle ∧ (t.ctx p y).queue = []
            ∧ (t.ctx p y).steps = 0 ∧ (t.ctx p y).etime = (s.ctx p y).etime) ∧ t.scratch = s.scratch)
      ∧ ((s.part p).discard = true →
        ∃ t, Machine.exec (.partitionResetEnd p) s = .next t ∧ (t.part p).configured = false
          ∧ bitOf (t.fld R.HI_STAT F.HI_STAT_PART_CFG) p = false ∧ (∀ y, (t.ctx p y).state = .none)
          ∧ (∀ c ∈ s.coresOf p, ∀ k, k < 4 → (t.slot c k).owner = none
            ∧ t.rd (R.CORE_WIN_CFG (chanOf c) (posOf c) k) = 0#32) ∧ t.scratch = s.scratch))

/-- 2 claims together: FaultTearsDown, Recreation. -/
def Obligations.TeardownAndRecreation : Prop := Sys2Proof.FaultTearsDown ∧ Sys2Proof.Recreation

/-! ### Steps -/

/-- R71, R300: the step of the selected context starts on every core of its set: header and slices lie at ARG, a0 holds ARG, fetch begins
at ENTRY, every token is COMPLETE and no loop armed, and the core runs the context's slot. -/
def Obligations.StepStarts : Prop :=
  ∀ (s : State) (p x : Nat) (st : Step) (q : List Step), p < 4 → x < 8 → (s.part p).cur = some x →
    (s.ctx p x).queue = st :: q → (s.ctx p x).starting = true → s.clear p = true → (s.part p).resetting = none →
    s.inRepair p x = false → CoreSet s p x →
    (∀ r ∈ (s.ctx p x).cores, s.phys r.core r.slot (st.arg + 32 + st.slices.flatten.length) ≤ 2 ^ 22) →
    ∃ t, Machine.exec (.stepStart p) s = .next t ∧ (t.ctx p x).running = true ∧ (t.ctx p x).starting = false
      ∧ (t.ctx p x).queue = st :: q
      ∧ (∀ r ∈ (s.ctx p x).cores, t.isRunning r.core = true ∧ t.active r.core = r.slot
        ∧ (t.slot r.core r.slot).a 0 = BitVec.ofNat 32 (st.arg % 2 ^ 22)
        ∧ (t.slot r.core r.slot).pc = s.fld (R.CORE_CTX_ENTRY (chanOf r.core) (posOf r.core) r.slot) F.CORE_CTX_ENTRY_ENTRY * 4
        ∧ (t.slot r.core r.slot).loops = [] ∧ (t.slot r.core r.slot).pend = 0
        ∧ (∀ i, (t.slot r.core r.slot).s i = (s.slot r.core r.slot).s i ∧ (t.slot r.core r.slot).p i = (s.slot r.core r.slot).p i)
        ∧ (t.core r.core).ops = []
        ∧ t.scratch.bytes (cellKey r.core (s.phys r.core r.slot st.arg)) (32 + st.slices.flatten.length)
          = leBytes 8 ((s.ctx p x).steps + 1) ++ leBytes 2 st.slices.length ++ leBytes 1 x ++ List.replicate 21 0#8 ++ st.slices.flatten)
      ∧ s.SameBytes ((s.ctx p x).cores.map (fun r =>
          (cellKey r.core (s.phys r.core r.slot st.arg), 32 + st.slices.flatten.length))) t

/-- R301: nothing keeps the running step of a context from its commit. -/
structure Sys2Proof.MayCommit (s : State) (p x : Nat) : Prop where
  running : (s.ctx p x).running = true ∧ (s.ctx p x).discarding = false ∧ (s.ctx p x).withdrawing = none
  reported : ∀ r ∈ (s.ctx p x).cores, r.core ∈ (s.ctx p x).reported
  children : ∀ c ∈ s.noc.children ++ s.noc.roots.map (·.child), ¬(c.part = p ∧ c.ctx = x)
  attn : ∀ a ∈ s.noc.attn, ¬(a.part = p ∧ a.ctx = x)
  awaits : ∀ a ∈ s.noc.awaits, ¬(a.part = p ∧ a.ctx = x)
  faults : ∀ r ∈ (s.ctx p x).cores, s.hasFaulted r.core r.slot = false
  clocks : ∀ ch ∈ (s.part p).chans, s.paused ch = false

/-- R301-R303: a step commits: the step count rises by one, the step leaves its queue, its descriptor the device, and the engine time of its
cores, (C + S if a switch preceded it) for each, is charged to ETIME and, under WEIGHT, to the virtual time with its remainder. C and S are the
command's operands: the model counts no cycles of a step (log entry 13). -/
def Sys2Proof.StepCommits : Prop :=
  ∀ (s : State) (p x C S E W : Nat) (st : Step) (q : List Step), p < 4 → x < 8 → (s.part p).cur = some x →
    (s.ctx p x).queue = st :: q → MayCommit s p x → (s.ctx p x).donorOf = none →
    E = (s.ctx p x).cores.length * (C + if (s.ctx p x).switched then S else 0) →
    W = max 1 (s.fld (R.CTX_SHARE (s.part p).low x) F.CTX_SHARE_WEIGHT) →
    ∃ t, Machine.exec (.stepCommit p C S) s = .next t ∧ (t.ctx p x).steps = ((s.ctx p x).steps + 1) % 2 ^ 64
      ∧ (t.ctx p x).queue = q ∧ (t.ctx p x).running = false
      ∧ (t.ctx p x).etime = ((s.ctx p x).etime + E) % 2 ^ 64
      ∧ (t.ctx p x).vt = ((s.ctx p x).vt + (E * 65536 + (s.ctx p x).rem) % 2 ^ 64 / W) % 2 ^ 64
      ∧ (t.ctx p x).rem = (E * 65536 + (s.ctx p x).rem) % 2 ^ 64 % W
      ∧ (∀ d ∈ t.host.descs, d.id ≠ st.desc) ∧ (∀ g ∈ (t.part p).pool, g.st ≠ .pending x st.desc) ∧ t.scratch = s.scratch

/-- R303: a charge loses nothing: what the virtual time and the remainder say after it, in units of 1/(65536 W), is what they said before and E
cycles; the remainder stays below the weight. -/
def Sys2Proof.ChargesExactly : Prop :=
  ∀ vt rem E W : Nat, 1 ≤ W → E * 65536 + rem < 2 ^ 64 → vt + (E * 65536 + rem) / W < 2 ^ 64 →
    (chargeVt vt rem E W).1 * W + (chargeVt vt rem E W).2 = vt * W + E * 65536 + rem ∧ (chargeVt vt rem E W).2 < W

/-- 2 claims together: StepCommits, ChargesExactly. -/
def Obligations.CommitsAndCharges : Prop := Sys2Proof.StepCommits ∧ Sys2Proof.ChargesExactly

/-- R303, R304: while virtual times lie within 2^63 of one another, the context selected is a candidate and none has a lower virtual time; the
outgoing context wins a tie when it is a candidate, else the lowest number wins; with a candidate there is a selection. -/
def Sys2Proof.Selection : Prop :=
  ∀ (s : State) (p base : Nat) (out : Option Nat),
    (∀ y, y ∈ s.candidates p → ∃ d, d < 2 ^ 63 ∧ (s.ctx p y).vt = (base + d) % 2 ^ 64) →
    (∀ x, s.pick p out = some x → x ∈ s.candidates p
      ∧ (∀ y ∈ s.candidates p, vtLess (s.ctx p y).vt (s.ctx p x).vt = false)
      ∧ (∀ o, out = some o → o ∈ s.candidates p → vtLess (s.ctx p x).vt (s.ctx p o).vt = false → x = o)
      ∧ (∀ y ∈ s.candidates p, y < x → (s.ctx p y).vt = (s.ctx p x).vt → out = some x))
    ∧ (s.candidates p ≠ [] → (s.pick p out).isSome = true)

/-- R302, R312, R313: a withdrawal ends when the step's cores have stopped and no report of a message inside the chip is owed: the step is again
at the head of its queue, to be repeated, its cycles charged; the holder, with work on channels that are ON, runs with the share of the context
that made way for it. -/
def Sys2Proof.WithdrawalEnds : Prop :=
  ∀ (s : State) (p w h C S : Nat), p < 4 → w < 8 → h < 8 → (s.part p).cur = some w → (s.ctx p w).withdrawing = some h → h ≠ w →
    (s.ctx p w).stopWait = [] → (∀ ch ∈ (s.part p).chans, s.paused ch = false) →
    (∀ a ∈ s.noc.awaits, a.part = p → a.ctx = w → s.noc.e2e.any (fun e => e.msg.id == a.id) = true) →
    (∀ r ∈ (s.ctx p w).cores, s.hasFaulted r.core r.slot = false) →
    (s.ctx p h).state = .runnable → (s.ctx p h).queue ≠ [] → s.chansOn p = true → s.inRepair p h = false →
    ∃ t, Machine.exec (.withdrawalEnd p C S) s = .next t ∧ (t.part p).cur = some h ∧ (t.ctx p h).state = .donating
      ∧ (t.ctx p h).donorOf = some ((s.ctx p w).donorOf.getD w) ∧ (t.ctx p h).starting = true
      ∧ (t.ctx p w).state = .runnable ∧ (t.ctx p w).queue = (s.ctx p w).queue ∧ (t.ctx p w).repeated = true
      ∧ (t.ctx p w).waitsOn = some h ∧ (t.ctx p w).withdrawing = none
      ∧ (t.ctx p w).etime
        = ((s.ctx p w).etime + (s.ctx p w).cores.length * (C + if (s.ctx p w).switched then S else 0)) % 2 ^ 64
      ∧ t.scratch = s.scratch

/-- 2 claims together: Selection, WithdrawalEnds. -/
def Obligations.SelectionAndWithdrawal : Prop := Sys2Proof.Selection ∧ Sys2Proof.WithdrawalEnds

/-! ### Channels, fences, repair -/

/-- R318, R319: EN turns a channel that is OFF and not gated ON and is refused while it drains; clearing EN makes an ON channel drain, which is
OFF once no step runs there; clearing it with FORCE turns it OFF and resets its partition with cause 5. A channel whose domain is gated or
held in reset takes none of these writes (R454, R505). -/
def Sys2Proof.Channels : Prop :=
  ∀ (s : State) (n : Nat), n < 4 →
    (s.chState n = 0 → s.regTakes (R.CP_CTRL n) = true → (∀ k, k < 9 → s.gated (14 + 9 * n + k) = false) →
      ∃ t, Machine.exec (.channelEnable n) s = .next t ∧ t.chState n = 1 ∧ t.bit (R.CP_CTRL n) F.CP_CTRL_EN = true
        ∧ s.SameRegs [R.CP_CTRL n, R.CP_STAT n] t ∧ s.SameBut [.regs, .parts] t)
    ∧ (s.chState n = 2 → Machine.exec (.channelEnable n) s = .next s)
    ∧ (s.chState n = 1 → s.regTakes (R.CP_CTRL n) = true →
      ∃ t, Machine.exec (.channelDrain n) s = .next t ∧ t.chState n = 2 ∧ t.bit (R.CP_CTRL n) F.CP_CTRL_EN = false
        ∧ s.SameRegs [R.CP_CTRL n, R.CP_STAT n] t ∧ s.SameBut [.regs] t)
    ∧ (s.chState n = 2 → (∀ p, s.ownerOf n = some p → (s.part p).cur = none) →
      ∃ t, Machine.exec (.channelDrainEnd n) s = .next t ∧ t.chState n = 0 ∧ s.SameRegs [R.CP_STAT n] t ∧ s.SameBut [.regs] t)
    ∧ (s.regTakes (R.CP_CTRL n) = false → Machine.exec (.channelEnable n) s = .next s
        ∧ Machine.exec (.channelDrain n) s = .next s ∧ Machine.exec (.channelForcedDisable n) s = .next s)
    ∧ (s.chState n = 1 ∨ s.chState n = 2 → s.regTakes (R.CP_CTRL n) = true →
      ∃ t, Machine.exec (.channelForcedDisable n) s = .next t ∧ t.chState n = 0 ∧ t.bit (R.CP_CTRL n) F.CP_CTRL_EN = false
        ∧ (∀ p, s.ownerOf n = some p → (s.part p).resetting = none → (t.part p).resetting = some 5) ∧ s.SameScratch t)

/-- R434-R438: the failure of a core in a row whose spare is free, by a criterion other than the ECC counts, starts a fence: the core issues no
more and the row's migration waits; the failure of the idle spare is entered in the map at once; a further failure in a row that has used its
spare makes the channel UNBOUND. A router timeout is such a failure, with cause 4. -/
def Sys2Proof.CoreFails : Prop :=
  ∀ (s : State) (ch row col cause : Nat), ch < 4 → row < 16 → col < 17 → 2 ≤ cause → cause ≤ 5 →
    ∀ cmd : Instr, cmd = .coreFailure ch row col cause ∨ cause = 4 ∧ cmd = .nocTimeout ch row col →
    (s.fmask ch row = 0 → (∀ m ∈ s.migr, ¬(m.ch = ch ∧ m.row = row)) →
      (col < 16 → ∃ t, Machine.exec cmd s = .next t ∧ t.migr = s.migr ++ [⟨ch, row, col, cause⟩]
        ∧ t.isRunning (coreId ch row col) = false ∧ t.fmask ch row = 0 ∧ s.SameScratch t)
      ∧ (col = 16 → ∃ t, Machine.exec cmd s = .next t ∧ t.fmask ch row = 2 ^ 16
        ∧ t.fld (R.SPMAP ch row) F.SPMAP_CAUSE = cause ∧ t.migr = s.migr ∧ s.SameScratch t))
    ∧ (s.fmask ch row ≠ 0 → bitOf (s.fmask ch row) col = false → (∀ m ∈ s.migr, ¬(m.ch = ch ∧ m.row = row)) →
      ∃ t, Machine.exec cmd s = .next t ∧ t.chState ch = 3 ∧ t.migr = s.migr ∧ s.SameScratch t)

/-- R437, R448: a fence on a channel that no partition owns ends: the row's spare map names the column and its cause, every other logical core
keeps its bytes, and the core that moved reads zero, in its enabled windows and elsewhere below 3 MiB. -/
def Sys2Proof.RowShift : Prop :=
  ∀ (s : State) (i : Nat) (m : Migr), s.migr[i]? = some m → m.ch < 4 → m.row < 16 → m.col < 16 → 1 ≤ m.cause → m.cause ≤ 5 →
    s.fmask m.ch m.row = 0 → s.fenceReady m = true → s.ownerOf m.ch = none →
    (∀ k, k < 4 → s.phys (coreId m.ch m.row m.col) k (s.bound (coreId m.ch m.row m.col) k) ≤ 3072 * 1024) →
    ∃ t, Machine.exec (.migrationEnd i) s = .next t ∧ t.migr = s.migr.take i ++ s.migr.drop (i + 1)
      ∧ t.fmask m.ch m.row = 2 ^ m.col ∧ t.fld (R.SPMAP m.ch m.row) F.SPMAP_CAUSE = m.cause
      ∧ (∀ c b, c ≠ coreId m.ch m.row m.col → b < 2 ^ 22 → t.scratch.byte (cellKey c b) = s.scratch.byte (cellKey c b))
      ∧ (∀ k b, k < 4 → s.bit (winReg (coreId m.ch m.row m.col) k) F.CORE_WIN_CFG_EN = true →
        b < s.bound (coreId m.ch m.row m.col) k →
        t.scratch.byte (cellKey (coreId m.ch m.row m.col) (s.phys (coreId m.ch m.row m.col) k b)) = 0#8)
      ∧ (∀ b, b < 3072 * 1024 → t.scratch.byte (cellKey (coreId m.ch m.row m.col) b) = 0#8)

/-- R445: GO or DROP, written by the PF or the management port, ends repair. GO leaves a held step that can be repeated at the head of its
queue; DROP takes it off. A write by a VF changes nothing. -/
def Sys2Proof.Repair : Prop :=
  ∀ (s : State) (req n x p : Nat), n < 4 → x < 8 → s.ownerOf n = some p → (s.part p).low = n → s.inRepair p x = true →
    s.regTakes (R.CTX_REPAIR n x) = true →
    (req = 0 ∨ req = 5 → s.bit (R.CTX_REPAIR n x) F.CTX_REPAIR_HELD = false ∨ (s.ctx p x).left = false →
      ∃ t, Machine.exec (.repairGo req n x) s = .next t ∧ t.rd (R.CTX_REPAIR n x) = 0#32
        ∧ (t.ctx p x).queue = (s.ctx p x).queue ∧ s.SameRegs [R.CTX_REPAIR n x] t ∧ s.SameBut [.regs, .parts] t)
    ∧ (∀ st q, req = 0 ∨ req = 5 → s.bit (R.CTX_REPAIR n x) F.CTX_REPAIR_HELD = true → (s.ctx p x).queue = st :: q →
      ∃ t, Machine.exec (.repairDrop req n x) s = .next t ∧ t.rd (R.CTX_REPAIR n x) = 0#32 ∧ (t.ctx p x).queue = q
        ∧ (∀ d ∈ t.host.descs, d.id ≠ st.desc) ∧ s.SameScratch t)
    ∧ (1 ≤ req → req ≤ 4 → Machine.exec (.repairGo req n x) s = .next s ∧ Machine.exec (.repairDrop req n x) s = .next s)

/-- 3 claims together: CoreFails, RowShift, Repair. -/
def Obligations.FencesAndRepair : Prop := Sys2Proof.CoreFails ∧ Sys2Proof.RowShift ∧ Sys2Proof.Repair

/-! ### Windows -/

/-- R74: the extent [base, base + size) in KiB fits in slot `k`: within the scratchpad, and apart from the windows of the other slots and from values
that wait there. -/
def Sys2Proof.Fits (s : State) (c k base size : Nat) : Prop :=
  1 ≤ size ∧ base + size ≤ 3072
  ∧ ∀ j, j < 4 → j ≠ k → ∀ w, (w = s.rd (R.CORE_WIN_CFG (chanOf c) (posOf c) j) ∨ FMap.get none (s.core c).held j = some w) →
    isSet w F.CORE_WIN_CFG_EN = true →
    base + size ≤ getF w F.CORE_WIN_CFG_BASE ∨ getF w F.CORE_WIN_CFG_BASE + getF w F.CORE_WIN_CFG_SIZE ≤ base

/-- R74, R77, R140, R141, R144: a window value that fits, for a slot without a context whose window is not zeroing, takes effect at once when it
only enables or grows the window; when it disables, moves or shrinks an enabled one, the old window is zeroed first. A value that does not fit
is discarded with CFG_REJECT. When the zeroing ends, every byte of the window reads 0, no error is marked there and a waiting value is in force. A
correction is written back without a change of data. -/
def Sys2Proof.Windows : Prop :=
  ∀ (s : State) (c k : Nat), c < 1024 → k < 4 →
    (∀ (req : Nat) (v old : Word), req = 0 ∨ req = 5 → s.regTakes (R.CORE_WIN_CFG (chanOf c) (posOf c) k) = true → old = s.rd (R.CORE_WIN_CFG (chanOf c) (posOf c) k) →
      (s.slot c k).owner = none → s.zeroing c k = false →
      ((isSet v F.CORE_WIN_CFG_EN = true → Fits s c k (getF v F.CORE_WIN_CFG_BASE) (getF v F.CORE_WIN_CFG_SIZE)) →
        (isSet old F.CORE_WIN_CFG_EN = true → isSet v F.CORE_WIN_CFG_EN = true
          ∧ getF v F.CORE_WIN_CFG_BASE = getF old F.CORE_WIN_CFG_BASE ∧ getF old F.CORE_WIN_CFG_SIZE ≤ getF v F.CORE_WIN_CFG_SIZE) →
        Machine.exec (.windowWrite req c k v) s = .next (s.wr (R.CORE_WIN_CFG (chanOf c) (posOf c) k) (v &&& 0x80FFFFFF#32)))
      ∧ ((isSet v F.CORE_WIN_CFG_EN = true → Fits s c k (getF v F.CORE_WIN_CFG_BASE) (getF v F.CORE_WIN_CFG_SIZE)) →
        isSet old F.CORE_WIN_CFG_EN = true →
        (isSet v F.CORE_WIN_CFG_EN = false ∨ getF v F.CORE_WIN_CFG_BASE ≠ getF old F.CORE_WIN_CFG_BASE
          ∨ getF v F.CORE_WIN_CFG_SIZE < getF old F.CORE_WIN_CFG_SIZE) →
        ∃ t, Machine.exec (.windowWrite req c k v) s = .next t ∧ t.zeroing c k = true
          ∧ t.rd (R.CORE_WIN_CFG (chanOf c) (posOf c) k) = old
          ∧ FMap.get none (t.core c).held k = some (v &&& 0x80FFFFFF#32)
          ∧ s.SameRegs [R.CORE_STAT (chanOf c) (posOf c)] t ∧ s.SameBut [.regs, .cores] t)
      ∧ (isSet v F.CORE_WIN_CFG_EN = true → ¬Fits s c k (getF v F.CORE_WIN_CFG_BASE) (getF v F.CORE_WIN_CFG_SIZE) →
        ∃ t, Machine.exec (.windowWrite req c k v) s = .next t
          ∧ t.bit (R.CORE_STAT (chanOf c) (posOf c)) F.CORE_STAT_CFG_REJECT = true
          ∧ s.SameRegs [R.CORE_STAT (chanOf c) (posOf c)] t ∧ s.SameBut [.regs] t))
    ∧ (s.zeroing c k = true → (s.core c).toZero = 0 → (∀ p, s.ownerOf (chanOf c) = some p → (s.part p).resetting = none) →
      ∃ t, Machine.exec (.zeroingEnd c k) s = .next t ∧ t.zeroing c k = false
        ∧ (∀ b, b < s.bound c k → t.scratch.byte (cellKey c (s.phys c k b)) = 0#8
          ∧ FMap.get false t.ue (wordKey c (s.phys c k b)) = false ∧ FMap.get false t.ce (wordKey c (s.phys c k b)) = false)
        ∧ s.SameBytes [(cellKey c (s.phys c k 0), s.bound c k)] t
        ∧ t.rd (R.CORE_WIN_CFG (chanOf c) (posOf c) k)
          = (FMap.get none (s.core c).held k).getD (s.rd (R.CORE_WIN_CFG (chanOf c) (posOf c) k))
        ∧ s.SameRegs [R.CORE_STAT (chanOf c) (posOf c), R.CORE_WIN_CFG (chanOf c) (posOf c) k] t
        ∧ s.SameBut [.regs, .scratch, .words, .ue, .ce, .cores] t)
    ∧ (∀ w q, (s.core c).eccQ = w :: q →
      ∃ t, Machine.exec (.eccWriteBack c) s = .next t ∧ (t.core c).eccQ = q ∧ FMap.get false t.ce (c * 2 ^ 19 + w) = false
        ∧ (∀ a, a ≠ c * 2 ^ 19 + w → FMap.get false t.ce a = FMap.get false s.ce a) ∧ s.SameBut [.ce, .cores] t)

/-- 2 claims together: Channels, Windows. -/
def Obligations.ChannelsAndWindows : Prop := Sys2Proof.Channels ∧ Sys2Proof.Windows

/-! ### Doorbells, queue pairs, descriptors -/

/-- R274, R275, R288: an aligned 8-byte write to the doorbell of an ON pair of a function that exists, each field alone. SQV: the tail advances to
a value within the ring not behind it, else DB_ERR. CQV: the head advances by at most the unread entries, else DB_ERR. ARM: the vector is sent at
once when entries are unread, else the queue is armed. A tail at or above the ring's size or behind the tail, and a head at or above the ring's size
or past the unread entries, set DB_ERR and change nothing else. -/
def Sys2Proof.Doorbells : Prop :=
  ∀ (s : State) (f q x : Nat) (v : DWord), f < 5 → q < 64 → s.fnUp f = true → s.qpState f q = 1 →
    (v.toNat = 2 ^ 16 + x → x < 2 ^ 16 →
      ∃ t, Machine.exec (.doorbellSqTail f (0x40 * q) 8 v) s = .next t
        ∧ (x < s.sqSize f q →
          ((s.qp f q).sqTail + s.sqSize f q - s.fld (R.HI_QP_SQ_HEAD f q) F.HI_QP_SQ_HEAD_HEAD % s.sqSize f q) % s.sqSize f q
            ≤ (x + s.sqSize f q - s.fld (R.HI_QP_SQ_HEAD f q) F.HI_QP_SQ_HEAD_HEAD % s.sqSize f q) % s.sqSize f q →
          t.qp f q = { s.qp f q with sqTail := x } ∧ s.SameBut [.host] t)
        ∧ (s.sqSize f q ≤ x
            ∨ (x + s.sqSize f q - s.fld (R.HI_QP_SQ_HEAD f q) F.HI_QP_SQ_HEAD_HEAD % s.sqSize f q) % s.sqSize f q
              < ((s.qp f q).sqTail + s.sqSize f q - s.fld (R.HI_QP_SQ_HEAD f q) F.HI_QP_SQ_HEAD_HEAD % s.sqSize f q) % s.sqSize f q →
          t.bit (R.HI_QP_STAT f q) F.HI_QP_STAT_DB_ERR = true
          ∧ s.SameRegs [R.HI_QP_STAT f q] t ∧ s.SameBut [.regs] t))
    ∧ (v.toNat = 2 ^ 48 + x * 2 ^ 32 → x < 2 ^ 16 →
      ∃ t, Machine.exec (.doorbellCqHead f (0x40 * q) 8 v) s = .next t
        ∧ (∀ n, x < s.cqSize f q → n = (x + s.cqSize f q - (s.qp f q).cqHead % s.cqSize f q) % s.cqSize f q →
          n ≤ (s.qp f q).unread →
          t.qp f q = { s.qp f q with cqHead := x, unread := (s.qp f q).unread - n } ∧ s.SameBut [.host] t)
        ∧ (s.cqSize f q ≤ x
            ∨ (s.qp f q).unread < (x + s.cqSize f q - (s.qp f q).cqHead % s.cqSize f q) % s.cqSize f q →
          t.bit (R.HI_QP_STAT f q) F.HI_QP_STAT_DB_ERR = true
          ∧ s.SameRegs [R.HI_QP_STAT f q] t ∧ s.SameBut [.regs] t))
    ∧ (v.toNat = 2 ^ 49 →
      ∃ t, Machine.exec (.doorbellArm f (0x40 * q) 8 v) s = .next t ∧ s.SameBut [.host] t
        ∧ ((s.qp f q).unread = 0 → t.qp f q = { s.qp f q with armed := true } ∧ t.host.msix = s.host.msix)
        ∧ (∀ n, (s.qp f q).unread ≠ 0 → s.bit (R.HI_QP_CFG f q) F.HI_QP_CFG_IEN = true →
          s.fld (R.HI_QP_CFG f q) F.HI_QP_CFG_VEC = n → FMap.get false s.host.masked (f * 64 + n) = false →
          t.qp f q = { s.qp f q with armed := false } ∧ t.host.msix = (f, n) :: s.host.msix))

/-- R271, R272, R286, R318: EN with ring sizes of 2^4 to 2^16 turns a pair that is OFF ON with empty rings; other sizes are rejected; clearing EN makes it
drain, and it is OFF once nothing is in flight; clearing EN with FORCE completes what was fetched and turns it OFF; a failed fetch puts an ON pair in
ERROR with DMA_ERR. -/
def Sys2Proof.QueuePairs : Prop :=
  ∀ (s : State) (f q : Nat), f < 5 → q < 64 → s.fnUp f = true →
    (∀ v : Word, s.qpState f q = 0 →
      (4 ≤ getF v F.HI_QP_CFG_SQLOG2 → getF v F.HI_QP_CFG_SQLOG2 ≤ 16 → 4 ≤ getF v F.HI_QP_CFG_CQLOG2 →
        getF v F.HI_QP_CFG_CQLOG2 ≤ 16 →
        ∃ t, Machine.exec (.qpEnable f q v) s = .next t ∧ t.qpState f q = 1 ∧ t.rd (R.HI_QP_SQ_HEAD f q) = 0#32
          ∧ t.sqSize f q = 2 ^ getF v F.HI_QP_CFG_SQLOG2 ∧ t.cqSize f q = 2 ^ getF v F.HI_QP_CFG_CQLOG2
          ∧ t.fld (R.HI_QP_CQ_TAIL f q) F.HI_QP_CQ_TAIL_TAIL = 0 ∧ t.fld (R.HI_QP_CQ_TAIL f q) F.HI_QP_CQ_TAIL_PHASE = 1
          ∧ (t.qp f q).sqTail = 0 ∧ (t.qp f q).cqHead = 0 ∧ (t.qp f q).unread = 0
          ∧ s.SameRegs [R.HI_QP_CFG f q, R.HI_QP_SQ_HEAD f q, R.HI_QP_CQ_TAIL f q, R.HI_QP_STAT f q] t ∧ s.SameBut [.regs, .host] t)
      ∧ (getF v F.HI_QP_CFG_SQLOG2 < 4 ∨ 16 < getF v F.HI_QP_CFG_SQLOG2 ∨ getF v F.HI_QP_CFG_CQLOG2 < 4
          ∨ 16 < getF v F.HI_QP_CFG_CQLOG2 →
        ∃ t, Machine.exec (.qpEnable f q v) s = .next t ∧ t.bit (R.HI_QP_STAT f q) F.HI_QP_STAT_CFG_REJECT = true
          ∧ t.qpState f q = 0 ∧ s.SameRegs [R.HI_QP_STAT f q] t ∧ s.SameBut [.regs] t))
    ∧ (s.qpState f q = 1 →
      ∃ t, Machine.exec (.qpDrain f q) s = .next t ∧ t.qpState f q = 2 ∧ t.bit (R.HI_QP_CFG f q) F.HI_QP_CFG_EN = false
        ∧ s.SameRegs [R.HI_QP_CFG f q, R.HI_QP_STAT f q] t ∧ s.SameBut [.regs] t)
    ∧ (s.qpState f q = 2 → s.fld (R.HI_QP_STAT f q) F.HI_QP_STAT_INFLIGHT = 0 →
      ∃ t, Machine.exec (.qpDrainEnd f q) s = .next t ∧ t.qpState f q = 0 ∧ s.SameRegs [R.HI_QP_STAT f q] t ∧ s.SameBut [.regs] t)
    ∧ (s.qpState f q ≠ 0 →
      ∃ t, Machine.exec (.qpForcedDisable f q) s = .next t ∧ t.qpState f q = 0
        ∧ (∀ d ∈ t.host.descs, ¬(d.fn = f ∧ d.qp = q)) ∧ s.SameScratch t)
    ∧ (s.qpState f q = 1 →
      ∃ t, Machine.exec (.qpError f q false) s = .next t ∧ t.qpState f q = 3
        ∧ t.bit (R.HI_QP_STAT f q) F.HI_QP_STAT_DMA_ERR = true ∧ t.host.qps = s.host.qps ∧ s.SameScratch t)

/-- 2 claims together: Doorbells, QueuePairs. -/
def Obligations.DoorbellsAndQueuePairs : Prop := Sys2Proof.Doorbells ∧ Sys2Proof.QueuePairs

/-- A list of descriptors with the effect of one of them done (R282). -/
def Sys2Proof.finished (l : List Desc) (id status : Nat) (result : List Byte) : List Desc :=
  l.map (fun d => if d.id = id then { d with st := .done, status := status, result := result } else d)

/-- R273, R276, R282: the next announced descriptor of an ON pair is read from its ring, for which a completion entry is free; a failed read puts the pair in
ERROR. A descriptor whose effect is done leaves the device, and its 32-byte entry is written at the tail of the pair's completion ring. -/
def Sys2Proof.FetchAndCompletion : Prop :=
  ∀ (s : State) (f q : Nat), f < 5 → q < 64 → s.fnUp f = true →
    (∀ h n a, s.qpState f q = 1 → s.fld (R.HI_QP_SQ_HEAD f q) F.HI_QP_SQ_HEAD_HEAD = h → h ≠ (s.qp f q).sqTail →
        s.fld (R.HI_QP_STAT f q) F.HI_QP_STAT_INFLIGHT = n → (s.qp f q).unread + n < s.cqSize f q →
        a = s.pair (R.HI_QP_SQ_BASE_LO f q) (R.HI_QP_SQ_BASE_HI f q) + 64 * h →
      (s.hostBad a 64 = false →
        ∃ t d, Machine.exec (.descriptorFetch f q) s = .next t ∧ t.host.descs = s.host.descs ++ [d]
          ∧ d.raw = s.host.mem.bytes a 64 ∧ d.fn = f ∧ d.qp = q ∧ d.idx = h ∧ d.st = .fetched
          ∧ (f ≠ 0 → d.part = f - 1)
          ∧ t.fld (R.HI_QP_SQ_HEAD f q) F.HI_QP_SQ_HEAD_HEAD = (h + 1) % s.sqSize f q % 2 ^ 16
          ∧ t.fld (R.HI_QP_STAT f q) F.HI_QP_STAT_INFLIGHT = (n + 1) % 2 ^ 17
          ∧ s.SameRegs [R.HI_QP_SQ_HEAD f q, R.HI_QP_STAT f q] t ∧ s.SameBut [.regs, .host, .trc] t)
      ∧ (s.hostBad a 64 = true →
        ∃ t, Machine.exec (.descriptorFetch f q) s = .next t ∧ t.qpState f q = 3
          ∧ t.bit (R.HI_QP_STAT f q) F.HI_QP_STAT_DMA_ERR = true ∧ t.host.descs = s.host.descs))
    ∧ (∀ id d tail a, s.host.descs.find? (fun d => d.id == id && d.st == .done) = some d → d.fn = f → d.qp = q →
      s.host.descs.find? (fun d => d.id == id) = some d → d.raw.length = 64 → (s.qp f q).broken = false →
      s.fld (R.HI_QP_CQ_TAIL f q) F.HI_QP_CQ_TAIL_TAIL = tail →
      a = s.pair (R.HI_QP_CQ_BASE_LO f q) (R.HI_QP_CQ_BASE_HI f q) + tail * 32 → s.hostBad a 32 = false →
      ∃ t, Machine.exec (.descriptorCompletion id) s = .next t ∧ t.host.descs = s.host.descs.filter (fun e => e.id != id)
        ∧ t.host.mem.bytes a 32 = leBytes 2 d.idx ++ leBytes 2 (s.fld (R.HI_QP_SQ_HEAD f q) F.HI_QP_SQ_HEAD_HEAD)
          ++ leBytes 2 d.status ++ leBytes 1 d.opcode
          ++ leBytes 1 (s.fld (R.HI_QP_CQ_TAIL f q) F.HI_QP_CQ_TAIL_PHASE * 128 + d.part % 4 * 16 + d.ctx)
          ++ leBytes 4 s.tb2 ++ (d.raw.drop 4).take 4 ++ padTo 0#8 16 d.result
        ∧ t.fld (R.HI_QP_CQ_TAIL f q) F.HI_QP_CQ_TAIL_TAIL = (tail + 1) % s.cqSize f q % 2 ^ 16
        ∧ (∀ b, (b < a ∨ a + 32 ≤ b) → t.host.mem.byte b = s.host.mem.byte b))

/-- R280, R281, R289, R315: the oldest fetched descriptor of a pair, not held by FENCE, is checked in the order of R280. One that fails completes with its
status; one that acts on a context in TEARDOWN completes FROGGED (0x15; in a forced reset ABORTED, 0x16), unless it is a FROG; else it waits for its action. -/
def Sys2Proof.Dispatch : Prop :=
  ∀ (s : State) (f q : Nat) (d : Desc),
    (s.host.descs.filter (fun d => d.fn == f && d.qp == q)).find? (fun d => d.st == .fetched) = some d → d.fence = false →
    (s.checkDesc d ≠ 0 →
      ∃ t, Machine.exec (.descriptorDispatch f q) s = .next t ∧ t.host.descs = finished s.host.descs d.id (s.checkDesc d) []
        ∧ s.SameBut [.host] t)
    ∧ (s.checkDesc d = 0 → s.slotChan d = 4 ∨ s.cmds (s.slotChan d) < 4096 →
      ¬(d.opcode ≠ 14 ∧ d.actsOnCtx = true ∧ (s.ctx d.part d.ctx).state = .teardown) →
      ∃ t, Machine.exec (.descriptorDispatch f q) s = .next t
        ∧ t.host.descs = s.host.descs.map (fun e => if e.id = d.id then
            { e with st := .checked, chan := s.slotChan d, order := s.host.dispatched + 1, sent := s.tb2 } else e)
        ∧ s.SameScratch t)
    ∧ (s.checkDesc d = 0 → s.slotChan d = 4 ∨ s.cmds (s.slotChan d) < 4096 →
      d.opcode ≠ 14 → d.actsOnCtx = true → (s.ctx d.part d.ctx).state = .teardown →
      ∃ t, Machine.exec (.descriptorDispatch f q) s = .next t
        ∧ (∀ e ∈ t.host.descs, e.id = d.id → e.st = .done ∧ e.status = if (s.part d.part).aborted then 0x16 else 0x15) ∧ s.SameScratch t)
    ∧ (15 < d.opcode → s.checkDesc d = 1) ∧ (d.opcode ≤ 15 → d.at_ 3 1 ≠ 0 → s.checkDesc d = 2)
    ∧ (d.badDesc = false → d.opcode = 1 → d.at_ 20 1 = 1 → d.fn ≠ 0 → s.checkDesc d = 3)
    ∧ (d.badDesc = false → 2 ≤ d.opcode → d.opcode ≤ 14 → s.bit R.HI_STAT F.HI_STAT_FABRIC_READY = false → s.checkDesc d = 0x17)

/-- 2 claims together: FetchAndCompletion, Dispatch. -/
def Obligations.DescriptorsAndCompletions : Prop := Sys2Proof.FetchAndCompletion ∧ Sys2Proof.Dispatch

/-- R278, R279, R472: NOP completes OK. LOAD_TENSOR with SIGEN 0 puts the host's bytes at WADDR in the context's window; STORE_TENSOR puts the window's bytes in
host memory; DIGEST_READ of SRC 1 puts there the result digest of the last committed step. A transfer that the window refuses completes NO_REACH, NO_CONTEXT,
ZEROING or BOUND and moves nothing. No word of the device is marked in error here, and the core's row does not migrate nor its clock stand (R241,
R456). -/
def Obligations.Transfers : Prop :=
  ∀ (s : State) (id : Nat) (d : Desc), s.ue = [] → s.ce = [] →
    (s.ready id 0 = some d →
      ∃ t, Machine.exec (.nop id) s = .next t ∧ t.host.descs = finished s.host.descs id 0 [] ∧ s.SameBut [.host] t)
    ∧ (∀ c k a n, c = d.at_ 20 2 → a = d.at_ 24 4 → n = d.at_ 16 4 → a < 2 ^ 22 → s.holds c = false →
        (s.part d.part).owns (c / 256) = true →
        s.slotOf c d.part d.ctx = some k → s.zeroing c k = false →
      (a + n ≤ s.bound c k → s.hostBad (d.at_ 8 8) n = false →
        (s.ready id 2 = some d → bitOf (d.at_ 1 1) 1 = false →
          ∃ t, Machine.exec (.loadTensor id) s = .next t ∧ t.host.descs = finished s.host.descs id 0 []
            ∧ t.scratch.bytes (cellKey c (s.phys c k a)) n = s.host.mem.bytes (d.at_ 8 8) n
            ∧ s.SameBytes [(cellKey c (s.phys c k a), n)] t
            ∧ (t.ctx d.part d.ctx).loads = ((s.ctx d.part d.ctx).loads + 1) % 2 ^ 32
            ∧ s.SameBut [.scratch, .words, .parts, .host, .trc] t)
        ∧ (s.ready id 3 = some d →
          ∃ t, Machine.exec (.storeTensor id) s = .next t ∧ t.host.descs = finished s.host.descs id 0 []
            ∧ t.host.mem.bytes (d.at_ 8 8) n = s.scratch.bytes (cellKey c (s.phys c k a)) n
            ∧ (∀ b, (b < d.at_ 8 8 ∨ d.at_ 8 8 + n ≤ b) → t.host.mem.byte b = s.host.mem.byte b) ∧ s.SameBut [.host, .trc] t))
      ∧ (s.bound c k < a + n → 0 < n →
        (s.ready id 2 = some d → ∃ t, Machine.exec (.loadTensor id) s = .next t
          ∧ t.host.descs = finished s.host.descs id 7 [] ∧ s.SameBut [.host] t)
        ∧ (s.ready id 3 = some d → ∃ t, Machine.exec (.storeTensor id) s = .next t
          ∧ t.host.descs = finished s.host.descs id 7 [] ∧ s.SameBut [.host] t)))
    ∧ (∀ c st, c = d.at_ 20 2 → s.holds c = false →
        ((s.part d.part).owns (c / 256) = false ∧ st = 6
          ∨ (s.part d.part).owns (c / 256) = true ∧ s.slotOf c d.part d.ctx = none ∧ st = 5
          ∨ (s.part d.part).owns (c / 256) = true ∧ (∃ k, s.slotOf c d.part d.ctx = some k ∧ s.zeroing c k = true) ∧ st = 8) →
      (s.ready id 2 = some d → ∃ t, Machine.exec (.loadTensor id) s = .next t
        ∧ t.host.descs = finished s.host.descs id st [] ∧ s.SameBut [.host] t)
      ∧ (s.ready id 3 = some d → ∃ t, Machine.exec (.storeTensor id) s = .next t
        ∧ t.host.descs = finished s.host.descs id st [] ∧ s.SameBut [.host] t))
    ∧ (∀ g, s.ready id 12 = some d → d.at_ 18 1 = 1 → (s.ctx d.part d.ctx).lastDigest = g → g ≠ [] →
      s.hostBad (d.at_ 8 8) g.length = false →
      ∃ t, Machine.exec (.digestRead id) s = .next t ∧ t.host.descs = finished s.host.descs id 0 (leBytes 4 1)
        ∧ t.host.mem.bytes (d.at_ 8 8) g.length = g
        ∧ (∀ b, (b < d.at_ 8 8 ∨ d.at_ 8 8 + g.length ≤ b) → t.host.mem.byte b = s.host.mem.byte b) ∧ s.SameBut [.host, .trc] t)

/-- R243, R245, R278, R282, R284: SYNC_SIGNAL adds its argument to a semaphore with nobody waiting. SYNC_WAIT of a take that the semaphore admits takes it at once,
its holder unchanged, and its release completes the descriptor; one whose time runs out while its wait is queued completes TIMEOUT (0x12), having taken nothing. -/
def Sys2Proof.SyncDescriptors : Prop :=
  ∀ (s : State) (id obj : Nat) (d : Desc), obj = d.at_ 8 4 % 2 ^ 16 →
    (s.ready id 5 = some d → NoDonation s → s.bit (cfgReg obj) F.SYNC_CFG_EN = true → s.fld (cfgReg obj) F.SYNC_CFG_KIND = 0 →
      s.queue obj = [] →
      ∃ t, Machine.exec (.syncSignal id) s = .next t ∧ t.host.descs = finished s.host.descs id 0 []
        ∧ (t.rd (valReg obj)).toNat = min ((s.rd (valReg obj)).toNat + d.at_ 12 4) (2 ^ 32 - 1)
        ∧ s.SameRegs [valReg obj, sstatReg obj] t ∧ s.SameBut [.regs, .parts, .host, .trc] t)
    ∧ (s.ready id 6 = some d → d.at_ 12 1 = 0 → s.bit (cfgReg obj) F.SYNC_CFG_EN = true → s.fld (cfgReg obj) F.SYNC_CFG_KIND = 0 →
      s.bit (sstatReg obj) F.SYNC_STAT_ABANDONED = false → s.queue obj = [] → d.at_ 16 4 ≤ (s.rd (valReg obj)).toNat →
      ∃ t, Machine.exec (.syncWait id) s = .next t
        ∧ t.host.descs = s.host.descs.map (fun e => if e.id = id then { e with st := .dispatched } else e)
        ∧ (t.rd (valReg obj)).toNat + d.at_ 16 4 = (s.rd (valReg obj)).toNat
        ∧ t.noc.releases = s.noc.releases ++ [⟨.desc id, 0, obj⟩]
        ∧ s.SameRegs [valReg obj] t ∧ s.SameBut [.regs, .noc, .parts, .host, .trc] t)
    ∧ (∀ w, s.host.descs.find? (fun d => d.id == id && d.st == .dispatched && d.opcode == 6) = some d → d.at_ 20 4 ≠ 0 →
      s.queue obj = [w] → w.who = .desc id → s.fld (cfgReg obj) F.SYNC_CFG_KIND ≠ 1 →
      ∃ t, Machine.exec (.syncWaitTimeout id) s = .next t ∧ t.host.descs = finished s.host.descs id 0x12 []
        ∧ t.queue obj = [] ∧ s.SameBut [.noc, .host] t)
    ∧ (∀ i r, s.noc.releases[i]? = some r → r.who = .desc id → r.code < 5 →
      ∃ t, Machine.exec (.syncRelease i) s = .next t
        ∧ t.host.descs = s.host.descs.map (fun e => if e.id = id && e.st == .dispatched then
            { e with st := .done, status := nth 0 [0, 0x0E, 0x0F, 0x10, 0x11] r.code, result := padTo 0#8 16 (leBytes 1 r.code) }
            else e)
        ∧ s.SameBut [.noc, .host] t)

/-- R298, R300, R315, R319: RUN_STEP on channels that are ON, with a well-formed slice list whose slices fit the windows of the core set at ARG, puts a step at the
end of its context's queue; on a channel that is not ON it completes BAD_STATE (0x19). FROG starts the teardown of a live context; in TEARDOWN it completes
BAD_STATE. -/
def Sys2Proof.StepDescriptors : Prop :=
  ∀ (s : State) (id : Nat) (d : Desc),
    (∀ bs, s.ready id 4 = some d → s.chansOn d.part = true → s.hostBad (d.at_ 8 8) (32 * d.at_ 16 2) = false →
      bs = chunksOf 32 (d.at_ 16 2) (s.host.mem.bytes (d.at_ 8 8) (32 * d.at_ 16 2)) →
      bs.any sliceBad = false → (bs.map sliceSeq).eraseDups.length = d.at_ 16 2 → bs.any (sliceBeyond (s.sliceLen d.part)) = false →
      (∀ r ∈ (s.ctx d.part d.ctx).cores, d.at_ 20 4 + (32 + 32 * d.at_ 16 2) ≤ s.bound r.core r.slot) →
      ∃ t, Machine.exec (.runStep id) s = .next t
        ∧ (t.ctx d.part d.ctx).queue = (s.ctx d.part d.ctx).queue ++ [⟨d.at_ 20 4, bs, id, d.order⟩]
        ∧ ((s.ctx d.part d.ctx).state = .idle → (t.ctx d.part d.ctx).state ≠ .idle)
        ∧ t.host.descs = s.host.descs.map (fun e => if e.id = id then { e with st := .dispatched } else e) ∧ s.SameScratch t)
    ∧ (s.ready id 4 = some d → s.chansOn d.part = false →
      ∃ t, Machine.exec (.runStep id) s = .next t ∧ t.host.descs = finished s.host.descs id 0x19 [] ∧ s.SameBut [.host] t)
    ∧ (s.ready id 14 = some d → (s.ctx d.part d.ctx).state ≠ .teardown → (s.ctx d.part d.ctx).state ≠ .none →
      ∃ t, Machine.exec (.frog id) s = .next t ∧ (t.ctx d.part d.ctx).state = .teardown ∧ (t.ctx d.part d.ctx).queue = []
        ∧ (t.ctx d.part d.ctx).frog = some id ∧ (t.ctx d.part d.ctx).fault = none ∧ s.SameScratch t)
    ∧ (s.ready id 14 = some d → (s.ctx d.part d.ctx).state = .teardown →
      ∃ t, Machine.exec (.frog id) s = .next t ∧ t.host.descs = finished s.host.descs id 0x19 [] ∧ s.SameBut [.host] t)

/-- 2 claims together: SyncDescriptors, StepDescriptors. -/
def Obligations.SyncAndStepDescriptors : Prop := Sys2Proof.SyncDescriptors ∧ Sys2Proof.StepDescriptors

/-- The slice offsets of the entries a page descriptor names from byte `a` on: PTBASE, FIRST, COUNT (R278). -/
def Sys2Proof.namedEntries (d : Desc) (a : Nat) : List Nat :=
  (List.range (d.at_ (a + 8) 4)).map (fun i => d.at_ a 4 + 4 * (d.at_ (a + 4) 4 + i))

/-- A group that some entries name, by their words (R208). -/
def Sys2Proof.namedBy (es : List Nat) (g : PoolGroup) : Bool := es.any (fun e => bitsOf e 29 20 == g.off && bitsOf e 19 8 == g.slot)

/-- A byte of table memory holds bit 31 of an entry that a release clears (R309): a VALID entry that names one of the groups with its current
generation, among the words of `offs` and those that the group has been given before. -/
def Sys2Proof.clearsAt (s : State) (p : Nat) (offs es : List Nat) (a : Nat) : Prop :=
  ∃ g ∈ (s.part p).pool, namedBy es g = true ∧ ∃ o ∈ offs ++ g.entries, s.current p g o = true ∧ a = s.sliceKey p (o + 3)

/-- R208, R307-R309: PAGE_ALLOC gives its COUNT entries the first FREE groups of the pool, in order, each VALID with the group's place and generation; PAGE_FREE
makes the named groups PENDING on the context's latest step, or, with none, FREE with their generations incremented and their entries invalid, every VALID
entry that names one of them with its generation among those written with it;
PAGE_TABLE_WRITE copies entries from host memory. No other byte of table memory changes, and no group but those named. -/
def Obligations.Pages : Prop :=
  ∀ (s : State) (id : Nat) (d : Desc), (s.part d.part).chmask < 16 →
    (∀ (offs : List Nat) (gs : List PoolGroup), s.ready id 7 = some d → offs = namedEntries d 8 → (∀ o ∈ offs, o + 4 ≤ s.sliceLen d.part) →
      (∀ o ∈ offs, bitOf (s.sliceU32 d.part o) 31 = false) →
      gs = ((s.part d.part).pool.filter (fun g => g.st == .free)).take offs.length → gs.length = offs.length →
      ∃ t, Machine.exec (.pageAlloc id) s = .next t ∧ t.host.descs = finished s.host.descs id 0 (leBytes 4 offs.length)
        ∧ (t.part d.part).pool.map (fun (g : PoolGroup) => (g.off, g.slot, g.gen, g.st))
          = (s.part d.part).pool.map (fun (g : PoolGroup) => (g.off, g.slot, g.gen, if gs.contains g then PgState.alloc d.ctx else g.st))
        ∧ (∀ (i o : Nat) (g : PoolGroup), offs[i]? = some o → gs[i]? = some g → t.sliceBytes d.part o 4
          = leBytes 4 (2 ^ 31 + d.at_ 20 1 * 2 ^ 30 + g.off * 2 ^ 20 + g.slot * 2 ^ 8 + g.gen))
        ∧ (∀ a, (∀ o ∈ offs, ∀ j, j < 4 → a ≠ s.sliceKey d.part (o + j)) → t.tableMem.byte a = s.tableMem.byte a)
        ∧ s.SameBut [.tableMem, .parts, .host] t)
    ∧ (∀ offs, s.ready id 8 = some d → offs = namedEntries d 8 → (∀ o ∈ offs, o + 4 ≤ s.sliceLen d.part) →
        (∀ o ∈ offs, bitOf (s.sliceU32 d.part o) 31 = true
          ∧ ∃ g c, s.groupOf d.part (s.sliceU32 d.part o) = some g ∧ g.st = .alloc c ∧ g.gen = s.sliceU32 d.part o % 256) →
      (∀ st, (((s.ctx d.part d.ctx).queue.filter (fun q => q.order < d.order)).map (·.desc)).getLast? = some st →
        ∃ t, Machine.exec (.pageFree id) s = .next t ∧ t.host.descs = finished s.host.descs id 0 (leBytes 4 offs.length)
          ∧ List.Forall₂ (fun (g h : PoolGroup) =>
              (namedBy (offs.map (s.sliceU32 d.part)) g = true → h.off = g.off ∧ h.slot = g.slot ∧ h.gen = g.gen ∧ h.hdim = g.hdim
                ∧ h.st = .pending d.ctx st ∧ ∀ e ∈ h.entries, e ∈ offs ∨ e ∈ g.entries)
              ∧ (namedBy (offs.map (s.sliceU32 d.part)) g = false → h = g)) (s.part d.part).pool (t.part d.part).pool
          ∧ (∀ a, t.tableMem.byte a = s.tableMem.byte a) ∧ s.SameBut [.tableMem, .parts, .host] t)
      ∧ ((∀ q ∈ (s.ctx d.part d.ctx).queue, d.order ≤ q.order) →
        ∃ t, Machine.exec (.pageFree id) s = .next t ∧ t.host.descs = finished s.host.descs id 0 (leBytes 4 offs.length)
          ∧ (∀ o ∈ offs, bitOf (t.sliceU32 d.part o) 31 = false)
          ∧ PoolReleased (namedBy (offs.map (s.sliceU32 d.part))) (s.part d.part).pool (t.part d.part).pool
          ∧ (∀ a, clearsAt s d.part offs (offs.map (s.sliceU32 d.part)) a → t.tableMem.byte a = s.tableMem.byte a &&& 0x7F#8)
          ∧ (∀ a, ¬clearsAt s d.part offs (offs.map (s.sliceU32 d.part)) a → t.tableMem.byte a = s.tableMem.byte a)
          ∧ s.SameBut [.tableMem, .parts, .host] t))
    ∧ (∀ offs, s.ready id 9 = some d → offs = namedEntries d 16 → (∀ o ∈ offs, o + 4 ≤ s.sliceLen d.part) →
      s.hostBad (d.at_ 8 8) (4 * offs.length) = false →
      ∃ t, Machine.exec (.pageTableWrite id) s = .next t ∧ t.host.descs = finished s.host.descs id 0 []
        ∧ (∀ i o, offs[i]? = some o → t.sliceBytes d.part o 4 = s.host.mem.bytes (d.at_ 8 8 + 4 * i) 4)
        ∧ (t.part d.part).pool.map (fun (g : PoolGroup) => (g.off, g.slot, g.gen, g.st, g.hdim))
          = (s.part d.part).pool.map (fun (g : PoolGroup) => (g.off, g.slot, g.gen, g.st, g.hdim))
        ∧ (∀ a, (∀ o ∈ offs, ∀ j, j < 4 → a ≠ s.sliceKey d.part (o + j)) → t.tableMem.byte a = s.tableMem.byte a)
        ∧ s.SameBut [.tableMem, .parts, .host, .trc] t)

/-! ### The device root, the store, the operator's key -/

/-- R461: the certificate in the buffer is one of this part, and the root that its helper data give has the digest it names. -/
def Sys2Proof.CertificateGood (s : State) (b root : List Byte) : Prop :=
  leNat (b.take 4) = 1 ∧ leNat ((b.drop 4).take 4) = (s.rd R.ID_PART).toNat ∧ shake256 (0x10#8 :: root) 32 = (b.drop 8).take 32

/-- R460-R463, R467: CERTGO takes the certificate up, and is refused once ROOT_OK is set. Reconstruction that ends sets ROOT_OK and keeps root and
public key when the certificate is good, else ROOT_BAD. The unprogrammed store is bound to the root with a mark of 0; a store bound to this root gives leaf and
mark its record, where each of its records carries its tag under the root's key, and a store bound to another root, or with a wrong tag, stays closed.
An acknowledged reservation moves the mark, written with its tag over the raised write counter; a failed one closes the store. What a tag covers beside the
record, and that the operand says what the store answers, are the model's choice (log entry 96). -/
def Sys2Proof.RootAndStore : Prop :=
  ∀ s : State,
    (∀ req, req = 0 ∨ req = 5 →
      (s.bit R.SEC_STAT F.SEC_STAT_ROOT_OK = false →
        ∃ t, Machine.exec (.certgo req) s = .next t ∧ t.sec = { s.sec with checking := true } ∧ s.SameBut [.sec] t)
      ∧ (s.bit R.SEC_STAT F.SEC_STAT_ROOT_OK = true →
        ∃ t, Machine.exec (.certgo req) s = .next t ∧ t.bit R.SEC_STAT F.SEC_STAT_CFG_REJECT = true
          ∧ s.SameRegs [R.SEC_STAT] t ∧ s.SameBut [.regs] t))
    ∧ (∀ b root, s.sec.checking = true → b = s.sec.kbuf.bytes 0 2156 → root = Config.pufRoot ((b.drop 108).take 2048) →
      ∃ t, Machine.exec .rootReconstructionEnd s = .next t ∧ t.sec.checking = false
        ∧ (CertificateGood s b root → t.bit R.SEC_STAT F.SEC_STAT_ROOT_OK = true ∧ t.sec.root = some root
          ∧ t.sec.devpk = (b.drop 40).take 68)
        ∧ (¬CertificateGood s b root → t.bit R.SEC_STAT F.SEC_STAT_ROOT_BAD = true ∧ t.sec.root = s.sec.root
          ∧ t.bit R.SEC_STAT F.SEC_STAT_ROOT_OK = s.bit R.SEC_STAT F.SEC_STAT_ROOT_OK)
        ∧ s.SameRegs [R.SEC_STAT] t ∧ s.SameBut [.regs, .sec] t)
    ∧ (∀ root n, s.sec.root = some root → s.bit R.SEC_STAT F.SEC_STAT_STORE_OK = false →
        (s.sec.store.bound = none ∧ n = 0
          ∨ s.sec.store.bound = some (shake256 (0x11#8 :: root) 32) ∧ s.sec.store.hwm.map Prod.fst = some n ∧ n < 2 ^ 40
            ∧ s.sec.store.authentic (shake256 (0x11#8 :: root) 32) = true) →
      ∃ t, Machine.exec (.storeBinding true) s = .next t ∧ t.bit R.SEC_STAT F.SEC_STAT_STORE_OK = true
        ∧ t.sec.store.bound = some (shake256 (0x11#8 :: root) 32) ∧ t.sec.store.hwm.map Prod.fst = some n
        ∧ t.sec.heldGauge = [] ∧ (s.sec.store.gauge.length ≤ 65536 → t.sec.store.gauge.length = min 65536 (s.sec.store.gauge.length + s.sec.heldGauge.length))
        ∧ t.pair R.SEC_LEAF_LO R.SEC_LEAF_HI = n ∧ t.pair R.SEC_HWM_LO R.SEC_HWM_HI = n
        ∧ t.bit R.SEC_STAT F.SEC_STAT_OPKEY = s.sec.store.opkey.isSome
        ∧ (n = 2 ^ 40 - 1 → t.bit R.SEC_STAT F.SEC_STAT_EXHAUST = true)
        ∧ s.SameRegs [R.SEC_STAT, R.SEC_LEAF_LO, R.SEC_LEAF_HI, R.SEC_HWM_LO, R.SEC_HWM_HI] t ∧ s.SameBut [.regs, .sec] t)
    ∧ (∀ root k, s.sec.root = some root → s.sec.store.bound = some k →
      k ≠ shake256 (0x11#8 :: root) 32 ∨ s.sec.store.authentic k = false →
      Machine.exec (.storeBinding true) s = .next s)
    ∧ (∀ n, s.sec.reserving = some n → n < 2 ^ 64 →
      (∃ t, Machine.exec (.hwmAcknowledgement true) s = .next t ∧ t.sec.reserving = none
        ∧ t.sec.store.count = s.sec.store.count + 1
        ∧ t.sec.store.hwm = some (n, ⟨s.sec.store.count + 1,
            kmac256 ((s.sec.root.map storeKey).getD []) (leBytes 8 n ++ leBytes 8 (s.sec.store.count + 1))⟩)
        ∧ t.pair R.SEC_HWM_LO R.SEC_HWM_HI = n ∧ s.SameRegs [R.SEC_HWM_LO, R.SEC_HWM_HI] t ∧ s.SameBut [.regs, .sec] t)
      ∧ (∃ t, Machine.exec (.hwmAcknowledgement false) s = .next t ∧ t.sec = { s.sec with reserving := none }
        ∧ t.bit R.SEC_STAT F.SEC_STAT_STORE_OK = false ∧ s.SameRegs [R.SEC_STAT] t ∧ s.SameBut [.regs, .sec] t))

/-- R469-R471, R483: with the store open and no key installed, KINST by the management port installs the digest of the key in the buffer (KRES 1); where the
store write fails the store closes (KRES 2); until the store answers the action waits, KRES 3, and goes on with the key it was given; with a key installed KRES
is 2, and the PF is refused. KROT replaces the key by that of a record signed under it, and else leaves it. That the command's operand says what the store
answers, and that an action that waits shuts the other one out, are the model's choice (log entry 96). -/
def Sys2Proof.OperatorKey : Prop :=
  ∀ s : State,
    (∀ kb, s.bit R.SEC_STAT F.SEC_STAT_STORE_OK = true → s.sec.store.opkey = none →
        (s.sec.keying = none ∧ kb = s.sec.kbuf ∨ s.sec.keying = some (false, kb)) →
      (∃ t, Machine.exec (.kinst 5 (some true)) s = .next t
        ∧ t.sec.store.opkey.map Prod.fst = some (shake256 (kb.bytes 0 68) 32) ∧ t.sec.keying = none
        ∧ t.bit R.SEC_STAT F.SEC_STAT_OPKEY = true ∧ t.fld R.SEC_STAT F.SEC_STAT_KRES = 1
        ∧ s.SameRegs [R.SEC_STAT] t ∧ s.SameBut [.regs, .sec] t)
      ∧ (∃ t, Machine.exec (.kinst 5 (some false)) s = .next t ∧ t.bit R.SEC_STAT F.SEC_STAT_STORE_OK = false
        ∧ t.fld R.SEC_STAT F.SEC_STAT_KRES = 2 ∧ t.sec = { s.sec with keying := none }
        ∧ s.SameRegs [R.SEC_STAT] t ∧ s.SameBut [.regs, .sec] t)
      ∧ (∃ t, Machine.exec (.kinst 5 none) s = .next t ∧ t.fld R.SEC_STAT F.SEC_STAT_KRES = 3
        ∧ t.sec = { s.sec with keying := some (false, kb) } ∧ s.SameRegs [R.SEC_STAT] t ∧ s.SameBut [.regs, .sec] t))
    ∧ (∀ k good, s.sec.store.opkey = some k → s.sec.keying = none →
      ∃ t, Machine.exec (.kinst 5 good) s = .next t ∧ t.fld R.SEC_STAT F.SEC_STAT_KRES = 2
        ∧ s.SameRegs [R.SEC_STAT] t ∧ s.SameBut [.regs] t)
    ∧ (∀ good, ∃ t, Machine.exec (.kinst 0 good) s = .next t ∧ t.bit R.SEC_STAT F.SEC_STAT_CFG_REJECT = true
        ∧ s.SameRegs [R.SEC_STAT] t ∧ s.SameBut [.regs] t)
    ∧ (∀ req k n e, req = 0 ∨ req = 5 → s.sec.store.opkey = some k → s.sec.keying = none →
        envSigLen (s.sec.kbuf.bytes 0 256) = some n → e = s.sec.kbuf.bytes 0 (324 + n) →
      (s.bit R.SEC_STAT F.SEC_STAT_STORE_OK = true → leNat ((e.drop 8).take 4) = 68 → envelopeOk e 2 = true → signedUnder k.1 e = true →
        (∃ t, Machine.exec (.krot req (some true)) s = .next t
          ∧ t.sec.store.opkey.map Prod.fst = some (shake256 ((e.drop 256).take 68) 32) ∧ t.fld R.SEC_STAT F.SEC_STAT_KRES = 1
          ∧ s.SameRegs [R.SEC_STAT] t ∧ s.SameBut [.regs, .sec] t)
        ∧ (∃ t, Machine.exec (.krot req none) s = .next t ∧ t.fld R.SEC_STAT F.SEC_STAT_KRES = 3
          ∧ t.sec = { s.sec with keying := some (true, s.sec.kbuf) } ∧ s.SameRegs [R.SEC_STAT] t ∧ s.SameBut [.regs, .sec] t))
      ∧ (s.bit R.SEC_STAT F.SEC_STAT_STORE_OK = false ∨ leNat ((e.drop 8).take 4) ≠ 68 ∨ envelopeOk e 2 = false
            ∨ signedUnder k.1 e = false →
        ∀ good, ∃ t, Machine.exec (.krot req good) s = .next t ∧ t.sec = s.sec ∧ t.fld R.SEC_STAT F.SEC_STAT_KRES = 2
          ∧ s.SameRegs [R.SEC_STAT] t ∧ s.SameBut [.regs] t))

/-- 2 claims together: RootAndStore, OperatorKey. -/
def Obligations.RootOfTrust : Prop := Sys2Proof.RootAndStore ∧ Sys2Proof.OperatorKey

/-! ### Quotes, the recorder -/

/-- R467, R473, R474, R479-R481: ATTEST uses the next leaf once and writes the quote: the body with version, part, leaf and nonce, the blocks of other functions'
partitions 0, then the leaf and the signature; a leaf at the mark is reserved first; a short buffer gets LENGTH (0x18) and the length. A recorder read
answers EMPTY (3) for a block never written, and the bytes of a block as it was recorded. An overwritten region reads zero and holds no block; the rest stays.
The algorithm of the signature is the one of RFC 8391 that the spec names (log entry 26); where a block lies in its region, what its record holds beside data and
tag, and EMPTY by the die's own count are the model's (log entry 95). -/
def Obligations.QuotesAndRecorder : Prop :=
  ∀ s : State,
    (∀ id d root leaf a, s.ready id 13 = some d → d.raw.length = 64 → s.bit R.SEC_STAT F.SEC_STAT_STORE_OK = true →
        s.bit R.SEC_STAT F.SEC_STAT_EXHAUST = false → s.sec.root = some root → leaf = s.pair R.SEC_LEAF_LO R.SEC_LEAF_HI →
        leaf < 2 ^ 40 - 1 → 13285 ≤ d.at_ 16 4 → a = d.at_ 8 8 →
      (leaf ≠ s.pair R.SEC_HWM_LO R.SEC_HWM_HI → s.hostBad a 13285 = false →
        ∃ t, Machine.exec (.attest id) s = .next t ∧ t.pair R.SEC_LEAF_LO R.SEC_LEAF_HI = leaf + 1
          ∧ t.host.descs = finished s.host.descs id 0 (leBytes 4 13285)
          ∧ t.host.mem.bytes a 16 = leBytes 4 1 ++ leBytes 4 (s.rd R.ID_PART).toNat ++ leBytes 8 leaf
          ∧ t.host.mem.bytes (a + 16) 32 = (d.raw.drop 24).take 32
          ∧ (∀ p, p < 4 → d.fn ≠ 0 → d.fn ≠ p + 1 → t.host.mem.bytes (a + 128 + 816 * p) 816 = List.replicate 816 0#8)
          ∧ t.host.mem.bytes (a + 3392) 5 = beBytes 5 leaf
          ∧ t.host.mem.bytes (a + 3397) 9888 = identitySign root leaf (t.host.mem.bytes a 3392)
          ∧ (∀ b, (b < a ∨ a + 13285 ≤ b) → t.host.mem.byte b = s.host.mem.byte b)
          ∧ s.SameRegs [R.SEC_LEAF_LO, R.SEC_LEAF_HI, R.SEC_STAT] t ∧ s.SameBut [.regs, .host, .trc] t)
      ∧ (leaf = s.pair R.SEC_HWM_LO R.SEC_HWM_HI → s.sec.reserving = none →
        ∃ t, Machine.exec (.attest id) s = .next t ∧ t.sec = { s.sec with reserving := some (leaf + 64) } ∧ s.SameBut [.sec] t))
    ∧ (∀ id d, s.ready id 13 = some d → d.at_ 16 4 < 13285 →
      ∃ t, Machine.exec (.attest id) s = .next t ∧ t.host.descs = finished s.host.descs id 0x18 (leBytes 4 13285)
        ∧ s.SameBut [.host] t)
    ∧ (∀ req r k, req = 0 ∨ req = 5 → r < 5 → k < 2 ^ 14 →
      ∃ t, Machine.exec (.recorderRead req r k) s = .next t ∧ t.sec = { s.sec with reading := true }
        ∧ t.fld R.SEC_RRD_ADDR F.SEC_RRD_ADDR_REGION = r ∧ t.fld R.SEC_RRD_ADDR F.SEC_RRD_ADDR_BLOCK = k
        ∧ t.rd R.SEC_RRD_STAT = 0#32 ∧ s.SameRegs [R.SEC_RRD_ADDR, R.SEC_RRD_STAT] t ∧ s.SameBut [.regs, .sec] t)
    ∧ (∀ r k wc, s.sec.reading = true → r = s.fld R.SEC_RRD_ADDR F.SEC_RRD_ADDR_REGION → k = s.fld R.SEC_RRD_ADDR F.SEC_RRD_ADDR_BLOCK →
        r < 5 → wc = FMap.get 0 s.sec.recWc (recKey r k) →
      (wc = 0 → ∃ t, Machine.exec .recorderReadEnd s = .next t ∧ t.rd R.SEC_RRD_STAT = 0x80000003#32
        ∧ t.sec = { s.sec with reading := false, rrd := [] } ∧ s.SameRegs [R.SEC_RRD_STAT] t ∧ s.SameBut [.regs, .sec] t)
      ∧ (∀ data, wc ≠ 0 → wc < 2 ^ 64 → data.length = 4096 →
        s.sec.psram.bytes (s.fld (R.SEC_REC_CFG r) F.SEC_REC_CFG_BASE_MB * 2 ^ 20 + 4128 * k) 4128
          = blockRecord (keyBytes s.sec.recKey) wc k r data →
        ∃ t, Machine.exec .recorderReadEnd s = .next t ∧ t.rd R.SEC_RRD_STAT = 0x80000000#32
          ∧ t.sec = { s.sec with reading := false, rrd := data } ∧ s.SameRegs [R.SEC_RRD_STAT] t ∧ s.SameBut [.regs, .sec] t))
    ∧ (∀ r, r < 5 → s.bit (R.SEC_REC_CFG r) F.SEC_REC_CFG_BUSY = true →
      ∃ t, Machine.exec (.regionOverwriteEnd r) s = .next t ∧ t.bit (R.SEC_REC_CFG r) F.SEC_REC_CFG_BUSY = false
        ∧ (∀ k, k < 2 ^ 14 → FMap.get 0 t.sec.recWc (recKey r k) = 0)
        ∧ (∀ q k, q ≠ r → k < 2 ^ 14 → FMap.get 0 t.sec.recWc (recKey q k) = FMap.get 0 s.sec.recWc (recKey q k))
        ∧ (∀ a base n, base = s.fld (R.SEC_REC_CFG r) F.SEC_REC_CFG_BASE_MB * 2 ^ 20 →
          n = s.fld (R.SEC_REC_CFG r) F.SEC_REC_CFG_SIZE_MB * 2 ^ 20 →
          (base ≤ a → a < base + n → t.sec.psram.byte a = 0#8) ∧ (a < base ∨ base + n ≤ a → t.sec.psram.byte a = s.sec.psram.byte a))
        ∧ s.SameRegs [R.SEC_REC_CFG r] t ∧ s.SameBut [.regs, .sec] t)

/-! ### Spill, restore, programs and configurations -/

/-- R470, R471, R476: what a seal or an image closes, its key opens: authenticated encryption gives the plaintext back and refuses another tag, and
the chunks of a spill image open to the bytes spilled. -/
def Obligations.SealsOpen : Prop :=
  ∀ key : List Byte, key.length = 32 →
    (∀ iv aad m, iv.length = 12 → gcmOpen key iv aad (gcmSeal key iv aad m).1 (gcmSeal key iv aad m).2 = some m)
    ∧ (∀ iv aad c tag m, iv.length = 12 → gcmOpen key iv aad c tag = some m → gcmSeal key iv aad m = (c, tag))
    ∧ (∀ (head : List Byte) (spn nch : Nat) (plain : List Byte), plain.length = 4096 * nch → head.length = 112 →
      openChunks key head spn 0 (chunksOf 4112 nch ((spillImage key head spn nch plain).drop 128)) = (plain, true))

/-- The entries that a descriptor names lie in its partition's slice, and each is VALID and names a group with its generation (R208, R476, R477). -/
def Sys2Proof.NamedEntries (s : State) (d : Desc) (es : List Nat) : Prop :=
  es = (d.entries 20).map (s.sliceU32 d.part) ∧ s.entriesIn d.part (d.entries 20) = true
    ∧ ∀ e ∈ es, bitOf e 31 = true ∧ ∃ g, s.groupOf d.part e = some g ∧ g.gen = e % 256

/-- The pages of `n` bytes, for a head dimension, of the groups that entries name, in order, in windows that take them, on cores that nothing
holds (R205, R209, R241, R476). -/
def Sys2Proof.PagesOf (s : State) (d : Desc) (es : List Nat) (hdim n : Nat) (rs : List (Nat × Dest)) : Prop :=
  n = s.pageBytes d.part d.ctx hdim ∧ n ≠ 0 ∧ s.pageRanges d.part d.ctx n (es.flatMap (s.groupPages d.part d.ctx)) = .ok rs
    ∧ ∀ r ∈ rs, s.holds r.1 = false

/-- The places of pages in the scratchpads: first key, count of bytes. -/
def Sys2Proof.pageKeys (s : State) (rs : List (Nat × Dest)) : List (Nat × Nat) :=
  rs.flatMap (fun r => r.2.2.2.map (fun g => (cellKey r.1 (s.phys r.1 r.2.1 g.1), g.2)))

/-- R475-R478: SPILL of entries that are valid and of one form writes the image of the pages' bytes under the context's key with the next spill number and enters
it in the ledger; the pages stay. RESTORE of an image that the ledger lists pours its bytes over the pages, in order, and no other byte changes; one that is not
the ledger's completes VERIFY_FAILED (0x0A) with no byte changed. No word of the device is marked in error here. That SPN counts from 1 and what the ledger drops
when it is full are the model's (log entry 94). -/
def Sys2Proof.SpillAndRestore : Prop :=
  ∀ (s : State) (id a n hdim nch : Nat) (d : Desc) (es : List Nat) (rs : List (Nat × Dest)), a = d.at_ 8 8 → s.ue = [] → s.ce = [] →
    d.part < 4 → d.ctx < 8 → NamedEntries s d es →
    (∀ spn, s.ready id 10 = some d → spn = (s.ctx d.part d.ctx).spn + 1 → spn < 2 ^ 32 → es ≠ [] →
      (∀ e ∈ es, ∃ g, s.groupOf d.part e = some g ∧ g.hdim = hdim) → PagesOf s d es hdim n rs →
      nch = (rs.length * n + 4095) / 4096 → 128 + 4112 * nch ≤ d.at_ 16 4 → s.hostBad a (128 + 4112 * nch) = false →
      ∃ t, Machine.exec (.spill id) s = .next t ∧ t.host.descs = finished s.host.descs id 0 (leBytes 4 (128 + 4112 * nch))
        ∧ (t.ctx d.part d.ctx).spn = spn
        ∧ (d.at_ 20 4, d.at_ 24 4, (d.entries 20).length, spn) ∈ (t.ctx d.part d.ctx).ledger
        ∧ t.host.mem.bytes a (128 + 4112 * nch) = spillImage (keyBytes (s.ctx d.part d.ctx).keyAt)
          (spillHead d.part d.ctx spn (d.at_ 20 4) (d.at_ 24 4) (d.entries 20).length hdim (s.ctx d.part d.ctx).mode nch) spn nch
          ((pageKeys s rs).flatMap (fun g => s.scratch.bytes g.1 g.2))
        ∧ (∀ b, (b < a ∨ a + (128 + 4112 * nch) ≤ b) → t.host.mem.byte b = s.host.mem.byte b)
        ∧ s.SameBut [.parts, .host, .trc] t)
    ∧ (∀ img, s.ready id 11 = some d → s.hostBad a (d.at_ 16 4) = false → img = s.host.mem.bytes a (d.at_ 16 4) →
      (∀ q ∈ (s.ctx d.part d.ctx).ledger, q.2.2.2 ≠ leNat ((img.drop 8).take 4)) →
      ∃ t, Machine.exec (.restore id) s = .next t ∧ t.host.descs = finished s.host.descs id 0x0A (leBytes 4 0) ∧ s.SameBut [.host, .trc] t)
    ∧ (∀ m plain, s.ready id 11 = some d → s.hostBad a (d.at_ 16 4) = false → PagesOf s d es hdim n rs →
      hdim < 2 ^ 16 → plain.length = rs.length * n → nch = (rs.length * n + 4095) / 4096 → nch < 2 ^ 32 →
      128 + 4112 * nch = d.at_ 16 4 → m < 2 ^ 32 → (s.ctx d.part d.ctx).mode < 2 ^ 32 →
      (d.at_ 20 4, d.at_ 24 4, (d.entries 20).length, m) ∈ (s.ctx d.part d.ctx).ledger →
      s.host.mem.bytes a (d.at_ 16 4) = spillImage (keyBytes (s.ctx d.part d.ctx).keyAt)
        (spillHead d.part d.ctx m (d.at_ 20 4) (d.at_ 24 4) (d.entries 20).length hdim (s.ctx d.part d.ctx).mode nch) m nch plain →
      ∃ t, Machine.exec (.restore id) s = .next t ∧ t.host.descs = finished s.host.descs id 0 (leBytes 4 (128 + 4112 * nch))
        ∧ (∀ i g, (pageKeys s rs)[i]? = some g →
          (∀ j h, (pageKeys s rs)[j]? = some h → j ≠ i → h.1 + h.2 ≤ g.1 ∨ g.1 + g.2 ≤ h.1) →
          t.scratch.bytes g.1 g.2 = (plain.drop (n * i)).take n)
        ∧ s.SameBytes (pageKeys s rs) t ∧ s.SameBut [.scratch, .words, .ue, .ce, .cores, .parts, .host, .trc] t)

/-- LOAD_PROGRAM in hand with a verified configuration: read and verified just now, or earlier, when it has waited (R293). -/
def Sys2Proof.ConfigInHand (s : State) (d : Desc) (e : List Byte) : Prop :=
  d.st = .dispatched ∧ e = d.image ∧ (s.part d.part).resetting = none
    ∨ d.st = .checked ∧ d.at_ 20 1 = 1 ∧ s.hostBad (d.at_ 8 8) (d.at_ 16 4) = false
      ∧ e = s.host.mem.bytes (d.at_ 8 8) (d.at_ 16 4) ∧ s.verifies e 1 = true

/-- R293-R296, R471, R472: LOAD_PROGRAM of an image that does not verify completes VERIFY_FAILED (0x0A). A verified package whose sections are accepted loads into an
idle context: digests and serial number from the image, no load counted since; into another context it gets BAD_STATE. A verified configuration makes its
partition reset first when it is in use; with no window enabled or zeroing on its cores its contexts are IDLE, their windows enabled, their slots theirs, and PART_CFG shows it.
That RESULT is 0 for an image that verified and ends with another status than OK is the model's choice (log entry 132); the checks of a configuration that cfgOk
gathers read R295 and R296 as log entry 52 says. -/
def Sys2Proof.LoadsProgram : Prop :=
  ∀ (s : State) (id p : Nat) (d : Desc) (e b : List Byte),
    s.host.descs.find? (fun d => d.id == id && d.opcode == 1 && (d.st == .checked || d.st == .dispatched)) = some d → p = d.part →
    p < 4 → d.ctx < 8 → b = (e.drop 256).take (leNat ((e.drop 8).take 4)) →
    (d.st = .checked → s.hostBad (d.at_ 8 8) (d.at_ 16 4) = false → e = s.host.mem.bytes (d.at_ 8 8) (d.at_ 16 4) →
      (s.verifies e (d.at_ 20 1) = false →
        ∃ t, Machine.exec (.loadProgram id) s = .next t ∧ t.host.descs = finished s.host.descs id 0x0A [] ∧ s.SameBut [.host, .trc] t)
      ∧ (s.verifies e 0 = true → d.at_ 20 1 = 0 → (∀ r ∈ pkgSections b, s.holds r.core = false) →
        ((s.ctx p d.ctx).state ≠ .idle →
          ∃ t, Machine.exec (.loadProgram id) s = .next t ∧ (∀ f ∈ t.host.descs, f.id = id → f.st = .done ∧ f.status = 0x19)
            ∧ s.SameBut [.host, .trc] t)
        ∧ ((s.ctx p d.ctx).state = .idle → pkgOk b (s.ctx p d.ctx).mode = true →
          (∀ r ∈ pkgSections b, r.ok = true ∧ s.sectionStatus p d.ctx r = 0) → s.ue = [] → s.ce = [] →
          ∃ t, Machine.exec (.loadProgram id) s = .next t
            ∧ t.host.descs = finished s.host.descs id 0 ((shake256 (0x20#8 :: e.take (256 + leNat ((e.drop 8).take 4))) 32).take 16)
            ∧ (t.ctx p d.ctx).pkgDig = shake256 (0x20#8 :: e.take (256 + leNat ((e.drop 8).take 4))) 32
            ∧ (t.ctx p d.ctx).progDig = b.take 32 ∧ (t.ctx p d.ctx).wtsDig = (b.drop 32).take 32
            ∧ (t.ctx p d.ctx).serial = leNat ((e.drop 12).take 4) ∧ (t.ctx p d.ctx).loads = 0
            ∧ (∀ r k, pkgSections b = [r] → s.slotOf r.core p d.ctx = some k →
              t.scratch.bytes (cellKey r.core (s.phys r.core k r.addr)) r.len = (b.drop r.off).take r.len
              ∧ s.SameBytes [(cellKey r.core (s.phys r.core k r.addr), r.len)] t))))
    ∧ (ConfigInHand s d e →
      (cfgOk s.tableMem s.own b = false ∨ s.cfgFits p b = false →
        ∃ t, Machine.exec (.loadProgram id) s = .next t ∧ t.host.descs = finished s.host.descs id 0x0A [] ∧ s.SameBut [.host, .trc] t)
      ∧ (cfgOk s.tableMem s.own b = true → s.cfgFits p b = true → (s.part p).resetting = none → (s.part p).configured = true →
        ∃ t, Machine.exec (.loadProgram id) s = .next t ∧ (t.part p).resetting = some 6 ∧ s.SameScratch t)
      ∧ (cfgOk s.tableMem s.own b = true → s.cfgFits p b = true → (s.part p).resetting = none → (s.part p).configured = false →
        (∀ c ∈ cfgChanCores b, s.fld (R.CORE_STAT (chanOf c) (posOf c)) F.CORE_STAT_ZEROING = 0
          ∧ ∀ k, k < 4 → s.bit (R.CORE_WIN_CFG (chanOf c) (posOf c) k) F.CORE_WIN_CFG_EN = false) →
        ∃ t, Machine.exec (.loadProgram id) s = .next t ∧ (∀ f ∈ t.host.descs, f.id = id → f.st = .done ∧ f.status = 0)
          ∧ (t.part p).configured = true ∧ (t.part p).chmask = leNat ((b.drop 1).take 1) ∧ (t.part p).nctx = leNat ((b.drop 2).take 1)
          ∧ (t.part p).job = leNat ((b.drop 4).take 2)
          ∧ (t.part p).configDig = shake256 (0x20#8 :: e.take (256 + leNat ((e.drop 8).take 4))) 32
          ∧ bitOf (t.fld R.HI_STAT F.HI_STAT_PART_CFG) p = true
          ∧ (∀ q, q ≠ p → t.part q = s.part q)
          ∧ (∀ x, x < leNat ((b.drop 2).take 1) → (t.ctx p x).state = .idle ∧ (t.ctx p x).vt = 0 ∧ (t.ctx p x).steps = 0
            ∧ (t.ctx p x).cores = cfgCoreSet b (bitsSet (leNat ((b.drop 1).take 1)) 4) x
            ∧ ∀ r ∈ (t.ctx p x).cores, t.slot r.core r.slot = { Slot.init with owner := some (p, x) }
              ∧ t.rd (R.CORE_WIN_CFG (chanOf r.core) (posOf r.core) r.slot) = BitVec.ofNat 32 (2 ^ 31 + r.size * 2 ^ 12 + r.base)
              ∧ (t.rd (R.CORE_CTX_ENTRY (chanOf r.core) (posOf r.core) r.slot)).toNat = r.entry)))

/-- 2 claims together: SpillAndRestore, LoadsProgram. -/
def Obligations.SpillRestoreAndLoad : Prop := Sys2Proof.SpillAndRestore ∧ Sys2Proof.LoadsProgram

/-! ### Resets, power -/

/-- R510, R511: the Fabric is in reset: its registers read their reset values (a channel's state may show what holds it), its cores, memories and network are
empty, no partition is configured and no descriptor is in the device. -/
structure Sys2Proof.FabricDown (t : State) : Prop where
  regs : ∀ a, 0x01000000 ≤ a → a < 0x02000000 → (∀ n, n < 4 → a ≠ R.CP_STAT n) → t.rd a = regReset a
  cores : t.cores = [] ∧ t.scratch = [] ∧ t.ue = [] ∧ t.ce = [] ∧ t.tableMem = []
  noc : t.noc = State.reset.noc ∧ t.migr = []
  parts : t.parts = [] ∧ t.fld R.HI_STAT F.HI_STAT_PART_CFG = 0
  host : t.host.descs = [] ∧ t.host.qps = []

/-- Whether UP of a domain reads 1 (R516). -/
def Sys2Proof.upShown (s : State) (d : Nat) : Bool :=
  if d < 32 then bitOf (s.fld R.PWR_UP_LO F.PWR_UP_LO_UP) d else bitOf (s.fld R.PWR_UP_HI F.PWR_UP_HI_UP) (d - 32)

/-- R421, R510: the island is in reset: its registers read their reset values, so that no permit is granted, and its engines are empty. -/
structure Sys2Proof.IslandDown (t : State) : Prop where
  flag : t.pwr.isl = true
  regs : ∀ a, 0x02200000 ≤ a → a < 0x02600000 → t.rd a = regReset a
  engines : t.ing = State.reset.ing ∧ t.eng = State.reset.eng ∧ t.time = State.reset.time
  permits : ∀ k, k < 8 → t.bit (R.PERMIT_CTRL k) F.PERMIT_CTRL_GRANT = false

/-- The Fabric runs: it is powered, out of cast-on and not in reset. -/
def Sys2Proof.FabricUp (s : State) : Prop :=
  s.powered = true ∧ s.pwr.cast = false ∧ s.bit R.HI_STAT F.HI_STAT_FABRIC_RESET = false

/-- R264, R291, R317, R421, R510-R512, R516, R528: FABRST by the management port, an FLR of the PF and, once the Fabric has been ready, a PCIe reset put the
Fabric in reset with host memory as it was; the last three reset every function. ISLRST resets the island; the PF may trigger neither. An FLR of a VF resets its
rings and its partition. NumVFs brings functions at their reset values. What is in reset does not show UP. That a Fabric goes down at the trigger, and NumVFs to 0
on a PCIe reset, are the model's choice (log entry 86); so is what follows the sensors and not the island (log entry 81). -/
def Obligations.ResetsOfParts : Prop :=
  ∀ s : State,
    (FabricUp s →
      (∃ t, Machine.exec (.fabrst 5) s = .next t ∧ FabricDown t ∧ t.host.mem = s.host.mem
        ∧ t.bit R.HI_STAT F.HI_STAT_FABRIC_RESET = true ∧ t.bit R.HI_STAT F.HI_STAT_FABRIC_READY = false
        ∧ (∀ d, 5 ≤ d → d < 50 → upShown t d = false) ∧ t.tests.bist = none
        ∧ t.sec = { s.sec with recWc := t.sec.recWc, recNext := t.sec.recNext }
        ∧ (∀ r, r < 4 → 0 < s.fld (R.SEC_REC_CFG r) F.SEC_REC_CFG_SIZE_MB → t.bit (R.SEC_REC_CFG r) F.SEC_REC_CFG_BUSY = true)
        ∧ s.SameBut [.regs, .hold, .scratch, .ue, .ce, .tableMem, .cores, .noc, .parts, .migr, .host, .tests, .sec, .trc] t)
      ∧ (∀ c : Instr, c = .pfFlr ∨ s.pwr.wasReady = true ∧ (c = .pcieHotReset ∨ c = .perstNFall ∧ s.pwr.perst = false) →
        ∃ t, Machine.exec c s = .next t ∧ FabricDown t ∧ t.host.mem = s.host.mem ∧ t.host.numVFs = 0
          ∧ t.bit R.HI_STAT F.HI_STAT_FABRIC_RESET = true
          ∧ (∀ f q, f < 5 → q < 64 → t.qpState f q = 0 ∧ t.rd (R.HI_QP_CFG f q) = regReset (R.HI_QP_CFG f q))))
    ∧ (s.pwr.perst = false →
      ∃ t, Machine.exec .perstNFall s = .next t ∧ t.pwr.perst = true ∧ t.pwr.training = false
        ∧ (s.pwr.wasReady = false → s.SameBut [.pwr] t))
    ∧ (∃ t, Machine.exec .perstNRise s = .next t ∧ t.pwr.perst = false
        ∧ (s.bit R.HI_STAT F.HI_STAT_ISLAND_UP = true → t.pwr.training = true) ∧ s.SameBut [.pwr] t)
    ∧ (s.pwr.isl = false →
      ∃ t, Machine.exec (.islrst 5) s = .next t ∧ IslandDown t ∧ t.bit R.HI_STAT F.HI_STAT_ISLAND_UP = false
        ∧ (∀ a, 0x01000000 ≤ a → a < 0x02100000 → t.rd a = s.rd a)
        ∧ (∀ d, 1 ≤ d → d ≤ 4 → upShown t d = false) ∧ t.safe.warm = s.safe.warm ∧ t.tests.bist = none
        ∧ t.sec = { s.sec with recWc := t.sec.recWc, recNext := t.sec.recNext }
        ∧ s.SameBut [.regs, .hold, .ing, .eng, .time, .safe, .tests, .sec, .pwr] t)
    ∧ (∀ c : Instr, c = .fabrst 0 ∨ c = .islrst 0 →
      ∃ t, Machine.exec c s = .next t ∧ t.bit R.PWR_STAT F.PWR_STAT_CFG_REJECT = true ∧ s.SameRegs [R.PWR_STAT] t ∧ s.SameBut [.regs] t)
    ∧ (∀ f, 1 ≤ f → f ≤ 4 → s.fnUp f = true →
      ∃ t, Machine.exec (.vfFlr f) s = .next t ∧ (∀ d ∈ t.host.descs, d.fn ≠ f)
        ∧ (∀ q, q < 64 → t.qpState f q = 0 ∧ t.rd (R.HI_QP_CFG f q) = regReset (R.HI_QP_CFG f q))
        ∧ ((s.part (f - 1)).configured = true → (s.part (f - 1)).resetting = none → (t.part (f - 1)).resetting = some 1))
    ∧ (∀ n, n ≤ 4 →
      ∃ t, Machine.exec (.numvfsWrite n) s = .next t ∧ t.host.numVFs = n
        ∧ (∀ f q, s.host.numVFs < f → f ≤ n → q < 64 → t.qpState f q = 0)
        ∧ (∀ f q, f ≤ s.host.numVFs → f < 5 → q < 64 → t.rd (R.HI_QP_CFG f q) = s.rd (R.HI_QP_CFG f q))
        ∧ s.SameBut [.regs, .hold, .host] t)

/-- R454, R504-R506, R513: a rail that crosses its reset threshold resets its domains: a channel is held OFF, its cores empty and its partition in reset; the fifth
rail resets the island. A domain that may be gated loses its registers and contents; one that may not is refused. A gate that is cleared powers the domain up; it
then shows UP, unless a reset holds it, and a channel that nothing holds is ON. What a channel's reset and a gated domain lose one by one is the model's
reading (log entries 85, 87). -/
def Sys2Proof.RailsAndGates : Prop :=
  ∀ (s : State), s.powered = true →
    (∀ r, r < 4 → s.chState r ≠ 3 →
      ∃ t, Machine.exec (.railReset r) s = .next t ∧ t.chState r = 0 ∧ bitOf t.pwr.held r = true
        ∧ bitOf (t.fld R.SUPPLY_STAT F.SUPPLY_STAT_RESETS) r = true ∧ (∀ d ∈ chanDomains r, upShown t d = false)
        ∧ (∀ c, c < 256 → t.core (r * 256 + c) = .init ∧ ∀ b, b < 2 ^ 22 → t.scratch.byte (cellKey (r * 256 + c) b) = 0#8)
        ∧ (∀ p, s.ownerOf r = some p → (s.part p).resetting = none → (t.part p).resetting = some 4))
    ∧ (s.pwr.isl = false →
      ∃ t, Machine.exec (.railReset 4) s = .next t ∧ IslandDown t ∧ bitOf (t.fld R.SUPPLY_STAT F.SUPPLY_STAT_RESETS) 4 = true)
    ∧ (∀ req d, (req = 0 ∨ req = 5) → d < 50 → s.gateBit d = false →
      (s.mayGate d = true →
        ∃ t, Machine.exec (.pwrGate req d) s = .next t ∧ t.gateBit d = true
          ∧ (∀ n a, n < 4 → d = 10 + n → R.CP_CTRL n ≤ a → a < R.CP_CTRL n + 0x100000 → a ≠ R.CP_STAT n → t.rd a = regReset a)
          ∧ (∀ n b, n < 4 → d = 10 + n → b < 2 ^ 22 → t.tableMem.byte (n * 2 ^ 22 + b) = 0#8)
          ∧ (∀ n k c b, n < 4 → k < 9 → d = 14 + 9 * n + k → c ∈ s.groupCores n k → b < 2 ^ 22 →
            t.scratch.byte (cellKey c b) = 0#8 ∧ t.core c = .init)
          ∧ s.SameBut [.regs, .hold, .scratch, .words, .ue, .ce, .tableMem, .cores, .noc, .ing, .pwr] t)
      ∧ (s.mayGate d = false →
        ∃ t, Machine.exec (.pwrGate req d) s = .next t ∧ t.bit R.PWR_STAT F.PWR_STAT_CFG_REJECT = true
          ∧ s.SameRegs [R.PWR_STAT] t ∧ s.SameBut [.regs] t))
    ∧ (∀ req d, (req = 0 ∨ req = 5) → d < 50 → s.gateBit d = true →
      ∃ t, Machine.exec (.pwrUngate req d) s = .next t ∧ t.gateBit d = false ∧ bitOf t.pwr.rising d = true
        ∧ s.SameRegs [R.PWR_GATE_LO, R.PWR_GATE_HI] t ∧ s.SameBut [.regs, .pwr] t)
    ∧ (∀ d, d < 50 → bitOf s.pwr.rising d = true →
      ∃ t, Machine.exec (.pwrUp d) s = .next t ∧ bitOf t.pwr.rising d = false
        ∧ (s.gateBit d = false → s.domainReset d = false → upShown t d = true)
        ∧ (s.domainReset d = true → upShown t d = upShown s d)
        ∧ (∀ n, n < 4 → d = 10 + n → s.chState n ≠ 3 → bitOf s.pwr.held n = false → t.chState n = 1)
        ∧ s.SameBut [.regs, .trc, .fresh, .pwr] t)

/-- R447, R456, R501, R508, R510-R514, R526: PORST_N low, or a brown-out, leaves every register but RST_CAUSE at its reset value and every memory of the device
empty, with host memory and the store as they were; as it rises the straps are taken. The PLL locks; a clock reset empties island and Fabric and starts
cast-on again. The self-test that ends enters exactly the failed cores in the spare map, and a row with two of them leaves its channel UNBOUND. The island
comes up with every permit low, its first test interval begun. Cast-on, its measurements made and its lowerings done, or a Fabric reset, ends in FABRIC_READY,
but not with CASTON_FAIL. A pin that is low and a brown-out last independently: the reset begins with the first and ends with the last. The draw of the
recorder's key at lock, the domains that come up with the island, and FABRIC_READY with CASTON_FAIL are the model's choice (log entries 87, 102, 86). -/
def Sys2Proof.ColdStart : Prop :=
  ∀ (s : State) (clu chip : Nat),
    (∀ (c : Instr) (n : Nat), s.pwr.porst = false → (c = .porstN true clu chip ∧ n = 1 ∨ c = .brownOut true clu chip ∧ n = 2) →
      ∃ t, Machine.exec c s = .next t ∧ t.fld R.RST_CAUSE F.RST_CAUSE_CAUSE = n
        ∧ t.bit R.RST_CAUSE F.RST_CAUSE_SHUTDOWN = s.pwr.shut ∧ (∀ a, a ≠ R.RST_CAUSE → t.rd a = regReset a)
        ∧ t.scratch = [] ∧ t.tableMem = [] ∧ t.cores = [] ∧ t.parts = [] ∧ t.noc = State.reset.noc ∧ t.pwr.porst = true
        ∧ t.host.mem = s.host.mem ∧ t.sec.store = s.sec.store ∧ t.pending = s.pending)
    ∧ (s.pwr.porst = true → Machine.exec (.porstN true clu chip) s = .next { s with pwr := { s.pwr with pinLow := true } }
        ∧ Machine.exec (.brownOut true clu chip) s = .next { s with pwr := { s.pwr with brown := true } })
    ∧ (s.pwr.brown = true → Machine.exec (.porstN false clu chip) s = .next { s with pwr := { s.pwr with pinLow := false } })
    ∧ (s.pwr.pinLow = true → Machine.exec (.brownOut false clu chip) s = .next { s with pwr := { s.pwr with brown := false } })
    ∧ (∀ c : Instr, (c = .porstN false clu chip ∧ s.pwr.pinLow = true ∧ s.pwr.brown = false
          ∨ c = .brownOut false clu chip ∧ s.pwr.brown = true ∧ s.pwr.pinLow = false) → chip < 16 →
      ∃ t, Machine.exec c s = .next t ∧ t.pwr.porst = false ∧ t.fld R.KL_ID F.KL_ID_CHIP = chip
        ∧ (clu < 32 → t.fld R.KL_ID F.KL_ID_CLUSTER = if clu ≤ 16 then clu else 0)
        ∧ bitOf (t.fld R.PWR_UP_LO F.PWR_UP_LO_UP) 0 = true
        ∧ s.SameRegs [R.KL_ID, R.PWR_UP_LO] t ∧ s.SameBut [.regs, .gauge, .pwr, .jtag] t)
    ∧ (s.powered = true → s.bit R.CLK_STAT F.CLK_STAT_LOCK = false →
      ∃ t, Machine.exec .pllLock s = .next t ∧ t.bit R.CLK_STAT F.CLK_STAT_LOCK = true ∧ t.sec = { s.sec with recKey := s.fresh }
        ∧ (∀ n, n < 4 → FMap.get false t.gauge.probe n = true)
        ∧ (∀ n v, n < 4 → s.lastVset n = some v → v ≠ s.fld (R.GAUGE_VSET n) F.GAUGE_VSET_VSET → FMap.get none t.gauge.want n = some v)
        ∧ s.SameRegs [R.CLK_STAT, R.GAUGE_HEAD 0, R.GAUGE_HEAD 1, R.GAUGE_HEAD 2, R.GAUGE_HEAD 3] t
        ∧ s.SameBut [.regs, .sec, .gauge, .fresh] t)
    ∧ (s.powered = true → s.bit R.CLK_STAT F.CLK_STAT_LOCK = true →
      ∃ t, Machine.exec .clockReset s = .next t ∧ t.bit R.CLK_STAT F.CLK_STAT_LOCK = false ∧ t.rd R.RST_CAUSE = 3#32
        ∧ FabricDown t ∧ IslandDown t ∧ t.pwr.cast = true ∧ t.pwr.tested = false ∧ t.host.mem = s.host.mem
        ∧ t.fld R.CLK_STAT F.CLK_STAT_LOLCNT = min 255 (s.fld R.CLK_STAT F.CLK_STAT_LOLCNT + 1))
    ∧ (∀ bad, s.powered = true → s.pwr.cast = true → s.pwr.tested = false → s.bit R.HI_STAT F.HI_STAT_ISLAND_UP = true →
      ∃ t, Machine.exec (.castOnSelfTestEnd bad) s = .next t ∧ t.pwr.tested = true
        ∧ (∀ n r c, n < 4 → r < 16 → c < 17 → (bitOf (t.fmask n r) c = true ↔ (n, r, c) ∈ bad))
        ∧ (∀ n r c d, n < 4 → r < 16 → c < 17 → d < 17 → c ≠ d → (n, r, c) ∈ bad → (n, r, d) ∈ bad → t.chState n = 3)
        ∧ (∀ n, n < 4 → (∀ r c d, (n, r, c) ∈ bad → (n, r, d) ∈ bad → c = d) → t.chState n = s.chState n)
        ∧ ((∃ b ∈ bad, b.1 < 4 ∧ b.2.1 < 16 ∧ b.2.2 < 17) → t.bit R.TEST_STAT F.TEST_STAT_BISTFAIL = true)
        ∧ (∀ n r c, n < 4 → r < 16 → c < 17 → (n, r, c) ∈ bad → s.pwr.isl = false → bitOf (t.rd (R.DM_PEND 17)).toNat (4 + n) = true)
        ∧ (∀ d, 6 ≤ d → d < 50 → s.gated d = false → s.pwr.held = 0 → s.bit R.HI_STAT F.HI_STAT_FABRIC_RESET = false → upShown t d = true)
        ∧ s.SameBut [.regs, .pwr] t)
    ∧ (s.powered = true → s.pwr.isl = true → s.bit R.CLK_STAT F.CLK_STAT_LOCK = true →
        bitOf (s.fld R.SUPPLY_STAT F.SUPPLY_STAT_BELOW) 4 = false →
      ∃ t, Machine.exec .islandUp s = .next t ∧ t.pwr.isl = false ∧ t.bit R.HI_STAT F.HI_STAT_ISLAND_UP = true
        ∧ (∀ k, k < 8 → s.bit (R.PERMIT_CTRL k) F.PERMIT_CTRL_GRANT = false → t.bit (R.PERMIT_CTRL k) F.PERMIT_CTRL_GRANT = false)
        ∧ bitOf (t.rd (R.DM_PEND 17)).toNat 18 = true ∧ (s.pwr.perst = false → t.pwr.training = true)
        ∧ (∀ d, 1 ≤ d → d ≤ 5 → s.gated d = false → (d = 5 → s.bit R.HI_STAT F.HI_STAT_FABRIC_RESET = false) → upShown t d = true)
        ∧ t.tests.ipass = true ∧ (∀ ch, ch < 4 → s.chState ch = 1 → bitOf t.tests.fpass ch = true) ∧ s.SameBut [.regs, .tests, .pwr] t)
    ∧ (s.powered = true →
        (s.bit R.HI_STAT F.HI_STAT_FABRIC_RESET = true
          ∨ s.pwr.cast = true ∧ s.pwr.tested = true ∧ s.gaugeDone = true ∧ s.bit R.HI_STAT F.HI_STAT_ISLAND_UP = true) →
      ∃ t, Machine.exec .fabricReady s = .next t ∧ t.bit R.HI_STAT F.HI_STAT_FABRIC_RESET = false
        ∧ (∀ d, 5 ≤ d → d < 50 → s.gated d = false → s.pwr.held = 0 → (s.pwr.cast = true → s.pwr.tested = true ∧ s.pwr.isl = false) →
          upShown t d = true)
        ∧ (s.bit R.HI_STAT F.HI_STAT_CASTON_FAIL = false → t.bit R.HI_STAT F.HI_STAT_FABRIC_READY = true
          ∧ t.pwr.cast = false ∧ t.pwr.wasReady = true)
        ∧ (s.bit R.HI_STAT F.HI_STAT_CASTON_FAIL = true →
          t.bit R.HI_STAT F.HI_STAT_FABRIC_READY = s.bit R.HI_STAT F.HI_STAT_FABRIC_READY ∧ t.pwr = { s.pwr with cast := false }
          ∧ s.SameBut [.regs, .pwr] t))
    ∧ (s.bit R.HI_STAT F.HI_STAT_FABRIC_RESET = false → (s.gauge.lastAt = 0 ∨ ∃ n, n < 4 ∧ s.bit (R.GAUGE_STAT n) F.GAUGE_STAT_MEAS = true) →
      Machine.exec .fabricReady s = .next s)

/-- 2 claims together: RailsAndGates, ColdStart. -/
def Obligations.ResetsRailsAndStart : Prop := Sys2Proof.RailsAndGates ∧ Sys2Proof.ColdStart

/-- R449-R457, R502, R503, R508, R509: the monitors. A droop sets its bit and the channels that stretch together are stretched at once. A supply warning sets BELOW,
WARNS and the doubt source; recovery clears BELOW and, for a held channel, turns it ON. A sensor's value gives TEMP and HOT; above 110 °C the channel's
clock stops, below 100 °C it runs, and from 115 °C all but PD00 is in reset. Measurements are made at intervals, and once at cast-on when the regulators stand.
One gives SLACK, a history record, held where the store is away or does not take it, and, where it calls for it, 5 mV more or, at cast-on, less; the regulator
follows in steps of 5 mV, once its VOUT_MODE has been read, and a third failure shows PMBERR. When a burst begins and ends, when cast-on measures, and the free value
that says whether the store takes the record are the model's choice (log entries 83, 84). -/
def Obligations.PowerMonitors : Prop :=
  ∀ (s : State), s.powered = true →
    (∀ ch g, ch < 4 → g < 4 → (g = ch ∨ ∃ p, s.ownerOf ch = some p ∧ s.ownerOf g = some p) →
      ∃ t, Machine.exec (.fastDroop ch true) s = .next t ∧ t.bit (R.TEN_STAT ch) F.TEN_STAT_DRP = true
        ∧ t.stretched g = true
        ∧ (s.stretched g = false → t.fld (R.TEN_STAT g) F.TEN_STAT_BURSTS = min (s.fld (R.TEN_STAT g) F.TEN_STAT_BURSTS + 1) (2 ^ 16 - 1))
        ∧ s.SameRegs [R.TEN_STAT 0, R.TEN_STAT 1, R.TEN_STAT 2, R.TEN_STAT 3] t
        ∧ t.trc = { s.trc with counts := t.trc.counts } ∧ s.SameBut [.regs, .trc, .pwr] t)
    ∧ (∀ r, r < 5 → bitOf (s.fld R.SUPPLY_STAT F.SUPPLY_STAT_BELOW) r = false →
      ∃ t, Machine.exec (.supplyWarning r) s = .next t ∧ bitOf (t.fld R.SUPPLY_STAT F.SUPPLY_STAT_BELOW) r = true
        ∧ bitOf (t.fld R.SUPPLY_STAT F.SUPPLY_STAT_WARNS) r = true
        ∧ (r < 4 → t.bit (R.TEN_STAT r) F.TEN_STAT_WARN = true ∧ t.stretched r = true)
        ∧ (s.pwr.isl = false → bitOf (t.rd (R.DM_PEND 17)).toNat (8 + r) = true) ∧ s.SameScratch t)
    ∧ (∀ r, r < 5 → bitOf (s.fld R.SUPPLY_STAT F.SUPPLY_STAT_BELOW) r = true →
      ∃ t, Machine.exec (.supplyRecovery r) s = .next t ∧ bitOf (t.fld R.SUPPLY_STAT F.SUPPLY_STAT_BELOW) r = false
        ∧ (r < 4 → t.bit (R.TEN_STAT r) F.TEN_STAT_WARN = false)
        ∧ (r < 4 → bitOf s.pwr.held r = true → s.chState r ≠ 3 → bitOf t.pwr.held r = false ∧ t.chState r = 1) ∧ s.SameScratch t)
    ∧ (∀ (n : Nat) (temp : Int), n < 5 → -2 ^ 15 ≤ temp → temp < 2 ^ 15 →
      ∃ t, Machine.exec (.thermalSample n temp) s = .next t
        ∧ ((t.fld (R.THERM_T n) F.THERM_T_TEMP : Int) = if temp < 0 then temp + 2 ^ 16 else temp)
        ∧ (bitOf (t.fld R.THERM_STAT F.THERM_STAT_HOT) n = true ↔ 1600 ≤ temp)
        ∧ (n < 4 → 1760 ≤ temp → t.paused n = true) ∧ (n < 4 → temp < 1600 → t.paused n = false)
        ∧ (n < 4 → 1600 ≤ temp → temp < 1760 → t.paused n = s.paused n)
        ∧ (1840 ≤ temp → t.pwr.shut = true ∧ FabricDown t ∧ IslandDown t)
        ∧ (temp < 1840 → t.pwr.shut = false ∧ s.SameScratch t))
    ∧ ((s.pwr.cast = false ∧ s.gauge.lastAt + 240000000000 ≤ s.now
          ∨ s.pwr.cast = true ∧ s.pwr.tested = true ∧ s.gauge.lastAt = 0 ∧ s.railsSet = true) →
      ∃ t, Machine.exec (.gaugeMeasurement none) s = .next t ∧ t.gauge.lastAt = max s.now 1
        ∧ (∀ n, n < 4 → t.bit (R.GAUGE_STAT n) F.GAUGE_STAT_MEAS = true)
        ∧ (∀ n q, n < 4 → q < 256 → t.fld (R.CORE_FENCE_CNT n q) F.CORE_FENCE_CNT_CE = 0) ∧ s.SameBut [.regs, .gauge] t)
    ∧ (∀ n a, n < 4 → FMap.get none s.gauge.again n = some a → a ≤ s.now →
      ∃ t, Machine.exec (.gaugeMeasurement (some n)) s = .next t ∧ t.bit (R.GAUGE_STAT n) F.GAUGE_STAT_MEAS = true
        ∧ FMap.get none t.gauge.again n = none ∧ s.SameRegs [R.GAUGE_STAT n] t ∧ s.SameBut [.regs, .gauge] t)
    ∧ (∀ req, req = 0 ∨ req = 5 →
      ∃ t, Machine.exec (.now req) s = .next t ∧ (∀ n, n < 4 → t.bit (R.GAUGE_STAT n) F.GAUGE_STAT_MEAS = true)
        ∧ s.SameRegs [R.GAUGE_STAT 0, R.GAUGE_STAT 1, R.GAUGE_STAT 2, R.GAUGE_STAT 3] t ∧ s.SameBut [.regs, .gauge] t)
    ∧ (∀ (n v mt : Nat) (slack : Int) (sram stored : Bool), stored = bitOf (Config.freeWord s.fresh).toNat 0 → n < 4 → s.bit (R.GAUGE_STAT n) F.GAUGE_STAT_MEAS = true → -2 ^ 15 ≤ slack →
        slack < 2 ^ 15 → v = s.fld (R.GAUGE_VSET n) F.GAUGE_VSET_VSET → mt = s.fld R.GAUGE_CFG F.GAUGE_CFG_MT →
      ∃ t, Machine.exec (.gaugeMeasurementEnd n slack sram) s = .next t ∧ t.bit (R.GAUGE_STAT n) F.GAUGE_STAT_MEAS = false
        ∧ ((t.fld (R.GAUGE_SLACK n) F.GAUGE_SLACK_SLACK : Int) = if slack < 0 then slack + 2 ^ 16 else slack)
        ∧ (∃ g : GaugeRec, g.shutdown = false ∧ g.bytes.take 8 = leBytes 4 s.minutes ++ leBytes 1 n ++ leBytes 1 0 ++ leBytes 2 v
          ∧ (s.bit R.SEC_STAT F.SEC_STAT_STORE_OK = true → stored = true → s.sec.store.gauge.length < 65536 →
            t.sec.store.gauge = s.sec.store.gauge ++ [(g, ⟨s.sec.store.count + 1,
              kmac256 ((s.sec.root.map storeKey).getD []) (g.bytes ++ leBytes 8 (s.sec.store.count + 1))⟩)] ∧ t.sec.heldGauge = s.sec.heldGauge)
          ∧ (s.bit R.SEC_STAT F.SEC_STAT_STORE_OK = false ∨ stored = false → t.bit R.SEC_STAT F.SEC_STAT_STORE_OK = false ∧ t.sec.store = s.sec.store
            ∧ t.sec.heldGauge = s.sec.heldGauge ++ if s.sec.heldGauge.length < 16 then [g] else []))
        ∧ (slack < mt ∨ sram = false → v < 850 → FMap.get none t.gauge.want n = some (min (v + 5) 850))
        ∧ (slack < mt ∨ sram = false → 850 ≤ v → t.bit (R.GAUGE_STAT n) F.GAUGE_STAT_CEIL = true ∧ t.gauge.want = s.gauge.want)
        ∧ ((mt : Int) + 20 ≤ slack → sram = true → s.pwr.cast = true → 605 ≤ v → FMap.get 0 s.gauge.steps n < 16 →
          FMap.get none t.gauge.want n = some (v - 5))
        ∧ ((mt : Int) ≤ slack → sram = true → s.pwr.cast = false → t.gauge = s.gauge) ∧ s.SameScratch t)
    ∧ (∀ n, n < 4 → FMap.get false s.gauge.probe n = true →
      (∃ t, Machine.exec (.pmbusTransactionEnd n true) s = .next t ∧ FMap.get false t.gauge.probe n = false ∧ t.gauge.want = s.gauge.want
        ∧ s.SameBut [.gauge] t)
      ∧ (∃ t, Machine.exec (.pmbusTransactionEnd n false) s = .next t
        ∧ (2 ≤ FMap.get 0 s.gauge.fails n → t.bit (R.GAUGE_STAT n) F.GAUGE_STAT_PMBERR = true ∧ FMap.get false t.gauge.probe n = false)
        ∧ (FMap.get 0 s.gauge.fails n < 2 → FMap.get 0 t.gauge.fails n = FMap.get 0 s.gauge.fails n + 1 ∧ t.gauge.probe = s.gauge.probe)
        ∧ s.SameRegs [R.GAUGE_STAT n] t ∧ s.SameBut [.regs, .gauge] t))
    ∧ (∀ n w v, n < 4 → FMap.get false s.gauge.probe n = false → FMap.get none s.gauge.want n = some w → v = s.fld (R.GAUGE_VSET n) F.GAUGE_VSET_VSET → w < 1024 →
      (∃ t u, Machine.exec (.pmbusTransactionEnd n true) s = .next t ∧ t.fld (R.GAUGE_VSET n) F.GAUGE_VSET_VSET = u
        ∧ (v ≤ u + 5 ∧ u ≤ v + 5) ∧ (v < w → u = min (v + 5) w) ∧ (w ≤ v → u = max (v - 5) w)
        ∧ FMap.get none t.gauge.want n = (if u = w then none else some w)
        ∧ s.SameRegs [R.GAUGE_VSET n, R.GAUGE_HEAD n] t ∧ s.SameBut [.regs, .gauge] t)
      ∧ (∃ t, Machine.exec (.pmbusTransactionEnd n false) s = .next t
        ∧ (2 ≤ FMap.get 0 s.gauge.fails n → t.bit (R.GAUGE_STAT n) F.GAUGE_STAT_PMBERR = true ∧ FMap.get none t.gauge.want n = none)
        ∧ (FMap.get 0 s.gauge.fails n < 2 → FMap.get 0 t.gauge.fails n = FMap.get 0 s.gauge.fails n + 1 ∧ t.gauge.want = s.gauge.want)
        ∧ s.SameRegs [R.GAUGE_STAT n] t ∧ s.SameBut [.regs, .gauge] t))

/-! ### The bus, the management port, trace, counters, JTAG -/

/-- The device answers register accesses. -/
def Sys2Proof.Answers (s : State) : Prop := s.pwr.porst = false ∧ s.pwr.shut = false

/-- R3, R4, R6, R7, R529, R530: for the registers of the clock and power block, a write sets RW bits, clears W1C bits written 1 and sets W1S bits, and leaves the
others; a narrow or unaligned write is discarded; a read returns the register with its WO bits 0 and clears its RC bits. The low word of a pair is read with
a copy of the high word, which the requester's read of the high word returns. The management port's transactions act as such accesses, word by word; one whose
complement is wrong does nothing; so does a write where no register is. That PWR_GATE_LO and PWR_UP_LO are such pairs (log entry 99), and that
accesses depend neither on PERST_N nor on link training (log entry 9), are the model's choice. -/
def Obligations.RegisterAccess : Prop :=
  ∀ s : State, Answers s →
    (∀ (req a : Nat) (v : Word) (d : RegDesc), req = 0 ∨ req = 5 → 0x02800000 ≤ a → a < 0x02900000 → a % 4 = 0 → regDesc a = some d →
        a ∉ [R.RST_CTRL, R.TEN_CFG, R.PWR_GATE_LO, R.PWR_GATE_HI, R.GAUGE_CFG, R.SUPPLY_CFG] →
      ∃ t, Machine.exec (.registerWrite req a 4 v) s = .next t ∧ s.SameRegs [a] t ∧ s.SameBut [.regs] t
        ∧ ∀ i, i < 32 → (t.rd a).getLsbD i =
          if bitOf d.rw i then v.getLsbD i else if bitOf d.w1s i && v.getLsbD i then true
          else if bitOf d.w1c i && v.getLsbD i then false else (s.rd a).getLsbD i)
    ∧ (∀ (req a n : Nat) (v : Word), n ≠ 4 ∨ a % 4 ≠ 0 → Machine.exec (.registerWrite req a n v) s = .next s)
    ∧ (∀ (req a : Nat) (v : Word), a < 2 ^ 26 → regDesc (keyOf req a) = none → Machine.exec (.registerWrite req a 4 v) s = .next s)
    ∧ (∀ (req a : Nat) (v : Word), 1 ≤ req → req ≤ 4 → 0x02800000 ≤ a → a < 0x02900000 → Machine.exec (.registerWrite req a 4 v) s = .next s)
    ∧ (∀ (req a : Nat) (d : RegDesc), req = 0 ∨ req = 5 → 0x02800000 ≤ a → a < 0x02900000 → a % 4 = 0 → regDesc a = some d →
        a ∉ [R.PWR_GATE_LO, R.PWR_GATE_HI, R.PWR_UP_LO, R.PWR_UP_HI] →
      ∃ t, Machine.exec (.readToClear req a 4) s = .next t ∧ t.lastRead = [s.rd a &&& ~~~(BitVec.ofNat 32 d.wo)]
        ∧ (∀ i, i < 32 → (t.rd a).getLsbD i = (!bitOf d.rc i && (s.rd a).getLsbD i))
        ∧ s.SameRegs [a] t ∧ s.SameBut [.regs, .lastRead] t)
    ∧ (∀ req a, (req = 0 ∨ req = 5) ∧ (a = R.SEC_LEAF_LO ∨ a = R.SEC_HWM_LO ∨ a = R.TB_FRAC 0 ∨ a = R.TB_FRAC 1
          ∨ a = R.PWR_GATE_LO ∨ a = R.PWR_UP_LO)
        ∨ 1 ≤ req ∧ req ≤ 4 ∧ s.fnUp req = true ∧ a = R.TB_FRAC 2 →
      (∀ c : Instr, c = .pairLowRead req a ∨ c = .readToClear req a 4 →
        ∃ t, Machine.exec c s = .next t ∧ t.lastRead = [s.rd a]
          ∧ FMap.get none t.hold (holdKey req a) = some (s.rd (a + 4)) ∧ s.SameBut [.hold, .lastRead] t)
      ∧ (∃ t, Machine.exec (.readToClear req (a + 4) 4) s = .next t
        ∧ t.lastRead = [(FMap.get none s.hold (holdKey req a)).getD (s.rd (a + 4))] ∧ s.SameBut [.lastRead] t))
    ∧ (∀ (op comp : Byte) (addr : Word), addr.toNat < 2 ^ 26 → addr.toNat % 4 = 0 → comp = ~~~op →
      (op = 0x0B#8 →
        (∀ n, ∃ t, Machine.exec (.mgRead op comp addr n) s = .next t ∧ t.lastRead.length = n)
        ∧ Machine.exec (.mgRead op comp addr 1) s = Machine.exec (.readToClear 5 addr.toNat 4) s)
      ∧ (op = 0x02#8 →
        (∀ data : List Byte, data.length = 4 → Machine.exec (.mgWrite op comp addr data) s
          = Machine.exec (.registerWrite 5 addr.toNat 4 (BitVec.ofNat 32 (leNat data))) s)
        ∧ (∀ data : List Byte, data.length < 4 → Machine.exec (.mgWrite op comp addr data) s = .next s)))
    ∧ (∀ (op comp : Byte) (addr : Word) (n : Nat) (data : List Byte), comp ≠ ~~~op →
      Machine.exec (.mgRead op comp addr n) s = .next s ∧ Machine.exec (.mgWrite op comp addr data) s = .next s)

/-- R489-R492, R494-R498: a ring that is enabled with 2^4 to 2^12 slots, or to the recorder, starts empty, PHASE 1; a protected one needs its key. A protected
block whose time is up leaves for host memory under the next WC; one that a full ring drops leaves WC as it was. A sample holds count, time, step and the values
of its counters, and of a counter that a step start has reset in that cycle the count before it, with the flag. A write of half a counter leaves the other, and
the counter then reads so. The slot of 4,128 bytes, the IV, the shared WC and 400 cycles to the microsecond are the model's choice (log entry 91); so is what a
counter of cycles reads (log entry 92). -/
def Sys2Proof.TraceAndCounters : Prop :=
  ∀ s : State,
    (∀ (req f k : Nat) (smp : Bool) (v : Word), (req = 0 ∨ req = 5 ∨ req = f ∧ s.fnUp f = true) → f < 5 → k = (if smp then 8 + f else f) →
        s.bit (ringCfg k) F.TRCF_CFG_EN = false → isSet v F.TRCF_CFG_EN = true →
      ((isSet v F.TRCF_CFG_DEST = false →
          4 ≤ getF v F.TRCF_CFG_LOG2SZ ∧ getF v F.TRCF_CFG_LOG2SZ ≤ 12 ∧ (f = 0 → s.trc.keyed = 255)) →
        ∃ t, Machine.exec (.traceRingEnable req f smp v) s = .next t ∧ t.bit (ringCfg k) F.TRCF_CFG_EN = true
          ∧ t.rd (ringHead k) = 0#32 ∧ t.fld (ringTail k) F.TRCF_TAIL_TAIL = 0 ∧ t.bit (ringTail k) F.TRCF_TAIL_PHASE = true
          ∧ t.gathered k = [] ∧ (f ≠ 0 → t.fld (ringCfg k) F.TRCF_CFG_FLUSH = 0) ∧ s.SameRegs [ringCfg k, ringHead k, ringTail k] t ∧ s.SameBut [.regs, .trc] t)
      ∧ (isSet v F.TRCF_CFG_DEST = false → getF v F.TRCF_CFG_LOG2SZ < 4 ∨ 12 < getF v F.TRCF_CFG_LOG2SZ ∨ f = 0 ∧ s.trc.keyed ≠ 255 →
        ∃ t, Machine.exec (.traceRingEnable req f smp v) s = .next t ∧ t.bit (ringStat k) F.TRCF_STAT_CFG_REJECT = true
          ∧ s.SameRegs [ringStat k] t ∧ s.SameBut [.regs] t))
    ∧ (∀ k m tail lg a, k = 0 ∨ k = 8 → s.bit (ringCfg k) F.TRCF_CFG_EN = true → s.bit (ringCfg k) F.TRCF_CFG_DEST = false →
        FMap.get none s.trc.firstAt k = some m → 1 ≤ s.fld (ringCfg k) F.TRCF_CFG_FLUSH →
        m + 400 * s.fld (ringCfg k) F.TRCF_CFG_FLUSH ≤ s.now → s.gathered k ≠ [] →
        tail = s.fld (ringTail k) F.TRCF_TAIL_TAIL → lg = s.fld (ringCfg k) F.TRCF_CFG_LOG2SZ → lg ≤ 12 →
        (tail + 1) % 2 ^ lg ≠ s.fld (ringHead k) F.TRCF_HEAD_HEAD → a = s.pair (ringBase k) (ringBase k + 4) + tail * 4128 →
        s.hostBad a 4128 = false →
      ∃ t, Machine.exec (.flush k) s = .next t ∧ t.gathered k = [] ∧ t.trc.wc = (s.trc.wc + 1) % 2 ^ 64
        ∧ t.fld (ringTail k) F.TRCF_TAIL_TAIL = (tail + 1) % 2 ^ lg
        ∧ t.host.mem.bytes a 4128 = protectedBlock s.traceKey ((s.trc.wc + 1) % 2 ^ 64) tail (s.gathered k)
        ∧ (∀ b, (b < a ∨ a + 4128 ≤ b) → t.host.mem.byte b = s.host.mem.byte b)
        ∧ s.SameRegs [ringTail k] t ∧ s.SameBut [.regs, .host, .trc] t)
    ∧ (∀ k m tail, k = 0 ∨ k = 8 → s.bit (ringCfg k) F.TRCF_CFG_EN = true → s.bit (ringCfg k) F.TRCF_CFG_DEST = false →
        FMap.get none s.trc.firstAt k = some m → 1 ≤ s.fld (ringCfg k) F.TRCF_CFG_FLUSH →
        m + 400 * s.fld (ringCfg k) F.TRCF_CFG_FLUSH ≤ s.now → tail = s.fld (ringTail k) F.TRCF_TAIL_TAIL →
        (tail + 1) % 2 ^ s.fld (ringCfg k) F.TRCF_CFG_LOG2SZ = s.fld (ringHead k) F.TRCF_HEAD_HEAD →
      ∃ t, Machine.exec (.flush k) s = .next t ∧ t.gathered k = [] ∧ t.trc.wc = s.trc.wc ∧ t.host.mem = s.host.mem)
    ∧ (∀ f x n size tail lg a co, 1 ≤ f → f < 5 → s.fnUp f = true → s.bit (R.SMP_CFG f) F.SMP_CFG_EN = true →
        s.bit (R.SMP_CFG f) F.SMP_CFG_DEST = false → (s.part (f - 1)).cur = some x → n = s.fld (R.SMP_CFG f) F.SMP_CFG_NSEL + 1 →
        size = 16 * ((8 * n + 31) / 16) → tail = s.fld (R.SMP_TAIL f) F.TRCF_TAIL_TAIL → lg = s.fld (R.SMP_CFG f) F.TRCF_CFG_LOG2SZ →
        lg ≤ 12 → (tail + 1) % 2 ^ lg ≠ s.fld (R.SMP_HEAD f) F.TRCF_HEAD_HEAD →
        a = s.pair (R.SMP_BASE_LO f) (R.SMP_BASE_LO f + 4) + tail * size → s.hostBad a size = false →
      ∃ t, Machine.exec (.sampleInterval f co) s = .next t
        ∧ t.host.mem.bytes a 8 = leBytes 1 n
          ++ leBytes 1 (b2n (s.bit (R.SMP_TAIL f) F.TRCF_TAIL_PHASE) * 128 + b2n (FMap.get false s.trc.smpLost f) * 64)
          ++ leBytes 2 0 ++ leBytes 4 s.tb2
        ∧ t.host.mem.bytes (a + 8) 8 = leBytes 8 ((s.ctx (f - 1) x).steps + 1)
        ∧ (∀ i key u, i < n → cntOfId (s.smpId f i) = some (.core, key, u) → (s.part (f - 1)).owns (u / 256) = true →
          s.fld key F.GCNT_CFG_PART = f - 1 →
          (co = false ∨ s.bit key F.GCNT_CFG_MODE = false ∨ FMap.get none s.trc.resetAt key ≠ some s.now →
            cycleEvent (s.fld key F.GCNT_CFG_EVENT) = false ∨ s.bit key F.GCNT_CFG_EN = false →
            t.host.mem.bytes (a + 16 + 8 * i) 8 = leBytes 8 (FMap.get 0 s.trc.counts key % 2 ^ 48))
          ∧ (co = true → s.bit key F.GCNT_CFG_MODE = true → FMap.get none s.trc.resetAt key = some s.now →
            t.host.mem.bytes (a + 16 + 8 * i) 8 = leBytes 8 (FMap.get 0 s.trc.before key % 2 ^ 48 + 2 ^ 63)))
        ∧ t.fld (R.SMP_TAIL f) F.TRCF_TAIL_TAIL = (tail + 1) % 2 ^ lg
        ∧ s.SameRegs [R.SMP_TAIL f] t ∧ s.SameBut [.regs, .host, .trc, .fresh] t)
    ∧ (∀ (req a key u half : Nat) (k : CntKind) (v : Word), (req = 0 ∨ req = 5) → cntAt a = some (k, key, u, half) →
        half = 1 ∨ half = 2 →
      ∃ t, Machine.exec (.counterValueWrite req a v) s = .next t ∧ s.SameBut [.trc, .fresh] t
        ∧ (t.cntValue key).1 = FMap.get 0 t.trc.counts key
        ∧ (cycleEvent (s.fld key F.GCNT_CFG_EVENT) = false ∨ s.bit key F.GCNT_CFG_EN = false →
          (s.cntValue key).1 = FMap.get 0 s.trc.counts key)
        ∧ (∀ key', key' ≠ key → FMap.get 0 t.trc.counts key' = FMap.get 0 s.trc.counts key')
        ∧ (half = 1 → FMap.get 0 t.trc.counts key % 2 ^ 32 = v.toNat
          ∧ FMap.get 0 t.trc.counts key / 2 ^ 32 = (s.cntValue key).1 / 2 ^ 32)
        ∧ (half = 2 → FMap.get 0 t.trc.counts key / 2 ^ 32 = v.toNat
          ∧ FMap.get 0 t.trc.counts key % 2 ^ 32 = (s.cntValue key).1 % 2 ^ 32))

/-- R270, R527: the event log of a function is enabled with 2^4 to 2^12 records, empty, PHASE 1; another size is discarded. JTAG: IDCODE gives the part field; the
EXTEST instructions drive the balls only while PORST_N is low, and PERMIT_OUT and HB_OUT stay low; an unknown code is BYPASS; reset of the TAP gives IDCODE.
The instruction codes, the TAP reset and the unknown code are the model's choice (log entry 88). -/
def Sys2Proof.EventLogAndJtag : Prop :=
  ∀ s : State,
    (∀ (f : Nat) (v : Word), f < 5 → s.fnUp f = true → s.bit (R.HI_FN_ELOG_CFG f) F.HI_FN_ELOG_CFG_EN = false →
        isSet v F.HI_FN_ELOG_CFG_EN = true →
      (4 ≤ getF v F.HI_FN_ELOG_CFG_LOG2SZ → getF v F.HI_FN_ELOG_CFG_LOG2SZ ≤ 12 →
        ∃ t, Machine.exec (.elogEnable f v) s = .next t ∧ t.rd (R.HI_FN_ELOG_CFG f) = v &&& 0xC0003F0F#32
          ∧ t.rd (R.HI_FN_ELOG_HEAD f) = 0#32 ∧ t.fld (R.HI_FN_ELOG_TAIL f) F.HI_FN_ELOG_TAIL_TAIL = 0
          ∧ t.bit (R.HI_FN_ELOG_TAIL f) F.HI_FN_ELOG_TAIL_PHASE = true
          ∧ s.SameRegs [R.HI_FN_ELOG_CFG f, R.HI_FN_ELOG_HEAD f, R.HI_FN_ELOG_TAIL f] t ∧ s.SameBut [.regs] t)
      ∧ (getF v F.HI_FN_ELOG_CFG_LOG2SZ < 4 ∨ 12 < getF v F.HI_FN_ELOG_CFG_LOG2SZ → Machine.exec (.elogEnable f v) s = .next s))
    ∧ (∀ instr cells, ∃ t, Machine.exec (.jtagInstruction instr true cells) s = .next t ∧ t.jtag.instr = 1 ∧ t.jtag.driven = false
        ∧ t.jtag.cells = s.jtag.cells ∧ s.SameBut [.jtag] t)
    ∧ (∀ instr cells, ∃ t, Machine.exec (.jtagInstruction instr false cells) s = .next t ∧ s.SameBut [.jtag, .fresh] t
        ∧ (instr < 6 → t.jtag.instr = instr) ∧ (6 ≤ instr → t.jtag.instr = 0)
        ∧ (instr = 1 → t.jtag.dr / 2 ^ 12 % 2 ^ 16 = 0x4B04)
        ∧ (t.jtag.driven = true ↔ 3 ≤ instr ∧ instr ≤ 5 ∧ s.pwr.porst = true)
        ∧ (∀ b, 7715 ≤ b → b ≤ 7723 → FMap.get false t.jtag.cells b = FMap.get false s.jtag.cells b)
        ∧ (∀ b x, instr = 2 → cells = [(b, x)] → (b < 7715 ∨ 7723 < b) → FMap.get false t.jtag.cells b = x))

/-- 2 claims together: TraceAndCounters, EventLogAndJtag. -/
def Obligations.TraceEventLogJtag : Prop := Sys2Proof.TraceAndCounters ∧ Sys2Proof.EventLogAndJtag

/-! ### The links between chips -/

/-- What this chip had on link `l`, waiting or not acknowledged, is refused with `code`, each message, child and signal, and the waits that
went out by it are released LINK_LOST (2). -/
def Sys2Proof.Refused (l code : Nat) (s t : State) : Prop :=
  (∀ f, f ∈ (s.link l).txq ∨ f ∈ (s.link l).unacked →
    (∀ m, f.msg = some m → m.src = s.own → (⟨m.id, code, false⟩ : Report) ∈ t.noc.reports)
    ∧ (∀ w, f.child = some w → w.src = s.own → (⟨w.id, code, false⟩ : Report) ∈ t.noc.reports)
    ∧ (∀ dst obj arg job ctx core id, CtrlRec.syncOp dst s.own 3 obj arg job ctx core id ∈ f.recs →
      (⟨id, code, true⟩ : Report) ∈ t.noc.reports))
  ∧ (∀ w ∈ s.noc.farWaits, w.link = l → (⟨.wait w.core w.id, 2, w.obj⟩ : Release) ∈ t.noc.releases)

/-- R22, R248, R254-R260, R262: EN trains a link that is OFF; it is refused while the link drains. Training that ends with the neighbour the topology names
makes the link UP with the credits of the neighbour's pools and 16 for control; another neighbour is MISWIRE. Clearing EN drains a link, which is OFF once all is
acknowledged; with FORCE it is OFF at once, and what it holds is refused ABORTED (9). A link whose resends are used up, or whose peer is gone, is DOWN, and
what it holds is refused LINK_LOST (8). Routes use the links that are up when they are evaluated. A register that its gated domain does not serve takes no
write. That a miswired or looped-back link stays in training, that a DOWN link trains again when told to, and that children and signals are refused like
messages, are the model's choice (log entry 43). -/
def Obligations.LinkStates : Prop :=
  ∀ (s : State) (l : Nat), l < 16 →
    (∀ req, req = 0 ∨ req = 5 → s.regTakes (R.KL_CTRL l) = true →
      (s.linkState l = 0 →
        ∃ t, Machine.exec (.linkEnable req l) s = .next t ∧ t.linkState l = 1 ∧ t.bit (R.KL_CTRL l) F.KL_CTRL_EN = true
          ∧ t.link l = .init ∧ s.SameBut [.regs, .noc] t)
      ∧ (s.linkState l = 3 →
        ∃ t, Machine.exec (.linkEnable req l) s = .next t ∧ t.bit (R.KL_STAT l) F.KL_STAT_CFG_REJECT = true ∧ t.linkState l = 3
          ∧ s.SameRegs [R.KL_STAT l] t ∧ s.SameBut [.regs] t)
      ∧ (s.linkState l = 2 →
        ∃ t, Machine.exec (.linkDrain req l) s = .next t ∧ t.linkState l = 3 ∧ t.bit (R.KL_CTRL l) F.KL_CTRL_EN = false
          ∧ s.SameBut [.regs] t)
      ∧ (s.linkState l = 2 ∨ s.linkState l = 3 →
        ∃ t, Machine.exec (.linkForcedDisable req l) s = .next t ∧ t.linkState l = 0 ∧ t.bit (R.KL_CTRL l) F.KL_CTRL_EN = false
          ∧ Refused l 9 s t ∧ s.SameScratch t))
    ∧ (∀ req (c : Instr), c = .linkEnable req l ∨ c = .linkDrain req l ∨ c = .linkForcedDisable req l →
        (s.regTakes (R.KL_CTRL l) = false ∨ req ≠ 0 ∧ req ≠ 5) → Machine.exec c s = .next s)
    ∧ (∀ clu chip link pools, s.bit (R.KL_CTRL l) F.KL_CTRL_LPBK = true → Machine.exec (.trainingEnd l clu chip link pools) s = .next s)
    ∧ (s.linkState l = 3 → (s.link l).txq = [] → (s.link l).unacked = [] →
      ∃ t, Machine.exec (.linkDrainEnd l) s = .next t ∧ t.linkState l = 0 ∧ s.SameScratch t)
    ∧ (∀ clu chip link pools, s.linkState l = 1 → s.bit (R.KL_CTRL l) F.KL_CTRL_LPBK = false → clu < 32 → chip < 16 → link < 16 →
      (s.facing l = (clu, chip, link) →
        ∃ t, Machine.exec (.trainingEnd l clu chip link pools) s = .next t ∧ t.linkState l = 2
          ∧ t.bit (R.KL_STAT l) F.KL_STAT_PEER_VALID = true ∧ t.fld (R.KL_STAT l) F.KL_STAT_PEER_CLU = clu
          ∧ t.fld (R.KL_STAT l) F.KL_STAT_PEER_CHIP = chip ∧ t.fld (R.KL_STAT l) F.KL_STAT_PEER_LINK = link
          ∧ (∀ i q, i < 4 → pools[i]? = some q → FMap.get 0 (t.link l).credits i = q.2) ∧ FMap.get 0 (t.link l).credits 4 = 16
          ∧ (t.link l).txSeq = 0 ∧ (t.link l).rxLast = none ∧ (t.link l).unacked = [] ∧ s.SameBut [.regs, .noc] t)
      ∧ (s.facing l ≠ (clu, chip, link) →
        ∃ t, Machine.exec (.trainingEnd l clu chip link pools) s = .next t ∧ t.linkState l = 1
          ∧ t.bit (R.KL_STAT l) F.KL_STAT_MISWIRE = true ∧ s.SameRegs [R.KL_STAT l, R.KL_ERR l] t ∧ s.SameBut [.regs] t))
    ∧ (s.bit (R.KL_CTRL l) F.KL_CTRL_EN = true → s.linkState l = 1 ∨ s.linkState l = 4 →
      ∃ t, Machine.exec (.trainingRetry l) s = .next t ∧ t.linkState l = 1 ∧ t.link l = .init ∧ s.SameBut [.regs, .noc] t)
    ∧ (s.linkState l = 2 ∨ s.linkState l = 3 →
      (∃ t, Machine.exec (.peerLinkLoss l) s = .next t ∧ t.linkState l = 4 ∧ t.bit (R.KL_STAT l) F.KL_STAT_DOWN_EVT = true
        ∧ Refused l 8 s t ∧ s.SameScratch t)
      ∧ (1 ≤ (s.link l).resends → s.fld (R.KL_CTRL l) F.KL_CTRL_RETRY_MAX ≤ (s.link l).resends →
        ∃ t, Machine.exec (.linkDown l) s = .next t ∧ t.linkState l = 4 ∧ t.bit (R.KL_STAT l) F.KL_STAT_DOWN_EVT = true
          ∧ Refused l 8 s t ∧ s.SameScratch t))
    ∧ (∃ t, Machine.exec .routeEvaluation s = .next t ∧ (∀ k, k < 16 → (bitOf t.noc.linksUsed k = true ↔ s.linkState k = 2))
        ∧ t.noc.peersUsed = s.noc.peersUp ∧ s.SameBut [.noc, .trc] t)
    ∧ s.facing l = (if l = 15 then (uplinkPeer (s.own / 16) (s.own % 16), 15 - s.own % 16, 15)
        else (s.own / 16, linkPeer (s.own % 16) l, 14 - l))

/-- R252: a flit of 256 bytes whose CRC is right. -/
def Sys2Proof.Intact (fl : List Byte) : Prop := fl.length = 256 ∧ crc32 (fl.take 252) = leNat (fl.drop 252)

/-- A flit that link `l` receives intact, whose header asks for nothing but its payload to be taken: no acknowledgement, no NAK, nothing waiting to be sent. -/
structure Sys2Proof.Taken (s : State) (l : Nat) (fl : List Byte) (type pool seq : Nat) : Prop where
  link : s.receives l = true ∧ (s.link l).txq = []
  intact : Intact fl
  quiet : bitOf (leNat (fl.take 8)) 39 = false ∧ bitOf (leNat (fl.take 8)) 38 = false
  type : bitsOf (leNat (fl.take 8)) 37 35 = type
  pool : bitsOf (leNat (fl.take 8)) 34 32 = pool
  seq : bitsOf (leNat (fl.take 8)) 63 52 = seq

/-- The flits `rest` have gone out again, each whole and under its number; `k` resends came before. -/
structure Sys2Proof.Resent (s : State) (l k : Nat) (rest : List TxFlit) (t : State) : Prop where
  resends : (t.link l).resends = k + 1
  kept : (t.link l).unacked = rest ∧ (t.link l).txq = (s.link l).txq
  out : ∃ out : List (List Byte), (t.link l).sent = out.reverse ++ (s.link l).sent ∧ out.length = rest.length
    ∧ ∀ (n : Nat) (f : TxFlit) (g : List Byte), rest[n]? = some f → out[n]? = some g →
      Intact g ∧ bitsOf (leNat (g.take 8)) 63 52 = f.seq % 4096
  count : t.fld (R.KL_ERR l) F.KL_ERR_RESEND = min (s.fld (R.KL_ERR l) F.KL_ERR_RESEND + 1) (2 ^ F.KL_ERR_RESEND.width - 1)

/-- The next sequence number that link `l` takes (R254). -/
def Sys2Proof.nextSeq (s : State) (l : Nat) : Nat := (s.link l).rxLast.elim 0 (fun n => (n + 1) % 4096)

/-- R252-R255: a flit with an uncorrectable codeword or a wrong CRC is dropped, counted, and a NAK is owed. An intact DATA flit in order gives the message it
completes, and a credit is owed for it; one after a gap is dropped with a NAK owed, an old one is dropped. The records of a CTRL flit act. An IDLE flit
acknowledges what was sent up to its number, and its credits count. A NAK has the flits after the one it names sent again, each under its number; all of them,
where it acknowledges none. A link that is looped back receives nothing. How resends are counted, and the bytes that no rule lays out, are the model's choice
(log entries 46, 42). -/
def Sys2Proof.Flits : Prop :=
  ∀ (s : State) (l corr : Nat) (fl : List Byte),
    (∀ (c : Instr) (unc : Bool) (w : Option WireChild) (recs : List CtrlRec), s.receives l = true → (unc = true ∨ ¬Intact fl) →
        (c = .dataFlit l corr unc fl w ∨ c = .ctrlFlit l corr unc fl recs ∨ c = .idleFlit l corr unc fl) →
      ∃ t, Machine.exec c s = .next t ∧ t.link l = { s.link l with nakOut := true } ∧ (∀ k, k ≠ l → t.link k = s.link k)
        ∧ t.fld (R.KL_CORR l) F.KL_CORR_CORR = min (s.fld (R.KL_CORR l) F.KL_CORR_CORR + corr) (2 ^ F.KL_CORR_CORR.width - 1)
        ∧ (unc = true → t.fld (R.KL_ERR l) F.KL_ERR_UNCORR = min (s.fld (R.KL_ERR l) F.KL_ERR_UNCORR + 1) 255)
        ∧ (unc = false → t.fld (R.KL_ERR l) F.KL_ERR_CRCFAIL = min (s.fld (R.KL_ERR l) F.KL_ERR_CRCFAIL + 1) 255)
        ∧ t.noc.msgs = s.noc.msgs ∧ t.noc.reports = s.noc.reports
        ∧ s.SameRegs [R.KL_CORR l, R.KL_ERR l] t ∧ s.SameBut [.regs, .noc] t)
    ∧ (∀ pool seq pl, Taken s l fl 0 pool seq → pool < 4 → pl = (fl.drop 8).take 244 →
      (seq = nextSeq s l → FMap.get none (s.link l).asm pool = none → wireLen pl ≤ 244 → (wireMsg pl).dst = s.own →
        ∃ t, Machine.exec (.dataFlit l corr false fl none) s = .next t ∧ t.noc.msgs = s.noc.msgs ++ [wireMsg pl]
          ∧ (t.link l).rxLast = some seq ∧ FMap.get 0 (t.link l).owed pool = FMap.get 0 (s.link l).owed pool + 1
          ∧ s.SameRegs [R.KL_CORR l] t ∧ s.SameBut [.regs, .noc, .trc] t)
      ∧ (∀ w p, seq = nextSeq s l → w.dst = s.own → s.partOfJob w.job = some p → w.root = false →
        ∃ t c, Machine.exec (.dataFlit l corr false fl (some w)) s = .next t ∧ t.noc.children = s.noc.children ++ [c]
          ∧ c.part = p ∧ c.ctx = w.ctx ∧ c.tree = w.tree ∧ c.inst = w.inst ∧ c.val = w.val ∧ c.chip = w.src ∧ c.id = w.id
          ∧ (t.link l).rxLast = some seq ∧ s.SameRegs [R.KL_CORR l] t ∧ s.SameBut [.regs, .noc, .trc] t)
      ∧ (∀ w, seq ≠ nextSeq s l →
        ∃ t, Machine.exec (.dataFlit l corr false fl w) s = .next t ∧ t.noc.msgs = s.noc.msgs ∧ t.noc.children = s.noc.children
          ∧ (t.link l).rxLast = (s.link l).rxLast
          ∧ ((seq + 4096 - nextSeq s l) % 4096 < 2048 → (t.link l).nakOut = true)
          ∧ s.SameRegs [R.KL_CORR l] t ∧ s.SameBut [.regs, .noc, .trc] t))
    ∧ (∀ seq, Taken s l fl 1 4 seq → seq = nextSeq s l →
      (∀ id code sync, ∃ t, Machine.exec (.ctrlFlit l corr false fl [.report s.own id code sync]) s = .next t
        ∧ t.noc.reports = s.noc.reports ++ [⟨id, code, sync⟩] ∧ (t.link l).rxLast = some seq ∧ s.SameBut [.regs, .noc, .trc] t)
      ∧ (∀ src job id bytes, ∃ t, Machine.exec (.ctrlFlit l corr false fl [.request s.own src job id bytes]) s = .next t
        ∧ t.noc.reqs = s.noc.reqs ++ [⟨src, id, job, bytes⟩] ∧ (t.link l).rxLast = some seq ∧ s.SameBut [.regs, .noc, .trc] t)
      ∧ (∀ id src, ∃ t, Machine.exec (.ctrlFlit l corr false fl [.grant s.own id src]) s = .next t
        ∧ t.noc.grantsIn = s.noc.grantsIn ++ [(id, src)] ∧ (t.link l).rxLast = some seq ∧ s.SameBut [.regs, .noc, .trc] t))
    ∧ (∀ h before f after, s.receives l = true → Intact fl → h = leNat (fl.take 8) → bitsOf h 37 35 = 3 → bitOf h 39 = true →
        bitOf h 38 = false → (s.link l).txq = [] → (s.link l).unacked = before ++ f :: after → (∀ g ∈ before, g.seq ≠ f.seq) →
        bitsOf h 51 40 = f.seq →
      ∃ t, Machine.exec (.idleFlit l corr false fl) s = .next t ∧ (t.link l).unacked = after ∧ (t.link l).resends = 0
        ∧ FMap.get 0 (t.link l).credits (bitsOf h 31 29) = FMap.get 0 (s.link l).credits (bitsOf h 31 29) + bitsOf h 28 20
        ∧ (t.link l).rxLast = (s.link l).rxLast ∧ s.SameRegs [R.KL_CORR l] t ∧ s.SameBut [.regs, .noc, .trc] t)
    ∧ (∀ a k rest, s.receives l = true → rest ≠ [] →
        ((∀ f ∈ (s.link l).unacked, f.seq ≠ a) ∧ rest = (s.link l).unacked ∧ k = (s.link l).resends
          ∨ ∃ before f, (s.link l).unacked = before ++ f :: rest ∧ f.seq = a ∧ (∀ g ∈ before, g.seq ≠ a) ∧ k = 0) →
      ∃ t, Machine.exec (.nak l a) s = .next t ∧ Resent s l k rest t ∧ s.SameRegs [R.KL_ERR l] t ∧ s.SameBut [.regs, .noc, .trc] t)
    ∧ (∀ before f, s.receives l = true → (s.link l).unacked = before ++ [f] → (∀ g ∈ before, g.seq ≠ f.seq) →
      ∃ t, Machine.exec (.nak l f.seq) s = .next t ∧ (t.link l).unacked = [] ∧ (t.link l).resends = 0 ∧ (t.link l).sent = (s.link l).sent
        ∧ s.SameBut [.noc] t)
    ∧ (∀ h, s.receives l = true → Intact fl → h = leNat (fl.take 8) → bitsOf h 37 35 = 3 → bitOf h 39 = false → bitOf h 38 = true →
        (s.link l).txq = [] → (s.link l).unacked ≠ [] →
      ∃ t, Machine.exec (.idleFlit l corr false fl) s = .next t ∧ Resent s l (s.link l).resends (s.link l).unacked t
        ∧ s.SameRegs [R.KL_CORR l, R.KL_ERR l] t ∧ s.SameBut [.regs, .noc, .trc] t)
    ∧ (∀ (c : Instr) (w : Option WireChild) (recs : List CtrlRec) (a : Nat), s.bit (R.KL_CTRL l) F.KL_CTRL_LPBK = true →
        (c = .dataFlit l corr false fl w ∨ c = .ctrlFlit l corr false fl recs ∨ c = .idleFlit l corr false fl ∨ c = .nak l a) →
      Machine.exec c s = .next s)

/-- A flit given to link `k`, waiting for a credit or sent. -/
def Sys2Proof.Given (t : State) (k : Nat) (good : TxFlit → Prop) : Prop := ∃ f, (f ∈ (t.link k).txq ∨ f ∈ (t.link k).unacked) ∧ good f

/-- R261: a request for landing room is granted when no earlier one of its job waits and its partition has the room, and the grant leaves for the source; without
room, or without a route for the grant, it waits. A grant lets its message go: it leaves by its route, and its context may no longer be withdrawn; with no route left it is refused NO_ROUTE (7); a
grant whose message is gone is given back. The order of grants, by job only, and the give-back are the model's choice (log entry 45). -/
def Sys2Proof.EndToEndCredits : Prop :=
  ∀ (s : State) (i : Nat),
    (∀ r p k, s.noc.reqs[i]? = some r → (∀ q ∈ s.noc.reqs.take i, q.job ≠ r.job) → s.partOfJob r.job = some p →
      ((s.noc.landed.filter (fun e => e.job == r.job)).foldl (fun t e => t + e.bytes) 0 + r.bytes ≤ (s.part p).landKb * 1024 →
        (s.noc.landed.filter (fun e => e.job == r.job)).length < (s.part p).landMsg → s.firstHop r.src none 0 = some k →
        ∃ t, Machine.exec (.creditRequest i) s = .next t ∧ t.noc.landed = s.noc.landed ++ [r]
          ∧ t.noc.reqs = s.noc.reqs.take i ++ s.noc.reqs.drop (i + 1) ∧ Given t k (fun f => f.recs = [.grant r.src r.id s.own])
          ∧ s.SameBut [.noc, .trc] t)
      ∧ ((s.part p).landKb * 1024 < (s.noc.landed.filter (fun e => e.job == r.job)).foldl (fun t e => t + e.bytes) 0 + r.bytes
          ∨ (s.part p).landMsg ≤ (s.noc.landed.filter (fun e => e.job == r.job)).length ∨ s.firstHop r.src none 0 = none →
        Machine.exec (.creditRequest i) s = .next s))
    ∧ (∀ id src k, s.noc.grantsIn[i]? = some (id, src) → s.noc.e2e.find? (fun e => e.msg.id == id) = none → s.firstHop src none 0 = some k →
      ∃ t, Machine.exec (.creditGrant i) s = .next t ∧ t.noc.grantsIn = s.noc.grantsIn.take i ++ s.noc.grantsIn.drop (i + 1)
        ∧ Given t k (fun f => f.recs = [.giveBack src s.own id]) ∧ s.SameBut [.noc, .trc] t)
    ∧ (∀ id src e, s.noc.grantsIn[i]? = some (id, src) → s.noc.e2e.find? (fun e => e.msg.id == id) = some e →
      (∀ k, s.firstHop e.msg.dst (some e.msg.job) 0 = some k →
        ∃ t, Machine.exec (.creditGrant i) s = .next t ∧ t.noc.e2e = s.noc.e2e.filter (fun x => x.msg.id != id)
          ∧ Given t k (fun f => f.msg = some e.msg.ref) ∧ (t.ctx e.part e.msg.ctx).withdrawable = false
          ∧ (t.ctx e.part e.msg.ctx).left = true ∧ s.SameBut [.noc, .parts, .trc] t)
      ∧ (s.firstHop e.msg.dst (some e.msg.job) 0 = none → e.msg.src = s.own →
        ∃ t, Machine.exec (.creditGrant i) s = .next t ∧ t.noc.e2e = s.noc.e2e.filter (fun x => x.msg.id != id)
          ∧ t.noc.reports = s.noc.reports ++ [⟨id, 7, false⟩] ∧ s.SameBut [.noc, .trc] t))

/-- 2 claims together: Flits, EndToEndCredits. -/
def Obligations.FlitsAndCredits : Prop := Sys2Proof.Flits ∧ Sys2Proof.EndToEndCredits

/-! ### Sensor ingest -/

/-- A frame of 18 to 9216 bytes at a port that is in use, while the ingest runs; its FCS is right. -/
structure Sys2Proof.Arrives (s : State) (port : Nat) (fr : List Byte) : Prop where
  up : s.portUp port = true ∧ s.pwr.isl = false ∧ s.gated 3 = false ∧ s.gated 4 = false
  len : 18 ≤ fr.length ∧ fr.length ≤ 9216
  fcs : crc32 (fr.take (fr.length - 4)) = leNat (fr.drop (fr.length - 4))

/-- The payload `k` of an arriving frame is that of stream `t`, the first whose key it has. -/
structure Sys2Proof.ArrivesFor (s : State) (port : Nat) (fr : List Byte) (t : Nat) (k : EthKind) : Prop where
  arrives : Arrives s port fr
  kind : ethOf (fr.take (fr.length - 4)) = k
  mine : (List.range 64).find? (fun t => s.strmOn t && s.strmMatches t port k) = some t

/-- R323-R329, R341, R344: a frame whose FCS is wrong, or that matches no stream, is counted and dropped. A line packet without error that begins a frame, or goes
on with it, adds its lines; one that ends it makes it wait for admission, unless the stream is STOPPED, which counts it DROPPED. A fragment of a 1722 image
begins a frame. A frame that stays away fails MISSING (3). Admission gives the oldest frame its sample id, in order; a failed one stops the stream. That an IP
fragment, a wrong IP header checksum and a short frame match no stream or fail their FCS is the model's choice (log entry 61); so are the cycles of a timeout
(log entry 122). -/
def Obligations.IngestReception : Prop :=
  ∀ (s : State) (port t : Nat) (fr : List Byte), t < 64 →
    (∀ c : Instr, c = .linePacket port fr ∨ c = .avtpPacket port fr → s.portUp port = true → s.pwr.isl = false → s.gated 3 = false →
        s.gated 4 = false → fr.length ≤ 9216 →
      (fr.length < 18 ∨ crc32 (fr.take (fr.length - 4)) ≠ leNat (fr.drop (fr.length - 4)) →
        ∃ u, Machine.exec c s = .next u ∧ u.fld R.ING_DROP F.ING_DROP_FCS = min (s.fld R.ING_DROP F.ING_DROP_FCS + 1) (2 ^ 16 - 1)
          ∧ s.SameRegs [R.ING_DROP] u ∧ s.SameBut [.regs] u)
      ∧ (∀ f ihl, Arrives s port fr → f = fr.take (fr.length - 4) → ihl = lfld f 14 1 % 16 * 4 →
          ((∀ q, q < 64 → s.strmOn q = true → s.strmMatches q port (ethOf f) = false)
            ∨ lfld f 12 2 = 0x0800 ∧ (lfld f 20 2 % 2 ^ 14 ≠ 0 ∨ lfld f 23 1 ≠ 17 ∨ ipSum ((f.drop 14).take ihl) ≠ 0xFFFF)) →
        ∃ u, Machine.exec c s = .next u
          ∧ u.fld R.ING_DROP F.ING_DROP_UNMATCHED = min (s.fld R.ING_DROP F.ING_DROP_UNMATCHED + 1) (2 ^ 16 - 1)
          ∧ s.SameRegs [R.ING_DROP] u ∧ s.SameBut [.regs] u))
    ∧ (∀ d p lines line count, ArrivesFor s port fr t (.udp d p) → s.lineBad t p = 0 → bitOf (lfld p 1 1) 5 = false →
        lines = (p.drop 32).take (p.length - 36) → line = lfld p 8 2 → count = lfld p 10 2 →
        s.frameRoom (((s.strm t).asm.map (fun f => f.data.length)).getD 0) lines.length = true →
      ((s.strm t).asm = none → bitOf (lfld p 1 1) 7 = true → bitOf (lfld p 1 1) 6 = true → line = 0 → count = s.strmH t →
        (s.strmState t ≠ 3 →
          ∃ u f, Machine.exec (.linePacket port fr) s = .next u ∧ (u.strm t).wait = (s.strm t).wait ++ [f] ∧ (u.strm t).asm = none
            ∧ f.reason = 0 ∧ f.data = lines ∧ f.frame = lfld p 4 4 ∧ f.ptime = some (lfld p 16 4)
            ∧ s.SameRegs [R.STRM_STAT t] u ∧ s.SameBut [.regs, .ing] u)
        ∧ (s.strmState t = 3 →
          ∃ u, Machine.exec (.linePacket port fr) s = .next u ∧ (u.strm t).wait = (s.strm t).wait ∧ (u.strm t).asm = none
            ∧ u.fld (R.STRM_CNT t) F.STRM_CNT_DROPPED = min (s.fld (R.STRM_CNT t) F.STRM_CNT_DROPPED + 1) 255
            ∧ s.SameRegs [R.STRM_STAT t, R.STRM_CNT t] u ∧ s.SameBut [.regs, .ing] u))
      ∧ (∀ f, (s.strm t).asm = some f → f.reason = 0 → bitOf (lfld p 1 1) 7 = false → bitOf (lfld p 1 1) 6 = false → line = f.next →
        lfld p 4 4 = f.frame → some (lfld p 16 4) = f.ptime → line + count ≤ s.strmH t →
        ∃ u, Machine.exec (.linePacket port fr) s = .next u
          ∧ (u.strm t).asm = some { f with next := line + count, data := f.data ++ lines, lastAt := s.now }
          ∧ (u.strm t).wait = (s.strm t).wait ∧ s.SameRegs [R.STRM_STAT t] u ∧ s.SameBut [.regs, .ing] u))
    ∧ (∀ p body hdr bytes, ArrivesFor s port fr t (.avtp p) → (s.strm t).asm = none → (s.strm t).lastSeq = none → 24 ≤ p.length →
        lfld p 0 1 = 3 → bitsOf (lfld p 1 1) 6 4 = 0 → bitOf (lfld p 1 1) 0 = true → lfld p 16 1 = 2 → lfld p 17 1 = 0 →
        bitOf (lfld p 22 1) 4 = false → body = (p.drop 24).take (lfld p 20 2) → rfcFragment body = some (hdr, 0, [], bytes) →
        nth 0 hdr 1 < 128 → s.frameRoom 0 body.length = true →
      ∃ u f, Machine.exec (.avtpPacket port fr) s = .next u ∧ (u.strm t).asm = some f ∧ f.reason = 0 ∧ f.data = bytes
        ∧ f.next = bytes.length ∧ f.hdr = hdr ∧ f.ptime = some (lfld p 12 4) ∧ (u.strm t).lastSeq = some (lfld p 2 1)
        ∧ (u.strm t).wait = (s.strm t).wait ∧ s.SameRegs [R.STRM_STAT t] u ∧ s.SameBut [.regs, .ing] u)
    ∧ (∀ f, (s.strm t).asm = some f → f.reason = 0 → s.period t ≠ 0 → s.strmState t = 1 → f.lastAt + 800 * s.period t ≤ s.now →
      ∃ u g, Machine.exec (.frameTimeout t) s = .next u ∧ (u.strm t).wait = (s.strm t).wait ++ [g] ∧ g.reason = 3 ∧ g.data = []
        ∧ (u.strm t).asm = none ∧ s.SameRegs [R.STRM_STAT t] u ∧ s.SameBut [.regs, .ing] u)
    ∧ (∀ f rest next, (s.strm t).wait = f :: rest → s.strmState t = 1 → (s.strm t).entries.length < 16 →
        s.ing.streams.foldl (fun n p => n + p.2.entries.length) 0 < 256 → next = s.fld (R.STRM_SEQ t) F.STRM_SEQ_NEXT →
      (f.reason = 0 → s.frameSteps t f = 0 →
        ∃ u e, Machine.exec (.frameAdmission t) s = .next u ∧ (u.strm t).entries = (s.strm t).entries ++ [e] ∧ (u.strm t).wait = rest
          ∧ e.id = t * 2 ^ 26 + next ∧ e.stage = .queued ∧ e.reason = 0 ∧ e.frame = f
          ∧ u.fld (R.STRM_SEQ t) F.STRM_SEQ_NEXT = (next + 1) % 2 ^ 26
          ∧ s.SameRegs [R.STRM_STAT t, R.STRM_SEQ t] u ∧ s.SameBut [.regs, .ing] u)
      ∧ (1 ≤ f.reason → f.reason ≤ 6 → (∀ e ∈ (s.strm t).entries, e.id ≠ t * 2 ^ 26 + next) →
        ∃ u e, Machine.exec (.frameAdmission t) s = .next u ∧ (u.strm t).entries = (s.strm t).entries ++ [e] ∧ (u.strm t).wait = []
          ∧ e.id = t * 2 ^ 26 + next ∧ e.stage = .done ∧ e.reason = f.reason ∧ u.strmState t = 3
          ∧ u.fld (R.STRM_STAT t) F.STRM_STAT_REASON = f.reason ∧ s.SameScratch u))

/-- R324, R336: what an enable of stream `t` with the register value `w` needs: a configured partition, a plan within its slice that holds, a key of its own. -/
def Sys2Proof.Enableable (u : State) (t : Nat) (pl : List Byte) : Prop :=
  ∃ p off n, p = u.strmPart t ∧ off = u.fld (R.STRM_PLAN t) F.STRM_PLAN_PLAN_OFF ∧ (u.part p).configured = true ∧ off % 4 = 0
    ∧ n = 128 + 32 * planNtgt (u.sliceBytes p off 128) ∧ off + n ≤ u.sliceLen p ∧ pl = u.sliceBytes p off n
    ∧ u.planOk t pl = true ∧ u.sameKey t = false

/-- R318, R336, R342, R343, R345-R349: EN copies the plan of a stream that is OFF and turns it ON at sequence number 0, or is refused; clearing EN drops what is not
admitted and lets the samples go; with FORCE the stream is OFF at once. INGEST_CTL: RESUME turns a STOPPED stream ON, RESET drops what is being received too,
STATUS only reports. A swatch whose time suffices runs, else it is deferred; one that ends with the reference digest is no failure, one that reaches the
stream's budget is. That a DRAINING stream stays DRAINING or OFF under RESET is the model's choice (log entry 121), and so are the cycles at which a swatch ends
(log entry 122) and what RESUME and RESET do to held samples one by one (log entry 63). -/
def Sys2Proof.StreamControl : Prop :=
  ∀ (s : State) (t : Nat), t < 64 →
    (∀ req, s.mayIngest req = true → s.gated 3 = false →
      (∀ (v w : Word) (pl : List Byte), s.strmState t = 0 →
        w = BitVec.ofNat 32 ((setF v F.STRM_CTRL_EN 1).toNat / 2 ^ 19 * 2 ^ 19 + getF v F.STRM_CTRL_PIXFMT * 256) →
        ∃ u, Machine.exec (.streamEnable req t v) s = .next u ∧ s.SameBut [.regs, .ing] u
          ∧ (Enableable (s.wr (R.STRM_CTRL t) w) t pl → u.strmState t = 1 ∧ (u.strm t).plan = pl ∧ (u.strm t).entries = []
            ∧ u.rd (R.STRM_SEQ t) = 0#32 ∧ u.rd (R.STRM_CTRL t) = w)
          ∧ ((∀ pl, ¬Enableable (s.wr (R.STRM_CTRL t) w) t pl) → u.strmState t = 0
            ∧ u.bit (R.STRM_STAT t) F.STRM_STAT_CFG_REJECT = true ∧ s.SameRegs [R.STRM_STAT t] u))
      ∧ (s.strmState t = 1 ∨ s.strmState t = 3 →
        ∃ u, Machine.exec (.streamDrain req t) s = .next u ∧ u.strmState t = (if (s.strm t).entries = [] then 0 else 2)
          ∧ (u.strm t).wait = [] ∧ (u.strm t).asm = none ∧ (u.strm t).entries.map (·.id) = (s.strm t).entries.map (·.id)
          ∧ (∀ e ∈ (u.strm t).entries, e.held = false) ∧ s.SameRegs [R.STRM_CTRL t, R.STRM_STAT t] u ∧ s.SameBut [.regs, .ing] u)
      ∧ (s.strmState t ≠ 0 →
        ∃ u, Machine.exec (.streamForcedDisable req t) s = .next u ∧ u.strmState t = 0 ∧ (u.strm t).entries = []
          ∧ (u.strm t).wait = [] ∧ (u.strm t).asm = none))
    ∧ (∀ id d, s.ready id 15 = some d → d.at_ 8 1 = t → (d.fn = 0 ∨ s.strmPart t = d.fn - 1) →
      (d.at_ 9 1 = 0 → s.strmState t = 3 →
        ∃ u, Machine.exec (.ingestCtlResume id) s = .next u ∧ u.strmState t = 1 ∧ (u.strm t).lastFrame = none ∧ (u.strm t).lastPtime = none
          ∧ (∀ e ∈ (u.strm t).entries, e.held = false) ∧ (∀ e ∈ u.host.descs, e.id = id → e.st = .done ∧ e.status = 0))
      ∧ (d.at_ 9 1 = 0 → s.strmState t ≠ 3 →
        ∃ u, Machine.exec (.ingestCtlResume id) s = .next u
          ∧ u.host.descs = finished s.host.descs id 0x19 (leBytes 4 (s.rd (R.STRM_STAT t)).toNat) ∧ s.SameBut [.host] u)
      ∧ (d.at_ 9 1 = 1 → s.strmState t ≠ 0 →
        ∃ u, Machine.exec (.ingestCtlReset id) s = .next u ∧ (u.strm t).asm = none
          ∧ (s.strmState t ≠ 2 → u.strmState t = if s.strmState t = 3 then 1 else s.strmState t)
          ∧ (s.strmState t = 2 → u.strmState t = if (u.strm t).entries = [] then 0 else 2)
          ∧ (∀ e ∈ u.host.descs, e.id = id → e.st = .done ∧ e.status = 0))
      ∧ (d.at_ 9 1 = 2 →
        ∃ u, Machine.exec (.ingestCtlStatus id) s = .next u
          ∧ u.host.descs = finished s.host.descs id 0 (leBytes 4 (s.rd (R.STRM_STAT t)).toNat) ∧ s.SameBut [.host] u))
    ∧ (∀ t0 i, (s.strm t).turn = some t0 → (s.strm t).swatch = none → unitFree s.unitsBusy (s.strmVideo t) i = true →
      (s.now + s.expected t ≤ t0 + s.fld (R.STRM_TIME t) F.STRM_TIME_VBLANK_US * 400 →
        ∃ u, Machine.exec (.swatchTurn t i) s = .next u ∧ (u.strm t).swatch = some i ∧ (u.strm t).turn = none
          ∧ s.SameRegs [R.STRM_STAT t] u ∧ s.SameBut [.regs, .ing] u)
      ∧ (t0 + s.fld (R.STRM_TIME t) F.STRM_TIME_VBLANK_US * 400 < s.now + s.expected t →
        ∃ u, Machine.exec (.swatchTurn t i) s = .next u ∧ (u.strm t).swatch = none ∧ (u.strm t).turn = none
          ∧ u.fld (R.STRM_CNT t) F.STRM_CNT_DEFERRALS = min (s.fld (R.STRM_CNT t) F.STRM_CNT_DEFERRALS + 1) 255
          ∧ u.fld (R.STRM_STAT t) F.STRM_STAT_DEFER = min 4 (s.fld (R.STRM_STAT t) F.STRM_STAT_DEFER + 1)
          ∧ (s.fld (R.STRM_STAT t) F.STRM_STAT_DEFER = 3 → u.bit (R.STRM_STAT t) F.STRM_STAT_SWFAIL = true) ∧ s.SameBut [.regs, .ing] u))
    ∧ (∀ i late, (s.strm t).swatch = some i → (late = true → (s.strm t).swatchAt + s.budget t ≤ s.now) →
      ∃ u, Machine.exec (.swatchEnd t late) s = .next u ∧ (u.strm t).swatch = none ∧ s.SameBut [.regs, .ing] u
        ∧ (late = true → u.bit (R.STRM_STAT t) F.STRM_STAT_SWFAIL = true)
        ∧ (∀ base data m, late = false → base = s.fld (R.STRM_SWATCH t) F.STRM_SWATCH_SWBASE_KB * 1024 →
          data = s.ing.swMem.bytes (base + 36) (min (s.ing.swMem.u32 (base + 32)) (2 ^ 24 - base)) → s.inputImage t data = .ok m →
          (s.strmVideo t = false → data.length = s.strmH t * lineLen (s.strmFmt t) (s.strmW t)) →
          tensorDigest (planW (s.strm t).plan 1) ((preprocess (s.strm t).plan m).bytes (planE (s.strm t).plan)) = s.ing.swMem.bytes base 32 →
          u.fld (R.STRM_STAT t) F.STRM_STAT_DEFER = 0
          ∧ u.bit (R.STRM_STAT t) F.STRM_STAT_SWFAIL = s.bit (R.STRM_STAT t) F.STRM_STAT_SWFAIL))
    ∧ (∀ req a (v : Word), s.mayIngest req = true → a = s.fld R.ING_SWADDR F.ING_SWADDR_ADDR →
      (∃ u, Machine.exec (.swdataAccess req (some v)) s = .next u ∧ u.ing.swMem.u32 (4 * a) = v.toNat
        ∧ (∀ b, (b < 4 * a ∨ 4 * a + 4 ≤ b) → u.ing.swMem.byte b = s.ing.swMem.byte b)
        ∧ u.fld R.ING_SWADDR F.ING_SWADDR_ADDR = (a + 1) % 2 ^ 22 ∧ s.SameRegs [R.ING_SWADDR] u ∧ s.SameBut [.regs, .ing] u)
      ∧ (∃ u, Machine.exec (.swdataAccess req none) s = .next u ∧ u.lastRead = [BitVec.ofNat 32 (s.ing.swMem.u32 (4 * a))]
        ∧ u.fld R.ING_SWADDR F.ING_SWADDR_ADDR = (a + 1) % 2 ^ 22 ∧ s.SameRegs [R.ING_SWADDR] u ∧ s.SameBut [.regs, .lastRead] u))

/-- R330-R341, R344: the oldest sample starts on a free unit; with FREE it takes a credit of its semaphore first, and without one it is VOID NO_BUFFER (9). A sample
that ends has its image's tensor in its targets and its digest in its entry; an image that does not decode is VOID. One that reaches its budget is VOID
OVERTIME (7) and stops the stream. A sample at the head that is done, and not held, leaves with its arrival entry written and DSYNC signalled. While a row
moves, or a clock is stopped, what is for its cores waits (R241). That a sample writes its targets as it ends, all or none, and OVERTIME none, is the model's
choice (log entry 63). -/
def Sys2Proof.Samples : Prop :=
  ∀ (s : State) (t : Nat), t < 64 → s.ue = [] → s.ce = [] →
    (∀ e i, (s.strm t).entries.find? (fun e => e.stage == .queued) = some e → unitFree s.unitsBusy (s.strmVideo t) i = true →
        s.nextToStart t e = true → (s.strm t).entries.Pairwise (fun a b => a.id ≠ b.id) →
      (planFree (s.strm t).plan = false →
        ∃ u, Machine.exec (.sampleStart t i) s = .next u
          ∧ (u.strm t).entries = (s.strm t).entries.map (fun g => if g.id = e.id then
            { g with stage := .running, unit := some i, startAt := s.now } else g)
          ∧ s.SameBut [.regs, .ing, .trc] u)
      ∧ (∀ obj, planFree (s.strm t).plan = true →
        s.handleTo (planW (s.strm t).plan 21) (s.part (s.strmPart t)).chmask = .here obj → s.bit (cfgReg obj) F.SYNC_CFG_EN = true →
        s.fld (cfgReg obj) F.SYNC_CFG_KIND = 0 → s.bit (sstatReg obj) F.SYNC_STAT_ABANDONED = false → s.queue obj = [] →
        (s.rd (valReg obj) ≠ 0#32 →
          ∃ u, Machine.exec (.sampleStart t i) s = .next u ∧ (u.rd (valReg obj)).toNat + 1 = (s.rd (valReg obj)).toNat
            ∧ (∀ g ∈ (u.strm t).entries, g.id = e.id → g.stage = .running ∧ g.unit = some i)
            ∧ s.SameBut [.regs, .parts, .ing, .trc] u)
        ∧ (s.rd (valReg obj) = 0#32 →
          ∃ u, Machine.exec (.sampleStart t i) s = .next u
            ∧ (∀ g ∈ (u.strm t).entries, g.id = e.id → g.stage = .done ∧ g.reason = 9)
            ∧ u.fld (R.STRM_CNT t) F.STRM_CNT_VOIDS = min (s.fld (R.STRM_CNT t) F.STRM_CNT_VOIDS + 1) 255 ∧ u.scratch = s.scratch)))
    ∧ (∀ id e, (s.strm t).entries.find? (fun e => e.id == id && e.stage == .running) = some e →
      (∀ m, s.inputImage t e.frame.data = .ok m →
        ((∀ n, n < planNtgt (s.strm t).plan → tgtOn (s.strm t).plan n = false) →
          ∃ u, Machine.exec (.sampleEnd t id) s = .next u ∧ u.scratch = s.scratch
            ∧ (∀ g ∈ (u.strm t).entries, g.id = id → g.stage = .done
              ∧ g.digest = tensorDigest (planW (s.strm t).plan 1) ((preprocess (s.strm t).plan m).bytes (planE (s.strm t).plan))))
        ∧ (∀ c k a ps, planNtgt (s.strm t).plan = 1 → tgtOn (s.strm t).plan 0 = true → planDense (s.strm t).plan = true →
          c = tgtCore (s.strm t).plan 0 → s.holds c = false → aPlane (BitVec.ofNat 32 (tgtW (s.strm t).plan 0 1)) = false →
          a = tgtW (s.strm t).plan 0 1 % 2 ^ 22 + id % 2 ^ 26 % planNbuf (s.strm t).plan * tgtW (s.strm t).plan 0 3 →
          (s.part (s.strmPart t)).owns (c / 256) = true → s.slotOf c (s.strmPart t) (s.strmCtx t) = some k → s.zeroing c k = false →
          ps = tgtPieces (s.strm t).plan 0 (preprocess (s.strm t).plan m) → (∀ q ∈ ps, a + q.1 + q.2.length ≤ s.bound c k) →
          ∃ u, Machine.exec (.sampleEnd t id) s = .next u ∧ (∀ g ∈ (u.strm t).entries, g.id = id → g.stage = .done)
            ∧ (∀ (i : Nat) (q : Nat × List Byte), ps[i]? = some q →
              (∀ (j : Nat) (r : Nat × List Byte), j ≠ i → ps[j]? = some r → r.1 + r.2.length ≤ q.1 ∨ q.1 + q.2.length ≤ r.1) →
              u.scratch.bytes (cellKey c (s.phys c k (a + q.1))) q.2.length = q.2)
            ∧ s.SameBytes (ps.map (fun q => (cellKey c (s.phys c k (a + q.1)), q.2.length))) u))
      ∧ (∀ m, s.inputImage t e.frame.data = .ok m → s.targetHeld t = true → Machine.exec (.sampleEnd t id) s = .next s)
      ∧ (∀ r, s.inputImage t e.frame.data = .error r →
        ∃ u, Machine.exec (.sampleEnd t id) s = .next u ∧ (∀ g ∈ (u.strm t).entries, g.id = id → g.stage = .done ∧ g.reason = r)
          ∧ u.scratch = s.scratch)
      ∧ (s.strmState t = 1 → e.startAt + s.budget t ≤ s.now →
        ∃ u, Machine.exec (.overtime t id) s = .next u ∧ (∀ g ∈ (u.strm t).entries, g.id = id → g.stage = .done ∧ g.reason = 7)
          ∧ u.fld (R.STRM_CNT t) F.STRM_CNT_OVERTIME = min (s.fld (R.STRM_CNT t) F.STRM_CNT_OVERTIME + 1) 255
          ∧ u.strmState t = 3 ∧ u.scratch = s.scratch))
    ∧ (∀ e rest c k a obj, (s.strm t).entries = e :: rest → e.stage = .done → e.held = false → NoDonation s → c = planW (s.strm t).plan 16 % 1024 →
        (s.strm t).owed = [] → s.holds c = false →
        (s.part (s.strmPart t)).owns (c / 256) = true → s.slotOf c (s.strmPart t) (s.strmCtx t) = some k → s.zeroing c k = false →
        a = planW (s.strm t).plan 17 % 2 ^ 22 + 64 * (e.id % 2 ^ 26 % 2 ^ (planW (s.strm t).plan 18 % 16)) → a < 2 ^ 22 → a + 64 ≤ s.bound c k →
        s.handleTo (planW (s.strm t).plan 19) (s.part (s.strmPart t)).chmask = .here obj → s.bit (cfgReg obj) F.SYNC_CFG_EN = true →
        s.fld (cfgReg obj) F.SYNC_CFG_KIND = 0 → s.queue obj = [] → e.digest.length = 32 →
      ∃ u, Machine.exec (.sampleDelivery t) s = .next u ∧ (u.strm t).entries = rest
        ∧ u.scratch.bytes (cellKey c (s.phys c k a)) 8 = leBytes 4 e.id ++ leBytes 2 (if e.reason ≠ 0 then 1 else 0) ++ leBytes 2 e.reason
        ∧ u.scratch.bytes (cellKey c (s.phys c k (a + 32))) 32 = e.digest ∧ s.SameBytes [(cellKey c (s.phys c k a), 64)] u
        ∧ (u.rd (valReg obj)).toNat = min ((s.rd (valReg obj)).toNat + planW (s.strm t).plan 20) (2 ^ 32 - 1))
    ∧ (∀ a rest, (s.strm t).owed = a :: rest →
      (s.holds a.core = false → ∃ u, Machine.exec (.sampleDelivery t) s = .next u ∧ (u.strm t).owed = rest
        ∧ (u.strm t).entries = (s.strm t).entries)
      ∧ (s.holds a.core = true → Machine.exec (.sampleDelivery t) s = .next s))
    ∧ (∀ e, (s.strm t).owed = [] → (s.strm t).entries.head? = some e → s.holds (planW (s.strm t).plan 16 % 1024) = true →
      Machine.exec (.sampleDelivery t) s = .next s)

/-- 2 claims together: StreamControl, Samples. -/
def Obligations.StreamsAndSamples : Prop := Sys2Proof.StreamControl ∧ Sys2Proof.Samples

/-! ### The loop engine -/

/-- A requester that reaches the island's blocks, which are not in reset. -/
def Sys2Proof.Island (s : State) (req : Nat) : Prop := (req = 0 ∨ req = 5) ∧ s.pwr.isl = false

/-- R351-R354, R362, R375, R381: the engine starts with NEXT = LE_EPOCH and LE_TICK = 0 when the epoch lies ahead, else CFG_REJECT; clearing EN stops ticks
and every group. Parameters wait for PCOMMIT; a tick applies them, counts itself and every overdue tick, and makes the loops of the groups whose boundary it is ready with
their latched inputs; a draining group is OFF there. LE_RESTORE waits for the boundary. A memory access moves LE_MEMADDR on; a write that
reaches a running loop's descriptor is discarded with CFG_REJECT. -/
def Obligations.LoopEngine : Prop :=
  ∀ (s : State),
    (∀ req, Island s req → s.bit R.LE_CTRL F.LE_CTRL_EN = false →
      (0 < sx 32 ((s.rd R.LE_EPOCH).toNat + 2 ^ 32 - s.tb3) →
        ∃ t, Machine.exec (.leEnable req) s = .next t ∧ t.bit R.LE_CTRL F.LE_CTRL_EN = true ∧ t.bit R.LE_STAT F.LE_STAT_RUN = true
          ∧ t.pair R.LE_TICK_LO R.LE_TICK_HI = 0 ∧ t.eng = { s.eng with next := (s.rd R.LE_EPOCH).toNat }
          ∧ s.SameRegs [R.LE_CTRL, R.LE_STAT, R.LE_TICK_LO, R.LE_TICK_HI] t ∧ s.SameBut [.regs, .eng] t)
      ∧ (sx 32 ((s.rd R.LE_EPOCH).toNat + 2 ^ 32 - s.tb3) ≤ 0 →
        ∃ t, Machine.exec (.leEnable req) s = .next t ∧ t.bit R.LE_STAT F.LE_STAT_CFG_REJECT = true
          ∧ s.SameRegs [R.LE_STAT] t ∧ s.SameBut [.regs] t))
    ∧ (∀ req, Island s req → s.bit R.LE_CTRL F.LE_CTRL_EN = true →
      ∃ t, Machine.exec (.leDisable req) s = .next t ∧ t.bit R.LE_CTRL F.LE_CTRL_EN = false ∧ t.bit R.LE_STAT F.LE_STAT_RUN = false
        ∧ (∀ g, g < 64 → t.grp g = 0 ∧ (s.grp g ≠ 0 → ∀ r ∈ t.eng.ready, r.group ≠ g))
        ∧ t.eng.mem = s.eng.mem ∧ t.eng.sig = s.eng.sig
        ∧ s.SameRegs ([R.LE_CTRL, R.LE_STAT] ++ (List.range 64).map R.GRP_CFG ++ (List.range 64).map R.GRP_STAT) t ∧ s.SameBut [.regs, .eng] t)
    ∧ (∀ req, Island s req →
      ∃ t, Machine.exec (.pcommit req) s = .next t ∧ t.bit R.LE_STAT F.LE_STAT_PPEND = true ∧ s.SameRegs [R.LE_STAT] t ∧ s.SameBut [.regs] t)
    ∧ (s.bit R.LE_STAT F.LE_STAT_RUN = true → s.tb3Past s.eng.next = true → s.eng.next < 2 ^ 32 →
      ∃ t m, Machine.exec .baseTick s = .next t ∧ 1 ≤ m ∧ t.eng.tickAt = some s.now
        ∧ t.pair R.LE_TICK_LO R.LE_TICK_HI = (s.pair R.LE_TICK_LO R.LE_TICK_HI + m) % 2 ^ 64
        ∧ t.eng.next = (s.eng.next + 15625 * m) % 2 ^ 32 ∧ t.tb3Past t.eng.next = false
        ∧ (1 < m → t.bit R.LE_STAT F.LE_STAT_SLIP = true) ∧ (s.tb3Past ((s.eng.next + 15625) % 2 ^ 32) = false → m = 1)
        ∧ (s.bit R.LE_STAT F.LE_STAT_PPEND = true → t.bit R.LE_STAT F.LE_STAT_PPEND = false ∧ t.eng.staged = []
          ∧ ((s.eng.staged.map (·.1)).Nodup → ∀ i v, (i, some v) ∈ s.eng.staged → t.leWord (4 * i) = v))
        ∧ (s.bit R.LE_STAT F.LE_STAT_PPEND = false → t.eng.mem = s.eng.mem ∧ t.eng.staged = s.eng.staged)
        ∧ (∀ g, g < 64 → s.pair R.LE_TICK_LO R.LE_TICK_HI % s.grpN g = s.fld (R.GRP_CFG g) F.GRP_CFG_PHASE →
          (s.grp g = 2 → t.grp g = 0)
          ∧ (s.grp g = 1 → ∀ j ∈ t.loopsOf g,
            (⟨s.pair R.LE_TICK_LO R.LE_TICK_HI + s.grpN g, g, j, s.now⟩ : LoopReady) ∈ t.eng.ready
            ∧ ∀ x v, (t.sources j).filter (fun p => p.1 == x) = [(x, some v)] → t.sigOf j x = v)))
    ∧ (∀ req j, Island s req → j < 1024 →
      ∃ t, Machine.exec (.leRestore req j) s = .next t ∧ FMap.get false t.eng.restore j = true ∧ s.SameBut [.eng] t)
    ∧ (∀ req a, Island s req → a = 4 * s.fld R.LE_MEMADDR F.LE_MEMADDR_ADDR →
      (∃ t, Machine.exec (.leMemdataAccess req none) s = .next t
        ∧ t.lastRead = [if a < 0xCA000 ∨ 0x100000 ≤ a ∧ a < 0x180000 then s.leWord a else 0#32]
        ∧ t.fld R.LE_MEMADDR F.LE_MEMADDR_ADDR = (a / 4 + 1) % 2 ^ 19 ∧ s.SameRegs [R.LE_MEMADDR] t ∧ s.SameBut [.regs, .lastRead] t)
      ∧ (∀ v, s.bit R.SAFE_LOCK F.SAFE_LOCK_LOCK = false →
        ∃ t, Machine.exec (.leMemdataAccess req (some v)) s = .next t ∧ t.fld R.LE_MEMADDR F.LE_MEMADDR_ADDR = (a / 4 + 1) % 2 ^ 19
          ∧ s.SameRegs [R.LE_MEMADDR, R.LE_STAT] t ∧ s.SameBut [.regs, .eng] t
          ∧ (0x20000 ≤ a → a < 0x60000 → s.eng.staged.length < 256 →
            t.eng = { s.eng with staged := FMap.set none s.eng.staged (a / 4) (some v) })
          ∧ (0xA0000 ≤ a → a < 0xB0000 → (∀ g, g < 64 → s.grp g = 0) → t.eng = { s.eng with mem := FMap.set 0#32 s.eng.mem (a / 4) v })
          ∧ (0xA0000 ≤ a → a < 0xB0000 → (a - 0xA0000) / 64 ∈ s.loops → s.loopBusy ((a - 0xA0000) / 64) = true →
            t.bit R.LE_STAT F.LE_STAT_CFG_REJECT = true ∧ t.eng = s.eng)
          ∧ (0x100000 ≤ a → a < 0x180000 → t.bit R.LE_STAT F.LE_STAT_CFG_REJECT = true ∧ t.eng = s.eng)
          ∧ (0xCA000 ≤ a → a < 0x100000 → t.eng = s.eng)))

/-- R318, R361-R363, R379: an enable that passes the checks shows CHECKING; a period above 640 ticks or a phase beyond it is rejected: OFF with CFG_REJECT. The check
of lane time leaves the group ON or rejects it. A drained group goes on to its next boundary; a forced disable shows OFF at once, with nothing ready,
nothing on a lane, and its staged outputs those last released. That a PHASE beyond the period rejects the enable is the model's choice (log entry 67). -/
def Sys2Proof.LoopGroups : Prop :=
  ∀ (s : State) (g : Nat), g < 64 →
    (∀ req v u, Island s req → s.grp g = 0 →
        u = ((s.setFld (R.GRP_CFG g) F.GRP_CFG_NM1 (getF v F.GRP_CFG_NM1)).setFld (R.GRP_CFG g) F.GRP_CFG_PHASE (getF v F.GRP_CFG_PHASE)).setFld
          (R.GRP_CFG g) F.GRP_CFG_FORCE (getF v F.GRP_CFG_FORCE) →
      ∃ t, Machine.exec (.groupEnable req g v) s = .next t ∧ s.SameRegs [R.GRP_CFG g, R.GRP_STAT g] t ∧ s.SameBut [.regs, .eng] t
        ∧ t.fld (R.GRP_CFG g) F.GRP_CFG_NM1 = getF v F.GRP_CFG_NM1 ∧ t.fld (R.GRP_CFG g) F.GRP_CFG_PHASE = getF v F.GRP_CFG_PHASE
        ∧ (u.groupOk g = true → t.grp g = 3 ∧ t.bit (R.GRP_CFG g) F.GRP_CFG_EN = true ∧ FMap.get false t.eng.started g = false)
        ∧ (639 < getF v F.GRP_CFG_NM1 ∨ getF v F.GRP_CFG_NM1 < getF v F.GRP_CFG_PHASE ∨ (∃ j ∈ s.loopsOf g, s.loopOk j = false) →
          t.grp g = 0 ∧ t.bit (R.GRP_CFG g) F.GRP_CFG_EN = false ∧ t.bit (R.GRP_STAT g) F.GRP_STAT_CFG_REJECT = true ∧ t.eng = s.eng))
    ∧ (s.grp g = 3 →
      ∃ t, Machine.exec (.groupCheckEnd g) s = .next t ∧ s.SameRegs [R.GRP_CFG g, R.GRP_STAT g] t ∧ s.SameBut [.regs] t
        ∧ (s.schedulable = true → t.grp g = 1)
        ∧ (s.schedulable = false → t.grp g = 0 ∧ t.bit (R.GRP_CFG g) F.GRP_CFG_EN = false ∧ t.bit (R.GRP_STAT g) F.GRP_STAT_CFG_REJECT = true))
    ∧ (∀ req, Island s req → s.grp g = 1 →
      ∃ t, Machine.exec (.groupDrain req g) s = .next t ∧ t.bit (R.GRP_CFG g) F.GRP_CFG_EN = false
        ∧ t.grp g = 2 ∧ s.SameRegs [R.GRP_CFG g, R.GRP_STAT g] t ∧ s.SameBut [.regs] t)
    ∧ (∀ req, Island s req → s.grp g ≠ 0 →
      ∃ t, Machine.exec (.groupForcedDisable req g) s = .next t ∧ t.grp g = 0 ∧ t.bit (R.GRP_CFG g) F.GRP_CFG_EN = false
        ∧ (∀ r ∈ t.eng.ready, r.group ≠ g) ∧ (∀ l r, (l, some r) ∈ t.eng.lanes → r.group ≠ g)
        ∧ (∀ q i, q ∈ s.templatesOf g → 1 ≤ i → i ≤ 15 →
          FMap.get none t.eng.inserts (16 * q + i) = FMap.get none s.eng.out (16 * q + i))
        ∧ t.eng.mem = s.eng.mem ∧ t.eng.sig = s.eng.sig ∧ t.eng.out = s.eng.out
        ∧ s.SameRegs [R.GRP_CFG g, R.GRP_STAT g] t ∧ s.SameBut [.regs, .eng] t)

/-- R357, R359, R360, R362, R365, R373, R376, R377: an idle lane takes the loop with the earliest deadline, then lower group, then lower slot, no earlier than the cycle after
its boundary, and computes on a copy: an ADD of signals of one format is the saturated sum. The commit, a cost later, writes the signals, state words, link registers and trace
samples of that loop alone; on a lockstep mismatch nothing is committed, and LS and LSLANE are set. That the result is computed as the loop starts, and what the
outputs of a stopped group are, is the model's choice (log entry 68). -/
def Sys2Proof.LoopPeriods : Prop :=
  (∀ (e : BlkEnv) (k : BlkWork) (w d a b : Nat), w = d * 2 ^ 55 + a * 2 ^ 50 + b * 2 ^ 45 → d < 32 → a < 32 → b < 32 → k.s.length = 32 →
      (∀ x, x < 32 → -2 ^ 31 ≤ nth 0 k.s x ∧ nth 0 k.s x < 2 ^ 31) → e.f a = e.f b → e.f d = e.f a →
    runBlocks e [w] k = ⟨setNth k.s d (max (-2 ^ 31) (min (2 ^ 31 - 1) (nth 0 k.s a + nth 0 k.s b))), k.w,
      k.sat || decide (nth 0 k.s a + nth 0 k.s b < -2 ^ 31) || decide (2 ^ 31 ≤ nth 0 k.s a + nth 0 k.s b)⟩)
  ∧ ∀ (s : State) (l : Nat), l < 16 →
    (∀ r, FMap.get none s.eng.lanes l = none → r ∈ s.eng.ready → s.loopLane r.loop = l → r.since < s.now →
        (∀ q ∈ s.eng.ready, s.loopLane q.loop = l → q.since < s.now → q ≠ r →
          r.deadline < q.deadline ∨ r.deadline = q.deadline ∧ (r.group < q.group ∨ r.group = q.group ∧ r.loop < q.loop)) →
      ∃ t x, Machine.exec (.loopStart l) s = .next t ∧ FMap.get none t.eng.lanes l = some x ∧ r ∉ t.eng.ready
        ∧ x.group = r.group ∧ x.loop = r.loop
        ∧ (s.bit (R.LOOP_FLAGS r.loop) F.LOOP_FLAGS_MODE = false →
          x.ends = s.now + progCost s.leParam (s.blocksOf (s.progOf r.loop 1))
          ∧ x.sig = (runBlocks ⟨s.loopF r.loop, s.leParam, s.leState, FMap.get false s.eng.first r.loop⟩ (s.blocksOf (s.progOf r.loop 1))
            ⟨(List.range 32).map (fun x => (s.sigOf r.loop x).toInt), [], false⟩).s)
        ∧ t.eng.sig = s.eng.sig ∧ t.eng.mem = s.eng.mem ∧ s.SameBut [.eng] t)
    ∧ (∀ r, FMap.get none s.eng.lanes l = some r → r.ends ≤ s.now → r.loop < 1024 →
      (∃ t, Machine.exec (.loopCommit l false) s = .next t ∧ FMap.get none t.eng.lanes l = none
        ∧ (∀ x, x < 32 → t.sigOf r.loop x = BitVec.ofInt 32 (nth 0 r.sig x))
        ∧ (∀ j x, j ≠ r.loop → x < 32 → t.sigOf j x = s.sigOf j x)
        ∧ (∀ i v, i < 32768 → r.st.find? (fun p => p.1 == i) = some (i, v) → -2 ^ 63 ≤ v → v < 2 ^ 63 → t.leState i = v)
        ∧ (∀ i, i < 32768 → r.st.find? (fun p => p.1 == i) = none → t.leState i = s.leState i)
        ∧ (∀ a d x, s.linksOf r.loop = [(a, d, x)] →
          (FMap.get ⟨0#32, 0#32, 0⟩ t.eng.links (32 * d + x)).new = BitVec.ofInt 32 (nth 0 r.sig a))
        ∧ (r.sat = true → t.bit (R.LOOP_FLAGS r.loop) F.LOOP_FLAGS_SAT = true)
        ∧ (∀ c w, c < 64 → s.tracing c = true → s.fld (R.TRC_CFG c) F.TRC_CFG_LOOP = r.loop → w = s.fld (R.TRC_STAT c) F.TRC_STAT_WIDX →
          t.leWord (0x100000 + 8192 * c + 4 * w) = t.sigOf r.loop (s.fld (R.TRC_CFG c) F.TRC_CFG_SIG)
          ∧ t.fld (R.TRC_STAT c) F.TRC_STAT_WIDX = (w + 1) % 2048)
        ∧ s.SameScratch t)
      ∧ (∃ t, Machine.exec (.loopCommit l true) s = .next t ∧ FMap.get none t.eng.lanes l = none
        ∧ t.bit (R.LOOP_FLAGS r.loop) F.LOOP_FLAGS_LS = true ∧ bitOf (t.fld R.LE_STAT F.LE_STAT_LSLANE) l = true
        ∧ (s.pwr.isl = false → bitOf (t.rd (R.DM_PEND 16)).toNat (16 + l) = true)
        ∧ t.eng.sig = s.eng.sig ∧ t.eng.mem = s.eng.mem ∧ t.eng.links = s.eng.links ∧ t.eng.inserts = s.eng.inserts ∧ s.SameScratch t))

/-- 2 claims together: LoopGroups, LoopPeriods. -/
def Obligations.LoopGroupsAndPeriods : Prop := Sys2Proof.LoopGroups ∧ Sys2Proof.LoopPeriods

/-- R236, R367, R368, R371, R372: a message to an enabled mailbox of its job and length sets the deadline and every value and reports 0; another is refused whole with
code MAILBOX (6) and REFUSED, or NO_JOB (1) where its job is not on the chip. A mailbox whose deadline has passed is marked STALE in a tick and raises its source. A frame of a matching type with a good
FCS writes its field entries' input registers; one with a bad FCS writes none. -/
def Sys2Proof.SetpointsAndFields : Prop :=
  ∀ (s : State), s.pwr.isl = false →
    (∀ i q m n, s.noc.msgs[i]? = some q → msgBehind s.own s.noc.msgs i q = false → q.total ≤ q.data.length → bitsOf q.w0.toNat 31 28 = 2 → q.src = s.own →
        m = bitsOf q.w0.toNat 7 0 → n = s.fld (R.MB_CFG m) F.MB_CFG_NVAL →
      (s.partOfJob q.job ≠ none → s.bit (R.MB_CFG m) F.MB_CFG_EN = true → q.job = s.fld (R.MB_CFG m) F.MB_CFG_JOB → q.data.length = 4 + 4 * n →
        ∃ t, Machine.exec (.mailboxMessage i) s = .next t ∧ t.noc.msgs = s.noc.msgs.take i ++ s.noc.msgs.drop (i + 1)
          ∧ t.noc.reports = s.noc.reports ++ [⟨q.id, 0, false⟩]
          ∧ (t.rd (R.MB_DEADLINE m)).toNat = leNat (q.data.take 4)
          ∧ (∀ j, j < n → j < 8 → (FMap.get ⟨0#32, 0#32, 0⟩ t.eng.boxes (8 * m + j)).new = BitVec.ofNat 32 (leNat ((q.data.drop (4 + 4 * j)).take 4)))
          ∧ t.fld (R.MB_STAT m) F.MB_STAT_WRITES = min (s.fld (R.MB_STAT m) F.MB_STAT_WRITES + 1) 65535
          ∧ (s.tb3Past (leNat (q.data.take 4)) = false → t.bit (R.MB_STAT m) F.MB_STAT_STALE = false) ∧ s.SameScratch t)
      ∧ (s.partOfJob q.job ≠ none →
          (s.bit (R.MB_CFG m) F.MB_CFG_EN = false ∨ q.job ≠ s.fld (R.MB_CFG m) F.MB_CFG_JOB ∨ q.data.length ≠ 4 + 4 * n) →
        ∃ t, Machine.exec (.mailboxMessage i) s = .next t ∧ t.noc.msgs = s.noc.msgs.take i ++ s.noc.msgs.drop (i + 1)
          ∧ t.noc.reports = s.noc.reports ++ [⟨q.id, 6, false⟩] ∧ t.bit (R.MB_STAT m) F.MB_STAT_REFUSED = true
          ∧ s.SameRegs [R.MB_STAT m] t ∧ s.SameBut [.regs, .noc] t)
      ∧ (s.partOfJob q.job = none →
        ∃ t, Machine.exec (.mailboxMessage i) s = .next t ∧ t.noc.msgs = s.noc.msgs.take i ++ s.noc.msgs.drop (i + 1)
          ∧ t.noc.reports = s.noc.reports ++ [⟨q.id, 1, false⟩] ∧ s.SameBut [.noc] t))
    ∧ (∀ m, m < 256 → s.eng.tickAt = some s.now → s.bit (R.MB_CFG m) F.MB_CFG_EN = true → s.bit (R.MB_STAT m) F.MB_STAT_STALE = false →
        s.tb3Past (s.rd (R.MB_DEADLINE m)).toNat = true →
      ∃ t, Machine.exec (.mailboxStale m) s = .next t ∧ t.bit (R.MB_STAT m) F.MB_STAT_STALE = true
        ∧ bitOf (t.rd (R.DM_PEND (8 + m / 32))).toNat (m % 32) = true
        ∧ (∀ n, n < 16 → bitOf (s.fld (R.DM_MAP (256 + m)) F.DM_MAP_MASK) n = true → bitOf (t.fld R.DD_ACTIVE F.DD_ACTIVE_ACTIVE) n = true)
        ∧ s.SameScratch t)
    ∧ (∀ port (fr : List Byte) ty, port < 2 → 18 ≤ fr.length →
        s.frameType port (etherBody (fr.take (fr.length - 4))).1 (etherBody (fr.take (fr.length - 4))).2 = some ty →
      (crc32 (fr.take (fr.length - 4)) = leNat (fr.drop (fr.length - 4)) →
        ∃ t, Machine.exec (.controlFrame port fr) s = .next t
          ∧ (∀ e v, e ∈ s.fieldEntries → bitsOf (s.fieldW e 0) 30 23 = ty → s.fieldIn e (etherBody (fr.take (fr.length - 4))).2 = some v →
            (FMap.get ⟨0#32, 0#32, 0⟩ t.eng.fields e).new = v)
          ∧ t.eng.sig = s.eng.sig ∧ t.eng.mem = s.eng.mem ∧ s.SameScratch t)
      ∧ (crc32 (fr.take (fr.length - 4)) ≠ leNat (fr.drop (fr.length - 4)) →
        ∃ t, Machine.exec (.controlFrame port fr) s = .next t ∧ t.eng = s.eng ∧ s.SameScratch t))

/-- R377, R378: arming sets every WIDX to 0 and STATE to ARMED; FIRE is the HOST trigger of the next tick test; a triggered trace stops when every enabled channel
has recorded POST samples; the oldest completed run enters the recorder's ring, or is skipped. Where the ring's blocks lie, its length, and that a skipped block
keeps its place are the model's choice (log entry 72); so are the record's IV and its associated data (log entry 95). -/
def Sys2Proof.LoopTrace : Prop :=
  ∀ (s : State),
    (∀ req v, Island s req →
      ∃ t, Machine.exec (.traceArm req v) s = .next t ∧ t.fld R.TR_CTRL F.TR_CTRL_STATE = 1 ∧ t.bit R.TR_CTRL F.TR_CTRL_EN = true
        ∧ t.fld R.TR_CTRL F.TR_CTRL_POST = getF v F.TR_CTRL_POST
        ∧ (∀ c, c < 64 → t.fld (R.TRC_STAT c) F.TRC_STAT_WIDX = 0 ∧ t.fld (R.TRC_STAT c) F.TRC_STAT_TIDX = s.fld (R.TRC_STAT c) F.TRC_STAT_TIDX)
        ∧ s.SameRegs (R.TR_CTRL :: (List.range 64).map R.TRC_STAT) t ∧ s.SameBut [.regs, .eng] t)
    ∧ (∀ req, Island s req → s.bit R.TR_CTRL F.TR_CTRL_EN = true → s.fld R.TR_CTRL F.TR_CTRL_STATE = 1 →
      ∃ t, Machine.exec (.fire req) s = .next t ∧ t.eng = { s.eng with fired := true } ∧ s.SameRegs [] t ∧ s.SameBut [.regs, .eng] t
        ∧ (t.fld R.TR_TRIG F.TR_TRIG_SRC = 0 → t.triggered = true))
    ∧ (s.fld R.TR_CTRL F.TR_CTRL_STATE = 2 →
        (∀ c, c < 64 → s.bit (R.TRC_CFG c) F.TRC_CFG_EN = true → s.fld R.TR_CTRL F.TR_CTRL_POST ≤ FMap.get 0 s.eng.after c) →
      ∃ t, Machine.exec .traceStop s = .next t ∧ t.fld R.TR_CTRL F.TR_CTRL_STATE = 3 ∧ s.SameRegs [R.TR_CTRL] t ∧ s.SameBut [.regs] t)
    ∧ (∀ run rest, s.eng.runs = run :: rest →
      Machine.exec (.recorderBlock true) s = .next { s with eng := { s.eng with runs := rest } }
      ∧ ∀ n k, n = (s.fld R.TR_RBASE F.TR_RBASE_SIZEM1 + 1) * 2 ^ 20 / 4128 →
          s.fld R.TR_RBASE F.TR_RBASE_BASE_KB * 1024 + 4128 * s.eng.ring = s.fld (R.SEC_REC_CFG 4) F.SEC_REC_CFG_BASE_MB * 2 ^ 20 + 4128 * k →
          s.bit (R.SEC_REC_CFG 4) F.SEC_REC_CFG_EN = true → s.bit (R.SEC_REC_CFG 4) F.SEC_REC_CFG_BUSY = false → k < s.regionBlocks 4 →
          run.length ≤ 4096 →
        ∃ t, Machine.exec (.recorderBlock false) s = .next t ∧ t.eng = { s.eng with runs := rest, ring := (s.eng.ring + 1) % n }
          ∧ t.sec.wc = (s.sec.wc + 1) % 2 ^ 64
          ∧ FMap.get 0 t.sec.recWc (recKey 4 k) = (s.sec.wc + 1) % 2 ^ 64
          ∧ t.sec.psram.bytes (s.recAddr 4 k) 4128 = blockRecord (keyBytes s.sec.recKey) ((s.sec.wc + 1) % 2 ^ 64) k 4 run
          ∧ (∀ b, (b < s.recAddr 4 k ∨ s.recAddr 4 k + 4128 ≤ b) → t.sec.psram.byte b = s.sec.psram.byte b)
          ∧ s.SameBut [.eng, .sec] t)

/-- 2 claims together: SetpointsAndFields, LoopTrace. -/
def Obligations.SetpointsAndTrace : Prop := Sys2Proof.SetpointsAndFields ∧ Sys2Proof.LoopTrace

/-! ### Time bases and control ports -/

/-- R392, R394, R395: the servo of base `n` takes the offset θ: one of more than 1 s only counts in BIGOFF; with STEPEN and |θ| ≥ STEPTHR the base is stepped by -θ; else
the integrator takes KI · θ and CORR follows, both clamped. The base is LOCKED when the last eight offsets were all below LOCKTHR, else LOCKING. -/
structure Sys2Proof.Servo (n : Nat) (θ : Int) (s t : State) : Prop where
  big : 10 ^ 9 < θ.natAbs → t.fld (R.TB_STAT n) F.TB_STAT_BIGOFF = min (s.fld (R.TB_STAT n) F.TB_STAT_BIGOFF + 1) 255
    ∧ t.rd (R.TB_NS n) = s.rd (R.TB_NS n) ∧ t.rd (R.TB_CORR n) = s.rd (R.TB_CORR n) ∧ t.rd (R.TB_OFFSET n) = s.rd (R.TB_OFFSET n)
  shown : θ.natAbs ≤ 10 ^ 9 → t.rd (R.TB_OFFSET n) = BitVec.ofInt 32 θ ∧ (t.tb n).lastAt = s.now
    ∧ t.bit (R.TB_STAT n) F.TB_STAT_MASTER_OK = true
    ∧ (t.tb n).offs = (decide (θ.natAbs < s.fld (R.TB_SERVO n) F.TB_SERVO_LOCKTHR) :: (s.tb n).offs).take 8
    ∧ t.tbState n = (if (t.tb n).offs = List.replicate 8 true then 3 else 2)
  step : θ.natAbs ≤ 10 ^ 9 → s.bit (R.TB_SERVO n) F.TB_SERVO_STEPEN = true → (s.rd (R.TB_STEPTHR n)).toNat ≤ θ.natAbs →
    t.rd (R.TB_NS n) = s.rd (R.TB_NS n) + BitVec.ofInt 32 (-θ) ∧ t.rd (R.TB_CORR n) = s.rd (R.TB_CORR n) ∧ (t.tb n).i = (s.tb n).i
    ∧ t.fld (R.TB_STAT n) F.TB_STAT_STEPS = min (s.fld (R.TB_STAT n) F.TB_STAT_STEPS + 1) 255
  steer : θ.natAbs ≤ 10 ^ 9 → (s.bit (R.TB_SERVO n) F.TB_SERVO_STEPEN = false ∨ θ.natAbs < (s.rd (R.TB_STEPTHR n)).toNat) →
    t.rd (R.TB_NS n) = s.rd (R.TB_NS n)
    ∧ (t.tb n).i = max (-1342177 * 2 ^ 16) (min (1342177 * 2 ^ 16) ((s.tb n).i + (s.rd (R.TB_KI n)).toNat * θ))
    ∧ t.rd (R.TB_CORR n) = BitVec.ofInt 32 (max (-1342177) (min 1342177
        (-(Int.fdiv ((s.rd (R.TB_KP n)).toNat * θ + (t.tb n).i) (2 ^ 16)))))

/-- A PTP message on the port, transport and domain of base `n`, with a good FCS, while the other base's engine is off. -/
structure Sys2Proof.Hears (n : Nat) (m : PtpMsg) (s : State) : Prop where
  base : n < 2
  on : s.bit (R.TB_CTRL n) F.TB_CTRL_EN = true ∧ s.bit (R.TB_CTRL n) F.TB_CTRL_SRC = false
  alone : s.bit (R.TB_CTRL (1 - n)) F.TB_CTRL_EN = false
  port : s.fld (R.TB_CTRL n) F.TB_CTRL_PORT = m.port ∧ s.fld (R.TB_CTRL n) F.TB_CTRL_TRANSPORT = m.transport ∧ m.transport < 3
  domain : s.fld (R.TB_CTRL n) F.TB_CTRL_DOMAIN = m.domain ∧ m.version = 2 ∧ m.fcs = true

/-- R392: a delay measurement m is complete: the first is taken whole, a later one moves MPD by an eighth. -/
def Sys2Proof.Delayed (n : Nat) (m : Int) (s t : State) : Prop :=
  t.rd (R.TB_MPD n) = BitVec.ofInt 32 (if (s.tb n).delayed then wrapS 32 ((s.rd (R.TB_MPD n)).toInt + Int.fdiv (wrapS 32 (m - (s.rd (R.TB_MPD n)).toInt)) 8) else m)
  ∧ (t.tb n).delayed = true ∧ (t.tb n).dreq = none ∧ s.SameRegs [R.TB_MPD n] t ∧ s.SameBut [.regs, .time] t

/-- R390-R393: a one-step Sync gives t2 - t1 - c, a two-step one waits for its Follow_Up; from the first measured delay on the offset runs the servo, and a new master sets
MCHG. A delay request leaves with its send time; its response, or the peer's answer, gives MPD. A Pdelay_Req is answered in one step or two. -/
def Obligations.PtpMessages : Prop :=
  ∀ (s : State) (n : Nat) (m : PtpMsg),
    (Hears n m s → m.clock < 2 ^ 64 →
      (m.twoStep = false → ∃ t, Machine.exec (.ptpSync m) s = .next t
        ∧ (s.pair (R.TB_SRCID_LO n) (R.TB_SRCID_HI n) ≠ m.clock →
          t.pair (R.TB_SRCID_LO n) (R.TB_SRCID_HI n) = m.clock ∧ t.bit (R.TB_STAT n) F.TB_STAT_MCHG = true)
        ∧ (t.tb n).diff = some (wrapS 32 ((s.rxTime n : Int) - ptpTime m - ptpCorr m))
        ∧ ((s.tb n).delayed = true → Servo n (wrapS 32 (wrapS 32 ((s.rxTime n : Int) - ptpTime m - ptpCorr m) - (s.rd (R.TB_MPD n)).toInt)) s t)
        ∧ ((s.tb n).delayed = false → t.rd (R.TB_CORR n) = s.rd (R.TB_CORR n) ∧ t.tbState n = s.tbState n) ∧ s.SameScratch t)
      ∧ (m.twoStep = true → ∃ t, Machine.exec (.ptpSync m) s = .next t ∧ (t.tb n).sync = some (m.seq, s.rxTime n, ptpCorr m, s.now)
        ∧ (t.tb n).diff = (s.tb n).diff ∧ s.SameRegs [R.TB_SRCID_LO n, R.TB_SRCID_HI n, R.TB_STAT n] t ∧ s.SameBut [.regs, .time] t)
      ∧ (∀ t2 c at_, (s.tb n).sync = some (m.seq, t2, c, at_) → s.now ≤ at_ + s.tbInterval n →
        ∃ t, Machine.exec (.followUp m) s = .next t ∧ (t.tb n).sync = none
          ∧ (t.tb n).diff = some (wrapS 32 ((t2 : Int) - ptpTime m - (c + ptpCorr m)))
          ∧ ((s.tb n).delayed = true → Servo n (wrapS 32 (wrapS 32 ((t2 : Int) - ptpTime m - (c + ptpCorr m)) - (s.rd (R.TB_MPD n)).toInt)) s t)
          ∧ s.SameScratch t)
      ∧ (∀ t3 d, s.bit (R.TB_CTRL n) F.TB_CTRL_DELAY = false → m.mine = true → (s.tb n).dreq = some (m.seq, t3) → (s.tb n).diff = some d →
        ∃ t, Machine.exec (.delayResp m) s = .next t
          ∧ Delayed n (Int.tdiv (wrapS 32 (d + wrapS 32 ((ptpTime m : Int) - t3 - ptpCorr m))) 2) s t)
      ∧ (s.bit (R.TB_CTRL n) F.TB_CTRL_DELAY = true →
        (s.bit (R.TB_CTRL n) F.TB_CTRL_ONESTEP = true →
          ∃ t, Machine.exec (.pdelayReq n (some m)) s = .next t ∧ t.time = { s.time with ptp := ⟨n, 3, m.seq, s.txTime n⟩ :: s.time.ptp } ∧ s.SameBut [.time] t)
        ∧ (s.bit (R.TB_CTRL n) F.TB_CTRL_ONESTEP = false →
          ∃ t, Machine.exec (.pdelayReq n (some m)) s = .next t
            ∧ t.time = { s.time with ptp := ⟨n, 9, m.seq, s.txTime n⟩ :: ⟨n, 3, m.seq, s.rxTime n⟩ :: s.time.ptp } ∧ s.SameBut [.time] t)
        ∧ (∀ q1, m.mine = true → (s.tb n).dreq = some (m.seq, q1) →
          (m.twoStep = false → ∃ t, Machine.exec (.pdelayResp false m) s = .next t
            ∧ Delayed n (Int.tdiv (wrapS 32 (wrapS 32 ((s.rxTime n : Int) - q1) - wrapS 32 (ptpCorr m - ptpTime m))) 2) s t)
          ∧ (m.twoStep = true → ∃ t, Machine.exec (.pdelayResp false m) s = .next t
            ∧ (t.tb n).part = some (s.rxTime n, (ptpTime m : Int) + ptpCorr m) ∧ s.SameBut [.time] t)
          ∧ (∀ q4 b, (s.tb n).part = some (q4, b) → ∃ t, Machine.exec (.pdelayResp true m) s = .next t
            ∧ Delayed n (Int.tdiv (wrapS 32 (wrapS 32 ((q4 : Int) - q1) - wrapS 32 ((ptpTime m : Int) - b - ptpCorr m))) 2) s t))))
    ∧ (n < 2 → s.bit (R.TB_CTRL n) F.TB_CTRL_EN = true → s.bit (R.TB_CTRL n) F.TB_CTRL_SRC = false →
        (∀ at_, (s.tb n).reqAt = some at_ → at_ + expCycles (s.fld (R.TB_SERVO n) F.TB_SERVO_LOGDREQ) ≤ s.now) →
      ∀ peer c, peer = s.bit (R.TB_CTRL n) F.TB_CTRL_DELAY → c = (if peer then .pdelayReq n none else .delayReq n) →
      ∃ t, Machine.exec c s = .next t ∧ (t.tb n).dreq = some ((s.tb n).seq, s.txTime n) ∧ (t.tb n).seq = ((s.tb n).seq + 1) % 2 ^ 16
        ∧ t.time.ptp = ⟨n, if peer then 2 else 1, (s.tb n).seq, s.txTime n⟩ :: s.time.ptp ∧ s.SameBut [.time] t)

/-- A TIME flit has left on link `l`: whole, TYPE 2, with these 16 bytes from byte 8 on (R252, R396). -/
def Sys2Proof.TimeSent (l : Nat) (bytes : List Byte) (s t : State) : Prop :=
  t.time.flits = (l, bytes) :: s.time.flits
  ∧ ∃ fl, (t.link l).sent = fl :: (s.link l).sent ∧ Intact fl ∧ bitsOf (leNat (fl.take 8)) 37 35 = 2 ∧ (fl.drop 8).take 16 = bytes

/-- R388, R389, R394-R400: enabling a source starts it in ACQUIRE with I = 0; a write with EN set while it runs is refused. LOSSCNT intervals without an offset give HOLDOVER,
CORR held at -(I >> 16). A step moves NS, and TB3 with the base it follows. SEL switches TB3 without a step. A link-fed base asks by a TIME flit; a chip
answers for the base asked, and a response that is OK gives θ and MPD. CAP and PPS_IN copy all four bases; PPS_OUT rises at PPS_NEXT and falls 100 µs later, when PPS_NEXT advances.
That it rises only while it is low is the model's choice (log entry 77); so are SEQ and POOL of a TIME flit (log entry 42). -/
def Sys2Proof.TimeBases : Prop :=
  ∀ (s : State),
    (∀ req n v, Island s req → n < 2 →
      (s.bit (R.TB_CTRL n) F.TB_CTRL_EN = false →
        ∃ t, Machine.exec (.tbEnable req n v) s = .next t ∧ t.rd (R.TB_CTRL n) = setF v F.TB_CTRL_EN 1 &&& 0xFFF0FF00#32 ∧ t.tbState n = 1
          ∧ t.bit (R.TB_STAT n) F.TB_STAT_MASTER_OK = false ∧ (t.tb n).i = 0 ∧ (t.tb n).delayed = false ∧ (t.tb n).offs = [] ∧ s.SameScratch t)
      ∧ (s.bit (R.TB_CTRL n) F.TB_CTRL_EN = true →
        ∃ t, Machine.exec (.tbEnable req n v) s = .next t ∧ t.bit (R.TB_STAT n) F.TB_STAT_CFG_REJECT = true
          ∧ s.SameRegs [R.TB_STAT n] t ∧ s.SameBut [.regs] t)
      ∧ (∃ t, Machine.exec (.tbStep req n v) s = .next t ∧ t.rd (R.TB_NS n) = s.rd (R.TB_NS n) + v
        ∧ (s.follow = n → (t.tb3 : Int) = ((s.tb3 : Int) + v.toInt) % 2 ^ 32) ∧ (s.follow ≠ n → t.tb3 = s.tb3)
        ∧ s.SameRegs [R.TB_NS n] t ∧ s.SameBut [.regs] t)
      ∧ (s.follow ≠ n → ∃ t, Machine.exec (.sel req n) s = .next t ∧ t.follow = n ∧ t.tb3Count = s.tb3Count
        ∧ t.fld R.TB3_STAT F.TB3_STAT_SWITCHES = min (s.fld R.TB3_STAT F.TB3_STAT_SWITCHES + 1) 255
        ∧ s.SameRegs [R.TB3_CTRL, R.TB3_STAT, R.TB3_D_LO, R.TB3_D_HI] t ∧ s.SameBut [.regs] t))
    ∧ (∀ n, n < 2 → s.masterOk n = true → (s.tb n).lastAt + max (s.fld (R.TB_SERVO n) F.TB_SERVO_LOSSCNT) 1 * s.tbInterval n ≤ s.now →
      ∃ t, Machine.exec (.holdover n) s = .next t ∧ t.tbState n = 4 ∧ t.masterOk n = false
        ∧ t.rd (R.TB_CORR n) = BitVec.ofInt 32 (max (-1342177) (min 1342177 (-(Int.fdiv (s.tb n).i (2 ^ 16)))))
        ∧ (s.masterOk (1 - n) = false → t.bit R.TIME_STAT F.TIME_STAT_NOTIME = true) ∧ s.SameScratch t)
    ∧ (∀ n l, n < 2 → s.bit (R.TB_CTRL n) F.TB_CTRL_EN = true → s.bit (R.TB_CTRL n) F.TB_CTRL_SRC = true → l = s.fld (R.TB_CTRL n) F.TB_CTRL_LINK →
        s.linkState l = 2 → s.carries l = true → (∀ a, (s.tb n).reqAt = some a → a + 400000 ≤ s.now) →
      ∃ t, Machine.exec (.timeRequest n) s = .next t ∧ (t.tb n).dreq = some ((s.tb n).seq, s.tbNs n)
        ∧ TimeSent l ([0#8, BitVec.ofNat 8 (s.fld (R.TB_CTRL n) F.TB_CTRL_PDOMAIN)] ++ leBytes 2 (s.tb n).seq ++ leBytes 4 (s.tbNs n)
          ++ List.replicate 8 0#8) s t ∧ s.SameBut [.noc, .time, .trc] t)
    ∧ (∀ l corr fl pool seq b, Taken s l fl 2 pool seq → s.pwr.isl = false → b = fl.drop 8 →
      (b.take 1 = [0#8] → s.linkState l = 2 →
        ∃ t d, Machine.exec (.timeFlit l corr false fl) s = .next t ∧ d = leNat ((b.drop 1).take 1) % 2
          ∧ TimeSent l ([1#8, BitVec.ofNat 8 (d + (if s.masterOk d then 2 else 0))] ++ (b.drop 2).take 6 ++ leBytes 4 (s.tbNs d)
            ++ leBytes 4 (s.tbNs d)) s t ∧ s.SameRegs [R.KL_CORR l] t ∧ s.SameBut [.regs, .noc, .time, .trc] t)
      ∧ (∀ n f t1 t2 t3 t4 : Nat, b.take 1 = [1#8] → s.linkState l = 2 → n < 2 → f = leNat ((b.drop 1).take 1) → bitOf f 1 = true →
          s.bit (R.TB_CTRL n) F.TB_CTRL_EN = true → s.bit (R.TB_CTRL n) F.TB_CTRL_SRC = true → s.fld (R.TB_CTRL n) F.TB_CTRL_LINK = l →
          s.fld (R.TB_CTRL n) F.TB_CTRL_PDOMAIN = f % 2 → s.bit (R.TB_CTRL (1 - n)) F.TB_CTRL_EN = false →
          (s.tb n).dreq.map (·.1) = some (leNat ((b.drop 2).take 2)) →
          t1 = leNat ((b.drop 4).take 4) → t2 = leNat ((b.drop 8).take 4) → t3 = leNat ((b.drop 12).take 4) → t4 = s.tbNs n →
        ∃ t, Machine.exec (.timeFlit l corr false fl) s = .next t ∧ (t.tb n).dreq = none
          ∧ t.rd (R.TB_MPD n) = BitVec.ofInt 32 (Int.tdiv (wrapS 32 (wrapS 32 ((t4 : Int) - t1) - wrapS 32 ((t3 : Int) - t2))) 2)
          ∧ Servo n (Int.tdiv (wrapS 32 (wrapS 32 ((t1 : Int) - t2) + wrapS 32 ((t4 : Int) - t3))) 2) s t ∧ s.SameScratch t))
    ∧ (∀ c, (∃ req, Island s req ∧ c = .cap req) ∨ (s.bit R.TIME_CTRL F.TIME_CTRL_PPSCAP = true ∧ c = .ppsIn) →
      ∃ t, Machine.exec c s = .next t ∧ (∀ n, n < 4 → (t.rd (R.TB_CAP n)).toNat = s.tbNs n) ∧ t.bit R.TIME_STAT F.TIME_STAT_CAPV = true
        ∧ s.SameRegs [R.TB_CAP 0, R.TB_CAP 1, R.TB_CAP 2, R.TB_CAP 3, R.TIME_STAT] t ∧ s.SameBut [.regs] t)
    ∧ (s.bit R.TIME_CTRL F.TIME_CTRL_PPSEN = true → s.time.ppsAt = none → s.tb3Past (s.rd R.PPS_NEXT).toNat = true →
      Machine.exec .ppsOut s = .next { s with time := { s.time with ppsAt := some s.now } })
    ∧ (∀ a, s.time.ppsAt = some a → a + 40000 ≤ s.now →
      ∃ t, Machine.exec .ppsOutFall s = .next t ∧ t.rd R.PPS_NEXT = s.rd R.PPS_NEXT + s.rd R.PPS_PERIOD ∧ t.time = { s.time with ppsAt := none }
        ∧ s.SameRegs [R.PPS_NEXT] t ∧ s.SameBut [.regs, .time] t)

/-- R402-R404: at the end of an entry the next one applies, and at the cycle end the first. SWAP is taken with a LEN of 1 to 256 and a CYCLE of 1 µs to 1 s while none is pending; the
new list starts at the first cycle start of the old one at or after BASE, or at BASE itself where EN was 0. A verify exchange that succeeds shows PREEMPT_OK. That a SWAP with another LEN or CYCLE is discarded, that a list runs with EN = 0,
and how registers and banks change places, are the model's choice (log entry 76). -/
def Sys2Proof.GateLists : Prop :=
  ∀ (s : State) (p : Nat), p < 2 →
    (1 ≤ (s.port p).len → s.tb3Past ((s.port p).start + s.gclEnd p (s.port p).entry) = true →
      (s.gclEnd p (s.port p).entry < (s.port p).cycle →
        ∃ t, Machine.exec (.gateInterval p) s = .next t ∧ t.port p = { s.port p with entry := (s.port p).entry + 1 }
          ∧ (s.bit (R.CP_GCTRL p) F.CP_GCTRL_EN = true →
            t.fld (R.CP_GSTAT p) F.CP_GSTAT_GATES = getF (s.gcl p ((s.port p).entry + 1)) F.CP_GCL_GATES)
          ∧ (s.bit (R.CP_GCTRL p) F.CP_GCTRL_EN = false → t.fld (R.CP_GSTAT p) F.CP_GSTAT_GATES = 255)
          ∧ (∀ q, q ≠ p → t.port q = s.port q) ∧ s.SameRegs [R.CP_GSTAT p] t ∧ s.SameBut [.regs, .time] t)
      ∧ ((s.port p).cycle ≤ s.gclEnd p (s.port p).entry → s.bit (R.CP_GSTAT p) F.CP_GSTAT_PENDING = false →
        ∃ t, Machine.exec (.gateInterval p) s = .next t
          ∧ t.port p = { s.port p with entry := 0, start := ((s.port p).start + (s.port p).cycle) % 2 ^ 32 }
          ∧ s.SameRegs [R.CP_GSTAT p] t ∧ s.SameBut [.regs, .time] t))
    ∧ (∀ req len cycle, Island s req → s.bit (R.CP_GSTAT p) F.CP_GSTAT_PENDING = false → len = s.fld (R.CP_GCTRL p) F.CP_GCTRL_LEN →
        cycle = (s.rd (R.CP_CYCLE p)).toNat →
      ∃ t, Machine.exec (.swap req p) s = .next t ∧ t.fld (R.CP_GCTRL p) F.CP_GCTRL_LEN = len
        ∧ (t.bit (R.CP_GSTAT p) F.CP_GSTAT_PENDING = true ↔ 1 ≤ len ∧ len ≤ 256 ∧ 1000 ≤ cycle ∧ cycle ≤ 10 ^ 9)
        ∧ (1 ≤ len → len ≤ 256 → 1000 ≤ cycle → cycle ≤ 10 ^ 9 →
          t.port p = { s.port p with atBase := !s.bit (R.CP_GCTRL p) F.CP_GCTRL_EN })
        ∧ s.SameRegs [R.CP_GCTRL p, R.CP_GSTAT p] t ∧ s.SameBut [.regs, .time] t)
    ∧ (∀ start, s.bit (R.CP_GSTAT p) F.CP_GSTAT_PENDING = true →
        (s.bit (R.CP_GCTRL p) F.CP_GCTRL_EN = true ∧ (s.port p).atBase = false ∧ 1 ≤ (s.port p).len ∧ start = (s.port p).start + (s.port p).cycle
            ∧ s.gclEnd p (s.port p).entry = (s.port p).cycle ∧ s.tb3Past start = true
            ∧ 0 ≤ sx 32 (start + 2 ^ 32 - (s.rd (R.CP_BASE p)).toNat)
          ∨ (s.bit (R.CP_GCTRL p) F.CP_GCTRL_EN = false ∨ (s.port p).atBase = true) ∧ start = (s.rd (R.CP_BASE p)).toNat ∧ s.tb3Past start = true) →
      ∃ t, Machine.exec (.swapApply p) s = .next t ∧ t.fld (R.CP_GSTAT p) F.CP_GSTAT_BANK = 1 - s.fld (R.CP_GSTAT p) F.CP_GSTAT_BANK
        ∧ t.bit (R.CP_GSTAT p) F.CP_GSTAT_PENDING = false ∧ t.bit (R.CP_GCTRL p) F.CP_GCTRL_SWAP = false
        ∧ (t.port p).len = s.fld (R.CP_GCTRL p) F.CP_GCTRL_LEN ∧ (t.port p).cycle = (s.rd (R.CP_CYCLE p)).toNat
        ∧ (t.port p).start = start % 2 ^ 32 ∧ (t.port p).entry = 0 ∧ (t.port p).atBase = false ∧ (t.port p).queue = (s.port p).queue
        ∧ s.SameRegs [R.CP_GCTRL p, R.CP_GSTAT p, R.CP_CYCLE p] t ∧ s.SameBut [.regs, .time] t)
    ∧ (s.bit (R.CP_PREEMPT p) F.CP_PREEMPT_VERIFY = true →
      ∃ t, Machine.exec (.preemptVerify p) s = .next t ∧ t.bit (R.CP_GSTAT p) F.CP_GSTAT_PREEMPT_OK = true
        ∧ s.SameRegs [R.CP_GSTAT p] t ∧ s.SameBut [.regs] t)

/-- 2 claims together: TimeBases, GateLists. -/
def Obligations.TimeBasesAndGates : Prop := Sys2Proof.TimeBases ∧ Sys2Proof.GateLists

/-! ### Safety -/

/-- R420: permit `k` is withdrawn, with its cause, its index and the time in TB2. -/
structure Sys2Proof.Withdrawn (k cause : Nat) (s t : State) : Prop where
  low : t.bit (R.PERMIT_CTRL k) F.PERMIT_CTRL_GRANT = false ∧ t.bit (R.PERMIT_STAT k) F.PERMIT_STAT_OUT = false
    ∧ t.bit (R.PERMIT_STAT k) F.PERMIT_STAT_RB = false
  cause : t.fld (R.PERMIT_STAT k) F.PERMIT_STAT_CAUSE = cause
  time : t.rd (R.PERMIT_WTIME k) = s.rd (R.TB_NS 2)

/-- A granted permit that nothing forbids. -/
def Sys2Proof.Granted (k : Nat) (s : State) : Prop :=
  k < 8 ∧ s.bit (R.PERMIT_CTRL k) F.PERMIT_CTRL_GRANT = true ∧ s.permitCause k = none

/-- R412, R416, R418-R424: a forced domain, a latched comparator or pin, a trip-path fault and a failed clock withdraw every permit that listens to them. A silent
field trips its comparator after HI µs; a pin trips when it has been low for FILT + 1 samples. GRANT raises a permit that nothing forbids, and is refused with
GREF otherwise; GRANT = 0 withdraws with cause HOST (5). The lock is set. The model's choices: a failed clock withdraws with cause 6, CLKFAIL being no trip-path bit
(log entry 78); of several causes the lowest code is recorded, and a ball that differs shows in RB until its level is commanded again (log entry 79). A FILT of 5 to 7
acts as 4 (R432). -/
def Obligations.Permits : Prop :=
  ∀ (s : State), s.pwr.isl = false →
    (∀ req v, Island s req →
      ∃ t, Machine.exec (.ddForce req v) s = .next t ∧ t.fld R.DD_FORCE F.DD_FORCE_FORCE = v.toNat % 2 ^ 16
        ∧ (∀ n, n < 16 → bitOf v.toNat n = true → bitOf t.domains n = true)
        ∧ (∀ k n, Granted k s → n < 16 → bitOf v.toNat n = true → bitOf (s.fld (R.PERMIT_CTRL k) F.PERMIT_CTRL_DDMASK) n = true →
          Withdrawn k 3 s t) ∧ s.SameScratch t ∧ t.permitsOk)
    ∧ (∀ c, c < 64 → s.bit (R.TC_CFG c) F.TC_CFG_EN = true → s.fld (R.TC_CFG c) F.TC_CFG_KIND = 3 → 1 ≤ (s.rd (R.TC_HI c)).toInt →
        FMap.get 0 s.safe.lastLatch c + 400 * (s.rd (R.TC_HI c)).toNat ≤ s.now →
      ∃ t, Machine.exec (.silentTest c) s = .next t ∧ bitOf t.trips c = true
        ∧ (∀ k, Granted k s → bitOf (s.tmask k) c = true → Withdrawn k 1 s t ∧ t.fld (R.PERMIT_STAT k) F.PERMIT_STAT_INDEX = c)
        ∧ (∀ k, Granted k s → bitOf (s.tmask k) c = false → t.bit (R.PERMIT_CTRL k) F.PERMIT_CTRL_GRANT = true)
        ∧ s.SameBut [.regs] t ∧ t.permitsOk)
    ∧ (∀ k n, k < 8 →
      ∃ t, Machine.exec (.tripIn k n) s = .next t ∧ FMap.get 0 t.safe.tripLow k = n ∧ s.SameBut [.regs, .safe] t
        ∧ (bitOf (s.fld R.TRIPIN_CFG F.TRIPIN_CFG_EN) k = true → min (s.fld R.TRIPIN_CFG F.TRIPIN_CFG_FILT) 4 + 1 ≤ n →
          bitOf (t.fld R.TRIP_PIN F.TRIP_PIN_TRIPPED) k = true
          ∧ ∀ j, Granted j s → bitOf (s.fld (R.PERMIT_CTRL j) F.PERMIT_CTRL_PINMASK) k = true → Withdrawn j 2 s t)
        ∧ (bitOf (s.fld R.TRIPIN_CFG F.TRIPIN_CFG_EN) k = false ∨ n ≤ min (s.fld R.TRIPIN_CFG F.TRIPIN_CFG_FILT) 4 →
          bitOf (t.fld R.TRIP_PIN F.TRIP_PIN_TRIPPED) k = bitOf (s.fld R.TRIP_PIN F.TRIP_PIN_TRIPPED) k))
    ∧ (∀ kind i, kind < 3 → i < 64 →
      ∃ t, Machine.exec (.tripPathFault kind i) s = .next t
        ∧ (kind < 2 → t.bit R.TRIP_FAULT F.TRIP_FAULT_MIS = true ∧ t.fld R.TRIP_FAULT F.TRIP_FAULT_TCIDX = if kind = 0 then i else 63)
        ∧ (kind = 2 → t.bit R.TRIP_FAULT F.TRIP_FAULT_RBERR = true)
        ∧ (kind = 2 → i < 8 → s.bit (R.PERMIT_CTRL i) F.PERMIT_CTRL_GRANT = false →
          t.fld (R.PERMIT_STAT i) F.PERMIT_STAT_OUT = s.fld (R.PERMIT_STAT i) F.PERMIT_STAT_OUT
          ∧ t.fld (R.PERMIT_STAT i) F.PERMIT_STAT_RB = 1 - s.fld (R.PERMIT_STAT i) F.PERMIT_STAT_OUT)
        ∧ (∀ k, k < 8 → t.bit (R.PERMIT_CTRL k) F.PERMIT_CTRL_GRANT = false)
        ∧ (∀ k, Granted k s → t.bit (R.PERMIT_STAT k) F.PERMIT_STAT_OUT = false) ∧ t.beating = false
        ∧ bitOf (t.rd (R.DM_PEND 17)).toNat 23 = true ∧ s.SameBut [.regs] t)
    ∧ ((∃ t, Machine.exec (.clockFail true) s = .next t ∧ t.safe = { s.safe with clkBad := true } ∧ t.bit R.TRIP_FAULT F.TRIP_FAULT_CLKFAIL = true
          ∧ (∀ k, Granted k s → Withdrawn k 6 s t) ∧ s.SameBut [.regs, .safe] t ∧ t.permitsOk)
      ∧ Machine.exec (.clockFail false) s = .next { s with safe := { s.safe with clkBad := false } })
    ∧ (∀ req k, Island s req → k < 8 →
      (s.bit (R.PERMIT_CTRL k) F.PERMIT_CTRL_GRANT = false →
        (s.permitCause k = none →
          ∃ t, Machine.exec (.grant req k true) s = .next t ∧ t.bit (R.PERMIT_CTRL k) F.PERMIT_CTRL_GRANT = true
            ∧ t.bit (R.PERMIT_STAT k) F.PERMIT_STAT_OUT = true ∧ t.bit (R.PERMIT_STAT k) F.PERMIT_STAT_RB = true
            ∧ t.fld (R.PERMIT_CTRL k) F.PERMIT_CTRL_DDMASK = s.fld (R.PERMIT_CTRL k) F.PERMIT_CTRL_DDMASK
            ∧ s.SameRegs [R.PERMIT_CTRL k, R.PERMIT_STAT k] t ∧ s.SameBut [.regs] t)
        ∧ (s.permitCause k ≠ none →
          ∃ t, Machine.exec (.grant req k true) s = .next t ∧ t.bit (R.PERMIT_CTRL k) F.PERMIT_CTRL_GRANT = false
            ∧ t.bit (R.PERMIT_STAT k) F.PERMIT_STAT_GREF = true ∧ s.SameRegs [R.PERMIT_STAT k] t ∧ s.SameBut [.regs] t))
      ∧ (s.bit (R.PERMIT_CTRL k) F.PERMIT_CTRL_GRANT = true →
        ∃ t, Machine.exec (.grant req k false) s = .next t ∧ Withdrawn k 5 s t ∧ t.fld (R.PERMIT_STAT k) F.PERMIT_STAT_INDEX = 0
          ∧ s.SameRegs [R.PERMIT_CTRL k, R.PERMIT_STAT k, R.PERMIT_WTIME k] t ∧ s.SameBut [.regs] t))
    ∧ (∀ req, Island s req →
      ∃ t, Machine.exec (.lock req) s = .next t ∧ t.bit R.SAFE_LOCK F.SAFE_LOCK_LOCK = true ∧ s.SameRegs [R.SAFE_LOCK] t ∧ s.SameBut [.regs] t
        ∧ ∀ k, k < 8 → ∀ m, m ≠ t.fld (R.PERMIT_CTRL k) F.PERMIT_CTRL_DDMASK → m < 2 ^ 16 →
          (t.writePermit k (setF (t.rd (R.PERMIT_CTRL k)) F.PERMIT_CTRL_DDMASK m)).fld (R.PERMIT_CTRL k) F.PERMIT_CTRL_DDMASK
            = t.fld (R.PERMIT_CTRL k) F.PERMIT_CTRL_DDMASK)

/-- R426: the march of a column: in the unfenced cores of physical column `col` every byte outside the enabled windows reads 0 and is without
error marks; every other byte and mark is as before. -/
structure Sys2Proof.Marched (ch col : Nat) (s t : State) : Prop where
  tested : ∀ r l, r < 16 → logicalCol (s.fmask ch r) col = some l → ∀ a, a < 2 ^ 22 →
    t.scratch.byte (cellKey (coreId ch r l) a)
      = (if s.windowed (coreId ch r l) a then s.scratch.byte (cellKey (coreId ch r l) a) else 0)
    ∧ (s.windowed (coreId ch r l) (a / 8 * 8) = false →
      FMap.get false t.ue (wordKey (coreId ch r l) a) = false ∧ FMap.get false t.ce (wordKey (coreId ch r l) a) = false)
  others : ∀ c a, a < 2 ^ 22 → (∀ r l, r < 16 → logicalCol (s.fmask ch r) col = some l → c ≠ coreId ch r l) →
    t.scratch.byte (cellKey c a) = s.scratch.byte (cellKey c a)
    ∧ FMap.get false t.ue (wordKey c a) = FMap.get false s.ue (wordKey c a) ∧ FMap.get false t.ce (wordKey c a) = FMap.get false s.ce (wordKey c a)

/-- R426-R429: a Fabric slice starts between the steps of its channel and ends with its column tested and marched, the last one ending the pass; a failing core is fenced and FFAIL set.
An island slice starts on an idle lane far from the next tick; LANEDONE gathers the lanes, and the last ends the pass. At the interval's end a pass that still runs
is overdue, and one that has ended starts again. BIST runs on a channel that is ON and free; cores that fail are fenced. -/
def Obligations.SelfTests : Prop :=
  ∀ (s : State),
    (∀ ch, ch < 4 → s.bit R.TEST_CTRL F.TEST_CTRL_FEN = true → s.chState ch = 1 → bitOf s.tests.fpass ch = true →
        FMap.get none s.tests.frun ch = none → s.ownerOf ch = none → (∀ m ∈ s.migr, m.ch ≠ ch) → s.pwr.isl = false →
      ∃ t, Machine.exec (.fabricSlice ch) s = .next t ∧ FMap.get none t.tests.frun ch = some (FMap.get 0 s.tests.fdone ch)
        ∧ bitOf t.tests.fused ch = true ∧ s.SameBut [.tests] t)
    ∧ (∀ ch col, ch < 4 → FMap.get none s.tests.frun ch = some col → col ≤ 16 → s.ownerOf ch = none →
      (∃ t, Machine.exec (.fabricSliceEnd ch []) s = .next t ∧ FMap.get none t.tests.frun ch = none
        ∧ FMap.get 0 t.tests.fdone ch = (if col = 16 then 0 else col + 1)
        ∧ bitOf t.tests.fpass ch = (bitOf s.tests.fpass ch && decide (col < 16))
        ∧ (col = 16 → bitOf (t.fld R.TEST_STAT F.TEST_STAT_FOVD) ch = false)
        ∧ Sys2Proof.Marched ch col s t ∧ s.SameBut [.regs, .tests, .scratch, .ue, .ce] t)
      ∧ (∀ row, row < 16 → col < 16 → s.fmask ch row = 0 → (∀ m ∈ s.migr, ¬(m.ch = ch ∧ m.row = row)) →
        ∃ t, Machine.exec (.fabricSliceEnd ch [row]) s = .next t ∧ t.migr = s.migr ++ [⟨ch, row, col, 5⟩]
          ∧ bitOf (t.fld R.TEST_STAT F.TEST_STAT_FFAIL) ch = true ∧ (s.pwr.isl = false → bitOf (t.rd (R.DM_PEND 17)).toNat 19 = true)
          ∧ Sys2Proof.Marched ch col s t))
    ∧ (∀ l, l < 16 →
      (s.pwr.isl = false → s.bit R.TEST_CTRL F.TEST_CTRL_IEN = true → s.tests.ipass = true → bitOf s.tests.irun l = false →
          bitOf (s.fld R.TEST_STAT F.TEST_STAT_LANEDONE) l = false → FMap.get none s.eng.lanes l = none →
          (∀ r ∈ s.eng.ready, s.loopLane r.loop ≠ l) → s.bit R.LE_STAT F.LE_STAT_RUN = false ∨ 1530 ≤ sx 32 (s.eng.next + 2 ^ 32 - s.tb3) →
        ∃ t, Machine.exec (.islandSlice l) s = .next t ∧ bitOf t.tests.irun l = true ∧ s.SameBut [.tests] t)
      ∧ (bitOf s.tests.irun l = true → ∀ fail,
        ∃ t, Machine.exec (.islandSliceEnd l fail) s = .next t ∧ bitOf t.tests.irun l = false
          ∧ bitOf (t.fld R.TEST_STAT F.TEST_STAT_LANEDONE) l = true
          ∧ (fail = true → t.bit R.TEST_STAT F.TEST_STAT_IFAIL = true ∧ (s.pwr.isl = false → bitOf (t.rd (R.DM_PEND 17)).toNat 20 = true))
          ∧ ((∀ k, k < 16 → k ≠ l → bitOf (s.fld R.TEST_STAT F.TEST_STAT_LANEDONE) k = true) →
            t.tests.ipass = false ∧ t.bit R.TEST_STAT F.TEST_STAT_IOVD = false)
          ∧ t.eng = s.eng ∧ s.SameBut [.regs, .tests] t))
    ∧ (s.pwr.isl = false →
      ∃ t, Machine.exec .testInterval s = .next t
        ∧ (∀ ch, ch < 4 → s.chState ch = 1 ∨ s.chState ch = 2 →
          (bitOf s.tests.fpass ch = true → bitOf (t.fld R.TEST_STAT F.TEST_STAT_FOVD) ch = true)
          ∧ (bitOf s.tests.fpass ch = false → FMap.get 0 t.tests.fdone ch = 0) ∧ bitOf t.tests.fpass ch = true)
        ∧ (s.tests.ipass = true → t.bit R.TEST_STAT F.TEST_STAT_IOVD = true)
        ∧ (s.tests.ipass = false → t.fld R.TEST_STAT F.TEST_STAT_LANEDONE = 0) ∧ t.tests.ipass = true ∧ s.SameScratch t)
    ∧ (∀ req ch, Island s req → ch < 4 →
      (s.chState ch = 1 → s.ownerOf ch = none → s.tests.bist = none →
        ∃ t, Machine.exec (.bistgo req ch) s = .next t ∧ t.tests = { s.tests with bist := some ch }
          ∧ t.bit R.TEST_STAT F.TEST_STAT_BISTBUSY = true ∧ s.SameScratch t)
      ∧ (s.chState ch ≠ 1 ∨ s.ownerOf ch ≠ none →
        ∃ t, Machine.exec (.bistgo req ch) s = .next t ∧ t.tests = s.tests ∧ t.bit R.TRIP_FAULT F.TRIP_FAULT_CFG_REJECT = true ∧ s.SameScratch t))
    ∧ (∀ ch, s.tests.bist = some ch →
      (∃ t, Machine.exec (.bistEnd []) s = .next t ∧ t.tests = { s.tests with bist := none } ∧ t.bit R.TEST_STAT F.TEST_STAT_BISTBUSY = false
        ∧ s.SameRegs [R.TEST_STAT] t ∧ s.SameBut [.regs, .tests] t)
      ∧ (∀ row col, ch < 4 → row < 16 → col < 16 → s.fmask ch row = 0 → (∀ m ∈ s.migr, ¬(m.ch = ch ∧ m.row = row)) →
        ∃ t, Machine.exec (.bistEnd [(row, col)]) s = .next t ∧ t.tests.bist = none ∧ t.bit R.TEST_STAT F.TEST_STAT_BISTFAIL = true
          ∧ t.migr = s.migr ++ [⟨ch, row, col, 5⟩] ∧ s.SameScratch t))

/-! ### The whole device -/

/-- From every state every command, and every cycle of an empty queue, leads to a next state: no command stops the device; a refused or misplaced one has the
effect the spec gives its refusal, or none. All of this is the model's own: the queue of commands (log entry 2), the cycle of an empty one (log entry 3), a command whose event
cannot occur (log entry 4), what the spec leaves undefined (log entry 10). The queue belongs to the senders: a command leaves the commands behind it as they are. -/
def Obligations.EveryStepCompletes : Prop :=
  (∀ (c : Instr) (s : State), ∃ t, Machine.exec c s = .next t ∧ t.pending = s.pending)
  ∧ ∀ s : State, ∃ t, Machine.step s = .next t ∧ t.pending = s.pending.tail

/-- Every step keeps the memories of the device canonical: addresses strictly rising, no byte listed that reads as an unlisted one, so that equal memories are equal data. -/
def Obligations.MemoriesStayCanonical : Prop :=
  ∀ s t : State, s.memOk = true → Machine.step s = .next t → t.memOk = true

/-- R420: a granted permit stays one that nothing forbids: no latched comparator or pin trip in its masks, no active domain, no trip-path fault, no failed clock;
and while the island is in reset no permit is granted. Every step keeps this; a step that brings a cause withdraws the permits it forbids. Which bits of TRIP_FAULT are
trip-path faults is the model's choice (log entry 78). -/
def Obligations.PermitsStayForbidden : Prop :=
  ∀ s t : State, s.permitsInv → Machine.step s = .next t → t.permitsInv

/-- R386, R387, R398: in one CK_S cycle of a running island TB2 gains 2.5 ns, TB0 and TB1 gain four times INCR + CORR, and D goes toward 0 by SLEW at most
while R399 switches nothing. -/
def Obligations.ClockCycle : Prop :=
  ∀ s : State, s.pending = [] → s.pwr.isl = false →
    ∃ t, Machine.step s = .next t ∧ t.now = s.now + 1
      ∧ t.tbCount 2 = (s.tbCount 2 + 5 * 2 ^ 31) % 2 ^ 64
      ∧ (∀ n, n < 2 → (t.tbCount n : Int) = ((s.tbCount n : Int) + 4 * ((s.rd (R.TB_INCR n)).toNat + (s.rd (R.TB_CORR n)).toInt)) % 2 ^ 64)
      ∧ (∀ m : Int, (s.masterOk s.follow = true ∨ s.tbState (1 - s.follow) ≠ 3) → m = min (s.fld R.TB3_SLEW F.TB3_SLEW_SLEW : Int) 536870 →
        (0 ≤ s.tbD → t.tbD = max (s.tbD - m) 0) ∧ (s.tbD < 0 → t.tbD = min (s.tbD + m) 0))

/-! ### Where each command completes -/

/-- R74, R141, R144, R189, R190, R236, R237: a message that passes its checks is written; a report of success settles its sender; a reduction child is held at its
parent's port; a root is written; a window value that fits takes effect; the zeroing of a window ends; a corrected word is written back. -/
def Obligations.DeliveriesComplete : Prop :=
  ∀ (s : State) (i : Nat),
    (∀ m d p k a, Plain s i m → d = bitsOf m.w0.toNat 9 0 → a = bitsOf m.w1.toNat 21 0 → s.partOfJob m.job = some p →
        (s.part p).owns (d / 256) = true → s.slotOf d p m.ctx = some k → s.zeroing d k = false → a + m.data.length ≤ s.bound d k →
      ∃ t, Machine.exec (.messageArrival i) s = .next t ∧ t.scratch.bytes (cellKey d (s.phys d k a)) m.data.length = m.data
        ∧ t.noc.msgs = s.noc.msgs.take i ++ s.noc.msgs.drop (i + 1))
    ∧ (∀ r a, s.noc.reports[i]? = some r → s.noc.awaits.find? (fun a => a.id == r.id) = some a → s.reportHeld r = false → r.code = 0 →
      ∃ t, Machine.exec (.deliveryReport i) s = .next t ∧ t.noc.awaits = s.noc.awaits.filter (fun b => b.id != a.id))
    ∧ (∀ c e pn side, s.noc.children[i]? = some c → s.ctxGone c.part c.ctx = false → s.holds c.dst = false →
        s.treeEntry c.part c.ctx c.tree = some e → e.valid = true → c.node.parent e.L = some (pn, side) → c.chip = s.own →
        s.noc.heldCr.any (sibling c pn side) = false → s.noc.heldCr.any (sibling c pn (!side)) = false →
        (s.noc.heldCr.filter (fun h => h.core == c.dst)).length < 64 →
      ∃ t, Machine.exec (.crChildArrival i) s = .next t ∧ t.noc.heldCr = s.noc.heldCr ++ [⟨c.dst, pn, side, c, false⟩])
    ∧ (∀ r c k obj, s.noc.roots[i]? = some r → c = r.child → c.chip = s.own → c.val ≠ [] → (s.ctx c.part c.ctx).state ≠ .teardown →
        s.holds c.dst = false → (s.part c.part).owns (c.dst / 256) = true → s.slotOf c.dst c.part c.ctx = some k →
        s.zeroing c.dst k = false → r.daddr + c.val.length ≤ s.bound c.dst k →
        s.handleFrom c.chip r.dsync (s.part c.part).chmask = .here obj → s.bit (cfgReg obj) F.SYNC_CFG_EN = true →
        s.fld (cfgReg obj) F.SYNC_CFG_KIND = 0 → s.queue obj = [] →
      ∃ t, Machine.exec (.rootDelivery i) s = .next t ∧ t.scratch.bytes (cellKey c.dst (s.phys c.dst k r.daddr)) c.val.length = c.val)
    ∧ (∀ c k, c < 1024 → k < 4 →
      (∀ req (v : Word), req = 0 ∨ req = 5 → s.regTakes (R.CORE_WIN_CFG (chanOf c) (posOf c) k) = true → (s.slot c k).owner = none → s.zeroing c k = false → isSet v F.CORE_WIN_CFG_EN = true →
          s.bit (R.CORE_WIN_CFG (chanOf c) (posOf c) k) F.CORE_WIN_CFG_EN = false →
          Fits s c k (getF v F.CORE_WIN_CFG_BASE) (getF v F.CORE_WIN_CFG_SIZE) →
        ∃ t, Machine.exec (.windowWrite req c k v) s = .next t ∧ t.rd (R.CORE_WIN_CFG (chanOf c) (posOf c) k) = v &&& 0x80FFFFFF#32)
      ∧ (s.zeroing c k = true → (s.core c).toZero = 0 → (∀ p, s.ownerOf (chanOf c) = some p → (s.part p).resetting = none) →
        ∃ t, Machine.exec (.zeroingEnd c k) s = .next t ∧ t.zeroing c k = false)
      ∧ (∀ w q, (s.core c).eccQ = w :: q → ∃ t, Machine.exec (.eccWriteBack c) s = .next t ∧ (t.core c).eccQ = q))

/-- R318, R319, R436, R437, R445: a channel turns ON, drains and turns OFF; a core fails, and its row has shifted; repair ends. -/
def Sys2Proof.ChannelsComplete : Prop :=
  ∀ (s : State),
    (∀ n, n < 4 →
      (s.chState n = 0 → s.regTakes (R.CP_CTRL n) = true → (∀ k, k < 9 → s.gated (14 + 9 * n + k) = false) →
        ∃ t, Machine.exec (.channelEnable n) s = .next t ∧ t.chState n = 1)
      ∧ (s.chState n = 1 → s.regTakes (R.CP_CTRL n) = true → ∃ t, Machine.exec (.channelDrain n) s = .next t ∧ t.chState n = 2)
      ∧ (s.chState n = 2 → (∀ p, s.ownerOf n = some p → (s.part p).cur = none) →
        ∃ t, Machine.exec (.channelDrainEnd n) s = .next t ∧ t.chState n = 0)
      ∧ (s.chState n = 1 ∨ s.chState n = 2 → s.regTakes (R.CP_CTRL n) = true → ∃ t, Machine.exec (.channelForcedDisable n) s = .next t ∧ t.chState n = 0))
    ∧ (∀ ch row col cause c, ch < 4 → row < 16 → col < 16 → 2 ≤ cause → cause ≤ 5 →
        c = .coreFailure ch row col cause ∨ cause = 4 ∧ c = .nocTimeout ch row col → s.fmask ch row = 0 →
        (∀ m ∈ s.migr, ¬(m.ch = ch ∧ m.row = row)) →
      ∃ t, Machine.exec c s = .next t ∧ t.migr = s.migr ++ [⟨ch, row, col, cause⟩])
    ∧ (∀ i m, s.migr[i]? = some m → m.ch < 4 → m.row < 16 → m.col < 16 → 1 ≤ m.cause → m.cause ≤ 5 →
        s.fmask m.ch m.row = 0 → s.fenceReady m = true → s.ownerOf m.ch = none →
      ∃ t, Machine.exec (.migrationEnd i) s = .next t ∧ t.fmask m.ch m.row = 2 ^ m.col)
    ∧ (∀ req n x p, n < 4 → x < 8 → s.ownerOf n = some p → (s.part p).low = n → s.inRepair p x = true → req = 0 ∨ req = 5 →
        s.regTakes (R.CTX_REPAIR n x) = true →
      (s.bit (R.CTX_REPAIR n x) F.CTX_REPAIR_HELD = false ∨ (s.ctx p x).left = false →
        ∃ t, Machine.exec (.repairGo req n x) s = .next t ∧ t.rd (R.CTX_REPAIR n x) = 0#32)
      ∧ (∀ st q, s.bit (R.CTX_REPAIR n x) F.CTX_REPAIR_HELD = true → (s.ctx p x).queue = st :: q →
        ∃ t, Machine.exec (.repairDrop req n x) s = .next t ∧ (t.ctx p x).queue = q))

/-- R271-R276, R281, R288, R289: the three fields of a doorbell act; a queue pair turns ON, drains, turns OFF and fails; a descriptor is fetched, dispatched,
completed. -/
def Sys2Proof.QueuesComplete : Prop :=
  ∀ (s : State) (f q : Nat), f < 5 → q < 64 → s.fnUp f = true →
    (∀ x (v : DWord), s.qpState f q = 1 →
      (v.toNat = 2 ^ 16 + x → x < s.sqSize f q → x < 2 ^ 16 →
          ((s.qp f q).sqTail + s.sqSize f q - s.fld (R.HI_QP_SQ_HEAD f q) F.HI_QP_SQ_HEAD_HEAD % s.sqSize f q) % s.sqSize f q
            ≤ (x + s.sqSize f q - s.fld (R.HI_QP_SQ_HEAD f q) F.HI_QP_SQ_HEAD_HEAD % s.sqSize f q) % s.sqSize f q →
        ∃ t, Machine.exec (.doorbellSqTail f (0x40 * q) 8 v) s = .next t ∧ (t.qp f q).sqTail = x)
      ∧ (v.toNat = 2 ^ 48 + x * 2 ^ 32 → x < s.cqSize f q → x < 2 ^ 16 →
          (x + s.cqSize f q - (s.qp f q).cqHead % s.cqSize f q) % s.cqSize f q ≤ (s.qp f q).unread →
        ∃ t, Machine.exec (.doorbellCqHead f (0x40 * q) 8 v) s = .next t ∧ (t.qp f q).cqHead = x)
      ∧ (v.toNat = 2 ^ 49 → (s.qp f q).unread = 0 →
        ∃ t, Machine.exec (.doorbellArm f (0x40 * q) 8 v) s = .next t ∧ (t.qp f q).armed = true))
    ∧ (∀ v : Word, s.qpState f q = 0 → 4 ≤ getF v F.HI_QP_CFG_SQLOG2 → getF v F.HI_QP_CFG_SQLOG2 ≤ 16 → 4 ≤ getF v F.HI_QP_CFG_CQLOG2 →
        getF v F.HI_QP_CFG_CQLOG2 ≤ 16 →
      ∃ t, Machine.exec (.qpEnable f q v) s = .next t ∧ t.qpState f q = 1)
    ∧ (s.qpState f q = 1 →
      (∃ t, Machine.exec (.qpDrain f q) s = .next t ∧ t.qpState f q = 2)
      ∧ (∃ t, Machine.exec (.qpForcedDisable f q) s = .next t ∧ t.qpState f q = 0)
      ∧ (∃ t, Machine.exec (.qpError f q false) s = .next t ∧ t.qpState f q = 3))
    ∧ (s.qpState f q = 2 → s.fld (R.HI_QP_STAT f q) F.HI_QP_STAT_INFLIGHT = 0 →
      ∃ t, Machine.exec (.qpDrainEnd f q) s = .next t ∧ t.qpState f q = 0)
    ∧ (∀ h a, s.qpState f q = 1 → s.fld (R.HI_QP_SQ_HEAD f q) F.HI_QP_SQ_HEAD_HEAD = h → h ≠ (s.qp f q).sqTail →
        (s.qp f q).unread + s.fld (R.HI_QP_STAT f q) F.HI_QP_STAT_INFLIGHT < s.cqSize f q →
        a = s.pair (R.HI_QP_SQ_BASE_LO f q) (R.HI_QP_SQ_BASE_HI f q) + 64 * h → s.hostBad a 64 = false →
      ∃ t d, Machine.exec (.descriptorFetch f q) s = .next t ∧ t.host.descs = s.host.descs ++ [d] ∧ d.raw = s.host.mem.bytes a 64)
    ∧ (∀ d, (s.host.descs.filter (fun d => d.fn == f && d.qp == q)).find? (fun d => d.st == .fetched) = some d → d.fence = false →
        s.checkDesc d = 0 → s.slotChan d = 4 ∨ s.cmds (s.slotChan d) < 4096 → (s.ctx d.part d.ctx).state ≠ .teardown →
      ∃ t, Machine.exec (.descriptorDispatch f q) s = .next t ∧ t.host.dispatched = s.host.dispatched + 1)
    ∧ (∀ id d a, s.host.descs.find? (fun d => d.id == id && d.st == .done) = some d → d.fn = f → d.qp = q →
        s.host.descs.find? (fun d => d.id == id) = some d → d.raw.length = 64 → (s.qp f q).broken = false →
        a = s.pair (R.HI_QP_CQ_BASE_LO f q) (R.HI_QP_CQ_BASE_HI f q) + s.fld (R.HI_QP_CQ_TAIL f q) F.HI_QP_CQ_TAIL_TAIL * 32 →
        s.hostBad a 32 = false →
      ∃ t, Machine.exec (.descriptorCompletion id) s = .next t ∧ t.host.descs = s.host.descs.filter (fun e => e.id != id)
        ∧ (t.host.mem.bytes a 32).take 2 = leBytes 2 d.idx)

/-- R208, R278, R279, R298, R307, R315: each kind of descriptor that can act does: NOP, LOAD_PROGRAM of a package and of a configuration, LOAD_TENSOR, STORE_TENSOR,
RUN_STEP, SYNC_SIGNAL, SYNC_WAIT and its time limit, PAGE_ALLOC, PAGE_FREE, PAGE_TABLE_WRITE, SPILL, RESTORE, DIGEST_READ, ATTEST, FROG and INGEST_CTL. -/
def Sys2Proof.DescriptorsComplete : Prop :=
  ∀ (s : State) (id : Nat) (d : Desc),
    (s.ready id 0 = some d → ∃ t, Machine.exec (.nop id) s = .next t ∧ t.host.descs = finished s.host.descs id 0 [])
    ∧ (∀ c k a n, c = d.at_ 20 2 → a = d.at_ 24 4 → n = d.at_ 16 4 → a < 2 ^ 22 → s.holds c = false → (s.part d.part).owns (c / 256) = true →
        s.slotOf c d.part d.ctx = some k → s.zeroing c k = false → a + n ≤ s.bound c k → s.hostBad (d.at_ 8 8) n = false →
        s.ue = [] → s.ce = [] →
      (s.ready id 2 = some d → bitOf (d.at_ 1 1) 1 = false →
        ∃ t, Machine.exec (.loadTensor id) s = .next t ∧ t.host.descs = finished s.host.descs id 0 []
          ∧ t.scratch.bytes (cellKey c (s.phys c k a)) n = s.host.mem.bytes (d.at_ 8 8) n)
      ∧ (s.ready id 3 = some d →
        ∃ t, Machine.exec (.storeTensor id) s = .next t ∧ t.host.descs = finished s.host.descs id 0 []
          ∧ t.host.mem.bytes (d.at_ 8 8) n = s.scratch.bytes (cellKey c (s.phys c k a)) n))
    ∧ (∀ g, s.ready id 12 = some d → d.at_ 18 1 = 1 → (s.ctx d.part d.ctx).lastDigest = g → g ≠ [] → s.hostBad (d.at_ 8 8) g.length = false →
        s.ue = [] → s.ce = [] →
      ∃ t, Machine.exec (.digestRead id) s = .next t ∧ t.host.mem.bytes (d.at_ 8 8) g.length = g)
    ∧ (∀ obj, obj = d.at_ 8 4 % 2 ^ 16 → s.bit (cfgReg obj) F.SYNC_CFG_EN = true → s.fld (cfgReg obj) F.SYNC_CFG_KIND = 0 → s.queue obj = [] →
      (s.ready id 5 = some d → NoDonation s →
        ∃ t, Machine.exec (.syncSignal id) s = .next t
          ∧ (t.rd (valReg obj)).toNat = min ((s.rd (valReg obj)).toNat + d.at_ 12 4) (2 ^ 32 - 1))
      ∧ (s.ready id 6 = some d → d.at_ 12 1 = 0 → s.bit (sstatReg obj) F.SYNC_STAT_ABANDONED = false →
          d.at_ 16 4 ≤ (s.rd (valReg obj)).toNat →
        ∃ t, Machine.exec (.syncWait id) s = .next t ∧ (t.rd (valReg obj)).toNat + d.at_ 16 4 = (s.rd (valReg obj)).toNat))
    ∧ (∀ w obj, obj = d.at_ 8 4 % 2 ^ 16 → s.host.descs.find? (fun d => d.id == id && d.st == .dispatched && d.opcode == 6) = some d →
        d.at_ 20 4 ≠ 0 → s.queue obj = [w] → w.who = .desc id → s.fld (cfgReg obj) F.SYNC_CFG_KIND ≠ 1 →
      ∃ t, Machine.exec (.syncWaitTimeout id) s = .next t ∧ t.host.descs = finished s.host.descs id 0x12 [] ∧ t.queue obj = [])
    ∧ (∀ bs, s.ready id 4 = some d → s.chansOn d.part = true → s.hostBad (d.at_ 8 8) (32 * d.at_ 16 2) = false →
        bs = chunksOf 32 (d.at_ 16 2) (s.host.mem.bytes (d.at_ 8 8) (32 * d.at_ 16 2)) → bs.any sliceBad = false →
        (bs.map sliceSeq).eraseDups.length = d.at_ 16 2 → bs.any (sliceBeyond (s.sliceLen d.part)) = false →
        (∀ r ∈ (s.ctx d.part d.ctx).cores, d.at_ 20 4 + (32 + 32 * d.at_ 16 2) ≤ s.bound r.core r.slot) →
      ∃ t, Machine.exec (.runStep id) s = .next t
        ∧ (t.ctx d.part d.ctx).queue = (s.ctx d.part d.ctx).queue ++ [⟨d.at_ 20 4, bs, id, d.order⟩])
    ∧ (s.ready id 14 = some d → (s.ctx d.part d.ctx).state ≠ .teardown → (s.ctx d.part d.ctx).state ≠ .none →
      ∃ t, Machine.exec (.frog id) s = .next t ∧ (t.ctx d.part d.ctx).state = .teardown)
    ∧ ((s.part d.part).chmask < 16 → ∀ offs : List Nat, (∀ o ∈ offs, o + 4 ≤ s.sliceLen d.part) →
      (∀ gs : List PoolGroup, s.ready id 7 = some d → offs = namedEntries d 8 → (∀ o ∈ offs, bitOf (s.sliceU32 d.part o) 31 = false) →
          gs = ((s.part d.part).pool.filter (fun g => g.st == .free)).take offs.length → gs.length = offs.length →
        ∃ t, Machine.exec (.pageAlloc id) s = .next t ∧ t.host.descs = finished s.host.descs id 0 (leBytes 4 offs.length))
      ∧ (s.ready id 8 = some d → offs = namedEntries d 8 → (∀ o ∈ offs, bitOf (s.sliceU32 d.part o) 31 = true
            ∧ ∃ g c, s.groupOf d.part (s.sliceU32 d.part o) = some g ∧ g.st = .alloc c ∧ g.gen = s.sliceU32 d.part o % 256) →
          (∀ q ∈ (s.ctx d.part d.ctx).queue, d.order ≤ q.order) →
        ∃ t, Machine.exec (.pageFree id) s = .next t ∧ (∀ o ∈ offs, bitOf (t.sliceU32 d.part o) 31 = false))
      ∧ (s.ready id 9 = some d → offs = namedEntries d 16 → s.hostBad (d.at_ 8 8) (4 * offs.length) = false →
        ∃ t, Machine.exec (.pageTableWrite id) s = .next t ∧ t.host.descs = finished s.host.descs id 0 []))
    ∧ (∀ root leaf, s.ready id 13 = some d → d.raw.length = 64 → s.bit R.SEC_STAT F.SEC_STAT_STORE_OK = true →
        s.bit R.SEC_STAT F.SEC_STAT_EXHAUST = false → s.sec.root = some root → leaf = s.pair R.SEC_LEAF_LO R.SEC_LEAF_HI →
        leaf < 2 ^ 40 - 1 → leaf ≠ s.pair R.SEC_HWM_LO R.SEC_HWM_HI → 13285 ≤ d.at_ 16 4 → s.hostBad (d.at_ 8 8) 13285 = false →
      ∃ t, Machine.exec (.attest id) s = .next t ∧ t.host.descs = finished s.host.descs id 0 (leBytes 4 13285)
        ∧ t.pair R.SEC_LEAF_LO R.SEC_LEAF_HI = leaf + 1)
    ∧ (∀ n hdim nch es rs, s.ue = [] → s.ce = [] → d.part < 4 → d.ctx < 8 → NamedEntries s d es → PagesOf s d es hdim n rs →
        nch = (rs.length * n + 4095) / 4096 →
      (s.ready id 10 = some d → (s.ctx d.part d.ctx).spn + 1 < 2 ^ 32 → es ≠ [] →
          (∀ e ∈ es, ∃ g, s.groupOf d.part e = some g ∧ g.hdim = hdim) → 128 + 4112 * nch ≤ d.at_ 16 4 →
          s.hostBad (d.at_ 8 8) (128 + 4112 * nch) = false →
        ∃ t, Machine.exec (.spill id) s = .next t ∧ t.host.descs = finished s.host.descs id 0 (leBytes 4 (128 + 4112 * nch))
          ∧ (t.ctx d.part d.ctx).spn = (s.ctx d.part d.ctx).spn + 1)
      ∧ (∀ m (plain : List Byte), s.ready id 11 = some d → s.hostBad (d.at_ 8 8) (d.at_ 16 4) = false → hdim < 2 ^ 16 →
          plain.length = rs.length * n → nch < 2 ^ 32 → 128 + 4112 * nch = d.at_ 16 4 → m < 2 ^ 32 → (s.ctx d.part d.ctx).mode < 2 ^ 32 →
          (d.at_ 20 4, d.at_ 24 4, (d.entries 20).length, m) ∈ (s.ctx d.part d.ctx).ledger →
          s.host.mem.bytes (d.at_ 8 8) (d.at_ 16 4) = spillImage (keyBytes (s.ctx d.part d.ctx).keyAt)
            (spillHead d.part d.ctx m (d.at_ 20 4) (d.at_ 24 4) (d.entries 20).length hdim (s.ctx d.part d.ctx).mode nch) m nch plain →
        ∃ t, Machine.exec (.restore id) s = .next t ∧ t.host.descs = finished s.host.descs id 0 (leBytes 4 (128 + 4112 * nch))))
    ∧ (∀ e b, s.host.descs.find? (fun d => d.id == id && d.opcode == 1 && (d.st == .checked || d.st == .dispatched)) = some d →
        d.st = .checked → d.part < 4 → d.ctx < 8 → b = (e.drop 256).take (leNat ((e.drop 8).take 4)) →
        s.hostBad (d.at_ 8 8) (d.at_ 16 4) = false → e = s.host.mem.bytes (d.at_ 8 8) (d.at_ 16 4) →
      (s.verifies e 0 = true → d.at_ 20 1 = 0 → (∀ r ∈ pkgSections b, s.holds r.core = false) → (s.ctx d.part d.ctx).state = .idle →
          pkgOk b (s.ctx d.part d.ctx).mode = true → (∀ r ∈ pkgSections b, r.ok = true ∧ s.sectionStatus d.part d.ctx r = 0) →
          s.ue = [] → s.ce = [] →
        ∃ t, Machine.exec (.loadProgram id) s = .next t ∧ (t.ctx d.part d.ctx).progDig = b.take 32 ∧ (t.ctx d.part d.ctx).loads = 0
          ∧ (∀ f ∈ t.host.descs, f.id = id → f.st = .done ∧ f.status = 0))
      ∧ (s.verifies e 1 = true → d.at_ 20 1 = 1 → cfgOk s.tableMem s.own b = true → s.cfgFits d.part b = true →
          (s.part d.part).resetting = none → (s.part d.part).configured = false →
          (∀ c ∈ cfgChanCores b, s.fld (R.CORE_STAT (chanOf c) (posOf c)) F.CORE_STAT_ZEROING = 0
            ∧ ∀ k, k < 4 → s.bit (R.CORE_WIN_CFG (chanOf c) (posOf c) k) F.CORE_WIN_CFG_EN = false) →
        ∃ t, Machine.exec (.loadProgram id) s = .next t ∧ (t.part d.part).configured = true
          ∧ (∀ f ∈ t.host.descs, f.id = id → f.st = .done ∧ f.status = 0)))
    ∧ (∀ t, t < 64 → s.ready id 15 = some d → d.at_ 8 1 = t → (d.fn = 0 ∨ s.strmPart t = d.fn - 1) →
      (d.at_ 9 1 = 0 → s.strmState t = 3 → ∃ u, Machine.exec (.ingestCtlResume id) s = .next u ∧ u.strmState t = 1)
      ∧ (d.at_ 9 1 = 1 → s.strmState t = 3 → ∃ u, Machine.exec (.ingestCtlReset id) s = .next u ∧ u.strmState t = 1)
      ∧ (d.at_ 9 1 = 2 → ∃ u, Machine.exec (.ingestCtlStatus id) s = .next u
        ∧ u.host.descs = finished s.host.descs id 0 (leBytes 4 (s.rd (R.STRM_STAT t)).toNat)))

/-- 3 claims together: ChannelsComplete, QueuesComplete, DescriptorsComplete. -/
def Obligations.HostAndChannelsComplete : Prop := Sys2Proof.ChannelsComplete ∧ Sys2Proof.QueuesComplete ∧ Sys2Proof.DescriptorsComplete

/-- R254-R256, R260, R261: links train, go UP, drain, turn OFF and fail; flits and their records are taken; room is asked for and granted. -/
def Sys2Proof.LinksComplete : Prop :=
  ∀ (s : State) (l : Nat), l < 16 →
    (∀ req, req = 0 ∨ req = 5 →
      s.regTakes (R.KL_CTRL l) = true →
      (s.linkState l = 0 → ∃ t, Machine.exec (.linkEnable req l) s = .next t ∧ t.linkState l = 1)
      ∧ (s.linkState l = 2 → ∃ t, Machine.exec (.linkDrain req l) s = .next t ∧ t.linkState l = 3)
      ∧ (s.linkState l = 2 ∨ s.linkState l = 3 → ∃ t, Machine.exec (.linkForcedDisable req l) s = .next t ∧ t.linkState l = 0))
    ∧ (s.linkState l = 3 → (s.link l).txq = [] → (s.link l).unacked = [] →
      ∃ t, Machine.exec (.linkDrainEnd l) s = .next t ∧ t.linkState l = 0)
    ∧ (∀ clu chip link pools, s.linkState l = 1 → s.bit (R.KL_CTRL l) F.KL_CTRL_LPBK = false → s.facing l = (clu, chip, link) → clu < 32 →
        chip < 16 → link < 16 → ∃ t, Machine.exec (.trainingEnd l clu chip link pools) s = .next t ∧ t.linkState l = 2)
    ∧ (s.bit (R.KL_CTRL l) F.KL_CTRL_EN = true → s.linkState l = 1 ∨ s.linkState l = 4 →
      ∃ t, Machine.exec (.trainingRetry l) s = .next t ∧ t.linkState l = 1)
    ∧ (s.linkState l = 2 ∨ s.linkState l = 3 →
      (∃ t, Machine.exec (.peerLinkLoss l) s = .next t ∧ t.linkState l = 4)
      ∧ (1 ≤ (s.link l).resends → s.fld (R.KL_CTRL l) F.KL_CTRL_RETRY_MAX ≤ (s.link l).resends →
        ∃ t, Machine.exec (.linkDown l) s = .next t ∧ t.linkState l = 4))
    ∧ (∃ t, Machine.exec .routeEvaluation s = .next t ∧ (∀ k, k < 16 → (bitOf t.noc.linksUsed k = true ↔ s.linkState k = 2)))
    ∧ (∀ corr fl pool seq pl, Taken s l fl 0 pool seq → pool < 4 → pl = (fl.drop 8).take 244 → seq = nextSeq s l →
        FMap.get none (s.link l).asm pool = none → wireLen pl ≤ 244 → (wireMsg pl).dst = s.own →
      ∃ t, Machine.exec (.dataFlit l corr false fl none) s = .next t ∧ t.noc.msgs = s.noc.msgs ++ [wireMsg pl])
    ∧ (∀ corr fl seq id code sync, Taken s l fl 1 4 seq → seq = nextSeq s l →
      ∃ t, Machine.exec (.ctrlFlit l corr false fl [.report s.own id code sync]) s = .next t
        ∧ t.noc.reports = s.noc.reports ++ [⟨id, code, sync⟩])
    ∧ (∀ corr fl h before f after, s.receives l = true → Intact fl → h = leNat (fl.take 8) → bitsOf h 37 35 = 3 → bitOf h 39 = true →
        bitOf h 38 = false → (s.link l).txq = [] → (s.link l).unacked = before ++ f :: after → (∀ g ∈ before, g.seq ≠ f.seq) →
        bitsOf h 51 40 = f.seq →
      ∃ t, Machine.exec (.idleFlit l corr false fl) s = .next t ∧ (t.link l).unacked = after)
    ∧ (∀ a, s.receives l = true → (s.link l).unacked ≠ [] → (∀ f ∈ (s.link l).unacked, f.seq ≠ a) →
      ∃ t, Machine.exec (.nak l a) s = .next t ∧ (t.link l).resends = (s.link l).resends + 1
        ∧ (t.link l).sent.length = (s.link l).sent.length + (s.link l).unacked.length)
    ∧ (∀ i r p k, s.noc.reqs[i]? = some r → (∀ q ∈ s.noc.reqs.take i, q.job ≠ r.job) → s.partOfJob r.job = some p →
        (s.noc.landed.filter (fun e => e.job == r.job)).foldl (fun t e => t + e.bytes) 0 + r.bytes ≤ (s.part p).landKb * 1024 →
        (s.noc.landed.filter (fun e => e.job == r.job)).length < (s.part p).landMsg → s.firstHop r.src none 0 = some k →
      ∃ t, Machine.exec (.creditRequest i) s = .next t ∧ t.noc.landed = s.noc.landed ++ [r])
    ∧ (∀ i id src e k, s.noc.grantsIn[i]? = some (id, src) → s.noc.e2e.find? (fun e => e.msg.id == id) = some e →
        s.firstHop e.msg.dst (some e.msg.job) 0 = some k →
      ∃ t, Machine.exec (.creditGrant i) s = .next t ∧ t.noc.e2e = s.noc.e2e.filter (fun x => x.msg.id != id))

/-- R325-R349: packets build frames, frames are admitted; streams turn ON, drain and turn OFF; samples and swatches run and end. -/
def Sys2Proof.StreamsComplete : Prop :=
  ∀ (s : State) (t : Nat), t < 64 →
    (∀ port fr d p lines, ArrivesFor s port fr t (.udp d p) → s.lineBad t p = 0 → bitOf (lfld p 1 1) 5 = false →
        lines = (p.drop 32).take (p.length - 36) → (s.strm t).asm = none → bitOf (lfld p 1 1) 7 = true → bitOf (lfld p 1 1) 6 = true →
        lfld p 8 2 = 0 → lfld p 10 2 = s.strmH t → s.frameRoom 0 lines.length = true → s.strmState t ≠ 3 →
      ∃ u f, Machine.exec (.linePacket port fr) s = .next u ∧ (u.strm t).wait = (s.strm t).wait ++ [f] ∧ f.reason = 0 ∧ f.data = lines)
    ∧ (∀ port fr p body hdr bytes, ArrivesFor s port fr t (.avtp p) → (s.strm t).asm = none → (s.strm t).lastSeq = none → 24 ≤ p.length →
        lfld p 0 1 = 3 → bitsOf (lfld p 1 1) 6 4 = 0 → bitOf (lfld p 1 1) 0 = true → lfld p 16 1 = 2 → lfld p 17 1 = 0 →
        bitOf (lfld p 22 1) 4 = false → body = (p.drop 24).take (lfld p 20 2) → rfcFragment body = some (hdr, 0, [], bytes) →
        nth 0 hdr 1 < 128 → s.frameRoom 0 body.length = true →
      ∃ u f, Machine.exec (.avtpPacket port fr) s = .next u ∧ (u.strm t).asm = some f ∧ f.data = bytes)
    ∧ (∀ f, (s.strm t).asm = some f → f.reason = 0 → s.period t ≠ 0 → s.strmState t = 1 → f.lastAt + 800 * s.period t ≤ s.now →
      ∃ u g, Machine.exec (.frameTimeout t) s = .next u ∧ (u.strm t).wait = (s.strm t).wait ++ [g] ∧ g.reason = 3)
    ∧ (∀ f rest, (s.strm t).wait = f :: rest → s.strmState t = 1 → (s.strm t).entries.length < 16 →
        s.ing.streams.foldl (fun n p => n + p.2.entries.length) 0 < 256 → f.reason = 0 → s.frameSteps t f = 0 →
      ∃ u e, Machine.exec (.frameAdmission t) s = .next u ∧ (u.strm t).entries = (s.strm t).entries ++ [e] ∧ (u.strm t).wait = rest)
    ∧ (∀ req, s.mayIngest req = true → s.gated 3 = false →
      (∀ (v w : Word) (pl : List Byte), s.strmState t = 0 →
          w = BitVec.ofNat 32 ((setF v F.STRM_CTRL_EN 1).toNat / 2 ^ 19 * 2 ^ 19 + getF v F.STRM_CTRL_PIXFMT * 256) →
          Enableable (s.wr (R.STRM_CTRL t) w) t pl →
        ∃ u, Machine.exec (.streamEnable req t v) s = .next u ∧ u.strmState t = 1 ∧ (u.strm t).plan = pl)
      ∧ (s.strmState t = 1 → (s.strm t).entries ≠ [] → ∃ u, Machine.exec (.streamDrain req t) s = .next u ∧ u.strmState t = 2)
      ∧ (s.strmState t ≠ 0 → ∃ u, Machine.exec (.streamForcedDisable req t) s = .next u ∧ u.strmState t = 0)
      ∧ (∀ (v : Word) a, a = s.fld R.ING_SWADDR F.ING_SWADDR_ADDR →
        ∃ u, Machine.exec (.swdataAccess req (some v)) s = .next u ∧ u.ing.swMem.u32 (4 * a) = v.toNat))
    ∧ (∀ id d, s.ready id 15 = some d → d.at_ 8 1 = t → (d.fn = 0 ∨ s.strmPart t = d.fn - 1) →
      (d.at_ 9 1 = 0 → s.strmState t = 3 → ∃ u, Machine.exec (.ingestCtlResume id) s = .next u ∧ u.strmState t = 1)
      ∧ (d.at_ 9 1 = 1 → s.strmState t = 3 → ∃ u, Machine.exec (.ingestCtlReset id) s = .next u ∧ u.strmState t = 1)
      ∧ (d.at_ 9 1 = 2 → ∃ u, Machine.exec (.ingestCtlStatus id) s = .next u
        ∧ u.host.descs = finished s.host.descs id 0 (leBytes 4 (s.rd (R.STRM_STAT t)).toNat)))
    ∧ (∀ t0 i, (s.strm t).turn = some t0 → (s.strm t).swatch = none → unitFree s.unitsBusy (s.strmVideo t) i = true →
        s.now + s.expected t ≤ t0 + s.fld (R.STRM_TIME t) F.STRM_TIME_VBLANK_US * 400 →
      ∃ u, Machine.exec (.swatchTurn t i) s = .next u ∧ (u.strm t).swatch = some i)
    ∧ (∀ i, (s.strm t).swatch = some i → ∃ u, Machine.exec (.swatchEnd t false) s = .next u ∧ (u.strm t).swatch = none)
    ∧ (∀ e i, (s.strm t).entries.find? (fun e => e.stage == .queued) = some e → unitFree s.unitsBusy (s.strmVideo t) i = true →
        s.nextToStart t e = true → (s.strm t).entries.Pairwise (fun a b => a.id ≠ b.id) → planFree (s.strm t).plan = false →
      ∃ u, Machine.exec (.sampleStart t i) s = .next u ∧ (∀ g ∈ (u.strm t).entries, g.id = e.id → g.stage = .running ∧ g.unit = some i))
    ∧ (∀ id e, (s.strm t).entries.find? (fun e => e.id == id && e.stage == .running) = some e →
      (∀ m, s.inputImage t e.frame.data = .ok m → (∀ n, n < planNtgt (s.strm t).plan → tgtOn (s.strm t).plan n = false) →
        ∃ u, Machine.exec (.sampleEnd t id) s = .next u ∧ (∀ g ∈ (u.strm t).entries, g.id = id → g.stage = .done
          ∧ g.digest = tensorDigest (planW (s.strm t).plan 1) ((preprocess (s.strm t).plan m).bytes (planE (s.strm t).plan))))
      ∧ (s.strmState t = 1 → e.startAt + s.budget t ≤ s.now →
        ∃ u, Machine.exec (.overtime t id) s = .next u ∧ u.strmState t = 3
          ∧ (∀ g ∈ (u.strm t).entries, g.id = id → g.stage = .done ∧ g.reason = 7)))
    ∧ (∀ e rest c k a obj, (s.strm t).entries = e :: rest → e.stage = .done → e.held = false → s.ue = [] → s.ce = [] → NoDonation s →
        (s.strm t).owed = [] → s.holds (planW (s.strm t).plan 16 % 1024) = false →
        c = planW (s.strm t).plan 16 % 1024 → (s.part (s.strmPart t)).owns (c / 256) = true →
        s.slotOf c (s.strmPart t) (s.strmCtx t) = some k → s.zeroing c k = false →
        a = planW (s.strm t).plan 17 % 2 ^ 22 + 64 * (e.id % 2 ^ 26 % 2 ^ (planW (s.strm t).plan 18 % 16)) → a < 2 ^ 22 → a + 64 ≤ s.bound c k →
        s.handleTo (planW (s.strm t).plan 19) (s.part (s.strmPart t)).chmask = .here obj → s.bit (cfgReg obj) F.SYNC_CFG_EN = true →
        s.fld (cfgReg obj) F.SYNC_CFG_KIND = 0 → s.queue obj = [] → e.digest.length = 32 →
      ∃ u, Machine.exec (.sampleDelivery t) s = .next u ∧ (u.strm t).entries = rest
        ∧ (u.scratch.bytes (cellKey c (s.phys c k a)) 8).take 4 = leBytes 4 e.id)

/-- R361-R363, R371, R372, R377-R379: groups are enabled, checked, drained and disabled; loops start and commit; mailboxes take messages and go stale; frames of a port
are taken; the trace arms, fires, stops and is recorded. -/
def Sys2Proof.LoopsComplete : Prop :=
  ∀ (s : State), s.pwr.isl = false →
    (∀ g, g < 64 →
      (∀ req, Island s req →
        (∀ v u, s.grp g = 0 →
            u = ((s.setFld (R.GRP_CFG g) F.GRP_CFG_NM1 (getF v F.GRP_CFG_NM1)).setFld (R.GRP_CFG g) F.GRP_CFG_PHASE (getF v F.GRP_CFG_PHASE)).setFld
              (R.GRP_CFG g) F.GRP_CFG_FORCE (getF v F.GRP_CFG_FORCE) → u.groupOk g = true →
          ∃ t, Machine.exec (.groupEnable req g v) s = .next t ∧ t.grp g = 3)
        ∧ (s.grp g = 1 → ∃ t, Machine.exec (.groupDrain req g) s = .next t ∧ t.grp g = 2)
        ∧ (s.grp g ≠ 0 → ∃ t, Machine.exec (.groupForcedDisable req g) s = .next t ∧ t.grp g = 0))
      ∧ (s.grp g = 3 → s.schedulable = true → ∃ t, Machine.exec (.groupCheckEnd g) s = .next t ∧ t.grp g = 1))
    ∧ (∀ l, l < 16 →
      (∀ r, FMap.get none s.eng.lanes l = none → r ∈ s.eng.ready → s.loopLane r.loop = l → r.since < s.now →
          (∀ q ∈ s.eng.ready, s.loopLane q.loop = l → q.since < s.now → q ≠ r →
            r.deadline < q.deadline ∨ r.deadline = q.deadline ∧ (r.group < q.group ∨ r.group = q.group ∧ r.loop < q.loop)) →
        ∃ t x, Machine.exec (.loopStart l) s = .next t ∧ FMap.get none t.eng.lanes l = some x ∧ x.loop = r.loop)
      ∧ (∀ r, FMap.get none s.eng.lanes l = some r → r.ends ≤ s.now → r.loop < 1024 →
        ∃ t, Machine.exec (.loopCommit l false) s = .next t ∧ FMap.get none t.eng.lanes l = none
          ∧ (∀ x, x < 32 → t.sigOf r.loop x = BitVec.ofInt 32 (nth 0 r.sig x))))
    ∧ (∀ i q m n, s.noc.msgs[i]? = some q → msgBehind s.own s.noc.msgs i q = false → q.total ≤ q.data.length →
        bitsOf q.w0.toNat 31 28 = 2 → q.src = s.own → m = bitsOf q.w0.toNat 7 0 → n = s.fld (R.MB_CFG m) F.MB_CFG_NVAL →
        s.partOfJob q.job ≠ none → s.bit (R.MB_CFG m) F.MB_CFG_EN = true → q.job = s.fld (R.MB_CFG m) F.MB_CFG_JOB →
        q.data.length = 4 + 4 * n →
      ∃ t, Machine.exec (.mailboxMessage i) s = .next t ∧ (t.rd (R.MB_DEADLINE m)).toNat = leNat (q.data.take 4)
        ∧ t.noc.reports = s.noc.reports ++ [⟨q.id, 0, false⟩])
    ∧ (∀ m, m < 256 → s.eng.tickAt = some s.now → s.bit (R.MB_CFG m) F.MB_CFG_EN = true → s.bit (R.MB_STAT m) F.MB_STAT_STALE = false →
        s.tb3Past (s.rd (R.MB_DEADLINE m)).toNat = true →
      ∃ t, Machine.exec (.mailboxStale m) s = .next t ∧ t.bit (R.MB_STAT m) F.MB_STAT_STALE = true)
    ∧ (∀ port (fr : List Byte) ty e v, port < 2 → 18 ≤ fr.length → crc32 (fr.take (fr.length - 4)) = leNat (fr.drop (fr.length - 4)) →
        s.frameType port (etherBody (fr.take (fr.length - 4))).1 (etherBody (fr.take (fr.length - 4))).2 = some ty →
        e ∈ s.fieldEntries → bitsOf (s.fieldW e 0) 30 23 = ty → s.fieldIn e (etherBody (fr.take (fr.length - 4))).2 = some v →
      ∃ t, Machine.exec (.controlFrame port fr) s = .next t ∧ (FMap.get ⟨0#32, 0#32, 0⟩ t.eng.fields e).new = v)
    ∧ (∀ req, Island s req →
      (∀ v, ∃ t, Machine.exec (.traceArm req v) s = .next t ∧ t.fld R.TR_CTRL F.TR_CTRL_STATE = 1)
      ∧ (s.bit R.TR_CTRL F.TR_CTRL_EN = true → s.fld R.TR_CTRL F.TR_CTRL_STATE = 1 →
        ∃ t, Machine.exec (.fire req) s = .next t ∧ t.eng.fired = true))
    ∧ (s.fld R.TR_CTRL F.TR_CTRL_STATE = 2 →
        (∀ c, c < 64 → s.bit (R.TRC_CFG c) F.TRC_CFG_EN = true → s.fld R.TR_CTRL F.TR_CTRL_POST ≤ FMap.get 0 s.eng.after c) →
      ∃ t, Machine.exec .traceStop s = .next t ∧ t.fld R.TR_CTRL F.TR_CTRL_STATE = 3)
    ∧ (∀ run rest, s.eng.runs = run :: rest → ∃ t, Machine.exec (.recorderBlock true) s = .next t ∧ t.eng.runs = rest)

/-- R388, R389, R394-R404, R426-R429: gate entries and lists change, preemption is verified; bases start, step, switch, hold over and are captured, PPS_OUT rises and
falls, link time is asked for and answered; self-tests start and end. -/
def Sys2Proof.TimeComplete : Prop :=
  ∀ (s : State), s.pwr.isl = false →
    (∀ p, p < 2 →
      (1 ≤ (s.port p).len → s.tb3Past ((s.port p).start + s.gclEnd p (s.port p).entry) = true →
          s.gclEnd p (s.port p).entry < (s.port p).cycle →
        ∃ t, Machine.exec (.gateInterval p) s = .next t ∧ (t.port p).entry = (s.port p).entry + 1)
      ∧ (∀ req, Island s req → s.bit (R.CP_GSTAT p) F.CP_GSTAT_PENDING = false → 1 ≤ s.fld (R.CP_GCTRL p) F.CP_GCTRL_LEN →
          s.fld (R.CP_GCTRL p) F.CP_GCTRL_LEN ≤ 256 → 1000 ≤ (s.rd (R.CP_CYCLE p)).toNat → (s.rd (R.CP_CYCLE p)).toNat ≤ 10 ^ 9 →
        ∃ t, Machine.exec (.swap req p) s = .next t ∧ t.bit (R.CP_GSTAT p) F.CP_GSTAT_PENDING = true)
      ∧ (s.bit (R.CP_GSTAT p) F.CP_GSTAT_PENDING = true → s.bit (R.CP_GCTRL p) F.CP_GCTRL_EN = false →
          s.tb3Past (s.rd (R.CP_BASE p)).toNat = true →
        ∃ t, Machine.exec (.swapApply p) s = .next t ∧ t.bit (R.CP_GSTAT p) F.CP_GSTAT_PENDING = false
          ∧ (t.port p).len = s.fld (R.CP_GCTRL p) F.CP_GCTRL_LEN)
      ∧ (s.bit (R.CP_PREEMPT p) F.CP_PREEMPT_VERIFY = true →
        ∃ t, Machine.exec (.preemptVerify p) s = .next t ∧ t.bit (R.CP_GSTAT p) F.CP_GSTAT_PREEMPT_OK = true))
    ∧ (∀ req n (v : Word), Island s req → n < 2 →
      (s.bit (R.TB_CTRL n) F.TB_CTRL_EN = false → ∃ t, Machine.exec (.tbEnable req n v) s = .next t ∧ t.tbState n = 1)
      ∧ (∃ t, Machine.exec (.tbStep req n v) s = .next t ∧ t.rd (R.TB_NS n) = s.rd (R.TB_NS n) + v)
      ∧ (s.follow ≠ n → ∃ t, Machine.exec (.sel req n) s = .next t ∧ t.follow = n))
    ∧ (∀ n, n < 2 → s.masterOk n = true → (s.tb n).lastAt + max (s.fld (R.TB_SERVO n) F.TB_SERVO_LOSSCNT) 1 * s.tbInterval n ≤ s.now →
      ∃ t, Machine.exec (.holdover n) s = .next t ∧ t.tbState n = 4)
    ∧ (∀ n l, n < 2 → s.bit (R.TB_CTRL n) F.TB_CTRL_EN = true → s.bit (R.TB_CTRL n) F.TB_CTRL_SRC = true → l = s.fld (R.TB_CTRL n) F.TB_CTRL_LINK →
        s.linkState l = 2 → s.carries l = true → (∀ a, (s.tb n).reqAt = some a → a + 400000 ≤ s.now) →
      ∃ t, Machine.exec (.timeRequest n) s = .next t ∧ (t.tb n).dreq = some ((s.tb n).seq, s.tbNs n))
    ∧ (∀ l corr fl pool seq, Taken s l fl 2 pool seq → (fl.drop 8).take 1 = [0#8] → s.linkState l = 2 →
      ∃ t b, Machine.exec (.timeFlit l corr false fl) s = .next t ∧ t.time.flits = (l, b) :: s.time.flits)
    ∧ (∀ c, (∃ req, Island s req ∧ c = .cap req) ∨ (s.bit R.TIME_CTRL F.TIME_CTRL_PPSCAP = true ∧ c = .ppsIn) →
      ∃ t, Machine.exec c s = .next t ∧ (∀ n, n < 4 → (t.rd (R.TB_CAP n)).toNat = s.tbNs n))
    ∧ (s.bit R.TIME_CTRL F.TIME_CTRL_PPSEN = true → s.time.ppsAt = none → s.tb3Past (s.rd R.PPS_NEXT).toNat = true →
      ∃ t, Machine.exec .ppsOut s = .next t ∧ t.time.ppsAt = some s.now)
    ∧ (∀ a, s.time.ppsAt = some a → a + 40000 ≤ s.now →
      ∃ t, Machine.exec .ppsOutFall s = .next t ∧ t.time.ppsAt = none ∧ t.rd R.PPS_NEXT = s.rd R.PPS_NEXT + s.rd R.PPS_PERIOD)
    ∧ (∀ ch, ch < 4 →
      (s.bit R.TEST_CTRL F.TEST_CTRL_FEN = true → s.chState ch = 1 → bitOf s.tests.fpass ch = true → FMap.get none s.tests.frun ch = none →
          s.ownerOf ch = none → (∀ m ∈ s.migr, m.ch ≠ ch) →
        ∃ t, Machine.exec (.fabricSlice ch) s = .next t ∧ FMap.get none t.tests.frun ch = some (FMap.get 0 s.tests.fdone ch))
      ∧ (∀ col, FMap.get none s.tests.frun ch = some col → s.ownerOf ch = none →
        ∃ t, Machine.exec (.fabricSliceEnd ch []) s = .next t ∧ FMap.get none t.tests.frun ch = none)
      ∧ (∀ req, Island s req → s.chState ch = 1 → s.ownerOf ch = none → s.tests.bist = none →
        ∃ t, Machine.exec (.bistgo req ch) s = .next t ∧ t.tests.bist = some ch)
      ∧ (s.tests.bist = some ch → ∃ t, Machine.exec (.bistEnd []) s = .next t ∧ t.tests.bist = none))
    ∧ (∀ l, l < 16 →
      (s.bit R.TEST_CTRL F.TEST_CTRL_IEN = true → s.tests.ipass = true → bitOf s.tests.irun l = false →
          bitOf (s.fld R.TEST_STAT F.TEST_STAT_LANEDONE) l = false → FMap.get none s.eng.lanes l = none →
          (∀ r ∈ s.eng.ready, s.loopLane r.loop ≠ l) → s.bit R.LE_STAT F.LE_STAT_RUN = false →
        ∃ t, Machine.exec (.islandSlice l) s = .next t ∧ bitOf t.tests.irun l = true)
      ∧ (bitOf s.tests.irun l = true → ∃ t, Machine.exec (.islandSliceEnd l false) s = .next t ∧ bitOf t.tests.irun l = false
          ∧ bitOf (t.fld R.TEST_STAT F.TEST_STAT_LANEDONE) l = true))
    ∧ (∃ t, Machine.exec .testInterval s = .next t ∧ t.tests.ipass = true)

/-- 4 claims together: LinksComplete, StreamsComplete, LoopsComplete, TimeComplete. -/
def Obligations.IslandAndLinksComplete : Prop := Sys2Proof.LinksComplete ∧ Sys2Proof.StreamsComplete ∧ Sys2Proof.LoopsComplete ∧ Sys2Proof.TimeComplete
end

