-- ==== Sys2Proof/Laws/Map.lean ====
section
/-! SUPPORT. Sys2Proof/Laws/Map.lean: sparse arrays: a read after a write, the canonical form kept by every operation; the same
for memories. -/

namespace Sys2Proof.Machine

variable {α : Type}

/-! ### Reads after writes -/

@[simp] theorem FMap.get_nil (d : α) (k : Nat) : FMap.get d [] k = d := rfl

theorem FMap.get_erase_self (d : α) (m : FMap α) (k : Nat) : FMap.get d (m.erase k) k = d := by
  induction m with
  | nil => rfl
  | cons p m ih =>
    by_cases h : p.1 = k
    · simp only [FMap.erase, List.filter_cons] at ih ⊢
      simpa [h] using ih
    · simp only [FMap.erase, List.filter_cons] at ih ⊢
      simp only [h, ne_eq, not_false_eq_true, decide_true, ↓reduceIte]
      simp only [FMap.get, h, ↓reduceIte]
      exact ih

theorem FMap.get_erase_ne (d : α) (m : FMap α) {k j : Nat} (h : j ≠ k) : FMap.get d (m.erase k) j = FMap.get d m j := by
  induction m with
  | nil => rfl
  | cons p m ih =>
    simp only [FMap.erase, List.filter_cons] at ih ⊢
    by_cases hp : p.1 = k
    · have hj : p.1 ≠ j := fun e => h (by omega)
      simpa [hp, FMap.get, hj, Ne.symm h] using ih
    · by_cases hj : p.1 = j
      · simp [FMap.get, hj, h]
      · simpa [hp, FMap.get, hj] using ih

theorem FMap.get_insert_self (d : α) (m : FMap α) (k : Nat) (v : α) (h : ∀ p ∈ m, p.1 ≠ k) :
    FMap.get d (m.insert k v) k = v := by
  induction m with
  | nil => simp [FMap.insert, FMap.get]
  | cons p m ih =>
    have hp : p.1 ≠ k := h p (by simp)
    have ih := ih (fun q hq => h q (by simp [hq]))
    simp only [FMap.insert]
    split
    · simp [FMap.get]
    · simpa [FMap.get, hp] using ih

theorem FMap.get_insert_ne (d : α) (m : FMap α) {k j : Nat} (v : α) (h : j ≠ k) :
    FMap.get d (m.insert k v) j = FMap.get d m j := by
  induction m with
  | nil => simp [FMap.insert, FMap.get, Ne.symm h]
  | cons p m ih =>
    simp only [FMap.insert]
    split
    · simp [FMap.get, Ne.symm h]
    · simp only [FMap.get, ih]

theorem FMap.mem_erase_ne (m : FMap α) (k : Nat) : ∀ p ∈ m.erase k, p.1 ≠ k := by
  intro p hp
  simpa using (List.mem_filter.mp hp).2

variable [DecidableEq α]

@[simp] theorem FMap.get_set_self (d : α) (m : FMap α) (k : Nat) (v : α) : FMap.get d (FMap.set d m k v) k = v := by
  unfold FMap.set
  split
  · simp [FMap.get_erase_self, *]
  · exact FMap.get_insert_self d _ k v (FMap.mem_erase_ne m k)

theorem FMap.get_set_ne (d : α) (m : FMap α) {k j : Nat} (v : α) (h : j ≠ k) :
    FMap.get d (FMap.set d m k v) j = FMap.get d m j := by
  unfold FMap.set
  split
  · exact FMap.get_erase_ne d m h
  · rw [FMap.get_insert_ne d _ v h, FMap.get_erase_ne d m h]

theorem FMap.get_set (d : α) (m : FMap α) (k j : Nat) (v : α) :
    FMap.get d (FMap.set d m k v) j = if j = k then v else FMap.get d m j := by
  split
  · subst_vars; simp
  · rename_i h; exact FMap.get_set_ne d m v h

/-! ### The canonical form -/

theorem FMap.wfFrom_mono (d : α) {a b : Nat} (h : a ≤ b) (m : FMap α) (hm : FMap.wfFrom d b m = true) :
    FMap.wfFrom d a m = true := by
  cases m with
  | nil => rfl
  | cons p m =>
    simp only [FMap.wfFrom, Bool.and_eq_true, decide_eq_true_eq] at hm ⊢
    exact ⟨⟨by omega, hm.1.2⟩, hm.2⟩

theorem FMap.wfFrom_filter (d : α) (f : Nat × α → Bool) (m : FMap α) (lo : Nat) (h : FMap.wfFrom d lo m = true) :
    FMap.wfFrom d lo (List.filter f m) = true := by
  induction m generalizing lo with
  | nil => rfl
  | cons p m ih =>
    simp only [FMap.wfFrom, Bool.and_eq_true, decide_eq_true_eq] at h
    simp only [List.filter_cons]
    split
    · simp only [FMap.wfFrom, Bool.and_eq_true, decide_eq_true_eq]
      exact ⟨h.1, ih _ h.2⟩
    · exact FMap.wfFrom_mono d (by omega) _ (ih _ h.2)

theorem FMap.wfFrom_insert (d : α) (m : FMap α) (lo k : Nat) (v : α) (hv : v ≠ d) (hk : lo ≤ k)
    (hm : FMap.wfFrom d lo m = true) (hn : ∀ p ∈ m, p.1 ≠ k) : FMap.wfFrom d lo (m.insert k v) = true := by
  induction m generalizing lo with
  | nil => simp [FMap.insert, FMap.wfFrom, hk, hv]
  | cons p m ih =>
    have hp : p.1 ≠ k := hn p (by simp)
    simp only [FMap.wfFrom, Bool.and_eq_true, decide_eq_true_eq] at hm
    simp only [FMap.insert]
    split
    · simp only [FMap.wfFrom, Bool.and_eq_true, decide_eq_true_eq]
      exact ⟨⟨hk, hv⟩, ⟨by omega, hm.1.2⟩, hm.2⟩
    · simp only [FMap.wfFrom, Bool.and_eq_true, decide_eq_true_eq]
      exact ⟨hm.1, ih _ (by omega) hm.2 (fun q hq => hn q (by simp [hq]))⟩

/-- A write keeps the canonical form. -/
theorem FMap.wf_set (d : α) (m : FMap α) (k : Nat) (v : α) (h : FMap.wf d m = true) : FMap.wf d (FMap.set d m k v) = true := by
  unfold FMap.set
  split
  · exact FMap.wfFrom_filter d _ m 0 h
  · rename_i hv
    exact FMap.wfFrom_insert d _ 0 k v hv (Nat.zero_le k) (FMap.wfFrom_filter d _ m 0 h) (FMap.mem_erase_ne m k)

/-- Clearing a range keeps the canonical form. -/
theorem FMap.wf_clear (d : α) (m : FMap α) (lo n : Nat) (h : FMap.wf d m = true) : FMap.wf d (FMap.clear m lo n) = true :=
  FMap.wfFrom_filter d _ m 0 h

theorem FMap.wf_filter (d : α) (m : FMap α) (f : Nat × α → Bool) (h : FMap.wf d m = true) :
    FMap.wf d (List.filter f m) = true := FMap.wfFrom_filter d f m 0 h

omit [DecidableEq α] in
/-- What is kept by a test of the key reads as before, the rest as the default. -/
theorem FMap.get_keep (d : α) (m : FMap α) (f : Nat → Bool) (k : Nat) :
    FMap.get d (m.filter (fun p => f p.1)) k = if f k then FMap.get d m k else d := by
  induction m with
  | nil => cases f k <;> rfl
  | cons p m ih =>
    obtain ⟨a, v⟩ := p
    simp only [List.filter_cons, FMap.get]
    by_cases hk : a = k
    · subst hk; cases h : f a <;> simp_all [FMap.get]
    · cases f a <;> simp_all [FMap.get]

omit [DecidableEq α] in
/-- A cleared range reads as the default. -/
theorem FMap.get_clear (d : α) (m : FMap α) (lo n k : Nat) :
    FMap.get d (FMap.clear m lo n) k = if lo ≤ k ∧ k < lo + n then d else FMap.get d m k := by
  unfold FMap.clear
  rw [FMap.get_keep d m (fun a => !(decide (lo ≤ a) && decide (a < lo + n)))]
  by_cases h : lo ≤ k ∧ k < lo + n <;> simp [h]

/-! ### Memories -/

@[simp] theorem Memory.byte_put_self (m : Memory) (a : Nat) (v : Byte) : (m.put a v).byte a = v := FMap.get_set_self _ m a v

theorem Memory.byte_put_ne (m : Memory) {a b : Nat} (v : Byte) (h : b ≠ a) : (m.put a v).byte b = m.byte b :=
  FMap.get_set_ne _ m v h

/-- A byte written keeps the canonical form. -/
theorem Memory.wf_put (m : Memory) (a : Nat) (v : Byte) (h : m.wf = true) : (m.put a v).wf = true := FMap.wf_set _ m a v h

/-- Bytes written keep the canonical form. -/
theorem Memory.wf_putBytes (m : Memory) (a : Nat) (bs : List Byte) (h : m.wf = true) : (m.putBytes a bs).wf = true := by
  induction bs generalizing m a with
  | nil => exact h
  | cons b bs ih => exact ih _ _ (m.wf_put a b h)

/-- Bytes outside a written range are kept. -/
theorem Memory.byte_putBytes_out (m : Memory) (a : Nat) (bs : List Byte) (k : Nat) (h : k < a ∨ a + bs.length ≤ k) :
    (m.putBytes a bs).byte k = m.byte k := by
  induction bs generalizing m a with
  | nil => rfl
  | cons b bs ih =>
    simp only [List.length_cons] at h
    rw [Memory.putBytes, ih _ _ (by omega), Memory.byte_put_ne m b (by omega)]

/-- Bytes of a written range are those written. -/
theorem Memory.byte_putBytes_in (m : Memory) (a : Nat) (bs : List Byte) (i : Nat) (h : i < bs.length) :
    (m.putBytes a bs).byte (a + i) = bs[i] := by
  induction bs generalizing m a i with
  | nil => simp at h
  | cons b bs ih =>
    cases i with
    | zero =>
      rw [Memory.putBytes, Nat.add_zero, Memory.byte_putBytes_out _ _ _ _ (by omega)]
      simp
    | succ i =>
      simp only [List.length_cons, Nat.add_lt_add_iff_right] at h
      have e : a + (i + 1) = (a + 1) + i := by omega
      rw [Memory.putBytes, e, ih _ _ i h]
      simp

@[simp] theorem Memory.bytes_length (m : Memory) (a n : Nat) : (m.bytes a n).length = n := by
  induction n generalizing a with
  | zero => rfl
  | succ n ih => simp [Memory.bytes, ih]

/-- A byte string just written reads back. -/
theorem Memory.bytes_putBytes (m : Memory) (a : Nat) (bs : List Byte) : (m.putBytes a bs).bytes a bs.length = bs := by
  have key : ∀ n (m' : Memory) (b : Nat) (l : List Byte), l.length = n → (∀ i (hi : i < l.length), m'.byte (b + i) = l[i]) →
      m'.bytes b n = l := by
    intro n
    induction n with
    | zero => intro m' b l hl _; simp [Memory.bytes, List.length_eq_zero_iff.mp hl]
    | succ n ih =>
      intro m' b l hl h
      cases l with
      | nil => simp at hl
      | cons x l =>
        have h0 := h 0 (by simp)
        simp only [Nat.add_zero, List.getElem_cons_zero] at h0
        rw [Memory.bytes, h0, ih m' (b + 1) l (by simpa using hl)]
        intro i hi
        have := h (i + 1) (by simp; omega)
        simpa [Nat.add_comm, Nat.add_left_comm, Nat.add_assoc] using this
  exact key _ _ _ bs rfl (fun i hi => Memory.byte_putBytes_in m a bs i hi)

@[simp] theorem leBytes_length (n v : Nat) : (leBytes n v).length = n := by
  induction n generalizing v with
  | zero => rfl
  | succ n ih => simp [leBytes, ih]

/-- A number read from its own little-endian bytes. -/
theorem leNat_leBytes (n v : Nat) : leNat (leBytes n v) = v % 256 ^ n := by
  induction n generalizing v with
  | zero => simp [leBytes, leNat, Nat.mod_one]
  | succ n ih =>
    simp only [leBytes, leNat, BitVec.toNat_ofNat, ih]
    rw [show (256 : Nat) ^ (n + 1) = 256 * 256 ^ n by omega, Nat.mod_mul]

end Sys2Proof.Machine
end

