-- ==== Sys2Proof/Laws/Regs.lean ====
section
/-! SUPPORT. Sys2Proof/Laws/Regs.lean: fields of words and registers: what is written is read back, everything else is kept. -/

namespace Sys2Proof.Machine

/-! ### Fields of words -/

/-- A word split at a field: what stands above, in and below it. -/
theorem split_at_field (w L W : Nat) : w = (w / L / W * W + w / L % W) * L + w % L := by
  have h1 := Nat.div_add_mod w L
  have h2 := Nat.div_add_mod (w / L) W
  rw [Nat.mul_comm W] at h2
  rw [h2, Nat.mul_comm (w / L) L]
  exact h1.symm

/-- A word with a field replaced, as a number. -/
theorem setF_toNat (w : Word) (f : Fld) (x : Nat) (h1 : f.lo ≤ f.hi) (h2 : f.hi < 32) :
    (setF w f x).toNat
      = (w.toNat / 2 ^ f.lo / 2 ^ f.width * 2 ^ f.width + x % 2 ^ f.width) * 2 ^ f.lo + w.toNat % 2 ^ f.lo := by
  have hs := split_at_field w.toNat (2 ^ f.lo) (2 ^ f.width)
  have hlt : w.toNat < 2 ^ 32 := w.isLt
  have hx : x % 2 ^ f.width < 2 ^ f.width := Nat.mod_lt _ (Nat.two_pow_pos _)
  have hr : w.toNat % 2 ^ f.lo < 2 ^ f.lo := Nat.mod_lt _ (Nat.two_pow_pos _)
  unfold setF getF bitsOf
  rw [show f.hi + 1 - f.lo = f.width from rfl, BitVec.toNat_ofNat]
  have hq : w.toNat / 2 ^ f.lo / 2 ^ f.width < 2 ^ (32 - f.lo - f.width) := by
    rw [Nat.div_div_eq_div_mul, ← Nat.pow_add]
    apply Nat.div_lt_of_lt_mul
    rw [← Nat.pow_add]
    have : f.lo + f.width + (32 - f.lo - f.width) = 32 := by unfold Fld.width; omega
    rwa [this]
  generalize hQ : w.toNat / 2 ^ f.lo / 2 ^ f.width = q at *
  generalize hG : w.toNat / 2 ^ f.lo % 2 ^ f.width = g at *
  generalize hR : w.toNat % 2 ^ f.lo = r at *
  generalize hX : x % 2 ^ f.width = y at *
  have e : w.toNat - g * 2 ^ f.lo + y * 2 ^ f.lo = (q * 2 ^ f.width + y) * 2 ^ f.lo + r := by
    rw [hs, Nat.add_mul, Nat.add_mul]; omega
  rw [e]
  apply Nat.mod_eq_of_lt
  have hp : 2 ^ 32 = 2 ^ (32 - f.lo - f.width) * 2 ^ f.width * 2 ^ f.lo := by
    rw [← Nat.pow_add, ← Nat.pow_add]; congr 1; unfold Fld.width; omega
  have a1 : q * 2 ^ f.width + y < 2 ^ (32 - f.lo - f.width) * 2 ^ f.width := by
    calc q * 2 ^ f.width + y < q * 2 ^ f.width + 2 ^ f.width := by omega
      _ = (q + 1) * 2 ^ f.width := by rw [Nat.succ_mul]
      _ ≤ _ := Nat.mul_le_mul_right _ hq
  calc (q * 2 ^ f.width + y) * 2 ^ f.lo + r < (q * 2 ^ f.width + y) * 2 ^ f.lo + 2 ^ f.lo := by omega
    _ = (q * 2 ^ f.width + y + 1) * 2 ^ f.lo := by rw [Nat.succ_mul]
    _ ≤ 2 ^ (32 - f.lo - f.width) * 2 ^ f.width * 2 ^ f.lo := Nat.mul_le_mul_right _ a1
    _ = 2 ^ 32 := hp.symm

/-- A field just written reads as written. -/
theorem getF_setF_self (w : Word) (f : Fld) (x : Nat) (h1 : f.lo ≤ f.hi) (h2 : f.hi < 32) :
    getF (setF w f x) f = x % 2 ^ f.width := by
  unfold getF bitsOf
  rw [setF_toNat w f x h1 h2, show f.hi + 1 - f.lo = f.width from rfl]
  have hr : w.toNat % 2 ^ f.lo < 2 ^ f.lo := Nat.mod_lt _ (Nat.two_pow_pos _)
  rw [Nat.mul_comm _ (2 ^ f.lo), Nat.mul_add_div (Nat.two_pow_pos _), Nat.div_eq_of_lt hr, Nat.add_zero, Nat.mul_comm _ (2 ^ f.width),
    Nat.mul_add_mod, Nat.mod_mod]

/-- A write to a field keeps the fields below and above it. -/
theorem getF_setF_other (w : Word) (f g : Fld) (x : Nat) (h1 : f.lo ≤ f.hi) (h2 : f.hi < 32) (h3 : g.lo ≤ g.hi)
    (h : g.hi < f.lo ∨ f.hi < g.lo) : getF (setF w f x) g = getF w g := by
  have hr : w.toNat % 2 ^ f.lo < 2 ^ f.lo := Nat.mod_lt _ (Nat.two_pow_pos _)
  unfold getF bitsOf
  rw [setF_toNat w f x h1 h2]
  cases h with
  | inl h =>
    have cut (v : Nat) : v / 2 ^ g.lo % 2 ^ (g.hi + 1 - g.lo) = v % 2 ^ f.lo / 2 ^ g.lo % 2 ^ (g.hi + 1 - g.lo) := by
      have e : 2 ^ f.lo = 2 ^ g.lo * (2 ^ (g.hi + 1 - g.lo) * 2 ^ (f.lo - (g.hi + 1))) := by
        rw [← Nat.pow_add, ← Nat.pow_add]; congr 1; omega
      rw [e, Nat.mod_mul, Nat.add_mul_div_left _ _ (Nat.two_pow_pos _), Nat.div_eq_of_lt (Nat.mod_lt _ (Nat.two_pow_pos _)),
        Nat.zero_add, Nat.mod_mul, Nat.add_mul_mod_self_left, Nat.mod_mod]
    rw [cut, cut w.toNat, Nat.mul_comm _ (2 ^ f.lo), Nat.mul_add_mod, Nat.mod_mod]
  | inr h =>
    have cut (v : Nat) : v / 2 ^ g.lo = v / 2 ^ f.lo / 2 ^ f.width / 2 ^ (g.lo - (f.hi + 1)) := by
      rw [Nat.div_div_eq_div_mul, Nat.div_div_eq_div_mul, ← Nat.pow_add, ← Nat.pow_add]; congr 2; unfold Fld.width; omega
    rw [cut, cut w.toNat, Nat.mul_comm _ (2 ^ f.lo), Nat.mul_add_div (Nat.two_pow_pos _), Nat.div_eq_of_lt hr, Nat.add_zero,
      Nat.mul_comm _ (2 ^ f.width), Nat.mul_add_div (Nat.two_pow_pos _),
      Nat.div_eq_of_lt (Nat.mod_lt _ (Nat.two_pow_pos _)), Nat.add_zero]

/-! ### Registers -/

@[simp] theorem State.rd_wr_self (s : State) (a : Nat) (v : Word) : (s.wr a v).rd a = v := FMap.get_set_self _ _ _ _

theorem State.rd_wr_ne (s : State) {a b : Nat} (v : Word) (h : b ≠ a) : (s.wr a v).rd b = s.rd b := by
  unfold State.rd State.wr FMap.set
  dsimp only
  split
  · exact FMap.get_erase_ne _ _ h
  · rw [FMap.get_insert_ne _ _ _ h, FMap.get_erase_ne _ _ h]

theorem State.rd_wr (s : State) (a b : Nat) (v : Word) : (s.wr a v).rd b = if b = a then v else s.rd b := by
  split
  · subst_vars; simp
  · rename_i h; exact s.rd_wr_ne v h

theorem State.rd_setFld_self (s : State) (a : Nat) (f : Fld) (x : Nat) : (s.setFld a f x).rd a = setF (s.rd a) f x :=
  State.rd_wr_self _ _ _

theorem State.rd_setFld_ne (s : State) {a b : Nat} (f : Fld) (x : Nat) (h : b ≠ a) : (s.setFld a f x).rd b = s.rd b :=
  State.rd_wr_ne _ _ h

/-- A field of a register just written reads as written. -/
theorem State.fld_setFld_self (s : State) (a : Nat) (f : Fld) (x : Nat) (h1 : f.lo ≤ f.hi) (h2 : f.hi < 32) :
    (s.setFld a f x).fld a f = x % 2 ^ f.width := by
  unfold State.fld
  rw [s.rd_setFld_self, getF_setF_self _ _ _ h1 h2]

/-- A write to a register's field keeps the fields of every other register. -/
theorem State.fld_setFld_ne (s : State) {a b : Nat} (f g : Fld) (x : Nat) (h : b ≠ a) : (s.setFld a f x).fld b g = s.fld b g := by
  unfold State.fld
  rw [s.rd_setFld_ne f x h]

/-- A write to a field keeps the other fields of its register. -/
theorem State.fld_setFld_other (s : State) (a : Nat) (f g : Fld) (x : Nat) (h1 : f.lo ≤ f.hi) (h2 : f.hi < 32) (h3 : g.lo ≤ g.hi)
    (h : g.hi < f.lo ∨ f.hi < g.lo) : (s.setFld a f x).fld a g = s.fld a g := by
  unfold State.fld
  rw [s.rd_setFld_self, getF_setF_other _ _ _ _ h1 h2 h3 h]

end Sys2Proof.Machine
end

