-- ==== Sys2Proof/Laws/State.lean ====
section
/-! SUPPORT. Sys2Proof/Laws/State.lean: for each update of the state, the fields it leaves as they are, and the one it
changes: later proofs never unfold a record update. -/

namespace Sys2Proof.Machine

/-! ### wr -/

@[simp] theorem State.wr_hold (s : State) (a : Nat) (v : Word) : (s.wr a v).hold = s.hold := rfl
@[simp] theorem State.wr_lastRead (s : State) (a : Nat) (v : Word) : (s.wr a v).lastRead = s.lastRead := rfl
@[simp] theorem State.wr_scratch (s : State) (a : Nat) (v : Word) : (s.wr a v).scratch = s.scratch := rfl
@[simp] theorem State.wr_ue (s : State) (a : Nat) (v : Word) : (s.wr a v).ue = s.ue := rfl
@[simp] theorem State.wr_ce (s : State) (a : Nat) (v : Word) : (s.wr a v).ce = s.ce := rfl
@[simp] theorem State.wr_tableMem (s : State) (a : Nat) (v : Word) : (s.wr a v).tableMem = s.tableMem := rfl
@[simp] theorem State.wr_cores (s : State) (a : Nat) (v : Word) : (s.wr a v).cores = s.cores := rfl
@[simp] theorem State.wr_words (s : State) (a : Nat) (v : Word) : (s.wr a v).words = s.words := rfl
@[simp] theorem State.wr_noc (s : State) (a : Nat) (v : Word) : (s.wr a v).noc = s.noc := rfl
@[simp] theorem State.wr_parts (s : State) (a : Nat) (v : Word) : (s.wr a v).parts = s.parts := rfl
@[simp] theorem State.wr_migr (s : State) (a : Nat) (v : Word) : (s.wr a v).migr = s.migr := rfl
@[simp] theorem State.wr_host (s : State) (a : Nat) (v : Word) : (s.wr a v).host = s.host := rfl
@[simp] theorem State.wr_tests (s : State) (a : Nat) (v : Word) : (s.wr a v).tests = s.tests := rfl
@[simp] theorem State.wr_sec (s : State) (a : Nat) (v : Word) : (s.wr a v).sec = s.sec := rfl
@[simp] theorem State.wr_trc (s : State) (a : Nat) (v : Word) : (s.wr a v).trc = s.trc := rfl
@[simp] theorem State.wr_ing (s : State) (a : Nat) (v : Word) : (s.wr a v).ing = s.ing := rfl
@[simp] theorem State.wr_eng (s : State) (a : Nat) (v : Word) : (s.wr a v).eng = s.eng := rfl
@[simp] theorem State.wr_time (s : State) (a : Nat) (v : Word) : (s.wr a v).time = s.time := rfl
@[simp] theorem State.wr_safe (s : State) (a : Nat) (v : Word) : (s.wr a v).safe = s.safe := rfl
@[simp] theorem State.wr_gauge (s : State) (a : Nat) (v : Word) : (s.wr a v).gauge = s.gauge := rfl
@[simp] theorem State.wr_pwr (s : State) (a : Nat) (v : Word) : (s.wr a v).pwr = s.pwr := rfl
@[simp] theorem State.wr_jtag (s : State) (a : Nat) (v : Word) : (s.wr a v).jtag = s.jtag := rfl
@[simp] theorem State.wr_now (s : State) (a : Nat) (v : Word) : (s.wr a v).now = s.now := rfl
@[simp] theorem State.wr_fresh (s : State) (a : Nat) (v : Word) : (s.wr a v).fresh = s.fresh := rfl
@[simp] theorem State.wr_pending (s : State) (a : Nat) (v : Word) : (s.wr a v).pending = s.pending := rfl

/-! ### setFld -/

@[simp] theorem State.setFld_hold (s : State) (a : Nat) (f : Fld) (x : Nat) : (s.setFld a f x).hold = s.hold := rfl
@[simp] theorem State.setFld_lastRead (s : State) (a : Nat) (f : Fld) (x : Nat) : (s.setFld a f x).lastRead = s.lastRead := rfl
@[simp] theorem State.setFld_scratch (s : State) (a : Nat) (f : Fld) (x : Nat) : (s.setFld a f x).scratch = s.scratch := rfl
@[simp] theorem State.setFld_ue (s : State) (a : Nat) (f : Fld) (x : Nat) : (s.setFld a f x).ue = s.ue := rfl
@[simp] theorem State.setFld_ce (s : State) (a : Nat) (f : Fld) (x : Nat) : (s.setFld a f x).ce = s.ce := rfl
@[simp] theorem State.setFld_tableMem (s : State) (a : Nat) (f : Fld) (x : Nat) : (s.setFld a f x).tableMem = s.tableMem := rfl
@[simp] theorem State.setFld_cores (s : State) (a : Nat) (f : Fld) (x : Nat) : (s.setFld a f x).cores = s.cores := rfl
@[simp] theorem State.setFld_words (s : State) (a : Nat) (f : Fld) (x : Nat) : (s.setFld a f x).words = s.words := rfl
@[simp] theorem State.setFld_noc (s : State) (a : Nat) (f : Fld) (x : Nat) : (s.setFld a f x).noc = s.noc := rfl
@[simp] theorem State.setFld_parts (s : State) (a : Nat) (f : Fld) (x : Nat) : (s.setFld a f x).parts = s.parts := rfl
@[simp] theorem State.setFld_migr (s : State) (a : Nat) (f : Fld) (x : Nat) : (s.setFld a f x).migr = s.migr := rfl
@[simp] theorem State.setFld_host (s : State) (a : Nat) (f : Fld) (x : Nat) : (s.setFld a f x).host = s.host := rfl
@[simp] theorem State.setFld_tests (s : State) (a : Nat) (f : Fld) (x : Nat) : (s.setFld a f x).tests = s.tests := rfl
@[simp] theorem State.setFld_sec (s : State) (a : Nat) (f : Fld) (x : Nat) : (s.setFld a f x).sec = s.sec := rfl
@[simp] theorem State.setFld_trc (s : State) (a : Nat) (f : Fld) (x : Nat) : (s.setFld a f x).trc = s.trc := rfl
@[simp] theorem State.setFld_ing (s : State) (a : Nat) (f : Fld) (x : Nat) : (s.setFld a f x).ing = s.ing := rfl
@[simp] theorem State.setFld_eng (s : State) (a : Nat) (f : Fld) (x : Nat) : (s.setFld a f x).eng = s.eng := rfl
@[simp] theorem State.setFld_time (s : State) (a : Nat) (f : Fld) (x : Nat) : (s.setFld a f x).time = s.time := rfl
@[simp] theorem State.setFld_safe (s : State) (a : Nat) (f : Fld) (x : Nat) : (s.setFld a f x).safe = s.safe := rfl
@[simp] theorem State.setFld_gauge (s : State) (a : Nat) (f : Fld) (x : Nat) : (s.setFld a f x).gauge = s.gauge := rfl
@[simp] theorem State.setFld_pwr (s : State) (a : Nat) (f : Fld) (x : Nat) : (s.setFld a f x).pwr = s.pwr := rfl
@[simp] theorem State.setFld_jtag (s : State) (a : Nat) (f : Fld) (x : Nat) : (s.setFld a f x).jtag = s.jtag := rfl
@[simp] theorem State.setFld_now (s : State) (a : Nat) (f : Fld) (x : Nat) : (s.setFld a f x).now = s.now := rfl
@[simp] theorem State.setFld_fresh (s : State) (a : Nat) (f : Fld) (x : Nat) : (s.setFld a f x).fresh = s.fresh := rfl
@[simp] theorem State.setFld_pending (s : State) (a : Nat) (f : Fld) (x : Nat) : (s.setFld a f x).pending = s.pending := rfl

/-! ### setBit -/

@[simp] theorem State.setBit_hold (s : State) (a : Nat) (f : Fld) : (s.setBit a f).hold = s.hold := rfl
@[simp] theorem State.setBit_lastRead (s : State) (a : Nat) (f : Fld) : (s.setBit a f).lastRead = s.lastRead := rfl
@[simp] theorem State.setBit_scratch (s : State) (a : Nat) (f : Fld) : (s.setBit a f).scratch = s.scratch := rfl
@[simp] theorem State.setBit_ue (s : State) (a : Nat) (f : Fld) : (s.setBit a f).ue = s.ue := rfl
@[simp] theorem State.setBit_ce (s : State) (a : Nat) (f : Fld) : (s.setBit a f).ce = s.ce := rfl
@[simp] theorem State.setBit_tableMem (s : State) (a : Nat) (f : Fld) : (s.setBit a f).tableMem = s.tableMem := rfl
@[simp] theorem State.setBit_cores (s : State) (a : Nat) (f : Fld) : (s.setBit a f).cores = s.cores := rfl
@[simp] theorem State.setBit_words (s : State) (a : Nat) (f : Fld) : (s.setBit a f).words = s.words := rfl
@[simp] theorem State.setBit_noc (s : State) (a : Nat) (f : Fld) : (s.setBit a f).noc = s.noc := rfl
@[simp] theorem State.setBit_parts (s : State) (a : Nat) (f : Fld) : (s.setBit a f).parts = s.parts := rfl
@[simp] theorem State.setBit_migr (s : State) (a : Nat) (f : Fld) : (s.setBit a f).migr = s.migr := rfl
@[simp] theorem State.setBit_host (s : State) (a : Nat) (f : Fld) : (s.setBit a f).host = s.host := rfl
@[simp] theorem State.setBit_tests (s : State) (a : Nat) (f : Fld) : (s.setBit a f).tests = s.tests := rfl
@[simp] theorem State.setBit_sec (s : State) (a : Nat) (f : Fld) : (s.setBit a f).sec = s.sec := rfl
@[simp] theorem State.setBit_trc (s : State) (a : Nat) (f : Fld) : (s.setBit a f).trc = s.trc := rfl
@[simp] theorem State.setBit_ing (s : State) (a : Nat) (f : Fld) : (s.setBit a f).ing = s.ing := rfl
@[simp] theorem State.setBit_eng (s : State) (a : Nat) (f : Fld) : (s.setBit a f).eng = s.eng := rfl
@[simp] theorem State.setBit_time (s : State) (a : Nat) (f : Fld) : (s.setBit a f).time = s.time := rfl
@[simp] theorem State.setBit_safe (s : State) (a : Nat) (f : Fld) : (s.setBit a f).safe = s.safe := rfl
@[simp] theorem State.setBit_gauge (s : State) (a : Nat) (f : Fld) : (s.setBit a f).gauge = s.gauge := rfl
@[simp] theorem State.setBit_pwr (s : State) (a : Nat) (f : Fld) : (s.setBit a f).pwr = s.pwr := rfl
@[simp] theorem State.setBit_jtag (s : State) (a : Nat) (f : Fld) : (s.setBit a f).jtag = s.jtag := rfl
@[simp] theorem State.setBit_now (s : State) (a : Nat) (f : Fld) : (s.setBit a f).now = s.now := rfl
@[simp] theorem State.setBit_fresh (s : State) (a : Nat) (f : Fld) : (s.setBit a f).fresh = s.fresh := rfl
@[simp] theorem State.setBit_pending (s : State) (a : Nat) (f : Fld) : (s.setBit a f).pending = s.pending := rfl

/-! ### incFld -/

@[simp] theorem State.incFld_hold (s : State) (a : Nat) (f : Fld) (k : Nat) : (s.incFld a f k).hold = s.hold := rfl
@[simp] theorem State.incFld_lastRead (s : State) (a : Nat) (f : Fld) (k : Nat) : (s.incFld a f k).lastRead = s.lastRead := rfl
@[simp] theorem State.incFld_scratch (s : State) (a : Nat) (f : Fld) (k : Nat) : (s.incFld a f k).scratch = s.scratch := rfl
@[simp] theorem State.incFld_ue (s : State) (a : Nat) (f : Fld) (k : Nat) : (s.incFld a f k).ue = s.ue := rfl
@[simp] theorem State.incFld_ce (s : State) (a : Nat) (f : Fld) (k : Nat) : (s.incFld a f k).ce = s.ce := rfl
@[simp] theorem State.incFld_tableMem (s : State) (a : Nat) (f : Fld) (k : Nat) : (s.incFld a f k).tableMem = s.tableMem := rfl
@[simp] theorem State.incFld_cores (s : State) (a : Nat) (f : Fld) (k : Nat) : (s.incFld a f k).cores = s.cores := rfl
@[simp] theorem State.incFld_words (s : State) (a : Nat) (f : Fld) (k : Nat) : (s.incFld a f k).words = s.words := rfl
@[simp] theorem State.incFld_noc (s : State) (a : Nat) (f : Fld) (k : Nat) : (s.incFld a f k).noc = s.noc := rfl
@[simp] theorem State.incFld_parts (s : State) (a : Nat) (f : Fld) (k : Nat) : (s.incFld a f k).parts = s.parts := rfl
@[simp] theorem State.incFld_migr (s : State) (a : Nat) (f : Fld) (k : Nat) : (s.incFld a f k).migr = s.migr := rfl
@[simp] theorem State.incFld_host (s : State) (a : Nat) (f : Fld) (k : Nat) : (s.incFld a f k).host = s.host := rfl
@[simp] theorem State.incFld_tests (s : State) (a : Nat) (f : Fld) (k : Nat) : (s.incFld a f k).tests = s.tests := rfl
@[simp] theorem State.incFld_sec (s : State) (a : Nat) (f : Fld) (k : Nat) : (s.incFld a f k).sec = s.sec := rfl
@[simp] theorem State.incFld_trc (s : State) (a : Nat) (f : Fld) (k : Nat) : (s.incFld a f k).trc = s.trc := rfl
@[simp] theorem State.incFld_ing (s : State) (a : Nat) (f : Fld) (k : Nat) : (s.incFld a f k).ing = s.ing := rfl
@[simp] theorem State.incFld_eng (s : State) (a : Nat) (f : Fld) (k : Nat) : (s.incFld a f k).eng = s.eng := rfl
@[simp] theorem State.incFld_time (s : State) (a : Nat) (f : Fld) (k : Nat) : (s.incFld a f k).time = s.time := rfl
@[simp] theorem State.incFld_safe (s : State) (a : Nat) (f : Fld) (k : Nat) : (s.incFld a f k).safe = s.safe := rfl
@[simp] theorem State.incFld_gauge (s : State) (a : Nat) (f : Fld) (k : Nat) : (s.incFld a f k).gauge = s.gauge := rfl
@[simp] theorem State.incFld_pwr (s : State) (a : Nat) (f : Fld) (k : Nat) : (s.incFld a f k).pwr = s.pwr := rfl
@[simp] theorem State.incFld_jtag (s : State) (a : Nat) (f : Fld) (k : Nat) : (s.incFld a f k).jtag = s.jtag := rfl
@[simp] theorem State.incFld_now (s : State) (a : Nat) (f : Fld) (k : Nat) : (s.incFld a f k).now = s.now := rfl
@[simp] theorem State.incFld_fresh (s : State) (a : Nat) (f : Fld) (k : Nat) : (s.incFld a f k).fresh = s.fresh := rfl
@[simp] theorem State.incFld_pending (s : State) (a : Nat) (f : Fld) (k : Nat) : (s.incFld a f k).pending = s.pending := rfl

/-! ### draw -/

@[simp] theorem State.draw_regs (s : State) : s.draw.2.regs = s.regs := rfl
@[simp] theorem State.draw_hold (s : State) : s.draw.2.hold = s.hold := rfl
@[simp] theorem State.draw_lastRead (s : State) : s.draw.2.lastRead = s.lastRead := rfl
@[simp] theorem State.draw_scratch (s : State) : s.draw.2.scratch = s.scratch := rfl
@[simp] theorem State.draw_ue (s : State) : s.draw.2.ue = s.ue := rfl
@[simp] theorem State.draw_ce (s : State) : s.draw.2.ce = s.ce := rfl
@[simp] theorem State.draw_tableMem (s : State) : s.draw.2.tableMem = s.tableMem := rfl
@[simp] theorem State.draw_cores (s : State) : s.draw.2.cores = s.cores := rfl
@[simp] theorem State.draw_words (s : State) : s.draw.2.words = s.words := rfl
@[simp] theorem State.draw_noc (s : State) : s.draw.2.noc = s.noc := rfl
@[simp] theorem State.draw_parts (s : State) : s.draw.2.parts = s.parts := rfl
@[simp] theorem State.draw_migr (s : State) : s.draw.2.migr = s.migr := rfl
@[simp] theorem State.draw_host (s : State) : s.draw.2.host = s.host := rfl
@[simp] theorem State.draw_tests (s : State) : s.draw.2.tests = s.tests := rfl
@[simp] theorem State.draw_sec (s : State) : s.draw.2.sec = s.sec := rfl
@[simp] theorem State.draw_trc (s : State) : s.draw.2.trc = s.trc := rfl
@[simp] theorem State.draw_ing (s : State) : s.draw.2.ing = s.ing := rfl
@[simp] theorem State.draw_eng (s : State) : s.draw.2.eng = s.eng := rfl
@[simp] theorem State.draw_time (s : State) : s.draw.2.time = s.time := rfl
@[simp] theorem State.draw_safe (s : State) : s.draw.2.safe = s.safe := rfl
@[simp] theorem State.draw_gauge (s : State) : s.draw.2.gauge = s.gauge := rfl
@[simp] theorem State.draw_pwr (s : State) : s.draw.2.pwr = s.pwr := rfl
@[simp] theorem State.draw_jtag (s : State) : s.draw.2.jtag = s.jtag := rfl
@[simp] theorem State.draw_now (s : State) : s.draw.2.now = s.now := rfl
@[simp] theorem State.draw_fresh (s : State) : s.draw.2.fresh = s.fresh + 1 := rfl
@[simp] theorem State.draw_pending (s : State) : s.draw.2.pending = s.pending := rfl

/-! ### drawKey -/

@[simp] theorem State.drawKey_regs (s : State) : s.drawKey.2.regs = s.regs := rfl
@[simp] theorem State.drawKey_hold (s : State) : s.drawKey.2.hold = s.hold := rfl
@[simp] theorem State.drawKey_lastRead (s : State) : s.drawKey.2.lastRead = s.lastRead := rfl
@[simp] theorem State.drawKey_scratch (s : State) : s.drawKey.2.scratch = s.scratch := rfl
@[simp] theorem State.drawKey_ue (s : State) : s.drawKey.2.ue = s.ue := rfl
@[simp] theorem State.drawKey_ce (s : State) : s.drawKey.2.ce = s.ce := rfl
@[simp] theorem State.drawKey_tableMem (s : State) : s.drawKey.2.tableMem = s.tableMem := rfl
@[simp] theorem State.drawKey_cores (s : State) : s.drawKey.2.cores = s.cores := rfl
@[simp] theorem State.drawKey_words (s : State) : s.drawKey.2.words = s.words := rfl
@[simp] theorem State.drawKey_noc (s : State) : s.drawKey.2.noc = s.noc := rfl
@[simp] theorem State.drawKey_parts (s : State) : s.drawKey.2.parts = s.parts := rfl
@[simp] theorem State.drawKey_migr (s : State) : s.drawKey.2.migr = s.migr := rfl
@[simp] theorem State.drawKey_host (s : State) : s.drawKey.2.host = s.host := rfl
@[simp] theorem State.drawKey_tests (s : State) : s.drawKey.2.tests = s.tests := rfl
@[simp] theorem State.drawKey_sec (s : State) : s.drawKey.2.sec = s.sec := rfl
@[simp] theorem State.drawKey_trc (s : State) : s.drawKey.2.trc = s.trc := rfl
@[simp] theorem State.drawKey_ing (s : State) : s.drawKey.2.ing = s.ing := rfl
@[simp] theorem State.drawKey_eng (s : State) : s.drawKey.2.eng = s.eng := rfl
@[simp] theorem State.drawKey_time (s : State) : s.drawKey.2.time = s.time := rfl
@[simp] theorem State.drawKey_safe (s : State) : s.drawKey.2.safe = s.safe := rfl
@[simp] theorem State.drawKey_gauge (s : State) : s.drawKey.2.gauge = s.gauge := rfl
@[simp] theorem State.drawKey_pwr (s : State) : s.drawKey.2.pwr = s.pwr := rfl
@[simp] theorem State.drawKey_jtag (s : State) : s.drawKey.2.jtag = s.jtag := rfl
@[simp] theorem State.drawKey_now (s : State) : s.drawKey.2.now = s.now := rfl
@[simp] theorem State.drawKey_fresh (s : State) : s.drawKey.2.fresh = s.fresh + 8 := rfl
@[simp] theorem State.drawKey_pending (s : State) : s.drawKey.2.pending = s.pending := rfl

/-! ### drawBytes -/

@[simp] theorem State.drawBytes_regs (s : State) (n : Nat) : (s.drawBytes n).2.regs = s.regs := rfl
@[simp] theorem State.drawBytes_hold (s : State) (n : Nat) : (s.drawBytes n).2.hold = s.hold := rfl
@[simp] theorem State.drawBytes_lastRead (s : State) (n : Nat) : (s.drawBytes n).2.lastRead = s.lastRead := rfl
@[simp] theorem State.drawBytes_scratch (s : State) (n : Nat) : (s.drawBytes n).2.scratch = s.scratch := rfl
@[simp] theorem State.drawBytes_ue (s : State) (n : Nat) : (s.drawBytes n).2.ue = s.ue := rfl
@[simp] theorem State.drawBytes_ce (s : State) (n : Nat) : (s.drawBytes n).2.ce = s.ce := rfl
@[simp] theorem State.drawBytes_tableMem (s : State) (n : Nat) : (s.drawBytes n).2.tableMem = s.tableMem := rfl
@[simp] theorem State.drawBytes_cores (s : State) (n : Nat) : (s.drawBytes n).2.cores = s.cores := rfl
@[simp] theorem State.drawBytes_words (s : State) (n : Nat) : (s.drawBytes n).2.words = s.words := rfl
@[simp] theorem State.drawBytes_noc (s : State) (n : Nat) : (s.drawBytes n).2.noc = s.noc := rfl
@[simp] theorem State.drawBytes_parts (s : State) (n : Nat) : (s.drawBytes n).2.parts = s.parts := rfl
@[simp] theorem State.drawBytes_migr (s : State) (n : Nat) : (s.drawBytes n).2.migr = s.migr := rfl
@[simp] theorem State.drawBytes_host (s : State) (n : Nat) : (s.drawBytes n).2.host = s.host := rfl
@[simp] theorem State.drawBytes_tests (s : State) (n : Nat) : (s.drawBytes n).2.tests = s.tests := rfl
@[simp] theorem State.drawBytes_sec (s : State) (n : Nat) : (s.drawBytes n).2.sec = s.sec := rfl
@[simp] theorem State.drawBytes_trc (s : State) (n : Nat) : (s.drawBytes n).2.trc = s.trc := rfl
@[simp] theorem State.drawBytes_ing (s : State) (n : Nat) : (s.drawBytes n).2.ing = s.ing := rfl
@[simp] theorem State.drawBytes_eng (s : State) (n : Nat) : (s.drawBytes n).2.eng = s.eng := rfl
@[simp] theorem State.drawBytes_time (s : State) (n : Nat) : (s.drawBytes n).2.time = s.time := rfl
@[simp] theorem State.drawBytes_safe (s : State) (n : Nat) : (s.drawBytes n).2.safe = s.safe := rfl
@[simp] theorem State.drawBytes_gauge (s : State) (n : Nat) : (s.drawBytes n).2.gauge = s.gauge := rfl
@[simp] theorem State.drawBytes_pwr (s : State) (n : Nat) : (s.drawBytes n).2.pwr = s.pwr := rfl
@[simp] theorem State.drawBytes_jtag (s : State) (n : Nat) : (s.drawBytes n).2.jtag = s.jtag := rfl
@[simp] theorem State.drawBytes_now (s : State) (n : Nat) : (s.drawBytes n).2.now = s.now := rfl
@[simp] theorem State.drawBytes_fresh (s : State) (n : Nat) : (s.drawBytes n).2.fresh = s.fresh + n := rfl
@[simp] theorem State.drawBytes_pending (s : State) (n : Nat) : (s.drawBytes n).2.pending = s.pending := rfl

/-! ### setCore -/

@[simp] theorem State.setCore_regs (s : State) (c : Nat) (x : CoreSt) : (s.setCore c x).regs = s.regs := rfl
@[simp] theorem State.setCore_hold (s : State) (c : Nat) (x : CoreSt) : (s.setCore c x).hold = s.hold := rfl
@[simp] theorem State.setCore_lastRead (s : State) (c : Nat) (x : CoreSt) : (s.setCore c x).lastRead = s.lastRead := rfl
@[simp] theorem State.setCore_scratch (s : State) (c : Nat) (x : CoreSt) : (s.setCore c x).scratch = s.scratch := rfl
@[simp] theorem State.setCore_ue (s : State) (c : Nat) (x : CoreSt) : (s.setCore c x).ue = s.ue := rfl
@[simp] theorem State.setCore_ce (s : State) (c : Nat) (x : CoreSt) : (s.setCore c x).ce = s.ce := rfl
@[simp] theorem State.setCore_tableMem (s : State) (c : Nat) (x : CoreSt) : (s.setCore c x).tableMem = s.tableMem := rfl
@[simp] theorem State.setCore_words (s : State) (c : Nat) (x : CoreSt) : (s.setCore c x).words = s.words := rfl
@[simp] theorem State.setCore_noc (s : State) (c : Nat) (x : CoreSt) : (s.setCore c x).noc = s.noc := rfl
@[simp] theorem State.setCore_parts (s : State) (c : Nat) (x : CoreSt) : (s.setCore c x).parts = s.parts := rfl
@[simp] theorem State.setCore_migr (s : State) (c : Nat) (x : CoreSt) : (s.setCore c x).migr = s.migr := rfl
@[simp] theorem State.setCore_host (s : State) (c : Nat) (x : CoreSt) : (s.setCore c x).host = s.host := rfl
@[simp] theorem State.setCore_tests (s : State) (c : Nat) (x : CoreSt) : (s.setCore c x).tests = s.tests := rfl
@[simp] theorem State.setCore_sec (s : State) (c : Nat) (x : CoreSt) : (s.setCore c x).sec = s.sec := rfl
@[simp] theorem State.setCore_trc (s : State) (c : Nat) (x : CoreSt) : (s.setCore c x).trc = s.trc := rfl
@[simp] theorem State.setCore_ing (s : State) (c : Nat) (x : CoreSt) : (s.setCore c x).ing = s.ing := rfl
@[simp] theorem State.setCore_eng (s : State) (c : Nat) (x : CoreSt) : (s.setCore c x).eng = s.eng := rfl
@[simp] theorem State.setCore_time (s : State) (c : Nat) (x : CoreSt) : (s.setCore c x).time = s.time := rfl
@[simp] theorem State.setCore_safe (s : State) (c : Nat) (x : CoreSt) : (s.setCore c x).safe = s.safe := rfl
@[simp] theorem State.setCore_gauge (s : State) (c : Nat) (x : CoreSt) : (s.setCore c x).gauge = s.gauge := rfl
@[simp] theorem State.setCore_pwr (s : State) (c : Nat) (x : CoreSt) : (s.setCore c x).pwr = s.pwr := rfl
@[simp] theorem State.setCore_jtag (s : State) (c : Nat) (x : CoreSt) : (s.setCore c x).jtag = s.jtag := rfl
@[simp] theorem State.setCore_now (s : State) (c : Nat) (x : CoreSt) : (s.setCore c x).now = s.now := rfl
@[simp] theorem State.setCore_fresh (s : State) (c : Nat) (x : CoreSt) : (s.setCore c x).fresh = s.fresh := rfl
@[simp] theorem State.setCore_pending (s : State) (c : Nat) (x : CoreSt) : (s.setCore c x).pending = s.pending := rfl

/-! ### onCore -/

@[simp] theorem State.onCore_regs (s : State) (c : Nat) (f : CoreSt → CoreSt) : (s.onCore c f).regs = s.regs := rfl
@[simp] theorem State.onCore_hold (s : State) (c : Nat) (f : CoreSt → CoreSt) : (s.onCore c f).hold = s.hold := rfl
@[simp] theorem State.onCore_lastRead (s : State) (c : Nat) (f : CoreSt → CoreSt) : (s.onCore c f).lastRead = s.lastRead := rfl
@[simp] theorem State.onCore_scratch (s : State) (c : Nat) (f : CoreSt → CoreSt) : (s.onCore c f).scratch = s.scratch := rfl
@[simp] theorem State.onCore_ue (s : State) (c : Nat) (f : CoreSt → CoreSt) : (s.onCore c f).ue = s.ue := rfl
@[simp] theorem State.onCore_ce (s : State) (c : Nat) (f : CoreSt → CoreSt) : (s.onCore c f).ce = s.ce := rfl
@[simp] theorem State.onCore_tableMem (s : State) (c : Nat) (f : CoreSt → CoreSt) : (s.onCore c f).tableMem = s.tableMem := rfl
@[simp] theorem State.onCore_words (s : State) (c : Nat) (f : CoreSt → CoreSt) : (s.onCore c f).words = s.words := rfl
@[simp] theorem State.onCore_noc (s : State) (c : Nat) (f : CoreSt → CoreSt) : (s.onCore c f).noc = s.noc := rfl
@[simp] theorem State.onCore_parts (s : State) (c : Nat) (f : CoreSt → CoreSt) : (s.onCore c f).parts = s.parts := rfl
@[simp] theorem State.onCore_migr (s : State) (c : Nat) (f : CoreSt → CoreSt) : (s.onCore c f).migr = s.migr := rfl
@[simp] theorem State.onCore_host (s : State) (c : Nat) (f : CoreSt → CoreSt) : (s.onCore c f).host = s.host := rfl
@[simp] theorem State.onCore_tests (s : State) (c : Nat) (f : CoreSt → CoreSt) : (s.onCore c f).tests = s.tests := rfl
@[simp] theorem State.onCore_sec (s : State) (c : Nat) (f : CoreSt → CoreSt) : (s.onCore c f).sec = s.sec := rfl
@[simp] theorem State.onCore_trc (s : State) (c : Nat) (f : CoreSt → CoreSt) : (s.onCore c f).trc = s.trc := rfl
@[simp] theorem State.onCore_ing (s : State) (c : Nat) (f : CoreSt → CoreSt) : (s.onCore c f).ing = s.ing := rfl
@[simp] theorem State.onCore_eng (s : State) (c : Nat) (f : CoreSt → CoreSt) : (s.onCore c f).eng = s.eng := rfl
@[simp] theorem State.onCore_time (s : State) (c : Nat) (f : CoreSt → CoreSt) : (s.onCore c f).time = s.time := rfl
@[simp] theorem State.onCore_safe (s : State) (c : Nat) (f : CoreSt → CoreSt) : (s.onCore c f).safe = s.safe := rfl
@[simp] theorem State.onCore_gauge (s : State) (c : Nat) (f : CoreSt → CoreSt) : (s.onCore c f).gauge = s.gauge := rfl
@[simp] theorem State.onCore_pwr (s : State) (c : Nat) (f : CoreSt → CoreSt) : (s.onCore c f).pwr = s.pwr := rfl
@[simp] theorem State.onCore_jtag (s : State) (c : Nat) (f : CoreSt → CoreSt) : (s.onCore c f).jtag = s.jtag := rfl
@[simp] theorem State.onCore_now (s : State) (c : Nat) (f : CoreSt → CoreSt) : (s.onCore c f).now = s.now := rfl
@[simp] theorem State.onCore_fresh (s : State) (c : Nat) (f : CoreSt → CoreSt) : (s.onCore c f).fresh = s.fresh := rfl
@[simp] theorem State.onCore_pending (s : State) (c : Nat) (f : CoreSt → CoreSt) : (s.onCore c f).pending = s.pending := rfl

/-! ### onSlot -/

@[simp] theorem State.onSlot_regs (s : State) (c k : Nat) (f : Slot → Slot) : (s.onSlot c k f).regs = s.regs := rfl
@[simp] theorem State.onSlot_hold (s : State) (c k : Nat) (f : Slot → Slot) : (s.onSlot c k f).hold = s.hold := rfl
@[simp] theorem State.onSlot_lastRead (s : State) (c k : Nat) (f : Slot → Slot) : (s.onSlot c k f).lastRead = s.lastRead := rfl
@[simp] theorem State.onSlot_scratch (s : State) (c k : Nat) (f : Slot → Slot) : (s.onSlot c k f).scratch = s.scratch := rfl
@[simp] theorem State.onSlot_ue (s : State) (c k : Nat) (f : Slot → Slot) : (s.onSlot c k f).ue = s.ue := rfl
@[simp] theorem State.onSlot_ce (s : State) (c k : Nat) (f : Slot → Slot) : (s.onSlot c k f).ce = s.ce := rfl
@[simp] theorem State.onSlot_tableMem (s : State) (c k : Nat) (f : Slot → Slot) : (s.onSlot c k f).tableMem = s.tableMem := rfl
@[simp] theorem State.onSlot_words (s : State) (c k : Nat) (f : Slot → Slot) : (s.onSlot c k f).words = s.words := rfl
@[simp] theorem State.onSlot_noc (s : State) (c k : Nat) (f : Slot → Slot) : (s.onSlot c k f).noc = s.noc := rfl
@[simp] theorem State.onSlot_parts (s : State) (c k : Nat) (f : Slot → Slot) : (s.onSlot c k f).parts = s.parts := rfl
@[simp] theorem State.onSlot_migr (s : State) (c k : Nat) (f : Slot → Slot) : (s.onSlot c k f).migr = s.migr := rfl
@[simp] theorem State.onSlot_host (s : State) (c k : Nat) (f : Slot → Slot) : (s.onSlot c k f).host = s.host := rfl
@[simp] theorem State.onSlot_tests (s : State) (c k : Nat) (f : Slot → Slot) : (s.onSlot c k f).tests = s.tests := rfl
@[simp] theorem State.onSlot_sec (s : State) (c k : Nat) (f : Slot → Slot) : (s.onSlot c k f).sec = s.sec := rfl
@[simp] theorem State.onSlot_trc (s : State) (c k : Nat) (f : Slot → Slot) : (s.onSlot c k f).trc = s.trc := rfl
@[simp] theorem State.onSlot_ing (s : State) (c k : Nat) (f : Slot → Slot) : (s.onSlot c k f).ing = s.ing := rfl
@[simp] theorem State.onSlot_eng (s : State) (c k : Nat) (f : Slot → Slot) : (s.onSlot c k f).eng = s.eng := rfl
@[simp] theorem State.onSlot_time (s : State) (c k : Nat) (f : Slot → Slot) : (s.onSlot c k f).time = s.time := rfl
@[simp] theorem State.onSlot_safe (s : State) (c k : Nat) (f : Slot → Slot) : (s.onSlot c k f).safe = s.safe := rfl
@[simp] theorem State.onSlot_gauge (s : State) (c k : Nat) (f : Slot → Slot) : (s.onSlot c k f).gauge = s.gauge := rfl
@[simp] theorem State.onSlot_pwr (s : State) (c k : Nat) (f : Slot → Slot) : (s.onSlot c k f).pwr = s.pwr := rfl
@[simp] theorem State.onSlot_jtag (s : State) (c k : Nat) (f : Slot → Slot) : (s.onSlot c k f).jtag = s.jtag := rfl
@[simp] theorem State.onSlot_now (s : State) (c k : Nat) (f : Slot → Slot) : (s.onSlot c k f).now = s.now := rfl
@[simp] theorem State.onSlot_fresh (s : State) (c k : Nat) (f : Slot → Slot) : (s.onSlot c k f).fresh = s.fresh := rfl
@[simp] theorem State.onSlot_pending (s : State) (c k : Nat) (f : Slot → Slot) : (s.onSlot c k f).pending = s.pending := rfl

/-! ### setPart -/

@[simp] theorem State.setPart_regs (s : State) (p : Nat) (x : PartSt) : (s.setPart p x).regs = s.regs := rfl
@[simp] theorem State.setPart_hold (s : State) (p : Nat) (x : PartSt) : (s.setPart p x).hold = s.hold := rfl
@[simp] theorem State.setPart_lastRead (s : State) (p : Nat) (x : PartSt) : (s.setPart p x).lastRead = s.lastRead := rfl
@[simp] theorem State.setPart_scratch (s : State) (p : Nat) (x : PartSt) : (s.setPart p x).scratch = s.scratch := rfl
@[simp] theorem State.setPart_ue (s : State) (p : Nat) (x : PartSt) : (s.setPart p x).ue = s.ue := rfl
@[simp] theorem State.setPart_ce (s : State) (p : Nat) (x : PartSt) : (s.setPart p x).ce = s.ce := rfl
@[simp] theorem State.setPart_tableMem (s : State) (p : Nat) (x : PartSt) : (s.setPart p x).tableMem = s.tableMem := rfl
@[simp] theorem State.setPart_cores (s : State) (p : Nat) (x : PartSt) : (s.setPart p x).cores = s.cores := rfl
@[simp] theorem State.setPart_words (s : State) (p : Nat) (x : PartSt) : (s.setPart p x).words = s.words := rfl
@[simp] theorem State.setPart_noc (s : State) (p : Nat) (x : PartSt) : (s.setPart p x).noc = s.noc := rfl
@[simp] theorem State.setPart_migr (s : State) (p : Nat) (x : PartSt) : (s.setPart p x).migr = s.migr := rfl
@[simp] theorem State.setPart_host (s : State) (p : Nat) (x : PartSt) : (s.setPart p x).host = s.host := rfl
@[simp] theorem State.setPart_tests (s : State) (p : Nat) (x : PartSt) : (s.setPart p x).tests = s.tests := rfl
@[simp] theorem State.setPart_sec (s : State) (p : Nat) (x : PartSt) : (s.setPart p x).sec = s.sec := rfl
@[simp] theorem State.setPart_trc (s : State) (p : Nat) (x : PartSt) : (s.setPart p x).trc = s.trc := rfl
@[simp] theorem State.setPart_ing (s : State) (p : Nat) (x : PartSt) : (s.setPart p x).ing = s.ing := rfl
@[simp] theorem State.setPart_eng (s : State) (p : Nat) (x : PartSt) : (s.setPart p x).eng = s.eng := rfl
@[simp] theorem State.setPart_time (s : State) (p : Nat) (x : PartSt) : (s.setPart p x).time = s.time := rfl
@[simp] theorem State.setPart_safe (s : State) (p : Nat) (x : PartSt) : (s.setPart p x).safe = s.safe := rfl
@[simp] theorem State.setPart_gauge (s : State) (p : Nat) (x : PartSt) : (s.setPart p x).gauge = s.gauge := rfl
@[simp] theorem State.setPart_pwr (s : State) (p : Nat) (x : PartSt) : (s.setPart p x).pwr = s.pwr := rfl
@[simp] theorem State.setPart_jtag (s : State) (p : Nat) (x : PartSt) : (s.setPart p x).jtag = s.jtag := rfl
@[simp] theorem State.setPart_now (s : State) (p : Nat) (x : PartSt) : (s.setPart p x).now = s.now := rfl
@[simp] theorem State.setPart_fresh (s : State) (p : Nat) (x : PartSt) : (s.setPart p x).fresh = s.fresh := rfl
@[simp] theorem State.setPart_pending (s : State) (p : Nat) (x : PartSt) : (s.setPart p x).pending = s.pending := rfl

/-! ### onPart -/

@[simp] theorem State.onPart_regs (s : State) (p : Nat) (f : PartSt → PartSt) : (s.onPart p f).regs = s.regs := rfl
@[simp] theorem State.onPart_hold (s : State) (p : Nat) (f : PartSt → PartSt) : (s.onPart p f).hold = s.hold := rfl
@[simp] theorem State.onPart_lastRead (s : State) (p : Nat) (f : PartSt → PartSt) : (s.onPart p f).lastRead = s.lastRead := rfl
@[simp] theorem State.onPart_scratch (s : State) (p : Nat) (f : PartSt → PartSt) : (s.onPart p f).scratch = s.scratch := rfl
@[simp] theorem State.onPart_ue (s : State) (p : Nat) (f : PartSt → PartSt) : (s.onPart p f).ue = s.ue := rfl
@[simp] theorem State.onPart_ce (s : State) (p : Nat) (f : PartSt → PartSt) : (s.onPart p f).ce = s.ce := rfl
@[simp] theorem State.onPart_tableMem (s : State) (p : Nat) (f : PartSt → PartSt) : (s.onPart p f).tableMem = s.tableMem := rfl
@[simp] theorem State.onPart_cores (s : State) (p : Nat) (f : PartSt → PartSt) : (s.onPart p f).cores = s.cores := rfl
@[simp] theorem State.onPart_words (s : State) (p : Nat) (f : PartSt → PartSt) : (s.onPart p f).words = s.words := rfl
@[simp] theorem State.onPart_noc (s : State) (p : Nat) (f : PartSt → PartSt) : (s.onPart p f).noc = s.noc := rfl
@[simp] theorem State.onPart_migr (s : State) (p : Nat) (f : PartSt → PartSt) : (s.onPart p f).migr = s.migr := rfl
@[simp] theorem State.onPart_host (s : State) (p : Nat) (f : PartSt → PartSt) : (s.onPart p f).host = s.host := rfl
@[simp] theorem State.onPart_tests (s : State) (p : Nat) (f : PartSt → PartSt) : (s.onPart p f).tests = s.tests := rfl
@[simp] theorem State.onPart_sec (s : State) (p : Nat) (f : PartSt → PartSt) : (s.onPart p f).sec = s.sec := rfl
@[simp] theorem State.onPart_trc (s : State) (p : Nat) (f : PartSt → PartSt) : (s.onPart p f).trc = s.trc := rfl
@[simp] theorem State.onPart_ing (s : State) (p : Nat) (f : PartSt → PartSt) : (s.onPart p f).ing = s.ing := rfl
@[simp] theorem State.onPart_eng (s : State) (p : Nat) (f : PartSt → PartSt) : (s.onPart p f).eng = s.eng := rfl
@[simp] theorem State.onPart_time (s : State) (p : Nat) (f : PartSt → PartSt) : (s.onPart p f).time = s.time := rfl
@[simp] theorem State.onPart_safe (s : State) (p : Nat) (f : PartSt → PartSt) : (s.onPart p f).safe = s.safe := rfl
@[simp] theorem State.onPart_gauge (s : State) (p : Nat) (f : PartSt → PartSt) : (s.onPart p f).gauge = s.gauge := rfl
@[simp] theorem State.onPart_pwr (s : State) (p : Nat) (f : PartSt → PartSt) : (s.onPart p f).pwr = s.pwr := rfl
@[simp] theorem State.onPart_jtag (s : State) (p : Nat) (f : PartSt → PartSt) : (s.onPart p f).jtag = s.jtag := rfl
@[simp] theorem State.onPart_now (s : State) (p : Nat) (f : PartSt → PartSt) : (s.onPart p f).now = s.now := rfl
@[simp] theorem State.onPart_fresh (s : State) (p : Nat) (f : PartSt → PartSt) : (s.onPart p f).fresh = s.fresh := rfl
@[simp] theorem State.onPart_pending (s : State) (p : Nat) (f : PartSt → PartSt) : (s.onPart p f).pending = s.pending := rfl

/-! ### onCtx -/

@[simp] theorem State.onCtx_regs (s : State) (p k : Nat) (f : CtxSt → CtxSt) : (s.onCtx p k f).regs = s.regs := rfl
@[simp] theorem State.onCtx_hold (s : State) (p k : Nat) (f : CtxSt → CtxSt) : (s.onCtx p k f).hold = s.hold := rfl
@[simp] theorem State.onCtx_lastRead (s : State) (p k : Nat) (f : CtxSt → CtxSt) : (s.onCtx p k f).lastRead = s.lastRead := rfl
@[simp] theorem State.onCtx_scratch (s : State) (p k : Nat) (f : CtxSt → CtxSt) : (s.onCtx p k f).scratch = s.scratch := rfl
@[simp] theorem State.onCtx_ue (s : State) (p k : Nat) (f : CtxSt → CtxSt) : (s.onCtx p k f).ue = s.ue := rfl
@[simp] theorem State.onCtx_ce (s : State) (p k : Nat) (f : CtxSt → CtxSt) : (s.onCtx p k f).ce = s.ce := rfl
@[simp] theorem State.onCtx_tableMem (s : State) (p k : Nat) (f : CtxSt → CtxSt) : (s.onCtx p k f).tableMem = s.tableMem := rfl
@[simp] theorem State.onCtx_cores (s : State) (p k : Nat) (f : CtxSt → CtxSt) : (s.onCtx p k f).cores = s.cores := rfl
@[simp] theorem State.onCtx_words (s : State) (p k : Nat) (f : CtxSt → CtxSt) : (s.onCtx p k f).words = s.words := rfl
@[simp] theorem State.onCtx_noc (s : State) (p k : Nat) (f : CtxSt → CtxSt) : (s.onCtx p k f).noc = s.noc := rfl
@[simp] theorem State.onCtx_migr (s : State) (p k : Nat) (f : CtxSt → CtxSt) : (s.onCtx p k f).migr = s.migr := rfl
@[simp] theorem State.onCtx_host (s : State) (p k : Nat) (f : CtxSt → CtxSt) : (s.onCtx p k f).host = s.host := rfl
@[simp] theorem State.onCtx_tests (s : State) (p k : Nat) (f : CtxSt → CtxSt) : (s.onCtx p k f).tests = s.tests := rfl
@[simp] theorem State.onCtx_sec (s : State) (p k : Nat) (f : CtxSt → CtxSt) : (s.onCtx p k f).sec = s.sec := rfl
@[simp] theorem State.onCtx_trc (s : State) (p k : Nat) (f : CtxSt → CtxSt) : (s.onCtx p k f).trc = s.trc := rfl
@[simp] theorem State.onCtx_ing (s : State) (p k : Nat) (f : CtxSt → CtxSt) : (s.onCtx p k f).ing = s.ing := rfl
@[simp] theorem State.onCtx_eng (s : State) (p k : Nat) (f : CtxSt → CtxSt) : (s.onCtx p k f).eng = s.eng := rfl
@[simp] theorem State.onCtx_time (s : State) (p k : Nat) (f : CtxSt → CtxSt) : (s.onCtx p k f).time = s.time := rfl
@[simp] theorem State.onCtx_safe (s : State) (p k : Nat) (f : CtxSt → CtxSt) : (s.onCtx p k f).safe = s.safe := rfl
@[simp] theorem State.onCtx_gauge (s : State) (p k : Nat) (f : CtxSt → CtxSt) : (s.onCtx p k f).gauge = s.gauge := rfl
@[simp] theorem State.onCtx_pwr (s : State) (p k : Nat) (f : CtxSt → CtxSt) : (s.onCtx p k f).pwr = s.pwr := rfl
@[simp] theorem State.onCtx_jtag (s : State) (p k : Nat) (f : CtxSt → CtxSt) : (s.onCtx p k f).jtag = s.jtag := rfl
@[simp] theorem State.onCtx_now (s : State) (p k : Nat) (f : CtxSt → CtxSt) : (s.onCtx p k f).now = s.now := rfl
@[simp] theorem State.onCtx_fresh (s : State) (p k : Nat) (f : CtxSt → CtxSt) : (s.onCtx p k f).fresh = s.fresh := rfl
@[simp] theorem State.onCtx_pending (s : State) (p k : Nat) (f : CtxSt → CtxSt) : (s.onCtx p k f).pending = s.pending := rfl

/-! ### putSlice -/

@[simp] theorem State.putSlice_regs (s : State) (p off : Nat) (bs : List Byte) : (s.putSlice p off bs).regs = s.regs := rfl
@[simp] theorem State.putSlice_hold (s : State) (p off : Nat) (bs : List Byte) : (s.putSlice p off bs).hold = s.hold := rfl
@[simp] theorem State.putSlice_lastRead (s : State) (p off : Nat) (bs : List Byte) : (s.putSlice p off bs).lastRead = s.lastRead := rfl
@[simp] theorem State.putSlice_scratch (s : State) (p off : Nat) (bs : List Byte) : (s.putSlice p off bs).scratch = s.scratch := rfl
@[simp] theorem State.putSlice_ue (s : State) (p off : Nat) (bs : List Byte) : (s.putSlice p off bs).ue = s.ue := rfl
@[simp] theorem State.putSlice_ce (s : State) (p off : Nat) (bs : List Byte) : (s.putSlice p off bs).ce = s.ce := rfl
@[simp] theorem State.putSlice_cores (s : State) (p off : Nat) (bs : List Byte) : (s.putSlice p off bs).cores = s.cores := rfl
@[simp] theorem State.putSlice_words (s : State) (p off : Nat) (bs : List Byte) : (s.putSlice p off bs).words = s.words := rfl
@[simp] theorem State.putSlice_noc (s : State) (p off : Nat) (bs : List Byte) : (s.putSlice p off bs).noc = s.noc := rfl
@[simp] theorem State.putSlice_parts (s : State) (p off : Nat) (bs : List Byte) : (s.putSlice p off bs).parts = s.parts := rfl
@[simp] theorem State.putSlice_migr (s : State) (p off : Nat) (bs : List Byte) : (s.putSlice p off bs).migr = s.migr := rfl
@[simp] theorem State.putSlice_host (s : State) (p off : Nat) (bs : List Byte) : (s.putSlice p off bs).host = s.host := rfl
@[simp] theorem State.putSlice_tests (s : State) (p off : Nat) (bs : List Byte) : (s.putSlice p off bs).tests = s.tests := rfl
@[simp] theorem State.putSlice_sec (s : State) (p off : Nat) (bs : List Byte) : (s.putSlice p off bs).sec = s.sec := rfl
@[simp] theorem State.putSlice_trc (s : State) (p off : Nat) (bs : List Byte) : (s.putSlice p off bs).trc = s.trc := rfl
@[simp] theorem State.putSlice_ing (s : State) (p off : Nat) (bs : List Byte) : (s.putSlice p off bs).ing = s.ing := rfl
@[simp] theorem State.putSlice_eng (s : State) (p off : Nat) (bs : List Byte) : (s.putSlice p off bs).eng = s.eng := rfl
@[simp] theorem State.putSlice_time (s : State) (p off : Nat) (bs : List Byte) : (s.putSlice p off bs).time = s.time := rfl
@[simp] theorem State.putSlice_safe (s : State) (p off : Nat) (bs : List Byte) : (s.putSlice p off bs).safe = s.safe := rfl
@[simp] theorem State.putSlice_gauge (s : State) (p off : Nat) (bs : List Byte) : (s.putSlice p off bs).gauge = s.gauge := rfl
@[simp] theorem State.putSlice_pwr (s : State) (p off : Nat) (bs : List Byte) : (s.putSlice p off bs).pwr = s.pwr := rfl
@[simp] theorem State.putSlice_jtag (s : State) (p off : Nat) (bs : List Byte) : (s.putSlice p off bs).jtag = s.jtag := rfl
@[simp] theorem State.putSlice_now (s : State) (p off : Nat) (bs : List Byte) : (s.putSlice p off bs).now = s.now := rfl
@[simp] theorem State.putSlice_fresh (s : State) (p off : Nat) (bs : List Byte) : (s.putSlice p off bs).fresh = s.fresh := rfl
@[simp] theorem State.putSlice_pending (s : State) (p off : Nat) (bs : List Byte) : (s.putSlice p off bs).pending = s.pending := rfl

/-! ### onNoc -/

@[simp] theorem State.onNoc_regs (s : State) (f : NocSt → NocSt) : (s.onNoc f).regs = s.regs := rfl
@[simp] theorem State.onNoc_hold (s : State) (f : NocSt → NocSt) : (s.onNoc f).hold = s.hold := rfl
@[simp] theorem State.onNoc_lastRead (s : State) (f : NocSt → NocSt) : (s.onNoc f).lastRead = s.lastRead := rfl
@[simp] theorem State.onNoc_scratch (s : State) (f : NocSt → NocSt) : (s.onNoc f).scratch = s.scratch := rfl
@[simp] theorem State.onNoc_ue (s : State) (f : NocSt → NocSt) : (s.onNoc f).ue = s.ue := rfl
@[simp] theorem State.onNoc_ce (s : State) (f : NocSt → NocSt) : (s.onNoc f).ce = s.ce := rfl
@[simp] theorem State.onNoc_tableMem (s : State) (f : NocSt → NocSt) : (s.onNoc f).tableMem = s.tableMem := rfl
@[simp] theorem State.onNoc_cores (s : State) (f : NocSt → NocSt) : (s.onNoc f).cores = s.cores := rfl
@[simp] theorem State.onNoc_words (s : State) (f : NocSt → NocSt) : (s.onNoc f).words = s.words := rfl
@[simp] theorem State.onNoc_noc (s : State) (f : NocSt → NocSt) : (s.onNoc f).noc = f s.noc := rfl
@[simp] theorem State.onNoc_parts (s : State) (f : NocSt → NocSt) : (s.onNoc f).parts = s.parts := rfl
@[simp] theorem State.onNoc_migr (s : State) (f : NocSt → NocSt) : (s.onNoc f).migr = s.migr := rfl
@[simp] theorem State.onNoc_host (s : State) (f : NocSt → NocSt) : (s.onNoc f).host = s.host := rfl
@[simp] theorem State.onNoc_tests (s : State) (f : NocSt → NocSt) : (s.onNoc f).tests = s.tests := rfl
@[simp] theorem State.onNoc_sec (s : State) (f : NocSt → NocSt) : (s.onNoc f).sec = s.sec := rfl
@[simp] theorem State.onNoc_trc (s : State) (f : NocSt → NocSt) : (s.onNoc f).trc = s.trc := rfl
@[simp] theorem State.onNoc_ing (s : State) (f : NocSt → NocSt) : (s.onNoc f).ing = s.ing := rfl
@[simp] theorem State.onNoc_eng (s : State) (f : NocSt → NocSt) : (s.onNoc f).eng = s.eng := rfl
@[simp] theorem State.onNoc_time (s : State) (f : NocSt → NocSt) : (s.onNoc f).time = s.time := rfl
@[simp] theorem State.onNoc_safe (s : State) (f : NocSt → NocSt) : (s.onNoc f).safe = s.safe := rfl
@[simp] theorem State.onNoc_gauge (s : State) (f : NocSt → NocSt) : (s.onNoc f).gauge = s.gauge := rfl
@[simp] theorem State.onNoc_pwr (s : State) (f : NocSt → NocSt) : (s.onNoc f).pwr = s.pwr := rfl
@[simp] theorem State.onNoc_jtag (s : State) (f : NocSt → NocSt) : (s.onNoc f).jtag = s.jtag := rfl
@[simp] theorem State.onNoc_now (s : State) (f : NocSt → NocSt) : (s.onNoc f).now = s.now := rfl
@[simp] theorem State.onNoc_fresh (s : State) (f : NocSt → NocSt) : (s.onNoc f).fresh = s.fresh := rfl
@[simp] theorem State.onNoc_pending (s : State) (f : NocSt → NocSt) : (s.onNoc f).pending = s.pending := rfl

/-! ### onHost -/

@[simp] theorem State.onHost_regs (s : State) (f : HostSt → HostSt) : (s.onHost f).regs = s.regs := rfl
@[simp] theorem State.onHost_hold (s : State) (f : HostSt → HostSt) : (s.onHost f).hold = s.hold := rfl
@[simp] theorem State.onHost_lastRead (s : State) (f : HostSt → HostSt) : (s.onHost f).lastRead = s.lastRead := rfl
@[simp] theorem State.onHost_scratch (s : State) (f : HostSt → HostSt) : (s.onHost f).scratch = s.scratch := rfl
@[simp] theorem State.onHost_ue (s : State) (f : HostSt → HostSt) : (s.onHost f).ue = s.ue := rfl
@[simp] theorem State.onHost_ce (s : State) (f : HostSt → HostSt) : (s.onHost f).ce = s.ce := rfl
@[simp] theorem State.onHost_tableMem (s : State) (f : HostSt → HostSt) : (s.onHost f).tableMem = s.tableMem := rfl
@[simp] theorem State.onHost_cores (s : State) (f : HostSt → HostSt) : (s.onHost f).cores = s.cores := rfl
@[simp] theorem State.onHost_words (s : State) (f : HostSt → HostSt) : (s.onHost f).words = s.words := rfl
@[simp] theorem State.onHost_noc (s : State) (f : HostSt → HostSt) : (s.onHost f).noc = s.noc := rfl
@[simp] theorem State.onHost_parts (s : State) (f : HostSt → HostSt) : (s.onHost f).parts = s.parts := rfl
@[simp] theorem State.onHost_migr (s : State) (f : HostSt → HostSt) : (s.onHost f).migr = s.migr := rfl
@[simp] theorem State.onHost_host (s : State) (f : HostSt → HostSt) : (s.onHost f).host = f s.host := rfl
@[simp] theorem State.onHost_tests (s : State) (f : HostSt → HostSt) : (s.onHost f).tests = s.tests := rfl
@[simp] theorem State.onHost_sec (s : State) (f : HostSt → HostSt) : (s.onHost f).sec = s.sec := rfl
@[simp] theorem State.onHost_trc (s : State) (f : HostSt → HostSt) : (s.onHost f).trc = s.trc := rfl
@[simp] theorem State.onHost_ing (s : State) (f : HostSt → HostSt) : (s.onHost f).ing = s.ing := rfl
@[simp] theorem State.onHost_eng (s : State) (f : HostSt → HostSt) : (s.onHost f).eng = s.eng := rfl
@[simp] theorem State.onHost_time (s : State) (f : HostSt → HostSt) : (s.onHost f).time = s.time := rfl
@[simp] theorem State.onHost_safe (s : State) (f : HostSt → HostSt) : (s.onHost f).safe = s.safe := rfl
@[simp] theorem State.onHost_gauge (s : State) (f : HostSt → HostSt) : (s.onHost f).gauge = s.gauge := rfl
@[simp] theorem State.onHost_pwr (s : State) (f : HostSt → HostSt) : (s.onHost f).pwr = s.pwr := rfl
@[simp] theorem State.onHost_jtag (s : State) (f : HostSt → HostSt) : (s.onHost f).jtag = s.jtag := rfl
@[simp] theorem State.onHost_now (s : State) (f : HostSt → HostSt) : (s.onHost f).now = s.now := rfl
@[simp] theorem State.onHost_fresh (s : State) (f : HostSt → HostSt) : (s.onHost f).fresh = s.fresh := rfl
@[simp] theorem State.onHost_pending (s : State) (f : HostSt → HostSt) : (s.onHost f).pending = s.pending := rfl

/-! ### onTests -/

@[simp] theorem State.onTests_regs (s : State) (f : TestSt → TestSt) : (s.onTests f).regs = s.regs := rfl
@[simp] theorem State.onTests_hold (s : State) (f : TestSt → TestSt) : (s.onTests f).hold = s.hold := rfl
@[simp] theorem State.onTests_lastRead (s : State) (f : TestSt → TestSt) : (s.onTests f).lastRead = s.lastRead := rfl
@[simp] theorem State.onTests_scratch (s : State) (f : TestSt → TestSt) : (s.onTests f).scratch = s.scratch := rfl
@[simp] theorem State.onTests_ue (s : State) (f : TestSt → TestSt) : (s.onTests f).ue = s.ue := rfl
@[simp] theorem State.onTests_ce (s : State) (f : TestSt → TestSt) : (s.onTests f).ce = s.ce := rfl
@[simp] theorem State.onTests_tableMem (s : State) (f : TestSt → TestSt) : (s.onTests f).tableMem = s.tableMem := rfl
@[simp] theorem State.onTests_cores (s : State) (f : TestSt → TestSt) : (s.onTests f).cores = s.cores := rfl
@[simp] theorem State.onTests_words (s : State) (f : TestSt → TestSt) : (s.onTests f).words = s.words := rfl
@[simp] theorem State.onTests_noc (s : State) (f : TestSt → TestSt) : (s.onTests f).noc = s.noc := rfl
@[simp] theorem State.onTests_parts (s : State) (f : TestSt → TestSt) : (s.onTests f).parts = s.parts := rfl
@[simp] theorem State.onTests_migr (s : State) (f : TestSt → TestSt) : (s.onTests f).migr = s.migr := rfl
@[simp] theorem State.onTests_host (s : State) (f : TestSt → TestSt) : (s.onTests f).host = s.host := rfl
@[simp] theorem State.onTests_tests (s : State) (f : TestSt → TestSt) : (s.onTests f).tests = f s.tests := rfl
@[simp] theorem State.onTests_sec (s : State) (f : TestSt → TestSt) : (s.onTests f).sec = s.sec := rfl
@[simp] theorem State.onTests_trc (s : State) (f : TestSt → TestSt) : (s.onTests f).trc = s.trc := rfl
@[simp] theorem State.onTests_ing (s : State) (f : TestSt → TestSt) : (s.onTests f).ing = s.ing := rfl
@[simp] theorem State.onTests_eng (s : State) (f : TestSt → TestSt) : (s.onTests f).eng = s.eng := rfl
@[simp] theorem State.onTests_time (s : State) (f : TestSt → TestSt) : (s.onTests f).time = s.time := rfl
@[simp] theorem State.onTests_safe (s : State) (f : TestSt → TestSt) : (s.onTests f).safe = s.safe := rfl
@[simp] theorem State.onTests_gauge (s : State) (f : TestSt → TestSt) : (s.onTests f).gauge = s.gauge := rfl
@[simp] theorem State.onTests_pwr (s : State) (f : TestSt → TestSt) : (s.onTests f).pwr = s.pwr := rfl
@[simp] theorem State.onTests_jtag (s : State) (f : TestSt → TestSt) : (s.onTests f).jtag = s.jtag := rfl
@[simp] theorem State.onTests_now (s : State) (f : TestSt → TestSt) : (s.onTests f).now = s.now := rfl
@[simp] theorem State.onTests_fresh (s : State) (f : TestSt → TestSt) : (s.onTests f).fresh = s.fresh := rfl
@[simp] theorem State.onTests_pending (s : State) (f : TestSt → TestSt) : (s.onTests f).pending = s.pending := rfl

/-! ### onSec -/

@[simp] theorem State.onSec_regs (s : State) (f : SecSt → SecSt) : (s.onSec f).regs = s.regs := rfl
@[simp] theorem State.onSec_hold (s : State) (f : SecSt → SecSt) : (s.onSec f).hold = s.hold := rfl
@[simp] theorem State.onSec_lastRead (s : State) (f : SecSt → SecSt) : (s.onSec f).lastRead = s.lastRead := rfl
@[simp] theorem State.onSec_scratch (s : State) (f : SecSt → SecSt) : (s.onSec f).scratch = s.scratch := rfl
@[simp] theorem State.onSec_ue (s : State) (f : SecSt → SecSt) : (s.onSec f).ue = s.ue := rfl
@[simp] theorem State.onSec_ce (s : State) (f : SecSt → SecSt) : (s.onSec f).ce = s.ce := rfl
@[simp] theorem State.onSec_tableMem (s : State) (f : SecSt → SecSt) : (s.onSec f).tableMem = s.tableMem := rfl
@[simp] theorem State.onSec_cores (s : State) (f : SecSt → SecSt) : (s.onSec f).cores = s.cores := rfl
@[simp] theorem State.onSec_words (s : State) (f : SecSt → SecSt) : (s.onSec f).words = s.words := rfl
@[simp] theorem State.onSec_noc (s : State) (f : SecSt → SecSt) : (s.onSec f).noc = s.noc := rfl
@[simp] theorem State.onSec_parts (s : State) (f : SecSt → SecSt) : (s.onSec f).parts = s.parts := rfl
@[simp] theorem State.onSec_migr (s : State) (f : SecSt → SecSt) : (s.onSec f).migr = s.migr := rfl
@[simp] theorem State.onSec_host (s : State) (f : SecSt → SecSt) : (s.onSec f).host = s.host := rfl
@[simp] theorem State.onSec_tests (s : State) (f : SecSt → SecSt) : (s.onSec f).tests = s.tests := rfl
@[simp] theorem State.onSec_sec (s : State) (f : SecSt → SecSt) : (s.onSec f).sec = f s.sec := rfl
@[simp] theorem State.onSec_trc (s : State) (f : SecSt → SecSt) : (s.onSec f).trc = s.trc := rfl
@[simp] theorem State.onSec_ing (s : State) (f : SecSt → SecSt) : (s.onSec f).ing = s.ing := rfl
@[simp] theorem State.onSec_eng (s : State) (f : SecSt → SecSt) : (s.onSec f).eng = s.eng := rfl
@[simp] theorem State.onSec_time (s : State) (f : SecSt → SecSt) : (s.onSec f).time = s.time := rfl
@[simp] theorem State.onSec_safe (s : State) (f : SecSt → SecSt) : (s.onSec f).safe = s.safe := rfl
@[simp] theorem State.onSec_gauge (s : State) (f : SecSt → SecSt) : (s.onSec f).gauge = s.gauge := rfl
@[simp] theorem State.onSec_pwr (s : State) (f : SecSt → SecSt) : (s.onSec f).pwr = s.pwr := rfl
@[simp] theorem State.onSec_jtag (s : State) (f : SecSt → SecSt) : (s.onSec f).jtag = s.jtag := rfl
@[simp] theorem State.onSec_now (s : State) (f : SecSt → SecSt) : (s.onSec f).now = s.now := rfl
@[simp] theorem State.onSec_fresh (s : State) (f : SecSt → SecSt) : (s.onSec f).fresh = s.fresh := rfl
@[simp] theorem State.onSec_pending (s : State) (f : SecSt → SecSt) : (s.onSec f).pending = s.pending := rfl

/-! ### onTrc -/

@[simp] theorem State.onTrc_regs (s : State) (f : TraceSt → TraceSt) : (s.onTrc f).regs = s.regs := rfl
@[simp] theorem State.onTrc_hold (s : State) (f : TraceSt → TraceSt) : (s.onTrc f).hold = s.hold := rfl
@[simp] theorem State.onTrc_lastRead (s : State) (f : TraceSt → TraceSt) : (s.onTrc f).lastRead = s.lastRead := rfl
@[simp] theorem State.onTrc_scratch (s : State) (f : TraceSt → TraceSt) : (s.onTrc f).scratch = s.scratch := rfl
@[simp] theorem State.onTrc_ue (s : State) (f : TraceSt → TraceSt) : (s.onTrc f).ue = s.ue := rfl
@[simp] theorem State.onTrc_ce (s : State) (f : TraceSt → TraceSt) : (s.onTrc f).ce = s.ce := rfl
@[simp] theorem State.onTrc_tableMem (s : State) (f : TraceSt → TraceSt) : (s.onTrc f).tableMem = s.tableMem := rfl
@[simp] theorem State.onTrc_cores (s : State) (f : TraceSt → TraceSt) : (s.onTrc f).cores = s.cores := rfl
@[simp] theorem State.onTrc_words (s : State) (f : TraceSt → TraceSt) : (s.onTrc f).words = s.words := rfl
@[simp] theorem State.onTrc_noc (s : State) (f : TraceSt → TraceSt) : (s.onTrc f).noc = s.noc := rfl
@[simp] theorem State.onTrc_parts (s : State) (f : TraceSt → TraceSt) : (s.onTrc f).parts = s.parts := rfl
@[simp] theorem State.onTrc_migr (s : State) (f : TraceSt → TraceSt) : (s.onTrc f).migr = s.migr := rfl
@[simp] theorem State.onTrc_host (s : State) (f : TraceSt → TraceSt) : (s.onTrc f).host = s.host := rfl
@[simp] theorem State.onTrc_tests (s : State) (f : TraceSt → TraceSt) : (s.onTrc f).tests = s.tests := rfl
@[simp] theorem State.onTrc_sec (s : State) (f : TraceSt → TraceSt) : (s.onTrc f).sec = s.sec := rfl
@[simp] theorem State.onTrc_trc (s : State) (f : TraceSt → TraceSt) : (s.onTrc f).trc = f s.trc := rfl
@[simp] theorem State.onTrc_ing (s : State) (f : TraceSt → TraceSt) : (s.onTrc f).ing = s.ing := rfl
@[simp] theorem State.onTrc_eng (s : State) (f : TraceSt → TraceSt) : (s.onTrc f).eng = s.eng := rfl
@[simp] theorem State.onTrc_time (s : State) (f : TraceSt → TraceSt) : (s.onTrc f).time = s.time := rfl
@[simp] theorem State.onTrc_safe (s : State) (f : TraceSt → TraceSt) : (s.onTrc f).safe = s.safe := rfl
@[simp] theorem State.onTrc_gauge (s : State) (f : TraceSt → TraceSt) : (s.onTrc f).gauge = s.gauge := rfl
@[simp] theorem State.onTrc_pwr (s : State) (f : TraceSt → TraceSt) : (s.onTrc f).pwr = s.pwr := rfl
@[simp] theorem State.onTrc_jtag (s : State) (f : TraceSt → TraceSt) : (s.onTrc f).jtag = s.jtag := rfl
@[simp] theorem State.onTrc_now (s : State) (f : TraceSt → TraceSt) : (s.onTrc f).now = s.now := rfl
@[simp] theorem State.onTrc_fresh (s : State) (f : TraceSt → TraceSt) : (s.onTrc f).fresh = s.fresh := rfl
@[simp] theorem State.onTrc_pending (s : State) (f : TraceSt → TraceSt) : (s.onTrc f).pending = s.pending := rfl

/-! ### onLe -/

@[simp] theorem State.onLe_regs (s : State) (f : LeSt → LeSt) : (s.onLe f).regs = s.regs := rfl
@[simp] theorem State.onLe_hold (s : State) (f : LeSt → LeSt) : (s.onLe f).hold = s.hold := rfl
@[simp] theorem State.onLe_lastRead (s : State) (f : LeSt → LeSt) : (s.onLe f).lastRead = s.lastRead := rfl
@[simp] theorem State.onLe_scratch (s : State) (f : LeSt → LeSt) : (s.onLe f).scratch = s.scratch := rfl
@[simp] theorem State.onLe_ue (s : State) (f : LeSt → LeSt) : (s.onLe f).ue = s.ue := rfl
@[simp] theorem State.onLe_ce (s : State) (f : LeSt → LeSt) : (s.onLe f).ce = s.ce := rfl
@[simp] theorem State.onLe_tableMem (s : State) (f : LeSt → LeSt) : (s.onLe f).tableMem = s.tableMem := rfl
@[simp] theorem State.onLe_cores (s : State) (f : LeSt → LeSt) : (s.onLe f).cores = s.cores := rfl
@[simp] theorem State.onLe_words (s : State) (f : LeSt → LeSt) : (s.onLe f).words = s.words := rfl
@[simp] theorem State.onLe_noc (s : State) (f : LeSt → LeSt) : (s.onLe f).noc = s.noc := rfl
@[simp] theorem State.onLe_parts (s : State) (f : LeSt → LeSt) : (s.onLe f).parts = s.parts := rfl
@[simp] theorem State.onLe_migr (s : State) (f : LeSt → LeSt) : (s.onLe f).migr = s.migr := rfl
@[simp] theorem State.onLe_host (s : State) (f : LeSt → LeSt) : (s.onLe f).host = s.host := rfl
@[simp] theorem State.onLe_tests (s : State) (f : LeSt → LeSt) : (s.onLe f).tests = s.tests := rfl
@[simp] theorem State.onLe_sec (s : State) (f : LeSt → LeSt) : (s.onLe f).sec = s.sec := rfl
@[simp] theorem State.onLe_trc (s : State) (f : LeSt → LeSt) : (s.onLe f).trc = s.trc := rfl
@[simp] theorem State.onLe_ing (s : State) (f : LeSt → LeSt) : (s.onLe f).ing = s.ing := rfl
@[simp] theorem State.onLe_eng (s : State) (f : LeSt → LeSt) : (s.onLe f).eng = f s.eng := rfl
@[simp] theorem State.onLe_time (s : State) (f : LeSt → LeSt) : (s.onLe f).time = s.time := rfl
@[simp] theorem State.onLe_safe (s : State) (f : LeSt → LeSt) : (s.onLe f).safe = s.safe := rfl
@[simp] theorem State.onLe_gauge (s : State) (f : LeSt → LeSt) : (s.onLe f).gauge = s.gauge := rfl
@[simp] theorem State.onLe_pwr (s : State) (f : LeSt → LeSt) : (s.onLe f).pwr = s.pwr := rfl
@[simp] theorem State.onLe_jtag (s : State) (f : LeSt → LeSt) : (s.onLe f).jtag = s.jtag := rfl
@[simp] theorem State.onLe_now (s : State) (f : LeSt → LeSt) : (s.onLe f).now = s.now := rfl
@[simp] theorem State.onLe_fresh (s : State) (f : LeSt → LeSt) : (s.onLe f).fresh = s.fresh := rfl
@[simp] theorem State.onLe_pending (s : State) (f : LeSt → LeSt) : (s.onLe f).pending = s.pending := rfl

/-! ### onTime -/

@[simp] theorem State.onTime_regs (s : State) (f : TimeSt → TimeSt) : (s.onTime f).regs = s.regs := rfl
@[simp] theorem State.onTime_hold (s : State) (f : TimeSt → TimeSt) : (s.onTime f).hold = s.hold := rfl
@[simp] theorem State.onTime_lastRead (s : State) (f : TimeSt → TimeSt) : (s.onTime f).lastRead = s.lastRead := rfl
@[simp] theorem State.onTime_scratch (s : State) (f : TimeSt → TimeSt) : (s.onTime f).scratch = s.scratch := rfl
@[simp] theorem State.onTime_ue (s : State) (f : TimeSt → TimeSt) : (s.onTime f).ue = s.ue := rfl
@[simp] theorem State.onTime_ce (s : State) (f : TimeSt → TimeSt) : (s.onTime f).ce = s.ce := rfl
@[simp] theorem State.onTime_tableMem (s : State) (f : TimeSt → TimeSt) : (s.onTime f).tableMem = s.tableMem := rfl
@[simp] theorem State.onTime_cores (s : State) (f : TimeSt → TimeSt) : (s.onTime f).cores = s.cores := rfl
@[simp] theorem State.onTime_words (s : State) (f : TimeSt → TimeSt) : (s.onTime f).words = s.words := rfl
@[simp] theorem State.onTime_noc (s : State) (f : TimeSt → TimeSt) : (s.onTime f).noc = s.noc := rfl
@[simp] theorem State.onTime_parts (s : State) (f : TimeSt → TimeSt) : (s.onTime f).parts = s.parts := rfl
@[simp] theorem State.onTime_migr (s : State) (f : TimeSt → TimeSt) : (s.onTime f).migr = s.migr := rfl
@[simp] theorem State.onTime_host (s : State) (f : TimeSt → TimeSt) : (s.onTime f).host = s.host := rfl
@[simp] theorem State.onTime_tests (s : State) (f : TimeSt → TimeSt) : (s.onTime f).tests = s.tests := rfl
@[simp] theorem State.onTime_sec (s : State) (f : TimeSt → TimeSt) : (s.onTime f).sec = s.sec := rfl
@[simp] theorem State.onTime_trc (s : State) (f : TimeSt → TimeSt) : (s.onTime f).trc = s.trc := rfl
@[simp] theorem State.onTime_ing (s : State) (f : TimeSt → TimeSt) : (s.onTime f).ing = s.ing := rfl
@[simp] theorem State.onTime_eng (s : State) (f : TimeSt → TimeSt) : (s.onTime f).eng = s.eng := rfl
@[simp] theorem State.onTime_time (s : State) (f : TimeSt → TimeSt) : (s.onTime f).time = f s.time := rfl
@[simp] theorem State.onTime_safe (s : State) (f : TimeSt → TimeSt) : (s.onTime f).safe = s.safe := rfl
@[simp] theorem State.onTime_gauge (s : State) (f : TimeSt → TimeSt) : (s.onTime f).gauge = s.gauge := rfl
@[simp] theorem State.onTime_pwr (s : State) (f : TimeSt → TimeSt) : (s.onTime f).pwr = s.pwr := rfl
@[simp] theorem State.onTime_jtag (s : State) (f : TimeSt → TimeSt) : (s.onTime f).jtag = s.jtag := rfl
@[simp] theorem State.onTime_now (s : State) (f : TimeSt → TimeSt) : (s.onTime f).now = s.now := rfl
@[simp] theorem State.onTime_fresh (s : State) (f : TimeSt → TimeSt) : (s.onTime f).fresh = s.fresh := rfl
@[simp] theorem State.onTime_pending (s : State) (f : TimeSt → TimeSt) : (s.onTime f).pending = s.pending := rfl

/-! ### onSafe -/

@[simp] theorem State.onSafe_regs (s : State) (f : SafeSt → SafeSt) : (s.onSafe f).regs = s.regs := rfl
@[simp] theorem State.onSafe_hold (s : State) (f : SafeSt → SafeSt) : (s.onSafe f).hold = s.hold := rfl
@[simp] theorem State.onSafe_lastRead (s : State) (f : SafeSt → SafeSt) : (s.onSafe f).lastRead = s.lastRead := rfl
@[simp] theorem State.onSafe_scratch (s : State) (f : SafeSt → SafeSt) : (s.onSafe f).scratch = s.scratch := rfl
@[simp] theorem State.onSafe_ue (s : State) (f : SafeSt → SafeSt) : (s.onSafe f).ue = s.ue := rfl
@[simp] theorem State.onSafe_ce (s : State) (f : SafeSt → SafeSt) : (s.onSafe f).ce = s.ce := rfl
@[simp] theorem State.onSafe_tableMem (s : State) (f : SafeSt → SafeSt) : (s.onSafe f).tableMem = s.tableMem := rfl
@[simp] theorem State.onSafe_cores (s : State) (f : SafeSt → SafeSt) : (s.onSafe f).cores = s.cores := rfl
@[simp] theorem State.onSafe_words (s : State) (f : SafeSt → SafeSt) : (s.onSafe f).words = s.words := rfl
@[simp] theorem State.onSafe_noc (s : State) (f : SafeSt → SafeSt) : (s.onSafe f).noc = s.noc := rfl
@[simp] theorem State.onSafe_parts (s : State) (f : SafeSt → SafeSt) : (s.onSafe f).parts = s.parts := rfl
@[simp] theorem State.onSafe_migr (s : State) (f : SafeSt → SafeSt) : (s.onSafe f).migr = s.migr := rfl
@[simp] theorem State.onSafe_host (s : State) (f : SafeSt → SafeSt) : (s.onSafe f).host = s.host := rfl
@[simp] theorem State.onSafe_tests (s : State) (f : SafeSt → SafeSt) : (s.onSafe f).tests = s.tests := rfl
@[simp] theorem State.onSafe_sec (s : State) (f : SafeSt → SafeSt) : (s.onSafe f).sec = s.sec := rfl
@[simp] theorem State.onSafe_trc (s : State) (f : SafeSt → SafeSt) : (s.onSafe f).trc = s.trc := rfl
@[simp] theorem State.onSafe_ing (s : State) (f : SafeSt → SafeSt) : (s.onSafe f).ing = s.ing := rfl
@[simp] theorem State.onSafe_eng (s : State) (f : SafeSt → SafeSt) : (s.onSafe f).eng = s.eng := rfl
@[simp] theorem State.onSafe_time (s : State) (f : SafeSt → SafeSt) : (s.onSafe f).time = s.time := rfl
@[simp] theorem State.onSafe_safe (s : State) (f : SafeSt → SafeSt) : (s.onSafe f).safe = f s.safe := rfl
@[simp] theorem State.onSafe_gauge (s : State) (f : SafeSt → SafeSt) : (s.onSafe f).gauge = s.gauge := rfl
@[simp] theorem State.onSafe_pwr (s : State) (f : SafeSt → SafeSt) : (s.onSafe f).pwr = s.pwr := rfl
@[simp] theorem State.onSafe_jtag (s : State) (f : SafeSt → SafeSt) : (s.onSafe f).jtag = s.jtag := rfl
@[simp] theorem State.onSafe_now (s : State) (f : SafeSt → SafeSt) : (s.onSafe f).now = s.now := rfl
@[simp] theorem State.onSafe_fresh (s : State) (f : SafeSt → SafeSt) : (s.onSafe f).fresh = s.fresh := rfl
@[simp] theorem State.onSafe_pending (s : State) (f : SafeSt → SafeSt) : (s.onSafe f).pending = s.pending := rfl

/-! ### onGauge -/

@[simp] theorem State.onGauge_regs (s : State) (f : GaugeSt → GaugeSt) : (s.onGauge f).regs = s.regs := rfl
@[simp] theorem State.onGauge_hold (s : State) (f : GaugeSt → GaugeSt) : (s.onGauge f).hold = s.hold := rfl
@[simp] theorem State.onGauge_lastRead (s : State) (f : GaugeSt → GaugeSt) : (s.onGauge f).lastRead = s.lastRead := rfl
@[simp] theorem State.onGauge_scratch (s : State) (f : GaugeSt → GaugeSt) : (s.onGauge f).scratch = s.scratch := rfl
@[simp] theorem State.onGauge_ue (s : State) (f : GaugeSt → GaugeSt) : (s.onGauge f).ue = s.ue := rfl
@[simp] theorem State.onGauge_ce (s : State) (f : GaugeSt → GaugeSt) : (s.onGauge f).ce = s.ce := rfl
@[simp] theorem State.onGauge_tableMem (s : State) (f : GaugeSt → GaugeSt) : (s.onGauge f).tableMem = s.tableMem := rfl
@[simp] theorem State.onGauge_cores (s : State) (f : GaugeSt → GaugeSt) : (s.onGauge f).cores = s.cores := rfl
@[simp] theorem State.onGauge_words (s : State) (f : GaugeSt → GaugeSt) : (s.onGauge f).words = s.words := rfl
@[simp] theorem State.onGauge_noc (s : State) (f : GaugeSt → GaugeSt) : (s.onGauge f).noc = s.noc := rfl
@[simp] theorem State.onGauge_parts (s : State) (f : GaugeSt → GaugeSt) : (s.onGauge f).parts = s.parts := rfl
@[simp] theorem State.onGauge_migr (s : State) (f : GaugeSt → GaugeSt) : (s.onGauge f).migr = s.migr := rfl
@[simp] theorem State.onGauge_host (s : State) (f : GaugeSt → GaugeSt) : (s.onGauge f).host = s.host := rfl
@[simp] theorem State.onGauge_tests (s : State) (f : GaugeSt → GaugeSt) : (s.onGauge f).tests = s.tests := rfl
@[simp] theorem State.onGauge_sec (s : State) (f : GaugeSt → GaugeSt) : (s.onGauge f).sec = s.sec := rfl
@[simp] theorem State.onGauge_trc (s : State) (f : GaugeSt → GaugeSt) : (s.onGauge f).trc = s.trc := rfl
@[simp] theorem State.onGauge_ing (s : State) (f : GaugeSt → GaugeSt) : (s.onGauge f).ing = s.ing := rfl
@[simp] theorem State.onGauge_eng (s : State) (f : GaugeSt → GaugeSt) : (s.onGauge f).eng = s.eng := rfl
@[simp] theorem State.onGauge_time (s : State) (f : GaugeSt → GaugeSt) : (s.onGauge f).time = s.time := rfl
@[simp] theorem State.onGauge_safe (s : State) (f : GaugeSt → GaugeSt) : (s.onGauge f).safe = s.safe := rfl
@[simp] theorem State.onGauge_gauge (s : State) (f : GaugeSt → GaugeSt) : (s.onGauge f).gauge = f s.gauge := rfl
@[simp] theorem State.onGauge_pwr (s : State) (f : GaugeSt → GaugeSt) : (s.onGauge f).pwr = s.pwr := rfl
@[simp] theorem State.onGauge_jtag (s : State) (f : GaugeSt → GaugeSt) : (s.onGauge f).jtag = s.jtag := rfl
@[simp] theorem State.onGauge_now (s : State) (f : GaugeSt → GaugeSt) : (s.onGauge f).now = s.now := rfl
@[simp] theorem State.onGauge_fresh (s : State) (f : GaugeSt → GaugeSt) : (s.onGauge f).fresh = s.fresh := rfl
@[simp] theorem State.onGauge_pending (s : State) (f : GaugeSt → GaugeSt) : (s.onGauge f).pending = s.pending := rfl

/-! ### onPwr -/

@[simp] theorem State.onPwr_regs (s : State) (f : PwrSt → PwrSt) : (s.onPwr f).regs = s.regs := rfl
@[simp] theorem State.onPwr_hold (s : State) (f : PwrSt → PwrSt) : (s.onPwr f).hold = s.hold := rfl
@[simp] theorem State.onPwr_lastRead (s : State) (f : PwrSt → PwrSt) : (s.onPwr f).lastRead = s.lastRead := rfl
@[simp] theorem State.onPwr_scratch (s : State) (f : PwrSt → PwrSt) : (s.onPwr f).scratch = s.scratch := rfl
@[simp] theorem State.onPwr_ue (s : State) (f : PwrSt → PwrSt) : (s.onPwr f).ue = s.ue := rfl
@[simp] theorem State.onPwr_ce (s : State) (f : PwrSt → PwrSt) : (s.onPwr f).ce = s.ce := rfl
@[simp] theorem State.onPwr_tableMem (s : State) (f : PwrSt → PwrSt) : (s.onPwr f).tableMem = s.tableMem := rfl
@[simp] theorem State.onPwr_cores (s : State) (f : PwrSt → PwrSt) : (s.onPwr f).cores = s.cores := rfl
@[simp] theorem State.onPwr_words (s : State) (f : PwrSt → PwrSt) : (s.onPwr f).words = s.words := rfl
@[simp] theorem State.onPwr_noc (s : State) (f : PwrSt → PwrSt) : (s.onPwr f).noc = s.noc := rfl
@[simp] theorem State.onPwr_parts (s : State) (f : PwrSt → PwrSt) : (s.onPwr f).parts = s.parts := rfl
@[simp] theorem State.onPwr_migr (s : State) (f : PwrSt → PwrSt) : (s.onPwr f).migr = s.migr := rfl
@[simp] theorem State.onPwr_host (s : State) (f : PwrSt → PwrSt) : (s.onPwr f).host = s.host := rfl
@[simp] theorem State.onPwr_tests (s : State) (f : PwrSt → PwrSt) : (s.onPwr f).tests = s.tests := rfl
@[simp] theorem State.onPwr_sec (s : State) (f : PwrSt → PwrSt) : (s.onPwr f).sec = s.sec := rfl
@[simp] theorem State.onPwr_trc (s : State) (f : PwrSt → PwrSt) : (s.onPwr f).trc = s.trc := rfl
@[simp] theorem State.onPwr_ing (s : State) (f : PwrSt → PwrSt) : (s.onPwr f).ing = s.ing := rfl
@[simp] theorem State.onPwr_eng (s : State) (f : PwrSt → PwrSt) : (s.onPwr f).eng = s.eng := rfl
@[simp] theorem State.onPwr_time (s : State) (f : PwrSt → PwrSt) : (s.onPwr f).time = s.time := rfl
@[simp] theorem State.onPwr_safe (s : State) (f : PwrSt → PwrSt) : (s.onPwr f).safe = s.safe := rfl
@[simp] theorem State.onPwr_gauge (s : State) (f : PwrSt → PwrSt) : (s.onPwr f).gauge = s.gauge := rfl
@[simp] theorem State.onPwr_pwr (s : State) (f : PwrSt → PwrSt) : (s.onPwr f).pwr = f s.pwr := rfl
@[simp] theorem State.onPwr_jtag (s : State) (f : PwrSt → PwrSt) : (s.onPwr f).jtag = s.jtag := rfl
@[simp] theorem State.onPwr_now (s : State) (f : PwrSt → PwrSt) : (s.onPwr f).now = s.now := rfl
@[simp] theorem State.onPwr_fresh (s : State) (f : PwrSt → PwrSt) : (s.onPwr f).fresh = s.fresh := rfl
@[simp] theorem State.onPwr_pending (s : State) (f : PwrSt → PwrSt) : (s.onPwr f).pending = s.pending := rfl

/-! ### onJtag -/

@[simp] theorem State.onJtag_regs (s : State) (f : JtagSt → JtagSt) : (s.onJtag f).regs = s.regs := rfl
@[simp] theorem State.onJtag_hold (s : State) (f : JtagSt → JtagSt) : (s.onJtag f).hold = s.hold := rfl
@[simp] theorem State.onJtag_lastRead (s : State) (f : JtagSt → JtagSt) : (s.onJtag f).lastRead = s.lastRead := rfl
@[simp] theorem State.onJtag_scratch (s : State) (f : JtagSt → JtagSt) : (s.onJtag f).scratch = s.scratch := rfl
@[simp] theorem State.onJtag_ue (s : State) (f : JtagSt → JtagSt) : (s.onJtag f).ue = s.ue := rfl
@[simp] theorem State.onJtag_ce (s : State) (f : JtagSt → JtagSt) : (s.onJtag f).ce = s.ce := rfl
@[simp] theorem State.onJtag_tableMem (s : State) (f : JtagSt → JtagSt) : (s.onJtag f).tableMem = s.tableMem := rfl
@[simp] theorem State.onJtag_cores (s : State) (f : JtagSt → JtagSt) : (s.onJtag f).cores = s.cores := rfl
@[simp] theorem State.onJtag_words (s : State) (f : JtagSt → JtagSt) : (s.onJtag f).words = s.words := rfl
@[simp] theorem State.onJtag_noc (s : State) (f : JtagSt → JtagSt) : (s.onJtag f).noc = s.noc := rfl
@[simp] theorem State.onJtag_parts (s : State) (f : JtagSt → JtagSt) : (s.onJtag f).parts = s.parts := rfl
@[simp] theorem State.onJtag_migr (s : State) (f : JtagSt → JtagSt) : (s.onJtag f).migr = s.migr := rfl
@[simp] theorem State.onJtag_host (s : State) (f : JtagSt → JtagSt) : (s.onJtag f).host = s.host := rfl
@[simp] theorem State.onJtag_tests (s : State) (f : JtagSt → JtagSt) : (s.onJtag f).tests = s.tests := rfl
@[simp] theorem State.onJtag_sec (s : State) (f : JtagSt → JtagSt) : (s.onJtag f).sec = s.sec := rfl
@[simp] theorem State.onJtag_trc (s : State) (f : JtagSt → JtagSt) : (s.onJtag f).trc = s.trc := rfl
@[simp] theorem State.onJtag_ing (s : State) (f : JtagSt → JtagSt) : (s.onJtag f).ing = s.ing := rfl
@[simp] theorem State.onJtag_eng (s : State) (f : JtagSt → JtagSt) : (s.onJtag f).eng = s.eng := rfl
@[simp] theorem State.onJtag_time (s : State) (f : JtagSt → JtagSt) : (s.onJtag f).time = s.time := rfl
@[simp] theorem State.onJtag_safe (s : State) (f : JtagSt → JtagSt) : (s.onJtag f).safe = s.safe := rfl
@[simp] theorem State.onJtag_gauge (s : State) (f : JtagSt → JtagSt) : (s.onJtag f).gauge = s.gauge := rfl
@[simp] theorem State.onJtag_pwr (s : State) (f : JtagSt → JtagSt) : (s.onJtag f).pwr = s.pwr := rfl
@[simp] theorem State.onJtag_jtag (s : State) (f : JtagSt → JtagSt) : (s.onJtag f).jtag = f s.jtag := rfl
@[simp] theorem State.onJtag_now (s : State) (f : JtagSt → JtagSt) : (s.onJtag f).now = s.now := rfl
@[simp] theorem State.onJtag_fresh (s : State) (f : JtagSt → JtagSt) : (s.onJtag f).fresh = s.fresh := rfl
@[simp] theorem State.onJtag_pending (s : State) (f : JtagSt → JtagSt) : (s.onJtag f).pending = s.pending := rfl

/-! ### rest -/

@[simp] theorem State.rest_regs (s : State) (q : List Instr) : (s.rest q).regs = s.regs := rfl
@[simp] theorem State.rest_hold (s : State) (q : List Instr) : (s.rest q).hold = s.hold := rfl
@[simp] theorem State.rest_lastRead (s : State) (q : List Instr) : (s.rest q).lastRead = s.lastRead := rfl
@[simp] theorem State.rest_scratch (s : State) (q : List Instr) : (s.rest q).scratch = s.scratch := rfl
@[simp] theorem State.rest_ue (s : State) (q : List Instr) : (s.rest q).ue = s.ue := rfl
@[simp] theorem State.rest_ce (s : State) (q : List Instr) : (s.rest q).ce = s.ce := rfl
@[simp] theorem State.rest_tableMem (s : State) (q : List Instr) : (s.rest q).tableMem = s.tableMem := rfl
@[simp] theorem State.rest_cores (s : State) (q : List Instr) : (s.rest q).cores = s.cores := rfl
@[simp] theorem State.rest_words (s : State) (q : List Instr) : (s.rest q).words = s.words := rfl
@[simp] theorem State.rest_noc (s : State) (q : List Instr) : (s.rest q).noc = s.noc := rfl
@[simp] theorem State.rest_parts (s : State) (q : List Instr) : (s.rest q).parts = s.parts := rfl
@[simp] theorem State.rest_migr (s : State) (q : List Instr) : (s.rest q).migr = s.migr := rfl
@[simp] theorem State.rest_host (s : State) (q : List Instr) : (s.rest q).host = s.host := rfl
@[simp] theorem State.rest_tests (s : State) (q : List Instr) : (s.rest q).tests = s.tests := rfl
@[simp] theorem State.rest_sec (s : State) (q : List Instr) : (s.rest q).sec = s.sec := rfl
@[simp] theorem State.rest_trc (s : State) (q : List Instr) : (s.rest q).trc = s.trc := rfl
@[simp] theorem State.rest_ing (s : State) (q : List Instr) : (s.rest q).ing = s.ing := rfl
@[simp] theorem State.rest_eng (s : State) (q : List Instr) : (s.rest q).eng = s.eng := rfl
@[simp] theorem State.rest_time (s : State) (q : List Instr) : (s.rest q).time = s.time := rfl
@[simp] theorem State.rest_safe (s : State) (q : List Instr) : (s.rest q).safe = s.safe := rfl
@[simp] theorem State.rest_gauge (s : State) (q : List Instr) : (s.rest q).gauge = s.gauge := rfl
@[simp] theorem State.rest_pwr (s : State) (q : List Instr) : (s.rest q).pwr = s.pwr := rfl
@[simp] theorem State.rest_jtag (s : State) (q : List Instr) : (s.rest q).jtag = s.jtag := rfl
@[simp] theorem State.rest_now (s : State) (q : List Instr) : (s.rest q).now = s.now := rfl
@[simp] theorem State.rest_fresh (s : State) (q : List Instr) : (s.rest q).fresh = s.fresh := rfl
@[simp] theorem State.rest_pending (s : State) (q : List Instr) : (s.rest q).pending = q := rfl

/-! ### push -/

@[simp] theorem State.push_regs (s : State) (c : Instr) : (s.push c).regs = s.regs := rfl
@[simp] theorem State.push_hold (s : State) (c : Instr) : (s.push c).hold = s.hold := rfl
@[simp] theorem State.push_lastRead (s : State) (c : Instr) : (s.push c).lastRead = s.lastRead := rfl
@[simp] theorem State.push_scratch (s : State) (c : Instr) : (s.push c).scratch = s.scratch := rfl
@[simp] theorem State.push_ue (s : State) (c : Instr) : (s.push c).ue = s.ue := rfl
@[simp] theorem State.push_ce (s : State) (c : Instr) : (s.push c).ce = s.ce := rfl
@[simp] theorem State.push_tableMem (s : State) (c : Instr) : (s.push c).tableMem = s.tableMem := rfl
@[simp] theorem State.push_cores (s : State) (c : Instr) : (s.push c).cores = s.cores := rfl
@[simp] theorem State.push_words (s : State) (c : Instr) : (s.push c).words = s.words := rfl
@[simp] theorem State.push_noc (s : State) (c : Instr) : (s.push c).noc = s.noc := rfl
@[simp] theorem State.push_parts (s : State) (c : Instr) : (s.push c).parts = s.parts := rfl
@[simp] theorem State.push_migr (s : State) (c : Instr) : (s.push c).migr = s.migr := rfl
@[simp] theorem State.push_host (s : State) (c : Instr) : (s.push c).host = s.host := rfl
@[simp] theorem State.push_tests (s : State) (c : Instr) : (s.push c).tests = s.tests := rfl
@[simp] theorem State.push_sec (s : State) (c : Instr) : (s.push c).sec = s.sec := rfl
@[simp] theorem State.push_trc (s : State) (c : Instr) : (s.push c).trc = s.trc := rfl
@[simp] theorem State.push_ing (s : State) (c : Instr) : (s.push c).ing = s.ing := rfl
@[simp] theorem State.push_eng (s : State) (c : Instr) : (s.push c).eng = s.eng := rfl
@[simp] theorem State.push_time (s : State) (c : Instr) : (s.push c).time = s.time := rfl
@[simp] theorem State.push_safe (s : State) (c : Instr) : (s.push c).safe = s.safe := rfl
@[simp] theorem State.push_gauge (s : State) (c : Instr) : (s.push c).gauge = s.gauge := rfl
@[simp] theorem State.push_pwr (s : State) (c : Instr) : (s.push c).pwr = s.pwr := rfl
@[simp] theorem State.push_jtag (s : State) (c : Instr) : (s.push c).jtag = s.jtag := rfl
@[simp] theorem State.push_now (s : State) (c : Instr) : (s.push c).now = s.now := rfl
@[simp] theorem State.push_fresh (s : State) (c : Instr) : (s.push c).fresh = s.fresh := rfl
@[simp] theorem State.push_pending (s : State) (c : Instr) : (s.push c).pending = c :: s.pending := rfl

end Sys2Proof.Machine
end

