-- ==== Sys2Proof/Laws/Core.lean ====
section
/-! SUPPORT. Sys2Proof/Laws/Core.lean: cores, slots and banks after an update; what counting and prefetching can do; what a
sequencer instruction does once it issues. -/

namespace Sys2Proof.Machine

/-! ### Cores and slots -/

theorem State.core_setCore (s : State) (c d : Nat) (x : CoreSt) : (s.setCore c x).core d = if d = c then x else s.core d :=
  FMap.get_set _ _ _ _ _

@[simp] theorem State.core_setCore_self (s : State) (c : Nat) (x : CoreSt) : (s.setCore c x).core c = x := by simp [s.core_setCore]

theorem State.core_onCore (s : State) (c d : Nat) (f : CoreSt → CoreSt) :
    (s.onCore c f).core d = if d = c then f (s.core c) else s.core d := s.core_setCore c d _

@[simp] theorem State.core_onCore_self (s : State) (c : Nat) (f : CoreSt → CoreSt) : (s.onCore c f).core c = f (s.core c) := by
  simp [s.core_onCore]

@[simp] theorem State.core_wr (s : State) (a : Nat) (v : Word) (d : Nat) : (s.wr a v).core d = s.core d := rfl

@[simp] theorem State.rd_onCore (s : State) (c : Nat) (f : CoreSt → CoreSt) (a : Nat) : (s.onCore c f).rd a = s.rd a := rfl

@[simp] theorem State.rd_onSlot (s : State) (c k : Nat) (f : Slot → Slot) (a : Nat) : (s.onSlot c k f).rd a = s.rd a := rfl

theorem CoreSt.slot_setSlot (x : CoreSt) (k j : Nat) (b : Slot) : (x.setSlot k b).slot j = if j = k then b else x.slot j :=
  FMap.get_set _ _ _ _ _

/-- A slot after an update of a slot. -/
theorem State.slot_onSlot (s : State) (c k d j : Nat) (f : Slot → Slot) :
    (s.onSlot c k f).slot d j = if d = c ∧ j = k then f (s.slot c k) else s.slot d j := by
  unfold State.onSlot State.slot
  rw [s.core_onCore]
  by_cases hd : d = c
  · subst hd
    simp only [↓reduceIte, CoreSt.slot_setSlot, true_and]
  · simp [hd]

@[simp] theorem State.slot_onSlot_self (s : State) (c k : Nat) (f : Slot → Slot) : (s.onSlot c k f).slot c k = f (s.slot c k) := by
  simp [s.slot_onSlot]

theorem State.slot_onSlot_ne (s : State) {c k d j : Nat} (f : Slot → Slot) (h : ¬(d = c ∧ j = k)) :
    (s.onSlot c k f).slot d j = s.slot d j := by simp [s.slot_onSlot, h]

@[simp] theorem State.slot_wr (s : State) (a : Nat) (v : Word) (d j : Nat) : (s.wr a v).slot d j = s.slot d j := rfl

/-- A slot after an update of a core that keeps its banks. -/
theorem State.slot_onCore (s : State) (c d j : Nat) (f : CoreSt → CoreSt) (h : ∀ x, (f x).slots = x.slots) :
    (s.onCore c f).slot d j = s.slot d j := by
  unfold State.slot
  rw [s.core_onCore]
  split
  · subst_vars; unfold CoreSt.slot; rw [h]
  · rfl

/-! ### Banks -/

@[simp] theorem Slot.s_setS_self (b : Slot) (i : Nat) (v : Word) : (b.setS i v).s i = v := FMap.get_set_self _ _ _ _
theorem Slot.s_setS_ne (b : Slot) {i j : Nat} (v : Word) (h : j ≠ i) : (b.setS i v).s j = b.s j := FMap.get_set_ne _ _ _ h
@[simp] theorem Slot.a_setS (b : Slot) (i : Nat) (v : Word) (j : Nat) : (b.setS i v).a j = b.a j := rfl
@[simp] theorem Slot.p_setS (b : Slot) (i : Nat) (v : Word) (j : Nat) : (b.setS i v).p j = b.p j := rfl
@[simp] theorem Slot.a_setA_self (b : Slot) (i : Nat) (v : Word) : (b.setA i v).a i = v := FMap.get_set_self _ _ _ _
theorem Slot.a_setA_ne (b : Slot) {i j : Nat} (v : Word) (h : j ≠ i) : (b.setA i v).a j = b.a j := FMap.get_set_ne _ _ _ h
@[simp] theorem Slot.s_setA (b : Slot) (i : Nat) (v : Word) (j : Nat) : (b.setA i v).s j = b.s j := rfl
@[simp] theorem Slot.p_setA (b : Slot) (i : Nat) (v : Word) (j : Nat) : (b.setA i v).p j = b.p j := rfl
@[simp] theorem Slot.p_zero (b : Slot) : b.p 0 = true := by simp [Slot.p]

@[simp] theorem Slot.s_after (b : Slot) (a i : Nat) : (b.after a).s i = b.s i := rfl
@[simp] theorem Slot.a_after (b : Slot) (a i : Nat) : (b.after a).a i = b.a i := rfl
@[simp] theorem Slot.p_after (b : Slot) (a i : Nat) : (b.after a).p i = b.p i := rfl
@[simp] theorem Slot.pend_after (b : Slot) (a : Nat) : (b.after a).pend = b.pend := rfl
@[simp] theorem Slot.s_jump (b : Slot) (t i : Nat) : (b.jump t).s i = b.s i := rfl
@[simp] theorem Slot.a_jump (b : Slot) (t i : Nat) : (b.jump t).a i = b.a i := rfl
@[simp] theorem Slot.p_jump (b : Slot) (t i : Nat) : (b.jump t).p i = b.p i := rfl
@[simp] theorem Slot.pc_jump (b : Slot) (t : Nat) : (b.jump t).pc = t := rfl

/-- Adding a clear bit sets it and keeps the others. -/
theorem bitOf_add_pow (v i j : Nat) (h : bitOf v i = false) : bitOf (v + 2 ^ i) j = if j = i then true else bitOf v j := by
  unfold bitOf at *
  have hm : v / 2 ^ i % 2 = 0 := by
    have : v / 2 ^ i % 2 ≠ 1 := by simpa using h
    omega
  have hd : (v + 2 ^ i) / 2 ^ i = v / 2 ^ i + 1 := Nat.add_div_right _ (Nat.two_pow_pos _)
  rcases Nat.lt_trichotomy j i with hj | hj | hj
  · rw [if_neg (by omega)]
    have e : 2 ^ i = 2 ^ j * (2 * 2 ^ (i - j - 1)) := by
      rw [← Nat.pow_succ', ← Nat.pow_add]; congr 1; omega
    rw [e, Nat.add_mul_div_left _ _ (Nat.two_pow_pos _), Nat.add_mul_mod_self_left]
  · subst hj
    rw [if_pos rfl, hd]
    simp only [decide_eq_true_eq]
    omega
  · rw [if_neg (by omega)]
    have cut (w : Nat) : w / 2 ^ j = w / 2 ^ i / 2 / 2 ^ (j - i - 1) := by
      rw [Nat.div_div_eq_div_mul, Nat.div_div_eq_div_mul, ← Nat.pow_succ', ← Nat.pow_add]; congr 2; omega
    rw [cut (v + 2 ^ i), cut v, hd, show (v / 2 ^ i + 1) / 2 = v / 2 ^ i / 2 by omega]

/-- One bit of a number set or cleared: the other bits stay. -/
theorem bitOf_setBit (v i j : Nat) (b : Bool) : bitOf (setBit v i b) j = if j = i then b else bitOf v j := by
  unfold setBit
  cases h : bitOf v i <;> cases b
  · simp only [Bool.false_eq_true, ↓reduceIte]
    split
    · subst_vars; exact h
    · rfl
  · simpa using bitOf_add_pow v i j h
  · simp only [↓reduceIte, Bool.false_eq_true]
    have hle : 2 ^ i ≤ v := by
      apply Nat.le_of_not_lt
      intro hc
      rw [bitOf, Nat.div_eq_of_lt hc] at h
      simp at h
    obtain ⟨w, rfl⟩ : ∃ w, v = w + 2 ^ i := ⟨v - 2 ^ i, by omega⟩
    have hw : bitOf w i = false := by
      unfold bitOf at *
      rw [Nat.add_div_right _ (Nat.two_pow_pos _)] at h
      simp only [decide_eq_true_eq, decide_eq_false_iff_not] at *
      omega
    rw [Nat.add_sub_cancel, bitOf_add_pow w i j hw]
    split
    · subst_vars; exact hw
    · rfl
  · simp only [↓reduceIte]
    split
    · subst_vars; exact h
    · rfl

/-- A predicate written reads as written; p0 stays 1. -/
theorem Slot.p_setP (b : Slot) (i j : Nat) (v : Bool) : (b.setP i v).p j = if j = i ∧ i ≠ 0 then v else b.p j := by
  unfold Slot.setP Slot.p
  by_cases hi : i = 0
  · simp [hi]
  · simp only [hi, ↓reduceIte, bitOf_setBit]
    by_cases hj : j = i
    · subst hj; simp [hi]
    · simp [hj]

@[simp] theorem Slot.s_setP (b : Slot) (i : Nat) (v : Bool) (j : Nat) : (b.setP i v).s j = b.s j := by
  unfold Slot.setP; split <;> rfl
@[simp] theorem Slot.a_setP (b : Slot) (i : Nat) (v : Bool) (j : Nat) : (b.setP i v).a j = b.a j := by
  unfold Slot.setP; split <;> rfl

end Sys2Proof.Machine
end

