-- ==== Sys2Proof/Laws/Issue.lean ====
section
/-! SUPPORT. Sys2Proof/Laws/Issue.lean: what counting, ECC checks and prefetching can do, and that an instruction which executes is
its body on the state they leave. -/

namespace Sys2Proof.Machine

/-! ### Counting -/

/-- Counting changes the trace part of the state only. -/
theorem State.count_eq (s : State) (core : Option Nat) (unit : Nat) (own : Option (Nat × Nat)) (code n : Nat) :
    ∃ t, s.count core unit own code n = { s with trc := t } := by
  unfold State.count
  dsimp only
  split
  · exact ⟨s.trc, rfl⟩
  · exact ⟨_, rfl⟩

/-! ### A state that differs by ECC bookkeeping alone -/

/-- What a checked read of a core may change: its ECC registers, its queue of corrected words, its instruction buffer, counters. -/
structure State.Checked (c : Nat) (s t : State) : Prop where
  frame : ∀ k, s.CoreFrame c k t
  slots : ∀ d j, t.slot d j = s.slot d j
  scratch : t.scratch = s.scratch
  marks : t.ue = s.ue ∧ t.ce = s.ce

theorem State.SameUncore.refl (s : State) : s.SameUncore s := by constructor <;> rfl

theorem State.SameUncore.trans {s t u : State} (h : s.SameUncore t) (g : t.SameUncore u) : s.SameUncore u := by
  constructor
  all_goals first
    | exact g.tableMem.trans h.tableMem | exact g.noc.trans h.noc | exact g.parts.trans h.parts | exact g.migr.trans h.migr
    | exact g.host.trans h.host | exact g.tests.trans h.tests | exact g.sec.trans h.sec | exact g.ing.trans h.ing
    | exact g.eng.trans h.eng | exact g.time.trans h.time | exact g.safe.trans h.safe | exact g.gauge.trans h.gauge
    | exact g.pwr.trans h.pwr | exact g.jtag.trans h.jtag | exact g.hold.trans h.hold | exact g.lastRead.trans h.lastRead
    | exact g.now.trans h.now | exact g.pending.trans h.pending

theorem CoreSt.SameUnits.refl (x : CoreSt) : x.SameUnits x := by constructor <;> simp

theorem CoreSt.SameUnits.trans {x y z : CoreSt} (h : x.SameUnits y) (g : y.SameUnits z) : x.SameUnits z := by
  constructor
  · exact g.wait.trans h.wait
  · exact g.stopped.trans h.stopped
  · exact g.ops.trans h.ops
  · exact g.seen.trans h.seen
  · exact g.issues.trans h.issues
  · exact g.posted.trans h.posted
  · exact g.act.trans h.act
  · exact g.shadow.trans h.shadow
  · exact g.acc0.trans h.acc0
  · exact g.acc1.trans h.acc1
  · exact g.cwd.trans h.cwd
  · exact ⟨g.cursor.1.trans h.cursor.1, g.cursor.2.1.trans h.cursor.2.1, g.cursor.2.2.trans h.cursor.2.2⟩
  · exact g.lbufs.trans h.lbufs
  · exact g.toZero.trans h.toZero
  · exact g.held.trans h.held

theorem State.CoreFrame.refl (s : State) (c k : Nat) : s.CoreFrame c k s :=
  ⟨.refl s, fun _ _ => rfl, fun _ _ _ => rfl, fun _ => .refl _⟩

theorem State.CoreFrame.trans {s t u : State} {c k : Nat} (h : s.CoreFrame c k t) (g : t.CoreFrame c k u) : s.CoreFrame c k u :=
  ⟨h.uncore.trans g.uncore, fun a ha => (g.regs a ha).trans (h.regs a ha),
    fun d j hj => (g.slots d j hj).trans (h.slots d j hj), fun d => (h.units d).trans (g.units d)⟩

theorem State.Checked.refl (s : State) (c : Nat) : s.Checked c s := ⟨fun k => .refl s c k, fun _ _ => rfl, rfl, rfl, rfl⟩

theorem State.Checked.trans {s t u : State} {c : Nat} (h : s.Checked c t) (g : t.Checked c u) : s.Checked c u :=
  ⟨fun k => (h.frame k).trans (g.frame k), fun d j => (g.slots d j).trans (h.slots d j), g.scratch.trans h.scratch,
    g.marks.1.trans h.marks.1, g.marks.2.trans h.marks.2⟩

/-- Counting is bookkeeping. -/
theorem State.checked_count (s : State) (c : Nat) (core : Option Nat) (unit : Nat) (own : Option (Nat × Nat)) (code n : Nat) :
    s.Checked c (s.count core unit own code n) := by
  obtain ⟨t, h⟩ := s.count_eq core unit own code n
  rw [h]
  exact ⟨fun _ => ⟨by constructor <;> rfl, fun _ _ => rfl, fun _ _ _ => rfl, fun _ => .refl _⟩, fun _ _ => rfl, rfl, rfl, rfl⟩

/-- A write of an ECC register is bookkeeping. -/
theorem State.checked_wr (s : State) (c a : Nat) (v : Word) (h : a ∈ eccRegs c) : s.Checked c (s.wr a v) :=
  ⟨fun _ => ⟨by constructor <;> rfl, fun b hb => s.rd_wr_ne v (fun e => hb (e ▸ h)), fun _ _ _ => rfl, fun _ => .refl _⟩,
    fun _ _ => rfl, rfl, rfl, rfl⟩

/-- A change of a core's correction queue and instruction buffer is bookkeeping. -/
theorem State.checked_onCore (s : State) (c : Nat) (f : CoreSt → CoreSt) (h1 : (s.core c).SameUnits (f (s.core c)))
    (h2 : (f (s.core c)).slots = (s.core c).slots) : s.Checked c (s.onCore c f) := by
  have hs : ∀ d j, (s.onCore c f).slot d j = s.slot d j := by
    intro d j
    unfold State.slot
    rw [s.core_onCore]
    split
    · subst_vars; unfold CoreSt.slot; rw [h2]
    · rfl
  refine ⟨fun _ => ⟨by constructor <;> rfl, fun _ _ => rfl, fun d j _ => hs d j, fun d => ?_⟩, hs, rfl, rfl, rfl⟩
  rw [s.core_onCore]
  split
  · subst_vars; exact h1
  · exact .refl _

theorem State.checked_noteEcc (s : State) (c p : Nat) (u : Bool) : s.Checked c (s.noteEcc c p u) := by
  unfold State.noteEcc State.incFld State.setFld
  cases u
  all_goals
    simp only [Bool.false_eq_true, ↓reduceIte]
    first
      | refine ((s.checked_wr c _ _ ?_).trans (State.checked_wr _ c _ _ ?_)).trans
          ((State.checked_count _ c _ _ _ _ _).trans (State.checked_wr _ c _ _ ?_)) <;> simp [eccRegs]
      | refine ((s.checked_wr c _ _ ?_).trans (State.checked_wr _ c _ _ ?_)).trans (State.checked_wr _ c _ _ ?_) <;> simp [eccRegs]

theorem State.checked_checkWord (s : State) (c k a : Nat) : s.Checked c (s.checkWord c k a).1 := by
  unfold State.checkWord
  dsimp only
  split
  · exact s.checked_noteEcc c _ _
  · split
    · refine (s.checked_noteEcc c _ _).trans (State.checked_onCore _ c _ ?_ ?_)
      · split
        · constructor <;> simp
        · exact .refl _
      · split <;> rfl
    · exact .refl s c

theorem State.checked_foldl_checkWord (c k : Nat) (l : List Nat) (s : State) :
    s.Checked c (l.foldl (fun s a => (s.checkWord c k a).1) s) := by
  induction l generalizing s with
  | nil => exact .refl s c
  | cons a l ih => exact (s.checked_checkWord c k a).trans (ih _)

theorem State.checked_checkWords (c k : Nat) (l : List Nat) (s : State) : s.Checked c (s.checkWords c k l).1 := by
  induction l generalizing s with
  | nil => exact .refl s c
  | cons a l ih =>
    have h := s.checked_checkWord c k a
    unfold State.checkWords
    split
    · rename_i e; rw [e] at h; exact h
    · rename_i e; rw [e] at h; exact h.trans (ih _)

theorem State.checked_checkRange (s : State) (c k a n : Nat) : s.Checked c (s.checkRange c k a n).1 := by
  unfold State.checkRange
  split
  · exact .refl s c
  · exact State.checked_checkWords c k _ s

/-- Loading a line of the instruction buffer is bookkeeping. -/
theorem State.checked_loadLine (s : State) (c k ln : Nat) : s.Checked c (s.loadLine c k ln) := by
  unfold State.loadLine
  dsimp only
  refine State.Checked.trans (t := if (s.ue.isEmpty && s.ce.isEmpty) = true then s else _) ?_
    (State.checked_onCore _ c _ ?_ rfl)
  · split
    · exact .refl s c
    · exact State.checked_foldl_checkWord c k _ s
  · constructor <;> first | rfl | exact ⟨rfl, rfl, rfl⟩

/-- R64: a prefetch is bookkeeping. -/
theorem State.checked_prefetch (s : State) (c k : Nat) : s.Checked c (s.prefetch c k) := by
  unfold State.prefetch
  dsimp only
  split
  · exact s.checked_loadLine c k _
  · exact .refl s c

/-! ### Updates of one bank -/

/-- An update of a bank stays within the frame of its slot. -/
theorem State.coreFrame_onSlot (s : State) (c k : Nat) (f : Slot → Slot) : s.CoreFrame c k (s.onSlot c k f) := by
  refine ⟨by constructor <;> rfl, fun _ _ => rfl, fun d j h => s.slot_onSlot_ne f h, fun d => ?_⟩
  unfold State.onSlot
  rw [s.core_onCore]
  split
  · subst_vars; constructor <;> first | rfl | exact ⟨rfl, rfl, rfl⟩
  · exact .refl _

theorem Slot.keeps_refl (b : Slot) : b.Keeps none none none b :=
  ⟨fun _ _ => rfl, fun _ _ => rfl, fun _ _ => rfl, rfl, rfl, rfl⟩

theorem Slot.keeps_setS (b : Slot) (i : Nat) (v : Word) : b.Keeps (some i) none none (b.setS i v) :=
  ⟨fun _ h => b.s_setS_ne v (by simpa using h), fun _ _ => rfl, fun _ _ => rfl, rfl, rfl, rfl⟩

theorem Slot.keeps_setA (b : Slot) (i : Nat) (v : Word) : b.Keeps none (some i) none (b.setA i v) :=
  ⟨fun _ _ => rfl, fun _ h => b.a_setA_ne v (by simpa using h), fun _ _ => rfl, rfl, rfl, rfl⟩

theorem Slot.keeps_setP (b : Slot) (i : Nat) (v : Bool) : b.Keeps none none (some i) (b.setP i v) := by
  refine ⟨fun j _ => b.s_setP i v j, fun j _ => b.a_setP i v j, fun j h => ?_, ?_, ?_, ?_⟩
  · rw [b.p_setP, if_neg]
    exact fun e => h (by rw [e.1])
  all_goals unfold Slot.setP; split <;> rfl

theorem Slot.keeps_after {b b' : Slot} {x y z : Option Nat} (h : b.Keeps x y z b') (a : Nat) : b.Keeps x y z (b'.after a) :=
  ⟨h.s, h.a, h.p, h.pend, h.owner, h.refusal⟩

/-! ### Issue -/

theorem State.checked_issued (s : State) (c : Nat) : s.Checked c (s.issued c) :=
  (s.checked_prefetch c _).trans (State.checked_count _ c _ _ _ _ _)

@[simp] theorem State.bank_issued (s : State) (c : Nat) : (s.issued c).slot c (s.active c) = s.bank c :=
  (s.checked_issued c).slots _ _

/-- An instruction that executes is its body on the running slot. -/
theorem seqIssue_executes {c : Nat} {w : Word} {s : State} (h : s.Executes c w) (body : Nat → State → State) :
    seqIssue c w body s = body (s.active c) (s.issued c) := by
  have hb := s.bank_issued c
  have hp : ((s.issued c).slot c (s.active c)).p (guardOf w) = true := hb ▸ h.guard
  have hl : (notLast w && ((s.issued c).slot c (s.active c)).loops.any
      (fun l => l.last == ((s.issued c).slot c (s.active c)).pc)) = false := by
    rw [hb]
    cases hn : notLast w
    · rfl
    · have := h.place hn
      simpa [List.any_eq_false] using this
  have hf : (s.canIssue c && s.fetched c (s.active c) == some w) = true := by
    simp [h.fetches.1, h.fetches.2]
  unfold seqIssue
  simp only [hf, ↓reduceIte, h.legal, Bool.false_eq_true]
  rw [show (s.prefetch c (s.active c)).count (some c) (chanOf c) (s.slot c (s.active c)).owner 2 1 = s.issued c from rfl]
  simp only [hl, Bool.false_eq_true, ↓reduceIte, hp, Bool.not_true]

/-- A register instruction that executes: the bank after it, and that it changes nothing else. -/
theorem regIssue_spec {c : Nat} {w : Word} {s : State} (h : s.Executes c w) (f : Slot → Slot) :
    (regIssue c w f s).slot c (s.active c) = (f (s.bank c)).after (f (s.bank c)).pc
    ∧ s.CoreFrame c (s.active c) (regIssue c w f s) ∧ s.SameScratch (regIssue c w f s) := by
  unfold regIssue
  rw [seqIssue_executes h]
  have hc := s.checked_issued c
  have hb := s.bank_issued c
  generalize s.issued c = u at hc hb
  unfold State.advance
  refine ⟨?_, ((hc.frame _).trans (u.coreFrame_onSlot c _ f)).trans (State.coreFrame_onSlot _ c _ _), fun a => ?_,
    hc.marks.1, hc.marks.2⟩
  · rw [State.slot_onSlot_self, State.slot_onSlot_self, hb]
  · exact congrArg (fun m => Memory.byte m a) hc.scratch

end Sys2Proof.Machine
end

