-- ==== Sys2Proof/Laws/Fault.lean ====
section
/-! SUPPORT. Sys2Proof/Laws/Fault.lean: what recording a fault does (R81-R85). -/

namespace Sys2Proof.Machine

/-! ### Stitch markers and draws leave registers and cores alone -/

/-- A marked record changes drop counters and the trace part only. -/
theorem State.mark_eq (s : State) (r : TraceRec) :
    s.mark r = s ∨ (∃ t, s.mark r = { s with trc := t })
      ∨ ∃ t, s.mark r = { s.incFld (R.CH_TRC_DROP r.coll) F.CH_TRC_DROP_DROPPED 1 with trc := t } := by
  unfold State.mark
  split
  · exact .inl rfl
  split
  · dsimp only
    split
    · exact .inr (.inl ⟨_, rfl⟩)
    · refine .inr (.inr ?_)
      obtain ⟨t, h⟩ := State.count_eq _ none 0 none 0x45 1
      rw [h]
      exact ⟨t, rfl⟩
  · exact .inl rfl

/-- Every register but the drop counters reads as before a mark. -/
theorem State.rd_mark (s : State) (r : TraceRec) (a : Nat) (h : a ≠ R.CH_TRC_DROP r.coll) : (s.mark r).rd a = s.rd a := by
  obtain e | ⟨t, e⟩ | ⟨t, e⟩ := s.mark_eq r
  · rw [e]
  · rw [e]; rfl
  · rw [e]
    exact s.rd_setFld_ne _ _ h

@[simp] theorem State.cores_mark (s : State) (r : TraceRec) : (s.mark r).cores = s.cores := by
  obtain e | ⟨t, e⟩ | ⟨t, e⟩ := s.mark_eq r <;> (rw [e]; try rfl)

@[simp] theorem State.core_mark (s : State) (r : TraceRec) (c : Nat) : (s.mark r).core c = s.core c := by
  unfold State.core; rw [s.cores_mark]

@[simp] theorem State.slot_mark (s : State) (r : TraceRec) (c k : Nat) : (s.mark r).slot c k = s.slot c k := by
  unfold State.slot; rw [s.core_mark]

@[simp] theorem State.scratch_mark (s : State) (r : TraceRec) : (s.mark r).scratch = s.scratch := by
  obtain e | ⟨t, e⟩ | ⟨t, e⟩ := s.mark_eq r <;> (rw [e]; try rfl)

@[simp] theorem State.marks_mark (s : State) (r : TraceRec) : (s.mark r).ue = s.ue ∧ (s.mark r).ce = s.ce := by
  obtain e | ⟨t, e⟩ | ⟨t, e⟩ := s.mark_eq r <;> rw [e] <;> exact ⟨rfl, rfl⟩

theorem State.uncore_mark (s : State) (r : TraceRec) : s.SameUncore (s.mark r) := by
  obtain e | ⟨t, e⟩ | ⟨t, e⟩ := s.mark_eq r <;> rw [e] <;> constructor <;> rfl

/-! ### Keys of the core block -/

theorem active_lt (s : State) (c : Nat) : s.active c < 4 := Nat.mod_lt _ (by decide)

/-- The fault registers of a slot, CORE_STAT and the ECC registers of a core are different registers. -/
theorem coreKeys_ne (n q k : Nat) (_ : k < 4) :
    R.CORE_CTX_FAULT n q k ≠ R.CORE_CTX_FPC n q k ∧ R.CORE_CTX_FAULT n q k ≠ R.CORE_CTX_FADDR n q k
    ∧ R.CORE_CTX_FPC n q k ≠ R.CORE_CTX_FADDR n q k ∧ R.CORE_CTX_FAULT n q k ≠ R.CORE_STAT n q
    ∧ R.CORE_CTX_FPC n q k ≠ R.CORE_STAT n q ∧ R.CORE_CTX_FADDR n q k ≠ R.CORE_STAT n q := by
  unfold R.CORE_CTX_FAULT R.CORE_CTX_FPC R.CORE_CTX_FADDR R.CORE_STAT
  omega

theorem coreKeys_notEcc (c k : Nat) (_ : k < 4) :
    R.CORE_CTX_FAULT (chanOf c) (posOf c) k ∉ eccRegs c ∧ R.CORE_STAT (chanOf c) (posOf c) ∉ eccRegs c := by
  unfold eccRegs R.CORE_CTX_FAULT R.CORE_STAT R.CORE_ECC_STAT R.CORE_FENCE_CNT R.CORE_ECC_LAST
  simp only [List.mem_cons, List.not_mem_nil, or_false]
  omega

/-- Keys of the channels' blocks lie below the drop counters. -/
theorem coreKeys_ne_drop (c k m : Nat) (_ : k < 4) :
    R.CORE_CTX_FAULT (chanOf c) (posOf c) k ≠ R.CH_TRC_DROP m ∧ R.CORE_CTX_FPC (chanOf c) (posOf c) k ≠ R.CH_TRC_DROP m
    ∧ R.CORE_CTX_FADDR (chanOf c) (posOf c) k ≠ R.CH_TRC_DROP m ∧ R.CORE_STAT (chanOf c) (posOf c) ≠ R.CH_TRC_DROP m := by
  have h1 : chanOf c < 4 := Nat.mod_lt _ (by decide)
  have h2 : posOf c < 256 := Nat.mod_lt _ (by decide)
  unfold R.CORE_CTX_FAULT R.CORE_CTX_FPC R.CORE_CTX_FADDR R.CORE_STAT R.CH_TRC_DROP
  omega

/-- TB2 lies outside the registers that a check of a fetch writes. -/
theorem tb2_notEcc (c : Nat) : R.TB_NS 2 ∉ eccRegs c := by
  have h1 : chanOf c < 4 := Nat.mod_lt _ (by decide)
  have h2 : posOf c < 256 := Nat.mod_lt _ (by decide)
  unfold eccRegs R.TB_NS R.CORE_ECC_STAT R.CORE_FENCE_CNT R.CORE_ECC_LAST
  simp only [List.mem_cons, List.not_mem_nil, or_false]
  omega

/-! ### Recording -/

/-- The fields of a fault word. -/
theorem faultWord_fields (cls : Nat) (h : cls < 256) :
    isSet (faultWord cls true none) F.CORE_CTX_FAULT_VALID = true
    ∧ getF (faultWord cls true none) F.CORE_CTX_FAULT_CLASS = cls
    ∧ isSet (faultWord cls true none) F.CORE_CTX_FAULT_PRECISE = true
    ∧ isSet (faultWord cls true none) F.CORE_CTX_FAULT_TOKEN_VALID = false := by
  have e : (faultWord cls true none).toNat = 2 ^ 31 + 2 ^ 16 + 2 ^ 13 + cls := by
    simp only [faultWord, b2n, BitVec.toNat_ofNat, Option.isSome_none, Option.getD_none, ↓reduceIte, Bool.false_eq_true]
    omega
  simp only [isSet, getF, bitsOf, e, F.CORE_CTX_FAULT_VALID, F.CORE_CTX_FAULT_CLASS, F.CORE_CTX_FAULT_PRECISE,
    F.CORE_CTX_FAULT_TOKEN_VALID, decide_eq_true_eq, decide_eq_false_iff_not]
  omega

/-- R81, R84, R85: a first precise fault of the running context is recorded, and issue stops. `s` is the state before the instruction,
`u` the state in which it meets the fault. -/
theorem State.raise_precise {s u : State} {c cls faddr : Nat} (hu : s.Checked c u) (hr : s.isRunning c = true) (hc : s.Clean c)
    (h1 : cls < 256) (h2 : faddr < 2 ^ 32) :
    s.FaultsPrecisely c cls faddr (u.raise c (s.active c) cls (s.bank c).pc faddr true none) := by
  have hk := active_lt s c
  obtain ⟨n1, n2, n3, n4, n5, n6⟩ := coreKeys_ne (chanOf c) (posOf c) (s.active c) hk
  obtain ⟨e1, e2⟩ := coreKeys_notEcc c (s.active c) hk
  have hv : u.bit (R.CORE_CTX_FAULT (chanOf c) (posOf c) (s.active c)) F.CORE_CTX_FAULT_VALID = false := by
    unfold State.bit
    rw [(hu.frame 0).regs _ e1]
    exact hc
  have hst : u.rd (R.CORE_STAT (chanOf c) (posOf c)) = s.rd (R.CORE_STAT (chanOf c) (posOf c)) := (hu.frame 0).regs _ e2
  have hfw := faultWord_fields cls h1
  have ho : u.orderOf c true none = some (s.core c).issues := by
    rw [State.orderOf, ((hu.frame 0).units c).issues]; rfl
  unfold State.raise
  rw [ho]
  unfold State.raiseAt State.record
  dsimp only
  rw [hv]
  simp only [Bool.false_eq_true, ↓reduceIte]
  obtain ⟨d1, d2, d3, d4⟩ := coreKeys_ne_drop c (s.active c) (chanOf c) hk
  have ht : u.tb2 = s.tb2 := congrArg BitVec.toNat ((hu.frame 0).regs _ (tb2_notEcc c))
  have hn : u.now = s.now := (hu.frame 0).uncore.now
  rw [ht, hn]
  generalize hv0 : u.onSlot c (s.active c) (fun b => { b with faultAt := s.tb2, rank := some ⟨s.now, some (s.core c).issues⟩ }) = v
  have v1 : ∀ a, v.rd a = u.rd a := fun a => by rw [← hv0]; rfl
  have v2 : v.slot c (s.active c)
      = { s.bank c with faultAt := s.tb2, rank := some ⟨s.now, some (s.core c).issues⟩ } := by
    rw [← hv0, State.slot_onSlot_self, hu.slots]; rfl
  generalize hw : (((v.wr (R.CORE_CTX_FAULT (chanOf c) (posOf c) (s.active c)) (faultWord cls true none)).wr
    (R.CORE_CTX_FPC (chanOf c) (posOf c) (s.active c)) (BitVec.ofNat 32 (bitsOf (s.bank c).pc 21 2 * 4))).wr
    (R.CORE_CTX_FADDR (chanOf c) (posOf c) (s.active c)) (BitVec.ofNat 32 faddr)) = w
  have w1 : w.rd (R.CORE_CTX_FAULT (chanOf c) (posOf c) (s.active c)) = faultWord cls true none := by
    rw [← hw, State.rd_wr_ne _ _ n2, State.rd_wr_ne _ _ n1, State.rd_wr_self]
  have w2 : w.rd (R.CORE_CTX_FPC (chanOf c) (posOf c) (s.active c)) = BitVec.ofNat 32 (bitsOf (s.bank c).pc 21 2 * 4) := by
    rw [← hw, State.rd_wr_ne _ _ n3, State.rd_wr_self]
  have w3 : w.rd (R.CORE_CTX_FADDR (chanOf c) (posOf c) (s.active c)) = BitVec.ofNat 32 faddr := by
    rw [← hw, State.rd_wr_self]
  have w4 : w.rd (R.CORE_STAT (chanOf c) (posOf c)) = s.rd (R.CORE_STAT (chanOf c) (posOf c)) := by
    rw [← hw, State.rd_wr_ne _ _ n6.symm, State.rd_wr_ne _ _ n5.symm, State.rd_wr_ne _ _ n4.symm, v1, hst]
  have w5 : ∀ d, w.core d = v.core d := fun d => by rw [← hw]; rfl
  generalize hx : Machine.setBit (w.fld (statReg c) F.CORE_STAT_FAULTED) (s.active c) true = x
  generalize hy : w.setFld (statReg c) F.CORE_STAT_FAULTED x = y
  have y1 : ∀ a, a ≠ R.CORE_STAT (chanOf c) (posOf c) → y.rd a = w.rd a := fun a h => by rw [← hy]; exact w.rd_setFld_ne _ _ h
  have y2 : y.fld (statReg c) F.CORE_STAT_RUN = s.fld (statReg c) F.CORE_STAT_RUN := by
    rw [← hy, State.fld_setFld_other _ _ _ _ _ (by decide) (by decide) (by decide) (by decide)]
    unfold State.fld statReg; rw [w4]
  have y3 : y.fld (statReg c) F.CORE_STAT_ACTIVE = s.fld (statReg c) F.CORE_STAT_ACTIVE := by
    rw [← hy, State.fld_setFld_other _ _ _ _ _ (by decide) (by decide) (by decide) (by decide)]
    unfold State.fld statReg; rw [w4]
  have y4 : ∀ d, y.core d = v.core d := fun d => by rw [← hy]; exact w5 d
  generalize hz : y.markCp (chanOf c) tvFault ((y.slot c (s.active c)).owner.getD (0, 0)) cls = z
  have z1 : ∀ a, a ≠ R.CH_TRC_DROP (chanOf c) → z.rd a = y.rd a := fun a h => by
    rw [← hz]; exact State.rd_mark _ _ _ h
  have z2 : ∀ d, z.core d = v.core d := fun d => by rw [← hz]; exact (State.core_mark _ _ _).trans (y4 d)
  have z3 : z.isRunning c = true := by
    unfold State.isRunning State.bit isSet
    have : getF (z.rd (statReg c)) F.CORE_STAT_RUN = s.fld (statReg c) F.CORE_STAT_RUN := by
      rw [z1 (statReg c) d4]; exact y2
    rw [this]
    exact hr
  have z4 : z.active c = s.active c := by
    show getF (z.rd _) _ = _
    rw [z1 _ d4]; exact y3
  have zr (a : Nat) (g1 : a ≠ R.CH_TRC_DROP (chanOf c)) (g2 : a ≠ R.CORE_STAT (chanOf c) (posOf c)) : z.rd a = w.rd a := by
    rw [z1 a g1, y1 a g2]
  have go : (z.isRunning c && z.active c == s.active c) = true := by simp [z3, z4]
  rw [if_pos go]
  refine ⟨?_, ?_, ?_, ?_, ?_, ?_, ?_, ?_⟩
  · show isSet (State.rd _ _) _ = true
    rw [State.rd_onCore, zr _ d1 n4, w1]; exact hfw.1
  · show getF (State.rd _ _) _ = _
    rw [State.rd_onCore, zr _ d1 n4, w1]; exact hfw.2.1
  · show isSet (State.rd _ _) _ = true
    rw [State.rd_onCore, zr _ d1 n4, w1]; exact hfw.2.2.1
  · show isSet (State.rd _ _) _ = false
    rw [State.rd_onCore, zr _ d1 n4, w1]; exact hfw.2.2.2
  · show getF (State.rd _ _) _ = _
    rw [State.rd_onCore, zr _ d2 n5, w2]
    have hb : bitsOf (s.bank c).pc 21 2 < 2 ^ 20 := Nat.mod_lt _ (by decide)
    simp only [getF, bitsOf, F.CORE_CTX_FPC_FPC, BitVec.toNat_ofNat] at hb ⊢
    omega
  · rw [State.rd_onCore, zr _ d3 n6, w3]
    simp only [BitVec.toNat_ofNat]
    omega
  · rw [State.core_onCore_self]
    rfl
  · refine (z.slot_onCore c c (s.active c) _ ?_).trans ?_
    · intro x; rfl
    unfold State.slot
    rw [z2]
    exact v2

end Sys2Proof.Machine
end

