-- ==== Sys2Proof/Laws/PerInstr.lean ====
section
/-! SUPPORT. Sys2Proof/Laws/PerInstr.lean: for every command: when it is an instruction of a core, its word carries a major
opcode that R93 defines. -/

namespace Sys2Proof.Laws.Opcode

/-- The major opcodes of R93. -/
def defined (o : Nat) : Bool := (decide (1 ≤ o) && decide (o ≤ 25)) || (decide (32 ≤ o) && decide (o ≤ 50))

/-- A command that is an instruction has a word under a defined major opcode. -/
def Statement (i : Instr) : Prop := ∀ c w, encodeCore i = some (c, w) → defined (opcodeOf w) = true

/-- The major opcode of a word built from an opcode and a 26-bit body. -/
theorem opcode_of_append (o : BitVec 6) (b : BitVec 26) : opcodeOf (o ++ b : BitVec 32) = o.toNat := by
  have h : (o ++ b : BitVec 32).extractLsb' 26 6 = o := by
    ext i hi
    simp only [BitVec.getElem_extractLsb', BitVec.getLsbD_append]
    rw [if_neg (by omega), show 26 + i - 26 = i by omega]
    exact BitVec.getLsbD_eq_getElem hi
  unfold opcodeOf
  rw [h]

/-- A command that is no instruction has no word. -/
theorem no_word {i : Instr} (h : encodeCore i = none) : Statement i := by
  intro c w e
  rw [h] at e
  cases e

/-- The word of an instruction, by its opcode and body. -/
theorem of_word {i : Instr} {c : Nat} {o : BitVec 6} {b : BitVec 26} (h : encodeCore i = some (c, (o ++ b : BitVec 32)))
    (ho : defined o.toNat = true) : Statement i := by
  intro c' w e
  rw [h] at e
  cases e
  rw [opcode_of_append]
  exact ho

theorem scAlu (c : Nat) (f : FmtR) : Statement (.scAlu c f) := of_word rfl (by decide)
theorem scAddi (c : Nat) (f : FmtI) : Statement (.scAddi c f) := of_word rfl (by decide)
theorem scAndi (c : Nat) (f : FmtI) : Statement (.scAndi c f) := of_word rfl (by decide)
theorem scOri (c : Nat) (f : FmtI) : Statement (.scOri c f) := of_word rfl (by decide)
theorem scXori (c : Nat) (f : FmtI) : Statement (.scXori c f) := of_word rfl (by decide)
theorem scShi (c : Nat) (f : FmtI) : Statement (.scShi c f) := of_word rfl (by decide)
theorem scLdi (c : Nat) (f : FmtK) : Statement (.scLdi c f) := of_word rfl (by decide)
theorem scLui (c : Nat) (f : FmtK) : Statement (.scLui c f) := of_word rfl (by decide)
theorem scCmp (c : Nat) (f : FmtC) : Statement (.scCmp c f) := of_word rfl (by decide)
theorem scCmpi (c : Nat) (f : FmtCI) : Statement (.scCmpi c f) := of_word rfl (by decide)
theorem scPlog (c : Nat) (f : FmtP) : Statement (.scPlog c f) := of_word rfl (by decide)
theorem scLd (c : Nat) (f : FmtM) : Statement (.scLd c f) := of_word rfl (by decide)
theorem scLdu (c : Nat) (f : FmtM) : Statement (.scLdu c f) := of_word rfl (by decide)
theorem scSt (c : Nat) (f : FmtM) : Statement (.scSt c f) := of_word rfl (by decide)
theorem scAddr (c : Nat) (f : FmtAR) : Statement (.scAddr c f) := of_word rfl (by decide)
theorem scAaddi (c : Nat) (f : FmtAI) : Statement (.scAaddi c f) := of_word rfl (by decide)
theorem brJmp (c : Nat) (f : FmtB) : Statement (.brJmp c f) := of_word rfl (by decide)
theorem brCall (c : Nat) (f : FmtB) : Statement (.brCall c f) := of_word rfl (by decide)
theorem brJr (c : Nat) (f : FmtJ) : Statement (.brJr c f) := of_word rfl (by decide)
theorem sqLoop (c : Nat) (f : FmtL) : Statement (.sqLoop c f) := of_word rfl (by decide)
theorem sqEnd (c : Nat) (f : FmtZ) : Statement (.sqEnd c f) := of_word rfl (by decide)
theorem sqIfence (c : Nat) (f : FmtZ) : Statement (.sqIfence c f) := of_word rfl (by decide)
theorem sqNop (c : Nat) (f : FmtZ) : Statement (.sqNop c f) := of_word rfl (by decide)
theorem twait (c : Nat) (f : FmtT) : Statement (.twait c f) := of_word rfl (by decide)
theorem twaitReturn (c : Nat) : Statement (.twaitReturn c) := no_word rfl
theorem syWait (c : Nat) (f : FmtW) : Statement (.syWait c f) := of_word rfl (by decide)
theorem mxWload (c : Nat) (f : FmtU2) : Statement (.mxWload c f) := of_word rfl (by decide)
theorem mxTile (c : Nat) (f : FmtU2) : Statement (.mxTile c f) := of_word rfl (by decide)
theorem mxFin (c : Nat) (f : FmtU1) : Statement (.mxFin c f) := of_word rfl (by decide)
theorem cwCfg (c : Nat) (f : FmtU1) : Statement (.cwCfg c f) := of_word rfl (by decide)
theorem cwWindow (c : Nat) (f : FmtU2) : Statement (.cwWindow c f) := of_word rfl (by decide)
theorem vxArith (c : Nat) (f : FmtU2) : Statement (.vxArith c f) := of_word rfl (by decide)
theorem vxMinmax (c : Nat) (f : FmtU2) : Statement (.vxMinmax c f) := of_word rfl (by decide)
theorem vxFn (c : Nat) (f : FmtU1) : Statement (.vxFn c f) := of_word rfl (by decide)
theorem vxCvt (c : Nat) (f : FmtU1) : Statement (.vxCvt c f) := of_word rfl (by decide)
theorem vxMxq (c : Nat) (f : FmtU2) : Statement (.vxMxq c f) := of_word rfl (by decide)
theorem vxRed (c : Nat) (f : FmtU1) : Statement (.vxRed c f) := of_word rfl (by decide)
theorem vxRand (c : Nat) (f : FmtU1) : Statement (.vxRand c f) := of_word rfl (by decide)
theorem vxSample (c : Nat) (f : FmtU2) : Statement (.vxSample c f) := of_word rfl (by decide)
theorem msgMove (c : Nat) (f : FmtU1) : Statement (.msgMove c f) := of_word rfl (by decide)
theorem msgSend (c : Nat) (f : FmtU1) : Statement (.msgSend c f) := of_word rfl (by decide)
theorem sySignal (c : Nat) (f : FmtU1) : Statement (.sySignal c f) := of_word rfl (by decide)
theorem crPush (c : Nat) (f : FmtU1) : Statement (.crPush c f) := of_word rfl (by decide)
theorem dgLeaf (c : Nat) (f : FmtU1) : Statement (.dgLeaf c f) := of_word rfl (by decide)
theorem dgResult (c : Nat) (f : FmtU1) : Statement (.dgResult c f) := of_word rfl (by decide)
theorem illegalEncoding (c : Nat) : Statement (.illegalEncoding c) := no_word rfl
theorem tokenCompletion (c : Nat) (tok : Nat) : Statement (.tokenCompletion c tok) := no_word rfl
theorem fetchMiss (c : Nat) : Statement (.fetchMiss c) := no_word rfl
theorem contextFault (c : Nat) (k : Nat) : Statement (.contextFault c k) := no_word rfl
theorem corePartStopped (c : Nat) : Statement (.corePartStopped c) := no_word rfl
theorem waitLimit (c : Nat) : Statement (.waitLimit c) := no_word rfl
theorem syncOperationArrival (i : Nat) : Statement (.syncOperationArrival i) := no_word rfl
theorem syncRelease (i : Nat) : Statement (.syncRelease i) := no_word rfl
theorem teardownNotice (i : Nat) : Statement (.teardownNotice i) := no_word rfl
theorem syncCfgChange (req : Nat) (ch : Nat) (i : Nat) (v : Word) : Statement (.syncCfgChange req ch i v) := no_word rfl
theorem syncValueWrite (req : Nat) (ch : Nat) (i : Nat) (v : Word) : Statement (.syncValueWrite req ch i v) := no_word rfl
theorem messageArrival (i : Nat) : Statement (.messageArrival i) := no_word rfl
theorem deliveryReport (i : Nat) : Statement (.deliveryReport i) := no_word rfl
theorem crChildArrival (i : Nat) : Statement (.crChildArrival i) := no_word rfl
theorem rootDelivery (i : Nat) : Statement (.rootDelivery i) := no_word rfl
theorem attnAppend (i : Nat) : Statement (.attnAppend i) := no_word rfl
theorem attnFwd (i : Nat) : Statement (.attnFwd i) := no_word rfl
theorem attnBwd (i : Nat) : Statement (.attnBwd i) := no_word rfl
theorem attnCommandStart (i : Nat) : Statement (.attnCommandStart i) := no_word rfl
theorem attnCompletion (i : Nat) : Statement (.attnCompletion i) := no_word rfl
theorem windowWrite (req : Nat) (c : Nat) (k : Nat) (v : Word) : Statement (.windowWrite req c k v) := no_word rfl
theorem zeroingEnd (c : Nat) (k : Nat) : Statement (.zeroingEnd c k) := no_word rfl
theorem eccWriteBack (c : Nat) : Statement (.eccWriteBack c) := no_word rfl
theorem doorbellSqTail (f : Nat) (off : Nat) (width : Nat) (v : DWord) : Statement (.doorbellSqTail f off width v) := no_word rfl
theorem doorbellCqHead (f : Nat) (off : Nat) (width : Nat) (v : DWord) : Statement (.doorbellCqHead f off width v) := no_word rfl
theorem doorbellArm (f : Nat) (off : Nat) (width : Nat) (v : DWord) : Statement (.doorbellArm f off width v) := no_word rfl
theorem descriptorFetch (f : Nat) (q : Nat) : Statement (.descriptorFetch f q) := no_word rfl
theorem descriptorDispatch (f : Nat) (q : Nat) : Statement (.descriptorDispatch f q) := no_word rfl
theorem nop (id : Nat) : Statement (.nop id) := no_word rfl
theorem loadProgram (id : Nat) : Statement (.loadProgram id) := no_word rfl
theorem loadTensor (id : Nat) : Statement (.loadTensor id) := no_word rfl
theorem storeTensor (id : Nat) : Statement (.storeTensor id) := no_word rfl
theorem runStep (id : Nat) : Statement (.runStep id) := no_word rfl
theorem syncSignal (id : Nat) : Statement (.syncSignal id) := no_word rfl
theorem syncWait (id : Nat) : Statement (.syncWait id) := no_word rfl
theorem syncWaitTimeout (id : Nat) : Statement (.syncWaitTimeout id) := no_word rfl
theorem pageAlloc (id : Nat) : Statement (.pageAlloc id) := no_word rfl
theorem pageFree (id : Nat) : Statement (.pageFree id) := no_word rfl
theorem pageTableWrite (id : Nat) : Statement (.pageTableWrite id) := no_word rfl
theorem spill (id : Nat) : Statement (.spill id) := no_word rfl
theorem restore (id : Nat) : Statement (.restore id) := no_word rfl
theorem digestRead (id : Nat) : Statement (.digestRead id) := no_word rfl
theorem attest (id : Nat) : Statement (.attest id) := no_word rfl
theorem frog (id : Nat) : Statement (.frog id) := no_word rfl
theorem ingestCtlResume (id : Nat) : Statement (.ingestCtlResume id) := no_word rfl
theorem ingestCtlReset (id : Nat) : Statement (.ingestCtlReset id) := no_word rfl
theorem ingestCtlStatus (id : Nat) : Statement (.ingestCtlStatus id) := no_word rfl
theorem descriptorCompletion (id : Nat) : Statement (.descriptorCompletion id) := no_word rfl
theorem qpEnable (f : Nat) (q : Nat) (v : Word) : Statement (.qpEnable f q v) := no_word rfl
theorem qpDrain (f : Nat) (q : Nat) : Statement (.qpDrain f q) := no_word rfl
theorem qpForcedDisable (f : Nat) (q : Nat) : Statement (.qpForcedDisable f q) := no_word rfl
theorem qpDrainEnd (f : Nat) (q : Nat) : Statement (.qpDrainEnd f q) := no_word rfl
theorem qpError (f : Nat) (q : Nat) (wrote : Bool) : Statement (.qpError f q wrote) := no_word rfl
theorem elogEnable (f : Nat) (v : Word) : Statement (.elogEnable f v) := no_word rfl
theorem numvfsWrite (n : Nat) : Statement (.numvfsWrite n) := no_word rfl
theorem pfFlr : Statement (.pfFlr) := no_word rfl
theorem vfFlr (f : Nat) : Statement (.vfFlr f) := no_word rfl
theorem perstNFall : Statement (.perstNFall) := no_word rfl
theorem pcieHotReset : Statement (.pcieHotReset) := no_word rfl
theorem fabrst (req : Nat) : Statement (.fabrst req) := no_word rfl
theorem fabricReady : Statement (.fabricReady) := no_word rfl
theorem mgRead (op : Byte) (comp : Byte) (addr : Word) (n : Nat) : Statement (.mgRead op comp addr n) := no_word rfl
theorem mgWrite (op : Byte) (comp : Byte) (addr : Word) (data : List Byte) : Statement (.mgWrite op comp addr data) := no_word rfl
theorem registerWrite (req : Nat) (a : Nat) (n : Nat) (v : Word) : Statement (.registerWrite req a n v) := no_word rfl
theorem readToClear (req : Nat) (a : Nat) (n : Nat) : Statement (.readToClear req a n) := no_word rfl
theorem pairLowRead (req : Nat) (a : Nat) : Statement (.pairLowRead req a) := no_word rfl
theorem stepStart (p : Nat) : Statement (.stepStart p) := no_word rfl
theorem stepCommit (p : Nat) (C : Nat) (S : Nat) : Statement (.stepCommit p C S) := no_word rfl
theorem withdrawalEnd (p : Nat) (C : Nat) (S : Nat) : Statement (.withdrawalEnd p C S) := no_word rfl
theorem contextTeardownEnd (p : Nat) (x : Nat) : Statement (.contextTeardownEnd p x) := no_word rfl
theorem teardownTimeout (p : Nat) (x : Nat) : Statement (.teardownTimeout p x) := no_word rfl
theorem partitionResetEnd (p : Nat) : Statement (.partitionResetEnd p) := no_word rfl
theorem channelEnable (n : Nat) : Statement (.channelEnable n) := no_word rfl
theorem channelDrain (n : Nat) : Statement (.channelDrain n) := no_word rfl
theorem channelForcedDisable (n : Nat) : Statement (.channelForcedDisable n) := no_word rfl
theorem channelDrainEnd (n : Nat) : Statement (.channelDrainEnd n) := no_word rfl
theorem repairGo (req : Nat) (n : Nat) (x : Nat) : Statement (.repairGo req n x) := no_word rfl
theorem repairDrop (req : Nat) (n : Nat) (x : Nat) : Statement (.repairDrop req n x) := no_word rfl
theorem coreFailure (ch : Nat) (row : Nat) (col : Nat) (cause : Nat) : Statement (.coreFailure ch row col cause) := no_word rfl
theorem nocTimeout (ch : Nat) (row : Nat) (col : Nat) : Statement (.nocTimeout ch row col) := no_word rfl
theorem migrationEnd (i : Nat) : Statement (.migrationEnd i) := no_word rfl
theorem linePacket (port : Nat) (fr : List Byte) : Statement (.linePacket port fr) := no_word rfl
theorem avtpPacket (port : Nat) (fr : List Byte) : Statement (.avtpPacket port fr) := no_word rfl
theorem frameTimeout (t : Nat) : Statement (.frameTimeout t) := no_word rfl
theorem frameAdmission (t : Nat) : Statement (.frameAdmission t) := no_word rfl
theorem sampleStart (t : Nat) (u : Nat) : Statement (.sampleStart t u) := no_word rfl
theorem sampleEnd (t : Nat) (id : Nat) : Statement (.sampleEnd t id) := no_word rfl
theorem overtime (t : Nat) (id : Nat) : Statement (.overtime t id) := no_word rfl
theorem sampleDelivery (t : Nat) : Statement (.sampleDelivery t) := no_word rfl
theorem streamEnable (req : Nat) (t : Nat) (v : Word) : Statement (.streamEnable req t v) := no_word rfl
theorem streamDrain (req : Nat) (t : Nat) : Statement (.streamDrain req t) := no_word rfl
theorem streamForcedDisable (req : Nat) (t : Nat) : Statement (.streamForcedDisable req t) := no_word rfl
theorem swatchTurn (t : Nat) (u : Nat) : Statement (.swatchTurn t u) := no_word rfl
theorem swatchEnd (t : Nat) (late : Bool) : Statement (.swatchEnd t late) := no_word rfl
theorem swdataAccess (req : Nat) (wr_ : Option Word) : Statement (.swdataAccess req wr_) := no_word rfl
theorem leEnable (req : Nat) : Statement (.leEnable req) := no_word rfl
theorem leDisable (req : Nat) : Statement (.leDisable req) := no_word rfl
theorem pcommit (req : Nat) : Statement (.pcommit req) := no_word rfl
theorem baseTick : Statement (.baseTick) := no_word rfl
theorem loopStart (l : Nat) : Statement (.loopStart l) := no_word rfl
theorem loopCommit (l : Nat) (mismatch : Bool) : Statement (.loopCommit l mismatch) := no_word rfl
theorem groupEnable (req : Nat) (g : Nat) (v : Word) : Statement (.groupEnable req g v) := no_word rfl
theorem groupCheckEnd (g : Nat) : Statement (.groupCheckEnd g) := no_word rfl
theorem groupDrain (req : Nat) (g : Nat) : Statement (.groupDrain req g) := no_word rfl
theorem groupForcedDisable (req : Nat) (g : Nat) : Statement (.groupForcedDisable req g) := no_word rfl
theorem leRestore (req : Nat) (j : Nat) : Statement (.leRestore req j) := no_word rfl
theorem leMemdataAccess (req : Nat) (w : Option Word) : Statement (.leMemdataAccess req w) := no_word rfl
theorem mailboxMessage (i : Nat) : Statement (.mailboxMessage i) := no_word rfl
theorem mailboxStale (m : Nat) : Statement (.mailboxStale m) := no_word rfl
theorem controlFrame (port : Nat) (fr : List Byte) : Statement (.controlFrame port fr) := no_word rfl
theorem traceArm (req : Nat) (v : Word) : Statement (.traceArm req v) := no_word rfl
theorem fire (req : Nat) : Statement (.fire req) := no_word rfl
theorem traceStop : Statement (.traceStop) := no_word rfl
theorem recorderBlock (skip : Bool) : Statement (.recorderBlock skip) := no_word rfl
theorem gateInterval (p : Nat) : Statement (.gateInterval p) := no_word rfl
theorem swap (req : Nat) (p : Nat) : Statement (.swap req p) := no_word rfl
theorem swapApply (p : Nat) : Statement (.swapApply p) := no_word rfl
theorem preemptVerify (p : Nat) : Statement (.preemptVerify p) := no_word rfl
theorem tbStep (req : Nat) (n : Nat) (v : Word) : Statement (.tbStep req n v) := no_word rfl
theorem tbEnable (req : Nat) (n : Nat) (v : Word) : Statement (.tbEnable req n v) := no_word rfl
theorem cap (req : Nat) : Statement (.cap req) := no_word rfl
theorem ppsIn : Statement (.ppsIn) := no_word rfl
theorem ppsOut : Statement (.ppsOut) := no_word rfl
theorem ppsOutFall : Statement (.ppsOutFall) := no_word rfl
theorem ptpSync (m : PtpMsg) : Statement (.ptpSync m) := no_word rfl
theorem followUp (m : PtpMsg) : Statement (.followUp m) := no_word rfl
theorem delayReq (n : Nat) : Statement (.delayReq n) := no_word rfl
theorem delayResp (m : PtpMsg) : Statement (.delayResp m) := no_word rfl
theorem pdelayReq (n : Nat) (rx : Option PtpMsg) : Statement (.pdelayReq n rx) := no_word rfl
theorem pdelayResp (followUp : Bool) (m : PtpMsg) : Statement (.pdelayResp followUp m) := no_word rfl
theorem holdover (n : Nat) : Statement (.holdover n) := no_word rfl
theorem sel (req : Nat) (b : Nat) : Statement (.sel req b) := no_word rfl
theorem timeRequest (n : Nat) : Statement (.timeRequest n) := no_word rfl
theorem timeFlit (l : Nat) (corr : Nat) (unc : Bool) (fl : List Byte) : Statement (.timeFlit l corr unc fl) := no_word rfl
theorem linkEnable (req : Nat) (l : Nat) : Statement (.linkEnable req l) := no_word rfl
theorem linkDrain (req : Nat) (l : Nat) : Statement (.linkDrain req l) := no_word rfl
theorem linkForcedDisable (req : Nat) (l : Nat) : Statement (.linkForcedDisable req l) := no_word rfl
theorem linkDrainEnd (l : Nat) : Statement (.linkDrainEnd l) := no_word rfl
theorem trainingEnd (l : Nat) (clu : Nat) (chip : Nat) (link : Nat) (pools : List (Nat × Nat)) : Statement (.trainingEnd l clu chip link pools) := no_word rfl
theorem trainingRetry (l : Nat) : Statement (.trainingRetry l) := no_word rfl
theorem linkDown (l : Nat) : Statement (.linkDown l) := no_word rfl
theorem routeEvaluation : Statement (.routeEvaluation) := no_word rfl
theorem dataFlit (l : Nat) (corr : Nat) (unc : Bool) (fl : List Byte) (w : Option WireChild) : Statement (.dataFlit l corr unc fl w) := no_word rfl
theorem ctrlFlit (l : Nat) (corr : Nat) (unc : Bool) (fl : List Byte) (recs : List CtrlRec) : Statement (.ctrlFlit l corr unc fl recs) := no_word rfl
theorem idleFlit (l : Nat) (corr : Nat) (unc : Bool) (fl : List Byte) : Statement (.idleFlit l corr unc fl) := no_word rfl
theorem nak (l : Nat) (ackseq : Nat) : Statement (.nak l ackseq) := no_word rfl
theorem creditRequest (i : Nat) : Statement (.creditRequest i) := no_word rfl
theorem creditGrant (i : Nat) : Statement (.creditGrant i) := no_word rfl
theorem ddForce (req : Nat) (v : Word) : Statement (.ddForce req v) := no_word rfl
theorem silentTest (k : Nat) : Statement (.silentTest k) := no_word rfl
theorem tripIn (k : Nat) (n : Nat) : Statement (.tripIn k n) := no_word rfl
theorem grant (req : Nat) (k : Nat) (b : Bool) : Statement (.grant req k b) := no_word rfl
theorem tripPathFault (kind : Nat) (k : Nat) : Statement (.tripPathFault kind k) := no_word rfl
theorem clockFail (bad : Bool) : Statement (.clockFail bad) := no_word rfl
theorem lock (req : Nat) : Statement (.lock req) := no_word rfl
theorem fabricSlice (ch : Nat) : Statement (.fabricSlice ch) := no_word rfl
theorem fabricSliceEnd (ch : Nat) (bad : List Nat) : Statement (.fabricSliceEnd ch bad) := no_word rfl
theorem islandSlice (l : Nat) : Statement (.islandSlice l) := no_word rfl
theorem islandSliceEnd (l : Nat) (fail : Bool) : Statement (.islandSliceEnd l fail) := no_word rfl
theorem testInterval : Statement (.testInterval) := no_word rfl
theorem bistgo (req : Nat) (ch : Nat) : Statement (.bistgo req ch) := no_word rfl
theorem bistEnd (bad : List (Nat × Nat)) : Statement (.bistEnd bad) := no_word rfl
theorem gaugeMeasurement (ch : Option Nat) : Statement (.gaugeMeasurement ch) := no_word rfl
theorem gaugeMeasurementEnd (n : Nat) (slack : Int) (sram : Bool) : Statement (.gaugeMeasurementEnd n slack sram) := no_word rfl
theorem now (req : Nat) : Statement (.now req) := no_word rfl
theorem pmbusTransactionEnd (n : Nat) (good : Bool) : Statement (.pmbusTransactionEnd n good) := no_word rfl
theorem supplyWarning (r : Nat) : Statement (.supplyWarning r) := no_word rfl
theorem supplyRecovery (r : Nat) : Statement (.supplyRecovery r) := no_word rfl
theorem railReset (r : Nat) : Statement (.railReset r) := no_word rfl
theorem fastDroop (ch : Nat) (present : Bool) : Statement (.fastDroop ch present) := no_word rfl
theorem thermalSample (n : Nat) (temp : Int) : Statement (.thermalSample n temp) := no_word rfl
theorem porstN (low : Bool) (clu : Nat) (chip : Nat) : Statement (.porstN low clu chip) := no_word rfl
theorem brownOut (low : Bool) (clu : Nat) (chip : Nat) : Statement (.brownOut low clu chip) := no_word rfl
theorem pllLock : Statement (.pllLock) := no_word rfl
theorem clockReset : Statement (.clockReset) := no_word rfl
theorem castOnSelfTestEnd (bad : List (Nat × Nat × Nat)) : Statement (.castOnSelfTestEnd bad) := no_word rfl
theorem islrst (req : Nat) : Statement (.islrst req) := no_word rfl
theorem islandUp : Statement (.islandUp) := no_word rfl
theorem pwrGate (req : Nat) (d : Nat) : Statement (.pwrGate req d) := no_word rfl
theorem pwrUngate (req : Nat) (d : Nat) : Statement (.pwrUngate req d) := no_word rfl
theorem pwrUp (d : Nat) : Statement (.pwrUp d) := no_word rfl
theorem certgo (req : Nat) : Statement (.certgo req) := no_word rfl
theorem rootReconstructionEnd : Statement (.rootReconstructionEnd) := no_word rfl
theorem storeBinding (good : Bool) : Statement (.storeBinding good) := no_word rfl
theorem hwmAcknowledgement (good : Bool) : Statement (.hwmAcknowledgement good) := no_word rfl
theorem kinst (req : Nat) (good : Option Bool) : Statement (.kinst req good) := no_word rfl
theorem krot (req : Nat) (good : Option Bool) : Statement (.krot req good) := no_word rfl
theorem recorderRead (req : Nat) (r : Nat) (k : Nat) : Statement (.recorderRead req r k) := no_word rfl
theorem recorderReadEnd : Statement (.recorderReadEnd) := no_word rfl
theorem regionOverwriteEnd (r : Nat) : Statement (.regionOverwriteEnd r) := no_word rfl
theorem traceRingEnable (req : Nat) (f : Nat) (smp : Bool) (v : Word) : Statement (.traceRingEnable req f smp v) := no_word rfl
theorem flush (k : Nat) : Statement (.flush k) := no_word rfl
theorem sampleInterval (f : Nat) (coincide : Bool) : Statement (.sampleInterval f coincide) := no_word rfl
theorem counterValueWrite (req : Nat) (a : Nat) (v : Word) : Statement (.counterValueWrite req a v) := no_word rfl
theorem jtagInstruction (instr : Nat) (trst : Bool) (cells : List (Nat × Bool)) : Statement (.jtagInstruction instr trst cells) := no_word rfl
theorem perstNRise : Statement (.perstNRise) := no_word rfl
theorem peerLinkLoss (l : Nat) : Statement (.peerLinkLoss l) := no_word rfl

end Sys2Proof.Laws.Opcode
end

