-- ==== Sys2Proof/Laws/Sign.lean ====
section
/-! SUPPORT. Sys2Proof/Laws/Sign.lean: how long digests are, and a signature of the identity key (R466, R473). -/

namespace Sys2Proof.Machine

/-! ### SHAKE256 -/

theorem keccakRound_length (w rc : Nat) (a : List Nat) : (keccakRound w rc a).length = 25 := by
  unfold keccakRound
  dsimp only
  split
  · rename_i e; exact absurd (congrArg List.length e) (by simp)
  · rename_i e; have := congrArg List.length e; simp at this ⊢; omega

theorem keccakRounds_length (w : Nat) (rcs : List Nat) (a : List Nat) (h : a.length = 25) : (keccakRounds w rcs a).length = 25 := by
  induction rcs generalizing a with
  | nil => exact h
  | cons rc rcs ih => exact ih _ (keccakRound_length w rc a)

theorem shakeAbsorb_length (bs : List (List Byte)) (a : List Nat) (h : a.length = 25) : (shakeAbsorb bs a).length = 25 := by
  induction bs generalizing a with
  | nil => exact h
  | cons b bs ih => exact ih _ (keccakRounds_length _ _ _ (by simp))

/-- A digest of 32 bytes has 32. -/
@[simp] theorem shake256_length (m : List Byte) : (shake256 m 32).length = 32 := by
  have h := shakeAbsorb_length (chunksOf 136 ((spongePad 0x1F m).length / 136) (spongePad 0x1F m)) (List.replicate 25 0) (by simp)
  unfold shake256 sponge
  dsimp only
  rw [show ceilDiv 32 136 = 1 from rfl]
  simp only [shakeSqueeze, List.append_nil, List.length_take, List.length_flatten, List.map_map, Function.comp_def, leBytes_length,
    List.map_const', List.sum_replicate, h]
  decide

@[simp] theorem xmssHash_length (d : Nat) (key m : List Byte) : (xmssHash d key m).length = 32 := shake256_length _

/-! ### Chains and trees -/

theorem wotsChain_length (seed : List Byte) (x : Adrs) (n i : Nat) (v : List Byte) (h : v.length = 32) :
    (wotsChain seed x n i v).length = 32 := by
  induction n generalizing i v with
  | zero => exact h
  | succ n ih => exact ih _ _ (xmssHash_length _ _ _)

@[simp] theorem randHash_length (seed : List Byte) (x : Adrs) (l r : List Byte) : (randHash seed x l r).length = 32 :=
  xmssHash_length _ _ _

theorem wotsDigits_length (m : List Byte) : (wotsDigits m).length = 2 * m.length + 3 := by
  unfold wotsDigits
  simp only [List.length_append, List.length_cons, List.length_nil, Nat.add_right_cancel_iff]
  induction m with
  | nil => rfl
  | cons b m ih => simp only [List.flatMap_cons, List.length_append, List.length_cons, List.length_nil, ih]; omega

/-- Every string of a level of an L-tree has 32 bytes, and there is one. -/
theorem lLevel_strings (seed : List Byte) (x : Adrs) (i : Nat) (t : List (List Byte)) (h : ∀ v ∈ t, v.length = 32) :
    (∀ v ∈ lLevel seed x i t, v.length = 32) ∧ (t ≠ [] → lLevel seed x i t ≠ []) := by
  induction t using List.twoStepInduction generalizing i with
  | nil => exact ⟨h, id⟩
  | singleton a => exact ⟨h, id⟩
  | cons_cons a b t ih _ =>
    refine ⟨fun v hv => ?_, fun _ => by simp [lLevel]⟩
    simp only [lLevel, List.mem_cons] at hv
    rcases hv with rfl | hv
    · exact randHash_length _ _ _ _
    · exact (ih (i + 1) (fun v hv => h v (by simp [hv]))).1 v hv

theorem lTree_length (seed : List Byte) (x : Adrs) (fuel k : Nat) (t : List (List Byte)) (h : ∀ v ∈ t, v.length = 32) (ht : t ≠ []) :
    (lTree seed x fuel k t).length = 32 := by
  have head : ∀ t : List (List Byte), t ≠ [] → (∀ v ∈ t, v.length = 32) → (t.headD []).length = 32 := by
    intro t ht h
    cases t with
    | nil => exact absurd rfl ht
    | cons a t => exact h a (by simp)
  induction fuel generalizing k t with
  | zero => exact head t ht h
  | succ fuel ih =>
    unfold lTree
    split
    · exact head t ht h
    · exact ih _ _ (lLevel_strings _ _ _ _ h).1 ((lLevel_strings _ _ _ _ h).2 ht)

theorem wotsSecret_strings (sk seed : List Byte) (x : Adrs) :
    (wotsSecret sk seed x).length = 67 ∧ ∀ v ∈ wotsSecret sk seed x, v.length = 32 := by
  refine ⟨by simp [wotsSecret], fun v hv => ?_⟩
  simp only [wotsSecret, List.mem_map] at hv
  obtain ⟨i, -, rfl⟩ := hv
  exact xmssHash_length _ _ _

@[simp] theorem treeNode_length (sk seed : List Byte) (layer tree h i : Nat) : (treeNode sk seed layer tree h i).length = 32 := by
  cases h with
  | succ h => exact randHash_length _ _ _ _
  | zero =>
    refine lTree_length _ _ _ _ _ (fun v hv => ?_) (fun e => ?_)
    · simp only [List.mem_map] at hv
      obtain ⟨q, hq, rfl⟩ := hv
      exact wotsChain_length _ _ _ _ _ ((wotsSecret_strings sk seed _).2 _ (List.fst_mem_of_mem_zipIdx hq))
    · have := congrArg List.length e
      simp [(wotsSecret_strings sk seed _).1] at this

/-! ### Signatures -/

/-- The elements of lists of `n` each. -/
theorem flatten_length_of_all {α : Type} {n : Nat} {l : List (List α)} (h : ∀ v ∈ l, v.length = n) : l.flatten.length = n * l.length := by
  induction l with
  | nil => rfl
  | cons a l ih =>
    rw [List.flatten_cons, List.length_append, h a (by simp), ih (fun v hv => h v (by simp [hv])), List.length_cons, Nat.mul_succ]
    omega

theorem layerSign_strings (sk seed : List Byte) (hp layer tree leaf : Nat) (m : List Byte) (h : m.length = 32) :
    (layerSign sk seed hp layer tree leaf m).length = 67 + hp ∧ ∀ v ∈ layerSign sk seed hp layer tree leaf m, v.length = 32 := by
  refine ⟨?_, fun v hv => ?_⟩
  · simp [layerSign, wotsSign, wotsDigits_length, (wotsSecret_strings sk seed _).1, h]
  · simp only [layerSign, wotsSign, List.mem_append, List.mem_map] at hv
    rcases hv with ⟨q, hq, rfl⟩ | ⟨j, -, rfl⟩
    · exact wotsChain_length _ _ _ _ _ ((wotsSecret_strings sk seed _).2 _ (List.of_mem_zip (List.fst_mem_of_mem_zipIdx hq)).2)
    · exact treeNode_length _ _ _ _ _ _

theorem layersSign_strings (sk seed : List Byte) (hp n layer idx : Nat) (m : List Byte) (h : m.length = 32) :
    (layersSign sk seed hp n layer idx m).length = n * (67 + hp) ∧ ∀ v ∈ layersSign sk seed hp n layer idx m, v.length = 32 := by
  induction n generalizing layer idx m with
  | zero => simp [layersSign]
  | succ n ih =>
    have a := layerSign_strings sk seed hp layer (idx / 2 ^ hp) (idx % 2 ^ hp) m h
    have b := ih (layer + 1) (idx / 2 ^ hp) (treeNode sk seed layer (idx / 2 ^ hp) hp 0) (treeNode_length _ _ _ _ _ _)
    refine ⟨?_, fun v hv => ?_⟩
    · simp only [layersSign, List.length_append, a.1, b.1, Nat.succ_mul]; omega
    · simp only [layersSign, List.mem_append] at hv
      rcases hv with hv | hv
      · exact a.2 v hv
      · exact b.2 v hv

/-- R466, R473: what follows the leaf index in a signature of the identity key has 9,888 bytes. -/
@[simp] theorem identitySign_length (root : List Byte) (leaf : Nat) (m : List Byte) : (identitySign root leaf m).length = 9888 := by
  unfold identitySign xmssSign
  dsimp only
  have h := layersSign_strings ((identitySeeds root).take 32) ((identitySeeds root).drop 64) (XmssSet.hp ⟨40, 4⟩) 4 0 leaf
    (xmssHash 2 (xmssHash 3 (((identitySeeds root).drop 32).take 32) (beBytes 32 leaf)
      ++ treeNode ((identitySeeds root).take 32) ((identitySeeds root).drop 64) (4 - 1) 0 (XmssSet.hp ⟨40, 4⟩) 0 ++ beBytes 32 leaf) m)
    (xmssHash_length _ _ _)
  rw [List.length_append, flatten_length_of_all h.2, h.1, xmssHash_length]
  rfl

end Sys2Proof.Machine
end

