-- ==== Sys2Proof/Laws/Seal.lean ====
section
/-! SUPPORT. Sys2Proof/Laws/Seal.lean: how long what AES-256-GCM closes is (R476, R479). -/

namespace Sys2Proof.Machine

/-! ### Pieces of a list -/

theorem chunksOf_strings {α : Type} (n : Nat) (fuel : Nat) (l : List α) (h : n * fuel ≤ l.length) : ∀ v ∈ chunksOf n fuel l, v.length = n := by
  induction fuel generalizing l with
  | zero => intro v hv; cases hv
  | succ f ih =>
    intro v hv
    rw [chunksOf] at hv
    have hl : n + n * f ≤ l.length := by rw [Nat.mul_succ] at h; omega
    split at hv
    · cases hv
    · rcases List.mem_cons.1 hv with rfl | hv
      · rw [List.length_take]; omega
      · exact ih (l.drop n) (by rw [List.length_drop]; omega) v hv

theorem chunksOf_length {α : Type} (n : Nat) (hn : 0 < n) (fuel : Nat) (l : List α) (h : n * fuel ≤ l.length) : (chunksOf n fuel l).length = fuel := by
  induction fuel generalizing l with
  | zero => rfl
  | succ f ih =>
    have hl : n + n * f ≤ l.length := by rw [Nat.mul_succ] at h; omega
    rw [chunksOf, if_neg (by rw [List.isEmpty_iff]; rintro rfl; simp at hl; omega), List.length_cons, ih _ (by rw [List.length_drop]; omega)]

theorem chunksOf_flatten {α : Type} (n : Nat) (fuel : Nat) (l : List α) (h : l.length ≤ n * fuel) : (chunksOf n fuel l).flatten = l := by
  induction fuel generalizing l with
  | zero => rw [List.length_eq_zero_iff.1 (by omega : l.length = 0)]; rfl
  | succ f ih =>
    rw [chunksOf]
    split
    · rename_i e; rw [List.isEmpty_iff.1 e]; rfl
    · rw [List.flatten_cons, ih _ (by rw [List.length_drop]; rw [Nat.mul_succ] at h; omega), List.take_append_drop]

@[simp] theorem padTo_length {α : Type} (d : α) (n : Nat) (l : List α) : (padTo d n l).length = n := by
  simp only [padTo, List.length_take, List.length_append, List.length_replicate]; omega

/-! ### The cipher -/

@[simp] theorem xorBytes_length (a b : List Nat) : (xorBytes a b).length = min a.length b.length := List.length_zipWith

/-- A word of the key schedule has 4 bytes. -/
theorem aesNextWord_length (ws : List (List Nat)) (rcon : Nat) (h : ∀ v ∈ ws, v.length = 4) (hn : 8 ≤ ws.length) :
    (aesNextWord ws rcon ws.length).length = 4 := by
  have hk : ∀ k, k < ws.length → (nth [] ws k).length = 4 := fun k hk => h _ (by rw [nth, List.getD_eq_getElem _ _ hk]; exact List.getElem_mem hk)
  have h1 := hk (ws.length - 1) (by omega)
  have h8 := hk (ws.length - 8) (by omega)
  unfold aesNextWord
  simp only [xorBytes_length, h8]
  split
  · simp [h1]
  · split <;> simp [h1]

theorem aesExpand_words (fuel rcon : Nat) (ws : List (List Nat)) (h : ∀ v ∈ ws, v.length = 4) (hn : 8 ≤ ws.length) :
    (∀ v ∈ aesExpand fuel rcon ws, v.length = 4) ∧ (aesExpand fuel rcon ws).length = ws.length + fuel := by
  induction fuel generalizing rcon ws with
  | zero => exact ⟨h, rfl⟩
  | succ f ih =>
    have hw := fun r => aesNextWord_length ws r h hn
    rw [aesExpand]
    have := ih (if ws.length % 8 = 0 then aesX rcon else rcon) (ws ++ [aesNextWord ws rcon ws.length])
      (fun v hv => by rcases List.mem_append.1 hv with hv | hv
                      · exact h v hv
                      · rw [List.mem_singleton.1 hv]; exact hw rcon) (by simp; omega)
    exact ⟨this.1, by rw [this.2]; simp; omega⟩

/-- The 15 round keys of a 32-byte key have 16 bytes each. -/
theorem aesKeys_words (key : List Nat) (h : key.length = 32) : (∀ v ∈ aesKeys key, v.length = 16) ∧ (aesKeys key).length = 15 := by
  have hc : ∀ v ∈ chunksOf 4 8 key, v.length = 4 := chunksOf_strings 4 8 key (by omega)
  have hl : (chunksOf 4 8 key).length = 8 := chunksOf_length 4 (by omega) 8 key (by omega)
  have e := aesExpand_words 52 1 (chunksOf 4 8 key) hc (by omega)
  rw [hl] at e
  refine ⟨fun v hv => ?_, by rw [aesKeys, List.length_map, chunksOf_length 4 (by omega) 15 _ (by omega)]⟩
  obtain ⟨w, hw, rfl⟩ := List.mem_map.1 hv
  have hw4 := chunksOf_strings 4 15 _ (by omega) w hw
  rw [flatten_length_of_all (n := 4) (fun v hv => e.1 v ?_), hw4]
  have : (chunksOf 4 15 (aesExpand 52 1 (chunksOf 4 8 key))).flatten = aesExpand 52 1 (chunksOf 4 8 key) := chunksOf_flatten 4 15 _ (by omega)
  rw [← this]; exact List.mem_flatten_of_mem hw hv

theorem aesRounds_length (ks : List (List Nat)) (b : List Nat) (h : ∀ v ∈ ks, v.length = 16) (hb : b.length = 16) : (aesRounds ks b).length = 16 := by
  induction ks generalizing b with
  | nil => exact hb
  | cons k ks ih =>
    have hk := h k (by simp)
    cases ks with
    | nil => simp [aesRounds, aesShift, hk]
    | cons k' ks =>
      rw [aesRounds]
      · refine ih _ (fun v hv => h v (by simp [hv])) ?_
        rw [xorBytes_length, hk, flatten_length_of_all (n := 4) (fun v hv => ?_), List.length_map, chunksOf_length 4 (by omega) 4 _ (by simp [aesShift])]
        · rfl
        · obtain ⟨w, _, rfl⟩ := List.mem_map.1 hv; simp [aesMixCol]
      · simp

/-- A block enciphered has 16 bytes. -/
theorem aesBlock_length (key b : List Nat) (h : key.length = 32) (hb : b.length = 16) : (aesBlock (aesKeys key) b).length = 16 := by
  obtain ⟨hk, hl⟩ := aesKeys_words key h
  refine aesRounds_length _ _ (fun v hv => hk v (List.mem_of_mem_drop hv)) ?_
  rw [xorBytes_length, hb, nth, List.getD_eq_getElem _ _ (by omega), hk _ (List.getElem_mem _)]; rfl

/-- The lengths of a ciphertext and of its tag, for a key of 32 bytes, an IV of 12 and a whole number of blocks. -/
theorem gcmSeal_length (key iv aad m : List Byte) (n : Nat) (hk : key.length = 32) (hi : iv.length = 12) (hm : m.length = 16 * n) :
    (gcmSeal key iv aad m).1.length = 16 * n ∧ (gcmSeal key iv aad m).2.length = 16 := by
  have hb : ∀ v : Nat, (aesBlock (aesKeys (natsOf key)) (natsOf iv ++ (natBlock v).drop 12)).length = 16 := fun v =>
    aesBlock_length _ _ (by simpa [natsOf] using hk) (by simp [natsOf, natBlock, hi])
  have hn : ceilDiv (natsOf m).length 16 = n := by simp only [natsOf, List.length_map, hm, ceilDiv]; omega
  have hs : ∀ v ∈ blocks16 (natsOf m), v.length = 16 := by
    rw [blocks16, hn]; exact chunksOf_strings 16 n _ (by simp only [natsOf, List.length_map, hm]; omega)
  have hl : (blocks16 (natsOf m)).length = n := by
    rw [blocks16, hn]; exact chunksOf_length 16 (by omega) n _ (by simp only [natsOf, List.length_map, hm]; omega)
  refine ⟨?_, ?_⟩
  · simp only [gcmSeal, bytesOf, List.length_map, gcmCtr]
    rw [flatten_length_of_all (n := 16), List.length_map, List.length_zipIdx, hl]
    intro v hv
    obtain ⟨w, hw, rfl⟩ := List.mem_map.1 hv
    rw [xorBytes_length, hb, hs w.1 (by have := List.mem_zipIdx' (by simpa using hw); simp [this.2])]; rfl
  · simp only [gcmSeal, bytesOf, List.length_map, gcmTag, xorBytes_length]
    have := hb 1
    have e : (natBlock 1).drop 12 = [0, 0, 0, 1] := by decide
    rw [e] at this
    rw [this]; simp [natBlock]

/-! ### Images, records of the recorder -/

/-- A spill image: a header of 128 bytes, 4,112 bytes a chunk (R476). -/
theorem spillImage_length (key head : List Byte) (spn nch : Nat) (plain : List Byte) (hk : key.length = 32) (hh : head.length = 112)
    (hc : (chunksOf 4096 nch plain).length = nch) : (spillImage key head spn nch plain).length = 128 + 4112 * nch := by
  have hi : ∀ i, (spillIv spn i).length = 12 := fun i => by simp [spillIv, beBytes]
  have h0 := gcmSeal_length key (spillIv spn (2 ^ 32 - 1)) head [] 0 hk (hi _) rfl
  simp only [spillImage, List.length_append, hh, h0.2]
  rw [flatten_length_of_all (n := 4112), List.length_map, List.length_zipIdx, hc]
  intro v hv
  obtain ⟨q, _, rfl⟩ := List.mem_map.1 hv
  have := gcmSeal_length key (spillIv spn q.2) (head ++ leBytes 4 q.2) (padTo 0#8 4096 q.1) 256 hk (hi _) (by simp)
  simp [this]

@[simp] theorem keyBytes_length (n : Nat) : (keyBytes n).length = 32 := by
  rw [keyBytes, List.flatMap_def, flatten_length_of_all (n := 4)]
  · simp
  · intro v hv
    obtain ⟨i, _, rfl⟩ := List.mem_map.1 hv; simp

/-- A block's record has 4,128 bytes (R479). -/
@[simp] theorem blockRecord_length (key : List Byte) (wc k r : Nat) (data : List Byte) (h : key.length = 32) :
    (blockRecord key wc k r data).length = 4128 := by
  have := gcmSeal_length key (beBytes 8 wc ++ beBytes 4 k) [] (padTo 0#8 4096 data) 256 h (by simp [beBytes]) (by simp)
  simp [blockRecord, this]

end Sys2Proof.Machine
end

