-- ==== Sys2Proof/Laws/Units.lean ====
section
/-! SUPPORT. Sys2Proof/Laws/Units.lean: the words in which an operation meets the other accesses of its core (R55, R90): none where nothing
changed since its issue and nothing else is in flight; every memory in between keeps its canonical form. -/

namespace Sys2Proof.Machine

/-- Nothing kept of the issue: nothing has changed since. -/
@[simp] theorem State.since_unseen (s : State) (c tok : Nat) (h : (s.core c).seen.get none tok = none) : s.since c tok = [] := by
  unfold State.since; rw [h]

/-- No change was kept after the issue. -/
theorem State.since_same (s : State) (c tok : Nat) {x : Issued} (h : (s.core c).seen.get none tok = some x)
    (hx : (s.changes c).length ≤ x.from_) : s.since c tok = [] := by
  unfold State.since; rw [h]; exact List.drop_eq_nil_of_le hx

/-- With nothing else in flight, nothing may have been written already. -/
theorem State.ahead_alone (s : State) (c k tok : Nat) (h : (s.core c).ops.filter (fun o => o.tok != tok) = []) :
    s.ahead c k tok = ([], 0) := by
  unfold State.ahead; rw [h]; simp

@[simp] theorem State.overlaps_nil (s : State) (c n : Nat) : s.overlaps c n [] [] = [] := by
  simp [State.overlaps]

/-- An operation alone, with no change since its issue, meets the words as they are. -/
theorem State.clash_alone (s : State) (c tok : Nat) (h : (s.core c).ops.filter (fun o => o.tok != tok) = [])
    (hs : s.since c tok = []) : s.clash c tok = [] := by
  unfold State.clash; rw [s.ahead_alone c _ tok h, hs]; simp

/-- Bytes put at a list of words keep the canonical form. -/
theorem foldl_putBytes_wf {α : Type} (at_ : α → Nat) (bs : α → List Byte) (vs : List α) (m : Memory) (h : m.wf = true) :
    (vs.foldl (fun m v => m.putBytes (at_ v) (bs v)) m).wf = true := by
  induction vs generalizing m with
  | nil => exact h
  | cons v vs ih => exact ih _ (m.wf_putBytes _ _ h)

/-- What an operation meets is a memory in canonical form. -/
theorem State.meeting_wf (s : State) (vs : List Overlap) (h : s.scratch.wf = true) : (s.meeting vs).scratch.wf = true :=
  foldl_putBytes_wf _ _ vs s.scratch h

/-- What stands after it is one too. -/
theorem Overlap.settle_wf (v : Overlap) (own : List Change) (m : Memory) (h : m.wf = true) : (v.settle own m).wf = true :=
  m.wf_putBytes _ _ h

theorem foldl_settle_wf (vs : List Overlap) (own : List Change) (m : Memory) (h : m.wf = true) :
    (vs.foldl (fun m v => v.settle own m) m).wf = true := by
  induction vs generalizing m with
  | nil => exact h
  | cons v vs ih => exact ih _ (v.settle_wf own m h)

end Sys2Proof.Machine
end

