-- ==== Sys2Proof/Laws/Verify.lean ====
section
/-! SUPPORT. Sys2Proof/Laws/Verify.lean: what the signer signs, the verifier accepts (R466, R470, R471). -/

namespace Sys2Proof.Machine

/-! ### One-time signatures -/

theorem wotsChain_add (seed : List Byte) (x : Adrs) (n k i : Nat) (v : List Byte) :
    wotsChain seed x (n + k) i v = wotsChain seed x k (i + n) (wotsChain seed x n i v) := by
  induction n generalizing i v with
  | zero => simp [wotsChain]
  | succ n ih =>
    rw [show n + 1 + k = n + k + 1 from by omega, wotsChain, wotsChain, ih, show i + 1 + n = i + (n + 1) from by omega]

/-- A chain gone `d` steps and then the rest has gone all of it. -/
theorem wotsChain_rest (seed : List Byte) (x : Adrs) (d : Nat) (v : List Byte) (h : d ≤ 15) :
    wotsChain seed x (15 - d) d (wotsChain seed x d 0 v) = wotsChain seed x 15 0 v := by
  have := wotsChain_add seed x d (15 - d) 0 v
  rw [Nat.zero_add, show d + (15 - d) = 15 from by omega] at this
  exact this.symm

theorem wotsDigits_le (m : List Byte) : ∀ d ∈ wotsDigits m, d ≤ 15 := by
  intro d hd
  simp only [wotsDigits, List.mem_append, List.mem_flatMap, List.mem_cons, List.not_mem_nil, or_false] at hd
  rcases hd with ⟨b, -, rfl | rfl⟩ | rfl | rfl | rfl
  · have := b.isLt; omega
  all_goals omega

/-- The one-time signature gives the one-time public key back. -/
theorem wotsPk_wotsSign (sk seed : List Byte) (x : Adrs) (m : List Byte) (h : m.length = 32) :
    wotsPk seed x m (wotsSign sk seed x m) = (wotsSecret sk seed x).zipIdx.map (fun q => wotsChain seed { x with b := q.2 } 15 0 q.1) := by
  have hd : (wotsDigits m).length = 67 := by rw [wotsDigits_length, h]
  have hs := (wotsSecret_strings sk seed x).1
  apply List.ext_getElem
  · simp [wotsPk, wotsSign, hd, hs]
  · intro i h1 h2
    have hi : i < 67 := by simpa [hs] using h2
    simp only [wotsPk, wotsSign, List.getElem_map, List.getElem_zipIdx, List.getElem_zip, Nat.zero_add]
    have hl := wotsDigits_le m ((wotsDigits m)[i]'(by omega)) (List.getElem_mem _)
    exact wotsChain_rest seed _ _ _ hl

/-! ### Trees -/

theorem xor_one (i : Nat) : i ^^^ 1 = if i % 2 = 0 then i + 1 else i - 1 := by
  have e : i ^^^ 1 = 2 * (i / 2) + (1 - i % 2) := by
    apply Nat.eq_of_testBit_eq
    intro k
    cases k with
    | zero => rw [Nat.testBit_xor]; rcases Nat.mod_two_eq_zero_or_one i with h | h <;> simp [h, Nat.testBit_zero]
    | succ k =>
      rw [Nat.testBit_xor, Nat.testBit_succ, Nat.testBit_succ, Nat.testBit_succ, show (2 * (i / 2) + (1 - i % 2)) / 2 = i / 2 from by omega]
      simp
  rw [e]
  split <;> omega

/-- The path of a leaf, with the nodes of the tree beside it, leads to the nodes above it. -/
theorem authPath_treeNode (sk seed : List Byte) (layer tree leaf : Nat) (n h : Nat) :
    authPath seed ⟨layer, tree, 2, 0, 0, 0⟩ h (leaf / 2 ^ h)
      ((List.range' h n).map (fun j => treeNode sk seed layer tree j (leaf / 2 ^ j ^^^ 1))) (treeNode sk seed layer tree h (leaf / 2 ^ h))
      = treeNode sk seed layer tree (h + n) (leaf / 2 ^ (h + n)) := by
  induction n generalizing h with
  | zero => rfl
  | succ n ih =>
    have e : leaf / 2 ^ h / 2 = leaf / 2 ^ (h + 1) := by rw [Nat.div_div_eq_div_mul, Nat.pow_succ]
    rw [List.range'_succ, List.map_cons, authPath, show h + (n + 1) = h + 1 + n from by omega, ← ih (h + 1), e]
    congr 1
    rw [treeNode, ← e, xor_one]
    split
    · rename_i hz
      rw [show 2 * (leaf / 2 ^ h / 2) = leaf / 2 ^ h from by omega]
    · rename_i hz
      rw [show 2 * (leaf / 2 ^ h / 2) + 1 = leaf / 2 ^ h from by omega, show 2 * (leaf / 2 ^ h / 2) = leaf / 2 ^ h - 1 from by omega]

/-- A layer's signature of a message gives the root of the layer's tree. -/
theorem xmssRoot_layerSign (sk seed : List Byte) (hp layer tree leaf : Nat) (m : List Byte) (h : m.length = 32) (hl : leaf < 2 ^ hp) :
    xmssRoot seed layer tree leaf ((layerSign sk seed hp layer tree leaf m).take 67) ((layerSign sk seed hp layer tree leaf m).drop 67) m
      = treeNode sk seed layer tree hp 0 := by
  have hw : (wotsSign sk seed ⟨layer, tree, 0, leaf, 0, 0⟩ m).length = 67 := by simp [wotsSign, wotsDigits_length, (wotsSecret_strings sk seed _).1, h]
  rw [layerSign, List.take_left' hw, List.drop_left' hw, xmssRoot, wotsPk_wotsSign _ _ _ _ h]
  have := authPath_treeNode sk seed layer tree leaf hp 0
  rw [Nat.zero_add, Nat.div_eq_of_lt hl, Nat.pow_zero, Nat.div_one, ← List.range_eq_range'] at this
  exact this

/-- The layers of a signature lead to the root of the topmost tree. -/
theorem xmssLayers_layersSign (sk seed : List Byte) (hp n layer idx : Nat) (m : List Byte) (h : m.length = 32) :
    xmssLayers seed hp layer idx (chunksOf (67 + hp) (n + 1) (layersSign sk seed hp (n + 1) layer idx m)) m
      = treeNode sk seed (layer + n) (idx / 2 ^ (hp * (n + 1))) hp 0 := by
  induction n generalizing layer idx m with
  | zero =>
    have a := layerSign_strings sk seed hp layer (idx / 2 ^ hp) (idx % 2 ^ hp) m h
    rw [layersSign, layersSign, List.append_nil, chunksOf, if_neg (by rw [List.isEmpty_iff]; intro e; have := a.1; rw [e] at this; simp at this; omega),
      List.take_of_length_le (by omega), List.drop_of_length_le (by omega), chunksOf, xmssLayers, xmssLayers,
      xmssRoot_layerSign _ _ _ _ _ _ _ h (Nat.mod_lt _ (Nat.two_pow_pos _))]
    simp
  | succ n ih =>
    have a := layerSign_strings sk seed hp layer (idx / 2 ^ hp) (idx % 2 ^ hp) m h
    rw [layersSign, chunksOf, if_neg (by rw [List.isEmpty_iff]; intro e; have := congrArg List.length e; rw [List.length_append, a.1] at this; simp at this),
      List.take_left' a.1, List.drop_left' a.1, xmssLayers, xmssRoot_layerSign _ _ _ _ _ _ _ h (Nat.mod_lt _ (Nat.two_pow_pos _)),
      ih _ _ _ (treeNode_length _ _ _ _ _ _)]
    congr 1
    · omega
    · rw [Nat.div_div_eq_div_mul, ← Nat.pow_add, Nat.mul_succ hp (n + 1), Nat.add_comm (hp * (n + 1))]

/-! ### The verifier accepts -/

theorem beNat_beBytes (n v : Nat) : beNat (beBytes n v) = v % 256 ^ n := by rw [beNat, beBytes, List.reverse_reverse, leNat_leBytes]

@[simp] theorem beBytes_length (n v : Nat) : (beBytes n v).length = n := by rw [beBytes, List.length_reverse, leBytes_length]

theorem chunksOf_of_flatten {α : Type} {n : Nat} (hn : 0 < n) (l : List (List α)) (h : ∀ v ∈ l, v.length = n) : chunksOf n l.length l.flatten = l := by
  induction l with
  | nil => rfl
  | cons a l ih =>
    have ha := h a (by simp)
    rw [List.length_cons, List.flatten_cons, chunksOf, if_neg (by rw [List.isEmpty_iff]; intro e; have := congrArg List.length e; simp [ha] at this; omega),
      List.take_left' ha, List.drop_left' ha, ih (fun v hv => h v (by simp [hv]))]

/-- The layers of the permitted sets share out the height. -/
theorem xmssSet_layers {oid : Nat} {x : XmssSet} (h : xmssSet oid = some x) : 0 < x.d ∧ x.hp * x.d = x.h := by
  unfold xmssSet at h
  split at h
  · obtain ⟨k, hk, rfl⟩ : ∃ k, k < 8 ∧ oid = 0x29 + k := ⟨oid - 0x29, by omega, by omega⟩
    rw [Nat.add_sub_cancel_left] at h
    have : ∀ k, k < 8 → ∀ x ∈ ([⟨20, 2⟩, ⟨20, 4⟩, ⟨40, 2⟩, ⟨40, 4⟩, ⟨40, 8⟩, ⟨60, 3⟩, ⟨60, 6⟩, ⟨60, 12⟩] : List XmssSet)[k]?, 0 < x.d ∧ x.hp * x.d = x.h := by decide
    exact this k hk x h
  · cases h

/-- The public key of a signer: OID, root, PUB_SEED. -/
def signerKey (oid : Nat) (x : XmssSet) (sk seed : List Byte) : List Byte := beBytes 4 oid ++ treeNode sk seed (x.d - 1) 0 x.hp 0 ++ seed

@[simp] theorem signerKey_length (oid : Nat) (x : XmssSet) (sk seed : List Byte) (h : seed.length = 32) : (signerKey oid x sk seed).length = 68 := by
  simp [signerKey, h]

/-- A whole signature: the leaf index, then what follows it. -/
def wholeSign (x : XmssSet) (sk prf seed : List Byte) (idx : Nat) (m : List Byte) : List Byte := beBytes (ceilDiv x.h 8) idx ++ xmssSign x sk prf seed idx m

theorem xmssSign_length (x : XmssSet) (sk prf seed : List Byte) (idx : Nat) (m : List Byte) :
    (xmssSign x sk prf seed idx m).length = 32 + x.d * (67 + x.hp) * 32 := by
  have h := layersSign_strings sk seed x.hp x.d 0 idx
    (xmssHash 2 (xmssHash 3 prf (beBytes 32 idx) ++ treeNode sk seed (x.d - 1) 0 x.hp 0 ++ beBytes 32 idx) m) (xmssHash_length _ _ _)
  rw [xmssSign, List.length_append, flatten_length_of_all h.2, h.1, xmssHash_length, Nat.mul_comm]

theorem wholeSign_length (x : XmssSet) (sk prf seed : List Byte) (idx : Nat) (m : List Byte) : (wholeSign x sk prf seed idx m).length = x.sigLen := by
  rw [wholeSign, List.length_append, beBytes_length, xmssSign_length, XmssSet.sigLen]; omega

/-- Every signature made with a leaf of the tree verifies under the signer's public key. -/
theorem xmssVerify_wholeSign {oid : Nat} {x : XmssSet} (h : xmssSet oid = some x) (sk prf seed : List Byte) (hs : seed.length = 32) (idx : Nat)
    (hi : idx < 2 ^ x.h) (m : List Byte) : xmssVerify (signerKey oid x sk seed) m (wholeSign x sk prf seed idx m) = true := by
  have ho : oid < 256 ^ 4 := by
    unfold xmssSet at h
    split at h
    · omega
    · cases h
  obtain ⟨hd, hh⟩ := xmssSet_layers h
  have hn : idx < 256 ^ ceilDiv x.h 8 := by
    refine Nat.lt_of_lt_of_le hi ?_
    rw [show 256 = 2 ^ 8 from rfl, ← Nat.pow_mul]
    exact Nat.pow_le_pow_right (by omega) (by unfold ceilDiv; omega)
  have k1 : (signerKey oid x sk seed).take 4 = beBytes 4 oid := by rw [signerKey, List.append_assoc, List.take_left' (beBytes_length 4 oid)]
  have k2 : ((signerKey oid x sk seed).drop 4).take 32 = treeNode sk seed (x.d - 1) 0 x.hp 0 := by
    rw [signerKey, List.append_assoc, List.drop_left' (beBytes_length 4 oid), List.take_left' (treeNode_length _ _ _ _ _ _)]
  have k3 : ((signerKey oid x sk seed).drop 36).take 32 = seed := by
    rw [signerKey, List.drop_left' (by simp), List.take_of_length_le (by omega)]
  rw [xmssVerify, k1, beNat_beBytes, Nat.mod_eq_of_lt ho, h]
  dsimp only
  rw [k2, k3, wholeSign_length, beq_self_eq_true, Bool.true_and, wholeSign, List.take_left' (beBytes_length _ _), List.drop_left' (beBytes_length _ _),
    beNat_beBytes, Nat.mod_eq_of_lt hn, ← List.drop_drop, List.drop_left' (beBytes_length _ _), xmssSign]
  rw [List.take_left' (xmssHash_length _ _ _), List.drop_left' (xmssHash_length _ _ _)]
  have l := layersSign_strings sk seed x.hp x.d 0 idx
    (xmssHash 2 (xmssHash 3 prf (beBytes 32 idx) ++ treeNode sk seed (x.d - 1) 0 x.hp 0 ++ beBytes 32 idx) m) (xmssHash_length _ _ _)
  have c := chunksOf_of_flatten (by omega) _ l.2
  rw [l.1] at c
  rw [c, beq_iff_eq]
  obtain ⟨n, hn⟩ : ∃ n, x.d = n + 1 := ⟨x.d - 1, by omega⟩
  rw [hn, xmssLayers_layersSign _ _ _ _ _ _ _ (xmssHash_length _ _ _), ← hn, hh, Nat.div_eq_of_lt hi]
  congr 1
  omega

end Sys2Proof.Machine
end

