-- ==== Sys2Proof/Tests/Slice0.lean ====
section
/-! SUPPORT. Sys2Proof/Tests/Slice0.lean: tests: operands that are refused, words written out from the encodings, a witness for the
hypotheses of every statement. -/

open Sys2Proof Sys2Proof.Machine

namespace Sys2Proof.Tests

set_option Elab.async false

/-! ### States of the tests -/

/-- Reset, with registers written. -/
def regs (l : List (Nat × Word)) : State := l.foldl (fun s p => s.wr p.1 p.2) State.reset

/-- A state with registers written. -/
def wrs (s : State) (l : List (Nat × Word)) : State := l.foldl (fun s p => s.wr p.1 p.2) s

/-- A context with a core record of slot 0 of core 0, 4 KiB from 0. -/
def ctx0 (st : CtxState) : CtxSt := { CtxSt.init with state := st, weight := 1, cores := [⟨0, 0, 4, 0, 0⟩] }

/-- A partition of channel 0 with job 7 and two contexts, context 1 as given. -/
def part1 (x : CtxSt) : PartSt :=
  { PartSt.init with configured := true, chmask := 1, nctx := 2, job := 7, landKb := 4, landMsg := 4, ctxs := [(1, x)] }

/-- Partition 0 configured, channel 0 ON, context 1 resident in slot 0 of core 0 with a 4 KiB window. -/
def chip (x : CtxSt) : State :=
  { (wrs State.reset [(R.CP_STAT 0, mkF F.CP_STAT_STATE 1), (winReg 0 0, mkF F.CORE_WIN_CFG_EN 1 ||| mkF F.CORE_WIN_CFG_SIZE 4)]).onSlot 0 0
      (fun _ => { Slot.init with owner := some (0, 1) }) with parts := [(0, part1 x)] }

/-- Core 0 runs that context with bank `b`, and `w` is at its pc, which lies in line 0. -/
def run (w : Word) (b : Slot) : State :=
  ((wrs (chip (ctx0 .running)) [(statReg 0, mkF F.CORE_STAT_RUN 1)]).onCore 0 (fun x =>
    { x with ibuf := [(0, some ⟨0, Memory.putNum [] b.pc 4 w.toNat, false⟩)] })).onSlot 0 0 (fun _ => { b with owner := some (0, 1) })

/-- What Executes says, as a check. -/
def executesB (s : State) (c : Nat) (w : Word) : Bool :=
  decide ((s.canIssue c = true ∧ s.fetched c (s.active c) = some w) ∧ illegalWord w = false
    ∧ (notLast w = true → ∀ l ∈ (s.bank c).loops, l.last ≠ (s.bank c).pc) ∧ (s.bank c).p (guardOf w) = true)

/-- The check is right. -/
theorem executes_of {s : State} {c : Nat} {w : Word} (h : executesB s c w = true) : s.Executes c w :=
  have k := of_decide_eq_true h
  { fetches := k.1, legal := k.2.1, place := k.2.2.1, guard := k.2.2.2 }

/-- Whether core 0 executes a word in a bank. -/
def runs (w : Word) (b : Slot) : Bool := executesB (run w b) 0 w

/-! ### Ill-formed operands are refused, one for each check; the largest value is accepted -/

theorem test_wf_core : (Instr.twaitReturn 1024).wf = false ∧ (Instr.twaitReturn 1023).wf = true
    ∧ (Instr.tokenCompletion 0 16).wf = false ∧ (Instr.tokenCompletion 1023 15).wf = true
    ∧ (Instr.contextFault 0 4).wf = false ∧ (Instr.contextFault 0 3).wf = true
    ∧ (Instr.channelEnable 4).wf = false ∧ (Instr.channelEnable 3).wf = true
    ∧ (Instr.syncCfgChange 0 0 16384 0).wf = false ∧ (Instr.syncCfgChange 5 3 16383 0).wf = true
    ∧ (Instr.fabrst 6).wf = false ∧ (Instr.stepStart 4).wf = false ∧ (Instr.stepStart 3).wf = true
    ∧ (Instr.contextTeardownEnd 0 8).wf = false ∧ (Instr.contextTeardownEnd 3 7).wf = true
    ∧ (Instr.coreFailure 0 16 0 1).wf = false ∧ (Instr.coreFailure 0 0 17 1).wf = false
    ∧ (Instr.coreFailure 0 0 0 0).wf = false ∧ (Instr.coreFailure 0 0 0 6).wf = false ∧ (Instr.coreFailure 3 15 16 5).wf = true := by decide

theorem test_wf_host : (Instr.elogEnable 5 0).wf = false ∧ (Instr.elogEnable 4 0).wf = true
    ∧ (Instr.qpDrain 0 64).wf = false ∧ (Instr.qpDrain 4 63).wf = true
    ∧ (Instr.doorbellSqTail 0 0x1000 8 0).wf = false ∧ (Instr.doorbellSqTail 0 0 3 0).wf = false ∧ (Instr.doorbellSqTail 0 0xFF8 8 0).wf = true
    ∧ (Instr.numvfsWrite 5).wf = false ∧ (Instr.numvfsWrite 4).wf = true
    ∧ (Instr.pairLowRead 0 (2 ^ 26)).wf = false ∧ (Instr.pairLowRead 0 (2 ^ 26 - 4)).wf = true
    ∧ (Instr.mgRead 0 0 0 (2 ^ 24 + 1)).wf = false ∧ (Instr.mgRead 0 0 0 (2 ^ 24)).wf = true
    ∧ (Instr.mgWrite 0 0 0 [1#8]).wf = true
    ∧ (Instr.recorderRead 0 8 0).wf = false ∧ (Instr.recorderRead 0 0 (2 ^ 14)).wf = false ∧ (Instr.recorderRead 0 7 (2 ^ 14 - 1)).wf = true
    ∧ (Instr.flush 16).wf = false ∧ (Instr.flush 12).wf = true
    ∧ (Instr.jtagInstruction 6 false []).wf = false ∧ (Instr.jtagInstruction 0 false [(10000, true)]).wf = false
    ∧ (Instr.jtagInstruction 5 true [(9999, true)]).wf = true := by decide

theorem test_wf_mg_data (l : List Byte) (h : 2 ^ 26 < l.length) : (Instr.mgWrite 0 0 0 l).wf = false := by
  simp [Instr.wf, isMgData]; omega

theorem test_wf_links_and_ports : (Instr.linkDown 16).wf = false ∧ (Instr.linkDown 15).wf = true
    ∧ (Instr.idleFlit 0 0 false []).wf = false ∧ (Instr.idleFlit 15 0 false (List.replicate 256 0#8)).wf = true
    ∧ (Instr.trainingEnd 0 17 0 0 []).wf = false ∧ (Instr.trainingEnd 0 0 16 0 []).wf = false ∧ (Instr.trainingEnd 15 16 15 15 []).wf = true
    ∧ (Instr.linePacket 8 []).wf = false ∧ (Instr.linePacket 7 []).wf = true
    ∧ (Instr.controlFrame 2 []).wf = false ∧ (Instr.controlFrame 1 []).wf = true
    ∧ (Instr.frameTimeout 64).wf = false ∧ (Instr.frameTimeout 63).wf = true
    ∧ (Instr.sampleStart 0 12).wf = false ∧ (Instr.sampleStart 0 11).wf = true := by decide +kernel

theorem test_wf_island : (Instr.loopStart 16).wf = false ∧ (Instr.loopStart 15).wf = true
    ∧ (Instr.groupCheckEnd 64).wf = false ∧ (Instr.groupCheckEnd 63).wf = true
    ∧ (Instr.leRestore 0 1024).wf = false ∧ (Instr.leRestore 0 1023).wf = true
    ∧ (Instr.mailboxStale 256).wf = false ∧ (Instr.mailboxStale 255).wf = true
    ∧ (Instr.holdover 2).wf = false ∧ (Instr.holdover 1).wf = true
    ∧ (Instr.ptpSync ⟨2, 0, 0, 2, true, 0, 0, 0, 0, 0, false, false⟩).wf = false
    ∧ (Instr.ptpSync ⟨0, 3, 0, 2, true, 0, 0, 0, 0, 0, false, false⟩).wf = false
    ∧ (Instr.ptpSync ⟨0, 0, 0, 2, true, 0, 0, 0, 0, 1000000000, false, false⟩).wf = false
    ∧ (Instr.pdelayReq 0 (some ⟨2, 0, 0, 2, true, 0, 0, 0, 0, 0, false, false⟩)).wf = false
    ∧ (Instr.pdelayReq 1 (some ⟨1, 2, 0, 2, true, 0, 0, 0, 0, 999999999, false, false⟩)).wf = true
    ∧ (Instr.silentTest 64).wf = false ∧ (Instr.silentTest 63).wf = true
    ∧ (Instr.porstN false 32 0).wf = false ∧ (Instr.porstN false 31 0).wf = true ∧ (Instr.tripIn 8 0).wf = false ∧ (Instr.tripIn 7 0).wf = true
    ∧ (Instr.tripPathFault 3 0).wf = false ∧ (Instr.tripPathFault 2 63).wf = true
    ∧ (Instr.fabricSliceEnd 0 [16]).wf = false ∧ (Instr.fabricSliceEnd 3 [15]).wf = true
    ∧ (Instr.bistEnd [(0, 17)]).wf = false ∧ (Instr.bistEnd [(15, 16)]).wf = true
    ∧ (Instr.castOnSelfTestEnd [(4, 0, 0)]).wf = false ∧ (Instr.castOnSelfTestEnd [(3, 15, 16)]).wf = true
    ∧ (Instr.gaugeMeasurement (some 4)).wf = false ∧ (Instr.gaugeMeasurement none).wf = true
    ∧ (Instr.supplyWarning 5).wf = false ∧ (Instr.supplyWarning 4).wf = true
    ∧ (Instr.thermalSample 5 0).wf = false ∧ (Instr.thermalSample 4 0).wf = true
    ∧ (Instr.pwrUp 50).wf = false ∧ (Instr.pwrUp 49).wf = true := by decide

/-! ### Words written out from the encoding tables (R91-R93), one of each format, decode to their instruction -/

theorem test_decode_scalar : decodeCore 0 0b000001_000_00101_00110_00111_00000000#32 = some (.scAlu 0 ⟨0#3, 5#5, 6#5, 7#5, 0#8⟩)
    ∧ decodeCore 1 0b000010_001_00001_00010_1111111111111#32 = some (.scAddi 1 ⟨1#3, 1#5, 2#5, 0x1FFF#13⟩)
    ∧ decodeCore 2 0b001001_000_011_00001_00010_0101_000000#32 = some (.scCmp 2 ⟨0#3, 3#3, 1#5, 2#5, 5#4, 0#6⟩)
    ∧ decodeCore 3 0b001100_000_00100_0101_10_000000001000#32 = some (.scLd 3 ⟨0#3, 4#5, 5#4, 2#2, 8#12⟩) := by decide

theorem test_decode_others : decodeCore 4 0b010001_000_11111111111111111111111#32 = some (.brJmp 4 ⟨0#3, 0x7FFFFF#23⟩)
    ∧ decodeCore 7 0b101101_000_0000_0001_0010_00010_000001#32 = some (.msgMove 7 ⟨0#3, 0#4, 1#4, 2#4, 2#5, 1#6⟩)
    ∧ decodeCore 0 0x00000000#32 = none ∧ decodeCore 0 0xFFFFFFFF#32 = none := by decide

/-! ### Witnesses: a state and operands that meet the hypotheses of each statement about cores -/

theorem test_wit_StepTakesFront : (State.reset.push (.sqNop 0 ⟨0#26⟩)).pending = [.sqNop 0 ⟨0#26⟩] ∧ State.reset.pending = [] := by decide

theorem test_wit_DecodeEncode : encodeCore (.scAlu 1023 ⟨7#3, 31#5, 31#5, 31#5, 255#8⟩) = some (1023, 0b000001_111_11111_11111_11111_11111111#32) := by decide

/-- An ILLEGAL word at the pc of a core that runs. -/
theorem test_wit_IllegalWordFaults : (run ((⟨0#3, 0#5, 0#5, 0#5, 16#8⟩ : FmtR).word 1#6) Slot.init).canIssue 0 = true
    ∧ (run ((⟨0#3, 0#5, 0#5, 0#5, 16#8⟩ : FmtR).word 1#6) Slot.init).fetched 0 0 = some ((⟨0#3, 0#5, 0#5, 0#5, 16#8⟩ : FmtR).word 1#6)
    ∧ (run ((⟨0#3, 0#5, 0#5, 0#5, 16#8⟩ : FmtR).word 1#6) Slot.init).active 0 = 0
    ∧ encodeCore (.scAlu 0 ⟨0#3, 0#5, 0#5, 0#5, 16#8⟩) = some (0, (⟨0#3, 0#5, 0#5, 0#5, 16#8⟩ : FmtR).word 1#6)
    ∧ illegalWord ((⟨0#3, 0#5, 0#5, 0#5, 16#8⟩ : FmtR).word 1#6) = true ∧ State.Clean 0 (run 0 Slot.init) := by
  unfold State.Clean; decide +kernel

/-- Guard p1, which reads 0. -/
theorem test_wit_GuardOff : ∃ s : State, s.Fetches 0 ((⟨1#3, 0#5, 0#5, 0#13⟩ : FmtI).word 2#6) ∧ illegalWord ((⟨1#3, 0#5, 0#5, 0#13⟩ : FmtI).word 2#6) = false
    ∧ notLast ((⟨1#3, 0#5, 0#5, 0#13⟩ : FmtI).word 2#6) = false ∧ (s.bank 0).p (guardOf ((⟨1#3, 0#5, 0#5, 0#13⟩ : FmtI).word 2#6)) = false :=
  ⟨run ((⟨1#3, 0#5, 0#5, 0#13⟩ : FmtI).word 2#6) Slot.init, ⟨by decide +kernel, by decide +kernel⟩, by decide, by decide, by decide +kernel⟩

/-- Every form of the scalar statements executes: first and last code of sc.alu, the immediate forms, compares, predicate logic, address arithmetic. -/
theorem test_wit_ScalarAluAndImmediates_PredicatesAndFloatOrder_AddressArithmetic : [(⟨0#3, 0#5, 0#5, 0#5, 0#8⟩ : FmtR).word 1#6, (⟨0#3, 31#5, 3#5, 0#5, 15#8⟩ : FmtR).word 1#6,
    (⟨0#3, 1#5, 2#5, 0x1FFF#13⟩ : FmtI).word 2#6, (⟨0#3, 1#5, 2#5, 1#13⟩ : FmtI).word 3#6, (⟨0#3, 1#5, 2#5, 1#13⟩ : FmtI).word 4#6,
    (⟨0#3, 1#5, 2#5, 1#13⟩ : FmtI).word 5#6, (⟨0#3, 1#5, 2#5, 31#13⟩ : FmtI).word 6#6, (⟨0#3, 1#5, 2#5, 0b01_11111#13⟩ : FmtI).word 6#6,
    (⟨0#3, 1#5, 2#5, 0b10_00000#13⟩ : FmtI).word 6#6, (⟨0#3, 1#5, 0x3FFFF#18⟩ : FmtK).word 7#6, (⟨0#3, 1#5, 0#18⟩ : FmtK).word 8#6,
    (⟨0#3, 0#3, 1#5, 2#5, 0#4, 0#6⟩ : FmtC).word 9#6, (⟨0#3, 7#3, 1#5, 2#5, 10#4, 0#6⟩ : FmtC).word 9#6,
    (⟨0#3, 1#3, 1#5, 5#4, 0x7FF#11⟩ : FmtCI).word 10#6, (⟨0#3, 1#3, 2#3, 3#3, 5#4, 0#10⟩ : FmtP).word 11#6,
    (⟨0#3, 1#4, 2#4, 3#5, 3#2, 0#8⟩ : FmtAR).word 15#6, (⟨0#3, 1#4, 2#4, 3#5, 3#2, 1#8⟩ : FmtAR).word 15#6, (⟨0#3, 1#4, 2#4, 3#5, 0#2, 2#8⟩ : FmtAR).word 15#6,
    (⟨0#3, 1#4, 2#4, 3#5, 0#2, 3#8⟩ : FmtAR).word 15#6, (⟨0#3, 15#4, 0#4, 0x7FFF#15⟩ : FmtAI).word 16#6].all (fun w => runs w Slot.init) = true := by
  decide +kernel

/-- Loads and stores: the last word of the window, the byte beyond it, and an address register with PLANE = 1. -/
theorem test_wit_ScalarLoadsAndStores : [0xFFC#32, 0xFFD#32, 0x80000000#32].all (fun a => runs ((⟨0#3, 1#5, 2#4, 2#2, 0#12⟩ : FmtM).word 12#6) (Slot.init.setA 2 a)
      && runs ((⟨0#3, 1#5, 2#4, 2#2, 0#12⟩ : FmtM).word 13#6) (Slot.init.setA 2 a) && runs ((⟨0#3, 1#5, 2#4, 2#2, 0#12⟩ : FmtM).word 14#6) (Slot.init.setA 2 a)) = true
    ∧ memAddr ⟨0#3, 1#5, 2#4, 2#2, 0#12⟩ (Slot.init.setA 2 0xFFC#32) + 4 = 4096 ∧ memAddr ⟨0#3, 1#5, 2#4, 2#2, 0#12⟩ (Slot.init.setA 2 0xFFD#32) + 4 = 4097
    ∧ aPlane ((Slot.init.setA 2 0x80000000#32).a 2) = true ∧ (run 0 Slot.init).bound 0 0 = 4096 ∧ (run 0 Slot.init).ue = [] := by
  decide +kernel

/-- A load while an operation that touches no word is in flight, and one after it. -/
theorem test_wit_memory_in_flight : ∃ s : State, s.Executes 0 ((⟨0#3, 1#5, 2#4, 2#2, 0#12⟩ : FmtM).word 12#6) ∧ (s.core 0).ops ≠ []
    ∧ MetIn (s.issued 0) (s.issued 0) ((s.issued 0).clash 0 16) ∧ (s.issued 0).regs = s.regs
    ∧ (∀ a, a ∈ wordsOf 0 4 → FMap.get false (s.issued 0).ue a = false) ∧ Undisturbed (s.issued 0) 0 16 0 4 := by
  have h : ((((run ((⟨0#3, 1#5, 2#4, 2#2, 0#12⟩ : FmtM).word 12#6) { Slot.init with pend := 1 }).onCore 0
      (fun x => { x with ops := [⟨.move, 1, 0, 0, 0#32, 0#32, 0#32, 0#32, 0#32⟩] })).issued 0).clash 0 16) = [] := by decide +kernel
  refine ⟨(run ((⟨0#3, 1#5, 2#4, 2#2, 0#12⟩ : FmtM).word 12#6) { Slot.init with pend := 1 }).onCore 0
    (fun x => { x with ops := [⟨.move, 1, 0, 0, 0#32, 0#32, 0#32, 0#32, 0#32⟩] }), executes_of (by decide +kernel), by decide +kernel, ?_, by decide +kernel,
    by decide +kernel, ?_⟩
  · rw [h]; exact ⟨fun v hv => (by cases hv), fun _ _ => rfl, fun _ _ => rfl⟩
  · unfold Undisturbed; rw [h]; exact fun v hv => (by cases hv)

/-- The last column of a row, two columns and two rows 31 apart. -/
theorem test_wit_PlaneBanks : planeCell 3 32 5 31 = (3 + 5 * 32) * 1024 + 4 * 32 ∧ bankOf (planeCell 3 32 5 31) = 4 ∧ bankOf (planeCell 3 32 5 0) = 5
    ∧ bankOf (planeCell 3 32 36 31) = 3 := by decide +kernel

/-- Branches and loops: no loop armed; a loop that ends here with 2 or 1 iterations left; four loops armed. -/
theorem test_wit_SequencerMoves : [(⟨0#3, 0x7FFFFF#23⟩ : FmtB).word 17#6, (⟨0#3, 0#23⟩ : FmtB).word 18#6, (⟨0#3, 0#5, 31#5, 0#13⟩ : FmtJ).word 19#6,
      (⟨0#26⟩ : FmtZ).word 23#6, (⟨0#2, 1#1, 1023#10, 1#13⟩ : FmtL).word 20#6, (⟨3#2, 1#1, 0#10, 0x1FFF#13⟩ : FmtL).word 20#6,
      (⟨3#2, 0#1, 31#10, 1#13⟩ : FmtL).word 20#6].all (fun w => runs w Slot.init) = true
    ∧ [⟨0, 0, 0, 2⟩, ⟨0, 0, 0, 1⟩, ⟨0, 0, 4, 1⟩].all (fun l => runs ((⟨0#26⟩ : FmtZ).word 23#6) { Slot.init with loops := [l] }) = true
    ∧ runs ((⟨0#2, 1#1, 1#10, 1#13⟩ : FmtL).word 20#6) { Slot.init with loops := [⟨3, 0, 8, 1⟩, ⟨2, 0, 8, 1⟩, ⟨1, 0, 8, 1⟩, ⟨0, 0, 8, 1⟩] } = true
    ∧ runs ((⟨0#2, 1#1, 1#10, 3#13⟩ : FmtL).word 20#6) { Slot.init with loops := [⟨3, 0, 8, 1⟩] } = true := by
  decide +kernel

/-- The last instruction of a part with tokens COMPLETE and PENDING, an emptied buffer, token waits. -/
theorem test_wit_SequencerMoves_SequencerWaits : (run 0 Slot.init).paused (chanOf 0) = false ∧ [0, 1].all (fun p => runs ((⟨0#26⟩ : FmtZ).word 21#6) { Slot.init with pend := p }
      && runs ((⟨0#10, 1#16⟩ : FmtT).word 24#6) { Slot.init with pend := p }) = true
    ∧ runs ((⟨0#26⟩ : FmtZ).word 22#6) Slot.init = true ∧ (run 0 Slot.init).bank 0 = { Slot.init with owner := some (0, 1) }
    ∧ (({ Slot.init with pend := 1 } : Slot).tokPending 0 = true) ∧ Slot.init.tokPending 15 = false
    ∧ (((run 0 Slot.init).onCore 0 (fun x => { x with wait := .tokens 0x8000 })).core 0).wait = .tokens (0x8000#16).toNat := by
  decide +kernel

/-- Every unit operation issues with a COMPLETE token, and one with a PENDING token and one with a reserved type. -/
theorem test_wit_UnitIssue : [Instr.mxWload 0 ⟨0#3, 15#4, 1#4, 2#4, 3#4, 4#5, 0#2⟩, .mxTile 0 ⟨0#3, 0#4, 1#4, 2#4, 3#4, 4#5, 0#2⟩, .mxFin 0 ⟨0#3, 0#4, 1#4, 2#4, 4#5, 0#6⟩,
      .cwCfg 0 ⟨0#3, 0#4, 1#4, 2#4, 4#5, 0#6⟩, .cwWindow 0 ⟨0#3, 0#4, 1#4, 2#4, 3#4, 4#5, 0#2⟩, .vxArith 0 ⟨0#3, 0#4, 1#4, 2#4, 3#4, 4#5, 0#2⟩,
      .vxMinmax 0 ⟨0#3, 0#4, 1#4, 2#4, 3#4, 4#5, 0#2⟩, .vxFn 0 ⟨0#3, 0#4, 1#4, 2#4, 4#5, 0#6⟩, .vxCvt 0 ⟨0#3, 0#4, 1#4, 2#4, 4#5, 0#6⟩,
      .vxMxq 0 ⟨0#3, 0#4, 1#4, 2#4, 3#4, 7#5, 0#2⟩, .vxRed 0 ⟨0#3, 0#4, 1#4, 2#4, 4#5, 0#6⟩, .vxRand 0 ⟨0#3, 0#4, 1#4, 2#4, 4#5, 0#6⟩,
      .vxSample 0 ⟨0#3, 0#4, 1#4, 2#4, 3#4, 4#5, 0#2⟩, .msgMove 0 ⟨0#3, 0#4, 1#4, 2#4, 4#5, 0#6⟩, .msgSend 0 ⟨0#3, 0#4, 1#4, 2#4, 8#5, 0#6⟩,
      .crPush 0 ⟨0#3, 0#4, 1#4, 2#4, 4#5, 0#6⟩, .dgLeaf 0 ⟨0#3, 0#4, 1#4, 2#4, 4#5, 0#6⟩, .dgResult 0 ⟨0#3, 0#4, 1#4, 2#4, 4#5, 0#6⟩].map
      (fun i => match encodeCore i with
        | some (_, w) => (runs w ((Slot.init.setS 7 0x07000000#32).setS 8 4096#32), (opOf i ((Slot.init.setS 7 0x07000000#32).setS 8 4096#32)).map UOp.bad)
        | none => (false, none)) = List.replicate 18 (true, some false)
    ∧ runs ((⟨0#3, 0#4, 1#4, 2#4, 3#4, 4#5, 0#2⟩ : FmtU2).word 32#6) { Slot.init with pend := 1 } = true
    ∧ (captureU2 .wload ⟨0#3, 0#4, 1#4, 2#4, 3#4, 4#5, 0#2⟩ (Slot.init.setS 4 0x00F00000#32)).bad = true := by
  decide +kernel

/-- An operation in flight under token 0, alone; one that completes, and one whose window lies beyond the bound and faults. -/
def flying (o : UOp) : State := (run 0 { Slot.init with pend := 1 }).onCore 0 (fun x => { x with ops := [o] })

/-- A byte-addressed msg.move of 16 bytes from 0 to `d`. -/
def moves (fn : Nat) (d : Word) : UOp := ⟨.move, fn, 0, 0, d, 0#32, 0#32, 16#32, 0#32⟩

/-- Such a fill in flight, with byte 8 of the core changed from 7 to 0 since its issue. -/
def clashing : State :=
  { (flying (moves 1 4080)).onCore 0 (fun x => { x with seen := [(0, some ⟨0, 0⟩)] }) with
    words := [(0, [⟨1, 7#8 :: List.replicate 7 0#8, false, List.replicate 8 true⟩])] }

theorem test_wit_TokenCompletes : (flying (moves 1 4080)).isRunning 0 = true ∧ (flying (moves 1 4080)).paused (chanOf 0) = false
    ∧ ((flying (moves 1 4080)).core 0).ready 0 = some (moves 1 4080)
    ∧ (match ((uRun 0 0 (moves 1 4080)).go ((flying (moves 1 4080)).onCore 0 (fun x => { x with ops := [] }))).1 with
      | .ok _ => true
      | .error _ => false) = true
    ∧ (match ((uRun 0 0 (moves 1 4081)).go ((flying (moves 1 4081)).onCore 0 (fun x => { x with ops := [] }))).1 with
      | .ok _ => false
      | .error e => decide (e.cls = 2)) = true
    ∧ (flying (moves 1 4080)).clash 0 0 = [] ∧ (clashing.clash 0 0).map (fun v => (v.word, v.values.map Prod.fst)) = [(1, [7#8 :: List.replicate 7 0#8, List.replicate 8 0#8])]
    ∧ ((flying (moves 1 4080)).core 0).posted.get none 0 = none
    ∧ (clashing.core 0).ready 0 = some (moves 1 4080) := by
  decide +kernel

/-- A copy and a fill up to the bound, a leaf digest. -/
theorem test_wit_MoveAndDigest : [moves 0 4080, moves 1 4080, ⟨.leaf, 0, 0, 0, 4064, 0, 0, 0, 0⟩].all (fun o =>
      ((flying o).core 0).ready 0 == some o && !aPlane o.aD && !aPlane o.aA) = true
    ∧ aOff (4080#32) + 16 = (flying (moves 0 4080)).bound 0 0 ∧ aOff (4064#32) + 32 = 4096 ∧ (flying (moves 0 4080)).ue = []
    ∧ (flying (moves 0 4080)).clash 0 0 = [] ∧ (clashing.clash 0 0).all (fun v => v.word * 8 + 8 ≤ 4080) = true := by
  decide +kernel

theorem test_wit_FetchAndStop : ((run 0 Slot.init).onSlot 0 0 (fun b => { b with pc := 4096 })).bound 0 0 ≤ 4096
    ∧ ((run 0 Slot.init).onSlot 0 0 (fun b => { b with pc := 4096 })).canIssue 0 = true
    ∧ ((run 0 Slot.init).onSlot 0 0 (fun b => { b with pc := 3072 })).canIssue 0 = true
    ∧ (((run 0 Slot.init).onSlot 0 0 (fun b => { b with pc := 3072 })).core 0).line 3 = none ∧ (run 0 Slot.init).ue = []
    ∧ ((run 0 Slot.init).onCore 0 (fun x => { x with stopped := true })).isRunning 0 = true
    ∧ (((run 0 Slot.init).onCore 0 (fun x => { x with stopped := true })).bank 0).owner = some (0, 1) := by
  decide +kernel

theorem test_wit_TreesWiringRoutes : (⟨false, 0, 4⟩ : Node).exists 5 = true ∧ (⟨true, 2, 0⟩ : Node).exists 5 = true
    ∧ (⟨false, 0, 4⟩ : Node).parent 5 = some (⟨true, 2, 0⟩, true) ∧ (⟨true, 2, 0⟩ : Node).parent 5 = none
    ∧ routeOf (fun _ _ => true) 0 271 ≠ none ∧ routeOf (fun a b => a == 0 && b == 1) 0 1 = some [(0, 1)] := by
  decide +kernel

/-! ### Witnesses: network, sync objects, reductions, attention -/

/-- sy.signal with a COMPLETE token, with a PENDING one, and out of reach; sy.wait here, on another channel, on another cluster. -/
theorem test_wit_SignalsLeaveAndCoresWait_SignalLeaves :
    [(Slot.init : Slot), { Slot.init with pend := 1 }, Slot.init.setS 4 0x4000#32].all (fun b => runs ((⟨0#3, 0#4, 1#4, 2#4, 4#5, 0#6⟩ : FmtU1).word 47#6) b) = true
    ∧ (run 0 Slot.init).handleTo 0 1 = .here 0 ∧ (run 0 Slot.init).handleTo 0x4000 1 = .refused
    ∧ (run 0 Slot.init).handleTo (2 ^ 31 + 2 ^ 25) 1 = .far 16 0 ∧ (run 0 Slot.init).handleTo 0xC0000000 1 = .refused
    ∧ [(0#32 : Word), 0x4000#32, 0x82000000#32].all (fun h => runs ((⟨0#4, 4#5, 5#5, 2#4, 0#8⟩ : FmtW).word 25#6) (Slot.init.setS 4 h)) = true
    ∧ captureU1 .signal ⟨0#3, 0#4, 1#4, 2#4, 4#5, 0#6⟩ Slot.init ∉ ((run 0 Slot.init).core 0).ops ∧ State.Clean 0 (run 0 Slot.init) := by
  unfold State.Clean; decide +kernel

/-- Core 0 stalled in a sy.wait at its pc, under a limit, with its release on its way. -/
def stalled : State :=
  ((wrs (run 0 Slot.init) [(winReg 0 0 + 8, mkF F.CORE_CTX_WAITLIM_LIMIT 1)]).onCore 0 (fun x => { x with wait := .sync 9 0 31 0 3 })).onNoc
    (fun n => { n with releases := [⟨.none, 4, 0⟩, ⟨.wait 0 9, 2, 0⟩] })

theorem test_wit_SignalsLeaveAndCoresWait_CoreWaits : (stalled.core 0).wait = .sync 9 0 31 (stalled.bank 0).pc 3 ∧ stalled.holds 0 = false ∧ stalled.paused (chanOf 0) = false ∧ stalled.isRunning 0 = true ∧ (stalled.core 0).stopped = false
    ∧ stalled.noc.releases[1]? = some ⟨.wait 0 9, 2, 0⟩ ∧ State.Clean 0 stalled
    ∧ stalled.fld (R.CORE_CTX_WAITLIM (chanOf 0) (posOf 0) (stalled.active 0)) F.CORE_CTX_WAITLIM_LIMIT ≠ 0 := by
  unfold State.Clean; decide +kernel

/-- Object 16383 of channel 0, enabled, of a KIND, PARTIES and VALUE, with waiters and one operation on its way. -/
def obj (kind parties value : Nat) (q : List Waiter) (o : SyncOp) : State :=
  ((wrs (chip (ctx0 .running)) [(cfgReg 16383, mkF F.SYNC_CFG_EN 1 ||| mkF F.SYNC_CFG_KIND kind ||| mkF F.SYNC_CFG_PARTIES parties),
    (valReg 16383, BitVec.ofNat 32 value)]).setQueue 16383 q).onNoc (fun n => { n with syncOps := [o] })

/-- An operation on it. -/
def opAt (kind arg : Nat) : SyncOp := ⟨kind, 16383, arg, 7, .wait 0 1, some (holdWord false 0 1)⟩

/-- Its hypotheses hold whatever the object is. -/
theorem addressed : ∀ q : Nat × Nat × Nat × List Waiter × Nat × Nat,
    q ∈ [(0, 0, 2 ^ 32 - 1, [], 3, 1), (0, 0, 0, [⟨0, 1, .desc 0, some 5⟩], 3, 1), (1, 2, 1, [⟨1, 0, .none, none⟩], 3, 1), (1, 3, 1, [], 3, 1),
      (2, 0, 0, [], 3, 1), (2, 0, 0, [⟨2, 1, .none, none⟩], 3, 1), (0, 0, 1, [], 1, 0), (0, 0, 1, [], 0, 1), (0, 0, 0, [], 0, 1), (2, 0, 1, [], 2, 1),
      (2, 0, 0, [], 2, 1), (1, 2, 1, [], 1, 0), (1, 2, 0, [], 1, 0)] →
    Addressed (obj q.1 q.2.1 q.2.2.1 q.2.2.2.1 (opAt q.2.2.2.2.1 q.2.2.2.2.2)) 0 (opAt q.2.2.2.2.1 q.2.2.2.2.2) 0 := by
  intro q hq
  constructor <;> (revert q; decide +kernel)

theorem test_wit_SyncSignalsAndWaits : ((obj 0 0 0 [⟨0, 1, .desc 0, some 5⟩] (opAt 3 1)).queue 16383 = [⟨0, 1, .desc 0, some 5⟩]
    ∧ (obj 1 2 1 [] (opAt 3 1)).fld (cfgReg 16383) F.SYNC_CFG_KIND = 1 ∧ (obj 1 2 1 [] (opAt 3 1)).fld (cfgReg 16383) F.SYNC_CFG_PARTIES = 2
    ∧ ((obj 1 2 1 [] (opAt 3 1)).rd (valReg 16383)).toNat = 1 ∧ (obj 2 0 1 [] (opAt 2 1)).rd (valReg 16383) = 1#32
    ∧ (obj 2 0 1 [] (opAt 2 1)).bit (sstatReg 16383) F.SYNC_STAT_ABANDONED = false
    ∧ ((obj 0 0 1 [] (opAt 0 1)).setBit (sstatReg 16383) F.SYNC_STAT_ABANDONED).bit (sstatReg 16383) F.SYNC_STAT_ABANDONED = true)
    ∧ NoDonation (obj 0 0 1 [] (opAt 0 1)) := by
  refine ⟨by decide +kernel, ?_⟩
  intro q x hq hx
  have : (obj 0 0 1 [] (opAt 0 1)).part 0 = part1 (ctx0 .running) := by decide +kernel
  have h1 : (obj 0 0 1 [] (opAt 0 1)).part 1 = PartSt.init := by decide +kernel
  have h2 : (obj 0 0 1 [] (opAt 0 1)).part 2 = PartSt.init := by decide +kernel
  have h3 : (obj 0 0 1 [] (opAt 0 1)).part 3 = PartSt.init := by decide +kernel
  have h : q = 0 ∨ q = 1 ∨ q = 2 ∨ q = 3 := by omega
  rcases h with h | h | h | h <;> subst h <;> simp_all [part1, PartSt.init]

theorem test_wit_SyncRegisters : (chip (ctx0 .running)).mayChan 0 3 = true ∧ (chip (ctx0 .running)).regTakes (R.SYNC_CFG 3 16383) = true
    ∧ (chip (ctx0 .running)).regTakes (R.SYNC_VALUE 3 16383) = true ∧ (chip (ctx0 .running)).mayChan 5 3 = true
    ∧ ((chip (ctx0 .running)).onHost (fun h => { h with numVFs := 2 })).mayChan 1 0 = true
    ∧ ((chip (ctx0 .running)).onHost (fun h => { h with numVFs := 2 })).mayChan 2 0 = false ∧ 15 / 16 = (chip (ctx0 .running)).own / 16
    ∧ getF (mkF F.SYNC_CFG_KIND 3) F.SYNC_CFG_KIND = 3 ∧ getF (mkF F.SYNC_CFG_KIND 1) F.SYNC_CFG_PARTIES = 0
    ∧ (mkF F.SYNC_CFG_EN 1) &&& 0xE000FFFF#32 ≠ (chip (ctx0 .running)).rd (R.SYNC_CFG 3 16383)
    ∧ (let s := (wrs (obj 0 0 0 [] (opAt 3 1)) [(holdReg 16383, BitVec.ofNat 32 (holdWord true 15 7))]).onNoc (fun n => { n with notices := [(7, 7, 15)] })
      s.noc.notices[0]? = some (7, 7, 15) ∧ s.partOfJob 7 = some 0 ∧ (s.part 0).owns (16383 / 16384) = true
        ∧ normHold (s.rd (holdReg 16383)).toNat = holdWord true (15 % 16) 7) := by decide +kernel

/-- A message for context 1 on core `d`: word 1 is `w1`, the job `j`. -/
def msgTo (d : Nat) (w1 : Word) (j : Nat) : Msg := ⟨BitVec.ofNat 32 d, w1, 0#32, 0#32, j, 1, [0xAA#8], 0, 3, 0, 5, 1, none, 0⟩

/-- It is the second of the chip's messages; the first goes elsewhere. -/
def msgChip (m : Msg) : State := (chip (ctx0 .running)).onNoc (fun n => { n with msgs := [msgTo 9 0#32 7, m] })

/-- Delivered at the last byte, one byte beyond the bound, unknown job, another channel, not resident, window being zeroed. -/
theorem test_wit_MessagesAndReports_Messages : [msgTo 0 4095#32 7, msgTo 0 4096#32 7, msgTo 0 0#32 8, msgTo 256 0#32 7, msgTo 1 0#32 7].all (fun m =>
      (msgChip m).noc.msgs[1]? == some m && !msgBehind (msgChip m).own (msgChip m).noc.msgs 1 m && !(msgChip m).holds (bitsOf m.w0.toNat 9 0) && m.src == (msgChip m).own) = true
    ∧ (msgChip (msgTo 0 4095#32 7)).partOfJob 7 = some 0 ∧ (msgChip (msgTo 0 4095#32 7)).slotOf 0 0 1 = some 0
    ∧ (msgChip (msgTo 0 4095#32 7)).zeroing 0 0 = false ∧ (msgChip (msgTo 0 4095#32 7)).bound 0 0 = 4096
    ∧ (msgChip (msgTo 0 0#32 8)).partOfJob 8 = none ∧ ((msgChip (msgTo 256 0#32 7)).part 0).owns 1 = false
    ∧ (msgChip (msgTo 1 0#32 7)).slotOf 1 0 1 = none
    ∧ (wrs (msgChip (msgTo 0 0#32 7)) [(statReg 0, mkF F.CORE_STAT_ZEROING 1)]).zeroing 0 0 = true := by decide +kernel

/-- Reports of a delivery, a refused message and a refused signal. -/
def reported (code : Nat) (sy : Bool) : State :=
  (chip (ctx0 .running)).onNoc (fun n => { n with awaits := [⟨5, 0, 0, 1, 8, 64, some 15, none, false, some 0, none⟩], reports := [⟨4, 0, false⟩, ⟨5, code, sy⟩] })

theorem test_wit_MessagesAndReports_DeliveryReports : [(0, false), (1, true), (9, false)].all (fun q => (reported q.1 q.2).noc.reports[1]? == some ⟨5, q.1, q.2⟩
      && (reported q.1 q.2).noc.awaits.find? (fun a => a.id == 5) == some ⟨5, 0, 0, 1, 8, 64, some 15, none, false, some 0, none⟩
      && !(reported q.1 q.2).reportHeld ⟨5, q.1, q.2⟩
      && (reported q.1 q.2).slotOf 0 0 1 == some 0 && !(reported q.1 q.2).hasFaulted 0 0) = true := by decide +kernel

/-- Tree 0 of context 1 over two leaves, its only participant and its destination core 0, its root at byte 3968 of the window. -/
def treed : State :=
  let s := chip { ctx0 .running with treeN := 1 }
  { s with tableMem := Memory.putNum (Memory.putNum [] 0 4 (2 ^ 31 + 1)) 16 4 3968 }

/-- A leaf of it, on its way to core 0. -/
def leaf (i : Nat) : Child := ⟨0, 1, 0, 0, ⟨false, 0, i⟩, List.replicate 128 1#8, 0, 0, 0, 1⟩

/-- The other leaf arrives first, or is held. -/
def treedWith (h : List HeldChild) : State := treed.onNoc (fun n => { n with children := [leaf 1], heldCr := h })

theorem test_wit_Reductions_ReductionMeets : [([] : List HeldChild), [⟨0, ⟨false, 1, 0⟩, false, leaf 0, false⟩]].all (fun h =>
      (treedWith h).noc.children[0]? == some (leaf 1) && (treedWith h).slotOf 0 0 1 == some 0 && !(treedWith h).noc.heldCr.any (sibling (leaf 1) ⟨false, 1, 0⟩ true)
        && (treedWith h).noc.heldCr.find? (sibling (leaf 1) ⟨false, 1, 0⟩ false) == h.head? && !(treedWith h).ctxGone 0 1 && !(treedWith h).holds 0) = true
    ∧ treed.treeEntry 0 1 0 = some ⟨true, 0, 2, 1, 0, 0, 0, 3968, 0, 0⟩ ∧ (leaf 1).node.parent 2 = some (⟨false, 1, 0⟩, true)
    ∧ (⟨false, 1, 0⟩ : Node).parent 2 = none ∧ treed.own = 0 := by decide +kernel

/-- A root that fits exactly, and instance 1, which has the same address: the stride is 0; with DADDR 3969 it does not fit. -/
theorem test_wit_Reductions_RootsDelivered : [3968, 3969].all (fun a =>
      let s := (wrs { treed with tableMem := Memory.putNum treed.tableMem 16 4 a } [(cfgReg 0, mkF F.SYNC_CFG_EN 1)]).onNoc (fun n => { n with roots := [⟨leaf 0, a, 0⟩] })
      s.noc.roots[0]? == some ⟨leaf 0, a, 0⟩ && (s.ctx 0 1).state != .teardown && !s.holds 0 && (s.part 0).owns 0 && s.slotOf 0 0 1 == some 0
        && !s.zeroing 0 0 && s.bound 0 0 == 4096 && s.handleFrom 0 0 (s.part 0).chmask == .here 0 && s.bit (cfgReg 0) F.SYNC_CFG_EN
        && s.fld (cfgReg 0) F.SYNC_CFG_KIND == 0 && s.queue 0 == []) = true := by decide +kernel

/-- An attention record of a kind: 64 elements a head, one row, ranges and pages from byte 0; DONE is object 0. -/
def attnRec (kind : Nat) : List Byte := leBytes 4 (kind * 2 ^ 28) ++ List.replicate 60 0#8

/-- A command of the kind on core 0, in a window of 128 KiB, with one page. -/
def attnAt (m : AttnCmd) (en : Nat) : State :=
  let s := wrs (run 0 Slot.init) [(winReg 0 0, mkF F.CORE_WIN_CFG_EN 1 ||| mkF F.CORE_WIN_CFG_SIZE 128), (cfgReg 0, mkF F.SYNC_CFG_EN en)]
  let s := (s.onCore 0 (fun x => { x with wait := .sync 1 0 0 0 2 })).onNoc (fun n => { n with attn := [m] })
  { s.onCtx 0 1 (fun x => { x with hkv := 1, placeN := 1 }) with tableMem := Memory.putNum [] 0 4 (2 ^ 31) }

/-- Started, its snapshot taken. -/
def attnCmd (kind : Nat) : AttnCmd := ⟨attnRec kind, 0, 0, 1, true, false, 0, 2 ^ 32 - 1, [2 ^ 31]⟩

theorem test_wit_AttentionCommands_AttentionWork : [0, 1, 2].all (fun kind =>
      let s := attnAt (attnCmd kind) 1
      let m := attnCmd kind
      s.noc.attn[0]? == some m && s.allStalled m && s.slotOf 0 0 1 == some 0
        && (AttnRec.ofBytes m.recd).ranges.all (fun r => decide (r.1 + r.2 ≤ s.bound 0 0)) && (s.pagesOf m).length == (AttnRec.ofBytes m.recd).blocks.2
        && (s.pagesOf m).all (fun g => s.inWindow 0 1 g.core g.slot (s.pageForm 0 1 (AttnRec.ofBytes m.recd)).kib
          && s.inWindow 0 1 g.core (g.slot + (AttnRec.ofBytes m.recd).goff) ((AttnRec.ofBytes m.recd).D / 2))
        && (s.attnCores m.lead (s.pagesOf m)).all (fun c => s.inWindow 0 1 c (AttnRec.ofBytes m.recd).work 64)
        && !s.attnHeld m && s.ue.isEmpty && s.ce.isEmpty && (AttnRec.ofBytes m.recd).kind == kind) = true := by decide +kernel

/-- Posted: with a good record, a record of KIND 3, no placement; and one that has worked. -/
theorem test_wit_AttentionCommands_AttentionOrder : [0, 3].all (fun kind =>
      let m : AttnCmd := { attnCmd kind with started := false }
      let s := attnAt m 1
      s.noc.attn[0]? == some m && s.slotOf 0 0 1 == some 0 && !s.paused 0 && !s.holds 0 && s.recordBad m.recd 0 0 == (kind == 3)) = true
    ∧ State.placement { attnAt (attnCmd 0) 1 with tableMem := [] } 0 1 (AttnRec.ofBytes (attnRec 0)) = none
    ∧ (let s := attnAt { attnCmd 0 with worked := true } 1
      (AttnRec.ofBytes (attnRec 0)).r + 16 ≤ s.bound 0 0 ∧ s.handleTo 0 (s.part 0).chmask = .here 0 ∧ s.bit (cfgReg 0) F.SYNC_CFG_EN = true
        ∧ s.fld (cfgReg 0) F.SYNC_CFG_KIND = 0 ∧ s.queue 0 = []) := by decide +kernel

/-! ### Witnesses: contexts, partitions, steps, channels, fences, windows -/

/-- A dispatched step: 32 bytes of header and two slices at byte 4000 of the window. -/
def step0 : Machine.Step := ⟨4000, [[1#8, 2#8], [3#8]], 5, 0⟩

/-- The core of context 1 has faulted. -/
def faulted (st : CtxState) : State := wrs (chip (ctx0 st)) [(R.CORE_CTX_FAULT 0 0 0, mkF F.CORE_CTX_FAULT_VALID 1 ||| mkF F.CORE_CTX_FAULT_CLASS 9)]

theorem test_wit_TeardownAndRecreation_FaultTearsDown : (faulted .running).hasFaulted 0 0 = true ∧ ((faulted .running).slot 0 0).owner = some (0, 1)
    ∧ ((faulted .running).ctx 0 1).state = .running ∧ ((faulted .teardown).ctx 0 1).state = .teardown
    ∧ ((faulted .teardown).part 0).configured = true ∧ ((faulted .teardown).part 0).resetting = none := by decide +kernel

/-- A partition reset in progress. -/
def resetting (d : Bool) : State := (chip (ctx0 .teardown)).onPart 0 (fun x => { x with resetting := some 2, discard := d })

theorem test_wit_TeardownAndRecreation_Recreation : ((chip (ctx0 .teardown)).ctx 0 1).stopWait = [] ∧ ((chip (ctx0 .teardown)).part 0).chans.all (fun ch => !(chip (ctx0 .teardown)).paused ch) = true ∧ (chip (ctx0 .teardown)).ctxZeroing 0 1 = false
    ∧ [false, true].all (fun d => ((resetting d).part 0).resetting == some 2 && ((resetting d).part 0).discard == d
      && ((resetting d).coresOf 0).all (fun c => !(resetting d).isRunning c && (resetting d).fld (statReg c) F.CORE_STAT_ZEROING == 0)
      && ((resetting d).part 0).chans.all (fun ch => !bitOf (resetting d).pwr.held ch)) = true := by decide +kernel

/-- Context 1 is selected; its step is to start. -/
def selected (x : CtxSt) : State := (chip { x with queue := [step0] }).onPart 0 (fun p => { p with cur := some 1 })

theorem test_wit_StepStarts : (let s := selected { ctx0 .running with starting := true }
    (s.part 0).cur = some 1 ∧ (s.ctx 0 1).queue = [step0] ∧ (s.ctx 0 1).starting = true ∧ s.clear 0 = true ∧ (s.part 0).resetting = none ∧ s.inRepair 0 1 = false
      ∧ CoreSet s 0 1 ∧ ∀ r ∈ (s.ctx 0 1).cores, s.phys r.core r.slot (step0.arg + 32 + step0.slices.flatten.length) ≤ 2 ^ 22) := by
  unfold CoreSet; decide +kernel

theorem test_wit_CommitsAndCharges_StepCommits : (let s := selected { ctx0 .running with running := true, reported := [0], switched := true, vt := 2 ^ 64 - 1 }
    (s.part 0).cur = some 1 ∧ (s.ctx 0 1).queue = [step0] ∧ (s.ctx 0 1).donorOf = none ∧ MayCommit s 0 1) :=
  ⟨by decide +kernel, by decide +kernel, by decide +kernel,
    { running := by decide +kernel, reported := by decide +kernel, children := by decide +kernel, attn := by decide +kernel
      awaits := by decide +kernel, faults := by decide +kernel, clocks := by decide +kernel }⟩

theorem test_wit_CommitsAndCharges_ChargesExactly : (1 ≤ 3) ∧ (2 ^ 63 + (10 * 65536 + 2) / 3 < 2 ^ 64) ∧ chargeVt 0 2 10 3 = (218454, 0) := by decide

/-- Two contexts with work, their virtual times either side of 2^64. -/
def rivals (v1 v2 : Nat) : State :=
  (chip { ctx0 .runnable with queue := [step0], vt := v1 }).onCtx 0 2 (fun _ => { ctx0 .runnable with queue := [step0], vt := v2 })

theorem test_wit_SelectionAndWithdrawal_Selection : (rivals 5 (2 ^ 64 - 5)).candidates 0 = [1, 2] ∧ (rivals 5 5).candidates 0 = [1, 2]
    ∧ ((2 ^ 64 - 5) + 10) % 2 ^ 64 = 5 ∧ (rivals 5 (2 ^ 64 - 5)).pick 0 none = some 2 ∧ (rivals 5 5).pick 0 (some 2) = some 2
    ∧ (rivals 5 5).pick 0 none = some 1 := by decide +kernel

/-- A step that makes way for context 2. -/
def withdrawn : State :=
  (selected { ctx0 .running with withdrawing := some 2, switched := true }).onCtx 0 2 (fun _ => { CtxSt.init with state := .runnable, queue := [step0] })

theorem test_wit_SelectionAndWithdrawal_WithdrawalEnds : (withdrawn.part 0).cur = some 1 ∧ (withdrawn.ctx 0 1).withdrawing = some 2 ∧ (withdrawn.ctx 0 1).stopWait = []
    ∧ (∀ a ∈ withdrawn.noc.awaits, a.part = 0 → a.ctx = 1 → withdrawn.noc.e2e.any (fun e => e.msg.id == a.id) = true)
    ∧ (∀ r ∈ (withdrawn.ctx 0 1).cores, withdrawn.hasFaulted r.core r.slot = false) ∧ (withdrawn.ctx 0 2).state = .runnable
    ∧ (withdrawn.ctx 0 2).queue ≠ [] ∧ withdrawn.chansOn 0 = true ∧ withdrawn.inRepair 0 2 = false
    ∧ (∀ ch ∈ (withdrawn.part 0).chans, withdrawn.paused ch = false) := by decide +kernel

/-- Channel 3 in a state. -/
def chan3 (st : Nat) : State := wrs State.reset [(R.CP_STAT 3, mkF F.CP_STAT_STATE st)]

theorem test_wit_ChannelsAndWindows_Channels : (chan3 0).chState 3 = 0 ∧ (chan3 0).gated 13 = false ∧ (∀ k, k < 9 → (chan3 0).gated (14 + 9 * 3 + k) = false)
    ∧ [0, 1, 2].all (fun st => (chan3 st).regTakes (R.CP_CTRL 3)) = true
    ∧ ({ chan3 1 with pwr := { (chan3 1).pwr with held := 8 } } : State).regTakes (R.CP_CTRL 3) = false
    ∧ (wrs (chan3 0) [(R.PWR_GATE_LO, mkF ⟨13, 13⟩ 1)]).regTakes (R.CP_CTRL 3) = false
    ∧ (chan3 1).chState 3 = 1 ∧ (chan3 2).chState 3 = 2 ∧ (chan3 2).ownerOf 3 = none := by decide +kernel

theorem test_wit_FencesAndRepair_CoreFails : State.reset.fmask 3 15 = 0 ∧ State.reset.migr = [] ∧ 16 ≤ 16
    ∧ (wrs State.reset [(R.SPMAP 3 15, mkF F.SPMAP_FMASK (2 ^ 16))]).fmask 3 15 ≠ 0
    ∧ bitOf ((wrs State.reset [(R.SPMAP 3 15, mkF F.SPMAP_FMASK (2 ^ 16))]).fmask 3 15) 15 = false := by decide +kernel

/-- A fence of column 15 in row 15 of channel 3, slot 1 of its logical core at the top of the scratchpad. -/
def fenced : State :=
  { (wrs State.reset [(winReg 1023 1, mkF F.CORE_WIN_CFG_EN 1 ||| mkF F.CORE_WIN_CFG_BASE 3071 ||| mkF F.CORE_WIN_CFG_SIZE 1)]) with
    migr := [⟨0, 0, 0, 1⟩, ⟨3, 15, 15, 5⟩] }

theorem test_wit_FencesAndRepair_RowShift : fenced.migr[1]? = some ⟨3, 15, 15, 5⟩ ∧ fenced.fmask 3 15 = 0 ∧ fenced.fenceReady ⟨3, 15, 15, 5⟩ = true
    ∧ fenced.ownerOf 3 = none ∧ (∀ k, k < 4 → fenced.phys (coreId 3 15 15) k (fenced.bound (coreId 3 15 15) k) ≤ 3072 * 1024)
    ∧ fenced.bit (winReg (coreId 3 15 15) 1) F.CORE_WIN_CFG_EN = true ∧ 0 < fenced.bound (coreId 3 15 15) 1 := by decide +kernel

/-- Context 1 in repair, with a held step that can be repeated or not. -/
def inRepair (left : Bool) (held : Nat) : State :=
  wrs (chip { ctx0 .runnable with queue := [step0], left := left }) [(R.CTX_REPAIR 0 1, mkF F.CTX_REPAIR_REPAIR 1 ||| mkF F.CTX_REPAIR_HELD held)]

theorem test_wit_FencesAndRepair_Repair : [(false, 1), (true, 0), (true, 1)].all (fun q => let s := inRepair q.1 q.2
    s.regTakes (R.CTX_REPAIR 0 1) && s.ownerOf 0 == some 0 && (s.part 0).low == 0 && s.inRepair 0 1 && (s.ctx 0 1).queue == [step0] && (s.ctx 0 1).left == q.1
      && s.bit (R.CTX_REPAIR 0 1) F.CTX_REPAIR_HELD == (q.2 == 1)) = true := by decide +kernel

/-- Slot 0 of core 5 holds [0, 4) KiB, slot 1 [4, 8). -/
def windows : State :=
  wrs State.reset [(winReg 5 0, mkF F.CORE_WIN_CFG_EN 1 ||| mkF F.CORE_WIN_CFG_SIZE 4),
    (winReg 5 1, mkF F.CORE_WIN_CFG_EN 1 ||| mkF F.CORE_WIN_CFG_BASE 4 ||| mkF F.CORE_WIN_CFG_SIZE 4)]

theorem test_wit_ChannelsAndWindows_Windows : Fits windows 5 0 0 4 ∧ Fits windows 5 0 8 3064 ∧ ¬Fits windows 5 0 0 5 ∧ ¬Fits windows 5 0 8 3065
    ∧ (windows.slot 5 0).owner = none ∧ windows.regTakes (R.CORE_WIN_CFG (chanOf 5) (posOf 5) 0) = true ∧ windows.zeroing 5 0 = false ∧ isSet (windows.rd (R.CORE_WIN_CFG (chanOf 5) (posOf 5) 0)) F.CORE_WIN_CFG_EN = true
    ∧ (wrs windows [(statReg 5, mkF F.CORE_STAT_ZEROING 1)]).zeroing 5 0 = true ∧ (windows.core 5).toZero = 0 ∧ windows.ownerOf (chanOf 5) = none
    ∧ ((windows.onCore 5 (fun x => { x with eccQ := [7, 8] })).core 5).eccQ = [7, 8] := by
  have w1 : windows.rd (R.CORE_WIN_CFG (chanOf 5) (posOf 5) 1) = 0x80004004#32 := by decide +kernel
  have h : ∀ a n, 1 ≤ n → a + n ≤ 3072 → (a + n ≤ 4 ∨ 8 ≤ a) → Fits windows 5 0 a n := by
    intro a n h1 h2 h3
    refine ⟨h1, h2, fun j hj hne w hw he => ?_⟩
    have e1 : getF (0x80004004#32) F.CORE_WIN_CFG_BASE = 4 ∧ getF (0x80004004#32) F.CORE_WIN_CFG_SIZE = 4 := by decide
    have hheld : ∀ i, i < 4 → FMap.get none (windows.core 5).held i = none := by decide +kernel
    have hz : ∀ i, i < 4 → i ≠ 0 → i ≠ 1 → windows.rd (R.CORE_WIN_CFG (chanOf 5) (posOf 5) i) = 0#32 := by decide +kernel
    rcases hw with rfl | hw
    · by_cases hj1 : j = 1
      · subst hj1; rw [w1]; omega
      · rw [hz j hj hne hj1] at he; exact absurd he (by decide)
    · rw [hheld j hj] at hw; exact absurd hw (by simp)
  refine ⟨h 0 4 (by omega) (by omega) (by omega), h 8 3064 (by omega) (by omega) (by omega), fun f => ?_, fun f => ?_,
    by decide +kernel, by decide +kernel, by decide +kernel, by decide +kernel, by decide +kernel, by decide +kernel, by decide +kernel,
    by decide +kernel⟩
  · have := f.2.2 1 (by omega) (by omega) _ (Or.inl rfl) (by decide +kernel)
    rw [w1] at this; exact absurd this (by decide)
  · exact absurd f.2.1 (by omega)

/-! ### Witnesses: doorbells, queue pairs, descriptors -/

/-- The 64 bytes of a descriptor from its fields: offset, length, value. -/
def raw (l : List (Nat × Nat × Nat)) : List Byte := Memory.bytes (l.foldl (fun m q => Memory.putNum m q.1 q.2.1 q.2.2) []) 0 64

/-- A descriptor of the PF's pair 0 for context 1 of partition 0. -/
def desc (st : DescState) (op : Nat) (l : List (Nat × Nat × Nat)) : Desc := ⟨5, 0, 0, 0, raw ([(0, 1, op), (2, 1, 1)] ++ l), 0, 4, st, 0, [], [], 0, 0⟩

/-- A chip that holds it. -/
def withDesc (s : State) (d : Desc) : State := s.onHost (fun h => { h with descs := [d] })

/-- Pair 63 of VF 4 ON, rings of 16 and 2^16 entries, its vector enabled, three entries unread. -/
def pair : State :=
  (wrs (State.reset.onHost (fun h => { h with numVFs := 4 })) [(R.HI_QP_STAT 4 63, mkF F.HI_QP_STAT_STATE 1),
    (R.HI_QP_CFG 4 63, mkF F.HI_QP_CFG_EN 1 ||| mkF F.HI_QP_CFG_SQLOG2 4 ||| mkF F.HI_QP_CFG_CQLOG2 16 ||| mkF F.HI_QP_CFG_IEN 1)]).onQp 4 63
    (fun _ => ⟨3, 2 ^ 16 - 2, 3, false, false⟩)

theorem test_wit_DoorbellsAndQueuePairs_Doorbells : pair.fnUp 4 = true ∧ pair.qpState 4 63 = 1 ∧ pair.sqSize 4 63 = 16 ∧ pair.cqSize 4 63 = 2 ^ 16
    ∧ [2, 15, 16, 2 ^ 16 - 1].all (fun x => (BitVec.ofNat 64 (2 ^ 16 + x)).toNat == 2 ^ 16 + x) = true
    ∧ (15 + 16 - pair.fld (R.HI_QP_SQ_HEAD 4 63) F.HI_QP_SQ_HEAD_HEAD % 16) % 16 ≥ (3 + 16 - pair.fld (R.HI_QP_SQ_HEAD 4 63) F.HI_QP_SQ_HEAD_HEAD % 16) % 16
    ∧ (2 + 16 - pair.fld (R.HI_QP_SQ_HEAD 4 63) F.HI_QP_SQ_HEAD_HEAD % 16) % 16 < (3 + 16 - pair.fld (R.HI_QP_SQ_HEAD 4 63) F.HI_QP_SQ_HEAD_HEAD % 16) % 16
    ∧ (pair.qp 4 63).unread < (2 + 2 ^ 16 - (pair.qp 4 63).cqHead % 2 ^ 16) % 2 ^ 16
    ∧ (BitVec.ofNat 64 (2 ^ 48 + 1 * 2 ^ 32)).toNat = 2 ^ 48 + 1 * 2 ^ 32 ∧ (1 + 2 ^ 16 - (pair.qp 4 63).cqHead) % 2 ^ 16 ≤ (pair.qp 4 63).unread
    ∧ (BitVec.ofNat 64 (2 ^ 49)).toNat = 2 ^ 49 ∧ (pair.qp 4 63).unread ≠ 0 ∧ pair.bit (R.HI_QP_CFG 4 63) F.HI_QP_CFG_IEN = true
    ∧ pair.fld (R.HI_QP_CFG 4 63) F.HI_QP_CFG_VEC = 0 ∧ FMap.get false pair.host.masked (4 * 64 + 0) = false := by decide +kernel

theorem test_wit_DoorbellsAndQueuePairs_QueuePairs : State.reset.fnUp 0 = true ∧ State.reset.qpState 0 63 = 0 ∧ pair.qpState 4 63 = 1
    ∧ (wrs pair [(R.HI_QP_STAT 4 63, mkF F.HI_QP_STAT_STATE 2)]).qpState 4 63 = 2
    ∧ pair.fld (R.HI_QP_STAT 4 63) F.HI_QP_STAT_INFLIGHT = 0
    ∧ [(4, 16), (16, 4)].all (fun z => getF (mkF F.HI_QP_CFG_SQLOG2 z.1 ||| mkF F.HI_QP_CFG_CQLOG2 z.2) F.HI_QP_CFG_SQLOG2 == z.1
      && getF (mkF F.HI_QP_CFG_SQLOG2 z.1 ||| mkF F.HI_QP_CFG_CQLOG2 z.2) F.HI_QP_CFG_CQLOG2 == z.2) = true
    ∧ getF (mkF F.HI_QP_CFG_SQLOG2 17) F.HI_QP_CFG_SQLOG2 = 17 := by decide +kernel

/-- The completion of a descriptor is due on pair 0 of the PF, at entry 15 of 16. -/
def completing : State :=
  wrs (withDesc State.reset (desc .done 0 [])) [(R.HI_QP_STAT 0 0, mkF F.HI_QP_STAT_STATE 1), (R.HI_QP_CQ_TAIL 0 0, mkF F.HI_QP_CQ_TAIL_TAIL 15),
    (R.HI_QP_CFG 0 0, mkF F.HI_QP_CFG_EN 1 ||| mkF F.HI_QP_CFG_SQLOG2 4 ||| mkF F.HI_QP_CFG_CQLOG2 4)]

theorem test_wit_DescriptorsAndCompletions_FetchAndCompletion : pair.fld (R.HI_QP_SQ_HEAD 4 63) F.HI_QP_SQ_HEAD_HEAD = 0 ∧ 0 ≠ (pair.qp 4 63).sqTail
    ∧ (pair.qp 4 63).unread + pair.fld (R.HI_QP_STAT 4 63) F.HI_QP_STAT_INFLIGHT < pair.cqSize 4 63 ∧ pair.hostBad 0 64 = false
    ∧ pair.pair (R.HI_QP_SQ_BASE_LO 4 63) (R.HI_QP_SQ_BASE_HI 4 63) = 0 ∧ (pair.onHost (fun h => { h with bad := [0] })).hostBad 0 64 = true
    ∧ completing.fnUp 0 = true ∧ completing.host.descs.find? (fun d => d.id == 5 && d.st == .done) = some (desc .done 0 [])
    ∧ (desc .done 0 []).raw.length = 64 ∧ (completing.qp 0 0).broken = false ∧ completing.fld (R.HI_QP_CQ_TAIL 0 0) F.HI_QP_CQ_TAIL_TAIL = 15
    ∧ completing.hostBad (15 * 32) 32 = false := by decide +kernel

/-- Fetched: a good NOP, a good FROG on a context in teardown and on a running one, an unknown opcode, a reserved byte, a LOAD_IMAGE of a VF. -/
theorem test_wit_DescriptorsAndCompletions_Dispatch : [CtxState.running, .teardown].all (fun st =>
      let s := wrs (withDesc (chip (ctx0 st)) (desc .fetched 4 [(8, 8, 64), (16, 2, 1)])) [(R.HI_STAT, mkF F.HI_STAT_FABRIC_READY 1)]
      let d := desc .fetched 4 [(8, 8, 64), (16, 2, 1)]
      (s.host.descs.filter (fun d => d.fn == 0 && d.qp == 0)).find? (fun d => d.st == .fetched) == some d && !d.fence && s.checkDesc d == 0
        && decide (s.cmds (s.slotChan d) < 4096) && d.actsOnCtx && (s.ctx d.part d.ctx).state == st) = true
    ∧ State.reset.checkDesc (desc .fetched 16 []) = 1 ∧ State.reset.checkDesc (desc .fetched 15 [(3, 1, 1)]) = 2
    ∧ Desc.badDesc { desc .fetched 1 [(20, 1, 1)] with fn := 1, part := 0 } = false ∧ (desc .fetched 14 []).badDesc = false
    ∧ State.reset.bit R.HI_STAT F.HI_STAT_FABRIC_READY = false := by decide +kernel

/-- A checked descriptor of 16 bytes at the end of the window, and one byte beyond it. -/
def moving (op a : Nat) : State := withDesc (chip (ctx0 .running)) (desc .checked op [(8, 8, 4096), (16, 4, 16), (24, 4, a)])

theorem test_wit_Transfers : [(2, 4080), (3, 4080), (2, 4081), (3, 4081)].all (fun q =>
      let s := moving q.1 q.2
      let d := desc .checked q.1 [(8, 8, 4096), (16, 4, 16), (24, 4, q.2)]
      s.ready 5 q.1 == some d && d.at_ 24 4 == q.2 && d.at_ 16 4 == 16 && d.at_ 20 2 == 0 && (s.part d.part).owns 0 && s.slotOf 0 d.part d.ctx == some 0
        && !s.holds 0 && !s.zeroing 0 0 && s.bound 0 0 == 4096 && !s.hostBad (d.at_ 8 8) 16 && !bitOf (d.at_ 1 1) 1 && s.ue.isEmpty && s.ce.isEmpty) = true
    ∧ [(256, 6), (1, 5), (0, 8)].all (fun q =>
      let s := wrs (withDesc (chip (ctx0 .running)) (desc .checked 2 [(8, 8, 4096), (16, 4, 16), (20, 2, q.1)])) [(statReg 0, mkF F.CORE_STAT_ZEROING 1)]
      (s.ready 5 2).isSome && !s.holds q.1 && (if q.2 == 6 then !(s.part 0).owns (q.1 / 256) else (s.part 0).owns (q.1 / 256))
        && (if q.2 == 5 then s.slotOf q.1 0 1 == none else q.2 == 6 || s.slotOf q.1 0 1 == some 0) && (q.2 != 8 || s.zeroing 0 0)) = true
    ∧ (withDesc State.reset (desc .checked 0 [])).ready 5 0 = some (desc .checked 0 [])
    ∧ (let s := withDesc (chip { ctx0 .running with lastDigest := List.replicate 32 7#8 }) (desc .checked 12 [(8, 8, 4096), (18, 1, 1)])
      s.ready 5 12 = some (desc .checked 12 [(8, 8, 4096), (18, 1, 1)]) ∧ (desc .checked 12 [(8, 8, 4096), (18, 1, 1)]).at_ 18 1 = 1
        ∧ (s.ctx 0 1).lastDigest ≠ [] ∧ s.hostBad 4096 32 = false) := by decide +kernel

/-- A sync descriptor on object 16383, a semaphore of VALUE 3. -/
def syncing (st : DescState) (op : Nat) (l : List (Nat × Nat × Nat)) (q : List Waiter) : State := withDesc (obj 0 0 3 q (opAt 3 0)) (desc st op ((8, 4, 16383) :: l))

theorem test_wit_SyncAndStepDescriptors_SyncDescriptors : (syncing .checked 5 [(12, 4, 2 ^ 32 - 1)] []).ready 5 5 = some (desc .checked 5 [(8, 4, 16383), (12, 4, 2 ^ 32 - 1)])
    ∧ (syncing .checked 6 [(16, 4, 3)] []).ready 5 6 = some (desc .checked 6 [(8, 4, 16383), (16, 4, 3)])
    ∧ (desc .checked 6 [(8, 4, 16383), (16, 4, 3)]).at_ 8 4 % 2 ^ 16 = 16383 ∧ (desc .checked 6 [(8, 4, 16383), (16, 4, 3)]).at_ 12 1 = 0
    ∧ (desc .checked 6 [(8, 4, 16383), (16, 4, 3)]).at_ 16 4 ≤ ((syncing .checked 6 [(16, 4, 3)] []).rd (valReg 16383)).toNat
    ∧ (syncing .checked 6 [(16, 4, 3)] []).bit (cfgReg 16383) F.SYNC_CFG_EN = true
    ∧ (syncing .checked 6 [(16, 4, 3)] []).bit (sstatReg 16383) F.SYNC_STAT_ABANDONED = false
    ∧ (let s := syncing .dispatched 6 [(16, 4, 4), (20, 4, 1)] [⟨0, 4, .desc 5, none⟩]
      s.host.descs.find? (fun d => d.id == 5 && d.st == .dispatched && d.opcode == 6) = some (desc .dispatched 6 [(8, 4, 16383), (16, 4, 4), (20, 4, 1)])
        ∧ (desc .dispatched 6 [(8, 4, 16383), (16, 4, 4), (20, 4, 1)]).at_ 20 4 ≠ 0 ∧ s.queue 16383 = [⟨0, 4, .desc 5, none⟩]
        ∧ s.fld (cfgReg 16383) F.SYNC_CFG_KIND ≠ 1)
    ∧ ((syncing .dispatched 6 [] []).onNoc (fun n => { n with releases := [⟨.desc 5, 4, 16383⟩] })).noc.releases[0]? = some ⟨.desc 5, 4, 16383⟩ := by
  decide +kernel

/-- RUN_STEP with one slice of INGEST, sequence 0, all of it 0 but its kind. -/
def stepping (l : List (Nat × Nat × Nat)) : Desc := desc .checked 4 ([(8, 8, 4096)] ++ l)

/-- The list has one slice of one decode token at position 2^20 - 1, or none. -/
theorem test_wit_SyncAndStepDescriptors_StepDescriptors : [0, 1].all (fun n =>
      let d := stepping [(16, 2, n), (20, 4, 4064 - 32 * n)]
      let s := (withDesc (chip (ctx0 .idle)) d).onHost (fun h => { h with mem := Memory.putNum (Memory.putNum [] 4100 4 (2 ^ 20 - 1)) 4104 2 1 })
      let bs := chunksOf 32 n (s.host.mem.bytes 4096 (32 * n))
      s.ready 5 4 == some d && s.chansOn d.part && !s.hostBad (d.at_ 8 8) (32 * d.at_ 16 2) && d.at_ 16 2 == n && !bs.any sliceBad
        && (bs.map sliceSeq).eraseDups.length == n && !bs.any (sliceBeyond (s.sliceLen d.part))
        && (s.ctx d.part d.ctx).cores.all (fun r => decide (d.at_ 20 4 + (32 + 32 * n) ≤ s.bound r.core r.slot))) = true
    ∧ (wrs (withDesc (chip (ctx0 .idle)) (stepping [])) [(R.CP_STAT 0, mkF F.CP_STAT_STATE 2)]).chansOn 0 = false
    ∧ [CtxState.idle, .teardown].all (fun st => (withDesc (chip (ctx0 st)) (desc .checked 14 [])).ready 5 14 == some (desc .checked 14 [])
      && ((withDesc (chip (ctx0 st)) (desc .checked 14 [])).ctx 0 1).state == st) = true := by decide +kernel

/-- A pool of three groups, the first held by context 1; entry 0 of the table at 0 names it. -/
def paged (op : Nat) (l : List (Nat × Nat × Nat)) (q : List Machine.Step) : State :=
  let s := (withDesc (chip { ctx0 .running with queue := q }) (desc .checked op l)).onPart 0 (fun x =>
    { x with pool := [⟨1, 2, 255, .alloc 1, [0], 0⟩, ⟨3, 4, 0, .free, [], 0⟩, ⟨5, 6, 9, .free, [], 0⟩] })
  { s with tableMem := Memory.putNum [] 0 4 (2 ^ 31 + 2 ^ 20 + 2 ^ 9 + 255) }

theorem test_wit_Pages : ((paged 7 [] []).part 0).chmask < 16
    ∧ (let d := desc .checked 7 [(12, 4, 1), (16, 4, 2)]
      let s := paged 7 [(12, 4, 1), (16, 4, 2)] []
      s.ready 5 7 = some d ∧ namedEntries d 8 = [4, 8] ∧ (∀ o ∈ namedEntries d 8, o + 4 ≤ s.sliceLen d.part)
        ∧ (∀ o ∈ namedEntries d 8, bitOf (s.sliceU32 d.part o) 31 = false) ∧ ((s.part d.part).pool.filter (fun g => g.st == .free)).length = 2)
    ∧ [[], [step0]].all (fun q =>
      let d := desc .checked 8 [(16, 4, 1)]
      let s := paged 8 [(16, 4, 1)] q
      s.ready 5 8 == some d && namedEntries d 8 == [0] && bitOf (s.sliceU32 0 0) 31
        && s.groupOf 0 (s.sliceU32 0 0) == some ⟨1, 2, 255, .alloc 1, [0], 0⟩ && s.sliceU32 0 0 % 256 == 255 && (s.ctx 0 1).queue == q) = true
    ∧ (let d := { desc .checked 8 [(16, 4, 1)] with order := 1 }
      let s := withDesc (paged 8 [(16, 4, 1)] [step0]) d
      s.ready 5 8 = some d ∧ (((s.ctx 0 1).queue.filter (fun q => q.order < d.order)).map (·.desc)).getLast? = some 5)
    ∧ (let d := desc .checked 9 [(8, 8, 4096), (16, 4, 2 ^ 22 - 8), (24, 4, 2)]
      let s := paged 9 [(8, 8, 4096), (16, 4, 2 ^ 22 - 8), (24, 4, 2)] []
      s.ready 5 9 = some d ∧ namedEntries d 16 = [2 ^ 22 - 8, 2 ^ 22 - 4] ∧ (∀ o ∈ namedEntries d 16, o + 4 ≤ s.sliceLen d.part)
        ∧ s.hostBad (d.at_ 8 8) 8 = false) := by decide +kernel

/-- The release of the group that entry 0 names clears bit 31 of that entry, in byte 3, and no bit of the next. -/
theorem test_release_clears : clearsAt (paged 8 [(16, 4, 1)] []) 0 [0] [(paged 8 [(16, 4, 1)] []).sliceU32 0 0] 3
    ∧ ¬clearsAt (paged 8 [(16, 4, 1)] []) 0 [0] [(paged 8 [(16, 4, 1)] []).sliceU32 0 0] 7 := by
  unfold clearsAt; decide +kernel

/-! ### Signed envelopes -/

/-- 32 zeros: the secrets and PUB_SEED of an operator whose key has the smallest parameter set. -/
def z32 : List Byte := List.replicate 32 0#8

/-- The operator's public key. -/
def opPk : List Byte := signerKey 0x29 ⟨20, 2⟩ z32 z32

theorem opPk_length : opPk.length = 68 := signerKey_length _ _ _ _ List.length_replicate

/-- The first 16 bytes of an envelope. -/
def envHead (type n serial : Nat) : List Byte := leBytes 4 1 ++ leBytes 1 type ++ leBytes 3 0 ++ leBytes 4 n ++ leBytes 4 serial

/-- The signed bytes of an envelope of a TYPE and a body. -/
def envSigned (type serial : Nat) (body : List Byte) : List Byte :=
  envHead type body.length serial ++ (opPk ++ (List.replicate 172 0#8 ++ body))

/-- The envelope, signed by the operator with leaf 0. -/
def signedEnv (type serial : Nat) (body : List Byte) : List Byte :=
  envSigned type serial body ++ wholeSign ⟨20, 2⟩ z32 z32 z32 0 (envSigned type serial body)

theorem envSigned_length (type serial : Nat) (body : List Byte) : (envSigned type serial body).length = 256 + body.length := by
  simp only [envSigned, envHead, List.length_append, leBytes_length, opPk_length, List.length_replicate]; omega

theorem signedEnv_length (type serial : Nat) (body : List Byte) : (signedEnv type serial body).length = 256 + body.length + 4963 := by
  rw [signedEnv, List.length_append, envSigned_length, wholeSign_length]; rfl

/-- Bytes of the head. -/
theorem env_head {type serial : Nat} {body : List Byte} (i n : Nat) (h : i + n ≤ 16) :
    ((signedEnv type serial body).drop i).take n = ((envHead type body.length serial).drop i).take n := by
  have l : (envHead type body.length serial).length = 16 := rfl
  rw [signedEnv, envSigned, List.append_assoc, List.drop_append_of_le_length (by omega), List.take_append_of_le_length (by rw [List.length_drop]; omega)]

theorem env_pk (type serial : Nat) (body : List Byte) : ((signedEnv type serial body).drop 16).take 68 = opPk := by
  have l : (envHead type body.length serial).length = 16 := rfl
  rw [signedEnv, envSigned, List.append_assoc, List.drop_left' l, List.append_assoc, List.take_left' opPk_length]

theorem env_body (type serial : Nat) (body : List Byte) : ((signedEnv type serial body).drop 256).take body.length = body := by
  rw [signedEnv, List.drop_append_of_le_length (by rw [envSigned_length]; omega), List.take_append_of_le_length (by rw [List.length_drop, envSigned_length]; omega), envSigned,
    List.drop_append, List.drop_of_length_le (by show 16 ≤ 256; omega), List.nil_append, show (envHead type body.length serial).length = 16 from rfl,
    List.drop_append, List.drop_of_length_le (by rw [opPk_length]; omega), List.nil_append, opPk_length,
    List.drop_left' (by rw [List.length_replicate]), List.take_length]

theorem env_len (type serial : Nat) (body : List Byte) (h : body.length < 2 ^ 32) : leNat (((signedEnv type serial body).drop 8).take 4) = body.length := by
  rw [env_head 8 4 (by omega)]
  show leNat (leBytes 4 body.length) = _
  rw [leNat_leBytes, Nat.mod_eq_of_lt (by omega)]

theorem env_sigLen (type serial : Nat) (body : List Byte) : envSigLen (signedEnv type serial body) = some 4963 := by
  have h : ((signedEnv type serial body).drop 16).take 4 = beBytes 4 0x29 := by
    have := congrArg (List.take 4) (env_pk type serial body)
    rw [List.take_take] at this
    rw [show min 4 68 = 4 from rfl] at this
    rw [this, opPk, signerKey, List.append_assoc, List.take_left' (beBytes_length 4 _)]
  rw [envSigLen, h]; rfl

theorem env_ok (type serial : Nat) (body : List Byte) (ht : type < 256) (hb : body.length < 2 ^ 32) : envelopeOk (signedEnv type serial body) type = true := by
  have h84 : ((signedEnv type serial body).drop 84).take 172 = List.replicate 172 0#8 := by
    have l : (envHead type body.length serial).length = 16 := rfl
    rw [show 84 = 16 + 68 from rfl, ← List.drop_drop, signedEnv, envSigned, List.append_assoc, List.drop_left' l, List.append_assoc,
      List.drop_left' opPk_length, List.append_assoc, List.take_left' List.length_replicate]
  have h0 : le (signedEnv type serial body) 0 4 = 1 := by rw [le, env_head 0 4 (by omega)]; rfl
  have h4 : le (signedEnv type serial body) 4 1 = type := by
    rw [le, env_head 4 1 (by omega)]
    show leNat (leBytes 1 type) = type
    rw [leNat_leBytes]; omega
  have h5 : zeroIn (signedEnv type serial body) 5 3 = true := by rw [zeroIn, env_head 5 3 (by omega)]; rfl
  have hz : zeroIn (signedEnv type serial body) 84 172 = true := by
    rw [zeroIn, h84, List.all_eq_true]; intro b hb; rw [List.eq_of_mem_replicate hb]; rfl
  have h8 : le (signedEnv type serial body) 8 4 = body.length := env_len type serial body hb
  rw [envelopeOk, h0, h4, h5, hz, h8, env_sigLen, signedEnv_length]
  simp

theorem env_signed (type serial : Nat) (body : List Byte) (hb : body.length < 2 ^ 32) :
    signedUnder (shake256 opPk 32) (signedEnv type serial body) = true := by
  have h8 : le (signedEnv type serial body) 8 4 = body.length := env_len type serial body hb
  have hm : envMsg (signedEnv type serial body) = envSigned type serial body := by
    rw [envMsg, h8, signedEnv, List.take_left' (envSigned_length _ _ _)]
  have hd : (signedEnv type serial body).drop (256 + body.length) = wholeSign ⟨20, 2⟩ z32 z32 z32 0 (envSigned type serial body) := by
    rw [signedEnv, List.drop_left' (envSigned_length _ _ _)]
  rw [signedUnder]
  rw [env_pk, hm, h8, hd, beq_self_eq_true, Bool.true_and]
  exact xmssVerify_wholeSign (oid := 0x29) rfl z32 z32 z32 List.length_replicate 0 (by decide) _

theorem bytes_take (m : Memory) (a n k : Nat) (h : n ≤ k) : m.bytes a n = (m.bytes a k).take n := by
  induction n generalizing a k with
  | zero => simp [Memory.bytes]
  | succ n ih =>
    obtain ⟨j, rfl⟩ : ∃ j, k = j + 1 := ⟨k - 1, by omega⟩
    simp [Memory.bytes, ← ih (a + 1) j (by omega)]

/-- Whatever the operator signed verifies where the key is installed and the store open. -/
theorem verifies_of {s : State} {x : StoreSeal} (type serial : Nat) (body : List Byte) (ht : type < 256) (hb : body.length < 2 ^ 32)
    (bits : (s.bit R.SEC_STAT F.SEC_STAT_ROOT_OK && s.bit R.SEC_STAT F.SEC_STAT_STORE_OK && s.bit R.SEC_STAT F.SEC_STAT_OPKEY) = true)
    (key : s.sec.store.opkey = some (shake256 opPk 32, x)) : s.verifies (signedEnv type serial body) type = true := by
  rw [State.verifies, bits, env_ok type serial body ht hb, key]
  simp only [Bool.true_and]
  exact env_signed type serial body hb


/-! ### Witnesses: security, images, resets, power -/

/-- The root that the device's opaque hardware gives for helper data of zeros. -/
def root0 : List Byte := Config.pufRoot (List.replicate 2048 0#8)

/-- A certificate of version 1 for this part, that root's check value, a public key and helper data of zeros. -/
def certBytes : List Byte :=
  leBytes 4 1 ++ (leBytes 4 (State.reset.rd R.ID_PART).toNat ++ (shake256 (0x10#8 :: root0) 32 ++ (List.replicate 68 0#8 ++ List.replicate 2048 0#8)))

/-- The certificate, or zeros, in the key buffer, taken up. -/
def certified (l : List Byte) : State := { State.reset with sec := { State.reset.sec with kbuf := Memory.putBytes [] 0 l, checking := true } }

theorem certified_kbuf : (certified certBytes).sec.kbuf.bytes 0 2156 = certBytes := by
  have h : certBytes.length = 2156 := by simp only [certBytes, List.length_append, shake256_length, leBytes_length, List.length_replicate]
  have := Memory.bytes_putBytes [] 0 certBytes
  rwa [h] at this

/-- The store in each of the three cases of R463, the root known, the mark as high as it goes, written with the store's write 3. -/
def stored (b : Option (List Byte)) : State :=
  { State.reset with sec := { State.reset.sec with
    root := some root0
    store := { State.reset.sec.store with bound := b, count := 3, hwm := some (2 ^ 40 - 1, ⟨3, storeTag (storeKey root0) 3 (leBytes 8 (2 ^ 40 - 1))⟩) }
    reserving := some 64 } }

theorem test_wit_RootOfTrust_RootAndStore : State.reset.bit R.SEC_STAT F.SEC_STAT_ROOT_OK = false
    ∧ (wrs State.reset [(R.SEC_STAT, mkF F.SEC_STAT_ROOT_OK 1)]).bit R.SEC_STAT F.SEC_STAT_ROOT_OK = true
    ∧ (certified certBytes).sec.checking = true ∧ CertificateGood (certified certBytes) certBytes root0
    ∧ ¬CertificateGood (certified []) (List.replicate 2156 0#8) root0
    ∧ (stored none).sec.root = some root0 ∧ (stored none).bit R.SEC_STAT F.SEC_STAT_STORE_OK = false
    ∧ (stored (some (shake256 (0x11#8 :: root0) 32))).sec.store.hwm.map Prod.fst = some (2 ^ 40 - 1)
    ∧ (stored (some (shake256 (0x11#8 :: root0) 32))).sec.store.authentic (shake256 (0x11#8 :: root0) 32) = true
    ∧ (stored none).sec.heldGauge = [] ∧ (stored none).sec.store.gauge = []
    ∧ (stored (some [])).sec.store.bound = some [] ∧ [] ≠ shake256 (0x11#8 :: root0) 32 ∧ (stored none).sec.reserving = some 64 := by
  refine ⟨by decide +kernel, by decide +kernel, rfl, ⟨?_, ?_, ?_⟩, ?_, rfl, by decide +kernel, rfl, ?_, rfl, rfl, rfl, ?_, rfl⟩
  · rw [certBytes, List.take_left' (leBytes_length 4 1)]; decide
  · have : (certified certBytes).rd R.ID_PART = State.reset.rd R.ID_PART := rfl
    rw [this, certBytes, List.drop_left' (leBytes_length 4 1), List.take_left' (leBytes_length 4 _), leNat_leBytes]
    exact Nat.mod_eq_of_lt (State.reset.rd R.ID_PART).isLt
  · have h : certBytes = (leBytes 4 1 ++ leBytes 4 (State.reset.rd R.ID_PART).toNat)
        ++ (shake256 (0x10#8 :: root0) 32 ++ (List.replicate 68 0#8 ++ List.replicate 2048 0#8)) := by simp only [certBytes, List.append_assoc]
    rw [h, List.drop_left' (by simp only [List.length_append, leBytes_length]), List.take_left' (shake256_length _)]
  · intro h; exact absurd h.1 (by decide)
  · have : ∀ (k : List Byte) (x : StoreSeal), (x.ok k (leBytes 8 (2 ^ 40 - 1)) && true && true) = true → ({ State.reset.sec.store with hwm := some (2 ^ 40 - 1, x) } : StoreDev).authentic k = true :=
      fun _ _ h => h
    have t : ∀ k d : List Byte, StoreSeal.ok ⟨3, storeTag k 3 d⟩ k d = true := fun k d => beq_self_eq_true _
    have k : shake256 (0x11#8 :: root0) 32 = storeKey root0 := rfl
    rw [k]
    exact this _ _ (by rw [t]; rfl)
  · intro h
    have := congrArg List.length h
    rw [shake256_length] at this
    exact absurd this (by decide)

/-- A key record of the smallest parameter set in the buffer, unsigned. -/
def keyRecord : State :=
  let l : List Byte := leBytes 4 1 ++ leBytes 1 2 ++ leBytes 3 0 ++ leBytes 4 68 ++ leBytes 4 0 ++ beBytes 4 0x29
  wrs { State.reset with sec := { State.reset.sec with kbuf := Memory.putBytes [] 0 l, store := { State.reset.sec.store with opkey := some ([], ⟨1, []⟩) } } }
    [(R.SEC_STAT, mkF F.SEC_STAT_STORE_OK 1)]

/-- A record with another key, signed under the installed one. -/
def keyRotation (e key : List Byte) : State :=
  wrs { State.reset with sec := { State.reset.sec with kbuf := Memory.putBytes [] 0 e, store := { State.reset.sec.store with opkey := some (key, ⟨1, []⟩) } } }
    [(R.SEC_STAT, mkF F.SEC_STAT_STORE_OK 1)]

/-- The record that it holds. -/
def rotation : List Byte := signedEnv 2 1 (List.replicate 68 0#8)

theorem test_wit_OperatorKey_signed : (keyRotation rotation (shake256 opPk 32)).sec.store.opkey = some (shake256 opPk 32, ⟨1, []⟩)
    ∧ (keyRotation rotation (shake256 opPk 32)).sec.keying = none
    ∧ envSigLen ((keyRotation rotation (shake256 opPk 32)).sec.kbuf.bytes 0 256) = some 4963
    ∧ (keyRotation rotation (shake256 opPk 32)).sec.kbuf.bytes 0 (324 + 4963) = rotation
    ∧ (keyRotation rotation (shake256 opPk 32)).bit R.SEC_STAT F.SEC_STAT_STORE_OK = true
    ∧ leNat ((rotation.drop 8).take 4) = 68 ∧ envelopeOk rotation 2 = true ∧ signedUnder (shake256 opPk 32) rotation = true := by
  have l : rotation.length = 324 + 4963 := by rw [rotation, signedEnv_length, List.length_replicate]
  have p : ∀ e k, (keyRotation e k).sec.kbuf = Memory.putBytes [] 0 e ∧ (keyRotation e k).sec.keying = none
      ∧ (keyRotation e k).sec.store.opkey = some (k, ⟨1, []⟩) ∧ (keyRotation e k).regs = (keyRotation [] []).regs := fun _ _ => ⟨rfl, rfl, rfl, rfl⟩
  have h := Memory.bytes_putBytes [] 0 rotation
  rw [l] at h
  have h256 : envSigLen (rotation.take 256) = some 4963 := by
    have e := env_sigLen 2 1 (List.replicate 68 0#8)
    rw [envSigLen] at e ⊢
    rw [List.drop_take, List.take_take]
    exact e
  have b : (keyRotation [] []).bit R.SEC_STAT F.SEC_STAT_STORE_OK = true := by decide +kernel
  have b68 : (List.replicate 68 (0#8)).length = 68 := List.length_replicate
  refine ⟨(p _ _).2.2.1, (p _ _).2.1, ?_, by rw [(p _ _).1, h], ?_, ?_, env_ok 2 1 _ (by omega) (by rw [b68]; omega), env_signed 2 1 _ (by rw [b68]; omega)⟩
  · rw [(p _ _).1, bytes_take _ _ 256 (324 + 4963) (by omega), h, h256]
  · rw [State.bit, State.rd, (p _ _).2.2.2]; exact b
  · have := env_len 2 1 (List.replicate 68 0#8) (by rw [b68]; omega)
    rw [b68] at this; exact this

/-- The other record is well formed and not signed under the key. -/
theorem test_wit_RootOfTrust_OperatorKey : (stored none).sec.store.opkey = none ∧ (wrs (stored none) [(R.SEC_STAT, mkF F.SEC_STAT_STORE_OK 1)]).bit R.SEC_STAT F.SEC_STAT_STORE_OK = true
    ∧ (stored none).sec.keying = none ∧ ({ (stored none).sec with keying := some (false, []) } : SecSt).keying = some (false, [])
    ∧ keyRecord.sec.keying = none ∧ keyRecord.sec.store.opkey = some ([], ⟨1, []⟩) ∧ envSigLen (keyRecord.sec.kbuf.bytes 0 256) = some 4963
    ∧ envelopeOk (keyRecord.sec.kbuf.bytes 0 (324 + 4963)) 2 = true ∧ leNat (((keyRecord.sec.kbuf.bytes 0 (324 + 4963)).drop 8).take 4) = 68
    ∧ signedUnder [] (keyRecord.sec.kbuf.bytes 0 (324 + 4963)) = false ∧ keyRecord.bit R.SEC_STAT F.SEC_STAT_STORE_OK = true := by
  refine ⟨rfl, by decide +kernel, rfl, rfl, rfl, rfl, by decide +kernel, by decide +kernel, by decide +kernel, ?_, by decide +kernel⟩
  have h : ∀ e : List Byte, (shake256 ((e.drop 16).take 68) 32 == []) = false := by
    intro e
    have := shake256_length ((e.drop 16).take 68)
    cases hs : shake256 ((e.drop 16).take 68) 32 with
    | nil => rw [hs] at this; exact absurd this (by decide)
    | cons a l => rfl
  simp [signedUnder, h]

/-- The store open with leaf 5 under a mark, an ATTEST by VF 1. -/
def quoting (mark : Nat) (len : Nat) : State :=
  withDesc (wrs (stored none) [(R.SEC_STAT, mkF F.SEC_STAT_STORE_OK 1), (R.SEC_LEAF_LO, 5#32), (R.SEC_HWM_LO, BitVec.ofNat 32 mark)])
    { desc .checked 13 [(16, 4, len)] with fn := 1 }

/-- Block 16383 of region 4, which starts at MiB 9, recorded with WC 1, and a read of it; the PSRAM holds `m`. -/
def recordedIn (m : Memory) : State :=
  wrs { State.reset with sec := { State.reset.sec with reading := true, recWc := [(recKey 4 16383, 1)], psram := m } }
    [(R.SEC_RRD_ADDR, mkF F.SEC_RRD_ADDR_REGION 4 ||| mkF F.SEC_RRD_ADDR_BLOCK 16383),
      (R.SEC_REC_CFG 4, mkF F.SEC_REC_CFG_BUSY 1 ||| mkF F.SEC_REC_CFG_BASE_MB 9 ||| mkF F.SEC_REC_CFG_SIZE_MB 1)]

/-- The block's record is where it lies. -/
def recorded : State := recordedIn (Memory.putBytes [] (9 * 2 ^ 20 + 4128 * 16383) (blockRecord (keyBytes 0) 1 16383 4 (List.replicate 4096 9#8)))

theorem test_wit_QuotesAndRecorder : [64, 5].all (fun mark =>
      let s := quoting mark 13285
      s.ready 5 13 == some { desc .checked 13 [(16, 4, 13285)] with fn := 1 } && s.bit R.SEC_STAT F.SEC_STAT_STORE_OK && !s.bit R.SEC_STAT F.SEC_STAT_EXHAUST
        && s.sec.root.isSome && s.pair R.SEC_LEAF_LO R.SEC_LEAF_HI == 5 && s.pair R.SEC_HWM_LO R.SEC_HWM_HI == mark && !s.hostBad 0 13285) = true
    ∧ (quoting 64 13284).ready 5 13 = some { desc .checked 13 [(16, 4, 13284)] with fn := 1 }
    ∧ ({ quoting 5 13285 with sec := { (quoting 5 13285).sec with reserving := none } } : State).sec.reserving = none
    ∧ recorded.fld R.SEC_RRD_ADDR F.SEC_RRD_ADDR_REGION = 4 ∧ recorded.fld R.SEC_RRD_ADDR F.SEC_RRD_ADDR_BLOCK = 16383 ∧ recorded.sec.reading = true
    ∧ FMap.get 0 recorded.sec.recWc (recKey 4 16383) = 1 ∧ FMap.get 0 recorded.sec.recWc (recKey 4 16382) = 0
    ∧ (List.replicate 4096 (9#8)).length = 4096 ∧ recorded.bit (R.SEC_REC_CFG 4) F.SEC_REC_CFG_BUSY = true
    ∧ recorded.sec.psram.bytes (recorded.fld (R.SEC_REC_CFG 4) F.SEC_REC_CFG_BASE_MB * 2 ^ 20 + 4128 * 16383) 4128
      = blockRecord (keyBytes recorded.sec.recKey) 1 16383 4 (List.replicate 4096 9#8) := by
  refine ⟨by decide +kernel, by decide +kernel, rfl, by decide +kernel, by decide +kernel, rfl, by decide +kernel, by decide +kernel, List.length_replicate, by decide +kernel, ?_⟩
  have e : recorded.fld (R.SEC_REC_CFG 4) F.SEC_REC_CFG_BASE_MB = 9 := by decide +kernel
  have h := Memory.bytes_putBytes [] (9 * 2 ^ 20 + 4128 * 16383) (blockRecord (keyBytes 0) 1 16383 4 (List.replicate 4096 9#8))
  rw [blockRecord_length _ _ _ _ _ (keyBytes_length 0)] at h
  have p : ∀ m, (recordedIn m).sec.psram = m ∧ (recordedIn m).sec.recKey = 0 := fun _ => ⟨rfl, rfl⟩
  rw [e, recorded, (p _).1, (p _).2, h]

theorem test_wit_SealsOpen : (List.replicate 32 (7#8)).length = 32 ∧ (List.replicate 12 (7#8)).length = 12 ∧ (List.replicate 112 (7#8)).length = 112
    ∧ (List.replicate 4096 (7#8)).length = 4096 * 1 :=
  ⟨List.length_replicate, List.length_replicate, List.length_replicate, List.length_replicate⟩

/-- Context 1 with one placed page of 4,352 bytes at byte 0 of core 0, window 8 KiB, its group written under a head dimension of 64; entry 4 names it. -/
def spilling (op len : Nat) (img : List Byte) (led : List (Nat × Nat × Nat × Nat)) : State :=
  let s := chip { ctx0 .running with hkv := 1, placeN := 1, mode := 8, ledger := led }
  let s := wrs s [(winReg 0 0, mkF F.CORE_WIN_CFG_EN 1 ||| mkF F.CORE_WIN_CFG_SIZE 8)]
  let s := (withDesc s (desc .checked op [(8, 8, 4096), (16, 4, len), (20, 4, 4), (28, 4, 1)])).onPart 0 (fun x => { x with pool := [⟨0, 0, 3, .alloc 1, [4], 64⟩] })
  { s with tableMem := Memory.putNum (Memory.putNum [] 0 4 (2 ^ 31)) 4 4 (2 ^ 31 + 2 ^ 30 + 3), host := { s.host with mem := Memory.putBytes [] 4096 img } }

/-- Its page, as a range. -/
def spillRange : List (Nat × Dest) := [(0, (0, (none, [(0, 4352)])))]

/-- The image of a page of fives under the key at 0, with spill number 9. -/
def spilled : List Byte := spillImage (keyBytes 0) (spillHead 0 1 9 4 0 1 64 8 2) 9 2 (List.replicate 4352 5#8)

theorem test_wit_SpillRestoreAndLoad_SpillAndRestore : [10, 11].all (fun op =>
      let s := spilling op 8352 [] []
      let d := desc .checked op [(8, 8, 4096), (16, 4, 8352), (20, 4, 4), (28, 4, 1)]
      s.ready 5 op == some d && d.entries 20 == [4] && s.entriesIn 0 [4] && s.sliceU32 0 4 == 2 ^ 31 + 2 ^ 30 + 3
        && s.groupOf 0 (s.sliceU32 0 4) == some ⟨0, 0, 3, .alloc 1, [4], 64⟩ && s.sliceU32 0 4 % 256 == 3 && s.pageBytes 0 1 64 == 4352
        && (match s.pageRanges 0 1 4352 (s.groupPages 0 1 (s.sliceU32 0 4)) with
          | .ok rs => rs == spillRange
          | .error _ => false)
        && 128 + 4112 * ((spillRange.length * 4352 + 4095) / 4096) == 8352 && !s.hostBad 4096 8352 && s.ue.isEmpty && s.ce.isEmpty) = true
    ∧ spillRange.all (fun r => !(spilling 10 8352 [] []).holds r.1) = true ∧ (spilling 11 8352 spilled [(4, 0, 1, 9)]).host.mem.bytes 4096 8352 = spilled
    ∧ (4, 0, 1, 9) ∈ ((spilling 11 8352 [] [(4, 0, 1, 9)]).ctx 0 1).ledger ∧ (List.replicate 4352 (5#8)).length = spillRange.length * 4352
    ∧ ((spilling 11 8352 [] [(4, 0, 1, 9)]).ctx 0 1).mode < 2 ^ 32 := by
  refine ⟨by decide +kernel, by decide +kernel, ?_, by decide +kernel, List.length_replicate, by decide +kernel⟩
  have c : ∀ l : List Byte, 4096 < l.length → (chunksOf 4096 2 l).length = 2 := by
    intro l h
    have h1 : l.isEmpty = false := by cases l <;> simp_all
    have h2 : (l.drop 4096).isEmpty = false := by rw [List.isEmpty_eq_false_iff]; intro e; have := congrArg List.length e; simp at this; omega
    simp [chunksOf, h1, h2]
  have h := Memory.bytes_putBytes [] 4096 spilled
  have e : spilled.length = 8352 := spillImage_length _ _ _ 2 _ (keyBytes_length 0) (by simp [spillHead]) (c _ (by rw [List.length_replicate]; omega))
  have p : ∀ img, (spilling 11 8352 img [(4, 0, 1, 9)]).host.mem = Memory.putBytes [] 4096 img := fun _ => rfl
  rw [e] at h; rw [p, h]

/-- A LOAD_PROGRAM of a package, checked, or of a configuration that waits for its partition. -/
def loading (st : DescState) (img : List Byte) : State :=
  withDesc (chip (ctx0 .idle)) { desc st 1 [(8, 8, 4096), (16, 4, 16), (20, 1, 1)] with image := img }

/-- A configuration of partition 0: channel 3, one context of weight 1 and one KV head with a core record for core 1023, slot 3, KiB 0 to 3071. -/
def config : List Byte :=
  [0#8, 8#8, 1#8, 0#8] ++ leBytes 60 7 ++ (leBytes 2 1 ++ leBytes 46 1 ++ leBytes 16 128) ++ List.replicate 2040 0#8
    ++ leBytes 4 (2 ^ 31 + 3 * 2 ^ 28 + 3072 * 2 ^ 12) ++ leBytes 4 (2 ^ 22 - 4)

/-- Its image. -/
def configImage : List Byte := leBytes 8 0 ++ leBytes 4 2176 ++ List.replicate 244 0#8 ++ config

theorem test_wit_SpillRestoreAndLoad_LoadsProgram : (loading .checked []).host.descs.find? (fun d => d.id == 5 && d.opcode == 1 && (d.st == .checked || d.st == .dispatched))
      = some (desc .checked 1 [(8, 8, 4096), (16, 4, 16), (20, 1, 1)])
    ∧ (loading .checked []).hostBad 4096 16 = false ∧ (loading .checked []).verifies ((loading .checked []).host.mem.bytes 4096 16) 1 = false
    ∧ ((loading .checked []).ctx 0 1).state = .idle := by decide +kernel

/-- A fresh chip accepts it. -/
theorem test_wit_SpillRestoreAndLoad_LoadsConfiguration : (configImage.drop 256).take (leNat ((configImage.drop 8).take 4)) = config
    ∧ cfgOk State.reset.tableMem State.reset.own config = true ∧ State.reset.cfgFits 0 config = true ∧ cfgOk State.reset.tableMem State.reset.own [] = false
    ∧ (State.reset.part 0).configured = false ∧ (State.reset.part 0).resetting = none := by decide +kernel

/-- A chip with an image in host memory, the key that it is signed under, the store open, and a LOAD_PROGRAM that names it. -/
def signedLoad (s : State) (kind len : Nat) (e key : List Byte) : State :=
  let s := withDesc s (desc .checked 1 [(8, 8, 4096), (16, 4, len), (20, 1, kind)])
  { s with host := { s.host with mem := Memory.putBytes [] 4096 e }, sec := { s.sec with store := { s.sec.store with opkey := some (key, ⟨1, []⟩) } } }

/-- Its image is there, and it verifies where the operator signed it. -/
theorem signedLoad_verifies (s : State) (kind serial : Nat) (body : List Byte) (hk : kind < 256) (hb : body.length < 2 ^ 32)
    (bits : (s.bit R.SEC_STAT F.SEC_STAT_ROOT_OK && s.bit R.SEC_STAT F.SEC_STAT_STORE_OK && s.bit R.SEC_STAT F.SEC_STAT_OPKEY) = true)
    (len : Nat) (hl : len = 256 + body.length + 4963) :
    (signedLoad s kind len (signedEnv kind serial body) (shake256 opPk 32)).host.mem.bytes 4096 len = signedEnv kind serial body
    ∧ (signedLoad s kind len (signedEnv kind serial body) (shake256 opPk 32)).verifies (signedEnv kind serial body) kind = true := by
  have r : ∀ e k, (signedLoad s kind len e k).regs = s.regs := fun _ _ => rfl
  have b : ∀ e k a f, (signedLoad s kind len e k).bit a f = s.bit a f := fun e k a f => by rw [State.bit, State.rd, r, ← State.rd, ← State.bit]
  refine ⟨?_, verifies_of (x := ⟨1, []⟩) kind serial body hk hb (by rw [b, b, b]; exact bits) rfl⟩
  have m : ∀ e k, (signedLoad s kind len e k).host.mem = Memory.putBytes [] 4096 e := fun _ _ => rfl
  have h := Memory.bytes_putBytes [] 4096 (signedEnv kind serial body)
  rw [signedEnv_length, ← hl] at h
  rw [m, h]

/-- A section for flat bytes within the window of a core of the context is accepted (R236). -/
theorem sectionStatus_flat {s : State} {p x k : Nat} {r : PkgSection} (h : (s.ctx p x).cores.any (fun c => c.core == r.core) = true)
    (o : (s.part p).owns (r.core / 256) = true) (l : s.slotOf r.core p x = some k) (z : s.zeroing r.core k = false)
    (f : aPlane (BitVec.ofNat 32 r.addr) = false) (b : (beyond (s.bound r.core k) (aOff (BitVec.ofNat 32 r.addr)) r.len).isSome = false) :
    s.sectionStatus p x r = stOk := by
  simp [State.sectionStatus, h, State.destCheck, o, l, z, State.destRange, f, b]

/-- The body of a package: one section, of 4 bytes, to address 0 of core 0. -/
def package : List Byte :=
  List.replicate 64 3#8 ++ leBytes 4 1 ++ leBytes 60 0 ++ (leBytes 4 0 ++ leBytes 4 0 ++ leBytes 4 144 ++ leBytes 4 4) ++ [1#8, 2#8, 3#8, 4#8]

/-- What opens the store and holds a key. -/
def opened : Word := mkF F.SEC_STAT_ROOT_OK 1 ||| mkF F.SEC_STAT_STORE_OK 1 ||| mkF F.SEC_STAT_OPKEY 1

/-- The package signed, for a context that is idle or running. -/
def packageLoad (st : CtxState) (e key : List Byte) : State := signedLoad (wrs (chip (ctx0 st)) [(R.SEC_STAT, opened)]) 0 5367 e key

/-- The configuration signed, for a fresh chip. -/
def configLoad (e key : List Byte) : State := signedLoad (wrs State.reset [(R.SEC_STAT, opened)]) 1 7395 e key

theorem test_wit_LoadsProgram_signed : package.length = 148
    ∧ (∀ st, (packageLoad st (signedEnv 0 1 package) (shake256 opPk 32)).host.mem.bytes 4096 5367 = signedEnv 0 1 package
      ∧ (packageLoad st (signedEnv 0 1 package) (shake256 opPk 32)).verifies (signedEnv 0 1 package) 0 = true)
    ∧ ((signedEnv 0 1 package).drop 256).take (leNat (((signedEnv 0 1 package).drop 8).take 4)) = package
    ∧ pkgOk package 0 = true
    ∧ (∀ e k st, (packageLoad st e k).host.descs.find? (fun d => d.id == 5 && d.opcode == 1 && (d.st == .checked || d.st == .dispatched))
            = some (desc .checked 1 [(8, 8, 4096), (16, 4, 5367), (20, 1, 0)])
        ∧ (packageLoad st e k).hostBad 4096 5367 = false ∧ ((packageLoad st e k).ctx 0 1).state = st ∧ ((packageLoad st e k).ctx 0 1).mode = 0
        ∧ (packageLoad st e k).ue = [] ∧ (packageLoad st e k).ce = [] ∧ (packageLoad st e k).slotOf 0 0 1 = some 0
        ∧ ∀ r ∈ pkgSections package, r.ok = true ∧ (packageLoad st e k).sectionStatus 0 1 r = 0 ∧ (packageLoad st e k).holds r.core = false) := by
  have l : package.length = 148 := by decide +kernel
  refine ⟨l, fun st => signedLoad_verifies _ 0 1 package (by omega) (by rw [l]; omega) ?_ 5367 (by rw [l]), ?_, by decide +kernel, fun e k st => ?_⟩
  · have b : ∀ st, (wrs (chip (ctx0 st)) [(R.SEC_STAT, opened)]).rd R.SEC_STAT = opened := fun _ => State.rd_wr_self _ _ _
    rw [State.bit, State.bit, State.bit, b]; decide +kernel
  · have h := env_body 0 1 package
    rw [env_len 0 1 package (by rw [l]; omega), h]
  · refine ⟨rfl, rfl, rfl, rfl, rfl, rfl, rfl, ?_⟩
    have ps : pkgSections package = [⟨0, 0, 144, 4, true⟩] := by decide +kernel
    intro r h
    rw [ps, List.mem_singleton] at h
    subst h
    have o : (packageLoad st e k).holds 0 = (packageLoad .idle [] []).holds 0 := rfl
    have w : ((packageLoad st e k).part 0).owns = ((packageLoad .idle [] []).part 0).owns := rfl
    have z : (packageLoad st e k).zeroing 0 0 = (packageLoad .idle [] []).zeroing 0 0 := rfl
    have n : (packageLoad st e k).bound 0 0 = (packageLoad .idle [] []).bound 0 0 := rfl
    exact ⟨rfl, sectionStatus_flat (k := 0) rfl (by rw [w]; decide +kernel) rfl (by rw [z]; decide +kernel) rfl (by rw [n]; decide +kernel), by rw [o]; decide +kernel⟩

theorem test_wit_LoadsConfiguration_signed : config.length = 2176
    ∧ (configLoad (signedEnv 1 1 config) (shake256 opPk 32)).host.mem.bytes 4096 7395 = signedEnv 1 1 config
    ∧ (configLoad (signedEnv 1 1 config) (shake256 opPk 32)).verifies (signedEnv 1 1 config) 1 = true
    ∧ ((signedEnv 1 1 config).drop 256).take (leNat (((signedEnv 1 1 config).drop 8).take 4)) = config
    ∧ (∀ e k, let s := configLoad e k
        (s.host.descs.find? (fun d => d.id == 5 && d.opcode == 1 && (d.st == .checked || d.st == .dispatched))
            == some (desc .checked 1 [(8, 8, 4096), (16, 4, 7395), (20, 1, 1)])
          && !s.hostBad 4096 7395 && (s.part 0).resetting.isNone && !(s.part 0).configured) = true
        ∧ s.tableMem = State.reset.tableMem ∧ s.own = State.reset.own ∧ s.parts = State.reset.parts
        ∧ (∀ a, a ≠ R.SEC_STAT → s.rd a = State.reset.rd a)) := by
  have l : config.length = 2176 := by decide +kernel
  have v := signedLoad_verifies (wrs State.reset [(R.SEC_STAT, opened)]) 1 1 config (by omega) (by rw [l]; omega) (by decide +kernel) 7395 (by rw [l])
  refine ⟨l, v.1, v.2, ?_, fun e k => ⟨rfl, rfl, rfl, rfl, fun a h => ?_⟩⟩
  rotate_left
  · have r : (configLoad e k).rd a = (State.reset.wr R.SEC_STAT opened).rd a := rfl
    rw [r, State.rd_wr_ne _ _ h]
  have h := env_body 1 1 config
  rw [env_len 1 1 config (by rw [l]; omega), h]

/-- A chip that runs: PORST_N and PERST_N high, cast-on over, the Fabric ready, the island up, the PLL locked. -/
def live : State :=
  wrs { State.reset with pwr := { State.reset.pwr with pinLow := false, brown := false, perst := false, cast := false, wasReady := true, isl := false, tested := true } }
    [(R.HI_STAT, mkF F.HI_STAT_FABRIC_READY 1 ||| mkF F.HI_STAT_ISLAND_UP 1), (R.CLK_STAT, mkF F.CLK_STAT_LOCK 1)]

/-- Cast-on: powered, island up or still in reset, the self-test ended or not. -/
def castOn (isl tested : Bool) : State := { live with pwr := { live.pwr with cast := true, isl := isl, tested := tested, wasReady := false } }

theorem test_wit_ResetsOfParts : FabricUp live ∧ live.pwr.wasReady = true ∧ live.pwr.perst = false ∧ (castOn false true).pwr.wasReady = false
    ∧ live.bit R.HI_STAT F.HI_STAT_ISLAND_UP = true ∧ live.pwr.isl = false
    ∧ (live.onHost (fun h => { h with numVFs := 4 })).fnUp 4 = true ∧ (live.onHost (fun h => { h with numVFs := 4 })).fnUp 1 = true
    ∧ ({ live with parts := [(0, part1 (ctx0 .running))] } : State).parts = [(0, part1 (ctx0 .running))] := by
  unfold FabricUp; decide +kernel

/-- Domain 13 (channel 3), domain 49 (its ninth core group), and what may not be gated: 12 while its groups run, the root. -/
theorem test_wit_ResetsRailsAndStart_RailsAndGates : live.powered = true ∧ live.chState 3 ≠ 3 ∧ live.pwr.isl = false ∧ live.gateBit 49 = false
    ∧ (wrs live [(R.CP_STAT 3, 0#32)]).mayGate 49 = true ∧ live.mayGate 12 = false ∧ live.mayGate 0 = false
    ∧ (wrs live [(R.PWR_GATE_LO, 0xFF800000#32)]).mayGate 11 = true ∧ (wrs live [(R.PWR_GATE_LO, 0xFF800000#32)]).gateBit 11 = false
    ∧ (wrs live [(R.PWR_GATE_HI, mkF ⟨17, 17⟩ 1)]).gateBit 49 = true
    ∧ bitOf ({ live with pwr := { live.pwr with rising := 2 ^ 13 } } : State).pwr.rising 13 = true
    ∧ bitOf ({ live with pwr := { live.pwr with rising := 2 ^ 49 } } : State).pwr.rising 49 = true := by decide +kernel

/-- The store holds a gauge record of channel 3 at 605 mV; the PLL is not locked. -/
def recalled (m : Nat) : State :=
  let g : GaugeRec := ⟨false, leBytes 4 m ++ leBytes 1 3 ++ leBytes 1 0 ++ leBytes 2 605 ++ List.replicate 8 0#8⟩
  { (wrs live [(R.CLK_STAT, 0#32), (R.SEC_STAT, mkF F.SEC_STAT_STORE_OK 1)]) with
    sec := { live.sec with store := { live.sec.store with gauge := [(g, ⟨1, []⟩)] } } }

theorem test_wit_ResetsRailsAndStart_ColdStart : live.pwr.porst = false ∧ State.reset.bit R.CLK_STAT F.CLK_STAT_LOCK = false
    ∧ ({ live with pwr := { live.pwr with pinLow := true } } : State).pwr.porst = true
    ∧ ({ live with pwr := { live.pwr with pinLow := true } } : State).pwr.brown = false
    ∧ ({ live with pwr := { live.pwr with brown := true } } : State).pwr.porst = true
    ∧ ({ live with pwr := { live.pwr with brown := true } } : State).pwr.pinLow = false
    ∧ (recalled 5).lastVset 3 = some 605 ∧ 605 ≠ (recalled 5).fld (R.GAUGE_VSET 3) F.GAUGE_VSET_VSET ∧ (recalled 5).bit R.CLK_STAT F.CLK_STAT_LOCK = false
    ∧ (castOn false false).gated 49 = false ∧ (castOn false false).pwr.held = 0 ∧ (castOn false false).bit R.HI_STAT F.HI_STAT_FABRIC_RESET = false
    ∧ ({ castOn false true with gauge := { live.gauge with lastAt := 1 } } : State).gaugeDone = true ∧ (castOn false true).gauge.lastAt = 0
    ∧ (wrs live [(R.GAUGE_STAT 3, mkF F.GAUGE_STAT_MEAS 1)]).bit (R.GAUGE_STAT 3) F.GAUGE_STAT_MEAS = true
    ∧ live.powered = true ∧ live.bit R.CLK_STAT F.CLK_STAT_LOCK = true ∧ (wrs live [(R.CLK_STAT, 0#32)]).bit R.CLK_STAT F.CLK_STAT_LOCK = false
    ∧ (castOn false false).powered = true ∧ (castOn false false).pwr.cast = true ∧ (castOn false false).pwr.tested = false
    ∧ (castOn false false).bit R.HI_STAT F.HI_STAT_ISLAND_UP = true
    ∧ (castOn true false).pwr.isl = true ∧ bitOf ((castOn true false).fld R.SUPPLY_STAT F.SUPPLY_STAT_BELOW) 4 = false
    ∧ (castOn false true).pwr.tested = true ∧ (castOn false true).bit R.HI_STAT F.HI_STAT_CASTON_FAIL = false
    ∧ (wrs (castOn false true) [(R.HI_STAT, mkF F.HI_STAT_CASTON_FAIL 1 ||| mkF F.HI_STAT_ISLAND_UP 1)]).bit R.HI_STAT F.HI_STAT_CASTON_FAIL = true
    ∧ (wrs live [(R.HI_STAT, mkF F.HI_STAT_FABRIC_RESET 1)]).bit R.HI_STAT F.HI_STAT_FABRIC_RESET = true := by decide +kernel

/-- A measurement ends on channel 3: VSET 849, 850 or 605, cast-on or not; a transaction wants 848. -/
def gauged (v : Nat) (cast : Bool) : State :=
  { (wrs live [(R.GAUGE_STAT 3, mkF F.GAUGE_STAT_MEAS 1), (R.GAUGE_VSET 3, mkF F.GAUGE_VSET_VSET v), (R.SEC_STAT, mkF F.SEC_STAT_STORE_OK 1)]) with
    pwr := { live.pwr with cast := cast }, now := 240000000000, gauge := { live.gauge with want := [(3, some 848)], again := [(3, some 240000000000)], fails := [(3, 2)] } }

theorem test_wit_PowerMonitors : live.powered = true ∧ live.stretched 3 = false
    ∧ bitOf (live.fld R.SUPPLY_STAT F.SUPPLY_STAT_BELOW) 4 = false
    ∧ bitOf ((wrs live [(R.SUPPLY_STAT, mkF F.SUPPLY_STAT_BELOW 31)]).fld R.SUPPLY_STAT F.SUPPLY_STAT_BELOW) 4 = true
    ∧ live.chState 3 ≠ 3 ∧ [849, 850, 605].all (fun v => let s := gauged v (v == 605)
      s.bit (R.GAUGE_STAT 3) F.GAUGE_STAT_MEAS && s.fld (R.GAUGE_VSET 3) F.GAUGE_VSET_VSET == v && s.pwr.cast == (v == 605)
        && s.bit R.SEC_STAT F.SEC_STAT_STORE_OK && decide (s.sec.store.gauge.length < 65536) && decide (FMap.get 0 s.gauge.steps 3 < 16)
        && decide (s.gauge.lastAt + 240000000000 ≤ s.now) && FMap.get none s.gauge.again 3 == some 240000000000
        && s.sec.heldGauge.length == 0 && !FMap.get false s.gauge.probe 3 && FMap.get none s.gauge.want 3 == some 848 && FMap.get 0 s.gauge.fails 3 == 2 && FMap.get 0 s.gauge.fails 2 == 0) = true
    ∧ (castOn false true).powered = true ∧ (castOn false true).pwr.cast = true ∧ (castOn false true).pwr.tested = true ∧ (castOn false true).gauge.lastAt = 0
    ∧ (castOn false true).railsSet = true
    ∧ FMap.get false ({ live with gauge := { live.gauge with probe := [(3, true)], fails := [(3, 2)] } } : State).gauge.probe 3 = true
    ∧ bitOf ({ (wrs live [(R.SUPPLY_STAT, mkF F.SUPPLY_STAT_BELOW 8)]) with pwr := { live.pwr with held := 8 } } : State).pwr.held 3 = true := by
  decide +kernel

/-! ### Witnesses: bus, trace, links -/

theorem test_wit_RegisterAccess : Answers live ∧ (regDesc R.PWR_STAT).isSome = true ∧ R.PWR_STAT % 4 = 0 ∧ 0x02800000 ≤ R.PWR_STAT ∧ R.PWR_STAT < 0x02900000
    ∧ R.PWR_STAT ∉ [R.RST_CTRL, R.TEN_CFG, R.PWR_GATE_LO, R.PWR_GATE_HI, R.GAUGE_CFG, R.SUPPLY_CFG]
    ∧ (live.onHost (fun h => { h with numVFs := 4 })).fnUp 4 = true ∧ (0x0B#8 : Byte) = ~~~0xF4#8 ∧ (0x02#8 : Byte) = ~~~0xFD#8
    ∧ (0x03FFFFFC#32).toNat < 2 ^ 26 ∧ (0x03FFFFFC#32).toNat % 4 = 0
    ∧ FMap.get none ({ live with hold := [(holdKey 0 R.SEC_LEAF_LO, some 7#32)] } : State).hold (holdKey 0 R.SEC_LEAF_LO) = some 7#32 := by
  unfold Answers; decide +kernel

/-- The PF's trace ring, or its sample ring, of 16 slots with one block begun; VF 4's sample ring with one counter of core 768. -/
def tracing : State :=
  let s := wrs (live.onHost (fun h => { h with numVFs := 4 })) [(ringCfg 0, mkF F.TRCF_CFG_EN 1 ||| mkF F.TRCF_CFG_LOG2SZ 4 ||| mkF F.TRCF_CFG_FLUSH 1),
    (ringCfg 8, mkF F.TRCF_CFG_EN 1 ||| mkF F.TRCF_CFG_LOG2SZ 12 ||| mkF F.TRCF_CFG_FLUSH 1), (R.SMP_CFG 4, mkF F.SMP_CFG_EN 1 ||| mkF F.TRCF_CFG_LOG2SZ 4),
    (R.SMP_SEL 4 0, mkF F.SMP_SEL_LOID 768), (R.CORE_CNT_CFG 768 0, mkF F.GCNT_CFG_EN 1 ||| mkF F.GCNT_CFG_EVENT 0x0C ||| mkF F.GCNT_CFG_PART 3)]
  let t : TraceSt := { s.trc with firstAt := [(0, some 0), (8, some 0)], blocks := [(0, [1#8]), (8, [2#8])], keyed := 255 }
  let q : PartSt := { part1 (ctx0 .running) with chmask := 8, cur := some 1 }
  { s with now := 400, trc := t, parts := [(3, q)] }

theorem test_wit_TraceEventLogJtag_TraceAndCounters : live.bit (ringCfg 4) F.TRCF_CFG_EN = false ∧ live.bit (ringCfg 12) F.TRCF_CFG_EN = false ∧ live.trc.keyed ≠ 255
    ∧ tracing.trc.keyed = 255 ∧ [4, 12].all (fun z => isSet (mkF F.TRCF_CFG_EN 1 ||| mkF F.TRCF_CFG_LOG2SZ z) F.TRCF_CFG_EN
      && getF (mkF F.TRCF_CFG_EN 1 ||| mkF F.TRCF_CFG_LOG2SZ z) F.TRCF_CFG_LOG2SZ == z) = true
    ∧ [0, 8].all (fun k => tracing.bit (ringCfg k) F.TRCF_CFG_EN && !tracing.bit (ringCfg k) F.TRCF_CFG_DEST && FMap.get none tracing.trc.firstAt k == some 0
      && tracing.fld (ringCfg k) F.TRCF_CFG_FLUSH == 1 && decide (0 + 400 * 1 ≤ tracing.now) && tracing.gathered k != []
      && decide (tracing.fld (ringCfg k) F.TRCF_CFG_LOG2SZ ≤ 12) && tracing.fld (ringTail k) F.TRCF_TAIL_TAIL + 1 != tracing.fld (ringHead k) F.TRCF_HEAD_HEAD
      && !tracing.hostBad (tracing.pair (ringBase k) (ringBase k + 4)) 4128) = true
    ∧ tracing.fnUp 4 = true ∧ tracing.bit (R.SMP_CFG 4) F.SMP_CFG_EN = true ∧ tracing.bit (R.SMP_CFG 4) F.SMP_CFG_DEST = false
    ∧ (tracing.part 3).cur = some 1 ∧ tracing.fld (R.SMP_CFG 4) F.SMP_CFG_NSEL = 0 ∧ tracing.fld (R.SMP_CFG 4) F.TRCF_CFG_LOG2SZ = 4
    ∧ (tracing.fld (R.SMP_TAIL 4) F.TRCF_TAIL_TAIL + 1) % 16 ≠ tracing.fld (R.SMP_HEAD 4) F.TRCF_HEAD_HEAD
    ∧ cntOfId (tracing.smpId 4 0) = some (.core, R.CORE_CNT_CFG 768 0, 768) ∧ (tracing.part 3).owns (768 / 256) = true
    ∧ tracing.fld (R.CORE_CNT_CFG 768 0) F.GCNT_CFG_PART = 3 ∧ cycleEvent (tracing.fld (R.CORE_CNT_CFG 768 0) F.GCNT_CFG_EVENT) = false
    ∧ tracing.hostBad (tracing.pair (R.SMP_BASE_LO 4) (R.SMP_BASE_LO 4 + 4)) 32 = false
    ∧ [1, 2].all (fun h => (cntAt (R.CORE_CNT_CFG 1023 7 + 4 * h)).map (fun q => q.2.2) == some (1023, h)) = true := by decide +kernel

theorem test_wit_TraceEventLogJtag_EventLogAndJtag : (live.onHost (fun h => { h with numVFs := 4 })).fnUp 4 = true ∧ live.fnUp 0 = true
    ∧ live.bit (R.HI_FN_ELOG_CFG 4) F.HI_FN_ELOG_CFG_EN = false
    ∧ [3, 4, 12, 13].all (fun z => isSet (mkF F.HI_FN_ELOG_CFG_EN 1 ||| mkF F.HI_FN_ELOG_CFG_LOG2SZ z) F.HI_FN_ELOG_CFG_EN
      && getF (mkF F.HI_FN_ELOG_CFG_EN 1 ||| mkF F.HI_FN_ELOG_CFG_LOG2SZ z) F.HI_FN_ELOG_CFG_LOG2SZ == z) = true := by decide +kernel

/-- Link 14 in a state, with flits 4095 and 0 sent and not acknowledged. -/
def linked (st : Nat) : State :=
  (wrs (chip (ctx0 .running)) [(R.KL_STAT 14, mkF F.KL_STAT_STATE st), (R.KL_CTRL 14, mkF F.KL_CTRL_EN 1 ||| mkF F.KL_CTRL_RETRY_MAX 1)]).onNoc (fun n =>
    { n with links := [(14, { LinkSt.init with unacked := [⟨4095, true, 4, [], [], none, none, true, none⟩, ⟨0, true, 4, [], [], none, none, true, none⟩], resends := 1 })] })

/-- The same link with nothing sent. -/
def fresh14 (st : Nat) : State := wrs (chip (ctx0 .running)) [(R.KL_STAT 14, mkF F.KL_STAT_STATE st), (R.KL_CTRL 14, mkF F.KL_CTRL_EN 1)]

/-- It is looped back. -/
def looped14 : State := wrs (fresh14 2) [(R.KL_CTRL 14, mkF F.KL_CTRL_EN 1 ||| mkF F.KL_CTRL_LPBK 1)]

theorem test_wit_LinkStates : (fresh14 0).linkState 14 = 0 ∧ (fresh14 0).gated (6 + 14 / 4) = false ∧ (linked 3).linkState 14 = 3 ∧ (linked 2).linkState 14 = 2
    ∧ ((fresh14 3).link 14).txq = [] ∧ ((fresh14 3).link 14).unacked = [] ∧ (fresh14 1).linkState 14 = 1 ∧ (fresh14 1).bit (R.KL_CTRL 14) F.KL_CTRL_LPBK = false
    ∧ (fresh14 1).facing 14 = (0, 15, 0) ∧ (fresh14 1).facing 15 = (1, 15, 15) ∧ (fresh14 1).bit (R.KL_CTRL 14) F.KL_CTRL_EN = true
    ∧ (fresh14 0).regTakes (R.KL_CTRL 14) = true ∧ (wrs (fresh14 0) [(R.PWR_GATE_LO, mkF ⟨9, 9⟩ 1)]).regTakes (R.KL_CTRL 14) = false
    ∧ looped14.bit (R.KL_CTRL 14) F.KL_CTRL_LPBK = true
    ∧ (fresh14 4).linkState 14 = 4 ∧ ((linked 2).link 14).resends = 1 ∧ (linked 2).fld (R.KL_CTRL 14) F.KL_CTRL_RETRY_MAX = 1 := by decide +kernel

/-- A flit of a type, pool and number, whose next word begins the payload, with its CRC; `hi` is the acknowledged number, `ack` its flag, `cr` the credits of a pool. -/
def flit (type pool seq hi ack cr : Nat) (pl : List Byte) : List Byte :=
  let b := padTo 0#8 252 (leBytes 8 (seq * 2 ^ 52 + hi * 2 ^ 40 + ack * 2 ^ 39 + type * 2 ^ 35 + pool * 2 ^ 32 + cr) ++ pl)
  b ++ leBytes 4 (crc32 b)

/-- A message to this chip of one byte, from chip 1. -/
def wire1 : List Byte := leBytes 4 (2 ^ 26) ++ leBytes 12 0 ++ leBytes 4 (7 * 2 ^ 16 + 2 ^ 13) ++ leBytes 4 (2 ^ 23) ++ leBytes 8 3 ++ [0xAA#8]

/-- A child of context 1 of job 7 for core 0. -/
def wchild : WireChild := ⟨0, 0, false, 0, 0, 7, 1, 0, 0, false, 0, 1, List.replicate 128 1#8, 1, 3, 9⟩

/-- A flit at link 14, by what its header says. -/
theorem flit_taken {type pool seq : Nat} {s : State} {fl : List Byte} (up : s.receives 14 = true ∧ (s.link 14).txq = [])
    (crc : fl.length = 256 ∧ crc32 (fl.take 252) = leNat (fl.drop 252))
    (hdr : ∀ q ∈ [(37, 35, type), (34, 32, pool), (63, 52, seq)],
      bitsOf (leNat (fl.take 8)) q.1 q.2.1 = q.2.2) (flags : (bitOf (leNat (fl.take 8)) 39 || bitOf (leNat (fl.take 8)) 38) = false) :
    Taken s 14 fl type pool seq :=
  { link := up, intact := crc, quiet := Bool.or_eq_false_iff.mp flags, type := hdr (37, 35, type) (by simp),
    pool := hdr (34, 32, pool) (by simp), seq := hdr (63, 52, seq) (by simp) }

/-- In order with a message or a child, ahead and behind; control records; an acknowledgement of the first of two; a broken CRC; a NAK of a number not out. -/
theorem test_wit_FlitsAndCredits_Flits : Taken (fresh14 2) 14 (flit 0 3 0 0 0 0 wire1) 0 3 0 ∧ Taken (fresh14 2) 14 (flit 0 3 1 0 0 0 wire1) 0 3 1
    ∧ Taken (fresh14 2) 14 (flit 0 3 4095 0 0 0 wire1) 0 3 4095 ∧ Taken (fresh14 2) 14 (flit 1 4 0 0 0 0 []) 1 4 0 ∧ nextSeq (fresh14 2) 14 = 0
    ∧ FMap.get none ((fresh14 2).link 14).asm 3 = none ∧ wireLen ((flit 0 3 0 0 0 0 wire1).drop 8) ≤ 244 ∧ (wireMsg (((flit 0 3 0 0 0 0 wire1).drop 8).take 244)).dst = (fresh14 2).own
    ∧ wchild.dst = (fresh14 2).own ∧ (fresh14 2).partOfJob wchild.job = some 0 ∧ wchild.root = false
    ∧ (linked 2).receives 14 = true ∧ Intact (flit 3 0 0 4095 1 (3 * 2 ^ 29 + 511 * 2 ^ 20) []) ∧ ((linked 2).link 14).txq = []
    ∧ ((linked 2).link 14).unacked = [] ++ ⟨4095, true, 4, [], [], none, none, true, none⟩ :: [⟨0, true, 4, [], [], none, none, true, none⟩]
    ∧ bitsOf (leNat ((flit 3 0 0 4095 1 0 []).take 8)) 51 40 = 4095 ∧ bitsOf (leNat ((flit 3 0 0 4095 1 0 []).take 8)) 37 35 = 3
    ∧ bitOf (leNat ((flit 3 0 0 4095 1 0 []).take 8)) 39 = true ∧ bitOf (leNat ((flit 3 0 0 4095 1 0 []).take 8)) 38 = false
    ∧ ¬Intact (List.replicate 256 1#8) ∧ (∀ f ∈ ((linked 2).link 14).unacked, f.seq ≠ 7)
    ∧ (Intact (flit 3 0 0 0 0 (64 * 2 ^ 32) []) ∧ bitsOf (leNat ((flit 3 0 0 0 0 (64 * 2 ^ 32) []).take 8)) 37 35 = 3
      ∧ bitOf (leNat ((flit 3 0 0 0 0 (64 * 2 ^ 32) []).take 8)) 39 = false ∧ bitOf (leNat ((flit 3 0 0 0 0 (64 * 2 ^ 32) []).take 8)) 38 = true) := by
  refine ⟨?_, ?_, ?_, ?_, by unfold Intact; decide +kernel⟩ <;> apply flit_taken <;> decide +kernel

/-- A job with landing room for 4 KiB and four messages; a message waits for its credit to chip 16; link 15 is UP and used. -/
def landing (bytes : Nat) (up : Bool) : State :=
  (wrs (chip (ctx0 .running)) [(R.KL_STAT 15, mkF F.KL_STAT_STATE (if up then 2 else 0))]).onNoc (fun n =>
    let q : List Landing := [⟨31, 1, 8, 9⟩, ⟨31, 2, 7, bytes⟩]
    let e : List E2e := [⟨⟨0x083E0000#32, 0#32, 0#32, 0#32, 7, 1, [0#8], 0, 0, 0, 5, 1, none, 0⟩, 0, true⟩]
    { n with reqs := q, grantsIn := [(5, 31), (6, 31)], linksUsed := 2 ^ 15, links := [(15, { LinkSt.init with peerPools := [(7, 4)] })], e2e := e })

theorem test_wit_FlitsAndCredits_EndToEndCredits : [4096, 4097].all (fun b => (landing b true).noc.reqs[1]? == some ⟨31, 2, 7, b⟩
      && ((landing b true).noc.reqs.take 1).all (fun q => q.job != 7) && (landing b true).partOfJob 7 == some 0
      && decide (((landing b true).noc.landed.filter (fun e => e.job == 7)).foldl (fun t e => t + e.bytes) 0 + b ≤ ((landing b true).part 0).landKb * 1024) == (b == 4096)
      && decide (((landing b true).noc.landed.filter (fun e => e.job == 7)).length < ((landing b true).part 0).landMsg)) = true
    ∧ (landing 1 true).firstHop 31 none 0 = some 15 ∧ (landing 1 true).noc.grantsIn[0]? = some (5, 31)
    ∧ (landing 1 true).noc.grantsIn[1]? = some (6, 31) ∧ (landing 1 true).noc.e2e.find? (fun e => e.msg.id == 6) = none
    ∧ ((landing 1 true).noc.e2e.find? (fun e => e.msg.id == 5)).map (fun e => e.msg.dst) = some 31
    ∧ (landing 1 true).firstHop 31 (some 7) 0 = some 15 ∧ (landing 1 false).firstHop 31 (some 7) 0 = none := by decide +kernel

/-! ### Witnesses: sensor ingest -/

/-- A plan: INT8, dense, one target of one row on core 0, crop and output of one pixel, arrival entries from byte 0 in 16 places, SYNC object 0, `free` FREEEN. -/
def plan1 (free : Nat) : List Byte :=
  let m := [(0, 2 ^ 27 + 2 ^ 16 + 2 ^ 8 + free * 2 ^ 7), (12, 2 ^ 16 + 1), (16, 2 ^ 16 + 1), (72, 4), (128, 2 ^ 31), (132, 1024), (136, 1), (144, 1)].foldl
    (fun m q => Memory.putNum m q.1 4 q.2) ([] : Memory)
  m.bytes 0 160

/-- Stream 63 of port 0 for context 1, lines of RGB in a frame of one pixel, or 1722 video; the ingest runs. -/
def ingest (st : Nat) (video : Bool) (x : StreamSt) : State :=
  let s := wrs (chip (ctx0 .running)) [(R.STRM_STAT 63, mkF F.STRM_STAT_STATE st), (R.STRM_GEOM 63, mkF F.STRM_GEOM_W 1 ||| mkF F.STRM_GEOM_H 1),
    (R.STRM_CTRL 63, mkF F.STRM_CTRL_PIXFMT 5 ||| mkF F.STRM_CTRL_CTX 1 ||| mkF F.STRM_CTRL_KIND (if video then 1 else 0)), (cfgReg 0, mkF F.SYNC_CFG_EN 1),
    (R.STRM_MATCH 63, mkF F.STRM_MATCH_UDPPORT 5000 ||| mkF F.STRM_MATCH_STAG 9), (R.STRM_TIME 63, mkF F.STRM_TIME_PERIOD_US 1000 ||| mkF F.STRM_TIME_VBLANK_US 1)]
  { s with pwr := { s.pwr with isl := false }, ing := { s.ing with streams := [(63, { x with plan := plan1 0 })] } }

/-- A frame with its FCS. -/
def ethFrame (type : Nat) (p : List Byte) : List Byte :=
  let b := List.replicate 12 0#8 ++ beBytes 2 type ++ p
  b ++ leBytes 4 (crc32 b)

/-- A line packet: flags, frame 7, line, one line of a pixel, PTIME 99; its CRC. -/
def linePkt (flags line : Nat) : List Byte :=
  let b := beBytes 1 0x10 ++ beBytes 1 flags ++ beBytes 2 9 ++ beBytes 4 7 ++ beBytes 2 line ++ beBytes 2 1 ++ beBytes 2 1 ++ beBytes 1 5 ++ beBytes 1 0
    ++ beBytes 4 99 ++ beBytes 12 0 ++ [1#8, 2#8, 3#8]
  b ++ beBytes 4 (crc32 b)

/-- In a datagram of UDP over IPv4. -/
def lineFrame (flags line : Nat) : List Byte :=
  let u := beBytes 2 1 ++ beBytes 2 5000 ++ beBytes 2 47 ++ beBytes 2 0 ++ linePkt flags line
  ethFrame 0x0800 (beBytes 2 0x4500 ++ beBytes 2 67 ++ beBytes 4 0 ++ beBytes 1 64 ++ beBytes 1 17 ++ beBytes 2 0x7AAB ++ beBytes 8 0 ++ u)

/-- A 1722 packet with the first fragment of a JPEG of TYPE 0, Q 50, two bytes. -/
def avtpFrame : List Byte :=
  let body := beBytes 5 0 ++ beBytes 1 50 ++ beBytes 2 0 ++ [0x11#8, 0x22#8]
  ethFrame 0x22F0 (beBytes 1 3 ++ beBytes 1 1 ++ beBytes 2 0 ++ beBytes 8 0 ++ beBytes 4 99 ++ beBytes 2 0x0200 ++ beBytes 2 0 ++ beBytes 2 10 ++ beBytes 2 0 ++ body)

/-- A frame begun whose next line is 0. -/
def begun : IngFrame := ⟨0, some 99, 7, 0, [], [], [], 0⟩

/-- An enabled stream with nothing received, and one with a frame begun. -/
def strm1 (f : Option IngFrame) : StreamSt := { StreamSt.init with asm := f }

/-- What ArrivesFor says, from checks. -/
theorem arrives_of {s : State} {port : Nat} {fr : List Byte} {t : Nat} {k : EthKind}
    (up : s.portUp port = true ∧ s.pwr.isl = false ∧ s.gated 3 = false ∧ s.gated 4 = false)
    (fcs : (18 ≤ fr.length ∧ fr.length ≤ 9216) ∧ crc32 (fr.take (fr.length - 4)) = leNat (fr.drop (fr.length - 4)))
    (for_ : ethOf (fr.take (fr.length - 4)) = k ∧ (List.range 64).find? (fun t => s.strmOn t && s.strmMatches t port k) = some t) :
    ArrivesFor s port fr t k :=
  { arrives := { up := up, len := fcs.1, fcs := fcs.2 }, kind := for_.1, mine := for_.2 }

theorem arrives_line : ∀ q : Nat × Option IngFrame × Nat, q ∈ [(1, none, 0xC0), (3, none, 0xC0), (1, some begun, 0)] →
    ArrivesFor (ingest q.1 false (strm1 q.2.1)) 0 (lineFrame q.2.2 0) 63 (.udp 5000 (linePkt q.2.2 0)) := by
  intro q hq
  apply arrives_of <;> (revert q; decide +kernel)

/-- A datagram whose IP header says another fragment offset or another checksum. -/
def ipFrame (off sum : Nat) : List Byte :=
  let u := beBytes 2 1 ++ beBytes 2 5000 ++ beBytes 2 47 ++ beBytes 2 0 ++ linePkt 0xC0 0
  ethFrame 0x0800 (beBytes 2 0x4500 ++ beBytes 2 67 ++ beBytes 2 0 ++ beBytes 2 off ++ beBytes 1 64 ++ beBytes 1 17 ++ beBytes 2 sum ++ beBytes 8 0 ++ u)

/-- With a stream that is ON: a 1722 frame, which no stream matches; a fragment; a wrong checksum. -/
theorem test_wit_IngestReception_unmatched :
    (Arrives (ingest 1 false .init) 0 avtpFrame ∧ (ingest 1 false .init).strmOn 63 = true
      ∧ ∀ q, q < 64 → (ingest 1 false .init).strmOn q = true → (ingest 1 false .init).strmMatches q 0 (ethOf (avtpFrame.take (avtpFrame.length - 4))) = false)
    ∧ (Arrives (ingest 1 false .init) 0 (ipFrame 1 0x7AAA) ∧ lfld ((ipFrame 1 0x7AAA).take ((ipFrame 1 0x7AAA).length - 4)) 12 2 = 0x0800
      ∧ lfld ((ipFrame 1 0x7AAA).take ((ipFrame 1 0x7AAA).length - 4)) 20 2 % 2 ^ 14 ≠ 0)
    ∧ (Arrives (ingest 1 false .init) 0 (ipFrame 0 0x7AAA) ∧ ipSum (((ipFrame 0 0x7AAA).drop 14).take 20) ≠ 0xFFFF
      ∧ lfld ((ipFrame 0 0x7AAA).take ((ipFrame 0 0x7AAA).length - 4)) 14 1 % 16 * 4 = 20) := by
  have a : ∀ fr : List Byte, fr ∈ [avtpFrame, ipFrame 1 0x7AAA, ipFrame 0 0x7AAA] → Arrives (ingest 1 false .init) 0 fr := by
    intro fr h
    constructor <;> (revert fr; decide +kernel)
  exact ⟨⟨a _ (by simp), by decide +kernel⟩, ⟨a _ (by simp), by decide +kernel⟩, a _ (by simp), by decide +kernel⟩

/-- The only line of a frame of one line, to a stream that is ON, is STOPPED, has a frame begun; a wrong FCS, a frame too short, no stream. -/
theorem test_wit_IngestReception : [(1, none, 0xC0), (3, none, 0xC0), (1, some begun, 0)].all (fun (q : Nat × Option IngFrame × Nat) =>
      let s := ingest q.1 false (strm1 q.2.1)
      let p := linePkt q.2.2 0
      s.lineBad 63 p == 0 && !bitOf (lfld p 1 1) 5 && s.frameRoom 0 3 && bitOf (lfld p 1 1) 7 == (q.2.2 == 0xC0) && bitOf (lfld p 1 1) 6 == (q.2.2 == 0xC0)
        && lfld p 8 2 == 0 && lfld p 10 2 == 1 && s.strmH 63 == 1 && s.strmState 63 == q.1 && (s.strm 63).asm == q.2.1 && lfld p 4 4 == 7
        && lfld p 16 4 == 99 && s.period 63 != 0
        && decide (begun.lastAt + 800 * s.period 63 ≤ { s with now := 800000 }.now)) = true
    ∧ (lineFrame 0 0).length ≤ 9216 ∧ crc32 ((List.replicate 18 (0#8)).take 14) ≠ leNat ((List.replicate 18 (0#8)).drop 14)
    ∧ (∀ q, q < 64 → (ingest 0 false .init).strmOn q = false) ∧ (ingest 0 false .init).portUp 0 = true := by decide +kernel

theorem test_wit_IngestReception_Avtp : ArrivesFor (ingest 1 true .init) 0 avtpFrame 63 (.avtp (((avtpFrame).drop 14).take 34))
    ∧ rfcFragment ((((avtpFrame).drop 14).take 34).drop 24) = some ([0, 50, 0, 0, 0], 0, [], [0x11#8, 0x22#8])
    ∧ ((ingest 1 true .init).strm 63).asm = none ∧ ((ingest 1 true .init).strm 63).lastSeq = none ∧ (ingest 1 true .init).frameRoom 0 10 = true
    ∧ lfld (((avtpFrame).drop 14).take 34) 20 2 = 10 ∧ bitOf (lfld (((avtpFrame).drop 14).take 34) 22 1) 4 = false
    ∧ lfld (((avtpFrame).drop 14).take 34) 0 1 = 3 ∧ bitsOf (lfld (((avtpFrame).drop 14).take 34) 1 1) 6 4 = 0
    ∧ bitOf (lfld (((avtpFrame).drop 14).take 34) 1 1) 0 = true ∧ lfld (((avtpFrame).drop 14).take 34) 16 1 = 2 :=
  ⟨arrives_of (by decide +kernel) (by decide +kernel) (by decide +kernel), by decide +kernel⟩

/-- Frames that wait, good or failed, with 15 entries in the stream. -/
theorem test_wit_IngestReception_Admission : [0, 6].all (fun r =>
      let f : IngFrame := ⟨r, some 99, 7, 1, [], [], [], 0⟩
      let e : IngEntry := ⟨5, .queued, 0, begun, 7, none, [], false, 0, 0, 0⟩
      let s := ingest 1 false { StreamSt.init with wait := [f], entries := List.replicate 15 e }
      (s.strm 63).wait == [f] && s.strmState 63 == 1 && (s.strm 63).entries.length == 15 && s.ing.streams.foldl (fun n p => n + p.2.entries.length) 0 == 15
        && s.frameSteps 63 f == 0 && s.fld (R.STRM_SEQ 63) F.STRM_SEQ_NEXT == 0 && (s.strm 63).entries.all (fun e => e.id != 63 * 2 ^ 26 + 0)) = true := by
  decide +kernel

/-- The plan in table memory at 0, for a stream that is OFF. -/
def planned : State :=
  { ingest 0 false .init with tableMem := Memory.putBytes [] 0 (plan1 0) }

theorem test_wit_StreamsAndSamples_StreamEnable : planned.mayIngest 5 = true ∧ planned.gated 3 = false ∧ planned.strmState 63 = 0
    ∧ Enableable (planned.wr (R.STRM_CTRL 63) (mkF F.STRM_CTRL_EN 1 ||| mkF F.STRM_CTRL_PIXFMT 5 ||| mkF F.STRM_CTRL_CTX 1)) 63 (plan1 0)
    ∧ (∀ pl, ¬Enableable (State.reset.wr (R.STRM_CTRL 63) (mkF F.STRM_CTRL_EN 1)) 63 pl)
    ∧ [1, 3].all (fun st => (ingest st false .init).strmState 63 == st && (ingest st false .init).strmFmt 63 == 5
      && ((ingest st false .init).rd (R.STRM_CTRL 63)).toNat % 2 ^ 19 == 256 * 5) = true := by
  refine ⟨by decide +kernel, by decide +kernel, by decide +kernel, ?_, ?_, by decide +kernel⟩
  · refine ⟨0, 0, 160, ?_⟩
    decide +kernel
  intro pl h
  obtain ⟨p, off, n, hp, _, hc, _⟩ := h
  have h0 : (State.reset.wr (R.STRM_CTRL 63) (mkF F.STRM_CTRL_EN 1)).strmPart 63 = 0 := by decide +kernel
  rw [hp, h0] at hc
  exact absurd hc (by decide +kernel)

/-- INGEST_CTL on stream 63 by the PF. -/
theorem test_wit_StreamsAndSamples_IngestCtl : [(0, 3), (0, 1), (1, 3), (2, 0)].all (fun q =>
      let d := desc .checked 15 [(8, 1, 63), (9, 1, q.1)]
      let s := withDesc (ingest q.2 false .init) d
      s.ready 5 15 == some d && d.at_ 8 1 == 63 && d.fn == 0 && d.at_ 9 1 == q.1 && s.strmState 63 == q.2) = true := by decide +kernel

/-- A swatch turn reserved at cycle 0, in time at cycle 399 and too late at cycle 400. -/
theorem test_wit_StreamsAndSamples_SwatchTurn : [399, 400].all (fun n =>
      let s : State := { ingest 1 false { StreamSt.init with turn := some 0 } with now := n }
      (s.strm 63).turn == some 0 && (s.strm 63).swatch == none && unitFree s.unitsBusy (s.strmVideo 63) 11
        && decide (s.now + s.expected 63 ≤ 0 + s.fld (R.STRM_TIME 63) F.STRM_TIME_VBLANK_US * 400) == (n == 399)) = true
    ∧ (wrs (ingest 1 false .init) [(R.STRM_STAT 63, mkF F.STRM_STAT_DEFER 3)]).fld (R.STRM_STAT 63) F.STRM_STAT_DEFER = 3 := by decide +kernel

theorem bytes_putBytes_out (m : Memory) (a b n : Nat) (l : List Byte) (h : a + l.length ≤ b) : (m.putBytes a l).bytes b n = m.bytes b n := by
  induction n generalizing b with
  | zero => rfl
  | succ n ih => simp [Memory.bytes, Memory.byte_putBytes_out _ _ _ _ (Or.inr h), ih (b + 1) (by omega)]

/-- The tensor of the pixel 0, 0, 0 under that plan. -/
def swBytes : List Byte := (preprocess (plan1 0) (lineImage 5 0 1 1 [0#8, 0#8, 0#8])).bytes 1

/-- Swatch memory: the digest, the length, three bytes. -/
def swMem0 : Memory := Memory.putBytes (Memory.putNum [] 32 4 3) 0 (tensorDigest 0 swBytes)

/-- A swatch that runs for stream 63: three bytes from byte 36 on, its digest before them. -/
def swatching : State :=
  let s := ingest 1 false { StreamSt.init with swatch := some 8 }
  { s with ing := { s.ing with swMem := swMem0 } }

theorem bct_one (x : List Byte) : (bct nodeDigest (fun i => nth [] [x] i) 1).getD [] = x := rfl

theorem chunks_three : chunksOf 4096 (([0#8, 0#8, 0#8] : List Byte).length / 4096 + 1) ([0#8, 0#8, 0#8] : List Byte) = [[0#8, 0#8, 0#8]] := by
  decide +kernel

theorem digest_length : (tensorDigest 0 swBytes).length = 32 := by
  have h : swBytes = [0#8, 0#8, 0#8] := by decide +kernel
  have hc : chunksOf 4096 (swBytes.length / 4096 + 1) swBytes = [[0#8, 0#8, 0#8]] := by rw [h, chunks_three]
  unfold tensorDigest
  simp only [hc, List.isEmpty_cons, Bool.false_eq_true, if_false, List.zipIdx_cons, List.zipIdx_nil, List.map_cons, List.map_nil, List.length_cons,
    List.length_nil, Nat.zero_add, bct_one]
  rw [leafDigest, dig32, shake256_length]

theorem test_wit_StreamsAndSamples_SwatchEnd : (swatching.strm 63).swatch = some 8 ∧ (swatching.strm 63).swatchAt + swatching.budget 63 ≤ { swatching with now := 2 ^ 40 }.now ∧ swatching.fld (R.STRM_SWATCH 63) F.STRM_SWATCH_SWBASE_KB = 0
    ∧ swatching.ing.swMem.bytes 0 32 = tensorDigest (planW (swatching.strm 63).plan 1) swBytes ∧ swatching.ing.swMem.u32 32 = 3
    ∧ swatching.ing.swMem.bytes 36 3 = [0#8, 0#8, 0#8] ∧ swatching.strmVideo 63 = false
    ∧ [0#8, 0#8, 0#8].length = swatching.strmH 63 * lineLen (swatching.strmFmt 63) (swatching.strmW 63)
    ∧ planE (swatching.strm 63).plan = 1 := by
  have hm : swatching.ing.swMem = Memory.putBytes (Memory.putNum [] 32 4 3) 0 (tensorDigest 0 swBytes) := by
    simp only [swatching, swMem0]
  have hp : planW (swatching.strm 63).plan 1 = 0 := by decide +kernel
  refine ⟨by decide +kernel, by unfold swatching; decide +kernel, by decide +kernel, ?_, ?_, ?_, by decide +kernel, by decide +kernel, by decide +kernel⟩
  · rw [hm, hp]
    have := Memory.bytes_putBytes (Memory.putNum [] 32 4 3) 0 (tensorDigest 0 swBytes)
    rwa [digest_length] at this
  · rw [hm, Memory.u32, Memory.num, bytes_putBytes_out _ _ _ _ _ (Nat.le_of_eq (by rw [digest_length]))]
    decide +kernel
  · rw [hm, bytes_putBytes_out _ _ _ _ _ (by rw [digest_length]; omega)]
    decide +kernel

/-- An entry of stream 63. -/
def entry (stage : IngStage) : IngEntry := ⟨63 * 2 ^ 26, stage, 0, ⟨0, some 99, 7, 1, [1#8, 2#8, 3#8], [], [], 0⟩, 7, some 8, List.replicate 32 0#8, false, 0, 0, 0⟩

/-- The stream with that entry; FREE set or clear, VALUE of object 0 as given. -/
def sampled (stage : IngStage) (free v : Nat) (video : Bool) : State :=
  let s := ingest 1 video { StreamSt.init with entries := [entry stage] }
  wrs { s with ing := { s.ing with streams := [(63, { s.strm 63 with plan := plan1 free })] } } [(valReg 0, BitVec.ofNat 32 v)]

theorem test_wit_StreamsAndSamples_SampleStart : [(0, 0), (1, 1), (1, 0)].all (fun q =>
      let s := sampled .queued q.1 q.2 false
      (s.strm 63).entries.find? (fun e => e.stage == .queued) == some (entry .queued) && unitFree s.unitsBusy (s.strmVideo 63) 11
        && s.nextToStart 63 (entry .queued) && planFree (s.strm 63).plan == (q.1 == 1) && s.handleTo (planW (s.strm 63).plan 21) (s.part (s.strmPart 63)).chmask == .here 0
        && s.bit (cfgReg 0) F.SYNC_CFG_EN && s.fld (cfgReg 0) F.SYNC_CFG_KIND == 0 && !s.bit (sstatReg 0) F.SYNC_STAT_ABANDONED && s.queue 0 == []
        && (s.rd (valReg 0)).toNat == q.2 && s.ue.isEmpty && s.ce.isEmpty) = true := by decide +kernel

theorem test_wit_StreamsAndSamples_SampleEnd : (let s := sampled .running 0 0 false
    let pl := plan1 0
    (s.strm 63).entries.find? (fun e => e.id == 63 * 2 ^ 26 && e.stage == .running) = some (entry .running)
      ∧ s.holds 0 = false ∧ s.strmVideo 63 = false ∧ planNtgt pl = 1 ∧ tgtOn pl 0 = true ∧ planDense pl = true ∧ tgtCore pl 0 = 0 ∧ aPlane (BitVec.ofNat 32 (tgtW pl 0 1)) = false
      ∧ tgtW pl 0 1 % 2 ^ 22 + 63 * 2 ^ 26 % 2 ^ 26 % planNbuf pl * tgtW pl 0 3 = 1024 ∧ (s.part (s.strmPart 63)).owns 0 = true
      ∧ s.slotOf 0 (s.strmPart 63) (s.strmCtx 63) = some 0 ∧ s.zeroing 0 0 = false ∧ s.strmState 63 = 1 ∧ (entry .running).startAt + s.budget 63 ≤ { s with now := 2 ^ 40 }.now
      ∧ ∀ q ∈ tgtPieces pl 0 (preprocess pl (lineImage 5 0 1 1 [1#8, 2#8, 3#8])), 1024 + q.1 + q.2.length ≤ s.bound 0 0)
    ∧ (match (sampled .running 0 0 true).inputImage 63 [] with
      | .ok _ => false
      | .error _ => true) = true ∧ tgtOn [] 0 = false
    ∧ (wrs (sampled .running 0 0 false) [(R.THERM_STAT, mkF F.THERM_STAT_STOP 1)]).targetHeld 63 = true := by decide +kernel

theorem test_wit_StreamsAndSamples_SampleDelivery : (let s := sampled .done 0 0 false
    (s.strm 63).entries = [entry .done] ∧ (s.strm 63).owed = [] ∧ s.holds 0 = false ∧ planW (s.strm 63).plan 16 % 1024 = 0
      ∧ planW (s.strm 63).plan 17 % 2 ^ 22 + 64 * ((entry .done).id % 2 ^ 26 % 2 ^ (planW (s.strm 63).plan 18 % 16)) + 64 ≤ s.bound 0 0
      ∧ s.handleTo (planW (s.strm 63).plan 19) (s.part (s.strmPart 63)).chmask = .here 0 ∧ s.queue 0 = [] ∧ (entry .done).digest.length = 32)
    ∧ [0, 1].all (fun st =>
      let s := wrs (ingest 1 false { StreamSt.init with owed := [⟨0, 0, 1, 0, List.replicate 64 0#8, 0, 1⟩] }) [(R.THERM_STAT, mkF F.THERM_STAT_STOP st)]
      (s.strm 63).owed == [⟨0, 0, 1, 0, List.replicate 64 0#8, 0, 1⟩] && s.holds 0 == (st == 1)) = true
    ∧ (let s := wrs (sampled .done 0 0 false) [(R.THERM_STAT, mkF F.THERM_STAT_STOP 1)]
      (s.strm 63).owed = [] ∧ (s.strm 63).entries.head? = some (entry .done) ∧ s.holds (planW (s.strm 63).plan 16 % 1024) = true) := by
  decide +kernel

theorem no_donation_sampled : NoDonation (sampled .done 0 0 false) := by
  intro q x hq hx
  have h0 : (sampled .done 0 0 false).part 0 = part1 (ctx0 .running) := by decide +kernel
  have h1 : (sampled .done 0 0 false).part 1 = PartSt.init := by decide +kernel
  have h2 : (sampled .done 0 0 false).part 2 = PartSt.init := by decide +kernel
  have h3 : (sampled .done 0 0 false).part 3 = PartSt.init := by decide +kernel
  have h : q = 0 ∨ q = 1 ∨ q = 2 ∨ q = 3 := by omega
  rcases h with h | h | h | h <;> subst h <;> simp_all [part1, PartSt.init]

/-- A chip whose island is up: registers, loop memory, current cycle. -/
def isle (r : List (Nat × Word)) (mem : FMap Word) (now : Nat) : State :=
  let s := wrs live r
  { s with eng := { s.eng with mem := mem }, now := now }

/-- Word k of the descriptor of loop j, as a cell of the loop memory. -/
def dword (j k : Nat) (v : Nat) : Nat × Word := (0x28000 + 16 * j + k, BitVec.ofNat 32 v)

/-- GRPg_STAT.STATE = st. -/
def grpSt (g st : Nat) : Nat × Word := (R.GRP_STAT g, mkF F.GRP_STAT_STATE st)

/-- A running engine whose next tick is at `next`: group 63 in state `st`, with loop 0, whose signal 3 takes a link of loop 1 of group 0. -/
def ticking (st next : Nat) (staged : FMap (Option Word)) : State :=
  let s := isle [(R.LE_CTRL, mkF F.LE_CTRL_EN 1), (R.LE_STAT, mkF F.LE_STAT_RUN 1 ||| mkF F.LE_STAT_PPEND (b2n (!staged.isEmpty))), grpSt 63 st]
    [dword 0 0 (2 ^ 31 + 63 * 2 ^ 24), dword 1 0 (2 ^ 31), dword 1 11 (2 ^ 31 + 2 ^ 26 + 3 * 2 ^ 11)] 5
  { s with eng := { s.eng with next := next, staged := staged, links := [(3, ⟨0#32, 7#32, 1⟩)] } }

theorem test_wit_LoopEngine : (∀ l, (isle l [] 5).pwr.isl = false ↔ (wrs live l).pwr.isl = false) ∧ (isle [] [] 5).bit R.LE_CTRL F.LE_CTRL_EN = false
    ∧ 0 < sx 32 (((isle [(R.LE_EPOCH, 1#32)] [] 5).rd R.LE_EPOCH).toNat + 2 ^ 32 - (isle [(R.LE_EPOCH, 1#32)] [] 5).tb3)
    ∧ sx 32 (((isle [] [] 5).rd R.LE_EPOCH).toNat + 2 ^ 32 - (isle [] [] 5).tb3) ≤ 0
    ∧ (ticking 1 0 []).bit R.LE_CTRL F.LE_CTRL_EN = true ∧ (ticking 1 0 []).grp 63 ≠ 0
    ∧ [0, 2 ^ 32 - 15625, 2 ^ 32 - 15624].all (fun n => (ticking 1 n []).bit R.LE_STAT F.LE_STAT_RUN && (ticking 1 n []).tb3Past n
      && ((ticking 1 n []).tb3Past ((n + 15625) % 2 ^ 32) == (n == 2 ^ 32 - 15625))) = true
    ∧ (ticking 1 0 [(0x8000, some 9#32)]).bit R.LE_STAT F.LE_STAT_PPEND = true
    ∧ (ticking 1 0 []).pair R.LE_TICK_LO R.LE_TICK_HI % (ticking 1 0 []).grpN 63 = (ticking 1 0 []).fld (R.GRP_CFG 63) F.GRP_CFG_PHASE
    ∧ (ticking 2 0 []).grp 63 = 2 ∧ (ticking 1 0 []).grp 63 = 1
    ∧ (match execBaseTick (ticking 1 0 []) with
      | .next t => (t.loopsOf 63).contains 0 && (t.sources 0).filter (fun p => p.1 == 3) == [(3, some 7#32)]
      | _ => false) = true := by
  refine ⟨fun _ => Iff.rfl, by decide +kernel⟩

/-- The memory pointer at a byte address; `g0` is the state of group 0, to which loop 0 belongs. -/
def pointing (a g0 n : Nat) : State :=
  let s := isle [(R.LE_MEMADDR, mkF F.LE_MEMADDR_ADDR (a / 4)), grpSt 0 g0] [dword 0 0 (2 ^ 31)] 5
  { s with eng := { s.eng with staged := (List.range n).map (fun i => (0x8000 + i, some 0#32)) } }

theorem test_wit_LoopEngine_Memory : [(0x20000, 0, 0), (0x5FFFC, 0, 255), (0xA0000, 0, 0), (0xAFFFC, 0, 0), (0xA0000, 1, 0), (0xA003C, 1, 0), (0x100000, 0, 0), (0x17FFFC, 0, 0),
      (0xCA000, 0, 0), (0xFFFFC, 0, 0)].all (fun q =>
        let s := pointing q.1 q.2.1 q.2.2
        4 * s.fld R.LE_MEMADDR F.LE_MEMADDR_ADDR == q.1 && !s.bit R.SAFE_LOCK F.SAFE_LOCK_LOCK && s.eng.staged.length == q.2.2 && s.loops.contains 0
          && s.loopBusy 0 == (q.2.1 == 1) && (List.range 64).all (fun g => s.grp g == 0 || q.2.1 == 1)) = true := by decide +kernel

/-- Group 63 with loop 0, whose program is 64 blocks of an operation. -/
def grouped (st op n : Nat) : State :=
  isle [grpSt 63 st] (((List.range 64).map (fun i => (2 * i + 1, BitVec.ofNat 32 (op * 2 ^ 28))))
    ++ [(0x8000, 0x337#32), dword 0 0 (2 ^ 31 + 63 * 2 ^ 24), dword 0 1 (n * 2 ^ 12)]) 5

theorem test_wit_LoopGroupsAndPeriods_LoopGroups : (grouped 0 0 0).grp 63 = 0
    ∧ [(0, 639, 638), (0, 639, 639), (0, 640, 0), (0, 3, 4), (13, 0, 0)].all (fun q =>
      let v := mkF F.GRP_CFG_NM1 q.2.1 ||| mkF F.GRP_CFG_PHASE q.2.2
      let s := grouped 0 q.1 0
      let u := ((s.setFld (R.GRP_CFG 63) F.GRP_CFG_NM1 (getF v F.GRP_CFG_NM1)).setFld (R.GRP_CFG 63) F.GRP_CFG_PHASE (getF v F.GRP_CFG_PHASE)).setFld
          (R.GRP_CFG 63) F.GRP_CFG_FORCE (getF v F.GRP_CFG_FORCE)
      u.groupOk 63 == (q.2.1 == 639) && s.loopsOf 63 == [0] && s.loopOk 0 == (q.1 == 0)
        && (q.2.1 == 639 || q.1 == 13 || decide (639 < getF v F.GRP_CFG_NM1) || decide (getF v F.GRP_CFG_NM1 < getF v F.GRP_CFG_PHASE))) = true
    ∧ (grouped 3 0 0).grp 63 = 3 ∧ (grouped 3 0 0).schedulable = true ∧ (grouped 3 10 63).grp 63 = 3 ∧ (grouped 3 10 63).schedulable = false
    ∧ [true, false].all (fun b =>
      let s := (grouped 1 0 0).onLe (fun e => { e with started := [(63, b)] })
      s.grp 63 == 1 && FMap.get false s.eng.started 63 == b) = true := by decide +kernel

/-- Loop 1023 and loop 0 on lane 15, ready since cycle 4; or loop 1023 on its lane. -/
def laned (ready : Bool) : State :=
  let s := isle [(R.TR_CTRL, mkF F.TR_CTRL_STATE 1), (R.TRC_CFG 63, mkF F.TRC_CFG_EN 1 ||| mkF F.TRC_CFG_LOOP 1023)]
    [dword 0 0 (2 ^ 31 + 15 * 2 ^ 20), dword 1023 0 (2 ^ 31 + 15 * 2 ^ 20), dword 1023 11 (2 ^ 31 + 31 * 2 ^ 26 + 5 * 2 ^ 16 + 2 ^ 11)] 5
  if ready then s.onLe (fun e => { e with ready := [⟨9, 0, 1023, 4⟩, ⟨9, 0, 0, 4⟩, ⟨8, 0, 0, 5⟩] })
  else s.onLe (fun e => { e with lanes := [(15, some ⟨0, 1023, List.replicate 32 1, [(32767, -1)], true, 5⟩)] })

theorem test_wit_LoopGroupsAndPeriods_LoopPeriods : ((List.replicate 32 (2 ^ 31 - 1 : Int)).length = 32
        ∧ ∀ x, x < 32 → (-2 ^ 31 : Int) ≤ nth 0 (List.replicate 32 (2 ^ 31 - 1 : Int)) x ∧ nth 0 (List.replicate 32 (2 ^ 31 - 1 : Int)) x < 2 ^ 31)
    ∧ FMap.get none (laned true).eng.lanes 15 = none ∧ (⟨9, 0, 0, 4⟩ : LoopReady) ∈ (laned true).eng.ready ∧ (laned true).loopLane 0 = 15
    ∧ (∀ q ∈ (laned true).eng.ready, (laned true).loopLane q.loop = 15 → q.since < (laned true).now → q ≠ ⟨9, 0, 0, 4⟩ →
      9 < q.deadline ∨ 9 = q.deadline ∧ (0 < q.group ∨ 0 = q.group ∧ 0 < q.loop))
    ∧ (laned true).bit (R.LOOP_FLAGS 0) F.LOOP_FLAGS_MODE = false
    ∧ FMap.get none (laned false).eng.lanes 15 = some ⟨0, 1023, List.replicate 32 1, [(32767, -1)], true, 5⟩ ∧ 5 ≤ (laned false).now
    ∧ (laned false).linksOf 1023 = [(31, 5, 1)] ∧ (laned false).tracing 63 = true ∧ (laned false).fld (R.TRC_CFG 63) F.TRC_CFG_LOOP = 1023
    ∧ (laned false).pwr.isl = false := by
  refine ⟨⟨by decide +kernel, by decide +kernel⟩, ?_⟩
  unfold laned; decide +kernel

/-- A message to mailbox 255 of job `j`, with a deadline and one value. -/
def mboxMsg (j : Nat) : Msg := ⟨0x200000FF#32, 0#32, 0#32, 0#32, j, 1, leBytes 4 9 ++ leBytes 4 77, 0, 3, 0, 5, 8, none, 0⟩

/-- Mailbox 255 of job 7, enabled or not, in the cycle of a tick, and such a message. -/
def mboxed (en j : Nat) : State :=
  let s := isle [(R.MB_CFG 255, mkF F.MB_CFG_EN en ||| mkF F.MB_CFG_JOB 7 ||| mkF F.MB_CFG_NVAL 1), (R.DM_MAP 511, mkF F.DM_MAP_MASK 0x8000)] [] 5
  { s with eng := { s.eng with tickAt := some 5 }, parts := (chip (ctx0 .running)).parts, noc := { s.noc with msgs := [mboxMsg j] } }

/-- A frame of type 0x88F7 with four bytes, and its FCS or a wrong one. -/
def control (bad : Nat) : List Byte :=
  let b := List.replicate 12 0#8 ++ beBytes 2 0x88F7 ++ beBytes 4 0x12345678
  b ++ leBytes 4 ((crc32 b + bad) % 2 ^ 32)

/-- Frame type 255 at port 1, and field entry 2047 of its first 32 bits. -/
def fielded : State := isle [] [(0x2C000 + 4 * 255, 0xC00088F7#32), (0x2C400 + 2 * 2047, BitVec.ofNat 32 (2 ^ 31 + 255 * 2 ^ 23 + 2 * 2 ^ 10))] 5

theorem test_wit_SetpointsAndTrace_SetpointsAndFields : [(1, 7), (0, 7), (1, 8)].all (fun q =>
      let s := mboxed q.1 q.2
      !s.pwr.isl && s.noc.msgs[0]? == some (mboxMsg q.2) && (s.partOfJob q.2).isSome == (q.2 == 7) && decide ((mboxMsg q.2).total ≤ (mboxMsg q.2).data.length) && !msgBehind s.own s.noc.msgs 0 (mboxMsg q.2) && bitsOf (mboxMsg q.2).w0.toNat 31 28 == 2
        && (mboxMsg q.2).src == s.own && bitsOf (mboxMsg q.2).w0.toNat 7 0 == 255 && s.fld (R.MB_CFG 255) F.MB_CFG_NVAL == 1
        && s.bit (R.MB_CFG 255) F.MB_CFG_EN == (q.1 == 1) && s.fld (R.MB_CFG 255) F.MB_CFG_JOB == 7 && (mboxMsg q.2).data.length == 8
        && !s.tb3Past (leNat ((mboxMsg q.2).data.take 4))
        && s.eng.tickAt == some s.now && !s.bit (R.MB_STAT 255) F.MB_STAT_STALE && s.tb3Past (s.rd (R.MB_DEADLINE 255)).toNat
        && bitOf (s.fld (R.DM_MAP (256 + 255)) F.DM_MAP_MASK) 15) = true
    ∧ [0, 1].all (fun b =>
      let d := (control b).take ((control b).length - 4)
      (control b).length == 22 && fielded.frameType 1 (etherBody d).1 (etherBody d).2 == some 255
        && (crc32 d == leNat ((control b).drop ((control b).length - 4))) == (b == 0)
        && fielded.fieldEntries == [2047] && bitsOf (fielded.fieldW 2047 0) 30 23 == 255 && fielded.fieldIn 2047 (etherBody d).2 == some 0x12345678#32) = true := by
  decide +kernel

/-- Trace: its state, POST and a completed run for block 1 of region 4. -/
def loopTrace (st post : Nat) : State :=
  let s := isle [(R.TR_CTRL, mkF F.TR_CTRL_EN 1 ||| mkF F.TR_CTRL_STATE st ||| mkF F.TR_CTRL_POST post), (R.TRC_CFG 63, mkF F.TRC_CFG_EN 1),
    (R.SEC_REC_CFG 4, mkF F.SEC_REC_CFG_EN 1 ||| mkF F.SEC_REC_CFG_SIZE_MB 1)] [] 5
  s.onLe (fun e => { e with runs := [List.replicate 4096 1#8], ring := 1, after := [(63, 2)] })

theorem test_wit_SetpointsAndTrace_LoopTrace : (loopTrace 1 0).bit R.TR_CTRL F.TR_CTRL_EN = true ∧ (loopTrace 1 0).fld R.TR_CTRL F.TR_CTRL_STATE = 1
    ∧ (loopTrace 1 0).fld R.TR_TRIG F.TR_TRIG_SRC = 0 ∧ (loopTrace 2 2).fld R.TR_CTRL F.TR_CTRL_STATE = 2
    ∧ (∀ c, c < 64 → (loopTrace 2 2).bit (R.TRC_CFG c) F.TRC_CFG_EN = true → (loopTrace 2 2).fld R.TR_CTRL F.TR_CTRL_POST ≤ FMap.get 0 (loopTrace 2 2).eng.after c)
    ∧ (loopTrace 2 2).eng.runs = List.replicate 4096 1#8 :: [] ∧ (List.replicate 4096 (1#8)).length ≤ 4096
    ∧ (loopTrace 2 2).fld R.TR_RBASE F.TR_RBASE_BASE_KB * 1024 + 4128 * (loopTrace 2 2).eng.ring
      = (loopTrace 2 2).fld (R.SEC_REC_CFG 4) F.SEC_REC_CFG_BASE_MB * 2 ^ 20 + 4128 * 1
    ∧ (loopTrace 2 2).bit (R.SEC_REC_CFG 4) F.SEC_REC_CFG_EN = true ∧ (loopTrace 2 2).bit (R.SEC_REC_CFG 4) F.SEC_REC_CFG_BUSY = false
    ∧ 1 < (loopTrace 2 2).regionBlocks 4 := by
  refine ⟨by decide +kernel, by decide +kernel, by decide +kernel, by decide +kernel, by decide +kernel, rfl, by rw [List.length_replicate], by decide +kernel, by decide +kernel, by decide +kernel, by decide +kernel⟩

/-- A PTP message of domain 9 at port 1 from clock 5: sequenceId 4, 7 ns. -/
def ptp (two mine : Bool) : PtpMsg := ⟨1, 2, 9, 2, true, 5, 4, -65536, 0, 7, two, mine⟩

/-- TB1 runs on that port, with a delay mechanism; its source's data changed by f. -/
def ptpOn (delay onestep : Nat) (f : TbSt → TbSt) : State :=
  (isle [(R.TB_CTRL 1, mkF F.TB_CTRL_EN 1 ||| mkF F.TB_CTRL_PORT 1 ||| mkF F.TB_CTRL_TRANSPORT 2 ||| mkF F.TB_CTRL_DOMAIN 9
    ||| mkF F.TB_CTRL_DELAY delay ||| mkF F.TB_CTRL_ONESTEP onestep), (R.TB_NS 1, 100#32)] [] 5).onTb 1 f

/-- What Hears says, from checks. -/
theorem hears_of {n : Nat} {m : PtpMsg} {s : State} (h : n < 2 ∧ (s.bit (R.TB_CTRL n) F.TB_CTRL_EN = true ∧ s.bit (R.TB_CTRL n) F.TB_CTRL_SRC = false)
    ∧ s.bit (R.TB_CTRL (1 - n)) F.TB_CTRL_EN = false) (k : (s.fld (R.TB_CTRL n) F.TB_CTRL_PORT = m.port ∧ s.fld (R.TB_CTRL n) F.TB_CTRL_TRANSPORT = m.transport
    ∧ m.transport < 3) ∧ s.fld (R.TB_CTRL n) F.TB_CTRL_DOMAIN = m.domain ∧ m.version = 2 ∧ m.fcs = true) : Hears n m s :=
  { base := h.1, on := h.2.1, alone := h.2.2, port := k.1, domain := k.2 }

theorem test_wit_PtpMessages : Hears 1 (ptp false true) (ptpOn 0 0 id) ∧ Hears 1 (ptp true true) (ptpOn 1 1 id) ∧ (ptp false true).clock < 2 ^ 64
    ∧ ((ptpOn 0 0 id).pair (R.TB_SRCID_LO 1) (R.TB_SRCID_HI 1) ≠ (ptp false true).clock)
    ∧ ((ptpOn 0 0 (fun t => { t with delayed := true })).tb 1).delayed = true ∧ ((ptpOn 0 0 id).tb 1).delayed = false
    ∧ ((ptpOn 0 0 (fun t => { t with sync := some (4, 3, 1, 0) })).tb 1).sync = some ((ptp true true).seq, 3, 1, 0)
    ∧ (ptpOn 0 0 id).now ≤ 0 + (ptpOn 0 0 id).tbInterval 1
    ∧ (ptpOn 0 0 id).bit (R.TB_CTRL 1) F.TB_CTRL_DELAY = false ∧ (ptpOn 1 1 id).bit (R.TB_CTRL 1) F.TB_CTRL_DELAY = true
    ∧ (ptpOn 1 1 id).bit (R.TB_CTRL 1) F.TB_CTRL_ONESTEP = true ∧ (ptpOn 1 0 id).bit (R.TB_CTRL 1) F.TB_CTRL_ONESTEP = false
    ∧ (let x := (ptpOn 0 0 (fun t => { t with dreq := some (4, 50), diff := some (-2), part := some (60, 8) })).tb 1
      x.dreq = some ((ptp false true).seq, 50) ∧ x.diff = some (-2) ∧ x.part = some (60, 8))
    ∧ ((ptpOn 0 0 id).tb 1).reqAt = none := by
  exact ⟨hears_of (by decide +kernel) (by decide +kernel), hears_of (by decide +kernel) (by decide +kernel), by decide +kernel⟩

/-- The clauses of a PTP offset: a step, a steered base, an offset of more than a second. -/
theorem test_wit_PtpMessages_Servo : (10 ^ 9 < (-2000000000 : Int).natAbs ∧ (7 : Int).natAbs ≤ 10 ^ 9) ∧ (wrs (ptpOn 0 0 id) [(R.TB_SERVO 1, 0#32)]).bit (R.TB_SERVO 1) F.TB_SERVO_STEPEN = false
    ∧ (wrs (ptpOn 0 0 id) [(R.TB_SERVO 1, mkF F.TB_SERVO_STEPEN 1)]).bit (R.TB_SERVO 1) F.TB_SERVO_STEPEN = true
    ∧ ((wrs (ptpOn 0 0 id) [(R.TB_STEPTHR 1, 7#32)]).rd (R.TB_STEPTHR 1)).toNat ≤ (7 : Int).natAbs := by decide +kernel

/-- TB1 fed by link 14, which is UP, with a request out. -/
def linkFed : State :=
  let s := wrs (fresh14 2) [(R.TB_CTRL 1, mkF F.TB_CTRL_EN 1 ||| mkF F.TB_CTRL_SRC 1 ||| mkF F.TB_CTRL_LINK 14 ||| mkF F.TB_CTRL_PDOMAIN 1)]
  { s with pwr := { s.pwr with isl := false } }.onTb 1 (fun t => { t with dreq := some (4, 50) })

/-- A base with a master whose last offset is old. -/
def lossy : State :=
  { isle [(R.TB_STAT 1, mkF F.TB_STAT_STATE 3 ||| mkF F.TB_STAT_MASTER_OK 1)] [] 5 with now := 10 ^ 12 }

/-- A request for TB1, and a response of sequence 4 from TB1 with an accepted time. -/
def timeAsk : List Byte := flit 2 4 0 0 0 0 ([0#8, 1#8] ++ leBytes 2 4 ++ leBytes 4 50)
def timeAnswer : List Byte := flit 2 4 0 0 0 0 ([1#8, 3#8] ++ leBytes 2 4 ++ leBytes 4 50 ++ leBytes 4 60 ++ leBytes 4 61)

theorem test_wit_TimeBasesAndGates_TimeBases : ((isle [] [] 5).bit (R.TB_CTRL 1) F.TB_CTRL_EN = false ∧ (ptpOn 0 0 id).bit (R.TB_CTRL 1) F.TB_CTRL_EN = true
    ∧ (isle [] [] 5).pwr.isl = false ∧ (isle [] [] 5).follow = 0 ∧ (0 : Nat) ≠ 1
    ∧ lossy.masterOk 1 = true ∧ (lossy.tb 1).lastAt + max (lossy.fld (R.TB_SERVO 1) F.TB_SERVO_LOSSCNT) 1 * lossy.tbInterval 1 ≤ lossy.now
    ∧ lossy.masterOk 0 = false
    ∧ linkFed.bit (R.TB_CTRL 1) F.TB_CTRL_EN = true ∧ linkFed.bit (R.TB_CTRL 1) F.TB_CTRL_SRC = true ∧ linkFed.fld (R.TB_CTRL 1) F.TB_CTRL_LINK = 14
    ∧ linkFed.linkState 14 = 2 ∧ linkFed.carries 14 = true ∧ (linkFed.tb 1).reqAt = none ∧ linkFed.pwr.isl = false
    ∧ (timeAsk.drop 8).take 1 = [0#8] ∧ (timeAnswer.drop 8).take 1 = [1#8]
    ∧ bitOf (leNat (((timeAnswer.drop 8).drop 1).take 1)) 1 = true ∧ linkFed.fld (R.TB_CTRL 1) F.TB_CTRL_PDOMAIN = leNat (((timeAnswer.drop 8).drop 1).take 1) % 2
    ∧ linkFed.bit (R.TB_CTRL 0) F.TB_CTRL_EN = false ∧ (linkFed.tb 1).dreq.map (·.1) = some (leNat (((timeAnswer.drop 8).drop 2).take 2))
    ∧ (wrs live [(R.TIME_CTRL, mkF F.TIME_CTRL_PPSCAP 1 ||| mkF F.TIME_CTRL_PPSEN 1)]).bit R.TIME_CTRL F.TIME_CTRL_PPSCAP = true
    ∧ (wrs live [(R.TIME_CTRL, mkF F.TIME_CTRL_PPSCAP 1 ||| mkF F.TIME_CTRL_PPSEN 1)]).bit R.TIME_CTRL F.TIME_CTRL_PPSEN = true
    ∧ live.tb3Past (live.rd R.PPS_NEXT).toNat = true ∧ live.time.ppsAt = none ∧ (live.onTime (fun t => { t with ppsAt := some 0 })).time.ppsAt = some 0 ∧ 0 + 40000 ≤ lossy.now)
    ∧ Taken linkFed 14 timeAsk 2 4 0 ∧ Taken linkFed 14 timeAnswer 2 4 0 := by
  refine ⟨by decide +kernel, ?_, ?_⟩ <;> apply flit_taken <;> decide +kernel

/-- Port 1 with a list of two entries in a cycle of 1 µs that started at 0; TB2 and TB3 at `ns`. -/
def gated (en pending len cyc entry ns : Nat) : State :=
  (isle [(R.CP_GCTRL 1, mkF F.CP_GCTRL_EN en ||| mkF F.CP_GCTRL_LEN len), (R.CP_GSTAT 1, mkF F.CP_GSTAT_PENDING pending), (R.CP_CYCLE 1, BitVec.ofNat 32 cyc),
    (R.TB_NS 0, BitVec.ofNat 32 ns), (R.CP_PREEMPT 1, mkF F.CP_PREEMPT_VERIFY 1)] [] 5).onPort 1
    (fun x => { x with len := 2, cycle := 1000, entry := entry, banks := [(0, mkF F.CP_GCL_INTERVAL 400), (1, mkF F.CP_GCL_INTERVAL 600)] })

theorem test_wit_TimeBasesAndGates_GateLists : (let s := gated 1 0 2 1000 0 400
      1 ≤ (s.port 1).len ∧ s.tb3Past ((s.port 1).start + s.gclEnd 1 (s.port 1).entry) = true ∧ s.gclEnd 1 (s.port 1).entry < (s.port 1).cycle
        ∧ s.bit (R.CP_GCTRL 1) F.CP_GCTRL_EN = true)
    ∧ (let s := gated 0 0 2 1000 1 1000
      1 ≤ (s.port 1).len ∧ s.tb3Past ((s.port 1).start + s.gclEnd 1 (s.port 1).entry) = true ∧ (s.port 1).cycle ≤ s.gclEnd 1 (s.port 1).entry
        ∧ s.bit (R.CP_GSTAT 1) F.CP_GSTAT_PENDING = false ∧ s.bit (R.CP_GCTRL 1) F.CP_GCTRL_EN = false)
    ∧ [(1, 1000), (256, 10 ^ 9), (0, 1000), (257, 1000), (1, 999), (1, 10 ^ 9 + 1)].all (fun q =>
      let s := gated 1 0 q.1 q.2 0 0
      s.fld (R.CP_GCTRL 1) F.CP_GCTRL_LEN == q.1 && (s.rd (R.CP_CYCLE 1)).toNat == q.2 && !s.bit (R.CP_GSTAT 1) F.CP_GSTAT_PENDING) = true
    ∧ (let s := gated 1 1 2 1000 1 1000
      s.bit (R.CP_GSTAT 1) F.CP_GSTAT_PENDING = true ∧ s.bit (R.CP_GCTRL 1) F.CP_GCTRL_EN = true ∧ (s.port 1).atBase = false ∧ 1 ≤ (s.port 1).len
        ∧ s.gclEnd 1 (s.port 1).entry = (s.port 1).cycle ∧ s.tb3Past ((s.port 1).start + (s.port 1).cycle) = true
        ∧ 0 ≤ sx 32 ((s.port 1).start + (s.port 1).cycle + 2 ^ 32 - (s.rd (R.CP_BASE 1)).toNat))
    ∧ (let s := gated 0 1 2 1000 1 0
      s.bit (R.CP_GCTRL 1) F.CP_GCTRL_EN = false ∧ s.bit (R.CP_GSTAT 1) F.CP_GSTAT_PENDING = true ∧ s.tb3Past (s.rd (R.CP_BASE 1)).toNat = true)
    ∧ (gated 0 1 2 1000 1 0).bit (R.CP_PREEMPT 1) F.CP_PREEMPT_VERIFY = true := by
  refine ⟨?_, ?_, ?_, ?_, ?_, ?_⟩
  all_goals (unfold gated; decide +kernel)

/-- Permit `k` granted or not, its domain mask 1, comparator 63 and pin 7 in its masks. -/
def permitted (k granted : Nat) : State :=
  { isle [(R.PERMIT_CTRL k, mkF F.PERMIT_CTRL_GRANT granted ||| mkF F.PERMIT_CTRL_DDMASK 1 ||| mkF F.PERMIT_CTRL_PINMASK 128), (R.PERMIT_STAT k, mkF F.PERMIT_STAT_OUT granted),
    (R.PERMIT_TMASK_HI k, 0x80000000#32), (R.TC_CFG 63, mkF F.TC_CFG_EN 1 ||| mkF F.TC_CFG_KIND 3), (R.TC_HI 63, 1#32), (R.TRIPIN_CFG, mkF F.TRIPIN_CFG_EN 128),
    (R.DD_ACTIVE, 0#32), (R.DD_FORCE, 0#32)] [] 5 with now := 400 }

theorem test_wit_Permits : Granted 7 (permitted 7 1) ∧ (permitted 7 1).pwr.isl = false
    ∧ bitOf ((permitted 7 1).fld (R.PERMIT_CTRL 7) F.PERMIT_CTRL_DDMASK) 0 = true ∧ (permitted 7 1).bit (R.TC_CFG 63) F.TC_CFG_EN = true
    ∧ (permitted 7 1).fld (R.TC_CFG 63) F.TC_CFG_KIND = 3 ∧ 1 ≤ ((permitted 7 1).rd (R.TC_HI 63)).toInt
    ∧ FMap.get 0 (permitted 7 1).safe.lastLatch 63 + 400 * ((permitted 7 1).rd (R.TC_HI 63)).toNat ≤ (permitted 7 1).now
    ∧ bitOf ((permitted 7 1).tmask 7) 63 = true ∧ bitOf ((wrs (permitted 7 1) [(R.PERMIT_TMASK_HI 7, 0#32)]).tmask 7) 63 = false
    ∧ bitOf ((permitted 7 1).fld R.TRIPIN_CFG F.TRIPIN_CFG_EN) 7 = true ∧ min ((permitted 7 1).fld R.TRIPIN_CFG F.TRIPIN_CFG_FILT) 4 + 1 ≤ 1
    ∧ (let s := wrs (permitted 7 1) [(R.TRIPIN_CFG, mkF F.TRIPIN_CFG_EN 128 ||| mkF F.TRIPIN_CFG_FILT 7)]
      s.fld R.TRIPIN_CFG F.TRIPIN_CFG_FILT = 7 ∧ bitOf (s.fld R.TRIPIN_CFG F.TRIPIN_CFG_EN) 7 = true)
    ∧ bitOf ((permitted 7 1).fld (R.PERMIT_CTRL 7) F.PERMIT_CTRL_PINMASK) 7 = true ∧ bitOf ((permitted 7 1).fld R.TRIPIN_CFG F.TRIPIN_CFG_EN) 0 = false
    ∧ (permitted 7 0).bit (R.PERMIT_CTRL 7) F.PERMIT_CTRL_GRANT = false ∧ (permitted 7 0).permitCause 7 = none
    ∧ (wrs (permitted 7 0) [(R.TRIP_STAT_HI, 0x80000000#32)]).permitCause 7 = some (1, 63) ∧ (permitted 7 1).bit (R.PERMIT_CTRL 7) F.PERMIT_CTRL_GRANT = true := by
  unfold Granted; decide +kernel

/-- Channel 3 in a state, with or without an owner; tests enabled; a Fabric pass due on it, the slice of column `col`. -/
def testing (st : Nat) (owned : Bool) (col : Option Nat) (lanes : Nat) : State :=
  let s := wrs (if owned then (chip (ctx0 .running)).onPart 0 (fun p => { p with chmask := 8 }) else live)
    [(R.CP_STAT 3, mkF F.CP_STAT_STATE st), (R.TEST_CTRL, mkF F.TEST_CTRL_FEN 1 ||| mkF F.TEST_CTRL_IEN 1), (R.TEST_STAT, mkF F.TEST_STAT_LANEDONE lanes)]
  { s with pwr := { s.pwr with isl := false }, migr := [], tests := { s.tests with fpass := 8, frun := [(3, col)], ipass := lanes != 0, irun := 0x8000, bist := none } }

theorem test_wit_SelfTests : (let s := testing 1 false none 0
      s.bit R.TEST_CTRL F.TEST_CTRL_FEN = true ∧ s.chState 3 = 1 ∧ bitOf s.tests.fpass 3 = true ∧ FMap.get none s.tests.frun 3 = none ∧ s.ownerOf 3 = none ∧ s.migr = []
        ∧ s.pwr.isl = false ∧ s.tests.ipass = false ∧ s.tests.bist = none ∧ bitOf s.tests.irun 15 = true)
    ∧ [0, 15, 16].all (fun col =>
      let s := testing 1 false (some col) 0
      FMap.get none s.tests.frun 3 == some col && s.ownerOf 3 == none && s.fmask 3 15 == 0 && s.migr.isEmpty) = true
    ∧ (let s := testing 1 false none 0x7FFE
      s.bit R.TEST_CTRL F.TEST_CTRL_IEN = true ∧ s.tests.ipass = true ∧ bitOf s.tests.irun 0 = false ∧ bitOf (s.fld R.TEST_STAT F.TEST_STAT_LANEDONE) 0 = false
        ∧ FMap.get none s.eng.lanes 0 = none ∧ s.eng.ready = [] ∧ s.bit R.LE_STAT F.LE_STAT_RUN = false)
    ∧ (∀ k, k < 16 → k ≠ 15 → bitOf ((testing 1 false none 0x7FFF).fld R.TEST_STAT F.TEST_STAT_LANEDONE) k = true) ∧ (testing 2 false none 0).chState 3 = 2
    ∧ (testing 0 false none 0).chState 3 ≠ 1 ∧ (testing 1 true none 0).ownerOf 3 ≠ none
    ∧ (let s := { testing 1 false none 0 with tests := { (testing 1 false none 0).tests with bist := some 3, fpass := 0 } }
      s.tests.bist = some 3 ∧ s.fmask 3 15 = 0 ∧ s.migr = [] ∧ bitOf s.tests.fpass 3 = false) := by
  refine ⟨?_, by decide +kernel, ?_, by decide +kernel, by decide +kernel, by decide +kernel, by decide +kernel, ?_⟩
  all_goals decide +kernel

/-- After reset no permit is granted; while the island runs permit 7 may be granted, as long as nothing forbids it. -/
theorem test_wit_PermitsStayForbidden : State.reset.permitsInv ∧ (permitted 7 1).permitsInv
    ∧ (permitted 7 1).bit (R.PERMIT_CTRL 7) F.PERMIT_CTRL_GRANT = true
    ∧ ¬(wrs (permitted 7 1) [(R.TRIP_STAT_HI, 0x80000000#32)]).permitsInv := by
  unfold State.permitsInv State.permitsOk; decide +kernel

/-- The device after reset, with nothing queued: canonical memories; a step; a cycle. -/
theorem test_wit_EveryStepCompletes_MemoriesStayCanonical_ClockCycle : State.reset.memOk = true ∧ live.pending = [] ∧ live.pwr.isl = false ∧ live.tbState (1 - live.follow) ≠ 3
    ∧ (match Machine.step { State.reset with pending := [.pcommit 0] } with
      | .next t => t.pending.isEmpty
      | _ => false) = true := by decide +kernel

/-- Where the completion statements ask for more than the statements of results: a window that is not enabled and a value that fits, no unread entry, a stream
with a sample in flight, a list that waits with EN = 0, an idle link to this chip's facing chip. -/
theorem test_wit_DeliveriesComplete_HostAndChannelsComplete_IslandAndLinksComplete : Fits State.reset 5 2 0 4
    ∧ State.reset.bit (R.CORE_WIN_CFG (chanOf 5) (posOf 5) 2) F.CORE_WIN_CFG_EN = false ∧ isSet (mkF F.CORE_WIN_CFG_EN 1) F.CORE_WIN_CFG_EN = true
    ∧ ((pair.onQp 4 63 (fun _ => ⟨3, 2 ^ 16 - 2, 0, false, false⟩)).qp 4 63).unread = 0
    ∧ ((sampled .queued 0 0 false).strm 63).entries ≠ [] ∧ (sampled .queued 0 0 false).strmState 63 = 1
    ∧ (sampled .queued 0 0 false).mayIngest 5 = true ∧ (sampled .queued 0 0 false).gated 3 = false := by
  refine ⟨⟨by decide, by decide, fun j hj _ w hw he => ?_⟩, by decide +kernel, by decide +kernel, by decide +kernel, by decide +kernel, by decide +kernel,
    by decide +kernel, by decide +kernel⟩
  have hz : ∀ i, i < 4 → State.reset.rd (R.CORE_WIN_CFG (chanOf 5) (posOf 5) i) = 0#32 ∧ FMap.get none (State.reset.core 5).held i = none := by decide +kernel
  rcases hw with rfl | hw
  · rw [(hz j hj).1] at he; exact absurd he (by decide)
  · rw [(hz j hj).2] at hw; exact absurd hw (by simp)

end Sys2Proof.Tests
end

/-! Register accesses (R3, R4, R6, R7, R529, R530) and the state after power-on reset (R8). -/

namespace Sys2Proof.Machine

/-! ### What is left alone -/

theorem State.SameBut.refl (s : State) (l : List Piece) : s.SameBut l s := by constructor <;> simp

theorem State.SameBut.wr (s : State) (a : Nat) (v : Word) : s.SameBut [.regs] (s.wr a v) := by constructor <;> simp

theorem State.SameBut.withLastRead {s t : State} {l : List Piece} (h : s.SameBut l t) (r : List Word) :
    s.SameBut (l ++ [.lastRead]) { t with lastRead := r } := by
  cases h; constructor <;> simp [*]

theorem State.SameBut.withHold (s : State) (x : FMap (Option Word)) (r : List Word) :
    s.SameBut [.hold, .lastRead] { s with hold := x, lastRead := r } := by
  constructor <;> simp

/-! ### Bits of words -/

theorem getLsbD_ofNat_eq_bitOf (x : Nat) {i : Nat} (h : i < 32) : (BitVec.ofNat 32 x).getLsbD i = bitOf x i := by
  rw [BitVec.getLsbD_ofNat, decide_eq_true h, Bool.true_and, Nat.testBit_eq_decide_div_mod_eq, bitOf]

/-- What an access code makes of one bit: RW takes the value written, W1S and W1C act on a 1 (R3). -/
theorem accessCode_bit : ∀ rw w1s w1c new old : Bool, (old && !rw && !(new && w1c) || new && rw || new && w1s) =
    if rw then new else if w1s && new then true else if w1c && new then false else old := by decide

/-- What the access codes make of each bit of a register (R3). -/
theorem State.getLsbD_rd_writeBits (s : State) (k : Nat) (v : Word) {d : RegDesc} (hd : regDesc k = some d) {i : Nat} (hi : i < 32) :
    ((s.writeBits k v).rd k).getLsbD i =
      if bitOf d.rw i then v.getLsbD i else if bitOf d.w1s i && v.getLsbD i then true
      else if bitOf d.w1c i && v.getLsbD i then false else (s.rd k).getLsbD i := by
  unfold State.writeBits
  simp only [hd, State.rd_wr_self, BitVec.getLsbD_or, BitVec.getLsbD_and, BitVec.getLsbD_not, getLsbD_ofNat_eq_bitOf _ hi, hi,
    decide_true, Bool.true_and]
  exact accessCode_bit _ _ _ _ _

theorem State.writeBits_eq_wr (s : State) (k : Nat) (v : Word) {d : RegDesc} (hd : regDesc k = some d) :
    ∃ w, s.writeBits k v = s.wr k w := by
  unfold State.writeBits
  rw [hd]
  exact ⟨_, rfl⟩

/-! ### Where the register map has pairs -/

/-- How far an offset below 2^26 can reach into an array of registers. -/
def dimsSpan : List (Nat × Nat) → Nat
  | [] => 0
  | (count, stride) :: ds => (if 2 ^ 26 ≤ stride then 0 else (count - 1) * stride) + dimsSpan ds

theorem le_dimsSpan (dims : List (Nat × Nat)) (off : Nat) (h : inDims off dims = true) (hoff : off < 2 ^ 26) : off ≤ dimsSpan dims := by
  induction dims generalizing off with
  | nil => simpa [inDims, dimsSpan] using h
  | cons p ds ih =>
    obtain ⟨count, stride⟩ := p
    simp only [inDims, Bool.and_eq_true, decide_eq_true_eq] at h
    have hrest : off % stride ≤ dimsSpan ds := ih _ h.2 (lt_of_le_of_lt (Nat.mod_le _ _) hoff)
    unfold dimsSpan
    split
    · rwa [Nat.mod_eq_of_lt (by omega), ← Nat.zero_add (dimsSpan ds)] at hrest
    · have hblock : stride * (off / stride) ≤ (count - 1) * stride := by
        rw [Nat.mul_comm]
        exact Nat.mul_le_mul_right _ (by omega)
      have hsplit := Nat.div_add_mod off stride
      omega

/-- A register lies in a row of the map, within the row's reach. -/
theorem exists_row_of_regDesc {a : Nat} {d : RegDesc} (h : regDesc a = some d) (ha : a < 2 ^ 26) :
    ∃ r ∈ regMap, r.desc = d ∧ r.base ≤ a ∧ a ≤ r.base + dimsSpan r.dims := by
  unfold regDesc at h
  obtain ⟨r, hr, rfl⟩ := Option.map_eq_some_iff.mp h
  have hholds := List.find?_some hr
  simp only [RegRow.holds, Bool.and_eq_true, decide_eq_true_eq] at hholds
  obtain ⟨hbase, hdims⟩ := hholds
  have hspan := le_dimsSpan _ _ hdims (by omega)
  exact ⟨r, List.mem_of_find?_eq_some hr, rfl, hbase, by omega⟩

/-- The rows of low words that reach the clock and power block or the word before it. -/
theorem pairLow_rows_of_power : ∀ r ∈ regMap, r.desc.pairLow = true → 0x027FFFFC ≤ r.base + dimsSpan r.dims →
    (r.base = R.PWR_GATE_LO ∨ r.base = R.PWR_UP_LO) ∧ r.dims = [] := by decide +kernel

/-- The clock and power block has two pairs: PWR_GATE and PWR_UP. -/
theorem pairLow_of_power {a : Nat} {d : RegDesc} (hd : regDesc a = some d) (hp : d.pairLow = true) (hlo : 0x027FFFFC ≤ a)
    (hhi : a < 2 ^ 26) : a = R.PWR_GATE_LO ∨ a = R.PWR_UP_LO := by
  obtain ⟨r, hr, rfl, hbase, hspan⟩ := exists_row_of_regDesc hd hhi
  obtain ⟨hrow, hdims⟩ := pairLow_rows_of_power r hr hp (by omega)
  rw [hdims, dimsSpan] at hspan
  rcases hrow with e | e <;> omega

/-- Outside those pairs a register of the block is neither a low nor a high word. -/
theorem unpaired_of_power {a : Nat} {d : RegDesc} (hd : regDesc a = some d) (hlo : 0x02800000 ≤ a) (hhi : a < 2 ^ 26)
    (hn : a ∉ [R.PWR_GATE_LO, R.PWR_GATE_HI, R.PWR_UP_LO, R.PWR_UP_HI]) :
    d.pairLow = false ∧ (regDesc (a - 4)).any (fun e => e.pairLow) = false := by
  simp only [List.mem_cons, List.not_mem_nil, not_or, R.PWR_GATE_LO, R.PWR_GATE_HI, R.PWR_UP_LO, R.PWR_UP_HI] at hn
  refine ⟨Bool.eq_false_iff.mpr fun hp => ?_, Bool.eq_false_iff.mpr fun hp => ?_⟩
  · have := pairLow_of_power hd hp (by omega) hhi
    simp only [R.PWR_GATE_LO, R.PWR_UP_LO] at this
    omega
  · obtain ⟨e, he, hp⟩ := (Option.any_eq_true _ _).mp hp
    have := pairLow_of_power he hp (by omega) (by omega)
    simp only [R.PWR_GATE_LO, R.PWR_UP_LO] at this
    omega

/-! ### Reads -/

/-- The register at a key reads as the word the state keeps for it: nothing about it is computed at the read. -/
def Stored (k : Nat) : Prop :=
  ¬(0x01000000 ≤ k ∧ k < 0x02000000) ∧ k ∉ [R.TB_FRAC 3, R.TB_NS 3, R.TRIP_PIN, R.HB_CTRL]
    ∧ ¬(R.SEC_RRD_DATA 0 ≤ k ∧ k < R.SEC_RRD_DATA 1024) ∧ idxOf k (R.GRP_STAT 0) 8 64 = none
    ∧ idxOf2 k (R.CP_GCL 0 0) 0x800 2 4 256 = none ∧ cntAt k = none

theorem State.view_of_stored (s : State) {k : Nat} (h : Stored k) : s.view k = (s.rd k, s) := by
  obtain ⟨hchan, hcomputed, hrrd, hgrp, hgcl, hcnt⟩ := h
  simp only [List.mem_cons, List.not_mem_nil, or_false, not_or] at hcomputed
  obtain ⟨hfrac, hns, htrip, hhb⟩ := hcomputed
  simp only [State.view, hchan, hfrac, hns, htrip, hhb, hrrd, hgrp, hgcl, hcnt, ↓reduceIte]

theorem idxOf_above {a base stride count : Nat} (h : base + count * stride ≤ a) (hs : 0 < stride) : idxOf a base stride count = none := by
  have : count ≤ (a - base) / stride := (Nat.le_div_iff_mul_le hs).mpr (by omega)
  exact if_neg (by omega)

theorem idxOf2_above {a base s1 c1 s2 c2 : Nat} (h : base + c1 * s1 ≤ a) (hs : 0 < s1) : idxOf2 a base s1 c1 s2 c2 = none := by
  have : c1 ≤ (a - base) / s1 := (Nat.le_div_iff_mul_le hs).mpr (by omega)
  exact if_neg (by omega)

theorem stored_of_power {a : Nat} (hlo : 0x02800000 ≤ a) : Stored a := by
  refine ⟨by omega, ?_, ?_, ?_, ?_, ?_⟩
  · simp only [List.mem_cons, List.not_mem_nil, or_false, R.TB_FRAC, R.TB_NS, R.TRIP_PIN, R.HB_CTRL]; omega
  · simp only [R.SEC_RRD_DATA]; omega
  · exact idxOf_above (by simp only [R.GRP_STAT]; omega) (by decide)
  · exact idxOf2_above (by simp only [R.CP_GCL]; omega) (by decide)
  · have hglobal : ¬(R.GCNT_CFG 0 ≤ a ∧ a < R.GCNT_CFG 64) := by simp only [R.GCNT_CFG]; omega
    have hchannel : ¬(R.CH_CNT_CFG 0 0 ≤ a ∧ a < R.CH_CNT_CFG 4 0) := by simp only [R.CH_CNT_CFG]; omega
    have hcore : ¬(R.CORE_CNT_CFG 0 0 ≤ a ∧ a < R.CORE_CNT_CFG 1024 0) := by simp only [R.CORE_CNT_CFG]; omega
    simp only [cntAt, hglobal, hchannel, hcore, ↓reduceIte, ite_self]

/-- A register that is no part of a pair reads with its WO bits 0, and its RC bits clear (R3, R4). -/
theorem State.readWord_unpaired (s : State) (req : Nat) {k : Nat} {d : RegDesc} (hd : regDesc k = some d) (hlow : d.pairLow = false)
    (hhigh : (regDesc (k - 4)).any (fun e => e.pairLow) = false) (hk : Stored k) :
    s.readWord req k = (s.rd k &&& ~~~(BitVec.ofNat 32 d.wo), s.readClears k) := by
  simp only [State.readWord, hd, hlow, hhigh, s.view_of_stored hk, Bool.false_eq_true, and_false, ↓reduceIte]

/-- The low word of a pair is read with a copy of the high word (R7). -/
theorem State.readWord_pairLow (s : State) (req : Nat) {k : Nat} (hlow : (regDesc k).any (fun d => d.pairLow) = true) (hk : Stored k)
    (hk4 : Stored (k + 4)) :
    s.readWord req k = (s.rd k, { s with hold := FMap.set none s.hold (holdKey req k) (some (s.rd (k + 4))) }) := by
  obtain ⟨d, hd, hp⟩ := (Option.any_eq_true _ _).mp hlow
  simp only [State.readWord, hd, hp, s.view_of_stored hk, s.view_of_stored hk4, ↓reduceIte]

/-- The high word of a pair reads as the requester's copy where it has one (R7). -/
theorem State.readWord_pairHigh (s : State) (req : Nat) {k : Nat} (hlow : (regDesc k).any (fun d => d.pairLow) = true)
    (hhigh : (regDesc (k + 4)).any (fun d => !d.pairLow) = true) (hk4 : Stored (k + 4)) :
    s.readWord req (k + 4) = ((FMap.get none s.hold (holdKey req k)).getD (s.rd (k + 4)), s) := by
  obtain ⟨d, hd, hp⟩ := (Option.any_eq_true _ _).mp hhigh
  rw [Bool.not_eq_true'] at hp
  simp only [State.readWord, hd, hp, Nat.add_sub_cancel, hlow, s.view_of_stored hk4, Nat.le_add_left, and_self, Bool.false_eq_true, ↓reduceIte]
  cases FMap.get none s.hold (holdKey req k) <;> rfl

/-- What a read clears, away from CR_STAT, whose PEAK starts again (R4, R203). -/
theorem State.readClears_above (s : State) {k : Nat} {d : RegDesc} (hd : regDesc k = some d) (hk : 0x02800000 ≤ k) :
    s.readClears k = if d.rc = 0 then s else s.wr k (s.rd k &&& ~~~(BitVec.ofNat 32 d.rc)) := by
  have hpeak : idxOf k (R.CR_STAT 0) 0x400000 4 = none := idxOf_above (by simp only [R.CR_STAT]; omega) (by decide)
  simp only [State.readClears, hd, hpeak]

theorem State.rd_readClears_above (s : State) {k : Nat} {d : RegDesc} (hd : regDesc k = some d) (hk : 0x02800000 ≤ k) :
    (s.readClears k).rd k = s.rd k &&& ~~~(BitVec.ofNat 32 d.rc) := by
  rw [s.readClears_above hd hk]
  split
  · rename_i h; rw [h, show ~~~BitVec.ofNat 32 0 = BitVec.allOnes 32 from rfl, BitVec.and_allOnes]
  · exact s.rd_wr_self _ _

theorem State.readClears_frame (s : State) {k : Nat} {d : RegDesc} (hd : regDesc k = some d) (hk : 0x02800000 ≤ k) :
    s.SameRegs [k] (s.readClears k) ∧ s.SameBut [.regs] (s.readClears k) := by
  rw [s.readClears_above hd hk]
  split
  · exact ⟨fun _ _ => rfl, .refl s _⟩
  · exact ⟨fun b hb => s.rd_wr_ne _ (by simpa using hb), .wr s _ _⟩

/-! ### What a requester reaches -/

theorem State.regLive_of_answers {s : State} (h : Answers s) {a : Nat} (ha : 0x02300000 ≤ a) : s.regLive a = true := by
  obtain ⟨hpor, hshut⟩ := h
  have hpowered : s.powered = true := by simp [State.powered, hpor, hshut]
  unfold State.regLive
  split
  · rfl
  · rw [hpowered, Bool.not_true, if_neg Bool.false_ne_true, if_neg (by omega), if_neg (by omega), if_neg (by omega)]

theorem State.mayRead_of_pf_or_mg (s : State) {req : Nat} (h : req = 0 ∨ req = 5) (a : Nat) : s.mayRead req a = true := if_pos h

theorem State.mayWrite_of_pf_or_mg (s : State) {req : Nat} (h : req = 0 ∨ req = 5) (a : Nat) : s.mayWrite req a = true := if_pos h

/-- A VF that exists reads TB2 (R266). -/
theorem State.mayRead_tb2_of_vf (s : State) {req : Nat} (h1 : 1 ≤ req) (h4 : req ≤ 4) (hup : s.fnUp req = true) {a : Nat}
    (ha : a = R.TB_FRAC 2 ∨ a = R.TB_NS 2) : s.mayRead req a = true := by
  unfold State.mayRead
  rw [if_neg (by omega), if_neg (by simp [hup]; omega)]
  rcases ha with rfl | rfl <;> rfl

/-- No VF writes the clock and power block (R266). -/
theorem State.mayWrite_power_of_vf (s : State) {req a : Nat} (h1 : 1 ≤ req) (h4 : req ≤ 4) (hlo : 0x02800000 ≤ a) :
    s.mayWrite req a = false := by
  unfold State.mayWrite
  rw [if_neg (by omega)]
  split
  · rfl
  · rw [if_neg (by omega), if_neg (by omega), if_neg (by omega), if_neg (by omega)]

/-- Above the function and queue-pair registers a register has one key for every requester. -/
theorem keyOf_above (req : Nat) {a : Nat} (h : 0x02103000 ≤ a) : keyOf req a = a := if_neg (by omega)

theorem State.read32_above {s : State} (h : Answers s) {req a : Nat} (ha : 0x02400000 ≤ a) (hr : s.mayRead req a = true) :
    s.read32 req a = s.readWord req a := by
  have hsw : a ≠ R.ING_SWDATA := by unfold R.ING_SWDATA; omega
  have hmem : a ≠ R.LE_MEMDATA := by unfold R.LE_MEMDATA; omega
  simp [State.read32, State.regLive_of_answers h (show 0x02300000 ≤ a by omega), hr, hsw, hmem, keyOf_above req (show 0x02103000 ≤ a by omega)]

/-! ### Aligned accesses of a word -/

theorem State.readReg_word {s : State} (h : Answers s) (req : Nat) {a : Nat} (ha : a < 2 ^ 26) (h4 : a % 4 = 0) :
    s.readReg req a 4 = { (s.read32 req a).2 with lastRead := [(s.read32 req a).1] } := by
  obtain ⟨hpor, hshut⟩ := h
  have haddr : a % 2 ^ 26 / 4 * 4 = a := by omega
  have hword : BitVec.ofNat 32 ((s.read32 req a).1.toNat / 2 ^ (8 * 0) % 2 ^ (8 * 4)) = (s.read32 req a).1 := by
    rw [Nat.mul_zero, Nat.pow_zero, Nat.div_one, Nat.mod_eq_of_lt (BitVec.isLt _), BitVec.ofNat_toNat, BitVec.setWidth_eq]
  simp only [State.readReg, hpor, hshut, haddr, h4, hword, Bool.and_false, Bool.or_self, Bool.false_eq_true, ↓reduceIte]

theorem State.writeReg_word {s : State} (h : Answers s) (req : Nat) {a : Nat} (ha : a < 2 ^ 26) (h4 : a % 4 = 0) (v : Word) :
    s.writeReg req a 4 v = s.write32 req a v := by
  obtain ⟨hpor, hshut⟩ := h
  rw [State.writeReg, Nat.mod_eq_of_lt ha]
  simp [hpor, hshut, h4]

theorem State.writeReg_discarded (s : State) {req a n : Nat} (v : Word) (h : n ≠ 4 ∨ a % 4 ≠ 0) : s.writeReg req a n v = s := by
  unfold State.writeReg
  refine if_pos ?_
  rcases h with h | h <;> simp [h]

/-- A word written is nothing where its requester may not write, and where no register is (R6, R266). -/
theorem State.write32_discarded (s : State) {req a : Nat} (v : Word) (h : s.mayWrite req a = false ∨ regDesc (keyOf req a) = none) :
    s.write32 req a v = s := by
  unfold State.write32
  refine if_pos ?_
  rcases h with h | h <;> simp [h]

theorem State.writeReg_discarded_of_write32 (s : State) {req a n : Nat} (v : Word) (ha : a < 2 ^ 26) (h : s.write32 req a v = s) :
    s.writeReg req a n v = s := by
  unfold State.writeReg
  rw [Nat.mod_eq_of_lt ha, h, ite_self]

/-- A register of the clock and power block without an effect of its own takes a write bit by bit (R3). -/
theorem State.write32_power {s : State} (h : Answers s) {req a : Nat} (v : Word) {d : RegDesc} (hreq : req = 0 ∨ req = 5)
    (hlo : 0x02800000 ≤ a) (hd : regDesc a = some d)
    (hn : a ∉ [R.RST_CTRL, R.TEN_CFG, R.PWR_GATE_LO, R.PWR_GATE_HI, R.GAUGE_CFG, R.SUPPLY_CFG]) :
    s.write32 req a v = s.writeBits a v := by
  simp only [List.mem_cons, List.not_mem_nil, or_false, not_or] at hn
  obtain ⟨hrst, hten, hglo, hghi, hgauge, hsupply⟩ := hn
  have htakes : s.regTakes a = true := by
    have hrail : ¬a < 0x02000000 := by omega
    simp [State.regTakes, State.regLive_of_answers h (show 0x02300000 ≤ a by omega), hrail]
  have hpower : s.writePower req a v = s.writeBits a v := by
    simp only [State.writePower, hrst, hten, hglo, hghi, hgauge, hsupply, ↓reduceIte]
  unfold State.write32
  rw [htakes, s.mayWrite_of_pf_or_mg hreq, keyOf_above req (by omega), hd, if_neg (by simp), hpower]
  iterate 10 rw [if_neg (by omega)]

/-! ### Pairs of stored words (R7) -/

/-- Low words of pairs whose two words are both stored, not computed at the read. -/
def storedPairs : List Nat := [R.SEC_LEAF_LO, R.SEC_HWM_LO, R.TB_FRAC 0, R.TB_FRAC 1, R.TB_FRAC 2, R.PWR_GATE_LO, R.PWR_UP_LO]

/-- What reads of a pair of stored words rest on. -/
structure StoredPair (a : Nat) : Prop where
  above : 0x02400000 ≤ a
  below : a + 4 < 2 ^ 26
  aligned : a % 4 = 0
  low : (regDesc a).any (fun d => d.pairLow) = true
  high : (regDesc (a + 4)).any (fun d => !d.pairLow) = true
  lowStored : Stored a
  highStored : Stored (a + 4)

theorem storedPair_of_mem {a : Nat} (h : a ∈ storedPairs) : StoredPair a := by
  have hall : ∀ a ∈ storedPairs, 0x02400000 ≤ a ∧ a + 4 < 2 ^ 26 ∧ a % 4 = 0 ∧ (regDesc a).any (fun d => d.pairLow) = true
      ∧ (regDesc (a + 4)).any (fun d => !d.pairLow) = true ∧ Stored a ∧ Stored (a + 4) := by
    unfold Stored; decide +kernel
  obtain ⟨above, below, aligned, low, high, lowStored, highStored⟩ := hall a h
  exact { above, below, aligned, low, high, lowStored, highStored }

theorem State.readReg_pairLow {s : State} (hs : Answers s) {req a : Nat} (ha : StoredPair a) (hr : s.mayRead req a = true) :
    s.readReg req a 4 =
      { s with hold := FMap.set none s.hold (holdKey req a) (some (s.rd (a + 4))), lastRead := [s.rd a] } := by
  have hbelow := ha.below
  rw [State.readReg_word hs req (by omega) ha.aligned, State.read32_above hs ha.above hr,
    s.readWord_pairLow req ha.low ha.lowStored ha.highStored]

theorem State.readReg_pairHigh {s : State} (hs : Answers s) {req a : Nat} (ha : StoredPair a) (hr : s.mayRead req (a + 4) = true) :
    s.readReg req (a + 4) 4 =
      { s with lastRead := [(FMap.get none s.hold (holdKey req a)).getD (s.rd (a + 4))] } := by
  have habove := ha.above
  have haligned := ha.aligned
  rw [State.readReg_word hs req ha.below (by omega), State.read32_above hs (by omega) hr,
    s.readWord_pairHigh req ha.low ha.high ha.highStored]

/-! ### The commands of register accesses -/

theorem exec_registerWrite (s : State) (req a n : Nat) (v : Word) : exec (.registerWrite req a n v) s = .next (s.writeReg req a n v) := rfl

theorem exec_readToClear (s : State) (req a n : Nat) : exec (.readToClear req a n) s = .next (s.readReg req a n) := rfl

theorem exec_pairLowRead (s : State) (req a : Nat) : exec (.pairLowRead req a) s = .next (s.readReg req a 4) := rfl

theorem exec_mgRead (s : State) (op comp : Byte) (addr : Word) (n : Nat) :
    exec (.mgRead op comp addr n) s = execMgRead op comp addr n s := rfl

theorem exec_mgWrite (s : State) (op comp : Byte) (addr : Word) (data : List Byte) :
    exec (.mgWrite op comp addr data) s = execMgWrite op comp addr data s := rfl

/-! ### The management port (R529, R530) -/

theorem State.mgWords_length (s : State) (a n : Nat) : (s.mgWords a n).1.length = n := by
  induction n generalizing s a with
  | zero => rfl
  | succ n ih => simp only [State.mgWords, List.length_cons, ih]

theorem mgTakes_complement (code : Byte) {addr : Word} (ha : addr.toNat < 2 ^ 26) (h4 : addr.toNat % 4 = 0) :
    mgTakes code code (~~~code) addr = true := by
  rw [mgTakes, Nat.div_eq_of_lt ha, h4]
  simp

theorem mgTakes_wrong_complement (code : Byte) {op comp : Byte} (addr : Word) (h : comp ≠ ~~~op) : mgTakes code op comp addr = false := by
  simp [mgTakes, h]

/-- A READ that the port takes answers as many words as have begun. -/
theorem exec_mgRead_taken {s : State} (hs : Answers s) {addr : Word} (ha : addr.toNat < 2 ^ 26) (h4 : addr.toNat % 4 = 0) (n : Nat) :
    exec (.mgRead 0x0B#8 (~~~0x0B#8) addr n) s
      = .next { (s.mgWords addr.toNat n).2 with lastRead := (s.mgWords addr.toNat n).1 } := by
  simp only [exec_mgRead, execMgRead, hs.1, mgTakes_complement _ ha h4, Bool.not_true, Bool.or_self, Bool.false_eq_true, ↓reduceIte]

/-- A READ of one word is the port's read of its register. -/
theorem exec_mgRead_one {s : State} (hs : Answers s) {addr : Word} (ha : addr.toNat < 2 ^ 26) (h4 : addr.toNat % 4 = 0) :
    exec (.mgRead 0x0B#8 (~~~0x0B#8) addr 1) s = exec (.readToClear 5 addr.toNat 4) s := by
  rw [exec_mgRead_taken hs ha h4, exec_readToClear, State.readReg_word hs 5 ha h4]
  simp only [State.mgWords, Nat.mod_eq_of_lt ha]

theorem exec_mgWrite_taken {s : State} (hs : Answers s) {addr : Word} (ha : addr.toNat < 2 ^ 26) (h4 : addr.toNat % 4 = 0) (data : List Byte) :
    exec (.mgWrite 0x02#8 (~~~0x02#8) addr data) s = .next (s.mgApply addr.toNat (chunksOf 4 data.length data)) := by
  simp only [exec_mgWrite, execMgWrite, hs.1, mgTakes_complement _ ha h4, Bool.not_true, Bool.or_self, Bool.false_eq_true, ↓reduceIte]

theorem chunksOf_nil {α : Type} (n fuel : Nat) : chunksOf n fuel ([] : List α) = [] := by cases fuel <;> rfl

/-- At most one piece's worth of a list is one piece. -/
theorem chunksOf_of_length_le {α : Type} {n : Nat} {l : List α} (h : l.length ≤ n) (hl : l ≠ []) : chunksOf n l.length l = [l] := by
  obtain ⟨f, hf⟩ := Nat.exists_eq_succ_of_ne_zero (mt List.length_eq_zero_iff.mp hl)
  rw [hf, chunksOf, if_neg (by simpa using hl), List.take_of_length_le h, List.drop_of_length_le h, chunksOf_nil]

/-- A WRITE of one word is the port's write of its register. -/
theorem exec_mgWrite_one {s : State} (hs : Answers s) {addr : Word} (ha : addr.toNat < 2 ^ 26) (h4 : addr.toNat % 4 = 0)
    {data : List Byte} (hd : data.length = 4) :
    exec (.mgWrite 0x02#8 (~~~0x02#8) addr data) s = exec (.registerWrite 5 addr.toNat 4 (BitVec.ofNat 32 (leNat data))) s := by
  rw [exec_mgWrite_taken hs ha h4, chunksOf_of_length_le (by omega) (by rintro rfl; cases hd), exec_registerWrite,
    State.writeReg_word hs 5 ha h4, State.mgApply, State.mgApply, if_pos hd, Nat.mod_eq_of_lt ha]

/-- A word of a WRITE that is not complete is discarded. -/
theorem exec_mgWrite_incomplete {s : State} (hs : Answers s) {addr : Word} (ha : addr.toNat < 2 ^ 26) (h4 : addr.toNat % 4 = 0)
    {data : List Byte} (hd : data.length < 4) : exec (.mgWrite 0x02#8 (~~~0x02#8) addr data) s = .next s := by
  rw [exec_mgWrite_taken hs ha h4]
  cases data with
  | nil => rfl
  | cons b bs => rw [chunksOf_of_length_le (by omega) (by simp), State.mgApply, State.mgApply, if_neg (by omega)]

theorem exec_mg_wrong_complement (s : State) {op comp : Byte} (h : comp ≠ ~~~op) (addr : Word) (n : Nat) (data : List Byte) :
    exec (.mgRead op comp addr n) s = .next s ∧ exec (.mgWrite op comp addr data) s = .next s := by
  constructor
  · simp [exec_mgRead, execMgRead, mgTakes_wrong_complement _ addr h]
  · simp [exec_mgWrite, execMgWrite, mgTakes_wrong_complement _ addr h]

/-! ### The accesses of the clock and power block, and of the pairs -/

theorem writeReg_power {s : State} (hs : Answers s) {req a : Nat} (v : Word) {d : RegDesc} (hreq : req = 0 ∨ req = 5)
    (hlo : 0x02800000 ≤ a) (hhi : a < 0x02900000) (h4 : a % 4 = 0) (hd : regDesc a = some d)
    (hn : a ∉ [R.RST_CTRL, R.TEN_CFG, R.PWR_GATE_LO, R.PWR_GATE_HI, R.GAUGE_CFG, R.SUPPLY_CFG]) :
    s.SameRegs [a] (s.writeReg req a 4 v) ∧ s.SameBut [.regs] (s.writeReg req a 4 v)
      ∧ ∀ i, i < 32 → ((s.writeReg req a 4 v).rd a).getLsbD i =
        if bitOf d.rw i then v.getLsbD i else if bitOf d.w1s i && v.getLsbD i then true
        else if bitOf d.w1c i && v.getLsbD i then false else (s.rd a).getLsbD i := by
  rw [State.writeReg_word hs req (by omega) h4, State.write32_power hs v hreq hlo hd hn]
  refine ⟨?_, ?_, fun i hi => s.getLsbD_rd_writeBits a v hd hi⟩
  all_goals obtain ⟨w, hw⟩ := s.writeBits_eq_wr a v hd; rw [hw]
  · exact fun b hb => s.rd_wr_ne w (by simpa using hb)
  · exact .wr s a w

theorem readReg_power {s : State} (hs : Answers s) {req a : Nat} {d : RegDesc} (hreq : req = 0 ∨ req = 5)
    (hlo : 0x02800000 ≤ a) (hhi : a < 0x02900000) (h4 : a % 4 = 0) (hd : regDesc a = some d)
    (hn : a ∉ [R.PWR_GATE_LO, R.PWR_GATE_HI, R.PWR_UP_LO, R.PWR_UP_HI]) :
    (s.readReg req a 4).lastRead = [s.rd a &&& ~~~(BitVec.ofNat 32 d.wo)]
      ∧ (∀ i, i < 32 → ((s.readReg req a 4).rd a).getLsbD i = (!bitOf d.rc i && (s.rd a).getLsbD i))
      ∧ s.SameRegs [a] (s.readReg req a 4) ∧ s.SameBut [.regs, .lastRead] (s.readReg req a 4) := by
  obtain ⟨hlow, hhigh⟩ := unpaired_of_power hd hlo (by omega) hn
  obtain ⟨hregs, hframe⟩ := s.readClears_frame hd hlo
  rw [State.readReg_word hs req (by omega) h4, State.read32_above hs (by omega) (s.mayRead_of_pf_or_mg hreq a),
    s.readWord_unpaired req hd hlow hhigh (stored_of_power hlo)]
  refine ⟨rfl, fun i hi => ?_, hregs, ?_⟩
  · change ((s.readClears a).rd a).getLsbD i = _
    rw [s.rd_readClears_above hd hlo, BitVec.getLsbD_and, BitVec.getLsbD_not, getLsbD_ofNat_eq_bitOf _ hi, decide_eq_true hi,
      Bool.true_and, Bool.and_comm]
  · exact hframe.withLastRead _

/-- The high word of a pair lies in the same block as the low word: who reads the one reads the other (R266). -/
theorem State.mayRead_storedPair (s : State) {req a : Nat}
    (h : (req = 0 ∨ req = 5) ∧ (a = R.SEC_LEAF_LO ∨ a = R.SEC_HWM_LO ∨ a = R.TB_FRAC 0 ∨ a = R.TB_FRAC 1 ∨ a = R.PWR_GATE_LO ∨ a = R.PWR_UP_LO)
      ∨ 1 ≤ req ∧ req ≤ 4 ∧ s.fnUp req = true ∧ a = R.TB_FRAC 2) :
    a ∈ storedPairs ∧ s.mayRead req a = true ∧ s.mayRead req (a + 4) = true := by
  rcases h with ⟨hreq, ha⟩ | ⟨h1, h4, hup, rfl⟩
  · exact ⟨by simp only [storedPairs, List.mem_cons]; tauto, s.mayRead_of_pf_or_mg hreq _, s.mayRead_of_pf_or_mg hreq _⟩
  · exact ⟨by simp [storedPairs], s.mayRead_tb2_of_vf h1 h4 hup (.inl rfl), s.mayRead_tb2_of_vf h1 h4 hup (.inr rfl)⟩

/-- Settles O41: each access by the reasoning rule of its kind, over the rows of the register map that lie in the block. -/
theorem registerAccess : Obligations.RegisterAccess := by
  intro s hs
  refine ⟨?write, ?narrow, ?noRegister, ?fromVf, ?read, ?pair, ?mgTaken, ?mgRefused⟩
  case write =>
    intro req a v d hreq hlo hhi h4 hd hn
    exact ⟨_, exec_registerWrite _ _ _ _ _, writeReg_power hs v hreq hlo hhi h4 hd hn⟩
  case narrow =>
    intro req a n v h
    rw [exec_registerWrite, s.writeReg_discarded v h]
  case noRegister =>
    intro req a v ha h
    rw [exec_registerWrite, s.writeReg_discarded_of_write32 v ha (s.write32_discarded v (.inr h))]
  case fromVf =>
    intro req a v h1 h4 hlo hhi
    rw [exec_registerWrite, s.writeReg_discarded_of_write32 v (by omega) (s.write32_discarded v (.inl (s.mayWrite_power_of_vf h1 h4 hlo)))]
  case read =>
    intro req a d hreq hlo hhi h4 hd hn
    exact ⟨_, exec_readToClear _ _ _ _, readReg_power hs hreq hlo hhi h4 hd hn⟩
  case pair =>
    intro req a h
    obtain ⟨hmem, hread, hread4⟩ := s.mayRead_storedPair h
    have ha := storedPair_of_mem hmem
    refine ⟨fun c hc => ⟨s.readReg req a 4, ?_, ?_⟩, ⟨_, exec_readToClear _ _ _ _, ?_⟩⟩
    · rcases hc with rfl | rfl
      · exact exec_pairLowRead s req a
      · exact exec_readToClear s req a 4
    · rw [State.readReg_pairLow hs ha hread]
      exact ⟨rfl, FMap.get_set_self none s.hold (holdKey req a) (some (s.rd (a + 4))), .withHold s _ _⟩
    · rw [State.readReg_pairHigh hs ha hread4]
      exact ⟨rfl, (State.SameBut.refl s []).withLastRead _⟩
  case mgTaken =>
    rintro op comp addr ha h4 rfl
    refine ⟨?_, ?_⟩ <;> rintro rfl
    · exact ⟨fun n => ⟨_, exec_mgRead_taken hs ha h4 n, s.mgWords_length _ _⟩, exec_mgRead_one hs ha h4⟩
    · exact ⟨fun data hd => exec_mgWrite_one hs ha h4 hd, fun data hd => exec_mgWrite_incomplete hs ha h4 hd⟩
  case mgRefused =>
    intro op comp addr n data h
    exact exec_mg_wrong_complement s h addr n data

/-! ### After power-on reset (R8) -/

@[simp] theorem State.rd_reset (a : Nat) : State.reset.rd a = regReset a := rfl

/-- Every bank is that of a slot with no context. -/
theorem State.slot_reset (c k : Nat) : State.reset.slot c k = Slot.init := rfl

theorem Slot.init_p (i : Nat) : Slot.init.p i = true ↔ i = 0 := by simp [Slot.p, Slot.init, bitOf]

theorem Slot.init_tokPending (i : Nat) : Slot.init.tokPending i = false := by simp [Slot.tokPending, Slot.init, bitOf]

/-- The register map resets no permit's GRANT to 1. -/
theorem regReset_permitCtrl_grant : ∀ k, k < 8 → isSet (regReset (R.PERMIT_CTRL k)) F.PERMIT_CTRL_GRANT = false := by decide +kernel

/-- Settles O2: every map of the reset state is empty, so each read gives the default, which for a register is its reset value. -/
theorem resetState : Obligations.ResetState := by
  refine ⟨State.rd_reset, fun a => ⟨rfl, rfl⟩, by decide, rfl, fun c k i => ?bank, fun k hk => ?permit⟩
  case bank =>
    rw [State.slot_reset]
    exact ⟨rfl, rfl, Slot.init_p i, Slot.init_tokPending i, rfl⟩
  case permit =>
    rw [State.bit, State.rd_reset, regReset_permitCtrl_grant k hk]

end Sys2Proof.Machine

/-! The links between chips: their states, and what ends with a link (R22, R248, R254-R262). -/

namespace Sys2Proof.Machine

/-! ### Frames in sequence -/

theorem State.SameBut.trans {l : List Piece} {s t u : State} (h : s.SameBut l t) (g : t.SameBut l u) : s.SameBut l u :=
  have join {p : Prop} {α : Type} {a b c : α} (h : p ∨ b = a) (g : p ∨ c = b) : p ∨ c = a :=
    h.elim .inl (fun e => g.imp_right (·.trans e))
  ⟨join h.regs g.regs, join h.hold g.hold, join h.lastRead g.lastRead, join h.scratch g.scratch, join h.ue g.ue, join h.ce g.ce,
    join h.tableMem g.tableMem, join h.cores g.cores, join h.words g.words, join h.noc g.noc, join h.parts g.parts,
    join h.migr g.migr, join h.host g.host, join h.tests g.tests, join h.sec g.sec, join h.trc g.trc, join h.ing g.ing,
    join h.eng g.eng, join h.time g.time, join h.safe g.safe, join h.gauge g.gauge, join h.pwr g.pwr, join h.jtag g.jtag,
    join h.now g.now, join h.fresh g.fresh, join h.pending g.pending⟩

theorem State.SameBut.mono {l l' : List Piece} {s t : State} (h : s.SameBut l t) (hl : l ⊆ l') : s.SameBut l' t :=
  ⟨h.regs.imp_left (hl ·), h.hold.imp_left (hl ·), h.lastRead.imp_left (hl ·), h.scratch.imp_left (hl ·), h.ue.imp_left (hl ·),
    h.ce.imp_left (hl ·), h.tableMem.imp_left (hl ·), h.cores.imp_left (hl ·), h.words.imp_left (hl ·), h.noc.imp_left (hl ·),
    h.parts.imp_left (hl ·), h.migr.imp_left (hl ·), h.host.imp_left (hl ·), h.tests.imp_left (hl ·), h.sec.imp_left (hl ·),
    h.trc.imp_left (hl ·), h.ing.imp_left (hl ·), h.eng.imp_left (hl ·), h.time.imp_left (hl ·), h.safe.imp_left (hl ·),
    h.gauge.imp_left (hl ·), h.pwr.imp_left (hl ·), h.jtag.imp_left (hl ·), h.now.imp_left (hl ·), h.fresh.imp_left (hl ·),
    h.pending.imp_left (hl ·)⟩

theorem State.SameBut.sameScratch {l : List Piece} {s t : State} (h : s.SameBut l t) (hs : .scratch ∉ l) (hu : .ue ∉ l) (hc : .ce ∉ l) :
    s.SameScratch t :=
  ⟨fun a => by rw [h.scratch.resolve_left hs], h.ue.resolve_left hu, h.ce.resolve_left hc⟩

theorem State.SameBut.onNoc (s : State) (f : NocSt → NocSt) : s.SameBut [.noc] (s.onNoc f) := by constructor <;> simp

theorem State.SameBut.onHost (s : State) (f : HostSt → HostSt) : s.SameBut [.host] (s.onHost f) := by constructor <;> simp

theorem State.SameBut.onPart (s : State) (p : Nat) (f : PartSt → PartSt) : s.SameBut [.parts] (s.onPart p f) := by constructor <;> simp

theorem State.SameBut.count (s : State) (core : Option Nat) (unit : Nat) (own : Option (Nat × Nat)) (code n : Nat) :
    s.SameBut [.trc] (s.count core unit own code n) := by
  obtain ⟨t, h⟩ := s.count_eq core unit own code n
  rw [h]
  constructor <;> simp

/-- What every turn of a fold keeps, the fold keeps. -/
theorem State.each_keeps {α : Type} {P : State → Prop} {s : State} (l : List α) {f : State → α → State} (h : P s)
    (hf : ∀ u a, P u → P (f u a)) : P (s.each l f) :=
  List.foldlRecOn l f h fun u hu a _ => hf u a hu

/-- What one turn of a fold brings about and no turn undoes holds at its end. -/
theorem State.each_reaches {α : Type} {P Q : State → Prop} {s : State} {l : List α} {f : State → α → State} {a : α} (ha : a ∈ l) (h : P s)
    (hP : ∀ u b, P u → P (f u b)) (hPQ : ∀ u, P u → Q (f u a)) (hQ : ∀ u b, Q u → Q (f u b)) : Q (s.each l f) := by
  obtain ⟨before, after, rfl⟩ := List.append_of_mem ha
  have hbefore : P (s.each before f) := State.each_keeps before h hP
  rw [State.each, List.foldl_append, List.foldl_cons]
  exact State.each_keeps after (hPQ _ hbefore) hQ

/-! ### What leaves the link registers alone -/

/-- The registers of the links, KL_CTRL 0 to KL_ID (R257). -/
def LinkReg (a : Nat) : Prop := R.KL_CTRL 0 ≤ a ∧ a ≤ R.KL_ID

theorem linkReg_klCtrl {l : Nat} (h : l < 16) : LinkReg (R.KL_CTRL l) := by
  simp only [LinkReg, R.KL_CTRL, R.KL_ID]
  omega

theorem linkReg_klStat {l : Nat} (h : l < 16) : LinkReg (R.KL_STAT l) := by
  simp only [LinkReg, R.KL_CTRL, R.KL_STAT, R.KL_ID]
  omega

theorem linkReg_klId : LinkReg R.KL_ID := by simp [LinkReg, R.KL_CTRL, R.KL_ID]

theorem not_linkReg_above {a : Nat} (h : R.KL_ID < a) : ¬LinkReg a := fun ha => absurd ha.2 (by omega)

/-- Pieces outside `l` are as before, and every link register reads as before. -/
structure State.OffLinks (l : List Piece) (s t : State) : Prop where
  same : s.SameBut l t
  rd : ∀ a, LinkReg a → t.rd a = s.rd a

theorem State.OffLinks.refl (s : State) (l : List Piece) : s.OffLinks l s := ⟨.refl s l, fun _ _ => rfl⟩

theorem State.OffLinks.trans {l : List Piece} {s t u : State} (h : s.OffLinks l t) (g : t.OffLinks l u) : s.OffLinks l u :=
  ⟨h.same.trans g.same, fun a ha => (g.rd a ha).trans (h.rd a ha)⟩

theorem State.OffLinks.mono {l l' : List Piece} {s t : State} (h : s.OffLinks l t) (hl : l ⊆ l') : s.OffLinks l' t :=
  ⟨h.same.mono hl, h.rd⟩

theorem State.OffLinks.of_regs {l : List Piece} {s t : State} (h : s.SameBut l t) (hl : .regs ∉ l) : s.OffLinks l t :=
  ⟨h, fun a _ => by unfold State.rd; rw [h.regs.resolve_left hl]⟩

theorem State.OffLinks.wr (s : State) {a : Nat} (v : Word) (ha : ¬LinkReg a) : s.OffLinks [.regs] (s.wr a v) :=
  ⟨.wr s a v, fun _ hb => s.rd_wr_ne v (fun e => ha (e ▸ hb))⟩

theorem State.OffLinks.setFld (s : State) {a : Nat} (f : Fld) (x : Nat) (ha : ¬LinkReg a) : s.OffLinks [.regs] (s.setFld a f x) :=
  .wr s _ ha

theorem State.OffLinks.own {l : List Piece} {s t : State} (h : s.OffLinks l t) : t.own = s.own := by
  unfold State.own State.fld
  rw [h.rd _ linkReg_klId]

theorem State.OffLinks.linkState {l : List Piece} {s t : State} (h : s.OffLinks l t) {k : Nat} (hk : k < 16) :
    t.linkState k = s.linkState k := by
  unfold State.linkState State.fld
  rw [h.rd _ (linkReg_klStat hk)]

/-! ### The doubt matrix and the permits -/

theorem not_linkReg_doubt (n : Nat) : ¬LinkReg (R.DD_FIRST n) ∧ ¬LinkReg (R.DD_TIME n) ∧ ¬LinkReg R.DD_ACTIVE ∧ ¬LinkReg R.DD_LEVEL
    ∧ ¬LinkReg (R.DM_PEND n) := by
  refine ⟨?_, ?_, ?_, ?_, ?_⟩ <;> apply not_linkReg_above
    <;> simp only [R.KL_ID, R.DD_FIRST, R.DD_TIME, R.DD_ACTIVE, R.DD_LEVEL, R.DM_PEND] <;> omega

theorem not_linkReg_permit (k : Nat) : ¬LinkReg (R.PERMIT_CTRL k) ∧ ¬LinkReg (R.PERMIT_STAT k) ∧ ¬LinkReg (R.PERMIT_WTIME k) := by
  refine ⟨?_, ?_, ?_⟩ <;> apply not_linkReg_above <;> simp only [R.KL_ID, R.PERMIT_CTRL, R.PERMIT_STAT, R.PERMIT_WTIME] <;> omega

theorem State.noteFirst_offLinks (s : State) (n src : Nat) : s.OffLinks [.regs] (s.noteFirst n src) := by
  obtain ⟨hfirst, htime, -⟩ := not_linkReg_doubt n
  unfold State.noteFirst
  split
  · split
    · exact .setFld s _ _ hfirst
    · exact .refl s _
  · exact (State.OffLinks.wr s _ hfirst).trans (.wr _ _ htime)

theorem State.activate_offLinks (s : State) (src mask : Nat) : s.OffLinks [.regs] (s.activate src mask) := by
  obtain ⟨-, -, hactive, -⟩ := not_linkReg_doubt 0
  exact State.each_keeps _ (.setFld s _ _ hactive) fun u n h => h.trans (u.noteFirst_offLinks n src)

theorem State.holdLevels_offLinks (s : State) : s.OffLinks [.regs] s.holdLevels := by
  obtain ⟨-, -, -, hlevel, -⟩ := not_linkReg_doubt 0
  exact State.each_keeps _ (.setFld s _ _ hlevel) fun u l h => h.trans (u.activate_offLinks l.1 l.2)

theorem State.withdraw_offLinks (s : State) (k cause index : Nat) : s.OffLinks [.regs] (s.withdraw k cause index) := by
  obtain ⟨hctrl, hstat, htime⟩ := not_linkReg_permit k
  exact (((((State.OffLinks.setFld s _ _ hctrl).trans (.setFld _ _ _ hstat)).trans (.setFld _ _ _ hstat)).trans
    (.setFld _ _ _ hstat)).trans (.setFld _ _ _ hstat)).trans (.wr _ _ htime)

theorem State.checkPermits_offLinks (s : State) : s.OffLinks [.regs] s.checkPermits := by
  refine State.each_keeps _ (.refl s _) fun u k h => h.trans ?_
  split
  · exact u.withdraw_offLinks _ _ _
  · exact .refl u _

theorem State.settle_offLinks (s : State) : s.OffLinks [.regs] s.settle := by
  unfold State.settle
  split
  · exact .refl s _
  · exact s.holdLevels_offLinks.trans (State.checkPermits_offLinks _)

theorem State.raiseDoubt_offLinks (s : State) (i : Nat) : s.OffLinks [.regs] (s.raiseDoubt i) := by
  obtain ⟨-, -, -, -, hpend⟩ := not_linkReg_doubt (i / 32)
  unfold State.raiseDoubt
  split
  · exact .refl s _
  · exact ((State.OffLinks.wr s _ hpend).trans (State.activate_offLinks _ _ _)).trans (State.settle_offLinks _)

/-! ### The event log -/

theorem not_linkReg_log (f : Nat) : ¬LinkReg (R.HI_FN_STAT f) ∧ ¬LinkReg (R.HI_FN_ELOG_TAIL f) := by
  constructor <;> apply not_linkReg_above <;> simp only [R.KL_ID, R.HI_FN_STAT, R.HI_FN_ELOG_TAIL] <;> omega

theorem State.hostWrite_sameBut (s : State) (a : Nat) (bs : List Byte) : s.SameBut [.host, .trc] (s.hostWrite a bs).1 := by
  unfold State.hostWrite
  split
  · exact .refl s _
  · exact ((State.SameBut.onHost s _).mono (by simp)).trans ((State.SameBut.count _ _ _ _ _ _).mono (by simp))

theorem State.msix_sameBut (s : State) (f v : Nat) : s.SameBut [.host] (s.msix f v) := by
  unfold State.msix
  split <;> exact .onHost s _

theorem State.logEvent_offLinks (s : State) (f : Nat) (e : EventRec) : s.OffLinks [.regs, .host, .trc] (s.logEvent f e) := by
  obtain ⟨hstat, htail⟩ := not_linkReg_log f
  have onHost (u : State) (g : HostSt → HostSt) : u.OffLinks [.regs, .host, .trc] (u.onHost g) :=
    (State.OffLinks.of_regs (.onHost u g) (by simp)).mono (by simp)
  have setFld (u : State) {a : Nat} (g : Fld) (x : Nat) (ha : ¬LinkReg a) : u.OffLinks [.regs, .host, .trc] (u.setFld a g x) :=
    (State.OffLinks.setFld u g x ha).mono (by simp)
  have written (u : State) (a : Nat) (bs : List Byte) (x y : Nat) : u.OffLinks [.regs, .host, .trc]
      (((u.hostWrite a bs).1.setFld (R.HI_FN_ELOG_TAIL f) F.HI_FN_ELOG_TAIL_TAIL x).setFld (R.HI_FN_ELOG_TAIL f) F.HI_FN_ELOG_TAIL_PHASE y) :=
    (((State.OffLinks.of_regs (u.hostWrite_sameBut a bs) (by simp)).mono (by simp)).trans (setFld _ _ _ htail)).trans (setFld _ _ _ htail)
  have msix (u : State) (v : Nat) : u.OffLinks [.regs, .host, .trc] (u.msix f v) :=
    (State.OffLinks.of_regs (u.msix_sameBut f v) (by simp)).mono (by simp)
  unfold State.logEvent
  dsimp only
  split
  · exact .refl s _
  split
  · exact (onHost s _).trans (setFld _ _ _ hstat)
  split
  · exact ((onHost s _).trans (written _ _ _ _ _)).trans (msix _ _)
  · exact (onHost s _).trans (written _ _ _ _ _)

/-! ### The end of waits (R248) -/

/-- Ending waits may change sync objects and their queues, the partitions' undo records and the network, but no link, no report, and no
release that is on its way to a wait of this chip. -/
structure State.EndsWaits (s t : State) : Prop where
  offLinks : s.OffLinks [.regs, .noc, .parts] t
  links : t.noc.links = s.noc.links
  reports : t.noc.reports = s.noc.reports
  releases : ∀ core id code obj, ⟨.wait core id, code, obj⟩ ∈ s.noc.releases → ⟨.wait core id, code, obj⟩ ∈ t.noc.releases

theorem State.EndsWaits.refl (s : State) : s.EndsWaits s := ⟨.refl s _, rfl, rfl, fun _ _ _ _ h => h⟩

theorem State.EndsWaits.trans {s t u : State} (h : s.EndsWaits t) (g : t.EndsWaits u) : s.EndsWaits u :=
  ⟨h.offLinks.trans g.offLinks, g.links.trans h.links, g.reports.trans h.reports,
    fun _ _ _ _ hr => g.releases _ _ _ _ (h.releases _ _ _ _ hr)⟩

theorem State.EndsWaits.onNoc (s : State) (f : NocSt → NocSt) (hl : (f s.noc).links = s.noc.links) (hp : (f s.noc).reports = s.noc.reports)
    (hr : ∀ core id code obj, ⟨.wait core id, code, obj⟩ ∈ s.noc.releases → ⟨.wait core id, code, obj⟩ ∈ (f s.noc).releases) :
    s.EndsWaits (s.onNoc f) :=
  ⟨(State.OffLinks.of_regs (.onNoc s f) (by simp)).mono (by simp), hl, hp, hr⟩

/-- The registers of a sync object lie below those of the links. -/
theorem not_linkReg_sync (obj : Nat) : ¬LinkReg (valReg obj) ∧ ¬LinkReg (holdReg obj) ∧ ¬LinkReg (sstatReg obj) := by
  simp only [LinkReg, valReg, holdReg, sstatReg, R.SYNC_VALUE, R.SYNC_HOLDER, R.SYNC_STAT, R.KL_CTRL, R.KL_ID]
  omega

theorem State.EndsWaits.wr (s : State) {a : Nat} (v : Word) (ha : ¬LinkReg a) : s.EndsWaits (s.wr a v) :=
  ⟨(State.OffLinks.wr s v ha).mono (by simp), rfl, rfl, fun _ _ _ _ h => h⟩

theorem State.release_endsWaits (s : State) (obj : Nat) (who : Who) (code : Nat) : s.EndsWaits (s.release obj who code) :=
  .onNoc s _ rfl rfl fun _ _ _ _ h => List.mem_append_left _ h

theorem State.setQueue_endsWaits (s : State) (obj : Nat) (l : List Waiter) : s.EndsWaits (s.setQueue obj l) :=
  .onNoc s _ rfl rfl fun _ _ _ _ h => h

theorem State.releaseAll_endsWaits (s : State) (obj code : Nat) : s.EndsWaits (s.releaseAll obj code) :=
  State.each_keeps (s.queue obj) (s.setQueue_endsWaits obj []) fun u w h => h.trans (u.release_endsWaits obj w.who code)

theorem State.noteUndo_endsWaits (s : State) (obj : Nat) (hold : Option Nat) (f : Undo → Undo) : s.EndsWaits (s.noteUndo obj hold f) := by
  unfold State.noteUndo
  split
  · exact .refl s
  · exact ⟨(State.OffLinks.of_regs (.onPart s _ _) (by simp)).mono (by simp), rfl, rfl, fun _ _ _ _ h => h⟩

theorem State.arrivals_endsWaits (s : State) (obj a : Nat) : s.EndsWaits (s.arrivals obj a) := by
  obtain ⟨hval, -, hstat⟩ := not_linkReg_sync obj
  unfold State.arrivals
  dsimp only
  split
  · exact .wr s _ hval
  · exact ((State.EndsWaits.wr s _ hval).trans (.wr _ _ hstat)).trans (State.releaseAll_endsWaits _ _ _)

theorem State.serve_endsWaits (s : State) (obj fuel : Nat) : s.EndsWaits (s.serve obj fuel) := by
  obtain ⟨hval, hhold, -⟩ := not_linkReg_sync obj
  induction fuel generalizing s with
  | zero => exact .refl s
  | succ fuel ih =>
    have next (u : State) (rest : List Waiter) (who : Who) :
        u.EndsWaits (((u.setQueue obj rest).release obj who rReleased).serve obj fuel) :=
      ((u.setQueue_endsWaits obj rest).trans (State.release_endsWaits _ _ _ _)).trans (ih _)
    unfold State.serve
    split
    · exact .refl s
    · dsimp only
      split
      · split
        · exact .refl s
        · refine .trans ?_ (next _ _ _)
          refine .trans ?_ (State.noteUndo_endsWaits _ _ _ _)
          split
          · split
            · exact (State.EndsWaits.wr s _ hval).trans (.wr _ _ hhold)
            · exact .wr s _ hval
          · exact .wr s _ hval
      · split
        · exact .refl s
        · refine .trans ?_ (next _ _ _)
          split
          · exact (State.EndsWaits.wr s _ hval).trans (State.noteUndo_endsWaits _ _ _ _)
          · exact .refl s

theorem State.evaluate_endsWaits (s : State) (obj : Nat) : s.EndsWaits (s.evaluate obj) := by
  unfold State.evaluate
  split
  · exact s.arrivals_endsWaits obj 0
  · exact s.serve_endsWaits obj _

theorem State.abandon_endsWaits (s : State) (obj : Nat) : s.EndsWaits (s.abandon obj) :=
  (State.EndsWaits.wr s _ (not_linkReg_sync obj).2.2).trans (State.releaseAll_endsWaits _ _ _)

/-- The first part of `endWaits`: this chip's waits whose route is hit are released with LINK_LOST. -/
def State.releaseFarWaits (s : State) (hit : Nat → Nat → Bool) : State :=
  (s.onNoc (fun n => { n with farWaits := n.farWaits.filter (fun w => !hit w.link w.dst) })).each
    (s.noc.farWaits.filter (fun w => hit w.link w.dst)) (fun s w => s.release w.obj (.wait w.core w.id) rLinkLost)

theorem State.releaseFarWaits_releases (s : State) (hit : Nat → Nat → Bool) :
    s.EndsWaits (s.releaseFarWaits hit)
      ∧ ∀ w ∈ s.noc.farWaits, hit w.link w.dst = true → ⟨.wait w.core w.id, rLinkLost, w.obj⟩ ∈ (s.releaseFarWaits hit).noc.releases := by
  have hturn (u : State) (w : FarWait) : u.EndsWaits (u.release w.obj (.wait w.core w.id) rLinkLost) := u.release_endsWaits _ _ _
  refine ⟨State.each_keeps _ (.onNoc s _ rfl rfl fun _ _ _ _ h => h) fun u w h => h.trans (hturn u w), fun w hw hhit => ?_⟩
  refine State.each_reaches (P := fun _ => True) (List.mem_filter.mpr ⟨hw, hhit⟩) trivial (fun _ _ _ => trivial) (fun u _ => ?_)
    fun u b h => (hturn u b).releases _ _ _ _ h
  exact List.mem_append_right _ (List.mem_singleton.mpr rfl)

/-- The rest of `endWaits` is about waits of other chips: those of this chip keep their releases. -/
theorem State.endWaits_of_releaseFarWaits (s : State) (hit : Nat → Nat → Bool) (left : List Nat) :
    (s.releaseFarWaits hit).EndsWaits (s.endWaits hit left) := by
  refine State.each_keeps _ (State.each_keeps _ (.onNoc _ _ rfl rfl fun _ _ _ _ h => ?_) fun u obj h => h.trans ?_) fun u obj h =>
    h.trans (u.abandon_endsWaits obj)
  · exact List.mem_filter.mpr ⟨h, rfl⟩
  · exact (u.setQueue_endsWaits obj _).trans (State.evaluate_endsWaits _ obj)

/-- The waits that went out by a link end with it. -/
theorem State.loseWaits_releases (s : State) (l : Nat) :
    s.EndsWaits (s.loseWaits l)
      ∧ ∀ w ∈ s.noc.farWaits, w.link = l → ⟨.wait w.core w.id, rLinkLost, w.obj⟩ ∈ (s.loseWaits l).noc.releases := by
  obtain ⟨hends, hreleases⟩ := s.releaseFarWaits_releases (fun k _ => k == l)
  have hrest : (s.releaseFarWaits (fun k _ => k == l)).EndsWaits (s.loseWaits l) := s.endWaits_of_releaseFarWaits _ _
  exact ⟨hends.trans hrest, fun w hw hl => hrest.releases _ _ _ _ (hreleases w hw (by simpa using hl))⟩

/-! ### What sending over links, refusing and reporting leave alone -/

/-- The network may change, but not which links the routes use nor the releases on their way; no report is taken back. -/
structure NocSt.Sends (n m : NocSt) : Prop where
  linksUsed : m.linksUsed = n.linksUsed
  peersUsed : m.peersUsed = n.peersUsed
  releases : m.releases = n.releases
  reports : ∀ r ∈ n.reports, r ∈ m.reports

/-- The network and its counters are all that may change, and the network only as sending changes it. -/
structure State.Sends (s t : State) : Prop where
  same : s.SameBut [.noc, .trc] t
  noc : s.noc.Sends t.noc

theorem State.Sends.refl (s : State) : s.Sends s := ⟨.refl s _, rfl, rfl, rfl, fun _ h => h⟩

theorem State.Sends.trans {s t u : State} (h : s.Sends t) (g : t.Sends u) : s.Sends u :=
  ⟨h.same.trans g.same, g.noc.linksUsed.trans h.noc.linksUsed, g.noc.peersUsed.trans h.noc.peersUsed,
    g.noc.releases.trans h.noc.releases, fun r hr => g.noc.reports r (h.noc.reports r hr)⟩

theorem State.Sends.onNoc (s : State) (f : NocSt → NocSt) (h : s.noc.Sends (f s.noc)) : s.Sends (s.onNoc f) :=
  ⟨(State.SameBut.onNoc s f).mono (by simp), h⟩

theorem State.Sends.offLinks {s t : State} (h : s.Sends t) : s.OffLinks [.noc, .trc] t := .of_regs h.same (by simp)

theorem State.Sends.own {s t : State} (h : s.Sends t) : t.own = s.own := h.offLinks.own

theorem State.each_sends {α : Type} (s : State) (l : List α) {f : State → α → State} (hf : ∀ (u : State) a, u.Sends (f u a)) :
    s.Sends (s.each l f) :=
  State.each_keeps l (.refl s) fun u a h => h.trans (hf u a)

/-- A report that one turn of a fold sends is there at its end. -/
theorem State.mem_reports_each {α : Type} {s : State} {l : List α} {f : State → α → State} {a : α} {r : Report} (ha : a ∈ l)
    (hf : ∀ (u : State) b, u.Sends (f u b)) (hr : ∀ u, s.Sends u → r ∈ (f u a).noc.reports) : r ∈ (s.each l f).noc.reports :=
  State.each_reaches (P := s.Sends) (Q := fun t => r ∈ t.noc.reports) ha (.refl s) (fun u b h => h.trans (hf u b)) hr fun u b h =>
    (hf u b).noc.reports r h

/-! ### Flits and records -/

theorem State.onLink_sends (s : State) (l : Nat) (f : LinkSt → LinkSt) : s.Sends (s.onLink l f) :=
  .onNoc s _ ⟨rfl, rfl, rfl, fun _ h => h⟩

theorem State.count_sends (s : State) (core : Option Nat) (unit : Nat) (own : Option (Nat × Nat)) (code n : Nat) :
    s.Sends (s.count core unit own code n) := by
  refine ⟨(State.SameBut.count s core unit own code n).mono (by simp), ?_⟩
  rw [(State.SameBut.count s core unit own code n).noc.resolve_left (by simp)]
  exact (State.Sends.refl s).noc

theorem State.sendReport_sends (s : State) (r : Report) : s.Sends (s.sendReport r) :=
  .onNoc s _ ⟨rfl, rfl, rfl, fun _ h => List.mem_append_left _ h⟩

theorem State.mem_reports_sendReport (s : State) (r : Report) : r ∈ (s.sendReport r).noc.reports :=
  List.mem_append_right _ (List.mem_singleton.mpr rfl)

theorem State.oweFor_sends (s : State) (fs : List TxFlit) : s.Sends (s.oweFor fs) :=
  s.each_sends _ fun u _ => u.onLink_sends _ _

theorem State.enqueue_sends (s : State) (l : Nat) (fs : List TxFlit) : s.Sends (s.enqueue l fs) :=
  ((s.onLink_sends l _).trans (State.oweFor_sends _ _)).trans (State.count_sends _ _ _ _ _ _)

theorem State.sendRec?_getD_sends {s t : State} (h : s.Sends t) (dst : Nat) (r : CtrlRec) (hops : Nat) :
    s.Sends ((s.sendRec? dst r hops).getD t) := by
  unfold State.sendRec?
  cases s.firstHop dst none hops with
  | none => exact h
  | some l => exact s.enqueue_sends l _

theorem State.sendCtrl_sends (s : State) (dst : Nat) (r : CtrlRec) : s.Sends (s.sendCtrl dst r) :=
  State.sendRec?_getD_sends (.refl s) dst r 0

theorem State.reportTo_sends (s : State) (src id code : Nat) (sync : Bool) : s.Sends (s.reportTo src id code sync) := by
  unfold State.reportTo
  split
  · exact s.sendReport_sends _
  · exact s.sendCtrl_sends _ _

/-- A report to this chip's own sender is on its way. -/
theorem State.mem_reports_reportTo (s : State) {src : Nat} (h : src = s.own) (id code : Nat) (sync : Bool) :
    ⟨id, code, sync⟩ ∈ (s.reportTo src id code sync).noc.reports := by
  rw [State.reportTo, if_pos h]
  exact s.mem_reports_sendReport _

theorem State.freeLanding_sends (s : State) (src id : Nat) : s.Sends (s.freeLanding src id) :=
  .onNoc s _ ⟨rfl, rfl, rfl, fun _ h => h⟩

theorem State.refuseMsg_sends (s : State) (m : MsgRef) (code : Nat) : (s.reportTo m.src m.id code false).Sends (s.refuseMsg m code) := by
  unfold State.refuseMsg
  dsimp only
  split
  · exact .refl _
  split
  · exact State.freeLanding_sends _ _ _
  · exact State.sendCtrl_sends _ _ _

/-! ### What a link held (R248, R262) -/

theorem State.cutMsg_sends (s : State) (k : Nat) (m : MsgRef) : s.Sends (s.cutMsg k m) :=
  ((s.onLink_sends k _).trans (State.oweFor_sends _ _)).trans (State.enqueue_sends _ _ _)

theorem State.cutRest_sends (s : State) (t : Transit) : s.Sends (s.cutRest t) := by
  unfold State.cutRest
  split
  · exact s.cutMsg_sends _ _
  · exact .onNoc s _ ⟨rfl, rfl, rfl, fun _ h => h⟩

theorem State.loseArrivals_sends (s : State) (l : Nat) : s.Sends (s.loseArrivals l) :=
  (s.onLink_sends l _).trans (State.each_sends _ _ State.cutRest_sends)

theorem State.bounce_sends (s : State) (r : CtrlRec) (code : Nat) : s.Sends (s.bounce r code) := by
  cases r with
  | syncOp =>
    unfold State.bounce
    dsimp only
    split
    · exact s.reportTo_sends _ _ _ _
    · exact s.sendCtrl_sends _ _
  | release =>
    unfold State.bounce
    dsimp only
    split
    · exact .refl s
    · exact s.sendCtrl_sends _ _
  | request => exact s.reportTo_sends _ _ _ _
  | grant => exact s.sendCtrl_sends _ _
  | cancel | report | cut | giveBack | teardown | route => exact .refl s

/-- A record that takes another route where there is one, and else ends by `bounce` where it is another chip's. -/
theorem State.reroute_sends (s : State) (r : CtrlRec) (code : Nat) (own : Bool) (d : Nat) :
    s.Sends ((s.sendRec? d r 0).getD (if own then s else s.bounce r code)) := by
  refine State.sendRec?_getD_sends ?_ d r 0
  split
  · exact .refl s
  · exact s.bounce_sends r code

theorem State.loseRec_sends (s : State) (code : Nat) (own : Bool) (r : CtrlRec) : s.Sends (s.loseRec code own r) := by
  cases r with
  | syncOp _ _ kind =>
    unfold State.loseRec
    dsimp only
    split
    · split
      · exact s.sendReport_sends _
      · exact .refl s
    · exact s.bounce_sends _ code
  | release =>
    unfold State.loseRec
    dsimp only
    split
    · exact .refl s
    · exact s.bounce_sends _ code
  | request =>
    cases own with
    | true => exact State.sendRec?_getD_sends (s.sendReport_sends _) _ _ 0
    | false => exact s.reroute_sends _ code false _
  | grant =>
    cases own with
    | true => exact State.sendRec?_getD_sends (s.freeLanding_sends _ _) _ _ 0
    | false => exact s.reroute_sends _ code false _
  | cancel | report | giveBack => exact s.reroute_sends _ code own _
  | cut | teardown | route => exact .refl s

/-- A signal of this chip that is lost is refused, whether it was caught as this chip's own flit or on its way across. -/
theorem State.mem_reports_loseRec (s : State) {src : Nat} (h : src = s.own) (code : Nat) (own : Bool) (dst obj arg job ctx core id : Nat) :
    ⟨id, code, true⟩ ∈ (s.loseRec code own (.syncOp dst src 3 obj arg job ctx core id)).noc.reports := by
  cases own with
  | true => exact s.mem_reports_sendReport _
  | false => exact s.mem_reports_reportTo h id code true

theorem State.loseCredits_sends (s : State) (hit : Nat → Bool) : s.Sends (s.loseCredits hit) :=
  (State.Sends.onNoc s _ ⟨rfl, rfl, rfl, fun _ h => h⟩).trans (State.each_sends _ _ fun u _ => u.sendReport_sends _)

theorem State.loseAwaits_sends (s : State) (hit : Nat → Nat → Bool) : s.Sends (s.loseAwaits hit) :=
  s.each_sends _ fun u _ => u.sendReport_sends _

/-- The messages that end with a link: those it holds, and those crossing to it. -/
def State.lostMsgs (s : State) (l : Nat) : List MsgRef :=
  ((s.link l).kept.filterMap (·.msg) ++ (List.range 16).flatMap (fun k => (s.link k).asm.filterMap (fun p =>
    match p.2 with
    | some t => if t.next = some l then some t.msg else none
    | none => none))).eraseDups

/-- A link emptied: nothing arrives by it any more, nothing crosses to it, and what waited on it gives its credits back. -/
def State.emptyLink (s : State) (l : Nat) : State :=
  let s := s.loseArrivals l
  let waiting := (s.link l).txq
  let s := s.onNoc (fun n => { n with links := n.links.map (fun p => (p.1, { p.2 with asm := p.2.asm.map (fun q =>
    (q.1, q.2.map (fun t => if t.next = some l then { t with next := none } else t))) })) })
  (s.onLink l (fun _ => .init)).oweFor waiting

/-- A link that goes is emptied; then its messages, its children and its records end, in this order. -/
theorem State.loseTraffic_eq (s : State) (l code : Nat) : s.loseTraffic l code =
    (((s.emptyLink l).each (s.lostMsgs l) (fun s m => s.refuseMsg m code)).each ((s.link l).kept.filterMap (·.child))
      (fun s w => s.reportTo w.src w.id code false)).each
      ((s.link l).kept.flatMap (fun f => f.recs.map (fun r => (f.back.isNone, r)))) (fun s r => s.loseRec code r.1 r.2) := rfl

theorem State.emptyLink_sends (s : State) (l : Nat) : s.Sends (s.emptyLink l) :=
  (((s.loseArrivals_sends l).trans (.onNoc _ _ ⟨rfl, rfl, rfl, fun _ h => h⟩)).trans (State.onLink_sends _ l _)).trans
    (State.oweFor_sends _ _)

/-- Every flit that the link holds is refused: its message, its child and its signals, where they are this chip's. -/
theorem State.loseTraffic_refuses (s : State) (l code : Nat) : s.Sends (s.loseTraffic l code) ∧ ∀ f ∈ (s.link l).kept,
    (∀ m, f.msg = some m → m.src = s.own → ⟨m.id, code, false⟩ ∈ (s.loseTraffic l code).noc.reports)
    ∧ (∀ w, f.child = some w → w.src = s.own → ⟨w.id, code, false⟩ ∈ (s.loseTraffic l code).noc.reports)
    ∧ (∀ dst obj arg job ctx core id, CtrlRec.syncOp dst s.own 3 obj arg job ctx core id ∈ f.recs →
      ⟨id, code, true⟩ ∈ (s.loseTraffic l code).noc.reports) := by
  have refuse (u : State) (m : MsgRef) : u.Sends (u.refuseMsg m code) := (u.reportTo_sends _ _ _ _).trans (u.refuseMsg_sends m code)
  have tell (u : State) (w : WireChild) : u.Sends (u.reportTo w.src w.id code false) := u.reportTo_sends _ _ _ _
  have lose (u : State) (r : Bool × CtrlRec) : u.Sends (u.loseRec code r.1 r.2) := u.loseRec_sends code r.1 r.2
  have hempty := s.emptyLink_sends l
  rw [State.loseTraffic_eq]
  have hmsgs := State.each_sends (s.emptyLink l) (s.lostMsgs l) refuse
  have hkids := State.each_sends ((s.emptyLink l).each (s.lostMsgs l) (fun s m => s.refuseMsg m code))
    ((s.link l).kept.filterMap (·.child)) tell
  have hrecs (u : State) := State.each_sends u ((s.link l).kept.flatMap (fun f => f.recs.map (fun r => (f.back.isNone, r)))) lose
  refine ⟨((hempty.trans hmsgs).trans hkids).trans (hrecs _), fun f hf => ⟨fun m hm hsrc => ?msg, fun w hw hsrc => ?child,
    fun dst obj arg job ctx core id hr => ?signal⟩⟩
  case msg =>
    have hmem : m ∈ s.lostMsgs l :=
      List.mem_eraseDups.mpr (List.mem_append_left _ (List.mem_filterMap.mpr ⟨f, hf, hm⟩))
    refine (hrecs _).noc.reports _ (hkids.noc.reports _ (State.mem_reports_each hmem refuse fun u hu => ?_))
    exact (u.refuseMsg_sends m code).noc.reports _ (u.mem_reports_reportTo (by rw [hu.own, hempty.own, hsrc]) _ _ _)
  case child =>
    refine (hrecs _).noc.reports _ (State.mem_reports_each (List.mem_filterMap.mpr ⟨f, hf, hw⟩) tell fun u hu => ?_)
    exact u.mem_reports_reportTo (by rw [hu.own, hmsgs.own, hempty.own, hsrc]) _ _ _
  case signal =>
    have hmem : (f.back.isNone, CtrlRec.syncOp dst s.own 3 obj arg job ctx core id) ∈
        (s.link l).kept.flatMap (fun f => f.recs.map (fun r => (f.back.isNone, r))) :=
      List.mem_flatMap.mpr ⟨f, hf, List.mem_map.mpr ⟨_, hr, rfl⟩⟩
    refine State.mem_reports_each hmem lose fun u hu => ?_
    exact u.mem_reports_loseRec (by rw [hu.own, hkids.own, hmsgs.own, hempty.own]) _ _ _ _ _ _ _ _ _

/-! ### A link that goes (R248, R254, R256) -/

theorem State.loseLink_sends (s : State) (l code : Nat) : ((s.loseWaits l).loseTraffic l code).Sends (s.loseLink l code) := by
  unfold State.loseLink
  exact (State.loseCredits_sends _ _).trans (State.loseAwaits_sends _ _)

/-- The loss of a link leaves every link register, every core and every scratchpad alone, and refuses what the link held. -/
theorem State.loseLink_refuses (s : State) (l code : Nat) :
    s.OffLinks [.regs, .noc, .parts, .trc] (s.loseLink l code) ∧ Refused l code s (s.loseLink l code) := by
  obtain ⟨hends, hwaits⟩ := s.loseWaits_releases l
  obtain ⟨hsends, hkept⟩ := (s.loseWaits l).loseTraffic_refuses l code
  have hrest := s.loseLink_sends l code
  have hall := hsends.trans hrest
  have hlink : (s.loseWaits l).link l = s.link l := by unfold State.link; rw [hends.links]
  rw [hlink, hends.offLinks.own] at hkept
  refine ⟨(hends.offLinks.mono (by simp)).trans (hall.offLinks.mono (by simp)), fun f hf => ?kept, fun w hw hl => ?wait⟩
  case kept =>
    obtain ⟨hmsg, hchild, hsignal⟩ := hkept f (List.mem_append.mpr hf.symm)
    exact ⟨fun m hm hsrc => hrest.noc.reports _ (hmsg m hm hsrc), fun w hw hsrc => hrest.noc.reports _ (hchild w hw hsrc),
      fun _ _ _ _ _ _ _ hr => hrest.noc.reports _ (hsignal _ _ _ _ _ _ _ hr)⟩
  case wait =>
    rw [hall.noc.releases]
    exact hwaits w hw hl

/-! ### Registers of a link -/

theorem isSet_setF_one (w : Word) (f : Fld) (h1 : f.lo ≤ f.hi) (h2 : f.hi < 32) : isSet (setF w f 1) f = true := by
  have hwidth : 1 < 2 ^ f.width := Nat.one_lt_two_pow (by unfold Fld.width; omega)
  simp [isSet, getF_setF_self w f 1 h1 h2, Nat.mod_eq_of_lt hwidth]

theorem isSet_setF_zero (w : Word) (f : Fld) (h1 : f.lo ≤ f.hi) (h2 : f.hi < 32) : isSet (setF w f 0) f = false := by
  simp [isSet, getF_setF_self w f 0 h1 h2]

theorem isSet_setF_other (w : Word) (f g : Fld) (x : Nat) (h1 : f.lo ≤ f.hi) (h2 : f.hi < 32) (h3 : g.lo ≤ g.hi)
    (h : g.hi < f.lo ∨ f.hi < g.lo) : isSet (setF w f x) g = isSet w g := by
  unfold isSet
  rw [getF_setF_other w f g x h1 h2 h3 h]

theorem klCtrl_ne_klStat (l : Nat) : R.KL_CTRL l ≠ R.KL_STAT l := by simp only [R.KL_CTRL, R.KL_STAT]; omega

theorem klErr_ne_klStat (l : Nat) : R.KL_ERR l ≠ R.KL_STAT l := by simp only [R.KL_ERR, R.KL_STAT]; omega

theorem klId_ne_klStat (l : Nat) : R.KL_ID ≠ R.KL_STAT l := by simp only [R.KL_ID, R.KL_STAT]; omega

theorem klId_ne_klErr (l : Nat) : R.KL_ID ≠ R.KL_ERR l := by simp only [R.KL_ID, R.KL_ERR]; omega

theorem klId_ne_klCtrl {l : Nat} (h : l < 16) : R.KL_ID ≠ R.KL_CTRL l := by
  simp only [R.KL_CTRL, R.KL_ID]
  omega

theorem State.own_of_rd {s t : State} (h : t.rd R.KL_ID = s.rd R.KL_ID) : t.own = s.own := by unfold State.own State.fld; rw [h]

theorem State.facing_of_own {s t : State} (h : t.own = s.own) (l : Nat) : t.facing l = s.facing l := by unfold State.facing; rw [h]

@[simp] theorem State.link_onLink_self (s : State) (l : Nat) (f : LinkSt → LinkSt) : (s.onLink l f).link l = f (s.link l) :=
  FMap.get_set_self _ _ _ _

theorem State.link_of_noc {s t : State} (h : t.noc = s.noc) (l : Nat) : t.link l = s.link l := by unfold State.link; rw [h]

/-! ### Transitions (R254, R256, R413) -/

/-- KL_STAT as a link enters a state, before the doubt matrix and the event log hear of it. -/
def State.enterState (s : State) (l st : Nat) : State :=
  let s := s.setFld (R.KL_STAT l) F.KL_STAT_STATE st
  if st = klDown then s.setBit (R.KL_STAT l) F.KL_STAT_DOWN_EVT else s

theorem State.enterState_sameBut (s : State) (l st : Nat) : s.SameBut [.regs] (s.enterState l st) := by
  unfold State.enterState
  dsimp only
  split
  · exact (State.SameBut.wr s _ _).trans (.wr _ _ _)
  · exact .wr s _ _

theorem State.rd_enterState_ne (s : State) {l a : Nat} (st : Nat) (ha : a ≠ R.KL_STAT l) : (s.enterState l st).rd a = s.rd a := by
  unfold State.enterState
  dsimp only
  split
  · exact (State.rd_wr_ne _ _ ha).trans (s.rd_wr_ne _ ha)
  · exact s.rd_wr_ne _ ha

theorem State.linkState_enterState (s : State) (l : Nat) {st : Nat} (hst : st < 8) : (s.enterState l st).linkState l = st := by
  have hstate : (s.setFld (R.KL_STAT l) F.KL_STAT_STATE st).linkState l = st :=
    (s.fld_setFld_self _ _ _ (by decide) (by decide)).trans (Nat.mod_eq_of_lt hst)
  unfold State.enterState
  dsimp only
  split
  · exact (State.fld_setFld_other _ _ _ _ _ (by decide) (by decide) (by decide) (by decide)).trans hstate
  · exact hstate

theorem State.downEvt_enterState (s : State) (l : Nat) : (s.enterState l klDown).bit (R.KL_STAT l) F.KL_STAT_DOWN_EVT = true := by
  rw [State.enterState, if_pos rfl, State.bit, State.setBit, State.rd_setFld_self]
  exact isSet_setF_one _ _ (by decide) (by decide)

/-- The doubt matrix hears of a transition as an event of its source, or settles. -/
theorem State.hear_offLinks (s : State) (l : Nat) (lost : Prop) [Decidable lost] :
    s.OffLinks [.regs] (if lost then s.raiseDoubt (doubtLink l) else s.settle) := by
  split
  · exact s.raiseDoubt_offLinks _
  · exact s.settle_offLinks

theorem State.setLinkState_offLinks (s : State) (l st : Nat) : (s.enterState l st).OffLinks [.regs, .host, .trc] (s.setLinkState l st) := by
  unfold State.setLinkState
  dsimp only
  split
  · exact ((State.hear_offLinks _ _ _).mono (by simp)).trans (State.logEvent_offLinks _ _ _)
  · exact (State.hear_offLinks _ _ _).mono (by simp)

/-- A transition to a state other than DOWN and OFF makes no record. -/
theorem State.setLinkState_offLinks_of_stays (s : State) (l : Nat) {st : Nat} (hdown : st ≠ klDown) (hoff : st ≠ klOff) :
    (s.enterState l st).OffLinks [.regs] (s.setLinkState l st) := by
  have hgone : ¬(decide (s.linkState l ≠ st) && (st == klDown || st == klOff)) = true := by simp [hdown, hoff]
  unfold State.setLinkState
  dsimp only
  rw [if_neg hgone]
  exact State.hear_offLinks _ _ _

theorem State.linkState_setLinkState (s : State) {l st : Nat} (hl : l < 16) (hst : st < 8) : (s.setLinkState l st).linkState l = st :=
  ((s.setLinkState_offLinks l st).linkState hl).trans (s.linkState_enterState l hst)

theorem State.rd_setLinkState_ne (s : State) {l a : Nat} (st : Nat) (ha : LinkReg a) (hne : a ≠ R.KL_STAT l) :
    (s.setLinkState l st).rd a = s.rd a :=
  ((s.setLinkState_offLinks l st).rd a ha).trans (s.rd_enterState_ne st hne)

theorem State.noc_setLinkState (s : State) (l st : Nat) : (s.setLinkState l st).noc = s.noc :=
  ((s.setLinkState_offLinks l st).same.noc.resolve_left (by simp)).trans ((s.enterState_sameBut l st).noc.resolve_left (by simp))

/-- What is refused depends on this chip's number and its network alone. -/
theorem refused_congr {l code : Nat} {s u t : State} (hnoc : u.noc = s.noc) (hown : u.own = s.own) (h : Refused l code u t) :
    Refused l code s t := by
  unfold Refused at h ⊢
  rwa [State.link_of_noc hnoc, hown, hnoc] at h

theorem State.dropLink_offLinks (s : State) (l st code : Nat) :
    (s.enterState l st).OffLinks [.regs, .host, .trc, .noc, .parts] (s.dropLink l st code) :=
  ((s.setLinkState_offLinks l st).mono (by simp)).trans ((State.loseLink_refuses _ l code).1.mono (by simp))

theorem State.dropLink_refuses (s : State) (l st code : Nat) : Refused l code s (s.dropLink l st code) :=
  refused_congr (s.noc_setLinkState l st) (State.own_of_rd (s.rd_setLinkState_ne st linkReg_klId (klId_ne_klStat l)))
    (State.loseLink_refuses _ l code).2

theorem State.dropLink_sameScratch (s : State) (l st code : Nat) : s.SameScratch (s.dropLink l st code) :=
  (((s.enterState_sameBut l st).mono (by simp)).trans (s.dropLink_offLinks l st code).same).sameScratch (by simp) (by simp) (by simp)

theorem State.linkState_dropLink (s : State) {l st : Nat} (code : Nat) (hl : l < 16) (hst : st < 8) : (s.dropLink l st code).linkState l = st :=
  ((s.dropLink_offLinks l st code).linkState hl).trans (s.linkState_enterState l hst)

/-- A link that goes DOWN says so, and refuses what it held with LINK_LOST. -/
theorem State.dropLink_down (s : State) {l : Nat} (hl : l < 16) :
    (s.dropLink l klDown mLinkLost).linkState l = klDown ∧ (s.dropLink l klDown mLinkLost).bit (R.KL_STAT l) F.KL_STAT_DOWN_EVT = true
      ∧ Refused l mLinkLost s (s.dropLink l klDown mLinkLost) ∧ s.SameScratch (s.dropLink l klDown mLinkLost) := by
  refine ⟨s.linkState_dropLink _ hl (by decide), ?_, s.dropLink_refuses _ _ _, s.dropLink_sameScratch _ _ _⟩
  rw [State.bit, (s.dropLink_offLinks l klDown mLinkLost).rd _ (linkReg_klStat hl)]
  exact s.downEvt_enterState l

/-! ### Writes of KL_CTRL (R254, R256, R257) -/

/-- What KL_CTRL keeps of a word written: EN, FORCE, RETRY_MAX, LPBK. -/
def klCtrlWord (v : Word) : Word :=
  BitVec.ofNat 32 (bitsOf v.toNat 31 30 * 2 ^ 30 + getF v F.KL_CTRL_RETRY_MAX * 2 ^ 20 + v.toNat % 2)

/-- The top bit of a word written to KL_CTRL stays where it is. -/
theorem klCtrl_top_bit (v retry : Nat) (h : retry < 2 ^ 4) :
    (bitsOf v 31 30 * 2 ^ 30 + retry * 2 ^ 20 + v % 2) % 2 ^ 32 / 2 ^ 31 % 2 = v / 2 ^ 31 % 2 := by
  have htop : v / 2 ^ 31 = v / 2 ^ 30 / 2 := by omega
  rw [htop, bitsOf]
  omega

theorem isSet_klCtrlWord_en (v : Word) : isSet (klCtrlWord v) F.KL_CTRL_EN = isSet v F.KL_CTRL_EN := by
  have hretry : getF v F.KL_CTRL_RETRY_MAX < 2 ^ 4 := Nat.mod_lt _ (by decide)
  have hget : getF (klCtrlWord v) F.KL_CTRL_EN = getF v F.KL_CTRL_EN := by
    rw [getF, klCtrlWord, BitVec.toNat_ofNat]
    exact klCtrl_top_bit v.toNat _ hretry
  unfold isSet
  rw [hget]

section
variable {s : State} {l : Nat} {v : Word}

theorem State.writeKlCtrl_enable (hst : s.linkState l = klOff) (hen : isSet v F.KL_CTRL_EN = true) :
    s.writeKlCtrl l v = (s.wr (R.KL_CTRL l) (klCtrlWord v)).train l := by
  simp [State.writeKlCtrl, klCtrlWord, hst, hen, klOff, klDraining]

theorem State.writeKlCtrl_refused (hst : s.linkState l = klDraining) (hen : isSet v F.KL_CTRL_EN = true) :
    s.writeKlCtrl l v = s.setBit (R.KL_STAT l) F.KL_STAT_CFG_REJECT := by
  simp [State.writeKlCtrl, hst, hen]

theorem State.writeKlCtrl_drain (hst : s.linkState l = klUp) (hen : isSet v F.KL_CTRL_EN = false) (hforce : isSet v F.KL_CTRL_FORCE = false) :
    s.writeKlCtrl l v = (s.wr (R.KL_CTRL l) (klCtrlWord v)).setLinkState l klDraining := by
  simp [State.writeKlCtrl, klCtrlWord, hst, hen, hforce]

theorem State.writeKlCtrl_force (hst : s.linkState l = klUp ∨ s.linkState l = klDraining) (hen : isSet v F.KL_CTRL_EN = false)
    (hforce : isSet v F.KL_CTRL_FORCE = true) :
    s.writeKlCtrl l v = (s.wr (R.KL_CTRL l) (klCtrlWord v)).dropLink l klOff mAborted := by
  simp [State.writeKlCtrl, klCtrlWord, hst, hen, hforce]

theorem State.mayCtrl_of_takes {req : Nat} (hreq : req = 0 ∨ req = 5) (hl : l < 16) (h : s.regTakes (R.KL_CTRL l) = true) :
    s.mayCtrl req l = true := by
  rcases hreq with rfl | rfl <;> simp [State.mayCtrl, mayLink, hl, h]

theorem State.mayCtrl_refused {req : Nat} (h : s.regTakes (R.KL_CTRL l) = false ∨ req ≠ 0 ∧ req ≠ 5) : s.mayCtrl req l = false := by
  rcases h with h | ⟨h0, h5⟩
  · simp [State.mayCtrl, h]
  · simp [State.mayCtrl, mayLink, h0, h5]

end

theorem State.en_of_rd {t : State} {l : Nat} {v : Word} (h : t.rd (R.KL_CTRL l) = klCtrlWord v) :
    t.bit (R.KL_CTRL l) F.KL_CTRL_EN = isSet v F.KL_CTRL_EN := by
  rw [State.bit, h, isSet_klCtrlWord_en]

/-! ### Training (R254, R255, R257, R259) -/

theorem State.train_spec (s : State) {l : Nat} (hl : l < 16) : (s.train l).linkState l = klTraining ∧ (s.train l).link l = .init
    ∧ (s.train l).rd (R.KL_CTRL l) = s.rd (R.KL_CTRL l) ∧ s.SameBut [.regs, .noc] (s.train l) := by
  refine ⟨State.linkState_setLinkState _ hl (by decide), ?_, ?_, ?_⟩
  · exact (State.link_of_noc (State.noc_setLinkState _ l klTraining) l).trans (s.link_onLink_self l _)
  · exact State.rd_setLinkState_ne _ _ (linkReg_klCtrl hl) (klCtrl_ne_klStat l)
  · have hstays := State.setLinkState_offLinks_of_stays (s.onLink l (fun _ => .init)) l (st := klTraining) (by decide) (by decide)
    exact (((State.SameBut.onNoc s _).mono (by simp)).trans ((State.enterState_sameBut _ _ _).mono (by simp))).trans
      (hstays.same.mono (by simp))

/-- The neighbour as training tells it, in KL_STAT, and the training counted. -/
def State.notePeer (s : State) (l clu chip link : Nat) : State :=
  let s := s.setBit (R.KL_STAT l) F.KL_STAT_PEER_VALID
  let s := s.setFld (R.KL_STAT l) F.KL_STAT_PEER_CLU clu
  let s := s.setFld (R.KL_STAT l) F.KL_STAT_PEER_CHIP chip
  let s := s.setFld (R.KL_STAT l) F.KL_STAT_PEER_LINK link
  s.incFld (R.KL_ERR l) F.KL_ERR_TRAIN 1

/-- The credits a link has after training: the flits of each of the neighbour's pools, and 16 for control (R255). -/
def trainedCredits (pools : List (Nat × Nat)) : FMap Nat :=
  (pools.take 4).zipIdx.foldl (fun m p => FMap.set 0 m p.2 p.1.2) (FMap.set 0 [] ctrlPool 16)

/-- A link as training with the right neighbour leaves it. -/
def State.bringUp (s : State) (l : Nat) (pools : List (Nat × Nat)) : State :=
  (s.onLink l (fun _ =>
    { LinkSt.init with peerPools := pools.take 4, credits := trainedCredits pools, pools := s.ownPools l })).setLinkState l klUp

theorem get_foldl_setPools (ps : List (Nat × Nat)) (k : Nat) (m : FMap Nat) (i : Nat) :
    FMap.get 0 ((ps.zipIdx k).foldl (fun m p => FMap.set 0 m p.2 p.1.2) m) i =
      if k ≤ i then (ps[i - k]?).elim (FMap.get 0 m i) (·.2) else FMap.get 0 m i := by
  induction ps generalizing k m with
  | nil => simp
  | cons p ps ih =>
    rw [List.zipIdx_cons, List.foldl_cons, ih]
    rcases lt_trichotomy i k with hlt | rfl | hgt
    · rw [if_neg (by omega), if_neg (by omega), FMap.get_set_ne _ _ _ (by omega)]
    · rw [if_neg (by omega), if_pos le_rfl, FMap.get_set_self, Nat.sub_self]
      rfl
    · rw [if_pos (by omega), if_pos (by omega), FMap.get_set_ne _ _ _ (by omega), show i - k = (i - (k + 1)) + 1 by omega,
        List.getElem?_cons_succ]

theorem get_trainedCredits {pools : List (Nat × Nat)} {i : Nat} {q : Nat × Nat} (hi : i < 4) (hq : pools[i]? = some q) :
    FMap.get 0 (trainedCredits pools) i = q.2 := by
  rw [trainedCredits, get_foldl_setPools, if_pos (Nat.zero_le i), Nat.sub_zero, List.getElem?_take_of_lt hi, hq]
  rfl

theorem get_trainedCredits_ctrl (pools : List (Nat × Nat)) : FMap.get 0 (trainedCredits pools) 4 = 16 := by
  rw [trainedCredits, get_foldl_setPools, if_pos (Nat.zero_le 4), List.getElem?_take_eq_none (by decide)]
  rfl

section
variable (s : State) (l clu chip link : Nat)

theorem State.rd_notePeer : (s.notePeer l clu chip link).rd (R.KL_STAT l) =
    setF (setF (setF (setF (s.rd (R.KL_STAT l)) F.KL_STAT_PEER_VALID 1) F.KL_STAT_PEER_CLU clu) F.KL_STAT_PEER_CHIP chip)
      F.KL_STAT_PEER_LINK link := by
  rw [State.notePeer, State.incFld, State.rd_setFld_ne _ _ _ (klErr_ne_klStat l).symm]
  simp only [State.setBit, State.rd_setFld_self]

theorem State.rd_notePeer_ne {a : Nat} (hstat : a ≠ R.KL_STAT l) (herr : a ≠ R.KL_ERR l) : (s.notePeer l clu chip link).rd a = s.rd a := by
  simp only [State.notePeer, State.incFld, State.setBit, State.rd_setFld_ne _ _ _ hstat, State.rd_setFld_ne _ _ _ herr]

theorem State.notePeer_sameBut : s.SameBut [.regs] (s.notePeer l clu chip link) :=
  ((((State.SameBut.wr s _ _).trans (.wr _ _ _)).trans (.wr _ _ _)).trans (.wr _ _ _)).trans (.wr _ _ _)

theorem State.facing_notePeer : (s.notePeer l clu chip link).facing l = s.facing l :=
  State.facing_of_own (State.own_of_rd (s.rd_notePeer_ne l clu chip link (klId_ne_klStat l) (klId_ne_klErr l))) l

theorem exec_trainingEnd_looped (pools : List (Nat × Nat)) (h : s.bit (R.KL_CTRL l) F.KL_CTRL_LPBK = true) :
    exec (.trainingEnd l clu chip link pools) s = .next s :=
  congrArg Host.Outcome.next (if_neg (by simp [h]))

theorem exec_trainingEnd (pools : List (Nat × Nat)) (hst : s.linkState l = klTraining) (h : s.bit (R.KL_CTRL l) F.KL_CTRL_LPBK = false) :
    exec (.trainingEnd l clu chip link pools) s = .next
      (if (clu, chip, link) = s.facing l then (s.notePeer l clu chip link).bringUp l pools
        else (s.notePeer l clu chip link).setBit (R.KL_STAT l) F.KL_STAT_MISWIRE) := by
  rw [← s.facing_notePeer l clu chip link]
  exact congrArg Host.Outcome.next (if_pos (by simp [h, hst]))

end

/-! ### Routes (R260) -/

/-- The bits of a sum of different powers of two are those summed. -/
theorem bitOf_foldl_two_pow {l : List Nat} (h : l.SortedLT) (k : Nat) : bitOf (l.foldl (fun m i => m + 2 ^ i) 0) k = true ↔ k ∈ l := by
  have hsum : l.foldl (fun m i => m + 2 ^ i) 0 = (l.map (2 ^ ·)).sum := by rw [List.sum_eq_foldl, List.foldl_map]
  rw [hsum, bitOf, ← Nat.testBit_eq_decide_div_mod_eq, ← Nat.mem_bitIndices, Nat.bitIndices_sum_map_two_pow h]

/-- The routes use the links and the other chips' links that are up now. -/
def State.useLinks (s : State) : State :=
  s.onNoc (fun n => { n with
    linksUsed := ((List.range 16).filter (fun l => s.linkState l == klUp)).foldl (fun m l => m + 2 ^ l) 0, peersUsed := n.peersUp })

theorem State.bitOf_linksUsed_useLinks (s : State) {k : Nat} (hk : k < 16) :
    bitOf s.useLinks.noc.linksUsed k = true ↔ s.linkState k = klUp := by
  have hsorted : ((List.range 16).filter (fun l => s.linkState l == klUp)).SortedLT :=
    (List.pairwise_lt_range.filter _).sortedLT
  exact (bitOf_foldl_two_pow hsorted k).trans (by simp [hk])

/-- After the links in use are set, an evaluation of the routes only sends: route updates, refusals, reports. -/
theorem exec_routeEvaluation (s : State) : ∃ t, exec .routeEvaluation s = .next t ∧ s.useLinks.Sends t := by
  refine ⟨_, rfl, State.Sends.trans ?refusals ((State.loseCredits_sends _ _).trans (State.loseAwaits_sends _ _))⟩
  case refusals =>
    refine State.Sends.trans (State.Sends.trans ?updates (State.Sends.onNoc _ _ ⟨rfl, rfl, rfl, fun _ h => h⟩))
      (State.each_sends _ _ fun u _ => u.sendReport_sends _)
    case updates => exact State.each_sends _ _ fun u l => u.each_sends _ fun v k => v.enqueue_sends k _

/-! ### The commands of a link -/

/-- KL_CTRL with EN written 1. -/
def enableWord (w : Word) : Word := setF w F.KL_CTRL_EN 1

/-- KL_CTRL with EN written 0, and FORCE as given. -/
def disableWord (w : Word) (force : Nat) : Word := setF (setF w F.KL_CTRL_EN 0) F.KL_CTRL_FORCE force

theorem en_enableWord (w : Word) : isSet (enableWord w) F.KL_CTRL_EN = true := isSet_setF_one _ _ (by decide) (by decide)

theorem en_disableWord (w : Word) (force : Nat) : isSet (disableWord w force) F.KL_CTRL_EN = false := by
  rw [disableWord, isSet_setF_other _ _ _ _ (by decide) (by decide) (by decide) (by decide), isSet_setF_zero _ _ (by decide) (by decide)]

theorem force_disableWord_zero (w : Word) : isSet (disableWord w 0) F.KL_CTRL_FORCE = false := isSet_setF_zero _ _ (by decide) (by decide)

theorem force_disableWord_one (w : Word) : isSet (disableWord w 1) F.KL_CTRL_FORCE = true := isSet_setF_one _ _ (by decide) (by decide)

theorem exec_linkCommands_refused (s : State) {req l : Nat} (h : s.mayCtrl req l = false) :
    exec (.linkEnable req l) s = .next s ∧ exec (.linkDrain req l) s = .next s ∧ exec (.linkForcedDisable req l) s = .next s :=
  have hno : ¬s.mayCtrl req l = true := by simp [h]
  ⟨congrArg Host.Outcome.next (if_neg hno), congrArg Host.Outcome.next (if_neg hno), congrArg Host.Outcome.next (if_neg hno)⟩

section
variable {s : State} {req l : Nat}

theorem exec_linkEnable (h : s.mayCtrl req l = true) :
    exec (.linkEnable req l) s = .next (s.writeKlCtrl l (enableWord (s.rd (R.KL_CTRL l)))) := congrArg Host.Outcome.next (if_pos h)

theorem exec_linkDrain (h : s.mayCtrl req l = true) :
    exec (.linkDrain req l) s = .next (s.writeKlCtrl l (disableWord (s.rd (R.KL_CTRL l)) 0)) := congrArg Host.Outcome.next (if_pos h)

theorem exec_linkForcedDisable (h : s.mayCtrl req l = true) :
    exec (.linkForcedDisable req l) s = .next (s.writeKlCtrl l (disableWord (s.rd (R.KL_CTRL l)) 1)) :=
  congrArg Host.Outcome.next (if_pos h)

theorem linkEnable_off (hl : l < 16) (hmay : s.mayCtrl req l = true) (hst : s.linkState l = klOff) :
    ∃ t, exec (.linkEnable req l) s = .next t ∧ t.linkState l = klTraining ∧ t.bit (R.KL_CTRL l) F.KL_CTRL_EN = true
      ∧ t.link l = .init ∧ s.SameBut [.regs, .noc] t := by
  have hen := en_enableWord (s.rd (R.KL_CTRL l))
  obtain ⟨hstate, hlink, hctrl, hsame⟩ := (s.wr (R.KL_CTRL l) (klCtrlWord (enableWord (s.rd (R.KL_CTRL l))))).train_spec hl
  exact ⟨_, (exec_linkEnable hmay).trans (congrArg _ (State.writeKlCtrl_enable hst hen)), hstate,
    (State.en_of_rd (hctrl.trans (s.rd_wr_self _ _))).trans hen, hlink, ((State.SameBut.wr s _ _).mono (by simp)).trans hsame⟩

theorem linkEnable_draining (hmay : s.mayCtrl req l = true) (hst : s.linkState l = klDraining) :
    ∃ t, exec (.linkEnable req l) s = .next t ∧ t.bit (R.KL_STAT l) F.KL_STAT_CFG_REJECT = true ∧ t.linkState l = klDraining
      ∧ s.SameRegs [R.KL_STAT l] t ∧ s.SameBut [.regs] t := by
  refine ⟨_, (exec_linkEnable hmay).trans (congrArg _ (State.writeKlCtrl_refused hst (en_enableWord _))), ?_, ?_, ?_, .wr s _ _⟩
  · rw [State.bit, State.setBit, State.rd_setFld_self]
    exact isSet_setF_one _ _ (by decide) (by decide)
  · exact (s.fld_setFld_other _ _ _ _ (by decide) (by decide) (by decide) (by decide)).trans hst
  · exact fun a ha => s.rd_setFld_ne _ _ (by simpa using ha)

theorem linkDrain_up (hl : l < 16) (hmay : s.mayCtrl req l = true) (hst : s.linkState l = klUp) :
    ∃ t, exec (.linkDrain req l) s = .next t ∧ t.linkState l = klDraining ∧ t.bit (R.KL_CTRL l) F.KL_CTRL_EN = false
      ∧ s.SameBut [.regs] t := by
  have hen := en_disableWord (s.rd (R.KL_CTRL l)) 0
  refine ⟨_, (exec_linkDrain hmay).trans (congrArg _ (State.writeKlCtrl_drain hst hen (force_disableWord_zero _))),
    State.linkState_setLinkState _ hl (by decide), (State.en_of_rd ?_).trans hen, ?_⟩
  · exact (State.rd_setLinkState_ne _ _ (linkReg_klCtrl hl) (klCtrl_ne_klStat l)).trans (s.rd_wr_self _ _)
  · exact ((State.SameBut.wr s _ _).trans (State.enterState_sameBut _ _ _)).trans
      (State.setLinkState_offLinks_of_stays _ l (by decide) (by decide)).same

theorem State.sameScratch_of_wr {s t : State} {a : Nat} {v : Word} (h : (s.wr a v).SameScratch t) : s.SameScratch t := h

theorem linkForcedDisable_live (hl : l < 16) (hmay : s.mayCtrl req l = true) (hst : s.linkState l = klUp ∨ s.linkState l = klDraining) :
    ∃ t, exec (.linkForcedDisable req l) s = .next t ∧ t.linkState l = klOff ∧ t.bit (R.KL_CTRL l) F.KL_CTRL_EN = false
      ∧ Refused l mAborted s t ∧ s.SameScratch t := by
  have hen := en_disableWord (s.rd (R.KL_CTRL l)) 1
  refine ⟨_, (exec_linkForcedDisable hmay).trans (congrArg _ (State.writeKlCtrl_force hst hen (force_disableWord_one _))),
    State.linkState_dropLink _ _ hl (by decide), (State.en_of_rd ?_).trans hen, ?_,
    State.sameScratch_of_wr (State.dropLink_sameScratch _ _ _ _)⟩
  · exact (((State.dropLink_offLinks _ l klOff mAborted).rd _ (linkReg_klCtrl hl)).trans
      (State.rd_enterState_ne _ _ (klCtrl_ne_klStat l))).trans (s.rd_wr_self _ _)
  · refine refused_congr (s.wr_noc _ _) (State.own_of_rd (s.rd_wr_ne _ ?_)) (State.dropLink_refuses _ l klOff mAborted)
    exact klId_ne_klCtrl hl

end

/-- A drain ends once nothing waits and all is acknowledged. -/
theorem linkDrainEnd_drained {s : State} {l : Nat} (hl : l < 16) (hst : s.linkState l = klDraining) (htxq : (s.link l).txq = [])
    (hunacked : (s.link l).unacked = []) : ∃ t, exec (.linkDrainEnd l) s = .next t ∧ t.linkState l = klOff ∧ s.SameScratch t :=
  ⟨s.dropLink l klOff mLinkLost, congrArg Host.Outcome.next (if_pos ⟨hst, htxq, hunacked⟩), s.linkState_dropLink _ hl (by decide),
    s.dropLink_sameScratch _ _ _⟩

theorem trainingRetry_trains {s : State} {l : Nat} (hl : l < 16) (hen : s.bit (R.KL_CTRL l) F.KL_CTRL_EN = true)
    (hst : s.linkState l = klTraining ∨ s.linkState l = klDown) :
    ∃ t, exec (.trainingRetry l) s = .next t ∧ t.linkState l = klTraining ∧ t.link l = .init ∧ s.SameBut [.regs, .noc] t := by
  obtain ⟨hstate, hlink, -, hsame⟩ := s.train_spec hl
  exact ⟨_, congrArg Host.Outcome.next (if_pos ⟨hen, hst⟩), hstate, hlink, hsame⟩

theorem exec_peerLinkLoss {s : State} {l : Nat} (hst : s.linkState l = klUp ∨ s.linkState l = klDraining) :
    exec (.peerLinkLoss l) s = .next (s.dropLink l klDown mLinkLost) := congrArg Host.Outcome.next (if_pos hst)

theorem exec_linkDown {s : State} {l : Nat} (hst : s.linkState l = klUp ∨ s.linkState l = klDraining) (h1 : 1 ≤ (s.link l).resends)
    (hmax : s.fld (R.KL_CTRL l) F.KL_CTRL_RETRY_MAX ≤ (s.link l).resends) :
    exec (.linkDown l) s = .next (s.dropLink l klDown mLinkLost) :=
  congrArg Host.Outcome.next (if_pos ⟨hst, max_le h1 hmax⟩)

/-! ### The end of training -/

section
variable {s : State} {l clu chip link : Nat} (pools : List (Nat × Nat))

/-- KL_STAT of a link that training has brought up. -/
theorem State.rd_bringUp (hl : l < 16) (u : State) :
    (u.bringUp l pools).rd (R.KL_STAT l) = setF (u.rd (R.KL_STAT l)) F.KL_STAT_STATE klUp :=
  ((State.setLinkState_offLinks _ l klUp).rd _ (linkReg_klStat hl)).trans (State.rd_setFld_self _ _ _ _)

/-- A link that is up names its neighbour in KL_STAT. -/
theorem State.peer_bringUp (s : State) (hl : l < 16) (hclu : clu < 32) (hchip : chip < 16) (hlink : link < 16) :
    ((s.notePeer l clu chip link).bringUp l pools).bit (R.KL_STAT l) F.KL_STAT_PEER_VALID = true
    ∧ ((s.notePeer l clu chip link).bringUp l pools).fld (R.KL_STAT l) F.KL_STAT_PEER_CLU = clu
    ∧ ((s.notePeer l clu chip link).bringUp l pools).fld (R.KL_STAT l) F.KL_STAT_PEER_CHIP = chip
    ∧ ((s.notePeer l clu chip link).bringUp l pools).fld (R.KL_STAT l) F.KL_STAT_PEER_LINK = link := by
  simp (disch := decide) only [State.bit, State.fld, State.rd_bringUp pools hl, s.rd_notePeer, isSet_setF_other, isSet_setF_one,
    getF_setF_other, getF_setF_self]
  exact ⟨trivial, Nat.mod_eq_of_lt hclu, Nat.mod_eq_of_lt hchip, Nat.mod_eq_of_lt hlink⟩

theorem State.link_bringUp (u : State) : (u.bringUp l pools).link l =
    { LinkSt.init with peerPools := pools.take 4, credits := trainedCredits pools, pools := u.ownPools l } :=
  (State.link_of_noc (State.noc_setLinkState _ l klUp) l).trans (u.link_onLink_self l _)

theorem State.bringUp_sameBut (u : State) : u.SameBut [.regs, .noc] (u.bringUp l pools) :=
  (((State.SameBut.onNoc u _).mono (by simp)).trans ((State.enterState_sameBut _ l klUp).mono (by simp))).trans
    ((State.setLinkState_offLinks_of_stays _ l (by decide) (by decide)).same.mono (by simp))

/-- MISWIRE is set in KL_STAT, and the link stays in training. -/
theorem State.miswire_spec (hst : s.linkState l = klTraining) :
    ((s.notePeer l clu chip link).setBit (R.KL_STAT l) F.KL_STAT_MISWIRE).linkState l = klTraining
    ∧ ((s.notePeer l clu chip link).setBit (R.KL_STAT l) F.KL_STAT_MISWIRE).bit (R.KL_STAT l) F.KL_STAT_MISWIRE = true
    ∧ s.SameRegs [R.KL_STAT l, R.KL_ERR l] ((s.notePeer l clu chip link).setBit (R.KL_STAT l) F.KL_STAT_MISWIRE)
    ∧ s.SameBut [.regs] ((s.notePeer l clu chip link).setBit (R.KL_STAT l) F.KL_STAT_MISWIRE) := by
  refine ⟨?_, ?_, fun a ha => ?_, (s.notePeer_sameBut l clu chip link).trans (.wr _ _ _)⟩
  · rw [State.linkState, State.fld, State.setBit, State.rd_setFld_self, s.rd_notePeer]
    simp (disch := decide) only [getF_setF_other]
    exact hst
  · rw [State.bit, State.setBit, State.rd_setFld_self]
    exact isSet_setF_one _ _ (by decide) (by decide)
  · simp only [List.mem_cons, List.not_mem_nil, or_false, not_or] at ha
    exact (State.rd_setFld_ne _ _ _ ha.1).trans (s.rd_notePeer_ne l clu chip link ha.1 ha.2)

end

/-- Settles O43: each command by what its branch does; a link that goes by the frame of `dropLink` and by what `loseLink` refuses. -/
theorem linkStates : Obligations.LinkStates := by
  intro s l hl
  refine ⟨?control, ?refused, ?looped, ?drained, ?trained, ?retry, ?gone, ?routes, rfl⟩
  case control =>
    intro req hreq htakes
    have hmay := State.mayCtrl_of_takes hreq hl htakes
    exact ⟨linkEnable_off hl hmay, linkEnable_draining hmay, linkDrain_up hl hmay, linkForcedDisable_live hl hmay⟩
  case refused =>
    intro req c hc h
    obtain ⟨henable, hdrain, hdisable⟩ := exec_linkCommands_refused s (State.mayCtrl_refused h)
    rcases hc with rfl | rfl | rfl
    · exact henable
    · exact hdrain
    · exact hdisable
  case looped => exact fun clu chip link pools h => exec_trainingEnd_looped s l clu chip link pools h
  case drained => exact linkDrainEnd_drained hl
  case trained =>
    intro clu chip link pools hst hlpbk hclu hchip hlink
    refine ⟨fun hfacing => ⟨(s.notePeer l clu chip link).bringUp l pools, ?_, ?_, ?_⟩,
      fun hfacing => ⟨(s.notePeer l clu chip link).setBit (R.KL_STAT l) F.KL_STAT_MISWIRE, ?_, State.miswire_spec hst⟩⟩
    · rw [exec_trainingEnd s l clu chip link pools hst hlpbk, if_pos hfacing.symm]
    · exact State.linkState_setLinkState _ hl (by decide)
    · obtain ⟨hvalid, hpeerClu, hpeerChip, hpeerLink⟩ := s.peer_bringUp pools hl hclu hchip hlink
      rw [State.link_bringUp]
      exact ⟨hvalid, hpeerClu, hpeerChip, hpeerLink, fun i q hi hq => get_trainedCredits hi hq, get_trainedCredits_ctrl pools, rfl, rfl, rfl,
        ((s.notePeer_sameBut l clu chip link).mono (by simp)).trans (State.bringUp_sameBut _ _)⟩
    · rw [exec_trainingEnd s l clu chip link pools hst hlpbk, if_neg (Ne.symm hfacing)]
  case retry => exact trainingRetry_trains hl
  case gone =>
    intro hst
    exact ⟨⟨_, exec_peerLinkLoss hst, s.dropLink_down hl⟩, fun h1 hmax => ⟨_, exec_linkDown hst h1 hmax, s.dropLink_down hl⟩⟩
  case routes =>
    obtain ⟨t, hexec, hsends⟩ := exec_routeEvaluation s
    refine ⟨t, hexec, fun k hk => ?_, hsends.noc.peersUsed, ((State.SameBut.onNoc s _).mono (by simp)).trans hsends.same⟩
    rw [hsends.noc.linksUsed]
    exact s.bitOf_linksUsed_useLinks hk

end Sys2Proof.Machine

/-! Instructions of a core, its operations and its faults (R54-R105). -/

namespace Sys2Proof.Machine

/-! ### What a frame says of registers, cores and partitions -/

section
variable {l : List Piece} {s t : State}

theorem State.SameBut.rd_eq (h : s.SameBut l t) (hl : .regs ∉ l) (a : Nat) : t.rd a = s.rd a := by
  unfold State.rd; rw [h.regs.resolve_left hl]

theorem State.SameBut.core_eq (h : s.SameBut l t) (hl : .cores ∉ l) (c : Nat) : t.core c = s.core c := by
  unfold State.core; rw [h.cores.resolve_left hl]

theorem State.SameBut.slot_eq (h : s.SameBut l t) (hl : .cores ∉ l) (c k : Nat) : t.slot c k = s.slot c k := by
  unfold State.slot; rw [h.core_eq hl]

theorem State.SameBut.part_eq (h : s.SameBut l t) (hl : .parts ∉ l) (p : Nat) : t.part p = s.part p := by
  unfold State.part; rw [h.parts.resolve_left hl]

theorem State.SameBut.ctx_eq (h : s.SameBut l t) (hl : .parts ∉ l) (p x : Nat) : t.ctx p x = s.ctx p x := by
  unfold State.ctx; rw [h.part_eq hl]

end

theorem State.SameScratch.refl (s : State) : s.SameScratch s := ⟨fun _ => rfl, rfl, rfl⟩

theorem State.SameScratch.trans {s t u : State} (h : s.SameScratch t) (g : t.SameScratch u) : s.SameScratch u :=
  ⟨fun a => (g.1 a).trans (h.1 a), g.2.1.trans h.2.1, g.2.2.trans h.2.2⟩

theorem State.Checked.sameScratch {c : Nat} {s t : State} (h : s.Checked c t) : s.SameScratch t :=
  ⟨fun a => by rw [h.scratch], h.marks.1, h.marks.2⟩

theorem State.SameBut.onCore (s : State) (c : Nat) (f : CoreSt → CoreSt) : s.SameBut [.cores] (s.onCore c f) := by constructor <;> simp

theorem State.SameBut.onSlot (s : State) (c k : Nat) (f : Slot → Slot) : s.SameBut [.cores] (s.onSlot c k f) := by constructor <;> simp

theorem State.SameBut.setFld (s : State) (a : Nat) (f : Fld) (x : Nat) : s.SameBut [.regs] (s.setFld a f x) := .wr s _ _

theorem State.SameBut.onCtx (s : State) (p x : Nat) (f : CtxSt → CtxSt) : s.SameBut [.parts] (s.onCtx p x f) := .onPart s _ _

/-! ### Partitions and contexts after an update -/

theorem State.part_onPart (s : State) (p q : Nat) (f : PartSt → PartSt) :
    (s.onPart p f).part q = if q = p then f (s.part p) else s.part q := FMap.get_set _ _ _ _ _

@[simp] theorem State.part_onPart_self (s : State) (p : Nat) (f : PartSt → PartSt) : (s.onPart p f).part p = f (s.part p) := by
  simp [s.part_onPart]

theorem State.ctx_onCtx (s : State) (p x q y : Nat) (f : CtxSt → CtxSt) :
    (s.onCtx p x f).ctx q y = if q = p ∧ y = x then f (s.ctx p x) else s.ctx q y := by
  unfold State.onCtx State.ctx
  rw [s.part_onPart]
  by_cases hq : q = p
  · subst hq
    simp only [↓reduceIte, true_and]
    exact FMap.get_set _ _ _ _ _
  · simp [hq]

@[simp] theorem State.ctx_onCtx_self (s : State) (p x : Nat) (f : CtxSt → CtxSt) : (s.onCtx p x f).ctx p x = f (s.ctx p x) := by
  simp [s.ctx_onCtx]

/-! ### Registers of a core and drop counters -/

theorem chanOf_lt (c : Nat) : chanOf c < 4 := Nat.mod_lt _ (by decide)

theorem posOf_lt (c : Nat) : posOf c < 256 := Nat.mod_lt _ (by decide)

theorem statReg_lt (c : Nat) : statReg c < 0x02000000 := by
  have := chanOf_lt c; have := posOf_lt c
  unfold statReg R.CORE_STAT; omega

theorem winReg_lt (c : Nat) {k : Nat} (hk : k < 4) : winReg c k + 4 < 0x02000000 := by
  have := chanOf_lt c; have := posOf_lt c
  unfold winReg R.CORE_WIN_CFG; omega

theorem ne_drop_of_lt {a : Nat} (h : a < 0x02000000) (m : Nat) : a ≠ R.CH_TRC_DROP m := by
  unfold R.CH_TRC_DROP; omega

theorem winReg_notEcc (c : Nat) {k : Nat} (hk : k < 4) : winReg c k ∉ eccRegs c ∧ winReg c k + 8 ∉ eccRegs c := by
  unfold eccRegs winReg R.CORE_WIN_CFG R.CORE_ECC_STAT R.CORE_FENCE_CNT R.CORE_ECC_LAST
  simp only [List.mem_cons, List.not_mem_nil, or_false]
  omega

theorem klId_notEcc (c : Nat) : R.KL_ID ∉ eccRegs c := by
  have := chanOf_lt c; have := posOf_lt c
  unfold eccRegs R.KL_ID R.CORE_ECC_STAT R.CORE_FENCE_CNT R.CORE_ECC_LAST
  simp only [List.mem_cons, List.not_mem_nil, or_false]
  omega

/-! ### Trace records -/

theorem State.mark_sameBut (s : State) (r : TraceRec) : s.SameBut [.regs, .trc] (s.mark r) := by
  obtain e | ⟨t, e⟩ | ⟨t, e⟩ := s.mark_eq r <;> rw [e] <;> constructor <;> simp

theorem State.rd_mark_of_lt (s : State) (r : TraceRec) {a : Nat} (h : a < 0x02000000) : (s.mark r).rd a = s.rd a :=
  s.rd_mark r a (ne_drop_of_lt h _)

theorem State.markCp_sameBut (s : State) (ch event : Nat) (own : Nat × Nat) (arg : Nat) :
    s.SameBut [.regs, .trc] (s.markCp ch event own arg) := s.mark_sameBut _

theorem State.rd_markCp_of_lt (s : State) (ch event : Nat) (own : Nat × Nat) (arg : Nat) {a : Nat} (h : a < 0x02000000) :
    (s.markCp ch event own arg).rd a = s.rd a := s.rd_mark_of_lt _ h

theorem State.markCore_sameBut (s : State) (c unit event : Nat) (own : Nat × Nat) (tok pc : Nat) :
    s.SameBut [.regs, .trc, .fresh] (s.markCore c unit event own tok pc) := by
  have hdraw : s.SameBut [.fresh] s.draw.2 := by constructor <;> simp
  unfold State.markCore
  dsimp only
  split
  · exact (hdraw.mono (by simp)).trans ((State.mark_sameBut _ _).mono (by simp))
  · exact .refl s _

theorem State.rd_markCore_of_lt (s : State) (c unit event : Nat) (own : Nat × Nat) (tok pc : Nat) {a : Nat} (h : a < 0x02000000) :
    (s.markCore c unit event own tok pc).rd a = s.rd a := by
  unfold State.markCore
  dsimp only
  split
  · exact State.rd_mark_of_lt s.draw.2 _ h
  · rfl

/-! ### The first fault of a context (R81-R85) -/

theorem b2n_le_one (b : Bool) : b2n b ≤ 1 := by cases b <;> decide

theorem faultWord_toNat (cls : Nat) (precise : Bool) (tok : Option Nat) (h : cls < 256) : (faultWord cls precise tok).toNat =
    2 ^ 31 + 2 ^ 16 + b2n precise * 2 ^ 13 + b2n tok.isSome * 2 ^ 12 + tok.getD 0 % 16 * 2 ^ 8 + cls := by
  have hp := b2n_le_one precise
  have ht := b2n_le_one tok.isSome
  rw [faultWord, BitVec.toNat_ofNat]
  omega

theorem faultWord_class (cls : Nat) (precise : Bool) (tok : Option Nat) (h : cls < 256) :
    getF (faultWord cls precise tok) F.CORE_CTX_FAULT_CLASS = cls := by
  simp only [getF, bitsOf, faultWord_toNat cls precise tok h, F.CORE_CTX_FAULT_CLASS]
  omega

theorem faultWord_token (cls : Nat) (precise : Bool) {t : Nat} (h : cls < 256) (ht : t < 16) :
    getF (faultWord cls precise (some t)) F.CORE_CTX_FAULT_TOKEN = t := by
  simp only [getF, bitsOf, faultWord_toNat cls precise (some t) h, F.CORE_CTX_FAULT_TOKEN, Option.getD_some, Option.isSome_some]
  omega

theorem faultWord_imprecise (cls : Nat) (tok : Option Nat) (h : cls < 256) :
    isSet (faultWord cls false tok) F.CORE_CTX_FAULT_PRECISE = false := by
  have ht := b2n_le_one tok.isSome
  simp only [isSet, getF, bitsOf, faultWord_toNat cls false tok h, F.CORE_CTX_FAULT_PRECISE, b2n]
  simp only [b2n] at ht
  simp only [Bool.false_eq_true, ↓reduceIte, ne_eq, decide_not, Bool.not_eq_false', decide_eq_true_eq]
  omega

/-- The pc that a fault record holds (R81). -/
theorem getF_fpc (pc : Nat) : getF (BitVec.ofNat 32 (bitsOf pc 21 2 * 4)) F.CORE_CTX_FPC_FPC = bitsOf pc 21 2 := by
  have : bitsOf pc 21 2 < 2 ^ 20 := Nat.mod_lt _ (by decide)
  simp only [getF, bitsOf, F.CORE_CTX_FPC_FPC, BitVec.toNat_ofNat] at this ⊢
  omega

/-- What the first fault of a slot leaves: its registers, the bank with the time and rank of the fault, and, where the slot's context
runs, a halted core. -/
structure State.RecordsFirst (c k cls pc faddr : Nat) (precise : Bool) (tok order : Option Nat) (u t : State) : Prop where
  fault : t.rd (R.CORE_CTX_FAULT (chanOf c) (posOf c) k) = faultWord cls precise tok
  fpc : t.rd (R.CORE_CTX_FPC (chanOf c) (posOf c) k) = BitVec.ofNat 32 (bitsOf pc 21 2 * 4)
  faddr : t.rd (R.CORE_CTX_FADDR (chanOf c) (posOf c) k) = BitVec.ofNat 32 faddr
  slot : t.slot c k = { u.slot c k with faultAt := u.tb2, rank := some ⟨u.now, order⟩ }
  halts : u.isRunning c = true → u.active c = k →
    (t.core c).stopped = true ∧ (t.core c).wait = (u.core c).wait ∧ (t.core c).ops = (u.core c).ops.filter (fun o => !o.kind.ofArray)
  same : u.SameBut [.regs, .cores, .trc] t

theorem State.record_sameBut (u : State) (c k cls pc faddr : Nat) (precise : Bool) (tok order : Option Nat) :
    u.SameBut [.regs, .cores] (u.record c k cls pc faddr precise tok order) :=
  (((State.SameBut.onSlot u c k _).mono (by simp)).trans ((State.SameBut.wr _ _ _).mono (by simp))).trans
    (((State.SameBut.wr _ _ _).mono (by simp)).trans ((State.SameBut.wr _ _ _).mono (by simp)))

theorem State.rd_record_fault (u : State) (c : Nat) {k : Nat} (hk : k < 4) (cls pc faddr : Nat) (precise : Bool) (tok order : Option Nat) :
    (u.record c k cls pc faddr precise tok order).rd (R.CORE_CTX_FAULT (chanOf c) (posOf c) k) = faultWord cls precise tok
    ∧ (u.record c k cls pc faddr precise tok order).rd (R.CORE_CTX_FPC (chanOf c) (posOf c) k) = BitVec.ofNat 32 (bitsOf pc 21 2 * 4)
    ∧ (u.record c k cls pc faddr precise tok order).rd (R.CORE_CTX_FADDR (chanOf c) (posOf c) k) = BitVec.ofNat 32 faddr
    ∧ (u.record c k cls pc faddr precise tok order).rd (statReg c) = u.rd (statReg c) := by
  obtain ⟨hFaultFpc, hFaultFaddr, hFpcFaddr, hFaultStat, hFpcStat, hFaddrStat⟩ := coreKeys_ne (chanOf c) (posOf c) k hk
  unfold State.record statReg
  refine ⟨?_, ?_, State.rd_wr_self _ _ _, ?_⟩
  all_goals dsimp only
  · rw [State.rd_wr_ne _ _ hFaultFaddr, State.rd_wr_ne _ _ hFaultFpc, State.rd_wr_self]
  · rw [State.rd_wr_ne _ _ hFpcFaddr, State.rd_wr_self]
  · rw [State.rd_wr_ne _ _ hFaddrStat.symm, State.rd_wr_ne _ _ hFpcStat.symm, State.rd_wr_ne _ _ hFaultStat.symm]
    rfl

/-- The slot's bit in FAULTED and the trace record of a fault leave every other register and field of a core alone. -/
theorem State.noteFaulted_frame (v : State) (c x : Nat) (own : Nat × Nat) (cls : Nat) :
    let z := (v.setFld (statReg c) F.CORE_STAT_FAULTED x).markCp (chanOf c) tvFault own cls
    v.SameBut [.regs, .trc] z ∧ (∀ a, a < 0x02000000 → a ≠ statReg c → z.rd a = v.rd a)
      ∧ z.isRunning c = v.isRunning c ∧ z.active c = v.active c := by
  intro z
  have hrd (a : Nat) (ha : a < 0x02000000) : z.rd a = (v.setFld (statReg c) F.CORE_STAT_FAULTED x).rd a := State.rd_markCp_of_lt _ _ _ _ _ ha
  refine ⟨((State.SameBut.setFld v _ _ _).mono (by simp)).trans (State.markCp_sameBut _ _ _ _ _),
    fun a ha hne => (hrd a ha).trans (v.rd_setFld_ne _ _ hne), ?_, ?_⟩
  · rw [State.isRunning, State.bit, isSet, hrd _ (statReg_lt c), State.rd_setFld_self,
      getF_setF_other _ _ _ _ (by decide) (by decide) (by decide) (by decide)]
    rfl
  · show getF (z.rd (statReg c)) _ = _
    rw [hrd _ (statReg_lt c), State.rd_setFld_self, getF_setF_other _ _ _ _ (by decide) (by decide) (by decide) (by decide)]
    rfl

/-- R84, R85: a fault of a context without a recorded one is recorded. -/
theorem State.raiseAt_first {u : State} {c k : Nat} (cls pc faddr : Nat) (precise : Bool) (tok order : Option Nat) (hk : k < 4)
    (hclean : u.bit (R.CORE_CTX_FAULT (chanOf c) (posOf c) k) F.CORE_CTX_FAULT_VALID = false) :
    u.RecordsFirst c k cls pc faddr precise tok order (u.raiseAt order c k cls pc faddr precise tok) := by
  obtain ⟨hfault, hfpc, hfaddr, hstat⟩ := u.rd_record_fault c hk cls pc faddr precise tok order
  have hrec := u.record_sameBut c k cls pc faddr precise tok order
  have hcore : (u.record c k cls pc faddr precise tok order).core c =
      (u.core c).setSlot k { (u.core c).slot k with faultAt := u.tb2, rank := some ⟨u.now, order⟩ } := by
    unfold State.record State.onSlot
    simp
  have hlt : R.CORE_CTX_FADDR (chanOf c) (posOf c) k < 0x02000000 := by
    have := chanOf_lt c; have := posOf_lt c; unfold R.CORE_CTX_FADDR; omega
  obtain ⟨-, -, -, hFaultStat, hFpcStat, hFaddrStat⟩ := coreKeys_ne (chanOf c) (posOf c) k hk
  unfold State.raiseAt
  simp only [hclean, Bool.false_eq_true, ↓reduceIte]
  generalize u.record c k cls pc faddr precise tok order = v at hfault hfpc hfaddr hstat hcore hrec ⊢
  obtain ⟨hsame, hrd, hrun, hactive⟩ := v.noteFaulted_frame c (Machine.setBit (v.fld (statReg c) F.CORE_STAT_FAULTED) k true)
    (((v.setFld (statReg c) F.CORE_STAT_FAULTED (Machine.setBit (v.fld (statReg c) F.CORE_STAT_FAULTED) k true)).slot c k).owner.getD (0, 0)) cls
  generalize State.markCp _ _ _ _ _ = z at hsame hrd hrun hactive ⊢
  have hzrun : z.isRunning c = u.isRunning c := by rw [hrun, State.isRunning, State.bit, hstat]; rfl
  have hzactive : z.active c = u.active c := hactive.trans (congrArg (getF · F.CORE_STAT_ACTIVE) hstat)
  have hzcore : z.core c = v.core c := hsame.core_eq (by simp) c
  generalize ht : (if (z.isRunning c && z.active c == k) = true then z.onCore c CoreSt.halt else z) = t
  have htrd (a : Nat) : t.rd a = z.rd a := by rw [← ht]; split <;> rfl
  refine ⟨?fault, ?fpc, ?faddr, ?slot, ?halts, ?same⟩
  case fault => rw [htrd, hrd _ (by unfold R.CORE_CTX_FADDR at hlt; unfold R.CORE_CTX_FAULT; omega) hFaultStat, hfault]
  case fpc => rw [htrd, hrd _ (by unfold R.CORE_CTX_FADDR at hlt; unfold R.CORE_CTX_FPC; omega) hFpcStat, hfpc]
  case faddr => rw [htrd, hrd _ hlt hFaddrStat, hfaddr]
  case slot =>
    have hslots : (t.core c).slots = (v.core c).slots := by
      rw [← ht]; split
      · rw [State.core_onCore_self, ← hzcore]; rfl
      · rw [hzcore]
    rw [State.slot, CoreSt.slot, hslots, hcore]
    exact FMap.get_set_self _ _ _ _
  case halts =>
    intro hr ha
    rw [← ht, hzrun, hzactive, hr, ha]
    simp only [Bool.true_and, beq_self_eq_true, ↓reduceIte, State.core_onCore_self, hzcore, hcore]
    exact ⟨rfl, rfl, rfl⟩
  case same =>
    refine (hrec.mono (by simp)).trans ((hsame.mono (by simp)).trans ?_)
    rw [← ht]; split
    · exact (State.SameBut.onCore _ _ _).mono (by simp)
    · exact .refl _ _

/-- R84, R85: what a fault may change: registers, its slot and core, the trace. -/
theorem State.raiseAt_sameBut (u : State) (order : Option Nat) (c k cls pc faddr : Nat) (precise : Bool) (tok : Option Nat) :
    u.SameBut [.regs, .cores, .trc] (u.raiseAt order c k cls pc faddr precise tok) := by
  have hrec := u.record_sameBut c k cls pc faddr precise tok order
  unfold State.raiseAt
  dsimp only
  split
  · refine State.SameBut.trans ?_ ((State.SameBut.setFld _ _ _ _).mono (by simp))
    split
    · exact (hrec.mono (by simp)).trans
        (((State.SameBut.setFld _ _ _ _).mono (by simp)).trans ((State.SameBut.onSlot _ _ _ _).mono (by simp)))
    · exact .refl _ _
  · refine (hrec.mono (by simp)).trans ?_
    split
    · exact ((State.noteFaulted_frame _ c _ _ cls).1.mono (by simp)).trans ((State.SameBut.onCore _ _ _).mono (by simp))
    · exact (State.noteFaulted_frame _ c _ _ cls).1.mono (by simp)

theorem State.raise_sameBut (u : State) (c k cls pc faddr : Nat) (precise : Bool) (tok : Option Nat) :
    u.SameBut [.regs, .cores, .trc] (u.raise c k cls pc faddr precise tok) := u.raiseAt_sameBut _ _ _ _ _ _ _ _

end Sys2Proof.Machine

namespace Sys2Proof.Machine

/-! ### Issue with a guard that reads 0 (R59) -/

/-- Every instruction of a core is the issue of its word, under a token or not. -/
theorem exec_of_encodeCore {i : Instr} {c : Nat} {w : Word} (h : encodeCore i = some (c, w)) (s : State) :
    ∃ body, exec i s = .next (seqIssue c w body s) ∨ ∃ tok, exec i s = .next (tokIssue c w tok body s) := by
  unfold encodeCore at h
  split at h
  case h_45 => cases h
  all_goals obtain ⟨rfl, rfl⟩ := Prod.mk.inj (Option.some.inj h)
  iterate 25 exact ⟨_, .inl rfl⟩
  all_goals exact ⟨_, .inr ⟨_, rfl⟩⟩

/-- An instruction word that R69 lets stand where it is. -/
theorem notLast_any {w : Word} {b : Slot} (h : notLast w = true → ∀ l ∈ b.loops, l.last ≠ b.pc) :
    (notLast w && b.loops.any (fun l => l.last == b.pc)) = false := by
  cases hn : notLast w
  · rfl
  · simpa [List.any_eq_false] using h hn

/-- R59: an instruction whose guard reads 0 moves on, and no more. -/
theorem seqIssue_guardOff {c : Nat} {w : Word} {s : State} (hf : s.Fetches c w) (hl : illegalWord w = false)
    (hp : notLast w = true → ∀ l ∈ (s.bank c).loops, l.last ≠ (s.bank c).pc) (hg : (s.bank c).p (guardOf w) = false)
    (body : Nat → State → State) : seqIssue c w body s = (s.issued c).advance c (s.active c) := by
  have hissue : (s.canIssue c && s.fetched c (s.active c) == some w) = true := by simp [hf.1, hf.2]
  have hissued : (s.prefetch c (s.active c)).count (some c) (chanOf c) (s.slot c (s.active c)).owner 2 1 = s.issued c := rfl
  unfold seqIssue
  simp only [hissue, ↓reduceIte, hl, hissued, s.bank_issued c, notLast_any hp, hg, Bool.false_eq_true, Bool.not_false]

/-- A word whose token does not stall it issues. -/
theorem tokIssue_of_free {c : Nat} {w : Word} {tok : Nat} {s : State} (h : s.tokenStall c w tok = false) (body : Nat → State → State) :
    tokIssue c w tok body s = seqIssue c w body s := by simp [tokIssue, h]

theorem State.tokenStall_of_guardOff {s : State} {c : Nat} {w : Word} (h : (s.bank c).p (guardOf w) = false) (tok : Nat) :
    s.tokenStall c w tok = false := by
  have hg : (s.slot c (s.active c)).p (guardOf w) = false := h
  simp [State.tokenStall, hg]

/-- The sequencer moves on from the instruction that a core issues. -/
theorem State.advance_issued (s : State) (c : Nat) :
    (s.bank c).Keeps none none none (((s.issued c).advance c (s.active c)).slot c (s.active c))
    ∧ (s.bank c).MovedOn (((s.issued c).advance c (s.active c)).slot c (s.active c))
    ∧ s.CoreFrame c (s.active c) ((s.issued c).advance c (s.active c)) ∧ s.SameScratch ((s.issued c).advance c (s.active c)) := by
  have hslot : ((s.issued c).advance c (s.active c)).slot c (s.active c) = (s.bank c).after (s.bank c).pc := by
    rw [State.advance, State.slot_onSlot_self, s.bank_issued]
  have hchecked := s.checked_issued c
  rw [hslot]
  exact ⟨Slot.keeps_after (s.bank c).keeps_refl _, ⟨rfl, rfl⟩, (hchecked.frame _).trans (State.coreFrame_onSlot _ _ _ _),
    hchecked.sameScratch.trans ((State.SameBut.onSlot _ _ _ _).sameScratch (by simp) (by simp) (by simp))⟩

/-- Settles O5: whatever the instruction, with a guard that reads 0 its issue moves the sequencer on and does nothing else. -/
theorem guardOff : Obligations.GuardOff := by
  intro i c w s hi hf hl hp hg
  obtain ⟨body, hexec | ⟨tok, hexec⟩⟩ := exec_of_encodeCore hi s
  · exact ⟨_, hexec.trans (congrArg _ (seqIssue_guardOff hf hl hp hg body)), s.advance_issued c⟩
  · rw [tokIssue_of_free (State.tokenStall_of_guardOff hg tok), seqIssue_guardOff hf hl hp hg body] at hexec
    exact ⟨_, hexec, s.advance_issued c⟩

end Sys2Proof.Machine

namespace Sys2Proof.Machine

/-! ### The order of FP32 patterns (R98) -/

/-- A magnitude with a sign. -/
def signed (neg : Bool) (v : Nat) : Int := if neg then -v else v

theorem signed_mul (neg : Bool) (v k : Nat) : signed neg (v * k) = signed neg v * k := by
  cases neg <;> simp [signed]

/-- A strictly rising function of the magnitude keeps the order of signed magnitudes. -/
theorem signed_lt_iff {g : Nat → Nat} (hg : StrictMono g) (h0 : g 0 = 0) (x y : Bool) (p q : Nat) :
    signed x (g p) < signed y (g q) ↔ signed x p < signed y q := by
  have hzero (p : Nat) : 0 < g p ↔ 0 < p := by
    have := hg.lt_iff_lt (a := 0) (b := p)
    rwa [h0] at this
  have hp := hzero p
  have hq := hzero q
  have hpq := hg.lt_iff_lt (a := p) (b := q)
  have hqp := hg.lt_iff_lt (a := q) (b := p)
  cases x <;> cases y <;> simp only [signed, Bool.false_eq_true, ↓reduceIte] <;> omega

/-- The magnitude of an FP32 pattern in units of 2^-149: the exponent field and the significand field as they weigh. -/
def fpMag (p : Nat) : Nat := if p / 2 ^ 23 = 0 then p % 2 ^ 23 else (2 ^ 23 + p % 2 ^ 23) * 2 ^ (p / 2 ^ 23 - 1)

theorem fpMag_strictMono : StrictMono fpMag := by
  refine strictMono_nat_of_lt_succ fun p => ?_
  have hstep : ((p + 1) / 2 ^ 23 = p / 2 ^ 23 ∧ (p + 1) % 2 ^ 23 = p % 2 ^ 23 + 1)
      ∨ ((p + 1) / 2 ^ 23 = p / 2 ^ 23 + 1 ∧ (p + 1) % 2 ^ 23 = 0) := by omega
  have hm : p % 2 ^ 23 < 2 ^ 23 := Nat.mod_lt _ (by decide)
  unfold fpMag
  obtain ⟨hexp, hsig⟩ | ⟨hexp, hsig⟩ := hstep
  · rw [hexp, hsig]
    split
    · omega
    · exact Nat.mul_lt_mul_of_pos_right (by omega) (Nat.two_pow_pos _)
  · rw [hexp, hsig, if_neg (Nat.succ_ne_zero _), Nat.add_sub_cancel, Nat.add_zero]
    split
    case isTrue h => rw [h]; omega
    case isFalse h =>
      obtain ⟨e, he⟩ := Nat.exists_eq_succ_of_ne_zero h
      rw [he, Nat.succ_sub_one]
      calc (2 ^ 23 + p % 2 ^ 23) * 2 ^ e < (2 ^ 23 * 2) * 2 ^ e := Nat.mul_lt_mul_of_pos_right (by omega) (Nat.two_pow_pos _)
        _ = 2 ^ 23 * 2 ^ (e + 1) := by rw [Nat.pow_succ 2 e]; omega

/-- Finite values in units of 2^-149 compare by their magnitudes. -/
theorem FVal.lt_fin_iff (x y : Bool) (m n s t : Nat) : FVal.lt (.fin x m ((s : Int) - 149)) (.fin y n ((t : Int) - 149)) = true ↔
    signed x (m * 2 ^ s) < signed y (n * 2 ^ t) := by
  have hscaled (neg : Bool) (m : Nat) (e lo : Int) : FVal.scaled (-lo) (.fin neg m e) = signed neg (m * 2 ^ (e + -lo).toNat) := rfl
  have hweigh (lo : Nat) (hs : lo ≤ s) (ht : lo ≤ t) : signed x (m * 2 ^ (s - lo)) < signed y (n * 2 ^ (t - lo)) ↔
      signed x (m * 2 ^ s) < signed y (n * 2 ^ t) := by
    have hsplit (neg : Bool) (v k : Nat) (hk : lo ≤ k) : signed neg (v * 2 ^ k) = signed neg (v * 2 ^ (k - lo)) * (2 ^ lo : Nat) := by
      rw [← signed_mul, Nat.mul_assoc, ← Nat.pow_add, Nat.sub_add_cancel hk]
    rw [hsplit x m s hs, hsplit y n t ht]
    exact (Int.mul_lt_mul_right (by positivity)).symm
  unfold FVal.lt
  simp only [hscaled, decide_eq_true_eq]
  split
  · rw [← hweigh s le_rfl (by omega), show ((s : Int) - 149 + -((s : Int) - 149)).toNat = s - s by omega,
      show ((t : Int) - 149 + -((s : Int) - 149)).toNat = t - s by omega]
  · rw [← hweigh t (by omega) le_rfl, show ((s : Int) - 149 + -((t : Int) - 149)).toNat = s - t by omega,
      show ((t : Int) - 149 + -((t : Int) - 149)).toNat = t - t by omega]

/-- What an FP32 pattern stands for, by its sign and magnitude fields. -/
theorem f32v_cases (a : Word) :
    (fpNaN a ∧ f32v a.toNat = .nan)
    ∨ (a.toNat % 2 ^ 31 = 0x7F800000 ∧ f32v a.toNat = .inf (bitOf a.toNat 31))
    ∨ (a.toNat % 2 ^ 31 < 0x7F800000
      ∧ ∃ m s : Nat, f32v a.toNat = .fin (bitOf a.toNat 31) m ((s : Int) - 149) ∧ m * 2 ^ s = fpMag (a.toNat % 2 ^ 31)) := by
  have hexp : bitsOf a.toNat 30 23 = a.toNat % 2 ^ 31 / 2 ^ 23 := by simp only [bitsOf]; omega
  have hsig : a.toNat % 2 ^ 23 = a.toNat % 2 ^ 31 % 2 ^ 23 := by omega
  have hdec : f32v a.toNat = FFmt.fp32.decode a.toNat := rfl
  unfold FFmt.decode at hdec
  simp only [FFmt.fp32, Nat.reduceAdd, Nat.add_one_sub_one, hexp, hsig] at hdec
  rw [hdec]
  unfold fpNaN fpMag
  generalize hp : a.toNat % 2 ^ 31 = p
  have hlt : p < 2 ^ 31 := hp ▸ Nat.mod_lt _ (by decide)
  by_cases htop : p / 2 ^ 23 = 2 ^ 8 - 1
  · rw [if_pos htop]
    by_cases hm : p % 2 ^ 23 = 0
    · exact .inr (.inl ⟨by omega, if_pos hm⟩)
    · exact .inl ⟨by omega, if_neg hm⟩
  · rw [if_neg htop]
    refine .inr (.inr ⟨by omega, ?_⟩)
    by_cases h0 : p / 2 ^ 23 = 0
    · rw [if_pos h0, if_pos h0]
      exact ⟨p % 2 ^ 23, 0, rfl, by rw [pow_zero, mul_one]⟩
    · rw [if_neg h0, if_neg h0]
      refine ⟨2 ^ 23 + p % 2 ^ 23, p / 2 ^ 23 - 1, ?_, rfl⟩
      congr 1
      omega

theorem fpPlace_eq_signed (a : Word) : fpPlace a = signed (bitOf a.toNat 31) (a.toNat % 2 ^ 31) := by
  have hlt := a.isLt
  unfold fpPlace signed bitOf
  split
  case isTrue h => rw [Nat.div_eq_of_lt h, Nat.mod_eq_of_lt h]; rfl
  case isFalse h => rw [show a.toNat / 2 ^ 31 = 1 by omega]; rfl

theorem isNan_f32v_iff (a : Word) : (f32v a.toNat).isNan = true ↔ fpNaN a := by
  obtain ⟨hn, h⟩ | ⟨hp, h⟩ | ⟨hp, m, s, h, -⟩ := f32v_cases a
  · simp [h, hn, FVal.isNan]
  · simp only [h, FVal.isNan, fpNaN, Bool.false_eq_true, false_iff]
    omega
  · simp only [h, FVal.isNan, fpNaN, Bool.false_eq_true, false_iff]
    omega

/-- The values of FP32 patterns stand in the order of their places. -/
theorem f32v_lt_iff (a b : Word) : (f32v a.toNat).lt (f32v b.toNat) = true ↔ ¬fpNaN a ∧ ¬fpNaN b ∧ fpPlace a < fpPlace b := by
  rw [fpPlace_eq_signed, fpPlace_eq_signed]
  unfold fpNaN
  obtain ⟨ha, ea⟩ | ⟨ha, ea⟩ | ⟨ha, m, s, ea, hm⟩ := f32v_cases a
  · simp only [ea, FVal.lt, Bool.false_eq_true, false_iff]
    exact fun h => h.1 ha
  all_goals obtain ⟨hb, eb⟩ | ⟨hb, eb⟩ | ⟨hb, n, t, eb, hn⟩ := f32v_cases b
  case inr.inl.inl | inr.inr.inl =>
    simp only [ea, eb, FVal.lt, Bool.false_eq_true, false_iff]
    exact fun h => h.2.1 hb
  case inr.inl.inr.inl =>
    rw [ea, eb, ha, hb]
    cases bitOf a.toNat 31 <;> cases bitOf b.toNat 31 <;> decide
  case inr.inl.inr.inr =>
    rw [ea, eb, ha]
    generalize b.toNat % 2 ^ 31 = q at hb
    cases bitOf a.toNat 31 <;> cases bitOf b.toNat 31 <;> simp only [FVal.lt, signed, ↓reduceIte, Bool.false_eq_true, false_iff, true_iff] <;> omega
  case inr.inr.inr.inl =>
    rw [ea, eb, hb]
    generalize a.toNat % 2 ^ 31 = p at ha
    cases bitOf a.toNat 31 <;> cases bitOf b.toNat 31 <;> simp only [FVal.lt, signed, ↓reduceIte, Bool.false_eq_true, Bool.not_true, Bool.not_false, false_iff, true_iff] <;> omega
  case inr.inr.inr.inr =>
    rw [ea, eb, FVal.lt_fin_iff, hm, hn, signed_lt_iff fpMag_strictMono rfl]
    exact ⟨fun h => ⟨by omega, by omega, h⟩, fun h => h.2.2⟩

theorem f32v_eqv_iff (a b : Word) : (f32v a.toNat).eqv (f32v b.toNat) = true ↔ ¬fpNaN a ∧ ¬fpNaN b ∧ fpPlace a = fpPlace b := by
  have ha := isNan_f32v_iff a
  have hb := isNan_f32v_iff b
  have hab := f32v_lt_iff a b
  have hba := f32v_lt_iff b a
  have horder : fpPlace a = fpPlace b ↔ ¬fpPlace a < fpPlace b ∧ ¬fpPlace b < fpPlace a := by omega
  simp only [FVal.eqv, Bool.and_eq_true, Bool.not_eq_true', ← Bool.not_eq_true, ha, hb, hab, hba, horder]
  tauto

theorem floatOrder : FloatOrder := by
  intro a b
  have heq := f32v_eqv_iff a b
  have hlt := f32v_lt_iff a b
  refine ⟨heq, hlt, ?_, ?_⟩
  · show (_ || _) = true ↔ _
    rw [Bool.or_eq_true, show fpLt a b = true ↔ _ from hlt, show fpEq a b = true ↔ _ from heq, le_iff_lt_or_eq]
    tauto
  · show (_ || _) = true ↔ _
    rw [Bool.or_eq_true, isNan_f32v_iff, isNan_f32v_iff]

/-! ### Compares and predicate logic (R98, R99) -/

theorem ccSpec_ccEval (cc : Nat) (a b : Word) : ccSpec cc a b (ccEval cc a b) := by
  have hnan (hn : (f32v a.toNat).isNan = true ∨ (f32v b.toNat).isNan = true) : ¬(¬fpNaN a ∧ ¬fpNaN b) := by
    rw [isNan_f32v_iff, isNan_f32v_iff] at hn
    tauto
  obtain ⟨heq, hlt, hle, -⟩ := floatOrder a b
  refine ⟨?eq, ?ne, ?lt, ?ge, ?ltu, ?geu, ?un, ?nan, ?zero, ?any⟩
  case eq => rintro rfl; simp [ccEval]
  case ne => rintro rfl; simp [ccEval]
  case lt => rintro rfl; simp [ccEval, BitVec.slt]
  case ge => rintro rfl; simp [ccEval, BitVec.slt]
  case ltu => rintro rfl; simp [ccEval, BitVec.ult]
  case geu => rintro rfl; simp [ccEval, BitVec.ult]
  case un => rintro rfl; simp [ccEval, fpUn]
  case nan =>
    rintro hn (rfl | rfl | rfl) <;> refine Bool.eq_false_iff.mpr fun h => hnan hn ?_
    · exact ⟨(heq.mp h).1, (heq.mp h).2.1⟩
    · exact ⟨(hlt.mp h).1, (hlt.mp h).2.1⟩
    · exact ⟨(hle.mp h).1, (hle.mp h).2.1⟩
  case zero =>
    rintro rfl rfl
    refine ⟨?_, ?_⟩
    · rintro (rfl | rfl) <;> decide
    · rintro rfl; decide
  case any => rintro rfl; simp [ccEval]

/-- A predicate instruction that executes. -/
theorem regIssue_setP {c : Nat} {w : Word} {s : State} (h : s.Executes c w) (pd : BitVec 3) (g : Slot → Bool) :
    let t := regIssue c w (fun b => b.setP pd.toNat (g b)) s
    (pd ≠ 0#3 → (t.slot c (s.active c)).p pd.toNat = g (s.bank c)) ∧ (t.slot c (s.active c)).p 0 = true
      ∧ (s.bank c).Keeps none none (some pd.toNat) (t.slot c (s.active c)) ∧ s.CoreFrame c (s.active c) t ∧ s.SameScratch t := by
  intro t
  obtain ⟨hslot, hframe, hscratch⟩ := regIssue_spec h fun b => b.setP pd.toNat (g b)
  refine ⟨fun hpd => ?_, rfl, ?_, hframe, hscratch⟩
  · rw [hslot, Slot.p_after, Slot.p_setP, if_pos ⟨rfl, fun h0 => hpd (BitVec.eq_of_toNat_eq h0)⟩]
  · rw [hslot]
    exact Slot.keeps_after (Slot.keeps_setP _ _ _) _

/-- A field of a word as a part of its number. -/
theorem toNat_field (w : Word) (lo n : Nat) : w.toNat / 2 ^ lo % 2 ^ n = (w.extractLsb' lo n).toNat := by
  rw [BitVec.extractLsb'_toNat, Nat.shiftRight_eq_div_pow]

theorem FmtCI.cc_word (op : BitVec 6) (f : FmtCI) : (f.word op).extractLsb' 11 4 = f.cc := by
  unfold FmtCI.word
  ext i hi
  simp only [BitVec.getElem_extractLsb', BitVec.getLsbD_append]
  rw [if_pos (by omega), if_neg (by omega), if_pos (by omega), show 11 + i - 11 = i by omega]
  exact BitVec.getLsbD_eq_getElem hi

theorem illegalWord_of_wide_cc (f : FmtCI) (h : 5 < f.cc.toNat) : illegalWord (f.word 10#6) = true := by
  have hop : opcodeOf (f.word 10#6) = 10 := Laws.Opcode.opcode_of_append _ _
  simp only [illegalWord, hop, Nat.reduceAdd, Nat.reduceSub, toNat_field, FmtCI.cc_word, decide_eq_true h]

theorem predicates : Predicates := by
  intro c s
  refine ⟨fun f h => ?_, fun f h => ?_, illegalWord_of_wide_cc, fun f h => ?_⟩
  · obtain ⟨hpd, hrest⟩ := regIssue_setP h f.pd fun b => ccEval f.cc.toNat (b.s f.rs1.toNat) (b.s f.rs2.toNat)
    exact ⟨_, rfl, ⟨_, ccSpec_ccEval _ _ _, hpd⟩, hrest⟩
  · obtain ⟨hpd, hrest⟩ := regIssue_setP h f.pd fun b => ccEval f.cc.toNat (b.s f.rs1.toNat) (f.imm.signExtend 32)
    exact ⟨_, rfl, ⟨_, ccSpec_ccEval _ _ _, hpd⟩, hrest⟩
  · exact ⟨_, rfl, regIssue_setP h f.pd fun b => plogEval f.fn.toNat (b.p f.pa.toNat) (b.p f.pb.toNat)⟩

/-- Settles O7: an FP32 pattern's magnitude rises with its low 31 bits, so that the values stand in the order of the places; compares and
predicate logic are register instructions that write one predicate. -/
theorem predicatesAndFloatOrder : Obligations.PredicatesAndFloatOrder := ⟨predicates, floatOrder⟩

end Sys2Proof.Machine

namespace Sys2Proof.Machine

/-! ### A unit operation's fault in the issue order (R84, R95) -/

/-- A `msg.move` under token 0 whose count register is s1. -/
def staleMove : FmtU1 := ⟨0#3, 0#4, 0#4, 0#4, 1#5, 0#6⟩

/-- Core 0 runs slot 0 in a window of 4 KiB and is about to issue `staleMove` with a count that R121 does not allow. Token 0 is COMPLETE, and
the place 7 in the issue order still stands for it from an earlier operation. -/
def staleOrder : State :=
  (((State.reset.wr (statReg 0) (mkF F.CORE_STAT_RUN 1)).wr (winReg 0 0) (mkF F.CORE_WIN_CFG_EN 1 ||| mkF F.CORE_WIN_CFG_SIZE 4)).onCore 0
    fun x => { x with
      ibuf := [(0, some ⟨0, Memory.putNum [] 0 4 (staleMove.word 45#6).toNat, false⟩)], seen := x.seen.set none 0 (some ⟨0, 7⟩) }).onSlot 0 0
        fun b => b.setS 1 0xFFC00000#32

theorem staleOrder_executes : staleOrder.Executes 0 (staleMove.word 45#6) where
  fetches := ⟨by decide, by decide⟩
  legal := by decide
  place := by decide
  guard := by decide

/-- Refutes O11: an operation that faults at issue goes by the place that its token still has in the issue order, here 7, and not by the
number of operations issued so far, here 0. -/
theorem not_unitIssue : ¬ Obligations.UnitIssue := by
  intro h
  obtain ⟨-, -, hfault⟩ := h (.msgMove 0 staleMove) 0 _ staleOrder _ rfl rfl staleOrder_executes
  obtain ⟨t, hexec, hslot, -⟩ := hfault (by decide) (by decide) (Bool.eq_false_iff.mpr (by decide))
  have ht : t = unitIssue 0 (staleMove.word 45#6) (captureU1 .move staleMove) staleOrder := by injection hexec.symm
  have hrank : (t.slot 0 (staleOrder.active 0)).rank = some ⟨0, some 7⟩ := by
    rw [ht]
    decide
  rw [hslot] at hrank
  exact absurd hrank (by decide)

end Sys2Proof.Machine

namespace Sys2Proof.Machine

/-! ### Branches, the next address, hardware loops (R67-R69, R102, R103) -/

/-- An instruction that executes and changes the running bank only. -/
theorem seqIssue_onSlot {c : Nat} {w : Word} {s : State} (h : s.Executes c w) (f : Slot → Slot) :
    let t := seqIssue c w (fun k u => u.onSlot c k f) s
    t.slot c (s.active c) = f (s.bank c) ∧ s.CoreFrame c (s.active c) t ∧ s.SameScratch t := by
  rw [seqIssue_executes h]
  have hchecked := s.checked_issued c
  exact ⟨by rw [State.slot_onSlot_self, s.bank_issued], (hchecked.frame _).trans (State.coreFrame_onSlot _ _ _ _),
    hchecked.sameScratch.trans ((State.SameBut.onSlot _ _ _ _).sameScratch (by simp) (by simp) (by simp))⟩

theorem relTarget_eq (pc : Nat) (off : BitVec 23) : (relTarget pc off : Int) = (pc + 4 * off.toInt) % 2 ^ 32 := by
  unfold relTarget wrapN
  omega

theorem loopsLeft_loopsKept (target : Nat) (ls : List Loop) : loopsLeft target ls (loopsKept target ls) := by
  let holds : Loop → Bool := fun l => decide (l.start ≤ target) && decide (target ≤ l.last)
  have hholds (l : Loop) : holds l = true ↔ l.start ≤ target ∧ target ≤ l.last := by simp [holds]
  refine ⟨(ls.reverse.dropWhile holds).reverse, ?_, fun l hl => ?_, fun l hl => ?_⟩
  · rw [loopsKept, ← List.reverse_append, List.takeWhile_append_dropWhile, List.reverse_reverse]
  · exact (hholds l).mp (List.mem_takeWhile_imp (List.mem_reverse.mp hl))
  · have hhead := List.head?_dropWhile_not holds ls.reverse
    rw [List.getLast?_reverse] at hl
    rw [hl] at hhead
    exact fun h => absurd ((hholds l).mpr h) (by simpa using hhead)

theorem branches : Branches := by
  intro c s
  refine ⟨fun f h => ?_, fun f h => ?_, fun f h => ?_⟩
  · obtain ⟨hslot, hframe⟩ := seqIssue_onSlot h fun b => b.jump (relTarget b.pc f.off)
    refine ⟨_, rfl, ?_, ?_, ?_, hframe⟩ <;> rw [hslot]
    · exact relTarget_eq _ _
    · exact loopsLeft_loopsKept _ _
    · exact ⟨fun _ _ => rfl, fun _ _ => rfl, fun _ _ => rfl, rfl, rfl, rfl⟩
  · obtain ⟨hslot, hframe⟩ := seqIssue_onSlot h fun b => (b.setS 31 (BitVec.ofNat 32 (b.pc + 4))).jump (relTarget b.pc f.off)
    have hset := (s.bank c).keeps_setS 31 (BitVec.ofNat 32 ((s.bank c).pc + 4))
    refine ⟨_, rfl, ?_, ?_, ?_, ?_, hframe⟩ <;> rw [hslot]
    · exact relTarget_eq _ _
    · exact (s.bank c).s_setS_self 31 _
    · exact loopsLeft_loopsKept _ _
    · exact ⟨hset.s, hset.a, hset.p, hset.pend, hset.owner, hset.refusal⟩
  · obtain ⟨hslot, hframe⟩ := seqIssue_onSlot h fun b => b.jump (bitsOf (b.s f.rs.toNat).toNat 21 2 * 4)
    refine ⟨_, rfl, ?_, ?_, ?_, hframe⟩ <;> rw [hslot]
    · rfl
    · exact loopsLeft_loopsKept _ _
    · exact ⟨fun _ _ => rfl, fun _ _ => rfl, fun _ _ => rfl, rfl, rfl, rfl⟩

/-- The tests of the armed loops at the end of an instruction (R68), by the innermost loop. -/
theorem loopNext_cons (a : Nat) (l : Loop) (ls : List Loop) :
    (l.last ≠ a → loopNext a (l :: ls) = ((a + 4) % 2 ^ 32, l :: ls))
    ∧ (l.last = a → l.count ≠ 1 → loopNext a (l :: ls) = (l.start, { l with count := l.count - 1 } :: ls))
    ∧ (l.last = a → l.count = 1 → loopNext a (l :: ls) = loopNext a ls) := by
  refine ⟨fun h => if_pos h, fun h h1 => ?_, fun h h1 => ?_⟩ <;> simp only [loopNext, ne_eq, h, h1, not_true, not_false_eq_true, ↓reduceIte]

theorem nextAddress : NextAddress := by
  intro c f s h
  have hexec : exec (.sqNop c f) s = .next ((s.issued c).advance c (s.active c)) := congrArg _ (seqIssue_executes h _)
  obtain ⟨hkeeps, ⟨hpc, hloops⟩, hframe, hscratch⟩ := s.advance_issued c
  refine ⟨_, hexec, hkeeps, hframe, hscratch, fun hnil => ?_, fun l ls hl hlast => ?_, fun l ls hl hlast hcount => ?_,
    fun l ls hl hlast hcount => ?_⟩ <;> rw [hpc, hloops]
  · rw [hnil]; exact ⟨rfl, rfl⟩
  · rw [hl, (loopNext_cons _ l ls).1 hlast]; exact ⟨rfl, rfl⟩
  · rw [hl, (loopNext_cons _ l ls).2.1 hlast hcount]; exact ⟨rfl, rfl⟩
  · rw [hl, (loopNext_cons _ l ls).2.2 hlast hcount]; exact ⟨rfl, rfl⟩

/-- A window is no larger than 4 MiB (R73). -/
theorem State.bound_lt (s : State) (c k : Nat) : s.bound c k < 2 ^ 22 := by
  have hsize : getF (s.rd (winReg c k)) F.CORE_WIN_CFG_SIZE < 2 ^ 12 := Nat.mod_lt _ (by decide)
  unfold State.bound
  dsimp only
  split <;> omega

/-- The pc of an instruction that executes lies below 4 MiB (R73). -/
theorem State.Fetches.pc_lt {s : State} {c : Nat} {w : Word} (h : s.Fetches c w) : (s.bank c).pc < 2 ^ 22 := by
  have hpc : (s.bank c).pc < s.bound c (s.active c) := by
    by_contra hout
    have hfetched := h.2
    rw [State.fetched, show (s.slot c (s.active c)) = s.bank c from rfl] at hfetched
    simp only [hout, ↓reduceIte, reduceCtorEq] at hfetched
  exact hpc.trans (s.bound_lt c _)


/-- The loop faults of sq.loop (R67). -/
theorem loopBad_iff (n last count : Nat) (b : Slot) : loopBad n last count b = true ↔
    (∃ l ∈ b.loops, l.last < last) ∨ (count ≠ 0 ∧ ((∃ l ∈ b.loops, l.n = n) ∨ 4 ≤ b.loops.length)) := by
  simp [loopBad, or_comm]

/-- sq.loop on the bank of the running context: its last instruction and its count. -/
theorem exec_sqLoop {c : Nat} {f : FmtL} {s : State} (h : s.Executes c (f.word 20#6)) :
    exec (.sqLoop c f) s = .next (if loopBad f.lc.toNat ((s.bank c).pc + 4 * f.len.toNat) (loopCountSpec f (s.bank c)) (s.bank c) = true
      then (s.issued c).raise c (s.active c) fLoop (s.bank c).pc 0 true none
      else (s.issued c).onSlot c (s.active c) fun _ =>
        if loopCountSpec f (s.bank c) = 0 then (s.bank c).after ((s.bank c).pc + 4 * f.len.toNat)
        else { s.bank c with
          loops := ⟨f.lc.toNat, (s.bank c).pc + 4, (s.bank c).pc + 4 * f.len.toNat, loopCountSpec f (s.bank c)⟩ :: (s.bank c).loops
          pc := (s.bank c).pc + 4 }) := by
  have hpc := h.fetches.pc_lt
  have hlen := f.len.isLt
  have hlast : ((s.bank c).pc + 4 * f.len.toNat) % 2 ^ 32 = (s.bank c).pc + 4 * f.len.toNat := Nat.mod_eq_of_lt (by omega)
  have hstart : ((s.bank c).pc + 4) % 2 ^ 32 = (s.bank c).pc + 4 := Nat.mod_eq_of_lt (by omega)
  have hcount : loopCount f (s.bank c) = loopCountSpec f (s.bank c) := rfl
  have hbank (g : Slot → Slot) : (s.issued c).onSlot c (s.active c) g = (s.issued c).onSlot c (s.active c) fun _ => g (s.bank c) := by
    rw [← s.bank_issued c]
    rfl
  refine congrArg Host.Outcome.next ((seqIssue_executes h _).trans ?_)
  unfold armLoop
  simp only [s.bank_issued c, hlast, hcount]
  split
  · rfl
  · split
    · exact hbank _
    · exact (hbank _).trans (by rw [hstart])

theorem State.isRunning_of_canIssue {s : State} {c : Nat} (h : s.canIssue c = true) : s.isRunning c = true := by
  simp only [State.canIssue, Bool.and_eq_true] at h
  exact h.1.1.1

theorem State.isRunning_of_fetches {s : State} {c : Nat} {w : Word} (h : s.Fetches c w) : s.isRunning c = true :=
  State.isRunning_of_canIssue h.1

theorem loops : Loops := by
  intro c f s h
  have hexec := exec_sqLoop h
  have hgood (hends : ∀ l ∈ (s.bank c).loops, (s.bank c).pc + 4 * f.len.toNat ≤ l.last)
      (hcounter : ¬(loopCountSpec f (s.bank c) ≠ 0 ∧ ((∃ l ∈ (s.bank c).loops, l.n = f.lc.toNat) ∨ 4 ≤ (s.bank c).loops.length))) :
      ¬loopBad f.lc.toNat ((s.bank c).pc + 4 * f.len.toNat) (loopCountSpec f (s.bank c)) (s.bank c) = true := by
    rw [loopBad_iff]
    rintro (⟨l, hl, hlt⟩ | hbad)
    · exact absurd hlt (Nat.not_lt.mpr (hends l hl))
    · exact hcounter hbad
  have hchecked := s.checked_issued c
  have hframe (g : Slot → Slot) := (hchecked.frame _).trans ((s.issued c).coreFrame_onSlot c (s.active c) g)
  have hscratch (g : Slot → Slot) :=
    hchecked.sameScratch.trans ((State.SameBut.onSlot (s.issued c) c (s.active c) g).sameScratch (by simp) (by simp) (by simp))
  refine ⟨fun hends => ⟨fun hcount hcounter hroom => ?_, fun hcount => ?_⟩, fun hclean hbad => ?_⟩
  · rw [if_neg (hgood hends fun ⟨_, hbad⟩ => hbad.elim (fun ⟨l, hl, hn⟩ => hcounter l hl hn) (by omega))] at hexec
    refine ⟨_, hexec, ?_, ?_, ?_, hframe _, hscratch _⟩ <;> rw [State.slot_onSlot_self, if_neg hcount]
    exact ⟨fun _ _ => rfl, fun _ _ => rfl, fun _ _ => rfl, rfl, rfl, rfl⟩
  · rw [if_neg (hgood hends fun hbad => hbad.1 hcount)] at hexec
    refine ⟨_, hexec, ?_, ?_, ?_, hframe _, hscratch _⟩ <;> rw [State.slot_onSlot_self, if_pos hcount]
    · rfl
    · rfl
    · exact Slot.keeps_after (s.bank c).keeps_refl _
  · rw [if_pos ((loopBad_iff _ _ _ _).mpr hbad)] at hexec
    refine ⟨_, hexec, State.raise_precise hchecked (State.isRunning_of_fetches h.fetches) hclean (by decide) (by decide),
      hchecked.sameScratch.trans ((State.raise_sameBut _ _ _ _ _ _ _ _).sameScratch (by simp) (by simp) (by simp))⟩

/-! ### Ends of parts, fences, token waits (R57, R65, R71, R104, R105) -/

/-- Stalling and releasing the sequencer touches no bank. -/
theorem State.slot_setWait (s : State) (c : Nat) (w : CoreWait) (d j : Nat) :
    (s.onCore c fun x => { x with wait := w }).slot d j = s.slot d j := s.slot_onCore c d j (fun x => { x with wait := w }) fun _ => rfl

/-- The bank of a slot whose part has ended (R71). -/
def Slot.ended (b : Slot) : Slot := { b with loops := [], pc := (b.pc + 4) % 2 ^ 32 }

/-- R71: the core has left the step, and its trace says so. -/
def State.leavePart (s : State) (c k : Nat) : State :=
  (((s.onSlot c k Slot.ended).onCore c fun x => { x with wait := .none }).setFld (statReg c) F.CORE_STAT_RUN 0).markCore c 0 tvEnd
    ((s.slot c k).owner.getD (0, 0)) 0 ((s.slot c k).ended.pc - 4)

theorem State.leavePart_spec (s : State) (c k : Nat) :
    (s.leavePart c k).isRunning c = false ∧ (s.leavePart c k).slot c k = (s.slot c k).ended
      ∧ (s.leavePart c k).core c = { s.core c with slots := ((s.onSlot c k Slot.ended).core c).slots, wait := .none }
      ∧ s.SameBut [.regs, .cores, .trc, .fresh] (s.leavePart c k) := by
  have hsame : s.SameBut [.regs, .cores]
      (((s.onSlot c k Slot.ended).onCore c fun x => { x with wait := .none }).setFld (statReg c) F.CORE_STAT_RUN 0) :=
    ((State.SameBut.onSlot _ _ _ _).mono (by simp)).trans
      (((State.SameBut.onCore _ _ _).mono (by simp)).trans ((State.SameBut.setFld _ _ _ _).mono (by simp)))
  refine ⟨?_, ?_, ?_, (hsame.mono (by simp)).trans ((State.markCore_sameBut _ _ _ _ _ _ _).mono (by simp))⟩
  · rw [State.isRunning, State.bit, State.leavePart, State.rd_markCore_of_lt _ _ _ _ _ _ _ (statReg_lt c), State.rd_setFld_self, isSet,
      getF_setF_self _ _ _ (by decide) (by decide)]
    rfl
  · rw [State.leavePart, (State.markCore_sameBut _ _ _ _ _ _ _).slot_eq (by simp)]
    exact (State.slot_setWait _ c .none c k).trans (s.slot_onSlot_self _ _ _)
  · rw [State.leavePart, (State.markCore_sameBut _ _ _ _ _ _ _).core_eq (by simp), State.setFld, State.core_wr, State.core_onCore_self]
    unfold State.onSlot
    rw [State.core_onCore_self]
    rfl

/-- R71: the end of a core's part is reported to the context that it belongs to. -/
theorem State.endPart_eq (s : State) (c k : Nat) : s.endPart c k = (s.slot c k).owner.elim (s.leavePart c k)
    fun o => (s.leavePart c k).onCtx o.1 o.2 fun t => { t with reported := t.reported ++ [c] } := by
  have hslot : State.slot (((s.onSlot c k Slot.ended).onCore c fun x => { x with wait := .none }).setFld (statReg c) F.CORE_STAT_RUN 0) c k
      = (s.slot c k).ended :=
    (State.slot_setWait _ c .none c k).trans (s.slot_onSlot_self _ _ _)
  have hleave : State.markCore (((s.onSlot c k Slot.ended).onCore c fun x => { x with wait := .none }).setFld (statReg c) F.CORE_STAT_RUN 0) c 0
      tvEnd ((State.slot (((s.onSlot c k Slot.ended).onCore c fun x => { x with wait := .none }).setFld (statReg c) F.CORE_STAT_RUN 0) c k).owner.getD
        (0, 0)) 0 ((State.slot (((s.onSlot c k Slot.ended).onCore c fun x => { x with wait := .none }).setFld (statReg c) F.CORE_STAT_RUN 0) c
          k).pc - 4) = s.leavePart c k := by
    rw [hslot]
    rfl
  have howner : ((s.leavePart c k).slot c k).owner = (s.slot c k).owner := by rw [(s.leavePart_spec c k).2.1]; rfl
  unfold State.endPart
  simp only [show (fun b : Slot => { b with loops := [], pc := (b.pc + 4) % 2 ^ 32 }) = Slot.ended from rfl, hleave, howner]
  cases (s.slot c k).owner <;> rfl

/-- Whether every token of a mask is COMPLETE (R57). -/
theorem tokensDone_iff (b : Slot) (m : BitVec 16) :
    tokensDone b m.toNat = true ↔ ∀ n, n < 16 → m.getLsbD n = true → b.tokPending n = false := by
  have hbit (n : Nat) : bitOf m.toNat n = m.getLsbD n := by
    simp [bitOf, BitVec.getLsbD, Nat.testBit_eq_decide_div_mod_eq]
  simp only [tokensDone, hbit, Slot.tokPending, List.all_eq_true, List.mem_range, Bool.not_eq_true', Bool.and_eq_false_imp]

theorem sequencerWaits : SequencerWaits := by
  intro c s
  have hchecked := s.checked_issued c
  have hbank := s.bank_issued c
  have hstall (w : CoreWait) : ((s.issued c).onCore c fun x => { x with wait := w }).slot c (s.active c) = s.bank c :=
    ((s.issued c).slot_setWait c w c _).trans hbank
  have hscratch {l : List Piece} {t : State} (h : (s.issued c).SameBut l t) (h1 : .scratch ∉ l) (h2 : .ue ∉ l) (h3 : .ce ∉ l) :
      s.SameScratch t := hchecked.sameScratch.trans (h.sameScratch h1 h2 h3)
  refine ⟨fun f p x h hpend howner => ?_, fun f h hpend => ?_, fun f h => ?_, fun f h hdone => ?_, fun f n h hn hmask hpend => ?_,
    fun m hwait hstopped hpaused hdone => ?_⟩
  · have hexec : exec (.sqEnd c f) s = .next ((s.issued c).endPart c (s.active c)) := by
      refine congrArg Host.Outcome.next ((seqIssue_executes h _).trans ?_)
      simp only [hbank, hpend, ↓reduceIte]
    obtain ⟨hrun, hslot, -, hsame⟩ := (s.issued c).leavePart_spec c (s.active c)
    have hctx : ((s.issued c).leavePart c (s.active c)).ctx p x = s.ctx p x := by
      rw [hsame.ctx_eq (by simp) p x]
      unfold State.ctx State.part
      rw [(hchecked.frame 0).uncore.parts]
    rw [State.endPart_eq, hbank, howner, Option.elim_some] at hexec
    rw [hbank] at hslot
    refine ⟨_, hexec, hrun, ?_, ?_, ?_,
      (hscratch hsame (by simp) (by simp) (by simp)).trans ((State.SameBut.onCtx _ _ _ _).sameScratch (by simp) (by simp) (by simp))⟩
    · exact congrArg Slot.loops hslot
    · rw [State.ctx_onCtx_self, hctx]
    rw [(State.SameBut.onCtx _ p x _).slot_eq (by simp), hslot]
    exact ⟨fun _ _ => rfl, fun _ _ => rfl, fun _ _ => rfl, rfl, rfl, rfl⟩
  · have hexec : exec (.sqEnd c f) s = .next ((s.issued c).onCore c fun x => { x with wait := .ending }) := by
      refine congrArg Host.Outcome.next ((seqIssue_executes h _).trans ?_)
      simp only [hbank, hpend, ↓reduceIte]
    exact ⟨_, hexec, by rw [State.core_onCore_self], hstall _, hscratch (State.SameBut.onCore _ _ _) (by simp) (by simp) (by simp)⟩
  · have hexec : exec (.sqIfence c f) s = .next (((s.issued c).onCore c CoreSt.flush).advance c (s.active c)) :=
      congrArg Host.Outcome.next (seqIssue_executes h _)
    have hflush := hchecked.trans ((s.issued c).checked_onCore c CoreSt.flush (by constructor <;> simp [CoreSt.flush]) rfl)
    have hslot : (((s.issued c).onCore c CoreSt.flush).advance c (s.active c)).slot c (s.active c) = (s.bank c).after (s.bank c).pc := by
      rw [State.advance, State.slot_onSlot_self, hflush.slots]
      rfl
    refine ⟨_, hexec, fun ln => ?_, ?_, ?_, (hflush.frame _).trans (State.coreFrame_onSlot _ _ _ _),
      hflush.sameScratch.trans ((State.SameBut.onSlot _ _ _ _).sameScratch (by simp) (by simp) (by simp))⟩
    · rw [State.advance, State.onSlot, State.core_onCore_self, State.core_onCore_self]
      rfl
    · rw [hslot]
      exact Slot.keeps_after (s.bank c).keeps_refl _
    · rw [hslot]
      exact ⟨rfl, rfl⟩
  · have hexec : exec (.twait c f) s = .next ((s.issued c).advance c (s.active c)) := by
      refine congrArg Host.Outcome.next ((seqIssue_executes h _).trans ?_)
      simp only [hbank, (tokensDone_iff _ _).mpr hdone, ↓reduceIte]
    exact ⟨_, hexec, s.advance_issued c⟩
  · have hexec : exec (.twait c f) s = .next ((s.issued c).onCore c fun x => { x with wait := .tokens f.mask.toNat }) := by
      refine congrArg Host.Outcome.next ((seqIssue_executes h _).trans ?_)
      have : ¬tokensDone (s.bank c) f.mask.toNat = true := fun hd => by simp [(tokensDone_iff _ _).mp hd n hn hmask] at hpend
      simp only [hbank, this, ↓reduceIte, Bool.false_eq_true]
    exact ⟨_, hexec, by rw [State.core_onCore_self], hstall _, hscratch (State.SameBut.onCore _ _ _) (by simp) (by simp) (by simp)⟩
  · have hexec : exec (.twaitReturn c) s = .next ((s.onCore c fun x => { x with wait := .none }).advance c (s.active c)) := by
      have htokens : tokensDone (s.slot c (s.active c)) m.toNat = true := (tokensDone_iff _ _).mpr hdone
      refine congrArg Host.Outcome.next ?_
      simp only [hwait, htokens, hstopped, hpaused, Bool.not_false, Bool.and_self, ↓reduceIte]
    have hslot : ((s.onCore c fun x => { x with wait := .none }).advance c (s.active c)).slot c (s.active c)
        = (s.bank c).after (s.bank c).pc := by
      rw [State.advance, State.slot_onSlot_self, s.slot_setWait]
      rfl
    refine ⟨_, hexec, ?_, ?_, ?_, fun _ => rfl,
      ((State.SameBut.onCore s _ _).trans (State.SameBut.onSlot _ _ _ _)).sameScratch (by simp) (by simp) (by simp)⟩
    · rw [State.advance, State.onSlot, State.core_onCore_self, State.core_onCore_self]
      rfl
    · rw [hslot]
      exact Slot.keeps_after (s.bank c).keeps_refl _
    · rw [hslot]
      exact ⟨rfl, rfl⟩

/-- Settles O10: each instruction that executes is its update of the bank in the issued state. -/
theorem sequencerMoves : Obligations.SequencerMoves := ⟨branches, nextAddress, loops, sequencerWaits⟩

end Sys2Proof.Machine

namespace Sys2Proof.Machine

/-! ### Fetch (R64, R66, R94) -/

/-- An ILLEGAL word at the pc faults where it stands. -/
theorem seqIssue_illegal {c : Nat} {w : Word} {s : State} (hf : s.Fetches c w) (hl : illegalWord w = true) (body : Nat → State → State) :
    seqIssue c w body s = (s.issued c).raise c (s.active c) fIllegal (s.bank c).pc 0 true none := by
  have hissue : (s.canIssue c && s.fetched c (s.active c) == some w) = true := by simp [hf.1, hf.2]
  have hissued : (s.prefetch c (s.active c)).count (some c) (chanOf c) (s.slot c (s.active c)).owner 2 1 = s.issued c := rfl
  unfold seqIssue
  simp only [hissue, ↓reduceIte, hl, hissued, s.bank_issued c]

theorem FMap.get_slice {α : Type} (d : α) (m : FMap α) (lo n : Nat) {j : Nat} (hj : j < n) :
    FMap.get d (FMap.slice m lo n) j = FMap.get d m (lo + j) := by
  induction m with
  | nil => rfl
  | cons e m ih =>
    obtain ⟨a, v⟩ := e
    have hslice : FMap.slice ((a, v) :: m) lo n = if lo ≤ a ∧ a < lo + n then (a - lo, v) :: FMap.slice m lo n else FMap.slice m lo n := by
      unfold FMap.slice
      rw [List.filter_cons]
      by_cases h : lo ≤ a ∧ a < lo + n <;> simp [h]
    rw [hslice, FMap.get]
    by_cases h : lo ≤ a ∧ a < lo + n
    · rw [if_pos h, FMap.get, ih]
      by_cases ha : a = lo + j
      · rw [if_pos ha, if_pos (by omega)]
      · rw [if_neg ha, if_neg (by omega)]
    · rw [if_neg h, ih, if_neg (by omega)]

theorem State.Checked.phys {s t : State} {c : Nat} (h : s.Checked c t) {k : Nat} (hk : k < 4) (a : Nat) : t.phys c k a = s.phys c k a := by
  unfold State.phys State.fld
  rw [(h.frame 0).regs _ (winReg_notEcc c hk).1]

/-- The line that a load brings into the instruction buffer. -/
theorem State.line_loadLine (s : State) (c : Nat) {k : Nat} (hk : k < 4) (ln : Nat) :
    ((s.loadLine c k ln).core c).line ln = some ⟨ln,
      FMap.slice s.scratch (cellKey c (s.phys c k (ln * 1024))) (min 1024 (s.bound c k - ln * 1024)),
      (wordsOf (ln * 1024) (min 1024 (s.bound c k - ln * 1024))).any fun a => FMap.get false s.ue (wordKey c (s.phys c k a))⟩ := by
  have hread (u : State) (h : s.Checked c u) : FMap.slice u.scratch (cellKey c (u.phys c k (ln * 1024))) =
      FMap.slice s.scratch (cellKey c (s.phys c k (ln * 1024))) := by rw [h.scratch, h.phys hk]
  unfold State.loadLine CoreSt.line
  dsimp only
  rw [State.core_onCore_self]
  simp only [FMap.get_set_self, ↓reduceIte]
  rw [hread]
  split
  · exact .refl s c
  · exact State.checked_foldl_checkWord c k _ s

/-- R64: a line without an uncorrectable word arrives. -/
theorem fetchMiss_arrives {c : Nat} {s : State} {ln n : Nat} (hissue : s.canIssue c = true) (hpc : (s.bank c).pc < s.bound c (s.active c))
    (hln : ln = (s.bank c).pc / 1024) (hmiss : (s.core c).line ln = none) (hn : n = min 1024 (s.bound c (s.active c) - ln * 1024))
    (hgood : ∀ a ∈ wordsOf (ln * 1024) n, FMap.get false s.ue (wordKey c (s.phys c (s.active c) a)) = false) :
    let t := (s.loadLine c (s.active c) ln).count (some c) (chanOf c) (s.bank c).owner 0x08 1
    exec (.fetchMiss c) s = .next t
      ∧ (t.core c).line ln = some ⟨ln, FMap.slice s.scratch (cellKey c (s.phys c (s.active c) (ln * 1024))) n, false⟩ := by
  subst hn
  intro t
  have hline : (t.core c).line ln = some ⟨ln, FMap.slice s.scratch (cellKey c (s.phys c (s.active c) (ln * 1024)))
      (min 1024 (s.bound c (s.active c) - ln * 1024)), false⟩ := by
    rw [(State.SameBut.count _ _ _ _ _ _).core_eq (by simp), s.line_loadLine c (active_lt s c) ln, List.any_eq_false.mpr (by simpa using hgood)]
  refine ⟨congrArg Host.Outcome.next ?_, hline⟩
  have hmiss' : ((s.core c).line ((s.slot c (s.active c)).pc / 1024)).isNone = true := by
    rw [show (s.slot c (s.active c)).pc / 1024 = ln from hln.symm, hmiss]
    rfl
  have hinside : ¬s.bound c (s.active c) ≤ (s.slot c (s.active c)).pc := Nat.not_le.mpr hpc
  have ht : (s.loadLine c (s.active c) ((s.slot c (s.active c)).pc / 1024)).count (some c) (chanOf c) (s.slot c (s.active c)).owner 0x08 1 = t := by
    rw [show (s.slot c (s.active c)).pc / 1024 = ln from hln.symm]
    rfl
  simp only [hissue, Bool.not_true, Bool.false_eq_true, ↓reduceIte, hinside, hmiss', ht]
  rw [show (s.slot c (s.active c)).pc / 1024 = ln from hln.symm, hline]
  rfl

/-! ### A core that has stopped ends its part (R85, R315) -/

/-- What a core that has left its step keeps while its context is torn down: it runs nothing, its sequencer, operations and banks stay as
they are, the teardown no longer waits for it, and no byte moves. -/
structure State.KeepsStopped (c p x : Nat) (s t : State) : Prop where
  run : t.isRunning c = s.isRunning c
  ops : (t.core c).ops = (s.core c).ops
  wait : (t.core c).wait = (s.core c).wait
  slots : (t.core c).slots = (s.core c).slots
  stopWait : (t.ctx p x).stopWait = (s.ctx p x).stopWait
  scratch : s.SameScratch t

theorem State.KeepsStopped.refl (c p x : Nat) (s : State) : s.KeepsStopped c p x s := ⟨rfl, rfl, rfl, rfl, rfl, .refl s⟩

theorem State.KeepsStopped.trans {c p x : Nat} {s t u : State} (h : s.KeepsStopped c p x t) (g : t.KeepsStopped c p x u) :
    s.KeepsStopped c p x u :=
  ⟨g.run.trans h.run, g.ops.trans h.ops, g.wait.trans h.wait, g.slots.trans h.slots, g.stopWait.trans h.stopWait, h.scratch.trans g.scratch⟩

/-- A change of other pieces, and of registers other than the core's status. -/
theorem State.SameBut.keepsStopped {c p x : Nat} {l : List Piece} {s t : State} (h : s.SameBut l t) (hrd : t.rd (statReg c) = s.rd (statReg c))
    (hl : .cores ∉ l ∧ .parts ∉ l ∧ .scratch ∉ l ∧ .ue ∉ l ∧ .ce ∉ l) : s.KeepsStopped c p x t := by
  obtain ⟨hcores, hparts, hscratch, hue, hce⟩ := hl
  have hcore := h.core_eq hcores c
  refine ⟨?_, by rw [hcore], by rw [hcore], by rw [hcore], by rw [h.ctx_eq hparts], h.sameScratch hscratch hue hce⟩
  unfold State.isRunning State.bit
  rw [hrd]

theorem State.KeepsStopped.onNoc (c p x : Nat) (s : State) (f : NocSt → NocSt) : s.KeepsStopped c p x (s.onNoc f) :=
  (State.SameBut.onNoc s f).keepsStopped rfl (by simp)

theorem State.Sends.keepsStopped {c p x : Nat} {s t : State} (h : s.Sends t) : s.KeepsStopped c p x t :=
  h.same.keepsStopped (h.same.rd_eq (by simp) _) (by simp)

theorem State.startZero_keepsStopped (s : State) (c p x d k : Nat) : s.KeepsStopped c p x (s.startZero d k) := by
  have hstops (u : State) : u.KeepsStopped c p x (u.zeroStops d k) := by
    unfold State.zeroStops
    split
    · exact .refl c p x u
    · exact .onNoc c p x u _
  have hrun (v : Nat) : (s.setFld (statReg d) F.CORE_STAT_ZEROING v).isRunning c = s.isRunning c := by
    unfold State.isRunning State.bit isSet
    by_cases hd : statReg c = statReg d
    · rw [hd]
      exact congrArg (fun n => decide (n ≠ 0)) (s.fld_setFld_other (statReg d) F.CORE_STAT_ZEROING F.CORE_STAT_RUN v (by decide) (by decide)
        (by decide) (by decide))
    · rw [s.rd_setFld_ne _ _ hd]
  unfold State.startZero
  split
  · exact State.KeepsStopped.trans ⟨hrun _, rfl, rfl, rfl, rfl, (State.SameBut.setFld s _ _ _).sameScratch (by simp) (by simp) (by simp)⟩
      (hstops _)
  · exact .refl c p x s

theorem State.countDiscarded_keepsStopped (s : State) (c p x : Nat) (cs : List Child) : s.KeepsStopped c p x (s.countDiscarded cs) := by
  have hreg (n : Nat) : statReg c ≠ R.CR_STAT n := by
    have := posOf_lt c
    unfold statReg R.CORE_STAT R.CR_STAT
    omega
  unfold State.countDiscarded
  refine State.KeepsStopped.trans ?_ (.onNoc c p x _ _)
  exact State.each_keeps _ (.refl c p x s) fun u k h =>
    h.trans ((State.SameBut.setFld u _ _ _).keepsStopped (u.rd_setFld_ne _ _ (hreg _)) (by simp))

theorem State.dropPosts_keepsStopped (s : State) (c p x q y : Nat) : s.KeepsStopped c p x (s.dropPosts q y) := by
  have hwork : s.KeepsStopped c p x (s.dropWork q y) := by
    unfold State.dropWork State.dropPartials
    dsimp only
    exact ((State.KeepsStopped.onNoc c p x s _).trans (State.countDiscarded_keepsStopped _ c p x _)).trans (.onNoc c p x _ _)
  have hcredits (u : State) : u.KeepsStopped c p x (u.dropCredits q y) := by
    unfold State.dropCredits
    dsimp only
    refine State.KeepsStopped.trans ?_ (.onNoc c p x _ _)
    exact State.each_keeps _ (.refl c p x _) fun v e h => h.trans (v.sendCtrl_sends _ _).keepsStopped
  unfold State.dropPosts State.dropAwaits
  exact (hwork.trans (hcredits _)).trans (.onNoc c p x _ _)

theorem State.select_keepsStopped (s : State) (c p x q : Nat) (out : Option Nat) : s.KeepsStopped c p x (s.select q out) := by
  have hengage (y : Nat) : s.KeepsStopped c p x (s.engage q y) := by
    refine ⟨rfl, rfl, rfl, rfl, ?_,
      ((State.SameBut.onPart s _ _).trans (State.SameBut.onCtx _ _ _ _)).sameScratch (by simp) (by simp) (by simp)⟩
    unfold State.engage
    rw [State.ctx_onCtx]
    split
    case isTrue h =>
      obtain ⟨rfl, rfl⟩ := h
      simp only [State.ctx, State.part_onPart_self]
      rfl
    case isFalse h =>
      unfold State.ctx
      rw [State.part_onPart]
      split <;> subst_vars <;> rfl
  unfold State.select
  split
  · exact .refl c p x s
  · split
    · exact .refl c p x s
    · exact hengage _

theorem State.zeroCore_keepsStopped (s : State) (c p x : Nat) : s.KeepsStopped c p x (s.zeroCore c) := by
  have hzero (u : State) (todo : CoreSt → Nat) : u.KeepsStopped c p x (u.onCore c fun y => { y with toZero := todo y }) := by
    have hsame := State.SameBut.onCore u c fun y => { y with toZero := todo y }
    refine ⟨rfl, ?_, ?_, ?_, rfl, hsame.sameScratch (by simp) (by simp) (by simp)⟩ <;> rw [State.core_onCore_self]
  have hnext (u : State) : u.KeepsStopped c p x (u.zeroNext c) := by
    unfold State.zeroNext
    split
    · exact .refl c p x u
    · split
      · exact .refl c p x u
      · exact (hzero u _).trans (State.startZero_keepsStopped _ c p x c _)
  exact (hzero s _).trans (hnext _)

theorem CoreSt.slot_quiet (x : CoreSt) (k : Nat) : (x.quiet k).slot k = { x.slot k with loops := [], pend := 0 } :=
  FMap.get_set_self _ _ _ _

/-- The state in which a stopped core has left the step of the context in its slot (R85). -/
def State.leaveStopped (s : State) (c p x : Nat) : State :=
  ((s.onCore c fun y => y.quiet (s.active c)).setFld (statReg c) F.CORE_STAT_RUN 0).onCtx p x
    fun t => { t with stopWait := t.stopWait.filter (· != c) }

/-- R85: a core that has stopped leaves its step, and what the teardown or reset of its context does next keeps it so. -/
theorem corePartStopped_keeps {c p x : Nat} {s : State} (hrun : s.isRunning c = true) (hstopped : (s.core c).stopped = true)
    (hclock : s.paused (chanOf c) = false) (howner : (s.bank c).owner = some (p, x)) :
    ∃ t, exec (.corePartStopped c) s = .next t ∧ (s.leaveStopped c p x).KeepsStopped c p x t := by
  let u := (s.onCore c fun y => y.quiet (s.active c)).setFld (statReg c) F.CORE_STAT_RUN 0
  have howner' : (u.slot c (s.active c)).owner = some (p, x) := by
    show ((u.core c).slot _).owner = _
    rw [show u.core c = (s.core c).quiet (s.active c) from State.core_onCore_self s c fun y => y.quiet (s.active c), CoreSt.slot_quiet]
    exact howner
  generalize hv : s.leaveStopped c p x = v
  have hexec : exec (.corePartStopped c) s = .next (if (v.part p).resetting.isSome then (v.dropPosts p x).zeroCore c
      else if (v.ctx p x).state = .teardown then ((v.dropPosts p x).startZero c (s.active c)).select p none else v) := by
    refine congrArg Host.Outcome.next ?_
    simp only [hrun, hstopped, hclock, Bool.not_false, Bool.and_self, ↓reduceIte]
    rw [show (State.slot _ c (s.active c)).owner = some (p, x) from howner', ← hv]
    rfl
  refine ⟨_, hexec, ?_⟩
  have hposts := v.dropPosts_keepsStopped c p x p x
  split
  · exact hposts.trans (State.zeroCore_keepsStopped _ c p x)
  · split
    · exact (hposts.trans (State.startZero_keepsStopped _ c p x c _)).trans (State.select_keepsStopped _ c p x p none)
    · exact .refl c p x v

theorem State.leaveStopped_spec (s : State) (c p x : Nat) :
    let u := s.leaveStopped c p x
    u.isRunning c = false ∧ u.core c = (s.core c).quiet (s.active c) ∧ c ∉ (u.ctx p x).stopWait ∧ s.SameScratch u := by
  refine ⟨?_, State.core_onCore_self s c fun y => y.quiet (s.active c), ?_, ?_⟩
  · show isSet (State.rd (State.setFld _ _ _ _) _) _ = false
    rw [State.rd_setFld_self, isSet, getF_setF_self _ _ _ (by decide) (by decide)]
    rfl
  · rw [State.leaveStopped, State.ctx_onCtx_self]
    simp
  · exact (((State.SameBut.onCore s _ _).sameScratch (by simp) (by simp) (by simp)).trans
      ((State.SameBut.setFld _ _ _ _).sameScratch (by simp) (by simp) (by simp))).trans
        ((State.SameBut.onCtx _ _ _ _).sameScratch (by simp) (by simp) (by simp))

/-- Settles O19: the faults are `raise_precise` on the instruction's state, the line is what `loadLine` reads, and a stopped core keeps what
it leaves its step with. -/
theorem fetchAndStop : Obligations.FetchAndStop := by
  intro c s
  refine ⟨fun w hf hl hclean => ?_, fun hissue hpc hclean => ?_, fun ln n hissue hpc hln hmiss hn hgood => ?_,
    fun p x hrun hstopped hclock howner => ?_⟩
  · have hexec : exec (.illegalEncoding c) s = .next ((s.issued c).raise c (s.active c) fIllegal (s.bank c).pc 0 true none) := by
      refine congrArg Host.Outcome.next ?_
      simp only [hf.2, hl, ↓reduceIte, seqIssue_illegal hf hl]
    have hchecked := s.checked_issued c
    exact ⟨_, hexec, State.raise_precise hchecked (State.isRunning_of_fetches hf) hclean (by decide) (by decide),
      hchecked.sameScratch.trans ((State.raise_sameBut _ _ _ _ _ _ _ _).sameScratch (by simp) (by simp) (by simp))⟩
  · have hexec : exec (.fetchMiss c) s = .next (s.raise c (s.active c) fFetch (s.bank c).pc 0 true none) := by
      refine congrArg Host.Outcome.next ?_
      have hout : s.bound c (s.active c) ≤ (s.slot c (s.active c)).pc := hpc
      simp only [hissue, hout, Bool.not_true, Bool.false_eq_true, ↓reduceIte]
      rfl
    exact ⟨_, hexec, State.raise_precise (.refl s c) (State.isRunning_of_canIssue hissue) hclean (by decide) (by decide),
      (State.raise_sameBut _ _ _ _ _ _ _ _).sameScratch (by simp) (by simp) (by simp)⟩
  · obtain ⟨hexec, hline⟩ := fetchMiss_arrives hissue hpc hln hmiss hn hgood
    have hchecked := (s.checked_loadLine c (s.active c) ln).trans
      (State.checked_count (s.loadLine c (s.active c) ln) c (some c) (chanOf c) (s.bank c).owner 0x08 1)
    exact ⟨_, _, hexec, hline, fun j hj => FMap.get_slice _ _ _ _ hj, hchecked.slots _ _, hchecked.frame _, hchecked.sameScratch⟩
  · obtain ⟨t, hexec, hkeeps⟩ := corePartStopped_keeps hrun hstopped hclock howner
    obtain ⟨hstill, hcore, hwaits, hscratch⟩ := s.leaveStopped_spec c p x
    have hslot : t.slot c (s.active c) = { s.bank c with loops := [], pend := 0 } := by
      rw [State.slot, CoreSt.slot, hkeeps.slots, hcore]
      exact CoreSt.slot_quiet _ _
    exact ⟨t, hexec, hkeeps.run.trans hstill, hkeeps.ops.trans (by rw [hcore]; rfl), hkeeps.wait.trans (by rw [hcore]; rfl), by rw [hslot],
      by rw [hslot], by rw [hkeeps.stopWait]; exact hwaits, hscratch.trans hkeeps.scratch⟩

end Sys2Proof.Machine

namespace Sys2Proof.Machine

/-! ### Byte strings and words of a memory -/

theorem Memory.getElem_bytes (m : Memory) (a n : Nat) {i : Nat} (h : i < (m.bytes a n).length) : (m.bytes a n)[i] = m.byte (a + i) := by
  induction n generalizing a i with
  | zero => simp at h
  | succ n ih =>
    cases i with
    | zero => rfl
    | succ i =>
      simp only [Memory.bytes, List.getElem_cons_succ]
      rw [ih, Nat.add_right_comm, Nat.add_assoc]

theorem Memory.bytes_eq_iff (m m' : Memory) (a b n : Nat) : m.bytes a n = m'.bytes b n ↔ ∀ i, i < n → m.byte (a + i) = m'.byte (b + i) := by
  refine ⟨fun h i hi => ?_, fun h => List.ext_getElem (by simp) fun i hi hi' => ?_⟩
  · have hlen : i < (m.bytes a n).length := by simpa
    rw [← m.getElem_bytes a n hlen, ← m'.getElem_bytes b n (by simpa)]
    simp only [h]
  · rw [Memory.getElem_bytes, Memory.getElem_bytes]
    exact h i (by simpa using hi)

theorem nodup_eraseDups {α : Type} [BEq α] [LawfulBEq α] (l : List α) : l.eraseDups.Nodup := by
  induction hn : l.length using Nat.strong_induction_on generalizing l with
  | _ n ih =>
    cases l with
    | nil => exact List.nodup_nil
    | cons a l =>
      rw [List.eraseDups_cons, List.nodup_cons, List.mem_eraseDups]
      have hlen := List.length_filter_le (fun b => !b == a) l
      exact ⟨by simp, ih _ (by rw [← hn, List.length_cons]; omega) _ rfl⟩

/-- A fold whose turns each touch the bytes of one word leaves the bytes of other words alone. -/
theorem foldl_byte_out {α : Type} {word : α → Nat} {g : Memory → α → Memory}
    (hg : ∀ m v a, a < word v * 8 ∨ word v * 8 + 8 ≤ a → (g m v).byte a = m.byte a) {vs : List α} (m : Memory) {a : Nat}
    (ha : ∀ v ∈ vs, a < word v * 8 ∨ word v * 8 + 8 ≤ a) : (vs.foldl g m).byte a = m.byte a := by
  induction vs generalizing m with
  | nil => rfl
  | cons v vs ih => rw [List.foldl_cons, ih _ fun w hw => ha w (List.mem_cons_of_mem _ hw), hg m v a (ha v List.mem_cons_self)]

/-- A fold whose turns each touch the bytes of one word, of different words: in a word, the bytes are those of its own turn, taken on a memory
that holds the word as it was. -/
theorem foldl_byte_in {α : Type} {word : α → Nat} {g : Memory → α → Memory}
    (hg : ∀ m v a, a < word v * 8 ∨ word v * 8 + 8 ≤ a → (g m v).byte a = m.byte a) {vs : List α} (hvs : (vs.map word).Nodup) (m : Memory)
    {v : α} (hv : v ∈ vs) :
    ∃ m', m'.bytes (word v * 8) 8 = m.bytes (word v * 8) 8 ∧ (vs.foldl g m).bytes (word v * 8) 8 = (g m' v).bytes (word v * 8) 8 := by
  obtain ⟨before, after, rfl⟩ := List.append_of_mem hv
  rw [List.map_append, List.map_cons, List.nodup_append, List.nodup_cons] at hvs
  obtain ⟨-, ⟨hafter, -⟩, hbefore⟩ := hvs
  have hother {w : α} (hw : word w ≠ word v) {j : Nat} (hj : j < 8) : word v * 8 + j < word w * 8 ∨ word w * 8 + 8 ≤ word v * 8 + j := by omega
  refine ⟨before.foldl g m, (Memory.bytes_eq_iff _ _ _ _ _).mpr fun j hj => ?_, ?_⟩
  · exact foldl_byte_out hg m fun w hw =>
      hother (hbefore (word w) (List.mem_map_of_mem hw) (word v) List.mem_cons_self) hj
  · rw [List.foldl_append, List.foldl_cons]
    exact (Memory.bytes_eq_iff _ _ _ _ _).mpr fun j hj => foldl_byte_out hg _ fun w hw =>
      hother (fun e => hafter (e ▸ List.mem_map_of_mem hw)) hj

theorem get_foldl_set_of_ne {α β : Type} [DecidableEq β] (d : β) {word : α → Nat} (f : α → β) {vs : List α} (m : FMap β) {w : Nat}
    (hw : ∀ v ∈ vs, word v ≠ w) : FMap.get d (vs.foldl (fun m v => FMap.set d m (word v) (f v)) m) w = FMap.get d m w := by
  induction vs generalizing m with
  | nil => rfl
  | cons v vs ih =>
    rw [List.foldl_cons, ih _ fun u hu => hw u (List.mem_cons_of_mem _ hu), FMap.get_set_ne _ _ _ (hw v List.mem_cons_self).symm]

theorem get_foldl_set_of_mem {α β : Type} [DecidableEq β] (d : β) {word : α → Nat} (f : α → β) {vs : List α} (m : FMap β)
    (hvs : (vs.map word).Nodup) {v : α} (hv : v ∈ vs) :
    FMap.get d (vs.foldl (fun m v => FMap.set d m (word v) (f v)) m) (word v) = f v := by
  obtain ⟨before, after, rfl⟩ := List.append_of_mem hv
  rw [List.map_append, List.map_cons, List.nodup_append, List.nodup_cons] at hvs
  obtain ⟨-, ⟨hafter, -⟩, -⟩ := hvs
  have hne (u : α) (hu : u ∈ after) : word u ≠ word v := fun e => hafter (e ▸ List.mem_map_of_mem hu)
  rw [List.foldl_append, List.foldl_cons, get_foldl_set_of_ne d f _ hne, FMap.get_set_self]

/-! ### What an access meets in the words of others (R90) -/

theorem length_eightOf (bs : List Byte) : (eightOf bs).length = 8 := by simp [eightOf]

theorem Overlap.met_mem (v : Overlap) : v.met ∈ v.values := by
  have hlt : v.pick % v.values.length < v.values.length := Nat.mod_lt _ (by simp [Overlap.values])
  rw [Overlap.met, nth, List.getD_eq_getElem _ _ hlt]
  exact List.getElem_mem hlt

theorem Overlap.length_met (v : Overlap) : v.met.1.length = 8 := by
  have h := v.met_mem
  simp only [Overlap.values, List.mem_append, List.mem_map, List.mem_cons] at h
  obtain ⟨x, -, h⟩ | h | ⟨x, -, h⟩ := h
  · exact h ▸ length_eightOf _
  · exact h ▸ length_eightOf _
  · exact h ▸ length_eightOf _

theorem Overlap.putMet_byte_out (m : Memory) (v : Overlap) (a : Nat) (ha : a < v.word * 8 ∨ v.word * 8 + 8 ≤ a) :
    (m.putBytes (v.word * 8) v.met.1).byte a = m.byte a := m.byte_putBytes_out _ _ _ (by rw [v.length_met]; exact ha)

/-- An operation meets each of different words whole, as one of its values. -/
theorem metIn_meeting (s : State) {vs : List Overlap} (hvs : (vs.map Overlap.word).Nodup) : MetIn s (s.meeting vs) vs := by
  refine ⟨fun v hv => ⟨?_, get_foldl_set_of_mem false (fun v : Overlap => v.met.2) s.ue hvs hv, v.met_mem⟩, fun a ha => ?_, fun w hw => ?_⟩
  · obtain ⟨m', -, h⟩ := foldl_byte_in Overlap.putMet_byte_out hvs s.scratch hv
    have hput := m'.bytes_putBytes (v.word * 8) v.met.1
    rw [v.length_met] at hput
    exact h.trans hput
  · exact foldl_byte_out Overlap.putMet_byte_out s.scratch ha
  · exact get_foldl_set_of_ne false (fun v : Overlap => v.met.2) s.ue hw

/-- The words of an operation's overlaps are different words. -/
theorem State.nodup_clash (s : State) (c tok : Nat) : ((s.clash c tok).map Overlap.word).Nodup := by
  unfold State.clash State.overlaps
  dsimp only
  rw [List.map_map, show (Overlap.word ∘ _) = Prod.fst from rfl, List.zipIdx_map_fst]
  exact nodup_eraseDups _

/-- What is met in given words of a state is one memory and one set of marks. -/
theorem MetIn.byte_eq {s u u' : State} {vs : List Overlap} (h : MetIn s u vs) (h' : MetIn s u' vs) (a : Nat) :
    u.scratch.byte a = u'.scratch.byte a := by
  obtain ⟨hmet, hother, -⟩ := h
  obtain ⟨hmet', hother', -⟩ := h'
  by_cases ha : ∀ v ∈ vs, a < v.word * 8 ∨ v.word * 8 + 8 ≤ a
  · rw [hother a ha, hother' a ha]
  · push Not at ha
    obtain ⟨v, hv, hlo, hhi⟩ := ha
    have hword := (hmet v hv).1.trans (hmet' v hv).1.symm
    have := (Memory.bytes_eq_iff _ _ _ _ _).mp hword (a - v.word * 8) (by omega)
    rwa [Nat.add_sub_cancel' hlo] at this

theorem MetIn.ue_eq {s u u' : State} {vs : List Overlap} (h : MetIn s u vs) (h' : MetIn s u' vs) (w : Nat) :
    FMap.get false u.ue w = FMap.get false u'.ue w := by
  obtain ⟨hmet, -, hother⟩ := h
  obtain ⟨hmet', -, hother'⟩ := h'
  by_cases hw : ∀ v ∈ vs, v.word ≠ w
  · rw [hother w hw, hother' w hw]
  · push Not at hw
    obtain ⟨v, hv, rfl⟩ := hw
    rw [(hmet v hv).2.1, (hmet' v hv).2.1]

end Sys2Proof.Machine

namespace Sys2Proof.Machine

/-! ### Scalar loads (R62, R90, R100) -/

/-- The checks of words of which none is uncorrectable pass. -/
theorem State.checkWords_passes {c k : Nat} (hk : k < 4) (l : List Nat) (s : State)
    (hl : ∀ a ∈ l, FMap.get false s.ue (wordKey c (s.phys c k a)) = false) : (s.checkWords c k l).2 = none := by
  induction l generalizing s with
  | nil => rfl
  | cons a l ih =>
    have hgood := hl a List.mem_cons_self
    have hword : (s.checkWord c k a).2 = false := by
      unfold State.checkWord
      dsimp only
      rw [hgood, if_neg (by decide)]
      split <;> rfl
    have hchecked := s.checked_checkWord c k a
    have hrest : ((s.checkWord c k a).1.checkWords c k l).2 = none := by
      refine ih _ fun b hb => ?_
      rw [hchecked.marks.1, hchecked.phys hk]
      exact hl b (List.mem_cons_of_mem _ hb)
    unfold State.checkWords
    split
    · rename_i h; rw [h] at hword; cases hword
    · rename_i h; rw [h] at hrest; exact hrest

theorem State.checkRange_passes {c k : Nat} (hk : k < 4) {a n : Nat} {s : State}
    (h : ∀ x ∈ wordsOf a n, FMap.get false s.ue (wordKey c (s.phys c k x)) = false) : (s.checkRange c k a n).2 = none := by
  unfold State.checkRange
  split
  · rfl
  · exact State.checkWords_passes hk _ s h

/-- The size that a legal load or store moves. -/
theorem FmtM.sz_of_legal {f : FmtM} {op : BitVec 6} (hop : op = 12#6 ∨ op = 13#6 ∨ op = 14#6) (h : illegalWord (f.word op) = false) :
    f.sz = 0#2 ∨ f.sz = 1#2 ∨ f.sz = 2#2 := by
  have hsz : (f.word op).extractLsb' 12 2 = f.sz := by
    unfold FmtM.word
    ext i hi
    simp only [BitVec.getElem_extractLsb', BitVec.getLsbD_append]
    rw [if_pos (by omega), if_neg (by omega), if_pos (by omega), show 12 + i - 12 = i by omega]
    exact BitVec.getLsbD_eq_getElem hi
  have hopcode : opcodeOf (f.word op) = op.toNat := Laws.Opcode.opcode_of_append _ _
  have hne : f.sz ≠ 3#2 := by
    rintro he
    obtain rfl | rfl | rfl := hop <;>
      simp only [illegalWord, hopcode, BitVec.toNat_ofNat, Nat.reducePow, Nat.reduceMod, Nat.reduceAdd, Nat.reduceSub] at h <;>
      exact absurd (toNat_field _ 12 2 |>.trans (by rw [hsz, he]; rfl)) (of_decide_eq_false h)
  generalize f.sz = z at hne ⊢
  revert z
  decide

theorem leNat_lt (bs : List Byte) : leNat bs < 256 ^ bs.length := by
  induction bs with
  | nil => exact Nat.one_pos
  | cons b bs ih =>
    rw [leNat, List.length_cons, Nat.pow_succ]
    have := b.isLt
    omega

/-- A number read as two's complement of at most 32 bits is the word that holds it. -/
theorem toInt_ofInt_sx {w : Nat} (hpos : 0 < w) (hw : w ≤ 32) (v : Nat) : (BitVec.ofInt 32 (sx w v)).toInt = sx w v := by
  have hhalf : 2 ^ w = 2 * 2 ^ (w - 1) := by rw [← Nat.pow_succ', Nat.succ_eq_add_one, Nat.sub_add_cancel hpos]
  have hmax : 2 ^ (w - 1) ≤ 2 ^ 31 := Nat.pow_le_pow_right (by decide) (by omega)
  have hmod : v % 2 ^ w < 2 ^ w := Nat.mod_lt _ (Nat.two_pow_pos _)
  rw [BitVec.toInt_ofInt]
  unfold sx
  dsimp only
  generalize v % 2 ^ w = x at hmod ⊢
  generalize 2 ^ (w - 1) = p at hhalf hmax ⊢
  rw [hhalf] at hmod ⊢
  split <;> exact Int.bmod_eq_of_le (by omega) (by omega)

/-- R100: a load's value, by its size and sign. -/
theorem loadSpec_loadValue {f : FmtM} (hsz : f.sz = 0#2 ∨ f.sz = 1#2 ∨ f.sz = 2#2) (signed : Bool) {bs : List Byte}
    (hbs : bs.length = 2 ^ f.sz.toNat) : loadSpec (2 ^ f.sz.toNat) signed bs (loadValue f signed bs) := by
  have hsize : 0 < 8 * 2 ^ f.sz.toNat ∧ 8 * 2 ^ f.sz.toNat ≤ 32 := by obtain h | h | h := hsz <;> rw [h] <;> decide
  have hlt : leNat bs < 2 ^ (8 * 2 ^ f.sz.toNat) := by
    have := leNat_lt bs
    rwa [hbs, show 256 = 2 ^ 8 from rfl, ← Nat.pow_mul] at this
  unfold loadSpec loadValue memSize
  refine ⟨?_, ?_, ?_⟩
  · rintro rfl
    exact Nat.mod_eq_of_lt (hlt.trans_le (Nat.pow_le_pow_right (by decide) hsize.2))
  · rintro rfl hpos
    rw [if_pos rfl, toInt_ofInt_sx hsize.1 hsize.2, sx, Nat.mod_eq_of_lt hlt]
    exact if_pos hpos
  · rintro rfl hneg
    rw [if_pos rfl, toInt_ofInt_sx hsize.1 hsize.2, sx, Nat.mod_eq_of_lt hlt]
    exact (if_neg (Nat.not_lt.mpr hneg)).trans (by push_cast; rfl)

theorem State.coreFrame_asRead (s : State) (c k : Nat) : s.CoreFrame c k (s.asRead c) := by
  unfold State.asRead
  split
  · exact .refl s c k
  · exact ⟨by constructor <;> rfl, fun _ _ => rfl, fun _ _ _ => rfl, fun _ => .refl _⟩

theorem State.slot_asRead (s : State) (c d j : Nat) : (s.asRead c).slot d j = s.slot d j := by
  unfold State.asRead
  split <;> rfl

/-- A load leaves the marks of a checked read of the words as it meets them, and puts the words back. -/
theorem State.checked_asRead (s : State) (c k a n : Nat) (hce : (s.asRead c).ce = s.ce) :
    s.Checked c { ((s.asRead c).checkRange c k a n).1 with scratch := s.scratch, ue := s.ue } := by
  have hread := (s.asRead c).checked_checkRange c k a n
  have hframe (j : Nat) := (s.coreFrame_asRead c j).trans (hread.frame j)
  have hslots (d j : Nat) := (hread.slots d j).trans (s.slot_asRead c d j)
  have hmarks := hread.marks.2.trans hce
  generalize ((s.asRead c).checkRange c k a n).1 = t at hframe hslots hmarks
  refine ⟨fun j => (hframe j).trans ?_, hslots, rfl, rfl, hmarks⟩
  exact ⟨by constructor <;> rfl, fun _ _ => rfl, fun _ _ _ => rfl, fun _ => .refl _⟩

theorem memAddr_lt (f : FmtM) (b : Slot) : memAddr f b < 2 ^ 22 := by
  unfold memAddr wrapN
  omega

theorem State.Checked.bound {s t : State} {c : Nat} (h : s.Checked c t) {k : Nat} (hk : k < 4) : t.bound c k = s.bound c k := by
  unfold State.bound
  rw [(h.frame 0).regs _ (winReg_notEcc c hk).1]

/-- The faults of a scalar access before it reads, by its bound and plane (R84, R100). -/
theorem memFaults_issued (f : FmtM) (s : State) (c : Nat) :
    (memAddr f (s.bank c) + 2 ^ f.sz.toNat ≤ s.bound c (s.active c) → aPlane ((s.bank c).a f.aB.toNat) = false →
      memFaults f (s.issued c) c (s.active c) = [])
    ∧ (memAddr f (s.bank c) + 2 ^ f.sz.toNat ≤ s.bound c (s.active c) → aPlane ((s.bank c).a f.aB.toNat) = true →
      memFaults f (s.issued c) c (s.active c) = [⟨fOperand, ((s.bank c).a f.aB.toNat).toNat⟩])
    ∧ (s.bound c (s.active c) < memAddr f (s.bank c) + 2 ^ f.sz.toNat →
      memFaults f (s.issued c) c (s.active c) = ⟨fData, max (memAddr f (s.bank c)) (s.bound c (s.active c))⟩
        :: if aPlane ((s.bank c).a f.aB.toNat) then [⟨fOperand, ((s.bank c).a f.aB.toNat).toNat⟩] else []) := by
  have hsize : memSize f ≠ 0 := (Nat.two_pow_pos _).ne'
  have hlt := (s.bound_lt c (s.active c))
  have haddr := memAddr_lt f (s.bank c)
  unfold memFaults
  simp only [s.bank_issued, (s.checked_issued c).bound (active_lt s c), beyond, hsize, decide_false, Bool.false_or, decide_eq_true_eq]
  refine ⟨fun hin hp => ?_, fun hin hp => ?_, fun hout => ?_⟩
  · rw [if_pos (show memAddr f (s.bank c) + memSize f ≤ _ from hin), hp]
    rfl
  · rw [if_pos (show memAddr f (s.bank c) + memSize f ≤ _ from hin), hp]
    rfl
  · rw [if_neg (show ¬memAddr f (s.bank c) + memSize f ≤ _ from Nat.not_le.mpr hout)]
    simp only [List.singleton_append, Nat.mod_eq_of_lt (max_lt haddr hlt)]

/-- A bank updated, and the sequencer moved on, after the marks of checked reads. -/
theorem State.Checked.onSlot_advance {s u : State} {c : Nat} (h : s.Checked c u) (k : Nat) (f : Slot → Slot) :
    ((u.onSlot c k f).advance c k).slot c k = (f (s.slot c k)).after (f (s.slot c k)).pc
      ∧ s.CoreFrame c k ((u.onSlot c k f).advance c k) ∧ s.SameScratch ((u.onSlot c k f).advance c k) := by
  refine ⟨?_, ((h.frame k).trans (State.coreFrame_onSlot _ _ _ _)).trans (State.coreFrame_onSlot _ _ _ _),
    h.sameScratch.trans (((State.SameBut.onSlot _ _ _ _).trans (State.SameBut.onSlot _ _ _ _)).sameScratch (by simp) (by simp) (by simp))⟩
  rw [State.advance, State.slot_onSlot_self, State.slot_onSlot_self, h.slots]

theorem State.ce_asRead (s : State) (c : Nat) : (s.asRead c).ce = s.ce := by
  unfold State.asRead
  split <;> rfl

/-- A load whose faults do not arise: rd gets the bytes as the load meets them. -/
theorem scalarLoad_completes (signed : Bool) {f : FmtM} {c : Nat} {s : State}
    (hsz : f.sz = 0#2 ∨ f.sz = 1#2 ∨ f.sz = 2#2) (hplane : aPlane ((s.bank c).a f.aB.toNat) = false)
    (hbound : memAddr f (s.bank c) + 2 ^ f.sz.toNat ≤ s.bound c (s.active c))
    (hread : ∀ x ∈ wordsOf (memAddr f (s.bank c)) (2 ^ f.sz.toNat),
      FMap.get false ((s.issued c).asRead c).ue (wordKey c (((s.issued c).asRead c).phys c (s.active c) x)) = false) :
    let t := scalarLoad signed f c (s.active c) (s.issued c)
    loadSpec (2 ^ f.sz.toNat) signed (((s.issued c).asRead c).winBytes c (s.active c) (memAddr f (s.bank c)) (2 ^ f.sz.toNat))
        ((t.slot c (s.active c)).s f.r.toNat)
      ∧ (s.bank c).Keeps (some f.r.toNat) none none (t.slot c (s.active c)) ∧ s.CoreFrame c (s.active c) t ∧ s.SameScratch t := by
  intro t
  have hchecked := (s.checked_issued c).trans
    ((s.issued c).checked_asRead c (s.active c) (memAddr f (s.bank c)) (2 ^ f.sz.toNat) ((s.issued c).ce_asRead c))
  have hpass := State.checkRange_passes (active_lt s c) hread
  let value := loadValue f signed (((s.issued c).asRead c).winBytes c (s.active c) (memAddr f (s.bank c)) (2 ^ f.sz.toNat))
  have ht : t = State.advance (State.onSlot { (((s.issued c).asRead c).checkRange c (s.active c) (memAddr f (s.bank c))
      (2 ^ f.sz.toNat)).1 with scratch := (s.issued c).scratch, ue := (s.issued c).ue } c (s.active c) fun b => b.setS f.r.toNat value)
      c (s.active c) := by
    simp only [t, scalarLoad, (memFaults_issued f s c).1 hbound hplane, s.bank_issued, memSize, hpass]
    rfl
  obtain ⟨hslot, hframe⟩ := hchecked.onSlot_advance (s.active c) fun b => b.setS f.r.toNat value
  rw [← ht] at hslot hframe
  refine ⟨?_, ?_, hframe⟩ <;> rw [hslot]
  · rw [Slot.s_after, Slot.s_setS_self]
    exact loadSpec_loadValue hsz signed (Memory.bytes_length _ _ _)
  · exact Slot.keeps_after (Slot.keeps_setS _ _ _) _

end Sys2Proof.Machine

namespace Sys2Proof.Machine

/-! ### Two faults of one instruction (R84) -/

theorem State.issues_raiseAt (u : State) (order : Option Nat) (c k cls pc faddr : Nat) (precise : Bool) (tok : Option Nat) (d : Nat) :
    ((u.raiseAt order c k cls pc faddr precise tok).core d).issues = (u.core d).issues := by
  have onSlot (v : State) (f : Slot → Slot) : ((v.onSlot c k f).core d).issues = (v.core d).issues := by
    unfold State.onSlot
    rw [State.core_onCore]
    split
    · rename_i h; subst h; rfl
    · rfl
  have hrec : ((u.record c k cls pc faddr precise tok order).core d).issues = (u.core d).issues :=
    onSlot u fun b => { b with faultAt := u.tb2, rank := some ⟨u.now, order⟩ }
  unfold State.raiseAt
  dsimp only
  split
  · rw [State.incFld, State.setFld, State.core_wr]
    split
    · rw [onSlot, State.setFld, State.core_wr, hrec]
    · rfl
  · have hnote (v : State) (x : Nat) (own : Nat × Nat) :
        (((v.setFld (statReg c) F.CORE_STAT_FAULTED x).markCp (chanOf c) tvFault own cls).core d).issues = (v.core d).issues := by
      rw [(v.noteFaulted_frame c x own cls).1.core_eq (by simp)]
    split
    · rw [State.core_onCore]
      split
      · rename_i h
        subst h
        rw [CoreSt.halt, hnote, hrec]
      · rw [hnote, hrec]
    · rw [hnote, hrec]

/-- A later fault of the same instruction, of no lower class, is only counted. -/
theorem State.FaultsPrecisely.again {s t : State} {c cls faddr : Nat} (h : s.FaultsPrecisely c cls faddr t) (hnow : t.now = s.now)
    (hissues : (t.core c).issues = (s.core c).issues) {cls' : Nat} (hcls : cls ≤ cls') (pc addr : Nat) :
    s.FaultsPrecisely c cls faddr (t.raise c (s.active c) cls' pc addr true none) := by
  obtain ⟨hFaultFpc, hFaultFaddr, -⟩ := coreKeys_ne (chanOf c) (posOf c) (s.active c) (active_lt s c)
  have hkept : t.outranks c (s.active c) cls' (some (s.core c).issues) = false := by
    have hlower : decide (cls' < t.fld (R.CORE_CTX_FAULT (chanOf c) (posOf c) (s.active c)) F.CORE_CTX_FAULT_CLASS) = false := by
      rw [h.cls]
      exact decide_eq_false (Nat.not_lt.mpr hcls)
    rw [State.outranks, h.bank, hlower, hnow]
    simp
  have hraise : t.raise c (s.active c) cls' pc addr true none
      = t.incFld (R.CORE_CTX_FAULT (chanOf c) (posOf c) (s.active c)) F.CORE_CTX_FAULT_COUNT 1 := by
    have horder : t.orderOf c true none = some (s.core c).issues := congrArg some hissues
    unfold State.raise State.raiseAt
    simp only [horder, h.valid, hkept, ↓reduceIte, Bool.false_eq_true]
  rw [hraise, State.incFld]
  generalize satInc _ _ _ = n
  have hfld (f : Fld) (h1 : f.lo ≤ f.hi) (h2 : f.hi < F.CORE_CTX_FAULT_COUNT.lo ∨ F.CORE_CTX_FAULT_COUNT.hi < f.lo) :
      (t.setFld (R.CORE_CTX_FAULT (chanOf c) (posOf c) (s.active c)) F.CORE_CTX_FAULT_COUNT n).fld
        (R.CORE_CTX_FAULT (chanOf c) (posOf c) (s.active c)) f = t.fld (R.CORE_CTX_FAULT (chanOf c) (posOf c) (s.active c)) f :=
    State.fld_setFld_other _ _ _ _ _ (by decide) (by decide) h1 h2
  have hbit (f : Fld) (h1 : f.lo ≤ f.hi) (h2 : f.hi < F.CORE_CTX_FAULT_COUNT.lo ∨ F.CORE_CTX_FAULT_COUNT.hi < f.lo) :
      (t.setFld (R.CORE_CTX_FAULT (chanOf c) (posOf c) (s.active c)) F.CORE_CTX_FAULT_COUNT n).bit
        (R.CORE_CTX_FAULT (chanOf c) (posOf c) (s.active c)) f = t.bit (R.CORE_CTX_FAULT (chanOf c) (posOf c) (s.active c)) f :=
    congrArg (fun m => decide (m ≠ 0)) (hfld f h1 h2)
  refine ⟨?isValid, ?ofClass, ?precise, ?token, ?fpc, ?faddr, h.stopped, h.bank⟩
  case isValid => rw [hbit _ (by decide) (by decide)]; exact h.valid
  case ofClass => rw [hfld _ (by decide) (by decide)]; exact h.cls
  case precise => rw [hbit _ (by decide) (by decide)]; exact h.precise
  case token => rw [hbit _ (by decide) (by decide)]; exact h.token
  case fpc => rw [State.fld, State.rd_setFld_ne _ _ _ hFaultFpc.symm]; exact h.fpc
  case faddr => rw [State.rd_setFld_ne _ _ _ hFaultFaddr.symm]; exact h.faddr

/-- R84: of the faults of one instruction the first in the list, of the lowest class, is recorded. -/
theorem State.raiseAll_faults {s : State} {c : Nat} (hrun : s.isRunning c = true) (hclean : s.Clean c) {e : Flt} {l : List Flt}
    (hcls : e.cls < 256) (haddr : e.addr < 2 ^ 32) (hl : ∀ e' ∈ l, e.cls ≤ e'.cls) :
    let t := (s.issued c).raiseAll c (s.active c) (s.bank c).pc (e :: l)
    s.FaultsPrecisely c e.cls e.addr t ∧ s.SameScratch t := by
  have hchecked := s.checked_issued c
  let first := (s.issued c).raise c (s.active c) e.cls (s.bank c).pc e.addr true none
  have hsame := (s.issued c).raise_sameBut c (s.active c) e.cls (s.bank c).pc e.addr true none
  have hfirst : s.FaultsPrecisely c e.cls e.addr first ∧ first.now = s.now ∧ (first.core c).issues = (s.core c).issues ∧ s.SameScratch first :=
    ⟨State.raise_precise hchecked hrun hclean hcls haddr, (hsame.now.resolve_left (by simp)).trans (hchecked.frame 0).uncore.now,
      ((s.issued c).issues_raiseAt _ _ _ _ _ _ _ _ c).trans ((hchecked.frame 0).units c).issues,
      hchecked.sameScratch.trans (hsame.sameScratch (by simp) (by simp) (by simp))⟩
  obtain ⟨hfaults, -, -, hscratch⟩ := List.foldlRecOn l (fun u e => u.raise c (s.active c) e.cls (s.bank c).pc e.addr true none) hfirst
    (motive := fun u => s.FaultsPrecisely c e.cls e.addr u ∧ u.now = s.now ∧ (u.core c).issues = (s.core c).issues ∧ s.SameScratch u)
    fun u ⟨hu, hnow, hissues, hscratch⟩ e' he' =>
      have hsame' := u.raise_sameBut c (s.active c) e'.cls (s.bank c).pc e'.addr true none
      ⟨hu.again hnow hissues (hl e' he') _ _, (hsame'.now.resolve_left (by simp)).trans hnow,
        (u.issues_raiseAt _ _ _ _ _ _ _ _ c).trans hissues, hscratch.trans (hsame'.sameScratch (by simp) (by simp) (by simp))⟩
  exact ⟨hfaults, hscratch⟩

/-- R84, R100: a scalar access beyond the bound, or through an address register with PLANE = 1, faults before it moves a byte. -/
theorem memFaults_raise {s : State} {c : Nat} {w : Word} (hw : s.Fetches c w) (hclean : s.Clean c) (f : FmtM) :
    let t := (s.issued c).raiseAll c (s.active c) (s.bank c).pc (memFaults f (s.issued c) c (s.active c))
    (aPlane ((s.bank c).a f.aB.toNat) = true → memAddr f (s.bank c) + 2 ^ f.sz.toNat ≤ s.bound c (s.active c) →
      s.FaultsPrecisely c 5 ((s.bank c).a f.aB.toNat).toNat t ∧ s.SameScratch t)
    ∧ (s.bound c (s.active c) < memAddr f (s.bank c) + 2 ^ f.sz.toNat →
      s.FaultsPrecisely c 2 (max (memAddr f (s.bank c)) (s.bound c (s.active c))) t ∧ s.SameScratch t) := by
  obtain ⟨-, hplane, hbeyond⟩ := memFaults_issued f s c
  have hrun := State.isRunning_of_fetches hw
  refine ⟨fun hp hin => ?_, fun hout => ?_⟩
  · rw [hplane hin hp]
    exact State.raiseAll_faults hrun hclean (e := ⟨fOperand, _⟩) (show 5 < 256 by decide) (BitVec.isLt _) (by simp)
  · rw [hbeyond hout]
    refine State.raiseAll_faults hrun hclean (e := ⟨fData, _⟩) (show 2 < 256 by decide) ?_ ?_
    · exact (max_lt (memAddr_lt f _) (s.bound_lt c _)).trans (by decide)
    · intro e he
      split at he
      · rw [List.mem_singleton.mp he]
        exact show 2 ≤ 5 by decide
      · cases he

/-! ### Loads and the words of operations in flight (R90, R100) -/

theorem wordsOf_spec {a n x : Nat} (h : x ∈ wordsOf a n) : x % 8 = 0 ∧ x < a + n ∧ a < x + 8 := by
  unfold wordsOf at h
  split at h
  · cases h
  · obtain ⟨i, hi, rfl⟩ := List.mem_map.mp h
    rw [List.mem_range] at hi
    omega

/-- A load with operations in flight meets the words that they touch as `meeting` says. -/
theorem State.metIn_asRead {s : State} {c : Nat} (hops : (s.core c).ops ≠ []) : MetIn s (s.asRead c) (s.clash c 16) := by
  have hmeeting := metIn_meeting s (s.nodup_clash c 16)
  unfold State.asRead
  rw [if_neg (by simpa using hops)]
  exact hmeeting

/-- Where no operation in flight touches the words of a range, it is read as it stands. -/
theorem State.asRead_undisturbed {s : State} {c a n : Nat} (h : (s.core c).ops = [] ∨ Undisturbed s c 16 a n) :
    (s.asRead c).winBytes c (s.active c) a n = s.winBytes c (s.active c) a n
      ∧ ∀ x ∈ wordsOf a n, FMap.get false (s.asRead c).ue (wordKey c (s.phys c (s.active c) x))
        = FMap.get false s.ue (wordKey c (s.phys c (s.active c) x)) := by
  by_cases hops : (s.core c).ops = []
  · have : s.asRead c = s := by
      unfold State.asRead
      rw [if_pos (by rw [hops]; rfl)]
    rw [this]
    exact ⟨rfl, fun _ _ => rfl⟩
  · obtain ⟨-, hbyte, hmark⟩ := State.metIn_asRead hops
    have hfree := h.resolve_left hops
    have hphys (x : Nat) : (s.asRead c).phys c (s.active c) x = s.phys c (s.active c) x := by
      unfold State.phys State.fld
      rw [((s.coreFrame_asRead c 0).regs _ (winReg_notEcc c (active_lt s c)).1)]
    refine ⟨?_, fun x hx => hmark _ fun v hv hword => ?_⟩
    · unfold State.winBytes
      rw [hphys, Memory.bytes_eq_iff]
      exact fun j hj => hbyte _ fun v hv => by
        have := hfree v hv
        omega
    · obtain ⟨halign, hlo, hhi⟩ := wordsOf_spec hx
      have := hfree v hv
      unfold wordKey State.phys at hword
      unfold cellKey State.phys at this
      omega

theorem exec_scalarLoad {signed : Bool} {f : FmtM} {c : Nat} {s : State} {i : Instr} (hi : i = if signed then .scLd c f else .scLdu c f)
    (h : s.Executes c (f.word (if signed then 12#6 else 13#6))) :
    exec i s = .next (scalarLoad signed f c (s.active c) (s.issued c)) := by
  subst hi
  cases signed <;> exact congrArg Host.Outcome.next (seqIssue_executes h _)

theorem scalarLoad_faults {signed : Bool} {f : FmtM} {c : Nat} {s : State} (h : memFaults f (s.issued c) c (s.active c) ≠ []) :
    scalarLoad signed f c (s.active c) (s.issued c)
      = (s.issued c).raiseAll c (s.active c) (s.bank c).pc (memFaults f (s.issued c) c (s.active c)) := by
  unfold scalarLoad
  dsimp only
  rw [s.bank_issued, if_pos (by simpa using h)]

theorem scalarLoads : ScalarLoads := by
  intro c f signed s i hi h
  have hsz : f.sz = 0#2 ∨ f.sz = 1#2 ∨ f.sz = 2#2 := FmtM.sz_of_legal (by cases signed <;> simp) h.legal
  have hexec := exec_scalarLoad hi h
  obtain ⟨-, hfaultPlane, hfaultBound⟩ := memFaults_issued f s c
  have hchecked := s.checked_issued c
  have hactive : (s.issued c).active c = s.active c := congrArg (getF · F.CORE_STAT_ACTIVE)
    ((hchecked.frame 0).regs _ (coreKeys_notEcc c (s.active c) (active_lt s c)).2)
  have hphys (x : Nat) : ((s.issued c).asRead c).phys c (s.active c) x = s.phys c (s.active c) x := by
    rw [← hchecked.phys (active_lt s c)]
    unfold State.phys State.fld
    rw [(((s.issued c).coreFrame_asRead c 0).regs _ (winReg_notEcc c (active_lt s c)).1)]
  refine ⟨fun hplane hread hfree => ?_, fun hplane hops u hmet hregs hread => ?_, fun hplane hin hclean => ?_, fun hout hclean => ?_, rfl⟩
  · have hfree' : ((s.issued c).core c).ops = [] ∨ Undisturbed (s.issued c) c 16 (memAddr f (s.bank c)) (2 ^ f.sz.toNat) := by
      rwa [((hchecked.frame 0).units c).ops]
    obtain ⟨hbytes, hmarks⟩ := State.asRead_undisturbed hfree'
    rw [hactive] at hbytes hmarks
    have hdone := scalarLoad_completes signed hsz hplane hread.1 fun x hx => by
      rw [hphys, ← hchecked.phys (active_lt s c), hmarks x hx, hchecked.phys (active_lt s c), hchecked.marks.1]
      exact hread.2 x hx
    rw [hbytes] at hdone
    unfold State.winBytes at hdone ⊢
    rw [hchecked.phys (active_lt s c), hchecked.scratch] at hdone
    exact ⟨_, hexec, hdone⟩
  · have hmet' := State.metIn_asRead (s := s.issued c) (c := c) (by rwa [((hchecked.frame 0).units c).ops])
    have hrd (a : Nat) : u.rd a = s.rd a := by unfold State.rd; rw [hregs]
    have hactiveU : u.active c = s.active c := congrArg (getF · F.CORE_STAT_ACTIVE) (hrd _)
    have hphysU (x : Nat) : u.phys c (s.active c) x = s.phys c (s.active c) x := by unfold State.phys State.fld; rw [hrd]
    obtain ⟨hbound, hgood⟩ := hread
    rw [hactiveU] at hbound hgood
    have hdone := scalarLoad_completes signed hsz hplane (by unfold State.bound at hbound ⊢; rwa [hrd] at hbound) fun x hx => by
      rw [MetIn.ue_eq hmet' hmet, hphys, ← hphysU]
      exact hgood x hx
    unfold State.winBytes at hdone ⊢
    rw [hphys, (Memory.bytes_eq_iff _ _ _ _ _).mpr fun j _ => MetIn.byte_eq hmet' hmet _] at hdone
    rw [hphysU]
    exact ⟨_, hexec, hdone⟩
  · rw [scalarLoad_faults (by rw [hfaultPlane hin hplane]; simp)] at hexec
    exact ⟨_, hexec, (memFaults_raise h.fetches hclean f).1 hplane hin⟩
  · rw [scalarLoad_faults (by rw [hfaultBound hout]; simp)] at hexec
    exact ⟨_, hexec, (memFaults_raise h.fetches hclean f).2 hout⟩

end Sys2Proof.Machine

namespace Sys2Proof.Machine

/-! ### Scalar stores (R62, R100) -/

theorem getElem_leBytes (n v : Nat) {i : Nat} (h : i < (leBytes n v).length) : (leBytes n v)[i] = BitVec.ofNat 8 (v / 256 ^ i) := by
  induction n generalizing v i with
  | zero => simp [leBytes] at h
  | succ n ih =>
    cases i with
    | zero => simp [leBytes]
    | succ i =>
      simp only [leBytes, List.getElem_cons_succ]
      rw [ih, Nat.div_div_eq_div_mul, ← Nat.pow_succ']

/-- What a write into a scratchpad leaves alone: everything but bytes, error marks, corrections that wait, and the list of changes. -/
structure State.KeepsBanks (c : Nat) (s t : State) : Prop where
  frame : ∀ k, s.CoreFrame c k t
  slots : ∀ d j, t.slot d j = s.slot d j

theorem State.KeepsBanks.refl (c : Nat) (s : State) : s.KeepsBanks c s := ⟨.refl s c, fun _ _ => rfl⟩

theorem State.KeepsBanks.trans {c : Nat} {s t u : State} (h : s.KeepsBanks c t) (g : t.KeepsBanks c u) : s.KeepsBanks c u :=
  ⟨fun k => (h.frame k).trans (g.frame k), fun d j => (g.slots d j).trans (h.slots d j)⟩

theorem State.KeepsBanks.dropCorrections (c : Nat) (s : State) (f : List Nat → List Nat) :
    s.KeepsBanks c (s.onCore c fun x => { x with eccQ := f x.eccQ }) := by
  have hchecked := s.checked_onCore c (fun x => { x with eccQ := f x.eccQ }) (by constructor <;> simp) rfl
  exact ⟨hchecked.frame, hchecked.slots⟩

theorem State.keepsBanks_marks (c : Nat) (s : State) (ue ce : FMap Bool) : s.KeepsBanks c { s with ue := ue, ce := ce } :=
  ⟨fun _ => ⟨by constructor <;> rfl, fun _ _ => rfl, fun _ _ _ => rfl, fun _ => .refl _⟩, fun _ _ => rfl⟩

theorem State.writeMarks_keepsBanks (s : State) (c p n : Nat) : s.KeepsBanks c (s.writeMarks c p n) ∧ (s.writeMarks c p n).scratch = s.scratch := by
  unfold State.writeMarks
  split
  · exact ⟨.refl c s, rfl⟩
  · refine List.foldlRecOn (motive := fun u => s.KeepsBanks c u ∧ u.scratch = s.scratch) _ _ ⟨.refl c s, rfl⟩ fun u ⟨hu, hscratch⟩ w _ => ?_
    dsimp only
    split
    · exact ⟨hu.trans ((u.keepsBanks_marks c _ _).trans (.dropCorrections c _ _)), hscratch⟩
    · exact ⟨hu.trans ((u.keepsBanks_marks c u.ue _).trans (.dropCorrections c _ _)), hscratch⟩

theorem State.noteWords_keepsBanks (s : State) (c p n : Nat) : s.KeepsBanks c (s.noteWords c p n) ∧ (s.noteWords c p n).scratch = s.scratch := by
  unfold State.noteWords
  split
  · exact ⟨.refl c s, rfl⟩
  · exact ⟨⟨fun _ => ⟨by constructor <;> rfl, fun _ _ => rfl, fun _ _ _ => rfl, fun _ => .refl _⟩, fun _ _ => rfl⟩, rfl⟩

theorem State.putPhys_keepsBanks (s : State) (c p : Nat) (bs : List Byte) : s.KeepsBanks c (s.putPhys c p bs) := by
  refine (s.noteWords_keepsBanks c p bs.length).1.trans ((State.writeMarks_keepsBanks _ c p bs.length).1.trans ?_)
  exact ⟨fun _ => ⟨by constructor <;> rfl, fun _ _ => rfl, fun _ _ _ => rfl, fun _ => .refl _⟩, fun _ _ => rfl⟩

theorem scalarStore_spec : ScalarStore := by
  intro c f s h
  have hexec : exec (.scSt c f) s = .next (scalarStore f c (s.active c) (s.issued c)) := congrArg Host.Outcome.next (seqIssue_executes h _)
  obtain ⟨hnone, hfaultPlane, hfaultBound⟩ := memFaults_issued f s c
  have hchecked := s.checked_issued c
  have hfaults (hl : memFaults f (s.issued c) c (s.active c) ≠ []) : scalarStore f c (s.active c) (s.issued c)
      = (s.issued c).raiseAll c (s.active c) (s.bank c).pc (memFaults f (s.issued c) c (s.active c)) := by
    unfold scalarStore
    dsimp only
    rw [s.bank_issued, if_pos (by simpa using hl)]
  refine ⟨fun hplane hin => ?_, fun hplane hin hclean => ?_, fun hout hclean => ?_⟩
  · let bs := leBytes (2 ^ f.sz.toNat) ((s.bank c).s f.r.toNat).toNat
    have hstore : scalarStore f c (s.active c) (s.issued c)
        = ((s.issued c).putPhys c (s.phys c (s.active c) (memAddr f (s.bank c))) bs).advance c (s.active c) := by
      simp only [scalarStore, hnone hin hplane, s.bank_issued, State.putWin, hchecked.phys (active_lt s c)]
      rfl
    have hput := (s.issued c).putPhys_keepsBanks c (s.phys c (s.active c) (memAddr f (s.bank c))) bs
    have hslot : (((s.issued c).putPhys c (s.phys c (s.active c) (memAddr f (s.bank c))) bs).advance c (s.active c)).slot c (s.active c)
        = (s.bank c).after (s.bank c).pc := by
      rw [State.advance, State.slot_onSlot_self, hput.slots, s.bank_issued]
    have hscratch : ((s.issued c).putPhys c (s.phys c (s.active c) (memAddr f (s.bank c))) bs).scratch
        = s.scratch.putBytes (cellKey c (s.phys c (s.active c) (memAddr f (s.bank c)))) bs := by
      rw [← hchecked.scratch]
      rfl
    rw [hstore] at hexec
    refine ⟨_, hexec, fun j hj => ?_, fun a ha => ?_, ?_, (hchecked.frame _).trans ((hput.frame _).trans (State.coreFrame_onSlot _ _ _ _))⟩
    · have hlen : j < bs.length := by rwa [leBytes_length]
      refine (congrArg BitVec.toNat ((congrArg (Memory.byte · _) hscratch).trans (Memory.byte_putBytes_in _ _ _ j hlen))).trans ?_
      rw [getElem_leBytes, BitVec.toNat_ofNat]
    · exact (congrArg (Memory.byte · a) hscratch).trans (Memory.byte_putBytes_out _ _ _ _ (by rwa [leBytes_length]))
    · rw [hslot]
      exact Slot.keeps_after (s.bank c).keeps_refl _
  · rw [hfaults (by rw [hfaultPlane hin hplane]; simp)] at hexec
    exact ⟨_, hexec, (memFaults_raise h.fetches hclean f).1 hplane hin⟩
  · rw [hfaults (by rw [hfaultBound hout]; simp)] at hexec
    exact ⟨_, hexec, (memFaults_raise h.fetches hclean f).2 hout⟩

/-- Settles O9: a load reads the words as it meets them and puts its value in rd, a store puts its bytes; the faults come before either. -/
theorem scalarLoadsAndStores : Obligations.ScalarLoadsAndStores := ⟨scalarLoads, scalarStore_spec⟩

end Sys2Proof.Machine

namespace Sys2Proof.Machine

/-! ### A unit operation goes in flight (R55, R56) -/

/-- What the issue of an allowed operation under a COMPLETE token leaves. -/
structure State.PutsInFlight (c k : Nat) (o : UOp) (s t : State) : Prop where
  ops : (t.core c).ops = (s.core c).ops ++ [o]
  slot : t.slot c k = Slot.after { s.slot c k with pend := Machine.setBit (s.slot c k).pend o.tok true } (s.slot c k).pc
  same : s.SameBut [.regs, .cores, .trc, .fresh, .words] t
  rd : ∀ a, a < 0x02000000 → t.rd a = s.rd a

theorem State.issueOp_putsInFlight {s : State} {c k : Nat} {o : UOp} (hfree : (s.slot c k).tokPending o.tok = false) (hgood : o.bad = false) :
    s.PutsInFlight c k o (s.issueOp c k o) := by
  let u := if (s.core c).ops.isEmpty then { s with words := FMap.set [] s.words c [] } else s
  have hu : s.SameBut [.words] u := by
    by_cases h : (s.core c).ops.isEmpty <;> simp only [u, h, ↓reduceIte, Bool.false_eq_true]
    · constructor <;> simp
    · exact .refl s _
  let v := u.onCore c fun x => { x with
    ops := x.ops ++ [o], seen := x.seen.set none o.tok (some ⟨(u.changes c).length, x.issues⟩), issues := x.issues + 1 }
  let w := v.markCore c o.kind.engine tvBegin ((s.slot c k).owner.getD (0, 0)) o.tok o.pc
  have hw : w.core c = v.core c := (v.markCore_sameBut _ _ _ _ _ _).core_eq (by simp) c
  have hv : v.core c = _ := State.core_onCore_self _ _ _
  have hcore : u.core c = s.core c := hu.core_eq (by simp) c
  have hissue : s.issueOp c k o = (w.onSlot c k fun b => { b with pend := Machine.setBit b.pend o.tok true }).advance c k := by
    simp only [State.issueOp, hfree, hgood, Bool.false_eq_true, ↓reduceIte]
    rfl
  rw [hissue]
  have hslot : w.slot c k = s.slot c k := by
    rw [State.slot, hw, hv]
    exact congrArg (fun x => x.slot k) hcore
  refine ⟨?_, ?_, ?_, fun a ha => ?_⟩
  · rw [State.advance, State.onSlot, State.core_onCore_self, State.onSlot, State.core_onCore_self]
    show (w.core c).ops = _
    rw [hw, hv, hcore]
  · rw [State.advance, State.slot_onSlot_self, State.slot_onSlot_self, hslot]
  · refine (hu.mono (by simp)).trans (((State.SameBut.onCore _ _ _).mono (by simp)).trans
      (((v.markCore_sameBut _ _ _ _ _ _).mono (by simp)).trans
        (((State.SameBut.onSlot _ _ _ _).mono (by simp)).trans ((State.SameBut.onSlot _ _ _ _).mono (by simp)))))
  · refine (v.rd_markCore_of_lt _ _ _ _ _ _ ha).trans ?_
    show u.rd a = _
    exact hu.rd_eq (by simp) a

theorem bitOf_pend_after (b : Slot) (tok a n : Nat) :
    (Slot.after { b with pend := Machine.setBit b.pend tok true } a).tokPending n = (decide (n = tok) || b.tokPending n) := by
  show bitOf (Machine.setBit b.pend tok true) n = _
  rw [bitOf_setBit]
  by_cases h : n = tok <;> simp [h, Slot.tokPending]

theorem State.noWithdraw_sameBut (s : State) (c k : Nat) : s.SameBut [.parts] (s.noWithdraw c k) := by
  unfold State.noWithdraw
  split
  · exact .onCtx s _ _ _
  · exact .refl s _

theorem State.handleTo_issued (s : State) (c h p : Nat) :
    (s.issued c).handleTo h ((s.issued c).part p).chmask = s.handleTo h (s.part p).chmask := by
  have hframe := (s.checked_issued c).frame 0
  have hown : (s.issued c).own = s.own := by
    unfold State.own State.fld
    rw [hframe.regs _ (klId_notEcc c)]
  have hpart : (s.issued c).part p = s.part p := by
    unfold State.part
    rw [hframe.uncore.parts]
  unfold State.handleTo State.handleFrom
  rw [hown, hpart]

/-- A unit operation whose token is PENDING waits: only the request for the next line moves. -/
theorem tokIssue_stalls {c : Nat} {w : Word} {s : State} (h : s.Executes c w) {tok : Nat} (hpend : (s.bank c).tokPending tok = true)
    (body : Nat → State → State) : tokIssue c w tok body s = s.prefetch c (s.active c) := by
  have hstall : s.tokenStall c w tok = true := by
    have hguard : (s.slot c (s.active c)).p (guardOf w) = true := h.guard
    have hpend' : (s.slot c (s.active c)).tokPending tok = true := hpend
    simp [State.tokenStall, h.fetches.1, h.fetches.2, h.legal, hguard, hpend']
  unfold tokIssue
  rw [if_pos hstall]

theorem tokIssue_executes {c : Nat} {w : Word} {s : State} (h : s.Executes c w) {tok : Nat} (hfree : (s.bank c).tokPending tok = false)
    (body : Nat → State → State) : tokIssue c w tok body s = body (s.active c) (s.issued c) := by
  have hfree' : (s.slot c (s.active c)).tokPending tok = false := hfree
  rw [tokIssue_of_free (by simp [State.tokenStall, hfree']), seqIssue_executes h]

/-! ### sy.signal (R55, R56, R123, R242) -/

/-- A signal that leaves its core or is refused at it. -/
theorem exec_sySignal {c : Nat} {f : FmtU1} {s : State} (h : s.Executes c (f.word 47#6)) (hfree : (s.bank c).tokPending f.tok.toNat = false) :
    let o := captureU1 .signal f (s.bank c)
    let u := ((s.issued c).issueOp c (s.active c) o).noWithdraw c (s.active c)
    exec (.sySignal c f) s = .next
      (if s.handleTo ((s.bank c).s f.sC.toNat).toNat (s.part ((s.bank c).owner.getD (0, 0)).1).chmask = .refused then
        (u.onCore c fun x => { x with ops := x.ops.erase o, seen := x.seen.set none o.tok none }).raise c (s.active c) fSync o.pc 0 false
          (some o.tok)
      else u) := by
  intro o u
  have howner : (s.issued c).ownerIn c (s.active c) = (s.bank c).owner.getD (0, 0) := by unfold State.ownerIn; rw [s.bank_issued]
  refine congrArg Host.Outcome.next ((tokIssue_executes h hfree _).trans ?_)
  simp only [s.bank_issued, howner, s.handleTo_issued, beq_iff_eq]
  rfl

theorem State.PutsInFlight.noWithdraw {s t : State} {c k : Nat} {o : UOp} (h : s.PutsInFlight c k o t) :
    (((t.noWithdraw c k).core c).ops = (s.core c).ops ++ [o]) ∧ (t.noWithdraw c k).slot c k = t.slot c k
      ∧ (∀ a, a < 0x02000000 → (t.noWithdraw c k).rd a = s.rd a) ∧ s.SameScratch (t.noWithdraw c k) := by
  have hsame := t.noWithdraw_sameBut c k
  exact ⟨by rw [hsame.core_eq (by simp), h.ops], hsame.slot_eq (by simp) c k, fun a ha => (hsame.rd_eq (by simp) a).trans (h.rd a ha),
    (h.same.sameScratch (by simp) (by simp) (by simp)).trans (hsame.sameScratch (by simp) (by simp) (by simp))⟩

theorem State.active_of_rd {s t : State} {c : Nat} (h : t.rd (statReg c) = s.rd (statReg c)) :
    t.active c = s.active c ∧ t.isRunning c = s.isRunning c :=
  ⟨congrArg (getF · F.CORE_STAT_ACTIVE) h, congrArg (isSet · F.CORE_STAT_RUN) h⟩

theorem signalLeaves : SignalLeaves := by
  intro c f s h
  have hchecked := s.checked_issued c
  refine ⟨fun hpend => ?_, fun hfree hreach => ?_, fun hfree hrefused hclean hnew => ?_⟩
  · have hexec : exec (.sySignal c f) s = .next (s.prefetch c (s.active c)) := congrArg Host.Outcome.next (tokIssue_stalls h hpend _)
    have hprefetch := s.checked_prefetch c (s.active c)
    exact ⟨_, hexec, hprefetch.slots _ _, hprefetch.frame _, hprefetch.sameScratch⟩
  all_goals
    have hexec := exec_sySignal h hfree
    dsimp only at hexec
    have hflight := State.issueOp_putsInFlight (s := s.issued c) (k := s.active c) (o := captureU1 .signal f (s.bank c))
      (by rw [s.bank_issued]; exact hfree) rfl
    obtain ⟨hops, hslot, hrd, hscratch⟩ := hflight.noWithdraw
    rw [hflight.slot, s.bank_issued] at hslot
    rw [((hchecked.frame 0).units c).ops] at hops
    generalize State.noWithdraw _ _ _ = u at hexec hops hslot hrd hscratch
  · rw [if_neg hreach] at hexec
    refine ⟨u, hexec, hops, fun n => ?_, fun j => ?_, ?_, hchecked.sameScratch.trans hscratch⟩ <;> rw [hslot]
    · exact bitOf_pend_after _ _ _ _
    · exact ⟨rfl, rfl, rfl⟩
    · exact ⟨rfl, rfl⟩
  · rw [if_pos hrefused] at hexec
    have hrd' (a : Nat) (ha : a < 0x02000000) (hecc : a ∉ eccRegs c) : u.rd a = s.rd a := (hrd a ha).trans ((hchecked.frame 0).regs a hecc)
    have hk := active_lt s c
    obtain ⟨hFaultEcc, hStatEcc⟩ := coreKeys_notEcc c (s.active c) hk
    have hlt : R.CORE_CTX_FAULT (chanOf c) (posOf c) (s.active c) < 0x02000000 := by
      have := chanOf_lt c; have := posOf_lt c; unfold R.CORE_CTX_FAULT; omega
    obtain ⟨hactive, hrun⟩ := State.active_of_rd (hrd' _ (statReg_lt c) hStatEcc)
    generalize hv : (u.onCore c fun x => { x with
      ops := x.ops.erase (captureU1 .signal f (s.bank c))
      seen := x.seen.set none (captureU1 .signal f (s.bank c)).tok none }) = v at hexec
    have hvops : (v.core c).ops = (s.core c).ops := by
      rw [← hv, State.core_onCore_self]
      show (u.core c).ops.erase _ = _
      rw [hops, List.erase_append_right _ hnew, List.erase_cons_head, List.append_nil]
    have hvrd (a : Nat) : v.rd a = u.rd a := by rw [← hv]; rfl
    have hfirst := State.raiseAt_first (u := v) (c := c) fSync (captureU1 .signal f (s.bank c)).pc 0 false
      (some (captureU1 .signal f (s.bank c)).tok) (v.orderOf c false (some (captureU1 .signal f (s.bank c)).tok)) hk
      (by unfold State.bit; rw [hvrd, hrd' _ hlt hFaultEcc]; exact hclean)
    have hactiveV := State.active_of_rd (hvrd (statReg c))
    obtain ⟨-, -, hstopped⟩ := hfirst.halts
      (by rw [hactiveV.2, hrun]; exact State.isRunning_of_fetches h.fetches) (hactiveV.1.trans hactive)
    refine ⟨_, hexec, by rw [← hvops]; exact hstopped, ?_, ?_, ?_, ?_⟩
    · exact (congrArg (getF · F.CORE_CTX_FAULT_CLASS) hfirst.fault).trans (faultWord_class _ _ _ (by decide))
    · exact (congrArg (isSet · F.CORE_CTX_FAULT_PRECISE) hfirst.fault).trans (faultWord_imprecise _ _ (by decide))
    · exact (congrArg (getF · F.CORE_CTX_FAULT_TOKEN) hfirst.fault).trans (faultWord_token _ _ (by decide) f.tok.isLt)
    · refine (hchecked.sameScratch.trans hscratch).trans (State.SameScratch.trans ?_ (hfirst.same.sameScratch (by simp) (by simp) (by simp)))
      rw [← hv]
      exact (State.SameBut.onCore u c _).sameScratch (by simp) (by simp) (by simp)

/-! ### sy.wait, releases, the wait limit (R72, R105, R242, R247, R248) -/

/-- A precise fault of a state that agrees with another in the running bank, the times and the issue order. -/
theorem State.FaultsPrecisely.of_agrees {s u t : State} {c cls faddr : Nat} (h : u.FaultsPrecisely c cls faddr t)
    (hactive : u.active c = s.active c) (hbank : u.bank c = s.bank c) (htb2 : u.tb2 = s.tb2) (hnow : u.now = s.now)
    (hissues : (u.core c).issues = (s.core c).issues) : s.FaultsPrecisely c cls faddr t := by
  obtain ⟨hvalid, hcls, hprecise, htoken, hfpc, hfaddr, hstopped, hslot⟩ := h
  rw [hactive] at hvalid hcls hprecise htoken hfpc hfaddr hslot
  rw [hbank, htb2, hnow, hissues] at hslot
  rw [hbank] at hfpc
  exact ⟨hvalid, hcls, hprecise, htoken, hfpc, hfaddr, hstopped, hslot⟩

/-- A wait on an object of this chip: the operation sets out and the sequencer stalls. -/
theorem issueWait_here {s : State} {c k obj : Nat} {f : FmtW}
    (h : s.handleTo ((s.slot c k).s f.sH.toNat).toNat (s.part (s.ownerIn c k).1).chmask = .here obj) :
    ∃ o : SyncOp, o.kind = f.kind.toNat ∧ o.obj = obj ∧ o.arg = ((s.slot c k).s ((f.sH.toNat + 1) % 32)).toNat ∧ o.who = .wait c s.noc.nextId
      ∧ s.issueWait c k f = ((s.newId.2.sendSync o).onCore c fun x => { x with
        wait := .sync s.noc.nextId ((s.slot c k).s f.sH.toNat).toNat f.sD.toNat (s.slot c k).pc f.kind.toNat }) := by
  let o : SyncOp := ⟨f.kind.toNat, obj, ((s.slot c k).s ((f.sH.toNat + 1) % 32)).toNat, (s.part (s.ownerIn c k).1).job,
    .wait c s.noc.nextId, some (holdWord false 0 (s.ownerIn c k).2)⟩
  refine ⟨o, rfl, rfl, rfl, rfl, ?_⟩
  simp only [State.issueWait, h]
  rfl

/-- A wait whose handle is out of reach, or names an object of another cluster, faults. -/
theorem issueWait_faults {s : State} {c k : Nat} {f : FmtW}
    (h : s.handleTo ((s.slot c k).s f.sH.toNat).toNat (s.part (s.ownerIn c k).1).chmask = .refused
      ∨ ∃ chip obj, s.handleTo ((s.slot c k).s f.sH.toNat).toNat (s.part (s.ownerIn c k).1).chmask = .far chip obj ∧ chip / 16 ≠ s.own / 16) :
    s.issueWait c k f = s.raise c k fSync (s.slot c k).pc 0 true none := by
  obtain h | ⟨chip, obj, h, hcluster⟩ := h
  · simp only [State.issueWait, h]
  · simp only [State.issueWait, h, ne_eq, hcluster, not_false_eq_true, ↓reduceIte]

theorem State.ownerIn_issued (s : State) (c : Nat) : (s.issued c).ownerIn c (s.active c) = (s.bank c).owner.getD (0, 0) := by
  unfold State.ownerIn
  rw [s.bank_issued]

theorem coreWaits : CoreWaits := by
  intro c s
  have hchecked := s.checked_issued c
  refine ⟨fun f h obj hex hh hreach => ?_, fun f h hex hh hclean hreach => ?_, fun i id h sD pc kind r hr hwho hwait hheld hrun hstopped => ?_,
    fun id h sD kind hwait hrun hstopped hclock hlimit hclean => ?_⟩
  · have hnoc : (s.issued c).noc = s.noc := (hchecked.frame 0).uncore.noc
    have hexec : exec (.syWait c f) s = .next ((s.issued c).issueWait c (s.active c) f) := congrArg Host.Outcome.next (seqIssue_executes hex _)
    obtain ⟨o, hkind, hobj, harg, howho, hwait⟩ := issueWait_here (s := s.issued c) (k := s.active c) (f := f) (obj := obj)
      (by rw [s.ownerIn_issued, s.bank_issued, s.handleTo_issued, ← hh]; exact hreach)
    rw [s.bank_issued] at harg
    rw [hnoc] at howho
    rw [hwait, s.bank_issued, hnoc, ← hh] at hexec
    have hops : (s.issued c).noc.syncOps ++ [o] = s.noc.syncOps ++ [o] := by rw [hnoc]
    refine ⟨_, hexec, ?_, ⟨o, hops, hkind, hobj, harg, howho⟩, ?_, ?_⟩
    · rw [State.core_onCore_self]
    · rw [State.slot_setWait]
      exact s.bank_issued c
    · exact hchecked.sameScratch.trans (((State.SameBut.onNoc (s.issued c) _).sameScratch (by simp) (by simp) (by simp)).trans
        (((State.SameBut.onNoc _ _).sameScratch (by simp) (by simp) (by simp)).trans
          ((State.SameBut.onCore _ _ _).sameScratch (by simp) (by simp) (by simp))))
  · have hown : (s.issued c).own = s.own := by
      unfold State.own State.fld
      rw [(hchecked.frame 0).regs _ (klId_notEcc c)]
    have hexec : exec (.syWait c f) s = .next ((s.issued c).issueWait c (s.active c) f) := congrArg Host.Outcome.next (seqIssue_executes hex _)
    rw [issueWait_faults (by rw [s.ownerIn_issued, s.bank_issued, s.handleTo_issued, ← hh, hown]; exact hreach), s.bank_issued] at hexec
    exact ⟨_, hexec, State.raise_precise hchecked (State.isRunning_of_fetches hex.fetches) hclean (by decide) (by decide),
      hchecked.sameScratch.trans ((State.raise_sameBut _ _ _ _ _ _ _ _).sameScratch (by simp) (by simp) (by simp))⟩
  · have hrel : s.releaseHeld r = false := by rw [State.releaseHeld, hwho]; exact hheld
    let n := s.onNoc fun n => { n with releases := dropAt n.releases i }
    let v := n.onNoc fun n => { n with farWaits := n.farWaits.filter fun w => !(w.core == c && w.id == id) }
    let u := ((v.onCore c fun x => { x with wait := .none }).onSlot c (s.active c) fun b => (b.setS sD (BitVec.ofNat 32 (r.code % 256))).after pc)
    have hexec : exec (.syncRelease i) s = .next (u.noWithdraw c (s.active c)) := by
      refine congrArg Host.Outcome.next ?_
      have hwait' : (v.core c).wait = .sync id h sD pc kind := hwait
      have hrun' : v.isRunning c = true := hrun
      have hstopped' : (v.core c).stopped = false := hstopped
      simp only [hr, hrel, hwho, Bool.false_eq_true, ↓reduceIte]
      show n.releaseCore c id r.code = _
      unfold State.releaseCore
      dsimp only
      rw [show State.core (n.onNoc _) c = v.core c from rfl, hwait']
      dsimp only
      rw [show State.isRunning (n.onNoc _) c = v.isRunning c from rfl, hrun', hstopped']
      simp only [decide_true, Bool.and_self, Bool.not_false, ↓reduceIte]
      rfl
    have hparts := u.noWithdraw_sameBut c (s.active c)
    have hcore : (u.noWithdraw c (s.active c)).core c = u.core c := hparts.core_eq (by simp) c
    have hslot : (u.noWithdraw c (s.active c)).slot c (s.active c) = ((s.bank c).setS sD (BitVec.ofNat 32 (r.code % 256))).after pc := by
      rw [hparts.slot_eq (by simp), State.slot_onSlot_self, State.slot_setWait]
      rfl
    refine ⟨_, hexec, ?_, ?_, ?_, ?_, ?_, ?_, ?_⟩
    · have hwaitV := State.core_onCore_self v c fun x => { x with wait := .none }
      rw [hcore]
      unfold u State.onSlot
      rw [State.core_onCore_self, hwaitV]
      rfl
    · rw [hslot, Slot.s_after, Slot.s_setS_self]
    · rw [hslot]
      exact Slot.keeps_after (Slot.keeps_setS _ _ _) _
    · rw [hslot]; rfl
    · rw [hslot]; rfl
    · rw [hparts.noc.resolve_left (by simp)]
      rfl
    · exact (((State.SameBut.onNoc s _).mono (by simp)).trans ((State.SameBut.onNoc n _).mono (by simp))).trans
        (((State.SameBut.onCore v _ _).mono (by simp)).trans (((State.SameBut.onSlot _ _ _ _).mono (by simp)).trans (hparts.mono (by simp))))
  · let v := (s.noc.farWaits.find? fun w => w.core == c && w.id == id).elim s fun w => s.sendCtrl w.dst (.cancel w.dst s.own w.obj c id)
    have hsends : s.Sends v := by
      show s.Sends (Option.elim _ _ _)
      cases s.noc.farWaits.find? fun w => w.core == c && w.id == id with
      | none => exact .refl s
      | some w => exact s.sendCtrl_sends _ _
    let u := v.onCore c fun x => { x with wait := .none }
    have hsame : s.SameBut [.noc, .trc, .cores] u := (hsends.same.mono (by simp)).trans ((State.SameBut.onCore _ _ _).mono (by simp))
    have hexec : exec (.waitLimit c) s = .next (u.raise c (s.active c) fWait (s.bank c).pc 0 true none) := by
      refine congrArg Host.Outcome.next ?_
      have hlimit' : (s.fld (winReg c (s.active c) + 8) F.CORE_CTX_WAITLIM_LIMIT != 0) = true := by
        have hreg : R.CORE_CTX_WAITLIM (chanOf c) (posOf c) (s.active c) = winReg c (s.active c) + 8 := by
          unfold R.CORE_CTX_WAITLIM winReg R.CORE_WIN_CFG
          omega
        rw [hreg] at hlimit
        simpa using hlimit
      simp only [hwait, hrun, hclock, hstopped, hlimit', Bool.not_false, Bool.and_self, ↓reduceIte]
      simp only [u, v]
      cases s.noc.farWaits.find? fun w => w.core == c && w.id == id <;> rfl
    have hrd (a : Nat) : u.rd a = s.rd a := hsame.rd_eq (by simp) a
    obtain ⟨hactive, hrunU⟩ := State.active_of_rd (hrd (statReg c))
    have hvcore : v.core c = s.core c := hsends.same.core_eq (by simp) c
    have hcore : u.core c = { s.core c with wait := .none } := by rw [State.core_onCore_self, hvcore]
    have hbank : u.bank c = s.bank c := by
      unfold State.bank State.slot
      rw [hactive, hcore]
      rfl
    have hcleanU : u.Clean c := by
      unfold State.Clean State.bit
      rw [hrd, hactive]
      exact hclean
    have hfault := State.raise_precise (cls := fWait) (faddr := 0) (.refl u c) (hrunU.trans hrun) hcleanU (by decide) (by decide)
    rw [hactive, hbank] at hfault
    have hfirst := State.raiseAt_first (u := u) (c := c) fWait (s.bank c).pc 0 true none (u.orderOf c true none) (active_lt s c)
      (by rw [← hactive]; exact hcleanU)
    refine ⟨_, hexec, hfault.of_agrees hactive hbank (congrArg BitVec.toNat (hrd _)) (hsame.now.resolve_left (by simp)) (by rw [hcore]), ?_, ?_⟩
    · exact (hfirst.halts (hrunU.trans hrun) hactive).2.1.trans (by rw [hcore])
    · exact (hsame.sameScratch (by simp) (by simp) (by simp)).trans (hfirst.same.sameScratch (by simp) (by simp) (by simp))

/-- Settles O16: a signal goes in flight as any unit operation does, or is refused under its token; a wait is its operation and a stall. -/
theorem signalsLeaveAndCoresWait : Obligations.SignalsLeaveAndCoresWait := ⟨signalLeaves, coreWaits⟩

end Sys2Proof.Machine

namespace Sys2Proof.Machine

/-! ### The words that an operation in flight settles (R88, R90) -/

theorem length_pickBytes (b w : List Byte) (mask : Nat → Bool) : (pickBytes b w mask).length = 8 := by simp [pickBytes]

theorem nth_pickBytes (b w : List Byte) (mask : Nat → Bool) {j : Nat} (hj : j < 8) :
    nth 0#8 (pickBytes b w mask) j = if mask j then nth 0#8 w j else nth 0#8 b j := by
  rw [nth, pickBytes, List.getD_eq_getElem _ _ (by simpa), List.getElem_map, List.getElem_range]

theorem Memory.nth_bytes (m : Memory) (a n : Nat) {j : Nat} (hj : j < n) : nth 0#8 (m.bytes a n) j = m.byte (a + j) := by
  rw [nth, List.getD_eq_getElem _ _ (by simpa), Memory.getElem_bytes]

theorem nth_eightOf (bs : List Byte) {j : Nat} (hj : j < 8) : nth 0#8 (eightOf bs) j = nth 0#8 bs j := by
  rw [nth, eightOf, List.getD_eq_getElem _ _ (by simpa), List.getElem_map, List.getElem_range]

theorem Memory.byte_putEight (m : Memory) (a : Nat) {bs : List Byte} (hbs : bs.length = 8) {j : Nat} (hj : j < 8) :
    (m.putBytes a bs).byte (a + j) = nth 0#8 bs j := by
  rw [m.byte_putBytes_in a bs j (hbs ▸ hj), nth, List.getD_eq_getElem]

/-- The bytes that a word is settled at. -/
def Overlap.settled (v : Overlap) (own : List Change) (m : Memory) : List Byte :=
  let mine := own.filter (fun h => h.word == v.word)
  if mine.isEmpty then eightOf v.now
  else ((List.range v.past.length).drop v.place).foldl
    (fun b i => pickBytes b (v.after (i + 1)) (wroteByte [nth ⟨0, [], false, []⟩ v.past i]))
    (pickBytes (v.after v.place) (m.bytes (v.word * 8) 8) (wroteByte mine))

theorem Overlap.settle_eq (v : Overlap) (own : List Change) (m : Memory) : v.settle own m = m.putBytes (v.word * 8) (v.settled own m) := rfl

theorem Overlap.length_settled (v : Overlap) (own : List Change) (m : Memory) : (v.settled own m).length = 8 := by
  unfold Overlap.settled
  dsimp only
  split
  · exact length_eightOf _
  · exact List.foldlRecOn (motive := fun bs : List Byte => bs.length = 8) _ _ (length_pickBytes _ _ _) fun _ _ _ _ => length_pickBytes _ _ _

theorem Overlap.settle_byte_out (v : Overlap) (own : List Change) (m : Memory) (a : Nat) (ha : a < v.word * 8 ∨ v.word * 8 + 8 ≤ a) :
    (v.settle own m).byte a = m.byte a := by
  rw [v.settle_eq]
  exact m.byte_putBytes_out _ _ _ (by rwa [v.length_settled])

/-- A word that the operation did not write stays as it is. -/
theorem Overlap.settled_unwritten (v : Overlap) {own : List Change} (h : ∀ x ∈ own, x.word ≠ v.word) (m : Memory) :
    v.settled own m = eightOf v.now := by
  have hmine : own.filter (fun h => h.word == v.word) = [] := List.filter_eq_nil_iff.mpr fun x hx => by simpa using h x hx
  simp [Overlap.settled, hmine]

theorem wroteByte_filter (v : Overlap) (own : List Change) (j : Nat) :
    wroteByte (own.filter (fun h => h.word == v.word)) j = true ↔ ∃ h ∈ own, h.word = v.word ∧ nth false h.wrote j = true := by
  simp [wroteByte]

/-- A word that only the operation wrote holds its bytes, and those of now where it wrote none. -/
theorem Overlap.settled_written (v : Overlap) {own : List Change} (hpast : v.past = []) (h : ∃ x ∈ own, x.word = v.word) (m : Memory)
    {j : Nat} (hj : j < 8) : nth 0#8 (v.settled own m) j
      = if wroteByte (own.filter (fun h => h.word == v.word)) j then m.byte (v.word * 8 + j) else nth 0#8 v.now j := by
  obtain ⟨x, hx, hword⟩ := h
  have hmine : (own.filter (fun h => h.word == v.word)).isEmpty = false := by
    rw [List.isEmpty_eq_false_iff]
    exact List.ne_nil_of_mem (List.mem_filter.mpr ⟨hx, by simpa using hword⟩)
  have hplace : v.place = 0 := by simp [Overlap.place, hpast, Nat.mod_one]
  have hafter : v.after 0 = eightOf v.now := by simp [Overlap.after, hpast, nth]
  have hbs : v.settled own m = pickBytes (eightOf v.now) (m.bytes (v.word * 8) 8) (wroteByte (own.filter (fun h => h.word == v.word))) := by
    simp [Overlap.settled, hmine, hpast, hplace, hafter]
  rw [hbs, nth_pickBytes _ _ _ hj, m.nth_bytes _ _ hj, nth_eightOf _ hj]

/-- The words of an operation's overlaps are words of its core, as they stand. -/
theorem State.clash_spec {s : State} {c tok : Nat} {v : Overlap} (hv : v ∈ s.clash c tok) :
    v.word / 2 ^ 19 = c ∧ v.now = s.scratch.bytes (v.word * 8) 8 := by
  unfold State.clash State.overlaps at hv
  obtain ⟨⟨w, n⟩, hw, rfl⟩ := List.mem_map.mp hv
  have hmem := List.mem_eraseDups.mp (List.fst_mem_of_mem_zipIdx hw)
  rw [List.mem_filter] at hmem
  exact ⟨by simpa using hmem.2, rfl⟩

/-! ### Completion (R58, R84, R85) -/

theorem CoreSt.ready_tok {x : CoreSt} {tok : Nat} {o : UOp} (h : x.ready tok = some o) : o.tok = tok := by
  unfold CoreSt.ready at h
  split at h
  · cases h
  · rename_i i hi
    split at h
    · cases h
    · rename_i q hq
      split at h
      · cases h
      · cases h
        obtain ⟨hlt, htok, -⟩ := List.findIdx?_eq_some_iff_getElem.mp hi
        rw [List.getElem?_eq_getElem hlt] at hq
        cases hq
        simpa using htok

/-- An operation that takes effect as its token completes, or faults. -/
theorem exec_tokenCompletion {c tok : Nat} {s : State} {o : UOp} (hrun : s.isRunning c = true) (hclock : s.paused (chanOf c) = false)
    (hready : (s.core c).ready tok = some o) (hpush : o.kind = .push → s.pushWaits c (s.active c) o = false)
    (hsend : o.kind = .send → s.sendWaits c (s.active c) o = false) :
    (∀ u, s.runOp c (s.active c) o = (.ok (), u) → ∃ v, u.SameBut [.regs, .trc, .fresh] v
      ∧ exec (.tokenCompletion c tok) s = .next (v.completeToken c (s.active c) tok))
    ∧ (∀ u e, s.runOp c (s.active c) o = (.error e, u) → exec (.tokenCompletion c tok) s
      = .next (u.raiseAt (s.orderOf c false (some tok)) c (s.active c) e.cls o.pc e.addr false (some tok))) := by
  have hwaits : (o.kind == .push && s.pushWaits c (s.active c) o) = false := by
    cases hk : o.kind == .push
    · rfl
    · exact hpush (by simpa using hk)
  have hfull : (o.kind == .send && s.sendWaits c (s.active c) o) = false := by
    cases hk : o.kind == .send
    · rfl
    · exact hsend (by simpa using hk)
  refine ⟨fun u hu => ?_, fun u e hu => congrArg Host.Outcome.next ?_⟩
  · let v := if o.plies = 0 then u else u.count (some c) (chanOf c) (u.slot c (s.active c)).owner 0x03 o.plies
    have hv : u.SameBut [.trc] v := by
      by_cases h : o.plies = 0 <;> simp only [v, h, ↓reduceIte]
      · exact .refl u _
      · exact .count _ _ _ _ _ _
    refine ⟨v.markCore c o.kind.engine tvEnd ((v.slot c (s.active c)).owner.getD (0, 0)) o.tok o.pc,
      (hv.mono (by simp)).trans (v.markCore_sameBut _ _ _ _ _ _), congrArg Host.Outcome.next ?_⟩
    simp only [hrun, hclock, hready, hwaits, hfull, hu, Bool.not_true, Bool.or_self, Bool.false_eq_true, ↓reduceIte]
    rfl
  · simp only [hrun, hclock, hready, hwaits, hfull, hu, Bool.not_true, Bool.or_self, Bool.false_eq_true, ↓reduceIte,
      CoreSt.ready_tok hready]

/-- R57, R58, R71: a token that completes, whether or not the end of the part waited for it. -/
theorem State.completeToken_spec (s : State) (c k tok : Nat) :
    (∀ n, ((s.completeToken c k tok).slot c k).tokPending n = (!decide (n = tok) && (s.slot c k).tokPending n))
      ∧ (s.completeToken c k tok).scratch = s.scratch := by
  let u := s.onSlot c k fun b => { b with pend := Machine.setBit b.pend tok false }
  have hpend (n : Nat) : (u.slot c k).tokPending n = (!decide (n = tok) && (s.slot c k).tokPending n) := by
    rw [State.slot_onSlot_self]
    show bitOf (Machine.setBit (s.slot c k).pend tok false) n = _
    rw [bitOf_setBit]
    by_cases h : n = tok <;> simp [h, Slot.tokPending]
  have hscratch : u.scratch = s.scratch := rfl
  unfold State.completeToken
  dsimp only
  split
  · obtain ⟨-, hslot, -, hsame⟩ := u.leavePart_spec c k
    have hpart : (u.leavePart c k).SameBut [.parts] (u.endPart c k) := by
      rw [State.endPart_eq]
      cases (u.slot c k).owner with
      | none => exact .refl _ _
      | some o =>
        rw [Option.elim_some]
        exact .onCtx _ _ _ _
    refine ⟨fun n => ?_, (hpart.scratch.resolve_left (by simp)).trans (hsame.scratch.resolve_left (by simp))⟩
    rw [← hpend n]
    show ((u.endPart c k).slot c k).tokPending n = _
    rw [hpart.slot_eq (by simp), hslot]
    rfl
  · exact ⟨hpend, hscratch⟩

/-- Settles O12: a completion is `runOp` and then the token or the fault; each word of its overlaps is met whole and settled by itself. -/
theorem tokenCompletes : Obligations.TokenCompletes := by
  intro c tok s o hrun hclock hready hpush hsend
  have htok := CoreSt.ready_tok hready
  obtain ⟨hok, herror⟩ := exec_tokenCompletion hrun hclock hready hpush hsend
  refine ⟨fun u hu => ?_, fun u e hu hcls hclean => ?_, fun hclash hposted => ?_, metIn_meeting s (s.nodup_clash c tok),
    fun v hv => ⟨(State.clash_spec hv).1, fun own m => ⟨fun hnone => ?_, fun hpast hsome j hj => ?_, fun a ha => v.settle_byte_out own m a ha⟩⟩⟩
  · obtain ⟨v, hsame, hexec⟩ := hok u hu
    obtain ⟨hpend, hscratch⟩ := v.completeToken_spec c (s.active c) tok
    exact ⟨_, hexec, fun n => by rw [hpend, hsame.slot_eq (by simp)], hscratch.trans (hsame.scratch.resolve_left (by simp))⟩
  · have hfirst := State.raiseAt_first e.cls o.pc e.addr false (some tok) (s.orderOf c false (some tok)) (active_lt s c) hclean
    refine ⟨_, herror u e hu, ?_, ?_, ?_, ?_, hfirst.same.scratch.resolve_left (by simp)⟩
    · exact (congrArg (getF · F.CORE_CTX_FAULT_CLASS) hfirst.fault).trans (faultWord_class _ _ _ hcls)
    · exact (congrArg (isSet · F.CORE_CTX_FAULT_PRECISE) hfirst.fault).trans (faultWord_imprecise _ _ hcls)
    · exact (congrArg (getF · F.CORE_CTX_FPC_FPC) hfirst.fpc).trans (getF_fpc _)
    · rw [hfirst.slot]
      rfl
  · have hposted' : ((s.core c).posted.get none o.tok).isSome = false := by rw [htok, hposted]; rfl
    have hclash' : (s.clash c o.tok).isEmpty = true := by rw [htok, hclash]; rfl
    unfold State.runOp
    simp only [hposted', hclash', Bool.false_eq_true, ↓reduceIte]
    exact ⟨trivial, rfl⟩
  · obtain ⟨-, hnow⟩ := State.clash_spec hv
    rw [v.settle_eq, Memory.bytes_eq_iff]
    intro j hj
    rw [Memory.byte_putEight _ _ (v.length_settled own m) hj, v.settled_unwritten hnone, nth_eightOf _ hj, hnow, Memory.nth_bytes _ _ _ hj]
  · obtain ⟨-, hnow⟩ := State.clash_spec hv
    rw [v.settle_eq, Memory.byte_putEight _ _ (v.length_settled own m) hj, v.settled_written hpast hsome m hj, hnow, Memory.nth_bytes _ _ _ hj]
    simp only [wroteByte_filter]

end Sys2Proof.Machine

namespace Sys2Proof.Machine

/-! ### Computations of unit operations -/

theorem U.go_bind_ok {α β : Type} {x : U α} {s t : State} {a : α} (h : x.go s = (.ok a, t)) (f : α → U β) : (x >>= f).go s = (f a).go t := by
  unfold U.go at h ⊢
  rw [ExceptT.run_bind, StateT.run_bind, h]
  rfl

theorem State.noteEcc_sameBut (s : State) (c p : Nat) (b : Bool) : s.SameBut [.regs, .cores, .trc] (s.noteEcc c p b) := by
  have inc (u : State) (a : Nat) (f : Fld) : u.SameBut [.regs, .cores, .trc] (u.incFld a f 1) := (State.SameBut.setFld u a f _).mono (by simp)
  unfold State.noteEcc
  dsimp only
  refine State.SameBut.trans ?_ ((State.SameBut.wr _ _ _).mono (by simp))
  cases b
  · exact ((inc s _ _).trans (inc _ _ _)).trans ((State.SameBut.count _ _ _ _ _ _).mono (by simp))
  · exact (inc s _ _).trans (inc _ _ _)

theorem State.checkWord_sameBut (s : State) (c k a : Nat) : s.SameBut [.regs, .cores, .trc] (s.checkWord c k a).1 := by
  unfold State.checkWord
  dsimp only
  split
  · exact s.noteEcc_sameBut _ _ _
  · split
    · exact (s.noteEcc_sameBut _ _ _).trans ((State.SameBut.onCore _ _ _).mono (by simp))
    · exact .refl s _

theorem State.checkRange_sameBut (s : State) (c k a n : Nat) : s.SameBut [.regs, .cores, .trc] (s.checkRange c k a n).1 := by
  have hwords (l : List Nat) (u : State) : u.SameBut [.regs, .cores, .trc] (u.checkWords c k l).1 := by
    induction l generalizing u with
    | nil => exact .refl u _
    | cons a l ih =>
      have hword := u.checkWord_sameBut c k a
      unfold State.checkWords
      split <;> rename_i e <;> rw [e] at hword
      · exact hword
      · exact hword.trans (ih _)
  unfold State.checkRange
  split
  · exact .refl s _
  · exact hwords _ s

/-- A range of a window that lies within its bound and holds no uncorrectable word. -/
structure State.HoldsGood (s : State) (c k a n : Nat) : Prop where
  bound : a + n ≤ s.bound c k
  good : ∀ x ∈ wordsOf a n, FMap.get false s.ue (wordKey c (s.phys c k x)) = false

/-- What a read leaves: the marks of its checks. -/
structure State.Reads (c : Nat) (s t : State) : Prop where
  checked : s.Checked c t
  same : s.SameBut [.regs, .cores, .trc] t

theorem uRange_go {s : State} {c k a n : Nat} (hk : k < 4) (h : s.HoldsGood c k a n) :
    ∃ t, (uRange c k (a, n)).go s = (.ok (s.winBytes c k a n), t) ∧ s.Reads c t := by
  have hchecked := s.checked_checkRange c k a n
  have hinside : min n (s.bound c k - a) = n := by have := h.bound; omega
  have hbeyond : beyond (s.bound c k) a n = none := by simp [beyond, h.bound]
  have hbytes : (s.checkRange c k a n).1.winBytes c k a n = s.winBytes c k a n := by
    unfold State.winBytes
    rw [hchecked.scratch, hchecked.phys hk]
  refine ⟨(s.checkRange c k a n).1, ?_, hchecked, s.checkRange_sameBut c k _ _⟩
  have hget : (get : U State).go s = (.ok s, s) := rfl
  have hset : (set (s.checkRange c k a n).1 : U PUnit).go s = (.ok ⟨⟩, (s.checkRange c k a n).1) := rfl
  unfold uRange
  rw [U.go_bind_ok hget]
  dsimp only
  rw [hinside, U.go_bind_ok hset, State.checkRange_passes hk h.good]
  dsimp only
  rw [hbeyond, hbytes]
  rfl

/-- Bytes read through an address register with PLANE = 0. -/
theorem uRead_go {s : State} {c k n : Nat} (hk : k < 4) {a : Word} (hplane : aPlane a = false) (h : s.HoldsGood c k (aOff a) n) :
    ∃ t, (uRead c k a n).go s = (.ok (s.winBytes c k (aOff a) n), t) ∧ s.Reads c t := by
  by_cases hn : n = 0
  · subst hn
    exact ⟨s, rfl, .refl s c, .refl s _⟩
  · have hread : uRead c k a n = uRange c k (aOff a, n) := by
      unfold uRead
      rw [if_neg hn, hplane]
      rfl
    rw [hread]
    exact uRange_go hk h

/-- A place to write to through an address register with PLANE = 0. -/
theorem uDest_go {s : State} {c k n : Nat} {a : Word} (hn : n ≠ 0) (hplane : aPlane a = false) (h : aOff a + n ≤ s.bound c k) :
    (uDest c k a n).go s = (.ok (none, [(aOff a, n)]), s) := by
  have hbeyond : beyond (s.bound c k) (aOff a) n = none := by simp [beyond, h]
  have hbound : (uBound c k [(aOff a, n)]).go s = (.ok (), s) := by
    unfold uBound
    rw [U.go_bind_ok (show (get : U State).go s = (.ok s, s) from rfl)]
    dsimp only
    rw [hbeyond]
    rfl
  unfold uDest
  rw [if_neg hn, hplane]
  exact U.go_bind_ok hbound _

theorem uPut_go (s : State) (c k a : Nat) (bs : List Byte) : (uPut c k (none, [(a, bs.length)]) bs).go s = (.ok (), s.putWin c k a bs) := by
  have hmodify : (modify (fun s => s.putWin c k a (bs.take bs.length)) : U PUnit).go s = (.ok ⟨⟩, s.putWin c k a bs) := by
    rw [List.take_length]
    rfl
  exact U.go_bind_ok hmodify _

/-! ### Operations that write one range (R121, R125) -/

/-- A computation that completes with bytes written at a physical address of its core and nowhere else, its changes in the words that it
writes. -/
structure WritesBytes (c p : Nat) (bs : List Byte) (s : State) (r : Except Flt Unit × State) : Prop where
  ok : r.1 = .ok ()
  scratch : r.2.scratch = s.scratch.putBytes (cellKey c p) bs
  changes : ∃ l, r.2.changes c = s.changes c ++ l ∧ ∀ h ∈ l, ∃ w ∈ wordsOf p bs.length, h.word = wordKey c w

theorem State.words_writeMarks (s : State) (c p n : Nat) : (s.writeMarks c p n).words = s.words := by
  unfold State.writeMarks
  split
  · rfl
  · refine List.foldlRecOn (motive := fun u : State => u.words = s.words) _ _ rfl fun u hu w _ => ?_
    dsimp only
    split <;> exact hu

theorem State.changes_putPhys (s : State) (c p : Nat) (bs : List Byte) :
    ∃ l, (s.putPhys c p bs).changes c = s.changes c ++ l ∧ ∀ h ∈ l, ∃ w ∈ wordsOf p bs.length, h.word = wordKey c w := by
  have hmarks : (s.putPhys c p bs).changes c = (s.noteWords c p bs.length).changes c :=
    congrArg (fun m => FMap.get [] m c) (State.words_writeMarks _ c p bs.length)
  rw [hmarks]
  unfold State.noteWords
  split
  · exact ⟨[], by simp, by simp⟩
  · refine ⟨_, FMap.get_set_self _ _ _ _, fun h hh => ?_⟩
    obtain ⟨w, hw, rfl⟩ := List.mem_map.mp hh
    exact ⟨w, hw, rfl⟩

/-- Bytes that a read or a computation gives, written through an address register with PLANE = 0. -/
theorem writesBytes_go {s : State} {c k n : Nat} (hk : k < 4) {a : Word} {α : Type} {x : U α} {g : α → List Byte} {t : State} {b : α}
    (hx : x.go s = (.ok b, t)) (hread : s.Reads c t) (hlen : (g b).length = n) (hn : n ≠ 0) (hplane : aPlane a = false)
    (hbound : aOff a + n ≤ s.bound c k) :
    WritesBytes c (s.phys c k (aOff a)) (g b) s ((x >>= fun b => uDest c k a n >>= fun dst => uPut c k dst (g b)).go s) := by
  have hbound' : aOff a + n ≤ t.bound c k := by rwa [hread.checked.bound hk]
  rw [U.go_bind_ok hx, U.go_bind_ok (uDest_go hn hplane hbound'), ← hlen, uPut_go, State.putWin, hread.checked.phys hk]
  have hchanges : t.changes c = s.changes c := congrArg (fun m => FMap.get [] m c) (hread.same.words.resolve_left (by simp))
  obtain ⟨l, hl, hwords⟩ := t.changes_putPhys c (s.phys c k (aOff a)) (g b)
  refine ⟨rfl, ?_, l, by rw [hl, hchanges], hwords⟩
  show t.scratch.putBytes _ _ = _
  rw [hread.checked.scratch]

/-- Words written within a range lie in no word apart from it. -/
theorem wordKey_ne_of_apart {c p n w : Nat} {v : Overlap} (hw : w ∈ wordsOf p n)
    (hfree : v.word * 8 + 8 ≤ cellKey c p ∨ cellKey c p + n ≤ v.word * 8) : wordKey c w ≠ v.word := by
  obtain ⟨halign, hlo, hhi⟩ := wordsOf_spec hw
  unfold cellKey at hfree
  unfold wordKey
  omega

/-- Where an operation writes bytes that lie in no word of its overlaps, whatever it meets in those, they are all that changes. -/
theorem runOp_writesBytes {c tok p : Nat} {s : State} {o : UOp} {bs : List Byte} (htok : o.tok = tok) (hposted : (s.core c).posted.get none tok = none)
    (hfree : ∀ v ∈ s.clash c tok, v.word * 8 + 8 ≤ cellKey c p ∨ cellKey c p + bs.length ≤ v.word * 8)
    (hrun : ∀ m : State, m.regs = s.regs → MetIn s m (s.clash c tok) → WritesBytes c p bs m ((uRun c (s.active c) o).go m)) :
    ∃ u, s.runOp c (s.active c) o = (.ok (), u) ∧ ∀ a, u.scratch.byte a = (s.scratch.putBytes (cellKey c p) bs).byte a := by
  obtain rfl := htok
  have hposted' : ((s.core c).posted.get none o.tok).isSome = false := by rw [hposted]; rfl
  unfold State.runOp
  simp only [hposted', Bool.false_eq_true, ↓reduceIte]
  generalize hvs : s.clash c o.tok = vs at hfree hrun
  have hnodup : (vs.map Overlap.word).Nodup := hvs ▸ s.nodup_clash c o.tok
  split
  case isTrue hempty =>
    have hnil : vs = [] := by simpa using hempty
    have hmet : MetIn s (s.onCore c fun x => { x with ops := x.ops.erase o }) vs := by
      rw [hnil]
      exact ⟨by simp, fun _ _ => rfl, fun _ _ => rfl⟩
    obtain ⟨hok, hscratch, -⟩ := hrun (s.onCore c fun x => { x with ops := x.ops.erase o }) rfl hmet
    exact ⟨_, Prod.ext hok rfl, fun a => congrArg (Memory.byte · a) hscratch⟩
  case isFalse =>
    generalize hm : (State.onCore (State.meeting { s with fresh := s.fresh + (s.ahead c (s.active c) o.tok).2 + vs.length } vs) c fun x =>
      { x with ops := x.ops.erase o, seen := x.seen.set none 16 (some ⟨0, 0⟩) }) = m
    have hmet : MetIn s m vs := by
      rw [← hm]
      exact metIn_meeting s hnodup
    obtain ⟨hok, hscratch, l, hchanges, hwords⟩ := hrun m (by rw [← hm]; rfl) hmet
    have htry : State.tryOp { s with fresh := s.fresh + (s.ahead c (s.active c) o.tok).2 + vs.length } c (s.active c) o vs
        = (uRun c (s.active c) o).go m := by rw [← hm]; rfl
    rw [htry]
    generalize (uRun c (s.active c) o).go m = r at hok hscratch hchanges
    have hown : ∀ v ∈ vs, ∀ h ∈ s.madeBy r.2 c, h.word ≠ v.word := by
      have hl : s.madeBy r.2 c = l := by
        have hm' : m.changes c = s.changes c := by rw [← hm]; rfl
        rw [State.madeBy, hchanges, hm', List.drop_left]
      rw [hl]
      intro v hv h hh
      obtain ⟨w, hw, hword⟩ := hwords h hh
      rw [hword]
      exact wordKey_ne_of_apart hw (hfree v hv)
    refine ⟨_, Prod.ext hok rfl, fun a => ?_⟩
    show (vs.foldl (fun m v => v.settle (s.madeBy r.2 c) m) r.2.scratch).byte a = _
    have hsettle : ∀ (m : Memory) (v : Overlap) a, a < v.word * 8 ∨ v.word * 8 + 8 ≤ a → (v.settle (s.madeBy r.2 c) m).byte a = m.byte a :=
      fun m v a => v.settle_byte_out _ m a
    by_cases ha : ∀ v ∈ vs, a < v.word * 8 ∨ v.word * 8 + 8 ≤ a
    · rw [foldl_byte_out hsettle _ ha, hscratch]
      by_cases hin : cellKey c p ≤ a ∧ a < cellKey c p + bs.length
      · obtain ⟨j, rfl⟩ := Nat.exists_eq_add_of_le hin.1
        rw [Memory.byte_putBytes_in _ _ _ j (by omega), Memory.byte_putBytes_in _ _ _ j (by omega)]
      · rw [Memory.byte_putBytes_out _ _ _ _ (by omega), Memory.byte_putBytes_out _ _ _ _ (by omega)]
        exact hmet.2.1 a ha
    · push Not at ha
      obtain ⟨v, hv, hlo, hhi⟩ := ha
      obtain ⟨m', -, hbytes⟩ := foldl_byte_in hsettle hnodup r.2.scratch hv
      have hnow : v.now = s.scratch.bytes (v.word * 8) 8 := (State.clash_spec (hvs ▸ hv)).2
      have hbyte := (Memory.bytes_eq_iff _ _ _ _ _).mp hbytes (a - v.word * 8) (by omega)
      rw [v.settle_eq, Memory.byte_putEight _ _ (v.length_settled _ _) (by omega), v.settled_unwritten (hown v hv), nth_eightOf _ (by omega), hnow,
        Memory.nth_bytes _ _ _ (by omega), Nat.add_sub_cancel' hlo] at hbyte
      rw [hbyte, Memory.byte_putBytes_out _ _ _ _ (by have := hfree v hv; omega)]

/-- A range apart from the words of the overlaps is met as it stands. -/
theorem MetIn.holdsGood {s m : State} {c tok a n : Nat} (hmet : MetIn s m (s.clash c tok)) (hregs : m.regs = s.regs)
    (hread : Readable s c a n) (hfree : Undisturbed s c tok a n) :
    m.HoldsGood c (s.active c) a n ∧ m.winBytes c (s.active c) a n = s.winBytes c (s.active c) a n := by
  obtain ⟨-, hbyte, hmark⟩ := hmet
  have hrd (a : Nat) : m.rd a = s.rd a := by unfold State.rd; rw [hregs]
  have hphys (x : Nat) : m.phys c (s.active c) x = s.phys c (s.active c) x := by unfold State.phys State.fld; rw [hrd]
  refine ⟨⟨?_, fun x hx => ?_⟩, ?_⟩
  · unfold State.bound
    rw [hrd]
    exact hread.1
  · rw [hphys, hmark _ fun v hv hword => ?_]
    · exact hread.2 x hx
    · obtain ⟨halign, hlo, hhi⟩ := wordsOf_spec hx
      have := hfree v hv
      unfold wordKey State.phys at hword
      unfold cellKey State.phys at this
      omega
  · unfold State.winBytes
    rw [hphys, Memory.bytes_eq_iff]
    exact fun j hj => hbyte _ fun v hv => by
      have := hfree v hv
      omega

/-- The completion of an operation that writes bytes of its window. -/
theorem tokenCompletion_writesBytes {c tok p : Nat} {s : State} {o : UOp} {bs : List Byte} (hrun : s.isRunning c = true)
    (hclock : s.paused (chanOf c) = false) (hready : (s.core c).ready tok = some o) (hposted : (s.core c).posted.get none tok = none)
    (hpush : o.kind ≠ .push) (hsend : o.kind ≠ .send)
    (hfree : ∀ v ∈ s.clash c tok, v.word * 8 + 8 ≤ cellKey c p ∨ cellKey c p + bs.length ≤ v.word * 8)
    (hwrites : ∀ m : State, m.regs = s.regs → MetIn s m (s.clash c tok) → WritesBytes c p bs m ((uRun c (s.active c) o).go m)) :
    ∃ t, exec (.tokenCompletion c tok) s = .next t ∧ (∀ a, t.scratch.byte a = (s.scratch.putBytes (cellKey c p) bs).byte a)
      ∧ (t.slot c (s.active c)).tokPending tok = false := by
  obtain ⟨u, hu, hbytes⟩ := runOp_writesBytes (CoreSt.ready_tok hready) hposted hfree hwrites
  obtain ⟨hok, -⟩ := tokenCompletes c tok s o hrun hclock hready (fun h => absurd h hpush) (fun h => absurd h hsend)
  obtain ⟨t, hexec, hpend, hscratch⟩ := hok u hu
  exact ⟨t, hexec, fun a => by rw [hscratch, hbytes], by rw [hpend]; simp⟩

/-- msg.move by bytes (R121). -/
theorem uMove_go {c k : Nat} (hk : k < 4) {m : State} {o : UOp} (hD : aPlane o.aD = false) (hA : aPlane o.aA = false)
    (hsrc : o.fn = 0 → m.HoldsGood c k (aOff o.aA) (ctl o.c0 21 0)) (hdst : aOff o.aD + ctl o.c0 21 0 ≤ m.bound c k) :
    WritesBytes c (m.phys c k (aOff o.aD))
      (if o.fn = 0 then m.winBytes c k (aOff o.aA) (ctl o.c0 21 0) else List.replicate (ctl o.c0 21 0) 0#8) m ((uMove c k o).go m) := by
  have hcells : (aPlane o.aD || (decide (o.fn = 0) && aPlane o.aA)) = false := by simp [hD, hA]
  unfold uMove
  dsimp only
  rw [hcells]
  simp only [Bool.false_eq_true, ↓reduceIte]
  generalize ctl o.c0 21 0 = n at hsrc hdst ⊢
  by_cases hn : n = 0
  · subst hn
    have hnone : (if o.fn = 0 then m.winBytes c k (aOff o.aA) 0 else List.replicate 0 0#8) = [] := by split <;> rfl
    rw [hnone]
    exact ⟨rfl, rfl, [], (List.append_nil _).symm, by simp⟩
  · rw [if_pos hn]
    by_cases hfn : o.fn = 0
    · obtain ⟨t, hgo, hreads⟩ := uRead_go hk hA (hsrc hfn)
      simp only [hfn, ↓reduceIte]
      exact writesBytes_go (g := id) hk hgo hreads (Memory.bytes_length _ _ _) hn hD hdst
    · have hgo : (pure (List.replicate n 0#8) : U (List Byte)).go m = (.ok (List.replicate n 0#8), m) := rfl
      simp only [hfn, ↓reduceIte]
      exact writesBytes_go (g := id) hk hgo ⟨.refl m c, .refl m _⟩ List.length_replicate hn hD hdst

theorem length_leafDigest (tensor index : Nat) (chunk : List Byte) : (leafDigest tensor index chunk).length = 32 := shake256_length _

/-- dg.leaf (R125). -/
theorem uLeaf_go {c k : Nat} (hk : k < 4) {m : State} {o : UOp} (hD : aPlane o.aD = false) (hA : aPlane o.aA = false)
    (hsrc : m.HoldsGood c k (aOff o.aA) 4096) (hdst : aOff o.aD + 32 ≤ m.bound c k) :
    WritesBytes c (m.phys c k (aOff o.aD)) (leafDigest o.c0.toNat o.c1.toNat (m.winBytes c k (aOff o.aA) 4096)) m ((uLeaf c k o).go m) := by
  obtain ⟨t, hgo, hreads⟩ := uRead_go hk hA hsrc
  exact writesBytes_go (g := leafDigest o.c0.toNat o.c1.toNat) hk hgo hreads (length_leafDigest _ _ _) (by decide) hD hdst

/-- Settles O14: each of the two writes one range, and the words of other operations lie apart from what it reads and writes. -/
theorem moveAndDigest : Obligations.MoveAndDigest := by
  intro c tok s o hrun hclock hready hposted
  have hk := active_lt s c
  have hsame {m : State} (hregs : m.regs = s.regs) (a : Nat) : m.bound c (s.active c) = s.bound c (s.active c)
      ∧ m.phys c (s.active c) a = s.phys c (s.active c) a := by
    have hrd (a : Nat) : m.rd a = s.rd a := by unfold State.rd; rw [hregs]
    unfold State.bound State.phys State.fld
    rw [hrd]
    exact ⟨rfl, rfl⟩
  refine ⟨fun hkind hD hA hfn hsrc hdst hfreeSrc hfreeDst => ?_, fun hkind hD hA hsrc hdst hfreeSrc hfreeDst => ?_⟩
  · have hcount : ctl o.c0 21 0 = o.c0.toNat % 2 ^ 22 := by simp [ctl, bitsOf]
    let bs := if o.fn = 0 then s.winBytes c (s.active c) (aOff o.aA) (o.c0.toNat % 2 ^ 22) else List.replicate (o.c0.toNat % 2 ^ 22) 0#8
    have hlen : bs.length = o.c0.toNat % 2 ^ 22 := by
      simp only [bs]
      split
      · exact Memory.bytes_length _ _ _
      · exact List.length_replicate
    obtain ⟨t, hexec, hbytes, hpend⟩ := tokenCompletion_writesBytes (p := s.phys c (s.active c) (aOff o.aD)) (bs := bs) hrun hclock hready hposted
      (by rw [hkind]; decide) (by rw [hkind]; decide) (by rw [hlen]; exact hfreeDst) fun m hregs hmet => by
        have hgo := uMove_go hk (m := m) hD hA (fun h => by rw [hcount]; exact (MetIn.holdsGood hmet hregs (hsrc h) (hfreeSrc h)).1)
          (by rw [hcount, (hsame hregs 0).1]; exact hdst)
        have hbs : (if o.fn = 0 then m.winBytes c (s.active c) (aOff o.aA) (ctl o.c0 21 0) else List.replicate (ctl o.c0 21 0) 0#8) = bs := by
          simp only [bs, hcount]
          split
          · rename_i h
            exact (MetIn.holdsGood hmet hregs (hsrc h) (hfreeSrc h)).2
          · rfl
        rw [hbs, (hsame hregs _).2] at hgo
        rw [uRun, hkind]
        exact hgo
    refine ⟨t, hexec, fun j hj => ?_, fun a ha => ?_, hpend⟩
    · rw [hbytes, Memory.byte_putBytes_in _ _ _ j (by rwa [hlen])]
      simp only [bs]
      split
      · exact Memory.getElem_bytes _ _ _ _
      · exact List.getElem_replicate _
    · rw [hbytes, Memory.byte_putBytes_out _ _ _ _ (by rwa [hlen])]
  · have hlen := length_leafDigest o.c0.toNat o.c1.toNat (s.winBytes c (s.active c) (aOff o.aA) 4096)
    obtain ⟨t, hexec, hbytes, hpend⟩ := tokenCompletion_writesBytes (p := s.phys c (s.active c) (aOff o.aD))
      (bs := leafDigest o.c0.toNat o.c1.toNat (s.winBytes c (s.active c) (aOff o.aA) 4096)) hrun hclock hready hposted
      (by rw [hkind]; decide) (by rw [hkind]; decide) (by rw [hlen]; exact hfreeDst) fun m hregs hmet => by
        obtain ⟨hgood, hread⟩ := MetIn.holdsGood hmet hregs hsrc hfreeSrc
        have hgo := uLeaf_go hk (m := m) hD hA hgood (by rw [(hsame hregs 0).1]; exact hdst)
        rw [hread, (hsame hregs _).2] at hgo
        rw [uRun, hkind]
        exact hgo
    refine ⟨t, hexec, ?_, fun a ha => ?_, hpend⟩
    · have hput := s.scratch.bytes_putBytes (cellKey c (s.phys c (s.active c) (aOff o.aD)))
        (leafDigest o.c0.toNat o.c1.toNat (s.winBytes c (s.active c) (aOff o.aA) 4096))
      rw [hlen] at hput
      rw [(Memory.bytes_eq_iff _ _ _ _ _).mpr fun j _ => hbytes _, hput]
    · rw [hbytes, Memory.byte_putBytes_out _ _ _ _ (by rwa [hlen])]

end Sys2Proof.Machine

namespace Sys2Proof.Machine

/-! ### Step start (R71, R300) -/

/-- What one turn of a fold over a list brings about and no turn undoes holds at its end. -/
theorem State.each_reaches_of_mem {α : Type} {P Q : State → Prop} {s : State} {l : List α} {f : State → α → State} {a : α} (ha : a ∈ l) (h : P s)
    (hP : ∀ u, ∀ b ∈ l, P u → P (f u b)) (hPQ : ∀ u, P u → Q (f u a)) (hQ : ∀ u, ∀ b ∈ l, Q u → Q (f u b)) : Q (s.each l f) := by
  obtain ⟨before, after, rfl⟩ := List.append_of_mem ha
  have hbefore : P (s.each before f) := List.foldlRecOn before f h fun u hu b hb => hP u b (by simp [hb]) hu
  rw [State.each, List.foldl_append, List.foldl_cons]
  exact List.foldlRecOn after f (hPQ _ hbefore) fun u hu b hb => hQ u b (by simp [hb]) hu

theorem statReg_ne {c d : Nat} (hc : c < 1024) (hd : d < 1024) (h : d ≠ c) : statReg d ≠ statReg c := by
  unfold statReg R.CORE_STAT chanOf posOf
  omega

theorem winReg_ne_statReg (c d : Nat) {k : Nat} (hk : k < 4) : winReg d k ≠ statReg c ∧ winReg d k + 4 ≠ statReg c := by
  unfold winReg statReg R.CORE_STAT R.CORE_WIN_CFG
  omega

theorem State.putPhys_sameBut (s : State) (c p : Nat) (bs : List Byte) :
    s.SameBut [.scratch, .ue, .ce, .cores, .words] (s.putPhys c p bs) := by
  have hnote : s.SameBut [.words] (s.noteWords c p bs.length) := by
    unfold State.noteWords
    split
    · exact .refl s _
    · constructor <;> simp
  have hmarks (u : State) (n : Nat) : u.SameBut [.ue, .ce, .cores] (u.writeMarks c p n) := by
    unfold State.writeMarks
    split
    · exact .refl u _
    · refine List.foldlRecOn (motive := fun v => u.SameBut [.ue, .ce, .cores] v) _ _ (.refl u _) fun v hv w _ => hv.trans ?_
      dsimp only
      split <;> constructor <;> simp
  have hput (u : State) (m : Memory) : u.SameBut [.scratch] { u with scratch := m } := by constructor <;> simp
  exact (hnote.mono (by simp)).trans (((hmarks _ _).mono (by simp)).trans ((hput _ _).mono (by simp)))

theorem State.scratch_putPhys (s : State) (c p : Nat) (bs : List Byte) :
    (s.putPhys c p bs).scratch = s.scratch.putBytes (cellKey c p) bs := rfl

theorem State.phys_add (s : State) (c k a n : Nat) : s.phys c k (a + n) = s.phys c k a + n := (Nat.add_assoc _ _ _).symm

theorem CORE_CTX_ENTRY_eq (c k : Nat) : R.CORE_CTX_ENTRY (chanOf c) (posOf c) k = winReg c k + 4 := by
  unfold winReg R.CORE_CTX_ENTRY R.CORE_WIN_CFG
  omega

theorem mkAddr_false (arg : Nat) : mkAddr false arg = BitVec.ofNat 32 (arg % 2 ^ 22) := by
  unfold mkAddr wrapN b2n
  congr 1
  simp
  omega

/-- The bank of a slot as a step starts on its core: a0 = ARG, fetch begins at ENTRY, no loop armed, every token COMPLETE. -/
def Slot.started (b : Slot) (arg entry : Nat) : Slot :=
  { ({ b with loops := [], pend := 0 } : Slot).setA 0 (mkAddr false arg) with pc := entry }

/-- The bytes at ARG as a step starts: its header and its slices (R300). -/
def State.stepBytes (s : State) (p x : Nat) (st : Step) : List Byte :=
  stepHeader ((s.ctx p x).steps + 1) st.slices.length x ++ st.slices.flatten

/-- Where fetch begins (R80). -/
def State.entry (s : State) (c k : Nat) : Nat := bitsOf (s.rd (winReg c k + 4)).toNat 21 2 * 4

/-- What the start of a step on a core leaves alone, and what it brings about there. -/
structure State.StartsOn (p x : Nat) (st : Step) (r : CoreRec) (s t : State) : Prop where
  running : t.isRunning r.core = true
  active : t.active r.core = r.slot
  slot : t.slot r.core r.slot = (s.slot r.core r.slot).started st.arg (s.entry r.core r.slot)
  ops : (t.core r.core).ops = []
  scratch : t.scratch = s.scratch.putBytes (cellKey r.core (s.phys r.core r.slot st.arg)) (s.stepBytes p x st)
  same : s.SameBut [.regs, .scratch, .ue, .ce, .cores, .words, .trc, .fresh] t
  slots : ∀ d j, ¬(d = r.core ∧ j = r.slot) → t.slot d j = s.slot d j
  opsOf : ∀ d, d ≠ r.core → (t.core d).ops = (s.core d).ops
  regs : ∀ a, a < 0x02000000 → a ≠ statReg r.core → t.rd a = s.rd a

/-- A core at rest with a flushed buffer, its bank as at a step start. -/
def State.enterPart (s : State) (c k arg entry : Nat) : State :=
  let s := s.onCore c (fun y => { (y.quiet k).flush with stopped := s.hasFaulted c k })
  s.onSlot c k (fun b => { (b.setA 0 (mkAddr false arg)) with pc := entry })

theorem State.enterPart_spec (s : State) (c k arg entry : Nat) :
    s.SameBut [.cores] (s.enterPart c k arg entry) ∧ (s.enterPart c k arg entry).slot c k = (s.slot c k).started arg entry
      ∧ ((s.enterPart c k arg entry).core c).ops = [] ∧ (∀ d j, ¬(d = c ∧ j = k) → (s.enterPart c k arg entry).slot d j = s.slot d j)
      ∧ ∀ d, d ≠ c → (s.enterPart c k arg entry).core d = s.core d := by
  unfold State.enterPart
  dsimp only
  refine ⟨((State.SameBut.onCore _ _ _).trans (.onSlot _ _ _ _)), ?_, ?_, fun d j hd => ?_, fun d hd => ?_⟩
  · rw [State.slot_onSlot_self, State.slot, State.core_onCore_self]
    exact congrArg (fun b : Slot => { b.setA 0 (mkAddr false arg) with pc := entry }) ((s.core c).slot_quiet k)
  · rw [State.onSlot, State.core_onCore_self, State.core_onCore_self]
    rfl
  · rw [State.slot_onSlot_ne _ _ hd, State.slot, State.core_onCore]
    split
    · next h =>
      have hj : j ≠ k := fun hj => hd ⟨h, hj⟩
      rw [h]
      exact ((s.core c).slot_setSlot k j _).trans (if_neg hj)
    · rfl
  · rw [State.onSlot, State.core_onCore, if_neg hd, State.core_onCore, if_neg hd]

theorem State.startCore_startsOn (s : State) (p x : Nat) (st : Step) (r : CoreRec) (hk : r.slot < 4) :
    s.StartsOn p x st r (s.startCore p x st r) := by
  let bs := s.stepBytes p x st
  let put := s.putPhys r.core (s.phys r.core r.slot st.arg) bs
  let counted := put.count (some r.core) (chanOf r.core) (some (p, x)) 0x0C bs.length
  have hput : s.SameBut [.scratch, .ue, .ce, .cores, .words] put := s.putPhys_sameBut _ _ _
  have hcount : put.SameBut [.trc] counted := .count _ _ _ _ _ _
  have hbanks := s.putPhys_keepsBanks r.core (s.phys r.core r.slot st.arg) bs
  have hentry : counted.entry r.core r.slot = s.entry r.core r.slot := by
    rw [State.entry, hcount.rd_eq (by simp), hput.rd_eq (by simp)]
    rfl
  have hslots (d j : Nat) : counted.slot d j = s.slot d j := (hcount.slot_eq (by simp) d j).trans (hbanks.slots d j)
  let entered := counted.enterPart r.core r.slot st.arg (s.entry r.core r.slot)
  obtain ⟨henter, hslot, hops, hothers, hunits⟩ := counted.enterPart_spec r.core r.slot st.arg (s.entry r.core r.slot)
  let live := (entered.setFld (statReg r.core) F.CORE_STAT_ACTIVE r.slot).setFld (statReg r.core) F.CORE_STAT_RUN 1
  have hlive : entered.SameBut [.regs] live := (State.SameBut.setFld _ _ _ _).trans (.setFld _ _ _ _)
  have hmark := live.markCore_sameBut r.core 0 tvBegin (p, x) 0 (s.entry r.core r.slot)
  have hstart : s.startCore p x st r = live.markCore r.core 0 tvBegin (p, x) 0 (s.entry r.core r.slot) := by
    simp only [live, entered, ← hentry]
    rfl
  have hlast : entered.SameBut [.regs, .trc, .fresh] (s.startCore p x st r) := by
    rw [hstart]
    exact (hlive.mono (by simp)).trans hmark
  have hrd {a : Nat} (ha : a < 0x02000000) : (s.startCore p x st r).rd a = live.rd a := by
    rw [hstart, State.rd_markCore_of_lt _ _ _ _ _ _ _ ha]
  have hold {a : Nat} (ha : a ≠ statReg r.core) : live.rd a = s.rd a := by
    rw [State.rd_setFld_ne _ _ _ ha, State.rd_setFld_ne _ _ _ ha, henter.rd_eq (by simp), hcount.rd_eq (by simp), hput.rd_eq (by simp)]
  refine ⟨?_, ?_, ?_, ?_, ?_, ?_, fun d j hd => ?_, fun d hd => ?_, fun a ha hne => (hrd ha).trans (hold hne)⟩
  · rw [State.isRunning, State.bit, hrd (statReg_lt _), State.rd_setFld_self, isSet, getF_setF_self _ _ _ (by decide) (by decide)]
    rfl
  · have hfld : (s.startCore p x st r).fld (statReg r.core) F.CORE_STAT_ACTIVE = live.fld (statReg r.core) F.CORE_STAT_ACTIVE := by
      rw [State.fld, hrd (statReg_lt _)]
      rfl
    refine hfld.trans ?_
    rw [State.fld_setFld_other _ _ _ _ _ (by decide) (by decide) (by decide) (by decide),
      State.fld_setFld_self _ _ _ _ (by decide) (by decide)]
    exact Nat.mod_eq_of_lt hk
  · rw [hlast.slot_eq (by simp), hslot, hslots]
  · rw [hlast.core_eq (by simp), hops]
  · rw [hlast.scratch.resolve_left (by simp), henter.scratch.resolve_left (by simp), hcount.scratch.resolve_left (by simp)]
    exact s.scratch_putPhys _ _ _
  · exact (hput.mono (by simp)).trans ((hcount.mono (by simp)).trans ((henter.mono (by simp)).trans (hlast.mono (by simp))))
  · rw [hlast.slot_eq (by simp), hothers d j hd, hslots]
  · rw [hlast.core_eq (by simp), hunits d hd, hcount.core_eq (by simp)]
    exact (((hbanks.frame 0).units d).ops)

/-- Where a step's header and slices lie on a core: their key and their length. -/
def State.stepRegion (s : State) (p x : Nat) (st : Step) (r : CoreRec) : Nat × Nat :=
  (cellKey r.core (s.phys r.core r.slot st.arg), (s.stepBytes p x st).length)

/-- What the start of a step on cores of a list leaves alone. -/
structure State.StartsAmong (p x : Nat) (st : Step) (cs : List CoreRec) (s t : State) : Prop where
  parts : t.parts = s.parts
  win : ∀ d k, k < 4 → t.rd (winReg d k) = s.rd (winReg d k) ∧ t.rd (winReg d k + 4) = s.rd (winReg d k + 4)
  banks : ∀ d j i, (t.slot d j).s i = (s.slot d j).s i ∧ (t.slot d j).p i = (s.slot d j).p i
  bytes : s.SameBytes (cs.map (s.stepRegion p x st)) t

/-- R71, R300: a step has started on a core. -/
structure State.StartedOn (p x : Nat) (st : Step) (r : CoreRec) (s t : State) : Prop where
  running : t.isRunning r.core = true
  active : t.active r.core = r.slot
  slot : ∃ b : Slot, t.slot r.core r.slot = b.started st.arg (s.entry r.core r.slot)
  ops : (t.core r.core).ops = []
  bytes : t.scratch.bytes (cellKey r.core (s.phys r.core r.slot st.arg)) (s.stepBytes p x st).length = s.stepBytes p x st

section
variable {p x : Nat} {st : Step} {cs : List CoreRec} {s u t : State} {r r' : CoreRec}

theorem State.StartsAmong.refl (p x : Nat) (st : Step) (cs : List CoreRec) (s : State) : s.StartsAmong p x st cs s :=
  ⟨rfl, fun _ _ _ => ⟨rfl, rfl⟩, fun _ _ _ => ⟨rfl, rfl⟩, fun _ _ => rfl⟩

theorem State.StartsAmong.ctx (h : s.StartsAmong p x st cs u) (q y : Nat) : u.ctx q y = s.ctx q y := by
  unfold State.ctx State.part
  rw [h.parts]

theorem State.StartsAmong.reads (h : s.StartsAmong p x st cs u) (c : Nat) {k : Nat} (hk : k < 4) :
    u.entry c k = s.entry c k ∧ (∀ a, u.phys c k a = s.phys c k a) ∧ u.stepBytes p x st = s.stepBytes p x st := by
  refine ⟨?_, fun a => ?_, ?_⟩
  · rw [State.entry, (h.win c k hk).2]
    rfl
  · rw [State.phys, State.fld, (h.win c k hk).1]
    rfl
  · rw [State.stepBytes, h.ctx]
    rfl

theorem State.StartsAmong.region (h : s.StartsAmong p x st cs u) (hk : r.slot < 4) : u.stepRegion p x st r = s.stepRegion p x st r := by
  obtain ⟨-, hphys, hbytes⟩ := h.reads r.core hk
  rw [State.stepRegion, hphys, hbytes]
  rfl

theorem State.StartsAmong.start (h : s.StartsAmong p x st cs u) (hr : r ∈ cs) (hk : r.slot < 4) (g : u.StartsOn p x st r t) :
    s.StartsAmong p x st cs t := by
  refine ⟨(g.same.parts.resolve_left (by simp)).trans h.parts, fun d k hk' => ?_, fun d j i => ?_, fun a ha => ?_⟩
  · have hlt := winReg_lt d hk'
    obtain ⟨hne, hne'⟩ := winReg_ne_statReg r.core d hk'
    rw [g.regs _ (by omega) hne, g.regs _ hlt hne']
    exact h.win d k hk'
  · by_cases hd : d = r.core ∧ j = r.slot
    · obtain ⟨rfl, rfl⟩ := hd
      rw [g.slot]
      exact h.banks _ _ i
    · rw [g.slots d j hd]
      exact h.banks d j i
  · have hout := ha _ (List.mem_map_of_mem hr)
    rw [← h.region hk] at hout
    rw [g.scratch]
    exact (Memory.byte_putBytes_out _ _ _ _ hout).trans (h.bytes a ha)

theorem State.StartsAmong.started (h : s.StartsAmong p x st cs u) (hk : r.slot < 4) (g : u.StartsOn p x st r t) : s.StartedOn p x st r t := by
  obtain ⟨hentry, hphys, hbytes⟩ := h.reads r.core hk
  refine ⟨g.running, g.active, ⟨_, by rw [g.slot, hentry]⟩, g.ops, ?_⟩
  rw [g.scratch, hphys, hbytes, Memory.bytes_putBytes]

theorem State.StartedOn.kept (h : s.StartedOn p x st r u) (hi : s.StartsAmong p x st cs u) (hk' : r'.slot < 4) (hc : r.core < 1024)
    (hc' : r'.core < 1024) (hne : r.core ≠ r'.core)
    (hin : s.phys r.core r.slot st.arg + (s.stepBytes p x st).length ≤ 2 ^ 22)
    (hin' : s.phys r'.core r'.slot st.arg + (s.stepBytes p x st).length ≤ 2 ^ 22) (g : u.StartsOn p x st r' t) : s.StartedOn p x st r t := by
  obtain ⟨-, hphys, hbytes⟩ := hi.reads r'.core hk'
  have hstat : t.rd (statReg r.core) = u.rd (statReg r.core) := g.regs _ (statReg_lt _) (statReg_ne hc' hc hne)
  refine ⟨?_, ?_, ?_, (g.opsOf _ hne).trans h.ops, ?_⟩
  · rw [State.isRunning, State.bit, hstat]
    exact h.running
  · exact (congrArg (fun w => getF w F.CORE_STAT_ACTIVE) hstat).trans h.active
  · rw [g.slots _ _ (by simp [hne])]
    exact h.slot
  · refine Eq.trans ?_ h.bytes
    rw [g.scratch, hphys, hbytes, Memory.bytes_eq_iff]
    intro i hi'
    refine Memory.byte_putBytes_out _ _ _ _ ?_
    unfold cellKey
    omega

end

/-- R71, R300: the step starts on every core of a set whose cores differ. -/
theorem State.each_startCore (s : State) (p x : Nat) (st : Step) (cs : List CoreRec) (hlt : ∀ r ∈ cs, r.core < 1024 ∧ r.slot < 4)
    (hdiff : ∀ r ∈ cs, ∀ r' ∈ cs, r.core = r'.core → r = r')
    (hin : ∀ r ∈ cs, s.phys r.core r.slot st.arg + (s.stepBytes p x st).length ≤ 2 ^ 22) :
    s.StartsAmong p x st cs (s.each cs fun u r => u.startCore p x st r)
      ∧ ∀ r ∈ cs, s.StartedOn p x st r (s.each cs fun u r => u.startCore p x st r) := by
  have hstart (u : State) (r : CoreRec) (hr : r ∈ cs) : u.StartsOn p x st r (u.startCore p x st r) := u.startCore_startsOn p x st r (hlt r hr).2
  have hkeep (u : State) (r : CoreRec) (hr : r ∈ cs) (h : s.StartsAmong p x st cs u) : s.StartsAmong p x st cs (u.startCore p x st r) :=
    h.start hr (hlt r hr).2 (hstart u r hr)
  refine ⟨List.foldlRecOn cs _ (.refl p x st cs s) fun u hu r hr => hkeep u r hr hu, fun r hr => ?_⟩
  refine (State.each_reaches_of_mem (P := s.StartsAmong p x st cs) (Q := fun u => s.StartsAmong p x st cs u ∧ s.StartedOn p x st r u) hr
    (.refl p x st cs s) hkeep (fun u hu => ⟨hkeep u r hr hu, hu.started (hlt r hr).2 (hstart u r hr)⟩) fun u r' hr' ⟨hu, hrun⟩ => ?_).2
  refine ⟨hkeep u r' hr' hu, ?_⟩
  by_cases hne : r.core = r'.core
  · obtain rfl := hdiff r hr r' hr' hne
    exact hu.started (hlt r hr).2 (hstart u r hr)
  · exact hrun.kept hu (hlt r' hr').2 (hlt r hr).1 (hlt r' hr').1 hne (hin r hr) (hin r' hr') (hstart u r' hr')

/-! What goes before the cores' parts: the partition's record of the step, its counters and its markers. -/

theorem State.settleCnt_sameBut (s : State) (k : Nat) : s.SameBut [.trc, .fresh] (s.settleCnt k) := by
  unfold State.settleCnt State.draw
  dsimp only
  split <;> constructor <;> simp

theorem State.resetCounters_sameBut (s : State) (p : Nat) (cores chans : List Nat) :
    s.SameBut [.trc, .fresh] (s.resetCounters p cores chans) := by
  refine State.each_keeps (P := fun u => s.SameBut [.trc, .fresh] u) _ (.refl s _) fun u k hu => (hu.trans (u.settleCnt_sameBut k)).trans ?_
  constructor <;> simp

/-- A step under way in its context: it no longer waits to start. -/
def CtxSt.underWay (t : CtxSt) : CtxSt :=
  { t with
    starting := false, running := true, reported := [], withdrawable := true, left := false, incomplete := false
    discarded := false, stepDigest := [] }

/-- What a partition keeps of a step's start, to undo it: its cores' banks, the values and generations of its objects (R439, R440). -/
def State.lifeline (s : State) (p x : Nat) (q : PartSt) : PartSt :=
  let objs := (s.part p).chans.flatMap s.objectsOf
  let put (f : Nat → Nat) : FMap Nat := objs.foldl (fun m o => FMap.set 0 m o (f o)) []
  { q with
    life := (s.ctx p x).cores.map (fun r => (r.core, s.slot r.core r.slot)), sync0 := put (fun o => (s.rd (valReg o)).toNat)
    gen0 := put (fun o => s.fld (sstatReg o) F.SYNC_STAT_GEN), undo := [], undoFull := false }

/-- What earlier steps of a context have discarded is forgotten. -/
def NocSt.forget (p x : Nat) (n : NocSt) : NocSt := { n with discarded := n.discarded.filter (fun k => k.1 != p || k.2.1 != x) }

/-- The state of a partition just before a step starts on its cores. -/
def State.openStep (s : State) (p x nslice : Nat) : State :=
  let t := s.ctx p x
  let s := ((s.onPart p (s.lifeline p x)).onNoc (NocSt.forget p x)).onCtx p x CtxSt.underWay
  let s := s.resetCounters p (t.cores.map (·.core)) (s.part p).chans
  let s := if t.switched then
      s.each (s.part p).chans (fun s ch => (s.markCp ch tvSwitch (p, x) x).count none ch (some (p, x)) 0x21 1) else s
  s.each (s.part p).chans (fun s ch => s.markCp ch tvStart (p, x) nslice)

/-- What marks and counters leave alone: everything but themselves, and no register below those of the trace. -/
structure State.OnlyTraces (s t : State) : Prop where
  same : s.SameBut [.regs, .trc, .fresh] t
  regs : ∀ a, a < 0x02000000 → t.rd a = s.rd a

theorem State.OnlyTraces.of_regs {s t : State} {l : List Piece} (h : s.SameBut l t) (hl : l ⊆ [.trc, .fresh] := by simp) : s.OnlyTraces t :=
  ⟨h.mono (fun _ hp => List.mem_cons_of_mem _ (hl hp)), fun a _ => h.rd_eq (fun hp => by simpa using hl hp) a⟩

theorem State.OnlyTraces.trans {s t u : State} (h : s.OnlyTraces t) (g : t.OnlyTraces u) : s.OnlyTraces u :=
  ⟨h.same.trans g.same, fun a ha => (g.regs a ha).trans (h.regs a ha)⟩

theorem State.markCp_onlyTraces (s : State) (ch event : Nat) (own : Nat × Nat) (arg : Nat) : s.OnlyTraces (s.markCp ch event own arg) :=
  ⟨(s.markCp_sameBut ch event own arg).mono (by simp), fun _ ha => s.rd_markCp_of_lt ch event own arg ha⟩

theorem State.each_onlyTraces {α : Type} (s : State) (l : List α) {f : State → α → State} (hf : ∀ (u : State) a, u.OnlyTraces (f u a)) :
    s.OnlyTraces (s.each l f) :=
  State.each_keeps (P := fun u => s.OnlyTraces u) l ⟨.refl s _, fun _ _ => rfl⟩ fun u a hu => hu.trans (hf u a)

theorem State.openStep_spec (s : State) (p x nslice : Nat) :
    s.SameBut [.regs, .noc, .parts, .trc, .fresh] (s.openStep p x nslice)
      ∧ (s.openStep p x nslice).ctx p x = (s.ctx p x).underWay
      ∧ ∀ a, a < 0x02000000 → (s.openStep p x nslice).rd a = s.rd a := by
  let u := ((s.onPart p (s.lifeline p x)).onNoc (NocSt.forget p x)).onCtx p x CtxSt.underWay
  have hsame : s.SameBut [.noc, .parts] u :=
    ((State.SameBut.onPart _ _ _).mono (by simp)).trans (((State.SameBut.onNoc _ _).mono (by simp)).trans ((State.SameBut.onCtx _ _ _ _).mono (by simp)))
  have hctx : u.ctx p x = (s.ctx p x).underWay := by
    have hpart : ((s.onPart p (s.lifeline p x)).onNoc (NocSt.forget p x)).ctx p x = s.ctx p x := by
      change FMap.get _ ((s.onPart p (s.lifeline p x)).part p).ctxs x = FMap.get _ (s.part p).ctxs x
      rw [State.part_onPart_self]
      rfl
    rw [State.ctx_onCtx_self, hpart]
  have hreset := State.OnlyTraces.of_regs (u.resetCounters_sameBut p ((s.ctx p x).cores.map (·.core)) (u.part p).chans)
  have htraces : u.OnlyTraces (s.openStep p x nslice) := by
    refine (hreset.trans ?_).trans (State.each_onlyTraces _ _ fun v ch => v.markCp_onlyTraces _ _ _ _)
    split
    · exact State.each_onlyTraces _ _ fun v ch => (v.markCp_onlyTraces _ _ _ _).trans (.of_regs (.count _ _ _ _ _ _))
    · exact ⟨.refl _ _, fun _ _ => rfl⟩
  exact ⟨(hsame.mono (by simp)).trans (htraces.same.mono (by simp)), (htraces.same.ctx_eq (by simp) p x).trans hctx,
    fun a ha => (htraces.regs a ha).trans (hsame.rd_eq (by simp) a)⟩

theorem length_stepBytes (s : State) (p x : Nat) (st : Step) : (s.stepBytes p x st).length = 32 + st.slices.flatten.length := by
  simp only [State.stepBytes, stepHeader, List.length_append, leBytes_length, List.length_replicate]

theorem exec_stepStart {s : State} {p x : Nat} {st : Step} {q : List Step} (hcur : (s.part p).cur = some x)
    (hqueue : (s.ctx p x).queue = st :: q) (hstarting : (s.ctx p x).starting = true) (hclear : s.clear p = true)
    (hreset : (s.part p).resetting = none) (hrepair : s.inRepair p x = false) :
    exec (.stepStart p) s = .next
      ((s.openStep p x st.slices.length).each (s.ctx p x).cores fun u r => u.startCore p x st r) := by
  change execStepStart p s = _
  simp only [execStepStart, hcur, hqueue, hstarting, hclear, hreset, hrepair]
  rfl

/-- Settles O24: the cores of the set differ, so what one of them starts no other undoes. -/
theorem stepStarts : Obligations.StepStarts := by
  intro s p x st q _ _ hcur hqueue hstarting hclear hreset hrepair ⟨hlt, hdiff⟩ hin
  have hexec := exec_stepStart hcur hqueue hstarting hclear hreset hrepair
  obtain ⟨hsame, hctx, hregs⟩ := s.openStep_spec p x st.slices.length
  have hbase {d k : Nat} (hk : k < 4) (a : Nat) : (s.openStep p x st.slices.length).phys d k a = s.phys d k a := by
    rw [State.phys, State.fld, hregs _ (by have := winReg_lt d hk; omega)]
    rfl
  have hbytes : (s.openStep p x st.slices.length).stepBytes p x st = s.stepBytes p x st := by
    rw [State.stepBytes, hctx]
    rfl
  generalize s.openStep p x st.slices.length = u at *
  have hfits (r : CoreRec) (hr : r ∈ (s.ctx p x).cores) : u.phys r.core r.slot st.arg + (u.stepBytes p x st).length ≤ 2 ^ 22 := by
    rw [hbase (hlt r hr).2, hbytes, length_stepBytes, ← State.phys_add, ← Nat.add_assoc]
    exact hin r hr
  obtain ⟨hamong, hon⟩ := u.each_startCore p x st _ hlt hdiff hfits
  have hctx' : (u.each (s.ctx p x).cores fun u r => u.startCore p x st r).ctx p x = (s.ctx p x).underWay :=
    (hamong.ctx p x).trans hctx
  refine ⟨_, hexec, by rw [hctx']; rfl, by rw [hctx']; rfl, by rw [hctx']; exact hqueue, fun r hr => ?_, fun a ha => ?_⟩
  · obtain ⟨hrun, hactive, ⟨b, hslot⟩, hops, hdata⟩ := hon r hr
    have hk := (hlt r hr).2
    refine ⟨hrun, hactive, ?_, ?_, ?_, ?_, fun i => ?_, hops, ?_⟩
    · rw [hslot]
      exact (Slot.a_setA_self _ _ _).trans (mkAddr_false _)
    · rw [State.fld, CORE_CTX_ENTRY_eq, ← hregs _ (winReg_lt r.core hk), hslot]
      rfl
    · rw [hslot]; rfl
    · rw [hslot]; rfl
    · have hbank := hamong.banks r.core r.slot i
      rwa [hsame.slot_eq (by simp)] at hbank
    · rw [hbytes, hbase hk, length_stepBytes] at hdata
      exact hdata
  · refine (hamong.bytes a fun w hw => ?_).trans (congrArg (Memory.byte · a) (hsame.scratch.resolve_left (by simp)))
    obtain ⟨r, hr, rfl⟩ := List.mem_map.mp hw
    have hout := ha _ (List.mem_map_of_mem hr)
    rw [State.stepRegion, hbase (hlt r hr).2, hbytes, length_stepBytes]
    exact hout

end Sys2Proof.Machine

namespace Sys2Proof.Machine

/-! ### Transfers into a window (R236, R237) -/

theorem aPlane_ofNat {a : Nat} (h : a < 2 ^ 22) : aPlane (BitVec.ofNat 32 a) = false := by
  simp only [aPlane, bitOf, BitVec.toNat_ofNat, decide_eq_false_iff_not]
  omega

theorem aOff_ofNat {a : Nat} (h : a < 2 ^ 22) : aOff (BitVec.ofNat 32 a) = a := by
  simp only [aOff, bitsOf, BitVec.toNat_ofNat]
  omega

section
variable {l : List Piece} {s t : State}

theorem State.SameBut.slotOf_eq (h : s.SameBut l t) (hl : .cores ∉ l) (c p x : Nat) : t.slotOf c p x = s.slotOf c p x := by
  unfold State.slotOf
  simp only [h.slot_eq hl]

theorem State.SameBut.zeroing_eq (h : s.SameBut l t) (hl : .regs ∉ l) (c k : Nat) : t.zeroing c k = s.zeroing c k := by
  unfold State.zeroing State.fld
  rw [h.rd_eq hl]

theorem State.SameBut.bound_eq (h : s.SameBut l t) (hl : .regs ∉ l) (c k : Nat) : t.bound c k = s.bound c k := by
  unfold State.bound
  rw [h.rd_eq hl]

theorem State.SameBut.phys_eq (h : s.SameBut l t) (hl : .regs ∉ l) (c k a : Nat) : t.phys c k a = s.phys c k a := by
  unfold State.phys State.fld
  rw [h.rd_eq hl]

theorem State.SameBut.partOfJob_eq (h : s.SameBut l t) (hl : .parts ∉ l) (j : Nat) : t.partOfJob j = s.partOfJob j := by
  unfold State.partOfJob
  simp only [h.part_eq hl]

end

/-- R236: a transfer in byte form passes where the partition owns the core's channel, the context is resident, and its bytes lie within a
bound that is not zeroing. -/
theorem State.destCheck_passes {s : State} {p x c k a n : Nat} (howns : (s.part p).owns (c / 256) = true) (hslot : s.slotOf c p x = some k)
    (hzero : s.zeroing c k = false) (ha : a < 2 ^ 22) (hin : a + n ≤ s.bound c k) :
    s.destCheck p x c (BitVec.ofNat 32 a) n = .ok (k, none, [(a, n)]) := by
  have hbeyond : beyond (s.bound c k) a n = none := by simp [beyond, hin]
  simp [State.destCheck, State.destRange, howns, hslot, hzero, aPlane_ofNat ha, aOff_ofNat ha, hbeyond]

theorem State.place_spec (s : State) (c k a : Nat) (bs : List Byte) :
    (s.place c (k, none, [(a, bs.length)]) bs).scratch = s.scratch.putBytes (cellKey c (s.phys c k a)) bs
      ∧ s.SameBut [.scratch, .ue, .ce, .cores, .words, .trc] (s.place c (k, none, [(a, bs.length)]) bs) := by
  unfold State.place
  rw [uPut_go]
  have hcount (u : State) (own : Option (Nat × Nat)) : u.SameBut [.trc] (u.count (some c) (chanOf c) own 0x0C bs.length) := .count _ _ _ _ _ _
  exact ⟨(hcount _ _).scratch.resolve_left (by simp),
    ((s.putPhys_sameBut c (s.phys c k a) bs).mono (by simp)).trans ((hcount _ _).mono (by simp))⟩

theorem State.countNoc_sameBut (s : State) (m : Msg) : s.SameBut [.trc] (s.countNoc m) := by
  refine State.each_keeps (P := fun u => s.SameBut [.trc] u) _ (.refl s _) fun u ch hu => hu.trans ?_
  dsimp only
  split
  · exact .refl u _
  · exact .count _ _ _ _ _ _

theorem Msg.daddr_bytes {m : Msg} (h : bitOf m.w1.toNat 31 = false) : m.daddr = BitVec.ofNat 32 (bitsOf m.w1.toNat 21 0) := by
  simp [Msg.daddr, h]

theorem bitsOf_22_lt (v : Nat) : bitsOf v 21 0 < 2 ^ 22 := Nat.mod_lt _ (by decide)

/-- A transfer in byte form has no plane descriptor to read. -/
theorem State.noteDesc_bytes (s : State) (p x c : Nat) {a : Word} (h : aPlane a = false) : s.noteDesc p x c a = s := by
  unfold State.noteDesc State.checkDescWords
  simp only [h]
  cases s.slotOf c p x <;> simp

/-- A message of this chip as it lands: written whole, its sender told. -/
def State.landed (s : State) (i : Nat) (m : Msg) (c k a : Nat) : State :=
  ((((s.onNoc (fun n => { n with msgs := dropAt n.msgs i })).freeLanding m.src m.id).place c (k, none, [(a, m.data.length)])
    m.data).landSignal m).reportTo m.src m.id 0 false

theorem exec_messageArrival {s : State} {i p k : Nat} {m : Msg} (h : Plain s i m) (hjob : s.partOfJob m.job = some p)
    (howns : (s.part p).owns (bitsOf m.w0.toNat 9 0 / 256) = true) (hslot : s.slotOf (bitsOf m.w0.toNat 9 0) p m.ctx = some k)
    (hzero : s.zeroing (bitsOf m.w0.toNat 9 0) k = false)
    (hin : bitsOf m.w1.toNat 21 0 + m.data.length ≤ s.bound (bitsOf m.w0.toNat 9 0) k) :
    exec (.messageArrival i) s = .next ((s.countNoc m).landed i m (bitsOf m.w0.toNat 9 0) k (bitsOf m.w1.toNat 21 0)) := by
  obtain ⟨hat, hold, ⟨hnew, hdone, hwhole⟩, hstill, hcore, hbytes, hsignal, hhome⟩ := h
  have hcount := s.countNoc_sameBut m
  have hcheck : (s.countNoc m).landCheck m = .ok (k, none, [(bitsOf m.w1.toNat 21 0, m.total)]) := by
    unfold State.landCheck
    simp only [hcount.partOfJob_eq (by simp), hjob, hsignal, Msg.daddr_bytes hbytes]
    refine State.destCheck_passes ?_ ?_ ?_ (bitsOf_22_lt _) ?_
    · rwa [hcount.part_eq (by simp)]
    · rwa [hcount.slotOf_eq (by simp)]
    · rwa [hcount.zeroing_eq (by simp)]
    · rwa [hcount.bound_eq (by simp), ← hwhole]
  have hdesc : (s.countNoc m).noteDesc p m.ctx (bitsOf m.w0.toNat 9 0) m.daddr = s.countNoc m := by
    rw [Msg.daddr_bytes hbytes, State.noteDesc_bytes _ _ _ _ (aPlane_ofNat (bitsOf_22_lt _))]
  refine congrArg Host.Outcome.next ?_
  simp only [hat, hold, hcore, hstill, hhome, Bool.false_eq_true, ↓reduceIte]
  unfold State.landMsg
  simp only [hnew, hcheck, hcount.partOfJob_eq (by simp), hjob, hdesc, hdone, hwhole, Nat.lt_irrefl, ↓reduceIte]
  unfold State.landed
  rw [hwhole]

theorem messageArrival_writes {s : State} {i p k : Nat} {m : Msg} (h : Plain s i m) (hjob : s.partOfJob m.job = some p)
    (howns : (s.part p).owns (bitsOf m.w0.toNat 9 0 / 256) = true) (hslot : s.slotOf (bitsOf m.w0.toNat 9 0) p m.ctx = some k)
    (hzero : s.zeroing (bitsOf m.w0.toNat 9 0) k = false)
    (hin : bitsOf m.w1.toNat 21 0 + m.data.length ≤ s.bound (bitsOf m.w0.toNat 9 0) k) :
    ∃ t, exec (.messageArrival i) s = .next t
      ∧ t.scratch.bytes (cellKey (bitsOf m.w0.toNat 9 0) (s.phys (bitsOf m.w0.toNat 9 0) k (bitsOf m.w1.toNat 21 0))) m.data.length = m.data
      ∧ t.noc.msgs = s.noc.msgs.take i ++ s.noc.msgs.drop (i + 1) := by
  refine ⟨_, exec_messageArrival h hjob howns hslot hzero hin, ?_⟩
  generalize bitsOf m.w0.toNat 9 0 = c at *
  generalize bitsOf m.w1.toNat 21 0 = a at *
  have hcount := s.countNoc_sameBut m
  let gone := ((s.countNoc m).onNoc (fun n => { n with msgs := dropAt n.msgs i })).freeLanding m.src m.id
  have hgone : s.SameBut [.noc, .trc] gone :=
    (hcount.mono (by simp)).trans (((State.SameBut.onNoc _ _).mono (by simp)).trans ((State.SameBut.onNoc _ _).mono (by simp)))
  have hmsgs : gone.noc.msgs = dropAt s.noc.msgs i := congrArg (fun n : NocSt => dropAt n.msgs i) (hcount.noc.resolve_left (by simp))
  obtain ⟨hscratch, hplace⟩ := gone.place_spec c k a m.data
  have hlanded : (s.countNoc m).landed i m c k a = (gone.place c (k, none, [(a, m.data.length)]) m.data).sendReport ⟨m.id, 0, false⟩ := by
    have hown : (gone.place c (k, none, [(a, m.data.length)]) m.data).own = s.own := by
      rw [State.own, State.fld, State.fld, hplace.rd_eq (by simp), hgone.rd_eq (by simp)]
      rfl
    have hsilent : (gone.place c (k, none, [(a, m.data.length)]) m.data).landSignal m = gone.place c (k, none, [(a, m.data.length)]) m.data := by
      simp only [State.landSignal, h.noSignal, Bool.false_eq_true, ↓reduceIte]
    rw [State.landed, hsilent, State.reportTo, if_pos (h.home.trans hown.symm)]
  rw [hlanded]
  generalize gone.place c (k, none, [(a, m.data.length)]) m.data = u at hscratch hplace
  have hbytes : u.scratch.bytes (cellKey c (s.phys c k a)) m.data.length = m.data := by
    rw [hscratch, hgone.phys_eq (by simp), Memory.bytes_putBytes]
  exact ⟨hbytes, (congrArg NocSt.msgs (hplace.noc.resolve_left (by simp))).trans hmsgs⟩

/-! ### Reports (R237) -/

theorem State.applyReport_success {s : State} {r : Report} {a : Await} (hfind : s.noc.awaits.find? (fun a => a.id == r.id) = some a)
    (hcode : r.code = 0) : s.applyReport r = s.onNoc (fun n => { n with
      awaits := n.awaits.filter (fun b => b.id != a.id)
      e2e := n.e2e.filter (fun e => e.msg.id != a.id) }) := by
  simp [State.applyReport, hfind, hcode]

/-- A report of success changes nothing but what is awaited. -/
theorem State.applyReport_success_noc (s : State) (id : Nat) (sync : Bool) :
    ∃ f, s.applyReport ⟨id, 0, sync⟩ = s.onNoc f ∧ (f s.noc).heldCr = s.noc.heldCr := by
  cases hfind : s.noc.awaits.find? (fun a => a.id == id) with
  | none => exact ⟨fun n => n, by simp [State.applyReport, hfind, State.onNoc], rfl⟩
  | some a => exact ⟨_, State.applyReport_success hfind rfl, rfl⟩

theorem deliveryReport_settles {s : State} {i : Nat} {r : Report} {a : Await} (hat : s.noc.reports[i]? = some r)
    (hfind : s.noc.awaits.find? (fun a => a.id == r.id) = some a) (hheld : s.reportHeld r = false) (hcode : r.code = 0) :
    ∃ t, exec (.deliveryReport i) s = .next t ∧ t.noc.awaits = s.noc.awaits.filter (fun b => b.id != a.id) := by
  have hexec : exec (.deliveryReport i) s = .next ((s.onNoc (fun n => { n with reports := dropAt n.reports i })).applyReport r) := by
    refine congrArg Host.Outcome.next ?_
    simp only [hat, hheld, Bool.false_eq_true, ↓reduceIte]
  rw [State.applyReport_success (by exact hfind) hcode] at hexec
  exact ⟨_, hexec, rfl⟩

/-! ### Children and roots of a reduction (R189, R190) -/

theorem crChildArrival_held {s : State} {i : Nat} {c : Child} {e : TreeEntry} {pn : Node} {side : Bool} (hat : s.noc.children[i]? = some c)
    (hgone : s.ctxGone c.part c.ctx = false) (hstill : s.holds c.dst = false) (hentry : s.treeEntry c.part c.ctx c.tree = some e)
    (hvalid : e.valid = true) (hparent : c.node.parent e.L = some (pn, side)) (hchip : c.chip = s.own)
    (hside : s.noc.heldCr.any (sibling c pn side) = false) (hother : s.noc.heldCr.any (sibling c pn (!side)) = false)
    (hroom : (s.noc.heldCr.filter (fun h => h.core == c.dst)).length < 64) :
    ∃ t, exec (.crChildArrival i) s = .next t ∧ t.noc.heldCr = s.noc.heldCr ++ [⟨c.dst, pn, side, c, false⟩] := by
  let gone := s.onNoc (fun n => { n with children := dropAt n.children i })
  let held := gone.onNoc (fun n => { n with heldCr := n.heldCr ++ [⟨c.dst, pn, side, c, false⟩] })
  have hplace : s.placeOf c = (some e, pn, side) := by
    unfold State.placeOf
    simp only [hentry, hparent, hvalid, ↓reduceIte]
  have harrives : gone.childArrives (some e) c pn side = some ((held.notePeak c.dst).settleAwait c 0) := by
    unfold State.childArrives
    have hfind : gone.noc.heldCr.find? (sibling c pn (!side)) = none := by
      refine List.find?_eq_none.mpr fun h hh => ?_
      have := List.any_eq_false.mp hother h hh
      exact this
    have hfree : gone.noc.heldCr.any (sibling c pn side) = false := hside
    have hlen : ¬64 ≤ (gone.heldAt c.dst).length := Nat.not_le.mpr hroom
    simp only [Option.isSome_some, hfree, Bool.and_false, Bool.false_eq_true, ↓reduceIte, hfind, hlen, Option.isNone_some]
    rfl
  have hown : (held.notePeak c.dst).own = c.chip := by
    have hrd : (held.notePeak c.dst).rd R.KL_ID = s.rd R.KL_ID := State.rd_setFld_ne _ _ _ (by unfold R.KL_ID R.CR_STAT; omega)
    rw [hchip, State.own, State.fld, State.fld, hrd]
    rfl
  obtain ⟨f, hf, hheld⟩ := (held.notePeak c.dst).applyReport_success_noc c.id false
  have hexec : exec (.crChildArrival i) s = .next ((held.notePeak c.dst).onNoc f) := by
    refine congrArg Host.Outcome.next ?_
    simp only [hat, hgone, hstill, Bool.false_eq_true, ↓reduceIte, hplace]
    rw [harrives, Option.getD_some, State.settleAwait, if_pos hown.symm, hf]
  exact ⟨_, hexec, hheld⟩

/-- A signal moves its object's registers and queue, the undo records and the counters. -/
theorem State.applySignal_sameBut (s : State) (obj a : Nat) (hold : Option Nat) : s.SameBut [.regs, .noc, .parts, .trc] (s.applySignal obj a hold) := by
  have hwr (u : State) (r : Nat) (v : Word) : u.SameBut [.regs, .noc, .parts, .trc] (u.wr r v) := (State.SameBut.wr u r v).mono (by simp)
  have hends {u v : State} (h : u.EndsWaits v) : u.SameBut [.regs, .noc, .parts, .trc] v := h.offLinks.same.mono (by simp)
  have hcount : s.SameBut [.regs, .noc, .parts, .trc] (s.countSync obj hold) := (State.SameBut.count s _ _ _ _ _).mono (by simp)
  unfold State.applySignal
  refine hcount.trans ?_
  generalize s.countSync obj hold = u
  dsimp only
  split
  · exact hwr u _ _
  split
  · refine .trans ?_ (hends (State.evaluate_endsWaits _ obj))
    have hnote (v : State) (f : Undo → Undo) : v.SameBut [.regs, .noc, .parts, .trc] (v.noteUndo obj hold f) := hends (v.noteUndo_endsWaits obj hold f)
    have hvalue (v : State) (w : Word) : v.SameBut [.regs, .noc, .parts, .trc] ((v.wr (valReg obj) w).noteUndo obj hold fun u => { u with sig := u.sig + a }) :=
      (hwr v _ _).trans (hnote _ _)
    split <;> split
    · exact ((hwr u _ _).trans (hvalue _ _)).trans (hwr _ _ _)
    · exact (hwr u _ _).trans (hvalue _ _)
    · exact (hvalue u _).trans (hwr _ _ _)
    · exact hvalue u _
  · split
    · exact .refl u _
    · exact (hends (u.noteUndo_endsWaits obj hold _)).trans (hends (State.arrivals_endsWaits _ obj a))
  · exact ((hwr u _ _).trans (hends (State.noteUndo_endsWaits _ obj hold _))).trans (hends (State.evaluate_endsWaits _ obj))

theorem State.SameBut.handleFrom_eq {l : List Piece} {s t : State} (h : s.SameBut l t) (hl : .regs ∉ l) (user w mask : Nat) :
    t.handleFrom user w mask = s.handleFrom user w mask := by
  unfold State.handleFrom State.own State.fld
  rw [h.rd_eq hl]

theorem rootDelivery_writes {s : State} {i k obj : Nat} {r : Root} (hat : s.noc.roots[i]? = some r) (hval : r.child.val ≠ [])
    (hlive : (s.ctx r.child.part r.child.ctx).state ≠ .teardown) (hstill : s.holds r.child.dst = false)
    (howns : (s.part r.child.part).owns (r.child.dst / 256) = true) (hslot : s.slotOf r.child.dst r.child.part r.child.ctx = some k)
    (hzero : s.zeroing r.child.dst k = false) (hin : r.daddr + r.child.val.length ≤ s.bound r.child.dst k)
    (hhere : s.handleFrom r.child.chip r.dsync (s.part r.child.part).chmask = .here obj) :
    ∃ t, exec (.rootDelivery i) s = .next t
      ∧ t.scratch.bytes (cellKey r.child.dst (s.phys r.child.dst k r.daddr)) r.child.val.length = r.child.val := by
  generalize hc : r.child = c at *
  let gone := s.onNoc (fun n => { n with roots := dropAt n.roots i })
  have hgone : s.SameBut [.noc] gone := .onNoc s _
  have hlen : 0 < c.val.length := List.length_pos_iff.mpr hval
  have haddr : r.daddr < 2 ^ 22 := by
    have := s.bound_lt c.dst k
    omega
  have hcheck : gone.destCheck c.part c.ctx c.dst (BitVec.ofNat 32 (min r.daddr (2 ^ 22 - 1))) c.val.length = .ok (k, none, [(r.daddr, c.val.length)]) := by
    rw [Nat.min_eq_left (by omega)]
    refine State.destCheck_passes ?_ ?_ ?_ haddr ?_
    · rwa [hgone.part_eq (by simp)]
    · rwa [hgone.slotOf_eq (by simp)]
    · rwa [hgone.zeroing_eq (by simp)]
    · rwa [hgone.bound_eq (by simp)]
  obtain ⟨hscratch, hplace⟩ := gone.place_spec c.dst k r.daddr c.val
  have hexec : exec (.rootDelivery i) s = .next ((gone.place c.dst (k, none, [(r.daddr, c.val.length)]) c.val).rootSignal r) := by
    refine congrArg Host.Outcome.next ?_
    simp only [hat, hc, hlive, hstill, Bool.false_eq_true, ↓reduceIte]
    rw [hcheck]
  generalize gone.place c.dst (k, none, [(r.daddr, c.val.length)]) c.val = u at hscratch hplace hexec
  have hhere' : u.handleFrom c.chip r.dsync (u.part c.part).chmask = .here obj := by
    rwa [hplace.handleFrom_eq (by simp), hplace.part_eq (by simp), hgone.handleFrom_eq (by simp), hgone.part_eq (by simp)]
  have hsignal : u.SameBut [.regs, .noc, .parts, .trc] (u.rootSignal r) := by
    unfold State.rootSignal
    simp only [hc, hhere']
    exact (State.applySignal_sameBut _ _ _ _).trans ((State.reportTo_sends _ _ _ _ _).same.mono (by simp))
  refine ⟨_, hexec, ?_⟩
  rw [hsignal.scratch.resolve_left (by simp), hscratch, hgone.phys_eq (by simp), Memory.bytes_putBytes]

end Sys2Proof.Machine

namespace Sys2Proof.Machine

/-! ### Window registers (R74, R140, R141, R144) -/

theorem extentOf_of_en {w : Word} (h : isSet w F.CORE_WIN_CFG_EN = true) :
    extentOf w = some (getF w F.CORE_WIN_CFG_BASE, getF w F.CORE_WIN_CFG_SIZE) := if_pos h

theorem mem_extentOf {w : Word} {e : Nat × Nat} (h : e ∈ (extentOf w).toList) :
    isSet w F.CORE_WIN_CFG_EN = true ∧ e = (getF w F.CORE_WIN_CFG_BASE, getF w F.CORE_WIN_CFG_SIZE) := by
  unfold extentOf at h
  split at h
  · exact ⟨‹_›, by simpa using h⟩
  · simp at h

/-- An extent that a slot blocks is that of its window or of a value that waits there. -/
theorem State.mem_blocked {s : State} {c k : Nat} {e : Nat × Nat} (h : e ∈ s.blocked c k) :
    ∃ w, (w = s.rd (winReg c k) ∨ FMap.get none (s.core c).held k = some w) ∧ e ∈ (extentOf w).toList := by
  rcases List.mem_append.mp h with h | h
  · exact ⟨_, .inl rfl, h⟩
  · split at h
    · next w hw => exact ⟨w, .inr hw, h⟩
    · simp at h

theorem validWindow_of_fits {s : State} {c k base size : Nat} (h : Fits s c k base size) : s.validWindow c k (base, size) = true := by
  obtain ⟨hsize, hend, hapart⟩ := h
  have hfree (j : Nat) (hj : j ∈ (List.range 4).filter fun j => j != k) (e : Nat × Nat) (he : e ∈ s.blocked c j) : overlaps (base, size) e = false := by
    obtain ⟨hj4, hjk⟩ := List.mem_filter.mp hj
    obtain ⟨w, hw, hext⟩ := State.mem_blocked he
    obtain ⟨hen, rfl⟩ := mem_extentOf hext
    have := hapart j (by simpa using hj4) (by simpa using hjk) w hw hen
    simp only [overlaps, Bool.and_eq_false_iff, decide_eq_false_iff_not]
    omega
  unfold State.validWindow
  simp only [Bool.and_eq_true, decide_eq_true_eq, Bool.not_eq_true', List.any_eq_false, Bool.not_eq_true]
  exact ⟨⟨hsize, hend⟩, hfree⟩

/-- A window value as the register keeps it: EN, SIZE and BASE (R74). -/
theorem windowValue_eq (v : Word) :
    BitVec.ofNat 32 (b2n (isSet v F.CORE_WIN_CFG_EN) * 2 ^ 31 + v.toNat % 2 ^ 24) = v &&& 0x80FFFFFF#32 := by
  have hen : b2n (isSet v F.CORE_WIN_CFG_EN) = (v.toNat.testBit 31).toNat := by
    simp [isSet, getF, bitsOf, F.CORE_WIN_CFG_EN, b2n, Nat.testBit_eq_decide_div_mod_eq, Bool.toNat]
  have hlow : v.toNat % 2 ^ 24 < 2 ^ 31 := (Nat.mod_lt _ (by decide)).trans (by decide)
  refine BitVec.eq_of_toNat_eq ?_
  calc (BitVec.ofNat 32 (b2n (isSet v F.CORE_WIN_CFG_EN) * 2 ^ 31 + v.toNat % 2 ^ 24)).toNat
      = 2 ^ 31 * b2n (isSet v F.CORE_WIN_CFG_EN) + v.toNat % 2 ^ 24 := by
        rw [BitVec.toNat_ofNat, Nat.mul_comm]
        exact Nat.mod_eq_of_lt (by have := b2n_le_one (isSet v F.CORE_WIN_CFG_EN); omega)
    _ = v.toNat &&& 2 ^ 31 ||| v.toNat &&& (2 ^ 24 - 1) := by
        rw [Nat.two_pow_add_eq_or_of_lt hlow, Nat.and_two_pow_sub_one_eq_mod, Nat.and_two_pow, hen, Nat.mul_comm]
    _ = (v &&& 0x80FFFFFF#32).toNat := (Nat.and_or_distrib_left _ _ _).symm

theorem windowValue_fields (v : Word) : isSet (v &&& 0x80FFFFFF#32) F.CORE_WIN_CFG_EN = isSet v F.CORE_WIN_CFG_EN
    ∧ getF (v &&& 0x80FFFFFF#32) F.CORE_WIN_CFG_BASE = getF v F.CORE_WIN_CFG_BASE
    ∧ getF (v &&& 0x80FFFFFF#32) F.CORE_WIN_CFG_SIZE = getF v F.CORE_WIN_CFG_SIZE := by
  have hen := b2n_le_one (isSet v F.CORE_WIN_CFG_EN)
  have hval : (v &&& 0x80FFFFFF#32).toNat = b2n (isSet v F.CORE_WIN_CFG_EN) * 2 ^ 31 + v.toNat % 2 ^ 24 := by
    rw [← windowValue_eq, BitVec.toNat_ofNat]
    exact Nat.mod_eq_of_lt (by omega)
  refine ⟨?_, ?_, ?_⟩
  · rw [isSet, getF, hval]
    cases isSet v F.CORE_WIN_CFG_EN <;> simp [b2n, bitsOf, F.CORE_WIN_CFG_EN] <;> omega
  · simp only [getF, hval, bitsOf, F.CORE_WIN_CFG_BASE]
    omega
  · simp only [getF, hval, bitsOf, F.CORE_WIN_CFG_SIZE]
    omega

theorem windowWrite_enables {s : State} {req c k : Nat} {v : Word} (hc : c < 1024) (hk : k < 4) (hreq : req = 0 ∨ req = 5)
    (htakes : s.regTakes (winReg c k) = true) (hfree : (s.slot c k).owner = none)
    (hzero : s.zeroing c k = false) (hen : isSet v F.CORE_WIN_CFG_EN = true) (hoff : s.bit (winReg c k) F.CORE_WIN_CFG_EN = false)
    (hfits : Fits s c k (getF v F.CORE_WIN_CFG_BASE) (getF v F.CORE_WIN_CFG_SIZE)) :
    exec (.windowWrite req c k v) s = .next (s.wr (winReg c k) (v &&& 0x80FFFFFF#32)) := by
  obtain ⟨hen', hbase, hsize⟩ := windowValue_fields v
  have hmay : mayCore req = true := by rcases hreq with rfl | rfl <;> rfl
  have hold : extentOf (s.rd (winReg c k)) = none := if_neg (by simpa [State.bit] using hoff)
  have hnew : extentOf (v &&& 0x80FFFFFF#32) = some (getF v F.CORE_WIN_CFG_BASE, getF v F.CORE_WIN_CFG_SIZE) := by
    rw [extentOf_of_en (hen'.trans hen), hbase, hsize]
  refine congrArg Host.Outcome.next ?_
  rw [if_pos ⟨hmay, hc, hk, htakes⟩]
  simp only [State.writeWindow, windowValue_eq, hnew, validWindow_of_fits hfits, hfree, hzero, hold, needsZero, Bool.not_true,
    Option.isSome_none, Bool.or_self, Bool.false_eq_true, ↓reduceIte]

/-- A bit of a field cleared reads 0. -/
theorem bitOf_fld_setFld_clear (s : State) (a : Nat) (f : Fld) (k : Nat) (h1 : f.lo ≤ f.hi) (h2 : f.hi < 32) :
    bitOf ((s.setFld a f (Machine.setBit (s.fld a f) k false)).fld a f) k = false := by
  have hfld : s.fld a f < 2 ^ f.width := Nat.mod_lt _ (Nat.two_pow_pos _)
  have hsmall : Machine.setBit (s.fld a f) k false < 2 ^ f.width := by
    unfold Machine.setBit
    split
    · exact (Nat.sub_le _ _).trans_lt hfld
    · exact hfld
  rw [State.fld_setFld_self _ _ _ _ h1 h2, Nat.mod_eq_of_lt hsmall, bitOf_setBit, if_pos rfl]

/-- A window's extent zeroed in a core, and the corrections that wait there dropped. -/
def State.zeroWindow (s : State) (c k : Nat) : State :=
  let s := match extentOf (s.rd (winReg c k)) with
    | some e => s.zeroPhys c (e.1 * 1024) (e.2 * 1024)
    | none => s
  s.onCore c (fun x => { x with eccQ := x.eccQ.filter (fun w => match extentOf (s.rd (winReg c k)) with
    | some e => decide (w * 8 < e.1 * 1024) || decide ((e.1 + e.2) * 1024 ≤ w * 8)
    | none => true) })

theorem State.toZero_zeroWindow (s : State) (c k : Nat) : ((s.zeroWindow c k).core c).toZero = (s.core c).toZero := by
  unfold State.zeroWindow
  dsimp only
  rw [State.core_onCore_self]
  cases extentOf (s.rd (winReg c k)) <;> rfl

/-- A value that waited for the end of a zeroing in force. -/
def State.applyHeld (s : State) (c k : Nat) : State :=
  match FMap.get none (s.core c).held k with
  | some w => (s.wr (winReg c k) w).onCore c (fun x => { x with held := FMap.set none x.held k none })
  | none => s

theorem State.applyHeld_keeps (s : State) (c : Nat) {k : Nat} (hk : k < 4) :
    (s.applyHeld c k).rd (statReg c) = s.rd (statReg c) ∧ ((s.applyHeld c k).core c).toZero = (s.core c).toZero := by
  unfold State.applyHeld
  cases FMap.get none (s.core c).held k with
  | none => exact ⟨rfl, rfl⟩
  | some w => exact ⟨State.rd_wr_ne _ _ (winReg_ne_statReg c c hk).1.symm, by rw [State.core_onCore_self]; rfl⟩

theorem State.endZero_eq (s : State) (c k : Nat) : s.endZero c k =
    (fun u : State => if (u.core c).toZero = 0 then u else u.zeroNext c)
      (((s.zeroWindow c k).setFld (statReg c) F.CORE_STAT_ZEROING
        (Machine.setBit ((s.zeroWindow c k).fld (statReg c) F.CORE_STAT_ZEROING) k false)).applyHeld c k) := rfl

theorem zeroingEnd_ends {s : State} {c k : Nat} (hk : k < 4) (hzero : s.zeroing c k = true) (hlast : (s.core c).toZero = 0)
    (hreset : ∀ p, s.ownerOf (chanOf c) = some p → (s.part p).resetting = none) :
    ∃ t, exec (.zeroingEnd c k) s = .next t ∧ t.zeroing c k = false := by
  have hexec : exec (.zeroingEnd c k) s = .next (s.endZero c k) := by
    refine congrArg Host.Outcome.next ?_
    dsimp only
    cases howner : s.ownerOf (chanOf c) with
    | none => simp [hk, hzero]
    | some p => simp [hk, hzero, hreset p howner]
  refine ⟨_, hexec, ?_⟩
  let cleared := (s.zeroWindow c k).setFld (statReg c) F.CORE_STAT_ZEROING
    (Machine.setBit ((s.zeroWindow c k).fld (statReg c) F.CORE_STAT_ZEROING) k false)
  obtain ⟨hstat, htoZero⟩ := cleared.applyHeld_keeps c hk
  have hdone : ((cleared.applyHeld c k).core c).toZero = 0 := htoZero.trans ((s.toZero_zeroWindow c k).trans hlast)
  have hend : s.endZero c k = cleared.applyHeld c k := (s.endZero_eq c k).trans (if_pos hdone)
  have hclear : cleared.zeroing c k = false := bitOf_fld_setFld_clear _ _ _ k (by decide) (by decide)
  rwa [hend, State.zeroing, State.fld, hstat]

theorem eccWriteBack_pops {s : State} {c w : Nat} {q : List Nat} (h : (s.core c).eccQ = w :: q) :
    ∃ t, exec (.eccWriteBack c) s = .next t ∧ (t.core c).eccQ = q := by
  refine ⟨_, congrArg Host.Outcome.next (by simp only [h]; rfl), ?_⟩
  rw [State.core_onCore_self]

/-- Settles O58, part by part: each command's checks pass, and what comes after its effect leaves the effect as it is. -/
theorem deliveriesComplete : Obligations.DeliveriesComplete := by
  intro s i
  refine ⟨?_, ?_, ?_, ?_, fun c k hc hk => ⟨?_, ?_, ?_⟩⟩
  · rintro m _ p k _ hplain rfl rfl hjob howns hslot hzero hin
    exact messageArrival_writes hplain hjob howns hslot hzero hin
  · intro r a hat hfind hheld hcode
    exact deliveryReport_settles hat hfind hheld hcode
  · intro c e pn side hat hgone hstill hentry hvalid hparent hchip hside hother hroom
    exact crChildArrival_held hat hgone hstill hentry hvalid hparent hchip hside hother hroom
  · rintro r _ k obj hat rfl _ hval hlive hstill howns hslot hzero hin hhere _ _ _
    exact rootDelivery_writes hat hval hlive hstill howns hslot hzero hin hhere
  · intro req v hreq htakes hfree hzero hen hoff hfits
    exact ⟨_, windowWrite_enables hc hk hreq htakes hfree hzero hen hoff hfits, State.rd_wr_self _ _ _⟩
  · intro hzero hlast hreset
    exact zeroingEnd_ends hk hzero hlast hreset
  · intro w q h
    exact eccWriteBack_pops h

end Sys2Proof.Machine

namespace Sys2Proof.Machine

/-! ### What the discarding of a context's work leaves alone (R313, R315)

Posts, waits, credits, descriptors and windows go; no context, group or core changes, and no command or awaited report appears. -/

/-- A partition but for its undo records. -/
def PartSt.SameWork (q q' : PartSt) : Prop := ∃ u b, q' = { q with undo := u, undoFull := b }

theorem PartSt.SameWork.refl (q : PartSt) : q.SameWork q := ⟨q.undo, q.undoFull, rfl⟩

theorem PartSt.SameWork.trans {q q' q'' : PartSt} (h : q.SameWork q') (g : q'.SameWork q'') : q.SameWork q'' := by
  obtain ⟨u, b, rfl⟩ := h
  obtain ⟨u', b', rfl⟩ := g
  exact ⟨u', b', rfl⟩

theorem PartSt.sameWork_ite (q : PartSt) (full : Bool) (u : FMap Undo) :
    q.SameWork (if full = true then { q with undoFull := true } else { q with undo := u }) := by
  cases full <;> exact ⟨_, _, rfl⟩

/-- What the discarding of work may change. -/
structure State.Aside (s t : State) : Prop where
  same : s.SameBut [.regs, .noc, .parts, .host, .trc] t
  attn : ∀ a ∈ t.noc.attn, a ∈ s.noc.attn
  awaits : ∀ a ∈ t.noc.awaits, a ∈ s.noc.awaits
  parts : ∀ p, (s.part p).SameWork (t.part p)

theorem State.Aside.refl (s : State) : s.Aside s := ⟨.refl s _, fun _ ha => ha, fun _ ha => ha, fun _ => .refl _⟩

theorem State.Aside.trans {s t u : State} (h : s.Aside t) (g : t.Aside u) : s.Aside u :=
  ⟨h.same.trans g.same, fun a ha => h.attn a (g.attn a ha), fun a ha => h.awaits a (g.awaits a ha), fun p => (h.parts p).trans (g.parts p)⟩

theorem State.each_aside {α : Type} (s : State) (l : List α) {f : State → α → State} (hf : ∀ (u : State) a, u.Aside (f u a)) :
    s.Aside (s.each l f) :=
  State.each_keeps (P := fun u => s.Aside u) l (.refl s) fun u a h => h.trans (hf u a)

/-- Registers, host and trace are all that changes. -/
theorem State.SameBut.aside {l : List Piece} {s t : State} (h : s.SameBut l t) (hl : l ⊆ [.regs, .host, .trc] := by simp) : s.Aside t := by
  have hsame := h.mono hl
  have hnoc : t.noc = s.noc := hsame.noc.resolve_left (by simp)
  refine ⟨hsame.mono (by simp), by simp [hnoc], by simp [hnoc], fun p => ?_⟩
  rw [hsame.part_eq (by simp)]
  exact .refl _

theorem State.Aside.onNoc (s : State) (f : NocSt → NocSt) (hattn : ∀ a ∈ (f s.noc).attn, a ∈ s.noc.attn)
    (hawaits : ∀ a ∈ (f s.noc).awaits, a ∈ s.noc.awaits) :
    s.Aside (s.onNoc f) :=
  ⟨(State.SameBut.onNoc s f).mono (by simp), hattn, hawaits, fun _ => .refl _⟩

/-- A change of the network that keeps the commands and the awaited reports. -/
theorem State.Aside.onNoc_kept (s : State) (f : NocSt → NocSt) (hattn : (f s.noc).attn = s.noc.attn := by rfl)
    (hawaits : (f s.noc).awaits = s.noc.awaits := by rfl) : s.Aside (s.onNoc f) :=
  .onNoc s f (by simp [hattn]) (by simp [hawaits])

section
variable {s t : State} (h : s.Aside t)
include h

theorem State.Aside.ctx_eq (p x : Nat) : t.ctx p x = s.ctx p x := by
  obtain ⟨u, b, hq⟩ := h.parts p
  unfold State.ctx
  rw [hq]
  rfl

theorem State.Aside.pool_eq (p : Nat) : (t.part p).pool = (s.part p).pool := by
  obtain ⟨u, b, hq⟩ := h.parts p
  rw [hq]

theorem State.Aside.reset_eq (p : Nat) : (t.part p).resetting = (s.part p).resetting ∧ (t.part p).discard = (s.part p).discard
    ∧ (t.part p).chans = (s.part p).chans ∧ (t.part p).cur = (s.part p).cur := by
  obtain ⟨u, b, hq⟩ := h.parts p
  rw [hq]
  exact ⟨rfl, rfl, rfl, rfl⟩

theorem State.Aside.scratch_eq : t.scratch = s.scratch := h.same.scratch.resolve_left (by simp)

theorem State.Aside.sameScratch : s.SameScratch t := h.same.sameScratch (by simp) (by simp) (by simp)

end

/-! Records, credits and partials -/

theorem State.enqueue_aside (s : State) (l : Nat) (fs : List TxFlit) : s.Aside (s.enqueue l fs) := by
  have honLink (u : State) (l : Nat) (f : LinkSt → LinkSt) : u.Aside (u.onLink l f) := .onNoc_kept u _
  have howe (u : State) (fs : List TxFlit) : u.Aside (u.oweFor fs) := u.each_aside _ fun v b => honLink v _ _
  exact ((honLink s l _).trans (howe _ _)).trans (State.SameBut.count _ _ _ _ _ _).aside

theorem State.sendCtrl_aside (s : State) (dst : Nat) (r : CtrlRec) : s.Aside (s.sendCtrl dst r) := by
  unfold State.sendCtrl State.sendRec?
  cases s.firstHop dst none 0 with
  | none => exact .refl s
  | some l => exact s.enqueue_aside l _

theorem State.countDiscarded_aside (s : State) (cs : List Child) : s.Aside (s.countDiscarded cs) := by
  unfold State.countDiscarded
  dsimp only
  exact (s.each_aside _ fun u k => (State.SameBut.setFld u _ _ _).aside).trans (.onNoc_kept _ _)

/-- The posts of a context are discarded: none of its commands and none of its awaited reports stays. -/
theorem State.dropPosts_aside (s : State) (p x : Nat) : s.Aside (s.dropPosts p x)
    ∧ (∀ a ∈ (s.dropPosts p x).noc.attn, ¬(a.part = p ∧ a.ctx = x)) ∧ ∀ a ∈ (s.dropPosts p x).noc.awaits, ¬(a.part = p ∧ a.ctx = x) := by
  have hattn : s.Aside (s.dropWork p x) ∧ ∀ a ∈ (s.dropWork p x).noc.attn, ¬(a.part = p ∧ a.ctx = x) := by
    unfold State.dropWork State.dropPartials
    dsimp only
    have hrest (u : State) (cs : List Child) (f : NocSt → NocSt) (hf : (f (u.countDiscarded cs).noc).attn = (u.countDiscarded cs).noc.attn)
        (hg : (f (u.countDiscarded cs).noc).awaits = (u.countDiscarded cs).noc.awaits) : u.Aside ((u.countDiscarded cs).onNoc f) :=
      (u.countDiscarded_aside cs).trans (.onNoc_kept _ f hf hg)
    refine ⟨(State.Aside.onNoc s _ (fun _ ha => List.mem_of_mem_filter ha) fun _ ha => ha).trans (hrest _ _ _ rfl rfl), fun a ha => ?_⟩
    have hmem := (hrest _ _ _ rfl rfl).attn a ha
    simpa [imp_iff_not_or] using (List.mem_filter.mp hmem).2
  have hcredits (u : State) : u.Aside (u.dropCredits p x) := by
    unfold State.dropCredits
    dsimp only
    exact (u.each_aside _ fun v e => v.sendCtrl_aside _ _).trans (.onNoc_kept _ _)
  have hawaits (u : State) : u.Aside (u.dropAwaits p x) := .onNoc u _ (fun _ ha => ha) fun _ ha => List.mem_of_mem_filter ha
  refine ⟨(hattn.1.trans (hcredits _)).trans (hawaits _), fun a ha => hattn.2 a ((hcredits _).attn a ha), fun a ha => ?_⟩
  simpa [imp_iff_not_or] using (List.mem_filter.mp ha).2

/-! Descriptors -/

theorem State.logEvent_aside (s : State) (f : Nat) (e : EventRec) : s.Aside (s.logEvent f e) := (s.logEvent_offLinks f e).same.aside

theorem State.eventPart_aside (s : State) (e : EventRec) : s.Aside (s.eventPart e) := (s.logEvent_aside _ e).trans (State.logEvent_aside _ _ e)

theorem State.qpFail_aside (s : State) (f q : Nat) (wrote : Bool) : s.Aside (s.qpFail f q wrote) := by
  have hset (u : State) (a : Nat) (g : Fld) (v : Nat) : u.Aside (u.setFld a g v) := (State.SameBut.setFld u a g v).aside
  have hqp (u : State) (g : QpSt → QpSt) : u.Aside (u.onQp f q g) := (State.SameBut.onHost u _).aside
  unfold State.qpFail
  dsimp only
  have herr : s.Aside (s.setBit (R.HI_QP_STAT f q) F.HI_QP_STAT_DMA_ERR) := hset s _ _ _
  refine herr.trans ?_
  generalize s.setBit (R.HI_QP_STAT f q) F.HI_QP_STAT_DMA_ERR = u
  have hbroken : u.Aside (if wrote = true then u.onQp f q (fun x => { x with broken := true }) else u) := by
    split
    · exact hqp u _
    · exact .refl u
  refine hbroken.trans ?_
  generalize (if wrote = true then u.onQp f q (fun x => { x with broken := true }) else u) = v
  split
  · exact (hset _ _ _ _).trans (State.logEvent_aside _ _ _)
  · exact .refl _

theorem State.writeEntry_aside (s : State) (d : Desc) (status : Nat) (result : List Byte) : s.Aside (s.writeEntry d status result) := by
  have hset (u : State) (a : Nat) (g : Fld) (v : Nat) : u.Aside (u.setFld a g v) := (State.SameBut.setFld u a g v).aside
  have hqp (u : State) (g : QpSt → QpSt) : u.Aside (u.onQp d.fn d.qp g) := (State.SameBut.onHost u _).aside
  have hnotify (u : State) : u.Aside (u.cqNotify d.fn d.qp) := by
    unfold State.cqNotify
    dsimp only
    split
    · exact (hqp u _).trans (State.msix_sameBut _ _ _).aside
    · exact .refl u
  have hwrite (a : Nat) (bs : List Byte) : s.Aside (s.hostWrite a bs).1 := (s.hostWrite_sameBut a bs).aside
  unfold State.writeEntry
  dsimp only
  split
  · exact .refl s
  · split
    · exact (hwrite _ _).trans (State.qpFail_aside _ _ _ _)
    · exact ((((hwrite _ _).trans (hset _ _ _ _)).trans (hset _ _ _ _)).trans (hqp _ _)).trans (hnotify _)

theorem State.complete_aside (s : State) (id status : Nat) (result : List Byte) : s.Aside (s.complete id status result) := by
  unfold State.complete
  split
  · exact .refl s
  · exact (((State.SameBut.onHost s _).aside.trans (State.SameBut.setFld _ _ _ _).aside).trans (State.mark_sameBut _ _).aside).trans
      (State.writeEntry_aside _ _ _ _)

theorem State.completeAll_aside (s : State) (f : Desc → Bool) (status : Nat) : s.Aside (s.completeAll f status) :=
  s.each_aside _ fun u d => u.complete_aside d.id status []

theorem State.lastDescs_aside (s : State) (p x status : Nat) (keep : Option Nat) : s.Aside (s.lastDescs p x status keep) :=
  (s.completeAll_aside _ _).trans (State.completeAll_aside _ _ _)

/-! Objects and waits -/

theorem State.release_aside (s : State) (obj : Nat) (who : Who) (code : Nat) : s.Aside (s.release obj who code) := .onNoc_kept s _

theorem State.setQueue_aside (s : State) (obj : Nat) (l : List Waiter) : s.Aside (s.setQueue obj l) := .onNoc_kept s _

theorem State.wr_aside (s : State) (a : Nat) (v : Word) : s.Aside (s.wr a v) := (State.SameBut.wr s a v).aside

theorem State.releaseAll_aside (s : State) (obj code : Nat) : s.Aside (s.releaseAll obj code) :=
  (s.setQueue_aside obj []).trans (State.each_aside _ (s.queue obj) fun u w => u.release_aside obj w.who code)

theorem State.noteUndo_aside (s : State) (obj : Nat) (hold : Option Nat) (f : Undo → Undo) : s.Aside (s.noteUndo obj hold f) := by
  unfold State.noteUndo
  split
  · exact .refl s
  · next p _ =>
    refine ⟨(State.SameBut.onPart s _ _).mono (by simp), fun _ ha => ha, fun _ ha => ha, fun q => ?_⟩
    rw [State.part_onPart]
    split
    · next h =>
      subst h
      exact (s.part q).sameWork_ite _ _
    · exact .refl _

theorem State.arrivals_aside (s : State) (obj a : Nat) : s.Aside (s.arrivals obj a) := by
  unfold State.arrivals
  dsimp only
  split
  · exact s.wr_aside _ _
  · exact ((s.wr_aside _ _).trans (State.wr_aside _ _ _)).trans (State.releaseAll_aside _ _ _)

theorem State.serve_aside (s : State) (obj fuel : Nat) : s.Aside (s.serve obj fuel) := by
  induction fuel generalizing s with
  | zero => exact .refl s
  | succ fuel ih =>
    have hnext (u : State) (rest : List Waiter) (who : Who) : u.Aside (((u.setQueue obj rest).release obj who rReleased).serve obj fuel) :=
      ((u.setQueue_aside obj rest).trans (State.release_aside _ _ _ _)).trans (ih _)
    unfold State.serve
    split
    · exact .refl s
    dsimp only
    split
    · split
      · exact .refl s
      · refine .trans ?_ (hnext _ _ _)
        refine .trans ?_ (State.noteUndo_aside _ _ _ _)
        split
        · split
          · exact (s.wr_aside _ _).trans (State.wr_aside _ _ _)
          · exact s.wr_aside _ _
        · exact s.wr_aside _ _
    · split
      · exact .refl s
      · refine .trans ?_ (hnext _ _ _)
        split
        · exact (s.wr_aside _ _).trans (State.noteUndo_aside _ _ _ _)
        · exact .refl s

theorem State.evaluate_aside (s : State) (obj : Nat) : s.Aside (s.evaluate obj) := by
  unfold State.evaluate
  split
  · exact s.arrivals_aside obj 0
  · exact s.serve_aside obj _

theorem State.abandonCtx_aside (s : State) (p x : Nat) : s.Aside (s.abandonCtx p x) := by
  have habandon (u : State) (obj : Nat) : u.Aside (u.abandon obj) := (State.SameBut.setFld u _ _ _).aside.trans (State.releaseAll_aside _ _ _)
  have hall (hold : Nat) : s.Aside (s.abandonAll p hold) := by
    refine s.each_aside _ fun u obj => ?_
    split
    · exact habandon u obj
    · exact .refl u
  exact (hall _).trans (State.each_aside _ _ fun u l => u.enqueue_aside l _)

theorem State.dropWaits_aside (s : State) (p x : Nat) : s.Aside (s.dropWaits p x) := by
  have hremove (u : State) (core : Nat → Bool) : u.Aside (u.removeWaits p core) := by
    unfold State.removeWaits
    dsimp only
    refine (State.Aside.onNoc_kept u _).trans (State.each_aside _ _ fun v obj => ?_)
    split
    · exact (v.setQueue_aside obj _).trans (State.evaluate_aside _ obj)
    · exact .refl v
  unfold State.dropWaits
  dsimp only
  exact ((State.Aside.onNoc_kept s _).trans (State.each_aside _ _ fun u w => u.sendCtrl_aside _ _)).trans (hremove _ _)

/-! Windows and doubt sources -/

theorem State.startZero_aside (s : State) (c k : Nat) : s.Aside (s.startZero c k) := by
  have hstops (u : State) : u.Aside (u.zeroStops c k) := by
    unfold State.zeroStops
    split
    · exact .refl u
    · exact .onNoc_kept u _
  unfold State.startZero
  split
  · exact (State.SameBut.setFld s _ _ _).aside.trans (hstops _)
  · exact .refl s

theorem State.raiseDoubt_aside (s : State) (i : Nat) : s.Aside (s.raiseDoubt i) := (s.raiseDoubt_offLinks i).same.aside

end Sys2Proof.Machine

namespace Sys2Proof.Machine

/-! ### The selection (R304) -/

/-- The selection is a candidate, or the outgoing context where it is one. -/
theorem State.pick_mem {s : State} {p x : Nat} {out : Option Nat} (h : s.pick p out = some x) : x ∈ s.candidates p := by
  unfold State.pick at h
  cases hc : s.candidates p with
  | nil => simp [hc] at h
  | cons c cs =>
    have hbest : cs.foldl (fun b y => if vtLess (s.ctx p y).vt (s.ctx p b).vt then y else b) c ∈ c :: cs :=
      List.foldlRecOn (motive := fun b => b ∈ c :: cs) cs _ (by simp) fun b hb y hy => by
        split
        · simp [hy]
        · exact hb
    simp only [hc] at h
    cases out with
    | none => exact Option.some.inj h ▸ hbest
    | some o =>
      dsimp only at h
      split at h
      · next ho =>
        obtain rfl := Option.some.inj h
        simpa using (Bool.and_eq_true_iff.mp ho).1
      · exact Option.some.inj h ▸ hbest

theorem State.candidates_runnable {s : State} {p x : Nat} (h : x ∈ s.candidates p) : (s.ctx p x).state = .runnable := by
  have hstate := (List.mem_filter.mp h).2
  simp only [Bool.and_eq_true, beq_iff_eq] at hstate
  exact hstate.1.1.1

/-- What a selection may change: the partition's current context, and contexts that were RUNNABLE. -/
structure State.Selects (s t : State) : Prop where
  same : s.SameBut [.parts] t
  pool : ∀ p, (t.part p).pool = (s.part p).pool
  ctx : ∀ p x, (s.ctx p x).state ≠ .runnable → t.ctx p x = s.ctx p x

theorem State.select_selects (s : State) (p : Nat) (out : Option Nat) : s.Selects (s.select p out) := by
  have hrefl : s.Selects s := ⟨.refl s _, fun _ => rfl, fun _ _ _ => rfl⟩
  unfold State.select
  split
  · exact hrefl
  split
  · exact hrefl
  · next y hy =>
    have hrun := State.candidates_runnable (State.pick_mem hy)
    have hsame : s.SameBut [.parts] (s.engage p y) := by
      unfold State.engage
      exact (State.SameBut.onPart s _ _).trans (.onCtx _ _ _ _)
    refine ⟨hsame, fun q => ?_, fun q x hx => ?_⟩
    · unfold State.engage State.onCtx
      rw [State.part_onPart, State.part_onPart_self]
      split
      · next hq => rw [hq]
      · next hq => rw [State.part_onPart, if_neg hq]
    · have hne : ¬(q = p ∧ x = y) := by
        rintro ⟨rfl, rfl⟩
        exact hx hrun
      unfold State.engage
      rw [State.ctx_onCtx, if_neg hne]
      unfold State.ctx
      rw [State.part_onPart]
      split
      · next hq => rw [hq]; rfl
      · rfl

/-! ### A teardown starts (R315) -/

/-- The context of a teardown: its queue is empty, nothing of it runs. -/
def CtxSt.tornDown (t : CtxSt) : CtxSt :=
  { t with
    state := .teardown, queue := [], running := false, starting := false, withdrawing := none, discarding := false, discarded := false }

/-- A partition whose current context is another than the one that leaves. -/
def PartSt.without (x : Nat) (q : PartSt) : PartSt := { q with cur := if q.cur = some x then none else q.cur, last := none }

/-- Step 1 of R315: a context stops and leaves its partition's cores. -/
def State.halt (s : State) (p x : Nat) : State := ((s.stopCores p x).onCtx p x CtxSt.tornDown).onPart p (PartSt.without x)

theorem State.ctx_onPart (s : State) (p : Nat) {f : PartSt → PartSt} (hf : ∀ q, (f q).ctxs = q.ctxs) (q y : Nat) :
    (s.onPart p f).ctx q y = s.ctx q y := by
  unfold State.ctx
  rw [State.part_onPart]
  split
  · next hq => rw [hq]; exact congrArg (fun m => FMap.get _ m y) (hf _)
  · rfl

/-- A change of a context is one of its partition's contexts alone. -/
theorem State.part_onCtx (s : State) (p x q : Nat) (f : CtxSt → CtxSt) : ∃ m, (s.onCtx p x f).part q = { s.part q with ctxs := m } := by
  unfold State.onCtx
  rw [State.part_onPart]
  split
  · next hq => rw [hq]; exact ⟨_, rfl⟩
  · exact ⟨(s.part q).ctxs, rfl⟩

theorem State.halt_spec (s : State) (p x : Nat) : s.SameBut [.cores, .parts] (s.halt p x)
    ∧ (∃ ws, (s.halt p x).ctx p x = { (s.ctx p x).tornDown with stopWait := ws })
    ∧ (∀ q y, ¬(q = p ∧ y = x) → (s.halt p x).ctx q y = s.ctx q y)
    ∧ ((s.halt p x).part p).resetting = (s.part p).resetting ∧ ((s.halt p x).part p).discard = (s.part p).discard := by
  let stopped := s.each (s.runningCores p x) fun u c => u.onCore c fun y => { y with stopped := true }
  have hstopped : s.SameBut [.cores] stopped :=
    State.each_keeps (P := fun u => s.SameBut [.cores] u) _ (.refl s _) fun u c hu => hu.trans (.onCore u c _)
  let waiting := stopped.onCtx p x fun t => { t with stopWait := s.runningCores p x }
  have hhalt : s.halt p x = (waiting.onCtx p x CtxSt.tornDown).onPart p (PartSt.without x) := rfl
  have hctx := (waiting.onCtx p x CtxSt.tornDown).ctx_onPart p (f := PartSt.without x) fun _ => rfl
  have hwaiting : s.SameBut [.cores, .parts] waiting := (hstopped.mono (by simp)).trans ((State.SameBut.onCtx _ p x _).mono (by simp))
  obtain ⟨m, hm⟩ := stopped.part_onCtx p x p fun t => { t with stopWait := s.runningCores p x }
  obtain ⟨m', hm'⟩ := waiting.part_onCtx p x p CtxSt.tornDown
  have hpart : (s.halt p x).part p = PartSt.without x { s.part p with ctxs := m' } := by
    rw [hhalt, State.part_onPart_self, hm', hm, hstopped.part_eq (by simp)]
  rw [hpart]
  rw [hhalt]
  refine ⟨(hwaiting.trans ((State.SameBut.onCtx _ p x _).mono (by simp))).trans ((State.SameBut.onPart _ p _).mono (by simp)),
    ⟨s.runningCores p x, ?_⟩, fun q y hy => ?_, rfl, rfl⟩
  · rw [hctx, State.ctx_onCtx_self, State.ctx_onCtx_self, hstopped.ctx_eq (by simp)]
    rfl
  · rw [hctx, State.ctx_onCtx, if_neg hy, State.ctx_onCtx, if_neg hy, hstopped.ctx_eq (by simp)]

/-- Steps 2 to 5 of R315 leave the halted context as it is, and nothing that it posted or awaits. -/
theorem State.strip_spec (s : State) (p x status : Nat) (keep : Option Nat) : (s.halt p x).Aside (s.strip p x status keep)
    ∧ (∀ a ∈ (s.strip p x status keep).noc.attn, ¬(a.part = p ∧ a.ctx = x))
    ∧ ∀ a ∈ (s.strip p x status keep).noc.awaits, ¬(a.part = p ∧ a.ctx = x) := by
  obtain ⟨hposts, hattn, hawaits⟩ := (s.halt p x).dropPosts_aside p x
  let posted := (s.halt p x).dropPosts p x
  let shed := ((posted.endDescs p x status keep).abandonCtx p x).dropWaits p x
  have hshed : posted.Aside shed :=
    ((posted.completeAll_aside _ _).trans (State.abandonCtx_aside _ p x)).trans (State.dropWaits_aside _ p x)
  let ready := shed.wr (shed.repairReg p x) 0#32
  have hready : shed.Aside ready := shed.wr_aside _ _
  have hstrip : s.strip p x status keep = if (ready.part p).resetting.isSome then ready else ready.zeroIdle p x := rfl
  have hend : ready.Aside (s.strip p x status keep) := by
    rw [hstrip]
    split
    · exact .refl ready
    · exact ready.each_aside _ fun u r => u.startZero_aside _ _
  have hall : posted.Aside (s.strip p x status keep) := (hshed.trans hready).trans hend
  exact ⟨hposts.trans hall, fun a ha => hattn a (hall.attn a ha), fun a ha => hawaits a (hall.awaits a ha)⟩

/-- What a context has as its teardown starts: its fault, or its FROG with the reason of its descriptor. -/
def State.noteCause (s : State) (p x : Nat) (f : Option FaultRec) (frog : Option Nat) : State :=
  let d := frog.bind (fun id => s.host.descs.find? (fun d => d.id == id))
  s.onCtx p x (fun t => { t with
    fault := f, frog := frog, since := (d.map (fun d => d.sent)).getD 0, reason := (d.map (fun d => d.at_ 8 4)).getD 0 })

theorem State.beginTeardown_spec (s : State) (p x : Nat) (f : Option FaultRec) (frog : Option Nat) :
    ((s.beginTeardown p x f frog).ctx p x).state = .teardown ∧ ((s.beginTeardown p x f frog).ctx p x).queue = []
      ∧ ((s.beginTeardown p x f frog).ctx p x).running = false ∧ ((s.beginTeardown p x f frog).ctx p x).fault = f
      ∧ (∀ a ∈ (s.beginTeardown p x f frog).noc.attn, ¬(a.part = p ∧ a.ctx = x))
      ∧ (∀ a ∈ (s.beginTeardown p x f frog).noc.awaits, ¬(a.part = p ∧ a.ctx = x)) ∧ s.SameScratch (s.beginTeardown p x f frog) := by
  let noted := s.noteCause p x f frog
  have hnoted : s.SameBut [.parts] noted := by
    unfold noted State.noteCause
    exact .onCtx s _ _ _
  obtain ⟨hhalt, ⟨ws, hctx⟩, -, -, -⟩ := noted.halt_spec p x
  obtain ⟨hstrip, hattn, hawaits⟩ := noted.strip_spec p x stFrogged frog
  have hdoubt := (noted.strip p x stFrogged frog).raiseDoubt_aside (doubtPart p)
  obtain ⟨hselect, -, hkept⟩ := ((noted.strip p x stFrogged frog).raiseDoubt (doubtPart p)).select_selects p none
  have hdef : s.beginTeardown p x f frog = ((noted.strip p x stFrogged frog).raiseDoubt (doubtPart p)).select p none := rfl
  rw [hdef]
  generalize ((noted.strip p x stFrogged frog).raiseDoubt (doubtPart p)).select p none = t at *
  have hbefore := (hstrip.trans hdoubt).ctx_eq p x
  rw [hctx] at hbefore
  have hafter : t.ctx p x = { (noted.ctx p x).tornDown with stopWait := ws } := by
    rw [hkept p x (by rw [hbefore]; exact fun h => by cases h), hbefore]
  have hnoc : t.noc = ((noted.strip p x stFrogged frog).raiseDoubt (doubtPart p)).noc := hselect.noc.resolve_left (by simp)
  have hfault : (noted.ctx p x).fault = f := by
    simp only [noted, State.noteCause, State.ctx_onCtx_self]
  refine ⟨by rw [hafter]; rfl, by rw [hafter]; rfl, by rw [hafter]; rfl, by rw [hafter]; exact hfault, fun a ha => ?_, fun a ha => ?_, ?_⟩
  · rw [hnoc] at ha
    exact hattn a (hdoubt.attn a ha)
  · rw [hnoc] at ha
    exact hawaits a (hdoubt.awaits a ha)
  · exact (hnoted.sameScratch (by simp) (by simp) (by simp)).trans ((hhalt.sameScratch (by simp) (by simp) (by simp)).trans
      ((hstrip.trans hdoubt).sameScratch.trans (hselect.sameScratch (by simp) (by simp) (by simp))))

end Sys2Proof.Machine

namespace Sys2Proof.Machine

/-! ### A partition reset starts (R316, R317) -/

/-- No byte moves, and the partition's contexts and its reset are as they were. -/
structure State.KeepsContexts (p : Nat) (s t : State) : Prop where
  scratch : s.SameScratch t
  ctx : ∀ x, t.ctx p x = s.ctx p x
  reset : (t.part p).resetting = (s.part p).resetting ∧ (t.part p).discard = (s.part p).discard

theorem State.KeepsContexts.refl (p : Nat) (s : State) : s.KeepsContexts p s := ⟨.refl s, fun _ => rfl, rfl, rfl⟩

theorem State.KeepsContexts.trans {p : Nat} {s t u : State} (h : s.KeepsContexts p t) (g : t.KeepsContexts p u) : s.KeepsContexts p u :=
  ⟨h.scratch.trans g.scratch, fun x => (g.ctx x).trans (h.ctx x), g.reset.1.trans h.reset.1, g.reset.2.trans h.reset.2⟩

theorem State.Aside.keepsContexts {s t : State} (h : s.Aside t) (p : Nat) : s.KeepsContexts p t :=
  ⟨h.sameScratch, h.ctx_eq p, (h.reset_eq p).1, (h.reset_eq p).2.1⟩

theorem State.SameBut.keepsContexts {l : List Piece} {s t : State} (h : s.SameBut l t) (p : Nat)
    (hl : .parts ∉ l ∧ .scratch ∉ l ∧ .ue ∉ l ∧ .ce ∉ l := by simp) : s.KeepsContexts p t := by
  obtain ⟨hparts, hscratch, hue, hce⟩ := hl
  refine ⟨h.sameScratch hscratch hue hce, h.ctx_eq hparts p, ?_⟩
  rw [h.part_eq hparts]
  exact ⟨rfl, rfl⟩

theorem State.each_keepsContexts {α : Type} (p : Nat) (s : State) (l : List α) {f : State → α → State}
    (hf : ∀ (u : State) a, u.KeepsContexts p (f u a)) : s.KeepsContexts p (s.each l f) :=
  State.each_keeps (P := fun u => s.KeepsContexts p u) l (.refl p s) fun u a h => h.trans (hf u a)

theorem State.resetObject_keepsContexts (s : State) (p obj : Nat) : s.KeepsContexts p (s.resetObject obj) := by
  have hset (u : State) (a : Nat) (f : Fld) (v : Nat) : u.KeepsContexts p (u.setFld a f v) := (State.SameBut.setFld u a f v).keepsContexts p
  exact (((((s.releaseAll_aside obj rReset).keepsContexts p).trans ((State.SameBut.wr _ _ _).keepsContexts p)).trans (hset _ _ _ _)).trans
    (hset _ _ _ _)).trans (hset _ _ _ _)

theorem State.zeroCore_keepsContexts (s : State) (p c : Nat) : s.KeepsContexts p (s.zeroCore c) := by
  have hcore (u : State) (f : CoreSt → CoreSt) : u.KeepsContexts p (u.onCore c f) := (State.SameBut.onCore u c f).keepsContexts p
  have hnext (u : State) : u.KeepsContexts p (u.zeroNext c) := by
    unfold State.zeroNext
    split
    · exact .refl p u
    split
    · exact .refl p u
    · exact (hcore u _).trans ((State.startZero_aside _ c _).keepsContexts p)
  exact (hcore s _).trans (hnext _)

theorem State.wipeRegion_keepsContexts (s : State) (p r : Nat) : s.KeepsContexts p (s.wipeRegion r) := by
  have hempty : s.SameBut [.sec] (s.emptyRegion r) := by constructor <;> simp [State.emptyRegion]
  unfold State.wipeRegion
  split
  · exact hempty.keepsContexts p
  · exact (State.SameBut.setFld s _ _ _).keepsContexts p

/-- A context that is stripped is in teardown with nothing queued; every other is as it was, and so is the reset. -/
theorem State.strip_contexts (s : State) (p x status : Nat) (keep : Option Nat) :
    s.SameScratch (s.strip p x status keep)
      ∧ (((s.strip p x status keep).ctx p x).state = .teardown ∧ ((s.strip p x status keep).ctx p x).queue = [])
      ∧ (∀ y, y ≠ x → (s.strip p x status keep).ctx p y = s.ctx p y)
      ∧ ((s.strip p x status keep).part p).resetting = (s.part p).resetting
      ∧ ((s.strip p x status keep).part p).discard = (s.part p).discard := by
  obtain ⟨hhalt, ⟨ws, hctx⟩, hothers, hresetting, hdiscard⟩ := s.halt_spec p x
  have hstrip := (s.strip_spec p x status keep).1
  obtain ⟨hresetting', hdiscard', -⟩ := hstrip.reset_eq p
  have hself := (hstrip.ctx_eq p x).trans hctx
  refine ⟨(hhalt.sameScratch (by simp) (by simp) (by simp)).trans hstrip.sameScratch, ⟨by rw [hself]; rfl, by rw [hself]; rfl⟩, fun y hy => ?_,
    hresetting'.trans hresetting, hdiscard'.trans hdiscard⟩
  rw [hstrip.ctx_eq, hothers p y (by simp [hy])]

/-- What every strip of a partition reset keeps. -/
structure State.Resets (p cause : Nat) (discard : Bool) (s t : State) : Prop where
  scratch : s.SameScratch t
  resetting : (t.part p).resetting = some cause
  discard : (t.part p).discard = discard

theorem State.Resets.keeps {p cause : Nat} {d : Bool} {s t u : State} (h : s.Resets p cause d t) (g : t.KeepsContexts p u) : s.Resets p cause d u :=
  ⟨h.scratch.trans g.scratch, g.reset.1.trans h.resetting, g.reset.2.trans h.discard⟩

theorem State.Resets.strip {p cause : Nat} {d : Bool} {s t : State} (h : s.Resets p cause d t) (x status : Nat) (keep : Option Nat) :
    s.Resets p cause d (t.strip p x status keep) := by
  obtain ⟨hscratch, -, -, hresetting, hdiscard⟩ := t.strip_contexts p x status keep
  exact ⟨h.scratch.trans hscratch, hresetting.trans h.resetting, hdiscard.trans h.discard⟩

/-- R316, R317: a reset of a configured partition that none runs for puts every context that it has in teardown. -/
theorem State.beginReset_spec {s : State} {p : Nat} (cause : Nat) (discard : Bool) (hconfigured : (s.part p).configured = true)
    (hnone : (s.part p).resetting = none) : s.Resets p cause discard (s.beginReset p cause discard)
      ∧ ∀ y, y < 8 → (s.ctx p y).state ≠ .none →
        ((s.beginReset p cause discard).ctx p y).state = .teardown ∧ ((s.beginReset p cause discard).ctx p y).queue = [] := by
  let status := if cause = prForced then stAborted else stFrogged
  let begun := s.onPart p fun q => { q with resetting := some cause, discard := discard, aborted := cause == prForced }
  let cleared := begun.each ((begun.part p).chans.flatMap begun.objectsOf) fun u obj => u.resetObject obj
  let stripped := cleared.each ((List.range 8).filter fun x => (cleared.ctx p x).state != .none) fun u x => u.strip p x status none
  let zeroed := stripped.each ((stripped.coresOf p).filter fun c => !stripped.isRunning c) fun u c => u.zeroCore c
  have hdef : s.beginReset p cause discard = (zeroed.wipeRegion p).raiseDoubt (doubtPart p) := by
    unfold State.beginReset
    rw [hconfigured, hnone]
    rfl
  have hbegun : s.Resets p cause discard begun := by
    refine ⟨(State.SameBut.onPart s _ _).sameScratch (by simp) (by simp) (by simp), ?_, ?_⟩ <;> rw [State.part_onPart_self]
  have hcleared : begun.KeepsContexts p cleared := State.each_keepsContexts p _ _ fun u obj => u.resetObject_keepsContexts p obj
  have hctx (y : Nat) : cleared.ctx p y = s.ctx p y := by
    rw [hcleared.ctx y]
    unfold begun
    exact s.ctx_onPart p (by exact fun _ => rfl) p y
  have hlast : stripped.KeepsContexts p (s.beginReset p cause discard) := by
    rw [hdef]
    exact ((State.each_keepsContexts p _ _ fun u c => u.zeroCore_keepsContexts p c).trans (State.wipeRegion_keepsContexts _ p p)).trans
      ((State.raiseDoubt_aside _ _).keepsContexts p)
  have hstripped : s.Resets p cause discard stripped :=
    State.each_keeps (P := fun u => s.Resets p cause discard u) _ (hbegun.keeps hcleared) fun u x hu => hu.strip x status none
  refine ⟨hstripped.keeps hlast, fun y hy hstate => ?_⟩
  rw [hlast.ctx y]
  have hmem : y ∈ (List.range 8).filter fun x => (cleared.ctx p x).state != .none := by
    simp only [List.mem_filter, List.mem_range, bne_iff_ne, hctx]
    exact ⟨hy, hstate⟩
  refine State.each_reaches (P := fun _ => True) (Q := fun u : State => (u.ctx p y).state = .teardown ∧ (u.ctx p y).queue = []) hmem trivial
    (fun _ _ _ => trivial) (fun u _ => (u.strip_contexts p y status none).2.1) fun u x hu => ?_
  by_cases hxy : y = x
  · subst hxy
    exact (u.strip_contexts p y status none).2.1
  · rwa [(u.strip_contexts p x status none).2.2.1 y hxy]

/-- R84, R85, R315, R316: how a teardown starts, and what becomes of one that does not end. -/
theorem faultTearsDown : FaultTearsDown := by
  intro s p x
  refine ⟨fun c k hk hfault howner hstate => ?_, fun c k hk hfault howner hstate => ?_, fun hstate hconfigured hnone => ?_⟩
  · have hexec : exec (.contextFault c k) s = .next (s.beginTeardown p x (some (s.faultRec c k)) none) := by
      refine congrArg Host.Outcome.next ?_
      simp only [hk, hfault, and_self, ↓reduceIte, howner, hstate]
    obtain ⟨hteardown, hqueue, hrunning, hrec, hattn, hawaits, hscratch⟩ := s.beginTeardown_spec p x (some (s.faultRec c k)) none
    exact ⟨_, _, hexec, hteardown, hqueue, hrunning, hrec, rfl, rfl, rfl, rfl, hattn, hawaits, hscratch⟩
  · refine congrArg Host.Outcome.next ?_
    simp only [hk, hfault, and_self, ↓reduceIte, howner, hstate]
  · have hexec : exec (.teardownTimeout p x) s = .next (s.beginReset p prTimeout false) := congrArg Host.Outcome.next (if_pos hstate)
    obtain ⟨⟨hscratch, hresetting, hdiscard⟩, hctx⟩ := s.beginReset_spec prTimeout false hconfigured hnone
    exact ⟨_, hexec, hresetting, hdiscard, hctx, hscratch⟩

end Sys2Proof.Machine

namespace Sys2Proof.Machine

/-! ### Groups, banks and configurations as a teardown or a reset ends (R309, R315, R317) -/

theorem State.releaseGroups_spec (s : State) (p : Nat) (f : PoolGroup → Bool) :
    s.SameBut [.tableMem, .parts] (s.releaseGroups p f) ∧ PoolReleased f (s.part p).pool ((s.releaseGroups p f).part p).pool
      ∧ ∃ l, (s.releaseGroups p f).part p = { s.part p with pool := l } := by
  let cleared := s.each (((s.part p).pool.filter f).flatMap fun g => g.entries.filter (s.current p g)) fun u off => u.clearEntry p off
  have hcleared : s.SameBut [.tableMem] cleared := by
    refine State.each_keeps (P := fun u => s.SameBut [.tableMem] u) _ (.refl s _) fun u off hu => hu.trans ?_
    unfold State.clearEntry
    constructor <;> simp
  let release (q : PartSt) : PartSt := { q with pool := q.pool.map fun g => if f g then cleared.releasedGroup p g else g }
  have hdef : s.releaseGroups p f = cleared.onPart p release := rfl
  have hpart : (cleared.onPart p release).part p = release (s.part p) := by
    rw [State.part_onPart_self, hcleared.part_eq (by simp)]
  rw [hdef, hpart]
  refine ⟨(hcleared.mono (by simp)).trans ((State.SameBut.onPart _ _ _).mono (by simp)), ?_, _, rfl⟩
  refine List.forall₂_map_right_iff.mpr (List.forall₂_same.mpr fun g _ => ⟨fun hg => ?_, fun hg => ?_⟩)
  · rw [if_pos hg]
    exact ⟨⟨rfl, rfl⟩, ⟨rfl, rfl⟩, rfl, fun e he => List.mem_of_mem_filter he⟩
  · rw [if_neg (by simp [hg])]

/-- A bank as at context creation. -/
def Slot.fresh (p x : Nat) : Slot := { Slot.init with owner := some (p, x) }

theorem State.freshSlot_spec (s : State) (p x c k : Nat) : s.SameBut [.regs, .cores] (s.freshSlot p x c k)
    ∧ ∀ d j, (s.freshSlot p x c k).slot d j = if d = c ∧ j = k then Slot.fresh p x else s.slot d j := by
  unfold State.freshSlot
  dsimp only
  have hregs (u : State) (a b d e v : Nat) (f : Fld) :
      u.SameBut [.regs] ((((u.wr a 0#32).wr b 0#32).wr d 0#32).setFld e f v) :=
    (((State.SameBut.wr u _ _).trans (.wr _ _ _)).trans (.wr _ _ _)).trans (.setFld _ _ _ _)
  refine ⟨((State.SameBut.onSlot s _ _ _).mono (by simp)).trans ((hregs _ _ _ _ _ _ _).mono (by simp)), fun d j => ?_⟩
  rw [(hregs _ _ _ _ _ _ _).slot_eq (by simp), State.slot_onSlot]
  rfl

/-- A slot of a context set up from its configuration. -/
def State.setUp (s : State) (p x win entry lim c k : Nat) : State := (s.setSlotRegs c k win entry lim).freshSlot p x c k

theorem State.setSlotRegs_sameBut (s : State) (c k win entry lim : Nat) : s.SameBut [.regs] (s.setSlotRegs c k win entry lim) :=
  ((State.SameBut.wr s _ _).trans (.wr _ _ _)).trans (.wr _ _ _)

theorem State.setUp_spec (s : State) (p x win entry lim c k : Nat) : s.SameBut [.regs, .cores] (s.setUp p x win entry lim c k)
    ∧ ∀ d j, (s.setUp p x win entry lim c k).slot d j = if d = c ∧ j = k then Slot.fresh p x else s.slot d j := by
  have hregs := s.setSlotRegs_sameBut c k win entry lim
  obtain ⟨hsame, hslot⟩ := (s.setSlotRegs c k win entry lim).freshSlot_spec p x c k
  refine ⟨(hregs.mono (by simp)).trans hsame, fun d j => (hslot d j).trans ?_⟩
  rw [hregs.slot_eq (by simp)]

/-- R315 step 7: a context recreated is IDLE with fresh banks, its configuration and engine time kept; other contexts, the pool and the bytes
are as they were. -/
theorem State.recreate_spec (s : State) (p x : Nat) : s.SameBut [.regs, .cores, .parts, .fresh] (s.recreate p x)
    ∧ (∀ r ∈ (s.ctx p x).cores, (s.recreate p x).slot r.core r.slot = Slot.fresh p x)
    ∧ (∃ key, (s.recreate p x).ctx p x = { (s.ctx p x).recreated with keyAt := key })
    ∧ (∀ y, y ≠ x → (s.recreate p x).ctx p y = s.ctx p y) ∧ ∃ m, (s.recreate p x).part p = { s.part p with ctxs := m } := by
  let turn (u : State) (r : CoreRec) : State := u.setUp p x (2 ^ 31 + r.size * 2 ^ 12 + r.base) r.entry (u.ctx p x).waitlim r.core r.slot
  let banks := s.each (s.ctx p x).cores turn
  have hbanks : s.SameBut [.regs, .cores] banks :=
    State.each_keeps (P := fun u => s.SameBut [.regs, .cores] u) _ (.refl s _) fun u r hu => hu.trans (u.setUp_spec p x _ _ _ r.core r.slot).1
  let keyed : State := { banks with fresh := banks.fresh + 8 }
  have hkeyed : banks.SameBut [.fresh] keyed := by constructor <;> simp [keyed]
  let configured := keyed.onCtx p x fun t => { t.recreated with keyAt := banks.fresh }
  have hconfigured : keyed.SameBut [.parts] configured := .onCtx _ _ _ _
  have hlast : configured.SameBut [.regs] (s.recreate p x) := .wr _ _ _
  have hctx : keyed.ctx p = s.ctx p := by
    funext y
    rw [hkeyed.ctx_eq (by simp), hbanks.ctx_eq (by simp)]
  refine ⟨?_, fun r hr => ?_, ⟨banks.fresh, ?_⟩, fun y hy => ?_, ?_⟩
  · exact (((hbanks.mono (by simp)).trans (hkeyed.mono (by simp))).trans (hconfigured.mono (by simp))).trans (hlast.mono (by simp))
  · rw [hlast.slot_eq (by simp), hconfigured.slot_eq (by simp), hkeyed.slot_eq (by simp)]
    refine State.each_reaches (P := fun _ => True) (Q := fun u : State => u.slot r.core r.slot = Slot.fresh p x) hr trivial (fun _ _ _ => trivial)
      (fun u _ => ?_) fun u r' hu => ?_
    · rw [(u.setUp_spec p x _ _ _ r.core r.slot).2, if_pos ⟨rfl, rfl⟩]
    · rw [(u.setUp_spec p x _ _ _ r'.core r'.slot).2]
      split
      · rfl
      · exact hu
  · rw [hlast.ctx_eq (by simp), State.ctx_onCtx_self, hctx]
  · rw [hlast.ctx_eq (by simp), State.ctx_onCtx, if_neg (by simp [hy]), hctx]
  · obtain ⟨m, hm⟩ := keyed.part_onCtx p x p fun t => { t.recreated with keyAt := banks.fresh }
    refine ⟨m, ?_⟩
    rw [hlast.part_eq (by simp), hm, hkeyed.part_eq (by simp), hbanks.part_eq (by simp)]

/-! ### A teardown ends (R315) -/

theorem contextTeardownEnd_recreates {s : State} {p x : Nat} (hstate : (s.ctx p x).state = .teardown) (hreset : (s.part p).resetting = none)
    (hstopped : (s.ctx p x).stopWait = []) (hzeroed : s.ctxZeroing p x = false) (hclocks : ∀ ch ∈ (s.part p).chans, s.paused ch = false) :
    ∃ t, exec (.contextTeardownEnd p x) s = .next t ∧ (t.ctx p x).state = .idle ∧ (t.ctx p x).queue = []
      ∧ (t.ctx p x).vt = 0 ∧ (t.ctx p x).rem = 0 ∧ (t.ctx p x).steps = 0 ∧ (t.ctx p x).etime = (s.ctx p x).etime
      ∧ (t.ctx p x).cores = (s.ctx p x).cores ∧ PoolReleased (fun g => g.ownedBy x) (s.part p).pool (t.part p).pool
      ∧ (∀ r ∈ (s.ctx p x).cores, t.slot r.core r.slot = { Slot.init with owner := some (p, x) }) ∧ t.scratch = s.scratch := by
  obtain ⟨hrelease, hpool, l, hpart⟩ := s.releaseGroups_spec p fun g => g.ownedBy x
  have hctx : (s.releaseGroups p fun g => g.ownedBy x).ctx p x = s.ctx p x := by
    unfold State.ctx
    rw [hpart]
    rfl
  obtain ⟨hrecreate, hbanks, ⟨key, hnew⟩, -, m, hpart'⟩ := (s.releaseGroups p fun g => g.ownedBy x).recreate_spec p x
  obtain ⟨u, haside, hexec⟩ : ∃ u, ((s.releaseGroups p fun g => g.ownedBy x).recreate p x).Aside u
      ∧ exec (.contextTeardownEnd p x) s = .next (u.select p none) := by
    have hends : ((s.ctx p x).state = .teardown && (s.part p).resetting.isNone && (s.ctx p x).stopWait.isEmpty && !s.ctxZeroing p x
        && !(s.part p).chans.any s.paused) = true := by
      simpa [hstate, hreset, hstopped, hzeroed] using hclocks
    refine ⟨_, ?_, congrArg Host.Outcome.next (if_pos hends)⟩
    generalize (s.releaseGroups p fun g => g.ownedBy x).recreate p x = v
    have hshed : v.Aside ((v.dropPosts p x).lastDescs p x stFrogged (s.ctx p x).frog) :=
      (v.dropPosts_aside p x).1.trans (State.lastDescs_aside _ _ _ _ _)
    refine hshed.trans ?_
    generalize (v.dropPosts p x).lastDescs p x stFrogged (s.ctx p x).frog = w
    cases (s.ctx p x).frog with
    | none => exact w.eventPart_aside _
    | some id => exact (w.eventPart_aside _).trans (State.complete_aside _ _ _ _)
  generalize (s.releaseGroups p fun g => g.ownedBy x).recreate p x = v at *
  obtain ⟨hselect, hpool', hkept⟩ := u.select_selects p none
  have hidle : u.ctx p x = { (s.ctx p x).recreated with keyAt := key } := by rw [haside.ctx_eq, hnew, hctx]
  have hafter : (u.select p none).ctx p x = { (s.ctx p x).recreated with keyAt := key } := by
    rw [hkept p x (by rw [hidle]; exact fun h => by cases h), hidle]
  refine ⟨_, hexec, ?_⟩
  rw [hafter]
  refine ⟨rfl, rfl, rfl, rfl, rfl, rfl, rfl, ?_, fun r hr => ?_, ?_⟩
  · rw [hpool', haside.pool_eq, hpart']
    exact hpool
  · rw [hselect.slot_eq (by simp), haside.same.slot_eq (by simp)]
    exact hbanks r (by rwa [hctx])
  · rw [hselect.scratch.resolve_left (by simp), haside.scratch_eq, hrecreate.scratch.resolve_left (by simp),
      hrelease.scratch.resolve_left (by simp)]

end Sys2Proof.Machine

namespace Sys2Proof.Machine

/-! ### A partition reset ends (R317) -/

/-- The contexts that a partition has. -/
def State.contextsOf (s : State) (p : Nat) : List Nat := (List.range 8).filter fun x => (s.ctx p x).state != .none

/-- The groups of a partition freed, and what its contexts posted discarded. -/
def State.resetWork (s : State) (p : Nat) : State :=
  let s := s.releaseGroups p fun _ => true
  let status := if (s.part p).aborted then stAborted else stFrogged
  s.each (s.contextsOf p) fun u x => (u.dropPosts p x).lastDescs p x status none

theorem State.resetWork_spec (s : State) (p : Nat) : (s.releaseGroups p fun _ => true).Aside (s.resetWork p)
    ∧ PoolReleased (fun _ => true) (s.part p).pool ((s.resetWork p).part p).pool ∧ (∀ y, (s.resetWork p).ctx p y = s.ctx p y)
    ∧ ((s.resetWork p).part p).discard = (s.part p).discard ∧ (s.resetWork p).coresOf p = s.coresOf p
    ∧ (s.resetWork p).scratch = s.scratch := by
  obtain ⟨hrelease, hpool, l, hpart⟩ := s.releaseGroups_spec p fun _ => true
  have hshed : (s.releaseGroups p fun _ => true).Aside (s.resetWork p) :=
    State.each_aside _ _ fun u x => (u.dropPosts_aside p x).1.trans (State.lastDescs_aside _ _ _ _ _)
  obtain ⟨-, hdiscard, hchans, -⟩ := hshed.reset_eq p
  refine ⟨hshed, ?_, fun y => ?_, ?_, ?_, hshed.scratch_eq.trans (hrelease.scratch.resolve_left (by simp))⟩
  · rwa [hshed.pool_eq]
  · rw [hshed.ctx_eq]
    unfold State.ctx
    rw [hpart]
    rfl
  · rw [hdiscard, hpart]
  · unfold State.coresOf
    rw [hchans, hpart]
    rfl

theorem exec_partitionResetEnd {s : State} {p cause : Nat} (hreset : (s.part p).resetting = some cause)
    (hstopped : ∀ c ∈ s.coresOf p, s.isRunning c = false ∧ s.fld (statReg c) F.CORE_STAT_ZEROING = 0)
    (hrails : ∀ ch ∈ (s.part p).chans, bitOf s.pwr.held ch = false) :
    exec (.partitionResetEnd p) s = .next (
      if (s.part p).discard then ((s.resetWork p).discardConfig p).eventPart ⟨evPartReset, p, 0, false, leBytes 1 cause⟩
      else (((s.resetWork p).each ((s.resetWork p).contextsOf p) fun u x => u.recreate p x).onPart p fun q =>
        { q with resetting := none, discard := false, aborted := false, cur := none, last := none }).eventPart
          ⟨evPartReset, p, 0, false, leBytes 1 cause⟩) := by
  have hready : ¬((s.coresOf p).any (fun c => s.isRunning c || s.fld (statReg c) F.CORE_STAT_ZEROING != 0)
      || (s.part p).chans.any (fun ch => bitOf s.pwr.held ch)) = true := by
    simp only [Bool.or_eq_true, List.any_eq_true, bne_iff_ne, not_or, not_exists, not_and]
    exact ⟨fun c hc => ⟨by simp [(hstopped c hc).1], by simp [(hstopped c hc).2]⟩, fun ch hch => by simp [hrails ch hch]⟩
  have hdiscard := (s.resetWork_spec p).2.2.2.1
  refine congrArg Host.Outcome.next ?_
  simp only [hreset]
  rw [if_neg hready, ← hdiscard]
  rfl

/-- R317: the contexts recreated one after another. -/
theorem State.recreateAll_spec (s : State) (p : Nat) (l : List Nat) :
    (s.each l fun u x => u.recreate p x).scratch = s.scratch
      ∧ (∃ m, (s.each l fun u x => u.recreate p x).part p = { s.part p with ctxs := m })
      ∧ ∀ y ∈ l, ((s.each l fun u x => u.recreate p x).ctx p y).state = .idle ∧ ((s.each l fun u x => u.recreate p x).ctx p y).queue = []
        ∧ ((s.each l fun u x => u.recreate p x).ctx p y).steps = 0
        ∧ ((s.each l fun u x => u.recreate p x).ctx p y).etime = (s.ctx p y).etime := by
  refine ⟨?_, ?_, fun y hy => ?_⟩
  · exact State.each_keeps (P := fun u => u.scratch = s.scratch) l rfl fun u x hu =>
      ((u.recreate_spec p x).1.scratch.resolve_left (by simp)).trans hu
  · refine State.each_keeps (P := fun u => ∃ m, u.part p = { s.part p with ctxs := m }) l ⟨_, rfl⟩ fun u x ⟨m, hm⟩ => ?_
    obtain ⟨-, -, -, -, m', hm'⟩ := u.recreate_spec p x
    exact ⟨m', by rw [hm', hm]⟩
  · have hkeeps (u : State) (x : Nat) : ((u.recreate p x).ctx p y).etime = (u.ctx p y).etime ∧ (x = y ∨ (u.recreate p x).ctx p y = u.ctx p y) := by
      obtain ⟨-, -, ⟨key, hself⟩, hothers, -⟩ := u.recreate_spec p x
      by_cases hxy : y = x
      · subst hxy
        exact ⟨by rw [hself]; rfl, .inl rfl⟩
      · exact ⟨by rw [hothers y hxy], .inr (hothers y hxy)⟩
    have hself (u : State) : ((u.recreate p y).ctx p y).state = .idle ∧ ((u.recreate p y).ctx p y).queue = []
        ∧ ((u.recreate p y).ctx p y).steps = 0 := by
      obtain ⟨-, -, ⟨key, hself⟩, -, -⟩ := u.recreate_spec p y
      rw [hself]
      exact ⟨rfl, rfl, rfl⟩
    have hall := State.each_reaches (P := fun u : State => (u.ctx p y).etime = (s.ctx p y).etime)
      (Q := fun u : State => (u.ctx p y).etime = (s.ctx p y).etime ∧ (u.ctx p y).state = .idle ∧ (u.ctx p y).queue = [] ∧ (u.ctx p y).steps = 0)
      (f := fun u x => u.recreate p x) hy rfl (fun u x hu => (hkeeps u x).1.trans hu) (fun u hu => ⟨(hkeeps u y).1.trans hu, hself u⟩)
      fun u x ⟨hu, hidle⟩ => by
        refine ⟨(hkeeps u x).1.trans hu, ?_⟩
        rcases (hkeeps u x).2 with rfl | hsame
        · exact hself u
        · rwa [hsame]
    exact ⟨hall.2.1, hall.2.2.1, hall.2.2.2, hall.1⟩

theorem partitionResetEnd_recreates {s : State} {p cause : Nat} (hreset : (s.part p).resetting = some cause)
    (hstopped : ∀ c ∈ s.coresOf p, s.isRunning c = false ∧ s.fld (statReg c) F.CORE_STAT_ZEROING = 0)
    (hrails : ∀ ch ∈ (s.part p).chans, bitOf s.pwr.held ch = false) (hkeep : (s.part p).discard = false) :
    ∃ t, exec (.partitionResetEnd p) s = .next t ∧ (t.part p).resetting = none ∧ (t.part p).cur = none
      ∧ PoolReleased (fun _ => true) (s.part p).pool (t.part p).pool
      ∧ (∀ y, y < 8 → (s.ctx p y).state ≠ .none → (t.ctx p y).state = .idle ∧ (t.ctx p y).queue = []
        ∧ (t.ctx p y).steps = 0 ∧ (t.ctx p y).etime = (s.ctx p y).etime) ∧ t.scratch = s.scratch := by
  obtain ⟨-, hpool, hctx, -, -, hscratch⟩ := s.resetWork_spec p
  obtain ⟨hscratch', ⟨m, hpart⟩, hcontexts⟩ := (s.resetWork p).recreateAll_spec p ((s.resetWork p).contextsOf p)
  have hexec := exec_partitionResetEnd hreset hstopped hrails
  rw [hkeep, if_neg (by decide)] at hexec
  have hmem {y : Nat} (hy : y < 8) (hstate : (s.ctx p y).state ≠ .none) : y ∈ (s.resetWork p).contextsOf p := by
    simp only [State.contextsOf, List.mem_filter, List.mem_range, bne_iff_ne, hctx]
    exact ⟨hy, hstate⟩
  generalize (s.resetWork p).each ((s.resetWork p).contextsOf p) (fun u x => u.recreate p x) = v at *
  let ended := v.onPart p fun q => { q with resetting := none, discard := false, aborted := false, cur := none, last := none }
  have hevent : ended.Aside (ended.eventPart ⟨evPartReset, p, 0, false, leBytes 1 cause⟩) := ended.eventPart_aside _
  have hended : ended.part p = { v.part p with resetting := none, discard := false, aborted := false, cur := none, last := none } :=
    v.part_onPart_self p _
  have hendedctx (y : Nat) : ended.ctx p y = v.ctx p y := v.ctx_onPart p (by exact fun _ => rfl) p y
  obtain ⟨hnone, -, -, hcur⟩ := hevent.reset_eq p
  rw [hended] at hnone hcur
  refine ⟨_, hexec, hnone, hcur, ?_, fun y hy hstate => ?_, ?_⟩
  · have hsame : (ended.part p).pool = ((s.resetWork p).part p).pool := by rw [hended, hpart]
    rw [hevent.pool_eq, hsame]
    exact hpool
  · rw [hevent.ctx_eq, hendedctx, ← hctx]
    exact hcontexts y (hmem hy hstate)
  · exact hevent.scratch_eq.trans (hscratch'.trans hscratch)

end Sys2Proof.Machine

namespace Sys2Proof.Machine

/-! ### A configuration is discarded (R317) -/

/-- An event record moves only the registers of its function's log. -/
theorem State.rd_logEvent_of_lt (s : State) (f : Nat) (e : EventRec) {a : Nat} (ha : a < 0x02101000) : (s.logEvent f e).rd a = s.rd a := by
  have hstat : a ≠ R.HI_FN_STAT f := by unfold R.HI_FN_STAT; omega
  have htail : a ≠ R.HI_FN_ELOG_TAIL f := by unfold R.HI_FN_ELOG_TAIL; omega
  have hwritten (u : State) (h : Nat) (bs : List Byte) (x y : Nat) :
      (((u.hostWrite h bs).1.setFld (R.HI_FN_ELOG_TAIL f) F.HI_FN_ELOG_TAIL_TAIL x).setFld (R.HI_FN_ELOG_TAIL f) F.HI_FN_ELOG_TAIL_PHASE y).rd a
        = u.rd a := by
    rw [State.rd_setFld_ne _ _ _ htail, State.rd_setFld_ne _ _ _ htail, (u.hostWrite_sameBut h bs).rd_eq (by simp)]
  unfold State.logEvent
  dsimp only
  split
  · rfl
  split
  · exact State.rd_setFld_ne _ _ _ hstat
  split
  · exact ((State.msix_sameBut _ _ _).rd_eq (by simp) a).trans (hwritten _ _ _ _ _)
  · exact hwritten _ _ _ _ _

theorem State.rd_eventPart_of_lt (s : State) (e : EventRec) {a : Nat} (ha : a < 0x02101000) : (s.eventPart e).rd a = s.rd a :=
  (State.rd_logEvent_of_lt _ _ e ha).trans (s.rd_logEvent_of_lt _ e ha)

/-- A register that reads 0 goes on doing so under writes of 0. -/
theorem State.rd_wr_zero {s : State} {a : Nat} (h : s.rd a = 0#32) (b : Nat) : (s.wr b 0#32).rd a = 0#32 := by
  rw [s.rd_wr]
  split
  · rfl
  · exact h

/-- A slot that holds a context emptied. -/
def State.clearSlot (s : State) (c k : Nat) (p : Nat) : State :=
  if (s.slot c k).owner.isSome then (s.freshSlot p 0 c k).onSlot c k (fun _ => Slot.init) else s

theorem State.clearSlot_spec (s : State) (p c k : Nat) : s.SameBut [.regs, .cores] (s.clearSlot c k p)
    ∧ ((s.clearSlot c k p).slot c k).owner = none
    ∧ ∀ d j, (s.slot d j).owner = none → ((s.clearSlot c k p).slot d j).owner = none := by
  unfold State.clearSlot
  obtain ⟨hsame, hslot⟩ := s.freshSlot_spec p 0 c k
  split
  · refine ⟨hsame.trans ((State.SameBut.onSlot _ _ _ _).mono (by simp)), by rw [State.slot_onSlot_self]; rfl, fun d j h => ?_⟩
    rw [State.slot_onSlot, hslot]
    split
    · rfl
    · exact h
  · next h => exact ⟨.refl s _, by simpa using h, fun _ _ h => h⟩

/-- What every turn of a fold over cores and slots brings about at its own, and no turn undoes, holds at every core and slot of the fold. -/
theorem State.each_slots_reaches {Q : Nat → Nat → State → Prop} {f : State → Nat → Nat → State}
    (hdone : ∀ u c k, Q c k (f u c k)) (hkept : ∀ u c k d j, Q d j u → Q d j (f u c k)) (s : State) (cs : List Nat) {c k : Nat} (hc : c ∈ cs)
    (hk : k < 4) : Q c k (s.each cs fun u c => u.each (List.range 4) fun v k => f v c k) :=
  State.each_reaches (P := fun _ => True) (Q := Q c k) hc trivial (fun _ _ _ => trivial)
    (fun _ _ => State.each_reaches (P := fun _ => True) (Q := Q c k) (List.mem_range.mpr hk) trivial (fun _ _ _ => trivial)
      (fun u _ => hdone u c k) fun u j hu => hkept u c j c k hu)
    fun _ d hu => State.each_keeps (P := Q c k) (List.range 4) hu fun u j hu => hkept u d j c k hu

theorem State.each_slots_sameBut {l : List Piece} {f : State → Nat → Nat → State} (hf : ∀ u c k, State.SameBut l u (f u c k)) (s : State)
    (cs : List Nat) : s.SameBut l (s.each cs fun u c => u.each (List.range 4) fun v k => f v c k) :=
  State.each_keeps (P := fun u => s.SameBut l u) cs (.refl s l) fun _ c hu =>
    State.each_keeps (P := fun u => s.SameBut l u) (List.range 4) hu fun u k hu => hu.trans (hf u c k)

theorem State.SameBut.coresOf_eq {l : List Piece} {s t : State} (h : s.SameBut l t) (hl : .parts ∉ l) (p : Nat) : t.coresOf p = s.coresOf p := by
  unfold State.coresOf
  rw [h.part_eq hl]

theorem State.discardConfig_spec (s : State) (p : Nat) : (s.discardConfig p).part p = PartSt.init
    ∧ bitOf ((s.discardConfig p).fld R.HI_STAT F.HI_STAT_PART_CFG) p = false
    ∧ (∀ c ∈ s.coresOf p, ∀ k, k < 4 → ((s.discardConfig p).slot c k).owner = none ∧ (s.discardConfig p).rd (winReg c k) = 0#32)
    ∧ (s.discardConfig p).scratch = s.scratch := by
  let emptied := s.each (s.coresOf p) fun u c => u.each (List.range 4) fun u k => u.clearSlot c k p
  have hemptied : s.SameBut [.regs, .cores] emptied := State.each_slots_sameBut (fun u c k => (u.clearSlot_spec p c k).1) s _
  let closed := emptied.each (emptied.coresOf p) fun u c => u.each (List.range 4) fun u k => u.setSlotRegs c k 0 0 0
  have hclosed : emptied.SameBut [.regs] closed := State.each_slots_sameBut (fun u c k => u.setSlotRegs_sameBut c k 0 0 0) emptied _
  let forgotten := closed.each (List.range 8) fun u x => (u.wr (u.shareReg p x) 0#32).wr (R.CTX_STAT (u.part p).low x) 0#32
  have hforgotten : closed.SameBut [.regs] forgotten :=
    State.each_keeps (P := fun u => closed.SameBut [.regs] u) _ (.refl closed _) fun u x hu => hu.trans ((State.SameBut.wr u _ _).trans (.wr _ _ _))
  let unset := forgotten.setFld R.HI_STAT F.HI_STAT_PART_CFG (Machine.setBit (forgotten.fld R.HI_STAT F.HI_STAT_PART_CFG) p false)
  have hunset : forgotten.SameBut [.regs] unset := .setFld _ _ _ _
  have hlast : unset.SameBut [.parts] (s.discardConfig p) := State.SameBut.onPart unset p fun _ => .init
  have hregs : emptied.SameBut [.regs, .parts] (s.discardConfig p) :=
    ((hclosed.trans (hforgotten.trans hunset)).mono (by simp)).trans (hlast.mono (by simp))
  refine ⟨unset.part_onPart_self p fun _ => .init, ?_, fun c hc k hk => ⟨?_, ?_⟩, ?_⟩
  · have hfld : (s.discardConfig p).fld R.HI_STAT F.HI_STAT_PART_CFG = unset.fld R.HI_STAT F.HI_STAT_PART_CFG := by
      rw [State.fld, hlast.rd_eq (by simp)]
      rfl
    rw [hfld]
    exact bitOf_fld_setFld_clear _ _ _ _ (by decide) (by decide)
  · rw [hregs.slot_eq (by simp)]
    exact State.each_slots_reaches (Q := fun c k (u : State) => (u.slot c k).owner = none) (fun u c k => (u.clearSlot_spec p c k).2.1)
      (fun u c k d j hu => (u.clearSlot_spec p c k).2.2 d j hu) s _ hc hk
  · have hlt := winReg_lt c hk
    rw [hlast.rd_eq (by simp), State.rd_setFld_ne _ _ _ (by unfold R.HI_STAT; omega)]
    refine State.each_keeps (P := fun u => u.rd (winReg c k) = 0#32) (List.range 8) ?_ fun u x hu => State.rd_wr_zero (State.rd_wr_zero hu _) _
    refine State.each_slots_reaches (Q := fun c k (u : State) => u.rd (winReg c k) = 0#32) (fun u c k => ?_)
      (fun u c k d j hu => State.rd_wr_zero (State.rd_wr_zero (State.rd_wr_zero hu _) _) _) emptied _ ?_ hk
    · exact State.rd_wr_zero (State.rd_wr_zero (State.rd_wr_self u _ _) _) _
    · rwa [hemptied.coresOf_eq (by simp)]
  · rw [hregs.scratch.resolve_left (by simp), hemptied.scratch.resolve_left (by simp)]

theorem partitionResetEnd_discards {s : State} {p cause : Nat} (hreset : (s.part p).resetting = some cause)
    (hstopped : ∀ c ∈ s.coresOf p, s.isRunning c = false ∧ s.fld (statReg c) F.CORE_STAT_ZEROING = 0)
    (hrails : ∀ ch ∈ (s.part p).chans, bitOf s.pwr.held ch = false) (hdiscard : (s.part p).discard = true) :
    ∃ t, exec (.partitionResetEnd p) s = .next t ∧ (t.part p).configured = false
      ∧ bitOf (t.fld R.HI_STAT F.HI_STAT_PART_CFG) p = false ∧ (∀ y, (t.ctx p y).state = .none)
      ∧ (∀ c ∈ s.coresOf p, ∀ k, k < 4 → (t.slot c k).owner = none
        ∧ t.rd (R.CORE_WIN_CFG (chanOf c) (posOf c) k) = 0#32) ∧ t.scratch = s.scratch := by
  obtain ⟨-, -, -, -, hcores, hscratch⟩ := s.resetWork_spec p
  obtain ⟨hpart, hbit, hslots, hscratch'⟩ := (s.resetWork p).discardConfig_spec p
  have hexec := exec_partitionResetEnd hreset hstopped hrails
  rw [hdiscard, if_pos rfl] at hexec
  generalize (s.resetWork p).discardConfig p = v at *
  have hevent := v.eventPart_aside ⟨evPartReset, p, 0, false, leBytes 1 cause⟩
  refine ⟨_, hexec, ?_, ?_, fun y => ?_, fun c hc k hk => ⟨?_, ?_⟩, hevent.scratch_eq.trans (hscratch'.trans hscratch)⟩
  · obtain ⟨u, b, hq⟩ := hevent.parts p
    rw [hq, hpart]
    rfl
  · rw [State.fld, v.rd_eventPart_of_lt _ (by decide)]
    exact hbit
  · rw [hevent.ctx_eq, State.ctx, hpart]
    rfl
  · rw [hevent.same.slot_eq (by simp)]
    exact (hslots c (hcores ▸ hc) k hk).1
  · have hlt := winReg_lt c hk
    exact (v.rd_eventPart_of_lt _ (show winReg c k < 0x02101000 by omega)).trans (hslots c (hcores ▸ hc) k hk).2

theorem recreation : Recreation := by
  intro s p x _ _
  refine ⟨fun hstate hreset hstopped hzeroed hclocks => ?_, fun cause hreset hstopped hrails => ⟨fun hkeep => ?_, fun hdiscard => ?_⟩⟩
  · exact contextTeardownEnd_recreates hstate hreset hstopped hzeroed hclocks
  · exact partitionResetEnd_recreates hreset hstopped hrails hkeep
  · exact partitionResetEnd_discards hreset hstopped hrails hdiscard

/-- Settles O23: what discards a context's work leaves contexts, pools and bytes aside, so the step that starts or ends the teardown decides. -/
theorem teardownAndRecreation : Obligations.TeardownAndRecreation := ⟨faultTearsDown, recreation⟩

end Sys2Proof.Machine

namespace Sys2Proof

/-! ### Words and their formats (R91-R93) -/

/-- The major opcode stands above the 26 bits of a format. -/
theorem major_append (op : BitVec 6) (body : BitVec 26) : (op ++ body : BitVec 32).extractLsb' 26 6 = op :=
  BitVec.extractLsb'_append_eq_left

section
variable (op : BitVec 6)

@[simp] theorem FmtR.major_word (f : FmtR) : (f.word op).extractLsb' 26 6 = op := major_append op _
@[simp] theorem FmtI.major_word (f : FmtI) : (f.word op).extractLsb' 26 6 = op := major_append op _
@[simp] theorem FmtK.major_word (f : FmtK) : (f.word op).extractLsb' 26 6 = op := major_append op _
@[simp] theorem FmtC.major_word (f : FmtC) : (f.word op).extractLsb' 26 6 = op := major_append op _
@[simp] theorem FmtCI.major_word (f : FmtCI) : (f.word op).extractLsb' 26 6 = op := major_append op _
@[simp] theorem FmtP.major_word (f : FmtP) : (f.word op).extractLsb' 26 6 = op := major_append op _
@[simp] theorem FmtM.major_word (f : FmtM) : (f.word op).extractLsb' 26 6 = op := major_append op _
@[simp] theorem FmtAR.major_word (f : FmtAR) : (f.word op).extractLsb' 26 6 = op := major_append op _
@[simp] theorem FmtAI.major_word (f : FmtAI) : (f.word op).extractLsb' 26 6 = op := major_append op _
@[simp] theorem FmtB.major_word (f : FmtB) : (f.word op).extractLsb' 26 6 = op := major_append op _
@[simp] theorem FmtJ.major_word (f : FmtJ) : (f.word op).extractLsb' 26 6 = op := major_append op _
@[simp] theorem FmtL.major_word (f : FmtL) : (f.word op).extractLsb' 26 6 = op := major_append op _
@[simp] theorem FmtT.major_word (f : FmtT) : (f.word op).extractLsb' 26 6 = op := major_append op _
@[simp] theorem FmtW.major_word (f : FmtW) : (f.word op).extractLsb' 26 6 = op := major_append op _
@[simp] theorem FmtZ.major_word (f : FmtZ) : (f.word op).extractLsb' 26 6 = op := major_append op _
@[simp] theorem FmtU1.major_word (f : FmtU1) : (f.word op).extractLsb' 26 6 = op := major_append op _
@[simp] theorem FmtU2.major_word (f : FmtU2) : (f.word op).extractLsb' 26 6 = op := major_append op _

/-! A field is what is left of a word once the fields below it are skipped and those above it are cut off. -/

open BitVec (extractLsb'_append_eq_of_le extractLsb'_append_eq_of_add_le extractLsb'_eq_self)

@[simp] theorem FmtR.ofWord_word (f : FmtR) : FmtR.ofWord (f.word op) = f := by
  simp (disch := decide) only [ofWord, word, extractLsb'_append_eq_of_le, extractLsb'_append_eq_of_add_le, Nat.reduceSub, extractLsb'_eq_self]

@[simp] theorem FmtI.ofWord_word (f : FmtI) : FmtI.ofWord (f.word op) = f := by
  simp (disch := decide) only [ofWord, word, extractLsb'_append_eq_of_le, extractLsb'_append_eq_of_add_le, Nat.reduceSub, extractLsb'_eq_self]

@[simp] theorem FmtK.ofWord_word (f : FmtK) : FmtK.ofWord (f.word op) = f := by
  simp (disch := decide) only [ofWord, word, extractLsb'_append_eq_of_le, extractLsb'_append_eq_of_add_le, Nat.reduceSub, extractLsb'_eq_self]

@[simp] theorem FmtC.ofWord_word (f : FmtC) : FmtC.ofWord (f.word op) = f := by
  simp (disch := decide) only [ofWord, word, extractLsb'_append_eq_of_le, extractLsb'_append_eq_of_add_le, Nat.reduceSub, extractLsb'_eq_self]

@[simp] theorem FmtCI.ofWord_word (f : FmtCI) : FmtCI.ofWord (f.word op) = f := by
  simp (disch := decide) only [ofWord, word, extractLsb'_append_eq_of_le, extractLsb'_append_eq_of_add_le, Nat.reduceSub, extractLsb'_eq_self]

@[simp] theorem FmtP.ofWord_word (f : FmtP) : FmtP.ofWord (f.word op) = f := by
  simp (disch := decide) only [ofWord, word, extractLsb'_append_eq_of_le, extractLsb'_append_eq_of_add_le, Nat.reduceSub, extractLsb'_eq_self]

@[simp] theorem FmtM.ofWord_word (f : FmtM) : FmtM.ofWord (f.word op) = f := by
  simp (disch := decide) only [ofWord, word, extractLsb'_append_eq_of_le, extractLsb'_append_eq_of_add_le, Nat.reduceSub, extractLsb'_eq_self]

@[simp] theorem FmtAR.ofWord_word (f : FmtAR) : FmtAR.ofWord (f.word op) = f := by
  simp (disch := decide) only [ofWord, word, extractLsb'_append_eq_of_le, extractLsb'_append_eq_of_add_le, Nat.reduceSub, extractLsb'_eq_self]

@[simp] theorem FmtAI.ofWord_word (f : FmtAI) : FmtAI.ofWord (f.word op) = f := by
  simp (disch := decide) only [ofWord, word, extractLsb'_append_eq_of_le, extractLsb'_append_eq_of_add_le, Nat.reduceSub, extractLsb'_eq_self]

@[simp] theorem FmtB.ofWord_word (f : FmtB) : FmtB.ofWord (f.word op) = f := by
  simp (disch := decide) only [ofWord, word, extractLsb'_append_eq_of_le, extractLsb'_append_eq_of_add_le, Nat.reduceSub, extractLsb'_eq_self]

@[simp] theorem FmtJ.ofWord_word (f : FmtJ) : FmtJ.ofWord (f.word op) = f := by
  simp (disch := decide) only [ofWord, word, extractLsb'_append_eq_of_le, extractLsb'_append_eq_of_add_le, Nat.reduceSub, extractLsb'_eq_self]

@[simp] theorem FmtL.ofWord_word (f : FmtL) : FmtL.ofWord (f.word op) = f := by
  simp (disch := decide) only [ofWord, word, extractLsb'_append_eq_of_le, extractLsb'_append_eq_of_add_le, Nat.reduceSub, extractLsb'_eq_self]

@[simp] theorem FmtT.ofWord_word (f : FmtT) : FmtT.ofWord (f.word op) = f := by
  simp (disch := decide) only [ofWord, word, extractLsb'_append_eq_of_le, extractLsb'_append_eq_of_add_le, Nat.reduceSub, extractLsb'_eq_self]

@[simp] theorem FmtW.ofWord_word (f : FmtW) : FmtW.ofWord (f.word op) = f := by
  simp (disch := decide) only [ofWord, word, extractLsb'_append_eq_of_le, extractLsb'_append_eq_of_add_le, Nat.reduceSub, extractLsb'_eq_self]

@[simp] theorem FmtZ.ofWord_word (f : FmtZ) : FmtZ.ofWord (f.word op) = f := by
  simp (disch := decide) only [ofWord, word, extractLsb'_append_eq_of_add_le, extractLsb'_eq_self]

@[simp] theorem FmtU1.ofWord_word (f : FmtU1) : FmtU1.ofWord (f.word op) = f := by
  simp (disch := decide) only [ofWord, word, extractLsb'_append_eq_of_le, extractLsb'_append_eq_of_add_le, Nat.reduceSub, extractLsb'_eq_self]

@[simp] theorem FmtU2.ofWord_word (f : FmtU2) : FmtU2.ofWord (f.word op) = f := by
  simp (disch := decide) only [ofWord, word, extractLsb'_append_eq_of_le, extractLsb'_append_eq_of_add_le, Nat.reduceSub, extractLsb'_eq_self]

end

end Sys2Proof

namespace Sys2Proof.Machine

/-- Settles O3: a word's major opcode selects the command that has it, and each format reads back the fields it was made of. -/
theorem decodeEncode : Obligations.DecodeEncode := by
  intro i c w h
  unfold encodeCore at h
  split at h
  case h_45 => cases h
  all_goals
    obtain ⟨rfl, rfl⟩ := Prod.mk.inj (Option.some.inj h)
    simp [decodeCore]

/-! ### ILLEGAL words (R94) -/

theorem State.tokenStall_of_illegal {c : Nat} {w : Word} (h : illegalWord w = true) (tok : Nat) (s : State) : s.tokenStall c w tok = false := by
  simp [State.tokenStall, h]

/-- Settles O4: under a token or not, the issue of an ILLEGAL word is its fault, which `raise_precise` describes. -/
theorem illegalWordFaults : Obligations.IllegalWordFaults := by
  intro i c w s hi hf hl hclean
  obtain ⟨body, hexec⟩ : ∃ body, exec i s = .next (seqIssue c w body s) := by
    obtain ⟨body, hexec | ⟨tok, hexec⟩⟩ := exec_of_encodeCore hi s
    · exact ⟨body, hexec⟩
    · exact ⟨body, by rw [hexec, tokIssue_of_free (s.tokenStall_of_illegal hl tok)]⟩
  have hchecked := s.checked_issued c
  rw [seqIssue_illegal hf hl] at hexec
  exact ⟨_, hexec, State.raise_precise hchecked (State.isRunning_of_fetches hf) hclean (by decide) (by decide),
    hchecked.sameScratch.trans ((State.raise_sameBut _ _ _ _ _ _ _ _).sameScratch (by simp) (by simp) (by simp))⟩

end Sys2Proof.Machine

namespace Sys2Proof.Machine

/-! ### Values of words (R9, R61, R96, R97) -/

theorem toNat_shl (a : Word) (n : Nat) : (a <<< n).toNat = a.toNat * 2 ^ n % 2 ^ 32 := by
  rw [BitVec.toNat_shiftLeft, Nat.shiftLeft_eq]

theorem toNat_shr (a : Word) (n : Nat) : (a >>> n).toNat = a.toNat / 2 ^ n := by
  rw [BitVec.toNat_ushiftRight, Nat.shiftRight_eq_div_pow]

theorem toInt_sar (a : Word) (n : Nat) : (a.sshiftRight n).toInt = Int.fdiv a.toInt (2 ^ n) := by
  rw [BitVec.toInt_sshiftRight, Int.shiftRight_eq_div_pow, Int.fdiv_eq_ediv_of_nonneg _ (by positivity)]
  push_cast
  rfl

/-- The high word of a signed product is in range. -/
theorem toInt_mulHigh (a b : Word) :
    (BitVec.ofInt 32 (Int.fdiv (a.toInt * b.toInt) (2 ^ 32))).toInt = Int.fdiv (a.toInt * b.toInt) (2 ^ 32) := by
  have hle : a.toInt * b.toInt ≤ 2 ^ 62 := BitVec.toInt_mul_toInt_le
  have hge : -2 ^ 62 ≤ a.toInt * b.toInt := BitVec.le_toInt_mul_toInt
  rw [BitVec.toInt_ofInt, Int.fdiv_eq_ediv_of_nonneg _ (by decide)]
  exact Int.bmod_eq_of_le (by omega) (by omega)

theorem toNat_mulHighU (a b : Word) : (BitVec.ofNat 32 (a.toNat * b.toNat / 2 ^ 32)).toNat = a.toNat * b.toNat / 2 ^ 32 := by
  rw [BitVec.toNat_ofNat]
  exact Nat.mod_eq_of_lt (Nat.div_lt_of_lt_mul (Nat.mul_lt_mul'' a.isLt b.isLt))

/-- R96: what each code of sc.alu but LCRD gives. -/
theorem aluSpec_aluOp (fn : Nat) (a b : Word) : aluSpec fn a b (aluOp fn a b) := by
  refine ⟨?add, ?sub, ?and, ?or, ?xor, ?shl, ?shr, ?sar, ?mul, ?mulh, ?mulhu, ?min, ?max, ?minu, ?maxu⟩ <;> rintro rfl
  case add => exact BitVec.toNat_add a b
  case sub =>
    have h : a - b + b = a := BitVec.sub_add_cancel a b
    exact (BitVec.toNat_add _ _).symm.trans (congrArg BitVec.toNat h)
  case and => exact fun i _ => BitVec.getLsbD_and
  case or => exact fun i _ => BitVec.getLsbD_or
  case xor => exact fun i _ => BitVec.getLsbD_xor
  case shl => exact toNat_shl a _
  case shr => exact toNat_shr a _
  case sar => exact toInt_sar a _
  case mul => exact BitVec.toNat_mul a b
  case mulh => exact toInt_mulHigh a b
  case mulhu => exact toNat_mulHighU a b
  case min => simp only [aluOp, BitVec.sle_iff_toInt_le, min_def, apply_ite BitVec.toInt]
  case max => simp only [aluOp, BitVec.sle_iff_toInt_le, max_comm a.toInt, max_def, apply_ite BitVec.toInt]
  case minu => simp only [aluOp, BitVec.ule_iff_toNat_le, min_def, apply_ite BitVec.toNat]
  case maxu => simp only [aluOp, BitVec.ule_iff_toNat_le, max_comm a.toNat, max_def, apply_ite BitVec.toNat]

/-- R96: what sc.alu puts in rd, the loop counter of LCRD included. -/
theorem aluResult_spec (f : FmtR) (b : Slot) :
    aluSpec f.fn.toNat (b.s f.rs1.toNat) (b.s f.rs2.toNat) (aluResult f b)
    ∧ (f.fn = 15#8 → (aluResult f b).toNat = ((b.loops.find? fun l => l.n == f.rs1.toNat).elim 0 Loop.count) % 2 ^ 32) := by
  unfold aluResult
  split
  case isTrue h =>
    refine ⟨by simp [aluSpec, h], fun _ => ?_⟩
    rw [BitVec.toNat_ofNat, Slot.lc]
    cases List.find? _ b.loops <;> rfl
  case isFalse h => exact ⟨aluSpec_aluOp _ _ _, fun he => absurd (congrArg BitVec.toNat he) h⟩

theorem add_signExtend (a : Word) {n : Nat} (imm : BitVec n) : a + imm.signExtend 32 = BitVec.ofInt 32 (a.toInt + imm.toInt) := by
  rw [BitVec.ofInt_add, BitVec.ofInt_toInt]
  rfl

theorem getLsbD_zeroExtend {n i : Nat} (imm : BitVec n) (hi : i < 32) : (imm.zeroExtend 32).getLsbD i = imm.getLsbD i := by
  simp [hi]

/-- R97: the parts of what sc.lui puts in rd. -/
theorem toNat_append_low (imm : BitVec 18) (a : Word) :
    (imm ++ a.extractLsb' 0 14 : BitVec 32).toNat = imm.toNat * 2 ^ 14 + a.toNat % 2 ^ 14 := by
  have hlow : (a.extractLsb' 0 14).toNat = a.toNat % 2 ^ 14 := by simp
  rw [← hlow, ← Nat.shiftLeft_eq, Nat.shiftLeft_add_eq_or_of_lt (BitVec.isLt _)]
  exact BitVec.toNat_append _ _

/-- R97: what sc.shi puts in rd, by the kind of shift. -/
theorem shiResult_spec (imm : BitVec 13) (a : Word) :
    (imm.toNat / 32 % 4 = 0 → (shiResult imm a).toNat = a.toNat * 2 ^ (imm.toNat % 32) % 2 ^ 32)
    ∧ (imm.toNat / 32 % 4 = 1 → (shiResult imm a).toNat = a.toNat / 2 ^ (imm.toNat % 32))
    ∧ (imm.toNat / 32 % 4 = 2 → (shiResult imm a).toInt = Int.fdiv a.toInt (2 ^ (imm.toNat % 32))) := by
  refine ⟨fun h => ?_, fun h => ?_, fun h => ?_⟩ <;> simp only [shiResult, h]
  · exact toNat_shl a _
  · exact toNat_shr a _
  · exact toInt_sar a _

/-- R61, R62: an address from its parts. -/
theorem toNat_mkAddr (plane : Bool) (off : Int) : (mkAddr plane off).toNat = b2n plane * 2 ^ 31 + (off % 2 ^ 22).toNat := by
  have hp := b2n_le_one plane
  unfold mkAddr wrapN
  rw [BitVec.toNat_ofNat]
  omega

/-- R61: the bits of an address register that hold PLANE and OFFSET. -/
theorem mkAddr_aPlane_aOff (r : Word) : mkAddr (aPlane r) (aOff r) = r &&& 0x803FFFFF#32 := by
  refine BitVec.eq_of_getLsbD_eq fun i hi => ?_
  have hmask : ∀ i < 32, (0x803FFFFF#32).getLsbD i = (decide (i < 22) || decide (i = 31)) := by decide
  have hplane : b2n (aPlane r) = r.toNat / 2 ^ 31 := by
    have hlt := r.isLt
    simp only [b2n, aPlane, bitOf, decide_eq_true_eq]
    split <;> omega
  have hval : (mkAddr (aPlane r) (aOff r)).toNat = 2 ^ 31 * (r.toNat / 2 ^ 31) + r.toNat % 2 ^ 22 := by
    rw [toNat_mkAddr, hplane, aOff, bitsOf]
    omega
  rw [BitVec.getLsbD_and, hmask i hi]
  unfold BitVec.getLsbD
  rw [hval, Nat.testBit_two_pow_mul_add _ ((Nat.mod_lt _ (by decide)).trans (by decide : 2 ^ 22 < 2 ^ 31)), Nat.testBit_mod_two_pow,
    Nat.testBit_div_two_pow]
  split
  case isTrue h => simp only [Nat.ne_of_lt h, decide_false, Bool.or_false, Bool.and_comm]
  case isFalse h =>
    obtain rfl : i = 31 := by omega
    simp

/-! ### Register instructions (R96, R97, R101) -/

section
variable {c : Nat} {w : Word} {s : State}

/-- A scalar register instruction that executes. -/
theorem regIssue_setS (h : s.Executes c w) (rd : Nat) (g : Slot → Word) :
    let t := regIssue c w (fun b => b.setS rd (g b)) s
    (t.slot c (s.active c)).s rd = g (s.bank c)
      ∧ (s.bank c).Keeps (some rd) none none (t.slot c (s.active c)) ∧ s.CoreFrame c (s.active c) t ∧ s.SameScratch t := by
  intro t
  obtain ⟨hslot, hframe⟩ := regIssue_spec h fun b => b.setS rd (g b)
  refine ⟨?_, ?_, hframe⟩ <;> rw [hslot]
  · exact Slot.s_setS_self _ _ _
  · exact Slot.keeps_after (Slot.keeps_setS _ _ _) _

/-- An address register instruction that executes. -/
theorem regIssue_setA (h : s.Executes c w) (aD : Nat) (g : Slot → Word) :
    let t := regIssue c w (fun b => b.setA aD (g b)) s
    (t.slot c (s.active c)).a aD = g (s.bank c)
      ∧ (s.bank c).Keeps none (some aD) none (t.slot c (s.active c)) ∧ s.CoreFrame c (s.active c) t ∧ s.SameScratch t := by
  intro t
  obtain ⟨hslot, hframe⟩ := regIssue_spec h fun b => b.setA aD (g b)
  refine ⟨?_, ?_, hframe⟩ <;> rw [hslot]
  · exact Slot.a_setA_self _ _ _
  · exact Slot.keeps_after (Slot.keeps_setA _ _ _) _

end

/-! ### Codes that no instruction has (R94, R96, R97, R101) -/

theorem illegalWord_scAlu (f : FmtR) (h : 15 < f.fn.toNat ∨ (f.fn = 15#8 ∧ 3 < f.rs1.toNat)) : illegalWord (f.word 1#6) = true := by
  have hop : opcodeOf (f.word 1#6) = 1 := Laws.Opcode.opcode_of_append _ _
  have hfn : (f.word 1#6).extractLsb' 0 8 = f.fn := congrArg FmtR.fn (f.ofWord_word 1#6)
  have hrs1 : (f.word 1#6).extractLsb' 13 5 = f.rs1 := congrArg FmtR.rs1 (f.ofWord_word 1#6)
  simp only [illegalWord, hop, Nat.reduceAdd, Nat.reduceSub, toNat_field, hfn, hrs1]
  obtain h | ⟨h15, h⟩ := h
  · simp [h]
  · simp [h15, h]

theorem illegalWord_scShi (f : FmtI) (h : f.imm.toNat / 32 % 4 = 3 ∨ f.imm.toNat / 128 ≠ 0) : illegalWord (f.word 6#6) = true := by
  have hop : opcodeOf (f.word 6#6) = 6 := Laws.Opcode.opcode_of_append _ _
  have himm : (f.word 6#6).toNat / 2 ^ 0 % 2 ^ 13 = f.imm.toNat := by
    rw [toNat_field]
    exact congrArg (BitVec.toNat ∘ FmtI.imm) (f.ofWord_word 6#6)
  simp only [illegalWord, hop, Bool.or_eq_true, decide_eq_true_eq]
  omega

theorem illegalWord_scAddr (f : FmtAR) (h : 3 < f.fn.toNat) : illegalWord (f.word 15#6) = true := by
  have hop : opcodeOf (f.word 15#6) = 15 := Laws.Opcode.opcode_of_append _ _
  have hfn : (f.word 15#6).extractLsb' 0 8 = f.fn := congrArg FmtAR.fn (f.ofWord_word 15#6)
  simp only [illegalWord, hop, Nat.reduceAdd, Nat.reduceSub, toNat_field, hfn, decide_eq_true h]

/-! ### Scalar registers, immediates, constants (R96, R97) -/

theorem scalarAlu : ScalarAlu := by
  refine ⟨fun c f s h => ?_, fun f => ⟨fun h => illegalWord_scAlu f (.inl h), fun h15 h => illegalWord_scAlu f (.inr ⟨h15, h⟩)⟩⟩
  obtain ⟨hrd, hrest⟩ := regIssue_setS h f.rd.toNat (aluResult f)
  obtain ⟨halu, hlcrd⟩ := aluResult_spec f (s.bank c)
  refine ⟨_, rfl, ?_, ?_, hrest⟩ <;> rw [hrd]
  · exact halu
  · exact hlcrd

theorem scalarImmediate : ScalarImmediate := by
  intro c s
  refine ⟨fun f h => ?addi, fun f h => ?andi, fun f h => ?ori, fun f h => ?xori, fun f h => ?shi, illegalWord_scShi, fun f h => ?ldi,
    fun f h => ?lui⟩
  case addi =>
    obtain ⟨hrd, hrest⟩ := regIssue_setS h f.rd.toNat fun b => b.s f.rs1.toNat + f.imm.signExtend 32
    exact ⟨_, rfl, hrd.trans (add_signExtend _ _), hrest⟩
  case andi =>
    obtain ⟨hrd, hrest⟩ := regIssue_setS h f.rd.toNat fun b => b.s f.rs1.toNat &&& f.imm.zeroExtend 32
    exact ⟨_, rfl, fun i hi => by rw [hrd, BitVec.getLsbD_and, getLsbD_zeroExtend _ hi], hrest⟩
  case ori =>
    obtain ⟨hrd, hrest⟩ := regIssue_setS h f.rd.toNat fun b => b.s f.rs1.toNat ||| f.imm.zeroExtend 32
    exact ⟨_, rfl, fun i hi => by rw [hrd, BitVec.getLsbD_or, getLsbD_zeroExtend _ hi], hrest⟩
  case xori =>
    obtain ⟨hrd, hrest⟩ := regIssue_setS h f.rd.toNat fun b => b.s f.rs1.toNat ^^^ f.imm.zeroExtend 32
    exact ⟨_, rfl, fun i hi => by rw [hrd, BitVec.getLsbD_xor, getLsbD_zeroExtend _ hi], hrest⟩
  case shi =>
    obtain ⟨hrd, hrest⟩ := regIssue_setS h f.rd.toNat fun b => shiResult f.imm (b.s f.rs1.toNat)
    obtain ⟨hshl, hshr, hsar⟩ := shiResult_spec f.imm ((s.bank c).s f.rs1.toNat)
    refine ⟨_, rfl, ?_, ?_, ?_, hrest⟩ <;> rw [hrd]
    · exact hshl
    · exact hshr
    · exact hsar
  case ldi =>
    obtain ⟨hrd, hrest⟩ := regIssue_setS h f.rd.toNat fun _ => f.imm.signExtend 32
    exact ⟨_, rfl, by rw [hrd, BitVec.toInt_signExtend_of_le (by decide)], hrest⟩
  case lui =>
    obtain ⟨hrd, hrest⟩ := regIssue_setS h f.rd.toNat fun b => (f.imm ++ (b.s f.rd.toNat).extractLsb' 0 14 : BitVec 32)
    exact ⟨_, rfl, (congrArg BitVec.toNat hrd).trans (toNat_append_low _ _), hrest⟩

/-- Settles O6: each form writes rd by `regIssue_setS`; its value is a fact about words. -/
theorem scalarAluAndImmediates : Obligations.ScalarAluAndImmediates := ⟨scalarAlu, scalarImmediate⟩

/-! ### Address arithmetic (R101) -/

/-- What sc.addr puts in aD under AADD, ASUB and ASET. -/
def addrValue (f : FmtAR) (b : Slot) : Word :=
  let step : Int := ((b.s f.rs.toNat).toNat * 2 ^ f.sh.toNat : Nat)
  if f.fn = 0#8 then mkAddr (aPlane (b.a f.aS.toNat)) (aOff (b.a f.aS.toNat) + step)
  else if f.fn = 1#8 then mkAddr (aPlane (b.a f.aS.toNat)) (aOff (b.a f.aS.toNat) - step)
  else b.s f.rs.toNat &&& 0x803FFFFF#32

/-- The codes of sc.addr: AGET writes a scalar register, the others an address register. -/
theorem addrOp_eq {f : FmtAR} (h : ¬3 < f.fn.toNat) (b : Slot) :
    addrOp f b = if f.fn = 3#8 then b.setS f.rs.toNat (b.a f.aS.toNat) else b.setA f.aD.toNat (addrValue f b) := by
  have hfn : f.fn = 0#8 ∨ f.fn = 1#8 ∨ f.fn = 2#8 ∨ f.fn = 3#8 := by bv_omega
  obtain hfn | hfn | hfn | hfn := hfn <;> simp [addrOp, addrValue, hfn, mkAddr_aPlane_aOff]

theorem addrValue_spec (f : FmtAR) (b : Slot) :
    (f.fn = 0#8 → (addrValue f b).toNat = b2n (aPlane (b.a f.aS.toNat)) * 2 ^ 31
        + (aOff (b.a f.aS.toNat) + (b.s f.rs.toNat).toNat * 2 ^ f.sh.toNat) % 2 ^ 22)
    ∧ (f.fn = 1#8 → (addrValue f b).toNat = b2n (aPlane (b.a f.aS.toNat)) * 2 ^ 31
        + (((aOff (b.a f.aS.toNat) : Int) - ((b.s f.rs.toNat).toNat * 2 ^ f.sh.toNat : Nat)) % 2 ^ 22).toNat)
    ∧ (f.fn = 2#8 → addrValue f b = b.s f.rs.toNat &&& 0x803FFFFF#32) := by
  unfold addrValue
  refine ⟨fun h => ?add, fun h => ?sub, fun h => ?set⟩
  case add =>
    rw [if_pos h, toNat_mkAddr]
    generalize (b.s f.rs.toNat).toNat * 2 ^ f.sh.toNat = step
    omega
  case sub => rw [if_neg (by simp [h]), if_pos h, toNat_mkAddr]
  case set => rw [if_neg (by simp [h]), if_neg (by simp [h])]

/-- Settles O8: AGET is a scalar register instruction and every other form an address register instruction whose result is `mkAddr`. -/
theorem addressArithmetic : Obligations.AddressArithmetic := by
  intro c s
  refine ⟨fun f h => ?addr, illegalWord_scAddr, fun f h => ?aaddi⟩
  case addr =>
    have hlegal : ¬3 < f.fn.toNat := fun hfn => by simpa [illegalWord_scAddr f hfn] using h.legal
    have hexec : exec (.scAddr c f) s = .next (regIssue c (f.word 15#6) (addrOp f) s) := rfl
    rw [funext (addrOp_eq hlegal)] at hexec
    by_cases hget : f.fn = 3#8
    · simp only [hget, ↓reduceIte] at hexec ⊢
      obtain ⟨hrs, hrest⟩ := regIssue_setS h f.rs.toNat fun b => b.a f.aS.toNat
      exact ⟨_, hexec, by simp, by simp, by simp, fun _ => hrs, hrest⟩
    · simp only [hget, ↓reduceIte] at hexec ⊢
      obtain ⟨haD, hrest⟩ := regIssue_setA h f.aD.toNat (addrValue f)
      obtain ⟨hadd, hsub, hset⟩ := addrValue_spec f (s.bank c)
      refine ⟨_, hexec, ?_, ?_, ?_, False.elim, hrest⟩ <;> rw [haD]
      · exact hadd
      · exact hsub
      · exact hset
  case aaddi =>
    obtain ⟨haD, hrest⟩ := regIssue_setA h f.aD.toNat fun b => mkAddr (aPlane (b.a f.aS.toNat)) ((aOff (b.a f.aS.toNat) : Int) + f.imm.toInt)
    exact ⟨_, rfl, (congrArg BitVec.toNat haD).trans (toNat_mkAddr _ _), hrest⟩

end Sys2Proof.Machine

namespace Sys2Proof.Machine

/-! ### The banks of a plane (R130, R133)

A row of a plane holds whole kilobytes, so only the skewed column `(i + j) % 32` decides the bank. -/

/-- R133: the skew alone decides the bank of a cell; `2 ^ 32` and each row are whole multiples of the 1,024 bytes that the 32 banks span. -/
theorem bankOf_planeCell (baseKb pitch i j : Nat) : bankOf (planeCell baseKb pitch i j) = (i + j) % 32 := by
  unfold bankOf planeCell
  generalize baseKb + i * pitch = row
  omega

/-- Settles O13: the bank is the skewed column, and `(i + j) % 32` tells 32 consecutive columns, and 32 consecutive rows, apart. -/
theorem planeBanks : Obligations.PlaneBanks := by
  intro baseKb pitch i j hj
  simp only [bankOf_planeCell]
  refine ⟨rfl, trivial, fun j' hj' hbank => ?_, fun d d' hd hd' hbank => ?_⟩
  · omega
  · omega

end Sys2Proof.Machine

namespace Sys2Proof.Machine

/-! ### The memories stay canonical: the shape of the argument

`State.memOk` speaks of six memories. Few functions of the model write one of them; every other function leaves all six alone. A function that
leaves them alone has an equation `(s.f …).memOk = s.memOk`, and one that writes, or calls one that writes, keeps `s.memOk = true`. Both are
simp lemmas, so that a function's own lemma follows from those of the functions it calls, along its branches. They stand in the order of the
model's files, down to each command and the clock cycle. -/

theorem State.memOk_congr {s t : State} (h : (t.scratch, t.tableMem, t.host.mem, t.ing.swMem, t.sec.psram, t.sec.kbuf)
    = (s.scratch, s.tableMem, s.host.mem, s.ing.swMem, s.sec.psram, s.sec.kbuf)) : t.memOk = s.memOk := by
  simp only [Prod.mk.injEq] at h
  simp only [State.memOk, h]

theorem State.SameBut.memOk_eq {l : List Piece} {s t : State} (h : s.SameBut l t)
    (hl : ∀ p ∈ l, p ∉ [Piece.scratch, .tableMem, .host, .ing, .sec]) : t.memOk = s.memOk := by
  have out {p : Piece} (hp : p ∈ [Piece.scratch, .tableMem, .host, .ing, .sec]) : p ∉ l := fun hpl => hl p hpl hp
  refine State.memOk_congr ?_
  rw [h.scratch.resolve_left (out (by simp)), h.tableMem.resolve_left (out (by simp)), h.host.resolve_left (out (by simp)),
    h.ing.resolve_left (out (by simp)), h.sec.resolve_left (out (by simp))]

variable (s : State)

theorem State.memOk_iff : s.memOk = true ↔ s.scratch.wf = true ∧ s.tableMem.wf = true ∧ s.host.mem.wf = true ∧ s.ing.swMem.wf = true
    ∧ s.sec.psram.wf = true ∧ s.sec.kbuf.wf = true := by
  simp [State.memOk, and_assoc]

@[simp] theorem State.memOk_ite (c : Prop) [Decidable c] (t u : State) :
    (if c then t else u).memOk = if c then t.memOk else u.memOk := apply_ite State.memOk c t u

@[simp] theorem State.memOk_hold (x : FMap (Option Word)) : State.memOk { s with hold := x } = s.memOk := State.memOk_congr rfl
@[simp] theorem State.memOk_lastRead (x : List Word) : State.memOk { s with lastRead := x } = s.memOk := State.memOk_congr rfl
@[simp] theorem State.memOk_ue (x : FMap Bool) : State.memOk { s with ue := x } = s.memOk := State.memOk_congr rfl
@[simp] theorem State.memOk_ce (x : FMap Bool) : State.memOk { s with ce := x } = s.memOk := State.memOk_congr rfl
@[simp] theorem State.memOk_words (x : FMap (List Change)) : State.memOk { s with words := x } = s.memOk := State.memOk_congr rfl
@[simp] theorem State.memOk_migr (x : List Migr) : State.memOk { s with migr := x } = s.memOk := State.memOk_congr rfl
@[simp] theorem State.memOk_tests (x : TestSt) : State.memOk { s with tests := x } = s.memOk := State.memOk_congr rfl
@[simp] theorem State.memOk_trc (x : TraceSt) : State.memOk { s with trc := x } = s.memOk := State.memOk_congr rfl
@[simp] theorem State.memOk_safe (x : SafeSt) : State.memOk { s with safe := x } = s.memOk := State.memOk_congr rfl
@[simp] theorem State.memOk_now (x : Nat) : State.memOk { s with now := x } = s.memOk := State.memOk_congr rfl
@[simp] theorem State.memOk_fresh (x : Nat) : State.memOk { s with fresh := x } = s.memOk := State.memOk_congr rfl

@[simp] theorem State.memOk_host (x : HostSt) (h : x.mem = s.host.mem) : State.memOk { s with host := x } = s.memOk :=
  by
  simp only [State.memOk, h]

@[simp] theorem State.memOk_ing (x : IngSt) (h : x.swMem = s.ing.swMem) : State.memOk { s with ing := x } = s.memOk :=
  by
  simp only [State.memOk, h]

@[simp] theorem State.memOk_sec (x : SecSt) (h : x.psram = s.sec.psram) (h' : x.kbuf = s.sec.kbuf) :
    State.memOk { s with sec := x } = s.memOk := by
  simp only [State.memOk, h, h']

@[simp] theorem State.onHost_memOk (f : HostSt → HostSt) (h : (f s.host).mem = s.host.mem) : (s.onHost f).memOk = s.memOk :=
  s.memOk_host _ h

@[simp] theorem State.onSec_memOk (f : SecSt → SecSt) (h : (f s.sec).psram = s.sec.psram) (h' : (f s.sec).kbuf = s.sec.kbuf) :
    (s.onSec f).memOk = s.memOk := s.memOk_sec _ h h'

@[simp] theorem State.foldl_memOk {α : Type} (l : List α) (f : State → α → State) (h : ∀ u a, (f u a).memOk = u.memOk) :
    (l.foldl f s).memOk = s.memOk := by
  induction l generalizing s with
  | nil => rfl
  | cons a l ih => rw [List.foldl_cons, ih, h]

@[simp] theorem State.each_memOk {α : Type} (l : List α) (f : State → α → State) (h : ∀ u a, (f u a).memOk = u.memOk) :
    (s.each l f).memOk = s.memOk := s.foldl_memOk l f h

theorem memOk_fst {α : Type} {s t : State} {p : State × α} {a : α} (h : p = (t, a)) (hp : p.1.memOk = s.memOk) : t.memOk = s.memOk := by
  subst h
  exact hp

theorem State.memOk_scratch {s t : State} (h : s.memOk = true) (hscratch : t.scratch.wf = true)
    (hrest : (t.tableMem, t.host.mem, t.ing.swMem, t.sec.psram, t.sec.kbuf)
      = (s.tableMem, s.host.mem, s.ing.swMem, s.sec.psram, s.sec.kbuf)) : t.memOk = true := by
  simp only [Prod.mk.injEq] at hrest
  rw [State.memOk_iff] at h ⊢
  simp only [hrest]
  exact ⟨hscratch, h.2⟩

theorem foldl_wf {α : Type} {m : Memory} (l : List α) {f : Memory → α → Memory} (h : m.wf = true)
    (hf : ∀ m a, Memory.wf m = true → (f m a).wf = true) : (l.foldl f m).wf = true :=
  List.foldlRecOn l f h fun m hm a _ => hf m a hm

theorem State.each_memOk_of {α : Type} {s : State} (l : List α) {f : State → α → State} (h : s.memOk = true)
    (hf : ∀ u a, u.memOk = true → (f u a).memOk = true) : (s.each l f).memOk = true := State.each_keeps l h hf

@[simp] theorem Memory.wf_nil : Memory.wf [] = true := rfl

theorem State.onSec_memOk_of (s : State) (f : SecSt → SecSt) (h : s.memOk = true) (hpsram : (f s.sec).psram.wf = true)
    (hkbuf : (f s.sec).kbuf.wf = true) : (s.onSec f).memOk = true := by
  obtain ⟨hscratch, htable, hhost, hing, -⟩ := s.memOk_iff.mp h
  exact (State.memOk_iff _).mpr ⟨hscratch, htable, hhost, hing, hpsram, hkbuf⟩

/-- An outcome that goes on leaves the memories canonical. -/
def OutcomeMemOk (o : Host.Outcome State Fault Refusal) : Prop := ∀ t, o = .next t → t.memOk = true

@[simp] theorem outcomeMemOk_ok (s : State) : OutcomeMemOk (ok s) ↔ s.memOk = true :=
  ⟨fun h => h s rfl, fun h _ ht => Host.Outcome.next.inj ht ▸ h⟩

@[simp] theorem outcomeMemOk_next (s : State) : OutcomeMemOk (.next s) ↔ s.memOk = true := outcomeMemOk_ok s

theorem memOk_of_fst {α : Type} {t : State} {p : State × α} {a : α} (ht : p = (t, a)) (h : p.1.memOk = true) : t.memOk = true := by
  rw [ht] at h
  exact h

theorem memOk_of_snd {α : Type} {t : State} {p : α × State} {a : α} (ht : p = (a, t)) (h : p.2.memOk = true) : t.memOk = true := by
  rw [ht] at h
  exact h

/-! ### Computations of unit operations -/

/-- A unit operation's work leaves the memories canonical. -/
def U.KeepsMem {α : Type} (m : U α) : Prop := ∀ s : State, s.memOk = true → (m.go s).2.memOk = true

namespace U.KeepsMem
variable {α β : Type}

theorem pure (a : α) : (Pure.pure a : U α).KeepsMem := fun _ h => h

theorem throw (e : Flt) : (MonadExcept.throw e : U α).KeepsMem := fun _ h => h

theorem set {s : State} (h : s.memOk = true) : (MonadStateOf.set s : U PUnit).KeepsMem := fun _ _ => h

theorem update {f : State → State} (hf : ∀ s : State, s.memOk = true → (f s).memOk = true) : (modify f : U PUnit).KeepsMem :=
  fun s hs => hf s hs

theorem bind {x : U α} {f : α → U β} (hx : x.KeepsMem) (hf : ∀ a, (f a).KeepsMem) : (x >>= f).KeepsMem := by
  intro s hs
  have hxs := hx s hs
  unfold U.go at hxs ⊢
  rw [ExceptT.run_bind, StateT.run_bind]
  revert hxs
  generalize StateT.run (ExceptT.run x) s = r
  obtain ⟨e | a, t⟩ := r
  · exact fun hxs => hxs
  · exact fun hxs => hf a t hxs

theorem get_bind {f : State → U β} (hf : ∀ s : State, s.memOk = true → (f s).KeepsMem) : ((get : U State) >>= f).KeepsMem :=
  fun s hs => hf s hs s hs

/-- A test that faults before the rest of the work. -/
theorem unless_throw {c : Prop} [Decidable c] {e : Flt} {x : U β} (hx : x.KeepsMem) :
    (if c then (MonadExcept.throw e : U PUnit) >>= fun _ => x else x).KeepsMem := by
  split
  · exact .bind (.throw e) fun _ => hx
  · exact hx

theorem ite {c : Prop} [Decidable c] {x y : U α} (hx : x.KeepsMem) (hy : y.KeepsMem) : (if c then x else y).KeepsMem := by
  split
  · exact hx
  · exact hy

theorem ite_bind {c : Prop} [Decidable c] {x y : U α} {f : α → U β} (hx : x.KeepsMem) (hy : y.KeepsMem) (hf : ∀ a, (f a).KeepsMem) :
    (if c then x >>= f else y >>= f).KeepsMem := .ite (hx.bind hf) (hy.bind hf)

theorem forM (l : List α) {f : α → U PUnit} (hf : ∀ a, (f a).KeepsMem) : (l.forM f).KeepsMem := by
  induction l with
  | nil => exact .pure _
  | cons a l ih => exact .bind (hf a) fun _ => ih

theorem foldlM (l : List α) {f : β → α → U β} (hf : ∀ b a, (f b a).KeepsMem) (b : β) : (l.foldlM f b).KeepsMem := by
  induction l generalizing b with
  | nil => exact .pure _
  | cons a l ih => exact .bind (hf b a) fun b' => ih b'

theorem mapM (l : List α) {f : α → U β} (hf : ∀ a, (f a).KeepsMem) : (l.mapM f).KeepsMem := by
  rw [List.mapM_eq_reverse_foldlM_cons]
  exact .bind (.foldlM l (fun _ a => .bind (hf a) fun _ => .pure _) []) fun _ => .pure _

end U.KeepsMem

/-! ### Registers, cores, windows, faults, tokens (Ops.lean) -/

@[simp] theorem State.wr_memOk (s : State) (a : Nat) (v : Word) : (s.wr a v).memOk = s.memOk := State.memOk_congr rfl
@[simp] theorem State.setFld_memOk (s : State) (a : Nat) (f : Fld) (x : Nat) : (s.setFld a f x).memOk = s.memOk := State.memOk_congr rfl
@[simp] theorem State.setBit_memOk (s : State) (a : Nat) (f : Fld) : (s.setBit a f).memOk = s.memOk := State.memOk_congr rfl
@[simp] theorem State.incFld_memOk (s : State) (a : Nat) (f : Fld) (k : Nat) : (s.incFld a f k).memOk = s.memOk := State.memOk_congr rfl
@[simp] theorem State.draw_memOk (s : State) : s.draw.2.memOk = s.memOk := State.memOk_congr rfl
@[simp] theorem State.drawBytes_memOk (s : State) (n : Nat) : (s.drawBytes n).2.memOk = s.memOk := State.memOk_congr rfl
@[simp] theorem State.drawKey_memOk (s : State) : s.drawKey.2.memOk = s.memOk := State.memOk_congr rfl
@[simp] theorem State.onCore_memOk (s : State) (c : Nat) (f : CoreSt → CoreSt) : (s.onCore c f).memOk = s.memOk := State.memOk_congr rfl
@[simp] theorem State.onSlot_memOk (s : State) (c k : Nat) (f : Slot → Slot) : (s.onSlot c k f).memOk = s.memOk := State.memOk_congr rfl
@[simp] theorem State.setPart_memOk (s : State) (p : Nat) (x : PartSt) : (s.setPart p x).memOk = s.memOk := State.memOk_congr rfl
@[simp] theorem State.onPart_memOk (s : State) (p : Nat) (f : PartSt → PartSt) : (s.onPart p f).memOk = s.memOk := State.memOk_congr rfl
@[simp] theorem State.onCtx_memOk (s : State) (p k : Nat) (f : CtxSt → CtxSt) : (s.onCtx p k f).memOk = s.memOk := State.memOk_congr rfl

@[simp] theorem State.putSlice_memOk (s : State) (p off : Nat) (bs : List Byte) (h : s.memOk = true) : (s.putSlice p off bs).memOk = true := by
  obtain ⟨hscratch, htable, hrest⟩ := s.memOk_iff.mp h
  exact (State.memOk_iff _).mpr ⟨hscratch, foldl_wf _ htable fun m b hm => m.wf_put _ _ hm, hrest⟩

@[simp] theorem State.count_memOk (s : State) (core : Option Nat) (unit : Nat) (own : Option (Nat × Nat)) (code n : Nat) :
    (s.count core unit own code n).memOk = s.memOk := by
  simp [State.count]

@[simp] theorem State.settleCnt_memOk (s : State) (key : Nat) : (s.settleCnt key).memOk = s.memOk := (s.settleCnt_sameBut key).memOk_eq (by decide)
@[simp] theorem State.mark_memOk (s : State) (r : TraceRec) : (s.mark r).memOk = s.memOk := (s.mark_sameBut r).memOk_eq (by decide)

@[simp] theorem State.markCore_memOk (s : State) (c unit event : Nat) (own : Nat × Nat) (tok pc : Nat) :
    (s.markCore c unit event own tok pc).memOk = s.memOk :=
  (s.markCore_sameBut c unit event own tok pc).memOk_eq (by decide)

@[simp] theorem State.markCp_memOk (s : State) (ch event : Nat) (own : Nat × Nat) (arg : Nat) : (s.markCp ch event own arg).memOk = s.memOk := by
  simp [State.markCp]

@[simp] theorem State.markChan_memOk (s : State) (ch event arg : Nat) : (s.markChan ch event arg).memOk = s.memOk := by
  simp only [State.markChan]
  repeat' split
  all_goals simp

@[simp] theorem State.raiseAt_memOk (order : Option Nat) (s : State) (c k cls pc faddr : Nat) (precise : Bool) (tok : Option Nat) :
    (State.raiseAt order s c k cls pc faddr precise tok).memOk = s.memOk :=
  (s.raiseAt_sameBut order c k cls pc faddr precise tok).memOk_eq (by decide)

@[simp] theorem State.raise_memOk (s : State) (c k cls pc faddr : Nat) (precise : Bool) (tok : Option Nat) :
    (s.raise c k cls pc faddr precise tok).memOk = s.memOk := by
  simp [State.raise]

@[simp] theorem State.onNoc_memOk (s : State) (f : NocSt → NocSt) : (s.onNoc f).memOk = s.memOk := State.memOk_congr rfl

/-! ### The doubt matrix and the permits (Doubt.lean) -/

@[simp] theorem State.noteFirst_memOk (s : State) (n src : Nat) : (s.noteFirst n src).memOk = s.memOk := by simp [State.noteFirst]
@[simp] theorem State.activate_memOk (s : State) (src mask : Nat) : (s.activate src mask).memOk = s.memOk := by simp [State.activate]
@[simp] theorem State.holdLevels_memOk (s : State) : s.holdLevels.memOk = s.memOk := by simp [State.holdLevels]
@[simp] theorem State.withdraw_memOk (s : State) (k cause index : Nat) : (s.withdraw k cause index).memOk = s.memOk := by simp [State.withdraw]
@[simp] theorem State.checkPermits_memOk (s : State) : s.checkPermits.memOk = s.memOk := s.checkPermits_offLinks.same.memOk_eq (by decide)
@[simp] theorem State.settle_memOk (s : State) : s.settle.memOk = s.memOk := by simp [State.settle]
@[simp] theorem State.raiseDoubt_memOk (s : State) (i : Nat) : (s.raiseDoubt i).memOk = s.memOk := by simp [State.raiseDoubt]

/-! ### Host memory, vectors, event logs (Events.lean) -/

@[simp] theorem State.hostWrite_memOk (s : State) (a : Nat) (bs : List Byte) (h : s.memOk = true) : (s.hostWrite a bs).1.memOk = true := by
  unfold State.hostWrite
  split
  · exact h
  · obtain ⟨hscratch, htable, hhost, hrest⟩ := s.memOk_iff.mp h
    rw [State.count_memOk]
    exact (State.memOk_iff _).mpr ⟨hscratch, htable, Memory.wf_putBytes _ _ _ hhost, hrest⟩

@[simp] theorem State.msix_memOk (s : State) (f v : Nat) : (s.msix f v).memOk = s.memOk := by simp [State.msix]

@[simp] theorem State.logEvent_memOk (s : State) (f : Nat) (e : EventRec) (h : s.memOk = true) : (s.logEvent f e).memOk = true := by
  simp [State.logEvent, h]

@[simp] theorem State.eventPF_memOk (s : State) (e : EventRec) (h : s.memOk = true) : (s.eventPF e).memOk = true := by simp [State.eventPF, h]
@[simp] theorem State.eventPart_memOk (s : State) (e : EventRec) (h : s.memOk = true) : (s.eventPart e).memOk = true := by simp [State.eventPart, h]

@[simp] theorem State.plainEvent_memOk (s : State) (code : Nat) (payload : List Nat) (h : s.memOk = true) :
    (s.plainEvent code payload).memOk = true := by
  simp [State.plainEvent, h]

/-! ### Sync objects (Sync.lean) -/

@[simp] theorem State.setQueue_memOk (s : State) (obj : Nat) (l : List Waiter) : (s.setQueue obj l).memOk = s.memOk := State.memOk_congr rfl

@[simp] theorem State.noteUndo_memOk (s : State) (obj : Nat) (hold : Option Nat) (f : Undo → Undo) : (s.noteUndo obj hold f).memOk = s.memOk := by
  unfold State.noteUndo
  split <;> simp

@[simp] theorem State.release_memOk (s : State) (obj : Nat) (who : Who) (code : Nat) : (s.release obj who code).memOk = s.memOk :=
  State.memOk_congr rfl

@[simp] theorem State.releaseAll_memOk (s : State) (obj code : Nat) : (s.releaseAll obj code).memOk = s.memOk := by simp [State.releaseAll]
@[simp] theorem State.arrivals_memOk (s : State) (obj a : Nat) : (s.arrivals obj a).memOk = s.memOk := by simp [State.arrivals]

@[simp] theorem State.serve_memOk (s : State) (obj fuel : Nat) : (s.serve obj fuel).memOk = s.memOk := by
  induction fuel generalizing s with
  | zero => rfl
  | succ fuel ih =>
    unfold State.serve
    repeat' split
    all_goals simp [ih]

@[simp] theorem State.evaluate_memOk (s : State) (obj : Nat) : (s.evaluate obj).memOk = s.memOk := by simp [State.evaluate]

@[simp] theorem State.countSync_memOk (s : State) (obj : Nat) (hold : Option Nat) : (s.countSync obj hold).memOk = s.memOk := by
  simp [State.countSync]

@[simp] theorem State.applySignal_memOk (s : State) (obj a : Nat) (hold : Option Nat) : (s.applySignal obj a hold).memOk = s.memOk :=
  (s.applySignal_sameBut obj a hold).memOk_eq (by decide)

@[simp] theorem State.applyWait_memOk (s : State) (obj kind arg : Nat) (who : Who) (hold : Option Nat) :
    (s.applyWait obj kind arg who hold).memOk = s.memOk := by
  simp [State.applyWait]

@[simp] theorem State.abandon_memOk (s : State) (obj : Nat) : (s.abandon obj).memOk = s.memOk := by simp [State.abandon]
@[simp] theorem State.abandonAll_memOk (s : State) (p hold : Nat) : (s.abandonAll p hold).memOk = s.memOk := by simp [State.abandonAll]
@[simp] theorem State.resetObject_memOk (s : State) (obj : Nat) : (s.resetObject obj).memOk = s.memOk := by simp [State.resetObject]
@[simp] theorem State.sendSync_memOk (s : State) (o : SyncOp) : (s.sendSync o).memOk = s.memOk := State.memOk_congr rfl

@[simp] theorem State.removeWaits_memOk (s : State) (p : Nat) (core : Nat → Bool) : (s.removeWaits p core).memOk = s.memOk := by
  simp [State.removeWaits]

@[simp] theorem State.newId_memOk (s : State) : s.newId.2.memOk = s.memOk := State.memOk_congr rfl
@[simp] theorem State.sendReport_memOk (s : State) (r : Report) : (s.sendReport r).memOk = s.memOk := State.memOk_congr rfl

/-! ### Routes and what leaves over the links (Route.lean) -/

@[simp] theorem State.onLink_memOk (s : State) (l : Nat) (f : LinkSt → LinkSt) : (s.onLink l f).memOk = s.memOk := State.memOk_congr rfl
@[simp] theorem State.owe_memOk (s : State) (l pool : Nat) : (s.owe l pool).memOk = s.memOk := State.memOk_congr rfl
@[simp] theorem State.oweFor_memOk (s : State) (fs : List TxFlit) : (s.oweFor fs).memOk = s.memOk := by simp [State.oweFor]
@[simp] theorem State.append_memOk (s : State) (l : Nat) (fs : List TxFlit) : (s.append l fs).memOk = s.memOk := State.memOk_congr rfl
@[simp] theorem State.enqueue_memOk (s : State) (l : Nat) (fs : List TxFlit) : (s.enqueue l fs).memOk = s.memOk := by simp [State.enqueue]

theorem State.sendRec?_memOk {s t : State} {dst : Nat} {r : CtrlRec} {hops : Nat} (h : s.sendRec? dst r hops = some t) : t.memOk = s.memOk := by
  obtain ⟨l, -, rfl⟩ := Option.map_eq_some_iff.mp h
  simp

@[simp] theorem State.sendRec?_getD_memOk (s t : State) (dst : Nat) (r : CtrlRec) (hops : Nat) (h : t.memOk = s.memOk) :
    ((s.sendRec? dst r hops).getD t).memOk = s.memOk := by
  cases hsent : s.sendRec? dst r hops with
  | none => exact h
  | some u => exact State.sendRec?_memOk hsent

@[simp] theorem State.sendCtrl_memOk (s : State) (dst : Nat) (r : CtrlRec) : (s.sendCtrl dst r).memOk = s.memOk :=
  (s.sendCtrl_sends dst r).same.memOk_eq (by decide)

@[simp] theorem State.sendMsg_memOk (s : State) (l : Nat) (m : Msg) (hops : Nat) : (s.sendMsg l m hops).memOk = s.memOk := by simp [State.sendMsg]

@[simp] theorem State.sendChild_memOk (s : State) (l : Nat) (w : WireChild) (back : Option (Nat × Nat × Nat)) :
    (s.sendChild l w back).memOk = s.memOk := by
  simp [State.sendChild]

@[simp] theorem State.noteLink_memOk (s : State) (id l chip : Nat) (sync : Bool) : (s.noteLink id l chip sync).memOk = s.memOk :=
  State.memOk_congr rfl

/-! ### The scratchpad and the operands of unit operations (Scratch.lean) -/

@[simp] theorem State.noteEcc_memOk (s : State) (c p : Nat) (uncorr : Bool) : (s.noteEcc c p uncorr).memOk = s.memOk := by simp [State.noteEcc]

@[simp] theorem State.checkWord_memOk (s : State) (c k a : Nat) : (s.checkWord c k a).1.memOk = s.memOk := by
  simp only [State.checkWord]
  repeat' split
  all_goals simp

@[simp] theorem State.checkWords_memOk (s : State) (c k : Nat) (l : List Nat) : (s.checkWords c k l).1.memOk = s.memOk := by
  induction l generalizing s with
  | nil => rfl
  | cons a l ih =>
    have hword := s.checkWord_memOk c k a
    unfold State.checkWords
    split <;> simp_all

@[simp] theorem State.checkRange_memOk (s : State) (c k a n : Nat) : (s.checkRange c k a n).1.memOk = s.memOk :=
  (s.checkRange_sameBut c k a n).memOk_eq (by decide)

@[simp] theorem State.putPhys_memOk (s : State) (c p : Nat) (bs : List Byte) (h : s.memOk = true) : (s.putPhys c p bs).memOk = true := by
  have hsame := s.putPhys_sameBut c p bs
  obtain ⟨hscratch, -⟩ := s.memOk_iff.mp h
  refine State.memOk_scratch h (Memory.wf_putBytes _ _ _ hscratch) ?_
  rw [hsame.tableMem.resolve_left (by simp), hsame.host.resolve_left (by simp), hsame.ing.resolve_left (by simp),
    hsame.sec.resolve_left (by simp)]

@[simp] theorem State.putWin_memOk (s : State) (c k a : Nat) (bs : List Byte) (h : s.memOk = true) : (s.putWin c k a bs).memOk = true :=
  s.putPhys_memOk _ _ _ h

@[simp] theorem State.zeroPhys_memOk (s : State) (c p n : Nat) (h : s.memOk = true) : (s.zeroPhys c p n).memOk = true :=
  State.memOk_scratch h (FMap.wf_clear _ _ _ _ (s.memOk_iff.mp h).1) rfl

theorem uRange_keepsMem (c k : Nat) (r : Nat × Nat) : (uRange c k r).KeepsMem := by
  refine .get_bind fun s hs => ?_
  dsimp only
  refine .bind (.set ((s.checkRange_memOk _ _ _ _).trans hs)) fun _ => ?_
  split
  · exact .throw _
  · split
    · exact .throw _
    · exact .pure _

theorem uRanges_keepsMem (c k : Nat) (l : List (Nat × Nat)) : (uRanges c k l).KeepsMem := by
  induction l with
  | nil => exact .pure _
  | cons r l ih => exact (uRange_keepsMem c k r).bind fun _ => ih.bind fun _ => .pure _

theorem uBound_keepsMem (c k : Nat) (l : List (Nat × Nat)) : (uBound c k l).KeepsMem := by
  induction l with
  | nil => exact .pure _
  | cons r l ih =>
    refine .get_bind fun s _ => ?_
    split
    · exact .throw _
    · exact ih

theorem uWrite_keepsMem (c k : Nat) (l : List (Nat × Nat)) (bs : List Byte) : (uWrite c k l bs).KeepsMem := by
  induction l generalizing bs with
  | nil => exact .pure _
  | cons r l ih => exact .bind (.update fun s hs => s.putWin_memOk _ _ _ _ hs) fun _ => ih _

theorem uPlane_keepsMem (c k : Nat) (a : Word) (n : Nat) : (uPlane c k a n).KeepsMem :=
  .unless_throw ((uRange_keepsMem c k _).bind fun _ => .ite (.pure _) (.throw _))

theorem uRead_keepsMem (c k : Nat) (a : Word) (n : Nat) : (uRead c k a n).KeepsMem :=
  .ite (.pure _) (.ite ((uPlane_keepsMem c k _ _).bind fun _ => (uRanges_keepsMem c k _).bind fun _ => .pure _) (uRange_keepsMem c k _))

theorem uReadDest_keepsMem (c k : Nat) (a : Word) (n : Nat) : (uReadDest c k a n).KeepsMem :=
  .ite (.pure _) (.ite ((uPlane_keepsMem c k _ _).bind fun _ => (uRanges_keepsMem c k _).bind fun _ => .pure _)
    ((uRange_keepsMem c k _).bind fun _ => .pure _))

theorem uDest_keepsMem (c k : Nat) (a : Word) (n : Nat) : (uDest c k a n).KeepsMem :=
  .ite (.pure _) (.ite ((uPlane_keepsMem c k _ _).bind fun _ => (uBound_keepsMem c k _).bind fun _ => .pure _)
    ((uBound_keepsMem c k _).bind fun _ => .pure _))

theorem uWriteSome_keepsMem (c k : Nat) (l : List (Nat × Nat)) (bs : List (Option Byte)) : (uWriteSome c k l bs).KeepsMem := by
  induction l generalizing bs with
  | nil => exact .pure _
  | cons r l ih =>
    exact .bind (.update fun s hs => s.each_keeps _ hs fun u _ hu => u.putWin_memOk _ _ _ _ hu) fun _ => ih _

theorem uPut_keepsMem (c k : Nat) (dst : Option Plane × List (Nat × Nat)) (bs : List Byte) : (uPut c k dst bs).KeepsMem := by
  unfold uPut
  split
  · exact uWrite_keepsMem c k _ _
  · exact .ite (uWriteSome_keepsMem c k _ _) (uWrite_keepsMem c k _ _)

theorem uItems_keepsMem (c k : Nat) (a : Word) (m n : Nat) : (uItems c k a m n).KeepsMem :=
  .ite ((uRead_keepsMem c k _ _).bind fun _ => .pure _) ((uRead_keepsMem c k _ _).bind fun _ => .pure _)

/-! ### Fetch and issue (Sequencer.lean) -/

@[simp] theorem State.loadLine_memOk (s : State) (c k ln : Nat) : (s.loadLine c k ln).memOk = s.memOk := by simp [State.loadLine]
@[simp] theorem State.prefetch_memOk (s : State) (c k : Nat) : (s.prefetch c k).memOk = s.memOk := by simp [State.prefetch]
@[simp] theorem State.advance_memOk (s : State) (c k : Nat) : (s.advance c k).memOk = s.memOk := State.memOk_congr rfl

@[simp] theorem seqIssue_memOk (c : Nat) (w : Word) (body : Nat → State → State) (s : State) (h : ∀ k u, (body k u).memOk = u.memOk) :
    (seqIssue c w body s).memOk = s.memOk := by
  simp [seqIssue, h]

theorem seqIssue_memOk_of (c : Nat) (w : Word) (body : Nat → State → State) (s : State) (h : s.memOk = true)
    (hbody : ∀ k (u : State), u.memOk = true → (body k u).memOk = true) : (seqIssue c w body s).memOk = true := by
  simp only [seqIssue]
  split
  · repeat' split
    · simp [h]
    · simp [h]
    · simp [h]
    · exact hbody _ _ (by simp [h])
  · exact h

@[simp] theorem regIssue_memOk (c : Nat) (w : Word) (f : Slot → Slot) (s : State) : (regIssue c w f s).memOk = s.memOk := by simp [regIssue]
@[simp] theorem State.issueOp_memOk (s : State) (c k : Nat) (o : UOp) : (s.issueOp c k o).memOk = s.memOk := by simp [State.issueOp]

@[simp] theorem tokIssue_memOk (c : Nat) (w : Word) (tok : Nat) (body : Nat → State → State) (s : State)
    (h : ∀ k u, (body k u).memOk = u.memOk) : (tokIssue c w tok body s).memOk = s.memOk := by
  simp [tokIssue, h]

@[simp] theorem unitIssue_memOk (c : Nat) (w : Word) (op : Slot → UOp) (s : State) : (unitIssue c w op s).memOk = s.memOk := by simp [unitIssue]

/-! ### Messages, signals and waits (Noc.lean) -/

theorem U.KeepsMem.uTry {α : Type} {m : U α} (hm : m.KeepsMem) : (uTry m).KeepsMem := .get_bind fun s hs => .bind (.set (hm s hs)) fun _ => .pure _

@[simp] theorem State.noWithdraw_memOk (s : State) (c k : Nat) : (s.noWithdraw c k).memOk = s.memOk := by
  unfold State.noWithdraw
  split <;> simp

@[simp] theorem State.ctxLeaves_memOk (s : State) (p x : Nat) : (s.ctxLeaves p x).memOk = s.memOk := State.memOk_congr rfl

@[simp] theorem State.leaves_memOk (s : State) (c k : Nat) : (s.leaves c k).memOk = s.memOk := by
  unfold State.leaves
  split <;> simp

@[simp] theorem State.await_memOk (s : State) (c k pc faddr : Nat) (tok : Option Nat) : (s.await c k pc faddr tok).2.memOk = s.memOk :=
  State.memOk_congr rfl

@[simp] theorem State.reportTo_memOk (s : State) (src id code : Nat) (sync : Bool) : (s.reportTo src id code sync).memOk = s.memOk := by
  simp [State.reportTo]

@[simp] theorem State.freeLanding_memOk (s : State) (src id : Nat) : (s.freeLanding src id).memOk = s.memOk := State.memOk_congr rfl
@[simp] theorem State.refuseMsg_memOk (s : State) (m : MsgRef) (code : Nat) : (s.refuseMsg m code).memOk = s.memOk := by simp [State.refuseMsg]

@[simp] theorem State.checkDescWords_memOk (s : State) (c k : Nat) (a : Word) : (s.checkDescWords c k a).1.memOk = s.memOk := by
  unfold State.checkDescWords
  split <;> simp

@[simp] theorem State.place_memOk (s : State) (c : Nat) (d : Dest) (bs : List Byte) (h : s.memOk = true) : (s.place c d bs).memOk = true := by
  unfold State.place
  rw [State.count_memOk]
  exact uPut_keepsMem c d.1 d.2 bs s h

@[simp] theorem State.placeFrom_memOk (s : State) (c : Nat) (d : Dest) (done : Nat) (bs : List Byte) (h : s.memOk = true) :
    (s.placeFrom c d done bs).memOk = true := by
  unfold State.placeFrom
  dsimp only
  rw [State.count_memOk]
  exact uWriteSome_keepsMem c d.1 d.2.2 _ s h

@[simp] theorem State.postMsg_memOk (s : State) (c k : Nat) (m : Msg) : (s.postMsg c k m).memOk = s.memOk := by
  simp only [State.postMsg]
  repeat' split
  all_goals simp

theorem uSend_keepsMem (c k : Nat) (o : UOp) : (uSend c k o).KeepsMem := by
  unfold uSend
  extract_lets n
  refine .bind (.uTry (uRead_keepsMem c k _ _)) fun h => .get_bind fun s _ => ?_
  extract_lets own header
  clear_value header
  refine .bind (.uTry (uRead_keepsMem c k _ _)) fun d => ?_
  split
  · dsimp only
    exact .bind (.update fun u hu => (u.raise_memOk _ _ _ _ _ _ _).trans hu) fun _ => .throw _
  · exact .throw _
  · exact .throw _
  · exact .throw _
  · refine .get_bind fun u hu => ?_
    dsimp only
    exact .set (by simp [hu])

theorem uSignal_keepsMem (c k : Nat) (o : UOp) : (uSignal c k o).KeepsMem := by
  refine .get_bind fun s hs => ?_
  dsimp only
  split
  · exact .throw _
  · exact .set (by simp [hs])
  · split
    · exact .set (by simp [hs])
    · exact .set (by simp [hs])

@[simp] theorem State.issueWait_memOk (s : State) (c k : Nat) (f : FmtW) : (s.issueWait c k f).memOk = s.memOk := by
  simp only [State.issueWait]
  repeat' split
  all_goals simp

theorem execSyWait_memOk (c : Nat) (f : FmtW) (s : State) (h : s.memOk = true) : OutcomeMemOk (execSyWait c f s) := by simp [execSyWait, h]

theorem execWaitLimit_memOk (c : Nat) (s : State) (h : s.memOk = true) : OutcomeMemOk (execWaitLimit c s) := by
  simp only [execWaitLimit]
  repeat' split
  all_goals simp [h]

@[simp] theorem State.releaseCore_memOk (s : State) (c id code : Nat) : (s.releaseCore c id code).memOk = s.memOk := by
  simp only [State.releaseCore]
  repeat' split
  all_goals simp

@[simp] theorem State.releaseDesc_memOk (s : State) (id code : Nat) : (s.releaseDesc id code).memOk = s.memOk := State.memOk_congr rfl

theorem execSyncRelease_memOk (i : Nat) (s : State) (h : s.memOk = true) : OutcomeMemOk (execSyncRelease i s) := by
  simp only [execSyncRelease]
  repeat' split
  all_goals simp [h]

@[simp] theorem State.refuseWait_memOk (s : State) (id : Nat) : (s.refuseWait id).memOk = s.memOk := by
  simp only [State.refuseWait]
  repeat' split
  all_goals simp

@[simp] theorem State.applyReport_memOk (s : State) (r : Report) : (s.applyReport r).memOk = s.memOk := by
  simp only [State.applyReport]
  repeat' split
  all_goals simp

theorem execDeliveryReport_memOk (i : Nat) (s : State) (h : s.memOk = true) : OutcomeMemOk (execDeliveryReport i s) := by
  unfold execDeliveryReport
  split <;> simp [h]

@[simp] theorem State.noteDesc_memOk (s : State) (p x c : Nat) (a : Word) : (s.noteDesc p x c a).memOk = s.memOk := by
  unfold State.noteDesc
  split <;> simp

@[simp] theorem State.landSignal_memOk (s : State) (m : Msg) : (s.landSignal m).memOk = s.memOk := by simp [State.landSignal]

@[simp] theorem State.landMsg_memOk (s : State) (i : Nat) (m : Msg) (h : s.memOk = true) : (s.landMsg i m).memOk = true := by
  unfold State.landMsg
  extract_lets c gone d u
  have hgone (v : State) : (gone v).memOk = v.memOk := by simp [gone]
  have hu : u.memOk = true := by
    unfold u
    split <;> simp [h]
  clear_value d u
  split
  · simp [hgone, hu]
  · split
    · exact State.placeFrom_memOk _ _ _ _ _ (by simp [hu])
    · dsimp only
      split <;> simp [hgone, hu]

@[simp] theorem State.countNoc_memOk (s : State) (m : Msg) : (s.countNoc m).memOk = s.memOk := by simp [State.countNoc]

@[simp] theorem State.landCmd_memOk (s : State) (m : Msg) : (s.landCmd m).1.memOk = s.memOk := by
  simp only [State.landCmd]
  repeat' split
  all_goals simp

theorem execMessageArrival_memOk (i : Nat) (s : State) (h : s.memOk = true) : OutcomeMemOk (execMessageArrival i s) := by
  simp only [execMessageArrival]
  repeat' split
  all_goals simp [h]

@[simp] theorem State.zeroStops_memOk (s : State) (c k : Nat) : (s.zeroStops c k).memOk = s.memOk := by simp [State.zeroStops]

theorem execTeardownNotice_memOk (i : Nat) (s : State) (h : s.memOk = true) : OutcomeMemOk (execTeardownNotice i s) := by
  simp only [execTeardownNotice]
  repeat' split
  all_goals simp [h]

@[simp] theorem State.writeSyncCfg_memOk (s : State) (req ch i : Nat) (v : Word) : (s.writeSyncCfg req ch i v).memOk = s.memOk := by
  simp [State.writeSyncCfg]

@[simp] theorem State.writeSyncValue_memOk (s : State) (req ch i : Nat) (v : Word) : (s.writeSyncValue req ch i v).memOk = s.memOk := by
  simp [State.writeSyncValue]

theorem execSyncCfgChange_memOk (req ch i : Nat) (v : Word) (s : State) (h : s.memOk = true) : OutcomeMemOk (execSyncCfgChange req ch i v s) := by
  simp [execSyncCfgChange, h]

theorem execSyncValueWrite_memOk (req ch i : Nat) (v : Word) (s : State) (h : s.memOk = true) : OutcomeMemOk (execSyncValueWrite req ch i v s) := by
  simp [execSyncValueWrite, h]

/-! ### The reduction network (Reduce.lean) -/

@[simp] theorem State.sendFar_memOk (s : State) (chip : Nat) (w : WireChild) (c : Child) : (s.sendFar chip w c).memOk = s.memOk := by
  unfold State.sendFar
  split <;> simp

@[simp] theorem State.awaitNode_memOk (s : State) (e : TreeEntry) (n : Node) (core p x pc faddr : Nat) (tok : Option Nat) :
    (s.awaitNode e n core p x pc faddr tok).2.memOk = s.memOk :=
  State.memOk_congr rfl

@[simp] theorem State.travel_memOk (s : State) (e : TreeEntry) (c : Child) : (s.travel e c).memOk = s.memOk := by
  unfold State.travel
  split <;> simp

theorem uPush_keepsMem (c k : Nat) (o : UOp) : (uPush c k o).KeepsMem := by
  refine (uRead_keepsMem c k _ _).bind fun bs => .get_bind fun s hs => ?_
  dsimp only
  split
  · exact .throw _
  · exact .unless_throw (.set (by simp [hs]))

@[simp] theorem State.notePeak_memOk (s : State) (core : Nat) : (s.notePeak core).memOk = s.memOk := State.memOk_congr rfl
@[simp] theorem State.settleAwait_memOk (s : State) (c : Child) (code : Nat) : (s.settleAwait c code).memOk = s.memOk := by simp [State.settleAwait]

@[simp] theorem State.meet_memOk (s : State) (e : TreeEntry) (c : Child) (pn : Node) (side : Bool) (h : HeldChild) :
    (s.meet e c pn side h).memOk = s.memOk := by
  simp [State.meet]

theorem State.childArrives_memOk {s t : State} {e : Option TreeEntry} {c : Child} {pn : Node} {side : Bool}
    (h : s.childArrives e c pn side = some t) :
    t.memOk = s.memOk := by
  unfold State.childArrives at h
  (repeat' split at h) <;> simp at h <;> simp [← h]

@[simp] theorem State.countDiscarded_memOk (s : State) (cs : List Child) : (s.countDiscarded cs).memOk = s.memOk := by simp [State.countDiscarded]

theorem execCrChildArrival_memOk (i : Nat) (s : State) (h : s.memOk = true) : OutcomeMemOk (execCrChildArrival i s) := by
  unfold execCrChildArrival
  rw [outcomeMemOk_ok]
  split
  · exact h
  · dsimp only
    split
    · simp [h]
    · split
      · exact h
      · cases harrives : State.childArrives _ _ _ _ _ with
        | none => exact h
        | some t => simpa [h] using State.childArrives_memOk harrives

@[simp] theorem State.rootSignal_memOk (s : State) (r : Root) : (s.rootSignal r).memOk = s.memOk := by
  simp only [State.rootSignal]
  repeat' split
  all_goals simp

theorem execRootDelivery_memOk (i : Nat) (s : State) (h : s.memOk = true) : OutcomeMemOk (execRootDelivery i s) := by
  simp only [execRootDelivery]
  repeat' split
  all_goals simp [h]

@[simp] theorem State.dropPartials_memOk (s : State) (p x : Nat) : (s.dropPartials p x).1.memOk = s.memOk := by simp [State.dropPartials]

/-! ### The matrix array (Array.lean) -/

theorem uWload_keepsMem (c k : Nat) (o : UOp) : (uWload c k o).KeepsMem :=
  (uItems_keepsMem c k _ _ _).bind fun _ => .ite_bind (uRead_keepsMem c k _ _) (.pure _) fun _ => .update fun s hs => by simp [hs]

theorem uTileStart_keepsMem (c k : Nat) (o : UOp) : (uTileStart c k o).KeepsMem := by
  refine .bind (.update fun s hs => by simp [hs]) fun _ => .get_bind fun s _ => ?_
  extract_lets core it set fits admits
  have hadmits : (admits ()).KeepsMem := .ite (.unless_throw (.ite (.throw _) (.pure _))) (.pure _)
  split
  · exact .unless_throw hadmits
  · exact hadmits

theorem uTileEnd_keepsMem (c k : Nat) (o : UOp) (vs : List (List Nat × List Nat)) : (uTileEnd c k o vs).KeepsMem :=
  .get_bind fun s _ => .ite ((uDest_keepsMem c k _ _).bind fun _ => uPut_keepsMem c k _ _) (.update fun u hu => by simp [hu])

theorem uTile_keepsMem (c k : Nat) (o : UOp) : (uTile c k o).KeepsMem :=
  (uTileStart_keepsMem c k o).bind fun _ => (uItems_keepsMem c k _ _ _).bind fun _ =>
    .ite_bind (uRead_keepsMem c k _ _) (.pure _) fun _ => uTileEnd_keepsMem c k o _

theorem uFin_keepsMem (c k : Nat) (o : UOp) : (uFin c k o).KeepsMem := by
  have hempty : (modify (fun s => s.onCore c (fun x => x.setAcc o.aset .empty)) : U PUnit).KeepsMem := .update fun s hs => by simp [hs]
  exact .get_bind fun s _ => .ite (.unless_throw ((uDest_keepsMem c k _ _).bind fun _ => (uPut_keepsMem c k _ _).bind fun _ => hempty))
    ((uDest_keepsMem c k _ _).bind fun _ => (uPut_keepsMem c k _ _).bind fun _ => hempty)

/-! ### The vector unit, moves, digests (Vector.lean) -/

theorem uOperandB_keepsMem (c k : Nat) (o : UOp) (t : VType) : (uOperandB c k o t).KeepsMem :=
  .ite ((uRead_keepsMem c k _ _).bind fun _ => .pure _) ((uRead_keepsMem c k _ _).bind fun _ => .pure _)

theorem uArith_keepsMem (c k : Nat) (o : UOp) : (uArith c k o).KeepsMem :=
  .ite ((uRead_keepsMem c k _ _).bind fun _ => (uOperandB_keepsMem c k o _).bind fun _ =>
    .bind (.ite (uReadDest_keepsMem c k _ _) ((uDest_keepsMem c k _ _).bind fun _ => .pure _)) fun _ => uPut_keepsMem c k _ _) (.pure _)

theorem uMinmax_keepsMem (c k : Nat) (o : UOp) : (uMinmax c k o).KeepsMem :=
  .ite ((uRead_keepsMem c k _ _).bind fun _ => (uOperandB_keepsMem c k o _).bind fun _ => (uDest_keepsMem c k _ _).bind fun _ =>
    uPut_keepsMem c k _ _) (.pure _)

theorem uFn_keepsMem (c k : Nat) (o : UOp) : (uFn c k o).KeepsMem :=
  .ite ((uRead_keepsMem c k _ _).bind fun _ => (uDest_keepsMem c k _ _).bind fun _ => .get_bind fun _ _ => uPut_keepsMem c k _ _) (.pure _)

theorem uCvt_keepsMem (c k : Nat) (o : UOp) : (uCvt c k o).KeepsMem :=
  .ite ((uRead_keepsMem c k _ _).bind fun _ => (uDest_keepsMem c k _ _).bind fun _ => .get_bind fun _ _ => (uPut_keepsMem c k _ _).bind fun _ =>
    .update fun s hs => by simp [hs]) (.pure _)

theorem uMxq_keepsMem (c k : Nat) (o : UOp) : (uMxq c k o).KeepsMem :=
  .ite ((uRead_keepsMem c k _ _).bind fun _ => (uDest_keepsMem c k _ _).bind fun _ => (uDest_keepsMem c k _ _).bind fun _ =>
    (uPut_keepsMem c k _ _).bind fun _ => uPut_keepsMem c k _ _) (.pure _)

theorem uRed_keepsMem (c k : Nat) (o : UOp) : (uRed c k o).KeepsMem :=
  .ite ((uRead_keepsMem c k _ _).bind fun _ => (uDest_keepsMem c k _ _).bind fun _ => uPut_keepsMem c k _ _) (.pure _)

theorem uRand_keepsMem (c k : Nat) (o : UOp) : (uRand c k o).KeepsMem :=
  .ite ((uRead_keepsMem c k _ _).bind fun _ => (uDest_keepsMem c k _ _).bind fun _ => uPut_keepsMem c k _ _) (.pure _)

theorem uSample_keepsMem (c k : Nat) (o : UOp) : (uSample c k o).KeepsMem :=
  .ite ((uRead_keepsMem c k _ _).bind fun _ => (uRead_keepsMem c k _ _).bind fun _ => (uDest_keepsMem c k _ _).bind fun _ =>
    .unless_throw (.get_bind fun _ _ => uPut_keepsMem c k _ _)) (.pure _)

theorem uMove_keepsMem (c k : Nat) (o : UOp) : (uMove c k o).KeepsMem :=
  .ite (.bind (.ite (uRead_keepsMem c k _ _) (.pure _)) fun _ => (uDest_keepsMem c k _ _).bind fun _ => uPut_keepsMem c k _ _) (.pure _)

theorem uLeaf_keepsMem (c k : Nat) (o : UOp) : (uLeaf c k o).KeepsMem :=
  (uRead_keepsMem c k _ _).bind fun _ => (uDest_keepsMem c k _ _).bind fun _ => uPut_keepsMem c k _ _

theorem uResult_keepsMem (c k : Nat) (o : UOp) : (uResult c k o).KeepsMem :=
  .ite ((uRead_keepsMem c k _ _).bind fun _ => (uDest_keepsMem c k _ _).bind fun _ => (uPut_keepsMem c k _ _).bind fun _ =>
    .update fun s hs => by split <;> simp [hs]) (.pure _)

/-! ### Attention commands (Attn.lean) -/

theorem execAttnCommandStart_memOk (i : Nat) (s : State) (h : s.memOk = true) : OutcomeMemOk (execAttnCommandStart i s) := by
  unfold execAttnCommandStart
  split <;> simp [h]

theorem uWorkAreas_keepsMem (p x : Nat) (lead : Nat) (a : AttnRec) (pages : List Page) : (uWorkAreas p x lead a pages).KeepsMem :=
  .update fun s hs => s.each_keeps _ hs fun u _ hu => State.putWin_memOk _ _ _ _ _ ((u.drawBytes_memOk _).trans hu)

theorem U.KeepsMem.uOn {α : Type} {m : U α} (core : Nat) (hm : m.KeepsMem) : (uOn core m).KeepsMem := by
  refine .bind (.uTry hm) fun r => ?_
  split
  · exact .pure _
  · exact .throw _

theorem uPageBytes_keepsMem (p x : Nat) (g : Page) (a n : Nat) : (uPageBytes p x g a n).KeepsMem :=
  .get_bind fun s hs => .ite (.uOn _ (uRange_keepsMem _ _ _)) (.bind (.set (by simp [hs])) fun _ => .pure _)

theorem uPagePut_keepsMem (p x : Nat) (g : Page) (a : Nat) (bs : List Byte) : (uPagePut p x g a bs).KeepsMem := .update fun s hs => by split <;> simp [hs]

theorem uPage_keepsMem (p x : Nat) (f : PageForm) (g : Page) (n : Nat) : (uPage p x f g n).KeepsMem :=
  (uPageBytes_keepsMem p x g _ _).bind fun _ => (uPageBytes_keepsMem p x g _ _).bind fun _ => (uPageBytes_keepsMem p x g _ _).bind fun _ =>
    (uPageBytes_keepsMem p x g _ _).bind fun _ => .pure _

theorem uKv_keepsMem (p x : Nat) (f : PageForm) (n b : Nat) (gs : List Page) : (uKv p x f n b gs).KeepsMem := by
  induction gs generalizing b with
  | nil => exact .pure _
  | cons g gs ih => exact (uPage_keepsMem p x f g _).bind fun _ => (ih _).bind fun _ => .pure _

theorem uRows_keepsMem (k : Nat) (lead a rows d : Nat) : (uRows lead k a rows d).KeepsMem := .bind (.uOn lead (uRange_keepsMem lead k _)) fun _ => .pure _

theorem uAppend_keepsMem (k p x : Nat) (lead : Nat) (a : AttnRec) (f : PageForm) (pages : List Page) : (uAppend p x lead k a f pages).KeepsMem :=
  (uRows_keepsMem k lead _ _ _).bind fun _ => (uRows_keepsMem k lead _ _ _).bind fun _ => (uWorkAreas_keepsMem p x lead a pages).bind fun _ =>
    .forM _ fun _ => ((uPagePut_keepsMem p x _ _ _).bind fun _ => uPagePut_keepsMem p x _ _ _).bind fun _ =>
      (uPagePut_keepsMem p x _ _ _).bind fun _ => uPagePut_keepsMem p x _ _ _

theorem uForward_keepsMem (k p x : Nat) (lead : Nat) (a : AttnRec) (f : PageForm) (rolling : Bool) (pages : List Page) :
    (uForward p x lead k a f rolling pages).KeepsMem :=
  (uRows_keepsMem k lead _ _ _).bind fun _ => (uKv_keepsMem p x f _ _ _).bind fun _ => (uWorkAreas_keepsMem p x lead a pages).bind fun _ =>
    .update fun s hs => by simp [hs]

theorem uGrad_keepsMem (p x : Nat) (a : AttnRec) (g : Page) (vals : List Nat) : (uGrad p x a g vals).KeepsMem :=
  .bind (.ite ((uPageBytes_keepsMem p x g _ _).bind fun _ => .pure _) (.pure _)) fun _ => uPagePut_keepsMem p x g _ _

theorem uBackward_keepsMem (k p x : Nat) (lead : Nat) (a : AttnRec) (f : PageForm) (pages : List Page) : (uBackward p x lead k a f pages).KeepsMem :=
  (uRows_keepsMem k lead _ _ _).bind fun _ => (uRows_keepsMem k lead _ _ _).bind fun _ => (uRows_keepsMem k lead _ _ _).bind fun _ =>
    (uRows_keepsMem k lead _ _ _).bind fun _ => (uKv_keepsMem p x f _ _ _).bind fun _ => (uWorkAreas_keepsMem p x lead a pages).bind fun _ =>
      .bind (.update fun s hs => s.putWin_memOk _ _ _ _ hs) fun _ => .forM _ fun g => uGrad_keepsMem p x a g.1 _

@[simp] theorem State.noteHdim_memOk (s : State) (p : Nat) (es : List Nat) (d : Nat) : (s.noteHdim p es d).memOk = s.memOk := State.memOk_congr rfl

@[simp] theorem State.attnWork_memOk (s : State) (kind i : Nat) (h : s.memOk = true) : (s.attnWork kind i).memOk = true := by
  unfold State.attnWork
  split
  · exact h
  · rename_i m _
    extract_lets a f pages
    split
    · exact h
    · rename_i k _
      split
      · exact h
      · extract_lets work
        have hwork : work.KeepsMem := by
          unfold work
          split
          · exact uAppend_keepsMem _ _ _ _ _ _ _
          · exact uForward_keepsMem _ _ _ _ _ _ _ _
          · exact uBackward_keepsMem _ _ _ _ _ _ _
        have hafter := hwork s h
        clear_value work
        split <;> rename_i t ht <;> rw [ht] at hafter
        · dsimp only
          split <;> simp [hafter]
        · split <;> simp [hafter]

theorem execAttnAppend_memOk (i : Nat) (s : State) (h : s.memOk = true) : OutcomeMemOk (execAttnAppend i s) := by simp [execAttnAppend, h]

theorem execAttnFwd_memOk (i : Nat) (s : State) (h : s.memOk = true) : OutcomeMemOk (execAttnFwd i s) := by simp [execAttnFwd, h]

theorem execAttnBwd_memOk (i : Nat) (s : State) (h : s.memOk = true) : OutcomeMemOk (execAttnBwd i s) := by simp [execAttnBwd, h]

@[simp] theorem State.signalHandle_memOk (s : State) (p x h arg : Nat) : (s.signalHandle p x h arg).memOk = s.memOk := by
  unfold State.signalHandle
  split
  · rfl
  · simp
  · split
    · rfl
    next hsent => simp [State.sendRec?_memOk hsent]

theorem execAttnCompletion_memOk (i : Nat) (s : State) (h : s.memOk = true) : OutcomeMemOk (execAttnCompletion i s) := by
  simp only [execAttnCompletion]
  repeat' split
  all_goals simp [h]

/-! ### Queue pairs and completion entries (Rings.lean) -/

@[simp] theorem State.onQp_memOk (s : State) (f q : Nat) (g : QpSt → QpSt) : (s.onQp f q g).memOk = s.memOk := State.memOk_congr rfl

@[simp] theorem State.qpFail_memOk (s : State) (f q : Nat) (wrote : Bool) (h : s.memOk = true) : (s.qpFail f q wrote).memOk = true := by
  simp [State.qpFail, h]

@[simp] theorem State.cqNotify_memOk (s : State) (f q : Nat) : (s.cqNotify f q).memOk = s.memOk := by simp [State.cqNotify]

@[simp] theorem State.writeEntry_memOk (s : State) (d : Desc) (status : Nat) (result : List Byte) (h : s.memOk = true) :
    (s.writeEntry d status result).memOk = true := by
  simp [State.writeEntry, h]

@[simp] theorem State.markDesc_memOk (s : State) (d : Desc) (event : Nat) : (s.markDesc d event).memOk = s.memOk := by simp [State.markDesc]

@[simp] theorem State.complete_memOk (s : State) (id status : Nat) (result : List Byte) (h : s.memOk = true) :
    (s.complete id status result).memOk = true := by
  unfold State.complete
  split <;> simp [h]

@[simp] theorem State.completeAll_memOk (s : State) (f : Desc → Bool) (status : Nat) (h : s.memOk = true) : (s.completeAll f status).memOk = true :=
  State.each_memOk_of _ h fun u d hu => u.complete_memOk d.id status [] hu

/-! ### Partitions and contexts (Part.lean) -/

@[simp] theorem State.charge_memOk (s : State) (p x E : Nat) : (s.charge p x E).memOk = s.memOk := State.memOk_congr rfl
@[simp] theorem State.engage_memOk (s : State) (p x : Nat) : (s.engage p x).memOk = s.memOk := State.memOk_congr rfl

@[simp] theorem State.select_memOk (s : State) (p : Nat) (out : Option Nat) : (s.select p out).memOk = s.memOk := by
  simp only [State.select]
  repeat' split
  all_goals simp

@[simp] theorem State.queueStep_memOk (s : State) (p x : Nat) (st : Step) : (s.queueStep p x st).memOk = s.memOk := by simp [State.queueStep]

@[simp] theorem State.clearEntry_memOk (s : State) (p off : Nat) (h : s.memOk = true) : (s.clearEntry p off).memOk = true := by
  simp [State.clearEntry, h]

@[simp] theorem State.releaseGroups_memOk (s : State) (p : Nat) (f : PoolGroup → Bool) (h : s.memOk = true) :
    (s.releaseGroups p f).memOk = true := by
  unfold State.releaseGroups
  dsimp only
  rw [State.onPart_memOk]
  exact State.each_memOk_of _ h fun u off hu => u.clearEntry_memOk p off hu

@[simp] theorem State.stopCores_memOk (s : State) (p x : Nat) : (s.stopCores p x).memOk = s.memOk := by simp [State.stopCores]
@[simp] theorem State.startZero_memOk (s : State) (c k : Nat) : (s.startZero c k).memOk = s.memOk := by simp [State.startZero]

@[simp] theorem State.zeroNext_memOk (s : State) (c : Nat) : (s.zeroNext c).memOk = s.memOk := by
  simp only [State.zeroNext]
  repeat' split
  all_goals simp

@[simp] theorem State.zeroCore_memOk (s : State) (c : Nat) : (s.zeroCore c).memOk = s.memOk := by simp [State.zeroCore]
@[simp] theorem State.zeroIdle_memOk (s : State) (p x : Nat) : (s.zeroIdle p x).memOk = s.memOk := by simp [State.zeroIdle]
@[simp] theorem State.dropWaits_memOk (s : State) (p x : Nat) : (s.dropWaits p x).memOk = s.memOk := by simp [State.dropWaits]
@[simp] theorem State.dropCredits_memOk (s : State) (p x : Nat) : (s.dropCredits p x).memOk = s.memOk := by simp [State.dropCredits]
@[simp] theorem State.dropWork_memOk (s : State) (p x : Nat) : (s.dropWork p x).memOk = s.memOk := by simp [State.dropWork]
@[simp] theorem State.dropAwaits_memOk (s : State) (p x : Nat) : (s.dropAwaits p x).memOk = s.memOk := State.memOk_congr rfl
@[simp] theorem State.abandonCtx_memOk (s : State) (p x : Nat) : (s.abandonCtx p x).memOk = s.memOk := by simp [State.abandonCtx]

@[simp] theorem State.endDescs_memOk (s : State) (p x status : Nat) (keep : Option Nat) (h : s.memOk = true) :
    (s.endDescs p x status keep).memOk = true := s.completeAll_memOk _ _ h

@[simp] theorem State.endFrogs_memOk (s : State) (p x : Nat) (keep : Option Nat) (h : s.memOk = true) :
    (s.endFrogs p x keep).memOk = true := s.completeAll_memOk _ _ h

@[simp] theorem State.lastDescs_memOk (s : State) (p x status : Nat) (keep : Option Nat) (h : s.memOk = true) :
    (s.lastDescs p x status keep).memOk = true := State.endDescs_memOk _ _ _ _ _ (s.endFrogs_memOk p x keep h)

@[simp] theorem State.dropPosts_memOk (s : State) (p x : Nat) : (s.dropPosts p x).memOk = s.memOk := by simp [State.dropPosts]

@[simp] theorem State.strip_memOk (s : State) (p x status : Nat) (keep : Option Nat) (h : s.memOk = true) :
    (s.strip p x status keep).memOk = true := by
  simp only [State.strip]
  split <;> simp [h]

@[simp] theorem State.beginTeardown_memOk (s : State) (p x : Nat) (f : Option FaultRec) (frog : Option Nat) (h : s.memOk = true) :
    (s.beginTeardown p x f frog).memOk = true := by
  simp [State.beginTeardown, h]

theorem execContextFault_memOk (c k : Nat) (s : State) (h : s.memOk = true) : OutcomeMemOk (execContextFault c k s) := by
  simp only [execContextFault]
  repeat' split
  all_goals simp [h]

theorem execCorePartStopped_memOk (c : Nat) (s : State) (h : s.memOk = true) : OutcomeMemOk (execCorePartStopped c s) := by
  simp only [execCorePartStopped]
  repeat' split
  all_goals simp [h]

@[simp] theorem State.freshSlot_memOk (s : State) (p x c k : Nat) : (s.freshSlot p x c k).memOk = s.memOk := State.memOk_congr rfl

@[simp] theorem State.setSlotRegs_memOk (s : State) (c k win entry lim : Nat) : (s.setSlotRegs c k win entry lim).memOk = s.memOk :=
  State.memOk_congr rfl

@[simp] theorem State.recreate_memOk (s : State) (p x : Nat) : (s.recreate p x).memOk = s.memOk := by simp [State.recreate]

theorem execContextTeardownEnd_memOk (p x : Nat) (s : State) (h : s.memOk = true) : OutcomeMemOk (execContextTeardownEnd p x s) := by
  unfold execContextTeardownEnd
  rw [outcomeMemOk_ok]
  extract_lets t s1 count s2 s3 s4 s5
  have hrecreated : s2.memOk = true := by simp [s2, s1, h]
  clear_value s2
  have hlogged : s4.memOk = true := State.eventPart_memOk _ _ (State.lastDescs_memOk _ _ _ _ _ (by simp [hrecreated]))
  clear_value s4
  split
  · unfold s5
    split <;> simp [hlogged]
  · exact h

@[simp] theorem State.emptyRegion_memOk (s : State) (r : Nat) : (s.emptyRegion r).memOk = s.memOk := State.memOk_congr rfl
@[simp] theorem State.wipeRegion_memOk (s : State) (r : Nat) : (s.wipeRegion r).memOk = s.memOk := by simp [State.wipeRegion]

@[simp] theorem State.beginReset_memOk (s : State) (p cause : Nat) (discard : Bool) (h : s.memOk = true) :
    (s.beginReset p cause discard).memOk = true := by
  unfold State.beginReset
  split
  · exact h
  · split
    · simp [h]
    · extract_lets status s1 s2 s3 s4
      have hbegun : s2.memOk = true := by simp [s2, s1, h]
      have hstripped : s3.memOk = true := State.each_memOk_of _ hbegun fun u x hu => u.strip_memOk p x status none hu
      clear_value s3
      simp [s4, hstripped]

@[simp] theorem State.sharedFaults_memOk (s : State) (h : s.memOk = true) : s.sharedFaults.memOk = true := by
  unfold State.sharedFaults
  extract_lets s'
  have hreset : s'.memOk = true := State.each_memOk_of _ h fun u n hu => by
    split <;> simp [hu]
  clear_value s'
  simp [hreset]

theorem execTeardownTimeout_memOk (p x : Nat) (s : State) (h : s.memOk = true) : OutcomeMemOk (execTeardownTimeout p x s) := by
  simp [execTeardownTimeout, h]

@[simp] theorem State.clearSlots_memOk (s : State) (p : Nat) : (s.clearSlots p).memOk = s.memOk := by simp [State.clearSlots]
@[simp] theorem State.discardConfig_memOk (s : State) (p : Nat) : (s.discardConfig p).memOk = s.memOk := by simp [State.discardConfig]

theorem execPartitionResetEnd_memOk (p : Nat) (s : State) (h : s.memOk = true) : OutcomeMemOk (execPartitionResetEnd p s) := by
  unfold execPartitionResetEnd
  rw [outcomeMemOk_ok]
  split
  · exact h
  · split
    · exact h
    · extract_lets s1 status s2 ev s3 s4
      have hended : s2.memOk = true := State.each_memOk_of _ (s.releaseGroups_memOk p _ h) fun u x hu =>
        State.lastDescs_memOk _ _ _ _ _ (by simp [hu])
      clear_value s2
      split <;> simp [s4, s3, hended]

/-! ### The life of a step (Sched.lean) -/

@[simp] theorem State.undoObject_memOk (s : State) (x : PartSt) (obj : Nat) (u : Undo) : (s.undoObject x obj u).memOk = s.memOk := by
  simp only [State.undoObject]
  repeat' split
  all_goals simp

@[simp] theorem State.muteSignals_memOk (s : State) (p x : Nat) : (s.muteSignals p x).memOk = s.memOk := State.memOk_congr rfl

@[simp] theorem State.rollBack_memOk (s : State) (p x : Nat) : (s.rollBack p x).memOk = s.memOk := by
  simp only [State.rollBack, State.onPart_memOk, State.each_memOk, State.undoObject_memOk, implies_true]
  rw [State.each_memOk (h := fun u l => by split <;> simp)]
  simp

@[simp] theorem State.putBack_memOk (s : State) (p x : Nat) : (s.putBack p x).memOk = s.memOk := State.memOk_congr rfl

@[simp] theorem State.startCore_memOk (s : State) (p x : Nat) (st : Step) (r : CoreRec) (h : s.memOk = true) :
    (s.startCore p x st r).memOk = true := by
  simp [State.startCore, h]

@[simp] theorem State.resetCounters_memOk (s : State) (p : Nat) (cores chans : List Nat) : (s.resetCounters p cores chans).memOk = s.memOk := by
  simp [State.resetCounters]

theorem execStepStart_memOk (p : Nat) (s : State) (h : s.memOk = true) : OutcomeMemOk (execStepStart p s) := by
  unfold execStepStart
  rw [outcomeMemOk_ok]
  split
  · exact h
  · extract_lets t life objs put v0 g0 s1 s2 s3 s4 s5
    split
    · exact h
    · split
      · exact h
      · extract_lets s6
        have hreset : s4.memOk = true := by simp [s4, s3, s2, s1, h]
        clear_value s4
        have hmarked : s5.memOk = true := by
          unfold s5
          split <;> simp [hreset]
        clear_value s5
        have hstarted : s6.memOk = true := by simp [s6, hmarked]
        exact State.each_memOk_of _ hstarted fun u r hu => u.startCore_memOk p _ _ r hu

@[simp] theorem State.afterCommit_memOk (s : State) (p x : Nat) : (s.afterCommit p x).memOk = s.memOk := by simp [State.afterCommit]

@[simp] theorem State.commitStep_memOk (s : State) (p x C S : Nat) (st : Step) (h : s.memOk = true) : (s.commitStep p x C S st).memOk = true := by
  unfold State.commitStep
  dsimp only
  rw [State.afterCommit_memOk]
  exact State.complete_memOk _ _ _ _ (by simp [h])

theorem execStepCommit_memOk (p C S : Nat) (s : State) (h : s.memOk = true) : OutcomeMemOk (execStepCommit p C S s) := by
  simp only [execStepCommit]
  repeat' split
  all_goals simp [h]

@[simp] theorem State.withdrawStep_memOk (s : State) (p w h obj : Nat) : (s.withdrawStep p w h obj).memOk = s.memOk := by simp [State.withdrawStep]

@[simp] theorem State.checkDonation_memOk (s : State) (p : Nat) : (s.checkDonation p).memOk = s.memOk := by
  simp only [State.checkDonation]
  repeat' split
  all_goals simp

@[simp] theorem State.checkDonations_memOk (s : State) : s.checkDonations.memOk = s.memOk := by simp [State.checkDonations]

theorem execWithdrawalEnd_memOk (p C S : Nat) (s : State) (h : s.memOk = true) : OutcomeMemOk (execWithdrawalEnd p C S s) := by
  simp only [execWithdrawalEnd]
  repeat' split
  all_goals simp [h]

@[simp] theorem State.refuseSync_memOk (s : State) (o : SyncOp) : (s.refuseSync o).memOk = s.memOk := by
  unfold State.refuseSync
  split <;> simp

@[simp] theorem State.reportSignal_memOk (s : State) (who : Who) : (s.reportSignal who).memOk = s.memOk := by
  unfold State.reportSignal
  split <;> simp

@[simp] theorem State.applySync_memOk (s : State) (o : SyncOp) : (s.applySync o).memOk = s.memOk := by simp [State.applySync]

theorem execSyncOperationArrival_memOk (i : Nat) (s : State) (h : s.memOk = true) : OutcomeMemOk (execSyncOperationArrival i s) := by
  unfold execSyncOperationArrival
  split <;> simp [h]

@[simp] theorem State.chOn_memOk (s : State) (n : Nat) : (s.chOn n).memOk = s.memOk := by
  simp only [State.chOn]
  repeat' split
  all_goals simp

@[simp] theorem State.chForce_memOk (s : State) (n : Nat) (h : s.memOk = true) : (s.chForce n).memOk = true := by
  unfold State.chForce
  dsimp only
  split <;> simp [h]

@[simp] theorem State.writeCpCtrl_memOk (s : State) (n : Nat) (v : Word) (h : s.memOk = true) : (s.writeCpCtrl n v).memOk = true := by
  simp only [State.writeCpCtrl]
  repeat' split
  all_goals simp [h]

theorem execChannelEnable_memOk (n : Nat) (s : State) (h : s.memOk = true) : OutcomeMemOk (execChannelEnable n s) := by simp [execChannelEnable, h]

theorem execChannelDrain_memOk (n : Nat) (s : State) (h : s.memOk = true) : OutcomeMemOk (execChannelDrain n s) := by simp [execChannelDrain, h]

theorem execChannelForcedDisable_memOk (n : Nat) (s : State) (h : s.memOk = true) : OutcomeMemOk (execChannelForcedDisable n s) := by
  simp [execChannelForcedDisable, h]

theorem execChannelDrainEnd_memOk (n : Nat) (s : State) (h : s.memOk = true) : OutcomeMemOk (execChannelDrainEnd n s) := by
  simp [execChannelDrainEnd, h]

/-! ### Core failures and repair (Fence.lean) -/

@[simp] theorem State.sumSpares_memOk (s : State) : s.sumSpares.memOk = s.memOk := State.memOk_congr rfl

@[simp] theorem State.noteFence_memOk (s : State) (ch row col cause : Nat) (caston : Bool) :
    (s.noteFence ch row col cause caston).memOk = s.memOk := by
  simp [State.noteFence]

@[simp] theorem State.shiftCounts_memOk (s : State) (ch row f : Nat) : (s.shiftCounts ch row f).memOk = s.memOk := by simp [State.shiftCounts]

@[simp] theorem State.shiftRow_memOk (s : State) (ch row f : Nat) (h : s.memOk = true) : (s.shiftRow ch row f).memOk = true := by
  simp [State.shiftRow, h]

@[simp] theorem State.killCore_memOk (s : State) (c : Nat) : (s.killCore c).memOk = s.memOk := by
  simp only [State.killCore]
  repeat' split
  all_goals simp

@[simp] theorem State.discardStep_memOk (s : State) (p : Nat) : (s.discardStep p).memOk = s.memOk := by
  unfold State.discardStep
  split <;> simp

@[simp] theorem State.unbind_memOk (s : State) (ch row : Nat) (h : s.memOk = true) : (s.unbind ch row).memOk = true := by
  unfold State.unbind
  extract_lets going s1 s2 s3
  have hgone : s3.memOk = true := by simp [s3, s2, s1, h]
  clear_value s3
  split
  · exact State.beginReset_memOk _ _ _ _ (s3.eventPart_memOk _ hgone)
  · exact s3.plainEvent_memOk _ _ hgone

@[simp] theorem State.fencedRecords_memOk (s : State) (p x id cause : Nat) (lost : List PoolGroup) (h : s.memOk = true) :
    (s.fencedRecords p x id cause lost).memOk = true :=
  State.each_memOk_of _ h fun u _ hu => u.eventPart_memOk _ hu

@[simp] theorem State.coreFails_memOk (s : State) (ch row col cause : Nat) (h : s.memOk = true) : (s.coreFails ch row col cause).memOk = true := by
  simp only [State.coreFails]
  repeat' split
  all_goals simp [h]

theorem execCoreFailure_memOk (ch row col cause : Nat) (s : State) (h : s.memOk = true) : OutcomeMemOk (execCoreFailure ch row col cause s) := by
  simp only [execCoreFailure]
  repeat' split
  all_goals simp [h]

theorem execNocTimeout_memOk (ch row col : Nat) (s : State) (h : s.memOk = true) : OutcomeMemOk (execNocTimeout ch row col s) := by
  simp [execNocTimeout, h]

@[simp] theorem State.disengage_memOk (s : State) (p x : Nat) : (s.disengage p x).memOk = s.memOk := by simp [State.disengage]

@[simp] theorem State.enterRepair_memOk (s : State) (p x c cause : Nat) (h : s.memOk = true) : (s.enterRepair p x c cause).memOk = true := by
  unfold State.enterRepair
  extract_lets lost s1 s2 s3
  have hreleased : s1.memOk = true := s.releaseGroups_memOk p _ h
  clear_value s1
  exact State.fencedRecords_memOk _ _ _ _ _ _ (by unfold s3; split <;> simp [s2, hreleased])

@[simp] theorem State.fenceStep_memOk (s : State) (p x : Nat) (h : s.memOk = true) : (s.fenceStep p x).memOk = true := by
  unfold State.fenceStep
  split <;> simp [h]

@[simp] theorem State.endDiscard_memOk (s : State) (p : Nat) : (s.endDiscard p).memOk = s.memOk := by
  unfold State.endDiscard
  repeat' split
  all_goals simp

@[simp] theorem State.endFenced_memOk (s : State) (p : Nat) (h : s.memOk = true) : (s.endFenced p).memOk = true := by
  unfold State.endFenced
  split
  · exact h
  · exact State.each_memOk_of _ h fun u y hu => u.fenceStep_memOk p y hu

theorem execMigrationEnd_memOk (i : Nat) (s : State) (h : s.memOk = true) : OutcomeMemOk (execMigrationEnd i s) := by
  unfold execMigrationEnd
  rw [outcomeMemOk_ok]
  split
  · exact h
  · split
    · exact h
    · extract_lets c s1 s2 s3
      have hshifted : s3.memOk = true := by simp [s3, s2, s1, h]
      clear_value s3
      split
      · exact s3.eventPF_memOk _ hshifted
      · extract_lets s4 hit s5 s6
        have hentered : s5.memOk = true := State.each_memOk_of _ (by simp [s4, hshifted]) fun u y hu => u.enterRepair_memOk _ y c _ hu
        clear_value s5
        have hlogged : s6.memOk = true := by
          unfold s6
          split <;> simp [hentered]
        clear_value s6
        simp [hlogged]

@[simp] theorem State.endRepair_memOk (s : State) (p x act : Nat) (h : s.memOk = true) : (s.endRepair p x act).memOk = true := by
  simp [State.endRepair, h]

@[simp] theorem State.writeRepair_memOk (s : State) (req n x : Nat) (v : Word) (h : s.memOk = true) : (s.writeRepair req n x v).memOk = true := by
  simp only [State.writeRepair]
  repeat' split
  all_goals simp [h]

theorem execRepairGo_memOk (req n x : Nat) (s : State) (h : s.memOk = true) : OutcomeMemOk (execRepairGo req n x s) := by simp [execRepairGo, h]

theorem execRepairDrop_memOk (req n x : Nat) (s : State) (h : s.memOk = true) : OutcomeMemOk (execRepairDrop req n x s) := by simp [execRepairDrop, h]

/-! ### Windows (Window.lean) -/

@[simp] theorem State.writeWindow_memOk (s : State) (c k : Nat) (v : Word) : (s.writeWindow c k v).memOk = s.memOk := by
  simp only [State.writeWindow]
  repeat' split
  all_goals simp

theorem execWindowWrite_memOk (req c k : Nat) (v : Word) (s : State) (h : s.memOk = true) : OutcomeMemOk (execWindowWrite req c k v s) := by
  simp [execWindowWrite, h]

@[simp] theorem State.endZero_memOk (s : State) (c k : Nat) (h : s.memOk = true) : (s.endZero c k).memOk = true := by
  simp only [State.endZero]
  repeat' split
  all_goals simp [h]

theorem execZeroingEnd_memOk (c k : Nat) (s : State) (h : s.memOk = true) : OutcomeMemOk (execZeroingEnd c k s) := by simp [execZeroingEnd, h]

theorem execEccWriteBack_memOk (c : Nat) (s : State) (h : s.memOk = true) : OutcomeMemOk (execEccWriteBack c s) := by
  unfold execEccWriteBack
  split <;> simp [h]

/-! ### Doorbells and descriptors (Host.lean) -/

@[simp] theorem State.qpReject_memOk (s : State) (f q : Nat) : (s.qpReject f q).memOk = s.memOk := by simp [State.qpReject]
@[simp] theorem State.qpOn_memOk (s : State) (f q : Nat) : (s.qpOn f q).memOk = s.memOk := by simp [State.qpOn]

@[simp] theorem State.forget_memOk (s : State) (d : Desc) : (s.forget d).memOk = s.memOk := by
  unfold State.forget
  split <;> simp

@[simp] theorem State.qpForce_memOk (s : State) (f q : Nat) (h : s.memOk = true) : (s.qpForce f q).memOk = true := by
  unfold State.qpForce
  extract_lets mine s1 s2
  have hforgot : s1.memOk = true := by simp [s1, h]
  have hended : s2.memOk = true := State.each_memOk_of _ hforgot fun u d hu => u.complete_memOk d.id stAborted [] hu
  clear_value s2
  simp [hended]

@[simp] theorem State.writeQpCfg_memOk (s : State) (f q : Nat) (v : Word) (h : s.memOk = true) : (s.writeQpCfg f q v).memOk = true := by
  simp only [State.writeQpCfg]
  repeat' split
  all_goals simp [h]

@[simp] theorem State.writeQpBase_memOk (s : State) (f q off : Nat) (v : Word) : (s.writeQpBase f q off v).memOk = s.memOk := by
  simp [State.writeQpBase]

theorem execQpEnable_memOk (f q : Nat) (v : Word) (s : State) (h : s.memOk = true) : OutcomeMemOk (execQpEnable f q v s) := by simp [execQpEnable, h]

theorem execQpDrain_memOk (f q : Nat) (s : State) (h : s.memOk = true) : OutcomeMemOk (execQpDrain f q s) := by simp [execQpDrain, h]

theorem execQpForcedDisable_memOk (f q : Nat) (s : State) (h : s.memOk = true) : OutcomeMemOk (execQpForcedDisable f q s) := by
  simp [execQpForcedDisable, h]

theorem execQpDrainEnd_memOk (f q : Nat) (s : State) (h : s.memOk = true) : OutcomeMemOk (execQpDrainEnd f q s) := by simp [execQpDrainEnd, h]

theorem execQpError_memOk (f q : Nat) (wrote : Bool) (s : State) (h : s.memOk = true) : OutcomeMemOk (execQpError f q wrote s) := by
  simp [execQpError, h]

@[simp] theorem State.bellTail_memOk (s : State) (f q t : Nat) : (s.bellTail f q t).memOk = s.memOk := by simp [State.bellTail]
@[simp] theorem State.bellHead_memOk (s : State) (f q h : Nat) : (s.bellHead f q h).memOk = s.memOk := by simp [State.bellHead]
@[simp] theorem State.bellArm_memOk (s : State) (f q : Nat) : (s.bellArm f q).memOk = s.memOk := by simp [State.bellArm]

@[simp] theorem State.doorbell_memOk (s : State) (f off width : Nat) (v : DWord) : (s.doorbell f off width v).memOk = s.memOk := by
  simp [State.doorbell]

theorem execDoorbellSqTail_memOk (f off width : Nat) (v : DWord) (s : State) (h : s.memOk = true) :
    OutcomeMemOk (execDoorbellSqTail f off width v s) := by
  simp [execDoorbellSqTail, h]

theorem execDoorbellCqHead_memOk (f off width : Nat) (v : DWord) (s : State) (h : s.memOk = true) :
    OutcomeMemOk (execDoorbellCqHead f off width v s) := by
  simp [execDoorbellCqHead, h]

theorem execDoorbellArm_memOk (f off width : Nat) (v : DWord) (s : State) (h : s.memOk = true) :
    OutcomeMemOk (execDoorbellArm f off width v s) := by
  simp [execDoorbellArm, h]

@[simp] theorem State.dmaRead_memOk (s : State) (a n : Nat) : (s.dmaRead a n).1.memOk = s.memOk := by
  unfold State.dmaRead
  split <;> simp

theorem execDescriptorFetch_memOk (f q : Nat) (s : State) (h : s.memOk = true) : OutcomeMemOk (execDescriptorFetch f q s) := by
  unfold execDescriptorFetch
  rw [outcomeMemOk_ok]
  dsimp only
  split
  · exact h
  · split <;> rename_i t ht
    · simp [memOk_of_fst ht ((s.dmaRead_memOk _ _).trans h)]
    · have hread := memOk_of_fst ht ((s.dmaRead_memOk _ _).trans h)
      simp [hread]

@[simp] theorem State.setDesc_memOk (s : State) (id : Nat) (g : Desc → Desc) : (s.setDesc id g).memOk = s.memOk := State.memOk_congr rfl

@[simp] theorem State.finish_memOk (s : State) (id status : Nat) (result : List Byte) : (s.finish id status result).memOk = s.memOk :=
  State.memOk_congr rfl

theorem execDescriptorDispatch_memOk (f q : Nat) (s : State) (h : s.memOk = true) : OutcomeMemOk (execDescriptorDispatch f q s) := by
  simp only [execDescriptorDispatch]
  repeat' split
  all_goals simp [h]

theorem execDescriptorCompletion_memOk (id : Nat) (s : State) (h : s.memOk = true) : OutcomeMemOk (execDescriptorCompletion id s) := by
  unfold execDescriptorCompletion
  split <;> simp [h]

theorem execNop_memOk (id : Nat) (s : State) (h : s.memOk = true) : OutcomeMemOk (execNop id s) := by
  unfold execNop
  split <;> simp [h]

@[simp] theorem State.hostDest_memOk (s : State) (p x c : Nat) (a : Word) (n : Nat) : (s.hostDest p x c a n).1.memOk = s.memOk := by
  unfold State.hostDest
  split
  · split
    · split
      next hwords => simp [memOk_fst hwords (s.checkDescWords_memOk _ _ _)]
      next hwords => exact memOk_fst hwords (s.checkDescWords_memOk _ _ _)
    · rfl
  · rfl
  · simp

@[simp] theorem State.countLoad_memOk (s : State) (p x : Nat) : (s.countLoad p x).memOk = s.memOk := State.memOk_congr rfl

theorem execLoadTensor_memOk (id : Nat) (s : State) (h : s.memOk = true) : OutcomeMemOk (execLoadTensor id s) := by
  unfold execLoadTensor
  rw [outcomeMemOk_ok]
  split
  · exact h
  · dsimp only
    split
    · exact h
    · split <;> rename_i t _ ht <;> have hdest := memOk_of_fst ht ((s.hostDest_memOk _ _ _ _ _).trans h)
      · simp [hdest]
      · split
        · rename_i u hu
          simp [memOk_of_fst hu ((t.dmaRead_memOk _ _).trans hdest)]
        · rename_i u _ hu
          have hread := memOk_of_fst hu ((t.dmaRead_memOk _ _).trans hdest)
          split <;> simp [hread]

@[simp] theorem State.checkRanges_memOk (s : State) (c k : Nat) (l : List (Nat × Nat)) : (s.checkRanges c k l).1.memOk = s.memOk := by
  induction l generalizing s with
  | nil => rfl
  | cons r l ih =>
    have hrange := s.checkRange_memOk c k r.1 r.2
    unfold State.checkRanges
    split <;> simp_all

@[simp] theorem State.toHost_memOk (s : State) (p x c : Nat) (a : Word) (n haddr : Nat) (h : s.memOk = true) :
    (s.toHost p x c a n haddr).1.memOk = true := by
  have hdest := s.hostDest_memOk p x c a n
  unfold State.toHost
  split <;> rename_i t _ ht <;> rw [ht] at hdest
  · exact hdest.trans h
  · rename_i src
    have hcheck := t.checkRanges_memOk c src.1 src.2.2
    split <;> rename_i u hu <;> rw [hu] at hcheck
    · simpa using hcheck.trans (hdest.trans h)
    · have hwritten := u.hostWrite_memOk haddr (u.take c src n) (hcheck.trans (hdest.trans h))
      split <;> rename_i w hw <;> rw [hw] at hwritten <;> exact hwritten

theorem execStoreTensor_memOk (id : Nat) (s : State) (h : s.memOk = true) : OutcomeMemOk (execStoreTensor id s) := by
  unfold execStoreTensor
  split <;> simp [h]

theorem execDigestRead_memOk (id : Nat) (s : State) (h : s.memOk = true) : OutcomeMemOk (execDigestRead id s) := by
  unfold execDigestRead
  rw [outcomeMemOk_ok]
  split
  · exact h
  · dsimp only
    split
    · split
      · exact h
      · simp [h]
    · split
      · simp [h]
      · split <;> rename_i t ht <;> simp [memOk_of_fst ht (s.hostWrite_memOk _ _ h)]

theorem execSyncSignal_memOk (id : Nat) (s : State) (h : s.memOk = true) : OutcomeMemOk (execSyncSignal id s) := by
  unfold execSyncSignal
  split <;> simp [h]

theorem execSyncWait_memOk (id : Nat) (s : State) (h : s.memOk = true) : OutcomeMemOk (execSyncWait id s) := by
  unfold execSyncWait
  split <;> simp [h]

theorem execSyncWaitTimeout_memOk (id : Nat) (s : State) (h : s.memOk = true) : OutcomeMemOk (execSyncWaitTimeout id s) := by
  unfold execSyncWaitTimeout
  split <;> simp [h]

theorem execRunStep_memOk (id : Nat) (s : State) (h : s.memOk = true) : OutcomeMemOk (execRunStep id s) := by
  unfold execRunStep
  rw [outcomeMemOk_ok]
  split
  · exact h
  · dsimp only
    split
    · simp [h]
    · split
      · rename_i t ht
        simp [memOk_of_fst ht ((s.dmaRead_memOk _ _).trans h)]
      · rename_i t _ ht
        have hread := memOk_of_fst ht ((s.dmaRead_memOk _ _).trans h)
        split
        · simp [hread]
        · split <;> simp [hread]

theorem execFrog_memOk (id : Nat) (s : State) (h : s.memOk = true) : OutcomeMemOk (execFrog id s) := by
  unfold execFrog
  split <;> simp [h]

/-! ### The page allocator (Pages.lean) -/

@[simp] theorem State.writeEntryAt_memOk (s : State) (p off e : Nat) (h : s.memOk = true) : (s.writeEntryAt p off e).memOk = true := by
  simp [State.writeEntryAt, h]

theorem execPageAlloc_memOk (id : Nat) (s : State) (h : s.memOk = true) : OutcomeMemOk (execPageAlloc id s) := by
  unfold execPageAlloc
  rw [outcomeMemOk_ok]
  split
  · exact h
  · dsimp only
    split
    · simp [h]
    · split
      · simp [h]
      · split
        · simp [h]
        · rw [State.finish_memOk]
          exact State.each_memOk_of _ (by simp [h]) fun u e hu => u.writeEntryAt_memOk _ _ _ hu

theorem execPageFree_memOk (id : Nat) (s : State) (h : s.memOk = true) : OutcomeMemOk (execPageFree id s) := by
  unfold execPageFree
  rw [outcomeMemOk_ok]
  split
  · exact h
  · extract_lets p offs es allocated stale named s1 s2
    have hwritten : s1.memOk = true := State.each_memOk_of _ h fun u e hu => u.writeEntryAt_memOk _ _ _ hu
    clear_value s1
    have hfreed : s2.memOk = true := by
      unfold s2
      split <;> simp [hwritten]
    clear_value s2
    split
    · simp [h]
    · split
      · simp [h]
      · split <;> simp [h, hfreed]

theorem execPageTableWrite_memOk (id : Nat) (s : State) (h : s.memOk = true) : OutcomeMemOk (execPageTableWrite id s) := by
  unfold execPageTableWrite
  rw [outcomeMemOk_ok]
  split
  · exact h
  · dsimp only
    split
    · simp [h]
    · split
      · rename_i t ht
        simp [memOk_of_fst ht ((s.dmaRead_memOk _ _).trans h)]
      · rename_i t _ ht
        rw [State.finish_memOk]
        exact State.each_memOk_of _ (memOk_of_fst ht ((s.dmaRead_memOk _ _).trans h)) fun u e hu => u.writeEntryAt_memOk _ _ _ hu

/-! ### LOAD_PROGRAM (Load.lean) -/

@[simp] theorem State.loadPackage_memOk (s : State) (p x : Nat) (e : List Byte) (h : s.memOk = true) : (s.loadPackage p x e).1.memOk = true := by
  unfold State.loadPackage
  dsimp only
  split
  · exact h
  · split
    · exact h
    · split
      · exact h
      · split
        · exact h
        · rw [State.onCtx_memOk]
          refine State.each_memOk_of _ h fun u r hu => ?_
          split <;> simp [hu]

@[simp] theorem State.configureSlot_memOk (s : State) (c k win entry lim : Nat) (h : s.memOk = true) :
    (s.configureSlot c k win entry lim).memOk = true := by
  unfold State.configureSlot
  split <;> simp [h]

theorem Memory.wf_withSections (m : Memory) (chans : List Nat) (b : List Byte) (h : m.wf = true) : (m.withSections chans b).wf = true :=
  foldl_wf _ h fun _ _ hm => foldl_wf _ hm fun m' _ hm' => m'.wf_put _ _ hm'

@[simp] theorem State.configure_memOk (s : State) (b dig : List Byte) (h : s.memOk = true) : (s.configure b dig).memOk = true := by
  unfold State.configure
  extract_lets p chans n m offs pool s1 init s2 s3 s4
  have hsections : s1.memOk = true := by
    obtain ⟨hscratch, htable, hrest⟩ := s.memOk_iff.mp h
    exact (State.memOk_iff _).mpr ⟨hscratch, s.tableMem.wf_withSections chans b htable, hrest⟩
  have hset : s2.memOk = true := by simpa [s2] using hsections
  clear_value s1 s2
  have hslots : s3.memOk = true :=
    State.each_memOk_of _ hset fun u c hu => State.each_memOk_of _ hu fun v k hv => v.configureSlot_memOk c k 0 0 0 hv
  clear_value s3
  rw [State.setFld_memOk]
  refine State.each_memOk_of _ hslots fun u x hu => ?_
  simp [hu]

@[simp] theorem State.closeWindows_memOk (s : State) (c : Nat) : (s.closeWindows c).memOk = s.memOk := by simp [State.closeWindows]

@[simp] theorem State.loadConfig_memOk (s : State) (d : Desc) (e : List Byte) (h : s.memOk = true) : (s.loadConfig d e).memOk = true := by
  simp only [State.loadConfig]
  repeat' split
  all_goals simp [h]

theorem execLoadProgram_memOk (id : Nat) (s : State) (h : s.memOk = true) : OutcomeMemOk (execLoadProgram id s) := by
  unfold execLoadProgram
  rw [outcomeMemOk_ok]
  dsimp only
  split
  · exact h
  · split
    · split <;> simp [h]
    · split
      · rename_i t ht
        simp [memOk_of_fst ht ((s.dmaRead_memOk _ _).trans h)]
      · rename_i t _ ht
        have hread := memOk_of_fst ht ((s.dmaRead_memOk _ _).trans h)
        split
        · simp [hread]
        · split
          · simp [hread]
          · split <;> simp [h, hread]

/-! ### The root, the store and the recorder (Secure.lean) -/

@[simp] theorem State.secReject_memOk (s : State) : s.secReject.memOk = s.memOk := by simp [State.secReject]

theorem execCertgo_memOk (req : Nat) (s : State) (h : s.memOk = true) : OutcomeMemOk (execCertgo req s) := by
  unfold execCertgo
  rw [outcomeMemOk_ok]
  split
  · exact h
  · split <;> simp [h]

theorem execRootReconstructionEnd_memOk (s : State) (h : s.memOk = true) : OutcomeMemOk (execRootReconstructionEnd s) := by
  unfold execRootReconstructionEnd
  rw [outcomeMemOk_ok]
  split
  · exact h
  · dsimp only
    have hchecked := (s.onSec_memOk (fun x => { x with checking := false }) rfl rfl).trans h
    split
    · exact (State.onSec_memOk _ _ rfl rfl).trans ((State.setBit_memOk _ _ _).trans hchecked)
    · exact (State.setBit_memOk _ _ _).trans hchecked

@[simp] theorem State.wrPair_memOk (s : State) (lo hi v : Nat) : (s.wrPair lo hi v).memOk = s.memOk := State.memOk_congr rfl
@[simp] theorem State.onStore_memOk (s : State) (f : StoreDev → StoreDev) : (s.onStore f).memOk = s.memOk := State.memOk_congr rfl
@[simp] theorem State.storeLost_memOk (s : State) : s.storeLost.memOk = s.memOk := by simp [State.storeLost]
@[simp] theorem State.storeGauge_memOk (s : State) (g : GaugeRec) (good : Bool) : (s.storeGauge g good).memOk = s.memOk := by simp [State.storeGauge]

@[simp] theorem State.storeUp_memOk (s : State) (hwm : Nat) : (s.storeUp hwm).memOk = s.memOk := by
  unfold State.storeUp
  split <;> exact (State.onSec_memOk _ _ rfl rfl).trans (by simp)

theorem execStoreBinding_memOk (good : Bool) (s : State) (h : s.memOk = true) : OutcomeMemOk (execStoreBinding good s) := by
  simp only [execStoreBinding]
  repeat' split
  all_goals simp [h]

theorem execHwmAcknowledgement_memOk (good : Bool) (s : State) (h : s.memOk = true) : OutcomeMemOk (execHwmAcknowledgement good s) := by
  unfold execHwmAcknowledgement
  split <;> simp [h]

@[simp] theorem State.kres_memOk (s : State) (v : Nat) : (s.kres v).memOk = s.memOk := by simp [State.kres]

@[simp] theorem State.writeOpkey_memOk (s : State) (key : List Byte) (good : Bool) : (s.writeOpkey key good).memOk = s.memOk := by
  simp [State.writeOpkey]

@[simp] theorem State.keyAction_memOk (s : State) (rot : Bool) (kbuf : Memory) (good : Option Bool) :
    (s.keyAction rot kbuf good).memOk = s.memOk := by
  unfold State.keyAction
  split <;> simp

@[simp] theorem State.keyCommand_memOk (s : State) (rot : Bool) (good : Option Bool) : (s.keyCommand rot good).memOk = s.memOk := by
  unfold State.keyCommand
  split <;> simp

theorem execKinst_memOk (req : Nat) (good : Option Bool) (s : State) (h : s.memOk = true) : OutcomeMemOk (execKinst req good s) := by
  unfold execKinst
  rw [outcomeMemOk_ok]
  split
  · split <;> simp [h]
  · simp [h]

theorem execKrot_memOk (req : Nat) (good : Option Bool) (s : State) (h : s.memOk = true) : OutcomeMemOk (execKrot req good s) := by
  unfold execKrot
  rw [outcomeMemOk_ok]
  split <;> simp [h]

theorem execAttest_memOk (id : Nat) (s : State) (h : s.memOk = true) : OutcomeMemOk (execAttest id s) := by
  unfold execAttest
  rw [outcomeMemOk_ok]
  split
  · exact h
  · extract_lets leaf body s1 s2
    split
    · simp [h]
    · split
      · simp [h]
      · split
        · simp [h]
        · extract_lets sig
          have hsigned : s2.memOk = true := by
            unfold s2
            split <;> simp [s1, h]
          clear_value s2
          split
          · split
            · exact h
            · exact (s.onSec_memOk _ rfl rfl).trans h
          · split <;> rename_i t ht <;> simp [memOk_of_fst ht (s2.hostWrite_memOk _ _ hsigned)]

@[simp] theorem State.pullRanges_memOk (s : State) (n : Nat) (l : List (Nat × Dest)) : (s.pullRanges n l).1.memOk = s.memOk := by
  induction l generalizing s with
  | nil => rfl
  | cons r l ih =>
    have hranges := s.checkRanges_memOk r.1 r.2.1 r.2.2.2
    unfold State.pullRanges
    split <;> simp_all

theorem execSpill_memOk (id : Nat) (s : State) (h : s.memOk = true) : OutcomeMemOk (execSpill id s) := by
  unfold execSpill
  rw [outcomeMemOk_ok]
  dsimp only
  split
  · exact h
  · rename_i d _
    split
    · simp [h]
    · split
      · simp [h]
      · split
        · simp [h]
        · have hspn (spn : Nat) := (s.onCtx_memOk d.part d.ctx fun t => { t with spn := spn }).trans h
          split
          · simp [h]
          · split
            · exact h
            · split
              · simp [h]
              · have hpulled (n : Nat) (rs : List (Nat × Dest)) (spn : Nat) := (State.pullRanges_memOk _ n rs).trans (hspn spn)
                split
                · simp [h]
                · split <;> rename_i t ht <;> have hwritten := memOk_of_fst ht (State.hostWrite_memOk _ _ _ (hpulled _ _ _))
                  · simp [hwritten]
                  · simp [hwritten]

@[simp] theorem State.pour_memOk (s : State) (n : Nat) (l : List (Nat × Dest)) (bs : List Byte) (h : s.memOk = true) :
    (s.pour n l bs).memOk = true := by
  induction l generalizing s bs with
  | nil => exact h
  | cons r l ih =>
    unfold State.pour
    split
    · exact h
    · exact ih _ _ (s.place_memOk _ _ _ h)

theorem execRestore_memOk (id : Nat) (s : State) (h : s.memOk = true) : OutcomeMemOk (execRestore id s) := by
  unfold execRestore
  rw [outcomeMemOk_ok]
  dsimp only
  split
  · exact h
  · split
    · simp [h]
    · split
      · simp [h]
      · split
        · rename_i t ht
          simp [memOk_of_fst ht ((s.dmaRead_memOk _ _).trans h)]
        · rename_i t _ ht
          have hread := memOk_of_fst ht ((s.dmaRead_memOk _ _).trans h)
          split
          · simp [hread]
          · split
            · simp [hread]
            · split
              · exact h
              · split <;> simp [hread]

@[simp] theorem State.recordBlock_memOk (s : State) (r k : Nat) (data : List Byte) (h : s.memOk = true) :
    (s.recordBlock r k data).memOk = true := by
  unfold State.recordBlock
  dsimp only
  split
  · exact h
  · obtain ⟨-, -, -, -, hpsram, hkbuf⟩ := s.memOk_iff.mp h
    refine s.onSec_memOk_of _ h ?_ hkbuf
    dsimp only
    exact Memory.wf_putBytes _ _ _ hpsram

@[simp] theorem State.recordNext_memOk (s : State) (r : Nat) (data : List Byte) (h : s.memOk = true) : (s.recordNext r data).memOk = true := by
  simp [State.recordNext, h]

theorem execRegionOverwriteEnd_memOk (r : Nat) (s : State) (h : s.memOk = true) : OutcomeMemOk (execRegionOverwriteEnd r s) := by
  unfold execRegionOverwriteEnd
  rw [outcomeMemOk_ok]
  split
  · have hempty := (State.emptyRegion_memOk _ r).trans ((s.setFld_memOk (R.SEC_REC_CFG r) F.SEC_REC_CFG_BUSY 0).trans h)
    obtain ⟨-, -, -, -, hpsram, hkbuf⟩ := (State.memOk_iff _).mp hempty
    refine State.onSec_memOk_of _ _ hempty ?_ hkbuf
    dsimp only
    exact FMap.wf_clear _ _ _ _ hpsram
  · exact h

theorem execRecorderRead_memOk (req r k : Nat) (s : State) (h : s.memOk = true) : OutcomeMemOk (execRecorderRead req r k s) := by
  unfold execRecorderRead
  rw [outcomeMemOk_ok]
  split
  · exact (State.onSec_memOk _ _ rfl rfl).trans (by simp [h])
  · exact h

theorem execRecorderReadEnd_memOk (s : State) (h : s.memOk = true) : OutcomeMemOk (execRecorderReadEnd s) := by
  unfold execRecorderReadEnd
  rw [outcomeMemOk_ok]
  split
  · exact h
  · extract_lets r k b wc done
    have hdone (code : Nat) (m : List Byte) : (done s code m).memOk = true :=
      (State.onSec_memOk _ _ rfl rfl).trans ((State.wr_memOk _ _ _).trans h)
    clear_value done
    split
    · exact hdone _ _
    · split
      · exact hdone _ _
      · split <;> exact hdone _ _

/-! ### The Kornal links (Links.lean) -/

@[simp] theorem State.setLinkState_memOk (s : State) (l st : Nat) (h : s.memOk = true) : (s.setLinkState l st).memOk = true := by
  simp [State.setLinkState, h]

@[simp] theorem State.endWaits_memOk (s : State) (hit : Nat → Nat → Bool) (left : List Nat) : (s.endWaits hit left).memOk = s.memOk := by
  simp [State.endWaits]

@[simp] theorem State.loseWaits_memOk (s : State) (l : Nat) : (s.loseWaits l).memOk = s.memOk := by simp [State.loseWaits]
@[simp] theorem State.cutMsg_memOk (s : State) (k : Nat) (m : MsgRef) : (s.cutMsg k m).memOk = s.memOk := by simp [State.cutMsg]

@[simp] theorem State.cutRest_memOk (s : State) (t : Transit) : (s.cutRest t).memOk = s.memOk := by
  unfold State.cutRest
  split <;> simp

@[simp] theorem State.loseArrivals_memOk (s : State) (l : Nat) : (s.loseArrivals l).memOk = s.memOk := by simp [State.loseArrivals]

@[simp] theorem State.bounce_memOk (s : State) (r : CtrlRec) (code : Nat) : (s.bounce r code).memOk = s.memOk := by
  unfold State.bounce
  split <;> simp

@[simp] theorem State.loseRec_memOk (s : State) (code : Nat) (own : Bool) (r : CtrlRec) : (s.loseRec code own r).memOk = s.memOk :=
  (s.loseRec_sends code own r).same.memOk_eq (by decide)

@[simp] theorem State.loseCredits_memOk (s : State) (hit : Nat → Bool) : (s.loseCredits hit).memOk = s.memOk := by simp [State.loseCredits]
@[simp] theorem State.loseAwaits_memOk (s : State) (hit : Nat → Nat → Bool) : (s.loseAwaits hit).memOk = s.memOk := by simp [State.loseAwaits]
@[simp] theorem State.loseTraffic_memOk (s : State) (l code : Nat) : (s.loseTraffic l code).memOk = s.memOk := by simp [State.loseTraffic]
@[simp] theorem State.loseLink_memOk (s : State) (l code : Nat) : (s.loseLink l code).memOk = s.memOk := by simp [State.loseLink]

@[simp] theorem State.dropLink_memOk (s : State) (l st code : Nat) (h : s.memOk = true) : (s.dropLink l st code).memOk = true := by
  simp [State.dropLink, h]

@[simp] theorem State.train_memOk (s : State) (l : Nat) (h : s.memOk = true) : (s.train l).memOk = true := by simp [State.train, h]

@[simp] theorem State.writeKlCtrl_memOk (s : State) (l : Nat) (v : Word) (h : s.memOk = true) : (s.writeKlCtrl l v).memOk = true := by
  simp [State.writeKlCtrl, h]

@[simp] theorem State.writeKlPool_memOk (s : State) (l p : Nat) (v : Word) : (s.writeKlPool l p v).memOk = s.memOk := by simp [State.writeKlPool]
@[simp] theorem State.writeKlId_memOk (s : State) (v : Word) : (s.writeKlId v).memOk = s.memOk := by simp [State.writeKlId]

theorem execLinkEnable_memOk (req l : Nat) (s : State) (h : s.memOk = true) : OutcomeMemOk (execLinkEnable req l s) := by simp [execLinkEnable, h]

theorem execLinkDrain_memOk (req l : Nat) (s : State) (h : s.memOk = true) : OutcomeMemOk (execLinkDrain req l s) := by simp [execLinkDrain, h]

theorem execLinkForcedDisable_memOk (req l : Nat) (s : State) (h : s.memOk = true) : OutcomeMemOk (execLinkForcedDisable req l s) := by
  simp [execLinkForcedDisable, h]

theorem execLinkDrainEnd_memOk (l : Nat) (s : State) (h : s.memOk = true) : OutcomeMemOk (execLinkDrainEnd l s) := by simp [execLinkDrainEnd, h]

theorem execTrainingEnd_memOk (l clu chip link : Nat) (pools : List (Nat × Nat)) (s : State) (h : s.memOk = true) :
    OutcomeMemOk (execTrainingEnd l clu chip link pools s) := by
  simp [execTrainingEnd, h]

theorem execTrainingRetry_memOk (l : Nat) (s : State) (h : s.memOk = true) : OutcomeMemOk (execTrainingRetry l s) := by simp [execTrainingRetry, h]

theorem execLinkDown_memOk (l : Nat) (s : State) (h : s.memOk = true) : OutcomeMemOk (execLinkDown l s) := by simp [execLinkDown, h]

theorem execPeerLinkLoss_memOk (l : Nat) (s : State) (h : s.memOk = true) : OutcomeMemOk (execPeerLinkLoss l s) := by simp [execPeerLinkLoss, h]

theorem execRouteEvaluation_memOk (s : State) (h : s.memOk = true) : OutcomeMemOk (execRouteEvaluation s) := by simp [execRouteEvaluation, h]

@[simp] theorem State.losePath_memOk (s : State) (a b : Nat) : (s.losePath a b).memOk = s.memOk := by simp [State.losePath]
@[simp] theorem State.learnRoute_memOk (s : State) (l a b : Nat) (up : Bool) : (s.learnRoute l a b up).memOk = s.memOk := by simp [State.learnRoute]

@[simp] theorem State.cancelWait_memOk (s : State) (chip obj core id : Nat) : (s.cancelWait chip obj core id).memOk = s.memOk := by
  simp [State.cancelWait]

@[simp] theorem State.actRec_memOk (s : State) (l : Nat) (r : CtrlRec) : (s.actRec l r).memOk = s.memOk := by
  unfold State.actRec
  split <;> simp

@[simp] theorem State.takeRec_memOk (s : State) (l : Nat) (r : CtrlRec) : (s.takeRec l r).memOk = s.memOk := by
  unfold State.takeRec
  split <;> simp

@[simp] theorem State.takeChild_memOk (s : State) (w : WireChild) (back : Nat × Nat × Nat) : (s.takeChild w back).memOk = s.memOk := by
  simp only [State.takeChild]
  repeat' split
  all_goals simp

@[simp] theorem State.crossFlit_memOk (s : State) (k job : Nat) (m : MsgRef) (bs : List Byte) (last : Bool) (back : Nat × Nat × Nat) :
    (s.crossFlit k job m bs last back).memOk = s.memOk := by
  simp [State.crossFlit]

@[simp] theorem State.beginMsg_memOk (s : State) (l pool seq : Nat) (payload : List Byte) : (s.beginMsg l pool seq payload).memOk = s.memOk := by
  simp only [State.beginMsg]
  repeat' split
  all_goals simp

@[simp] theorem State.goOnMsg_memOk (s : State) (l pool seq : Nat) (t : Transit) (payload : List Byte) :
    (s.goOnMsg l pool seq t payload).memOk = s.memOk := by
  unfold State.goOnMsg
  split <;> simp

@[simp] theorem State.takeData_memOk (s : State) (l pool seq : Nat) (payload : List Byte) : (s.takeData l pool seq payload).memOk = s.memOk := by
  unfold State.takeData
  split <;> simp

@[simp] theorem State.resend_memOk (s : State) (l : Nat) (a : Option Nat) : (s.resend l a).memOk = s.memOk := by
  unfold State.resend
  split <;> simp

@[simp] theorem State.takeHdr_memOk (s : State) (l h : Nat) : (s.takeHdr l h).memOk = s.memOk := by simp [State.takeHdr]

@[simp] theorem State.checkFlit_memOk (s : State) (l corr : Nat) (unc : Bool) (fl : List Byte) : (s.checkFlit l corr unc fl).1.memOk = s.memOk := by
  simp only [State.checkFlit]
  repeat' split
  all_goals simp

@[simp] theorem State.inOrder_memOk (s : State) (l seq : Nat) : (s.inOrder l seq).1.memOk = s.memOk := by
  simp only [State.inOrder]
  repeat' split
  all_goals simp

theorem execDataFlit_memOk (l corr : Nat) (unc : Bool) (fl : List Byte) (w : Option WireChild) (s : State) (h : s.memOk = true) :
    OutcomeMemOk (execDataFlit l corr unc fl w s) := by
  unfold execDataFlit
  rw [outcomeMemOk_ok]
  split
  · exact h
  · split
    · rename_i t ht
      exact memOk_of_fst ht ((s.checkFlit_memOk _ _ _ _).trans h)
    · rename_i t hdr ht
      have hheld := (t.takeHdr_memOk l hdr).trans (memOk_of_fst ht ((s.checkFlit_memOk _ _ _ _).trans h))
      dsimp only
      split
      · exact hheld
      · split
        · rename_i u hu
          exact memOk_of_fst hu ((State.inOrder_memOk _ _ _).trans hheld)
        · rename_i u hu
          have hordered := memOk_of_fst hu ((State.inOrder_memOk _ _ _).trans hheld)
          split <;> simp [hordered]

@[simp] theorem State.takeRecs_memOk (s : State) (l seq : Nat) (recs : List CtrlRec) : (s.takeRecs l seq recs).memOk = s.memOk := by
  simp [State.takeRecs]

theorem execCtrlFlit_memOk (l corr : Nat) (unc : Bool) (fl : List Byte) (recs : List CtrlRec) (s : State) (h : s.memOk = true) :
    OutcomeMemOk (execCtrlFlit l corr unc fl recs s) := by
  unfold execCtrlFlit
  rw [outcomeMemOk_ok]
  split
  · exact h
  · split
    · rename_i t ht
      exact memOk_of_fst ht ((s.checkFlit_memOk _ _ _ _).trans h)
    · rename_i t hdr ht
      have hheld := (t.takeHdr_memOk l hdr).trans (memOk_of_fst ht ((s.checkFlit_memOk _ _ _ _).trans h))
      dsimp only
      split
      · exact hheld
      · split <;> rename_i u hu <;> have hordered := memOk_of_fst hu ((State.inOrder_memOk _ _ _).trans hheld) <;> simp [hordered]

theorem execIdleFlit_memOk (l corr : Nat) (unc : Bool) (fl : List Byte) (s : State) (h : s.memOk = true) :
    OutcomeMemOk (execIdleFlit l corr unc fl s) := by
  unfold execIdleFlit
  rw [outcomeMemOk_ok]
  split
  · exact h
  · split
    · rename_i t ht
      exact memOk_of_fst ht ((s.checkFlit_memOk _ _ _ _).trans h)
    · rename_i t hdr ht
      have hchecked := memOk_of_fst ht ((s.checkFlit_memOk _ _ _ _).trans h)
      split <;> simp [hchecked]

theorem execNak_memOk (l ackseq : Nat) (s : State) (h : s.memOk = true) : OutcomeMemOk (execNak l ackseq s) := by simp [execNak, h]

theorem execCreditRequest_memOk (i : Nat) (s : State) (h : s.memOk = true) : OutcomeMemOk (execCreditRequest i s) := by
  simp only [execCreditRequest]
  repeat' split
  all_goals simp [h]

theorem execCreditGrant_memOk (i : Nat) (s : State) (h : s.memOk = true) : OutcomeMemOk (execCreditGrant i s) := by
  simp only [execCreditGrant]
  repeat' split
  all_goals simp [h]

@[simp] theorem State.idleLinks_memOk (s : State) : s.idleLinks.memOk = s.memOk := by simp [State.idleLinks]

/-! ### Sensor ingest (Ingest.lean) -/

@[simp] theorem State.onStrm_memOk (s : State) (t : Nat) (f : StreamSt → StreamSt) : (s.onStrm t f).memOk = s.memOk := State.memOk_congr rfl
@[simp] theorem State.setStrmState_memOk (s : State) (t v : Nat) : (s.setStrmState t v).memOk = s.memOk := by simp [State.setStrmState]
@[simp] theorem State.swFail_memOk (s : State) (t : Nat) : (s.swFail t).memOk = s.memOk := by simp [State.swFail]
@[simp] theorem State.endFrame_memOk (s : State) (t : Nat) (f : IngFrame) : (s.endFrame t f).memOk = s.memOk := by simp [State.endFrame]

@[simp] theorem State.takeLine_memOk (s : State) (t : Nat) (p : List Byte) : (s.takeLine t p).memOk = s.memOk := by
  unfold State.takeLine
  extract_lets bad lines num ptime noted full sof eof ended asm line stop sum frame
  have hnoted : noted.memOk = s.memOk := s.onStrm_memOk t _
  have hended : ended.memOk = s.memOk := by
    unfold ended
    repeat' split
    all_goals simp
  clear_value noted ended asm sum frame
  repeat' split
  all_goals simp [hnoted, hended]

@[simp] theorem State.endVideo_memOk (s : State) (t : Nat) (f : IngFrame) : (s.endVideo t f).memOk = s.memOk := by simp [State.endVideo]

@[simp] theorem State.takeAvtp_memOk (s : State) (t : Nat) (p : List Byte) : (s.takeAvtp t p).memOk = s.memOk := by
  unfold State.takeAvtp
  extract_lets seq strm gap body m frag valid full noted first restarted ended
  have hended : ended.memOk = s.memOk := by
    unfold ended noted
    repeat' split
    all_goals simp
  clear_value ended
  split
  · split <;> simp [hended]
  next hdr off tabs bytes _ =>
    extract_lets q frame tabled
    have htabled : tabled.memOk = s.memOk := by
      unfold tabled
      split <;> simp [hended]
    clear_value tabled
    repeat' split
    all_goals simp [htabled]

@[simp] theorem State.sensorFrame_memOk (s : State) (port : Nat) (fr : List Byte) : (s.sensorFrame port fr).memOk = s.memOk := by
  simp only [State.sensorFrame]
  repeat' split
  all_goals simp

theorem execLinePacket_memOk (port : Nat) (fr : List Byte) (s : State) (h : s.memOk = true) : OutcomeMemOk (execLinePacket port fr s) := by
  simp [execLinePacket, h]

theorem execAvtpPacket_memOk (port : Nat) (fr : List Byte) (s : State) (h : s.memOk = true) : OutcomeMemOk (execAvtpPacket port fr s) := by
  simp [execAvtpPacket, h]

theorem execFrameTimeout_memOk (t : Nat) (s : State) (h : s.memOk = true) : OutcomeMemOk (execFrameTimeout t s) := by
  unfold execFrameTimeout
  split <;> simp [h]

@[simp] theorem State.onEntry_memOk (s : State) (t id : Nat) (f : IngEntry → IngEntry) : (s.onEntry t id f).memOk = s.memOk := State.memOk_congr rfl

@[simp] theorem State.stopStream_memOk (s : State) (t id reason : Nat) (h : s.memOk = true) : (s.stopStream t id reason).memOk = true := by
  simp [State.stopStream, h]

@[simp] theorem State.makeVoid_memOk (s : State) (t id reason : Nat) (h : s.memOk = true) : (s.makeVoid t id reason).memOk = true := by
  simp [State.makeVoid, h]

theorem execFrameAdmission_memOk (t : Nat) (s : State) (h : s.memOk = true) : OutcomeMemOk (execFrameAdmission t s) := by
  simp only [execFrameAdmission]
  repeat' split
  all_goals simp [h]

@[simp] theorem State.takeFree_memOk (s : State) (t : Nat) : (s.takeFree t).1.memOk = s.memOk := by
  simp only [State.takeFree]
  repeat' split
  all_goals simp

@[simp] theorem State.markIngest_memOk (s : State) (t u event id : Nat) : (s.markIngest t u event id).memOk = s.memOk := by simp [State.markIngest]

theorem execSampleStart_memOk (t u : Nat) (s : State) (h : s.memOk = true) : OutcomeMemOk (execSampleStart t u s) := by
  unfold execSampleStart
  rw [outcomeMemOk_ok]
  split
  · exact h
  · split
    · exact h
    · extract_lets s1 s2
      have hmarked : s2.memOk = true := by simp [s2, s1, h]
      clear_value s2
      split
      · exact hmarked
      · split <;> rename_i v hv <;> have htaken := memOk_of_fst hv ((s2.takeFree_memOk _).trans hmarked) <;> simp [htaken]

@[simp] theorem State.noteTarget_memOk (s : State) (t c n buf : Nat) : (s.noteTarget t c n buf).memOk = s.memOk := by simp [State.noteTarget]

@[simp] theorem State.writeTargets_memOk (s : State) (t id : Nat) (o : Tensor) (h : s.memOk = true) : (s.writeTargets t id o).1.memOk = true := by
  unfold State.writeTargets
  refine List.foldlRecOn (motive := fun r : State × Bool => r.1.memOk = true) _ _ h fun r hr n _ => ?_
  split
  · exact hr
  · dsimp only
    split
    · simpa using hr
    · exact State.each_memOk_of _ (by simpa using hr) fun u q hu => u.putWin_memOk _ _ _ _ hu

theorem execSampleEnd_memOk (t id : Nat) (s : State) (h : s.memOk = true) : OutcomeMemOk (execSampleEnd t id s) := by
  unfold execSampleEnd
  rw [outcomeMemOk_ok]
  split
  · exact h
  · split
    · simp [h]
    · split
      · exact h
      · dsimp only
        split <;> rename_i v hv <;> have hwritten := memOk_of_fst hv (State.writeTargets_memOk _ _ _ _ (by simp [h])) <;> simp [hwritten]

theorem execOvertime_memOk (t id : Nat) (s : State) (h : s.memOk = true) : OutcomeMemOk (execOvertime t id s) := by
  unfold execOvertime
  split <;> simp [h]

@[simp] theorem State.landArrival_memOk (s : State) (t : Nat) (a : Arrival) (note : Bool) (h : s.memOk = true) :
    (s.landArrival t a note).memOk = true := by
  unfold State.landArrival
  split
  · split <;> simp [h]
  · dsimp only
    split <;> simp [h]

@[simp] theorem State.arrive_memOk (s : State) (t : Nat) (e : IngEntry) (h : s.memOk = true) : (s.arrive t e).memOk = true :=
  s.landArrival_memOk _ _ _ h

@[simp] theorem State.arriveAborted_memOk (s : State) (t : Nat) (e : IngEntry) (h : s.memOk = true) : (s.arriveAborted t e).memOk = true := by
  unfold State.arriveAborted
  dsimp only
  split <;> simp [h]

@[simp] theorem State.deliverHead_memOk (s : State) (t : Nat) (h : s.memOk = true) : (s.deliverHead t).memOk = true := by
  unfold State.deliverHead
  split
  · exact h
  · dsimp only
    split <;> simp [h]

@[simp] theorem State.deliverAll_memOk (s : State) (t fuel : Nat) (h : s.memOk = true) : (s.deliverAll t fuel).memOk = true := by
  induction fuel generalizing s with
  | zero => exact h
  | succ fuel ih =>
    unfold State.deliverAll
    split
    · exact ih _ (s.deliverHead_memOk t h)
    · exact h

@[simp] theorem State.drainedStrm_memOk (s : State) (t : Nat) : (s.drainedStrm t).memOk = s.memOk := by simp [State.drainedStrm]

@[simp] theorem State.landOwed_memOk (s : State) (t : Nat) (a : Arrival) (h : s.memOk = true) : (s.landOwed t a).memOk = true := by
  simp [State.landOwed, h]

theorem execSampleDelivery_memOk (t : Nat) (s : State) (h : s.memOk = true) : OutcomeMemOk (execSampleDelivery t s) := by
  simp only [execSampleDelivery]
  repeat' split
  all_goals simp [h]

@[simp] theorem State.strmReject_memOk (s : State) (t : Nat) : (s.strmReject t).memOk = s.memOk := by simp [State.strmReject]
@[simp] theorem State.strmEnable_memOk (s : State) (t : Nat) (v : Word) : (s.strmEnable t v).memOk = s.memOk := by simp [State.strmEnable]

@[simp] theorem State.strmForce_memOk (s : State) (t : Nat) (h : s.memOk = true) : (s.strmForce t).memOk = true := by
  unfold State.strmForce
  extract_lets es s1
  have hlanded : s1.memOk = true := State.each_memOk_of _ h fun u e hu => by simp [hu]
  clear_value s1
  simp [hlanded]

@[simp] theorem State.strmDrain_memOk (s : State) (t : Nat) : (s.strmDrain t).memOk = s.memOk := by simp [State.strmDrain]

@[simp] theorem State.writeStrmCtrl_memOk (s : State) (t : Nat) (v : Word) (h : s.memOk = true) : (s.writeStrmCtrl t v).memOk = true := by
  simp only [State.writeStrmCtrl]
  repeat' split
  all_goals simp [h]

@[simp] theorem State.writeStrm_memOk (s : State) (t off mask : Nat) (v : Word) : (s.writeStrm t off mask v).memOk = s.memOk := by
  simp [State.writeStrm]

@[simp] theorem State.writePortCfg_memOk (s : State) (v : Word) : (s.writePortCfg v).memOk = s.memOk := by simp [State.writePortCfg]

theorem execStreamEnable_memOk (req t : Nat) (v : Word) (s : State) (h : s.memOk = true) : OutcomeMemOk (execStreamEnable req t v s) := by
  simp [execStreamEnable, h]

theorem execStreamDrain_memOk (req t : Nat) (s : State) (h : s.memOk = true) : OutcomeMemOk (execStreamDrain req t s) := by simp [execStreamDrain, h]

theorem execStreamForcedDisable_memOk (req t : Nat) (s : State) (h : s.memOk = true) : OutcomeMemOk (execStreamForcedDisable req t s) := by
  simp [execStreamForcedDisable, h]

@[simp] theorem State.rebase_memOk (s : State) (t : Nat) : (s.rebase t).memOk = s.memOk := State.memOk_congr rfl
@[simp] theorem State.endCtl_memOk (s : State) (id t status : Nat) : (s.endCtl id t status).memOk = s.memOk := State.memOk_congr rfl

@[simp] theorem State.unhold_memOk (s : State) (t : Nat) (h : s.memOk = true) : (s.unhold t).memOk = true :=
  State.deliverAll_memOk _ _ _ (by simp [h])

theorem execIngestCtlResume_memOk (id : Nat) (s : State) (h : s.memOk = true) : OutcomeMemOk (execIngestCtlResume id s) := by
  simp only [execIngestCtlResume]
  repeat' split
  all_goals simp [h]

theorem execIngestCtlReset_memOk (id : Nat) (s : State) (h : s.memOk = true) : OutcomeMemOk (execIngestCtlReset id s) := by
  unfold execIngestCtlReset
  rw [outcomeMemOk_ok]
  split
  · exact h
  · split
    · exact h
    · split
      · simp [h]
      · rename_i t _
        split
        · simp [h]
        · extract_lets es s1 s2 s3
          have hvoided : s1.memOk = true := State.each_memOk_of _ h fun u e hu => u.makeVoid_memOk t _ _ hu
          clear_value s1
          have hrestarted : s3.memOk = true := by
            unfold s3
            split <;> simp [s2, hvoided]
          clear_value s3
          simp [hrestarted]

theorem execIngestCtlStatus_memOk (id : Nat) (s : State) (h : s.memOk = true) : OutcomeMemOk (execIngestCtlStatus id s) := by
  simp only [execIngestCtlStatus]
  repeat' split
  all_goals simp [h]

theorem execSwatchTurn_memOk (t u : Nat) (s : State) (h : s.memOk = true) : OutcomeMemOk (execSwatchTurn t u s) := by
  unfold execSwatchTurn
  split <;> simp [h]

theorem execSwatchEnd_memOk (t : Nat) (late : Bool) (s : State) (h : s.memOk = true) : OutcomeMemOk (execSwatchEnd t late s) := by
  simp only [execSwatchEnd]
  repeat' split
  all_goals simp [h]

@[simp] theorem State.swData_memOk (s : State) (w : Option Word) (h : s.memOk = true) : (s.swData w).memOk = true := by
  unfold State.swData
  dsimp only
  rw [State.setFld_memOk]
  split
  · obtain ⟨hscratch, htable, hhost, hing, hrest⟩ := s.memOk_iff.mp h
    exact (State.memOk_iff _).mpr ⟨hscratch, htable, hhost, Memory.wf_putBytes _ _ _ hing, hrest⟩
  · simp [h]

theorem execSwdataAccess_memOk (req : Nat) (wr_ : Option Word) (s : State) (h : s.memOk = true) : OutcomeMemOk (execSwdataAccess req wr_ s) := by
  simp only [execSwdataAccess]
  repeat' split
  all_goals simp [h]

/-! ### The time bases (TimeBase.lean) -/

@[simp] theorem State.onTime_memOk (s : State) (f : TimeSt → TimeSt) : (s.onTime f).memOk = s.memOk := State.memOk_congr rfl
@[simp] theorem State.setPair_memOk (s : State) (lo hi v : Nat) : (s.setPair lo hi v).memOk = s.memOk := State.memOk_congr rfl
@[simp] theorem State.setD_memOk (s : State) (d : Int) : (s.setD d).memOk = s.memOk := by simp [State.setD]
@[simp] theorem State.switchTb3_memOk (s : State) (o : Nat) : (s.switchTb3 o).memOk = s.memOk := by simp [State.switchTb3]
@[simp] theorem State.autoSwitch_memOk (s : State) : s.autoSwitch.memOk = s.memOk := by simp [State.autoSwitch]
@[simp] theorem State.timeSettle_memOk (s : State) : s.timeSettle.memOk = s.memOk := by simp [State.timeSettle]
@[simp] theorem State.setTbState_memOk (s : State) (n st : Nat) : (s.setTbState n st).memOk = s.memOk := by simp [State.setTbState]
@[simp] theorem State.stepBase_memOk (s : State) (n : Nat) (v : Int) : (s.stepBase n v).memOk = s.memOk := State.memOk_congr rfl
@[simp] theorem State.tickBases_memOk (s : State) : s.tickBases.memOk = s.memOk := by simp [State.tickBases]
@[simp] theorem State.onPort_memOk (s : State) (p : Nat) (f : CpSt → CpSt) : (s.onPort p f).memOk = s.memOk := State.memOk_congr rfl

/-! ### The loop engine (Loop.lean) -/

@[simp] theorem State.onLe_memOk (s : State) (f : LeSt → LeSt) : (s.onLe f).memOk = s.memOk := State.memOk_congr rfl
@[simp] theorem State.lePut_memOk (s : State) (a : Nat) (v : Word) : (s.lePut a v).memOk = s.memOk := State.memOk_congr rfl
@[simp] theorem State.setSig_memOk (s : State) (j x : Nat) (v : Word) : (s.setSig j x v).memOk = s.memOk := State.memOk_congr rfl
@[simp] theorem State.latchLoop_memOk (s : State) (j : Nat) : (s.latchLoop j).memOk = s.memOk := s.each_memOk _ _ fun u e => by split <;> simp
@[simp] theorem State.rejectGroup_memOk (s : State) (g : Nat) : (s.rejectGroup g).memOk = s.memOk := by simp [State.rejectGroup]
@[simp] theorem State.dropLoops_memOk (s : State) (g : Nat) : (s.dropLoops g).memOk = s.memOk := State.memOk_congr rfl
@[simp] theorem State.dropOutputs_memOk (s : State) (g : Nat) : (s.dropOutputs g).memOk = s.memOk := State.memOk_congr rfl
@[simp] theorem State.groupOff_memOk (s : State) (g : Nat) : (s.groupOff g).memOk = s.memOk := by simp [State.groupOff]
@[simp] theorem State.writeGrp_memOk (s : State) (g : Nat) (v : Word) : (s.writeGrp g v).memOk = s.memOk := by simp [State.writeGrp]

theorem execGroupEnable_memOk (req g : Nat) (v : Word) (s : State) (h : s.memOk = true) : OutcomeMemOk (execGroupEnable req g v s) := by
  simp [execGroupEnable, h]

theorem execGroupCheckEnd_memOk (g : Nat) (s : State) (h : s.memOk = true) : OutcomeMemOk (execGroupCheckEnd g s) := by simp [execGroupCheckEnd, h]

theorem execGroupDrain_memOk (req g : Nat) (s : State) (h : s.memOk = true) : OutcomeMemOk (execGroupDrain req g s) := by simp [execGroupDrain, h]

theorem execGroupForcedDisable_memOk (req g : Nat) (s : State) (h : s.memOk = true) : OutcomeMemOk (execGroupForcedDisable req g s) := by
  simp [execGroupForcedDisable, h]

@[simp] theorem State.writeLeCtrl_memOk (s : State) (v : Word) : (s.writeLeCtrl v).memOk = s.memOk := by simp [State.writeLeCtrl]

theorem execLeEnable_memOk (req : Nat) (s : State) (h : s.memOk = true) : OutcomeMemOk (execLeEnable req s) := by simp [execLeEnable, h]

theorem execLeDisable_memOk (req : Nat) (s : State) (h : s.memOk = true) : OutcomeMemOk (execLeDisable req s) := by simp [execLeDisable, h]

theorem execPcommit_memOk (req : Nat) (s : State) (h : s.memOk = true) : OutcomeMemOk (execPcommit req s) := by simp [execPcommit, h]

theorem execLeRestore_memOk (req j : Nat) (s : State) (h : s.memOk = true) : OutcomeMemOk (execLeRestore req j s) := by simp [execLeRestore, h]

@[simp] theorem State.leWrite_memOk (s : State) (a : Nat) (v : Word) : (s.leWrite a v).memOk = s.memOk := by simp [State.leWrite]

@[simp] theorem State.memData_memOk (s : State) (w : Option Word) : (s.memData w).memOk = s.memOk := by
  unfold State.memData
  split <;> simp

theorem execLeMemdataAccess_memOk (req : Nat) (w : Option Word) (s : State) (h : s.memOk = true) : OutcomeMemOk (execLeMemdataAccess req w s) := by
  simp only [execLeMemdataAccess]
  repeat' split
  all_goals simp [h]

@[simp] theorem State.stageLoop_memOk (s : State) (g j : Nat) : (s.stageLoop g j).memOk = s.memOk := by simp [State.stageLoop]
@[simp] theorem State.releaseTemplate_memOk (s : State) (t : Nat) : (s.releaseTemplate t).memOk = s.memOk := State.memOk_congr rfl
@[simp] theorem State.setOsc_memOk (s : State) (j : Nat) (o : OscSt) : (s.setOsc j o).memOk = s.memOk := State.memOk_congr rfl
@[simp] theorem State.oscPeriod_memOk (s : State) (j : Nat) (fresh : Bool) : (s.oscPeriod j fresh).memOk = s.memOk := State.memOk_congr rfl
@[simp] theorem State.oscTest_memOk (s : State) (j : Nat) : (s.oscTest j).memOk = s.memOk := by simp [State.oscTest]

@[simp] theorem State.selectProgram_memOk (s : State) (j : Nat) (fresh : Bool) : (s.selectProgram j fresh).memOk = s.memOk := by
  simp [State.selectProgram]

@[simp] theorem State.releaseDue_memOk (s : State) (gs : List Nat) : (s.releaseDue gs).memOk = s.memOk := by simp [State.releaseDue]
@[simp] theorem State.boundary_memOk (s : State) (g k : Nat) : (s.boundary g k).memOk = s.memOk := by simp [State.boundary]

theorem execLoopStart_memOk (l : Nat) (s : State) (h : s.memOk = true) : OutcomeMemOk (execLoopStart l s) := by
  simp only [execLoopStart]
  repeat' split
  all_goals simp [h]

@[simp] theorem State.traceSample_memOk (s : State) (c : Nat) (v : Word) : (s.traceSample c v).memOk = s.memOk := by simp [State.traceSample]
@[simp] theorem State.commitLoop_memOk (s : State) (r : LoopRun) : (s.commitLoop r).memOk = s.memOk := by simp [State.commitLoop]

theorem execLoopCommit_memOk (l : Nat) (mismatch : Bool) (s : State) (h : s.memOk = true) : OutcomeMemOk (execLoopCommit l mismatch s) := by
  unfold execLoopCommit
  split <;> simp [h]

@[simp] theorem State.markStale_memOk (s : State) (m : Nat) : (s.markStale m).memOk = s.memOk := by simp [State.markStale]

theorem execMailboxStale_memOk (m : Nat) (s : State) (h : s.memOk = true) : OutcomeMemOk (execMailboxStale m s) := by simp [execMailboxStale, h]

@[simp] theorem State.mbAccept_memOk (s : State) (m : Nat) (q : Msg) : (s.mbAccept m q).memOk = s.memOk := by simp [State.mbAccept]

theorem execMailboxMessage_memOk (i : Nat) (s : State) (h : s.memOk = true) : OutcomeMemOk (execMailboxMessage i s) := by
  unfold execMailboxMessage
  split <;> simp [h]

@[simp] theorem State.writeMbCfg_memOk (s : State) (m : Nat) (v : Word) : (s.writeMbCfg m v).memOk = s.memOk := by simp [State.writeMbCfg]
@[simp] theorem State.tripComp_memOk (s : State) (k : Nat) : (s.tripComp k).memOk = s.memOk := State.memOk_congr rfl
@[simp] theorem State.compare_memOk (s : State) (e : Nat) (v : Word) : (s.compare e v).memOk = s.memOk := by simp [State.compare]

theorem execControlFrame_memOk (port : Nat) (fr : List Byte) (s : State) (h : s.memOk = true) : OutcomeMemOk (execControlFrame port fr s) := by
  simp only [execControlFrame]
  repeat' split
  all_goals simp [h]

@[simp] theorem State.writeTrCtrl_memOk (s : State) (v : Word) : (s.writeTrCtrl v).memOk = s.memOk := by simp [State.writeTrCtrl]

theorem execTraceArm_memOk (req : Nat) (v : Word) (s : State) (h : s.memOk = true) : OutcomeMemOk (execTraceArm req v s) := by simp [execTraceArm, h]

theorem execFire_memOk (req : Nat) (s : State) (h : s.memOk = true) : OutcomeMemOk (execFire req s) := by simp [execFire, h]

@[simp] theorem State.traceTick_memOk (s : State) : s.traceTick.memOk = s.memOk := by simp [State.traceTick]

theorem execTraceStop_memOk (s : State) (h : s.memOk = true) : OutcomeMemOk (execTraceStop s) := by simp [execTraceStop, h]

theorem execRecorderBlock_memOk (skip : Bool) (s : State) (h : s.memOk = true) : OutcomeMemOk (execRecorderBlock skip s) := by
  simp only [execRecorderBlock]
  repeat' split
  all_goals simp [h]

@[simp] theorem State.applyParams_memOk (s : State) : s.applyParams.memOk = s.memOk := by
  unfold State.applyParams
  split
  · simp only [State.onLe_memOk, State.setFld_memOk]
    exact s.each_memOk _ _ fun u p => by split <;> simp
  · rfl

@[simp] theorem State.dropTicks_memOk (s : State) : s.dropTicks.memOk = s.memOk := by simp [State.dropTicks]
@[simp] theorem State.beat_memOk (s : State) : s.beat.memOk = s.memOk := by simp [State.beat]

theorem execBaseTick_memOk (s : State) (h : s.memOk = true) : OutcomeMemOk (execBaseTick s) := by simp [execBaseTick, h]

/-! ### PTP, captures and gate lists (Time.lean) -/

@[simp] theorem State.onTb_memOk (s : State) (n : Nat) (f : TbSt → TbSt) : (s.onTb n f).memOk = s.memOk := State.memOk_congr rfl
@[simp] theorem State.setCorr_memOk (s : State) (n : Nat) (c : Int) : (s.setCorr n c).memOk = s.memOk := State.memOk_congr rfl
@[simp] theorem State.servo_memOk (s : State) (n : Nat) (theta : Int) : (s.servo n theta).memOk = s.memOk := by simp [State.servo]
@[simp] theorem State.offset_memOk (s : State) (n : Nat) (theta : Int) : (s.offset n theta).memOk = s.memOk := by simp [State.offset]
@[simp] theorem State.delayed_memOk (s : State) (n : Nat) (m : Int) : (s.delayed n m).memOk = s.memOk := State.memOk_congr rfl

theorem execHoldover_memOk (n : Nat) (s : State) (h : s.memOk = true) : OutcomeMemOk (execHoldover n s) := by simp [execHoldover, h]

@[simp] theorem State.writeTbCtrl_memOk (s : State) (n : Nat) (v : Word) : (s.writeTbCtrl n v).memOk = s.memOk := by simp [State.writeTbCtrl]

theorem execTbEnable_memOk (req n : Nat) (v : Word) (s : State) (h : s.memOk = true) : OutcomeMemOk (execTbEnable req n v s) := by
  simp [execTbEnable, h]

theorem execTbStep_memOk (req n : Nat) (v : Word) (s : State) (h : s.memOk = true) : OutcomeMemOk (execTbStep req n v s) := by simp [execTbStep, h]

@[simp] theorem State.writeSel_memOk (s : State) (b : Nat) : (s.writeSel b).memOk = s.memOk := by simp [State.writeSel]

theorem execSel_memOk (req b : Nat) (s : State) (h : s.memOk = true) : OutcomeMemOk (execSel req b s) := by simp [execSel, h]

@[simp] theorem State.capture_memOk (s : State) : s.capture.memOk = s.memOk := by simp [State.capture]

theorem execCap_memOk (req : Nat) (s : State) (h : s.memOk = true) : OutcomeMemOk (execCap req s) := by simp [execCap, h]

theorem execPpsIn_memOk (s : State) (h : s.memOk = true) : OutcomeMemOk (execPpsIn s) := by simp [execPpsIn, h]

theorem execPpsOut_memOk (s : State) (h : s.memOk = true) : OutcomeMemOk (execPpsOut s) := by simp [execPpsOut, h]

theorem execPpsOutFall_memOk (s : State) (h : s.memOk = true) : OutcomeMemOk (execPpsOutFall s) := by
  unfold execPpsOutFall
  split <;> simp [h]

@[simp] theorem State.synced_memOk (s : State) (n t1 t2 : Nat) (c : Int) : (s.synced n t1 t2 c).memOk = s.memOk := by simp [State.synced]

theorem execPtpSync_memOk (m : PtpMsg) (s : State) (h : s.memOk = true) : OutcomeMemOk (execPtpSync m s) := by simp [execPtpSync, h]

theorem execFollowUp_memOk (m : PtpMsg) (s : State) (h : s.memOk = true) : OutcomeMemOk (execFollowUp m s) := by
  refine (outcomeMemOk_ok _).mpr (State.each_memOk_of _ h fun u n hu => ?_)
  split
  · exact hu
  · split
    · simp [hu]
    · split <;> simp [hu]

@[simp] theorem State.askDelay_memOk (s : State) (n kind : Nat) : (s.askDelay n kind).memOk = s.memOk := State.memOk_congr rfl

theorem execDelayReq_memOk (n : Nat) (s : State) (h : s.memOk = true) : OutcomeMemOk (execDelayReq n s) := by simp [execDelayReq, h]

theorem execDelayResp_memOk (m : PtpMsg) (s : State) (h : s.memOk = true) : OutcomeMemOk (execDelayResp m s) := by
  refine (outcomeMemOk_ok _).mpr (State.each_memOk_of _ h fun u n hu => ?_)
  split <;> simp [hu]

theorem execPdelayReq_memOk (n : Nat) (rx : Option PtpMsg) (s : State) (h : s.memOk = true) : OutcomeMemOk (execPdelayReq n rx s) := by
  unfold execPdelayReq
  split <;> simp [h]

@[simp] theorem State.linkDelay_memOk (s : State) (n q1 q4 : Nat) (turn : Int) : (s.linkDelay n q1 q4 turn).memOk = s.memOk := State.memOk_congr rfl

theorem execPdelayResp_memOk (followUp : Bool) (m : PtpMsg) (s : State) (h : s.memOk = true) : OutcomeMemOk (execPdelayResp followUp m s) := by
  refine (outcomeMemOk_ok _).mpr (State.each_memOk_of _ h fun u n hu => ?_)
  split
  · exact hu
  · split
    · split <;> simp [hu]
    · split <;> simp [hu]

@[simp] theorem State.sendTime_memOk (s : State) (l : Nat) (bytes : List Byte) : (s.sendTime l bytes).memOk = s.memOk := by simp [State.sendTime]

theorem execTimeRequest_memOk (n : Nat) (s : State) (h : s.memOk = true) : OutcomeMemOk (execTimeRequest n s) := by simp [execTimeRequest, h]

@[simp] theorem State.answerTime_memOk (s : State) (l : Nat) (b : List Byte) : (s.answerTime l b).memOk = s.memOk := by simp [State.answerTime]
@[simp] theorem State.takeTime_memOk (s : State) (l : Nat) (b : List Byte) : (s.takeTime l b).memOk = s.memOk := by simp [State.takeTime]

theorem execTimeFlit_memOk (l corr : Nat) (unc : Bool) (fl : List Byte) (s : State) (h : s.memOk = true) :
    OutcomeMemOk (execTimeFlit l corr unc fl s) := by
  unfold execTimeFlit
  rw [outcomeMemOk_ok]
  split
  · exact h
  · split
    · rename_i t ht
      exact memOk_of_fst ht ((s.checkFlit_memOk _ _ _ _).trans h)
    · rename_i t hdr ht
      have hchecked := memOk_of_fst ht ((s.checkFlit_memOk _ _ _ _).trans h)
      dsimp only
      split
      · simp [hchecked]
      · split
        · split <;> simp [hchecked]
        · split <;> simp [hchecked]
        · simp [hchecked]

@[simp] theorem State.showGates_memOk (s : State) (p : Nat) : (s.showGates p).memOk = s.memOk := State.memOk_congr rfl

theorem execGateInterval_memOk (p : Nat) (s : State) (h : s.memOk = true) : OutcomeMemOk (execGateInterval p s) := by simp [execGateInterval, h]

@[simp] theorem State.swapBanks_memOk (s : State) (p start : Nat) : (s.swapBanks p start).memOk = s.memOk := by simp [State.swapBanks]

theorem execSwapApply_memOk (p : Nat) (s : State) (h : s.memOk = true) : OutcomeMemOk (execSwapApply p s) := by simp [execSwapApply, h]

@[simp] theorem State.writeGctrl_memOk (s : State) (p : Nat) (v : Word) : (s.writeGctrl p v).memOk = s.memOk := by simp [State.writeGctrl]

theorem execSwap_memOk (req p : Nat) (s : State) (h : s.memOk = true) : OutcomeMemOk (execSwap req p s) := by simp [execSwap, h]

@[simp] theorem State.writeGcl_memOk (s : State) (p i : Nat) (v : Word) : (s.writeGcl p i v).memOk = s.memOk := State.memOk_congr rfl
@[simp] theorem State.writePreempt_memOk (s : State) (p : Nat) (v : Word) : (s.writePreempt p v).memOk = s.memOk := by simp [State.writePreempt]

theorem execPreemptVerify_memOk (p : Nat) (s : State) (h : s.memOk = true) : OutcomeMemOk (execPreemptVerify p s) := by simp [execPreemptVerify, h]

@[simp] theorem State.startTx_memOk (s : State) (p : Nat) (f : TxFrame) (n : Nat) : (s.startTx p f n).memOk = s.memOk := State.memOk_congr rfl

@[simp] theorem State.endTx_memOk (s : State) (p : Nat) : (s.endTx p).memOk = s.memOk := by
  unfold State.endTx
  split <;> simp

@[simp] theorem State.pickTx_memOk (s : State) (p : Nat) : (s.pickTx p).memOk = s.memOk := by
  simp only [State.pickTx]
  repeat' split
  all_goals simp

@[simp] theorem State.interruptTx_memOk (s : State) (p : Nat) : (s.interruptTx p).memOk = s.memOk := by
  unfold State.interruptTx
  split <;> simp

@[simp] theorem State.tickPort_memOk (s : State) (p : Nat) : (s.tickPort p).memOk = s.memOk := by simp [State.tickPort]

/-! ### The safety block (Safe.lean) -/

@[simp] theorem State.onSafe_memOk (s : State) (f : SafeSt → SafeSt) : (s.onSafe f).memOk = s.memOk := State.memOk_congr rfl
@[simp] theorem State.onTests_memOk (s : State) (f : TestSt → TestSt) : (s.onTests f).memOk = s.memOk := State.memOk_congr rfl
@[simp] theorem State.writeForce_memOk (s : State) (v : Word) : (s.writeForce v).memOk = s.memOk := by simp [State.writeForce]

theorem execDdForce_memOk (req : Nat) (v : Word) (s : State) (h : s.memOk = true) : OutcomeMemOk (execDdForce req v s) := by simp [execDdForce, h]

@[simp] theorem State.clearDomains_memOk (s : State) (v : Word) : (s.clearDomains v).memOk = s.memOk := by simp [State.clearDomains]

theorem execSilentTest_memOk (k : Nat) (s : State) (h : s.memOk = true) : OutcomeMemOk (execSilentTest k s) := by simp [execSilentTest, h]

@[simp] theorem State.tripPins_memOk (s : State) : s.tripPins.memOk = s.memOk := by simp [State.tripPins]

theorem execTripIn_memOk (k n : Nat) (s : State) (h : s.memOk = true) : OutcomeMemOk (execTripIn k n s) := by
  simp only [execTripIn]
  repeat' split
  all_goals simp [h]

theorem execTripPathFault_memOk (kind k : Nat) (s : State) (h : s.memOk = true) : OutcomeMemOk (execTripPathFault kind k s) := by
  simp only [execTripPathFault]
  repeat' split
  all_goals simp [h]

theorem execClockFail_memOk (bad : Bool) (s : State) (h : s.memOk = true) : OutcomeMemOk (execClockFail bad s) := by simp [execClockFail, h]

@[simp] theorem State.writePermit_memOk (s : State) (k : Nat) (v : Word) : (s.writePermit k v).memOk = s.memOk := by simp [State.writePermit]

theorem execGrant_memOk (req k : Nat) (b : Bool) (s : State) (h : s.memOk = true) : OutcomeMemOk (execGrant req k b s) := by simp [execGrant, h]

theorem execLock_memOk (req : Nat) (s : State) (h : s.memOk = true) : OutcomeMemOk (execLock req s) := by simp [execLock, h]

@[simp] theorem State.safeAfter_memOk (s : State) (a : Nat) (old : Word) : (s.safeAfter a old).memOk = s.memOk := by simp [State.safeAfter]

@[simp] theorem State.march_memOk (s : State) (c : Nat) (h : s.memOk = true) : (s.march c).memOk = true :=
  State.memOk_scratch h (FMap.wf_filter _ _ _ (s.memOk_iff.mp h).1) rfl

theorem execFabricSlice_memOk (ch : Nat) (s : State) (h : s.memOk = true) : OutcomeMemOk (execFabricSlice ch s) := by simp [execFabricSlice, h]

theorem execFabricSliceEnd_memOk (ch : Nat) (bad : List Nat) (s : State) (h : s.memOk = true) : OutcomeMemOk (execFabricSliceEnd ch bad s) := by
  unfold execFabricSliceEnd
  rw [outcomeMemOk_ok]
  split
  · exact h
  · extract_lets last s1 s2 fails s3 s4 s5
    have hmarched : s1.memOk = true := State.each_memOk_of _ h fun u c hu => u.march_memOk c hu
    clear_value s1
    have hfailed : s3.memOk = true := State.each_memOk_of _ (by simp [s2, hmarched]) fun u r hu => u.coreFails_memOk ch r _ 5 hu
    clear_value s3
    have hflagged : s4.memOk = true := by
      unfold s4
      split <;> simp [hfailed]
    clear_value s4
    have hdone : s5.memOk = true := by
      unfold s5
      split <;> simp [hflagged]
    clear_value s5
    split <;> simp [hdone]

theorem execIslandSlice_memOk (l : Nat) (s : State) (h : s.memOk = true) : OutcomeMemOk (execIslandSlice l s) := by simp [execIslandSlice, h]

theorem execIslandSliceEnd_memOk (l : Nat) (fail : Bool) (s : State) (h : s.memOk = true) : OutcomeMemOk (execIslandSliceEnd l fail s) := by
  simp [execIslandSliceEnd, h]

@[simp] theorem State.startPass_memOk (s : State) (ch : Nat) : (s.startPass ch).memOk = s.memOk := by simp [State.startPass]
@[simp] theorem State.startIsland_memOk (s : State) : s.startIsland.memOk = s.memOk := State.memOk_congr rfl
@[simp] theorem State.startTests_memOk (s : State) : s.startTests.memOk = s.memOk := by simp [State.startTests]

@[simp] theorem State.fabricInterval_memOk (s : State) (ch : Nat) (h : s.memOk = true) : (s.fabricInterval ch).memOk = true := by
  simp [State.fabricInterval, h]

@[simp] theorem State.islandInterval_memOk (s : State) (h : s.memOk = true) : s.islandInterval.memOk = true := by simp [State.islandInterval, h]

theorem execTestInterval_memOk (s : State) (h : s.memOk = true) : OutcomeMemOk (execTestInterval s) := by
  unfold execTestInterval
  rw [outcomeMemOk_ok]
  split
  · exact h
  · exact State.islandInterval_memOk _ (State.each_memOk_of _ h fun u ch hu => u.fabricInterval_memOk ch hu)

@[simp] theorem State.writeTestCtrl_memOk (s : State) (v : Word) : (s.writeTestCtrl v).memOk = s.memOk := by simp [State.writeTestCtrl]

theorem execBistgo_memOk (req ch : Nat) (s : State) (h : s.memOk = true) : OutcomeMemOk (execBistgo req ch s) := by simp [execBistgo, h]

@[simp] theorem State.endBist_memOk (s : State) : s.endBist.memOk = s.memOk := by simp [State.endBist]

theorem execBistEnd_memOk (bad : List (Nat × Nat)) (s : State) (h : s.memOk = true) : OutcomeMemOk (execBistEnd bad s) := by
  unfold execBistEnd
  rw [outcomeMemOk_ok]
  split
  · exact h
  · extract_lets s1 fails s2
    have hfailed : s2.memOk = true := State.each_memOk_of _ (by simp [s1, h]) fun u q hu => u.coreFails_memOk _ _ _ 5 hu
    clear_value s2
    split <;> simp [hfailed]

/-! ### Tension, gauges, supply (Power.lean) -/

@[simp] theorem State.onPwr_memOk (s : State) (f : PwrSt → PwrSt) : (s.onPwr f).memOk = s.memOk := State.memOk_congr rfl
@[simp] theorem State.onGauge_memOk (s : State) (f : GaugeSt → GaugeSt) : (s.onGauge f).memOk = s.memOk := State.memOk_congr rfl
@[simp] theorem State.putBit_memOk (s : State) (a : Nat) (f : Fld) (i : Nat) (b : Bool) : (s.putBit a f i b).memOk = s.memOk := State.memOk_congr rfl
@[simp] theorem State.countStretch_memOk (s : State) (ch : Nat) : (s.countStretch ch).memOk = s.memOk := by simp [State.countStretch]
@[simp] theorem State.burst_memOk (s : State) (ch : Nat) : (s.burst ch).memOk = s.memOk := by simp [State.burst]
@[simp] theorem State.tenChannel_memOk (s : State) (ch : Nat) : (s.tenChannel ch).memOk = s.memOk := by simp [State.tenChannel]
@[simp] theorem State.tension_memOk (s : State) : s.tension.memOk = s.memOk := by simp [State.tension]

theorem execFastDroop_memOk (ch : Nat) (present : Bool) (s : State) (h : s.memOk = true) : OutcomeMemOk (execFastDroop ch present s) := by
  simp [execFastDroop, h]

@[simp] theorem State.gaugeHead_memOk (s : State) (n : Nat) : (s.gaugeHead n).memOk = s.memOk := State.memOk_congr rfl
@[simp] theorem State.measure_memOk (s : State) (n : Nat) : (s.measure n).memOk = s.memOk := by simp [State.measure]
@[simp] theorem State.measureAll_memOk (s : State) : s.measureAll.memOk = s.memOk := by simp [State.measureAll]
@[simp] theorem State.clearCe_memOk (s : State) : s.clearCe.memOk = s.memOk := by simp [State.clearCe]

theorem execGaugeMeasurement_memOk (ch : Option Nat) (s : State) (h : s.memOk = true) : OutcomeMemOk (execGaugeMeasurement ch s) := by
  simp only [execGaugeMeasurement]
  repeat' split
  all_goals simp [h]

theorem execNow_memOk (req : Nat) (s : State) (h : s.memOk = true) : OutcomeMemOk (execNow req s) := by simp [execNow, h]

@[simp] theorem State.marginStep_memOk (s : State) (n : Nat) (slack : Int) (sram : Bool) (h : s.memOk = true) :
    (s.marginStep n slack sram).memOk = true := by
  simp only [State.marginStep]
  repeat' split
  all_goals simp [h]

theorem execGaugeMeasurementEnd_memOk (n : Nat) (slack : Int) (sram : Bool) (s : State) (h : s.memOk = true) :
    OutcomeMemOk (execGaugeMeasurementEnd n slack sram s) := by
  simp [execGaugeMeasurementEnd, h]

@[simp] theorem State.pmbusFails_memOk (s : State) (n : Nat) : (s.pmbusFails n).memOk = s.memOk := by simp [State.pmbusFails]

theorem execPmbusTransactionEnd_memOk (n : Nat) (good : Bool) (s : State) (h : s.memOk = true) :
    OutcomeMemOk (execPmbusTransactionEnd n good s) := by
  simp only [execPmbusTransactionEnd]
  repeat' split
  all_goals simp [h]

@[simp] theorem State.warnRail_memOk (s : State) (r : Nat) (h : s.memOk = true) : (s.warnRail r).memOk = true := by simp [State.warnRail, h]

theorem execSupplyWarning_memOk (r : Nat) (s : State) (h : s.memOk = true) : OutcomeMemOk (execSupplyWarning r s) := by simp [execSupplyWarning, h]

@[simp] theorem State.dropRegs_memOk (s : State) (f : Nat → Bool) : (s.dropRegs f).memOk = s.memOk := State.memOk_congr rfl
@[simp] theorem State.putUp_memOk (s : State) (d : Nat) (b : Bool) : (s.putUp d b).memOk = s.memOk := by simp [State.putUp]
@[simp] theorem State.raiseUp_memOk (s : State) (ds : List Nat) : (s.raiseUp ds).memOk = s.memOk := by simp [State.raiseUp]

@[simp] theorem State.clearCores_memOk (s : State) (n : Nat) (h : s.memOk = true) : (s.clearCores n).memOk = true :=
  State.memOk_scratch h (FMap.wf_clear _ _ _ _ (s.memOk_iff.mp h).1) rfl

@[simp] theorem State.resetChannel_memOk (s : State) (n : Nat) (h : s.memOk = true) : (s.resetChannel n).memOk = true := by
  unfold State.resetChannel
  extract_lets s1 s2 unbound s3 s4 s5 s6 trc s7 s8
  have hcleared : s3.memOk = true := by simp [s3, s2, s1, h]
  have hbist : s6.memOk = true := by
    unfold s6
    split <;> simp [s5, s4, hcleared]
  clear_value s6
  have hdown : s8.memOk = true := by simp [s8, s7, hbist]
  clear_value s8
  split <;> simp [hdown]

@[simp] theorem State.railResetChannel_memOk (s : State) (n : Nat) (h : s.memOk = true) : (s.railResetChannel n).memOk = true := by
  unfold State.railResetChannel
  dsimp only
  split <;> simp [h]

@[simp] theorem State.releaseChannel_memOk (s : State) (n : Nat) : (s.releaseChannel n).memOk = s.memOk := by
  simp only [State.releaseChannel]
  repeat' split
  all_goals simp

theorem execSupplyRecovery_memOk (r : Nat) (s : State) (h : s.memOk = true) : OutcomeMemOk (execSupplyRecovery r s) := by simp [execSupplyRecovery, h]

/-! ### Resets and power gating (Reset.lean) -/

@[simp] theorem State.islandReset_memOk (s : State) (h : s.memOk = true) : s.islandReset.memOk = true := by
  unfold State.islandReset
  extract_lets s1 tests safe s2 s3
  have hdropped : s1.memOk = true := by simp [s1, h]
  clear_value s1
  have hisland : s2.memOk = true := by
    obtain ⟨hscratch, htable, hhost, -, hrest⟩ := s1.memOk_iff.mp hdropped
    exact (State.memOk_iff _).mpr ⟨hscratch, htable, hhost, Memory.wf_nil, hrest⟩
  clear_value s2
  simp [s3, hisland]

theorem execIslandUp_memOk (s : State) (h : s.memOk = true) : OutcomeMemOk (execIslandUp s) := by
  simp only [execIslandUp]
  repeat' split
  all_goals simp [h]

theorem execIslrst_memOk (req : Nat) (s : State) (h : s.memOk = true) : OutcomeMemOk (execIslrst req s) := by simp [execIslrst, h]

@[simp] theorem State.emptyFabric_memOk (s : State) (h : s.memOk = true) : s.emptyFabric.memOk = true := by
  unfold State.emptyFabric
  extract_lets s1
  have hended : s1.memOk = true := by simp [s1, h]
  clear_value s1
  obtain ⟨-, -, hhost, hrest⟩ := s1.memOk_iff.mp hended
  rw [State.memOk_iff]
  exact ⟨rfl, rfl, hhost, hrest⟩

@[simp] theorem State.takeStraps_memOk (s : State) : s.takeStraps.memOk = s.memOk := State.memOk_congr rfl
@[simp] theorem State.fabricRegs_memOk (s : State) : s.fabricRegs.memOk = s.memOk := by simp [State.fabricRegs]
@[simp] theorem State.keepFences_memOk (s : State) : s.keepFences.memOk = s.memOk := by simp [State.keepFences]

@[simp] theorem State.fabricReset_memOk (s : State) (h : s.memOk = true) : s.fabricReset.memOk = true := by
  simp only [State.fabricReset]
  split <;> simp [h]

theorem execFabrst_memOk (req : Nat) (s : State) (h : s.memOk = true) : OutcomeMemOk (execFabrst req s) := by simp [execFabrst, h]

theorem execFabricReady_memOk (s : State) (h : s.memOk = true) : OutcomeMemOk (execFabricReady s) := by simp [execFabricReady, h]

@[simp] theorem State.resetFn_memOk (s : State) (f : Nat) : (s.resetFn f).memOk = s.memOk := State.memOk_congr rfl
@[simp] theorem State.setNumVFs_memOk (s : State) (n : Nat) : (s.setNumVFs n).memOk = s.memOk := by simp [State.setNumVFs]

theorem execNumvfsWrite_memOk (n : Nat) (s : State) (h : s.memOk = true) : OutcomeMemOk (execNumvfsWrite n s) := by simp [execNumvfsWrite, h]

@[simp] theorem State.resetFunctions_memOk (s : State) : s.resetFunctions.memOk = s.memOk := State.memOk_congr rfl

theorem execPfFlr_memOk (s : State) (h : s.memOk = true) : OutcomeMemOk (execPfFlr s) := by simp [execPfFlr, h]

theorem execVfFlr_memOk (f : Nat) (s : State) (h : s.memOk = true) : OutcomeMemOk (execVfFlr f s) := by simp [execVfFlr, h]

@[simp] theorem State.pcieReset_memOk (s : State) (h : s.memOk = true) : s.pcieReset.memOk = true := by
  simp only [State.pcieReset]
  split <;> simp [h]

theorem execPerstNFall_memOk (s : State) (h : s.memOk = true) : OutcomeMemOk (execPerstNFall s) := by simp [execPerstNFall, h]

theorem execPerstNRise_memOk (s : State) (h : s.memOk = true) : OutcomeMemOk (execPerstNRise s) := by simp [execPerstNRise, h]

theorem execPcieHotReset_memOk (s : State) (h : s.memOk = true) : OutcomeMemOk (execPcieHotReset s) := by simp [execPcieHotReset, h]

theorem execRailReset_memOk (r : Nat) (s : State) (h : s.memOk = true) : OutcomeMemOk (execRailReset r s) := by
  unfold execRailReset
  rw [outcomeMemOk_ok]
  split
  · extract_lets s1 s2
    have hlogged : s2.memOk = true := by simp [s2, s1, h]
    clear_value s2
    split
    · simp [hlogged]
    · split <;> simp [hlogged]
  · exact h

@[simp] theorem State.memOk_numVFs (s : State) (n : Nat) : (s.onHost fun x => { x with numVFs := n }).memOk = s.memOk := s.onHost_memOk _ rfl

@[simp] theorem State.allButAlwaysOn_memOk (s : State) (h : s.memOk = true) : s.allButAlwaysOn.memOk = true :=
  have hisland := State.islandReset_memOk _ (State.emptyFabric_memOk _ (s.keepFences_memOk.trans h))
  have hstraps := (State.takeStraps_memOk _).trans ((State.dropRegs_memOk _ fabricReg).trans hisland)
  have hdown := (State.each_memOk _ (List.range 50) (fun s d => if d = 0 then s else s.putUp d false) fun u d => by split <;> simp).trans hstraps
  have hwiped := (State.each_memOk _ (List.range 4) (fun s r => s.wipeRegion r) fun u r => u.wipeRegion_memOk r).trans hdown
  (State.memOk_numVFs _ 0).trans hwiped

@[simp] theorem State.powerOn_memOk (s : State) (cause : Nat) (h : s.memOk = true) : (s.powerOn cause).memOk = true := by
  unfold State.powerOn
  dsimp only
  rw [State.wr_memOk]
  obtain ⟨-, -, hhost, -⟩ := s.memOk_iff.mp h
  rw [State.memOk_iff]
  exact ⟨rfl, rfl, hhost, rfl, rfl, rfl⟩

@[simp] theorem State.powerRise_memOk (s : State) (clu chip : Nat) : (s.powerRise clu chip).memOk = s.memOk := State.memOk_congr rfl

@[simp] theorem State.porstChange_memOk (s t : State) (cause clu chip : Nat) (h : t.memOk = true) :
    (s.porstChange t cause clu chip).memOk = true := by
  simp only [State.porstChange]
  repeat' split
  all_goals simp [h]

theorem execPorstN_memOk (low : Bool) (clu chip : Nat) (s : State) (h : s.memOk = true) : OutcomeMemOk (execPorstN low clu chip s) := by
  simp [execPorstN, h]

theorem execBrownOut_memOk (low : Bool) (clu chip : Nat) (s : State) (h : s.memOk = true) : OutcomeMemOk (execBrownOut low clu chip s) := by
  simp [execBrownOut, h]

theorem execPllLock_memOk (s : State) (h : s.memOk = true) : OutcomeMemOk (execPllLock s) := by
  unfold execPllLock
  rw [outcomeMemOk_ok]
  split
  · dsimp only
    refine State.each_memOk_of _ ?_ fun u n hu => ?_
    · rw [State.onGauge_memOk]
      exact (State.onSec_memOk _ _ rfl rfl).trans (by simp [h])
    · split
      · split <;> simp [hu]
      · exact hu
  · exact h

theorem execClockReset_memOk (s : State) (h : s.memOk = true) : OutcomeMemOk (execClockReset s) := by simp [execClockReset, h]

@[simp] theorem State.clearMap_memOk (s : State) : s.clearMap.memOk = s.memOk := State.memOk_congr rfl

theorem execCastOnSelfTestEnd_memOk (bad : List (Nat × Nat × Nat)) (s : State) (h : s.memOk = true) :
    OutcomeMemOk (execCastOnSelfTestEnd bad s) := by
  simp [execCastOnSelfTestEnd, h]

@[simp] theorem State.shutdown_memOk (s : State) (h : s.memOk = true) : s.shutdown.memOk = true :=
  have hoff := s.allButAlwaysOn_memOk h
  have hdrawn := (State.draw_memOk _).trans ((State.drawKey_memOk _).trans hoff)
  (State.onPwr_memOk _ _).trans ((State.storeGauge_memOk _ _ _).trans hdrawn)

@[simp] theorem State.thermalStop_memOk (s : State) (n : Nat) (temp : Int) (h : s.memOk = true) : (s.thermalStop n temp).memOk = true := by
  simp [State.thermalStop, h]

theorem execThermalSample_memOk (n : Nat) (temp : Int) (s : State) (h : s.memOk = true) : OutcomeMemOk (execThermalSample n temp s) := by
  unfold execThermalSample
  rw [outcomeMemOk_ok]
  split
  · extract_lets was hot s1 s2 s3 warm s4 s5 s6
    have htension : s3.memOk = true := by
      unfold s3
      split <;> simp [s2, s1, h]
    clear_value s3
    have hlogged : s5.memOk = true := by
      unfold s5
      split <;> simp [s4, htension]
    clear_value s5
    have hstopped : s6.memOk = true := by
      unfold s6
      split <;> simp [hlogged]
    clear_value s6
    split
    · exact State.shutdown_memOk _ (State.plainEvent_memOk _ _ _ (s6.draw_memOk.trans hstopped))
    · exact hstopped
  · exact h

@[simp] theorem State.loseDomain_memOk (s : State) (d : Nat) (h : s.memOk = true) : (s.loseDomain d).memOk = true := by
  unfold State.loseDomain
  split
  · have hdropped := (s.dropRegs_memOk fun a => decide (0x02200000 ≤ a) && decide (a < 0x02300000)).trans h
    obtain ⟨hscratch, htable, hhost, -, hrest⟩ := (State.memOk_iff _).mp hdropped
    exact (State.memOk_iff _).mpr ⟨hscratch, htable, hhost, rfl, hrest⟩
  · split
    · simp [h]
    · split
      · extract_lets n unbound s1 s2
        obtain ⟨hscratch, htable, hrest⟩ := s2.memOk_iff.mp (by simp [s2, s1, h])
        exact (State.memOk_iff _).mpr ⟨hscratch, FMap.wf_clear _ _ _ _ htable, hrest⟩
      · split
        · refine State.each_memOk_of _ h fun u c hu => ?_
          have hdropped := (u.dropRegs_memOk fun a => decide (statReg c ≤ a) && decide (a < statReg c + 0x400)).trans hu
          exact State.memOk_scratch hdropped (FMap.wf_clear _ _ _ _ ((State.memOk_iff _).mp hdropped).1) rfl
        · exact h

@[simp] theorem State.putGate_memOk (s : State) (d : Nat) (b : Bool) : (s.putGate d b).memOk = s.memOk := by simp [State.putGate]

@[simp] theorem State.gate_memOk (s : State) (d : Nat) (may : Bool) (h : s.memOk = true) : (s.gate d may).memOk = true := by
  simp only [State.gate]
  repeat' split
  all_goals simp [h]

@[simp] theorem State.ungate_memOk (s : State) (d : Nat) : (s.ungate d).memOk = s.memOk := by simp [State.ungate]

@[simp] theorem State.writeGate_memOk (s : State) (base : Nat) (v : Word) (h : s.memOk = true) : (s.writeGate base v).memOk = true := by
  unfold State.writeGate
  refine State.each_memOk_of _ h fun u i hu => ?_
  split <;> simp [hu]

theorem execPwrGate_memOk (req d : Nat) (s : State) (h : s.memOk = true) : OutcomeMemOk (execPwrGate req d s) := by simp [execPwrGate, h]

theorem execPwrUngate_memOk (req d : Nat) (s : State) (h : s.memOk = true) : OutcomeMemOk (execPwrUngate req d s) := by simp [execPwrUngate, h]

theorem execPwrUp_memOk (d : Nat) (s : State) (h : s.memOk = true) : OutcomeMemOk (execPwrUp d s) := by simp [execPwrUp, h]

/-! ### The JTAG port (Jtag.lean) -/

@[simp] theorem State.onJtag_memOk (s : State) (f : JtagSt → JtagSt) : (s.onJtag f).memOk = s.memOk := State.memOk_congr rfl

theorem execJtagInstruction_memOk (instr : Nat) (trst : Bool) (cells : List (Nat × Bool)) (s : State) (h : s.memOk = true) :
    OutcomeMemOk (execJtagInstruction instr trst cells s) := by
  simp only [execJtagInstruction]
  repeat' split
  all_goals simp [h]

/-! ### Branches, loops, token waits (Branch.lean) -/

theorem execBrJmp_memOk (c : Nat) (f : FmtB) (s : State) (h : s.memOk = true) : OutcomeMemOk (execBrJmp c f s) := by simp [execBrJmp, h]

theorem execBrCall_memOk (c : Nat) (f : FmtB) (s : State) (h : s.memOk = true) : OutcomeMemOk (execBrCall c f s) := by simp [execBrCall, h]

theorem execBrJr_memOk (c : Nat) (f : FmtJ) (s : State) (h : s.memOk = true) : OutcomeMemOk (execBrJr c f s) := by simp [execBrJr, h]

@[simp] theorem armLoop_memOk (f : FmtL) (c k : Nat) (s : State) : (armLoop f c k s).memOk = s.memOk := by simp [armLoop]

theorem execSqLoop_memOk (c : Nat) (f : FmtL) (s : State) (h : s.memOk = true) : OutcomeMemOk (execSqLoop c f s) := by simp [execSqLoop, h]

@[simp] theorem State.endPart_memOk (s : State) (c k : Nat) : (s.endPart c k).memOk = s.memOk := by
  simp only [State.endPart]
  repeat' split
  all_goals simp

theorem execSqEnd_memOk (c : Nat) (f : FmtZ) (s : State) (h : s.memOk = true) : OutcomeMemOk (execSqEnd c f s) := by simp [execSqEnd, h]

theorem execSqIfence_memOk (c : Nat) (f : FmtZ) (s : State) (h : s.memOk = true) : OutcomeMemOk (execSqIfence c f s) := by simp [execSqIfence, h]

theorem execSqNop_memOk (c : Nat) (f : FmtZ) (s : State) (h : s.memOk = true) : OutcomeMemOk (execSqNop c f s) := by simp [execSqNop, h]

theorem execTwait_memOk (c : Nat) (f : FmtT) (s : State) (h : s.memOk = true) : OutcomeMemOk (execTwait c f s) := by simp [execTwait, h]

theorem execTwaitReturn_memOk (c : Nat) (s : State) (h : s.memOk = true) : OutcomeMemOk (execTwaitReturn c s) := by
  unfold execTwaitReturn
  split <;> simp [h]

theorem execIllegalEncoding_memOk (c : Nat) (s : State) (h : s.memOk = true) : OutcomeMemOk (execIllegalEncoding c s) := by
  unfold execIllegalEncoding
  split <;> simp [h]

theorem execFetchMiss_memOk (c : Nat) (s : State) (h : s.memOk = true) : OutcomeMemOk (execFetchMiss c s) := by
  simp only [execFetchMiss]
  repeat' split
  all_goals simp [h]

/-! ### The convolution window unit (Conv.lean) -/

theorem uCfg_keepsMem (c k : Nat) (o : UOp) : (uCfg c k o).KeepsMem :=
  .bind (.update fun s hs => by simp [hs]) fun _ => (uRead_keepsMem c k _ _).bind fun _ =>
    .ite (.update fun s hs => by simp [hs]) (.throw _)

theorem uCell_keepsMem (c k : Nat) (u a : Nat) (use : Nat → List Nat) : (uCell c k u a use).KeepsMem := by
  refine .get_bind fun s hs => ?_
  dsimp only
  refine .bind (.set ((s.checkWords_memOk _ _ _).trans hs)) fun _ => ?_
  split
  · exact .throw _
  · split
    · exact .throw _
    · exact .pure _

theorem uCells_keepsMem (c k : Nat) (addr : Nat → Nat) (use : Nat → List Nat) (us : List Nat) : (uCells c k addr use us).KeepsMem := by
  induction us with
  | nil => exact .pure _
  | cons u us ih => exact (uCell_keepsMem c k u _ use).bind fun _ => ih.bind fun _ => .pure _

theorem uLoadRows_keepsMem (c k : Nat) (addr : Nat → Nat → Nat) (use : Nat → Nat → List Nat) (need : FMap (List Nat))
    (l : List (Nat × List Nat)) (bufs : FMap (Option LBuf)) :
    (uLoadRows c k addr use need l bufs).KeepsMem := by
  induction l generalizing bufs with
  | nil => exact .pure _
  | cons r l ih =>
    unfold uLoadRows
    split
    · exact .ite (ih _) (.ite ((uCells_keepsMem c k _ _ _).bind fun _ => ih _) ((uCells_keepsMem c k _ _ _).bind fun _ => ih _))
    · exact (uCells_keepsMem c k _ _ _).bind fun _ => ih _

theorem uDirect_keepsMem (c k : Nat) (d : CwDesc) (addr : Nat → Nat → Nat) (es : List CwSrc) : (uDirect c k d addr es).KeepsMem :=
  .bind (.foldlM _ (fun _ _ => (uCells_keepsMem c k _ _ _).bind fun _ => .pure _) _) fun _ => .pure _

theorem uWindow_keepsMem (c k : Nat) (o : UOp) : (uWindow c k o).KeepsMem := by
  refine .get_bind fun s _ => ?_
  split
  · exact .throw _
  · refine .unless_throw ((uTileStart_keepsMem c k o).bind fun _ => .bind ?plane fun pl => .bind ?values fun vals =>
      (uTileEnd_keepsMem c k o _).bind fun _ => .update fun u hu => by simp [hu])
    case plane => exact .ite (.unless_throw ((uRange_keepsMem c k _).bind fun _ => .unless_throw (.pure _))) (.pure _)
    case values =>
      refine .ite ((uLoadRows_keepsMem c k _ _ _ _ _).bind fun bufs => .bind (.update fun u hu => by simp [hu]) fun _ => ?_)
        (.bind (.update fun u hu => by simp [hu]) fun _ => .mapM _ fun es => uDirect_keepsMem c k _ _ es)
      dsimp only
      split
      · exact .bind (.update fun u hu => by simp [hu]) fun _ => .bind (.throw _) fun _ => .pure _
      · exact .pure _

/-! ### Operations in flight (Flight.lean) -/

theorem uRun_keepsMem (c k : Nat) (o : UOp) : (uRun c k o).KeepsMem := by
  unfold uRun
  cases o.kind with
  | wload => exact uWload_keepsMem c k o
  | tile => exact uTile_keepsMem c k o
  | fin => exact uFin_keepsMem c k o
  | cfg => exact uCfg_keepsMem c k o
  | window => exact uWindow_keepsMem c k o
  | arith => exact uArith_keepsMem c k o
  | minmax => exact uMinmax_keepsMem c k o
  | fn => exact uFn_keepsMem c k o
  | cvt => exact uCvt_keepsMem c k o
  | mxq => exact uMxq_keepsMem c k o
  | red => exact uRed_keepsMem c k o
  | rand => exact uRand_keepsMem c k o
  | sample => exact uSample_keepsMem c k o
  | move => exact uMove_keepsMem c k o
  | send => exact uSend_keepsMem c k o
  | signal => exact uSignal_keepsMem c k o
  | push => exact uPush_keepsMem c k o
  | leaf => exact uLeaf_keepsMem c k o
  | result => exact uResult_keepsMem c k o

@[simp] theorem State.meeting_memOk (s : State) (vs : List Overlap) (h : s.memOk = true) : (s.meeting vs).memOk = true :=
  State.memOk_scratch h (s.meeting_wf vs (s.memOk_iff.mp h).1) rfl

@[simp] theorem State.tryOp_memOk (s : State) (c k : Nat) (o : UOp) (vs : List Overlap) (h : s.memOk = true) :
    (s.tryOp c k o vs).2.memOk = true := uRun_keepsMem c k o _ (by simp [h])

@[simp] theorem State.runOp_memOk (s : State) (c k : Nat) (o : UOp) (h : s.memOk = true) : (s.runOp c k o).2.memOk = true := by
  unfold State.runOp
  dsimp only
  split
  · simp [h]
  · split
    · rw [State.onCore_memOk]
      exact uRun_keepsMem c k o _ (by simp [h])
    · have htried := State.tryOp_memOk { s with fresh := s.fresh + (s.ahead c k o.tok).2 + (s.clash c o.tok).length } c k o
        (s.clash c o.tok) (by simp [h])
      rw [← State.onCore_memOk _ c] at htried
      exact State.memOk_scratch htried (foldl_settle_wf _ _ _ ((State.memOk_iff _).mp htried).1) rfl

/-! ### The scalar instructions (Scalar.lean) -/

theorem execScAlu_memOk (c : Nat) (f : FmtR) (s : State) (h : s.memOk = true) : OutcomeMemOk (execScAlu c f s) := by simp [execScAlu, h]

theorem execScAddi_memOk (c : Nat) (f : FmtI) (s : State) (h : s.memOk = true) : OutcomeMemOk (execScAddi c f s) := by simp [execScAddi, h]

theorem execScAndi_memOk (c : Nat) (f : FmtI) (s : State) (h : s.memOk = true) : OutcomeMemOk (execScAndi c f s) := by simp [execScAndi, h]

theorem execScOri_memOk (c : Nat) (f : FmtI) (s : State) (h : s.memOk = true) : OutcomeMemOk (execScOri c f s) := by simp [execScOri, h]

theorem execScXori_memOk (c : Nat) (f : FmtI) (s : State) (h : s.memOk = true) : OutcomeMemOk (execScXori c f s) := by simp [execScXori, h]

theorem execScShi_memOk (c : Nat) (f : FmtI) (s : State) (h : s.memOk = true) : OutcomeMemOk (execScShi c f s) := by simp [execScShi, h]

theorem execScLdi_memOk (c : Nat) (f : FmtK) (s : State) (h : s.memOk = true) : OutcomeMemOk (execScLdi c f s) := by simp [execScLdi, h]

theorem execScLui_memOk (c : Nat) (f : FmtK) (s : State) (h : s.memOk = true) : OutcomeMemOk (execScLui c f s) := by simp [execScLui, h]

theorem execScCmp_memOk (c : Nat) (f : FmtC) (s : State) (h : s.memOk = true) : OutcomeMemOk (execScCmp c f s) := by simp [execScCmp, h]

theorem execScCmpi_memOk (c : Nat) (f : FmtCI) (s : State) (h : s.memOk = true) : OutcomeMemOk (execScCmpi c f s) := by simp [execScCmpi, h]

theorem execScPlog_memOk (c : Nat) (f : FmtP) (s : State) (h : s.memOk = true) : OutcomeMemOk (execScPlog c f s) := by simp [execScPlog, h]

@[simp] theorem State.raiseAll_memOk (s : State) (c k pc : Nat) (l : List Flt) : (s.raiseAll c k pc l).memOk = s.memOk := by simp [State.raiseAll]

@[simp] theorem State.asRead_memOk (s : State) (c : Nat) (h : s.memOk = true) : (s.asRead c).memOk = true := by
  simp only [State.asRead]
  split <;> simp [h]

@[simp] theorem scalarLoad_memOk (signed : Bool) (f : FmtM) (c k : Nat) (s : State) (h : s.memOk = true) :
    (scalarLoad signed f c k s).memOk = true := by
  unfold scalarLoad
  extract_lets b l u bs r v t
  split
  · simp [h]
  · have hread : t.memOk = true := State.memOk_scratch (s := r.1) (by simp [r, u, h]) (s.memOk_iff.mp h).1 rfl
    clear_value t
    split <;> simp [hread]

theorem execScLd_memOk (c : Nat) (f : FmtM) (s : State) (h : s.memOk = true) : OutcomeMemOk (execScLd c f s) :=
  (outcomeMemOk_ok _).mpr (seqIssue_memOk_of c _ _ s h fun k u hu => scalarLoad_memOk true f c k u hu)

theorem execScLdu_memOk (c : Nat) (f : FmtM) (s : State) (h : s.memOk = true) : OutcomeMemOk (execScLdu c f s) :=
  (outcomeMemOk_ok _).mpr (seqIssue_memOk_of c _ _ s h fun k u hu => scalarLoad_memOk false f c k u hu)

@[simp] theorem scalarStore_memOk (f : FmtM) (c k : Nat) (s : State) (h : s.memOk = true) : (scalarStore f c k s).memOk = true := by
  simp [scalarStore, h]

theorem execScSt_memOk (c : Nat) (f : FmtM) (s : State) (h : s.memOk = true) : OutcomeMemOk (execScSt c f s) :=
  (outcomeMemOk_ok _).mpr (seqIssue_memOk_of c _ _ s h fun k u hu => scalarStore_memOk f c k u hu)

theorem execScAddr_memOk (c : Nat) (f : FmtAR) (s : State) (h : s.memOk = true) : OutcomeMemOk (execScAddr c f s) := by simp [execScAddr, h]

theorem execScAaddi_memOk (c : Nat) (f : FmtAI) (s : State) (h : s.memOk = true) : OutcomeMemOk (execScAaddi c f s) := by simp [execScAaddi, h]

/-! ### Traces and counters (Trace.lean) -/

@[simp] theorem State.onTrc_memOk (s : State) (f : TraceSt → TraceSt) : (s.onTrc f).memOk = s.memOk := State.memOk_congr rfl
@[simp] theorem State.ringDrop_memOk (s : State) (k n : Nat) : (s.ringDrop k n).memOk = s.memOk := by simp [State.ringDrop]
@[simp] theorem State.ringIrq_memOk (s : State) (k : Nat) : (s.ringIrq k).memOk = s.memOk := by simp [State.ringIrq]

@[simp] theorem State.ringWrite_memOk (s : State) (k n count : Nat) (data : Nat → List Byte) (h : s.memOk = true) :
    (s.ringWrite k n count data).memOk = true := by
  simp [State.ringWrite, h]

@[simp] theorem State.closeBlock_memOk (s : State) (k unit : Nat) (h : s.memOk = true) : (s.closeBlock k unit).memOk = true := by
  simp only [State.closeBlock]
  repeat' split
  all_goals simp [h]

@[simp] theorem State.gather_memOk (s : State) (k : Nat) (one : List Byte) (h : s.memOk = true) : (s.gather k one).memOk = true := by
  simp only [State.gather]
  repeat' split
  all_goals simp [h]

@[simp] theorem State.ringPut_memOk (s : State) (k n : Nat) (bytes : Bool → List Byte) (h : s.memOk = true) :
    (s.ringPut k n bytes).memOk = true := by
  simp only [State.ringPut]
  repeat' split
  all_goals simp [h]

@[simp] theorem State.deliverTrace_memOk (s : State) (r : TraceRec) (h : s.memOk = true) : (s.deliverTrace r).memOk = true := by
  refine State.each_memOk_of _ h fun u f hu => ?_
  split <;> simp [hu]

@[simp] theorem State.drainTrace_memOk (s : State) (h : s.memOk = true) : s.drainTrace.memOk = true :=
  State.each_memOk_of _ h fun u c hu => State.each_memOk_of _ (by simp [hu]) fun v r hv => v.deliverTrace_memOk r hv

theorem execFlush_memOk (k : Nat) (s : State) (h : s.memOk = true) : OutcomeMemOk (execFlush k s) := by
  simp only [execFlush]
  repeat' split
  all_goals simp [h]

@[simp] theorem State.ringReject_memOk (s : State) (k : Nat) : (s.ringReject k).memOk = s.memOk := by simp [State.ringReject]
@[simp] theorem State.writeRingCfg_memOk (s : State) (k : Nat) (v : Word) : (s.writeRingCfg k v).memOk = s.memOk := by simp [State.writeRingCfg]

theorem execTraceRingEnable_memOk (req f : Nat) (smp : Bool) (v : Word) (s : State) (h : s.memOk = true) :
    OutcomeMemOk (execTraceRingEnable req f smp v s) := by
  simp [execTraceRingEnable, h]

@[simp] theorem State.cntValue_memOk (s : State) (key : Nat) : (s.cntValue key).2.memOk = s.memOk := by simp [State.cntValue]

@[simp] theorem State.writeCntCfg_memOk (s : State) (req : Nat) (k : CntKind) (key : Nat) (v : Word) :
    (s.writeCntCfg req k key v).memOk = s.memOk := by
  simp [State.writeCntCfg]

@[simp] theorem State.writeCntValue_memOk (s : State) (key half : Nat) (v : Word) : (s.writeCntValue key half v).memOk = s.memOk := by
  simp [State.writeCntValue]

theorem execCounterValueWrite_memOk (req a : Nat) (v : Word) (s : State) (h : s.memOk = true) : OutcomeMemOk (execCounterValueWrite req a v s) := by
  unfold execCounterValueWrite
  split <;> simp [h]

@[simp] theorem State.smpValue_memOk (s : State) (f i : Nat) (coincide : Bool) : (s.smpValue f i coincide).2.memOk = s.memOk := by
  simp only [State.smpValue]
  repeat' split
  all_goals simp

@[simp] theorem State.smpStep_memOk (s : State) (f : Nat) : (s.smpStep f).2.memOk = s.memOk := by
  simp only [State.smpStep]
  repeat' split
  all_goals simp

@[simp] theorem State.smpValues_memOk (s : State) (f : Nat) (coincide : Bool) (l : List Nat) : (s.smpValues f coincide l).2.memOk = s.memOk := by
  induction l generalizing s with
  | nil => rfl
  | cons i is ih => simp [State.smpValues, ih]

theorem execSampleInterval_memOk (f : Nat) (coincide : Bool) (s : State) (h : s.memOk = true) : OutcomeMemOk (execSampleInterval f coincide s) := by
  simp [execSampleInterval, h]

@[simp] theorem State.writeElogCfg_memOk (s : State) (f : Nat) (v : Word) : (s.writeElogCfg f v).memOk = s.memOk := by simp [State.writeElogCfg]

theorem execElogEnable_memOk (f : Nat) (v : Word) (s : State) (h : s.memOk = true) : OutcomeMemOk (execElogEnable f v s) := by
  simp [execElogEnable, h]

/-! ### Register accesses (Bus.lean) -/

@[simp] theorem State.view_memOk (s : State) (k : Nat) : (s.view k).2.memOk = s.memOk := by
  simp only [State.view]
  repeat' split
  all_goals simp

@[simp] theorem State.readClears_memOk (s : State) (k : Nat) : (s.readClears k).memOk = s.memOk := by
  simp only [State.readClears]
  repeat' split
  all_goals simp

@[simp] theorem State.readWord_memOk (s : State) (req k : Nat) : (s.readWord req k).2.memOk = s.memOk := by
  simp only [State.readWord]
  repeat' split
  all_goals simp

@[simp] theorem State.read32_memOk (s : State) (req a : Nat) (h : s.memOk = true) : (s.read32 req a).2.memOk = true := by
  simp only [State.read32]
  repeat' split
  all_goals simp [h]

@[simp] theorem State.readReg_memOk (s : State) (req a n : Nat) (h : s.memOk = true) : (s.readReg req a n).memOk = true := by
  simp only [State.readReg]
  split <;> simp [h]

@[simp] theorem State.writeBits_memOk (s : State) (k : Nat) (v : Word) : (s.writeBits k v).memOk = s.memOk := by
  unfold State.writeBits
  split <;> simp

@[simp] theorem State.writeChan_memOk (s : State) (req n off : Nat) (v : Word) (h : s.memOk = true) : (s.writeChan req n off v).memOk = true := by
  simp only [State.writeChan]
  repeat' split
  all_goals simp [h]

@[simp] theorem State.writeLinks_memOk (s : State) (a : Nat) (v : Word) (h : s.memOk = true) : (s.writeLinks a v).memOk = true := by
  simp only [State.writeLinks]
  repeat' split
  all_goals simp [h]

@[simp] theorem State.writeHost_memOk (s : State) (f a : Nat) (v : Word) (h : s.memOk = true) : (s.writeHost f a v).memOk = true := by
  simp only [State.writeHost]
  repeat' split
  all_goals simp [h]

@[simp] theorem State.writeIngest_memOk (s : State) (a : Nat) (v : Word) (h : s.memOk = true) : (s.writeIngest a v).memOk = true := by
  simp only [State.writeIngest]
  repeat' split
  all_goals simp [h]

@[simp] theorem State.writeLoop_memOk (s : State) (a : Nat) (v : Word) : (s.writeLoop a v).memOk = s.memOk := by
  simp only [State.writeLoop]
  repeat' split
  all_goals simp

@[simp] theorem State.writeTime_memOk (s : State) (a : Nat) (v : Word) : (s.writeTime a v).memOk = s.memOk := by
  simp only [State.writeTime]
  repeat' split
  all_goals simp

@[simp] theorem State.writeSafety_memOk (s : State) (a : Nat) (v : Word) : (s.writeSafety a v).memOk = s.memOk := by
  simp only [State.writeSafety]
  repeat' split
  all_goals simp

@[simp] theorem State.writeRecCfg_memOk (s : State) (r : Nat) (v : Word) : (s.writeRecCfg r v).memOk = s.memOk := by simp [State.writeRecCfg]

@[simp] theorem State.writeSecCtrl_memOk (s : State) (req : Nat) (v : Word) (h : s.memOk = true) : (s.writeSecCtrl req v).memOk = true := by
  unfold State.writeSecCtrl
  extract_lets act s1 key
  have hact (u : State) (on : Bool) (f : State → Host.Outcome State Fault Refusal) (hu : u.memOk = true)
      (hf : ∀ w : State, w.memOk = true → OutcomeMemOk (f w)) : (act u on f).memOk = true := by
    unfold act
    split
    · split
      · rename_i t ht
        exact hf u hu t ht
      · exact hu
    · exact hu
  have hkey (u : State) (on : Bool) (f : State → Host.Outcome State Fault Refusal) (hu : u.memOk = true)
      (hf : ∀ w : State, w.memOk = true → OutcomeMemOk (f w)) : (key u on f).memOk = true := by
    unfold key
    split
    · simp [hu]
    · exact hact u on f hu hf
  have hdrawn : s1.draw.2.memOk = true := (State.draw_memOk s1).trans (hact s _ _ h fun w hw => execCertgo_memOk req w hw)
  clear_value key s1
  exact hkey _ _ _ (hkey _ _ _ hdrawn fun w hw => execKinst_memOk req _ w hw) fun w hw => execKrot_memOk req _ w hw

@[simp] theorem State.writeSec_memOk (s : State) (req a : Nat) (v : Word) (h : s.memOk = true) : (s.writeSec req a v).memOk = true := by
  unfold State.writeSec
  split
  · simp [h]
  · split
    · exact (State.onSec_memOk _ _ rfl rfl).trans (by simp [h])
    · split
      · simp [h]
      · obtain ⟨-, -, -, -, hpsram, hkbuf⟩ := s.memOk_iff.mp h
        refine s.onSec_memOk_of _ h hpsram ?_
        dsimp only
        exact Memory.wf_putBytes _ _ _ hkbuf
      · simp [h]

@[simp] theorem State.writeRing_memOk (s : State) (k r a : Nat) (v : Word) : (s.writeRing k r a v).memOk = s.memOk := by simp [State.writeRing]

@[simp] theorem State.writeTrace_memOk (s : State) (req a : Nat) (v : Word) : (s.writeTrace req a v).memOk = s.memOk := by
  unfold State.writeTrace
  split <;> simp

@[simp] theorem State.writeRstCtrl_memOk (s : State) (req : Nat) (v : Word) (h : s.memOk = true) : (s.writeRstCtrl req v).memOk = true := by
  simp only [State.writeRstCtrl]
  repeat' split
  all_goals simp [h]

@[simp] theorem State.writePower_memOk (s : State) (req a : Nat) (v : Word) (h : s.memOk = true) : (s.writePower req a v).memOk = true := by
  simp only [State.writePower]
  repeat' split
  all_goals simp [h]

@[simp] theorem State.write32_memOk (s : State) (req a : Nat) (v : Word) (h : s.memOk = true) : (s.write32 req a v).memOk = true := by
  simp only [State.write32]
  repeat' split
  all_goals simp [h]

@[simp] theorem State.writeReg_memOk (s : State) (req a n : Nat) (v : Word) (h : s.memOk = true) : (s.writeReg req a n v).memOk = true := by
  unfold State.writeReg
  split <;> simp [h]

theorem execRegisterWrite_memOk (req a n : Nat) (v : Word) (s : State) (h : s.memOk = true) : OutcomeMemOk (execRegisterWrite req a n v s) := by
  simp [execRegisterWrite, h]

theorem execReadToClear_memOk (req a n : Nat) (s : State) (h : s.memOk = true) : OutcomeMemOk (execReadToClear req a n s) := by
  simp [execReadToClear, h]

theorem execPairLowRead_memOk (req a : Nat) (s : State) (h : s.memOk = true) : OutcomeMemOk (execPairLowRead req a s) := by simp [execPairLowRead, h]

@[simp] theorem State.mgWords_memOk (s : State) (a n : Nat) (h : s.memOk = true) : (s.mgWords a n).2.memOk = true := by
  induction n generalizing s a with
  | zero => exact h
  | succ n ih => exact ih _ _ (s.read32_memOk 5 _ h)

theorem execMgRead_memOk (op comp : Byte) (addr : Word) (n : Nat) (s : State) (h : s.memOk = true) :
    OutcomeMemOk (execMgRead op comp addr n s) := by
  simp [execMgRead, h]

@[simp] theorem State.mgApply_memOk (s : State) (a : Nat) (l : List (List Byte)) (h : s.memOk = true) : (s.mgApply a l).memOk = true := by
  induction l generalizing s a with
  | nil => exact h
  | cons b l ih =>
    unfold State.mgApply
    refine ih _ _ ?_
    split
    · exact s.write32_memOk _ _ _ h
    · exact h

theorem execMgWrite_memOk (op comp : Byte) (addr : Word) (data : List Byte) (s : State) (h : s.memOk = true) :
    OutcomeMemOk (execMgWrite op comp addr data s) := by
  simp [execMgWrite, h]

/-! ### One CK_S cycle (Tick.lean) -/

@[simp] theorem State.tick_memOk (s : State) (h : s.memOk = true) : s.tick.memOk = true := by
  unfold State.tick
  extract_lets s1 s2
  have hports : s2.memOk = true := by
    unfold s2
    split <;> simp [s1, h]
  clear_value s2
  simp [hports]

/-! ### Issue and completion of unit operations (Units.lean) -/

@[simp] theorem State.completeToken_memOk (s : State) (c k tok : Nat) : (s.completeToken c k tok).memOk = s.memOk := by simp [State.completeToken]

@[simp] theorem State.startPush_memOk (s : State) (c k : Nat) (o : UOp) (h : s.memOk = true) : (s.startPush c k o).memOk = true := by
  unfold State.startPush
  split
  · exact h
  · have hrun := s.runOp_memOk c k o h
    split <;> rename_i t ht <;> rw [ht] at hrun <;> simpa using hrun

theorem execTokenCompletion_memOk (c tok : Nat) (s : State) (h : s.memOk = true) : OutcomeMemOk (execTokenCompletion c tok s) := by
  unfold execTokenCompletion
  rw [outcomeMemOk_ok]
  dsimp only
  split
  · exact h
  · split
    · exact h
    · split
      · simp [h]
      · split
        · exact h
        · split <;> rename_i t ht <;> have hrun := memOk_of_snd ht (s.runOp_memOk c _ _ h)
          · split <;> simp [hrun]
          · simp [hrun]

theorem execMxWload_memOk (c : Nat) (f : FmtU2) (s : State) (h : s.memOk = true) : OutcomeMemOk (execMxWload c f s) := by simp [execMxWload, h]

theorem execMxTile_memOk (c : Nat) (f : FmtU2) (s : State) (h : s.memOk = true) : OutcomeMemOk (execMxTile c f s) := by simp [execMxTile, h]

theorem execMxFin_memOk (c : Nat) (f : FmtU1) (s : State) (h : s.memOk = true) : OutcomeMemOk (execMxFin c f s) := by simp [execMxFin, h]

theorem execCwCfg_memOk (c : Nat) (f : FmtU1) (s : State) (h : s.memOk = true) : OutcomeMemOk (execCwCfg c f s) := by simp [execCwCfg, h]

theorem execCwWindow_memOk (c : Nat) (f : FmtU2) (s : State) (h : s.memOk = true) : OutcomeMemOk (execCwWindow c f s) := by simp [execCwWindow, h]

theorem execVxArith_memOk (c : Nat) (f : FmtU2) (s : State) (h : s.memOk = true) : OutcomeMemOk (execVxArith c f s) := by simp [execVxArith, h]

theorem execVxMinmax_memOk (c : Nat) (f : FmtU2) (s : State) (h : s.memOk = true) : OutcomeMemOk (execVxMinmax c f s) := by simp [execVxMinmax, h]

theorem execVxFn_memOk (c : Nat) (f : FmtU1) (s : State) (h : s.memOk = true) : OutcomeMemOk (execVxFn c f s) := by simp [execVxFn, h]

theorem execVxCvt_memOk (c : Nat) (f : FmtU1) (s : State) (h : s.memOk = true) : OutcomeMemOk (execVxCvt c f s) := by simp [execVxCvt, h]

theorem execVxMxq_memOk (c : Nat) (f : FmtU2) (s : State) (h : s.memOk = true) : OutcomeMemOk (execVxMxq c f s) := by simp [execVxMxq, h]

theorem execVxRed_memOk (c : Nat) (f : FmtU1) (s : State) (h : s.memOk = true) : OutcomeMemOk (execVxRed c f s) := by simp [execVxRed, h]

theorem execVxRand_memOk (c : Nat) (f : FmtU1) (s : State) (h : s.memOk = true) : OutcomeMemOk (execVxRand c f s) := by simp [execVxRand, h]

theorem execVxSample_memOk (c : Nat) (f : FmtU2) (s : State) (h : s.memOk = true) : OutcomeMemOk (execVxSample c f s) := by simp [execVxSample, h]

theorem execMsgMove_memOk (c : Nat) (f : FmtU1) (s : State) (h : s.memOk = true) : OutcomeMemOk (execMsgMove c f s) := by simp [execMsgMove, h]

theorem execMsgSend_memOk (c : Nat) (f : FmtU1) (s : State) (h : s.memOk = true) : OutcomeMemOk (execMsgSend c f s) := by simp [execMsgSend, h]

theorem execCrPush_memOk (c : Nat) (f : FmtU1) (s : State) (h : s.memOk = true) : OutcomeMemOk (execCrPush c f s) := by simp [execCrPush, h]

theorem execDgLeaf_memOk (c : Nat) (f : FmtU1) (s : State) (h : s.memOk = true) : OutcomeMemOk (execDgLeaf c f s) := by simp [execDgLeaf, h]

theorem execDgResult_memOk (c : Nat) (f : FmtU1) (s : State) (h : s.memOk = true) : OutcomeMemOk (execDgResult c f s) := by simp [execDgResult, h]

theorem execSySignal_memOk (c : Nat) (f : FmtU1) (s : State) (h : s.memOk = true) : OutcomeMemOk (execSySignal c f s) := by simp [execSySignal, h]

/-! ### Every command (Dispatch.lean) -/

theorem exec_memOk (i : Instr) (s : State) (h : s.memOk = true) : OutcomeMemOk (exec i s) :=
  match i with
  | .scAlu c f => execScAlu_memOk c f s h
  | .scAddi c f => execScAddi_memOk c f s h
  | .scAndi c f => execScAndi_memOk c f s h
  | .scOri c f => execScOri_memOk c f s h
  | .scXori c f => execScXori_memOk c f s h
  | .scShi c f => execScShi_memOk c f s h
  | .scLdi c f => execScLdi_memOk c f s h
  | .scLui c f => execScLui_memOk c f s h
  | .scCmp c f => execScCmp_memOk c f s h
  | .scCmpi c f => execScCmpi_memOk c f s h
  | .scPlog c f => execScPlog_memOk c f s h
  | .scLd c f => execScLd_memOk c f s h
  | .scLdu c f => execScLdu_memOk c f s h
  | .scSt c f => execScSt_memOk c f s h
  | .scAddr c f => execScAddr_memOk c f s h
  | .scAaddi c f => execScAaddi_memOk c f s h
  | .brJmp c f => execBrJmp_memOk c f s h
  | .brCall c f => execBrCall_memOk c f s h
  | .brJr c f => execBrJr_memOk c f s h
  | .sqLoop c f => execSqLoop_memOk c f s h
  | .sqEnd c f => execSqEnd_memOk c f s h
  | .sqIfence c f => execSqIfence_memOk c f s h
  | .sqNop c f => execSqNop_memOk c f s h
  | .twait c f => execTwait_memOk c f s h
  | .twaitReturn c => execTwaitReturn_memOk c s h
  | .syWait c f => execSyWait_memOk c f s h
  | .mxWload c f => execMxWload_memOk c f s h
  | .mxTile c f => execMxTile_memOk c f s h
  | .mxFin c f => execMxFin_memOk c f s h
  | .cwCfg c f => execCwCfg_memOk c f s h
  | .cwWindow c f => execCwWindow_memOk c f s h
  | .vxArith c f => execVxArith_memOk c f s h
  | .vxMinmax c f => execVxMinmax_memOk c f s h
  | .vxFn c f => execVxFn_memOk c f s h
  | .vxCvt c f => execVxCvt_memOk c f s h
  | .vxMxq c f => execVxMxq_memOk c f s h
  | .vxRed c f => execVxRed_memOk c f s h
  | .vxRand c f => execVxRand_memOk c f s h
  | .vxSample c f => execVxSample_memOk c f s h
  | .msgMove c f => execMsgMove_memOk c f s h
  | .msgSend c f => execMsgSend_memOk c f s h
  | .sySignal c f => execSySignal_memOk c f s h
  | .crPush c f => execCrPush_memOk c f s h
  | .dgLeaf c f => execDgLeaf_memOk c f s h
  | .dgResult c f => execDgResult_memOk c f s h
  | .illegalEncoding c => execIllegalEncoding_memOk c s h
  | .tokenCompletion c tok => execTokenCompletion_memOk c tok s h
  | .fetchMiss c => execFetchMiss_memOk c s h
  | .contextFault c k => execContextFault_memOk c k s h
  | .corePartStopped c => execCorePartStopped_memOk c s h
  | .waitLimit c => execWaitLimit_memOk c s h
  | .syncOperationArrival k => execSyncOperationArrival_memOk k s h
  | .syncRelease k => execSyncRelease_memOk k s h
  | .teardownNotice k => execTeardownNotice_memOk k s h
  | .syncCfgChange req ch k v => execSyncCfgChange_memOk req ch k v s h
  | .syncValueWrite req ch k v => execSyncValueWrite_memOk req ch k v s h
  | .messageArrival k => execMessageArrival_memOk k s h
  | .deliveryReport k => execDeliveryReport_memOk k s h
  | .crChildArrival k => execCrChildArrival_memOk k s h
  | .rootDelivery k => execRootDelivery_memOk k s h
  | .attnAppend k => execAttnAppend_memOk k s h
  | .attnFwd k => execAttnFwd_memOk k s h
  | .attnBwd k => execAttnBwd_memOk k s h
  | .attnCommandStart k => execAttnCommandStart_memOk k s h
  | .attnCompletion k => execAttnCompletion_memOk k s h
  | .windowWrite req c k v => execWindowWrite_memOk req c k v s h
  | .zeroingEnd c k => execZeroingEnd_memOk c k s h
  | .eccWriteBack c => execEccWriteBack_memOk c s h
  | .doorbellSqTail f off width v => execDoorbellSqTail_memOk f off width v s h
  | .doorbellCqHead f off width v => execDoorbellCqHead_memOk f off width v s h
  | .doorbellArm f off width v => execDoorbellArm_memOk f off width v s h
  | .descriptorFetch f q => execDescriptorFetch_memOk f q s h
  | .descriptorDispatch f q => execDescriptorDispatch_memOk f q s h
  | .nop id => execNop_memOk id s h
  | .loadProgram id => execLoadProgram_memOk id s h
  | .loadTensor id => execLoadTensor_memOk id s h
  | .storeTensor id => execStoreTensor_memOk id s h
  | .runStep id => execRunStep_memOk id s h
  | .syncSignal id => execSyncSignal_memOk id s h
  | .syncWait id => execSyncWait_memOk id s h
  | .syncWaitTimeout id => execSyncWaitTimeout_memOk id s h
  | .pageAlloc id => execPageAlloc_memOk id s h
  | .pageFree id => execPageFree_memOk id s h
  | .pageTableWrite id => execPageTableWrite_memOk id s h
  | .spill id => execSpill_memOk id s h
  | .restore id => execRestore_memOk id s h
  | .digestRead id => execDigestRead_memOk id s h
  | .attest id => execAttest_memOk id s h
  | .frog id => execFrog_memOk id s h
  | .ingestCtlResume id => execIngestCtlResume_memOk id s h
  | .ingestCtlReset id => execIngestCtlReset_memOk id s h
  | .ingestCtlStatus id => execIngestCtlStatus_memOk id s h
  | .descriptorCompletion id => execDescriptorCompletion_memOk id s h
  | .qpEnable f q v => execQpEnable_memOk f q v s h
  | .qpDrain f q => execQpDrain_memOk f q s h
  | .qpForcedDisable f q => execQpForcedDisable_memOk f q s h
  | .qpDrainEnd f q => execQpDrainEnd_memOk f q s h
  | .qpError f q wrote => execQpError_memOk f q wrote s h
  | .elogEnable f v => execElogEnable_memOk f v s h
  | .numvfsWrite n => execNumvfsWrite_memOk n s h
  | .pfFlr => execPfFlr_memOk s h
  | .vfFlr f => execVfFlr_memOk f s h
  | .perstNFall => execPerstNFall_memOk s h
  | .pcieHotReset => execPcieHotReset_memOk s h
  | .fabrst req => execFabrst_memOk req s h
  | .fabricReady => execFabricReady_memOk s h
  | .mgRead op comp addr n => execMgRead_memOk op comp addr n s h
  | .mgWrite op comp addr data => execMgWrite_memOk op comp addr data s h
  | .registerWrite req a n v => execRegisterWrite_memOk req a n v s h
  | .readToClear req a n => execReadToClear_memOk req a n s h
  | .pairLowRead req a => execPairLowRead_memOk req a s h
  | .stepStart p => execStepStart_memOk p s h
  | .stepCommit p C S => execStepCommit_memOk p C S s h
  | .withdrawalEnd p C S => execWithdrawalEnd_memOk p C S s h
  | .contextTeardownEnd p x => execContextTeardownEnd_memOk p x s h
  | .teardownTimeout p x => execTeardownTimeout_memOk p x s h
  | .partitionResetEnd p => execPartitionResetEnd_memOk p s h
  | .channelEnable n => execChannelEnable_memOk n s h
  | .channelDrain n => execChannelDrain_memOk n s h
  | .channelForcedDisable n => execChannelForcedDisable_memOk n s h
  | .channelDrainEnd n => execChannelDrainEnd_memOk n s h
  | .repairGo req n x => execRepairGo_memOk req n x s h
  | .repairDrop req n x => execRepairDrop_memOk req n x s h
  | .coreFailure ch row col cause => execCoreFailure_memOk ch row col cause s h
  | .nocTimeout ch row col => execNocTimeout_memOk ch row col s h
  | .migrationEnd k => execMigrationEnd_memOk k s h
  | .linePacket port fr => execLinePacket_memOk port fr s h
  | .avtpPacket port fr => execAvtpPacket_memOk port fr s h
  | .frameTimeout t => execFrameTimeout_memOk t s h
  | .frameAdmission t => execFrameAdmission_memOk t s h
  | .sampleStart t u => execSampleStart_memOk t u s h
  | .sampleEnd t id => execSampleEnd_memOk t id s h
  | .overtime t id => execOvertime_memOk t id s h
  | .sampleDelivery t => execSampleDelivery_memOk t s h
  | .streamEnable req t v => execStreamEnable_memOk req t v s h
  | .streamDrain req t => execStreamDrain_memOk req t s h
  | .streamForcedDisable req t => execStreamForcedDisable_memOk req t s h
  | .swatchTurn t u => execSwatchTurn_memOk t u s h
  | .swatchEnd t late => execSwatchEnd_memOk t late s h
  | .swdataAccess req wr_ => execSwdataAccess_memOk req wr_ s h
  | .leEnable req => execLeEnable_memOk req s h
  | .leDisable req => execLeDisable_memOk req s h
  | .pcommit req => execPcommit_memOk req s h
  | .baseTick => execBaseTick_memOk s h
  | .loopStart l => execLoopStart_memOk l s h
  | .loopCommit l mismatch => execLoopCommit_memOk l mismatch s h
  | .groupEnable req g v => execGroupEnable_memOk req g v s h
  | .groupCheckEnd g => execGroupCheckEnd_memOk g s h
  | .groupDrain req g => execGroupDrain_memOk req g s h
  | .groupForcedDisable req g => execGroupForcedDisable_memOk req g s h
  | .leRestore req j => execLeRestore_memOk req j s h
  | .leMemdataAccess req w => execLeMemdataAccess_memOk req w s h
  | .mailboxMessage k => execMailboxMessage_memOk k s h
  | .mailboxStale m => execMailboxStale_memOk m s h
  | .controlFrame port fr => execControlFrame_memOk port fr s h
  | .traceArm req v => execTraceArm_memOk req v s h
  | .fire req => execFire_memOk req s h
  | .traceStop => execTraceStop_memOk s h
  | .recorderBlock skip => execRecorderBlock_memOk skip s h
  | .gateInterval p => execGateInterval_memOk p s h
  | .swap req p => execSwap_memOk req p s h
  | .swapApply p => execSwapApply_memOk p s h
  | .preemptVerify p => execPreemptVerify_memOk p s h
  | .tbStep req n v => execTbStep_memOk req n v s h
  | .tbEnable req n v => execTbEnable_memOk req n v s h
  | .cap req => execCap_memOk req s h
  | .ppsIn => execPpsIn_memOk s h
  | .ppsOut => execPpsOut_memOk s h
  | .ppsOutFall => execPpsOutFall_memOk s h
  | .ptpSync m => execPtpSync_memOk m s h
  | .followUp m => execFollowUp_memOk m s h
  | .delayReq n => execDelayReq_memOk n s h
  | .delayResp m => execDelayResp_memOk m s h
  | .pdelayReq n rx => execPdelayReq_memOk n rx s h
  | .pdelayResp followUp m => execPdelayResp_memOk followUp m s h
  | .holdover n => execHoldover_memOk n s h
  | .sel req b => execSel_memOk req b s h
  | .timeRequest n => execTimeRequest_memOk n s h
  | .timeFlit l corr unc fl => execTimeFlit_memOk l corr unc fl s h
  | .linkEnable req l => execLinkEnable_memOk req l s h
  | .linkDrain req l => execLinkDrain_memOk req l s h
  | .linkForcedDisable req l => execLinkForcedDisable_memOk req l s h
  | .linkDrainEnd l => execLinkDrainEnd_memOk l s h
  | .trainingEnd l clu chip link pools => execTrainingEnd_memOk l clu chip link pools s h
  | .trainingRetry l => execTrainingRetry_memOk l s h
  | .linkDown l => execLinkDown_memOk l s h
  | .routeEvaluation => execRouteEvaluation_memOk s h
  | .dataFlit l corr unc fl w => execDataFlit_memOk l corr unc fl w s h
  | .ctrlFlit l corr unc fl recs => execCtrlFlit_memOk l corr unc fl recs s h
  | .idleFlit l corr unc fl => execIdleFlit_memOk l corr unc fl s h
  | .nak l ackseq => execNak_memOk l ackseq s h
  | .creditRequest k => execCreditRequest_memOk k s h
  | .creditGrant k => execCreditGrant_memOk k s h
  | .ddForce req v => execDdForce_memOk req v s h
  | .silentTest k => execSilentTest_memOk k s h
  | .tripIn k n => execTripIn_memOk k n s h
  | .grant req k b => execGrant_memOk req k b s h
  | .tripPathFault kind k => execTripPathFault_memOk kind k s h
  | .clockFail bad => execClockFail_memOk bad s h
  | .lock req => execLock_memOk req s h
  | .fabricSlice ch => execFabricSlice_memOk ch s h
  | .fabricSliceEnd ch bad => execFabricSliceEnd_memOk ch bad s h
  | .islandSlice l => execIslandSlice_memOk l s h
  | .islandSliceEnd l fail => execIslandSliceEnd_memOk l fail s h
  | .testInterval => execTestInterval_memOk s h
  | .bistgo req ch => execBistgo_memOk req ch s h
  | .bistEnd bad => execBistEnd_memOk bad s h
  | .gaugeMeasurement ch => execGaugeMeasurement_memOk ch s h
  | .gaugeMeasurementEnd n slack sram => execGaugeMeasurementEnd_memOk n slack sram s h
  | .now req => execNow_memOk req s h
  | .pmbusTransactionEnd n good => execPmbusTransactionEnd_memOk n good s h
  | .supplyWarning r => execSupplyWarning_memOk r s h
  | .supplyRecovery r => execSupplyRecovery_memOk r s h
  | .railReset r => execRailReset_memOk r s h
  | .fastDroop ch present => execFastDroop_memOk ch present s h
  | .thermalSample n temp => execThermalSample_memOk n temp s h
  | .porstN low clu chip => execPorstN_memOk low clu chip s h
  | .brownOut low clu chip => execBrownOut_memOk low clu chip s h
  | .pllLock => execPllLock_memOk s h
  | .clockReset => execClockReset_memOk s h
  | .castOnSelfTestEnd bad => execCastOnSelfTestEnd_memOk bad s h
  | .islrst req => execIslrst_memOk req s h
  | .islandUp => execIslandUp_memOk s h
  | .pwrGate req d => execPwrGate_memOk req d s h
  | .pwrUngate req d => execPwrUngate_memOk req d s h
  | .pwrUp d => execPwrUp_memOk d s h
  | .certgo req => execCertgo_memOk req s h
  | .rootReconstructionEnd => execRootReconstructionEnd_memOk s h
  | .storeBinding good => execStoreBinding_memOk good s h
  | .hwmAcknowledgement good => execHwmAcknowledgement_memOk good s h
  | .kinst req good => execKinst_memOk req good s h
  | .krot req good => execKrot_memOk req good s h
  | .recorderRead req r k => execRecorderRead_memOk req r k s h
  | .recorderReadEnd => execRecorderReadEnd_memOk s h
  | .regionOverwriteEnd r => execRegionOverwriteEnd_memOk r s h
  | .traceRingEnable req f smp v => execTraceRingEnable_memOk req f smp v s h
  | .flush k => execFlush_memOk k s h
  | .sampleInterval f coincide => execSampleInterval_memOk f coincide s h
  | .counterValueWrite req a v => execCounterValueWrite_memOk req a v s h
  | .jtagInstruction instr trst cells => execJtagInstruction_memOk instr trst cells s h
  | .perstNRise => execPerstNRise_memOk s h
  | .peerLinkLoss l => execPeerLinkLoss_memOk l s h

/-! ### One step (Step.lean) -/

@[simp] theorem State.rest_memOk (s : State) (q : List Instr) : (s.rest q).memOk = s.memOk := State.memOk_congr rfl

theorem step_memOk (s : State) (h : s.memOk = true) : OutcomeMemOk (step s) := by
  unfold step
  split
  · exact (outcomeMemOk_next _).mpr (s.tick_memOk h)
  · exact exec_memOk _ _ ((s.rest_memOk _).trans h)

/-- Settles O55: what writes a memory puts bytes, clears a range or keeps some of its entries, and each of these keeps the canonical form; the other
functions are carried through by what they call, up to the clock cycle and each of the commands. -/
theorem memoriesStayCanonical : Obligations.MemoriesStayCanonical :=
  fun s t h hstep => step_memOk s h t hstep

end Sys2Proof.Machine

/-! Reduction trees, the wiring of the links and the routes between chips (R180, R188, R258-R260). -/

namespace Sys2Proof.Machine

/-! ### Nodes of a tree (R180) -/

theorem bitOf_eq_testBit (v i : Nat) : bitOf v i = v.testBit i := by
  rw [bitOf, Nat.testBit_eq_decide_div_mod_eq]

theorem Node.exists_of_body {x : Node} (h : x.tail = false) (L : Nat) : x.exists L = true ↔ x.i + 1 ≤ L / 2 ^ x.l ∧ x.l ≤ 24 := by
  simp [Node.exists, h, Nat.le_div_iff_mul_le (Nat.two_pow_pos x.l)]

theorem Node.exists_of_tail {x : Node} (h : x.tail = true) (L : Nat) :
    x.exists L = true ↔ ((L / 2 ^ x.l % 2 = 1 ∧ L % 2 ^ x.l ≠ 0) ∧ x.i = L / 2 ^ x.l - 1) ∧ x.l ≤ 24 := by
  simp [Node.exists, h, bitOf]

/-- A set bit below `h` leaves a remainder modulo 2^h. -/
theorem mod_two_pow_ne_zero {L l h : Nat} (hbit : L / 2 ^ l % 2 = 1) (hlt : l < h) : L % 2 ^ h ≠ 0 := by
  intro hzero
  have hset : (L % 2 ^ h).testBit l = true := by
    rw [Nat.testBit_mod_two_pow, Nat.testBit_eq_decide_div_mod_eq]
    simp [hlt, hbit]
  rw [hzero, Nat.zero_testBit] at hset
  exact absurd hset (by decide)

/-! ### The next set bit (R188) -/

theorem nextAbove_eq_some {L l h : Nat} :
    nextAbove L l = some h ↔ (l < h ∧ bitOf L h = true) ∧ h < 25 ∧ ∀ j, j < h → l < j → bitOf L j = false := by
  have hor (j : Nat) : (j ≤ l ∨ bitOf L j = false) ↔ (l < j → bitOf L j = false) := by rw [← Nat.not_lt, imp_iff_not_or]
  simp [nextAbove, List.find?_range_eq_some, hor]

theorem nextAbove_eq_none {L l : Nat} : nextAbove L l = none ↔ ∀ h, h < 25 → l < h → bitOf L h = false := by
  simp [nextAbove]

/-- Two set bits with the same next set bit are one. -/
theorem nextAbove_inj {L l m h : Nat} (hl : L / 2 ^ l % 2 = 1) (hm : L / 2 ^ m % 2 = 1) (hlh : nextAbove L l = some h)
    (hmh : nextAbove L m = some h) : l = m := by
  obtain ⟨⟨hlt, -⟩, -, hfree⟩ := nextAbove_eq_some.mp hlh
  obtain ⟨⟨hmt, -⟩, -, hmfree⟩ := nextAbove_eq_some.mp hmh
  rcases Nat.lt_trichotomy l m with hlm | hlm | hml
  · exact absurd (hfree m hmt hlm) (by simp [bitOf, hm])
  · exact hlm
  · exact absurd (hmfree l hlt hml) (by simp [bitOf, hl])

/-! ### Parents (R188) -/

/-- A node that is no tail and whose pair of nodes on its level lies wholly in the tree. -/
def Node.Inner (x : Node) (L : Nat) : Prop := x.tail = false ∧ x.i / 2 + 1 ≤ L / 2 ^ (x.l + 1)

/-- The last node of its level that has no sibling there: the level's bit of L is set. -/
def Node.Last (x : Node) (L : Nat) : Prop := x.i + 1 = L / 2 ^ x.l ∧ L / 2 ^ x.l % 2 = 1

theorem Node.inner_or_last {x : Node} {L : Nat} (h : x.exists L = true) : x.Inner L ∨ x.Last L := by
  have hhalf : L / 2 ^ (x.l + 1) = L / 2 ^ x.l / 2 := by rw [pow_succ, Nat.div_div_eq_div_mul]
  unfold Node.Inner Node.Last
  rw [hhalf]
  cases htail : x.tail with
  | false =>
    have hi := ((Node.exists_of_body htail L).mp h).1
    generalize L / 2 ^ x.l = n at hi ⊢
    have : x.i / 2 + 1 ≤ n / 2 ∨ x.i + 1 = n ∧ n % 2 = 1 := by omega
    simpa using this
  | true =>
    obtain ⟨⟨⟨hbit, -⟩, hi⟩, -⟩ := (Node.exists_of_tail htail L).mp h
    refine .inr ⟨?_, hbit⟩
    generalize L / 2 ^ x.l = n at hi hbit ⊢
    omega

theorem Node.parent_of_inner {x : Node} {L : Nat} (h : x.Inner L) :
    x.parent L = some (⟨false, x.l + 1, x.i / 2⟩, x.i % 2 == 1) := by
  obtain ⟨htail, hi⟩ := h
  have hbase : (x.i + 1) * 2 ^ x.l ≤ L / 2 ^ (x.l + 1) * 2 ^ (x.l + 1) := by
    calc (x.i + 1) * 2 ^ x.l ≤ L / 2 ^ (x.l + 1) * 2 * 2 ^ x.l := Nat.mul_le_mul_right _ (by omega)
      _ = L / 2 ^ (x.l + 1) * 2 ^ (x.l + 1) := by ring
  simp [Node.parent, htail, hbase]

/-- The last node of its level goes under the tail of the leaves after it, where it is no tail and there are any, else under the tail of
the next level that has one. -/
theorem Node.parent_of_last {x : Node} {L : Nat} (h : x.Last L) : x.parent L =
    if x.tail = false ∧ L % 2 ^ x.l ≠ 0 then some (⟨true, x.l, x.i⟩, false)
    else (nextAbove L x.l).map (fun h => (⟨true, h, L / 2 ^ h - 1⟩, true)) := by
  obtain ⟨hi, hbit⟩ := h
  have hbase : ¬(x.i + 1) * 2 ^ x.l ≤ L / 2 ^ (x.l + 1) * 2 ^ (x.l + 1) := by
    rw [hi, pow_succ, ← Nat.div_div_eq_div_mul, mul_comm (2 ^ x.l), ← mul_assoc, Nat.mul_le_mul_right_iff (Nat.two_pow_pos x.l)]
    omega
  have hcond : (!x.tail && L % 2 ^ x.l != 0) = true ↔ x.tail = false ∧ L % 2 ^ x.l ≠ 0 := by simp
  simp only [Node.parent, hbase, decide_false, Bool.and_false, Bool.false_eq_true, ↓reduceIte, hcond]
  cases nextAbove L x.l <;> rfl

theorem Node.l_le {x : Node} {L : Nat} (h : x.exists L = true) : x.l ≤ 24 := by
  cases htail : x.tail with
  | false => exact ((Node.exists_of_body htail L).mp h).2
  | true => exact ((Node.exists_of_tail htail L).mp h).2

theorem Node.rest_of_tail {x : Node} {L : Nat} (h : x.exists L = true) (htail : x.tail = true) : L % 2 ^ x.l ≠ 0 := by
  obtain ⟨⟨⟨-, hrest⟩, -⟩, -⟩ := (Node.exists_of_tail htail L).mp h
  exact hrest

/-- A node and its parent: a left or right child of the level above, a left child of its own level's tail, or the right child of the tail of
the next level that has one. -/
theorem Node.parent_forms {x p : Node} {L : Nat} {side : Bool} (hx : x.exists L = true) (hp : x.parent L = some (p, side)) :
    (x.Inner L ∧ p = ⟨false, x.l + 1, x.i / 2⟩ ∧ side = (x.i % 2 == 1))
    ∨ (x.Last L ∧ x.tail = false ∧ L % 2 ^ x.l ≠ 0 ∧ p = ⟨true, x.l, x.i⟩ ∧ side = false)
    ∨ (x.Last L ∧ (x.tail = true ↔ L % 2 ^ x.l ≠ 0)
      ∧ ∃ h, nextAbove L x.l = some h ∧ p = ⟨true, h, L / 2 ^ h - 1⟩ ∧ side = true) := by
  rcases Node.inner_or_last hx with hinner | hlast
  · simp only [Node.parent_of_inner hinner, Option.some.injEq, Prod.mk.injEq] at hp
    exact .inl ⟨hinner, hp.1.symm, hp.2.symm⟩
  · rw [Node.parent_of_last hlast] at hp
    split at hp
    case isTrue hrest =>
      simp only [Option.some.injEq, Prod.mk.injEq] at hp
      exact .inr (.inl ⟨hlast, hrest.1, hrest.2, hp.1.symm, hp.2.symm⟩)
    case isFalse hrest =>
      simp only [Option.map_eq_some_iff, Prod.mk.injEq] at hp
      obtain ⟨h, habove, rfl, rfl⟩ := hp
      have htail : L % 2 ^ x.l ≠ 0 → x.tail = true := fun hne => by simpa [hne] using hrest
      exact .inr (.inr ⟨hlast, ⟨Node.rest_of_tail hx, htail⟩, h, habove, rfl, rfl⟩)

theorem Node.exists_parent {x p : Node} {L : Nat} {side : Bool} (hL : L ≤ 2 ^ 24) (hx : x.exists L = true)
    (hp : x.parent L = some (p, side)) : p.exists L = true := by
  rcases Node.parent_forms hx hp with ⟨hinner, rfl, -⟩ | ⟨⟨hi, hbit⟩, -, hrest, rfl, -⟩ | ⟨⟨-, hbit⟩, -, h, habove, rfl, -⟩
  · have hpow : 2 ^ (x.l + 1) ≤ 2 ^ 24 := by
      have := (Nat.le_div_iff_mul_le (Nat.two_pow_pos (x.l + 1))).mp (Nat.le_of_add_left_le hinner.2)
      omega
    exact (Node.exists_of_body rfl L).mpr ⟨hinner.2, (Nat.pow_le_pow_iff_right (by decide)).mp hpow⟩
  · have hle := Node.l_le hx
    exact (Node.exists_of_tail rfl L).mpr ⟨⟨⟨hbit, hrest⟩, by simp [← hi]⟩, hle⟩
  · obtain ⟨⟨hlt, hset⟩, hle, -⟩ := nextAbove_eq_some.mp habove
    exact (Node.exists_of_tail rfl L).mpr
      ⟨⟨⟨by simpa [bitOf] using hset, mod_two_pow_ne_zero hbit hlt⟩, rfl⟩, Nat.le_of_lt_succ hle⟩

/-- A node without a parent stands at the highest level that L reaches: the highest bit of L is set. -/
theorem Node.top_of_parent_none {x : Node} {L h : Nat} (hL : L ≤ 2 ^ 24) (hx : x.exists L = true) (hp : x.parent L = none)
    (hreach : 2 ^ h ≤ L) : h ≤ x.l := by
  have hpos : L ≠ 0 := Nat.pos_iff_ne_zero.mp ((Nat.two_pow_pos h).trans_le hreach)
  have hhigh : h ≤ L.log2 := (Nat.le_log2 hpos).mpr hreach
  rcases Nat.lt_or_ge x.l h with hlt | hge
  · rcases Node.inner_or_last hx with hinner | hlast
    · rw [Node.parent_of_inner hinner] at hp
      exact absurd hp (by simp)
    · rw [Node.parent_of_last hlast] at hp
      split at hp
      · exact absurd hp (by simp)
      · have hlog : L.log2 ≤ 24 := (Nat.pow_le_pow_iff_right (by decide)).mp ((Nat.log2_self_le hpos).trans hL)
        have hclear := nextAbove_eq_none.mp (Option.map_eq_none_iff.mp hp) L.log2 (Nat.lt_succ_of_le hlog) (hlt.trans_le hhigh)
        rw [bitOf_eq_testBit, Nat.testBit_log2 hpos] at hclear
        exact absurd hclear (by decide)
  · exact hge

theorem Node.parent_inj {x y p : Node} {L : Nat} {side : Bool} (hx : x.exists L = true) (hy : y.exists L = true)
    (hxp : x.parent L = some (p, side)) (hyp : y.parent L = some (p, side)) : x = y := by
  rcases x with ⟨xt, xl, xi⟩
  rcases y with ⟨yt, yl, yi⟩
  rcases Node.parent_forms hx hxp with ⟨⟨hxt, -⟩, rfl, rfl⟩ | ⟨-, hxt, -, rfl, rfl⟩ | ⟨⟨hxi, hxbit⟩, hxt, h, hxh, rfl, rfl⟩
  case inl =>
    rcases Node.parent_forms hy hyp with ⟨⟨hyt, -⟩, hp, hside⟩ | ⟨-, -, -, hp, -⟩ | ⟨-, -, h, -, hp, -⟩
    · simp only [Node.mk.injEq, true_and] at hp hxt hyt ⊢
      obtain ⟨hl, hi⟩ := hp
      have hmod : xi % 2 = 1 ↔ yi % 2 = 1 := beq_eq_beq.mp hside
      exact ⟨hxt.trans hyt.symm, by omega, by omega⟩
    · exact absurd hp (by simp)
    · exact absurd hp (by simp)
  case inr.inl =>
    rcases Node.parent_forms hy hyp with ⟨-, hp, -⟩ | ⟨-, hyt, -, hp, -⟩ | ⟨-, -, -, -, -, hside⟩
    · exact absurd hp (by simp)
    · simp only [Node.mk.injEq, true_and] at hp hxt hyt ⊢
      exact ⟨hxt.trans hyt.symm, hp⟩
    · exact absurd hside (by simp)
  case inr.inr =>
    rcases Node.parent_forms hy hyp with ⟨-, hp, -⟩ | ⟨-, -, -, -, hside⟩ | ⟨⟨hyi, hybit⟩, hyt, h', hyh, hp, -⟩
    · exact Bool.noConfusion (congrArg Node.tail hp)
    · exact absurd hside (by simp)
    · simp only [Node.mk.injEq, true_and] at hp
      obtain ⟨rfl, -⟩ := hp
      obtain rfl : xl = yl := nextAbove_inj hxbit hybit hxh hyh
      have htail : xt = yt := Bool.eq_iff_iff.mpr (hxt.trans hyt.symm)
      have hi : xi = yi := Nat.succ.inj (hxi.trans hyi.symm)
      rw [htail, hi]

theorem treeParents : TreeParents := fun _L _x _y _ hL hx hy =>
  ⟨fun _ _ hp => Node.exists_parent hL hx hp, fun hp _ _ hreach => Node.top_of_parent_none hL hx hp hreach,
    fun _ _ hxp hyp => Node.parent_inj hx hy hxp hyp⟩

/-! ### The wiring (R258, R259) -/

theorem wiring : Wiring := by
  refine ⟨fun c j hc hj => ?within, fun a c ha hc => ?uplinks, fun a b ha hb hab => ⟨(b + 16 - a) % 17, ?between⟩⟩
  case within =>
    unfold linkPeer linkTo
    omega
  case uplinks =>
    unfold uplinkPeer
    omega
  case between =>
    unfold uplinkPeer
    exact ⟨by omega, by omega, fun d hd h => by omega⟩

/-! ### Routes (R260) -/

/-- Hops that start at a chip, end at another, and each go on from where the one before them ends. -/
structure Joins (src dst : Nat) (path : List (Nat × Nat)) : Prop where
  starts : path.head?.map Prod.fst = some src
  ends : path.getLast?.map Prod.snd = some dst
  meets : ∀ i h g, path[i]? = some h → path[i + 1]? = some g → h.2 = g.1

theorem joins_single (a b : Nat) : Joins a b [(a, b)] := ⟨rfl, rfl, by simp⟩

theorem Joins.cons {m dst : Nat} {path : List (Nat × Nat)} (h : Joins m dst path) (src : Nat) : Joins src dst ((src, m) :: path) := by
  obtain ⟨hstarts, hends, hmeets⟩ := h
  cases path with
  | nil => exact absurd hstarts (by simp)
  | cons g rest =>
    refine ⟨rfl, by simpa using hends, fun i h g' hh hg => ?_⟩
    cases i with
    | zero =>
      simp only [List.head?_cons, Option.map_some, Option.some.injEq, List.getElem?_cons_zero, List.getElem?_cons_succ, zero_add] at *
      rw [← hh, ← hg, hstarts]
    | succ i => exact hmeets i h g' (by simpa using hh) (by simpa using hg)

/-- Within a cluster: the direct link, or two hops by way of a chip to which both are up. -/
theorem routeOf_within {up : Nat → Nat → Bool} {src dst : Nat} {path : List (Nat × Nat)} (hclu : src / 16 = dst / 16)
    (h : routeOf up src dst = some path) : (path = [(src, dst)] ∧ up src dst = true)
      ∨ ∃ m, path = [(src, m), (m, dst)] ∧ up src m = true ∧ up m dst = true := by
  unfold routeOf at h
  simp only [hclu, ↓reduceIte] at h
  split at h
  case isTrue hup => exact .inl ⟨(Option.some.inj h).symm, hup⟩
  case isFalse =>
    obtain ⟨k, hfind, rfl⟩ := Option.map_eq_some_iff.mp h
    have hk := List.find?_some hfind
    simp only [Bool.and_eq_true] at hk
    exact .inr ⟨_, rfl, hk.1.2, hk.2⟩

/-- The path between clusters: to the gateway, over its uplink, and on to the destination, less the hops that lead nowhere. -/
def farPath (src gate land dst : Nat) : List (Nat × Nat) :=
  (if src = gate then [] else [(src, gate)]) ++ [(gate, land)] ++ (if land = dst then [] else [(land, dst)])

theorem farPath_length (src gate land dst : Nat) : 1 ≤ (farPath src gate land dst).length ∧ (farPath src gate land dst).length ≤ 3 := by
  unfold farPath
  split <;> split <;> simp

theorem joins_farPath (src gate land dst : Nat) : Joins src dst (farPath src gate land dst) := by
  have hover : Joins gate dst ((gate, land) :: if land = dst then [] else [(land, dst)]) := by
    split
    case isTrue h => exact h ▸ joins_single gate land
    case isFalse => exact (joins_single land dst).cons gate
  unfold farPath
  split
  case isTrue h => exact h ▸ hover
  case isFalse => exact hover.cons src

theorem routeOf_between {up : Nat → Nat → Bool} {src dst : Nat} (hclu : src / 16 ≠ dst / 16) :
    ∃ gate land, routeOf up src dst =
      if (farPath src gate land dst).all (fun h => up h.1 h.2) then some (farPath src gate land dst) else none := by
  have hgate (u : Nat) : src % 16 = u ↔ src = src / 16 * 16 + u := by omega
  have hland (g : Nat) : g = dst % 16 ↔ dst / 16 * 16 + g = dst := by omega
  refine ⟨src / 16 * 16 + (dst / 16 + 16 - src / 16) % 17, dst / 16 * 16 + (15 - (dst / 16 + 16 - src / 16) % 17), ?_⟩
  unfold routeOf farPath
  simp only [hclu, ↓reduceIte, hgate, hland]

theorem routes : Routes := by
  refine fun up src dst _ _ _ => ⟨fun path hroute => ?path, fun hclu hup => by simp [routeOf, hclu, hup]⟩
  have hpath : (1 ≤ path.length ∧ path.length ≤ 3) ∧ (∀ h ∈ path, up h.1 h.2 = true) ∧ Joins src dst path := by
    by_cases hclu : src / 16 = dst / 16
    case pos =>
      rcases routeOf_within hclu hroute with ⟨rfl, hup⟩ | ⟨m, rfl, hfirst, hsecond⟩
      · exact ⟨by simp, by simpa using hup, joins_single src dst⟩
      · exact ⟨by simp, by simpa using ⟨hfirst, hsecond⟩, (joins_single m dst).cons src⟩
    case neg =>
      obtain ⟨gate, land, heq⟩ := routeOf_between (up := up) hclu
      obtain ⟨hall, hpath⟩ := Option.ite_none_right_eq_some.mp (heq.symm.trans hroute)
      obtain rfl := Option.some.inj hpath
      exact ⟨farPath_length src gate land dst, List.all_eq_true.mp hall, joins_farPath src gate land dst⟩
  obtain ⟨⟨hone, hthree⟩, hup, hstarts, hends, hmeets⟩ := hpath
  exact ⟨hone, hthree, hup, hstarts, hends, hmeets⟩

/-- Settles O15: a node's parent is one of three forms, which tells its children apart; the wiring is arithmetic; and the hops of each route
meet, by the one way the manual builds it. -/
theorem treesWiringRoutes : Obligations.TreesWiringRoutes := ⟨treeParents, wiring, routes⟩

end Sys2Proof.Machine

/-! The canonical reduction network: children that meet, roots that are delivered (R189, R190, R192, R236). -/

namespace Sys2Proof.Machine

/-! ### Reports and travels within the chip -/

/-- A child or root of this chip is settled without a fault: only what is awaited, and what the end-to-end protection keeps, may change. -/
theorem State.settleAwait_own {s : State} {c : Child} (h : c.chip = s.own) :
    ∃ aw ee, s.settleAwait c 0 = s.onNoc (fun n => { n with awaits := aw, e2e := ee }) := by
  unfold State.settleAwait
  rw [if_pos h]
  cases hfind : s.noc.awaits.find? (fun a => a.id == c.id) with
  | none => exact ⟨s.noc.awaits, s.noc.e2e, by simp [State.applyReport, hfind, State.onNoc]⟩
  | some a => exact ⟨_, _, State.applyReport_success hfind rfl⟩

theorem State.reportTo_own {s : State} {src : Nat} (h : src = s.own) (id code : Nat) (sync : Bool) :
    s.reportTo src id code sync = s.sendReport ⟨id, code, sync⟩ := if_pos h

/-- A root whose destination is on this chip sets out for it (R190). -/
theorem State.travel_root {s : State} {e : TreeEntry} {c : Child} (hroot : c.node.parent e.L = none) (hhere : e.dchip = s.own % 16) :
    s.travel e c
      = s.onNoc (fun n => { n with roots := n.roots ++ [⟨{ c with dst := e.dcore }, e.rootAddr c.inst, e.dsync⟩] }) := by
  simp only [State.travel, hroot, hhere, ↓reduceIte]

theorem State.awaitNode_sameBut (s : State) (e : TreeEntry) (n : Node) (core p x pc faddr : Nat) (tok : Option Nat) :
    s.SameBut [.noc] (s.awaitNode e n core p x pc faddr tok).2 := by
  constructor <;> simp [State.awaitNode, State.newId]

theorem State.leavesChip_root {s : State} {e : TreeEntry} {n : Node} (p : Nat) (hroot : n.parent e.L = none) (hhere : e.dchip = s.own % 16) :
    s.leavesChip p e n = false := by
  simp [State.leavesChip, hroot, hhere]

/-! ### A child arrives (R189, R192) -/

/-- A child at index `i` of those on their way, of a live context and for a core that nothing holds, whose node has in its tree a parent and a
side that is still free. -/
structure Comes (s : State) (i : Nat) (c : Child) (e : TreeEntry) (pn : Node) (side : Bool) : Prop where
  at_ : s.noc.children[i]? = some c
  live : s.ctxGone c.part c.ctx = false
  still : s.holds c.dst = false
  entry : s.treeEntry c.part c.ctx c.tree = some e
  valid : e.valid = true
  parent : c.node.parent e.L = some (pn, side)
  home : c.chip = s.own
  free : s.noc.heldCr.any (sibling c pn side) = false

section
variable {s : State} {i : Nat} {c : Child} {e : TreeEntry} {pn : Node} {side : Bool}

/-- A child that has been taken from those on their way. -/
def State.tookChild (s : State) (i : Nat) : State := s.onNoc (fun n => { n with children := dropAt n.children i })

theorem exec_crChildArrival (h : Comes s i c e pn side) :
    exec (.crChildArrival i) s = .next (((s.tookChild i).childArrives (some e) c pn side).getD s) := by
  have hplace : s.placeOf c = (some e, pn, side) := by
    simp only [State.placeOf, h.entry, h.parent, h.valid, ↓reduceIte]
  refine congrArg Host.Outcome.next ?_
  simp only [h.at_, h.live, h.still, Bool.false_eq_true, ↓reduceIte, hplace]
  rfl

theorem State.childArrives_alone (hfree : s.noc.heldCr.any (sibling c pn side) = false)
    (hother : s.noc.heldCr.any (sibling c pn (!side)) = false) (hroom : (s.noc.heldCr.filter (fun h => h.core == c.dst)).length < 64) :
    s.childArrives (some e) c pn side
      = some (((s.onNoc (fun n => { n with heldCr := n.heldCr ++ [⟨c.dst, pn, side, c, false⟩] })).notePeak c.dst).settleAwait c 0) := by
  have hfind : s.noc.heldCr.find? (sibling c pn (!side)) = none := List.find?_eq_none.mpr (List.any_eq_false.mp hother)
  have hlen : ¬64 ≤ (s.heldAt c.dst).length := Nat.not_le.mpr hroom
  simp only [State.childArrives, hfree, Bool.and_false, Bool.false_eq_true, ↓reduceIte, hfind, hlen, Option.isNone_some]

theorem State.childArrives_meets {h : HeldChild} (hfree : s.noc.heldCr.any (sibling c pn side) = false)
    (hsibling : s.noc.heldCr.find? (sibling c pn (!side)) = some h) :
    s.childArrives (some e) c pn side = some (s.meet e c pn side h) := by
  simp only [State.childArrives, hfree, Bool.and_false, Bool.false_eq_true, ↓reduceIte, hsibling]

theorem State.rd_notePeak {a : Nat} (s : State) (core : Nat) (h : a ≠ R.CR_STAT (core / 256)) : (s.notePeak core).rd a = s.rd a :=
  s.rd_setFld_ne _ _ h

theorem State.own_notePeak (s : State) (core : Nat) : (s.notePeak core).own = s.own := by
  unfold State.own State.fld
  rw [s.rd_notePeak core (by unfold R.KL_ID R.CR_STAT; omega)]

theorem crChildArrival_holds (h : Comes s i c e pn side) (hother : s.noc.heldCr.any (sibling c pn (!side)) = false)
    (hroom : (s.noc.heldCr.filter (fun h => h.core == c.dst)).length < 64) :
    ∃ t, exec (.crChildArrival i) s = .next t ∧ t.noc.heldCr = s.noc.heldCr ++ [⟨c.dst, pn, side, c, false⟩]
      ∧ t.noc.children = s.noc.children.take i ++ s.noc.children.drop (i + 1)
      ∧ s.SameRegs [R.CR_STAT (c.dst / 256)] t ∧ s.SameBut [.regs, .noc] t := by
  let held := (s.tookChild i).onNoc (fun n => { n with heldCr := n.heldCr ++ [⟨c.dst, pn, side, c, false⟩] })
  have hheld : s.SameBut [.noc] held := (State.SameBut.onNoc s _).trans (.onNoc _ _)
  obtain ⟨aw, ee, hsettle⟩ := State.settleAwait_own (s := held.notePeak c.dst) (c := c) (h.home.trans (held.own_notePeak c.dst).symm)
  have hexec : exec (.crChildArrival i) s = .next ((held.notePeak c.dst).settleAwait c 0) := by
    rw [exec_crChildArrival h, State.childArrives_alone (s := s.tookChild i) h.free hother hroom, Option.getD_some]
  rw [hsettle] at hexec
  refine ⟨_, hexec, rfl, rfl, fun a ha => ?_, ?_⟩
  · exact (held.rd_notePeak c.dst (List.ne_of_not_mem_cons ha)).trans (hheld.rd_eq (by simp) a)
  · exact ((hheld.mono (by simp)).trans ((State.SameBut.setFld held _ _ _).mono (by simp))).trans ((State.SameBut.onNoc _ _).mono (by simp))

/-- The root that a child and its held sibling `h` form (R189, R190), the left operand first, with its identifier among the awaited. -/
def formedRoot (e : TreeEntry) (c : Child) (pn : Node) (side : Bool) (h : HeldChild) (chip id : Nat) : Root :=
  ⟨{ c with
      node := pn, dst := e.dcore, src := c.dst, chip := chip, id := id
      val := if side then combine e.fn h.child.val c.val else combine e.fn c.val h.child.val },
    e.rootAddr c.inst, e.dsync⟩

/-- R189: where the parent of two children is the root of a tree with its destination here, it sets out once the one that came is settled. -/
theorem State.meet_of_settled {u : State} (h : HeldChild)
    (hsettle : (s.onNoc (fun n => { n with heldCr := n.heldCr.filter (fun q => q != h) })).settleAwait c 0 = u)
    (hroot : pn.parent e.L = none) (hhere : e.dchip = u.own % 16) :
    s.meet e c pn side h = (u.awaitNode e pn c.dst c.part c.ctx 0 0 none).2.onNoc
      (fun n => { n with roots := n.roots ++ [formedRoot e c pn side h u.own u.noc.nextId] }) := by
  have hstays : (u.awaitNode e pn c.dst c.part c.ctx 0 0 none).2.leavesChip c.part e pn = false :=
    State.leavesChip_root c.part hroot hhere
  unfold State.meet
  simp only [hsettle, hstays, Bool.false_eq_true, ↓reduceIte]
  exact State.travel_root hroot hhere

theorem State.meet_root (h : HeldChild) (hhome : c.chip = s.own) (hroot : pn.parent e.L = none) (hhere : e.dchip = s.own % 16) :
    ∃ id, (s.meet e c pn side h).noc.roots = s.noc.roots ++ [formedRoot e c pn side h s.own id]
      ∧ (s.meet e c pn side h).noc.heldCr = s.noc.heldCr.filter (fun q => q != h)
      ∧ (s.meet e c pn side h).noc.children = s.noc.children ∧ s.SameBut [.noc] (s.meet e c pn side h) := by
  obtain ⟨aw, ee, hsettle⟩ :=
    State.settleAwait_own (s := s.onNoc (fun n => { n with heldCr := n.heldCr.filter (fun q => q != h) })) (c := c) hhome
  rw [State.meet_of_settled h hsettle hroot hhere]
  exact ⟨_, rfl, rfl, rfl, (((State.SameBut.onNoc s _).trans (.onNoc _ _)).trans (State.awaitNode_sameBut _ _ _ _ _ _ _ _ _)).trans (.onNoc _ _)⟩

theorem crChildArrival_meets {h : HeldChild} (hc : Comes s i c e pn side)
    (hsibling : s.noc.heldCr.find? (sibling c pn (!side)) = some h) (hroot : pn.parent e.L = none) (hhere : e.dchip = s.own % 16) :
    ∃ t r, exec (.crChildArrival i) s = .next t ∧ t.noc.roots = s.noc.roots ++ [r]
      ∧ r.child.node = pn ∧ r.child.dst = e.dcore ∧ r.child.tree = c.tree ∧ r.child.inst = c.inst ∧ r.child.part = c.part
      ∧ r.child.ctx = c.ctx ∧ r.daddr = e.daddr + c.inst * e.dstride * 32 ∧ r.dsync = e.dsync
      ∧ r.child.val = (if side then combine e.fn h.child.val c.val else combine e.fn c.val h.child.val)
      ∧ t.noc.heldCr = s.noc.heldCr.filter (fun q => q != h)
      ∧ t.noc.children = s.noc.children.take i ++ s.noc.children.drop (i + 1) ∧ s.SameBut [.noc] t := by
  obtain ⟨id, hroots, hheld, hchildren, hsame⟩ := State.meet_root (s := s.tookChild i) (side := side) h hc.home hroot hhere
  have hexec : exec (.crChildArrival i) s = .next ((s.tookChild i).meet e c pn side h) := by
    rw [exec_crChildArrival hc, State.childArrives_meets (s := s.tookChild i) hc.free hsibling, Option.getD_some]
  exact ⟨_, _, hexec, hroots, rfl, rfl, rfl, rfl, rfl, rfl, rfl, rfl, rfl, hheld, hchildren, (State.SameBut.onNoc s _).trans hsame⟩

end

theorem reductionMeets : ReductionMeets := fun _s _i _c _e _pn _side hat hlive hstill hentry hvalid hparent hhome hfree =>
  have hcomes : Comes _ _ _ _ _ _ := ⟨hat, hlive, hstill, hentry, hvalid, hparent, hhome, hfree⟩
  ⟨crChildArrival_holds hcomes, fun _ => crChildArrival_meets hcomes⟩

/-! ### A signal that nobody waits for (R243) -/

theorem State.noteUndo_sameBut (s : State) (obj : Nat) (hold : Option Nat) (f : Undo → Undo) : s.SameBut [.parts] (s.noteUndo obj hold f) := by
  unfold State.noteUndo
  split
  · exact .refl s _
  · exact .onPart s _ _

/-- Of the registers only VALUE, STAT and HOLDER of one object may change, and beside them only the undo records and the counters: no wait is
queued and none released. -/
structure State.KeepsWaits (obj : Nat) (s t : State) : Prop where
  regs : s.SameRegs [valReg obj, sstatReg obj, holdReg obj] t
  same : s.SameBut [.regs, .parts, .trc] t

section
variable {obj : Nat} {s t u : State}

theorem State.KeepsWaits.of_regs {l : List Piece} (h : s.SameBut l t) (hl : .regs ∉ l) (hsub : l ⊆ [.regs, .parts, .trc]) : s.KeepsWaits obj t :=
  ⟨fun a _ => h.rd_eq hl a, h.mono hsub⟩

theorem State.KeepsWaits.refl (s : State) : s.KeepsWaits obj s := ⟨fun _ _ => rfl, .refl s _⟩

theorem State.KeepsWaits.trans (h : s.KeepsWaits obj t) (g : t.KeepsWaits obj u) : s.KeepsWaits obj u :=
  ⟨fun a ha => (g.regs a ha).trans (h.regs a ha), h.same.trans g.same⟩

theorem State.KeepsWaits.wr (s : State) {a : Nat} (v : Word) (ha : a ∈ [valReg obj, sstatReg obj, holdReg obj]) : s.KeepsWaits obj (s.wr a v) :=
  ⟨fun _ hb => s.rd_wr_ne v (fun h => hb (h ▸ ha)), (State.SameBut.wr s a v).mono (by simp)⟩

theorem State.KeepsWaits.rd_cfgReg (h : s.KeepsWaits obj t) : t.rd (cfgReg obj) = s.rd (cfgReg obj) :=
  h.regs _ (by
    simp only [cfgReg, valReg, sstatReg, holdReg, R.SYNC_CFG, R.SYNC_VALUE, R.SYNC_STAT, R.SYNC_HOLDER, List.mem_cons, List.not_mem_nil, or_false]
    omega)

theorem State.KeepsWaits.own (h : s.KeepsWaits obj t) : t.own = s.own := by
  obtain ⟨hval, hhold, hstat⟩ := not_linkReg_sync obj
  have hid : t.rd R.KL_ID = s.rd R.KL_ID := h.regs _ fun hmem => by
    simp only [List.mem_cons, List.not_mem_nil, or_false] at hmem
    rcases hmem with h | h | h
    · exact hval (h ▸ linkReg_klId)
    · exact hstat (h ▸ linkReg_klId)
    · exact hhold (h ▸ linkReg_klId)
  unfold State.own State.fld
  rw [hid]

theorem State.KeepsWaits.noc (h : s.KeepsWaits obj t) : t.noc = s.noc := h.same.noc.resolve_left (by simp)

/-- The queue of a semaphore that nobody waits for is evaluated without effect. -/
theorem State.evaluate_idle (hkind : s.fld (cfgReg obj) F.SYNC_CFG_KIND = 0) (hqueue : s.queue obj = []) : s.evaluate obj = s := by
  simp [State.evaluate, hkind, hqueue, State.serve]

theorem State.KeepsWaits.evaluate (h : s.KeepsWaits obj t) (hkind : s.fld (cfgReg obj) F.SYNC_CFG_KIND = 0) (hqueue : s.queue obj = []) :
    t.evaluate obj = t := by
  refine State.evaluate_idle ?_ ?_
  · rwa [State.fld, h.rd_cfgReg]
  · rwa [State.queue, h.noc]

/-- R243, R245: a signal to an enabled semaphore that nobody waits for. -/
theorem State.applySignal_sem (a : Nat) (hold : Option Nat) (hen : s.bit (cfgReg obj) F.SYNC_CFG_EN = true)
    (hkind : s.fld (cfgReg obj) F.SYNC_CFG_KIND = 0) (hqueue : s.queue obj = []) :
    s.KeepsWaits obj (s.applySignal obj a hold)
      ∧ ((s.applySignal obj a hold).rd (valReg obj)).toNat = min ((s.rd (valReg obj)).toNat + a) (2 ^ 32 - 1) := by
  have hcount : s.KeepsWaits obj (s.countSync obj hold) := .of_regs (State.SameBut.count s _ _ _ _ _) (by simp) (by simp)
  have hrd (b : Nat) : (s.countSync obj hold).rd b = s.rd b := (State.SameBut.count s _ _ _ _ _).rd_eq (by simp) b
  have hen' : (s.countSync obj hold).bit (cfgReg obj) F.SYNC_CFG_EN = true := by rwa [State.bit, hrd]
  have hkind' : (s.countSync obj hold).fld (cfgReg obj) F.SYNC_CFG_KIND = 0 := by rwa [State.fld, hrd]
  unfold State.applySignal
  simp only [hen', hkind', Bool.not_true, Bool.false_eq_true, ↓reduceIte, hrd]
  generalize s.countSync obj hold = u at hcount
  have hv : min ((s.rd (valReg obj)).toNat + a) (2 ^ 32 - 1) < 2 ^ 32 := by omega
  generalize min ((s.rd (valReg obj)).toNat + a) (2 ^ 32 - 1) = v at hv ⊢
  have hovf : s.KeepsWaits obj (if 2 ^ 32 ≤ (s.rd (valReg obj)).toNat + a then u.setBit (sstatReg obj) F.SYNC_STAT_OVF else u) := by
    split
    · exact hcount.trans (.wr u _ (by simp))
    · exact hcount
  generalize (if 2 ^ 32 ≤ (s.rd (valReg obj)).toNat + a then u.setBit (sstatReg obj) F.SYNC_STAT_OVF else u) = full at hovf ⊢
  have hundo := State.noteUndo_sameBut (full.wr (valReg obj) (BitVec.ofNat 32 v)) obj hold (fun x => { x with sig := x.sig + a })
  have hput : s.KeepsWaits obj _ := (hovf.trans (.wr full (BitVec.ofNat 32 v) (by simp))).trans (.of_regs hundo (by simp) (by simp))
  have hval := hundo.rd_eq (by simp) (valReg obj)
  rw [State.rd_wr_self] at hval
  generalize (full.wr (valReg obj) (BitVec.ofNat 32 v)).noteUndo obj hold (fun x => { x with sig := x.sig + a }) = put at hput hval ⊢
  have hne : valReg obj ≠ holdReg obj := by
    unfold valReg holdReg R.SYNC_VALUE R.SYNC_HOLDER
    omega
  have hvalue {t : State} (hrd : t.rd (valReg obj) = BitVec.ofNat 32 v) : (t.rd (valReg obj)).toNat = v := by
    rw [hrd, BitVec.toNat_ofNat, Nat.mod_eq_of_lt hv]
  split
  case isTrue =>
    have hclear := hput.trans (.wr put (setF (put.rd (holdReg obj)) F.SYNC_HOLDER_HVALID 0) (by simp : holdReg obj ∈ _))
    rw [State.setFld, hclear.evaluate hkind hqueue]
    exact ⟨hclear, hvalue ((put.rd_wr_ne _ hne).trans hval)⟩
  case isFalse =>
    rw [hput.evaluate hkind hqueue]
    exact ⟨hput, hvalue hval⟩

end

/-! ### A root is delivered (R190, R236) -/

/-- R236: a transfer of some bytes in byte form that reaches beyond the bound of its window is refused with BOUND. -/
theorem State.destCheck_bound {s : State} {p x c k a n : Nat} (howns : (s.part p).owns (c / 256) = true) (hslot : s.slotOf c p x = some k)
    (hzero : s.zeroing c k = false) (ha : a < 2 ^ 22) (hn : n ≠ 0) (hout : s.bound c k < a + n) :
    s.destCheck p x c (BitVec.ofNat 32 a) n = .error mBound := by
  have hbeyond : (beyond (s.bound c k) a n).isSome = true := by simp [beyond, hn, Nat.not_le.mpr hout]
  simp [State.destCheck, State.destRange, howns, hslot, hzero, aPlane_ofNat ha, aOff_ofNat ha, hbeyond]

/-- A root at index `i` of those on their way, formed on this chip, of a context that is not torn down, for a core that nothing holds on a
channel of its partition. -/
structure RootComes (s : State) (i : Nat) (r : Root) : Prop where
  at_ : s.noc.roots[i]? = some r
  home : r.child.chip = s.own
  nonempty : r.child.val.length ≠ 0
  live : (s.ctx r.child.part r.child.ctx).state ≠ .teardown
  still : s.holds r.child.dst = false
  owns : (s.part r.child.part).owns (r.child.dst / 256) = true

/-- A root that has been taken from those on their way. -/
def State.tookRoot (s : State) (i : Nat) : State := s.onNoc (fun n => { n with roots := dropAt n.roots i })

section
variable {s : State} {i k : Nat} {r : Root}

theorem State.tookRoot_sameBut (s : State) (i : Nat) : s.SameBut [.noc] (s.tookRoot i) := .onNoc s _

/-- The check of a root that arrives. -/
def State.rootCheck (s : State) (r : Root) : Except Nat Dest :=
  s.destCheck r.child.part r.child.ctx r.child.dst (BitVec.ofNat 32 (min r.daddr (2 ^ 22 - 1))) r.child.val.length

theorem exec_rootDelivery_ok (h : RootComes s i r) {d : Dest} (hcheck : (s.tookRoot i).rootCheck r = .ok d) :
    exec (.rootDelivery i) s = .next (((s.tookRoot i).place r.child.dst d r.child.val).rootSignal r) := by
  refine congrArg Host.Outcome.next ?_
  unfold State.rootCheck State.tookRoot at hcheck
  simp only [h.at_, h.live, h.still, Bool.false_eq_true, ↓reduceIte, hcheck]
  rfl

theorem exec_rootDelivery_error (h : RootComes s i r) {code : Nat} (hcheck : (s.tookRoot i).rootCheck r = .error code) :
    exec (.rootDelivery i) s = .next ((s.tookRoot i).sendReport ⟨r.child.id, code, false⟩) := by
  rw [← (s.tookRoot i).reportTo_own h.home]
  refine congrArg Host.Outcome.next ?_
  unfold State.rootCheck State.tookRoot at hcheck
  simp only [h.at_, h.live, h.still, Bool.false_eq_true, ↓reduceIte, hcheck]
  rfl

theorem RootComes.window (h : RootComes s i r) (hslot : s.slotOf r.child.dst r.child.part r.child.ctx = some k)
    (hzero : s.zeroing r.child.dst k = false) : ((s.tookRoot i).part r.child.part).owns (r.child.dst / 256) = true
      ∧ (s.tookRoot i).slotOf r.child.dst r.child.part r.child.ctx = some k ∧ (s.tookRoot i).zeroing r.child.dst k = false
      ∧ (s.tookRoot i).bound r.child.dst k = s.bound r.child.dst k := by
  have htook := s.tookRoot_sameBut i
  rw [htook.part_eq (by simp), htook.slotOf_eq (by simp), htook.zeroing_eq (by simp), htook.bound_eq (by simp)]
  exact ⟨h.owns, hslot, hzero, rfl⟩

theorem rootCheck_passes (h : RootComes s i r) (hslot : s.slotOf r.child.dst r.child.part r.child.ctx = some k)
    (hzero : s.zeroing r.child.dst k = false) (hin : r.daddr + r.child.val.length ≤ s.bound r.child.dst k) :
    (s.tookRoot i).rootCheck r = .ok (k, none, [(r.daddr, r.child.val.length)]) := by
  obtain ⟨howns, hslot', hzero', hbound⟩ := h.window hslot hzero
  have hlt := s.bound_lt r.child.dst k
  rw [State.rootCheck, Nat.min_eq_left (by omega)]
  exact State.destCheck_passes howns hslot' hzero' (by omega) (by rwa [hbound])

/-- R190: an address of 2^22 or more is checked as the last below it, at which no byte lies within a bound. -/
theorem rootCheck_bound (h : RootComes s i r) (hslot : s.slotOf r.child.dst r.child.part r.child.ctx = some k)
    (hzero : s.zeroing r.child.dst k = false) (hout : s.bound r.child.dst k < r.daddr + r.child.val.length) :
    (s.tookRoot i).rootCheck r = .error mBound := by
  obtain ⟨howns, hslot', hzero', hbound⟩ := h.window hslot hzero
  have hlt := s.bound_lt r.child.dst k
  have hlen := h.nonempty
  exact State.destCheck_bound howns hslot' hzero' (by omega) hlen (by rw [hbound]; omega)

theorem rootDelivery_refused (h : RootComes s i r) (hslot : s.slotOf r.child.dst r.child.part r.child.ctx = some k)
    (hzero : s.zeroing r.child.dst k = false) (hout : s.bound r.child.dst k < r.daddr + r.child.val.length) :
    ∃ t, exec (.rootDelivery i) s = .next t ∧ t.noc.reports = s.noc.reports ++ [⟨r.child.id, 4, false⟩]
      ∧ t.noc.roots = s.noc.roots.take i ++ s.noc.roots.drop (i + 1) ∧ s.SameBut [.noc] t :=
  ⟨_, exec_rootDelivery_error h (rootCheck_bound h hslot hzero hout), rfl, rfl, (s.tookRoot_sameBut i).trans (.onNoc _ _)⟩

theorem rootDelivery_signals {obj : Nat} (h : RootComes s i r) (hslot : s.slotOf r.child.dst r.child.part r.child.ctx = some k)
    (hzero : s.zeroing r.child.dst k = false) (hin : r.daddr + r.child.val.length ≤ s.bound r.child.dst k)
    (hhere : s.handleFrom r.child.chip r.dsync (s.part r.child.part).chmask = .here obj)
    (hen : s.bit (cfgReg obj) F.SYNC_CFG_EN = true) (hkind : s.fld (cfgReg obj) F.SYNC_CFG_KIND = 0) (hqueue : s.queue obj = []) :
    ∃ t, exec (.rootDelivery i) s = .next t
      ∧ t.scratch.bytes (cellKey r.child.dst (s.phys r.child.dst k r.daddr)) r.child.val.length = r.child.val
      ∧ s.SameBytes [(cellKey r.child.dst (s.phys r.child.dst k r.daddr), r.child.val.length)] t
      ∧ (t.rd (valReg obj)).toNat = min ((s.rd (valReg obj)).toNat + 1) (2 ^ 32 - 1)
      ∧ t.noc.reports = s.noc.reports ++ [⟨r.child.id, 0, false⟩]
      ∧ t.noc.roots = s.noc.roots.take i ++ s.noc.roots.drop (i + 1) := by
  have hexec := exec_rootDelivery_ok h (rootCheck_passes h hslot hzero hin)
  have htook := s.tookRoot_sameBut i
  obtain ⟨hscratch, hplace⟩ := (s.tookRoot i).place_spec r.child.dst k r.daddr r.child.val
  rw [htook.phys_eq (by simp), htook.scratch.resolve_left (by simp)] at hscratch
  generalize (s.tookRoot i).place r.child.dst (k, none, [(r.daddr, r.child.val.length)]) r.child.val = placed at hexec hscratch hplace
  have hrd (a : Nat) : placed.rd a = s.rd a := (hplace.rd_eq (by simp) a).trans (htook.rd_eq (by simp) a)
  have hnoc : placed.noc = (s.tookRoot i).noc := hplace.noc.resolve_left (by simp)
  have hhere' : placed.handleFrom r.child.chip r.dsync (placed.part r.child.part).chmask = .here obj := by
    rwa [hplace.handleFrom_eq (by simp), hplace.part_eq (by simp), htook.handleFrom_eq (by simp), htook.part_eq (by simp)]
  obtain ⟨hwaits, hvalue⟩ := State.applySignal_sem (s := placed) 1 (some (holdWord (r.child.chip != placed.own) (r.child.chip % 16) r.child.ctx))
    (by rwa [State.bit, hrd]) (by rwa [State.fld, hrd]) (by rw [State.queue, hnoc]; exact hqueue)
  rw [State.rootSignal, hhere'] at hexec
  dsimp only at hexec
  generalize placed.applySignal obj 1 (some (holdWord (r.child.chip != placed.own) (r.child.chip % 16) r.child.ctx)) = t at hwaits hvalue hexec
  have hown : t.own = s.own := by rw [hwaits.own, State.own, State.fld, State.fld, hrd]; rfl
  rw [State.reportTo_own (h.home.trans hown.symm)] at hexec
  have hbytes : t.scratch = s.scratch.putBytes (cellKey r.child.dst (s.phys r.child.dst k r.daddr)) r.child.val :=
    (hwaits.same.scratch.resolve_left (by simp)).trans hscratch
  refine ⟨_, hexec, ?_, fun a ha => ?_, by rw [← hrd]; exact hvalue, ?_, ?_⟩
  · change t.scratch.bytes _ _ = _
    rw [hbytes, Memory.bytes_putBytes]
  · change t.scratch.byte a = _
    rw [hbytes]
    exact Memory.byte_putBytes_out _ _ _ _ (ha _ (List.mem_singleton.mpr rfl))
  · change t.noc.reports ++ _ = _
    rw [hwaits.noc, hnoc]
    rfl
  · change t.noc.roots = _
    rw [hwaits.noc, hnoc]
    rfl

end

theorem rootsDelivered : RootsDelivered := by
  rintro s i _ r _ hat rfl rfl hhome hval hlive hstill howns
  have h : RootComes s i r := ⟨hat, hhome, List.length_pos_iff.mpr hval |>.ne', hlive, hstill, howns⟩
  exact ⟨fun k obj hslot hzero hin hhere hen hkind hqueue => rootDelivery_signals h hslot hzero hin hhere hen hkind hqueue,
    fun k hslot hzero hout => rootDelivery_refused h hslot hzero hout⟩

/-- Settles O21: a child that comes is held or meets its sibling, and both ways settle it; a root is placed as a message is, or refused at the
bound, and its signal to a semaphore that nobody waits for leaves the network alone. -/
theorem reductions : Obligations.Reductions := ⟨reductionMeets, rootsDelivered⟩

end Sys2Proof.Machine

namespace Sys2Proof.Machine

/-! ### The words of a partition's slice (R294) -/

theorem PartSt.chans_nodup (x : PartSt) : x.chans.Nodup := List.nodup_range.filter _

/-- Two bytes of a slice have two keys. -/
theorem State.sliceKey_inj (s : State) (p : Nat) {a b : Nat} (ha : a < s.sliceLen p) (hb : b < s.sliceLen p)
    (h : s.sliceKey p a = s.sliceKey p b) : a = b := by
  have hla : a / 2 ^ 22 < (s.part p).chans.length := by unfold State.sliceLen at ha; omega
  have hlb : b / 2 ^ 22 < (s.part p).chans.length := by unfold State.sliceLen at hb; omega
  simp only [State.sliceKey, nth, List.getD_eq_getElem _ 0 hla, List.getD_eq_getElem _ 0 hlb] at h
  have hchan : (s.part p).chans[a / 2 ^ 22] = (s.part p).chans[b / 2 ^ 22] := by omega
  have hindex := ((s.part p).chans_nodup.getElem_inj_iff).mp hchan
  omega

/-- Bytes put one by one at the keys that a function gives their indices: other keys keep their bytes. -/
theorem Memory.byte_putAt_out (key : Nat → Nat) (bs : List Byte) (n a : Nat) (m : Memory) (h : ∀ i, i < bs.length → a ≠ key (n + i)) :
    ((bs.zipIdx n).foldl (fun m b => m.put (key b.2) b.1) m).byte a = m.byte a := by
  induction bs generalizing n m with
  | nil => rfl
  | cons b bs ih =>
    rw [List.zipIdx_cons, List.foldl_cons, ih (n + 1) _ fun i hi => ?_]
    · exact Memory.byte_put_ne m b (h 0 (by simp))
    · rw [Nat.add_assoc, Nat.add_comm 1]
      exact h (i + 1) (by simpa using hi)

theorem Memory.byte_putAt_in (key : Nat → Nat) (bs : List Byte) (n : Nat) (m : Memory)
    (hinj : ∀ i j, i < bs.length → j < bs.length → key (n + i) = key (n + j) → i = j) {i : Nat} (hi : i < bs.length) :
    ((bs.zipIdx n).foldl (fun m b => m.put (key b.2) b.1) m).byte (key (n + i)) = bs[i] := by
  induction bs generalizing n m i with
  | nil => cases hi
  | cons b bs ih =>
    rw [List.zipIdx_cons, List.foldl_cons]
    cases i with
    | zero =>
      rw [Memory.byte_putAt_out key bs (n + 1) _ _ fun j hj heq => ?_]
      · exact Memory.byte_put_self _ _ _
      · rw [Nat.add_assoc, Nat.add_comm 1] at heq
        exact absurd (hinj 0 (j + 1) (by simp) (by simpa using hj) heq) (by omega)
    | succ i =>
      have hi' : i < bs.length := by simpa using hi
      rw [show n + (i + 1) = n + 1 + i by omega, ih (n + 1) _ (fun j k hj hk heq => ?_) hi']
      · rfl
      · have := hinj (j + 1) (k + 1) (by simpa using hj) (by simpa using hk) (by rwa [show n + (j + 1) = n + 1 + j by omega, show n + (k + 1) = n + 1 + k by omega])
        omega

theorem State.putSlice_sameBut (s : State) (p off : Nat) (bs : List Byte) : s.SameBut [.tableMem] (s.putSlice p off bs) := by
  constructor <;> simp

theorem State.putSlice_out (s : State) (p off : Nat) (bs : List Byte) {a : Nat} (h : ∀ i, i < bs.length → a ≠ s.sliceKey p (off + i)) :
    (s.putSlice p off bs).tableMem.byte a = s.tableMem.byte a :=
  Memory.byte_putAt_out (fun i => s.sliceKey p (off + i)) bs 0 a _ (by simpa using h)

theorem State.putSlice_in (s : State) (p off : Nat) (bs : List Byte) (hlen : off + bs.length ≤ s.sliceLen p) {i : Nat} (hi : i < bs.length) :
    (s.putSlice p off bs).tableMem.byte (s.sliceKey p (off + i)) = bs[i] := by
  have := Memory.byte_putAt_in (fun i => s.sliceKey p (off + i)) bs 0 s.tableMem (fun i j hi hj heq => ?_) hi
  · simpa only [State.putSlice, Nat.zero_add] using this
  · have := s.sliceKey_inj p (by omega) (by omega) heq
    omega

/-- Bytes that a range of a slice holds already change no byte of table memory. -/
theorem State.putSlice_held (s : State) (p off : Nat) (bs : List Byte)
    (hheld : ∀ i (hi : i < bs.length), s.tableMem.byte (s.sliceKey p (off + i)) = bs[i]) (a : Nat) :
    (s.putSlice p off bs).tableMem.byte a = s.tableMem.byte a := by
  have key : ∀ (bs : List Byte) (n : Nat) (m : Memory), (∀ i (hi : i < bs.length), m.byte (s.sliceKey p (off + (n + i))) = bs[i]) →
      ((bs.zipIdx n).foldl (fun m b => m.put (s.sliceKey p (off + b.2)) b.1) m).byte a = m.byte a := by
    intro bs
    induction bs with
    | nil => exact fun _ _ _ => rfl
    | cons b bs ih =>
      intro n m h
      have hput (k : Nat) : (m.put (s.sliceKey p (off + n)) b).byte k = m.byte k := by
        by_cases hk : k = s.sliceKey p (off + n)
        · rw [hk, Memory.byte_put_self]
          exact (h 0 (by simp)).symm
        · exact Memory.byte_put_ne _ _ hk
      rw [List.zipIdx_cons, List.foldl_cons, ih (n + 1) _ fun i hi => ?_, hput]
      rw [hput, show n + 1 + i = n + (i + 1) by omega]
      exact h (i + 1) (by simpa using hi)
  exact key bs 0 _ (by simpa using hheld)

/-- The keys of a slice are those of the partition's channels. -/
theorem State.sliceKey_of_chmask {s t : State} {p : Nat} (h : (t.part p).chmask = (s.part p).chmask) (off : Nat) :
    t.sliceKey p off = s.sliceKey p off := by
  rw [State.sliceKey, State.sliceKey, PartSt.chans, PartSt.chans, h]

theorem State.sliceLen_of_chmask {s t : State} {p : Nat} (h : (t.part p).chmask = (s.part p).chmask) : t.sliceLen p = s.sliceLen p := by
  rw [State.sliceLen, State.sliceLen, PartSt.chans, PartSt.chans, h]

/-- A slice whose keys and bytes are the same reads the same. -/
theorem State.sliceBytes_congr {s t : State} {p : Nat} (hmask : (t.part p).chmask = (s.part p).chmask)
    (hbyte : ∀ a, t.tableMem.byte a = s.tableMem.byte a) (off n : Nat) : t.sliceBytes p off n = s.sliceBytes p off n := by
  simp only [State.sliceBytes, State.sliceKey_of_chmask hmask, hbyte]

@[simp] theorem State.length_sliceBytes (s : State) (p off n : Nat) : (s.sliceBytes p off n).length = n := by
  rw [State.sliceBytes, List.length_map, List.length_range]

theorem State.getElem_sliceBytes (s : State) (p off n : Nat) {i : Nat} (hi : i < (s.sliceBytes p off n).length) :
    (s.sliceBytes p off n)[i] = s.tableMem.byte (s.sliceKey p (off + i)) := by
  simp only [State.sliceBytes, List.getElem_map, List.getElem_range]

/-- A number held in four bytes is written as those bytes. -/
theorem leBytes_leNat (bs : List Byte) : leBytes bs.length (leNat bs) = bs := by
  induction bs with
  | nil => rfl
  | cons b bs ih =>
    have hb : b.toNat < 256 := b.isLt
    rw [List.length_cons, leNat, leBytes, Nat.add_mul_div_left _ _ (by decide), Nat.div_eq_of_lt hb, Nat.zero_add, ih]
    congr 1
    apply BitVec.eq_of_toNat_eq
    rw [BitVec.toNat_ofNat]
    omega

/-! ### Entries written (R208, R307, R309) -/

/-- Whether an entry names a group (R208). -/
def PoolGroup.isNamed (g : PoolGroup) (e : Nat) : Bool := g.off == bitsOf e 29 20 && g.slot == bitsOf e 19 8

/-- A group that remembers an entry written, where it names the group (R309). -/
def PoolGroup.note (g : PoolGroup) (w : Nat × Nat) : PoolGroup :=
  if g.isNamed w.2 && !g.entries.contains w.1 then { g with entries := w.1 :: g.entries } else g

/-- A group that remembers the entries written one after another. -/
def PoolGroup.noteAll (g : PoolGroup) (ws : List (Nat × Nat)) : PoolGroup := ws.foldl PoolGroup.note g

/-- Entries written one after another: offset and word. -/
def State.writeEntries (s : State) (p : Nat) (ws : List (Nat × Nat)) : State := s.each ws fun u w => u.writeEntryAt p w.1 w.2

theorem PoolGroup.note_entries (g : PoolGroup) (w : Nat × Nat) : g.note w = { g with entries := (g.note w).entries } := by
  unfold PoolGroup.note
  split <;> rfl

theorem PoolGroup.mem_note (g : PoolGroup) (w : Nat × Nat) (o : Nat) :
    o ∈ (g.note w).entries ↔ o ∈ g.entries ∨ (w.1 = o ∧ g.isNamed w.2 = true) := by
  unfold PoolGroup.note
  split
  case isTrue h =>
    have hnamed : g.isNamed w.2 = true := by simp only [Bool.and_eq_true] at h; exact h.1
    simp only [List.mem_cons, hnamed, and_true]
    exact ⟨fun h => h.elim (fun h => .inr h.symm) .inl, fun h => h.elim .inr fun h => .inl h.symm⟩
  case isFalse h =>
    simp only [Bool.and_eq_true, Bool.not_eq_true', List.contains_eq_mem, decide_eq_false_iff_not, not_and, Classical.not_not] at h
    exact ⟨.inl, fun ho => ho.elim id fun ⟨hw, hnamed⟩ => hw ▸ h hnamed⟩

theorem PoolGroup.noteAll_entries (g : PoolGroup) (ws : List (Nat × Nat)) : g.noteAll ws = { g with entries := (g.noteAll ws).entries } := by
  induction ws generalizing g with
  | nil => rfl
  | cons w ws ih =>
    have hfields (es : List Nat) : ({ g.note w with entries := es } : PoolGroup) = { g with entries := es } := by rw [g.note_entries w]
    exact (ih (g.note w)).trans (hfields _)

theorem PoolGroup.mem_noteAll (g : PoolGroup) (ws : List (Nat × Nat)) (o : Nat) :
    o ∈ (g.noteAll ws).entries ↔ o ∈ g.entries ∨ ∃ w ∈ ws, w.1 = o ∧ g.isNamed w.2 = true := by
  induction ws generalizing g with
  | nil => simp [PoolGroup.noteAll]
  | cons w ws ih =>
    have hnamed (e : Nat) : (g.note w).isNamed e = g.isNamed e := by rw [g.note_entries w]; rfl
    refine (ih (g.note w)).trans ?_
    simp only [g.mem_note, hnamed, List.mem_cons, exists_eq_or_imp, or_assoc]

/-- A group that none of the entries names remembers nothing new. -/
theorem PoolGroup.noteAll_unnamed (g : PoolGroup) (ws : List (Nat × Nat)) (h : ∀ w ∈ ws, g.isNamed w.2 = false) : g.noteAll ws = g := by
  induction ws with
  | nil => rfl
  | cons w ws ih =>
    have hw : g.note w = g := by simp [PoolGroup.note, h w List.mem_cons_self]
    rw [PoolGroup.noteAll, List.foldl_cons, hw]
    exact ih fun v hv => h v (List.mem_cons_of_mem _ hv)

/-- The entries named by some words name a group exactly when it is named by one of them. -/
theorem namedBy_iff (es : List Nat) (g : PoolGroup) : namedBy es g = true ↔ ∃ e ∈ es, g.isNamed e = true := by
  simp only [namedBy, List.any_eq_true, PoolGroup.isNamed, Bool.and_eq_true, beq_iff_eq]
  exact exists_congr fun e => and_congr_right fun _ => ⟨fun h => ⟨h.1.symm, h.2.symm⟩, fun h => ⟨h.1.symm, h.2.symm⟩⟩

theorem State.writeEntryAt_sameBut (s : State) (p off e : Nat) : s.SameBut [.tableMem, .parts] (s.writeEntryAt p off e) :=
  ((s.putSlice_sameBut p off _).mono (by simp)).trans ((State.SameBut.onPart _ _ _).mono (by simp))

theorem State.writeEntryAt_part (s : State) (p off e : Nat) :
    (s.writeEntryAt p off e).part p = { s.part p with pool := (s.part p).pool.map (·.note (off, e)) } := State.part_onPart_self _ _ _

theorem State.writeEntryAt_tableMem (s : State) (p off e : Nat) : (s.writeEntryAt p off e).tableMem = (s.putSlice p off (leBytes 4 e)).tableMem := rfl

theorem State.writeEntries_sameBut (s : State) (p : Nat) (ws : List (Nat × Nat)) : s.SameBut [.tableMem, .parts] (s.writeEntries p ws) :=
  State.each_keeps (P := fun u => s.SameBut [.tableMem, .parts] u) ws (.refl s _) fun u w hu => hu.trans (u.writeEntryAt_sameBut p w.1 w.2)

theorem State.writeEntries_part (s : State) (p : Nat) (ws : List (Nat × Nat)) :
    (s.writeEntries p ws).part p = { s.part p with pool := (s.part p).pool.map (·.noteAll ws) } := by
  induction ws generalizing s with
  | nil => simp [State.writeEntries, State.each, PoolGroup.noteAll]
  | cons w ws ih =>
    refine (ih (s.writeEntryAt p w.1 w.2)).trans ?_
    rw [s.writeEntryAt_part, List.map_map]
    rfl

theorem State.writeEntries_chmask (s : State) (p : Nat) (ws : List (Nat × Nat)) : ((s.writeEntries p ws).part p).chmask = (s.part p).chmask := by
  rw [s.writeEntries_part]

theorem State.writeEntries_out (s : State) (p : Nat) (ws : List (Nat × Nat)) {a : Nat} (h : ∀ w ∈ ws, ∀ j, j < 4 → a ≠ s.sliceKey p (w.1 + j)) :
    (s.writeEntries p ws).tableMem.byte a = s.tableMem.byte a := by
  induction ws generalizing s with
  | nil => rfl
  | cons w ws ih =>
    have hkey (o : Nat) : (s.writeEntryAt p w.1 w.2).sliceKey p o = s.sliceKey p o :=
      State.sliceKey_of_chmask (by rw [s.writeEntryAt_part]) o
    refine (ih (s.writeEntryAt p w.1 w.2) fun v hv j hj => ?_).trans ?_
    · rw [hkey]
      exact h v (List.mem_cons_of_mem _ hv) j hj
    · rw [s.writeEntryAt_tableMem]
      exact s.putSlice_out p w.1 _ fun j hj => h w List.mem_cons_self j (by simpa using hj)

/-- Entries at words that do not overlap are all there at the end. -/
theorem State.writeEntries_in (s : State) (p : Nat) (ws : List (Nat × Nat)) (hin : ∀ w ∈ ws, w.1 + 4 ≤ s.sliceLen p)
    (happart : ws.Pairwise fun v w => v.1 + 4 ≤ w.1) {w : Nat × Nat} (hw : w ∈ ws) : (s.writeEntries p ws).sliceBytes p w.1 4 = leBytes 4 w.2 := by
  induction ws generalizing s with
  | nil => cases hw
  | cons v ws ih =>
    obtain ⟨hafter, happart⟩ := List.pairwise_cons.mp happart
    have hmask : ((s.writeEntryAt p v.1 v.2).part p).chmask = (s.part p).chmask := by rw [s.writeEntryAt_part]
    rcases List.mem_cons.mp hw with rfl | hw
    · refine List.ext_getElem (by simp) fun j hj hj' => ?_
      have hj4 : j < 4 := by simpa using hj
      have hwlen := hin w List.mem_cons_self
      rw [State.getElem_sliceBytes, State.sliceKey_of_chmask (s.writeEntries_chmask p _)]
      refine ((s.writeEntryAt p w.1 w.2).writeEntries_out p ws fun v hv i hi heq => ?_).trans ?_
      · rw [State.sliceKey_of_chmask hmask] at heq
        have hvlen := hin v (List.mem_cons_of_mem _ hv)
        have hv := hafter v hv
        have := s.sliceKey_inj p (by omega) (by omega) heq
        omega
      · rw [s.writeEntryAt_tableMem]
        exact s.putSlice_in p w.1 _ (by simpa using hwlen) hj'
    · exact ih (s.writeEntryAt p v.1 v.2) (fun w hw => by rw [State.sliceLen_of_chmask hmask]; exact hin w (List.mem_cons_of_mem _ hw)) happart hw

/-- Words written back as they are held change no byte. -/
theorem State.writeEntries_held (s : State) (p : Nat) (ws : List (Nat × Nat)) (h : ∀ w ∈ ws, w.2 = s.sliceU32 p w.1) (a : Nat) :
    (s.writeEntries p ws).tableMem.byte a = s.tableMem.byte a := by
  induction ws generalizing s with
  | nil => rfl
  | cons w ws ih =>
    have hmask : ((s.writeEntryAt p w.1 w.2).part p).chmask = (s.part p).chmask := by rw [s.writeEntryAt_part]
    have hbytes : leBytes 4 w.2 = s.sliceBytes p w.1 4 := by
      have := leBytes_leNat (s.sliceBytes p w.1 4)
      rwa [State.length_sliceBytes, ← State.sliceU32, ← h w List.mem_cons_self] at this
    have hbyte (b : Nat) : (s.writeEntryAt p w.1 w.2).tableMem.byte b = s.tableMem.byte b := by
      rw [s.writeEntryAt_tableMem, hbytes]
      exact s.putSlice_held p w.1 _ (fun i hi => (s.getElem_sliceBytes p w.1 4 hi).symm) b
    refine (ih (s.writeEntryAt p w.1 w.2) fun v hv => ?_).trans (hbyte a)
    rw [State.sliceU32, State.sliceBytes_congr hmask hbyte]
    exact h v (List.mem_cons_of_mem _ hv)

end Sys2Proof.Machine

namespace Sys2Proof.Machine

/-! ### Entries cleared (R309) -/

/-- Bit 31 of a word of a slice is bit 7 of its last byte. -/
theorem State.sliceU32_valid (s : State) (p o : Nat) : bitOf (s.sliceU32 p o) 31 = bitOf (s.tableMem.byte (s.sliceKey p (o + 3))).toNat 7 := by
  have hbyte (i : Nat) : (s.tableMem.byte (s.sliceKey p (o + i))).toNat < 256 := (s.tableMem.byte (s.sliceKey p (o + i))).isLt
  have h0 := hbyte 0
  have h1 := hbyte 1
  have h2 := hbyte 2
  rw [State.sliceU32, State.sliceBytes]
  simp only [List.range, List.range.loop, List.map_cons, List.map_nil, leNat, bitOf]
  congr 2
  omega

theorem State.clearEntry_sameBut (s : State) (p off : Nat) : s.SameBut [.tableMem] (s.clearEntry p off) := s.putSlice_sameBut _ _ _

theorem State.clearEntry_byte (s : State) (p off a : Nat) :
    (s.clearEntry p off).tableMem.byte a = if a = s.sliceKey p (off + 3) then s.tableMem.byte a &&& 0x7F#8 else s.tableMem.byte a := by
  unfold State.clearEntry State.putSlice
  change (s.tableMem.put (s.sliceKey p (off + 3 + 0)) (s.tableMem.byte (s.sliceKey p (off + 3 + 0)) &&& 0x7F#8)).byte a = _
  rw [Nat.add_zero]
  split
  case isTrue h => rw [h, Memory.byte_put_self]
  case isFalse h => exact Memory.byte_put_ne _ _ h

/-- Entries cleared one after another. -/
def State.clearEntries (s : State) (p : Nat) (l : List Nat) : State := s.each l fun u off => u.clearEntry p off

theorem State.clearEntries_sameBut (s : State) (p : Nat) (l : List Nat) : s.SameBut [.tableMem] (s.clearEntries p l) :=
  State.each_keeps (P := fun u => s.SameBut [.tableMem] u) l (.refl s _) fun u off hu => hu.trans (u.clearEntry_sameBut p off)

/-- A byte that holds bit 31 of one of the entries has lost it, however many entries share the byte; the other bytes are as they were. -/
theorem State.clearEntries_byte (s : State) (p : Nat) (l : List Nat) (a : Nat) :
    ((∃ o ∈ l, a = s.sliceKey p (o + 3)) → (s.clearEntries p l).tableMem.byte a = s.tableMem.byte a &&& 0x7F#8)
      ∧ ((¬∃ o ∈ l, a = s.sliceKey p (o + 3)) → (s.clearEntries p l).tableMem.byte a = s.tableMem.byte a) := by
  induction l generalizing s with
  | nil => exact ⟨fun ⟨_, h, _⟩ => absurd h List.not_mem_nil, fun _ => rfl⟩
  | cons o l ih =>
    have hsame := s.clearEntry_sameBut p o
    have hkey (b : Nat) : (s.clearEntry p o).sliceKey p b = s.sliceKey p b := State.sliceKey_of_chmask (by rw [hsame.part_eq (by simp)]) b
    obtain ⟨hin, hout⟩ := ih (s.clearEntry p o)
    simp only [hkey, s.clearEntry_byte] at hin hout
    have hstep : (s.clearEntries p (o :: l)) = (s.clearEntry p o).clearEntries p l := rfl
    rw [hstep]
    simp only [List.mem_cons, exists_eq_or_imp, not_or]
    by_cases hl : ∃ o ∈ l, a = s.sliceKey p (o + 3)
    · refine ⟨fun _ => (hin hl).trans ?_, fun h => absurd hl h.2⟩
      split
      · rw [BitVec.and_assoc, BitVec.and_self]
      · rfl
    · refine ⟨fun h => (hout hl).trans (if_pos (h.resolve_right hl)), fun h => (hout hl).trans (if_neg h.1)⟩

theorem bitOf_cleared (b : Byte) : bitOf (b &&& 0x7F#8).toNat 7 = false := by
  have : (b &&& 0x7F#8).toNat ≤ 127 := by
    rw [BitVec.toNat_and]
    exact Nat.and_le_right
  rw [bitOf, Nat.div_eq_of_lt (by omega)]
  rfl

/-- The entries that a release clears. -/
def State.entriesOf (s : State) (p : Nat) (f : PoolGroup → Bool) : List Nat :=
  ((s.part p).pool.filter f).flatMap fun g => g.entries.filter (s.current p g)

theorem State.mem_entriesOf (s : State) (p : Nat) (f : PoolGroup → Bool) (o : Nat) :
    o ∈ s.entriesOf p f ↔ ∃ g ∈ (s.part p).pool, f g = true ∧ o ∈ g.entries ∧ s.current p g o = true := by
  simp only [State.entriesOf, List.mem_flatMap, List.mem_filter, and_assoc]

theorem State.releaseGroups_pool (s : State) (p : Nat) (f : PoolGroup → Bool) : ((s.releaseGroups p f).part p).pool
    = (s.part p).pool.map fun g => if f g then (s.clearEntries p (s.entriesOf p f)).releasedGroup p g else g := by
  have hpart : (s.releaseGroups p f).part p = _ := State.part_onPart_self _ _ _
  rw [hpart]
  change ((s.clearEntries p (s.entriesOf p f)).part p).pool.map _ = _
  rw [(s.clearEntries_sameBut p _).part_eq (by simp)]
  rfl

/-! ### The entries that a descriptor names -/

theorem namedEntries_apart (d : Desc) (a : Nat) : (namedEntries d a).Pairwise fun v w => v + 4 ≤ w :=
  List.pairwise_map.mpr (List.pairwise_lt_range.imp fun h => by omega)

theorem State.entriesIn_iff (s : State) (p : Nat) (offs : List Nat) : s.entriesIn p offs = true ↔ ∀ o ∈ offs, o + 4 ≤ s.sliceLen p := by
  simp [State.entriesIn]

/-- What a list of entries written at words of a slice that do not overlap leaves: every word there, every other byte as it was. -/
theorem State.writeEntries_spec (s : State) (p : Nat) {offs : List Nat} {ws : List (Nat × Nat)} (hfst : ws.map Prod.fst = offs)
    (hin : ∀ o ∈ offs, o + 4 ≤ s.sliceLen p) (happart : offs.Pairwise fun v w => v + 4 ≤ w) :
    (∀ w ∈ ws, (s.writeEntries p ws).sliceBytes p w.1 4 = leBytes 4 w.2)
      ∧ ∀ a, (∀ o ∈ offs, ∀ j, j < 4 → a ≠ s.sliceKey p (o + j)) → (s.writeEntries p ws).tableMem.byte a = s.tableMem.byte a := by
  subst hfst
  exact ⟨fun w hw => s.writeEntries_in p ws (fun v hv => hin _ (List.mem_map_of_mem hv)) (List.pairwise_map.mp happart) hw,
    fun a ha => s.writeEntries_out p ws fun w hw => ha _ (List.mem_map_of_mem hw)⟩

theorem State.sliceBytes_of_sameBut {s t : State} {l : List Piece} (h : s.SameBut l t) (hm : .tableMem ∉ l) (hp : .parts ∉ l) (p off n : Nat) :
    t.sliceBytes p off n = s.sliceBytes p off n :=
  State.sliceBytes_congr (by rw [h.part_eq hp]) (fun a => by rw [h.tableMem.resolve_left hm]) off n

theorem State.finish_sameBut (s : State) (id status : Nat) (result : List Byte) : s.SameBut [.host] (s.finish id status result) :=
  State.SameBut.onHost s fun h => { h with descs := finished h.descs id status result }

theorem State.finish_descs (s : State) (id status : Nat) (result : List Byte) :
    (s.finish id status result).host.descs = finished s.host.descs id status result := rfl

/-! ### PAGE_ALLOC (R307) -/

section
variable {s : State} {id : Nat} {d : Desc} {offs : List Nat}

/-- The groups that PAGE_ALLOC takes belong to its context. -/
def State.allocated (s : State) (d : Desc) (gs : List PoolGroup) : State :=
  s.onPart d.part fun q => { q with pool := q.pool.map fun g => if gs.contains g then { g with st := .alloc d.ctx, hdim := 0 } else g }

/-- The entries that PAGE_ALLOC writes. -/
def Desc.allocEntries (d : Desc) (offs : List Nat) (gs : List PoolGroup) : List (Nat × Nat) :=
  (offs.zip gs).map fun e => (e.1, e.2.entry (d.at_ 20 1))

theorem exec_pageAlloc {gs : List PoolGroup} (hready : s.ready id 7 = some d) (hoffs : offs = namedEntries d 8)
    (hin : ∀ o ∈ offs, o + 4 ≤ s.sliceLen d.part) (hinvalid : ∀ o ∈ offs, bitOf (s.sliceU32 d.part o) 31 = false)
    (hgs : gs = ((s.part d.part).pool.filter (fun g => g.st == .free)).take offs.length) (hlen : gs.length = offs.length) :
    exec (.pageAlloc id) s
      = .next (((s.allocated d gs).writeEntries d.part (d.allocEntries offs gs)).finish id stOk (leBytes 4 offs.length)) := by
  have hoffs' : d.entries 8 = offs := hoffs.symm
  have hbound : s.entriesIn d.part offs = true := (s.entriesIn_iff _ _).mpr hin
  have hnone : offs.any (fun o => bitOf (s.sliceU32 d.part o) 31) = false := by
    rw [List.any_eq_false]
    exact fun o ho => by rw [hinvalid o ho]; simp
  refine congrArg Host.Outcome.next ?_
  simp only [hready, hoffs', hbound, hnone, ← hgs, hlen, Nat.lt_irrefl, Bool.not_true, Bool.false_eq_true, ↓reduceIte]
  simp only [State.writeEntries, Desc.allocEntries, State.each, List.foldl_map]
  rfl

theorem pageAlloc_spec {gs : List PoolGroup} (hready : s.ready id 7 = some d) (hoffs : offs = namedEntries d 8)
    (hin : ∀ o ∈ offs, o + 4 ≤ s.sliceLen d.part) (hinvalid : ∀ o ∈ offs, bitOf (s.sliceU32 d.part o) 31 = false)
    (hgs : gs = ((s.part d.part).pool.filter (fun g => g.st == .free)).take offs.length) (hlen : gs.length = offs.length) :
    ∃ t, exec (.pageAlloc id) s = .next t ∧ t.host.descs = finished s.host.descs id 0 (leBytes 4 offs.length)
      ∧ (t.part d.part).pool.map (fun (g : PoolGroup) => (g.off, g.slot, g.gen, g.st))
        = (s.part d.part).pool.map (fun (g : PoolGroup) => (g.off, g.slot, g.gen, if gs.contains g then PgState.alloc d.ctx else g.st))
      ∧ (∀ (i o : Nat) (g : PoolGroup), offs[i]? = some o → gs[i]? = some g → t.sliceBytes d.part o 4
        = leBytes 4 (2 ^ 31 + d.at_ 20 1 * 2 ^ 30 + g.off * 2 ^ 20 + g.slot * 2 ^ 8 + g.gen))
      ∧ (∀ a, (∀ o ∈ offs, ∀ j, j < 4 → a ≠ s.sliceKey d.part (o + j)) → t.tableMem.byte a = s.tableMem.byte a)
      ∧ s.SameBut [.tableMem, .parts, .host] t := by
  have hexec := exec_pageAlloc hready hoffs hin hinvalid hgs hlen
  have hpart : (s.allocated d gs).part d.part = _ := State.part_onPart_self _ _ _
  have hsame : s.SameBut [.parts] (s.allocated d gs) := .onPart _ _ _
  have hmask : ((s.allocated d gs).part d.part).chmask = (s.part d.part).chmask := by rw [hpart]
  have hfst : (d.allocEntries offs gs).map Prod.fst = offs := by
    rw [Desc.allocEntries, List.map_map]
    exact List.map_fst_zip (by omega)
  obtain ⟨hwords, hrest⟩ := (s.allocated d gs).writeEntries_spec d.part hfst (by rwa [State.sliceLen_of_chmask hmask])
    (hoffs ▸ namedEntries_apart d 8)
  have hfinish := ((s.allocated d gs).writeEntries d.part (d.allocEntries offs gs)).finish_sameBut id stOk (leBytes 4 offs.length)
  have hwrite := (s.allocated d gs).writeEntries_sameBut d.part (d.allocEntries offs gs)
  refine ⟨_, hexec, ?_, ?_, fun i o g ho hg => ?_, fun a ha => ?_, ?_⟩
  · rw [State.finish_descs, hwrite.host.resolve_left (by simp), hsame.host.resolve_left (by simp)]
    rfl
  · rw [hfinish.part_eq (by simp), State.writeEntries_part, hpart]
    simp only [List.map_map]
    refine List.map_congr_left fun g _ => ?_
    rw [Function.comp_apply, Function.comp_apply, PoolGroup.noteAll_entries]
    split <;> rfl
  · rw [State.sliceBytes_of_sameBut hfinish (by simp) (by simp)]
    refine hwords (o, g.entry (d.at_ 20 1)) (List.mem_map.mpr ⟨(o, g), ?_, rfl⟩)
    exact List.mem_of_getElem? (List.getElem?_zip_eq_some.mpr ⟨ho, hg⟩)
  · exact hrest a fun o ho j hj => by rw [State.sliceKey_of_chmask hmask]; exact ha o ho j hj
  · exact ((hsame.mono (by simp)).trans (hwrite.mono (by simp))).trans (hfinish.mono (by simp))

/-! ### PAGE_FREE (R308, R309) -/

/-- The entries that PAGE_FREE names, with their words. -/
def State.heldEntries (s : State) (p : Nat) (offs : List Nat) : List (Nat × Nat) := offs.map fun o => (o, s.sliceU32 p o)

/-- Every entry that PAGE_FREE names is VALID and names, with its generation, a group that a context holds (R308). -/
def State.Freeable (s : State) (p : Nat) (offs : List Nat) : Prop :=
  ∀ o ∈ offs, bitOf (s.sliceU32 p o) 31 = true
    ∧ ∃ g c, s.groupOf p (s.sliceU32 p o) = some g ∧ g.st = .alloc c ∧ g.gen = s.sliceU32 p o % 256

/-- The state in which PAGE_FREE has noted the entries that it names. -/
def State.noted (s : State) (p : Nat) (offs : List Nat) : State := s.writeEntries p (s.heldEntries p offs)

/-- The groups that PAGE_FREE names wait for a step of its context (R309). -/
def State.pend (s : State) (d : Desc) (es : List Nat) (st : Nat) : State :=
  s.onPart d.part fun q => { q with pool := q.pool.map fun g => if namedBy es g = true then { g with st := .pending d.ctx st } else g }

/-- What PAGE_FREE does with the groups that it names: they wait for the context's latest step, or are released where there is none. -/
def State.freeGroups (s : State) (d : Desc) (es : List Nat) : State :=
  match s.lastStep d.part d.ctx d.order with
  | some st => s.pend d es st
  | none => s.releaseGroups d.part (namedBy es)

theorem exec_pageFree (hready : s.ready id 8 = some d) (hoffs : offs = namedEntries d 8) (hin : ∀ o ∈ offs, o + 4 ≤ s.sliceLen d.part)
    (hfree : s.Freeable d.part offs) : exec (.pageFree id) s
      = .next (((s.noted d.part offs).freeGroups d (offs.map (s.sliceU32 d.part))).finish id stOk (leBytes 4 offs.length)) := by
  have hoffs' : d.entries 8 = offs := hoffs.symm
  have hbound : s.entriesIn d.part offs = true := (s.entriesIn_iff _ _).mpr hin
  have hvalid : (offs.map (s.sliceU32 d.part)).any (fun e => !bitOf e 31) = false := by
    rw [List.any_eq_false]
    rintro e he
    obtain ⟨o, ho, rfl⟩ := List.mem_map.mp he
    simp [(hfree o ho).1]
  refine congrArg Host.Outcome.next ?_
  simp only [hready, hoffs', hbound, hvalid, Bool.not_true, Bool.false_eq_true, ↓reduceIte]
  rw [if_neg ?_]
  · have hzip : offs.zip (offs.map (s.sliceU32 d.part)) = s.heldEntries d.part offs :=
      List.map_prod_left_eq_zip.symm
    rw [hzip]
    rfl
  · rw [List.any_eq_true]
    rintro ⟨e, he, hstale⟩
    obtain ⟨o, ho, rfl⟩ := List.mem_map.mp he
    obtain ⟨g, c, hgroup, hst, hgen⟩ := (hfree o ho).2
    simp [hgroup, hst, hgen] at hstale

theorem State.noted_sameBut (s : State) (p : Nat) (offs : List Nat) : s.SameBut [.tableMem, .parts] (s.noted p offs) := s.writeEntries_sameBut p _

theorem State.noted_byte (s : State) (p : Nat) (offs : List Nat) (a : Nat) : (s.noted p offs).tableMem.byte a = s.tableMem.byte a :=
  s.writeEntries_held p _ (List.forall_mem_map.mpr fun _ _ => rfl) a

theorem State.noted_part (s : State) (p : Nat) (offs : List Nat) :
    (s.noted p offs).part p = { s.part p with pool := (s.part p).pool.map (·.noteAll (s.heldEntries p offs)) } := s.writeEntries_part p _

theorem State.noted_chmask (s : State) (p : Nat) (offs : List Nat) : ((s.noted p offs).part p).chmask = (s.part p).chmask :=
  s.writeEntries_chmask p _

theorem State.noted_lastStep (s : State) (p : Nat) (offs : List Nat) (x order : Nat) : (s.noted p offs).lastStep p x order = s.lastStep p x order := by
  unfold State.lastStep State.ctx
  rw [s.noted_part]
  rfl

theorem PoolGroup.noteAll_namedBy (g : PoolGroup) (ws : List (Nat × Nat)) (es : List Nat) : namedBy es (g.noteAll ws) = namedBy es g := by
  rw [g.noteAll_entries]
  rfl

/-- A group that PAGE_FREE does not name remembers nothing of it. -/
theorem State.noteAll_unnamed {p : Nat} {g : PoolGroup} (h : namedBy (offs.map (s.sliceU32 p)) g = false) : g.noteAll (s.heldEntries p offs) = g := by
  refine g.noteAll_unnamed _ fun w hw => ?_
  obtain ⟨o, ho, rfl⟩ := List.mem_map.mp hw
  rw [Bool.eq_false_iff] at h ⊢
  exact fun hnamed => h ((namedBy_iff _ g).mpr ⟨_, List.mem_map_of_mem ho, hnamed⟩)

theorem State.mem_noteAll_held (p : Nat) (g : PoolGroup) (o : Nat) :
    o ∈ (g.noteAll (s.heldEntries p offs)).entries ↔ o ∈ g.entries ∨ (o ∈ offs ∧ g.isNamed (s.sliceU32 p o) = true) := by
  rw [g.mem_noteAll]
  refine or_congr_right ⟨?_, fun ⟨ho, hnamed⟩ => ⟨_, List.mem_map_of_mem ho, rfl, hnamed⟩⟩
  rintro ⟨w, hw, rfl, hnamed⟩
  obtain ⟨o, ho, rfl⟩ := List.mem_map.mp hw
  exact ⟨ho, hnamed⟩

theorem pageFree_pending {st : Nat} (hready : s.ready id 8 = some d) (hoffs : offs = namedEntries d 8)
    (hin : ∀ o ∈ offs, o + 4 ≤ s.sliceLen d.part) (hfree : s.Freeable d.part offs) (hlast : s.lastStep d.part d.ctx d.order = some st) :
    ∃ t, exec (.pageFree id) s = .next t ∧ t.host.descs = finished s.host.descs id 0 (leBytes 4 offs.length)
      ∧ List.Forall₂ (fun (g h : PoolGroup) =>
          (namedBy (offs.map (s.sliceU32 d.part)) g = true → h.off = g.off ∧ h.slot = g.slot ∧ h.gen = g.gen ∧ h.hdim = g.hdim
            ∧ h.st = .pending d.ctx st ∧ ∀ e ∈ h.entries, e ∈ offs ∨ e ∈ g.entries)
          ∧ (namedBy (offs.map (s.sliceU32 d.part)) g = false → h = g)) (s.part d.part).pool (t.part d.part).pool
      ∧ (∀ a, t.tableMem.byte a = s.tableMem.byte a) ∧ s.SameBut [.tableMem, .parts, .host] t := by
  have hexec := exec_pageFree hready hoffs hin hfree
  have hdone : (s.noted d.part offs).freeGroups d (offs.map (s.sliceU32 d.part)) = (s.noted d.part offs).pend d (offs.map (s.sliceU32 d.part)) st := by
    rw [State.freeGroups, s.noted_lastStep, hlast]
  rw [hdone] at hexec
  have hnoted := s.noted_sameBut d.part offs
  have hpend : (s.noted d.part offs).SameBut [.parts] ((s.noted d.part offs).pend d (offs.map (s.sliceU32 d.part)) st) := .onPart _ _ _
  have hpart : ((s.noted d.part offs).pend d (offs.map (s.sliceU32 d.part)) st).part d.part = _ := State.part_onPart_self _ _ _
  generalize (s.noted d.part offs).pend d (offs.map (s.sliceU32 d.part)) st = u at hexec hpend hpart
  have hfinish := u.finish_sameBut id stOk (leBytes 4 offs.length)
  refine ⟨_, hexec, ?_, ?_, fun a => ?_, ?_⟩
  · rw [State.finish_descs, hpend.host.resolve_left (by simp), hnoted.host.resolve_left (by simp)]
    rfl
  · rw [hfinish.part_eq (by simp), hpart, s.noted_part, List.map_map]
    refine List.forall₂_map_right_iff.mpr (List.forall₂_same.mpr fun g _ => ?_)
    simp only [Function.comp_apply, PoolGroup.noteAll_namedBy]
    refine ⟨fun hnamed => ?_, fun hnamed => ?_⟩
    · rw [if_pos hnamed]
      have hentries (e : Nat) (he : e ∈ (g.noteAll (s.heldEntries d.part offs)).entries) : e ∈ offs ∨ e ∈ g.entries :=
        ((s.mem_noteAll_held d.part g e).mp he).elim .inr fun h => .inl h.1
      rw [g.noteAll_entries]
      exact ⟨rfl, rfl, rfl, rfl, rfl, hentries⟩
    · rw [if_neg (by simp [hnamed]), State.noteAll_unnamed hnamed]
  · rw [hfinish.tableMem.resolve_left (by simp), hpend.tableMem.resolve_left (by simp), s.noted_byte]
  · exact (hnoted.mono (by simp)).trans ((hpend.mono (by simp)).trans (hfinish.mono (by simp)))

theorem State.noted_sliceU32 (s : State) (p : Nat) (offs : List Nat) (o : Nat) : (s.noted p offs).sliceU32 p o = s.sliceU32 p o := by
  rw [State.sliceU32, State.sliceBytes_congr (s.noted_chmask p offs) (s.noted_byte p offs)]
  rfl

theorem State.current_iff (s : State) (p : Nat) (g : PoolGroup) (o : Nat) : s.current p g o = true
    ↔ bitOf (s.sliceU32 p o) 31 = true ∧ g.isNamed (s.sliceU32 p o) = true ∧ s.sliceU32 p o % 256 = g.gen := by
  simp only [State.current, State.namesGroup, PoolGroup.isNamed, Bool.and_eq_true, beq_iff_eq, and_assoc]
  rw [eq_comm (a := g.off), eq_comm (a := g.slot)]

theorem State.noted_current (s : State) (p : Nat) (offs : List Nat) (g : PoolGroup) (ws : List (Nat × Nat)) (o : Nat) :
    (s.noted p offs).current p (g.noteAll ws) o = s.current p g o := by
  rw [State.current, State.current, State.namesGroup, State.namesGroup, s.noted_sliceU32, g.noteAll_entries]

/-- What PAGE_FREE's release clears is what `clearsAt` says. -/
theorem clearsAt_iff (s : State) (p : Nat) (offs : List Nat) (a : Nat) : clearsAt s p offs (offs.map (s.sliceU32 p)) a
    ↔ ∃ o ∈ (s.noted p offs).entriesOf p (namedBy (offs.map (s.sliceU32 p))), a = (s.noted p offs).sliceKey p (o + 3) := by
  have hpool : ((s.noted p offs).part p).pool = (s.part p).pool.map (·.noteAll (s.heldEntries p offs)) := by rw [s.noted_part]
  simp only [State.mem_entriesOf, hpool, List.mem_map, exists_exists_and_eq_and, PoolGroup.noteAll_namedBy, s.noted_current, s.mem_noteAll_held,
    State.sliceKey_of_chmask (s.noted_chmask p offs)]
  constructor
  · rintro ⟨g, hg, hnamed, o, ho, hcur, rfl⟩
    refine ⟨o, ⟨g, hg, hnamed, ?_, hcur⟩, rfl⟩
    exact (List.mem_append.mp ho).elim (fun ho => .inr ⟨ho, ((s.current_iff p g o).mp hcur).2.1⟩) .inl
  · rintro ⟨o, ⟨g, hg, hnamed, ho, hcur⟩, rfl⟩
    exact ⟨g, hg, hnamed, o, List.mem_append.mpr (ho.elim .inr fun h => .inl h.1), hcur, rfl⟩

/-- Every word that PAGE_FREE names is among those whose VALID its release clears. -/
theorem State.Freeable.clearsAt {p : Nat} (hfree : s.Freeable p offs) {o : Nat} (ho : o ∈ offs) :
    Sys2Proof.clearsAt s p offs (offs.map (s.sliceU32 p)) (s.sliceKey p (o + 3)) := by
  obtain ⟨hvalid, g, c, hgroup, -, hgen⟩ := hfree o ho
  have hnamed : g.isNamed (s.sliceU32 p o) = true :=
    List.find?_some (p := fun g : PoolGroup => g.isNamed (s.sliceU32 p o)) hgroup
  exact ⟨g, List.mem_of_find?_eq_some hgroup, (namedBy_iff _ g).mpr ⟨_, List.mem_map_of_mem ho, hnamed⟩, o, List.mem_append_left _ ho,
    (s.current_iff p g o).mpr ⟨hvalid, hnamed, hgen.symm⟩, rfl⟩

/-- No step of the context was dispatched before (R309). -/
theorem State.lastStep_none {p x order : Nat} (h : ∀ q ∈ (s.ctx p x).queue, order ≤ q.order) : s.lastStep p x order = none := by
  have hnone : (s.ctx p x).queue.filter (fun q => decide (q.order < order)) = [] :=
    List.filter_eq_nil_iff.mpr fun q hq => by simpa using h q hq
  rw [State.lastStep, hnone]
  rfl

theorem pageFree_released (hready : s.ready id 8 = some d) (hoffs : offs = namedEntries d 8) (hin : ∀ o ∈ offs, o + 4 ≤ s.sliceLen d.part)
    (hfree : s.Freeable d.part offs) (hlast : s.lastStep d.part d.ctx d.order = none) :
    ∃ t, exec (.pageFree id) s = .next t ∧ t.host.descs = finished s.host.descs id 0 (leBytes 4 offs.length)
      ∧ (∀ o ∈ offs, bitOf (t.sliceU32 d.part o) 31 = false)
      ∧ PoolReleased (namedBy (offs.map (s.sliceU32 d.part))) (s.part d.part).pool (t.part d.part).pool
      ∧ (∀ a, clearsAt s d.part offs (offs.map (s.sliceU32 d.part)) a → t.tableMem.byte a = s.tableMem.byte a &&& 0x7F#8)
      ∧ (∀ a, ¬clearsAt s d.part offs (offs.map (s.sliceU32 d.part)) a → t.tableMem.byte a = s.tableMem.byte a)
      ∧ s.SameBut [.tableMem, .parts, .host] t := by
  have hexec := exec_pageFree hready hoffs hin hfree
  have hdone : (s.noted d.part offs).freeGroups d (offs.map (s.sliceU32 d.part))
      = (s.noted d.part offs).releaseGroups d.part (namedBy (offs.map (s.sliceU32 d.part))) := by
    rw [State.freeGroups, s.noted_lastStep, hlast]
  rw [hdone] at hexec
  have hnoted := s.noted_sameBut d.part offs
  let f := namedBy (offs.map (s.sliceU32 d.part))
  let cleared := (s.noted d.part offs).clearEntries d.part ((s.noted d.part offs).entriesOf d.part f)
  have hclear : (s.noted d.part offs).SameBut [.tableMem] cleared := State.clearEntries_sameBut _ _ _
  obtain ⟨hrelease, -, pool, hpart⟩ := (s.noted d.part offs).releaseGroups_spec d.part f
  have hmem : ((s.noted d.part offs).releaseGroups d.part f).tableMem = cleared.tableMem := rfl
  have hpool := (s.noted d.part offs).releaseGroups_pool d.part f
  generalize (s.noted d.part offs).releaseGroups d.part f = u at hexec hrelease hpart hmem hpool
  have hfinish := u.finish_sameBut id stOk (leBytes 4 offs.length)
  have hbyte (a : Nat) : (u.finish id stOk (leBytes 4 offs.length)).tableMem.byte a = cleared.tableMem.byte a := by
    rw [hfinish.tableMem.resolve_left (by simp), hmem]
  have hin (a : Nat) (ha : clearsAt s d.part offs (offs.map (s.sliceU32 d.part)) a) : cleared.tableMem.byte a = s.tableMem.byte a &&& 0x7F#8 := by
    rw [((s.noted d.part offs).clearEntries_byte d.part _ a).1 ((clearsAt_iff s d.part offs a).mp ha), s.noted_byte]
  have hout (a : Nat) (ha : ¬clearsAt s d.part offs (offs.map (s.sliceU32 d.part)) a) : cleared.tableMem.byte a = s.tableMem.byte a := by
    rw [((s.noted d.part offs).clearEntries_byte d.part _ a).2 (mt (clearsAt_iff s d.part offs a).mpr ha), s.noted_byte]
  have hinvalid (v : State) (hmask : (v.part d.part).chmask = (s.part d.part).chmask) (hv : ∀ a, v.tableMem.byte a = cleared.tableMem.byte a)
      (o : Nat) (ho : o ∈ offs) : bitOf (v.sliceU32 d.part o) 31 = false := by
    rw [v.sliceU32_valid, State.sliceKey_of_chmask hmask, hv, hin _ (hfree.clearsAt ho), bitOf_cleared]
  refine ⟨_, hexec, ?_, hinvalid _ ?_ hbyte, ?_, fun a ha => (hbyte a).trans (hin a ha), fun a ha => (hbyte a).trans (hout a ha), ?_⟩
  · rw [State.finish_descs, hrelease.host.resolve_left (by simp), hnoted.host.resolve_left (by simp)]
    rfl
  · rw [hfinish.part_eq (by simp), hpart, s.noted_chmask]
  · rw [hfinish.part_eq (by simp), hpool, s.noted_part, List.map_map]
    refine List.forall₂_map_right_iff.mpr (List.forall₂_same.mpr fun g _ => ?_)
    simp only [Function.comp_apply, f, PoolGroup.noteAll_namedBy]
    refine ⟨fun hnamed => ?_, fun hnamed => ?_⟩
    · rw [if_pos hnamed]
      have hkept (e : Nat) (he : e ∈ (cleared.releasedGroup d.part (g.noteAll (s.heldEntries d.part offs))).entries) : e ∈ g.entries := by
        obtain ⟨hmem, hnames⟩ := List.mem_filter.mp he
        refine ((s.mem_noteAll_held d.part g e).mp hmem).resolve_right fun ⟨hoff, _⟩ => ?_
        rw [State.namesGroup, hinvalid cleared (by rw [hclear.part_eq (by simp), s.noted_chmask]) (fun _ => rfl) e hoff] at hnames
        cases hnames
      refine ⟨?_, ⟨rfl, rfl⟩, ?_, hkept⟩ <;> rw [g.noteAll_entries]
      · exact ⟨rfl, rfl⟩
      · rfl
    · rw [if_neg (by simp [hnamed]), State.noteAll_unnamed hnamed]
  · exact (hnoted.mono (by simp)).trans ((hrelease.mono (by simp)).trans (hfinish.mono (by simp)))

/-! ### PAGE_TABLE_WRITE (R208) -/

theorem State.dmaRead_good {a n : Nat} (h : s.hostBad a n = false) : s.dmaRead a n = (s.count none 0 none 0x42 n, some (s.host.mem.bytes a n)) := by
  rw [State.dmaRead, State.hostRead, h]
  rfl

/-- The entries that PAGE_TABLE_WRITE brings from host memory. -/
def State.broughtEntries (s : State) (a : Nat) (offs : List Nat) : List (Nat × Nat) :=
  (offs.zip (chunksOf 4 offs.length (s.host.mem.bytes a (4 * offs.length)))).map fun e => (e.1, leNat e.2)

theorem exec_pageTableWrite (hready : s.ready id 9 = some d) (hoffs : offs = namedEntries d 16) (hin : ∀ o ∈ offs, o + 4 ≤ s.sliceLen d.part)
    (hgood : s.hostBad (d.at_ 8 8) (4 * offs.length) = false) : exec (.pageTableWrite id) s = .next
      (((s.count none 0 none 0x42 (4 * offs.length)).writeEntries d.part (s.broughtEntries (d.at_ 8 8) offs)).finish id stOk []) := by
  have hoffs' : d.entries 16 = offs := hoffs.symm
  have hbound : s.entriesIn d.part offs = true := (s.entriesIn_iff _ _).mpr hin
  refine congrArg Host.Outcome.next ?_
  simp only [hready, hoffs', hbound, State.dmaRead_good hgood, Bool.not_true, Bool.false_eq_true, ↓reduceIte]
  simp only [State.writeEntries, State.broughtEntries, State.each, List.foldl_map]

theorem Memory.bytes_add (m : Memory) (a k n : Nat) : m.bytes a (k + n) = m.bytes a k ++ m.bytes (a + k) n := by
  induction k generalizing a with
  | zero => simp [Memory.bytes]
  | succ k ih => rw [Nat.add_right_comm, Memory.bytes, ih, Memory.bytes, List.cons_append, Nat.add_assoc, Nat.add_comm 1]

/-- The pieces that host memory is cut into are those at their addresses. -/
theorem chunksOf_bytes (m : Memory) (k n a : Nat) {i : Nat} (hi : i < n) (hk : 0 < k) :
    (chunksOf k n (m.bytes a (k * n)))[i]? = some (m.bytes (a + k * i) k) := by
  induction n generalizing a i with
  | zero => cases hi
  | succ n ih =>
    have hne : (m.bytes a (k * (n + 1))).isEmpty = false := by
      rw [List.isEmpty_eq_false_iff, ← List.length_pos_iff, Memory.bytes_length]
      exact Nat.mul_pos hk n.succ_pos
    have hsplit : m.bytes a (k * (n + 1)) = m.bytes a k ++ m.bytes (a + k) (k * n) := by
      rw [Nat.mul_succ, Nat.add_comm, Memory.bytes_add]
    rw [chunksOf, hne]
    cases i with
    | zero => simp [hsplit]
    | succ i =>
      have hdrop : (m.bytes a (k * (n + 1))).drop k = m.bytes (a + k) (k * n) := by rw [hsplit]; simp
      simp only [Bool.false_eq_true, ↓reduceIte, List.getElem?_cons_succ, hdrop]
      rw [ih (a + k) (by omega), Nat.mul_succ]
      congr 2
      omega

theorem pageTableWrite_spec (hready : s.ready id 9 = some d) (hoffs : offs = namedEntries d 16) (hin : ∀ o ∈ offs, o + 4 ≤ s.sliceLen d.part)
    (hgood : s.hostBad (d.at_ 8 8) (4 * offs.length) = false) :
    ∃ t, exec (.pageTableWrite id) s = .next t ∧ t.host.descs = finished s.host.descs id 0 []
      ∧ (∀ i o, offs[i]? = some o → t.sliceBytes d.part o 4 = s.host.mem.bytes (d.at_ 8 8 + 4 * i) 4)
      ∧ (t.part d.part).pool.map (fun (g : PoolGroup) => (g.off, g.slot, g.gen, g.st, g.hdim))
        = (s.part d.part).pool.map (fun (g : PoolGroup) => (g.off, g.slot, g.gen, g.st, g.hdim))
      ∧ (∀ a, (∀ o ∈ offs, ∀ j, j < 4 → a ≠ s.sliceKey d.part (o + j)) → t.tableMem.byte a = s.tableMem.byte a)
      ∧ s.SameBut [.tableMem, .parts, .host, .trc] t := by
  have hexec := exec_pageTableWrite hready hoffs hin hgood
  have hcount := State.SameBut.count s none 0 none 0x42 (4 * offs.length)
  generalize s.count none 0 none 0x42 (4 * offs.length) = counted at hexec hcount
  have hmask : (counted.part d.part).chmask = (s.part d.part).chmask := by rw [hcount.part_eq (by simp)]
  have hlen : (chunksOf 4 offs.length (s.host.mem.bytes (d.at_ 8 8) (4 * offs.length))).length = offs.length :=
    chunksOf_length 4 (by decide) _ _ (by simp)
  have hfst : (s.broughtEntries (d.at_ 8 8) offs).map Prod.fst = offs := by
    rw [State.broughtEntries, List.map_map]
    exact List.map_fst_zip (by omega)
  obtain ⟨hwords, hrest⟩ := counted.writeEntries_spec d.part hfst (by rwa [State.sliceLen_of_chmask hmask]) (hoffs ▸ namedEntries_apart d 16)
  have hwrite := counted.writeEntries_sameBut d.part (s.broughtEntries (d.at_ 8 8) offs)
  have hfinish := (counted.writeEntries d.part (s.broughtEntries (d.at_ 8 8) offs)).finish_sameBut id stOk []
  refine ⟨_, hexec, ?_, fun i o ho => ?_, ?_, fun a ha => ?_, ?_⟩
  · rw [State.finish_descs, hwrite.host.resolve_left (by simp), hcount.host.resolve_left (by simp)]
    rfl
  · have hi : i < offs.length := (List.getElem?_eq_some_iff.mp ho).1
    have hchunk := chunksOf_bytes s.host.mem 4 offs.length (d.at_ 8 8) hi (by decide)
    have hmem : (o, leNat (s.host.mem.bytes (d.at_ 8 8 + 4 * i) 4)) ∈ s.broughtEntries (d.at_ 8 8) offs :=
      List.mem_map.mpr ⟨(o, _), List.mem_of_getElem? (List.getElem?_zip_eq_some.mpr ⟨ho, hchunk⟩), rfl⟩
    have hbytes := leBytes_leNat (s.host.mem.bytes (d.at_ 8 8 + 4 * i) 4)
    rw [Memory.bytes_length] at hbytes
    rw [State.sliceBytes_of_sameBut hfinish (by simp) (by simp)]
    exact (hwords _ hmem).trans hbytes
  · rw [hfinish.part_eq (by simp), State.writeEntries_part, hcount.part_eq (by simp), List.map_map]
    refine List.map_congr_left fun g _ => ?_
    rw [Function.comp_apply, g.noteAll_entries]
  · refine (hrest a fun o ho j hj => ?_).trans (by rw [hcount.tableMem.resolve_left (by simp)])
    rw [State.sliceKey_of_chmask hmask]
    exact ha o ho j hj
  · exact (hcount.mono (by simp)).trans ((hwrite.mono (by simp)).trans (hfinish.mono (by simp)))

end

/-- Settles O33: entries are written at words of the slice that do not overlap (PAGE_ALLOC, PAGE_TABLE_WRITE), or as they are held already
(PAGE_FREE); a release clears bit 31 of the entries that it finds current. -/
theorem pages : Obligations.Pages := by
  intro s id d _
  refine ⟨fun offs gs hready hoffs hin hinvalid hgs hlen => pageAlloc_spec hready hoffs hin hinvalid hgs hlen,
    fun offs hready hoffs hin hfree => ⟨fun st hlast => pageFree_pending hready hoffs hin hfree hlast, fun hlate => ?_⟩,
    fun offs hready hoffs hin hgood => pageTableWrite_spec hready hoffs hin hgood⟩
  exact pageFree_released hready hoffs hin hfree (State.lastStep_none hlate)

end Sys2Proof.Machine

namespace Sys2Proof.Machine

/-! ### Computations that write only in listed ranges of bytes (R216) -/

/-- Nothing of the state has changed but bytes in the listed ranges, the changes kept of words, and how many free values have been drawn. -/
structure State.Wrote (R : List (Nat × Nat)) (s t : State) : Prop where
  bytes : s.SameBytes R t
  same : s.SameBut [.scratch, .words, .fresh] t

theorem State.Wrote.refl (R : List (Nat × Nat)) (s : State) : s.Wrote R s := ⟨fun _ _ => rfl, .refl s _⟩

theorem State.Wrote.trans {R : List (Nat × Nat)} {s t u : State} (h : s.Wrote R t) (g : t.Wrote R u) : s.Wrote R u :=
  ⟨fun a ha => (g.bytes a ha).trans (h.bytes a ha), h.same.trans g.same⟩

/-- A range that lies in one of the listed ones. -/
def Covered (R : List (Nat × Nat)) (a n : Nat) : Prop := ∃ r ∈ R, r.1 ≤ a ∧ a + n ≤ r.1 + r.2

theorem State.noteWords_sameBut (s : State) (c p n : Nat) : s.SameBut [.words] (s.noteWords c p n) := by
  unfold State.noteWords
  split
  · exact .refl s _
  · constructor <;> simp

/-- A write into a window of a device none of whose words is marked. -/
theorem State.Wrote.putWin {R : List (Nat × Nat)} {s t : State} (h : s.Wrote R t) (hue : s.ue = []) (hce : s.ce = []) {c k a : Nat} {bs : List Byte}
    (hin : Covered R (cellKey c (s.phys c k a)) bs.length) : s.Wrote R (t.putWin c k a bs) := by
  obtain ⟨r, hr, hlo, hhi⟩ := hin
  have hphys : t.phys c k a = s.phys c k a := h.same.phys_eq (by simp) c k a
  have hnote := t.noteWords_sameBut c (s.phys c k a) bs.length
  have hmarks : (t.noteWords c (s.phys c k a) bs.length).writeMarks c (s.phys c k a) bs.length = t.noteWords c (s.phys c k a) bs.length := by
    unfold State.writeMarks
    rw [hnote.ue.resolve_left (by simp), hnote.ce.resolve_left (by simp), h.same.ue.resolve_left (by simp), h.same.ce.resolve_left (by simp), hue, hce]
    rfl
  have hput (u : State) (m : Memory) : u.SameBut [.scratch] { u with scratch := m } := by constructor <;> simp
  rw [State.putWin, hphys]
  refine h.trans ⟨fun b hb => ?_, ?_⟩
  · rw [State.scratch_putPhys]
    have := hb r hr
    exact Memory.byte_putBytes_out _ _ _ _ (by omega)
  · unfold State.putPhys
    rw [hmarks]
    exact (hnote.mono (by simp)).trans ((hput _ _).mono (by simp))

theorem State.Wrote.draw {R : List (Nat × Nat)} {s t : State} (h : s.Wrote R t) (n : Nat) : s.Wrote R { t with fresh := n } :=
  h.trans ⟨fun _ _ => rfl, by constructor <;> simp⟩

theorem State.drawBytes_spec (s : State) (n : Nat) : (s.drawBytes n).1.length = n ∧ (s.drawBytes n).2 = { s with fresh := s.fresh + n } := by
  unfold State.drawBytes
  exact ⟨by rw [List.length_map, List.length_range], rfl⟩

/-- From any state that differs from `s` in the listed ranges only, a computation succeeds, leaves such a state, and its value is as told. -/
def U.Works {α : Type} (m : U α) (s : State) (R : List (Nat × Nat)) (Q : α → Prop) : Prop :=
  ∀ t, s.Wrote R t → ∃ v u, m.go t = (.ok v, u) ∧ s.Wrote R u ∧ Q v

section
variable {α β : Type} {s : State} {R : List (Nat × Nat)}

theorem U.Works.pure {Q : α → Prop} {v : α} (h : Q v) : (Pure.pure v : U α).Works s R Q := fun t ht => ⟨v, t, rfl, ht, h⟩

theorem U.Works.bind {x : U α} {f : α → U β} {P : α → Prop} {Q : β → Prop} (hx : x.Works s R P) (hf : ∀ v, P v → (f v).Works s R Q) :
    (x >>= f).Works s R Q := by
  intro t ht
  obtain ⟨v, u, hgo, hu, hv⟩ := hx t ht
  obtain ⟨w, r, hgo', hr, hw⟩ := hf v hv u hu
  exact ⟨w, r, (U.go_bind_ok hgo f).trans hgo', hr, hw⟩

theorem U.Works.update {f : State → State} (hf : ∀ t, s.Wrote R t → s.Wrote R (f t)) : (modify f : U Unit).Works s R fun _ => True :=
  fun t ht => ⟨(), f t, rfl, hf t ht, trivial⟩

theorem U.Works.forM {l : List α} {f : α → U Unit} (hf : ∀ a ∈ l, (f a).Works s R fun _ => True) : (l.forM f).Works s R fun _ => True := by
  induction l with
  | nil => exact .pure trivial
  | cons a l ih => exact .bind (hf a List.mem_cons_self) fun _ _ => ih fun b hb => hf b (List.mem_cons_of_mem _ hb)

theorem U.Works.on {x : U α} {Q : α → Prop} (hx : x.Works s R Q) (core : Nat) : (uOn core x).Works s R Q := by
  intro t ht
  obtain ⟨v, u, hgo, hu, hv⟩ := hx t ht
  have htry : (uTry x).go t = (.ok (.ok v), u) := by
    have hget : (get : U State).go t = (.ok t, t) := rfl
    have hset : (set (x.go t).2 : U PUnit).go t = (.ok ⟨⟩, (x.go t).2) := rfl
    unfold uTry
    rw [U.go_bind_ok hget, U.go_bind_ok hset, hgo]
    rfl
  refine ⟨v, u, ?_, hu, hv⟩
  unfold uOn
  rw [U.go_bind_ok htry]
  rfl

/-- A read within the bound of a window, on a device none of whose words is marked. -/
theorem uRange_works (hue : s.ue = []) (hce : s.ce = []) {c k a n : Nat} (hin : a + n ≤ s.bound c k) :
    (uRange c k (a, n)).Works s R fun bs => bs.length = n := by
  intro t ht
  have hbound : t.bound c k = s.bound c k := ht.same.bound_eq (by simp) c k
  have hcheck (m : Nat) : t.checkRange c k a m = (t, none) := by
    unfold State.checkRange
    rw [ht.same.ue.resolve_left (by simp), ht.same.ce.resolve_left (by simp), hue, hce]
    rfl
  have hbeyond : beyond (t.bound c k) a n = none := by simp [beyond, hbound, hin]
  refine ⟨t.winBytes c k a n, t, ?_, ht, Memory.bytes_length _ _ _⟩
  have hget : (get : U State).go t = (.ok t, t) := rfl
  have hset : (set t : U PUnit).go t = (.ok ⟨⟩, t) := rfl
  unfold uRange
  rw [U.go_bind_ok hget]
  dsimp only
  rw [hcheck, U.go_bind_ok hset]
  dsimp only
  rw [hbeyond]
  rfl

end

/-! ### The parts of attention commands -/

section
variable {s : State} {R : List (Nat × Nat)} {p x : Nat}

/-- A range of a page or a gradient region that lies in the window of its core, where the core is one of this chip. -/
def State.PageHolds (s : State) (p x : Nat) (g : Page) (a n : Nat) : Prop :=
  g.chip = s.own % 16 → a + n ≤ s.bound g.core ((s.slotOf g.core p x).getD 0)

theorem State.Wrote.own_eq {t : State} (h : s.Wrote R t) : t.own = s.own := by
  unfold State.own State.fld
  rw [h.same.rd_eq (by simp)]

theorem State.Wrote.slotOf_eq {t : State} (h : s.Wrote R t) (c p x : Nat) : t.slotOf c p x = s.slotOf c p x := h.same.slotOf_eq (by simp) c p x

theorem uPageBytes_works (hue : s.ue = []) (hce : s.ce = []) {g : Page} {a n : Nat} (hin : s.PageHolds p x g a n) :
    (uPageBytes p x g a n).Works s R fun bs => bs.length = n := by
  intro t ht
  unfold uPageBytes
  rw [U.go_bind_ok (show (get : U State).go t = (.ok t, t) from rfl), ht.own_eq, ht.slotOf_eq]
  by_cases hchip : g.chip = s.own % 16
  · rw [if_pos hchip]
    exact (uRange_works hue hce (hin hchip)).on g.core t ht
  · rw [if_neg hchip]
    exact ⟨_, _, rfl, ht.draw _, by simp⟩

theorem uPagePut_works (hue : s.ue = []) (hce : s.ce = []) {g : Page} {a : Nat} {bs : List Byte} (hin : g.chip = s.own % 16 →
    Covered R (cellKey g.core (s.phys g.core ((s.slotOf g.core p x).getD 0) a)) bs.length) :
    (uPagePut p x g a bs).Works s R fun _ => True := by
  refine .update fun t ht => ?_
  rw [ht.own_eq, ht.slotOf_eq]
  by_cases hchip : g.chip = s.own % 16
  · rw [if_pos hchip]
    exact ht.putWin hue hce (hin hchip)
  · rwa [if_neg hchip]

theorem uRows_works (hue : s.ue = []) (hce : s.ce = []) {lead k a rows d : Nat} (hin : a + rows * d * 4 ≤ s.bound lead k) :
    (uRows lead k a rows d).Works s R fun l => l.length = rows ∧ ∀ r ∈ l, r.length = d := by
  refine ((uRange_works hue hce hin).on lead).bind fun bs _ => .pure ⟨by simp, fun r hr => ?_⟩
  obtain ⟨i, -, rfl⟩ := List.mem_map.mp hr
  simp [VType.elems]

theorem uWorkAreas_works (hue : s.ue = []) (hce : s.ce = []) {lead : Nat} {a : AttnRec} {pages : List Page} (hin : ∀ c ∈ s.attnCores lead pages,
    Covered R (cellKey c (s.phys c ((s.slotOf c p x).getD 0) (a.work * 1024))) 65536) :
    (uWorkAreas p x lead a pages).Works s R fun _ => True := by
  refine .update fun t ht => ?_
  have hcores : t.attnCores lead pages = s.attnCores lead pages := by
    unfold State.attnCores
    rw [ht.own_eq]
  rw [hcores]
  refine List.foldlRecOn (motive := fun u => s.Wrote R u) _ _ ht fun u hu c hc => ?_
  have hdrawn := u.drawBytes_spec 65536
  generalize u.drawBytes 65536 = drawn at hdrawn ⊢
  obtain ⟨bs, v⟩ := drawn
  obtain ⟨hlen, rfl⟩ := hdrawn
  have hdraw := hu.draw (u.fresh + 65536)
  dsimp only
  rw [hdraw.slotOf_eq]
  refine hdraw.putWin hue hce ?_
  rw [hlen]
  exact hin c hc

/-- The bytes of a page lie in its core's window. -/
def State.HasPage (s : State) (p x : Nat) (f : PageForm) (g : Page) : Prop := s.PageHolds p x g (g.slot * 1024) (f.kib * 1024)

theorem PageForm.elements_fit (f : PageForm) : 128 * f.eb + 128 * f.sb ≤ f.kib * 1024 := by
  unfold PageForm.kib ceilDiv
  omega

theorem State.HasPage.part {f : PageForm} {g : Page} (h : s.HasPage p x f g) {o n : Nat} (ho : o + n ≤ 128 * f.eb + 128 * f.sb) :
    s.PageHolds p x g (g.slot * 1024 + o) n := fun hchip =>
  (Nat.add_assoc _ _ _).le.trans ((Nat.add_le_add_left (ho.trans f.elements_fit) _).trans (h hchip))

/-- Where the elements and the scales of up to 64 positions of K or V lie in a page. -/
theorem PageForm.position_fits (f : PageForm) {v i : Nat} (hv : v < 2) (hi : i ≤ 64) :
    f.eoff v + i * f.eb ≤ 128 * f.eb ∧ f.soff v + i * f.sb ≤ 128 * f.eb + 128 * f.sb := by
  have hvi : v * 64 + i ≤ 128 := by omega
  have heb := Nat.mul_le_mul_right f.eb hvi
  have hsb := Nat.mul_le_mul_right f.sb hvi
  rw [Nat.add_mul] at heb hsb
  unfold PageForm.eoff PageForm.soff
  omega

theorem uPage_works (hue : s.ue = []) (hce : s.ce = []) {f : PageForm} {g : Page} (hpage : s.HasPage p x f g) {cnt : Nat} (hcnt : cnt ≤ 64) :
    (uPage p x f g cnt).Works s R fun _ => True := by
  have hk := f.position_fits (v := 0) (by decide) hcnt
  have hv := f.position_fits (v := 1) (by decide) hcnt
  refine .bind (uPageBytes_works hue hce (hpage.part (by omega))) fun _ _ => ?_
  refine .bind (uPageBytes_works hue hce (hpage.part (by omega))) fun _ _ => ?_
  refine .bind (uPageBytes_works hue hce (hpage.part (by omega))) fun _ _ => ?_
  exact .bind (uPageBytes_works hue hce (hpage.part (by omega))) fun _ _ => .pure trivial

theorem uKv_works (hue : s.ue = []) (hce : s.ce = []) {f : PageForm} (n : Nat) {pages : List Page} (hpages : ∀ g ∈ pages, s.HasPage p x f g) (b : Nat) :
    (uKv p x f n b pages).Works s R fun _ => True := by
  induction pages generalizing b with
  | nil => exact .pure trivial
  | cons g gs ih =>
    refine .bind (uPage_works hue hce (hpages g List.mem_cons_self) (Nat.min_le_left _ _)) fun _ _ => ?_
    exact .bind (ih (fun h hh => hpages h (List.mem_cons_of_mem _ hh)) (b + 1)) fun _ _ => .pure trivial

end

/-! ### How long what attention commands write is -/

theorem length_flatMap_of_all {α β : Type} {l : List α} {f : α → List β} {n : Nat} (h : ∀ a ∈ l, (f a).length = n) :
    (l.flatMap f).length = l.length * n := by
  rw [List.length_flatMap, List.map_congr_left h, List.map_const', List.sum_replicate, smul_eq_mul]

theorem PageForm.length_quant (f : PageForm) (v : List FVal) : (f.quant v).2.length = v.length := by
  unfold PageForm.quant mxQuant
  dsimp only
  split
  · exact List.length_map _
  · split <;> exact List.length_map _

theorem PageForm.length_pack (f : PageForm) (cs : List Nat) (h : cs.length = f.D) (hD : f.D % 2 = 0) : (f.ty.pack cs []).length = f.eb := by
  have hbytes : (cs.map fun c => leBytes (8 / 8) c).flatten.length = f.D := by
    rw [← List.flatMap_def, length_flatMap_of_all fun _ _ => leBytes_length _ _, h, Nat.mul_one]
  have hhalf : ceilDiv cs.length 2 = f.D / 2 := by
    unfold ceilDiv
    omega
  unfold PageForm.ty PageForm.eb VType.pack
  cases f.fp16 <;> cases f.kv4
  · exact hbytes
  · simp [VType.bits, hhalf]
  · exact hbytes
  · simp [VType.bits, hhalf]

theorem length_exactRow (D scl : Nat) (q : List FVal) (ks vs : List (List FVal)) : (exactRow D scl q ks vs).2.2.length = D := by
  simp [exactRow]

theorem length_rollStep {mr lr mb lb D : Nat} {o ob : List Nat} (ho : o.length = D) (hob : ob.length = D) :
    (rollStep mr lr o mb lb ob).2.2.length = D := by
  unfold rollStep
  dsimp only
  split <;> split <;> simp [ho, hob]

theorem length_rollRow (D scl : Nat) (q : List FVal) (ks vs : List (List FVal)) : (rollRow D scl q ks vs).2.2.length = D := by
  unfold rollRow
  dsimp only
  rw [List.length_map]
  refine List.foldlRecOn (motive := fun a : Nat × Nat × List Nat => a.2.2.length = D) _ _ (by simp) fun a ha b _ => ?_
  exact length_rollStep ha (by simp)

end Sys2Proof.Machine

namespace Sys2Proof.Machine

/-! ### The work of the three kinds of attention command (R216, R226, R231) -/

theorem Covered.part {s : State} {R : List (Nat × Nat)} {c k a n o j : Nat} (h : Covered R (cellKey c (s.phys c k a)) n) (hoj : o + j ≤ n) :
    Covered R (cellKey c (s.phys c k (a + o))) j := by
  obtain ⟨r, hr, hlo, hhi⟩ := h
  have hkey : cellKey c (s.phys c k (a + o)) = cellKey c (s.phys c k a) + o := by
    unfold cellKey State.phys
    omega
  exact ⟨r, hr, by omega, by omega⟩

/-- The 32-blocks of a row, quantised. -/
def PageForm.blocks (f : PageForm) (d : Nat) (row : List Nat) : List (Nat × List Nat) :=
  (chunksOf 32 (d / 32) row).map fun b => f.quant (b.map f32v)

theorem PageForm.blocks_spec (f : PageForm) {d : Nat} {row : List Nat} (hrow : row.length = d) (hd : d % 32 = 0) :
    ((f.blocks d row).flatMap (·.2)).length = d ∧ ((f.blocks d row).flatMap fun q => leBytes (if f.fp16 then 2 else 1) q.1).length
      = d / 32 * (if f.fp16 then 2 else 1) := by
  have hchunk : 32 * (d / 32) ≤ row.length := by omega
  have hlen : (f.blocks d row).length = d / 32 := by
    rw [PageForm.blocks, List.length_map]
    exact chunksOf_length 32 (by decide) _ _ hchunk
  constructor
  · rw [length_flatMap_of_all (n := 32), hlen]
    · omega
    · intro q hq
      obtain ⟨b, hb, rfl⟩ := List.mem_map.mp hq
      rw [f.length_quant, List.length_map]
      exact chunksOf_strings 32 _ _ hchunk b hb
  · rw [length_flatMap_of_all fun _ _ => leBytes_length _ _, hlen]

section
variable {s : State} {R : List (Nat × Nat)} {p x lead k : Nat} {a : AttnRec} {f : PageForm} {pages : List Page}

/-- The bytes of a page on this chip are among those that may be written. -/
def State.MayFill (s : State) (R : List (Nat × Nat)) (p x : Nat) (g : Page) (a n : Nat) : Prop :=
  g.chip = s.own % 16 → Covered R (cellKey g.core (s.phys g.core ((s.slotOf g.core p x).getD 0) a)) n

/-- One position of K or V put into its page. -/
def uPosition (p x : Nat) (a : AttnRec) (f : PageForm) (g : Page) (pos v : Nat) (row : List Nat) : U Unit := do
  uPagePut p x g (g.slot * 1024 + f.eoff v + pos % 64 * f.eb) (f.ty.pack ((f.blocks a.D row).flatMap (·.2)) [])
  uPagePut p x g (g.slot * 1024 + f.soff v + pos % 64 * f.sb) ((f.blocks a.D row).flatMap fun q => leBytes (if f.fp16 then 2 else 1) q.1)

theorem uPosition_works (hue : s.ue = []) (hce : s.ce = []) {g : Page} {pos v : Nat} {row : List Nat} (hv : v < 2) (hform : f.D = a.D)
    (hrow : row.length = a.D) (hD : a.D % 32 = 0) (hfill : s.MayFill R p x g (g.slot * 1024) (f.kib * 1024)) :
    (uPosition p x a f g pos v row).Works s R fun _ => True := by
  have hfits := f.position_fits hv (i := pos % 64 + 1) (by omega)
  have helements := f.elements_fit
  obtain ⟨hcodes, hscales⟩ := f.blocks_spec hrow hD
  have hpack : (f.ty.pack ((f.blocks a.D row).flatMap (·.2)) []).length = f.eb := f.length_pack _ (by rw [hcodes, hform]) (by omega)
  have hscale : ((f.blocks a.D row).flatMap fun q => leBytes (if f.fp16 then 2 else 1) q.1).length = f.sb := by
    rw [hscales]
    unfold PageForm.sb
    rw [hform]
    split <;> omega
  rw [Nat.add_mul, Nat.add_mul, Nat.one_mul, Nat.one_mul] at hfits
  refine .bind (uPagePut_works hue hce fun hchip => ?_) fun _ _ => uPagePut_works hue hce fun hchip => ?_
  · rw [hpack, Nat.add_assoc]
    exact (hfill hchip).part (by omega)
  · rw [hscale, Nat.add_assoc]
    exact (hfill hchip).part (by omega)

theorem uAppend_works (hue : s.ue = []) (hce : s.ce = []) (hkind : a.kind = 0) (hform : f.D = a.D) (hD : a.D % 32 = 0)
    (hq : a.q + a.T * a.D * 4 ≤ s.bound lead k) (ho : a.o + a.T * a.D * 4 ≤ s.bound lead k)
    (hwork : ∀ c ∈ s.attnCores lead pages, Covered R (cellKey c (s.phys c ((s.slotOf c p x).getD 0) (a.work * 1024))) 65536)
    (hlen : pages.length = a.blocks.2) (hfill : ∀ g ∈ pages, s.MayFill R p x g (g.slot * 1024) (f.kib * 1024)) :
    (uAppend p x lead k a f pages).Works s R fun _ => True := by
  have hpage (t : Nat) (ht : t < a.T) : nth ⟨0, 0, 0⟩ pages ((a.pos0 + t) / 64 - a.blocks.1) ∈ pages := by
    have hindex : (a.pos0 + t) / 64 - a.blocks.1 < pages.length := by
      rw [hlen]
      unfold AttnRec.blocks
      rw [if_pos hkind]
      dsimp only
      omega
    rw [nth, List.getD_eq_getElem _ _ hindex]
    exact List.getElem_mem _
  have hrow {rows : List (List Nat)} (h : rows.length = a.T ∧ ∀ r ∈ rows, r.length = a.D) {t : Nat} (ht : t < a.T) : (nth [] rows t).length = a.D := by
    rw [nth, List.getD_eq_getElem _ _ (h.1.symm ▸ ht)]
    exact h.2 _ (List.getElem_mem _)
  refine .bind (uRows_works hue hce hq) fun kr hkr => ?_
  refine .bind (uRows_works hue hce ho) fun vr hvr => ?_
  refine .bind (uWorkAreas_works hue hce hwork) fun _ _ => ?_
  refine .forM fun t ht => ?_
  have ht' : t < a.T := List.mem_range.mp ht
  have hput {v : Nat} (hv : v < 2) {rows : List (List Nat)} (h : rows.length = a.T ∧ ∀ r ∈ rows, r.length = a.D) :=
    uPosition_works (pos := a.pos0 + t) hue hce hv hform (hrow h ht') hD (hfill _ (hpage t ht'))
  exact .bind (hput (v := 0) (by decide) hkr) fun _ _ => hput (v := 1) (by decide) hvr

/-- The row results of a forward: m, l and the output of each (R220, R222). -/
def AttnRec.results (a : AttnRec) (f : PageForm) (rolling : Bool) (qr : List (List Nat)) (kv : List (List FVal) × List (List FVal)) :
    List (Nat × Nat × List Nat) :=
  qr.zipIdx.map fun q => (if rolling then rollRow else exactRow) a.D a.scl (f.query q.1) (kv.1.take (a.nOf q.2)) (kv.2.take (a.nOf q.2))

/-- An element of O in its bytes. -/
def AttnRec.outElem (a : AttnRec) (v : Nat) : List Byte := if a.outBf16 then leBytes 2 (bf16OfF32 v) else leBytes 4 v

theorem AttnRec.results_spec (a : AttnRec) (f : PageForm) (rolling : Bool) (qr : List (List Nat)) (kv : List (List FVal) × List (List FVal)) :
    (a.results f rolling qr kv).length = qr.length ∧ ∀ r ∈ a.results f rolling qr kv, r.2.2.length = a.D := by
  refine ⟨by rw [AttnRec.results, List.length_map, List.length_zipIdx], fun r hr => ?_⟩
  obtain ⟨q, -, rfl⟩ := List.mem_map.mp hr
  cases rolling
  · exact length_exactRow _ _ _ _ _
  · exact length_rollRow _ _ _ _ _

theorem AttnRec.length_out (a : AttnRec) {l : List (Nat × Nat × List Nat)} (h : ∀ r ∈ l, r.2.2.length = a.D) :
    (l.flatMap fun r => r.2.2.flatMap a.outElem).length = if a.outBf16 then l.length * (2 * a.D) else l.length * (4 * a.D) := by
  have helem (v : Nat) : (a.outElem v).length = if a.outBf16 then 2 else 4 := by
    unfold AttnRec.outElem
    split <;> exact leBytes_length _ _
  rw [length_flatMap_of_all (n := a.D * if a.outBf16 then 2 else 4) fun r hr => by rw [length_flatMap_of_all fun v _ => helem v, h r hr]]
  split <;> rw [Nat.mul_comm a.D]

theorem uForward_works (hue : s.ue = []) (hce : s.ce = []) (rolling : Bool) (hq : a.q + a.rows * a.D * 4 ≤ s.bound lead k)
    (hpages : ∀ g ∈ pages, s.HasPage p x f g)
    (hwork : ∀ c ∈ s.attnCores lead pages, Covered R (cellKey c (s.phys c ((s.slotOf c p x).getD 0) (a.work * 1024))) 65536)
    (ho : Covered R (cellKey lead (s.phys lead k a.o)) (if a.outBf16 then a.rows * (2 * a.D) else a.rows * (4 * a.D)))
    (hst : a.save = true → Covered R (cellKey lead (s.phys lead k a.st)) (8 * a.rows)) :
    (uForward p x lead k a f rolling pages).Works s R fun _ => True := by
  refine .bind (uRows_works hue hce hq) fun qr hqr => ?_
  refine .bind (uKv_works hue hce _ hpages 0) fun kv _ => ?_
  refine .bind (uWorkAreas_works hue hce hwork) fun _ _ => ?_
  obtain ⟨hlen, hrows⟩ := a.results_spec f rolling qr kv
  have hput {t : State} (ht : s.Wrote R t) : s.Wrote R (t.putWin lead k a.o ((a.results f rolling qr kv).flatMap fun r => r.2.2.flatMap a.outElem)) := by
    refine ht.putWin hue hce ?_
    rwa [a.length_out hrows, hlen, hqr.1]
  refine .update fun t ht => ?_
  dsimp only
  split
  case isTrue hsave =>
    refine (hput ht).putWin hue hce ?_
    rw [length_flatMap_of_all (n := 8) fun _ _ => by simp, List.length_map, List.length_zipIdx, hqr.1, Nat.mul_comm]
    exact hst hsave
  case isFalse => exact hput ht

theorem uGrad_works (hue : s.ue = []) (hce : s.ce = []) {g : Page} {vals : List Nat} (hlen : vals.length = 128 * a.D) (hD : a.D % 2 = 0)
    (hin : s.PageHolds p x g ((g.slot + a.goff) * 1024) (a.D / 2 * 1024)) (hfill : s.MayFill R p x g ((g.slot + a.goff) * 1024) (a.D / 2 * 1024)) :
    (uGrad p x a g vals).Works s R fun _ => True := by
  have hbytes : 4 * vals.length = a.D / 2 * 1024 := by omega
  have hput (new : List Nat) (hnew : new.length = vals.length) : (uPagePut p x g ((g.slot + a.goff) * 1024) (new.flatMap (leBytes 4))).Works s R
      fun _ => True := by
    refine uPagePut_works hue hce ?_
    rwa [length_flatMap_of_all fun _ _ => leBytes_length _ _, hnew, Nat.mul_comm vals.length, hbytes]
  unfold uGrad
  split
  · refine .bind (P := fun new => new.length = vals.length) (.bind (uPageBytes_works hue hce (by rwa [hbytes])) fun old _ => .pure ?_) hput
    simp [VType.elems]
  · exact .bind (P := fun new => new.length = vals.length) (.pure rfl) hput

theorem length_gradOf (coef rows : List (List Nat)) (pos D : Nat) : (gradOf coef rows pos D).length = D := by simp [gradOf]

theorem uBackward_works (hue : s.ue = []) (hce : s.ce = []) (hD : a.D % 2 = 0) (hq : a.q + a.rows * a.D * 4 ≤ s.bound lead k)
    (ho : a.o + a.rows * a.D * 4 ≤ s.bound lead k) (hfo : a.fo + a.rows * a.D * 4 ≤ s.bound lead k) (hst : a.st + a.rows * 2 * 4 ≤ s.bound lead k)
    (hpages : ∀ g ∈ pages, s.HasPage p x f g)
    (hwork : ∀ c ∈ s.attnCores lead pages, Covered R (cellKey c (s.phys c ((s.slotOf c p x).getD 0) (a.work * 1024))) 65536)
    (hdq : Covered R (cellKey lead (s.phys lead k a.dq)) (a.rows * (4 * a.D)))
    (hgrad : ∀ g ∈ pages, s.PageHolds p x g ((g.slot + a.goff) * 1024) (a.D / 2 * 1024) ∧ s.MayFill R p x g ((g.slot + a.goff) * 1024) (a.D / 2 * 1024)) :
    (uBackward p x lead k a f pages).Works s R fun _ => True := by
  refine .bind (uRows_works hue hce hq) fun qr _ => ?_
  refine .bind (uRows_works hue hce ho) fun dO _ => ?_
  refine .bind (uRows_works hue hce hfo) fun o _ => ?_
  refine .bind (uRows_works hue hce hst) fun st _ => ?_
  refine .bind (uKv_works hue hce _ hpages 0) fun kv _ => ?_
  refine .bind (uWorkAreas_works hue hce hwork) fun _ _ => ?_
  refine .bind (.update fun t ht => ht.putWin hue hce ?_) fun _ _ => ?_
  · rw [length_flatMap_of_all (n := 4 * a.D), List.length_map, List.length_map, List.length_range]
    · exact hdq
    · intro ds _
      rw [length_flatMap_of_all (n := 4) fun _ _ => leBytes_length _ _, List.length_range, Nat.mul_comm]
  · refine .forM fun g hg => ?_
    obtain ⟨hin, hfill⟩ := hgrad g.1 (List.fst_mem_of_mem_zipIdx hg)
    refine uGrad_works hue hce ?_ hD hin hfill
    rw [List.length_append, length_flatMap_of_all fun _ _ => length_gradOf _ _ _ _, length_flatMap_of_all fun _ _ => length_gradOf _ _ _ _]
    simp only [List.length_map, List.length_range]
    omega

end

end Sys2Proof.Machine

namespace Sys2Proof.Machine

/-! ### A ready attention command (R216) -/

theorem AttnRec.headDim (bs : List Byte) : 64 ≤ (AttnRec.ofBytes bs).D ∧ (AttnRec.ofBytes bs).D % 32 = 0 := by
  have hpow := Nat.two_pow_pos (bitsOf (leNat ((bs.drop (4 * 0)).take 4)) 27 26)
  have hD : (AttnRec.ofBytes bs).D = 64 * 2 ^ bitsOf (leNat ((bs.drop (4 * 0)).take 4)) 27 26 := rfl
  omega

theorem State.inWindow_bound {s : State} {p x core a n : Nat} (h : s.inWindow p x core a n = true) (hn : 0 < n) :
    a * 1024 + n * 1024 ≤ s.bound core ((s.slotOf core p x).getD 0) := by
  unfold State.inWindow at h
  split at h
  · cases h
  · rename_i k hk
    rw [hk]
    change _ ≤ s.bound core k
    by_contra hout
    simp only [beyond, Nat.mul_eq_zero, hn.ne', OfNat.ofNat_ne_zero, or_self, decide_false, Bool.false_or, decide_eq_true_eq] at h
    rw [if_neg hout] at h
    cases h

section
variable {s : State} {i k : Nat} {m : AttnCmd}

/-- The record of a command. -/
def AttnCmd.rec_ (m : AttnCmd) : AttnRec := AttnRec.ofBytes m.recd

/-- The keys of the bytes that a command may write. -/
def State.attnKeys (s : State) (m : AttnCmd) (k : Nat) : List (Nat × Nat) :=
  (attnWrites s m k).map fun r => (cellKey r.1 (s.phys r.1 r.2.1 r.2.2.1), r.2.2.2)

theorem covered_of_mem {c j a n : Nat} (h : (c, j, a, n) ∈ attnWrites s m k) : Covered (s.attnKeys m k) (cellKey c (s.phys c j a)) n :=
  ⟨_, List.mem_map_of_mem h, Nat.le_refl _, Nat.le_refl _⟩

theorem attnWrites_work {c : Nat} (hc : c ∈ s.attnCores m.lead (s.pagesOf m)) :
    (c, (s.slotOf c m.part m.ctx).getD 0, m.rec_.work * 1024, 65536) ∈ attnWrites s m k :=
  List.mem_append_left _ (List.mem_map_of_mem hc)

theorem mem_nearPages {g : Page} (hg : g ∈ s.pagesOf m) (hchip : g.chip = s.own % 16) :
    g ∈ (s.pagesOf m).filter fun g => g.chip == s.own % 16 := List.mem_filter.mpr ⟨hg, by simpa using hchip⟩

theorem attnWrites_append (hkind : m.rec_.kind = 0) {g : Page} (hg : g ∈ s.pagesOf m) :
    s.MayFill (s.attnKeys m k) m.part m.ctx g (g.slot * 1024) ((s.pageForm m.part m.ctx m.rec_).kib * 1024) := by
  refine fun hchip => covered_of_mem (List.mem_append_right _ ?_)
  change (AttnRec.ofBytes m.recd).kind = 0 at hkind
  rw [hkind]
  exact List.mem_map_of_mem (mem_nearPages hg hchip)

theorem attnWrites_forward (hkind : m.rec_.kind = 1) :
    Covered (s.attnKeys m k) (cellKey m.lead (s.phys m.lead k m.rec_.o))
      (if m.rec_.outBf16 then m.rec_.rows * (2 * m.rec_.D) else m.rec_.rows * (4 * m.rec_.D))
    ∧ (m.rec_.save = true → Covered (s.attnKeys m k) (cellKey m.lead (s.phys m.lead k m.rec_.st)) (8 * m.rec_.rows)) := by
  change (AttnRec.ofBytes m.recd).kind = 1 at hkind
  refine ⟨covered_of_mem (List.mem_append_right _ ?_), fun hsave => covered_of_mem (List.mem_append_right _ ?_)⟩ <;> rw [hkind]
  · exact List.mem_append_left _ List.mem_cons_self
  · change (AttnRec.ofBytes m.recd).save = true at hsave
    refine List.mem_append_right _ ?_
    rw [if_pos hsave]
    exact List.mem_cons_self

theorem attnWrites_backward (hkind : m.rec_.kind = 2) :
    Covered (s.attnKeys m k) (cellKey m.lead (s.phys m.lead k m.rec_.dq)) (m.rec_.rows * (4 * m.rec_.D))
    ∧ ∀ g ∈ s.pagesOf m, s.MayFill (s.attnKeys m k) m.part m.ctx g ((g.slot + m.rec_.goff) * 1024) (m.rec_.D / 2 * 1024) := by
  change (AttnRec.ofBytes m.recd).kind = 2 at hkind
  refine ⟨covered_of_mem (List.mem_append_right _ ?_), fun g hg hchip => covered_of_mem (List.mem_append_right _ ?_)⟩ <;> rw [hkind]
  · exact List.mem_append_left _ List.mem_cons_self
  · exact List.mem_append_right _ (List.mem_map_of_mem (mem_nearPages hg hchip))

/-- The work of a command of a kind on the cores (R216). -/
def State.attnUnit (s : State) (m : AttnCmd) (k kind : Nat) : U Unit :=
  match kind with
  | 0 => uAppend m.part m.ctx m.lead k m.rec_ (s.pageForm m.part m.ctx m.rec_) (s.pagesOf m)
  | 1 => uForward m.part m.ctx m.lead k m.rec_ (s.pageForm m.part m.ctx m.rec_) (bitOf (s.ctx m.part m.ctx).mode 0) (s.pagesOf m)
  | _ => uBackward m.part m.ctx m.lead k m.rec_ (s.pageForm m.part m.ctx m.rec_) (s.pagesOf m)

/-- A command that has worked, its groups noted where it appends. -/
def State.attnDone (t : State) (i kind : Nat) (m : AttnCmd) : State :=
  (if kind = 0 then t.noteHdim m.part m.snap m.rec_.D else t).onNoc fun n => { n with attn := setNth n.attn i { m with worked := true } }

theorem attnWork_eq (h : AttnReady s i m k) {kind : Nat} (hkind : m.rec_.kind = kind) (hle : kind ≤ 2) {t : State}
    (hgo : (s.attnUnit m k kind).go s = (.ok (), t)) : s.attnWork kind i = t.attnDone i kind m := by
  obtain ⟨hstarted, hworked, hstalled⟩ := h.started
  have hturn : (s.noc.attn.take i).any (fun b => s.sameRegion b m) = false := by
    rw [List.any_eq_false]
    exact fun b hb => by rw [h.turn b hb]; simp
  have hready : (!m.started || m.worked || (AttnRec.ofBytes m.recd).kind != kind || !s.allStalled m || s.attnHeld m
      || (s.noc.attn.take i).any fun b => s.sameRegion b m) = false := by
    change (AttnRec.ofBytes m.recd).kind = kind at hkind
    rw [hstarted, hworked, hstalled, h.free, hturn, hkind]
    simp
  unfold State.attnWork
  rw [h.at_]
  dsimp only
  rw [h.lead]
  dsimp only
  rw [if_neg (by rw [hready]; exact Bool.false_ne_true)]
  rcases (by omega : kind = 0 ∨ kind = 1 ∨ kind = 2) with rfl | rfl | rfl
  all_goals
    simp only [State.attnUnit, AttnCmd.rec_] at hgo
    simp only [hgo]
    rfl

theorem PageForm.kib_pos (f : PageForm) (h : 64 ≤ f.D) : 0 < f.kib := by
  have heb : 32 ≤ f.eb := by
    unfold PageForm.eb
    split <;> omega
  unfold PageForm.kib ceilDiv
  omega

theorem hasPages_of_attnReady (h : AttnReady s i m k) : ∀ g ∈ s.pagesOf m, s.HasPage m.part m.ctx (s.pageForm m.part m.ctx m.rec_) g := by
  intro g hg hchip
  exact State.inWindow_bound (h.pages g hg hchip).1 (PageForm.kib_pos _ (AttnRec.headDim m.recd).1)

theorem attnUnit_works (h : AttnReady s i m k) {kind : Nat} (hkind : m.rec_.kind = kind) (hle : kind ≤ 2) :
    (s.attnUnit m k kind).Works s (s.attnKeys m k) fun _ => True := by
  obtain ⟨hue, hce⟩ := h.clean
  obtain ⟨hD64, hD32⟩ := AttnRec.headDim m.recd
  have hwork : ∀ c ∈ s.attnCores m.lead (s.pagesOf m), Covered (s.attnKeys m k)
      (cellKey c (s.phys c ((s.slotOf c m.part m.ctx).getD 0) (m.rec_.work * 1024))) 65536 := fun c hc => covered_of_mem (attnWrites_work hc)
  have hranges := h.ranges
  change ∀ r ∈ m.rec_.ranges, _ at hranges
  change 64 ≤ m.rec_.D at hD64
  change m.rec_.D % 32 = 0 at hD32
  have hrow (n : Nat) : n * m.rec_.D * 4 = n * (4 * m.rec_.D) := by rw [Nat.mul_assoc, Nat.mul_comm m.rec_.D]
  unfold AttnRec.ranges at hranges
  rw [hkind] at hranges
  rcases (by omega : kind = 0 ∨ kind = 1 ∨ kind = 2) with rfl | rfl | rfl
  · simp only [List.mem_append, List.mem_cons, List.not_mem_nil, or_false, forall_eq_or_imp, forall_eq] at hranges
    obtain ⟨-, hq, ho⟩ := hranges
    exact uAppend_works hue hce hkind rfl hD32 (by rwa [hrow]) (by rwa [hrow]) hwork h.blocks fun g hg => attnWrites_append hkind hg
  · have hq := hranges (m.rec_.q, m.rec_.rows * (4 * m.rec_.D)) (by simp)
    obtain ⟨ho, hst⟩ := attnWrites_forward (s := s) (k := k) hkind
    exact uForward_works hue hce _ (by rwa [hrow]) (hasPages_of_attnReady h) hwork ho hst
  · simp only [List.mem_append, List.mem_cons, List.not_mem_nil, or_false, forall_eq_or_imp, forall_eq] at hranges
    obtain ⟨-, hq, ho, hst, hfo, -⟩ := hranges
    obtain ⟨hdq, hfill⟩ := attnWrites_backward (s := s) (k := k) hkind
    refine uBackward_works hue hce (by omega) (by rwa [hrow]) (by rwa [hrow]) (by rwa [hrow]) (by omega) (hasPages_of_attnReady h) hwork hdq fun g hg => ⟨?_, hfill g hg⟩
    exact fun hchip => State.inWindow_bound ((h.pages g hg hchip).2 hkind) (by omega)

theorem State.Wrote.attnDone {t : State} {R : List (Nat × Nat)} (h : s.Wrote R t) (i kind : Nat) (m : AttnCmd) :
    (t.attnDone i kind m).noc.attn = s.noc.attn.set i { m with worked := true } ∧ s.SameBytes R (t.attnDone i kind m)
      ∧ s.SameBut [.scratch, .words, .cores, .noc, .parts, .fresh] (t.attnDone i kind m) := by
  let noted := if kind = 0 then t.noteHdim m.part m.snap m.rec_.D else t
  have hnoted : t.SameBut [.parts] noted := by
    unfold noted
    split
    · exact .onPart _ _ _
    · exact .refl t _
  have hdone : noted.SameBut [.noc] (t.attnDone i kind m) := .onNoc _ _
  have hsame := hnoted.mono (l' := [.noc, .parts]) (by simp) |>.trans (hdone.mono (by simp))
  refine ⟨?_, fun a ha => ?_, (h.same.mono (by simp)).trans (hsame.mono (by simp))⟩
  · change noted.noc.attn.set i _ = _
    rw [hnoted.noc.resolve_left (by simp), h.same.noc.resolve_left (by simp)]
  · rw [hsame.scratch.resolve_left (by simp)]
    exact h.bytes a ha

end

/-- R216, R226, R231: a ready command of any kind works, in its own bytes only. -/
theorem attentionWork : AttentionWork := by
  intro s i m k cmd h hcmd
  obtain ⟨kind, hkind, hle, hexec⟩ : ∃ kind, m.rec_.kind = kind ∧ kind ≤ 2 ∧ exec cmd s = .next (s.attnWork kind i) := by
    rcases hcmd with ⟨hkind, rfl⟩ | ⟨hkind, rfl⟩ | ⟨hkind, rfl⟩ <;> exact ⟨_, hkind, by decide, rfl⟩
  obtain ⟨⟨⟩, t, hgo, ht, -⟩ := attnUnit_works h hkind hle s (.refl _ s)
  obtain ⟨hattn, hbytes, hsame⟩ := ht.attnDone i kind m
  rw [attnWork_eq h hkind hle hgo] at hexec
  refine ⟨_, hexec, ?_, hsame.regs.resolve_left (by simp), hbytes, hsame⟩
  rw [hattn, List.getElem?_set_self (List.getElem?_eq_some_iff.mp h.at_).1]

end Sys2Proof.Machine

namespace Sys2Proof.Machine

/-! ### The start and the completion of an attention command (R217, R218) -/

section
variable {s : State} {i k : Nat} {m : AttnCmd}

/-- Earlier commands of the channel have started, those on the same page table have ended their accesses (R217). -/
def MayStart (before : List AttnCmd) (m : AttnCmd) : Prop :=
  before.all (fun b => (b.lead / 256 != m.lead / 256 || b.started)
    && (b.part != m.part || (AttnRec.ofBytes b.recd).ptBase != (AttnRec.ofBytes m.recd).ptBase || b.worked)) = true

theorem MayStart.none_first {before : List AttnCmd} (h : MayStart before m) :
    before.any (fun b => (b.lead / 256 == m.lead / 256 && !b.started) || (samePt b m && !b.worked)) = false := by
  rw [List.any_eq_false]
  intro b hb
  have hall := List.all_eq_true.mp h b hb
  simp only [Bool.and_eq_true, Bool.or_eq_true, bne_iff_ne] at hall
  obtain ⟨hchan, htable⟩ := hall
  simp only [samePt, Bool.or_eq_true, Bool.and_eq_true, beq_iff_eq, Bool.not_eq_true', not_or, not_and]
  refine ⟨fun heq => ?_, fun ⟨hpart, hbase⟩ => ?_⟩
  · simpa using hchan.resolve_left (not_not_intro heq)
  · simpa using htable.resolve_left (not_or.mpr ⟨not_not_intro hpart, not_not_intro hbase⟩)

/-- A command as its start leaves it. -/
def AttnCmd.checked (m : AttnCmd) (c : Nat × Nat × List Nat) : AttnCmd :=
  { m with started := true, status := c.1, failIdx := c.2.1, snap := c.2.2, worked := c.1 != atOk }

theorem exec_attnCommandStart (hat : s.noc.attn[i]? = some m) (hstarted : m.started = false) (hclock : s.paused (m.lead / 256) = false)
    (hturn : MayStart (s.noc.attn.take i) m) : ∃ t, exec (.attnCommandStart i) s = .next t
      ∧ t.noc.attn = s.noc.attn.set i (m.checked (s.attnCheck m)) ∧ s.SameBut [.noc, .parts, .fresh] t := by
  let left := if (s.attnCheck m).1 = atOk && (s.pagesOf (m.checked (s.attnCheck m))).any (fun g => g.chip != s.own % 16)
    then s.ctxLeaves m.part m.ctx else s
  have hleft : s.SameBut [.parts] left := by
    unfold left
    split
    · exact .onCtx _ _ _ _
    · exact .refl s _
  have hdraw : left.SameBut [.fresh] { left with fresh := left.fresh + 1 } := by constructor <;> simp
  refine ⟨{ left with fresh := left.fresh + 1 }.onNoc fun n => { n with attn := setNth n.attn i (m.checked (s.attnCheck m)) },
    congrArg Host.Outcome.next ?_, ?_, ?_⟩
  · simp only [hat, hstarted, hclock, hturn.none_first, Bool.or_self, Bool.false_eq_true, ↓reduceIte]
    rfl
  · change left.noc.attn.set i _ = _
    rw [hleft.noc.resolve_left (by simp)]
  · exact ((hleft.mono (by simp)).trans (hdraw.mono (by simp))).trans ((State.SameBut.onNoc _ _).mono (by simp))

theorem attnCheck_record (hlead : s.slotOf m.lead m.part m.ctx = some k) (hbad : s.recordBad m.recd m.lead k = true) : (s.attnCheck m).1 = atRecord := by
  unfold State.attnCheck
  rw [hlead]
  dsimp only
  rw [if_pos hbad]

theorem attnCheck_placement (hlead : s.slotOf m.lead m.part m.ctx = some k) (hgood : s.recordBad m.recd m.lead k = false)
    (hplace : s.placement m.part m.ctx (AttnRec.ofBytes m.recd) = none) : (s.attnCheck m).1 = atPlacement := by
  unfold State.attnCheck
  rw [hlead]
  dsimp only
  rw [hgood, if_neg Bool.false_ne_true, hplace]

/-- The bytes of a completion record (R218). -/
def AttnCmd.completion (m : AttnCmd) (time : Nat) : List Byte :=
  leBytes 4 (m.status % 2 ^ 16) ++ leBytes 4 m.snap.length ++ leBytes 4 m.failIdx ++ leBytes 4 time

theorem AttnCmd.length_completion (m : AttnCmd) (time : Nat) : (m.completion time).length = 16 := by simp [AttnCmd.completion]

/-- A 16-bit number in four bytes. -/
theorem leBytes_half (v : Nat) : leBytes 2 v ++ leBytes 2 0 = leBytes 4 (v % 2 ^ 16) := by
  simp only [leBytes, List.cons_append, List.nil_append, List.cons.injEq, and_true]
  refine ⟨?_, ?_, ?_, ?_⟩ <;> apply BitVec.eq_of_toNat_eq <;> simp only [BitVec.toNat_ofNat] <;> omega

/-- The state in which a command has left its slot and its record is written. -/
def State.recorded (s : State) (i k : Nat) (m : AttnCmd) : State :=
  (s.onNoc fun n => { n with attn := dropAt n.attn i }).putWin m.lead k (AttnRec.ofBytes m.recd).r (m.completion s.tb2)

theorem exec_attnCompletion {obj : Nat} (hat : s.noc.attn[i]? = some m) (hlead : s.slotOf m.lead m.part m.ctx = some k) (hworked : m.worked = true)
    (hheld : s.holds m.lead = false) (hin : (AttnRec.ofBytes m.recd).r + 16 ≤ s.bound m.lead k)
    (hhere : (s.recorded i k m).handleTo (AttnRec.ofBytes m.recd).done ((s.recorded i k m).part m.part).chmask = .here obj) :
    exec (.attnCompletion i) s = .next ((s.recorded i k m).applySignal obj 1 (some (holdWord false 0 m.ctx))) := by
  have hleft := State.SameBut.onNoc s fun n => { n with attn := dropAt n.attn i }
  have hbeyond : (beyond ((s.onNoc fun n => { n with attn := dropAt n.attn i }).bound m.lead k) (AttnRec.ofBytes m.recd).r 16).isSome = false := by
    rw [hleft.bound_eq (by simp)]
    simp [beyond, hin]
  refine congrArg Host.Outcome.next ?_
  simp only [hat, hworked, hheld, Bool.not_true, Bool.or_self, Bool.false_eq_true, ↓reduceIte, hleft.slotOf_eq (by simp : Piece.cores ∉ _), hlead, hbeyond]
  rw [leBytes_half]
  change (s.recorded i k m).signalHandle m.part m.ctx (AttnRec.ofBytes m.recd).done 1 = _
  unfold State.signalHandle
  rw [hhere]

theorem attnCompletion_spec {obj : Nat} (hat : s.noc.attn[i]? = some m) (hlead : s.slotOf m.lead m.part m.ctx = some k) (hworked : m.worked = true)
    (hheld : s.holds m.lead = false) (hin : (AttnRec.ofBytes m.recd).r + 16 ≤ s.bound m.lead k)
    (hhere : s.handleTo (AttnRec.ofBytes m.recd).done (s.part m.part).chmask = .here obj) (hen : s.bit (cfgReg obj) F.SYNC_CFG_EN = true)
    (hkind : s.fld (cfgReg obj) F.SYNC_CFG_KIND = 0) (hqueue : s.queue obj = []) :
    ∃ t, exec (.attnCompletion i) s = .next t ∧ t.noc.attn = s.noc.attn.take i ++ s.noc.attn.drop (i + 1)
      ∧ t.scratch.bytes (cellKey m.lead (s.phys m.lead k (AttnRec.ofBytes m.recd).r)) 16 = m.completion s.tb2
      ∧ s.SameBytes [(cellKey m.lead (s.phys m.lead k (AttnRec.ofBytes m.recd).r), 16)] t
      ∧ (t.rd (valReg obj)).toNat = min ((s.rd (valReg obj)).toNat + 1) (2 ^ 32 - 1) := by
  have hleft := State.SameBut.onNoc s fun n => { n with attn := dropAt n.attn i }
  have hput : (s.onNoc fun n => { n with attn := dropAt n.attn i }).SameBut [.scratch, .ue, .ce, .cores, .words] (s.recorded i k m) :=
    State.putPhys_sameBut _ _ _ _
  have hscratch : (s.recorded i k m).scratch
      = s.scratch.putBytes (cellKey m.lead (s.phys m.lead k (AttnRec.ofBytes m.recd).r)) (m.completion s.tb2) := rfl
  have hrd (a : Nat) : (s.recorded i k m).rd a = s.rd a := (hput.rd_eq (by simp) a).trans (hleft.rd_eq (by simp) a)
  have hown : (s.recorded i k m).own = s.own := by
    unfold State.own State.fld
    rw [hrd]
  have hhere' : (s.recorded i k m).handleTo (AttnRec.ofBytes m.recd).done ((s.recorded i k m).part m.part).chmask = .here obj := by
    rw [State.handleTo, hown, hput.handleFrom_eq (by simp), hput.part_eq (by simp), hleft.handleFrom_eq (by simp), hleft.part_eq (by simp)]
    exact hhere
  have hnoc : (s.recorded i k m).noc = (s.onNoc fun n => { n with attn := dropAt n.attn i }).noc := hput.noc.resolve_left (by simp)
  obtain ⟨hwaits, hvalue⟩ := State.applySignal_sem (s := s.recorded i k m) 1 (some (holdWord false 0 m.ctx)) (by rwa [State.bit, hrd])
    (by rwa [State.fld, hrd]) (by rw [State.queue, hnoc]; exact hqueue)
  have hexec := exec_attnCompletion hat hlead hworked hheld hin hhere'
  generalize (s.recorded i k m).applySignal obj 1 (some (holdWord false 0 m.ctx)) = t at hexec hwaits hvalue
  have hbytes : t.scratch = s.scratch.putBytes (cellKey m.lead (s.phys m.lead k (AttnRec.ofBytes m.recd).r)) (m.completion s.tb2) :=
    (hwaits.same.scratch.resolve_left (by simp)).trans hscratch
  refine ⟨t, hexec, ?_, ?_, fun a ha => ?_, by rw [← hrd]; exact hvalue⟩
  · rw [hwaits.noc, hnoc]
    rfl
  · have := Memory.bytes_putBytes s.scratch (cellKey m.lead (s.phys m.lead k (AttnRec.ofBytes m.recd).r)) (m.completion s.tb2)
    rwa [m.length_completion, ← hbytes] at this
  · have hout := ha _ List.mem_cons_self
    rw [hbytes]
    exact Memory.byte_putBytes_out _ _ _ _ (by rwa [m.length_completion])

end

/-- R217, R218: an attention command starts in its turn, with its status, and ends with its record. -/
theorem attentionOrder : AttentionOrder := by
  intro s i m k hat hlead
  refine ⟨fun hstarted hclock hturn => ?_, fun obj hworked hheld hin hhere hen hkind hqueue =>
    attnCompletion_spec hat hlead hworked hheld hin hhere hen hkind hqueue⟩
  obtain ⟨t, hexec, hattn, hsame⟩ := exec_attnCommandStart hat hstarted hclock hturn
  refine ⟨t, m.checked (s.attnCheck m), hexec, ?_, rfl, rfl, ?_, hsame, fun hbad => attnCheck_record hlead hbad,
    fun hgood hplace => attnCheck_placement hlead hgood hplace⟩
  · rw [hattn, List.getElem?_set_self (List.getElem?_eq_some_iff.mp hat).1]
  · simp [AttnCmd.checked, atOk]

/-- Settles O22: a ready command reads within its windows and writes the ranges of its kind; commands start in order and end with their record. -/
theorem attentionCommands : Obligations.AttentionCommands := ⟨attentionWork, attentionOrder⟩

end Sys2Proof.Machine

namespace Sys2Proof.Machine

/-! ### What leaves the state of the channels alone (R319, R321) -/

/-- The place of a channel's CP_STAT in the map. -/
def ChanReg (a : Nat) : Prop := a % 0x400000 = 4 ∧ a < 0x02000000

theorem chanReg_cpStat {n : Nat} (h : n < 4) : ChanReg (R.CP_STAT n) := by
  unfold ChanReg R.CP_STAT
  omega

theorem not_chanReg_above {a : Nat} (h : 0x02000000 ≤ a) : ¬ChanReg a := fun ha => absurd ha.2 (by omega)

/-- The registers of a set read as before. -/
structure State.OffRegs (P : Nat → Prop) (s t : State) : Prop where
  rd : ∀ a, P a → t.rd a = s.rd a

section
variable {P : Nat → Prop}

theorem State.OffRegs.refl (s : State) : s.OffRegs P s := ⟨fun _ _ => rfl⟩

theorem State.OffRegs.trans {s t u : State} (h : s.OffRegs P t) (g : t.OffRegs P u) : s.OffRegs P u :=
  ⟨fun a ha => (g.rd a ha).trans (h.rd a ha)⟩

theorem State.OffRegs.wr (s : State) {a : Nat} (v : Word) (ha : ¬P a) : s.OffRegs P (s.wr a v) :=
  ⟨fun _ hb => s.rd_wr_ne v fun e => ha (e ▸ hb)⟩

theorem State.OffRegs.setFld (s : State) {a : Nat} (f : Fld) (x : Nat) (ha : ¬P a) : s.OffRegs P (s.setFld a f x) := .wr s _ ha

theorem State.SameBut.offRegs {l : List Piece} {s t : State} (h : s.SameBut l t) (hl : .regs ∉ l := by simp) : s.OffRegs P t :=
  ⟨fun a _ => h.rd_eq hl a⟩

theorem State.each_offRegs {α : Type} (s : State) (l : List α) {f : State → α → State} (hf : ∀ (u : State) a, u.OffRegs P (f u a)) :
    s.OffRegs P (s.each l f) := State.each_keeps (P := fun u => s.OffRegs P u) l (.refl s) fun u a h => h.trans (hf u a)

end

theorem State.OffRegs.chState {s t : State} (h : s.OffRegs ChanReg t) {n : Nat} (hn : n < 4) : t.chState n = s.chState n := by
  unfold State.chState State.fld
  rw [h.rd _ (chanReg_cpStat hn)]

/-! Registers that are none of them -/

/-- A set of registers that has none of a sync object's. -/
def OffObjects (P : Nat → Prop) : Prop := ∀ obj, ¬P (valReg obj) ∧ ¬P (sstatReg obj) ∧ ¬P (holdReg obj)

theorem offObjects_chanReg : OffObjects ChanReg := fun obj => by
  simp only [ChanReg, valReg, sstatReg, holdReg, R.SYNC_VALUE, R.SYNC_STAT, R.SYNC_HOLDER]
  omega

theorem not_chanReg_statReg (c : Nat) : ¬ChanReg (statReg c) := by
  simp only [ChanReg, statReg, R.CORE_STAT, chanOf, posOf]
  omega

theorem not_chanReg_repair (n : Nat) {x : Nat} (hx : x < 8) : ¬ChanReg (R.CTX_REPAIR n x) := by
  simp only [ChanReg, R.CTX_REPAIR]
  omega

theorem not_chanReg_crStat (n : Nat) : ¬ChanReg (R.CR_STAT n) := by
  simp only [ChanReg, R.CR_STAT]
  omega

theorem not_chanReg_qp (f q : Nat) : ¬ChanReg (R.HI_QP_STAT f q) ∧ ¬ChanReg (R.HI_QP_CQ_TAIL f q) :=
  ⟨not_chanReg_above (by unfold R.HI_QP_STAT; omega), not_chanReg_above (by unfold R.HI_QP_CQ_TAIL; omega)⟩

/-! Doubt sources -/

/-- A doubt source moves only registers of the doubt matrix and of the permits. -/
theorem State.rd_raiseDoubt_of_lt (s : State) (i : Nat) {a : Nat} (ha : a < 0x02500000) : (s.raiseDoubt i).rd a = s.rd a := by
  have hwr (u : State) {b : Nat} (v : Word) (hb : 0x02500000 ≤ b) : (u.wr b v).rd a = u.rd a := u.rd_wr_ne v (by omega)
  have hset (u : State) {b : Nat} (f : Fld) (x : Nat) (hb : 0x02500000 ≤ b) : (u.setFld b f x).rd a = u.rd a := hwr u _ hb
  have hfirst (n : Nat) : 0x02500000 ≤ R.DD_FIRST n := by unfold R.DD_FIRST; omega
  have htime (n : Nat) : 0x02500000 ≤ R.DD_TIME n := by unfold R.DD_TIME; omega
  have hctrl (k : Nat) : 0x02500000 ≤ R.PERMIT_CTRL k := by unfold R.PERMIT_CTRL; omega
  have hstat (k : Nat) : 0x02500000 ≤ R.PERMIT_STAT k := by unfold R.PERMIT_STAT; omega
  have hnote (u : State) (n src : Nat) : (u.noteFirst n src).rd a = u.rd a := by
    unfold State.noteFirst
    split
    · split
      · exact hset u _ _ (hfirst n)
      · rfl
    · exact (hwr _ _ (htime n)).trans (hwr u _ (hfirst n))
  have hactivate (u : State) (src mask : Nat) : (u.activate src mask).rd a = u.rd a :=
    State.each_keeps (P := fun v => v.rd a = u.rd a) _ (hset u _ _ (by decide)) fun v n hv => (hnote v n src).trans hv
  have hlevels (u : State) : u.holdLevels.rd a = u.rd a :=
    State.each_keeps (P := fun v => v.rd a = u.rd a) _ (hset u _ _ (by decide)) fun v l hv => (hactivate v l.1 l.2).trans hv
  have hwithdraw (u : State) (k c j : Nat) : (u.withdraw k c j).rd a = u.rd a := by
    unfold State.withdraw
    rw [hwr _ _ (by unfold R.PERMIT_WTIME; omega), hset _ _ _ (hstat k), hset _ _ _ (hstat k), hset _ _ _ (hstat k), hset _ _ _ (hstat k),
      hset _ _ _ (hctrl k)]
  have hpermits (u : State) : u.checkPermits.rd a = u.rd a := by
    refine State.each_keeps (P := fun v => v.rd a = u.rd a) _ rfl fun v k hv => ?_
    split
    · exact (hwithdraw v _ _ _).trans hv
    · exact hv
  have hsettle (u : State) : u.settle.rd a = u.rd a := by
    unfold State.settle
    split
    · rfl
    · exact (hpermits _).trans (hlevels u)
  unfold State.raiseDoubt
  split
  · rfl
  · exact ((hsettle _).trans (hactivate _ _ _)).trans (hwr s _ (by unfold R.DM_PEND; omega))

theorem State.raiseDoubt_offChans (s : State) (i : Nat) : s.OffRegs ChanReg (s.raiseDoubt i) :=
  ⟨fun _ ha => s.rd_raiseDoubt_of_lt i (by have := ha.2; omega)⟩

section
variable {P : Nat → Prop}

/-! Objects and waits -/

theorem State.onNoc_offRegs (s : State) (f : NocSt → NocSt) : s.OffRegs P (s.onNoc f) := (State.SameBut.onNoc s f).offRegs

theorem State.releaseAll_offRegs (s : State) (obj code : Nat) : s.OffRegs P (s.releaseAll obj code) :=
  (s.onNoc_offRegs _).trans (State.each_offRegs _ (s.queue obj) fun u _ => u.onNoc_offRegs _)

theorem State.noteUndo_offRegs (s : State) (obj : Nat) (hold : Option Nat) (f : Undo → Undo) : s.OffRegs P (s.noteUndo obj hold f) :=
  (s.noteUndo_sameBut obj hold f).offRegs

theorem State.arrivals_offRegs (hP : OffObjects P) (s : State) (obj a : Nat) : s.OffRegs P (s.arrivals obj a) := by
  obtain ⟨hval, hstat, -⟩ := hP obj
  unfold State.arrivals
  dsimp only
  split
  · exact .wr s _ hval
  · exact ((State.OffRegs.wr s _ hval).trans (.setFld _ _ _ hstat)).trans (State.releaseAll_offRegs _ _ _)

theorem State.serve_offRegs (hP : OffObjects P) (s : State) (obj fuel : Nat) : s.OffRegs P (s.serve obj fuel) := by
  obtain ⟨hval, -, hhold⟩ := hP obj
  induction fuel generalizing s with
  | zero => exact .refl s
  | succ fuel ih =>
    have hnext (u : State) (rest : List Waiter) (who : Who) : u.OffRegs P (((u.setQueue obj rest).release obj who rReleased).serve obj fuel) :=
      ((u.onNoc_offRegs _).trans (State.onNoc_offRegs _ _)).trans (ih _)
    unfold State.serve
    split
    · exact .refl s
    dsimp only
    split
    · split
      · exact .refl s
      · refine .trans ?_ (hnext _ _ _)
        refine .trans ?_ (State.noteUndo_offRegs _ _ _ _)
        split
        · split
          · exact (State.OffRegs.wr s _ hval).trans (.wr _ _ hhold)
          · exact .wr s _ hval
        · exact .wr s _ hval
    · split
      · exact .refl s
      · refine .trans ?_ (hnext _ _ _)
        split
        · exact (State.OffRegs.wr s _ hval).trans (State.noteUndo_offRegs _ _ _ _)
        · exact .refl s

theorem State.evaluate_offRegs (hP : OffObjects P) (s : State) (obj : Nat) : s.OffRegs P (s.evaluate obj) := by
  unfold State.evaluate
  split
  · exact s.arrivals_offRegs hP obj 0
  · exact s.serve_offRegs hP obj _

theorem State.resetObject_offRegs (hP : OffObjects P) (s : State) (obj : Nat) : s.OffRegs P (s.resetObject obj) := by
  obtain ⟨hval, hstat, hhold⟩ := hP obj
  exact ((((s.releaseAll_offRegs obj _).trans (.wr _ _ hval)).trans (.setFld _ _ _ hstat)).trans (.setFld _ _ _ hstat)).trans (.setFld _ _ _ hhold)

theorem State.sendCtrl_offRegs (s : State) (dst : Nat) (r : CtrlRec) : s.OffRegs P (s.sendCtrl dst r) :=
  (s.sendCtrl_sends dst r).same.offRegs

theorem State.enqueue_offRegs (s : State) (l : Nat) (fs : List TxFlit) : s.OffRegs P (s.enqueue l fs) :=
  (s.enqueue_sends l fs).same.offRegs

theorem State.abandonCtx_offRegs (hP : OffObjects P) (s : State) (p x : Nat) : s.OffRegs P (s.abandonCtx p x) := by
  have hall (hold : Nat) : s.OffRegs P (s.abandonAll p hold) := by
    refine s.each_offRegs _ fun u obj => ?_
    split
    · exact (State.OffRegs.setFld u _ _ (hP obj).2.1).trans (State.releaseAll_offRegs _ _ _)
    · exact .refl u
  exact (hall _).trans (State.each_offRegs _ _ fun u l => u.enqueue_offRegs l _)

theorem State.dropWaits_offRegs (hP : OffObjects P) (s : State) (p x : Nat) : s.OffRegs P (s.dropWaits p x) := by
  have hremove (u : State) (core : Nat → Bool) : u.OffRegs P (u.removeWaits p core) := by
    unfold State.removeWaits
    dsimp only
    refine (u.onNoc_offRegs _).trans (State.each_offRegs _ _ fun v obj => ?_)
    split
    · exact (v.onNoc_offRegs _).trans (State.evaluate_offRegs hP _ obj)
    · exact .refl v
  unfold State.dropWaits
  dsimp only
  exact ((s.onNoc_offRegs _).trans (State.each_offRegs _ _ fun u w => u.sendCtrl_offRegs _ _)).trans (hremove _ _)

theorem State.onCore_offRegs (s : State) (c : Nat) (f : CoreSt → CoreSt) : s.OffRegs P (s.onCore c f) := (State.SameBut.onCore s c f).offRegs

theorem State.stopCores_offRegs (s : State) (p x : Nat) : s.OffRegs P (s.stopCores p x) := by
  unfold State.stopCores
  dsimp only
  exact (s.each_offRegs _ fun u c => u.onCore_offRegs c _).trans (State.SameBut.onCtx _ _ _ _).offRegs

end

/-! Posts and descriptors -/

theorem State.dropPosts_offChans (s : State) (p x : Nat) : s.OffRegs ChanReg (s.dropPosts p x) := by
  have hwork : s.OffRegs ChanReg (s.dropWork p x) := by
    unfold State.dropWork State.dropPartials State.countDiscarded
    dsimp only
    refine (s.onNoc_offRegs _).trans (.trans (.trans (State.each_offRegs _ _ fun u k => ?_) (State.onNoc_offRegs _ _)) (State.onNoc_offRegs _ _))
    exact .setFld u _ _ (not_chanReg_crStat _)
  have hcredits (u : State) : u.OffRegs ChanReg (u.dropCredits p x) := by
    unfold State.dropCredits
    dsimp only
    exact (u.each_offRegs _ fun v e => v.sendCtrl_offRegs _ _).trans (State.onNoc_offRegs _ _)
  have hawaits (u : State) : u.OffRegs ChanReg (u.dropAwaits p x) := u.onNoc_offRegs _
  exact (hwork.trans (hcredits _)).trans (hawaits _)

theorem State.logEvent_offChans (s : State) (f : Nat) (e : EventRec) : s.OffRegs ChanReg (s.logEvent f e) :=
  ⟨fun _ ha => s.rd_logEvent_of_lt f e (by have := ha.2; omega)⟩

theorem State.onQp_offChans (s : State) (f q : Nat) (g : QpSt → QpSt) : s.OffRegs ChanReg (s.onQp f q g) := (State.SameBut.onHost s _).offRegs

theorem State.qpFail_offChans (s : State) (f q : Nat) (wrote : Bool) : s.OffRegs ChanReg (s.qpFail f q wrote) := by
  obtain ⟨hstat, -⟩ := not_chanReg_qp f q
  have hbroken (u : State) : u.OffRegs ChanReg (if wrote = true then u.onQp f q (fun x => { x with broken := true }) else u) := by
    split
    · exact u.onQp_offChans f q _
    · exact .refl u
  unfold State.qpFail
  dsimp only
  have herr : s.OffRegs ChanReg (s.setBit (R.HI_QP_STAT f q) F.HI_QP_STAT_DMA_ERR) := .setFld s _ _ hstat
  refine (herr.trans (hbroken _)).trans ?_
  generalize s.setBit (R.HI_QP_STAT f q) F.HI_QP_STAT_DMA_ERR = u
  generalize (if wrote = true then u.onQp f q (fun x => { x with broken := true }) else u) = v
  split
  · exact (State.OffRegs.setFld v _ _ hstat).trans (State.logEvent_offChans _ _ _)
  · exact .refl v

theorem State.writeEntry_offChans (s : State) (d : Desc) (status : Nat) (result : List Byte) : s.OffRegs ChanReg (s.writeEntry d status result) := by
  obtain ⟨-, htail⟩ := not_chanReg_qp d.fn d.qp
  have hnotify (u : State) : u.OffRegs ChanReg (u.cqNotify d.fn d.qp) := by
    unfold State.cqNotify
    dsimp only
    split
    · exact (u.onQp_offChans _ _ _).trans (State.msix_sameBut _ _ _).offRegs
    · exact .refl u
  have hwrite (a : Nat) (bs : List Byte) : s.OffRegs ChanReg (s.hostWrite a bs).1 := (s.hostWrite_sameBut a bs).offRegs
  unfold State.writeEntry
  dsimp only
  split
  · exact .refl s
  · split
    · exact (hwrite _ _).trans (State.qpFail_offChans _ _ _ _)
    · exact ((((hwrite _ _).trans (.setFld _ _ _ htail)).trans (.setFld _ _ _ htail)).trans (State.onQp_offChans _ _ _ _)).trans (hnotify _)

theorem State.complete_offChans (s : State) (id status : Nat) (result : List Byte) : s.OffRegs ChanReg (s.complete id status result) := by
  unfold State.complete
  split
  · exact .refl s
  · exact (((State.SameBut.onHost s _).offRegs.trans (.setFld _ _ _ (not_chanReg_qp _ _).1)).trans ⟨fun a ha => State.rd_mark_of_lt _ _ ha.2⟩).trans
      (State.writeEntry_offChans _ _ _ _)

/-! Windows and contexts -/

theorem State.startZero_offChans (s : State) (c k : Nat) : s.OffRegs ChanReg (s.startZero c k) := by
  have hstops (u : State) : u.OffRegs ChanReg (u.zeroStops c k) := by
    unfold State.zeroStops
    split
    · exact .refl u
    · exact u.onNoc_offRegs _
  unfold State.startZero
  split
  · exact (State.OffRegs.setFld s _ _ (not_chanReg_statReg c)).trans (hstops _)
  · exact .refl s

theorem State.zeroCore_offChans (s : State) (c : Nat) : s.OffRegs ChanReg (s.zeroCore c) := by
  have hnext (u : State) : u.OffRegs ChanReg (u.zeroNext c) := by
    unfold State.zeroNext
    split
    · exact .refl u
    · split
      · exact .refl u
      · exact (u.onCore_offRegs c _).trans (State.startZero_offChans _ _ _)
  unfold State.zeroCore
  exact (s.onCore_offRegs c _).trans (hnext _)

theorem State.strip_offChans (s : State) (p : Nat) {x : Nat} (hx : x < 8) (status : Nat) (keep : Option Nat) : s.OffRegs ChanReg (s.strip p x status keep) := by
  unfold State.strip
  dsimp only
  have hdescs (u : State) : u.OffRegs ChanReg (u.endDescs p x status keep) := u.each_offRegs _ fun v d => v.complete_offChans d.id status []
  have hzero (u : State) : u.OffRegs ChanReg (if (u.part p).resetting.isSome = true then u else u.zeroIdle p x) := by
    split
    · exact .refl u
    · exact u.each_offRegs _ fun v r => v.startZero_offChans _ _
  exact (((((((s.stopCores_offRegs p x).trans (State.SameBut.onCtx _ p x _).offRegs).trans (State.SameBut.onPart _ p _).offRegs).trans
    (State.dropPosts_offChans _ p x)).trans (hdescs _)).trans ((State.abandonCtx_offRegs offObjects_chanReg _ p x).trans (State.dropWaits_offRegs offObjects_chanReg _ p x))).trans
    (.wr _ 0#32 (not_chanReg_repair _ hx))).trans (hzero _)

theorem State.wipeRegion_offChans (s : State) (r : Nat) : s.OffRegs ChanReg (s.wipeRegion r) := by
  unfold State.wipeRegion
  split
  · exact ⟨fun _ _ => rfl⟩
  · exact .setFld s _ _ (not_chanReg_above (by unfold R.SEC_REC_CFG; omega))

/-- R316: a partition reset turns no channel on or off. -/
theorem State.beginReset_offChans (s : State) (p cause : Nat) (discard : Bool) : s.OffRegs ChanReg (s.beginReset p cause discard) := by
  unfold State.beginReset
  split
  · exact .refl s
  split
  · exact (State.SameBut.onPart s p _).offRegs
  dsimp only
  have hstrip (u : State) (l : List Nat) (hl : ∀ x ∈ l, x < 8) (status : Nat) : u.OffRegs ChanReg (u.each l fun v x => v.strip p x status none) :=
    List.foldlRecOn (motive := fun v => u.OffRegs ChanReg v) _ _ (.refl u) fun v hv x hx => hv.trans (v.strip_offChans p (hl x hx) status none)
  have hrange (u : State) : ∀ x ∈ (List.range 8).filter (fun x => (u.ctx p x).state != .none), x < 8 :=
    fun x hx => List.mem_range.mp (List.mem_of_mem_filter hx)
  exact (((((State.SameBut.onPart s p _).offRegs.trans (State.each_offRegs _ _ fun u obj => u.resetObject_offRegs offObjects_chanReg obj)).trans
    (hstrip _ _ (hrange _) _)).trans (State.each_offRegs _ _ fun u c => u.zeroCore_offChans c)).trans (State.wipeRegion_offChans _ p)).trans
    (State.raiseDoubt_offChans _ _)

end Sys2Proof.Machine

namespace Sys2Proof.Machine

/-! ### Channels turn on and off (R318, R319) -/

theorem State.rd_select (s : State) (p : Nat) (out : Option Nat) (a : Nat) : (s.select p out).rd a = s.rd a :=
  (s.select_selects p out).same.rd_eq (by simp) a

/-- A selection takes no step from a queue and adds none. -/
theorem State.queue_select (s : State) (p : Nat) (out : Option Nat) (q x : Nat) : ((s.select p out).ctx q x).queue = (s.ctx q x).queue := by
  unfold State.select
  split
  · rfl
  split
  · rfl
  · next y _ =>
    unfold State.engage
    rw [State.ctx_onCtx]
    have hcur : ∀ z, (s.onPart p fun q => { q with cur := some y }).ctx q z = s.ctx q z := fun z => s.ctx_onPart p (by exact fun _ => rfl) q z
    split
    · next h =>
      obtain ⟨rfl, rfl⟩ := h
      change ((s.onPart q _).ctx q x).queue = _
      rw [hcur]
    · rw [hcur]

theorem State.ownerOf_eq {s t : State} (h : ∀ p, t.part p = s.part p) (n : Nat) : t.ownerOf n = s.ownerOf n := by
  unfold State.ownerOf
  simp only [h]

theorem State.SameBut.ownerOf_eq {l : List Piece} {s t : State} (h : s.SameBut l t) (hl : .parts ∉ l) (n : Nat) : t.ownerOf n = s.ownerOf n :=
  State.ownerOf_eq (fun p => h.part_eq hl p) n

section
variable {s : State} {n : Nat}

theorem State.chState_setFld (s : State) (n v : Nat) (hv : v < 8) : (s.setFld (R.CP_STAT n) F.CP_STAT_STATE v).chState n = v := by
  refine (s.fld_setFld_self _ _ _ (by decide) (by decide)).trans ?_
  exact Nat.mod_eq_of_lt hv

theorem channelEnable_completes (hn : n < 4) (hoff : s.chState n = 0) (htakes : s.regTakes (R.CP_CTRL n) = true)
    (hup : ∀ k, k < 9 → s.gated (14 + 9 * n + k) = false) : ∃ t, exec (.channelEnable n) s = .next t ∧ t.chState n = 1 := by
  let v := setF (s.rd (R.CP_CTRL n)) F.CP_CTRL_EN 1
  let written := s.wr (R.CP_CTRL n) (BitVec.ofNat 32 (b2n (isSet v F.CP_CTRL_EN) * 2 ^ 31 + b2n (isSet v F.CP_CTRL_FORCE) * 2 ^ 30))
  have hen : isSet v F.CP_CTRL_EN = true := isSet_setF_one _ _ (by decide) (by decide)
  have hgated : (List.range 9).any (fun k => s.gated (14 + 9 * n + k)) = false := by
    rw [List.any_eq_false]
    exact fun k hk => by rw [hup k (List.mem_range.mp hk)]; exact Bool.false_ne_true
  have hexec : exec (.channelEnable n) s = .next (written.chOn n) := by
    refine congrArg Host.Outcome.next ((if_pos ⟨hn, htakes⟩).trans ?_)
    unfold State.writeCpCtrl
    dsimp only
    rw [hgated, hoff, if_neg (by simp), if_pos hen, if_pos rfl]
  refine ⟨_, hexec, ?_⟩
  unfold State.chOn
  dsimp only
  split
  · unfold State.chState State.fld
    rw [State.rd_select]
    exact written.chState_setFld n 1 (by decide)
  · exact written.chState_setFld n 1 (by decide)

theorem channelDrain_completes (hn : n < 4) (hon : s.chState n = 1) (htakes : s.regTakes (R.CP_CTRL n) = true) :
    ∃ t, exec (.channelDrain n) s = .next t ∧ t.chState n = 2 := by
  have hexec : exec (.channelDrain n) s = .next ((s.wr (R.CP_CTRL n) 0#32).setFld (R.CP_STAT n) F.CP_STAT_STATE 2) := by
    refine congrArg Host.Outcome.next ((if_pos ⟨hn, htakes⟩).trans ?_)
    unfold State.writeCpCtrl
    dsimp only
    rw [show isSet 0#32 F.CP_CTRL_EN = false by decide, show isSet 0#32 F.CP_CTRL_FORCE = false by decide, hon, Bool.false_and,
      if_neg Bool.false_ne_true, if_neg Bool.false_ne_true, if_neg Bool.false_ne_true, if_pos rfl]
    rfl
  exact ⟨_, hexec, State.chState_setFld _ n 2 (by decide)⟩

theorem channelDrainEnd_completes (hn : n < 4) (hdrain : s.chState n = 2) (hfree : ∀ p, s.ownerOf n = some p → (s.part p).cur = none) :
    ∃ t, exec (.channelDrainEnd n) s = .next t ∧ t.chState n = 0 := by
  have hexec : exec (.channelDrainEnd n) s = .next (s.setFld (R.CP_STAT n) F.CP_STAT_STATE 0) := by
    refine congrArg Host.Outcome.next ?_
    dsimp only
    cases howner : s.ownerOf n with
    | none => exact if_pos ⟨hn, hdrain, rfl⟩
    | some p => exact if_pos ⟨hn, hdrain, by simp [hfree p howner]⟩
  exact ⟨_, hexec, State.chState_setFld _ n 0 (by decide)⟩

theorem channelForcedDisable_completes (hn : n < 4) (hst : s.chState n = 1 ∨ s.chState n = 2) (htakes : s.regTakes (R.CP_CTRL n) = true) :
    ∃ t, exec (.channelForcedDisable n) s = .next t ∧ t.chState n = 0 := by
  have hexec : exec (.channelForcedDisable n) s = .next ((s.wr (R.CP_CTRL n) (BitVec.ofNat 32 (b2n false * 2 ^ 31 + b2n true * 2 ^ 30))).chForce n) := by
    refine congrArg Host.Outcome.next ((if_pos ⟨hn, htakes⟩).trans ?_)
    unfold State.writeCpCtrl
    dsimp only
    rw [show isSet (mkF F.CP_CTRL_FORCE 1) F.CP_CTRL_EN = false by decide, show isSet (mkF F.CP_CTRL_FORCE 1) F.CP_CTRL_FORCE = true by decide,
      Bool.false_and, if_neg Bool.false_ne_true, if_neg Bool.false_ne_true, if_pos rfl, if_pos (by simpa using hst)]
  refine ⟨_, hexec, ?_⟩
  unfold State.chForce
  dsimp only
  split
  · rw [(State.beginReset_offChans _ _ _ _).chState hn]
    exact State.chState_setFld _ n 0 (by decide)
  · exact State.chState_setFld _ n 0 (by decide)

end

/-! ### A core fails, its row shifts (R436, R437) -/

theorem State.killCore_sameBut (s : State) (c : Nat) : s.SameBut [.regs, .cores, .parts] (s.killCore c) := by
  unfold State.killCore
  split
  · have hquiet := ((State.SameBut.onCore s c fun x => x.quiet (s.active c)).mono (l' := [.regs, .cores, .parts]) (by simp)).trans
      ((State.SameBut.setFld _ (statReg c) F.CORE_STAT_RUN 0).mono (by simp))
    dsimp only
    split
    · exact hquiet.trans ((State.SameBut.onCtx _ _ _ _).mono (by simp))
    · exact hquiet
  · exact .refl s _

theorem State.markChan_sameBut (s : State) (ch event arg : Nat) : s.SameBut [.regs, .trc] (s.markChan ch event arg) := by
  unfold State.markChan
  split
  · exact s.mark_sameBut _
  · split
    · exact s.markCp_sameBut _ _ _ _
    · exact s.mark_sameBut _

theorem State.stopCores_sameBut (s : State) (p x : Nat) : s.SameBut [.cores, .parts] (s.stopCores p x) := by
  unfold State.stopCores
  dsimp only
  exact (State.each_keeps (P := fun u => s.SameBut [.cores, .parts] u) _ (.refl s _) fun u c hu => hu.trans
    ((State.SameBut.onCore u c _).mono (by simp))).trans ((State.SameBut.onCtx _ _ _ _).mono (by simp))

theorem State.discardStep_sameBut (s : State) (p : Nat) : s.SameBut [.cores, .parts] (s.discardStep p) := by
  unfold State.discardStep
  split
  · exact .refl s _
  · split
    · exact (s.stopCores_sameBut _ _).trans ((State.SameBut.onCtx _ _ _ _).mono (by simp))
    · exact .refl s _

theorem coreFails_migr {s : State} {ch row col : Nat} (cause : Nat) (hcol : col < 16) (hmask : s.fmask ch row = 0)
    (hstill : ∀ m ∈ s.migr, ¬(m.ch = ch ∧ m.row = row)) : (s.coreFails ch row col cause).migr = s.migr ++ [⟨ch, row, col, cause⟩] := by
  have hbusy : s.migr.any (fun m => m.ch == ch && m.row == row) = false := by
    rw [List.any_eq_false]
    exact fun m hm => by simpa using hstill m hm
  have hdiscard (u : State) : u.SameBut [.cores, .parts] (match u.ownerOf ch with
      | some p => u.discardStep p
      | none => u) := by
    split
    · exact u.discardStep_sameBut _
    · exact .refl u _
  unfold State.coreFails
  dsimp only
  rw [hbusy, if_neg (by simp [hmask]), if_neg (by omega)]
  dsimp only
  refine congrArg (· ++ _) (((hdiscard _).migr.resolve_left (by simp)).trans ?_)
  rw [(State.markChan_sameBut _ _ _ _).migr.resolve_left (by simp), (State.killCore_sameBut _ _).migr.resolve_left (by simp),
    (State.raiseDoubt_offLinks _ _).same.migr.resolve_left (by simp)]

theorem coreFailure_completes {s : State} {ch row col cause : Nat} {c : Instr} (hch : ch < 4) (hrow : row < 16) (hcol : col < 16) (hlo : 2 ≤ cause)
    (hhi : cause ≤ 5) (hc : c = .coreFailure ch row col cause ∨ cause = 4 ∧ c = .nocTimeout ch row col) (hmask : s.fmask ch row = 0)
    (hstill : ∀ m ∈ s.migr, ¬(m.ch = ch ∧ m.row = row)) : ∃ t, exec c s = .next t ∧ t.migr = s.migr ++ [⟨ch, row, col, cause⟩] := by
  refine ⟨s.coreFails ch row col cause, ?_, coreFails_migr cause hcol hmask hstill⟩
  rcases hc with rfl | ⟨rfl, rfl⟩
  · exact congrArg Host.Outcome.next ((if_pos ⟨hch, hrow, by omega, by omega, hhi⟩).trans (if_neg (by omega)))
  · exact congrArg Host.Outcome.next (if_pos ⟨hch, hrow, by omega⟩)

theorem State.shiftRow_spec (s : State) (ch row f : Nat) : s.SameBut [.regs, .scratch, .ue, .ce] (s.shiftRow ch row f)
    ∧ ∀ a, a < 0x01000000 → (s.shiftRow ch row f).rd a = s.rd a := by
  have hzero (u : State) (c p n : Nat) : u.SameBut [.scratch, .ue, .ce] (u.zeroPhys c p n) := by constructor <;> simp [State.zeroPhys]
  have hcounts : s.SameBut [.regs] (s.shiftCounts ch row f) := by
    unfold State.shiftCounts
    exact State.each_keeps (P := fun u => s.SameBut [.regs] u) _ (.refl s _) fun u c hu => hu.trans (.wr _ _ _)
  have hrd (a : Nat) (ha : a < 0x01000000) : (s.shiftCounts ch row f).rd a = s.rd a := by
    unfold State.shiftCounts
    refine State.each_keeps (P := fun u => u.rd a = s.rd a) _ rfl fun u c hu => ?_
    rw [u.rd_wr_ne _ (by unfold R.CORE_FENCE_CNT; omega), hu]
  exact ⟨(hcounts.mono (by simp)).trans ((hzero _ _ _ _).mono (by simp)), fun a ha => ((hzero _ _ _ _).rd_eq (by simp) a).trans (hrd a ha)⟩

theorem State.noteFence_spec (s : State) {ch row col : Nat} (cause : Nat) (hch : ch < 4) (hrow : row < 16) (hcol : col < 17) (hmask : s.fmask ch row = 0) :
    (s.noteFence ch row col cause false).fmask ch row = 2 ^ col ∧ s.SameBut [.regs] (s.noteFence ch row col cause false) := by
  have hsum : R.SPMAP ch row ≠ R.SPMAP_SUM := by unfold R.SPMAP R.SPMAP_SUM; omega
  have hset : Machine.setBit 0 col true = 2 ^ col := by simp [Machine.setBit, bitOf]
  have hlt : 2 ^ col < 2 ^ 17 := Nat.pow_lt_pow_right (by decide) hcol
  unfold State.noteFence State.sumSpares
  dsimp only
  refine ⟨?_, (((State.SameBut.setFld s _ _ _).trans (.setFld _ _ _ _)).trans (.setFld _ _ _ _)).trans (.wr _ _ _)⟩
  unfold State.fmask State.fld
  rw [State.rd_wr_ne _ _ hsum]
  refine (State.fld_setFld_other _ _ _ _ _ (by decide) (by decide) (by decide) (by decide)).trans ?_
  refine (State.fld_setFld_other _ _ _ _ _ (by decide) (by decide) (by decide) (by decide)).trans ?_
  refine (State.fld_setFld_self _ _ _ _ (by decide) (by decide)).trans ?_
  change Machine.setBit (s.fmask ch row) col true % 2 ^ 17 = _
  rw [hmask, hset, Nat.mod_eq_of_lt hlt]

theorem migrationEnd_completes {s : State} {i : Nat} {m : Migr} (hat : s.migr[i]? = some m) (hch : m.ch < 4) (hrow : m.row < 16) (hcol : m.col < 16)
    (hmask : s.fmask m.ch m.row = 0) (hready : s.fenceReady m = true) (howner : s.ownerOf m.ch = none) :
    ∃ t, exec (.migrationEnd i) s = .next t ∧ t.fmask m.ch m.row = 2 ^ m.col := by
  let taken : State := { s with migr := dropAt s.migr i }
  obtain ⟨hshift, hlow⟩ := taken.shiftRow_spec m.ch m.row m.col
  have hspmap : R.SPMAP m.ch m.row < 0x01000000 := by unfold R.SPMAP; omega
  have hmask' : (taken.shiftRow m.ch m.row m.col).fmask m.ch m.row = 0 := by
    rw [← hmask]
    unfold State.fmask State.fld
    rw [hlow _ hspmap]
    rfl
  obtain ⟨hfence, hsame⟩ := State.noteFence_spec (taken.shiftRow m.ch m.row m.col) m.cause hch hrow (by omega : m.col < 17) hmask'
  have howner' : ((taken.shiftRow m.ch m.row m.col).noteFence m.ch m.row m.col m.cause false).ownerOf m.ch = none := by
    rw [hsame.ownerOf_eq (by simp), hshift.ownerOf_eq (by simp)]
    exact howner
  refine ⟨((taken.shiftRow m.ch m.row m.col).noteFence m.ch m.row m.col m.cause false).eventPF
    ⟨evCoreFenced, 0, 0, false, leBytes 2 (coreId m.ch m.row m.col) ++ leBytes 1 m.cause⟩, congrArg Host.Outcome.next ?_, ?_⟩
  · simp only [hat, hready, Bool.not_true, Bool.false_eq_true, ↓reduceIte]
    change (match ((taken.shiftRow m.ch m.row m.col).noteFence m.ch m.row m.col m.cause false).ownerOf m.ch with
      | none => _
      | some p => _) = _
    rw [howner']
  · unfold State.fmask State.fld State.eventPF
    rw [State.rd_logEvent_of_lt _ _ _ (by omega)]
    exact hfence

/-! ### Repair ends (R445) -/

section
variable {s : State} {req n x p : Nat}

theorem State.endRepair_eq (hrepair : s.inRepair p x = true) (act : Nat) : s.endRepair p x act
    = (if s.bit (s.repairReg p x) F.CTX_REPAIR_HELD && (act == 2 || (s.ctx p x).left) then (s.wr (s.repairReg p x) 0#32).fenceStep p x
        else s.wr (s.repairReg p x) 0#32).select p none := by
  unfold State.endRepair
  rw [hrepair]
  rfl

theorem repairGo_completes (hn : n < 4) (hx : x < 8) (howner : s.ownerOf n = some p) (hlow : (s.part p).low = n) (hrepair : s.inRepair p x = true)
    (hreq : req = 0 ∨ req = 5) (htakes : s.regTakes (R.CTX_REPAIR n x) = true)
    (hrepeat : s.bit (R.CTX_REPAIR n x) F.CTX_REPAIR_HELD = false ∨ (s.ctx p x).left = false) :
    ∃ t, exec (.repairGo req n x) s = .next t ∧ t.rd (R.CTX_REPAIR n x) = 0#32 := by
  have hreg : s.repairReg p x = R.CTX_REPAIR n x := by rw [State.repairReg, hlow]
  have hexec : exec (.repairGo req n x) s = .next (s.endRepair p x 1) := by
    refine congrArg Host.Outcome.next ((if_pos ⟨hn, hx, htakes⟩).trans ?_)
    unfold State.writeRepair
    rw [show getF (mkF F.CTX_REPAIR_ACT 1) F.CTX_REPAIR_ACT = 1 by decide, howner]
    rcases hreq with rfl | rfl <;> simp [hlow]
  rw [State.endRepair_eq hrepair, if_neg (by rcases hrepeat with h | h <;> simp [hreg, h])] at hexec
  refine ⟨_, hexec, ?_⟩
  rw [State.rd_select, hreg, State.rd_wr_self]

theorem repairDrop_completes {st : Step} {q : List Step} (hn : n < 4) (hx : x < 8) (howner : s.ownerOf n = some p) (hlow : (s.part p).low = n)
    (hrepair : s.inRepair p x = true) (hreq : req = 0 ∨ req = 5) (htakes : s.regTakes (R.CTX_REPAIR n x) = true)
    (hheld : s.bit (R.CTX_REPAIR n x) F.CTX_REPAIR_HELD = true) (hqueue : (s.ctx p x).queue = st :: q) :
    ∃ t, exec (.repairDrop req n x) s = .next t ∧ (t.ctx p x).queue = q := by
  have hreg : s.repairReg p x = R.CTX_REPAIR n x := by rw [State.repairReg, hlow]
  have hexec : exec (.repairDrop req n x) s = .next (s.endRepair p x 2) := by
    refine congrArg Host.Outcome.next ((if_pos ⟨hn, hx, htakes⟩).trans ?_)
    unfold State.writeRepair
    rw [show getF (mkF F.CTX_REPAIR_ACT 2) F.CTX_REPAIR_ACT = 2 by decide, howner]
    rcases hreq with rfl | rfl <;> simp [hlow]
  rw [State.endRepair_eq hrepair, if_pos (by simp [hreg, hheld])] at hexec
  refine ⟨_, hexec, ?_⟩
  have hwritten : (s.wr (s.repairReg p x) 0#32).ctx p x = s.ctx p x := rfl
  rw [State.queue_select]
  unfold State.fenceStep
  rw [hwritten, hqueue]
  dsimp only
  rw [State.ctx_onCtx_self]

end

/-- R318, R319, R436, R437, R445: channels turn on and off, a core fails, its row shifts, repair ends. -/
theorem channelsComplete : ChannelsComplete := by
  intro s
  refine ⟨fun n hn => ⟨fun hoff htakes hup => channelEnable_completes hn hoff htakes hup, fun hon htakes => channelDrain_completes hn hon htakes,
    fun hdrain hfree => channelDrainEnd_completes hn hdrain hfree, fun hst htakes => channelForcedDisable_completes hn hst htakes⟩,
    fun ch row col cause c hch hrow hcol hlo hhi hc hmask hstill => coreFailure_completes hch hrow hcol hlo hhi hc hmask hstill,
    fun i m hat hch hrow hcol _ _ hmask hready howner => migrationEnd_completes hat hch hrow hcol hmask hready howner,
    fun req n x p hn hx howner hlow hrepair hreq htakes => ⟨fun hrepeat => repairGo_completes hn hx howner hlow hrepair hreq htakes hrepeat,
      fun st q hheld hqueue => repairDrop_completes hn hx howner hlow hrepair hreq htakes hheld hqueue⟩⟩

end Sys2Proof.Machine

namespace Sys2Proof.Machine

/-! ### Queue pairs (R271, R272) -/

/-- An event record moves no register but two of its function's log. -/
theorem State.rd_logEvent_ne (s : State) (f : Nat) (e : EventRec) {a : Nat} (hstat : a ≠ R.HI_FN_STAT f) (htail : a ≠ R.HI_FN_ELOG_TAIL f) :
    (s.logEvent f e).rd a = s.rd a := by
  have hwritten (u : State) (h : Nat) (bs : List Byte) (x y : Nat) :
      (((u.hostWrite h bs).1.setFld (R.HI_FN_ELOG_TAIL f) F.HI_FN_ELOG_TAIL_TAIL x).setFld (R.HI_FN_ELOG_TAIL f) F.HI_FN_ELOG_TAIL_PHASE y).rd a
        = u.rd a := by
    rw [State.rd_setFld_ne _ _ _ htail, State.rd_setFld_ne _ _ _ htail, (u.hostWrite_sameBut h bs).rd_eq (by simp)]
  unfold State.logEvent
  dsimp only
  split
  · rfl
  split
  · exact State.rd_setFld_ne _ _ _ hstat
  split
  · exact ((State.msix_sameBut _ _ _).rd_eq (by simp) a).trans (hwritten _ _ _ _ _)
  · exact hwritten _ _ _ _ _

theorem State.qp_onQp_self (s : State) (f q : Nat) (g : QpSt → QpSt) : (s.onQp f q g).qp f q = g (s.qp f q) := FMap.get_set_self _ _ _ _

section
variable {s : State} {f q : Nat}

theorem State.qpState_setFld (s : State) (f q : Nat) {v : Nat} (hv : v < 8) : (s.setFld (qpStat f q) F.HI_QP_STAT_STATE v).qpState f q = v :=
  (s.fld_setFld_self _ _ _ (by decide) (by decide)).trans (Nat.mod_eq_of_lt hv)

/-! Doorbells (R274, R275, R288) -/

/-- A doorbell of eight bytes at a pair that is ON. -/
theorem State.doorbell_eq (hq : q < 64) (hup : s.fnUp f = true) (hon : s.qpState f q = 1) {v : DWord}
    (hhigh : bitsOf v.toNat 63 50 = 0) (hmid : bitsOf v.toNat 31 17 = 0) : s.doorbell f (0x40 * q) 8 v =
      (let s := if bitOf v.toNat 16 then s.bellTail f q (bitsOf v.toNat 15 0) else s
       let s := if bitOf v.toNat 48 then s.bellHead f q (bitsOf v.toNat 47 32) else s
       if bitOf v.toNat 49 then s.bellArm f q else s) := by
  have hpair : 0x40 * q / 0x40 = q := by omega
  have halign : 0x40 * q % 8 = 0 := by omega
  have hfirst : 0x40 * q % 0x40 = 0 := by omega
  unfold State.doorbell
  dsimp only
  rw [hpair, hup, halign, hfirst, hon, hhigh, hmid]
  simp only [Bool.not_true, Bool.false_or, decide_eq_true_eq, ne_eq, not_true_eq_false, decide_false, Bool.or_self, Bool.false_eq_true, ↓reduceIte]
  rw [if_neg (by omega)]

theorem doorbellSqTail_completes (hq : q < 64) (hup : s.fnUp f = true) (hon : s.qpState f q = 1) {x : Nat} {v : DWord} (hv : v.toNat = 2 ^ 16 + x)
    (hx : x < s.sqSize f q) (hx16 : x < 2 ^ 16)
    (hdist : ((s.qp f q).sqTail + s.sqSize f q - s.fld (R.HI_QP_SQ_HEAD f q) F.HI_QP_SQ_HEAD_HEAD % s.sqSize f q) % s.sqSize f q
      ≤ (x + s.sqSize f q - s.fld (R.HI_QP_SQ_HEAD f q) F.HI_QP_SQ_HEAD_HEAD % s.sqSize f q) % s.sqSize f q) :
    ∃ t, exec (.doorbellSqTail f (0x40 * q) 8 v) s = .next t ∧ (t.qp f q).sqTail = x := by
  have htail : bitOf v.toNat 16 = true := by rw [hv]; unfold bitOf; exact decide_eq_true (by omega)
  have hhead : bitOf v.toNat 48 = false := by rw [hv]; unfold bitOf; exact decide_eq_false (by omega)
  have harm : bitOf v.toNat 49 = false := by rw [hv]; unfold bitOf; exact decide_eq_false (by omega)
  have hfield : bitsOf v.toNat 15 0 = x := by rw [hv]; unfold bitsOf; omega
  have hexec : exec (.doorbellSqTail f (0x40 * q) 8 v) s = .next (s.bellTail f q x) := by
    refine congrArg Host.Outcome.next ((State.doorbell_eq hq hup hon ?_ ?_).trans ?_)
    · rw [hv]; unfold bitsOf; omega
    · rw [hv]; unfold bitsOf; omega
    · simp only [htail, hhead, harm, hfield, Bool.false_eq_true, ↓reduceIte]
  refine ⟨_, hexec, ?_⟩
  have hbell : s.bellTail f q x = s.onQp f q fun y => { y with sqTail := x } := if_pos ⟨hx, hdist⟩
  rw [hbell, State.qp_onQp_self]

theorem doorbellCqHead_completes (hq : q < 64) (hup : s.fnUp f = true) (hon : s.qpState f q = 1) {x : Nat} {v : DWord}
    (hv : v.toNat = 2 ^ 48 + x * 2 ^ 32) (hx : x < s.cqSize f q) (hx16 : x < 2 ^ 16)
    (hadv : (x + s.cqSize f q - (s.qp f q).cqHead % s.cqSize f q) % s.cqSize f q ≤ (s.qp f q).unread) :
    ∃ t, exec (.doorbellCqHead f (0x40 * q) 8 v) s = .next t ∧ (t.qp f q).cqHead = x := by
  have htail : bitOf v.toNat 16 = false := by rw [hv]; unfold bitOf; exact decide_eq_false (by omega)
  have hhead : bitOf v.toNat 48 = true := by rw [hv]; unfold bitOf; exact decide_eq_true (by omega)
  have harm : bitOf v.toNat 49 = false := by rw [hv]; unfold bitOf; exact decide_eq_false (by omega)
  have hfield : bitsOf v.toNat 47 32 = x := by rw [hv]; unfold bitsOf; omega
  have hexec : exec (.doorbellCqHead f (0x40 * q) 8 v) s = .next (s.bellHead f q x) := by
    refine congrArg Host.Outcome.next ((State.doorbell_eq hq hup hon ?_ ?_).trans ?_)
    · rw [hv]; unfold bitsOf; omega
    · rw [hv]; unfold bitsOf; omega
    · simp only [htail, hhead, harm, hfield, Bool.false_eq_true, ↓reduceIte]
  refine ⟨_, hexec, ?_⟩
  have hbell : s.bellHead f q x = s.onQp f q fun y =>
      { y with cqHead := x, unread := y.unread - (x + s.cqSize f q - (s.qp f q).cqHead % s.cqSize f q) % s.cqSize f q } := if_pos ⟨hx, hadv⟩
  rw [hbell, State.qp_onQp_self]

theorem doorbellArm_completes (hq : q < 64) (hup : s.fnUp f = true) (hon : s.qpState f q = 1) {v : DWord} (hv : v.toNat = 2 ^ 49)
    (hread : (s.qp f q).unread = 0) : ∃ t, exec (.doorbellArm f (0x40 * q) 8 v) s = .next t ∧ (t.qp f q).armed = true := by
  have hexec : exec (.doorbellArm f (0x40 * q) 8 v) s = .next (s.bellArm f q) := by
    refine congrArg Host.Outcome.next ((State.doorbell_eq hq hup hon ?_ ?_).trans ?_) <;> rw [hv]
    · decide
    · decide
    · rw [show bitOf (2 ^ 49) 16 = false by decide, show bitOf (2 ^ 49) 48 = false by decide, show bitOf (2 ^ 49) 49 = true by decide]
      rfl
  have hbell : s.bellArm f q = s.onQp f q fun y => { y with armed := true } := if_neg (by rw [State.qp_onQp_self]; simpa using hread)
  refine ⟨_, hexec, ?_⟩
  rw [hbell, State.qp_onQp_self]

/-! The states of a pair (R272) -/

/-- The word HI_QPq_CFG keeps of a written one: R, CQLOG2 and VEC. -/
def qpCfgKept (v : Word) : Word :=
  BitVec.ofNat 32 (v.toNat / 2 ^ 24 * 2 ^ 24 + getF v F.HI_QP_CFG_CQLOG2 * 2 ^ 16 + getF v F.HI_QP_CFG_VEC * 2 ^ 8)

theorem qpEnable_completes (hq : q < 64) (hup : s.fnUp f = true) (hoff : s.qpState f q = 0) {v : Word} (hsq : 4 ≤ getF v F.HI_QP_CFG_SQLOG2)
    (hsq' : getF v F.HI_QP_CFG_SQLOG2 ≤ 16) (hcq : 4 ≤ getF v F.HI_QP_CFG_CQLOG2) (hcq' : getF v F.HI_QP_CFG_CQLOG2 ≤ 16) :
    ∃ t, exec (.qpEnable f q v) s = .next t ∧ t.qpState f q = 1 := by
  have hen : isSet (setF v F.HI_QP_CFG_EN 1) F.HI_QP_CFG_EN = true := isSet_setF_one _ _ (by decide) (by decide)
  have hfield (g : Fld) (hg : g.lo ≤ g.hi) (hlt : g.hi < 31) : getF (setF v F.HI_QP_CFG_EN 1) g = getF v g :=
    getF_setF_other _ _ _ _ (by decide) (by decide) hg (.inl hlt)
  have hexec : exec (.qpEnable f q v) s = .next ((s.wr (qpCfg f q) (qpCfgKept (setF v F.HI_QP_CFG_EN 1))).qpOn f q) := by
    refine congrArg Host.Outcome.next ((if_pos ⟨hup, hq⟩).trans ?_)
    have hsize : (decide (4 ≤ getF v F.HI_QP_CFG_SQLOG2) && decide (getF v F.HI_QP_CFG_SQLOG2 ≤ 16) && decide (4 ≤ getF v F.HI_QP_CFG_CQLOG2)
        && decide (getF v F.HI_QP_CFG_CQLOG2 ≤ 16)) = true := by simp [hsq, hsq', hcq, hcq']
    rw [← hfield F.HI_QP_CFG_SQLOG2 (by decide) (by decide), ← hfield F.HI_QP_CFG_CQLOG2 (by decide) (by decide)] at hsize
    unfold State.writeQpCfg
    dsimp only
    rw [hoff, if_pos rfl, hen, hsize]
    rfl
  exact ⟨_, hexec, State.qpState_setFld _ f q (by decide)⟩

theorem State.writeQpCfg_stop {force : Nat} (hon : s.qpState f q = 1) (hforce : force < 2) :
    ∃ new, s.writeQpCfg f q (setF (setF (s.rd (qpCfg f q)) F.HI_QP_CFG_EN 0) F.HI_QP_CFG_FORCE force)
      = if force = 1 then (s.wr (qpCfg f q) new).qpForce f q else (s.wr (qpCfg f q) new).setFld (qpStat f q) F.HI_QP_STAT_STATE 2 := by
  generalize hv : setF (setF (s.rd (qpCfg f q)) F.HI_QP_CFG_EN 0) F.HI_QP_CFG_FORCE force = v
  have hen : isSet v F.HI_QP_CFG_EN = false := by
    rw [← hv, isSet_setF_other _ _ _ _ (by decide) (by decide) (by decide) (by decide), isSet_setF_zero _ _ (by decide) (by decide)]
  have hfield (g : Fld) (hg : g.lo ≤ g.hi) (hlt : g.hi < 30) : getF v g = getF (s.rd (qpCfg f q)) g := by
    rw [← hv, getF_setF_other _ _ _ _ (by decide) (by decide) hg (.inl hlt),
      getF_setF_other _ _ _ _ (by decide) (by decide) hg (.inl (by exact Nat.lt_succ_of_lt hlt))]
  have hforced : isSet v F.HI_QP_CFG_FORCE = decide (force = 1) := by
    rcases (by omega : force = 0 ∨ force = 1) with rfl | rfl
    · rw [← hv, isSet_setF_zero _ _ (by decide) (by decide)]
      rfl
    · rw [← hv, isSet_setF_one _ _ (by decide) (by decide)]
      rfl
  refine ⟨qpCfgKept v, ?_⟩
  have hsame : ¬(getF v F.HI_QP_CFG_SQLOG2 ≠ getF (s.rd (qpCfg f q)) F.HI_QP_CFG_SQLOG2
      ∨ getF v F.HI_QP_CFG_CQLOG2 ≠ getF (s.rd (qpCfg f q)) F.HI_QP_CFG_CQLOG2
      ∨ getF v F.HI_QP_CFG_VEC ≠ getF (s.rd (qpCfg f q)) F.HI_QP_CFG_VEC ∨ false = true ∧ 1 = 2) := by
    rw [hfield _ (by decide) (by decide), hfield _ (by decide) (by decide), hfield _ (by decide) (by decide)]
    simp
  unfold State.writeQpCfg
  dsimp only
  rw [hon, if_neg (by decide), hen, hforced, if_neg hsame, if_neg Bool.false_ne_true, if_neg (by decide : ¬1 = 2)]
  simp only [decide_eq_true_eq]
  rfl

theorem qpStops (hq : q < 64) (hup : s.fnUp f = true) (hon : s.qpState f q = 1) :
    (∃ t, exec (.qpDrain f q) s = .next t ∧ t.qpState f q = 2) ∧ (∃ t, exec (.qpForcedDisable f q) s = .next t ∧ t.qpState f q = 0)
      ∧ ∃ t, exec (.qpError f q false) s = .next t ∧ t.qpState f q = 3 := by
  refine ⟨?_, ?_, ?_⟩
  · obtain ⟨new, hnew⟩ := State.writeQpCfg_stop (force := 0) hon (by decide)
    exact ⟨_, congrArg Host.Outcome.next ((if_pos ⟨hup, hq⟩).trans (hnew.trans (if_neg (by decide)))), State.qpState_setFld _ f q (by decide)⟩
  · obtain ⟨new, hnew⟩ := State.writeQpCfg_stop (force := 1) hon (by decide)
    exact ⟨_, congrArg Host.Outcome.next ((if_pos ⟨hup, hq⟩).trans (hnew.trans (if_pos rfl))), State.qpState_setFld _ f q (by decide)⟩
  · have hon' : (s.setBit (R.HI_QP_STAT f q) F.HI_QP_STAT_DMA_ERR).qpState f q = 1 :=
      (State.fld_setFld_other _ _ _ _ _ (by decide) (by decide) (by decide) (by decide)).trans hon
    have hfail : s.qpFail f q false = ((s.setBit (R.HI_QP_STAT f q) F.HI_QP_STAT_DMA_ERR).setFld (R.HI_QP_STAT f q) F.HI_QP_STAT_STATE 3).logEvent f
        ⟨evQpError, 0, 0, false, leBytes 1 q⟩ := if_pos hon'
    refine ⟨_, congrArg Host.Outcome.next ((if_pos ⟨hup, hq, by omega⟩).trans hfail), ?_⟩
    unfold State.qpState State.fld
    rw [State.rd_logEvent_ne _ _ _ (by unfold R.HI_QP_STAT R.HI_FN_STAT; omega) (by unfold R.HI_QP_STAT R.HI_FN_ELOG_TAIL; omega)]
    exact State.qpState_setFld _ f q (by decide)

theorem qpDrainEnd_completes (hdrain : s.qpState f q = 2) (hnone : s.fld (R.HI_QP_STAT f q) F.HI_QP_STAT_INFLIGHT = 0) :
    ∃ t, exec (.qpDrainEnd f q) s = .next t ∧ t.qpState f q = 0 :=
  ⟨_, congrArg Host.Outcome.next (if_pos ⟨hdrain, hnone⟩), State.qpState_setFld s f q (by decide)⟩

/-! ### A descriptor is fetched, dispatched, completed (R273, R281, R282) -/

theorem descriptorFetch_completes (hup : s.fnUp f = true) (hon : s.qpState f q = 1) {h a : Nat}
    (hhead : s.fld (R.HI_QP_SQ_HEAD f q) F.HI_QP_SQ_HEAD_HEAD = h) (hnew : h ≠ (s.qp f q).sqTail)
    (hroom : (s.qp f q).unread + s.fld (R.HI_QP_STAT f q) F.HI_QP_STAT_INFLIGHT < s.cqSize f q)
    (ha : a = s.pair (R.HI_QP_SQ_BASE_LO f q) (R.HI_QP_SQ_BASE_HI f q) + 64 * h) (hgood : s.hostBad a 64 = false) :
    ∃ t d, exec (.descriptorFetch f q) s = .next t ∧ t.host.descs = s.host.descs ++ [d] ∧ d.raw = s.host.mem.bytes a 64 := by
  subst ha
  have hcount := State.SameBut.count s none 0 none 0x42 64
  have hfree : (!s.fnUp f || decide (s.qpState f q ≠ 1) || h == (s.qp f q).sqTail
      || decide (s.cqSize f q ≤ (s.qp f q).unread + s.fld (qpStat f q) F.HI_QP_STAT_INFLIGHT)) = false := by
    change _ + s.fld (qpStat f q) F.HI_QP_STAT_INFLIGHT < _ at hroom
    simp [hup, hon, hnew, hroom]
  let raw := s.host.mem.bytes (s.pair (R.HI_QP_SQ_BASE_LO f q) (R.HI_QP_SQ_BASE_HI f q) + 64 * h) 64
  let part := if f = 0 then leNat ((raw.drop 2).take 1) / 16 % 4 else f - 1
  refine ⟨_, ⟨s.host.nextId, f, q, h, raw, part, 4, .fetched, 0, [], [], 0, 0⟩, rfl, ?_, rfl⟩
  dsimp only
  rw [hhead, hfree, State.dmaRead_good hgood]
  change (s.count none 0 none 0x42 64).host.descs ++ _ = _
  rw [hcount.host.resolve_left (by simp)]

theorem descriptorDispatch_completes {d : Desc}
    (hfound : (s.host.descs.filter (fun d => d.fn == f && d.qp == q)).find? (fun d => d.st == .fetched) = some d) (hfence : d.fence = false)
    (hcheck : s.checkDesc d = 0) (hslot : s.slotChan d = 4 ∨ s.cmds (s.slotChan d) < 4096) :
    ∃ t, exec (.descriptorDispatch f q) s = .next t ∧ t.host.dispatched = s.host.dispatched + 1 := by
  have hmark : s.SameBut [.regs, .trc] (s.markDesc d tvBegin) := s.mark_sameBut _
  have hhost := hmark.host.resolve_left (by simp)
  have hroom : ¬(s.slotChan d < 4 ∧ 4096 ≤ s.cmds (s.slotChan d)) := by omega
  refine ⟨_, rfl, ?_⟩
  dsimp only
  rw [hfound]
  simp only [hfence, Bool.false_and, Bool.false_eq_true, ↓reduceIte, hcheck, stOk, ne_eq, not_true_eq_false, hroom]
  split
  all_goals
    change (s.markDesc d tvBegin).host.dispatched + 1 = _
    rw [hhost]

theorem length_entryBytes {d : Desc} (hraw : d.raw.length = 64) (head status phase time : Nat) (result : List Byte) :
    (entryBytes d head status phase time result).length = 32 := by
  simp [entryBytes, hraw, padTo_length]

theorem State.hostWrite_good {a : Nat} {bs : List Byte} (h : s.hostBad a bs.length = false) :
    s.hostWrite a bs = ((s.onHost fun h => { h with mem := h.mem.putBytes a bs }).count none 0 none 0x43 bs.length, true) := by
  rw [State.hostWrite, h]
  rfl

/-- What a write to good host memory leaves. -/
theorem State.hostWrite_spec {a : Nat} {bs : List Byte} (h : s.hostBad a bs.length = false) :
    (s.hostWrite a bs).2 = true ∧ (s.hostWrite a bs).1.host.descs = s.host.descs ∧ (s.hostWrite a bs).1.host.mem = s.host.mem.putBytes a bs := by
  rw [State.hostWrite_good h]
  have hhost := (State.SameBut.count (s.onHost fun h => { h with mem := h.mem.putBytes a bs }) none 0 none 0x43 bs.length).host.resolve_left (by simp)
  dsimp only
  rw [hhost]
  exact ⟨rfl, rfl, rfl⟩

/-- The vector of a completion entry leaves the descriptors and host memory alone. -/
theorem State.cqNotify_host (s : State) (f q : Nat) : (s.cqNotify f q).host.descs = s.host.descs ∧ (s.cqNotify f q).host.mem = s.host.mem := by
  unfold State.cqNotify
  dsimp only
  split
  · unfold State.msix
    split <;> exact ⟨rfl, rfl⟩
  · exact ⟨rfl, rfl⟩

/-- The entry of a descriptor is written at the tail of its ring. -/
theorem State.writeEntry_good {d : Desc} (hraw : d.raw.length = 64) (hup : s.fnUp d.fn = true) (hwhole : (s.qp d.fn d.qp).broken = false) {a : Nat}
    (ha : a = s.pair (R.HI_QP_CQ_BASE_LO d.fn d.qp) (R.HI_QP_CQ_BASE_HI d.fn d.qp) + s.fld (R.HI_QP_CQ_TAIL d.fn d.qp) F.HI_QP_CQ_TAIL_TAIL * 32)
    (hgood : s.hostBad a 32 = false) (status : Nat) (result : List Byte) : (s.writeEntry d status result).host.descs = s.host.descs
      ∧ ((s.writeEntry d status result).host.mem.bytes a 32).take 2 = leBytes 2 d.idx := by
  subst ha
  let bs := entryBytes d (s.fld (R.HI_QP_SQ_HEAD d.fn d.qp) F.HI_QP_SQ_HEAD_HEAD) status (s.fld (R.HI_QP_CQ_TAIL d.fn d.qp) F.HI_QP_CQ_TAIL_PHASE) s.tb2 result
  have hlen : bs.length = 32 := length_entryBytes hraw _ _ _ _ _
  have hindex : bs.take 2 = leBytes 2 d.idx := by simp [bs, entryBytes]
  generalize hentry : s.pair (R.HI_QP_CQ_BASE_LO d.fn d.qp) (R.HI_QP_CQ_BASE_HI d.fn d.qp) + s.fld (R.HI_QP_CQ_TAIL d.fn d.qp) F.HI_QP_CQ_TAIL_TAIL * 32 = a
    at hgood
  obtain ⟨hgone, hkept, hput⟩ := State.hostWrite_spec (s := s) (a := a) (bs := bs) (by rwa [hlen])
  have hwrite : s.hostWrite a bs = ((s.hostWrite a bs).1, true) := Prod.ext rfl hgone
  have hbytes := Memory.bytes_putBytes s.host.mem a bs
  rw [hlen] at hbytes
  generalize (s.hostWrite a bs).1 = put at hwrite hkept hput
  unfold State.writeEntry
  dsimp only
  rw [if_neg (by simp [hwhole, hup]), hentry]
  dsimp only [bs] at hwrite
  rw [hwrite]
  dsimp only
  rw [if_neg (by decide)]
  obtain ⟨hdescs, hmem⟩ := State.cqNotify_host (s := _) d.fn d.qp
  rw [hdescs, hmem]
  refine ⟨hkept, ?_⟩
  change (put.host.mem.bytes a 32).take 2 = _
  rw [hput, hbytes, hindex]

theorem descriptorCompletion_completes (hf : f < 5) (hq : q < 64) (hup : s.fnUp f = true) {id a : Nat} {d : Desc}
    (hdone : s.host.descs.find? (fun d => d.id == id && d.st == .done) = some d) (hfn : d.fn = f) (hqp : d.qp = q)
    (hfirst : s.host.descs.find? (fun d => d.id == id) = some d) (hraw : d.raw.length = 64) (hwhole : (s.qp f q).broken = false)
    (ha : a = s.pair (R.HI_QP_CQ_BASE_LO f q) (R.HI_QP_CQ_BASE_HI f q) + s.fld (R.HI_QP_CQ_TAIL f q) F.HI_QP_CQ_TAIL_TAIL * 32)
    (hgood : s.hostBad a 32 = false) : ∃ t, exec (.descriptorCompletion id) s = .next t ∧ t.host.descs = s.host.descs.filter (fun e => e.id != id)
      ∧ (t.host.mem.bytes a 32).take 2 = leBytes 2 d.idx := by
  subst hfn hqp
  let gone := s.onHost fun h => { h with descs := h.descs.filter fun e => e.id != id }
  let left := gone.setFld (R.HI_QP_STAT d.fn d.qp) F.HI_QP_STAT_INFLIGHT (s.fld (R.HI_QP_STAT d.fn d.qp) F.HI_QP_STAT_INFLIGHT - 1)
  have hexec : exec (.descriptorCompletion id) s = .next ((left.markDesc d tvEnd).writeEntry d d.status d.result) := by
    have hcomplete : s.complete id d.status d.result = (left.markDesc d tvEnd).writeEntry d d.status d.result := by
      unfold State.complete
      rw [hfirst]
      rfl
    refine (congrArg Host.Outcome.next ?_).trans (congrArg Host.Outcome.next hcomplete)
    rw [hdone]
  have hmark : left.SameBut [.regs, .trc] (left.markDesc d tvEnd) := left.mark_sameBut _
  have hhost : (left.markDesc d tvEnd).host = gone.host := hmark.host.resolve_left (by simp)
  have hrd (b : Nat) (hdrop : b ≠ R.CH_TRC_DROP 4) (hstat : b ≠ R.HI_QP_STAT d.fn d.qp) : (left.markDesc d tvEnd).rd b = s.rd b :=
    (left.rd_mark _ b hdrop).trans (gone.rd_setFld_ne _ _ hstat)
  have hlo := hrd (R.HI_QP_CQ_BASE_LO d.fn d.qp) (by unfold R.HI_QP_CQ_BASE_LO R.CH_TRC_DROP; omega) (by unfold R.HI_QP_CQ_BASE_LO R.HI_QP_STAT; omega)
  have hhi := hrd (R.HI_QP_CQ_BASE_HI d.fn d.qp) (by unfold R.HI_QP_CQ_BASE_HI R.CH_TRC_DROP; omega) (by unfold R.HI_QP_CQ_BASE_HI R.HI_QP_STAT; omega)
  have htail := hrd (R.HI_QP_CQ_TAIL d.fn d.qp) (by unfold R.HI_QP_CQ_TAIL R.CH_TRC_DROP; omega) (by unfold R.HI_QP_CQ_TAIL R.HI_QP_STAT; omega)
  obtain ⟨hdescs, hentry⟩ := State.writeEntry_good (s := left.markDesc d tvEnd) hraw (by rw [State.fnUp, hhost]; exact hup)
    (by rw [State.qp, hhost]; exact hwhole) (a := a) (by rw [State.pair, State.fld, hlo, hhi, htail]; exact ha)
    (by rw [State.hostBad, hhost]; exact hgood) d.status d.result
  exact ⟨_, hexec, hdescs.trans (congrArg _ hhost), hentry⟩

end

/-- R271-R276, R281, R288, R289: doorbells act, pairs change their state, descriptors are fetched, dispatched, completed. -/
theorem queuesComplete : QueuesComplete := by
  intro s f q hf hq hup
  refine ⟨fun x v hon => ⟨fun hv hx hx16 hdist => doorbellSqTail_completes hq hup hon hv hx hx16 hdist,
    fun hv hx hx16 hadv => doorbellCqHead_completes hq hup hon hv hx hx16 hadv, fun hv hread => doorbellArm_completes hq hup hon hv hread⟩,
    fun v hoff hsq hsq' hcq hcq' => qpEnable_completes hq hup hoff hsq hsq' hcq hcq', fun hon => qpStops hq hup hon,
    fun hdrain hnone => qpDrainEnd_completes hdrain hnone,
    fun h a hon hhead hnew hroom ha hgood => descriptorFetch_completes hup hon hhead hnew hroom ha hgood,
    fun d hfound hfence hcheck hslot _ => descriptorDispatch_completes hfound hfence hcheck hslot,
    fun id d a hdone hfn hqp hfirst hraw hwhole ha hgood => descriptorCompletion_completes hf hq hup hdone hfn hqp hfirst hraw hwhole ha hgood⟩

end Sys2Proof.Machine

namespace Sys2Proof.Machine

/-! ### Transfers between host memory and windows (R279) -/

section
variable {s : State} {id : Nat} {d : Desc}

/-- R279: a transfer in byte form that passes the checks of R236 reads no descriptor. -/
theorem State.hostDest_passes {p x c k a n : Nat} (howns : (s.part p).owns (c / 256) = true) (hslot : s.slotOf c p x = some k)
    (hzero : s.zeroing c k = false) (ha : a < 2 ^ 22) (hin : a + n ≤ s.bound c k) :
    s.hostDest p x c (BitVec.ofNat 32 a) n = (s, .ok (k, none, [(a, n)])) := by
  have hdesc : s.checkDescWords c k (BitVec.ofNat 32 a) = (s, none) := by
    rw [State.checkDescWords, aPlane_ofNat ha]
    rfl
  rw [State.hostDest, State.destCheck_passes howns hslot hzero ha hin]
  dsimp only
  rw [hdesc]

theorem State.checkRange_unmarked (hue : s.ue = []) (hce : s.ce = []) (c k a n : Nat) : s.checkRange c k a n = (s, none) := by
  rw [State.checkRange, hue, hce]
  rfl

theorem State.checkRanges_unmarked (hue : s.ue = []) (hce : s.ce = []) (c k : Nat) (l : List (Nat × Nat)) : s.checkRanges c k l = (s, none) := by
  induction l with
  | nil => rfl
  | cons r l ih =>
    rw [State.checkRanges, State.checkRange_unmarked hue hce]
    exact ih

theorem State.take_bytes (s : State) (c k a n : Nat) : s.take c (k, none, [(a, n)]) n = s.winBytes c k a n := by
  have hlen : (s.winBytes c k a n).length = n := Memory.bytes_length _ _ _
  change List.take n ([(a, n)].flatMap fun r => s.winBytes c k r.1 r.2) = _
  rw [List.flatMap_singleton, List.take_of_length_le hlen.le]

/-- R279: bytes of a window reach good host memory. -/
theorem State.toHost_passes {p x c k a n h : Nat} (howns : (s.part p).owns (c / 256) = true) (hslot : s.slotOf c p x = some k)
    (hzero : s.zeroing c k = false) (ha : a < 2 ^ 22) (hin : a + n ≤ s.bound c k) (hue : s.ue = []) (hce : s.ce = [])
    (hgood : s.hostBad h n = false) :
    s.toHost p x c (BitVec.ofNat 32 a) n h = ((s.hostWrite h (s.winBytes c k a n)).1, stOk) := by
  have hlen : (s.winBytes c k a n).length = n := Memory.bytes_length _ _ _
  rw [State.toHost, State.hostDest_passes howns hslot hzero ha hin]
  dsimp only
  rw [State.checkRanges_unmarked hue hce]
  dsimp only
  rw [State.take_bytes, State.hostWrite_good (by rwa [hlen])]

theorem nop_completes (hready : s.ready id 0 = some d) : ∃ t, exec (.nop id) s = .next t ∧ t.host.descs = finished s.host.descs id 0 [] := by
  have hexec : exec (.nop id) s = .next (s.finish id stOk []) := congrArg Host.Outcome.next (by rw [hready])
  exact ⟨_, hexec, rfl⟩

theorem loadTensor_completes {c k a n : Nat} (hc : c = d.at_ 20 2) (ha : a = d.at_ 24 4) (hn : n = d.at_ 16 4) (halow : a < 2 ^ 22)
    (hstill : s.holds c = false) (howns : (s.part d.part).owns (c / 256) = true) (hslot : s.slotOf c d.part d.ctx = some k)
    (hzero : s.zeroing c k = false) (hin : a + n ≤ s.bound c k) (hgood : s.hostBad (d.at_ 8 8) n = false)
    (hready : s.ready id 2 = some d) (hquiet : bitOf (d.at_ 1 1) 1 = false) :
    ∃ t, exec (.loadTensor id) s = .next t ∧ t.host.descs = finished s.host.descs id 0 []
      ∧ t.scratch.bytes (cellKey c (s.phys c k a)) n = s.host.mem.bytes (d.at_ 8 8) n := by
  let bs := s.host.mem.bytes (d.at_ 8 8) n
  have hlen : bs.length = n := Memory.bytes_length _ _ _
  let counted := s.count none 0 none 0x42 n
  have hcount : s.SameBut [.trc] counted := .count _ _ _ _ _ _
  have hexec : exec (.loadTensor id) s = .next (((counted.place c (k, none, [(a, n)]) bs).countLoad d.part d.ctx).finish id stOk []) := by
    refine congrArg Host.Outcome.next ?_
    dsimp only
    rw [hready]
    dsimp only
    rw [← hc, ← ha, ← hn, hstill, State.hostDest_passes howns hslot hzero halow hin]
    dsimp only
    rw [State.dmaRead_good hgood, hquiet]
    rfl
  obtain ⟨hscratch, hplace⟩ := counted.place_spec c k a bs
  rw [hlen] at hscratch hplace
  have hload : (counted.place c (k, none, [(a, n)]) bs).SameBut [.parts] ((counted.place c (k, none, [(a, n)]) bs).countLoad d.part d.ctx) :=
    .onCtx _ _ _ _
  have hfinish := ((counted.place c (k, none, [(a, n)]) bs).countLoad d.part d.ctx).finish_sameBut id stOk []
  refine ⟨_, hexec, ?_, ?_⟩
  · rw [State.finish_descs, hload.host.resolve_left (by simp), hplace.host.resolve_left (by simp), hcount.host.resolve_left (by simp)]
    rfl
  · rw [hfinish.scratch.resolve_left (by simp), hload.scratch.resolve_left (by simp), hscratch, hcount.phys_eq (by simp)]
    have hput := Memory.bytes_putBytes counted.scratch (cellKey c (s.phys c k a)) bs
    rwa [hlen] at hput

theorem storeTensor_completes {c k a n : Nat} (hc : c = d.at_ 20 2) (ha : a = d.at_ 24 4) (hn : n = d.at_ 16 4) (halow : a < 2 ^ 22)
    (hstill : s.holds c = false) (howns : (s.part d.part).owns (c / 256) = true) (hslot : s.slotOf c d.part d.ctx = some k)
    (hzero : s.zeroing c k = false) (hin : a + n ≤ s.bound c k) (hgood : s.hostBad (d.at_ 8 8) n = false)
    (hue : s.ue = []) (hce : s.ce = []) (hready : s.ready id 3 = some d) :
    ∃ t, exec (.storeTensor id) s = .next t ∧ t.host.descs = finished s.host.descs id 0 []
      ∧ t.host.mem.bytes (d.at_ 8 8) n = s.scratch.bytes (cellKey c (s.phys c k a)) n := by
  have hlen : (s.winBytes c k a n).length = n := Memory.bytes_length _ _ _
  have hexec : exec (.storeTensor id) s = .next ((s.hostWrite (d.at_ 8 8) (s.winBytes c k a n)).1.finish id stOk []) := by
    refine congrArg Host.Outcome.next ?_
    dsimp only
    rw [hready]
    dsimp only
    rw [← hc, ← ha, ← hn, hstill, State.toHost_passes howns hslot hzero halow hin hue hce hgood]
    rfl
  obtain ⟨-, hdescs, hmem⟩ := State.hostWrite_spec (s := s) (a := d.at_ 8 8) (bs := s.winBytes c k a n) (by rwa [hlen])
  refine ⟨_, hexec, ?_, ?_⟩
  · rw [State.finish_descs, hdescs]
    rfl
  · have hput := Memory.bytes_putBytes s.host.mem (d.at_ 8 8) (s.winBytes c k a n)
    rw [hlen] at hput
    change (s.hostWrite (d.at_ 8 8) (s.winBytes c k a n)).1.host.mem.bytes (d.at_ 8 8) n = _
    rw [hmem, hput]
    rfl

theorem digestRead_completes {g : List Byte} (hready : s.ready id 12 = some d) (hkind : d.at_ 18 1 = 1)
    (hlast : (s.ctx d.part d.ctx).lastDigest = g) (hg : g ≠ []) (hgood : s.hostBad (d.at_ 8 8) g.length = false) :
    ∃ t, exec (.digestRead id) s = .next t ∧ t.host.mem.bytes (d.at_ 8 8) g.length = g := by
  have hexec : exec (.digestRead id) s = .next ((s.hostWrite (d.at_ 8 8) g).1.finish id stOk (leBytes 4 1)) := by
    refine congrArg Host.Outcome.next ?_
    dsimp only
    rw [hready]
    dsimp only
    rw [hkind, hlast, if_neg (by decide), if_neg (by simpa using hg), State.hostWrite_good hgood]
  obtain ⟨-, -, hmem⟩ := State.hostWrite_spec hgood
  refine ⟨_, hexec, ?_⟩
  change (s.hostWrite (d.at_ 8 8) g).1.host.mem.bytes (d.at_ 8 8) g.length = g
  rw [hmem]
  exact Memory.bytes_putBytes _ _ _

/-! ### Share donation leaves the queues of steps alone (R312, R313) -/

theorem State.queue_onCtx (s : State) (p x : Nat) {f : CtxSt → CtxSt} (hf : ∀ t, (f t).queue = t.queue) (q y : Nat) :
    ((s.onCtx p x f).ctx q y).queue = (s.ctx q y).queue := by
  rw [State.ctx_onCtx]
  split
  · next h =>
    obtain ⟨rfl, rfl⟩ := h
    exact hf _
  · rfl

theorem State.queue_withdrawStep (s : State) (p w h obj q x : Nat) : ((s.withdrawStep p w h obj).ctx q x).queue = (s.ctx q x).queue := by
  have hstopped : s.SameBut [.cores] (s.each (s.runningCores p w) fun u c => u.onCore c fun y => { y with stopped := true }) :=
    State.each_keeps (P := fun u => s.SameBut [.cores] u) _ (.refl s _) fun u c hu => hu.trans (.onCore u c _)
  unfold State.withdrawStep State.stopCores
  dsimp only
  rw [(State.dropWaits_aside _ p w).ctx_eq, State.queue_onCtx _ _ _ (by exact fun _ => rfl), State.queue_onCtx _ _ _ (by exact fun _ => rfl),
    hstopped.ctx_eq (by simp)]

theorem State.queue_checkDonations (s : State) (q x : Nat) : (s.checkDonations.ctx q x).queue = (s.ctx q x).queue := by
  refine State.each_keeps (P := fun u => (u.ctx q x).queue = (s.ctx q x).queue) _ rfl fun u p hu => ?_
  unfold State.checkDonation
  split
  · exact hu
  · dsimp only
    split
    · exact hu
    · split
      · exact (u.queue_withdrawStep p _ _ _ q x).trans hu
      · exact hu

/-- Where no running step may be withdrawn, no donation starts. -/
theorem State.checkDonations_none (h : NoDonation s) : s.checkDonations = s := by
  refine List.foldlRecOn (motive := fun u => u = s) _ _ rfl fun u hu p hp => ?_
  subst hu
  unfold State.checkDonation
  split
  · rfl
  · next w hcur =>
    have hstays := h p w (List.mem_range.mp hp) hcur
    exact if_pos (by simp [hstays])

/-! ### Sync descriptors (R243, R245, R278, R284) -/

theorem State.applySignal_aside (s : State) (obj a : Nat) (hold : Option Nat) : s.Aside (s.applySignal obj a hold) := by
  have hcount : s.Aside (s.countSync obj hold) := (State.SameBut.count s _ _ _ _ _).aside
  unfold State.applySignal
  dsimp only
  split
  · exact hcount.trans (State.wr_aside _ _ _)
  · split
    · refine .trans ?_ (State.evaluate_aside _ _)
      have hovf (u : State) (v : Nat) : u.Aside (if 2 ^ 32 ≤ v then u.setBit (sstatReg obj) F.SYNC_STAT_OVF else u) := by
        split
        · exact u.wr_aside _ _
        · exact .refl u
      have hclear (u : State) : u.Aside (if hold = some (normHold (u.rd (holdReg obj)).toNat) then u.setFld (holdReg obj) F.SYNC_HOLDER_HVALID 0 else u) := by
        split
        · exact u.wr_aside _ _
        · exact .refl u
      exact (((hcount.trans (hovf _ _)).trans (State.wr_aside _ _ _)).trans (State.noteUndo_aside _ _ _ _)).trans (hclear _)
    · split
      · exact hcount
      · exact (hcount.trans (State.noteUndo_aside _ _ _ _)).trans (State.arrivals_aside _ _ _)
    · exact ((hcount.trans (State.wr_aside _ _ _)).trans (State.noteUndo_aside _ _ _ _)).trans (State.evaluate_aside _ _)

theorem State.Aside.noDonation {t : State} (h : s.Aside t) (hnone : NoDonation s) : NoDonation t := fun q x hq hcur => by
  obtain ⟨-, -, -, hsame⟩ := h.reset_eq q
  rw [h.ctx_eq]
  exact hnone q x hq (hsame ▸ hcur)

theorem syncSignal_completes {obj : Nat} (hobj : obj = d.at_ 8 4 % 2 ^ 16) (hen : s.bit (cfgReg obj) F.SYNC_CFG_EN = true)
    (hkind : s.fld (cfgReg obj) F.SYNC_CFG_KIND = 0) (hqueue : s.queue obj = []) (hready : s.ready id 5 = some d) (hnone : NoDonation s) :
    ∃ t, exec (.syncSignal id) s = .next t
      ∧ (t.rd (valReg obj)).toNat = min ((s.rd (valReg obj)).toNat + d.at_ 12 4) (2 ^ 32 - 1) := by
  have hexec : exec (.syncSignal id) s = .next ((s.applySignal obj (d.at_ 12 4) none).finish id stOk []) := by
    refine congrArg Host.Outcome.next ?_
    rw [hready]
    dsimp only
    rw [← hobj, State.checkDonations_none ((s.applySignal_aside _ _ _).noDonation hnone)]
  obtain ⟨-, hval⟩ := State.applySignal_sem (d.at_ 12 4) none hen hkind hqueue
  exact ⟨_, hexec, hval⟩

theorem State.queue_setQueue (s : State) (obj : Nat) (l : List Waiter) : (s.setQueue obj l).queue obj = l := FMap.get_set_self _ _ _ _

/-- The one waiter of a semaphore takes its argument, if VALUE suffices (R243). -/
theorem State.serve_takes {obj : Nat} {w : Waiter} (hkind : s.fld (cfgReg obj) F.SYNC_CFG_KIND = 0) (hqueue : s.queue obj = [w])
    (hhold : w.hold = none) (harg : w.arg ≤ (s.rd (valReg obj)).toNat) :
    (s.serve obj 1).rd (valReg obj) = BitVec.ofNat 32 ((s.rd (valReg obj)).toNat - w.arg) := by
  have hnote := State.noteUndo_sameBut (s.wr (valReg obj) (BitVec.ofNat 32 ((s.rd (valReg obj)).toNat - w.arg))) obj none
    (fun x => { x with took := x.took + w.arg })
  unfold State.serve
  rw [hqueue]
  dsimp only
  rw [if_pos hkind, if_neg (Nat.not_lt.mpr harg), hhold]
  exact (hnote.rd_eq (by simp) _).trans (State.rd_wr_self _ _ _)

/-- A wait that a semaphore with nobody waiting can grant is released at once. -/
theorem State.applyWait_grants {obj arg : Nat} (who : Who) (hen : s.bit (cfgReg obj) F.SYNC_CFG_EN = true)
    (hkind : s.fld (cfgReg obj) F.SYNC_CFG_KIND = 0) (hqueue : s.queue obj = []) (halive : s.bit (sstatReg obj) F.SYNC_STAT_ABANDONED = false)
    (harg : arg ≤ (s.rd (valReg obj)).toNat) :
    ((s.applyWait obj 0 arg who none).rd (valReg obj)).toNat + arg = (s.rd (valReg obj)).toNat := by
  have hcount : s.SameBut [.trc] (s.countSync obj none) := State.SameBut.count s _ _ _ _ _
  have hrd := hcount.rd_eq (by simp)
  have hqueue' : (s.countSync obj none).queue obj = [] := by rwa [State.queue, hcount.noc.resolve_left (by simp)]
  have hkind' : (s.countSync obj none).fld (cfgReg obj) F.SYNC_CFG_KIND = 0 := by rwa [State.fld, hrd]
  let queued := (s.countSync obj none).setQueue obj [⟨0, arg, who, none⟩]
  have hwait : s.applyWait obj 0 arg who none = queued.serve obj 1 := by
    have hmatch : (!isSet ((s.countSync obj none).rd (cfgReg obj)) F.SYNC_CFG_EN
        || decide (getF ((s.countSync obj none).rd (cfgReg obj)) F.SYNC_CFG_KIND ≠ 0)) = false := by
      rw [State.fld] at hkind'
      rw [State.bit] at hen
      rw [hkind', hrd, hen]
      rfl
    have halive' : (s.countSync obj none).bit (sstatReg obj) F.SYNC_STAT_ABANDONED = false := by rwa [State.bit, hrd]
    have hone : queued.fld (cfgReg obj) F.SYNC_CFG_KIND ≠ 1 := by
      change (s.countSync obj none).fld (cfgReg obj) F.SYNC_CFG_KIND ≠ 1
      rw [hkind']
      decide
    have heval : queued.evaluate obj = queued.serve obj 1 := by
      rw [State.evaluate, if_neg hone, State.queue_setQueue]
      rfl
    unfold State.applyWait
    dsimp only
    rw [if_neg (by rw [← Bool.not_eq_false]; simpa using hmatch), if_neg (by rw [halive']; decide), hqueue', if_neg (by decide)]
    exact heval
  have harg' : arg ≤ (queued.rd (valReg obj)).toNat := by
    change arg ≤ ((s.countSync obj none).rd (valReg obj)).toNat
    rwa [hrd]
  have hvalue : (queued.rd (valReg obj)).toNat = (s.rd (valReg obj)).toNat := congrArg BitVec.toNat (hrd (valReg obj))
  rw [hwait, State.serve_takes (s := queued) (w := ⟨0, arg, who, none⟩) hkind' (State.queue_setQueue _ _ _) rfl harg', hvalue, BitVec.toNat_ofNat]
  change ((s.rd (valReg obj)).toNat - arg) % 2 ^ 32 + arg = (s.rd (valReg obj)).toNat
  have := (s.rd (valReg obj)).isLt
  omega

theorem syncWait_completes {obj : Nat} (hobj : obj = d.at_ 8 4 % 2 ^ 16) (hen : s.bit (cfgReg obj) F.SYNC_CFG_EN = true)
    (hkind : s.fld (cfgReg obj) F.SYNC_CFG_KIND = 0) (hqueue : s.queue obj = []) (hready : s.ready id 6 = some d) (hsem : d.at_ 12 1 = 0)
    (halive : s.bit (sstatReg obj) F.SYNC_STAT_ABANDONED = false) (harg : d.at_ 16 4 ≤ (s.rd (valReg obj)).toNat) :
    ∃ t, exec (.syncWait id) s = .next t ∧ (t.rd (valReg obj)).toNat + d.at_ 16 4 = (s.rd (valReg obj)).toNat := by
  let sent := s.setDesc id fun d => { d with st := .dispatched }
  have hexec : exec (.syncWait id) s = .next (sent.applyWait obj 0 (d.at_ 16 4) (.desc id) none) := by
    refine congrArg Host.Outcome.next ?_
    rw [hready]
    dsimp only
    rw [← hobj, hsem]
  exact ⟨_, hexec, State.applyWait_grants (s := sent) _ hen hkind hqueue halive harg⟩

theorem syncWaitTimeout_completes {w : Waiter} {obj : Nat} (hobj : obj = d.at_ 8 4 % 2 ^ 16)
    (hfound : s.host.descs.find? (fun d => d.id == id && d.st == .dispatched && d.opcode == 6) = some d) (hlimit : d.at_ 20 4 ≠ 0)
    (hqueue : s.queue obj = [w]) (hwho : w.who = .desc id) (hkind : s.fld (cfgReg obj) F.SYNC_CFG_KIND ≠ 1) :
    ∃ t, exec (.syncWaitTimeout id) s = .next t ∧ t.host.descs = finished s.host.descs id 0x12 [] ∧ t.queue obj = [] := by
  have hleaves : (s.setQueue obj []).evaluate obj = s.setQueue obj [] := by
    rw [State.evaluate, if_neg (by exact hkind), State.queue_setQueue]
    rfl
  have hexec : exec (.syncWaitTimeout id) s = .next ((s.setQueue obj []).finish id stTimeout []) := by
    refine congrArg Host.Outcome.next ?_
    rw [hfound]
    dsimp only
    rw [← hobj, hqueue, if_neg (by simp [hlimit, hwho]), show [w].filter (fun w => w.who != .desc id) = [] by simp [hwho], hleaves]
  exact ⟨_, hexec, rfl, State.queue_setQueue _ _ _⟩

/-! ### RUN_STEP and FROG (R298, R299, R315) -/

theorem runStep_completes {bs : List (List Byte)} (hready : s.ready id 4 = some d) (hon : s.chansOn d.part = true)
    (hgood : s.hostBad (d.at_ 8 8) (32 * d.at_ 16 2) = false)
    (hbs : bs = chunksOf 32 (d.at_ 16 2) (s.host.mem.bytes (d.at_ 8 8) (32 * d.at_ 16 2))) (hform : bs.any sliceBad = false)
    (hseqs : (bs.map sliceSeq).eraseDups.length = d.at_ 16 2) (hrange : bs.any (sliceBeyond (s.sliceLen d.part)) = false)
    (hin : ∀ r ∈ (s.ctx d.part d.ctx).cores, d.at_ 20 4 + (32 + 32 * d.at_ 16 2) ≤ s.bound r.core r.slot) :
    ∃ t, exec (.runStep id) s = .next t
      ∧ (t.ctx d.part d.ctx).queue = (s.ctx d.part d.ctx).queue ++ [⟨d.at_ 20 4, bs, id, d.order⟩] := by
  let counted := s.count none 0 none 0x42 (32 * d.at_ 16 2)
  have hcount : s.SameBut [.trc] counted := .count _ _ _ _ _ _
  let sent := counted.setDesc id fun d => { d with st := .dispatched }
  have hlen : counted.sliceLen d.part = s.sliceLen d.part := State.sliceLen_of_chmask (by rw [hcount.part_eq (by simp)])
  have hfits : (counted.ctx d.part d.ctx).cores.any (fun r => (beyond (counted.bound r.core r.slot) (d.at_ 20 4) (32 + 32 * d.at_ 16 2)).isSome) = false := by
    rw [List.any_eq_false, hcount.ctx_eq (by simp)]
    intro r hr
    rw [hcount.bound_eq (by simp)]
    simp [beyond, hin r hr]
  have hexec : exec (.runStep id) s = .next ((sent.queueStep d.part d.ctx ⟨d.at_ 20 4, bs, id, d.order⟩).checkDonations) := by
    refine congrArg Host.Outcome.next ?_
    rw [hready]
    dsimp only
    rw [hon, State.dmaRead_good hgood]
    dsimp only
    rw [← hbs, hform, if_neg (by decide), if_neg (by simp [hseqs]), if_neg ?_]
    change ¬(bs.any (sliceBeyond (counted.sliceLen d.part)) || (counted.ctx d.part d.ctx).cores.any _) = true
    rw [hlen, hrange, hfits]
    decide
  refine ⟨_, hexec, ?_⟩
  rw [State.queue_checkDonations]
  unfold State.queueStep
  dsimp only
  rw [State.queue_select, State.ctx_onCtx_self]
  change (counted.ctx d.part d.ctx).queue ++ _ = _
  rw [hcount.ctx_eq (by simp)]

theorem frog_completes (hready : s.ready id 14 = some d) (hdown : (s.ctx d.part d.ctx).state ≠ .teardown) (hexists : (s.ctx d.part d.ctx).state ≠ .none) :
    ∃ t, exec (.frog id) s = .next t ∧ (t.ctx d.part d.ctx).state = .teardown := by
  have hexec : exec (.frog id) s = .next ((s.setDesc id fun d => { d with st := .dispatched }).beginTeardown d.part d.ctx none (some id)) := by
    refine congrArg Host.Outcome.next ?_
    rw [hready]
    dsimp only
    rw [if_neg hdown, if_neg hexists]
  obtain ⟨hstate, -⟩ := (s.setDesc id fun d => { d with st := .dispatched }).beginTeardown_spec d.part d.ctx none (some id)
  exact ⟨_, hexec, hstate⟩

/-! ### Pages (R208, R307-R309) -/

theorem pagesComplete {offs : List Nat} (hin : ∀ o ∈ offs, o + 4 ≤ s.sliceLen d.part) :
    (∀ gs : List PoolGroup, s.ready id 7 = some d → offs = namedEntries d 8 → (∀ o ∈ offs, bitOf (s.sliceU32 d.part o) 31 = false) →
        gs = ((s.part d.part).pool.filter (fun g => g.st == .free)).take offs.length → gs.length = offs.length →
      ∃ t, exec (.pageAlloc id) s = .next t ∧ t.host.descs = finished s.host.descs id 0 (leBytes 4 offs.length))
    ∧ (s.ready id 8 = some d → offs = namedEntries d 8 → s.Freeable d.part offs → (∀ q ∈ (s.ctx d.part d.ctx).queue, d.order ≤ q.order) →
      ∃ t, exec (.pageFree id) s = .next t ∧ (∀ o ∈ offs, bitOf (t.sliceU32 d.part o) 31 = false))
    ∧ (s.ready id 9 = some d → offs = namedEntries d 16 → s.hostBad (d.at_ 8 8) (4 * offs.length) = false →
      ∃ t, exec (.pageTableWrite id) s = .next t ∧ t.host.descs = finished s.host.descs id 0 []) := by
  refine ⟨fun gs hready hoffs hinvalid hgs hlen => ?_, fun hready hoffs hfree hlate => ?_, fun hready hoffs hgood => ?_⟩
  · obtain ⟨t, hexec, hdescs, -⟩ := pageAlloc_spec hready hoffs hin hinvalid hgs hlen
    exact ⟨t, hexec, hdescs⟩
  · obtain ⟨t, hexec, -, hclear, -⟩ := pageFree_released hready hoffs hin hfree (State.lastStep_none hlate)
    exact ⟨t, hexec, hclear⟩
  · obtain ⟨t, hexec, hdescs, -⟩ := pageTableWrite_spec hready hoffs hin hgood
    exact ⟨t, hexec, hdescs⟩

end

end Sys2Proof.Machine

namespace Sys2Proof.Machine

/-! ### What AES-256-GCM gives are bytes (R476) -/

/-- The pieces of a list hold elements of it. -/
theorem mem_of_mem_chunksOf {α : Type} {n fuel : Nat} {l c : List α} {v : α} (hc : c ∈ chunksOf n fuel l) (hv : v ∈ c) : v ∈ l := by
  induction fuel generalizing l with
  | zero => exact absurd hc List.not_mem_nil
  | succ fuel ih =>
    rw [chunksOf] at hc
    split at hc
    · exact absurd hc List.not_mem_nil
    · rcases List.mem_cons.mp hc with rfl | hc
      · exact List.mem_of_mem_take hv
      · exact List.mem_of_mem_drop (ih hc)

/-- Every number of a list is a byte. -/
def AllBytes (l : List Nat) : Prop := ∀ v ∈ l, v < 256

theorem AllBytes.append {a b : List Nat} (ha : AllBytes a) (hb : AllBytes b) : AllBytes (a ++ b) := fun v hv =>
  (List.mem_append.mp hv).elim (ha v) (hb v)

theorem AllBytes.flatten {l : List (List Nat)} (h : ∀ w ∈ l, AllBytes w) : AllBytes l.flatten := fun v hv => by
  obtain ⟨w, hw, hvw⟩ := List.mem_flatten.mp hv
  exact h w hw v hvw

theorem AllBytes.nth {l : List Nat} (h : AllBytes l) (i : Nat) : nth 0 l i < 256 := by
  unfold Machine.nth
  rw [List.getD_eq_getElem?_getD]
  cases hi : l[i]? with
  | none => decide
  | some v => exact h v (List.mem_of_getElem? hi)

theorem AllBytes.nthWord {l : List (List Nat)} (h : ∀ w ∈ l, AllBytes w) (i : Nat) : AllBytes (Machine.nth [] l i) := by
  unfold Machine.nth
  rw [List.getD_eq_getElem?_getD]
  cases hi : l[i]? with
  | none => exact fun v hv => absurd hv List.not_mem_nil
  | some w => exact h w (List.mem_of_getElem? hi)

theorem xor_lt_byte {a b : Nat} (ha : a < 256) (hb : b < 256) : a ^^^ b < 256 := Nat.xor_lt_two_pow (n := 8) ha hb

theorem AllBytes.xorBytes {a b : List Nat} (ha : AllBytes a) (hb : AllBytes b) : AllBytes (xorBytes a b) := by
  intro v hv
  unfold Machine.xorBytes at hv
  obtain ⟨i, hi, rfl⟩ := List.mem_iff_getElem.mp hv
  rw [List.getElem_zipWith]
  exact xor_lt_byte (ha _ (List.getElem_mem _)) (hb _ (List.getElem_mem _))

theorem allBytes_sbox : AllBytes aesSbox := by
  unfold AllBytes
  decide +kernel

theorem aesSub_lt (x : Nat) : aesSub x < 256 := allBytes_sbox.nth x

theorem allBytes_sub (l : List Nat) : AllBytes (l.map aesSub) := fun v hv => by
  obtain ⟨x, -, rfl⟩ := List.mem_map.mp hv
  exact aesSub_lt x

theorem aesX_lt : ∀ v < 256, aesX v < 256 := by decide +kernel

theorem AllBytes.nextWord {ws : List (List Nat)} (h : ∀ w ∈ ws, AllBytes w) {rcon : Nat} (hrcon : rcon < 256) (i : Nat) :
    AllBytes (aesNextWord ws rcon i) := by
  unfold aesNextWord
  dsimp only
  refine (AllBytes.nthWord h _).xorBytes ?_
  split
  · intro v hv
    rcases List.mem_cons.mp hv with rfl | hv
    · exact xor_lt_byte ((allBytes_sub _).nth 0) hrcon
    · exact allBytes_sub _ v (List.mem_of_mem_drop hv)
  · split
    · exact allBytes_sub _
    · exact AllBytes.nthWord h _

theorem AllBytes.expand {fuel rcon : Nat} {ws : List (List Nat)} (h : ∀ w ∈ ws, AllBytes w) (hrcon : rcon < 256) :
    ∀ w ∈ aesExpand fuel rcon ws, AllBytes w := by
  induction fuel generalizing rcon ws with
  | zero => exact h
  | succ fuel ih =>
    refine ih (fun w hw => ?_) ?_
    · rcases List.mem_append.mp hw with hw | hw
      · exact h w hw
      · rw [List.mem_singleton.mp hw]
        exact .nextWord h hrcon _
    · split
      · exact aesX_lt _ hrcon
      · exact hrcon

theorem AllBytes.keys {key : List Nat} (h : AllBytes key) : ∀ k ∈ aesKeys key, AllBytes k := by
  intro k hk
  obtain ⟨c, hc, rfl⟩ := List.mem_map.mp hk
  exact .flatten fun w hw => AllBytes.expand (fun c hc v hv => h v (mem_of_mem_chunksOf hc hv)) (by decide) w (mem_of_mem_chunksOf hc hw)

theorem AllBytes.shift {b : List Nat} (h : AllBytes b) : AllBytes (aesShift b) := fun v hv => by
  obtain ⟨i, -, rfl⟩ := List.mem_map.mp hv
  exact h.nth _

theorem AllBytes.mixCol {c : List Nat} (h : AllBytes c) : AllBytes (aesMixCol c) := by
  have hall : c.foldl (· ^^^ ·) 0 < 256 :=
    List.foldlRecOn (motive := fun v => v < 256) c _ (by decide) fun v hv x hx => xor_lt_byte hv (h x hx)
  intro v hv
  obtain ⟨i, -, rfl⟩ := List.mem_map.mp hv
  exact xor_lt_byte (xor_lt_byte (h.nth _) hall) (aesX_lt _ (xor_lt_byte (h.nth _) (h.nth _)))

theorem AllBytes.rounds {ks : List (List Nat)} (hks : ∀ k ∈ ks, AllBytes k) {b : List Nat} (hb : AllBytes b) : AllBytes (aesRounds ks b) := by
  induction ks generalizing b with
  | nil => exact hb
  | cons k ks ih =>
    have hk := hks k List.mem_cons_self
    have hshift : AllBytes (aesShift (b.map aesSub)) := (allBytes_sub b).shift
    cases ks with
    | nil => exact hshift.xorBytes hk
    | cons k' ks =>
      refine ih (fun q hq => hks q (List.mem_cons_of_mem _ hq)) (AllBytes.xorBytes (.flatten fun w hw => ?_) hk)
      obtain ⟨c, hc, rfl⟩ := List.mem_map.mp hw
      exact AllBytes.mixCol fun v hv => hshift v (mem_of_mem_chunksOf hc hv)

theorem AllBytes.block {ks : List (List Nat)} (hks : ∀ k ∈ ks, AllBytes k) {b : List Nat} (hb : AllBytes b) : AllBytes (aesBlock ks b) :=
  .rounds (fun k hk => hks k (List.mem_of_mem_drop hk)) (hb.xorBytes (AllBytes.nthWord hks 0))

theorem allBytes_natsOf (bs : List Byte) : AllBytes (natsOf bs) := fun v hv => by
  obtain ⟨b, -, rfl⟩ := List.mem_map.mp hv
  exact b.isLt

theorem allBytes_natBlock (v : Nat) : AllBytes (natBlock v) := fun x hx => by
  obtain ⟨i, -, rfl⟩ := List.mem_map.mp hx
  exact Nat.mod_lt _ (by decide)

theorem AllBytes.ctr {ks : List (List Nat)} (hks : ∀ k ∈ ks, AllBytes k) {iv m : List Nat} (hiv : AllBytes iv) (hm : AllBytes m) :
    AllBytes (gcmCtr ks iv m) := by
  refine .flatten fun w hw => ?_
  obtain ⟨q, hq, rfl⟩ := List.mem_map.mp hw
  obtain ⟨-, -, hmem⟩ := List.mem_zipIdx hq
  refine AllBytes.xorBytes (fun v hv => hm v (mem_of_mem_chunksOf (hmem ▸ List.getElem_mem _) hv)) (.block hks (hiv.append fun v hv => ?_))
  exact allBytes_natBlock _ v (List.mem_of_mem_drop hv)

theorem natsOf_bytesOf {l : List Nat} (h : AllBytes l) : natsOf (bytesOf l) = l := by
  unfold natsOf bytesOf
  rw [List.map_map]
  refine (List.map_congr_left fun v hv => ?_).trans (List.map_id l)
  exact Nat.mod_eq_of_lt (h v hv)

/-- What authenticated encryption closes carries the tag that its opening asks for. -/
theorem gcmOpen_gcmSeal (key iv aad m : List Byte) : (gcmOpen key iv aad (gcmSeal key iv aad m).1 (gcmSeal key iv aad m).2).isSome = true := by
  have hctr : AllBytes (gcmCtr (aesKeys (natsOf key)) (natsOf iv) (natsOf m)) :=
    .ctr (AllBytes.keys (allBytes_natsOf key)) (allBytes_natsOf iv) (allBytes_natsOf m)
  unfold gcmOpen gcmSeal
  generalize aesKeys (natsOf key) = ks at hctr ⊢
  dsimp only
  rw [natsOf_bytesOf hctr, if_pos rfl]
  rfl

/-! ### The chunks of a spill image (R476) -/

/-- A list is cut into as many pieces as its length asks for. -/
theorem length_chunksOf_ceil {α : Type} {n fuel : Nat} {l : List α} (h : n * fuel < l.length + n) : (chunksOf n fuel l).length = fuel := by
  induction fuel generalizing l with
  | zero => rfl
  | succ fuel ih =>
    rw [Nat.mul_succ] at h
    rw [chunksOf, if_neg (by rw [List.isEmpty_iff]; rintro rfl; simp at h), List.length_cons, ih]
    rw [List.length_drop]
    rcases Nat.lt_or_ge l.length n with hl | hl <;> omega

/-- A chunk of an image: its ciphertext and its tag. -/
def sealChunk (key head : List Byte) (spn : Nat) (q : List Byte × Nat) : List Byte :=
  let r := gcmSeal key (spillIv spn q.2) (head ++ leBytes 4 q.2) (padTo 0#8 4096 q.1)
  r.1 ++ r.2

theorem length_spillIv (spn i : Nat) : (spillIv spn i).length = 12 := by simp [spillIv, beBytes]

section
variable {key head : List Byte} (hkey : key.length = 32)
include hkey

theorem sealChunk_parts (spn : Nat) (q : List Byte × Nat) :
    (sealChunk key head spn q).take 4096 = (gcmSeal key (spillIv spn q.2) (head ++ leBytes 4 q.2) (padTo 0#8 4096 q.1)).1
      ∧ (sealChunk key head spn q).drop 4096 = (gcmSeal key (spillIv spn q.2) (head ++ leBytes 4 q.2) (padTo 0#8 4096 q.1)).2
      ∧ (sealChunk key head spn q).length = 4112 := by
  obtain ⟨hcipher, htag⟩ := gcmSeal_length key (spillIv spn q.2) (head ++ leBytes 4 q.2) (padTo 0#8 4096 q.1) 256 hkey (length_spillIv _ _) (by simp)
  refine ⟨List.take_left' hcipher, List.drop_left' hcipher, ?_⟩
  rw [sealChunk, List.length_append, hcipher, htag]

/-- The chunks of an image open, one after another. -/
theorem openChunks_sealed (spn k : Nat) (l : List (List Byte)) :
    (openChunks key head spn k ((l.zipIdx k).map (sealChunk key head spn))).2 = true := by
  induction l generalizing k with
  | nil => rfl
  | cons c l ih =>
    obtain ⟨hcipher, htag, -⟩ := sealChunk_parts (head := head) hkey spn (c, k)
    have hopen := gcmOpen_gcmSeal key (spillIv spn k) (head ++ leBytes 4 k) (padTo 0#8 4096 c)
    rw [List.zipIdx_cons, List.map_cons, openChunks, hcipher, htag]
    obtain ⟨m, hm⟩ := Option.isSome_iff_exists.mp hopen
    rw [hm]
    exact ih (k + 1)

/-- An image is its header, the header's tag and its chunks. -/
theorem spillImage_parts (hhead : head.length = 112) (spn nch : Nat) (plain : List Byte) (hchunks : (chunksOf 4096 nch plain).length = nch) :
    (spillImage key head spn nch plain).take 112 = head
      ∧ ((spillImage key head spn nch plain).drop 112).take 16 = (gcmSeal key (spillIv spn (2 ^ 32 - 1)) head []).2
      ∧ chunksOf 4112 nch ((spillImage key head spn nch plain).drop 128)
        = ((chunksOf 4096 nch plain).zipIdx 0).map (sealChunk key head spn) := by
  obtain ⟨-, htag⟩ := gcmSeal_length key (spillIv spn (2 ^ 32 - 1)) head [] 0 hkey (length_spillIv _ _) rfl
  have himage : spillImage key head spn nch plain = head ++ ((gcmSeal key (spillIv spn (2 ^ 32 - 1)) head []).2
      ++ (((chunksOf 4096 nch plain).zipIdx 0).map (sealChunk key head spn)).flatten) := List.append_assoc _ _ _
  have hdrop : (spillImage key head spn nch plain).drop 112 = (gcmSeal key (spillIv spn (2 ^ 32 - 1)) head []).2
      ++ (((chunksOf 4096 nch plain).zipIdx 0).map (sealChunk key head spn)).flatten := by rw [himage, List.drop_left' hhead]
  refine ⟨by rw [himage, List.take_left' hhead], by rw [hdrop, List.take_left' htag], ?_⟩
  have hrest : (spillImage key head spn nch plain).drop 128 = (((chunksOf 4096 nch plain).zipIdx 0).map (sealChunk key head spn)).flatten := by
    rw [show 128 = 112 + 16 from rfl, ← List.drop_drop, hdrop, List.drop_left' htag]
  have hcut := chunksOf_of_flatten (n := 4112) (by decide) (((chunksOf 4096 nch plain).zipIdx 0).map (sealChunk key head spn)) fun c hc => by
    obtain ⟨q, -, rfl⟩ := List.mem_map.mp hc
    obtain ⟨-, -, hlen⟩ := sealChunk_parts (head := head) hkey spn q
    exact hlen
  rw [List.length_map, List.length_zipIdx, hchunks] at hcut
  rw [hrest, hcut]

end

/-! ### The fields of an image's header (R476) -/

section
variable {p x spn base first count hdim mode nch : Nat}

theorem spillHead_eq : spillHead p x spn base first count hdim mode nch = leBytes 4 1 ++ leBytes 1 p ++ leBytes 1 x ++ leBytes 2 0 ++ leBytes 4 spn
    ++ leBytes 4 base ++ leBytes 4 first ++ leBytes 4 count ++ leBytes 2 hdim ++ leBytes 2 0 ++ leBytes 4 mode ++ leBytes 4 nch ++ List.replicate 76 0#8 := by
  have hlen : (leBytes 4 1 ++ leBytes 1 p ++ leBytes 1 x ++ leBytes 2 0 ++ leBytes 4 spn ++ leBytes 4 base ++ leBytes 4 first ++ leBytes 4 count
      ++ leBytes 2 hdim ++ leBytes 2 0 ++ leBytes 4 mode ++ leBytes 4 nch).length = 36 := by simp
  unfold spillHead padTo
  rw [hlen, List.take_of_length_le]
  rw [List.length_append, hlen, List.length_replicate]

theorem length_spillHead : (spillHead p x spn base first count hdim mode nch).length = 112 := padTo_length _ _ _

/-- The fields of the header read back. -/
theorem spillHead_fields (hspn : spn < 2 ^ 32) (hbase : base < 2 ^ 32) (hfirst : first < 2 ^ 32) (hcount : count < 2 ^ 32) (hhdim : hdim < 2 ^ 16)
    (hmode : mode < 2 ^ 32) (hnch : nch < 2 ^ 32) : let head := spillHead p x spn base first count hdim mode nch
    le head 8 4 = spn ∧ le head 12 4 = base ∧ le head 16 4 = first ∧ le head 20 4 = count ∧ le head 24 2 = hdim ∧ le head 28 4 = mode
      ∧ le head 32 4 = nch := by
  intro head
  have hhead : head = _ := spillHead_eq
  simp only [List.append_assoc] at hhead
  refine ⟨?_, ?_, ?_, ?_, ?_, ?_, ?_⟩
  · simpa [le, hhead, List.drop_append, leNat_leBytes, List.drop_eq_nil_of_le] using hspn
  · simpa [le, hhead, List.drop_append, leNat_leBytes, List.drop_eq_nil_of_le] using hbase
  · simpa [le, hhead, List.drop_append, leNat_leBytes, List.drop_eq_nil_of_le] using hfirst
  · simpa [le, hhead, List.drop_append, leNat_leBytes, List.drop_eq_nil_of_le] using hcount
  · simpa [le, hhead, List.drop_append, leNat_leBytes, List.drop_eq_nil_of_le] using hhdim
  · simpa [le, hhead, List.drop_append, leNat_leBytes, List.drop_eq_nil_of_le] using hmode
  · simpa [le, hhead, List.drop_append, leNat_leBytes, List.drop_eq_nil_of_le] using hnch

end

end Sys2Proof.Machine

namespace Sys2Proof.Machine

/-! ### The pages of entries (R205, R209, R236, R476) -/

section
variable {s t : State} {l : List Piece} {p x n : Nat}

theorem State.SameBut.holds_eq (h : s.SameBut l t) (hregs : .regs ∉ l) (hmigr : .migr ∉ l) (c : Nat) : t.holds c = s.holds c := by
  unfold State.holds State.moves State.paused State.fld
  rw [h.migr.resolve_left hmigr, h.rd_eq hregs]

/-- What the checks of R236 read of a transfer in byte form: registers, cores, and which channels the partition owns. -/
theorem State.destCheck_congr (h : s.SameBut l t) (hregs : .regs ∉ l) (hcores : .cores ∉ l)
    (howns : ∀ k, (t.part p).owns k = (s.part p).owns k) (c : Nat) {a : Nat} (ha : a < 2 ^ 22) :
    t.destCheck p x c (BitVec.ofNat 32 a) n = s.destCheck p x c (BitVec.ofNat 32 a) n := by
  unfold State.destCheck State.destRange
  simp only [howns, h.slotOf_eq hcores, h.zeroing_eq hregs, h.bound_eq hregs, aPlane_ofNat ha, Bool.false_eq_true, ↓reduceIte]

/-- An accepted transfer in byte form is one range. -/
theorem State.destCheck_bytes {c : Nat} {w : Word} (hw : aPlane w = false) {d : Dest} (h : s.destCheck p x c w n = .ok d) :
    ∃ k, d = (k, none, [(aOff w, n)]) := by
  unfold State.destCheck at h
  split at h
  · cases h
  · split at h
    · cases h
    · next k _ =>
      split at h
      · cases h
      · unfold State.destRange at h
        simp only [hw, Bool.false_eq_true, ↓reduceIte] at h
        split at h
        · cases h
        · cases h
          exact ⟨k, rfl⟩

theorem page_addr_lt (v : Nat) : v % 2 ^ 22 < 2 ^ 22 := Nat.mod_lt _ (by decide)

theorem State.pageRanges_congr (h : s.SameBut l t) (hregs : .regs ∉ l) (hcores : .cores ∉ l)
    (howns : ∀ k, (t.part p).owns k = (s.part p).owns k) (gs : List (Nat × Nat)) : t.pageRanges p x n gs = s.pageRanges p x n gs := by
  induction gs with
  | nil => rfl
  | cons g gs ih => rw [State.pageRanges, State.pageRanges, State.destCheck_congr h hregs hcores howns _ (page_addr_lt _), ih]

theorem State.pageRanges_bytes {gs : List (Nat × Nat)} {rs : List (Nat × Dest)} (h : s.pageRanges p x n gs = .ok rs) :
    ∀ r ∈ rs, ∃ k a, r.2 = (k, none, [(a, n)]) := by
  induction gs generalizing rs with
  | nil =>
    cases h
    exact fun r hr => absurd hr List.not_mem_nil
  | cons g gs ih =>
    rw [State.pageRanges] at h
    split at h
    · cases h
    · next d hd =>
      split at h
      · cases h
      · next ds hds =>
        cases h
        intro r hr
        rcases List.mem_cons.mp hr with rfl | hr
        · obtain ⟨k, hk⟩ := State.destCheck_bytes (aPlane_ofNat (page_addr_lt _)) hd
          exact ⟨k, _, hk⟩
        · exact ih hds r hr

theorem State.groupPages_congr (hown : t.own = s.own) (hslice : ∀ o, t.sliceU32 p o = s.sliceU32 p o)
    (hplaceN : (t.ctx p x).placeN = (s.ctx p x).placeN) (hplaceOff : (t.ctx p x).placeOff = (s.ctx p x).placeOff) :
    t.groupPages p x = s.groupPages p x := by
  funext e
  unfold State.groupPages
  simp only [hown, hslice, hplaceN, hplaceOff]

theorem State.pageBytes_congr (hmode : (t.ctx p x).mode = (s.ctx p x).mode) (d : Nat) : t.pageBytes p x d = s.pageBytes p x d := by
  unfold State.pageBytes
  rw [hmode]

/-- Entries that are VALID and current have no status but OK. -/
theorem State.entriesStatus_ok {es : List Nat} (h : ∀ e ∈ es, bitOf e 31 = true ∧ ∃ g, s.groupOf p e = some g ∧ g.gen = e % 256) (inv : Nat) :
    s.entriesStatus p inv es = stOk := by
  unfold State.entriesStatus
  rw [if_neg ?_, if_neg ?_]
  · rw [Bool.not_eq_true, List.any_eq_false]
    intro e he
    obtain ⟨-, g, hg, hgen⟩ := h e he
    simp [hg, hgen]
  · rw [Bool.not_eq_true, List.any_eq_false]
    exact fun e he => by simp [(h e he).1]

/-- Reading pages of a device none of whose words is marked gives their bytes and changes nothing. -/
theorem State.pullRanges_unmarked (hue : s.ue = []) (hce : s.ce = []) {rs : List (Nat × Dest)} (h : ∀ r ∈ rs, ∃ k a, r.2 = (k, none, [(a, n)])) :
    ∃ bs, s.pullRanges n rs = (s, none, bs) ∧ bs.length = rs.length * n := by
  induction rs with
  | nil => exact ⟨[], rfl, by simp⟩
  | cons r rs ih =>
    obtain ⟨bs, hpull, hlen⟩ := ih fun q hq => h q (List.mem_cons_of_mem _ hq)
    obtain ⟨k, a, hr⟩ := h r List.mem_cons_self
    refine ⟨s.winBytes r.1 k a n ++ bs, ?_, ?_⟩
    · rw [State.pullRanges, hr, State.checkRanges_unmarked hue hce]
      dsimp only
      rw [hpull, State.take_bytes]
    · have hwin : (s.winBytes r.1 k a n).length = n := Memory.bytes_length _ _ _
      rw [List.length_append, hwin, hlen, List.length_cons, Nat.add_mul, Nat.one_mul, Nat.add_comm]

theorem State.putWin_sameBut (s : State) (c k a : Nat) (bs : List Byte) : s.SameBut [.scratch, .ue, .ce, .cores, .words] (s.putWin c k a bs) :=
  s.putPhys_sameBut c (s.phys c k a) bs

/-- A transfer in byte form writes into its window. -/
theorem State.place_sameBut (s : State) (c k a : Nat) (bs : List Byte) :
    s.SameBut [.scratch, .ue, .ce, .cores, .words, .trc] (s.place c (k, none, [(a, n)]) bs) := by
  have hput : (uPut c k (none, [(a, n)]) bs).go s = (.ok (), s.putWin c k a (bs.take n)) :=
    U.go_bind_ok (show (modify (fun s => s.putWin c k a (bs.take n)) : U PUnit).go s = (.ok ⟨⟩, _) from rfl) _
  rw [State.place, hput]
  exact ((s.putWin_sameBut _ _ _ _).mono (by simp)).trans ((State.SameBut.count _ _ _ _ _ _).mono (by simp))

/-- Pages are the only thing that poured bytes change. -/
theorem State.pour_sameBut (s : State) {rs : List (Nat × Dest)} (h : ∀ r ∈ rs, ∃ k a, r.2 = (k, none, [(a, n)])) (bs : List Byte) :
    s.SameBut [.scratch, .ue, .ce, .cores, .words, .trc] (s.pour n rs bs) := by
  induction rs generalizing s bs with
  | nil => exact .refl s _
  | cons r rs ih =>
    obtain ⟨k, a, hr⟩ := h r List.mem_cons_self
    rw [State.pour]
    split
    · exact .refl s _
    · refine .trans ?_ (ih _ (fun q hq => h q (List.mem_cons_of_mem _ hq)) _)
      rw [hr]
      exact s.place_sameBut _ _ _ _

end

/-! ### SPILL and RESTORE (R476, R477) -/

section
variable {s : State} {id hdim n nch : Nat} {d : Desc} {es : List Nat} {rs : List (Nat × Dest)}

/-- The groups of some entries all have one head dimension. -/
theorem eraseDups_const {α : Type} [BEq α] [LawfulBEq α] {l : List α} {a : α} (hl : l ≠ []) (h : ∀ b ∈ l, b = a) : l.eraseDups = [a] := by
  cases l with
  | nil => exact absurd rfl hl
  | cons b l =>
    obtain rfl := h b List.mem_cons_self
    have hrest : l.filter (fun c => !c == b) = [] := List.filter_eq_nil_iff.mpr fun c hc => by simp [h c (List.mem_cons_of_mem _ hc)]
    rw [List.eraseDups_cons, hrest]
    rfl

/-- A context takes its next spill number. -/
def State.spun (s : State) (d : Desc) : State := s.onCtx d.part d.ctx fun t => { t with spn := (s.ctx d.part d.ctx).spn + 1 }

theorem spill_completes (hue : s.ue = []) (hce : s.ce = []) (hnamed : NamedEntries s d es) (hpages : PagesOf s d es hdim n rs)
    (hnch : nch = (rs.length * n + 4095) / 4096) (hready : s.ready id 10 = some d) (hspn : (s.ctx d.part d.ctx).spn + 1 < 2 ^ 32)
    (hsome : es ≠ []) (hdims : ∀ e ∈ es, ∃ g, s.groupOf d.part e = some g ∧ g.hdim = hdim) (hroom : 128 + 4112 * nch ≤ d.at_ 16 4)
    (hgood : s.hostBad (d.at_ 8 8) (128 + 4112 * nch) = false) :
    ∃ t, exec (.spill id) s = .next t ∧ t.host.descs = finished s.host.descs id 0 (leBytes 4 (128 + 4112 * nch))
      ∧ (t.ctx d.part d.ctx).spn = (s.ctx d.part d.ctx).spn + 1 := by
  obtain ⟨hes, hentries, hvalid⟩ := hnamed
  obtain ⟨hn, hpos, hranges, hfree⟩ := hpages
  have hspun : s.SameBut [.parts] (s.spun d) := .onCtx _ _ _ _
  obtain ⟨m, hpart⟩ := s.part_onCtx d.part d.ctx d.part fun t => { t with spn := (s.ctx d.part d.ctx).spn + 1 }
  have hctx : (s.spun d).ctx d.part d.ctx = { s.ctx d.part d.ctx with spn := (s.ctx d.part d.ctx).spn + 1 } := s.ctx_onCtx_self _ _ _
  have howns (k : Nat) : ((s.spun d).part d.part).owns k = (s.part d.part).owns k := by rw [State.spun, hpart]; rfl
  have hmask : ((s.spun d).part d.part).chmask = (s.part d.part).chmask := by rw [State.spun, hpart]
  have hslice (o : Nat) : (s.spun d).sliceU32 d.part o = s.sliceU32 d.part o := by
    rw [State.sliceU32, State.sliceU32, State.sliceBytes_congr hmask fun _ => rfl]
  have hgroups : (s.spun d).groupPages d.part d.ctx = s.groupPages d.part d.ctx :=
    State.groupPages_congr rfl hslice (by rw [hctx]) (by rw [hctx])
  have hbytes := State.pageBytes_congr (p := d.part) (x := d.ctx) (t := s.spun d) (s := s) (by rw [hctx]) hdim
  have hsame := State.pageRanges_congr (p := d.part) (x := d.ctx) (n := n) hspun (by simp) (by simp) howns
  have hone : (es.map fun e => ((s.groupOf d.part e).map (·.hdim)).getD 0).eraseDups = [hdim] := by
    refine eraseDups_const (by simpa using hsome) fun v hv => ?_
    obtain ⟨e, he, rfl⟩ := List.mem_map.mp hv
    obtain ⟨g, hg, hgd⟩ := hdims e he
    rw [hg]
    exact hgd
  obtain ⟨plain, hpull, hlen⟩ := State.pullRanges_unmarked (s := s.spun d) (n := n) hue hce (State.pageRanges_bytes hranges)
  let head := spillHead d.part d.ctx ((s.ctx d.part d.ctx).spn + 1) (d.at_ 20 4) (d.at_ 24 4) (d.entries 20).length hdim
    ((s.spun d).ctx d.part d.ctx).mode nch
  let image := spillImage (keyBytes ((s.spun d).ctx d.part d.ctx).keyAt) head ((s.ctx d.part d.ctx).spn + 1) nch plain
  let put := ((s.spun d).hostWrite (d.at_ 8 8) image).1
  have himage : image.length = 128 + 4112 * nch :=
    spillImage_length _ _ _ _ _ (keyBytes_length _) length_spillHead (length_chunksOf_ceil (by rw [hlen]; omega))
  have hceil : ceilDiv (rs.length * n) 4096 = nch := hnch.symm
  obtain ⟨hgone, hdescs, -⟩ := State.hostWrite_spec (s := s.spun d) (a := d.at_ 8 8) (bs := image) (by rw [himage]; exact hgood)
  have hwrite : (s.spun d).hostWrite (d.at_ 8 8) image = (put, true) := Prod.ext rfl hgone
  have hexec : exec (.spill id) s = .next ((put.onCtx d.part d.ctx fun t => { t with
      ledger := ledgerPut t.ledger (d.at_ 20 4) (d.at_ 24 4) (d.entries 20).length ((s.ctx d.part d.ctx).spn + 1) }).finish id stOk
        (leBytes 4 (128 + 4112 * nch))) := by
    refine congrArg Host.Outcome.next ?_
    dsimp only
    rw [hready]
    dsimp only
    rw [← hes, State.entriesStatus_ok hvalid, hentries, if_neg (by decide), if_neg (by decide), hone, if_neg (by simp; omega)]
    rw [show (s.onCtx d.part d.ctx fun t => { t with spn := (s.ctx d.part d.ctx).spn + 1 }) = s.spun d from rfl, List.headD_cons, hbytes, ← hn,
      if_neg hpos, hgroups, hsame, hranges]
    have hnone : rs.any (fun r => (s.spun d).holds r.1) = false := List.any_eq_false.mpr fun r hr => by
      change ¬s.holds r.1 = true
      rw [hfree r hr]
      decide
    dsimp only
    rw [if_neg (by rw [hnone]; decide), hceil, if_neg (by omega), hpull]
    dsimp only
    dsimp only [image, head] at hwrite
    rw [hwrite]
  refine ⟨_, hexec, ?_, ?_⟩
  · rw [State.finish_descs]
    exact congrArg (finished · id 0 _) hdescs
  · have hput : (s.spun d).SameBut [.host, .trc] put := State.hostWrite_sameBut _ _ _
    rw [((put.onCtx d.part d.ctx _).finish_sameBut id stOk _).ctx_eq (by simp), State.ctx_onCtx_self, hput.ctx_eq (by simp), hctx]

/-- The groups that entries name take a head dimension (R477). -/
def PartSt.withHdim (es : List Nat) (hdim : Nat) (q : PartSt) : PartSt := { q with pool := q.pool.map (fun g =>
    if es.any (fun e => bitsOf e 29 20 == g.off && bitsOf e 19 8 == g.slot) then { g with hdim := hdim } else g) }

theorem restore_completes {m : Nat} {plain : List Byte} (hnamed : NamedEntries s d es) (hpages : PagesOf s d es hdim n rs)
    (hnch : nch = (rs.length * n + 4095) / 4096) (hready : s.ready id 11 = some d) (hgood : s.hostBad (d.at_ 8 8) (d.at_ 16 4) = false)
    (hhdim : hdim < 2 ^ 16) (hplain : plain.length = rs.length * n) (hcount : nch < 2 ^ 32) (hlen : 128 + 4112 * nch = d.at_ 16 4) (hm : m < 2 ^ 32)
    (hmode : (s.ctx d.part d.ctx).mode < 2 ^ 32)
    (hledger : (d.at_ 20 4, d.at_ 24 4, (d.entries 20).length, m) ∈ (s.ctx d.part d.ctx).ledger)
    (himage : s.host.mem.bytes (d.at_ 8 8) (d.at_ 16 4) = spillImage (keyBytes (s.ctx d.part d.ctx).keyAt)
      (spillHead d.part d.ctx m (d.at_ 20 4) (d.at_ 24 4) (d.entries 20).length hdim (s.ctx d.part d.ctx).mode nch) m nch plain) :
    ∃ t, exec (.restore id) s = .next t ∧ t.host.descs = finished s.host.descs id 0 (leBytes 4 (128 + 4112 * nch)) := by
  obtain ⟨hes, hentries, hvalid⟩ := hnamed
  obtain ⟨hn, hpos, hranges, hfree⟩ := hpages
  have hread := State.dmaRead_good hgood
  rw [himage] at hread
  have hcounted : s.SameBut [.trc] (s.count none 0 none 0x42 (d.at_ 16 4)) := .count _ _ _ _ _ _
  generalize s.count none 0 none 0x42 (d.at_ 16 4) = counted at hread hcounted
  have hctx := hcounted.ctx_eq (by simp) d.part d.ctx
  have hpart := hcounted.part_eq (by simp) d.part
  have hslice (o : Nat) : counted.sliceU32 d.part o = s.sliceU32 d.part o := by
    rw [State.sliceU32, State.sliceU32, State.sliceBytes_of_sameBut hcounted (by simp) (by simp)]
  have hown : counted.own = s.own := by rw [State.own, State.own, State.fld, State.fld, hcounted.rd_eq (by simp)]; rfl
  have hgroups : counted.groupPages d.part d.ctx = s.groupPages d.part d.ctx := State.groupPages_congr hown hslice (by rw [hctx]) (by rw [hctx])
  have hbytes := State.pageBytes_congr (p := d.part) (x := d.ctx) (t := counted) (s := s) (by rw [hctx]) hdim
  have hsame := State.pageRanges_congr (p := d.part) (x := d.ctx) (n := n) hcounted (by simp) (by simp) (fun k => by rw [hpart])
  have hword (i : Nat) : d.at_ i 4 < 2 ^ 32 := (leNat_lt _).trans_le (Nat.pow_le_pow_right (by decide) (List.length_take_le _ _))
  have hnamedCount : (d.entries 20).length < 2 ^ 32 := by
    unfold Desc.entries
    rw [List.length_map, List.length_range]
    exact hword _
  obtain ⟨hspnField, hbaseField, hfirstField, hcountField, hhdimField, hmodeField, hnchField⟩ :=
    spillHead_fields (p := d.part) (x := d.ctx) hm (hword 20) (hword 24) hnamedCount hhdim hmode hcount
  have hheadLen := length_spillHead (p := d.part) (x := d.ctx) (spn := m) (base := d.at_ 20 4) (first := d.at_ 24 4) (count := (d.entries 20).length)
    (hdim := hdim) (mode := (s.ctx d.part d.ctx).mode) (nch := nch)
  generalize spillHead d.part d.ctx m (d.at_ 20 4) (d.at_ 24 4) (d.entries 20).length hdim (s.ctx d.part d.ctx).mode nch = head at *
  have hchunks : (chunksOf 4096 nch plain).length = nch := length_chunksOf_ceil (by rw [hplain]; omega)
  obtain ⟨hhead, htag, hcut⟩ := spillImage_parts (head := head) (keyBytes_length (s.ctx d.part d.ctx).keyAt) hheadLen m nch plain hchunks
  have hopen := openChunks_sealed (head := head) (keyBytes_length (s.ctx d.part d.ctx).keyAt) m 0 (chunksOf 4096 nch plain)
  let opened := (openChunks (keyBytes (s.ctx d.part d.ctx).keyAt) head m 0 (((chunksOf 4096 nch plain).zipIdx 0).map
      (sealChunk (keyBytes (s.ctx d.part d.ctx).keyAt) head m))).1
  have hopened : openChunks (keyBytes (s.ctx d.part d.ctx).keyAt) head m 0 (((chunksOf 4096 nch plain).zipIdx 0).map
      (sealChunk (keyBytes (s.ctx d.part d.ctx).keyAt) head m)) = (opened, true) := Prod.ext rfl hopen
  have hverified : (decide (128 + 4112 * nch ≤ d.at_ 16 4)
      && (gcmSeal (keyBytes (s.ctx d.part d.ctx).keyAt) (spillIv m (2 ^ 32 - 1)) head []).2
        == (gcmSeal (keyBytes (s.ctx d.part d.ctx).keyAt) (spillIv m (2 ^ 32 - 1)) head []).2
      && (s.ctx d.part d.ctx).ledger.contains (d.at_ 20 4, d.at_ 24 4, (d.entries 20).length, m)
      && (s.ctx d.part d.ctx).mode == (s.ctx d.part d.ctx).mode && (d.entries 20).length == (d.entries 20).length) = true := by
    simp [hlen, hledger]
  have hnone : rs.any (fun r => counted.holds r.1) = false := List.any_eq_false.mpr fun r hr => by
    rw [hcounted.holds_eq (by simp) (by simp), hfree r hr]
    decide
  let poured := counted.pour n rs (opened.take (rs.length * n))
  have hpoured := counted.pour_sameBut (State.pageRanges_bytes hranges) (opened.take (rs.length * n))
  have hexec : exec (.restore id) s = .next (((poured.onPart d.part (.withHdim es hdim)).countLoad d.part d.ctx).finish id stOk
      (leBytes 4 (128 + 4112 * nch))) := by
    refine congrArg Host.Outcome.next ?_
    dsimp only
    rw [hready]
    dsimp only
    rw [← hes, State.entriesStatus_ok hvalid, hentries, if_neg (by decide), if_neg (by decide), hread]
    dsimp only
    rw [hhead, htag, hspnField, hbaseField, hfirstField, hcountField, hhdimField, hmodeField, hnchField, hcut, hverified, if_neg (by decide),
      hbytes, ← hn, if_neg hpos, hgroups, hsame, hranges]
    dsimp only
    rw [hnone, if_neg (by decide), hopened]
    rfl
  refine ⟨_, hexec, ?_⟩
  rw [State.finish_descs]
  change finished poured.host.descs _ _ _ = _
  rw [hpoured.host.resolve_left (by simp), hcounted.host.resolve_left (by simp)]
  rfl

end

end Sys2Proof.Machine

namespace Sys2Proof.Machine

/-! ### ATTEST (R467, R473) -/

theorem length_quoteCtx (t : CtxSt) : (quoteCtx t).length = 96 := by
  unfold quoteCtx
  dsimp only
  split
  · exact List.length_replicate
  · simp

theorem length_quotePart (x : PartSt) : (quotePart x).length = 816 := by
  have hctxs : ((List.range 8).flatMap fun k => quoteCtx (x.ctx k)).length = 768 :=
    length_flatMap_of_all fun _ _ => length_quoteCtx _
  unfold quotePart
  split
  · exact List.length_replicate
  · simp only [List.length_append, leBytes_length, padTo_length, hctxs]

theorem State.length_quoteBody (s : State) (fn leaf : Nat) {nonce : List Byte} (h : nonce.length = 32) : (s.quoteBody fn leaf nonce).length = 3392 := by
  have hparts : ((List.range 4).flatMap fun p => if fn = 0 ∨ fn = p + 1 then quotePart (s.part p) else List.replicate 816 0#8).length = 3264 := by
    refine length_flatMap_of_all (n := 816) fun p _ => ?_
    split
    · exact length_quotePart _
    · exact List.length_replicate
  unfold State.quoteBody
  simp only [List.length_append, leBytes_length, padTo_length, shake256_length, hparts, h]

theorem State.pair_wrPair (s : State) {lo hi v : Nat} (hne : lo ≠ hi) (hv : v < 2 ^ 64) : (s.wrPair lo hi v).pair lo hi = v := by
  unfold State.wrPair State.pair
  rw [State.rd_wr_self, State.rd_wr_ne _ _ hne, State.rd_wr_self, BitVec.toNat_ofNat, BitVec.toNat_ofNat]
  omega

section
variable {s : State} {id : Nat} {d : Desc}

theorem attest_completes {root : List Byte} {leaf : Nat} (hready : s.ready id 13 = some d) (hraw : d.raw.length = 64)
    (hstore : s.bit R.SEC_STAT F.SEC_STAT_STORE_OK = true) (hleaves : s.bit R.SEC_STAT F.SEC_STAT_EXHAUST = false) (hroot : s.sec.root = some root)
    (hleaf : leaf = s.pair R.SEC_LEAF_LO R.SEC_LEAF_HI) (hlt : leaf < 2 ^ 40 - 1) (hreserved : leaf ≠ s.pair R.SEC_HWM_LO R.SEC_HWM_HI)
    (hroom : 13285 ≤ d.at_ 16 4) (hgood : s.hostBad (d.at_ 8 8) 13285 = false) :
    ∃ t, exec (.attest id) s = .next t ∧ t.host.descs = finished s.host.descs id 0 (leBytes 4 13285)
      ∧ t.pair R.SEC_LEAF_LO R.SEC_LEAF_HI = leaf + 1 := by
  let body := s.quoteBody d.fn leaf ((d.raw.drop 24).take 32)
  let quote := body ++ (beBytes 5 leaf ++ identitySign root leaf body)
  have hlen : quote.length = 13285 := by
    have hbody : body.length = 3392 := s.length_quoteBody _ _ (by simp [hraw])
    have hcount : (beBytes 5 leaf).length = 5 := by simp [beBytes]
    rw [List.length_append, List.length_append, hbody, hcount, identitySign_length]
  let used := s.wrPair R.SEC_LEAF_LO R.SEC_LEAF_HI (leaf + 1)
  let spent := if leaf + 1 = 2 ^ 40 - 1 then used.setBit R.SEC_STAT F.SEC_STAT_EXHAUST else used
  have hspent : used.SameBut [.regs] spent ∧ spent.pair R.SEC_LEAF_LO R.SEC_LEAF_HI = used.pair R.SEC_LEAF_LO R.SEC_LEAF_HI := by
    unfold spent
    split
    · refine ⟨.wr _ _ _, ?_⟩
      unfold State.pair State.setBit
      rw [State.rd_setFld_ne _ _ _ (by decide), State.rd_setFld_ne _ _ _ (by decide)]
    · exact ⟨.refl _ _, rfl⟩
  obtain ⟨hregs, hpair⟩ := hspent
  have hhost : spent.host = s.host := hregs.host.resolve_left (by simp)
  obtain ⟨hgone, hdescs, -⟩ := State.hostWrite_spec (s := spent) (a := d.at_ 8 8) (bs := quote) (by rw [hlen, State.hostBad, hhost]; exact hgood)
  let put := (spent.hostWrite (d.at_ 8 8) quote).1
  have hwrite : spent.hostWrite (d.at_ 8 8) quote = (put, true) := Prod.ext rfl hgone
  have hput : spent.SameBut [.host, .trc] put := State.hostWrite_sameBut _ _ _
  have hexec : exec (.attest id) s = .next (put.finish id stOk (leBytes 4 13285)) := by
    refine congrArg Host.Outcome.next ?_
    dsimp only
    rw [hready]
    dsimp only
    rw [← hleaf, if_neg (by unfold quoteLen; omega), if_neg (by simp [hstore, hleaves]), hroot]
    dsimp only
    rw [if_neg hreserved]
    dsimp only [spent, used, quote, body] at hwrite
    rw [hwrite]
    rfl
  refine ⟨_, hexec, ?_, ?_⟩
  · rw [State.finish_descs, hdescs, hhost]
    rfl
  · have hkept : (put.finish id stOk (leBytes 4 13285)).pair R.SEC_LEAF_LO R.SEC_LEAF_HI = spent.pair R.SEC_LEAF_LO R.SEC_LEAF_HI := by
      unfold State.pair
      rw [(put.finish_sameBut _ _ _).rd_eq (by simp), (put.finish_sameBut _ _ _).rd_eq (by simp), hput.rd_eq (by simp), hput.rd_eq (by simp)]
    rw [hkept, hpair]
    exact s.pair_wrPair (by decide) (by omega)

end

/-! ### LOAD_PROGRAM (R293, R471, R472) -/

theorem mem_finished {l : List Desc} {id status : Nat} {result : List Byte} {f : Desc} (h : f ∈ finished l id status result) (hid : f.id = id) :
    f.st = .done ∧ f.status = status := by
  obtain ⟨e, -, rfl⟩ := List.mem_map.mp h
  split at hid
  · next he => simp [he]
  · next he => exact absurd hid he

/-- A section whose record is good lies at an address of a window. -/
theorem pkgSections_addr {b : List Byte} {r : PkgSection} (hr : r ∈ pkgSections b) (hok : r.ok = true) : r.addr < 2 ^ 22 := by
  obtain ⟨i, -, rfl⟩ := List.mem_map.mp hr
  simp only [Bool.and_eq_true, decide_eq_true_eq] at hok
  exact hok.1.2

theorem State.sectionStatus_congr {s t : State} {l : List Piece} (h : s.SameBut l t) (hregs : .regs ∉ l) (hcores : .cores ∉ l) (hparts : .parts ∉ l)
    (p x : Nat) {r : PkgSection} (hr : r.addr < 2 ^ 22) : t.sectionStatus p x r = s.sectionStatus p x r := by
  unfold State.sectionStatus
  rw [h.ctx_eq hparts, State.destCheck_congr h hregs hcores (fun k => by rw [h.part_eq hparts]) _ hr]

theorem State.SameBut.verifies_eq {s t : State} {l : List Piece} (h : s.SameBut l t) (hregs : .regs ∉ l) (hsec : .sec ∉ l) (e : List Byte) (type : Nat) :
    t.verifies e type = s.verifies e type := by
  unfold State.verifies State.bit
  rw [h.rd_eq hregs, h.sec.resolve_left hsec]

/-- What a verified package leaves of its context's identity (R472). -/
def CtxSt.loaded (e : List Byte) (t : CtxSt) : CtxSt :=
  { t with pkgDig := imageDigest e, progDig := (envBody e).take 32, wtsDig := ((envBody e).drop 32).take 32, serial := le e 12 4, loads := 0 }

/-- A package whose sections are all accepted loads into an idle context. -/
theorem State.loadPackage_loads {s : State} {p x : Nat} {e : List Byte} (hidle : (s.ctx p x).state = .idle)
    (hheader : pkgOk (envBody e) (s.ctx p x).mode = true)
    (hsections : ∀ r ∈ pkgSections (envBody e), r.ok = true ∧ s.sectionStatus p x r = 0) :
    ∃ u : State, s.loadPackage p x e = (u.onCtx p x (.loaded e), stOk) := by
  have hok : (pkgSections (envBody e)).any (fun r => !r.ok) = false := List.any_eq_false.mpr fun r hr => by simp [(hsections r hr).1]
  have hfits : (pkgSections (envBody e)).find? (fun r => s.sectionStatus p x r != stOk) = none := List.find?_eq_none.mpr fun r hr => by
    rw [(hsections r hr).2]
    decide
  unfold State.loadPackage
  dsimp only
  rw [if_neg (by simp [hidle]), hheader, if_neg (by decide), hok, if_neg (by decide), hfits]
  exact ⟨_, rfl⟩

/-! A configuration (R293) -/

theorem State.configureSlot_sameBut (s : State) (c k win entry lim : Nat) :
    s.SameBut [.regs, .cores, .scratch, .ue, .ce] (s.configureSlot c k win entry lim) := by
  have hzero (u : State) (c p n : Nat) : u.SameBut [.regs, .cores, .scratch, .ue, .ce] (u.zeroPhys c p n) := by constructor <;> simp [State.zeroPhys]
  unfold State.configureSlot
  dsimp only
  refine .trans ?_ ((State.setSlotRegs_sameBut _ _ _ _ _ _).mono (by simp))
  refine .trans ?_ ((State.SameBut.wr _ _ _).mono (by simp))
  refine .trans ?_ ((State.SameBut.onCore _ _ _).mono (by simp))
  split
  · exact hzero _ _ _ _
  · exact .refl s _

/-- A partition that is configured stays so as its contexts are written. -/
theorem State.configured_onCtx {s : State} {p : Nat} (h : (s.part p).configured = true) (q x : Nat) (f : CtxSt → CtxSt) :
    ((s.onCtx q x f).part p).configured = true := by
  obtain ⟨m, hm⟩ := s.part_onCtx q x p f
  rw [hm]
  exact h

theorem State.configured_sameBut {s t : State} {l : List Piece} {p : Nat} (h : (s.part p).configured = true) (hsame : s.SameBut l t) (hl : .parts ∉ l) :
    (t.part p).configured = true := by rwa [hsame.part_eq hl]

theorem State.configured_setPart (s : State) (p : Nat) {x : PartSt} (h : x.configured = true) : ((s.setPart p x).part p).configured = true := by
  unfold State.part State.setPart
  rw [FMap.get_set_self]
  exact h

theorem State.configured_configure (s : State) (b dig : List Byte) : ((s.configure b dig).part (le b 0 1)).configured = true := by
  unfold State.configure
  dsimp only
  refine State.configured_sameBut ?_ (.wr _ _ _) (by simp)
  refine State.each_keeps (P := fun u => (u.part (le b 0 1)).configured = true) _ ?_ fun u x hu => ?_
  · refine State.each_keeps (P := fun u => (u.part (le b 0 1)).configured = true) _ ?_ fun u c hu => ?_
    · exact State.configured_setPart _ _ (by rfl)
    · exact State.each_keeps (P := fun u => (u.part (le b 0 1)).configured = true) _ hu fun v k hv =>
        State.configured_sameBut hv (v.configureSlot_sameBut _ _ _ _ _) (by simp)
  · refine State.each_keeps (P := fun u => (u.part (le b 0 1)).configured = true) _ ?_ fun v r hv => ?_
    · exact State.configured_sameBut (State.configured_onCtx (s := u.drawKey.2) hu _ _ _) (.wr _ _ _) (by simp)
    · exact State.configured_sameBut (State.configured_sameBut hv (v.setSlotRegs_sameBut _ _ _ _ _) (by simp)) (State.freshSlot_spec _ _ _ _ _).1 (by simp)

/-- A verified configuration that agrees with the chip, for a partition that is not configured, with no window on its cores, is applied. -/
theorem State.loadConfig_applies {s : State} {d : Desc} {e : List Byte} (hok : cfgOk s.tableMem s.own (envBody e) = true)
    (hfits : s.cfgFits d.part (envBody e) = true) (hreset : (s.part d.part).resetting = none) (hnew : (s.part d.part).configured = false)
    (hcores : ∀ c ∈ cfgChanCores (envBody e), s.fld (R.CORE_STAT (chanOf c) (posOf c)) F.CORE_STAT_ZEROING = 0
      ∧ ∀ k, k < 4 → s.bit (R.CORE_WIN_CFG (chanOf c) (posOf c) k) F.CORE_WIN_CFG_EN = false) :
    ((s.loadConfig d e).part d.part).configured = true ∧ ∀ f ∈ (s.loadConfig d e).host.descs, f.id = d.id → f.st = .done ∧ f.status = 0 := by
  have hp : le (envBody e) 0 1 = d.part := by
    unfold State.cfgFits at hfits
    simp only [Bool.and_eq_true, beq_iff_eq] at hfits
    exact hfits.1.1.1
  let sent := s.setDesc d.id fun d => { d with st := .dispatched, image := e }
  have hzero : (cfgChanCores (envBody e)).any (fun c => sent.fld (statReg c) F.CORE_STAT_ZEROING != 0) = false := List.any_eq_false.mpr fun c hc => by
    change ¬(s.fld (R.CORE_STAT (chanOf c) (posOf c)) F.CORE_STAT_ZEROING != 0) = true
    rw [(hcores c hc).1]
    decide
  have hwindows : (cfgChanCores (envBody e)).any sent.hasWindow = false := List.any_eq_false.mpr fun c hc => by
    rw [Bool.not_eq_true, State.hasWindow, List.any_eq_false]
    intro k hk
    change ¬s.bit (R.CORE_WIN_CFG (chanOf c) (posOf c) k) F.CORE_WIN_CFG_EN = true
    rw [(hcores c hc).2 k (List.mem_range.mp hk)]
    decide
  have hload : s.loadConfig d e = (sent.configure (envBody e) (imageDigest e)).finish d.id stOk ((imageDigest e).take 16) := by
    unfold State.loadConfig
    dsimp only
    rw [hok, hfits, if_neg (by decide), hp, if_neg (by change ¬(s.part d.part).resetting.isSome = true; rw [hreset]; decide),
      if_neg (by change ¬(s.part d.part).configured = true; rw [hnew]; decide), hzero, if_neg (by decide), hwindows, if_neg (by decide)]
  rw [hload]
  refine ⟨?_, fun f hf hid => mem_finished hf hid⟩
  have hconfigured := sent.configured_configure (envBody e) (imageDigest e)
  rw [hp] at hconfigured
  exact State.configured_sameBut hconfigured (State.finish_sameBut _ _ _ _) (by simp)

section
variable {s : State} {id : Nat} {d : Desc} {e b : List Byte}

theorem loadPackage_completes (hfound : s.host.descs.find? (fun d => d.id == id && d.opcode == 1 && (d.st == .checked || d.st == .dispatched)) = some d)
    (hchecked : d.st = .checked) (hb : b = (e.drop 256).take (leNat ((e.drop 8).take 4))) (hgood : s.hostBad (d.at_ 8 8) (d.at_ 16 4) = false)
    (he : e = s.host.mem.bytes (d.at_ 8 8) (d.at_ 16 4)) (hverified : s.verifies e 0 = true) (hkind : d.at_ 20 1 = 0)
    (hstill : ∀ r ∈ pkgSections b, s.holds r.core = false) (hidle : (s.ctx d.part d.ctx).state = .idle)
    (hheader : pkgOk b (s.ctx d.part d.ctx).mode = true) (hsections : ∀ r ∈ pkgSections b, r.ok = true ∧ s.sectionStatus d.part d.ctx r = 0) :
    ∃ t, exec (.loadProgram id) s = .next t ∧ (t.ctx d.part d.ctx).progDig = b.take 32 ∧ (t.ctx d.part d.ctx).loads = 0
      ∧ (∀ f ∈ t.host.descs, f.id = id → f.st = .done ∧ f.status = 0) := by
  obtain rfl : b = envBody e := hb
  have hread := State.dmaRead_good hgood
  rw [← he] at hread
  have hcounted : s.SameBut [.trc] (s.count none 0 none 0x42 (d.at_ 16 4)) := .count _ _ _ _ _ _
  have hverifies := hcounted.verifies_eq (by simp) (by simp) e 0
  rw [hverified] at hverifies
  generalize s.count none 0 none 0x42 (d.at_ 16 4) = counted at hread hcounted hverifies
  have hctx := hcounted.ctx_eq (by simp) d.part d.ctx
  obtain ⟨u, hload⟩ := State.loadPackage_loads (s := counted) (p := d.part) (x := d.ctx) (e := e) (by rw [hctx]; exact hidle) (by rw [hctx]; exact hheader)
    fun r hr => ⟨(hsections r hr).1, by
      rw [State.sectionStatus_congr hcounted (by simp) (by simp) (by simp) _ _ (pkgSections_addr hr (hsections r hr).1)]
      exact (hsections r hr).2⟩
  have hnone : (pkgSections (envBody e)).any (fun r => counted.holds r.core) = false := List.any_eq_false.mpr fun r hr => by
    rw [hcounted.holds_eq (by simp) (by simp), hstill r hr]
    decide
  have hexec : exec (.loadProgram id) s = .next ((u.onCtx d.part d.ctx (.loaded e)).finish id stOk ((imageDigest e).take 16)) := by
    refine congrArg Host.Outcome.next ?_
    dsimp only
    rw [hfound]
    dsimp only
    rw [hchecked, if_neg (by decide), hread]
    dsimp only
    rw [hkind, hverifies, if_neg (by decide), if_neg (by decide), hnone, if_neg (by decide), hload]
    rfl
  refine ⟨_, hexec, ?_, ?_, fun f hf hid => mem_finished hf hid⟩
  · rw [(State.finish_sameBut _ _ _ _).ctx_eq (by simp), State.ctx_onCtx_self]
    rfl
  · rw [(State.finish_sameBut _ _ _ _).ctx_eq (by simp), State.ctx_onCtx_self]
    rfl

theorem loadConfig_completes (hfound : s.host.descs.find? (fun d => d.id == id && d.opcode == 1 && (d.st == .checked || d.st == .dispatched)) = some d)
    (hchecked : d.st = .checked) (hb : b = (e.drop 256).take (leNat ((e.drop 8).take 4))) (hgood : s.hostBad (d.at_ 8 8) (d.at_ 16 4) = false)
    (he : e = s.host.mem.bytes (d.at_ 8 8) (d.at_ 16 4)) (hverified : s.verifies e 1 = true) (hkind : d.at_ 20 1 = 1)
    (hok : cfgOk s.tableMem s.own b = true) (hfits : s.cfgFits d.part b = true) (hreset : (s.part d.part).resetting = none)
    (hnew : (s.part d.part).configured = false)
    (hcores : ∀ c ∈ cfgChanCores b, s.fld (R.CORE_STAT (chanOf c) (posOf c)) F.CORE_STAT_ZEROING = 0
      ∧ ∀ k, k < 4 → s.bit (R.CORE_WIN_CFG (chanOf c) (posOf c) k) F.CORE_WIN_CFG_EN = false) :
    ∃ t, exec (.loadProgram id) s = .next t ∧ (t.part d.part).configured = true ∧ (∀ f ∈ t.host.descs, f.id = id → f.st = .done ∧ f.status = 0) := by
  obtain rfl : b = envBody e := hb
  have hread := State.dmaRead_good hgood
  rw [← he] at hread
  have hcounted : s.SameBut [.trc] (s.count none 0 none 0x42 (d.at_ 16 4)) := .count _ _ _ _ _ _
  generalize s.count none 0 none 0x42 (d.at_ 16 4) = counted at hread hcounted
  have hverifies := hcounted.verifies_eq (by simp) (by simp) e 1
  rw [hverified] at hverifies
  have hpart := hcounted.part_eq (by simp)
  have hrd := hcounted.rd_eq (by simp)
  have hid : d.id = id := by
    have hsome := List.find?_some hfound
    simp only [Bool.and_eq_true, beq_iff_eq] at hsome
    exact hsome.1.1
  have hexec : exec (.loadProgram id) s = .next (counted.loadConfig d e) := by
    refine congrArg Host.Outcome.next ?_
    dsimp only
    rw [hfound]
    dsimp only
    rw [hchecked, if_neg (by decide), hread]
    dsimp only
    rw [hkind, hverifies, if_neg (by decide), if_pos rfl]
  obtain ⟨hconfigured, hdone⟩ := State.loadConfig_applies (s := counted) (d := d) (e := e)
    (by rw [hcounted.tableMem.resolve_left (by simp), State.own, State.fld, State.fld, hrd]; exact hok)
    (by unfold State.cfgFits; simp only [hpart]; exact hfits) (by rw [hpart]; exact hreset) (by rw [hpart]; exact hnew)
    (fun c hc => by simp only [State.fld, State.bit, hrd]; exact hcores c hc)
  exact ⟨_, hexec, hconfigured, fun f hf hfid => hdone f hf (hfid.trans hid.symm)⟩

end

end Sys2Proof.Machine

namespace Sys2Proof.Machine

/-! ### What leaves the state of a stream alone (R342, R349) -/

theorem offObjects_strmStat {t : Nat} (ht : t < 64) : OffObjects (· = R.STRM_STAT t) := fun obj => by
  simp only [valReg, sstatReg, holdReg, R.SYNC_VALUE, R.SYNC_STAT, R.SYNC_HOLDER, R.STRM_STAT]
  omega

theorem State.applySignal_offRegs {P : Nat → Prop} (hP : OffObjects P) (s : State) (obj a : Nat) (hold : Option Nat) :
    s.OffRegs P (s.applySignal obj a hold) := by
  obtain ⟨hval, hstat, hhold⟩ := hP obj
  have hcount : s.OffRegs P (s.countSync obj hold) := (State.SameBut.count s _ _ _ _ _).offRegs
  have hovf (u : State) (v : Nat) : u.OffRegs P (if 2 ^ 32 ≤ v then u.setBit (sstatReg obj) F.SYNC_STAT_OVF else u) := by
    split
    · exact .wr u _ hstat
    · exact .refl u
  have hclear (u : State) : u.OffRegs P (if hold = some (normHold (u.rd (holdReg obj)).toNat) then u.setFld (holdReg obj) F.SYNC_HOLDER_HVALID 0 else u) := by
    split
    · exact .wr u _ hhold
    · exact .refl u
  unfold State.applySignal
  dsimp only
  split
  · exact hcount.trans (.wr _ _ hstat)
  · split
    · exact ((((hcount.trans (hovf _ _)).trans (.wr _ _ hval)).trans (State.noteUndo_offRegs _ _ _ _)).trans (hclear _)).trans
        (State.evaluate_offRegs hP _ _)
    · split
      · exact hcount
      · exact (hcount.trans (State.noteUndo_offRegs _ _ _ _)).trans (State.arrivals_offRegs hP _ _ _)
    · exact ((hcount.trans (.wr _ _ hval)).trans (State.noteUndo_offRegs _ _ _ _)).trans (State.evaluate_offRegs hP _ _)

theorem State.checkDonations_offRegs {P : Nat → Prop} (hP : OffObjects P) (s : State) : s.OffRegs P s.checkDonations := by
  refine s.each_offRegs _ fun u p => ?_
  unfold State.checkDonation
  split
  · exact .refl u
  · dsimp only
    split
    · exact .refl u
    · split
      · unfold State.withdrawStep
        exact ((u.stopCores_offRegs _ _).trans (State.SameBut.onCtx _ _ _ _).offRegs).trans (State.dropWaits_offRegs hP _ _ _)
      · exact .refl u

/-- STATE of a stream is as before. -/
structure State.KeepsStrm (t : Nat) (s u : State) : Prop where
  state : u.strmState t = s.strmState t

section
variable {t : Nat} {s u v : State}

theorem State.KeepsStrm.refl (s : State) : s.KeepsStrm t s := ⟨rfl⟩

theorem State.KeepsStrm.trans (h : s.KeepsStrm t u) (g : u.KeepsStrm t v) : s.KeepsStrm t v := ⟨g.state.trans h.state⟩

theorem State.OffRegs.keepsStrm (h : s.OffRegs (· = R.STRM_STAT t) u) : s.KeepsStrm t u :=
  ⟨by unfold State.strmState State.fld; rw [h.rd _ rfl]⟩

theorem State.each_keepsStrm {α : Type} (s : State) (l : List α) {f : State → α → State} (hf : ∀ (u : State) a, u.KeepsStrm t (f u a)) :
    s.KeepsStrm t (s.each l f) := State.each_keeps (P := fun u => s.KeepsStrm t u) l (.refl s) fun u a h => h.trans (hf u a)

theorem State.KeepsStrm.setFld_other (s : State) {f : Fld} (x : Nat) (hlo : f.lo ≤ f.hi) (hhi : f.hi < 29) :
    s.KeepsStrm t (s.setFld (R.STRM_STAT t) f x) :=
  ⟨s.fld_setFld_other _ _ _ _ hlo (by omega) (by decide) (.inr hhi)⟩

theorem State.KeepsStrm.setFld_cnt (s : State) (f : Fld) (x : Nat) : s.KeepsStrm t (s.setFld (R.STRM_CNT t) f x) :=
  State.OffRegs.keepsStrm (.setFld s f x (by unfold R.STRM_CNT R.STRM_STAT; omega))

theorem State.countStrm_keepsStrm (s : State) : s.KeepsStrm t (s.countStrm t) := by
  unfold State.countStrm
  dsimp only
  exact (State.KeepsStrm.setFld_other (f := F.STRM_STAT_INFLIGHT) s _ (by decide) (by decide)).trans
    (.setFld_other (f := F.STRM_STAT_HELD) _ _ (by decide) (by decide))

theorem State.onStrm_keepsStrm (s : State) (f : StreamSt → StreamSt) : s.KeepsStrm t (s.onStrm t f) := by
  unfold State.onStrm
  refine .trans ?_ (State.countStrm_keepsStrm _)
  exact ⟨rfl⟩

theorem State.strmState_setStrmState (s : State) (t : Nat) {v : Nat} (hv : v < 8) : (s.setStrmState t v).strmState t = v :=
  (s.fld_setFld_self _ _ _ (by decide) (by decide)).trans (Nat.mod_eq_of_lt hv)

theorem State.raiseDoubt_keepsStrm (ht : t < 64) (s : State) (i : Nat) : s.KeepsStrm t (s.raiseDoubt i) :=
  State.OffRegs.keepsStrm ⟨fun a ha => s.rd_raiseDoubt_of_lt i (by rw [ha]; unfold R.STRM_STAT; omega)⟩

/-- A sample that becomes VOID with reason RESET stops nothing. -/
theorem State.makeVoid_reset_keepsStrm (ht : t < 64) (s : State) (id : Nat) : s.KeepsStrm t (s.makeVoid t id vReset) := by
  unfold State.makeVoid
  dsimp only
  rw [if_neg (by decide), if_neg (by decide)]
  exact ((s.onStrm_keepsStrm _).trans (.setFld_cnt _ _ _)).trans (State.raiseDoubt_keepsStrm ht _ _)

/-- The address of an arrival entry has its plane bit clear. -/
theorem State.arrival_aPlane (s : State) (t : Nat) (e : IngEntry) (aborted : Bool) : aPlane (BitVec.ofNat 32 (s.arrival t e aborted).addr) = false := by
  unfold State.arrival
  dsimp only
  have hexp : 2 ^ (planW (s.strm t).plan 18 % 16) ≤ 2 ^ 15 := Nat.pow_le_pow_right (by decide) (by omega)
  have hslot := Nat.mod_lt (e.id % 2 ^ 26) (Nat.two_pow_pos (planW (s.strm t).plan 18 % 16))
  simp only [aPlane, bitOf, BitVec.toNat_ofNat, decide_eq_false_iff_not]
  generalize e.id % 2 ^ 26 % 2 ^ (planW (s.strm t).plan 18 % 16) = k at *
  omega

theorem State.landArrival_keepsStrm (ht : t < 64) (s : State) {a : Arrival} (ha : aPlane (BitVec.ofNat 32 a.addr) = false) (note : Bool) :
    s.KeepsStrm t (s.landArrival t a note) := by
  unfold State.landArrival
  split
  · split
    · exact (State.KeepsStrm.setFld_cnt s _ _).trans (State.raiseDoubt_keepsStrm ht _ _)
    · exact .refl s
  · next d hd =>
    obtain ⟨k, rfl⟩ := State.destCheck_bytes ha hd
    have hplace : s.KeepsStrm t (s.place a.core (k, none, [(aOff (BitVec.ofNat 32 a.addr), 64)]) a.bytes) :=
      (s.place_sameBut _ _ _ _).offRegs.keepsStrm
    dsimp only
    split
    · exact hplace.trans ((State.applySignal_offRegs (offObjects_strmStat ht) _ _ _ _).trans
        (State.checkDonations_offRegs (offObjects_strmStat ht) _)).keepsStrm
    · exact hplace

theorem State.deliverHead_keepsStrm (ht : t < 64) (s : State) : s.KeepsStrm t (s.deliverHead t) := by
  unfold State.deliverHead
  split
  · exact .refl s
  · dsimp only
    have hland (u : State) (e : IngEntry) : u.KeepsStrm t (u.arrive t e) := u.landArrival_keepsStrm ht (u.arrival_aPlane t e false) _
    split
    · refine ((s.onStrm_keepsStrm _).trans (hland _ _)).trans (State.OffRegs.keepsStrm ⟨fun a ha => State.rd_mark _ _ _ ?_⟩)
      rw [ha]
      unfold R.STRM_STAT R.CH_TRC_DROP
      dsimp only
      omega
    · exact (s.onStrm_keepsStrm _).trans (hland _ _)

theorem State.deliverAll_keepsStrm (ht : t < 64) (s : State) (fuel : Nat) : s.KeepsStrm t (s.deliverAll t fuel) := by
  induction fuel generalizing s with
  | zero => exact .refl s
  | succ fuel ih =>
    rw [State.deliverAll]
    split
    · exact (s.deliverHead_keepsStrm ht).trans (ih _)
    · exact .refl s

theorem State.unhold_keepsStrm (ht : t < 64) (s : State) : s.KeepsStrm t (s.unhold t) :=
  (s.onStrm_keepsStrm _).trans (State.deliverAll_keepsStrm ht _ _)

end

/-! ### INGEST_CTL (R342) -/

section
variable {s : State} {id t : Nat} {d : Desc}

theorem State.ctlStream_named (hnamed : d.at_ 8 1 = t) (hmay : d.fn = 0 ∨ s.strmPart t = d.fn - 1) : s.ctlStream d = some t := by
  subst hnamed
  exact if_pos hmay

theorem State.drainedStrm_of_on (hon : s.strmState t = 1) : s.drainedStrm t = s :=
  if_neg fun h => absurd (hon.symm.trans h.1) (by decide)

/-- A STOPPED stream is ON, whatever is delivered as its samples are held no longer. -/
theorem State.resumed_on (ht : t < 64) (hstopped : s.strmState t = 3) :
    (((if s.strmState t = stStopped then s.setStrmState t stOn else s).unhold t).drainedStrm t).strmState t = 1 := by
  have hon : ((s.setStrmState t stOn).unhold t).strmState t = 1 :=
    ((s.setStrmState t stOn).unhold_keepsStrm ht).state.trans (s.strmState_setStrmState t (by decide))
  rw [if_pos (show s.strmState t = stStopped from hstopped), State.drainedStrm_of_on hon]
  exact hon

theorem ingestCtlResume_completes (ht : t < 64) (hready : s.ready id 15 = some d) (hnamed : d.at_ 8 1 = t) (hmay : d.fn = 0 ∨ s.strmPart t = d.fn - 1)
    (hact : d.at_ 9 1 = 0) (hstopped : s.strmState t = 3) : ∃ u, exec (.ingestCtlResume id) s = .next u ∧ u.strmState t = 1 := by
  have hexec : exec (.ingestCtlResume id) s = .next ((((s.setStrmState t stOn).rebase t).unhold t).endCtl id t stOk) := by
    refine congrArg Host.Outcome.next ?_
    rw [hready]
    dsimp only
    rw [hact, if_neg (by decide), State.ctlStream_named hnamed hmay]
    dsimp only
    rw [hstopped, if_neg (by decide)]
  refine ⟨_, hexec, ?_⟩
  exact (((s.setStrmState t stOn).onStrm_keepsStrm _).trans (State.unhold_keepsStrm ht _)).state.trans (s.strmState_setStrmState t (by decide))

theorem ingestCtlReset_completes (ht : t < 64) (hready : s.ready id 15 = some d) (hnamed : d.at_ 8 1 = t) (hmay : d.fn = 0 ∨ s.strmPart t = d.fn - 1)
    (hact : d.at_ 9 1 = 1) (hstopped : s.strmState t = 3) : ∃ u, exec (.ingestCtlReset id) s = .next u ∧ u.strmState t = 1 := by
  let es := (s.strm t).entries.filter fun e => e.held && e.stage == .done && e.reason == 0
  let voided := s.each es fun u e => u.makeVoid t e.id vReset
  let based := (voided.onStrm t fun x => { x with asm := none }).rebase t
  have hbased : s.KeepsStrm t based :=
    ((s.each_keepsStrm es fun u e => u.makeVoid_reset_keepsStrm ht e.id).trans (State.onStrm_keepsStrm _ _)).trans (State.onStrm_keepsStrm _ _)
  have hexec : exec (.ingestCtlReset id) s
      = .next ((((if based.strmState t = stStopped then based.setStrmState t stOn else based).unhold t).drainedStrm t).endCtl id t stOk) := by
    refine congrArg Host.Outcome.next ?_
    rw [hready]
    dsimp only
    rw [hact, if_neg (by decide), State.ctlStream_named hnamed hmay]
    dsimp only
    rw [hstopped, if_neg (by decide)]
  have hon := State.resumed_on ht (hbased.state.trans hstopped)
  exact ⟨_, hexec, hon⟩

theorem ingestCtlStatus_completes (hready : s.ready id 15 = some d) (hnamed : d.at_ 8 1 = t) (hmay : d.fn = 0 ∨ s.strmPart t = d.fn - 1)
    (hact : d.at_ 9 1 = 2) : ∃ u, exec (.ingestCtlStatus id) s = .next u
      ∧ u.host.descs = finished s.host.descs id 0 (leBytes 4 (s.rd (R.STRM_STAT t)).toNat) := by
  have hexec : exec (.ingestCtlStatus id) s = .next (s.endCtl id t stOk) := by
    refine congrArg Host.Outcome.next ?_
    rw [hready]
    dsimp only
    rw [hact, if_neg (by decide), State.ctlStream_named hnamed hmay]
  exact ⟨_, hexec, rfl⟩

end

/-! ### The whole -/

/-- R208, R278, R279, R298, R307, R315: each kind of descriptor does its work. -/
theorem descriptorsComplete : DescriptorsComplete := by
  intro s id d
  refine ⟨fun hready => nop_completes hready, fun c k a n hc ha hn halow hstill howns hslot hzero hin hgood hue hce => ⟨fun hready hquiet => ?_, fun hready => ?_⟩,
    fun g hready hkind hlast hg hgood _ _ => digestRead_completes hready hkind hlast hg hgood,
    fun obj hobj hen hkind hqueue => ⟨fun hready hnone => syncSignal_completes hobj hen hkind hqueue hready hnone,
      fun hready hsem halive harg => syncWait_completes hobj hen hkind hqueue hready hsem halive harg⟩,
    fun w obj hobj hfound hlimit hqueue hwho hkind => syncWaitTimeout_completes hobj hfound hlimit hqueue hwho hkind,
    fun bs hready hon hgood hbs hform hseqs hrange hin => runStep_completes hready hon hgood hbs hform hseqs hrange hin,
    fun hready hdown hexists => frog_completes hready hdown hexists, fun _ offs hin => pagesComplete hin,
    fun root leaf hready hraw hstore hleaves hroot hleaf hlt hreserved hroom hgood =>
      attest_completes hready hraw hstore hleaves hroot hleaf hlt hreserved hroom hgood,
    fun n hdim nch es rs hue hce _ _ hnamed hpages hnch => ⟨fun hready hspn hsome hdims hroom hgood =>
      spill_completes hue hce hnamed hpages hnch hready hspn hsome hdims hroom hgood,
      fun m plain hready hgood hhdim hplain hcount hlen hm hmode hledger himage =>
        restore_completes hnamed hpages hnch hready hgood hhdim hplain hcount hlen hm hmode hledger himage⟩,
    fun e b hfound hchecked _ _ hb hgood he => ⟨fun hverified hkind hstill hidle hheader hsections _ _ =>
      loadPackage_completes hfound hchecked hb hgood he hverified hkind hstill hidle hheader hsections,
      fun hverified hkind hok hfits hreset hnew hcores =>
        loadConfig_completes hfound hchecked hb hgood he hverified hkind hok hfits hreset hnew hcores⟩,
    fun t ht hready hnamed hmay => ⟨fun hact hstopped => ingestCtlResume_completes ht hready hnamed hmay hact hstopped,
      fun hact hstopped => ingestCtlReset_completes ht hready hnamed hmay hact hstopped,
      fun hact => ingestCtlStatus_completes hready hnamed hmay hact⟩⟩
  · exact loadTensor_completes hc ha hn halow hstill howns hslot hzero hin hgood hready hquiet
  · exact storeTensor_completes hc ha hn halow hstill howns hslot hzero hin hgood hue hce hready

/-- Settles O59: each command of these families, from a state in which it can act, is evaluated to the state in which its effect shows. -/
theorem hostAndChannelsComplete : Obligations.HostAndChannelsComplete := ⟨channelsComplete, queuesComplete, descriptorsComplete⟩

end Sys2Proof.Machine
